-- ==== Sys2Proof/Word.lean ====
section
/-! DEFINITION. The word types of the SKV1 registers and the plainest arithmetic on them (spec 00, R3, R4). -/
namespace Sys2Proof

/-- One byte. -/
abbrev Byte := BitVec 8
/-- A 16-bit value: incarnations, message indices. -/
abbrev Half := BitVec 16
/-- A 32-bit register (R18). -/
abbrev W32 := BitVec 32
/-- A 64-bit register or counter. -/
abbrev W64 := BitVec 64

end Sys2Proof
end

