-- ==== Sys2Proof/Syntax.lean ====
section
/-! DEFINITION. The commands of the SKV1, one constructor of Instr per row of spec/opcode_table.json in the
table's order, with the operands that the command carries from outside, and the types of those operands. -/
namespace Sys2Proof

/-- The units and service blocks of Table 1-1, by number. Clusters and spares are numbered d·8 + c. -/
inductive UnitId where
  | package
  | cdie (d : Nat)
  | iodie (i : Nat)
  | link (k : Nat)
  | cluster (c : Nat)
  | stack (s : Nat)
  | near (d : Nat)
  | tile (t : Nat)
  | spare (c : Nat)
  | fport (p : Nat)
  | hport (k : Nat)
  | service (k : Nat)
  deriving DecidableEq, Repr

/-- Who writes a register: a host function or a firmware core (R20, R26, R27). -/
inductive Writer where
  | pf0
  | mgmt
  | sec
  | pf1
  | vf (v : Nat)
  deriving DecidableEq, Repr

/-- What a write puts into a 64-bit register (R24): the whole of it, or the half at byte offset 0 or 4. -/
structure RegPart where
  off   : Nat := 0
  width : Nat := 8
  val   : W64
  deriving DecidableEq, Repr

/-- A protected word of tile SRAM (R86). -/
inductive SramWord where
  | scratch (w : Nat)               -- 64-bit word number of the scratchpad
  | acc (a w : Nat)                 -- 32-bit word of an array's accumulator memory
  | weight (bank a k n : Nat)       -- the three piece registers of a cell
  | scale (bank a n : Nat)          -- a column scale
  | sreg (i : Nat)
  | xreg (i : Nat)                  -- 3 · register + lane / 2
  | td (i : Nat)                    -- 16 · register + 64-bit word of the descriptor
  | plate (i : Nat)                 -- a plate-cache index
  | cache (k : Nat)                 -- a cluster cache word: line · 8 + word
  deriving DecidableEq, Repr

/-- What physics does to a tile while one operation runs (R84 to R86): words whose stored bits become
uncorrectable, single-bit errors corrected, and residue mismatches, each by its column (array · 32 + column) or
lane. -/
structure HwErr where
  upset   : List SramWord := []
  ce      : Nat := 0
  residue : List Nat := []
  deriving DecidableEq, Repr

/-- What physics does to one stored line that a command reads or writes (R269, R271, R274, R293, R302): symbol errors at
unknown positions, erasures beyond those of marked lanes, a tag that fails, the lane on which corrections fall with
the symbols it carries, a failed metadata line of a far line (1 tag, 2 code word), and whether the alarm falls in
the quiet time of R305. `late` is how long the request for the line stayed unanswered (R49): 1 past its soft timeout, 2 past its
hard timeout, 3 the same with a write that its memory applied all the same. `pcDead` says that the line's pseudo-channel returns no
readable line any more (R275). `line` is tier · 2^36 + LINE. -/
structure LineEv where
  line   : Nat
  errs   : Nat := 0
  eras   : Nat := 0
  tagBad : Bool := false
  lane   : Option (Nat × Nat) := none
  mdFail : Nat := 0
  quiet  : Bool := false
  late   : Nat := 0
  pcDead : Bool := false
  deriving DecidableEq, Repr

/-- The kind of request between units (R42). -/
inductive ReqOp where
  | read                          -- a read of memory lines
  | write (bytes : List Byte)     -- a write of the values carried
  | merge (mask : Nat) (bytes : List Byte)   -- a byte-enabled merge of one line
  | message                       -- a transaction message or a register access of the target
  deriving DecidableEq, Repr

/-- A request between units with the fields of Table 2-5. Memory requests name a context and a device virtual
address; `ev` is what physics does to the lines. -/
structure Req where
  src    : UnitId
  tag    : Nat
  tgt    : UnitId
  tgtInc : Nat
  reqInc : Nat
  txn    : Option Nat := none
  ctx    : Nat := 0
  va     : Nat := 0
  len    : Nat := 0
  op     : ReqOp := .message
  ev     : List LineEv := []
  deriving DecidableEq, Repr

/-- Whose transaction timer expires (Table 2-6). -/
inductive TxnTimer where
  | coord (tid : Nat)
  | member (tid : Nat) (u : UnitId)
  | subst (c : Nat)
  deriving DecidableEq, Repr

/-- A path with a pending register (R91, R122, R167). -/
inductive PathId where
  | stream
  | weight
  | drain
  | pipe0
  | pipe1
  | unit (k : Nat)
  deriving DecidableEq, Repr

/-- WLOAD fields (Tables 4-3, 6-6). -/
structure WloadOp where
  bank  : Nat
  sw    : Bool
  split : Nat
  td    : Nat
  x     : Nat
  hw    : HwErr := {}
  deriving DecidableEq, Repr

/-- STREAM fields (Tables 4-3, 6-7). -/
structure StreamOp where
  sw     : Bool
  bank   : Nat
  splitA : Nat
  acc64  : Bool
  opset  : Bool
  accRow : Nat
  rows   : Nat
  td     : Nat
  x      : Nat
  batch  : Bool
  hw     : HwErr := {}
  deriving DecidableEq, Repr

/-- DRAIN fields (Tables 4-3, 6-7). -/
structure DrainOp where
  sw       : Bool
  acc64    : Bool
  accRow   : Nat
  rows     : Nat
  scale    : Nat
  scaleSrc : Nat
  td       : Nat
  x        : Nat
  rmode    : Nat
  sat      : Bool
  use      : Nat
  headroom : Nat
  add      : Nat
  tdR      : Nat
  xR       : Nat
  clr      : Bool
  batch    : Bool
  bret     : Bool
  aint     : Bool
  hw       : HwErr := {}
  deriving DecidableEq, Repr

/-- MOVE fields (Tables 5-3, 6-6). -/
structure MoveOp where
  unit     : Nat
  tdS      : Nat
  xS       : Nat
  tdD      : Nat
  xD       : Nat
  xW       : Nat
  rmode    : Nat
  sat      : Bool
  use      : Nat
  headroom : Nat
  hw       : HwErr := {}
  ev       : List LineEv := []
  deriving DecidableEq, Repr

/-- VX slot fields (Table 6-8) with the pipe the slot names. -/
structure VxOp where
  pipe  : Nat
  tdD   : Nat
  xD    : Nat
  tdA   : Nat
  xA    : Nat
  tdB   : Nat
  xB    : Nat
  rmode : Nat
  sat   : Bool
  use   : Nat
  sreg  : Nat
  opx   : Nat
  hw    : HwErr := {}
  deriving DecidableEq, Repr

/-- WAIT kinds of Table 6-10. -/
inductive WaitKind where
  | rows
  | idle
  | token
  deriving DecidableEq, Repr

/-- Barrier-kind operations (Table 6-9). -/
inductive BarKind where
  | barrier
  | abortStep
  | stepOpen
  | stepCommit
  | halt
  deriving DecidableEq, Repr

/-- A group message: the UCT header's group fields, or a CTRL message with its CTYPE, and its body (Tables 10-4 to
10-6). `typ` is 1 DATA, 2 CREDIT or 5 CTRL. `holes` are the parts (offset, bytes) of the body that stand for rows dropped at
dispatch; no field of the header carries them (log entry 130). -/
structure UFrame where
  typ     : Nat
  group   : Nat
  step    : Nat := 0
  lseq    : Nat := 0
  sched   : Nat := 0
  lane    : Nat := 0
  seg     : Nat := 0
  srcRank : Nat := 0
  dstRank : Nat := 0
  xtag    : Nat := 0
  ctype   : Nat := 0
  body    : List Byte := []
  holes   : List (Nat × Nat) := []
  deriving DecidableEq, Repr

/-- What the host answers to the upstream reads of a command: nothing yet, the bytes, or an error completion (a UR, CA or
poisoned completion). -/
inductive HostRsp where
  | wait
  | data (bs : List Byte)
  | error
  deriving DecidableEq, Repr

/-- Who writes a doorbell: a PF, or a VF through its BAR0, with the T bit of its bound selective stream or without. -/
inductive DbSrc where
  | pf (port : Nat)
  | vf (port v : Nat) (tbit : Bool)
  deriving DecidableEq, Repr


/-- A received MACsec-protected UCT frame (Table 10-3): the port it came through, its packet number and whether its ICV
verifies (the SAK is not state), the 512 bits of its UCT header, its body and payload tag as they travel, and the FEC codewords
corrected and lost while it was received. -/
structure RxHead where
  port   : Nat
  pn     : Nat
  icvOk  : Bool := true
  hdr    : Nat
  body   : List Byte := []
  tag    : List Byte := []
  fecCor : Nat := 0
  fecUnc : Nat := 0
  deriving DecidableEq, Repr

/-- Fields of the UCT header (Table 10-4). -/
def hdrField (hdr hi lo : Nat) : Nat := (hdr >>> lo) % 2 ^ (hi + 1 - lo)
def RxHead.typ (h : RxHead) : Nat := hdrField h.hdr 7 4
def RxHead.node (h : RxHead) : Nat := hdrField h.hdr 31 16
def RxHead.dst (h : RxHead) : Nat := hdrField h.hdr 47 32
def RxHead.epoch (h : RxHead) : Nat := hdrField h.hdr 79 64
def RxHead.pseq (h : RxHead) : Nat := hdrField h.hdr 127 96
def RxHead.pack (h : RxHead) : Nat := hdrField h.hdr 159 128
def RxHead.group (h : RxHead) : Nat := hdrField h.hdr 191 160
def RxHead.pctr (h : RxHead) : Nat := hdrField h.hdr 415 352

/-- R246: VER is 1, TYPE is none of the reserved ones and the reserved fields are zero; the ports are those of the path, and LEN
is the length of the body of a sequenced frame. -/
def RxHead.fmtOk (h : RxHead) : Bool :=
  hdrField h.hdr 3 0 = 1 && 1 ≤ h.typ && h.typ ≤ 7 && hdrField h.hdr 15 9 = 0 && hdrField h.hdr 63 56 = 0
    && hdrField h.hdr 95 80 = 0 && hdrField h.hdr 295 294 = 0 && hdrField h.hdr 351 350 = 0 && hdrField h.hdr 511 416 = 0
    && hdrField h.hdr 51 48 = h.port && hdrField h.hdr 55 52 = h.port
    && (!(h.typ = 1 || h.typ = 2 || h.typ = 5) || hdrField h.hdr 349 336 = h.body.length)

/-- The group message that a header and an opened body make. -/
def RxHead.frame (h : RxHead) (body : List Byte) : UFrame :=
  { typ := h.typ, group := h.group, step := hdrField h.hdr 255 192, lseq := hdrField h.hdr 271 256,
    sched := hdrField h.hdr 281 272, lane := hdrField h.hdr 290 282, seg := hdrField h.hdr 293 291,
    srcRank := hdrField h.hdr 307 296, dstRank := hdrField h.hdr 319 308, xtag := hdrField h.hdr 335 320,
    ctype := if h.typ = 5 then (body.headD 0).toNat else 0, body := if h.typ = 5 then body.tail else body }

/-- Where a group message comes from: a frame at a port, the k-th message between local members, or the member with this T0
of the group with this GIX itself. -/
inductive MsgSrc where
  | wire (h : RxHead)
  | local' (k : Nat)
  | own (t0 gix : Nat)
  deriving DecidableEq, Repr

/-- What an arriving MKPDU brings (R242): a live peer, a new SAK distributed, the new SAK installed. -/
inductive MkEv where
  | peer
  | rekey
  | sak
  deriving DecidableEq, Repr

/-- One access through the life-cycle data register of the TAP (R466): a read of LC_STAT, a write of LC_TOKENk, or a write of
LC_CMD with GO, OP and TARGET. -/
inductive LcAcc where
  | stat
  | token (k : Nat) (v : W32)
  | cmd (go : Bool) (op target : Nat)
  deriving DecidableEq, Repr

/-- How one attempt of a boot step goes (Table 17-4): its end status, the units and pseudo-channels (controller, PC) that do not
train or fail their test, the device ranges that security firmware writes as (range, DR_BASE, DR_LIMIT), and the links that
train as (port, speed, width, 256-byte flits). -/
structure BootStep where
  status : Nat := 0
  units  : List UnitId := []
  pcs    : List (Nat × Nat) := []
  ranges : List (Nat × W64 × W64) := []
  links  : List (Nat × Nat × Nat × Bool) := []
  deriving DecidableEq, Repr

/-- Temperatures in 0.1 °C of one round of readings (Table 18-3): the hottest sensor of each compute die, I/O die, near tier and
stack, and the coolant's inlet temperature in 0.1 °C and flow in 0.01 L/min; `stretch` is the level that the throttle of each die
regulates to. -/
structure Thermal where
  dies    : List Int := []
  ios     : List Int := []
  nears   : List Int := []
  hbms    : List Int := []
  inlet   : Nat := 0
  flow    : Nat := 0
  stretch : List Nat := []
  deriving DecidableEq, Repr

/-- What the meter's own instruments give it when an event reaches it (R447): seconds since manufacture, microjoules since
manufacture, the voltage in mV and the current in mA of the last second, and whether the input left the range of R447. -/
structure MeterIn where
  msec   : Nat := 0
  energy : Nat := 0
  mV     : Nat := 0
  mA     : Nat := 0
  overRange : Bool := false
  deriving DecidableEq, Repr

/-- Where an access to DR3 comes from (R314): CXL.mem of a port, or BAR2 of a VF of a port. `foreign` is any request at a port,
whatever it addresses, whose requester is not the port's own root port (R310). -/
inductive HdmSrc where
  | cxlMem (port : Nat)
  | vfBar2 (port vf : Nat)
  | foreign (port : Nat)
  deriving DecidableEq, Repr

/-- What happens to an IDE stream's key (R318): its invocation count passes the threshold, it is exhausted, or integrity fails. -/
inductive IdeEv where
  | low
  | exhausted
  | integrity
  deriving DecidableEq, Repr

/-- The commands. Each constructor names its row and rule. -/
inductive Instr where
  /-- UNIT_NOP, R20. -/
  | unitNop (u : UnitId) (w : Writer) (inc : Half)
  /-- QUIESCE, R34. -/
  | quiesce (u : UnitId) (w : Writer) (inc : Half)
  /-- RESUME, R34. -/
  | resume (u : UnitId) (w : Writer) (inc : Half)
  /-- RESET, R34. -/
  | reset (u : UnitId) (w : Writer) (inc : Half)
  /-- SLEEP, R34. -/
  | sleep (u : UnitId) (w : Writer) (inc : Half)
  /-- RETIRE, R30. -/
  | retire (u : UnitId) (w : Writer) (inc : Half)
  /-- UNIT_QUIESCED, R45. -/
  | unitQuiesced (u : UnitId)
  /-- RESET_DONE, R34. -/
  | resetDone (u : UnitId)
  /-- WAKE_DONE, R36. -/
  | wakeDone (u : UnitId)
  /-- FATAL_INTERNAL_ERROR, R43. -/
  | fatalInternalError (u : UnitId)
  /-- REQUEST_ARRIVAL, R41. -/
  | requestArrival (r : Req)
  /-- REPLY_ARRIVAL, R44. -/
  | replyArrival (u : UnitId) (tag : Nat) (reqInc rspInc : Half) (tgt : UnitId) (status : Nat) (func : Option Nat)
  /-- REQUEST_REISSUE, R46. -/
  | requestReissue (u : UnitId) (tag : Nat)
  /-- QUIESCE_DRAIN_LIMIT, R49. -/
  | quiesceDrainLimit (u : UnitId)
  /-- REQUEST_SOFT_TIMEOUT, R49. -/
  | requestSoftTimeout (u : UnitId) (tag : Nat)
  /-- REQUEST_HARD_TIMEOUT, R49. -/
  | requestHardTimeout (u : UnitId) (tag : Nat)
  /-- TRANSACTION_TIMEOUT, R49. -/
  | transactionTimeout (w : TxnTimer)
  /-- TXN_ENROL, R50. -/
  | txnEnrol (tid : Nat) (u : UnitId) (inc : Half)
  /-- TXN_PREPARE, R51. -/
  | txnPrepare (tid : Nat) (u : UnitId) (inc : Half)
  /-- TXN_VOTE, R51. -/
  | txnVote (tid : Nat) (u : UnitId)
  /-- TXN_COMMIT, R51. -/
  | txnCommit (tid : Nat) (u : UnitId)
  /-- TXN_ACK, R51. -/
  | txnAck (tid : Nat) (u : UnitId)
  /-- TXN_ABORT, R52. -/
  | txnAbort (tid : Nat) (u : UnitId)
  /-- DECISION_QUERY, R53. -/
  | decisionQuery (tid : Nat) (u : UnitId)
  /-- UNIT_EVT_WRITE, R22. -/
  | unitEvtWrite (u : UnitId) (w : Writer) (en : Bool) (v : W32)
  /-- ERRLOG_CLEAR, R23. -/
  | errlogClear (u : UnitId) (w : Writer)
  /-- REGISTER_WRITE, R24. -/
  | registerWrite (w : Writer) (off width : Nat) (v : W64)
  /-- SUBST_GO, R55. -/
  | substGo (c : Nat) (w : Writer) (ltile mode : Nat) (retireOld : Bool)
  /-- SUBST_CANCEL, R57. -/
  | substCancel (c : Nat) (w : Writer)
  /-- LIVE_SUBST_START, R56. -/
  | liveSubstStart (c : Nat)
  /-- LIVE_SUBST_COMMIT, R56. -/
  | liveSubstCommit (c : Nat) (ok : Bool)
  /-- SUBST_CLEAR_DONE, R58. -/
  | substClearDone (c : Nat)
  /-- PENDING_START, R91. -/
  | pendingStart (t : Nat) (p : PathId)
  /-- WLOAD, R92. -/
  | wload (t : Nat) (f : WloadOp) (more : Bool)
  /-- STREAM, R94. -/
  | stream (t : Nat) (f : StreamOp) (more : Bool)
  /-- DRAIN, R98. -/
  | drain (t : Nat) (f : DrainOp) (more : Bool)
  /-- BATCH_APPEND, R101. -/
  | batchAppend (t q : Nat)
  /-- BATCH_RELEASE, R102. -/
  | batchRelease (t : Nat)
  /-- BATCH_DEADLINE, R101. -/
  | batchDeadline (t : Nat)
  /-- BATCH_RETIRE, R103. -/
  | batchRetire (t : Nat)
  /-- MOVE, R122. -/
  | move (t : Nat) (f : MoveOp) (more : Bool)
  /-- PREFETCH, R121. -/
  | prefetch (t : Nat) (f : MoveOp) (more : Bool)
  /-- STREAM_CMD_DONE, R123. -/
  | streamCmdDone (t k : Nat)
  /-- TDLOAD, R143. -/
  | tdload (t td sreg imm : Nat) (hw : HwErr) (more : Bool)
  /-- TDBASE, R143. -/
  | tdbase (t td sreg : Nat) (second : Bool) (more : Bool)
  /-- LSTART, R140. -/
  | lstart (t count body : Nat)
  /-- LSTART_S, R140. -/
  | lstartS (t sreg body : Nat)
  /-- CALL, R140. -/
  | call (t target : Nat)
  /-- RET, R140. -/
  | ret (t : Nat)
  /-- HALT, R159. -/
  | halt (t : Nat) (more : Bool)
  /-- ADDI, R142. -/
  | addi (t dst sa : Nat) (imm : BitVec 14) (more : Bool)
  /-- SCALAR_ADD, R142. -/
  | scalarAdd (t dst sa sb : Nat) (more : Bool)
  /-- SCALAR_SUB, R142. -/
  | scalarSub (t dst sa sb : Nat) (more : Bool)
  /-- SCALAR_MUL, R142. -/
  | scalarMul (t dst sa sb : Nat) (more : Bool)
  /-- AND, R142. -/
  | sAnd (t dst sa sb : Nat) (more : Bool)
  /-- OR, R142. -/
  | sOr (t dst sa sb : Nat) (more : Bool)
  /-- XOR, R142. -/
  | sXor (t dst sa sb : Nat) (more : Bool)
  /-- SHLI, R142. -/
  | shli (t dst sa : Nat) (imm : BitVec 14) (more : Bool)
  /-- SHRI, R142. -/
  | shri (t dst sa : Nat) (imm : BitVec 14) (more : Bool)
  /-- SRAI, R142. -/
  | srai (t dst sa : Nat) (imm : BitVec 14) (more : Bool)
  /-- SCALAR_MIN, R142. -/
  | scalarMin (t dst sa sb : Nat) (more : Bool)
  /-- SCALAR_MAX, R142. -/
  | scalarMax (t dst sa sb : Nat) (more : Bool)
  /-- LI, R142. -/
  | li (t dst k : Nat) (imm : BitVec 14) (more : Bool)
  /-- SEL, R142. -/
  | sel (t dst sa sb : Nat) (more : Bool)
  /-- SLD, R142. -/
  | sld (t dst sa : Nat) (imm : BitVec 14) (hw : HwErr) (more : Bool)
  /-- SST, R142. -/
  | sst (t sa sb : Nat) (imm : BitVec 14) (hw : HwErr) (more : Bool)
  /-- XSET, R142. -/
  | xset (t dst lane sa : Nat) (more : Bool)
  /-- XADDI, R142. -/
  | xaddi (t dst lane : Nat) (imm : BitVec 14) (more : Bool)
  /-- XADD, R142. -/
  | xadd (t dst lane sa : Nat) (more : Bool)
  /-- XCOPY, R142. -/
  | xcopy (t dst sa : Nat) (more : Bool)
  /-- XGET, R142. -/
  | xget (t dst sa lane : Nat) (more : Bool)
  /-- WAIT, R148. -/
  | wait (t : Nat) (k : WaitKind) (n : Nat) (src : Bool) (v : Nat) (more : Bool)
  /-- BARRIER, R151. -/
  | barrier (t : Nat) (bid : Nat) (more : Bool)
  /-- BARRIER_ARRIVE, R151. -/
  | barrierArrive (t : Nat) (k : BarKind) (bid : Nat) (sy : W32)
  /-- TOKEN_DEC, R146. -/
  | tokenDec (t n amount : Nat) (more : Bool)
  /-- FLAGCLR, R83. -/
  | flagclr (t mask : Nat) (more : Bool)
  /-- CFG, R146. -/
  | cfg (t off sreg : Nat) (more : Bool)
  /-- ABORT_STEP, R158. -/
  | abortStep (t cond sreg : Nat) (more : Bool)
  /-- STEP_OPEN, R186. -/
  | stepOpen (t : Nat) (more : Bool)
  /-- STEP_COMMIT, R189. -/
  | stepCommit (t : Nat) (more : Bool)
  /-- COLL, R147. -/
  | coll (t group sched sreg : Nat) (more : Bool)
  /-- WAIT_TIMEOUT, R154. -/
  | waitTimeout (t : Nat)
  /-- PLATE_FETCH_ARRIVE, R156. -/
  | plateFetchArrive (t addr status : Nat)
  /-- RUN_COMPLETE, R159. -/
  | runComplete (t : Nat)
  /-- COPY, R170. -/
  | vcopy (t : Nat) (f : VxOp) (more : Bool)
  /-- FILLS, R170. -/
  | fills (t : Nat) (f : VxOp) (more : Bool)
  /-- IADD, R170. -/
  | iadd (t : Nat) (f : VxOp) (more : Bool)
  /-- IAND, R170. -/
  | iand (t : Nat) (f : VxOp) (more : Bool)
  /-- IOR, R170. -/
  | ior (t : Nat) (f : VxOp) (more : Bool)
  /-- IXOR, R170. -/
  | ixor (t : Nat) (f : VxOp) (more : Bool)
  /-- CMPLT, R170. -/
  | cmplt (t : Nat) (f : VxOp) (more : Bool)
  /-- CMPEQ, R170. -/
  | cmpeq (t : Nat) (f : VxOp) (more : Bool)
  /-- SELECT, R170. -/
  | select (t : Nat) (f : VxOp) (more : Bool)
  /-- ADD, R170. -/
  | vadd (t : Nat) (f : VxOp) (more : Bool)
  /-- SUB, R170. -/
  | vsub (t : Nat) (f : VxOp) (more : Bool)
  /-- MUL, R170. -/
  | vmul (t : Nat) (f : VxOp) (more : Bool)
  /-- FMA, R170. -/
  | fma (t : Nat) (f : VxOp) (more : Bool)
  /-- AXPBY, R170. -/
  | axpby (t : Nat) (f : VxOp) (more : Bool)
  /-- AXPBY2, R170. -/
  | axpby2 (t : Nat) (f : VxOp) (more : Bool)
  /-- MIN, R170. -/
  | vmin (t : Nat) (f : VxOp) (more : Bool)
  /-- MAX, R170. -/
  | vmax (t : Nat) (f : VxOp) (more : Bool)
  /-- SCALE, R170. -/
  | scale (t : Nat) (f : VxOp) (more : Bool)
  /-- ADD64, R170. -/
  | add64 (t : Nat) (f : VxOp) (more : Bool)
  /-- CVT, R170. -/
  | cvt (t : Nat) (f : VxOp) (more : Bool)
  /-- UPDW, R175. -/
  | updw (t : Nat) (f : VxOp) (more : Bool)
  /-- DIV, R170. -/
  | div (t : Nat) (f : VxOp) (more : Bool)
  /-- SQRT, R170. -/
  | sqrt (t : Nat) (f : VxOp) (more : Bool)
  /-- RSQRT, R170. -/
  | rsqrt (t : Nat) (f : VxOp) (more : Bool)
  /-- EXP, R170. -/
  | vexp (t : Nat) (f : VxOp) (more : Bool)
  /-- LOG, R170. -/
  | vlog (t : Nat) (f : VxOp) (more : Bool)
  /-- TANH, R170. -/
  | tanh (t : Nat) (f : VxOp) (more : Bool)
  /-- SIGMOID, R170. -/
  | sigmoid (t : Nat) (f : VxOp) (more : Bool)
  /-- SILU, R170. -/
  | silu (t : Nat) (f : VxOp) (more : Bool)
  /-- GELU, R170. -/
  | gelu (t : Nat) (f : VxOp) (more : Bool)
  /-- RSUM, R172. -/
  | rsum (t : Nat) (f : VxOp) (more : Bool)
  /-- RSUMSQ, R172. -/
  | rsumsq (t : Nat) (f : VxOp) (more : Bool)
  /-- RMAX, R172. -/
  | rmax (t : Nat) (f : VxOp) (more : Bool)
  /-- RMIN, R172. -/
  | rmin (t : Nat) (f : VxOp) (more : Bool)
  /-- RMAXABS, R172. -/
  | rmaxabs (t : Nat) (f : VxOp) (more : Bool)
  /-- RNDU, R170. -/
  | rndu (t : Nat) (f : VxOp) (more : Bool)
  /-- DROPOUT, R170. -/
  | dropout (t : Nat) (f : VxOp) (more : Bool)
  /-- RNDB, R170. -/
  | rndb (t : Nat) (f : VxOp) (more : Bool)
  /-- MONITOR_MERGE_DONE, R199. -/
  | monitorMergeDone (t : Nat) (ev : List LineEv)
  /-- MON_HIT_CLEAR, R209. -/
  | monHitClear (t : Nat) (w : Writer)
  /-- LAUNCH_START, R217. -/
  | launchStart (c : Nat)
  /-- SEND, R221. -/
  | send (t : Nat) (ev : List LineEv)
  /-- RECV, R221. -/
  | recv (t : Nat)
  /-- REDUCE, R224. -/
  | reduce (t : Nat) (hw : HwErr) (ev : List LineEv)
  /-- DRUPELET_COPY, R220. -/
  | drupeletCopy (t : Nat) (ev : List LineEv)
  /-- LOOP, R220. -/
  | lanLoop (t : Nat)
  /-- COUNTX, R228. -/
  | countx (t : Nat)
  /-- COUNTR, R228. -/
  | countr (t : Nat)
  /-- END, R219. -/
  | endProg (t : Nat)
  /-- LAUNCH_COMPLETE, R219. -/
  | launchComplete (t : Nat)
  /-- DATA, R252. -/
  | dataFrame (src : MsgSrc) (ev : List LineEv)
  /-- CREDIT, R221. -/
  | creditFrame (src : MsgSrc)
  /-- ACK, R250. -/
  | ackFrame (h : RxHead)
  /-- NACK, R251. -/
  | nackFrame (h : RxHead) (runs : List (Nat × Nat))
  /-- PROBE, R248. -/
  | probe (h : RxHead) (next : Nat) (avail : Bool)
  /-- PROBE_RSP, R248. -/
  | probeRsp (h : RxHead) (next : Nat) (avail : Bool)
  /-- JOIN, R213. -/
  | joinMsg (src : MsgSrc)
  /-- KEYCONF, R247. -/
  | keyconf (src : MsgSrc)
  /-- VOTE, R231. -/
  | voteMsg (src : MsgSrc)
  /-- DECISION, R231. -/
  | decision (src : MsgSrc)
  /-- VACK, R231. -/
  | vack (src : MsgSrc)
  /-- CLOSED, R231. -/
  | closed (src : MsgSrc)
  /-- DQUERY, R231. -/
  | dquery (src : MsgSrc)
  /-- FAIL, R234. -/
  | failMsg (src : MsgSrc)
  /-- GONE, R254. -/
  | goneMsg (src : MsgSrc)
  /-- MKPDU, R242. -/
  | mkpdu (p : Nat) (e : MkEv)
  /-- PROBE_INTERVAL, R248. -/
  | probeInterval (node p : Nat)
  /-- ACK_INTERVAL, R250. -/
  | ackInterval (node p : Nat)
  /-- RETRANSMISSION_TIMEOUT, R251. -/
  | retransmissionTimeout (node p : Nat)
  /-- UNREACHABLE_LIMIT, R254. -/
  | unreachableLimit (node : Nat)
  /-- FABRIC_LINK_UP, R243. -/
  | fabricLinkUp (p : Nat)
  /-- FABRIC_LINK_LOSS, R253. -/
  | fabricLinkLoss (p : Nat)
  /-- ALLOW_WRITE, R255. -/
  | allowWrite (w : Writer) (e : Nat) (v : RegPart)
  /-- UCT_CFG_WRITE, R256. -/
  | uctCfgWrite (w : Writer) (off width : Nat) (v : W64)
  /-- FP_CTL_WRITE, R243. -/
  | fpCtlWrite (w : Writer) (p : Nat) (v : W32)
  /-- FP_CAK_WRITE, R242. -/
  | fpCakWrite (w : Writer) (p : Nat) (v : W32)
  /-- METADATA_EVICT, R297. -/
  | metadataEvict (blk level idx : Nat)
  /-- PATROL_SCRUB, R272. -/
  | patrolScrub (m : Nat) (ev : LineEv)
  /-- ROW_REMAP_DONE, R273. -/
  | rowRemapDone (m pc row : Nat)
  /-- MC_REMAP_CMD, R273. -/
  | mcRemapCmd (u : UnitId) (w : Writer) (pc row : Nat)
  /-- MC_EVAC, R275. -/
  | mcEvac (u : UnitId) (w : Writer) (pc scope : Nat)
  /-- MIGRATION_COPY_DONE, R276. -/
  | migrationCopyDone (m pc : Nat) (ev : List LineEv)
  /-- FRAME_DRAINED, R266. -/
  | frameDrained (tier f : Nat)
  /-- FRAME_SCRUB_DONE, R266. -/
  | frameScrubDone (tier f : Nat)
  /-- FAR_BLOCK_REINIT, R302. -/
  | farBlockReinit (blk : Nat)
  /-- ENC_ALARM_CLEAR, R307. -/
  | encAlarmClear (w : Writer)
  /-- HDM_ACCESS, R314. -/
  | hdmAccess (src : HdmSrc) (off : Nat) (wr : Option (List Byte)) (poison : Bool)
  /-- SNOOP, R308. -/
  | snoop (port addr : Nat)
  /-- ATS_INVALIDATE, R315. -/
  | atsInvalidate (blk : Nat)
  /-- NUMVFS_WRITE, R311. -/
  | numvfsWrite (port n : Nat) (enable : Bool)
  /-- VF_FLR, R322. -/
  | vfFlr (port vf : Nat)
  /-- PF_FLR, R321. -/
  | pfFlr (port : Nat)
  /-- VF_ENABLE_CLEAR, R321. -/
  | vfEnableClear (port : Nat)
  /-- BME_CLEAR, R321. -/
  | bmeClear (port : Nat) (vf : Option Nat) (set : Bool)
  /-- MSE_CLEAR, R321. -/
  | mseClear (port : Nat) (vf : Option Nat) (set : Bool)
  /-- HOST_LINK_DOWN, R326. -/
  | hostLinkDown (port : Nat)
  /-- VIRAL, R325. -/
  | viral (port : Nat)
  /-- COMPLETION_TIMEOUT, R325. -/
  | completionTimeout (port : Nat) (cmd : Option (Nat × Nat)) (line : Option Nat)
  /-- IDE_INTEGRITY_FAIL, R318. -/
  | ideIntegrityFail (port stream : Nat) (e : IdeEv)
  /-- IDE_KEY_PROGRAM, R317. -/
  | ideKeyProgram (port stream : Nat)
  /-- LOCK_INTERFACE_REQUEST, R319. -/
  | lockInterfaceRequest (port vf stream : Nat)
  /-- STOP_INTERFACE, R320. -/
  | stopInterface (port vf : Nat)
  /-- SQ_TAIL, R333. -/
  | sqTail (src : DbSrc) (ctx q tail : Nat)
  /-- CQ_HEAD, R333. -/
  | cqHead (src : DbSrc) (ctx q head : Nat)
  /-- EVQ_HEAD, R338. -/
  | evqHead (src : DbSrc) (ctx head : Nat)
  /-- NOP, R342. -/
  | ringNop (ctx qid : Nat)
  /-- IDENTIFY, R342. -/
  | identify (ctx qid : Nat)
  /-- IF_NEGOTIATE, R340. -/
  | ifNegotiate (ctx qid : Nat)
  /-- CTX_CREATE, R342. -/
  | ctxCreate (ctx qid : Nat)
  /-- CTX_DESTROY, R330. -/
  | ctxDestroy (ctx qid : Nat)
  /-- VF_BIND, R312. -/
  | vfBind (ctx qid : Nat)
  /-- VF_UNBIND, R342. -/
  | vfUnbind (ctx qid : Nat)
  /-- DMA_WINDOW, R316. -/
  | dmaWindow (ctx qid : Nat)
  /-- FAR_WINDOW, R315. -/
  | farWindow (ctx qid : Nat)
  /-- OBJ_SHARE, R342. -/
  | objShare (ctx qid : Nat)
  /-- OBJ_CREATE, R344. -/
  | objCreate (ctx qid : Nat)
  /-- OBJ_REF, R345. -/
  | objRef (ctx qid : Nat)
  /-- OBJ_UNREF, R345. -/
  | objUnref (ctx qid : Nat)
  /-- OBJ_QUERY, R342. -/
  | objQuery (ctx qid : Nat)
  /-- QUEUE_CREATE, R331. -/
  | queueCreate (ctx qid : Nat)
  /-- ABORT_QUEUES, R352. -/
  | abortQueues (ctx qid : Nat)
  /-- FENCE_ABANDON, R350. -/
  | fenceAbandon (ctx qid : Nat)
  /-- MEM_MAP, R263. -/
  | memMap (ctx qid : Nat)
  /-- MEM_UNMAP, R263. -/
  | memUnmap (ctx qid : Nat)
  /-- MEM_RELEASE, R266. -/
  | memRelease (ctx qid : Nat)
  /-- MEM_RESERVE, R268. -/
  | memReserve (ctx qid : Nat)
  /-- MEM_REDIR_CLEAR, R277. -/
  | memRedirClear (ctx qid : Nat)
  /-- DMA_COPY, R342. -/
  | dmaCopy (ctx qid : Nat) (host : HostRsp) (ev : List LineEv)
  /-- DMA_FILL, R342. -/
  | dmaFill (ctx qid : Nat) (ev : List LineEv)
  /-- PLATE_LOAD, R161. -/
  | plateLoad (ctx qid : Nat) (ev : List LineEv)
  /-- RUN, R163. -/
  | run (ctx qid : Nat) (ev : List LineEv)
  /-- STEP_CONFIG, R208. -/
  | stepConfig (ctx qid : Nat) (ev : List LineEv)
  /-- GROUP_JOIN, R213. -/
  | groupJoin (ctx qid : Nat) (progs : List (Nat × List Nat)) (ev : List LineEv)
  /-- GROUP_LEAVE, R214. -/
  | groupLeave (ctx qid : Nat)
  /-- FENCE_WAIT_RELEASE, R351. -/
  | fenceWaitRelease (ctx qid : Nat)
  /-- COMMAND_COMPLETE, R337. -/
  | commandComplete (ctx qid : Nat)
  /-- OBJ_RELEASE, R347. -/
  | objRelease (obj : Nat)
  /-- EV_OVERFLOW, R338. -/
  | evOverflow (ctx : Nat) (evq : Bool)
  /-- PART_BIND, R356. -/
  | partBind (ctx qid : Nat)
  /-- PART_UNBIND, R358. -/
  | partUnbind (ctx qid : Nat)
  /-- PART_BURN_GO, R359. -/
  | partBurnGo (w : Writer) (u : UnitId) (t0 log2n : Nat)
  /-- TILE_CLEAR_DONE, R360. -/
  | tileClearDone (t0 : Nat)
  /-- CONTEXT_BURNISH, R362. -/
  | contextBurnish (ctx : Nat)
  /-- BURN_STUCK, R364. -/
  | burnStuck (part : Bool) (n : Nat)
  /-- SHARD_LOAD, R368. -/
  | shardLoad (ctx qid : Nat) (host : HostRsp) (ev : List LineEv)
  /-- SHARD_CHECK, R371. -/
  | shardCheck (ctx qid : Nat) (ev : List LineEv)
  /-- SHARD_RELEASE, R372. -/
  | shardRelease (ctx qid : Nat)
  /-- SHARD_PERIODIC_CHECK, R371. -/
  | shardPeriodicCheck (ctx id : Nat) (ev : List LineEv)
  /-- CKPT_EXPORT, R373. -/
  | ckptExport (ctx qid : Nat) (ev : List LineEv)
  /-- CKPT_IMPORT, R374. -/
  | ckptImport (ctx qid : Nat) (host : HostRsp) (ev : List LineEv)
  /-- PART_QUERY, R377. -/
  | partQuery (ctx qid : Nat)
  /-- KEY_GENERATE, R389. -/
  | keyGenerate (ctx qid : Nat)
  /-- KEY_DERIVE, R390. -/
  | keyDerive (ctx qid : Nat) (ev : List LineEv)
  /-- KEY_IMPORT, R404. -/
  | keyImport (ctx qid : Nat) (ev : List LineEv)
  /-- KEY_DESTROY, R384. -/
  | keyDestroy (ctx qid : Nat)
  /-- KEY_QUERY, R389. -/
  | keyQuery (ctx qid : Nat) (ev : List LineEv)
  /-- KEY_ATTEST, R391. -/
  | keyAttest (ctx qid : Nat) (ev : List LineEv)
  /-- MEAS_REPORT, R399. -/
  | measReport (ctx qid : Nat) (ev : List LineEv)
  /-- ATT_MSG, R401. -/
  | attMsg (ctx qid sid : Nat) (ev : List LineEv)
  /-- GET_INFO, R401. -/
  | getInfo (port : Nat) (req : List Byte)
  /-- OPEN, R402. -/
  | mbOpen (port sid : Nat) (req : List Byte)
  /-- FINISH, R402. -/
  | mbFinish (port : Nat) (req : List Byte)
  /-- REPORT, R401. -/
  | mbReport (port : Nat) (req : List Byte)
  /-- CLOSE, R403. -/
  | mbClose (port : Nat) (req : List Byte)
  /-- GET_VERSION, R400. -/
  | getVersion (port : Nat)
  /-- GET_CAPABILITIES, R400. -/
  | getCapabilities (port : Nat)
  /-- NEGOTIATE_ALGORITHMS, R400. -/
  | negotiateAlgorithms (port : Nat) (common : Bool)
  /-- GET_DIGESTS, R400. -/
  | getDigests (port : Nat)
  /-- GET_CERTIFICATE, R400. -/
  | getCertificate (port off len : Nat)
  /-- CHALLENGE, R400. -/
  | challenge (port : Nat) (nonce : List Byte)
  /-- GET_MEASUREMENTS, R400. -/
  | getMeasurements (port : Nat) (vf : Option Nat) (index : Nat) (sign : Bool)
  /-- KEY_EXCHANGE, R400. -/
  | keyExchange (port sid : Nat) (pub : List Byte)
  /-- SPDM_FINISH, R400. -/
  | spdmFinish (port sid : Nat) (verifies : Bool)
  /-- HEARTBEAT, R400. -/
  | heartbeat (port sid : Nat)
  /-- KEY_UPDATE, R400. -/
  | keyUpdate (port sid : Nat)
  /-- END_SESSION, R403. -/
  | endSession (port sid : Nat)
  /-- VENDOR_DEFINED_REQUEST, R400. -/
  | vendorDefinedRequest (port sid : Nat) (body : List Byte)
  /-- RNG_FAIL, R384. -/
  | rngFail
  /-- TRANSITION, R396. -/
  | lcTransition (tap : Bool) (target : Nat) (cont : Bool) (bits : Nat)
  /-- UNLOCK, R397. -/
  | lcUnlock (tap : Bool)
  /-- COMPLETE, R398. -/
  | lcComplete (tap : Bool) (cont : Bool) (bits : Nat)
  /-- FW_STAGE_BEGIN, R421. -/
  | fwStageBegin (ctx qid : Nat)
  /-- FW_STAGE_DATA, R421. -/
  | fwStageData (ctx qid : Nat) (host : HostRsp) (ev : List LineEv)
  /-- FW_VERIFY, R421. -/
  | fwVerify (ctx qid : Nat)
  /-- FW_ARM, R422. -/
  | fwArm (ctx qid : Nat)
  /-- FW_CANCEL, R421. -/
  | fwCancel (ctx qid : Nat)
  /-- FW_QUERY, R421. -/
  | fwQuery (ctx qid : Nat)
  /-- FW_ARB_RAISE, R413. -/
  | fwArbRaise (ctx qid : Nat)
  /-- FW_SETTINGS, R421. -/
  | fwSettings (ctx qid : Nat) (host : HostRsp) (ev : List LineEv)
  /-- ACT_HOLDOFF, R423. -/
  | actHoldoff
  /-- ACT_RETRY, R424. -/
  | actRetry (u : UnitId)
  /-- BOOT_WATCHDOG, R416. -/
  | bootWatchdog (steps : List BootStep)
  /-- MGMT_WATCHDOG, R420. -/
  | mgmtWatchdog (back fresh : Bool)
  /-- RCV_GO, R417. -/
  | rcvGo (w : Writer) (v : W32) (steps : List BootStep)
  /-- INPUT_POWER_ON, R434. -/
  | inputPowerOn (split : Bool) (steps : List BootStep)
  /-- PWR_WARN_ASSERT, R431. -/
  | pwrWarnAssert (board : Bool)
  /-- PWR_WARN_DEASSERT, R461. -/
  | pwrWarnDeassert
  /-- UVLO, R433. -/
  | uvlo
  /-- LIMITER_STEP, R439. -/
  | limiterStep (v a p raise : Nat)
  /-- POWER_ESTIMATE, R440. -/
  | powerEstimate (est : List (Nat × Nat)) (dies : List Nat)
  /-- THERMAL_READING, R441. -/
  | thermalReading (r : Thermal)
  /-- EMERG_DURATION, R444. -/
  | emergDuration (src : Nat)
  /-- PWR_CAP_WRITE, R439. -/
  | pwrCapWrite (w : Writer) (v : W32)
  /-- PWR_OPP_WRITE, R437. -/
  | pwrOppWrite (w : Writer) (k : Nat) (v : W32)
  /-- AGE_PRED_WRITE, R445. -/
  | agePredWrite (w : Writer) (v : RegPart)
  /-- TRIP_CAUSE_CLEAR, R442. -/
  | tripCauseClear (w : Writer) (v : W32)
  /-- APPORTION, R453. -/
  | apportion (shares : List (Nat × Nat)) (total : Nat)
  /-- METER_PERIODIC, R448. -/
  | meterPeriodic (m : MeterIn)
  /-- GET_READING, R448. -/
  | getReading (m : MeterIn) (prev : Bool) (body : List Byte)
  /-- GET_LOG, R451. -/
  | getLog (prev : Bool) (body : List Byte)
  /-- GET_WRAP, R451. -/
  | getWrap (prev : Bool)
  /-- GET_CERT, R451. -/
  | getCert (prev : Bool) (body : List Byte)
  /-- SEAL, R450. -/
  | meterSeal (m : MeterIn) (prev : Bool) (token : List Byte)
  /-- UNSEAL, R450. -/
  | meterUnseal (m : MeterIn) (prev : Bool) (token : List Byte)
  /-- CALIBRATE, R450. -/
  | calibrate (m : MeterIn) (prev : Bool) (body : List Byte) (last genuine : Bool)
  /-- TAMPER, R450. -/
  | tamper (m : MeterIn)
  /-- MIRROR_UPDATE, R452. -/
  | mirrorUpdate
  /-- METER_LINK_FAIL, R452. -/
  | meterLinkFail
  /-- MOD_RST_LOW, R459. -/
  | modRstLow
  /-- MOD_RST_RISE, R459. -/
  | modRstRise (split : Bool) (steps : List BootStep) (waited : Bool)
  /-- PERST_ASSERT, R460. -/
  | perstAssert (port : Nat)
  /-- PERST_DEASSERT, R460. -/
  | perstDeassert (port : Nat) (steps : List BootStep)
  /-- FLASH_OWN, R464. -/
  | flashOwn (level : Bool) (steps : List BootStep)
  /-- READ, R465. -/
  | i3cRead (off len : Nat)
  /-- EXTEST, R466. -/
  | extest (cells : Nat)
  /-- IDCODE, R466. -/
  | idcode
  /-- SAMPLE_PRELOAD, R466. -/
  | samplePreload (cells : Nat)
  /-- LC_ACCESS, R466. -/
  | lcAccess (a : LcAcc)
  /-- DEBUG, R466. -/
  | jtagDebug (ir : Nat)
  /-- BYPASS, R466. -/
  | bypass
  /-- HOST_LINK_UP, R326. -/
  | hostLinkUp (port speed width : Nat) (flit256 : Bool)
  /-- START_INTERFACE_REQUEST, R319. -/
  | startInterfaceRequest (port vf : Nat) (nonce : List Byte)
  /-- FROZEN_CONFIGURATION_WRITE, R319. -/
  | frozenConfigurationWrite (port vf : Nat)
  /-- ONLINE_RETRAINING, R274. -/
  | onlineRetraining (m ch : Nat) (fix : Option Nat × Option Nat)
  /-- MKA_LIVE_PEER_LOSS, R242. -/
  | mkaLivePeerLoss (p : Nat)
  /-- FILTERED_FRAME, R240. -/
  | filteredFrame (p : Nat)
  /-- ENTROPY_SOURCE_PASS, R384. -/
  | entropySourcePass
  /-- METER_POWER_DOWN, R449. -/
  | meterPowerDown (m : MeterIn)
  /-- METER_POWER_UP, R449. -/
  | meterPowerUp (m : MeterIn)
  /-- CORRECTABLE_LINK_ERROR, R325. -/
  | correctableLinkError (port : Nat)
  /-- DIE_VOLTAGE_REACHED, R437. -/
  | dieVoltageReached (d : Nat)
  deriving DecidableEq, Repr

end Sys2Proof
end

