-- ==== Sys2Proof/Decode.lean ====
section
/-! DEFINITION. The opcode table gives its rows neither bits nor fields: a command is taken from outside whole, and no word spells
one (log entry 13). -/
namespace Sys2Proof

/-- The command that a word of the table's bits spells: none, as no row has bits. -/
def decodeTableWord (_nbits _w : Nat) : Option Instr := none

end Sys2Proof
end

