-- ==== Sys2Proof/Machine/Map.lean ====
section
/-! DEFINITION. Sparse tables as sorted lists of (key, value), byte memories in one canonical form, and the
little-endian helpers of R3. -/
namespace Sys2Proof.Machine
open Sys2Proof

/-- A sparse table: keys strictly rising. An unlisted key reads as the default its reader names. -/
abbrev Map (α : Type) := List (Nat × α)

def mapFind {α : Type} (m : Map α) (k : Nat) : Option α :=
  match m with
  | [] => none
  | (k', v) :: r => if k' = k then some v else mapFind r k

def mapGet {α : Type} (d : α) (m : Map α) (k : Nat) : α := (mapFind m k).getD d

def mapSet {α : Type} (m : Map α) (k : Nat) (v : α) : Map α :=
  match m with
  | [] => [(k, v)]
  | (k', v') :: r =>
    if k < k' then (k, v) :: (k', v') :: r
    else if k = k' then (k, v) :: r
    else (k', v') :: mapSet r k v

def mapDel {α : Type} (m : Map α) (k : Nat) : Map α := m.filter (fun p => p.1 ≠ k)

/-- Removes the keys of [lo, lo + n). -/
def mapDrop {α : Type} (m : Map α) (lo n : Nat) : Map α := m.filter (fun p => ¬ (lo ≤ p.1 ∧ p.1 < lo + n))

/-- Keys strictly rising: the canonical form of a table. -/
def mapSorted {α : Type} (m : Map α) : Bool :=
  match m with
  | [] => true
  | (k, _) :: r => r.all (fun p => k < p.1) && mapSorted r

/-- A byte memory: a table in which no entry holds 0, what an unlisted address reads as. -/
abbrev Bytes := Map Byte

/-- The canonical form of a byte memory: keys strictly rising and no zero listed. -/
def bytesWf (m : Bytes) : Bool := mapSorted m && m.all (fun p => p.2 ≠ 0)

/-- The device's memories are byte memories; this is the form they keep. -/
def Memory.wf (m : Bytes) : Bool := bytesWf m

def byteAt (m : Bytes) (a : Nat) : Byte := mapGet 0 m a

/-- Writing zero removes the entry, so equal memories are equal lists. -/
def byteSet (m : Bytes) (a : Nat) (b : Byte) : Bytes := if b = 0 then mapDel m a else mapSet m a b

def readBytes (m : Bytes) (a n : Nat) : List Byte := (List.range n).map (fun i => byteAt m (a + i))

def writeBytes (m : Bytes) (a : Nat) (bs : List Byte) : Bytes :=
  match bs with
  | [] => m
  | b :: r => writeBytes (byteSet m a b) (a + 1) r

/-- Zeroes the bytes of [a, a + n). -/
def clearBytes (m : Bytes) (a n : Nat) : Bytes := mapDrop m a n

/-- R3: the byte at the lowest address holds the least significant bits. -/
def leVal (bs : List Byte) : Nat :=
  match bs with
  | [] => 0
  | b :: r => b.toNat + 256 * leVal r

def leBytes (n v : Nat) : List Byte := (List.range n).map (fun i => BitVec.ofNat 8 (v >>> (8 * i)))

/-- Big-endian, for the fields whose byte order a published standard fixes. -/
def beVal (bs : List Byte) : Nat := bs.foldl (fun a b => a * 256 + b.toNat) 0

def beBytes (n v : Nat) : List Byte := (leBytes n v).reverse

def readLe (m : Bytes) (a n : Nat) : Nat := leVal (readBytes m a n)

def writeLe (m : Bytes) (a n v : Nat) : Bytes := writeBytes m a (leBytes n v)

/-- Bits [hi:lo] of a number. -/
def bitsOf (v hi lo : Nat) : Nat := (v >>> lo) % 2 ^ (hi + 1 - lo)

def bitOf (v i : Nat) : Bool := (v >>> i) % 2 = 1

/-- A field of bits [hi:lo] holding x, the rest zero. -/
def field (hi lo x : Nat) : Nat := (x % 2 ^ (hi + 1 - lo)) <<< lo

def boolNat (b : Bool) : Nat := if b then 1 else 0

/-- Replaces the k-th of an indexed list, appending nothing. -/
def listSet {α : Type} (l : List α) (k : Nat) (v : α) : List α := l.set k v

/-- A counter that saturates at its all-ones value. -/
def satInc {w : Nat} (c : BitVec w) : BitVec w := if c = BitVec.allOnes w then c else c + 1

/-- Adds n to a counter that saturates at its all-ones value. -/
def satAdd {w : Nat} (c : BitVec w) (n : Nat) : BitVec w :=
  if c.toNat + n ≥ 2 ^ w then BitVec.allOnes w else c + BitVec.ofNat w n

/-- Signed reading of the low w bits of n. -/
def sextNat (w n : Nat) : Int := (BitVec.ofNat w n).toInt

def chunks (n : Nat) (k : Nat) (l : List Byte) : List (List Byte) :=
  match n with
  | 0 => []
  | f + 1 => if l.isEmpty then [] else (l.take k) :: chunks f k (l.drop k)

end Sys2Proof.Machine
end

