-- ==== Sys2Proof/Machine/Crypto.lean ====
section
/-! DEFINITION. The published algorithms that the device uses: SHA-384, HMAC, the SP 800-108 and HKDF key derivations,
AES-256 with GCM, CTR and XTS, Reed-Solomon check symbols, and ECDSA and ECDH on brainpoolP384r1. -/
namespace Sys2Proof.Machine
open Sys2Proof

/-! ### SHA-384 (FIPS 180-4) -/

def shaK1 : List Nat := [
  0x428A2F98D728AE22, 0x7137449123EF65CD, 0xB5C0FBCFEC4D3B2F, 0xE9B5DBA58189DBBC,
  0x3956C25BF348B538, 0x59F111F1B605D019, 0x923F82A4AF194F9B, 0xAB1C5ED5DA6D8118,
  0xD807AA98A3030242, 0x12835B0145706FBE, 0x243185BE4EE4B28C, 0x550C7DC3D5FFB4E2,
  0x72BE5D74F27B896F, 0x80DEB1FE3B1696B1, 0x9BDC06A725C71235, 0xC19BF174CF692694,
  0xE49B69C19EF14AD2, 0xEFBE4786384F25E3, 0x0FC19DC68B8CD5B5, 0x240CA1CC77AC9C65,
  0x2DE92C6F592B0275, 0x4A7484AA6EA6E483, 0x5CB0A9DCBD41FBD4, 0x76F988DA831153B5,
  0x983E5152EE66DFAB, 0xA831C66D2DB43210, 0xB00327C898FB213F, 0xBF597FC7BEEF0EE4,
  0xC6E00BF33DA88FC2, 0xD5A79147930AA725, 0x06CA6351E003826F, 0x142929670A0E6E70,
  0x27B70A8546D22FFC, 0x2E1B21385C26C926, 0x4D2C6DFC5AC42AED, 0x53380D139D95B3DF,
  0x650A73548BAF63DE, 0x766A0ABB3C77B2A8, 0x81C2C92E47EDAEE6, 0x92722C851482353B]

def shaK2 : List Nat := [
  0xA2BFE8A14CF10364, 0xA81A664BBC423001, 0xC24B8B70D0F89791, 0xC76C51A30654BE30,
  0xD192E819D6EF5218, 0xD69906245565A910, 0xF40E35855771202A, 0x106AA07032BBD1B8,
  0x19A4C116B8D2D0C8, 0x1E376C085141AB53, 0x2748774CDF8EEB99, 0x34B0BCB5E19B48A8,
  0x391C0CB3C5C95A63, 0x4ED8AA4AE3418ACB, 0x5B9CCA4F7763E373, 0x682E6FF3D6B2B8A3,
  0x748F82EE5DEFB2FC, 0x78A5636F43172F60, 0x84C87814A1F0AB72, 0x8CC702081A6439EC,
  0x90BEFFFA23631E28, 0xA4506CEBDE82BDE9, 0xBEF9A3F7B2C67915, 0xC67178F2E372532B,
  0xCA273ECEEA26619C, 0xD186B8C721C0C207, 0xEADA7DD6CDE0EB1E, 0xF57D4F7FEE6ED178,
  0x06F067AA72176FBA, 0x0A637DC5A2C898A6, 0x113F9804BEF90DAE, 0x1B710B35131C471B,
  0x28DB77F523047D84, 0x32CAAB7B40C72493, 0x3C9EBE0A15C9BEBC, 0x431D67C49C100D4C,
  0x4CC5D4BECB3E42B6, 0x597F299CFC657E2A, 0x5FCB6FAB3AD6FAEC, 0x6C44198C4A475817]

def shaH0 : List Nat := [
  0xCBBB9D5DC1059ED8, 0x629A292A367CD507, 0x9159015A3070DD17, 0x152FECD8F70E5939,
  0x67332667FFC00B31, 0x8EB44A8768581511, 0xDB0C2E0D64F98FA7, 0x47B5481DBEFA4FA4]

def m64 (n : Nat) : Nat := n % 2 ^ 64
def rotr64 (x n : Nat) : Nat := Nat.lor (x >>> n) (m64 (x <<< (64 - n)))

/-- One round on (a, b, c, d, e, f, g, h). -/
def shaRound (v : List Nat) (k w : Nat) : List Nat :=
  let a := v.getD 0 0
  let b := v.getD 1 0
  let c := v.getD 2 0
  let e := v.getD 4 0
  let f := v.getD 5 0
  let g := v.getD 6 0
  let s1 := Nat.xor (Nat.xor (rotr64 e 14) (rotr64 e 18)) (rotr64 e 41)
  let ch := Nat.xor (Nat.land e f) (Nat.land (Nat.xor e (2 ^ 64 - 1)) g)
  let t1 := v.getD 7 0 + s1 + ch + k + w
  let s0 := Nat.xor (Nat.xor (rotr64 a 28) (rotr64 a 34)) (rotr64 a 39)
  let mj := Nat.xor (Nat.xor (Nat.land a b) (Nat.land a c)) (Nat.land b c)
  [m64 (t1 + s0 + mj), a, b, c, m64 (v.getD 3 0 + t1), e, f, g]

/-- The rounds over the key list, with the sixteen message words to come. -/
def shaRounds (ks : List Nat) (v w : List Nat) : List Nat × List Nat :=
  match ks with
  | [] => (v, w)
  | k :: r =>
    let w0 := w.getD 0 0
    let w1 := w.getD 1 0
    let w14 := w.getD 14 0
    let g0 := Nat.xor (Nat.xor (rotr64 w1 1) (rotr64 w1 8)) (w1 >>> 7)
    let g1 := Nat.xor (Nat.xor (rotr64 w14 19) (rotr64 w14 61)) (w14 >>> 6)
    shaRounds r (shaRound v k w0) (w.drop 1 ++ [m64 (g1 + w.getD 9 0 + g0 + w0)])

def shaBlock (h : List Nat) (b : List Byte) : List Nat :=
  let w := (List.range 16).map (fun i => beVal ((b.drop (8 * i)).take 8))
  let p := shaRounds shaK1 h w
  let q := shaRounds shaK2 p.1 p.2
  (List.range 8).map (fun i => m64 (h.getD i 0 + q.1.getD i 0))

def shaBlocks (n : Nat) (h : List Nat) (bs : List Byte) : List Nat :=
  match n with
  | 0 => h
  | k + 1 => if bs.isEmpty then h else shaBlocks k (shaBlock h (bs.take 128)) (bs.drop 128)

def sha384 (bs : List Byte) : List Byte :=
  let n := bs.length
  let pad := (111 + 128 - n % 128) % 128
  let msg := bs ++ [0x80] ++ List.replicate pad 0 ++ beBytes 16 (8 * n)
  ((shaBlocks (msg.length / 128) shaH0 msg).take 6).flatMap (fun x => beBytes 8 x)

def xorBytes (a b : List Byte) : List Byte := List.zipWith (fun x y => x ^^^ y) a b

def hmac384 (key msg : List Byte) : List Byte :=
  let k0 := if key.length > 128 then sha384 key else key
  let k := k0 ++ List.replicate (128 - k0.length) 0
  sha384 (k.map (fun b => b ^^^ 0x5C) ++ sha384 (k.map (fun b => b ^^^ 0x36) ++ msg))

/-- SP 800-108 in counter mode under HMAC-SHA-384: 32-bit counter, label, zero byte, context, 32-bit length. -/
def kdf108 (key label ctx : List Byte) (bits : Nat) : List Byte :=
  ((List.range ((bits + 383) / 384)).flatMap (fun i =>
    hmac384 key (beBytes 4 (i + 1) ++ label ++ [0] ++ ctx ++ beBytes 4 bits))).take (bits / 8)

def hkdfGo (n i : Nat) (prk info prev : List Byte) : List Byte :=
  match n with
  | 0 => []
  | k + 1 =>
    let t := hmac384 prk (prev ++ info ++ beBytes 1 i)
    t ++ hkdfGo k (i + 1) prk info t

def hkdfExtract (salt ikm : List Byte) : List Byte := hmac384 salt ikm
def hkdfExpand (prk info : List Byte) (n : Nat) : List Byte := (hkdfGo ((n + 47) / 48) 1 prk info []).take n
def hkdf384 (ikm salt info : List Byte) (n : Nat) : List Byte := hkdfExpand (hkdfExtract salt ikm) info n

/-! ### AES-256 (FIPS 197) -/

/-- The S-box, entry i in byte i. -/
def sboxWord : Nat :=
  0x16BB54B00F2D99416842E6BF0D89A18CDF2855CEE9871E9B948ED9691198F8E19E1DC186B95735610EF6034866B53E708A8BBD4B1F74DDE8C6B4A61C2E2578BA08AE7A65EAF4566CA94ED58D6D37C8E779E4959162ACD3C25C2406490A3A32E0DB0B5EDE14B8EE4688902A22DC4F816073195D643D7EA7C41744975FEC130CCDD2F3FF1021DAB6BCF5389D928F40A351A89F3C507F02F94585334D43FBAAEFD0CF584C4A39BECB6A5BB1FC20ED00D153842FE329B3D63B52A05A6E1B1A2C830975B227EBE28012079A059618C323C7041531D871F1E5A534CCF73F362693FDB7C072A49CAFA2D4ADF04759FA7DC982CA76ABD7FE2B670130C56F6BF27B777C63

def sbox (b : Byte) : Byte := BitVec.ofNat 8 (sboxWord >>> (8 * b.toNat))

def xtime (b : Byte) : Byte := if b.getLsbD 7 then (b <<< 1) ^^^ 0x1B else b <<< 1

/-- The words of the expanded key, latest first. -/
def aesExpand (n i : Nat) (ws : List (List Byte)) (rcon : Byte) : List (List Byte) :=
  match n with
  | 0 => ws
  | k + 1 =>
    let t := ws.getD 0 []
    let t1 := if i % 8 = 0 then
        (let r := (t.drop 1 ++ t.take 1).map sbox
         match r with
         | a :: q => (a ^^^ rcon) :: q
         | [] => [])
      else if i % 8 = 4 then t.map sbox else t
    aesExpand k (i + 1) (xorBytes (ws.getD 7 []) t1 :: ws) (if i % 8 = 0 then xtime rcon else rcon)

/-- The 15 round keys of a 32-byte key. -/
def aesKeys (key : List Byte) : List (List Byte) :=
  let w0 := ((List.range 8).map (fun i => (key.drop (4 * i)).take 4)).reverse
  let ws := (aesExpand 52 8 w0 1).reverse
  (List.range 15).map (fun r => ((ws.drop (4 * r)).take 4).flatten)

def shiftRows (s : List Byte) : List Byte := (List.range 16).map (fun i => s.getD ((i + 4 * (i % 4)) % 16) 0)

def mixCol (a b c d : Byte) : List Byte :=
  let t := a ^^^ b ^^^ c ^^^ d
  [a ^^^ t ^^^ xtime (a ^^^ b), b ^^^ t ^^^ xtime (b ^^^ c), c ^^^ t ^^^ xtime (c ^^^ d), d ^^^ t ^^^ xtime (d ^^^ a)]

def mixColumns (s : List Byte) : List Byte :=
  (List.range 4).flatMap (fun c => mixCol (s.getD (4 * c) 0) (s.getD (4 * c + 1) 0) (s.getD (4 * c + 2) 0) (s.getD (4 * c + 3) 0))

def aesRounds (ks : List (List Byte)) (s : List Byte) : List Byte :=
  match ks with
  | [] => s
  | [k] => xorBytes (shiftRows (s.map sbox)) k
  | k :: r => aesRounds r (xorBytes (mixColumns (shiftRows (s.map sbox))) k)

def aesBlock (ks : List (List Byte)) (b : List Byte) : List Byte :=
  match ks with
  | [] => b
  | k :: r => aesRounds r (xorBytes b k)

def aes256 (key b : List Byte) : List Byte := aesBlock (aesKeys key) b

/-! ### GCM (SP 800-38D) and CTR -/

/-- Product in GF(2^128), bit 127 of a number being the first bit. -/
def gmulGo (n : Nat) (x v z : Nat) : Nat :=
  match n with
  | 0 => z
  | k + 1 =>
    let z1 := if bitOf x k then Nat.xor z v else z
    gmulGo k x (if v % 2 = 1 then Nat.xor (v / 2) (0xE1 <<< 120) else v / 2) z1

def gf128 (x y : Nat) : Nat := gmulGo 128 x y 0

def ghashGo (n h y : Nat) (bs : List Byte) : Nat :=
  match n with
  | 0 => y
  | k + 1 =>
    if bs.isEmpty then y
    else
      let b := bs.take 16
      ghashGo k h (gf128 (Nat.xor y (beVal (b ++ List.replicate (16 - b.length) 0))) h) (bs.drop 16)

/-- GHASH over data padded to blocks. -/
def ghash (h : Nat) (aad ct : List Byte) : Nat :=
  let y := ghashGo (aad.length / 16 + 1) h 0 aad
  let y1 := ghashGo (ct.length / 16 + 1) h y ct
  gf128 (Nat.xor y1 (8 * aad.length * 2 ^ 64 + 8 * ct.length)) h

def ctrGo (n : Nat) (ks : List (List Byte)) (pre : List Byte) (c : Nat) (bs : List Byte) : List Byte :=
  match n with
  | 0 => []
  | k + 1 =>
    if bs.isEmpty then []
    else xorBytes (bs.take 16) (aesBlock ks (pre ++ beBytes 4 (c % 2 ^ 32))) ++ ctrGo k ks pre (c + 1) (bs.drop 16)

/-- Ciphertext (or plaintext) under a 12-byte IV. -/
def gcmCtr (key iv bs : List Byte) : List Byte := ctrGo (bs.length / 16 + 1) (aesKeys key) iv 2 bs

def gcmTag (key iv aad ct : List Byte) : List Byte :=
  let ks := aesKeys key
  let h := beVal (aesBlock ks (List.replicate 16 0))
  xorBytes (beBytes 16 (ghash h aad ct)) (aesBlock ks (iv ++ [0, 0, 0, 1]))

/-- Ciphertext and tag. -/
def gcmSeal (key iv aad pt : List Byte) : List Byte × List Byte :=
  let ct := gcmCtr key iv pt
  (ct, gcmTag key iv aad ct)

/-- Plaintext, where the tag verifies. -/
def gcmOpen (key iv aad ct tag : List Byte) : Option (List Byte) :=
  if gcmTag key iv aad ct = tag then some (gcmCtr key iv ct) else none

/-! ### XTS (IEEE 1619) -/

def xtsMul (t : Nat) : Nat := if bitOf t 127 then Nat.xor ((t * 2) % 2 ^ 128) 0x87 else t * 2

def xtsGo (n : Nat) (ks : List (List Byte)) (t : Nat) (bs : List Byte) : List Byte :=
  match n with
  | 0 => []
  | k + 1 =>
    if bs.isEmpty then []
    else
      let tb := leBytes 16 t
      xorBytes (aesBlock ks (xorBytes (bs.take 16) tb)) tb ++ xtsGo k ks (xtsMul t) (bs.drop 16)

/-- Encryption of whole blocks under a data key and a tweak key. -/
def xtsEnc (k1 k2 tweak bs : List Byte) : List Byte :=
  xtsGo (bs.length / 16 + 1) (aesKeys k1) (leVal (aes256 k2 tweak)) bs

/-! ### Reed-Solomon check symbols (R269) -/

/-- Product in GF(2^8) with x^8 + x^4 + x^3 + x^2 + 1. -/
def gf8Go (n : Nat) (a b : Byte) : Byte :=
  match n with
  | 0 => 0
  | k + 1 => (if b.getLsbD 0 then a else 0) ^^^ gf8Go k (if a.getLsbD 7 then (a <<< 1) ^^^ 0x1D else a <<< 1) (b >>> 1)

def gf8 (a b : Byte) : Byte := gf8Go 8 a b

/-- Coefficients of the product of (x − α^i), lowest first, for i from n down. -/
def rsGen (n : Nat) (alpha : Byte) (g : List Byte) : List Byte :=
  match n with
  | 0 => g
  | k + 1 => rsGen k (gf8 alpha 2) (List.zipWith (fun a b => a ^^^ gf8 alpha b) (0 :: g) (g ++ [0]))

/-- Remainder of data · x^10 by the generator, the first symbol being the highest power: ten check symbols. -/
def rsGo (ds : List Byte) (gen rem : List Byte) : List Byte :=
  match ds with
  | [] => rem
  | d :: r =>
    let f := d ^^^ rem.headD 0
    rsGo r gen (xorBytes (rem.drop 1 ++ [0]) (gen.map (fun g => gf8 f g)))

def rsCheck (ds : List Byte) : List Byte :=
  rsGo ds ((rsGen 10 1 [1]).reverse.drop 1) (List.replicate 10 0)

/-! ### brainpoolP384r1 (RFC 5639) -/

def bpP : Nat := 0x8CB91E82A3386D280F5D6F7E50E641DF152F7109ED5456B412B1DA197FB71123ACD3A729901D1A71874700133107EC53
def bpA : Nat := 0x7BC382C63D8C150C3C72080ACE05AFA0C2BEA28E4FB22787139165EFBA91F90F8AA5814A503AD4EB04A8C7DD22CE2826
def bpB : Nat := 0x04A8C7DD22CE28268B39B55416F0447C2FB77DE107DCD2A62E880EA53EEB62D57CB4390295DBC9943AB78696FA504C11
def bpGx : Nat := 0x1D1C64F068CF45FFA2A63A81B7C13F6B8847A3E77EF14FE3DB7FCAFE0CBD10E8E826E03436D646AAEF87B2E247D4AF1E
def bpGy : Nat := 0x8ABE1D7520F9C2A45CB1EB8E95CFD55262B70B29FEEC5864E19C054FF99129280E4646217791811142820341263C5315
def bpN : Nat := 0x8CB91E82A3386D280F5D6F7E50E641DF152F7109ED5456B31F166E6CAC0425A7CF3AB6AF6B7FC3103B883202E9046565

/-- b^e mod m over n bits of e. -/
def powModGo (n b e m acc : Nat) : Nat :=
  match n with
  | 0 => acc
  | k + 1 => powModGo k (b * b % m) (e / 2) m (if e % 2 = 1 then acc * b % m else acc)

/-- The inverse modulo a prime. -/
def invMod (a m : Nat) : Nat := powModGo 384 (a % m) (m - 2) m 1

/-- A point in Jacobian coordinates; Z = 0 is the point at infinity. -/
structure JPoint where
  x : Nat
  y : Nat
  z : Nat
  deriving DecidableEq, Repr

def subP (a b : Nat) : Nat := (a + bpP - b % bpP) % bpP

def jDouble (p : JPoint) : JPoint :=
  if p.z = 0 || p.y = 0 then { x := 1, y := 1, z := 0 }
  else
    let y2 := p.y * p.y % bpP
    let s := 4 * p.x * y2 % bpP
    let z2 := p.z * p.z % bpP
    let m := (3 * p.x * p.x + bpA * (z2 * z2 % bpP)) % bpP
    let x3 := subP (m * m) (2 * s)
    { x := x3, y := subP (m * subP s x3) (8 * (y2 * y2 % bpP)), z := 2 * p.y * p.z % bpP }

def jAdd (p q : JPoint) : JPoint :=
  if p.z = 0 then q
  else if q.z = 0 then p
  else
    let z1 := p.z * p.z % bpP
    let z2 := q.z * q.z % bpP
    let u1 := p.x * z2 % bpP
    let u2 := q.x * z1 % bpP
    let s1 := p.y * (z2 * q.z % bpP) % bpP
    let s2 := q.y * (z1 * p.z % bpP) % bpP
    if u1 = u2 then (if s1 = s2 then jDouble p else { x := 1, y := 1, z := 0 })
    else
      let h := subP u2 u1
      let r := subP s2 s1
      let h2 := h * h % bpP
      let h3 := h2 * h % bpP
      let v := u1 * h2 % bpP
      let x3 := subP (r * r) (h3 + 2 * v)
      { x := x3, y := subP (r * subP v x3) (s1 * h3), z := h * p.z % bpP * q.z % bpP }

def jMulGo (n k : Nat) (p acc : JPoint) : JPoint :=
  match n with
  | 0 => acc
  | i + 1 => jMulGo i k p (let d := jDouble acc; if bitOf k i then jAdd d p else d)

def jMul (k : Nat) (p : JPoint) : JPoint := jMulGo 384 k p { x := 1, y := 1, z := 0 }

/-- Affine coordinates, none at infinity. -/
def jAffine (p : JPoint) : Option (Nat × Nat) :=
  if p.z = 0 then none
  else
    let i := invMod p.z bpP
    let i2 := i * i % bpP
    some (p.x * i2 % bpP, p.y * (i2 * i % bpP) % bpP)

def bpG : JPoint := { x := bpGx, y := bpGy, z := 1 }

/-- A pair on the curve, as a public key must be. -/
def onCurve (x y : Nat) : Bool :=
  x < bpP && y < bpP && y * y % bpP = (x * x % bpP * x + bpA * x + bpB) % bpP

/-- The 96-byte public key, X then Y, of a private key. -/
def ecPublic (d : Nat) : List Byte :=
  match jAffine (jMul d bpG) with
  | some (x, y) => beBytes 48 x ++ beBytes 48 y
  | none => List.replicate 96 0

def pubPoint (pk : List Byte) : Option JPoint :=
  let x := beVal (pk.take 48)
  let y := beVal ((pk.drop 48).take 48)
  if pk.length = 96 && onCurve x y then some { x := x, y := y, z := 1 } else none

/-- The 48-byte ECDH secret. -/
def ecdh (d : Nat) (pk : List Byte) : Option (List Byte) :=
  (pubPoint pk).bind (fun p => (jAffine (jMul d p)).map (fun a => beBytes 48 a.1))

/-- ECDSA of a 48-byte digest with the random k, r then s. -/
def ecdsaSign (d k : Nat) (digest : List Byte) : List Byte :=
  let k1 := k % (bpN - 1) + 1
  let r := match jAffine (jMul k1 bpG) with
    | some a => a.1 % bpN
    | none => 0
  let s := invMod k1 bpN * ((beVal digest + r * d) % bpN) % bpN
  beBytes 48 r ++ beBytes 48 s

def ecdsaVerify (pk digest sig : List Byte) : Bool :=
  let r := beVal (sig.take 48)
  let s := beVal ((sig.drop 48).take 48)
  match pubPoint pk with
  | none => false
  | some q =>
    if sig.length ≠ 96 || r = 0 || s = 0 || bpN ≤ r || bpN ≤ s then false
    else
      let w := invMod s bpN
      let p := jAdd (jMul (beVal digest * w % bpN) bpG) (jMul (r * w % bpN) q)
      match jAffine p with
      | some a => a.1 % bpN = r
      | none => false

end Sys2Proof.Machine
end

