-- ==== Sys2Proof/Config.lean ====
section
/-! DEFINITION. The values the spec leaves open: constants without a body, so that a claim holds whatever they are.
Each is applied to what it depends on, or to the state's counter of values drawn (log entry 6). -/
namespace Sys2Proof.Config
open Sys2Proof

/-- The n-th random value drawn by the entropy source: keys, nonces, identifiers (log entry 16). -/
opaque freeRandom (n bits : Nat) : Nat
/-- What a register holds when two writes to it take effect in one cycle: no rule orders them (log entry 20). -/
opaque freeReg (n : Nat) : BitVec 64
/-- Cycles of the n-th hold or freeze of a plate on tile t that the spec leaves to other tiles, memory or the fabric (log entry 1). -/
opaque freeCycles (n t : Nat) : Nat
/-- The E8M0 byte of a value that no rule converts to E8M0: sign, significand, exponent (log entry 18). -/
opaque freeE8m0 (neg : Bool) (m : Nat) (e : Int) : Nat
/-- The RATIO of a monitor entry whose two sums are both infinite, which R199 does not give. -/
opaque freeRatio : Nat
/-- The firmware minor of an image version at a major below its IF_MAJ_MAX, which no header field gives. -/
opaque fwMinor (version major : Nat) : Nat
/-- The token digests that a delivered device holds, by transition (R394, log entry 4). -/
opaque tokenDigest (transition : Nat) : Nat
/-- The key digests of R412 that a delivered device holds, by KEY_INDEX (log entry 4). -/
opaque otpKeyDigest (index : Nat) : Nat
/-- The root secrets in OTP, 384 bits each: 0 TEST, 1 MFG, 2 PROD, 3 RMA. -/
opaque rootSecret (root : Nat) : Nat
/-- SHA-384 of the mask ROM of the security core, and its version. -/
opaque bootRomDigest : Nat
opaque bootRomVersion : Nat
/-- The version of a settings block, which no field of the block gives. -/
opaque settingsVersion (digest : Nat) : Nat
/-- The label string of KEY_DERIVE's key derivation, which R390 does not give beside its context string. -/
opaque deriveLabel : Nat
/-- The DER bytes of the certificate chain in slot 0: it depends on the identity key and the attestation key. -/
opaque certChain (idKey ak : Nat) : List Byte
/-- The meter: its private signing key, SHA-384 of its mask ROM, and the version of that ROM. -/
opaque meterKey : Nat
opaque meterRomDigest : Nat
opaque meterRomVersion : Nat
/-- The meter's DER chain, the bytes that its calibration OTP holds beside what the model knows of it, and the wrap record that
it answers before the first wrap. -/
opaque meterChain : List Byte
opaque calOtp (known : List Byte) : List Byte
opaque firstWrap : List Byte
/-- DETAIL of a log entry by its TYPE, WRAP apart; the TYPE that logs a rejected token; and the status of a meter request refused
for a reason that Table 18-9's statuses do not name. -/
opaque logDetail (typ : Nat) : Nat
opaque rejectedType : Nat
opaque meterRefusal (reason : Nat) : Nat
/-- What SAMPLE captures of the pins' levels: R466 does not give the order of the boundary-scan cells. -/
opaque scanImage (levels : List Bool) : Nat
/-- What MACsec makes of a frame under its SAK, which the standards and MKA fix (R241): the SecTAG with its SCI by the port and packet
number, the ciphertext of the bytes it encrypts, the ICV, and the Ethernet FCS of the frame's bytes. -/
opaque secTag (port pn : Nat) : BitVec 128
opaque macsecCipher (port pn : Nat) (clear : List Byte) (i : Nat) : Byte
opaque macsecIcv (port pn : Nat) (clear : List Byte) : BitVec 128
opaque frameFcs (bytes : List Byte) : BitVec 32
/-- The 128-bit RESULT of FW_QUERY over what it holds: Table 17-7 does not give its layout. -/
opaque fwQuery (parts : List Nat) : Nat

end Sys2Proof.Config
end

