-- ==== Sys2Proof/Machine/Numerics.lean ====
section
/-! DEFINITION. Number formats, rounding, conversion, stipple bits, MX scales, piece splitting and the windowed
array sum (spec 03, R60 to R81). Values are exact dyadic numbers; every rounding is explicit. -/
namespace Sys2Proof.Machine
open Sys2Proof

/-- Table 3-1. -/
inductive Fmt where
  | fp32 | fp16 | bf16 | e4m3 | e5m2 | int8 | int32
  | mxE4m3 | mxE5m2 | mxE3m2 | mxE2m3 | mxE2m1 | mxInt8 | e8m0 | fp64
  deriving DecidableEq, Repr

/-- Table 3-1 read from the 5-bit code; reserved codes are none. -/
def fmtOfCode (c : Nat) : Option Fmt :=
  match c with
  | 0x01 => some .fp32 | 0x02 => some .fp16 | 0x03 => some .bf16 | 0x04 => some .e4m3
  | 0x05 => some .e5m2 | 0x06 => some .int8 | 0x07 => some .int32 | 0x08 => some .mxE4m3
  | 0x09 => some .mxE5m2 | 0x0A => some .mxE3m2 | 0x0B => some .mxE2m3 | 0x0C => some .mxE2m1
  | 0x0D => some .mxInt8 | 0x0E => some .e8m0 | 0x0F => some .fp64 | _ => none

def fmtCode (f : Fmt) : Nat :=
  match f with
  | .fp32 => 0x01 | .fp16 => 0x02 | .bf16 => 0x03 | .e4m3 => 0x04 | .e5m2 => 0x05 | .int8 => 0x06
  | .int32 => 0x07 | .mxE4m3 => 0x08 | .mxE5m2 => 0x09 | .mxE3m2 => 0x0A | .mxE2m3 => 0x0B
  | .mxE2m1 => 0x0C | .mxInt8 => 0x0D | .e8m0 => 0x0E | .fp64 => 0x0F

/-- Stored bits of one element (Table 3-2). -/
def fmtBits (f : Fmt) : Nat :=
  match f with
  | .fp32 => 32 | .fp16 => 16 | .bf16 => 16 | .e4m3 => 8 | .e5m2 => 8 | .int8 => 8 | .int32 => 32
  | .mxE4m3 => 8 | .mxE5m2 => 8 | .mxE3m2 => 6 | .mxE2m3 => 6 | .mxE2m1 => 4 | .mxInt8 => 8
  | .e8m0 => 8 | .fp64 => 64

def fmtIsMx (f : Fmt) : Bool :=
  match f with
  | .mxE4m3 | .mxE5m2 | .mxE3m2 | .mxE2m3 | .mxE2m1 | .mxInt8 => true
  | _ => false

def fmtIsInt (f : Fmt) : Bool :=
  match f with
  | .int8 | .int32 => true
  | _ => false

/-- What the all-ones exponent field holds. -/
inductive TopKind where
  | ieee      -- infinity and NaN
  | e4m3      -- finite but for the two NaN encodings
  | finite    -- every encoding finite
  deriving DecidableEq, Repr

/-- The parameters of a floating-point element layout (Table 3-2). -/
structure FpLayout where
  ebits : Nat
  fbits : Nat
  bias  : Nat
  top   : TopKind
  deriving DecidableEq, Repr

/-- The floating-point layout of a format's element; none for integers and E8M0. -/
def fpLayout (f : Fmt) : Option FpLayout :=
  match f with
  | .fp64 => some ⟨11, 52, 1023, .ieee⟩
  | .fp32 => some ⟨8, 23, 127, .ieee⟩
  | .fp16 => some ⟨5, 10, 15, .ieee⟩
  | .bf16 => some ⟨8, 7, 127, .ieee⟩
  | .e4m3 | .mxE4m3 => some ⟨4, 3, 7, .e4m3⟩
  | .e5m2 | .mxE5m2 => some ⟨5, 2, 15, .ieee⟩
  | .mxE3m2 => some ⟨3, 2, 3, .finite⟩
  | .mxE2m3 => some ⟨2, 3, 1, .finite⟩
  | .mxE2m1 => some ⟨2, 1, 1, .finite⟩
  | _ => none

/-- An exact value: NaN, an infinity, or (−1)^neg · m · 2^e; m = 0 is a signed zero. -/
inductive FVal where
  | nan
  | inf (neg : Bool)
  | fin (neg : Bool) (m : Nat) (e : Int)
  deriving DecidableEq, Repr

/-- Four sticky flags (R81). -/
structure NFlags where
  ovf : Bool := false
  unf : Bool := false
  inx : Bool := false
  inv : Bool := false
  deriving DecidableEq, Repr

def flagsNone : NFlags := {}
def flagsInv : NFlags := { inv := true }

def flagsOr (a b : NFlags) : NFlags :=
  { ovf := a.ovf || b.ovf, unf := a.unf || b.unf, inx := a.inx || b.inx, inv := a.inv || b.inv }

/-- Bits 0 to 3: OVF, UNF, INX, INV (Table 3-7). -/
def flagsCode (f : NFlags) : Nat :=
  boolNat f.ovf + 2 * boolNat f.unf + 4 * boolNat f.inx + 8 * boolNat f.inv

/-- Rounding modes of Table 3-5; a stipple mode carries its window and the draw u of the element (R77). -/
inductive RMode where
  | rne
  | rtz
  | st (n u : Nat)
  deriving DecidableEq, Repr

/-- m · 2^k for a signed exponent, truncated when k is negative. -/
def shiftBy (m : Nat) (k : Int) : Nat := if k ≥ 0 then m <<< k.toNat else m >>> (-k).toNat

/-- floor(log2 (m · 2^e)) for m ≠ 0. -/
def leadExp (m : Nat) (e : Int) : Int := e + (Nat.log2 m : Int)

/-- Rounds the magnitude m · 2^e (plus something strictly between 0 and 2^e when sticky) to a multiple of 2^q.
Returns the multiple and whether the result is inexact. -/
def roundAt (r : RMode) (m : Nat) (e : Int) (sticky : Bool) (q : Int) : Nat × Bool :=
  if q ≤ e then (m <<< (e - q).toNat, sticky)
  else
    let s := (q - e).toNat
    let lo := m >>> s
    let rem := m % 2 ^ s
    let half := 2 ^ (s - 1)
    let up : Bool :=
      match r with
      | .rne => rem > half || (rem = half && (sticky || lo % 2 = 1))
      | .rtz => false
      | .st n u => u < (rem <<< n) >>> s
    (if up then lo + 1 else lo, rem ≠ 0 || sticky)

/-- Exponent of the unit in the last place: p significant bits, not below the subnormal step. -/
def ulpExp (p : Nat) (minQ : Option Int) (m : Nat) (e : Int) : Int :=
  let q := leadExp m e - (p - 1 : Int)
  match minQ with
  | none => q
  | some k => max q k

/-- Compares m1 · 2^e1 < m2 · 2^e2 exactly. -/
def magLt (m1 : Nat) (e1 : Int) (m2 : Nat) (e2 : Int) : Bool :=
  if e1 ≤ e2 then m1 < m2 <<< (e2 - e1).toNat else m1 <<< (e1 - e2).toNat < m2

/-- Subnormal step exponent of a layout. -/
def minQuantum (l : FpLayout) : Int := 1 - (l.bias : Int) - (l.fbits : Int)
/-- Exponent of the smallest normal value. -/
def minNormExp (l : FpLayout) : Int := 1 - (l.bias : Int)
/-- The largest finite magnitude (significand, exponent). -/
def maxFinite (l : FpLayout) : Nat × Int :=
  let topE : Int := (2 ^ l.ebits - 1 : Nat) - (l.bias : Int)
  match l.top with
  | .ieee => (2 ^ (l.fbits + 1) - 1, topE - 1 - l.fbits)
  | .e4m3 => (2 ^ (l.fbits + 1) - 2, topE - l.fbits)
  | .finite => (2 ^ (l.fbits + 1) - 1, topE - l.fbits)

def fpWidth (l : FpLayout) : Nat := 1 + l.ebits + l.fbits
def fpSign (l : FpLayout) (neg : Bool) : Nat := boolNat neg <<< (l.ebits + l.fbits)

/-- Canonical NaN of a layout (Table 3-2, R66); layouts without one do not ask. -/
def fpNan (l : FpLayout) : Nat :=
  match l.top with
  | .ieee => ((2 ^ l.ebits - 1) <<< l.fbits) + 2 ^ (l.fbits - 1)
  | _ => 2 ^ (l.ebits + l.fbits) - 1

def fpInf (l : FpLayout) (neg : Bool) : Nat := fpSign l neg + ((2 ^ l.ebits - 1) <<< l.fbits)

/-- The bits of a finite magnitude that the layout represents. -/
def fpPack (l : FpLayout) (neg : Bool) (m : Nat) (e : Int) : Nat :=
  if m = 0 then fpSign l neg
  else
    let x := leadExp m e
    if x < minNormExp l then fpSign l neg + shiftBy m (e - minQuantum l)
    else
      let frac := shiftBy m (e - (x - l.fbits)) - 2 ^ l.fbits
      fpSign l neg + ((x + l.bias).toNat <<< l.fbits) + frac

def fpMax (l : FpLayout) (neg : Bool) : Nat := fpPack l neg (maxFinite l).1 (maxFinite l).2

/-- The value of an element's bits (R61, R65). -/
def fpUnpack (l : FpLayout) (b : Nat) : FVal :=
  let neg := bitOf b (l.ebits + l.fbits)
  let ex := (b >>> l.fbits) % 2 ^ l.ebits
  let fr := b % 2 ^ l.fbits
  if ex = 2 ^ l.ebits - 1 && l.top = .ieee then
    if fr = 0 then .inf neg else .nan
  else if ex = 2 ^ l.ebits - 1 && l.top = .e4m3 && fr = 2 ^ l.fbits - 1 then .nan
  else if ex = 0 then .fin neg fr (minQuantum l)
  else .fin neg (2 ^ l.fbits + fr) ((ex : Int) - l.bias - l.fbits)

/-- An integer as an exact value. -/
def intVal (i : Int) : FVal := .fin (i < 0) i.natAbs 0

/-- The value of one stored element, MX elements without their block scale (R61, R63). -/
def elemVal (f : Fmt) (b : Nat) : FVal :=
  match fpLayout f with
  | some l => fpUnpack l b
  | none =>
    match f with
    | .int8 => intVal (sextNat 8 b)
    | .int32 => intVal (sextNat 32 b)
    | .mxInt8 => match intVal (sextNat 8 b) with
      | .fin n m _ => .fin n m (-6)
      | v => v
    | _ => if b % 256 = 255 then .nan else .fin false 1 ((b % 256 : Nat) - 127)

/-- The factor of an E8M0 block scale; 0xFF makes every value of the block NaN (R63). -/
def scaleVal (v : FVal) (sc : Nat) : FVal :=
  if sc % 256 = 255 then .nan
  else match v with
    | .fin n m e => .fin n m (e + ((sc % 256 : Nat) - 127))
    | w => w

/-- Value of an element of an MX block: X · e_k (R63). -/
def mxVal (f : Fmt) (sc b : Nat) : FVal := scaleVal (elemVal f b) sc

/-- An exact magnitude with a remainder mark: the source of a rounding. -/
structure XVal where
  neg    : Bool
  m      : Nat
  e      : Int
  sticky : Bool := false
  deriving DecidableEq, Repr

/-- Rounding to a floating-point layout under Table 3-4; sat is the operation's SAT bit, widen says R69 applies. -/
def roundFp (l : FpLayout) (r : RMode) (sat widen : Bool) (x : XVal) : Nat × NFlags :=
  if x.m = 0 && !x.sticky then (fpSign l x.neg, flagsNone)
  else if x.m = 0 then (fpSign l x.neg, { unf := true, inx := true })
  else
    let q := ulpExp (l.fbits + 1) (some (minQuantum l)) x.m x.e
    let (k, ine) := roundAt r x.m x.e x.sticky q
    let mx := maxFinite l
    if magLt mx.1 mx.2 k q then
      let toInf : Bool := match l.top with
        | .ieee => widen || (!sat && r ≠ .rtz)
        | _ => false
      if toInf then (fpInf l x.neg, { ovf := true, inx := true })
      else if l.top = .e4m3 && !sat && !widen then (fpNan l, { ovf := true, inx := true, inv := true })
      else (fpMax l x.neg, { ovf := true, inx := true })
    else
      let qu := ulpExp (l.fbits + 1) none x.m x.e
      let (ku, _) := roundAt r x.m x.e x.sticky qu
      let tiny := magLt ku qu 1 (minNormExp l)
      (fpPack l x.neg k q, { unf := ine && tiny, inx := ine })

/-- Rounding to a two's complement integer of w bits (Table 3-4, R67). -/
def roundInt (w : Nat) (r : RMode) (x : XVal) : Nat × NFlags :=
  let (k, ine) := roundAt r x.m x.e x.sticky 0
  let lim := if x.neg then 2 ^ (w - 1) else 2 ^ (w - 1) - 1
  if k > lim then (if x.neg then 2 ^ (w - 1) else 2 ^ (w - 1) - 1, { ovf := true, inx := true })
  else ((if x.neg then (2 ^ w - k) % 2 ^ w else k), { inx := ine })

/-- E8M0 holds powers of two and NaN (R61). The spec states no rounding to it: any other value is a free value. -/
def convertE8m0 (v : FVal) : Nat × NFlags :=
  match v with
  | .nan => (255, flagsInv)
  | .inf n => (Config.freeE8m0 n 0 1 % 256, flagsNone)
  | .fin n m e =>
    let x := leadExp m e + 127
    if !n && m ≠ 0 && m = 2 ^ Nat.log2 m && 0 ≤ x && x ≤ 254 then (x.toNat, flagsNone)
    else (Config.freeE8m0 n m e % 256, flagsNone)

/-- Conversion of an exact value to a stored format other than an MX block (R69, R70, Table 3-4). -/
def convert (f : Fmt) (r : RMode) (sat widen : Bool) (v : FVal) : Nat × NFlags :=
  match fpLayout f with
  | some l =>
    match v with
    | .nan => (fpNan l, flagsInv)
    | .inf n =>
      match l.top with
      | .ieee => (fpInf l n, flagsNone)
      | .e4m3 => if sat then (fpMax l n, flagsInv) else (fpNan l, flagsInv)
      | .finite => (fpMax l n, flagsInv)
    | .fin n m e => roundFp l r sat widen { neg := n, m := m, e := e }
  | none =>
    if f = .e8m0 then convertE8m0 v else
    let w := fmtBits f
    match v with
    | .nan => (0, flagsInv)
    | .inf n => (if n then 2 ^ (w - 1) else 2 ^ (w - 1) - 1, flagsInv)
    | .fin n m e => roundInt w r { neg := n, m := m, e := e }

/-- MXINT8 elements count in steps of 2^-6. -/
def convertElem (f : Fmt) (r : RMode) (v : FVal) : Nat × NFlags :=
  match f, v with
  | .mxInt8, .fin n m e => roundInt 8 r { neg := n, m := m, e := e + 6 }
  | _, _ => convert f r true false v

/-- EMAX of R64 step 4. -/
def mxEmax (f : Fmt) : Int :=
  match f with
  | .mxE4m3 => 8 | .mxE5m2 => 15 | .mxE3m2 => 4 | .mxE2m3 => 2 | .mxE2m1 => 2 | _ => 0

def magMax (vs : List FVal) : Nat × Int :=
  vs.foldl (fun a v => match v with
    | .fin _ m e => if magLt a.1 a.2 m e then (m, e) else a
    | _ => a) (0, 0)

/-- R64: scale byte, stored elements (each with its own rounding mode) and flags of one block. -/
def mxQuantise (f : Fmt) (h : Nat) (rs : List RMode) (vs : List FVal) : Nat × List Nat × NFlags :=
  if vs.any (fun v => match v with | .fin _ _ _ => false | _ => true) then (255, vs.map (fun _ => 0), flagsInv)
  else
    let a := magMax vs
    if a.1 = 0 then
      (0, vs.map (fun v => match v with | .fin n _ _ => (convertElem f .rne (.fin n 0 0)).1 | _ => 0), flagsNone)
    else
      let e0 := leadExp a.1 a.2 - mxEmax f + h
      let e := max (-127) (min 127 e0)
      let out := (vs.zip rs).map (fun p => convertElem f p.2
        (match p.1 with | .fin n m x => .fin n m (x - e) | w => w))
      ((e + 127).toNat, out.map Prod.fst, out.foldl (fun acc o => flagsOr acc o.2) flagsNone)

/-- R69: the destination represents every finite value of the source (elements of MX sources without scale). -/
def fmtWidens (src dst : Fmt) : Bool :=
  if src = dst then true
  else match fpLayout src, fpLayout dst with
    | some a, some b =>
      !fmtIsMx dst && a.fbits ≤ b.fbits && minQuantum b ≤ minQuantum a
        && !(magLt (maxFinite b).1 (maxFinite b).2 (maxFinite a).1 (maxFinite a).2)
    | none, some b =>
      !fmtIsMx dst &&
      (match src with
        | .int8 | .mxInt8 => b.fbits ≥ 6 && b.ebits ≥ 5
        | .int32 => b.fbits ≥ 30
        | .e8m0 => b.ebits ≥ 8
        | _ => false)
    | none, none =>
      match src, dst with
      | .int8, .int32 => true
      | _, _ => false
    | some _, none => false

/-! ### Exact arithmetic on values -/

def fneg (v : FVal) : FVal :=
  match v with
  | .nan => .nan
  | .inf n => .inf (!n)
  | .fin n m e => .fin (!n) m e

def fabs (v : FVal) : FVal :=
  match v with
  | .nan => .nan
  | .inf _ => .inf false
  | .fin _ m e => .fin false m e

def signedAt (n : Bool) (m : Nat) (e q : Int) : Int :=
  let k : Int := (m <<< (e - q).toNat : Nat)
  if n then -k else k

/-- IEEE addition, exact; an exact zero of opposite signs is +0 (R67). -/
def fadd (a b : FVal) : FVal :=
  match a, b with
  | .nan, _ => .nan
  | _, .nan => .nan
  | .inf n, .inf k => if n = k then .inf n else .nan
  | .inf n, .fin _ _ _ => .inf n
  | .fin _ _ _, .inf k => .inf k
  | .fin n m e, .fin n' m' e' =>
    if m = 0 && m' = 0 then .fin (n && n') 0 0
    else
      let q := min e e'
      let s := signedAt n m e q + signedAt n' m' e' q
      .fin (s < 0) s.natAbs q

/-- IEEE multiplication, exact. -/
def fmul (a b : FVal) : FVal :=
  match a, b with
  | .nan, _ => .nan
  | _, .nan => .nan
  | .inf n, .inf k => .inf (n != k)
  | .inf n, .fin k m _ => if m = 0 then .nan else .inf (n != k)
  | .fin n m _, .inf k => if m = 0 then .nan else .inf (n != k)
  | .fin n m e, .fin n' m' e' => .fin (n != n') (m * m') (e + e')

/-- Numeric order; false when either is NaN. Zeros compare equal. -/
def flt (a b : FVal) : Bool :=
  match a, b with
  | .nan, _ => false
  | _, .nan => false
  | .inf n, .inf k => n && !k
  | .inf n, .fin _ _ _ => n
  | .fin _ _ _, .inf k => !k
  | .fin n m e, .fin n' m' e' =>
    let q := min e e'
    signedAt n m e q < signedAt n' m' e' q

def feq (a b : FVal) : Bool :=
  match a, b with
  | .nan, _ => false
  | _, .nan => false
  | _, _ => !(flt a b) && !(flt b a)

def fisNan (v : FVal) : Bool := match v with | .nan => true | _ => false

/-- Largest k with k·k ≤ n, by fuelled bisection from the top bit. -/
def isqrtGo (fuel n r bit : Nat) : Nat :=
  match fuel with
  | 0 => r
  | f + 1 =>
    let t := r + bit
    isqrtGo f n (if t * t ≤ n then t else r) (bit / 2)

def isqrt (n : Nat) : Nat :=
  let h := Nat.log2 n / 2 + 1
  isqrtGo (h + 1) n 0 (2 ^ h)

/-- Quotient of nonzero finite magnitudes to at least 120 bits, with the remainder mark. -/
def divX (neg : Bool) (m : Nat) (e : Int) (m' : Nat) (e' : Int) : XVal :=
  let k := 120 + Nat.log2 m'
  let n := m <<< k
  { neg := neg, m := n / m', e := e - e' - k, sticky := n % m' ≠ 0 }

/-- Square root of a positive finite magnitude with the remainder mark. -/
def sqrtX (m : Nat) (e : Int) : XVal :=
  let k : Nat := if (e % 2) = 0 then 240 else 241
  let n := m <<< k
  let r := isqrt n
  { neg := false, m := r, e := (e - k) / 2, sticky := r * r ≠ n }

/-! ### Philox4x32-10 and stipple bits (R77 to R79) -/

def philoxRound (c : Nat × Nat × Nat × Nat) (k : Nat × Nat) : Nat × Nat × Nat × Nat :=
  let p0 := 0xD2511F53 * c.1
  let p1 := 0xCD9E8D57 * c.2.2.1
  let hi0 := p0 / 2 ^ 32
  let lo0 := p0 % 2 ^ 32
  let hi1 := p1 / 2 ^ 32
  let lo1 := p1 % 2 ^ 32
  (Nat.xor (Nat.xor hi1 c.2.1) k.1, lo1, Nat.xor (Nat.xor hi0 c.2.2.2) k.2, lo0)

def philoxGo (n : Nat) (c : Nat × Nat × Nat × Nat) (k : Nat × Nat) : Nat × Nat × Nat × Nat :=
  match n with
  | 0 => c
  | f + 1 => philoxGo f (philoxRound c k) ((k.1 + 0x9E3779B9) % 2 ^ 32, (k.2 + 0xBB67AE85) % 2 ^ 32)

/-- The 128 bits of one call, w0 lowest. -/
def philox (c0 c1 c2 c3 k0 k1 : Nat) : Nat :=
  let r := philoxGo 10 (c0, c1, c2, c3) (k0, k1)
  r.1 + r.2.1 <<< 32 + r.2.2.1 <<< 64 + r.2.2.2 <<< 96

/-- What fixes a random draw besides the element: SEED, TAG, STEP and USE (R78). -/
structure DrawCtx where
  seed : Nat
  tag  : Nat
  step : Nat
  use  : Nat
  deriving DecidableEq, Repr

/-- R78: the draw of width n (8, 12, 16 or 32) of element i. -/
def stippleBits (d : DrawCtx) (n i : Nat) : Nat :=
  let g := if n = 8 then 16 else if n = 32 then 4 else 8
  let lane := if n = 8 then 8 else if n = 32 then 32 else 16
  let blk := i / g
  let j := i % g
  let out := philox (blk % 2 ^ 32) ((d.use % 256) <<< 8 + (blk >>> 32) % 256) (d.step % 2 ^ 32)
    ((d.step >>> 32) % 2 ^ 32) (d.seed % 2 ^ 32) ((d.tag % 4096) <<< 20 + (d.seed >>> 32) % 2 ^ 20)
  (out >>> (lane * j)) % 2 ^ n

/-- Table 3-5 for one element: none for a reserved code. -/
def rmodeOf (code : Nat) (d : DrawCtx) (i : Nat) : Option RMode :=
  match code with
  | 0 => some .rne
  | 1 => some .rtz
  | 2 => some (.st 8 (stippleBits d 8 i))
  | 3 => some (.st 12 (stippleBits d 12 i))
  | 4 => some (.st 16 (stippleBits d 16 i))
  | _ => none

def rmodeAt (code : Nat) (d : DrawCtx) (i : Nat) : RMode := (rmodeOf code d i).getD .rne

/-- R76: a stipple mode on a conversion that does not narrow is refused at issue. -/
def rmodeRefused (code : Nat) (narrows : Bool) : Bool := 2 ≤ code && code ≤ 4 && !narrows

/-! ### Pieces and array sums -/

/-- Rounds a finite value to 8 significant bits, nearest even (R73, R74). -/
def roundSig8 (v : FVal) : FVal :=
  match v with
  | .fin n m e =>
    if m = 0 then v
    else
      let q := ulpExp 8 none m e
      .fin n (roundAt .rne m e false q).1 q
  | w => w

/-- R74: the pieces p0, p1, p2 of a value. -/
def pieces (k : Nat) (v : FVal) : List FVal :=
  match v with
  | .fin _ m _ =>
    if m = 0 || k = 1 then v :: List.replicate (k - 1) (.fin false 0 0)
    else
      let pos := fun (x : FVal) => match x with | .fin _ 0 _ => FVal.fin false 0 0 | w => w
      let p0 := roundSig8 v
      let r1 := pos (fadd v (fneg p0))
      let p1 := roundSig8 r1
      let r2 := pos (fadd r1 (fneg p1))
      let p2 := roundSig8 r2
      if k = 2 then [p0, p1] else [p0, p1, p2]
  | w => w :: List.replicate (k - 1) (.fin false 0 0)

/-- R74: the entry of a P2 operand is inexact exactly when x − p0 − p1 ≠ 0. -/
def piecesInexact (k : Nat) (v : FVal) : Bool :=
  match v with
  | .fin _ _ _ =>
    match (pieces k v).foldl (fun a p => fadd a (fneg p)) v with
    | .fin _ 0 _ => false
    | _ => true
  | _ => false

/-- R73: an FP16 operand at full rate, with its INX. -/
def fp16n (v : FVal) : FVal × Bool :=
  match v with
  | .fin _ _ _ => let w := roundSig8 v; (w, !(feq v w))
  | w => (w, false)

/-- R71: floor of ±m · 2^e to a multiple of 2^q. -/
def truncWindow (n : Bool) (m : Nat) (e q : Int) : Int :=
  if q ≤ e then (if n then -((m <<< (e - q).toNat : Nat) : Int) else ((m <<< (e - q).toNat : Nat) : Int))
  else (if n then -(m : Int) else (m : Int)) / ((2 ^ (q - e).toNat : Nat) : Int)

/-- R68 and R71: the column sum of one cycle's products, with window W. -/
def columnSum (w : Nat) (ps : List FVal) : FVal :=
  if ps.any fisNan then .nan
  else
    let pinf := ps.any (fun p => p = .inf false)
    let ninf := ps.any (fun p => p = .inf true)
    if pinf && ninf then .nan
    else if pinf then .inf false
    else if ninf then .inf true
    else
      let a := magMax ps
      if a.1 = 0 then .fin false 0 0
      else
        let q := leadExp a.1 a.2 - w
        let s := ps.foldl (fun acc p => match p with
          | .fin n m e => acc + truncWindow n m e q
          | _ => acc) (0 : Int)
        .fin (s < 0) s.natAbs q

/-- R75: pass order (activation piece, weight piece) of a combination; none when it cannot be encoded. -/
def passOrder (pa pw : Nat) : Option (List (Nat × Nat)) :=
  match pa, pw with
  | 1, 1 => some [(0, 0)]
  | 2, 1 => some [(1, 0), (0, 0)]
  | 1, 2 => some [(0, 1), (0, 0)]
  | 2, 2 => some [(1, 0), (0, 1), (0, 0)]
  | 3, 1 => some [(2, 0), (1, 0), (0, 0)]
  | 1, 3 => some [(0, 2), (0, 1), (0, 0)]
  | 3, 3 => some [(2, 0), (1, 1), (0, 2), (1, 0), (0, 1), (0, 0)]
  | _, _ => none

/-- The bits of a value in a format that represents it, or its rounding to nearest even. -/
def toBits (f : Fmt) (v : FVal) : Nat := (convert f .rne false false v).1

end Sys2Proof.Machine
end

