-- ==== Sys2Proof/Machine/StateUnits.lean ====
section
/-! DEFINITION. Unit headers, requests between units, hardware transactions and spare substitution as plain data
(spec 01 and 02). -/
namespace Sys2Proof.Machine
open Sys2Proof

/-- Table 2-1. -/
inductive UState where
  | off | sleep | run | quiescing | quiesced | resetting | retired
  deriving DecidableEq, Repr

def ustateCode (x : UState) : Nat :=
  match x with
  | .off => 0 | .sleep => 1 | .run => 2 | .quiescing => 3 | .quiesced => 4 | .resetting => 5 | .retired => 6

/-- Commands of Table 1-11 that a unit can have in progress. -/
inductive UCmd where
  | quiesce | resume | reset | sleep | retire
  deriving DecidableEq, Repr

/-- One unit: its header registers (Tables 1-5 to 1-16) and the command acting on it. `root` is the page of the
unit the command was written to (R34, R35). `waiting` holds parent commands whose action on this unit waits until
its own command completes (R35), as (page of the parent, command). `brought` is the page of the QUIESCE or RETIRE
that brought the unit to QUIESCING or QUIESCED (R49). -/
structure Unit where
  state     : UState
  inc       : Half := 0
  cmdStatus : Nat := 0
  cmdBusy   : Bool := false
  cmdSrc    : Nat := 0
  evt       : W32 := 0
  evtEn     : W32 := 0
  err0      : W32 := 0
  err1      : W32 := 0
  err2      : W32 := 0
  err3      : W32 := 0
  ownerCtx  : Nat := 0
  bound     : Bool := false
  running   : Bool := false
  cmd       : Option UCmd := none
  root      : Nat := 0
  waiting   : List (Nat × UCmd) := []
  brought   : Option Nat := none
  drainLog2 : Nat := 0
  deriving DecidableEq, Repr

/-- An outstanding request of a requester (R40, R44, R46, R49). `waiting` says it was refused and waits out its
backoff of 64 · 2^tries cycles (at most 8,192). `arrived` says that its packet has reached the target; before, the packet is on its way,
or at its source while no route exists (R16, R17). -/
structure Outst where
  src      : Nat
  tag      : Nat
  tgt      : Nat
  tgtInc   : Half
  reqInc   : Half
  txn      : Option Nat
  waiting  : Bool := false
  arrived  : Bool := true
  tries    : Nat := 0
  soft     : Bool := false
  deriving DecidableEq, Repr

/-- A completion of a request at its requester, or a reply on its way (Table 2-5). -/
structure Reply where
  src    : Nat
  tag    : Nat
  tgt    : Nat
  reqInc : Half
  rspInc : Half
  status : Nat
  data   : List Byte
  deriving DecidableEq, Repr

inductive TxnPhase where
  | open
  | preparing
  | committed
  | aborted
  deriving DecidableEq, Repr

/-- How far a member has come (R50, R51). -/
inductive MemberSt where
  | invited      -- enrolment sent
  | enrolled
  | prepared     -- answered PREPARED, vote on its way
  | refused      -- answered ABORT, vote on its way
  | counted      -- its PREPARED has reached the coordinator
  | applied      -- COMMIT applied, acknowledgement on its way
  | acked
  | discarded
  deriving DecidableEq, Repr

structure TxnMember where
  page : Nat
  inc  : Half
  st   : MemberSt
  deriving DecidableEq, Repr

/-- A hardware transaction (R50 to R54). `key` is the partition's T0 for STEP, the cluster for SUBST and the group
slot for GROUP_COMMIT. `record` is the commit record (R51), `queries` the members whose DECISION query is on its way
(R53), `merged` that phase 2 of a STEP commit has ended (R189). `coordInc` is the coordinator's incarnation at enrolment, `msgInc` the
one in the messages it sent last, echoed in their answers (R40, R44). -/
structure Txn where
  kind     : Nat
  key      : Nat
  coord    : Nat
  coordInc : Half
  phase    : TxnPhase
  members  : List TxnMember
  record   : Bool := false
  cause    : Nat := 0
  gate     : Nat := 0
  merged   : Bool := true
  queries  : List Nat := []
  msgInc   : Half := 0
  deriving DecidableEq, Repr

/-- SUBST_STAT.PHASE (Table 2-14). -/
inductive SubstPhase where
  | idle | armed | moving | clearing
  deriving DecidableEq, Repr

/-- Substitution registers and progress of one cluster (Tables 2-13, 2-14). `opening` says that its OPEN was refused at the limit
of R54 and waits out a backoff; `buffered` are the messages to the moving tile in arrival order (R56). -/
structure Subst where
  phase     : SubstPhase := .idle
  ltile     : Nat := 0
  mode      : Nat := 0
  retireOld : Bool := false
  status    : Nat := 0
  oldSlot   : Nat := 0
  tid       : Option Nat := none
  buffered  : List Req := []
  opening   : Bool := false
  deriving DecidableEq, Repr

/-- Units, transactions, requests and substitutions of the device, with the package root registers of
Tables 2-7 to 2-12. `phys` holds PHYS (Table 1-16) of the tile and spare pages, keyed cluster · 17 + tile within the cluster, 16
for the spare. `accepted` are the requests that a target has accepted and not yet answered (R41), `cpl` the status with which a
request last completed, keyed page + 4,096 · TAG of its requester. `devIrq` is the device event condition last seen (R22). -/
structure UnitsSt where
  tab       : Map Unit := []
  phys      : Map Nat := []
  tmo       : W32 := 0x00181415
  staleReq  : W64 := 0
  staleRep  : W64 := 0
  commitCnt : W64 := 0
  abortCnt  : W64 := 0
  lastAbort : W32 := 0
  lastCoord : W32 := 0
  txns      : Map Txn := []
  nextTid   : Nat := 0
  outst     : List Outst := []
  replies   : List Reply := []
  accepted  : List Req := []
  cpl       : Map Nat := []
  incTab    : Map Half := []
  subst     : Map Subst := []
  substCtl  : Map Nat := []          -- RW fields of SUBST_CTL by cluster
  partBurn  : Map Nat := []          -- RW fields of PART_BURN by page
  devIrq    : Bool := false
  deriving DecidableEq, Repr

end Sys2Proof.Machine
end

