-- ==== Sys2Proof/Machine/StateTile.lean ====
section
/-! DEFINITION. The state of one physical tile: descriptors, scalar and index registers, arrays, accumulators,
batcher, stream units, vector pipes, plate sequencing and numeric registers (spec 03 to 07). -/
namespace Sys2Proof.Machine
open Sys2Proof

/-- A tensor descriptor as a command latches it (Tables 5-1, 5-2, R110). `reg` is the register number it came
from. Dimension lists have six entries. -/
structure Desc where
  reg      : Nat
  raw      : BitVec 1024
  deriving DecidableEq, Repr

/-- A latched origin or window: six signed lanes. -/
abbrev Lanes := List Int

/-- What a path latches at issue (R110): the descriptors with their companions, origins, the STEP value, the
scalar operand, and the operation's own fields. -/
structure Latched where
  step  : Nat
  pc    : Nat
  descs : List (Nat × BitVec 1024)   -- every descriptor register named, directly or through a descriptor
  xs    : List (Nat × Lanes)         -- index registers named
  sreg  : Nat                        -- the 64-bit scalar operand
  deriving DecidableEq, Repr

inductive PathOp where
  | wload (f : WloadOp)
  | stream (f : StreamOp)
  | drain (f : DrainOp)
  | move (f : MoveOp)
  | prefetch (f : MoveOp)
  | vector (opc : Nat) (f : VxOp)
  deriving DecidableEq, Repr

structure PathCmd where
  op  : PathOp
  lat : Latched
  deriving DecidableEq, Repr

/-- Some bits on their way to a scratchpad bit address. -/
structure BitWrite where
  bit : Nat
  w   : Nat
  val : Nat
  deriving DecidableEq, Repr

/-- What one writer delivers in one cycle: its rank among the writers of a byte (R121), its SOURCE, the bits, the out-of-bounds
elements, and its flags with their tag. -/
structure OutPart where
  rank   : Nat
  source : Nat
  ws     : List BitWrite := []
  oob    : Nat := 0
  flags  : NFlags := {}
  tag    : Nat := 0
  deriving DecidableEq, Repr

/-- A row on its way to a request queue: the queue, the writing engine and the bits at their offsets in the slot (R124). -/
structure AppendRow where
  q      : Nat
  engine : Nat
  ws     : List BitWrite
  deriving DecidableEq, Repr

/-- What a command in flight holds between two of its cycles (Tables 4-5 and 4-7, R92, R167). -/
inductive Stage where
  | cell (a k : Nat) (cells : List (List FVal)) (inx : Bool) (scales : List Nat)   -- a weight row of one array
  | act (pass r : Nat) (xs : List FVal) (sa : Nat) (inx : Bool)    -- an activation row at the cells
  | sum (a row : Nat) (set inx : Bool) (vs : List FVal)            -- column sums of one array
  | upd (a row : Nat) (vs : List Nat) (flags : NFlags)             -- updated entries of one array
  | ent (j : Nat) (srcs : List (Nat × Nat × List Nat))             -- entries of output row j: array, first column, raw
  | out (parts : List OutPart) (rows : List AppendRow)             -- elements on their way to scratchpad or a queue
  deriving DecidableEq, Repr

/-- A command of an array or vector path from its effective issue to its last write: its age in cycles, what it latched then
(SEED, and for a STREAM its bank's tag and split), its stages by the age at which they fall due, and what a vector operation
gathers over its blocks: the terms of a reduction's row, the bits and the number of elements of an append's row, and the monitor's terms. -/
structure Flight where
  path   : PathId
  cmd    : PathCmd
  age    : Nat := 0
  seed   : Nat := 0
  tag    : Nat := 0
  split  : Nat := 0
  stages : List (Nat × Stage) := []
  elems  : List (FVal × NFlags) := []
  row    : List BitWrite := []
  rowN   : Nat := 0
  mon    : List (Nat × FVal × FVal) := []
  deriving DecidableEq, Repr

/-- A path: at most one running command and one in its pending register (R91, R122). -/
structure Path where
  run  : Option PathCmd := none
  pend : Option PathCmd := none
  deriving DecidableEq, Repr

/-- One request queue of the batcher (Tables 4-10, 4-11). `present` lists present slots not taken, oldest first. -/
structure BatchQ where
  cfg     : W64 := 0
  head    : Nat := 0
  tail    : Nat := 0
  fill    : Nat := 0
  present : List Nat := []
  deriving DecidableEq, Repr

/-- Request batcher (R101 to R104). `batch` lists (queue, slot) of the held batch. -/
structure Batcher where
  ctl     : W32 := 0
  queues  : Map BatchQ := []
  batch   : List (Nat × Nat) := []
  ready   : Bool := false
  dl      : Bool := false
  firstq  : Nat := 0
  started : Bool := false
  appends : List AppendRow := []
  retire  : Bool := false
  deriving DecidableEq, Repr

/-- Registers of one stream unit (Tables 5-6 to 5-8). `issued` says a command was issued since plate start and
`last` that the last one issued has completed (R148). -/
structure StreamUnit where
  cfg      : W32 := 0x10
  path     : Path := {}
  rowsDone : Nat := 0
  cmdsDone : Half := 0
  issuedN  : Nat := 0
  doneN    : Nat := 0
  deriving DecidableEq, Repr

/-- One monitor slot (R176). -/
structure MonSlot where
  tag : Nat
  ssd : W64
  ssw : W64
  deriving DecidableEq, Repr

/-- PSTATE (Table 6-17). -/
inductive PState where
  | idle | issuing | heldWait | heldBar | frozen | stopped
  deriving DecidableEq, Repr

/-- A loop stack entry (R140). -/
structure Loop where
  start  : Nat
  fin    : Nat
  cnt    : Nat
  idx    : Nat
  cdepth : Nat
  deriving DecidableEq, Repr

/-- The registers of Table 6-2 that a stroke reads before any slot writes them (R135). -/
structure Regs where
  s  : Map W64 := []
  x  : Map W32 := []
  td : Map (BitVec 1024) := []
  tok : Map (BitVec 20) := []
  deriving DecidableEq, Repr

/-- Array state: weight banks, accumulators, tags and counters (spec 04). -/
structure Arrays where
  pieces   : Map FVal := []      -- ((bank·4 + array)·1024 + k·32 + n)·3 + piece
  scales   : Map Nat := []       -- (bank·4 + array)·32 + n
  acc      : Map W32 := []       -- array·16384 + row·32 + lane
  tag      : Map Nat := []       -- bank; unlisted BF16
  split    : Map Nat := []       -- bank
  stream   : Path := {}
  weight   : Path := {}
  drain    : Path := {}
  rowCnt   : W64 := 0
  wloadCnt : W64 := 0
  drainCnt : W64 := 0
  relCnt   : W64 := 0
  deriving DecidableEq, Repr

/-- What a scalar-unit operation, a TDLOAD or a CFG still has to do (Table 6-12). -/
inductive DueOp where
  | sreg (i : Nat) (v : BitVec 64)
  | td (i : Nat) (v : BitVec 1024)
  | sst (a : Nat) (v : BitVec 64)
  | cfg (off : Nat) (v : BitVec 64)
  | sld (a dst : Nat)                           -- reads the word, then writes the register
  | tdLo (a i : Nat)                            -- reads the first half of the image
  | tdHi (a i : Nat) (lo : BitVec 512)          -- reads the second half, then writes the register
  deriving DecidableEq, Repr

/-- An operation with the cycles left until its effect cycle. -/
structure Due where
  left : Nat
  op   : DueOp
  deriving DecidableEq, Repr

/-- Plate sequencing state (spec 06). `due` are the operations issued whose effect cycles lie ahead, oldest first. `held` is the SY slot of a held stroke, `inStroke` the registers as they
stood before the stroke being issued, `jump` a continuation chosen by ABORT_STEP. `arrived` is the barrier
arrival (kind, BID). -/
structure Plate where
  pc       : Nat := 0
  pstate   : PState := .idle
  loops    : List Loop := []
  calls    : List Nat := []
  held     : W32 := 0
  waitCfg  : Nat := 30
  bseq     : Half := 0
  bid      : Nat := 0
  issueCnt : W64 := 0
  holdCnt  : W64 := 0
  freezeCnt : W64 := 0
  digest   : List Byte := []
  inStroke : Option Regs := none
  used     : List Nat := []      -- slots of the stroke being issued that have issued (Table 6-1, in its order)
  jump     : Option Nat := none
  arrived  : Option (BarKind × Nat) := none
  cache    : Map Nat := []       -- plate-cache index to stroke address
  blank    : List Nat := []      -- plate-cache indices whose stroke was read from uncorrectable words
  ending   : Bool := false       -- a HALT has been released and its stroke has further slots
  due      : List Due := []
  deriving DecidableEq, Repr

/-- Numeric flag and check registers (Tables 3-7 to 3-12). -/
structure NumRegs where
  nflags   : W64 := 0
  nstep    : W64 := 0
  firstInv : W32 := 0
  resErr   : W32 := 0
  sramCe   : W32 := 0
  sramUe   : W32 := 0
  ue       : List SramWord := []    -- words whose stored bits are uncorrectable
  deriving DecidableEq, Repr

/-- One physical tile. `watch` are the spans of SCRATCH shards that nothing has written since their load, as (shard key, first
byte, end) (R372). -/
structure Tile where
  regs    : Regs := {}
  scratch : Bytes := []
  arr     : Arrays := {}
  bat     : Batcher := {}
  str     : Map StreamUnit := []
  oobCnt  : W64 := 0
  confCnt : W64 := 0
  pipe0   : Path := {}
  pipe1   : Path := {}
  flight  : List Flight := []
  blk0    : W64 := 0
  blk1    : W64 := 0
  mon     : Map MonSlot := []
  plate   : Plate := {}
  num     : NumRegs := {}
  stepCopy : W64 := 0
  burnDone : Nat := 31           -- BURN_DONE bits (Table 15-10)
  watch   : List (Nat × Nat × Nat) := []
  deriving DecidableEq, Repr

end Sys2Proof.Machine
end

