-- ==== Sys2Proof/Machine/StatePart.lean ====
section
/-! DEFINITION. The partition record in io0 and the run of a plate (spec 06, 08, 15). -/
namespace Sys2Proof.Machine
open Sys2Proof

/-- The command that a record answers: context, queue and command index of its submission entry. -/
structure CmdRef where
  ctx : Nat
  qid : Nat
  deriving DecidableEq, Repr

/-- A plate run on a partition (R159, R163). `err` is the status of R85, R105, R125, R132 or R177 that replaces OK;
`stop` the status of a stop; `det` DETAIL of the first record latched; `obj` the plate object. -/
structure RunRec where
  obj      : Nat
  nstrokes : Nat
  entry    : Nat
  digest   : List Byte
  numver   : Nat
  canon    : Bool
  cmd      : CmdRef
  err      : Option Nat := none
  det      : Option Nat := none
  stop     : Option Nat := none
  deriving DecidableEq, Repr

/-- Partition states (spec 15); a partition that is FREE has no record. -/
inductive PartSt where
  | bound | running | burnishing
  deriving DecidableEq, Repr

/-- A partition record (R182, R209, R355). `holds` are the pages of units whose QUIESCE holds the partition (R38);
`bar` is the barrier that every member has arrived at, `barMore` and `merge` its progress; `launched` counts the
collectives launched and not completed, `sinceOpen` those launched since the OPEN. -/
structure Part where
  t0        : Nat
  log2n     : Nat
  st        : PartSt
  ctx       : Nat
  step      : W64 := 0
  seed      : Nat := 0
  numver    : Nat := 0
  gateMask  : Nat := 0x1FFF
  gateOvf   : Bool := false
  groupEn   : Bool := false
  group     : Nat := 0
  monBase0  : Nat := 0
  monBase1  : Nat := 0
  monThr    : W64 := 0
  monHit    : W32 := 0
  opened    : Bool := false
  preparing : Bool := false
  err       : Bool := false
  behind    : Bool := false
  catchUp   : Bool := false
  tid       : Nat := 0
  lastOutcome : Nat := 0
  lastCause : Nat := 0
  lastGate  : Nat := 0
  lastValid : Bool := false
  outcome   : Nat := 0           -- S3
  grpStep   : W64 := 0
  prep      : Option (Nat × Nat) := none   -- PREP_STEP and the group's TID
  abortVote : Bool := false                -- an ABORT is to be cast in the group's vote (R194)
  commitCnt : W64 := 0
  abortCnt  : W64 := 0
  holds     : List Nat := []
  run       : Option RunRec := none
  bar       : Option (BarKind × Nat) := none
  barMore   : Bool := false
  decided   : Bool := false                -- a STEP COMMIT's decision stands and a hold keeps its stroke (R197)
  startHeld : Bool := false                -- a run waits at its start barrier for a hold to end (R356)
  monBad    : Bool := false
  merged    : List (Nat × Nat) := []       -- (tag, RATIO bits) merged in phase 2
  launched  : Nat := 0
  sinceOpen : Nat := 0
  retained  : Bool := false                -- the previous GROUP_COMMIT has not closed
  plateDig  : List Byte := []              -- plate digest of the last RUN (Table 15-4)
  clearing  : Bool := false                -- PART_BURN.BUSY: the tile clear runs (Table 15-11)
  deriving DecidableEq, Repr

/-- log2 of the tiles and the tiles of a partition (R13). -/
def partTiles (p : Part) : List Nat := (List.range (2 ^ p.log2n)).map (fun i => p.t0 + i)

/-- A cluster cache line (R127 to R129): its way, the device line it copies, and whether it is kept. A cluster's
lines stand most recently used first. -/
structure CLine where
  way  : Nat
  line : Nat
  kept : Bool
  deriving DecidableEq, Repr

/-- Cluster cache and its counters (Table 5-10). -/
structure CCache where
  lines : List CLine := []
  bad   : List Nat := []        -- 64-bit words (line · 8 + word) whose stored bits are uncorrectable
  hit   : W64 := 0
  miss  : W64 := 0
  inval : W64 := 0
  deriving DecidableEq, Repr

/-- A collective launch posted by a COLL, with what it latched in its issue cycle (R147, R217). -/
structure Launch where
  tile  : Nat
  group : Nat
  sched : Nat
  arg   : W64
  step  : Nat
  tds   : Map (BitVec 1024)
  deriving DecidableEq, Repr

/-- Tiles by physical slot (cluster · 17 + slot), partition records by T0, cluster caches and
collective launch queues by cluster. -/
structure TilesSt where
  tab    : Map Tile := []
  parts  : Map Part := []
  caches : Map CCache := []
  lqueue : Map (List Launch) := []
  deriving DecidableEq, Repr

end Sys2Proof.Machine
end

