-- ==== Sys2Proof/Machine/StateMem.lean ====
section
/-! DEFINITION. Device memory, its frames, page tables, repair state and encryption state, and the key slots (spec 11,
12 and 16). -/
namespace Sys2Proof.Machine
open Sys2Proof

/-- What the tag of a line binds besides its address (R289, R292): slot identifier, context, key generation. -/
structure Bind where
  kslot : Nat
  ctx   : Nat
  kgen  : Nat
  deriving DecidableEq, Repr

/-- A frame of the frame table (R264). `pool` tells reserve (0) from page-table (1) frames; `bind` is how its lines
were last initialised; `rel` is the queue whose MEM_RELEASE waits for it. -/
structure Frame where
  st    : Nat := 0
  owner : Nat := 0
  pool  : Nat := 0
  bind  : Option Bind := none
  rel   : Option CmdRef := none
  deriving DecidableEq, Repr

/-- A line whose stored form differs from its frame's: its own binding, uncorrectable code, failed tag; `copied` says that it is a
tag-failed copy (R300). -/
structure LineSt where
  bind   : Option Bind := none
  uncorr : Bool := false
  tagBad : Bool := false
  copied : Bool := false
  deriving DecidableEq, Repr

/-- Corrections of a lane since its last retraining (R274); `syms` symbols of a line lie on it. -/
structure Lane where
  lane   : Nat
  count  : Nat
  syms   : Nat
  erased : Bool := false
  deriving DecidableEq, Repr

/-- A migration under way: source and target frame (R276). -/
structure Mig where
  src : Nat
  dst : Nat
  deriving DecidableEq, Repr

/-- A pseudo-channel (Table 11-6). -/
structure PcSt where
  st      : Nat := 0
  spare   : Nat := 64
  rows    : List Nat := []       -- rows remapped
  pending : List Nat := []       -- rows whose remap copy is under way
  lanes   : List Lane := []
  lspare  : Nat := 4
  mig     : Option Mig := none
  deriving DecidableEq, Repr

/-- Registers of a tier controller (Tables 11-9, 11-11). -/
structure Mc where
  cfg      : W32 := 0x102
  ce       : W64 := 0
  ue       : W64 := 0
  remap    : W64 := 0
  erase    : W64 := 0
  passes   : W64 := 0
  pos      : W64 := 0
  deriving DecidableEq, Repr

/-- A block of the far window: its host base, whether its metadata is initialised, a failure's cause, whether io0 still holds its root
counters, the counters that its metadata nodes hold for their children (level · 2^20 + child), and the modified lines not yet evicted. -/
structure FarBlock where
  base  : W64
  init  : Bool := true
  fail  : Option Nat := none
  rooted : Bool := true
  kgen  : Nat := 0
  nodes : Map Nat := []
  dirty : List Nat := []
  deriving DecidableEq, Repr

/-- A span of device virtual addresses that may not be written: pages of a loaded plate (R162) or of a FROZEN shard
(R370). `id` is the object or 2^20 + SHARD_ID. -/
structure Prot where
  ctx : Nat
  lo  : Nat
  hi  : Nat
  id  : Nat
  deriving DecidableEq, Repr

/-- Memory of the device. Bytes are plaintext at tier · 2^42 + address; an unlisted byte is zero. Frames are keyed
tier · 2^26 + FRAME, lines tier · 2^36 + LINE, PTEs context · 2^32 + page, pseudo-channels controller · 128 + PC with
controllers n0–n3 as 0–3 and h0–h11 as 4–15. -/
structure MemSt where
  bytes    : Bytes := []
  frames   : Map Frame := []
  ptes     : Map W64 := []
  tables   : Map Nat := []       -- table key to its 2 KiB slot
  lines    : Map LineSt := []
  redirs   : Map Nat := []
  pcs      : Map PcSt := []
  mcs      : Map Mc := []
  far      : Map FarBlock := []
  majors   : Map Nat := []       -- 4 KiB far page to MAJOR
  minors   : Map Nat := []       -- far line to MINOR
  prots    : List Prot := []
  scrubCfg : W32 := 0x00048018
  migRate  : W32 := 0x10
  rsvLow   : W32 := 0x100
  lostCnt  : W64 := 0
  alarm0   : W32 := 0
  alarm1   : W32 := 0
  alarm2   : W32 := 0
  alarm3   : W32 := 0
  tagFail  : W64 := 0
  blockCnt : W64 := 0
  minorOvf : W64 := 0
  metaRekey : W64 := 0
  keyExh   : W64 := 0
  drBase   : Map W64 := []
  drLimit  : Map W64 := []
  unposted : Map Nat := []       -- frame to alarms not posted (R305)
  deriving DecidableEq, Repr

/-- A key slot (Tables 16-1, 16-2). KTYPE 0 is EMPTY; KGEN outlives the key. `attr` holds the use bits. -/
structure Slot where
  ktype  : Nat := 0
  key    : List Byte := []
  attr   : Nat := 0
  origin : Nat := 0
  lcb    : Bool := false
  vol    : Bool := false
  kgen   : W32 := 0
  exh    : Bool := false
  deriving DecidableEq, Repr

end Sys2Proof.Machine
end

