-- ==== Sys2Proof/Machine/StateKeys.lean ====
section
/-! DEFINITION. Key store, sessions, life cycle and attestation as plain data (spec 16). -/
namespace Sys2Proof.Machine
open Sys2Proof

/-- A session of the attestation mailbox or of SPDM (R400, R402, R403). `ctx` is the context it belongs to, `doe` the PF over
whose DOE mailbox it was opened, `active` that FINISH has verified, `seq` the last SEQ accepted (R404). -/
structure Session where
  id     : Nat
  spdm   : Bool := false
  ctx    : Nat
  doe    : Option Nat := none
  active : Bool := false
  th     : List Byte := []
  kfreq  : List Byte := []
  kfrsp  : List Byte := []
  kimp   : List Byte := []
  seq    : Nat := 0
  epoch  : Nat := 0            -- KEY_UPDATEs made in an SPDM session
  deriving DecidableEq, Repr

/-- What the DOE mailbox of a PF last answered (R400, R401): a data object of the mailbox exchange, or an SPDM response by its
name and the content that the manual gives it. -/
inductive DoeRsp where
  | object (bs : List Byte)
  | version (minor major : Nat)
  | capabilities (cert chal meas measSig keyEx encrypt mac hbeat keyUpd : Bool)
  | algorithms (hashSha384 aesGcm extBrainpool : Bool)
  | digests (d : List Byte)
  | certificate (portion : List Byte) (remainder : Nat)
  | challengeAuth (chainDigest nonce sig : List Byte)
  | measurements (blocks : List (Nat × Nat × List Byte)) (sig : List Byte)
  | keyExchange (sess : Nat) (sig : List Byte)
  | finish (sess : Nat)
  | heartbeat (sess : Nat)
  | keyUpdate (sess : Nat)
  | ended (sess : Nat)
  | error (code : Nat)
  deriving DecidableEq, Repr

/-- A non-volatile operator key saved in the flash: the slot, sealed under the d.10 of the state named (R381, Table 17-4). -/
structure Saved where
  slot  : Slot
  state : Nat
  deriving DecidableEq, Repr

/-- A life-cycle request in progress: its target segment (1 to 5) and the bits still to program, lowest first; after them the
consumption bit (R396). -/
structure LcRun where
  seg  : Nat
  bits : List Nat
  deriving DecidableEq, Repr

/-- Life-cycle block (Tables 16-6 to 16-8, 16-16, 16-17). `segs` are S1 to S5 by number 1 to 5, `digests` the token digests by
transition (0 RAW_EXIT, 1 TEST_EXIT, 2 TEST_UNLOCK, 3 PROD, 4 RMA, 5 RMA_UNLOCK, 6 SCRAP), `locked` roots locked until cold
reset (0 TEST, 1 MFG, 2 PROD, 3 RMA), `tapTok` the token written through the life-cycle TAP. -/
structure LcSt where
  segs      : Map W64 := []
  consume   : W32 := 0
  digests   : Map (List Byte) := []
  state     : Nat := 0
  origin    : Nat := 0
  target    : Nat := 0
  fromRma   : Bool := false
  pend      : Bool := false
  debugSeen : Bool := false
  corrupt   : Bool := false
  fails     : Nat := 0
  result    : Nat := 0
  token     : Map W32 := []
  locked    : List Nat := []
  run       : Option LcRun := none
  deriving DecidableEq, Repr

/-- Key store. Slots are keyed context · 8 + i in the tenant bank and 4096 + j in the device bank. Sessions stand oldest
first; `otpKeys` are the four OTP key digests of R412, `certs` the certificates in the flash. -/
structure KeysSt where
  slots    : Map Slot := []
  saved    : Map Saved := []
  sessions : List Session := []
  spdmCon  : Map Nat := []          -- per PF: 1 version, 2 capabilities, 3 algorithms negotiated
  doe      : Map DoeRsp := []
  rngFail  : Bool := false
  genCnt   : W64 := 0
  impCnt   : W64 := 0
  unwrapF  : W64 := 0
  destroyC : W64 := 0
  attestC  : W64 := 0
  lc       : LcSt := {}
  otpKeys  : Map (List Byte) := []
  arb      : W64 := 0               -- OTP thermometer (R413)
  deriving DecidableEq, Repr

end Sys2Proof.Machine
end

