-- ==== Sys2Proof/Machine/StateFw.lean ====
section
/-! DEFINITION. Firmware images, the serial flash, boot, staging and activation as plain data (spec 17). -/
namespace Sys2Proof.Machine
open Sys2Proof

/-- What an image header gives the running device (Table 17-3), with the SHA-384 of the whole image. -/
structure Image where
  version  : Nat := 0
  svn      : Nat := 0
  ifMin    : Nat := 0
  ifMax    : Nat := 0
  ifMinor  : Nat := 0
  resetReq : Nat := 0
  numvers  : List Nat := []
  digest   : List Byte := []
  deriving DecidableEq, Repr

/-- A flash slot of an image kind: 0 INVALID, 1 being staged, 2 STAGED, 3 an image that serves; `got` are the 4 KiB units that
staging has written. -/
structure ImgSlot where
  st    : Nat := 0
  got   : List Nat := []
  bytes : Bytes := []
  len   : Nat := 0
  img   : Option Image := none
  deriving DecidableEq, Repr

/-- A journal record (Table 17-5) without its time and CRC. -/
structure JRec where
  typ     : Nat
  step    : Nat := 0
  status  : Nat := 0
  attempt : Nat := 0
  seq     : Nat := 0
  detail  : Nat := 0
  deriving DecidableEq, Repr

/-- Persistent records (R418): pages of retired units, PHYS of tile and spare pages, and pseudo-channels. -/
structure Records where
  retired : List Nat := []
  phys    : Map Nat := []
  pcs     : Map PcSt := []
  deriving DecidableEq, Repr

/-- Firmware state (Tables 17-2, 17-9, 17-12 to 17-14). `boot` is FW_STAT.BOOT, `booting` that a boot attempt runs, `attempt`
its number, `fails` the failed attempts in a row with the active slots, `stepFails` the failures of each step that the journal
holds for this boot, `fellBack` the kinds whose other slot already serves. `mgmt` is FW_STAT.MGMT; slots are keyed 2 · kind +
slot with kinds 1 security and 2 management; `hdrSeq` is the flash header's sequence number. `left` lists the pages of the
units not yet switched, in order, `cur` the one being switched, `again` those whose QUIESCE timed out; `hold` is the span of
2^27 AON cycles that they wait for. -/
structure FwSt where
  boot     : Nat := 0
  booting  : Bool := false
  attempt  : Nat := 0
  fails    : Nat := 0
  stepFails : Map Nat := []
  fellBack : List Nat := []
  mgmt     : Nat := 0
  secSlot  : Bool := false
  mgmtSlot : Bool := false
  degraded : Bool := false
  flashLow : Bool := false
  spares   : Nat := 176
  badMap   : List Nat := []                 -- sectors retired (R410)
  hdrSeq   : Nat := 0
  runSec   : Option Image := none
  runMgmt  : Option Image := none
  slots    : Map ImgSlot := []
  staging  : Option (Nat × Nat) := none     -- kind and total length
  phase    : Nat := 0
  kinds    : Nat := 0
  left     : List Nat := []
  cur      : Option Nat := none
  again    : List Nat := []
  result   : Nat := 0
  tid      : Option Nat := none
  nextSec  : Option Image := none
  nextMgmt : Option Image := none
  prevMgmt : Option Image := none           -- the image that the cores left at a restart after the commit point (R427)
  bootSeq  : W64 := 0
  journal  : List JRec := []
  recs     : Records := {}
  restarts : Nat := 0
  set0     : List Byte := []
  set1     : List Byte := []
  setSel   : Bool := false
  setNew   : Bool := false                  -- the other settings copy applies from the next cold reset
  rcvCtl   : W32 := 0
  rcvBuf   : Bytes := []
  deriving DecidableEq, Repr

end Sys2Proof.Machine
end

