-- ==== Sys2Proof/Machine/StateFab.lean ====
section
/-! DEFINITION. Collective groups, drupelet programs and launches, fabric ports and Uraelm Collective Transport as
plain data (spec 09 and 10). -/
namespace Sys2Proof.Machine
open Sys2Proof

/-- A sequenced frame not yet acknowledged: its PSEQ, whether it is a retransmission, its timeouts in a row. -/
structure TxFrame where
  pseq     : W32
  frame    : UFrame
  retx     : Bool := false
  timeouts : Nat := 0
  deriving DecidableEq, Repr

/-- A path (R248 to R250): state 0 DOWN, 1 PROBING, 2 UP; transmit side, receive side with the PSEQs received above
NEXT, the NEXT that the last PACK sent has told, and whether it has sent a PROBE and heard one with AVAIL since it began to probe. -/
structure PathSt where
  st      : Nat := 0
  pepoch  : Half := 0
  probed  : Bool := false
  txNext  : W32 := 0
  unacked : List TxFrame := []
  rxNext  : W32 := 0
  rxGot   : List Nat := []
  rxEpoch : Option Half := none
  rxPack  : W32 := 0
  heard   : Bool := false
  deriving DecidableEq, Repr

/-- A fabric port (Tables 10-12, 10-13). LINK 0 DOWN, 1 TRAINING, 2 UP; MKA 0 OFF to 4 PN_EXHAUSTED. -/
structure FPort where
  ctl      : W32 := 0
  cak      : W32 := 0
  link     : Nat := 0
  mka      : Nat := 0
  txBlock  : Bool := false
  pnLow    : Bool := false
  xpn      : W64 := 0
  rxPn     : Option W64 := none   -- highest packet number received under the SAK in use (R241)
  line     : List Byte := []      -- the last UCT frame put on the line (Table 10-3)
  tx       : W64 := 0
  rx       : W64 := 0
  retx     : W64 := 0
  nackRx   : W64 := 0
  dupRx    : W64 := 0
  oow      : W64 := 0
  filter   : W64 := 0
  tagFail  : W64 := 0
  fecCorr  : W64 := 0
  fecUnc   : W64 := 0
  macsec   : W64 := 0
  deriving DecidableEq, Repr

/-- A local member of a group (R213, R231): its rank and partition, the group object, the join it waits with, its own
vote and its children's (rank, PREPARED, STEP), the progress of its vote (0 none, 1 forwarded, 2 decided, 3 acknowledged
up the tree), the decision (COMMIT, STEP), the children that acknowledged, and how many votes of the group have closed
(carried as LSEQ by its CTRL messages, so that a retried step's are not taken for repeats). -/
structure LocalMem where
  rank   : Nat
  t0     : Nat
  obj    : Nat := 0
  join   : Option CmdRef := none
  joined : Bool := false
  vote   : Option (Bool × Nat) := none
  kids   : List (Nat × Bool × Nat) := []
  phase  : Nat := 0
  dec    : Option (Bool × Nat) := none
  acks   : List Nat := []
  round  : Nat := 0
  deriving DecidableEq, Repr

/-- A remote member device of a joining group: the digest and nonce of its JOIN and whether its KEYCONF verified. -/
structure Peer where
  node    : Nat
  digest  : List Byte
  nonce   : List Byte
  conf    : Bool := false
  deriving DecidableEq, Repr

/-- A group bound on the device (R210 to R214), by GIX. `members` lists (NODE, T0) by rank, `reqs` the launch requests
as 256-bit values, `progs` the compiled programs as entries keyed rank · 2048 + SCHED · 2 + 1 in canonical-order mode, `grpStep` the group record of
rank 0's device, `vote` FLAGS.COMMIT_VOTE, `tid` the open GROUP_COMMIT transaction, `pctr` the payload counters by port. State 1 JOINING, 2 ACTIVE, 3 FAILED. -/
structure Group where
  id       : Nat
  log2n    : Nat
  pslot    : Nat
  numver   : Nat
  weight   : Nat
  kslot    : Nat
  kctx     : Nat
  vote     : Bool
  members  : List (Nat × Nat)
  reqs     : List Nat
  digest   : List Byte
  nonce    : List Byte
  peers    : List Peer := []
  key      : List Byte := []
  locals   : List LocalMem := []
  progs    : Map (List Nat) := []
  st       : Nat := 1
  faultSrc : Nat := 0
  lastErr  : Nat := 0
  lostRank : Nat := 0
  grpStep  : W64 := 0
  record   : Bool := false
  tid      : Option Nat := none
  failedL  : List (Nat × Nat × Nat × Nat) := []   -- failed launches by local rank: rank, STEP, LSEQ, status
  pctr     : Map Nat := []
  launches : W64 := 0
  fails    : W64 := 0
  txBytes  : W64 := 0
  a2aDrop  : W64 := 0
  deriving DecidableEq, Repr

/-- A posted RECV of a lane (R221, R252): its peer and tag, destination operand with the drupelet
index and length, the segments landed, and its key among the launch's increments. Destination 6 is the received-count
tensor. -/
structure Recv where
  peer  : Nat
  xtag  : Nat
  dst   : Nat
  doff  : Nat
  len   : Nat
  key   : Nat
  segs  : List Nat := []
  deriving DecidableEq, Repr

/-- A SEND that its peer has not acknowledged: its operand with the drupelet index and length, the buffer it frees, whether it has
been sent, and the frames still to be acknowledged. -/
structure SendSt where
  peer  : Nat
  xtag  : Nat
  frees : Option Nat
  opnd  : Nat := 4
  doff  : Nat := 0
  len   : Nat := 0
  sent  : Bool := false
  left  : Nat := 0
  deriving DecidableEq, Repr

/-- A launch that runs on a lane (R217 to R222): its group, rank, request, sequence and STEP, what it latched and canonical-order mode, the
position in its program with the repetitions of the open LOOP, the full buffers, its posted RECVs and unacknowledged
SENDs, credits received as (peer, XTAG), the token increments in program order as (key, amount, landed) still owed with the
amount applied, and the completed RECVs as (peer, XTAG). -/
structure LaneRun where
  gix     : Nat
  rank    : Nat
  sched   : Nat
  lseq    : Nat
  step    : Nat
  base    : Nat
  canon   : Bool := false
  tds     : Map (BitVec 1024)
  pos     : Nat := 0
  rep     : Nat := 0
  loopAt  : Option Nat := none
  full    : List Nat := []
  recvs   : List Recv := []
  sends   : List SendSt := []
  credits : List (Nat × Nat) := []
  owed    : List (Nat × Nat × Bool) := []
  applied : Nat := 0
  done    : List (Nat × Nat) := []
  ended   : Bool := false
  deriving DecidableEq, Repr

/-- Engine counters of a cluster (Table 9-11). -/
structure CollEng where
  drup  : W64 := 0
  red   : W64 := 0
  stale : W64 := 0
  deriving DecidableEq, Repr

/-- An egress (R230): the deficit of each data queue by GIX, and the queue served last. -/
structure Egress where
  deficit : Map Nat := []
  last    : Option Nat := none
  deriving DecidableEq, Repr

/-- Fabric and collectives. Ports by number, paths by node · 16 + port, groups by GIX, running launches by tile, engines
by cluster. Of the frames not yet on a line, `waitq` holds those to other devices as (node, frame, retransmission) and `linkq` those between
local members whose die-to-die links are down, in the order submitted; `egress` is what each egress keeps for its data queues, ports by
number, link k by 16 + 2 · k and its direction. `msgs` are messages on their way between local members, `parked` frames whose lane is
paused (R236), `lseqs` the next LSEQ by tile · 64 + GIX, `lastL` the last launch started there as (STEP, LSEQ), `early` credits for launches that a lane has not
started, `held` JOINs for groups not yet bound, `turn` the port last used by group · 2^16 + node, `ctrlDone` CTRL messages already applied, as
(GIX, CTYPE, rank, STEP, LSEQ). -/
structure FabSt where
  ports   : Map FPort := []
  cfg     : W64 := 0x88B5
  tmr     : W32 := 0x048DD14F
  stat    : W32 := 0
  unreach : W64 := 0
  allow   : Map W64 := []
  paths   : Map PathSt := []
  waitq   : List (Nat × UFrame × Bool) := []
  groups  : Map Group := []
  lanes   : Map LaneRun := []
  eng     : Map CollEng := []
  linkq   : List UFrame := []
  egress  : Map Egress := []
  msgs    : List UFrame := []
  parked  : List (RxHead × UFrame) := []
  lseqs   : Map Nat := []
  lastL   : Map (Nat × Nat) := []
  held    : List (Nat × UFrame) := []
  early   : List UFrame := []
  turn    : Map Nat := []
  ctrlDone : List (Nat × Nat × Nat × Nat × Nat) := []
  deriving DecidableEq, Repr

end Sys2Proof.Machine
end

