-- ==== Sys2Proof/Machine/Frames.lean ====
section
/-! DEFINITION. What a UCT frame is made of: header, payload protection, the bytes on the line (spec 10: R244 to R247), and the order
in which an egress serves its queues (R230, R239). -/
namespace Sys2Proof.Machine
open Sys2Proof

/-! ### Header and payload (R246, R247) -/

/-- The path's own fields of a header (Table 10-4). -/
structure PathHdr where
  src   : Nat
  dst   : Nat
  port  : Nat
  epoch : Nat
  pseq  : Nat := 0
  pack  : Nat := 0
  retx  : Bool := false
  deriving DecidableEq, Repr

/-- The 512 bits of a UCT header for a frame of `typ` with a body of `len` bytes. -/
def uctHeader (q : PathHdr) (typ pctr len : Nat) (f : UFrame) : Nat :=
  1 + typ * 2 ^ 4 + q.retx.toNat * 2 ^ 8 + (q.src % 2 ^ 16) * 2 ^ 16 + (q.dst % 2 ^ 16) * 2 ^ 32 + (q.port % 16) * 2 ^ 48
    + (q.port % 16) * 2 ^ 52 + (q.epoch % 2 ^ 16) * 2 ^ 64 + (q.pseq % 2 ^ 32) * 2 ^ 96 + (q.pack % 2 ^ 32) * 2 ^ 128
    + (f.group % 2 ^ 32) * 2 ^ 160 + (f.step % 2 ^ 64) * 2 ^ 192 + (f.lseq % 2 ^ 16) * 2 ^ 256 + (f.sched % 2 ^ 10) * 2 ^ 272
    + (f.lane % 2 ^ 9) * 2 ^ 282 + (f.seg % 8) * 2 ^ 291 + (f.srcRank % 2 ^ 12) * 2 ^ 296 + (f.dstRank % 2 ^ 12) * 2 ^ 308
    + (f.xtag % 2 ^ 16) * 2 ^ 320 + (len % 2 ^ 14) * 2 ^ 336 + (pctr % 2 ^ 64) * 2 ^ 352

/-- The IV of the payload key: SRC_NODE, SRC_PORT, eight zero bits, PCTR. -/
def payloadIv (node port pctr : Nat) : List Byte :=
  leBytes 2 node ++ [BitVec.ofNat 8 port, 0] ++ leBytes 8 pctr

/-- A CTRL body begins with its CTYPE (Table 10-5). -/
def wireBody (f : UFrame) : List Byte := if f.typ = 5 then BitVec.ofNat 8 f.ctype :: f.body else f.body

/-- JOIN travels in the clear (R247), and so does GONE, whose sender holds no key of the group (DESIGN CHOICE, log entry 133). -/
def isClear (f : UFrame) : Bool := f.typ = 5 && (f.ctype = 1 || f.ctype = 9)

/-- Body and payload tag as they travel. -/
def sealFrame (key : List Byte) (q : PathHdr) (pctr hdr : Nat) (f : UFrame) : List Byte × List Byte :=
  if isClear f then (wireBody f, []) else gcmSeal key (payloadIv q.src q.port pctr) (leBytes 64 hdr) (wireBody f)

/-- The group message in a received frame: none where its payload tag fails. A body without a tag is taken only as JOIN or GONE. -/
def openFrame (key : List Byte) (h : RxHead) : Option UFrame :=
  if h.tag.isEmpty then (if isClear (h.frame h.body) then some (h.frame h.body) else none)
  else if key.isEmpty then none
  else (gcmOpen key (payloadIv h.node h.port h.pctr) (leBytes 64 h.hdr) h.body h.tag).map h.frame

/-! ### The line (R244, R245) -/

/-- MAC address of a node's port, in transmission order (R244). -/
def macBytes (cfg node p : Nat) : List Byte :=
  [bitsOf cfg 55 48, bitsOf cfg 47 40, bitsOf cfg 39 32, bitsOf node 15 8, bitsOf node 7 0, p].map (BitVec.ofNat 8)

/-- A number in Ethernet's byte order. -/
def netBytes (n v : Nat) : List Byte := (leBytes n v).reverse

/-- The bytes of a UCT frame in the order of Table 10-3, from the destination address to the FCS. -/
def frameBytes (cfg ctl : Nat) (q : PathHdr) (pn hdr : Nat) (body tag : List Byte) : List Byte :=
  let vlan := if bitOf ctl 2 then netBytes 2 0x8100 ++ netBytes 2 (bitsOf ctl 14 3 + (bitsOf ctl 17 15) * 2 ^ 13) else []
  let clear := netBytes 2 (bitsOf cfg 15 0) ++ leBytes 64 hdr ++ body ++ tag
  let cipher := (List.range clear.length).map (Config.macsecCipher q.port pn clear)
  let bs := macBytes cfg q.dst q.port ++ macBytes cfg q.src q.port ++ vlan ++ netBytes 2 0x88E5
    ++ leBytes 16 (Config.secTag q.port pn).toNat ++ cipher ++ leBytes 16 (Config.macsecIcv q.port pn clear).toNat
  bs ++ leBytes 4 (Config.frameFcs bs).toNat

/-- Bytes of the frame that carries a group message (R240, Table 10-3). -/
def frameSize (vlan : Bool) (f : UFrame) : Nat := 116 + (wireBody f).length + (if isClear f then 0 else 16) + (if vlan then 4 else 0)

/-! ### Egress queues (R230, R239) -/

/-- A retransmission enters its queue ahead of every frame not yet sent (R239). -/
def retxFirst {α : Type} (q : List (α × Bool)) : List (α × Bool) := q.filter (fun e => e.2) ++ q.filter (fun e => !e.2)

/-- A visit to a data queue: what its deficit covers, what stays, and the deficit left. -/
def drrVisit (cost : UFrame → Nat) (deficit : Nat) (q : List (UFrame × Bool)) :
    List (UFrame × Bool) × List (UFrame × Bool) × Nat :=
  match q with
  | [] => ([], [], 0)
  | f :: r =>
    if cost f.1 ≤ deficit then
      let v := drrVisit cost (deficit - cost f.1) r
      (f :: v.1, v.2.1, v.2.2)
    else ([], q, deficit)

/-- The non-empty queue that follows the one served last, in ascending GIX and round again. -/
def drrNext (last : Option Nat) (qs : Map (List (UFrame × Bool))) : Option (Nat × List (UFrame × Bool)) :=
  let live := qs.filter (fun e => !e.2.isEmpty)
  match live.find? (fun e => last.any (fun l => l < e.1)) with
  | some e => some e
  | none => live.head?

/-- Weighted deficit round robin (R230): `fuel` visits. -/
def drrServe (weight : Nat → Nat) (cost : UFrame → Nat) (fuel : Nat) (eg : Egress) (qs : Map (List (UFrame × Bool))) :
    List (UFrame × Bool) × Egress :=
  match fuel with
  | 0 => ([], eg)
  | k + 1 =>
    match drrNext eg.last qs with
    | none => ([], { eg with deficit := [] })
    | some (g, q) =>
      let v := drrVisit cost (mapGet 0 eg.deficit g + weight g * 4096) q
      let d := if v.2.1.isEmpty then mapDel eg.deficit g else mapSet eg.deficit g v.2.2
      let r := drrServe weight cost k { deficit := d, last := some g } (mapSet qs g v.2.1)
      (v.1 ++ r.1, r.2)

/-- Frames that wait at one egress in the order in which they leave: the control queue, then the data queues by GIX. Three visits
cover any frame. -/
def egressOrder (gix weight : Nat → Nat) (cost : UFrame → Nat) (eg : Egress) (fs : List (UFrame × Bool)) :
    List (UFrame × Bool) × Egress :=
  let data := fs.filter (fun e => e.1.typ = 1)
  let qs : Map (List (UFrame × Bool)) := data.foldl (fun m e => mapSet m (gix e.1.group) (mapGet [] m (gix e.1.group) ++ [e])) []
  let r := drrServe weight cost (3 * data.length + 1) eg (qs.map (fun e => (e.1, retxFirst e.2)))
  (retxFirst (fs.filter (fun e => e.1.typ ≠ 1)) ++ r.1, r.2)

end Sys2Proof.Machine
end

