-- ==== Sys2Proof/Machine/Flags.lean ====
section
/-! DEFINITION. Sticky flags of a tile's thirteen engines, the first-INV record and the check counters (spec 03,
R81 to R86). -/
namespace Sys2Proof.Machine
open Sys2Proof

/-- The bits of engine e holding flags f in the layout of Table 3-7. -/
def engBits (e : Nat) (f : NFlags) : W64 := BitVec.ofNat 64 (flagsCode f <<< (4 * e))

/-- An engine's flag event, with the destination tag for FIRST_INV. -/
structure FlagEv where
  engine : Nat
  flags  : NFlags
  tag    : Nat
  deriving DecidableEq, Repr

/-- A word's address as an error record's DETAIL gives it. -/
def sramAddr (w : SramWord) : Nat :=
  match w with
  | .scratch k => 8 * k
  | .acc a k => a * 65536 + 4 * k
  | .weight b a k n => ((b * 4 + a) * 32 + k) * 32 + n
  | .scale b a n => (b * 4 + a) * 32 + n
  | .sreg i => i
  | .xreg i => i
  | .td i => i
  | .plate i => i
  | .cache k => 8 * k

/-- What a tile's engines report as they run: a flag event, an uncorrectable word met with its reader's or writer's SOURCE and its address,
a residue mismatch, or a command dropped at its effective issue. -/
inductive TileNote where
  | flag (e : FlagEv)
  | ue (source addr : Nat)
  | residue (engine lane pc : Nat)
  | fault (status source pc : Nat)
  deriving DecidableEq, Repr

/-- The uncorrectable words of a tile that `reader` names, each with its reader's SOURCE (R86, Table 3-13). -/
def ueNotes (t : Tile) (reader : SramWord → Option Nat) : List TileNote :=
  t.num.ue.filterMap (fun w => (reader w).map (fun k => .ue k (sramAddr w)))

/-- Words of a tile's SRAM that become uncorrectable, and single-bit errors corrected (R86). -/
def sramHw (t : Tile) (hw : HwErr) : Tile :=
  if hw.upset.isEmpty && hw.ce = 0 then t
  else { t with num := { t.num with ue := t.num.ue ++ hw.upset.filter (fun w => !(t.num.ue.contains w)),
                                    sramCe := satAdd t.num.sramCe hw.ce } }

/-- Residue mismatches of an operation (R84, R85). An array command, engine 0, names a column as array · 32 + column. -/
def residueNotes (hw : HwErr) (engine pc : Nat) : List TileNote :=
  hw.residue.map (fun k => if engine = 0 then .residue (k / 32 % 4) (k % 32) pc else .residue engine (k % 256) pc)

/-- R82, R83: one event in NFLAGS, NFLAGS_STEP and FIRST_INV. -/
def numFlag (n : NumRegs) (e : FlagEv) : NumRegs :=
  let b := engBits e.engine e.flags
  { n with nflags := n.nflags ||| b, nstep := n.nstep ||| b,
           firstInv := if e.flags.inv && !(n.firstInv.getLsbD 31) then
             BitVec.ofNat 32 (e.tag % 4096 + (e.engine % 16) <<< 12 + 2 ^ 31) else n.firstInv }

def numFlags (n : NumRegs) (es : List FlagEv) : NumRegs := es.foldl numFlag n

/-- INV of any engine (bits 4e + 3). -/
def invMask : W64 := 0x0008888888888888

/-- UNIT_EVT.NUM_INV: an INV bit of NFLAGS went from 0 to 1. -/
def invRose (a b : NumRegs) : Bool := (b.nflags &&& ~~~a.nflags &&& invMask) ≠ 0

/-- The OR of the four flag bits over every engine of a flag word (Table 3-9). -/
def foldFlags (w : W64) : Nat :=
  (List.range 13).foldl (fun a e => Nat.lor a ((w.toNat >>> (4 * e)) % 16)) 0

/-- Mask of the bits of the engines named in a 13-bit mask. -/
def engMask (mask : Nat) : W64 :=
  BitVec.ofNat 64 ((List.range 13).foldl (fun a e => if bitOf mask e then a + 15 <<< (4 * e) else a) 0)

/-- FLAGCLR (R83): clears NFLAGS of the engines named. -/
def numClear (n : NumRegs) (mask : Nat) : NumRegs := { n with nflags := n.nflags &&& ~~~(engMask mask) }

/-- R86: the scratchpad byte that a reader receives; an uncorrectable word reads zero. -/
def spByte (t : Tile) (a : Nat) : Byte :=
  if t.num.ue.contains (.scratch (a / 8)) then 0 else byteAt t.scratch a

/-- R86: the accumulator word that a reader receives. -/
def accWord (t : Tile) (a w : Nat) : W32 :=
  if t.num.ue.contains (.acc a w) then 0 else mapGet 0 t.arr.acc (a * 16384 + w)

/-- Writes of whole accumulator words replace the word with fresh check bits. -/
def accPut (t : Tile) (a w : Nat) (v : W32) : Tile :=
  { t with arr := { t.arr with acc := if v = 0 then mapDel t.arr.acc (a * 16384 + w) else mapSet t.arr.acc (a * 16384 + w) v },
           num := { t.num with ue := t.num.ue.filter (fun x => x ≠ .acc a w) } }

/-- R86, R114: a byte-enabled scratchpad write. A write covering all eight bytes of an uncorrectable word replaces
it; one covering part of it is not performed. A SCRATCH shard that the write reaches is no longer watched (R372). Returns the
words refused. -/
def spWrite (t : Tile) (o : Map Byte) : Tile × List Nat :=
  let words := t.num.ue.filterMap (fun x => match x with | .scratch w => some w | _ => none)
  let full := words.filter (fun w => (List.range 8).all (fun i => (mapFind o (8 * w + i)).isSome))
  let bad := words.filter (fun w => !(full.contains w) && (List.range 8).any (fun i => (mapFind o (8 * w + i)).isSome))
  ({ t with scratch := o.foldl (fun m p => if bad.contains (p.1 / 8) then m else byteSet m p.1 p.2) t.scratch,
            num := { t.num with ue := t.num.ue.filter (fun x => match x with
              | .scratch w => !(full.contains w)
              | _ => true) }
            watch := t.watch.filter (fun x => !(o.any (fun p => x.2.1 ≤ p.1 && p.1 < x.2.2))) }, bad)

end Sys2Proof.Machine
end

