-- ==== Sys2Proof/Machine/Delay.lean ====
section
/-! DEFINITION. Operations of a tile whose effects come some cycles after their issue: S registers, descriptor registers,
scratchpad words and registers that a plate configures (spec 06, R153, Table 6-12; log entry 20). -/
namespace Sys2Proof.Machine
open Sys2Proof

def strAt (x : Tile) (k : Nat) : StreamUnit := mapGet {} x.str k

/-- Writes S8 to S63; S0 to S7 are read-only (Table 6-2). A write replaces an uncorrectable word. -/
def sregPut (x : Tile) (i : Nat) (v : W64) : Tile :=
  if i < 8 || i ≥ 64 then x
  else { x with regs := { x.regs with s := mapSet x.regs.s i v },
                num := { x.num with ue := x.num.ue.filter (fun w => w ≠ .sreg i) } }

/-- Writes a whole descriptor register. -/
def tdPut (x : Tile) (i : Nat) (v : BitVec 1024) : Tile :=
  { x with regs := { x.regs with td := mapSet x.regs.td i v },
           num := { x.num with ue := x.num.ue.filter (fun w => match w with
             | .td j => j / 16 ≠ i
             | _ => true) } }

/-- Stores a whole scratchpad word. -/
def spWordPut (x : Tile) (a : Nat) (v : W64) : Tile :=
  (spWrite x ((List.range 8).foldl (fun m i => mapSet m (a + i) (BitVec.ofNat 8 (v.toNat >>> (8 * i)))) [])).1

/-- PLATE_CFG.WAIT_LOG2 as stored (Table 6-19). -/
def waitLog2 (v : Nat) : Nat := max 20 (min 40 (v % 64))

/-- CFG: the registers a plate may write, by tile page offset ÷ 4 (Table 6-9). -/
def cfgWrite (x : Tile) (off : Nat) (v : W64) : Tile :=
  if off = 0x12 then { x with plate := { x.plate with waitCfg := waitLog2 v.toNat } }
  else if off = 0x58 then { x with bat := { x.bat with ctl := v.setWidth 32 &&& 0xFFF1FFFF } }
  else if 0x60 ≤ off && off < 0x80 && off % 2 = 0 then
    let q := (off - 0x60) / 2
    let b := mapGet {} x.bat.queues q
    if b.fill ≠ 0 then x
    else { x with bat := { x.bat with queues := mapSet x.bat.queues q { b with cfg := v &&& 0x003FFFFFFFFFFFFF } } }
  else if 0xC0 ≤ off && off < 0xC8 then
    { x with str := mapSet x.str (off - 0xC0) { strAt x (off - 0xC0) with cfg := v.setWidth 32 &&& 0xFF } }
  else x

/-- n bytes of scratchpad as their reader receives them, with the uncorrectable words among them (R86). -/
def spRead (x : Tile) (a n : Nat) : Nat × List SramWord :=
  (leVal ((List.range n).map (fun i => spByte x (a + i))),
    x.num.ue.filter (fun w => match w with
      | .scratch k => a / 8 ≤ k && k ≤ (a + n - 1) / 8
      | _ => false))

def duePush (x : Tile) (left : Nat) (op : DueOp) : Tile :=
  { x with plate := { x.plate with due := x.plate.due ++ [{ left := left, op := op }] } }

/-- An operation reaches its effect cycle, or the cycle of its read (Table 6-12). Returns the uncorrectable words it read. -/
def landOp (x : Tile) (op : DueOp) : Tile × List SramWord :=
  match op with
  | .sreg i v => (sregPut x i v, [])
  | .td i v => (tdPut x i v, [])
  | .sst a v => (spWordPut x a v, [])
  | .cfg off v => (cfgWrite x off v, [])
  | .sld a dst => let r := spRead x a 8; (duePush x 4 (.sreg dst (BitVec.ofNat 64 r.1)), r.2)
  | .tdLo a i => let r := spRead x a 64; (duePush x 1 (.tdHi a i (BitVec.ofNat 512 r.1)), r.2)
  | .tdHi a i lo => let r := spRead x (a + 64) 64; (duePush x 2 (.td i (BitVec.ofNat 1024 (r.1 <<< 512 + lo.toNat))), r.2)

/-- Register writes, which take effect at the end of a cycle. An SST is among the scratchpad writes of its cycle. -/
def dueWrites (op : DueOp) : Bool :=
  match op with
  | .sreg _ _ => true
  | .td _ _ => true
  | .cfg _ _ => true
  | _ => false

/-- Scratchpad reads, which see every write of the cycle before. -/
def dueReads (op : DueOp) : Bool :=
  match op with
  | .sld _ _ => true
  | .tdLo _ _ => true
  | .tdHi _ _ _ => true
  | _ => false

/-- Longest latency of Table 6-12 among these operations: after this many cycles nothing is due. -/
def dueSpan : Nat := 6

end Sys2Proof.Machine
end

