-- ==== Sys2Proof/Machine/StatePower.lean ====
section
/-! DEFINITION. Power, clocks, thermal, ageing and apportionment, the Kazcel meter with its mirror, and the module's pins as
plain data (spec 18 and 19). -/
namespace Sys2Proof.Machine
open Sys2Proof

/-- Power control and status (Tables 18-12 to 18-16). `capW` is CAP_W, `warn` the PWR_WARN indication, `active` and `seen` of
EMERG_STAT, `hotDies` and `hotMem` the dies and memory controllers in emergency, `level` the stretch level and `est` the power
estimate in W of the partition with a T0, `demand` the level that a throttle demands of a die, `opp` the operating points in force,
`oppNext` those that wait for a die's voltage, and `volt` the operating point that a die's voltage serves. `on` says that the rails
are up, `tripped` that a thermal trip holds them off and `tripMem` that a memory sensor caused it. `hotRead` are the dies (4 and 5 the I/O dies) and `memThrottle` the memory controllers at or above
their throttle point as last read, `below` that MONTHS_MID lies below AGE_THR. Estimates and totals are what the device last
formed. -/
structure PowerSt where
  on      : Bool := true
  tripped : Bool := false
  tripMem : Bool := false
  warn    : Bool := false
  capW    : Nat := 0
  policy  : W32 := 0
  active  : Nat := 0
  seen    : Nat := 0
  curBound : Bool := false
  trip    : Nat := 0
  pwrIn   : W64 := 0
  pwrDie  : W64 := 0
  thDie   : W64 := 0
  thAux   : W64 := 0
  coolant : W32 := 0
  margin  : Bool := false
  emergCnt : W64 := 0
  hotDies : List Nat := []
  hotMem  : List Nat := []
  level   : Map Nat := []
  demand  : Map Nat := []
  hotRead : List Nat := []
  memThrottle : List Nat := []
  est     : Map Nat := []
  budget  : Map Nat := []
  opp     : Map Nat := []
  oppNext : Map Nat := []
  volt    : Map Nat := []
  appOper : W64 := 0
  appCtx  : Map W64 := []
  agePred : W64 := 0
  ageEye  : W32 := 0
  ageThr  : W32 := 24
  below   : Bool := false
  ageRo   : Map W32 := []
  deriving DecidableEq, Repr

/-- The meter (R446 to R451): its totals, its calibration OTP with the count of CALIBRATE records and of burned seal bits, the
log as the 32 bytes of each index, the chain value, the current wrap record, the part of a calibration record received, the latest
reading, the response that waits to be read, and the latest answer given. -/
structure MeterSt where
  on       : Bool := true
  isSealed : Bool := false
  calValid : Bool := false
  tamper   : Bool := false
  overRange : Bool := false
  seq      : W64 := 0
  msec     : W64 := 0
  energy   : W64 := 0
  mV       : Nat := 0
  mA       : Nat := 0
  logHead  : Nat := 0
  lap      : W32 := 0
  chain    : List Byte := List.replicate 48 0
  log      : Map (List Byte) := []
  wrap     : List Byte := []
  burned   : Nat := 0
  calOtp   : List Byte := []
  calRecs  : Nat := 0
  sealDig  : List Byte := []
  metroDig : List Byte := []
  calPart  : List Byte := []
  reading  : List Byte := []
  rsp      : Option (List Byte) := none
  answer   : List Byte := []
  deriving DecidableEq, Repr

/-- The meter mirror of io0 (R452): byte copies of what the meter's output link delivered. -/
structure MirrorSt where
  linkOk  : Bool := false
  reading : List Byte := []
  wrap    : List Byte := []
  pub     : List Byte := []
  log     : Map (List Byte) := []
  deriving DecidableEq, Repr

/-- J2 and J5 (R458 to R466): levels of the inputs, the strap, flash ownership as taken, ALERT_N as driven, the in-band interrupts raised (their mandatory byte; none where the manual gives none), the
last I3C response of io0, the JTAG instruction and what its data register captured. -/
structure PinsSt where
  modRst  : Bool := true       -- level of MOD_RST_N
  perst0  : Bool := true
  perst1  : Bool := true
  hpSplit : Bool := false      -- level of the strap
  flashPin : Bool := true      -- level of FLASH_OWN_N
  boardFlash : Bool := false   -- the board owns the flash
  warnPin : Bool := false      -- a board device drives PWR_WARN low
  alert   : Bool := false      -- ALERT_N is low
  ibi     : List (Option Nat) := []
  i3cRsp  : List Byte := []
  jtagIr  : Nat := 1
  jtagDr  : Nat := 0
  bscan   : Nat := 0           -- boundary-scan cells of the outputs, as EXTEST drives them
  deriving DecidableEq, Repr

end Sys2Proof.Machine
end

