-- ==== Sys2Proof/Machine/StateRings.lean ====
section
/-! DEFINITION. Contexts, queues, event rings, objects and handles, host functions and host ports as plain data
(spec 13, 14 and 15). -/
namespace Sys2Proof.Machine
open Sys2Proof

/-- What a started command waits for before it completes. -/
inductive Job where
  | none'
  | run (t0 : Nat)
  | release (frame : Nat)
  | destroy (ctx : Nat)
  | unbind (t0 : Nat)
  | join (group t0 : Nat)
  | leave (group t0 : Nat)
  | ckpt (t0 : Nat)            -- an export whose hold is placed (R373)
  | dma                        -- upstream reads are outstanding
  deriving DecidableEq, Repr

/-- Progress of a command read from a queue: waiting for its fence, ready to execute, executing, or ended. -/
inductive CmdSt where
  | waiting
  | ready
  | busy
  | ended
  deriving DecidableEq, Repr

/-- A command taken from a queue (R336): its entry, its progress, its status with DETAIL and RESULT, the objects that
its payload handle (at index `pidx`), WAIT_H and SIG_H name, the further objects it holds (R346), and whether its
queue was aborted. -/
structure QCmd where
  entry  : List Byte
  st     : CmdSt := .ready
  status : Option Nat := none
  detail : Nat := 0
  result : Nat := 0
  pobj   : Option Nat := none
  pidx   : Nat := 0
  wobj   : Option Nat := none
  sobj   : Option Nat := none
  refs   : List Nat := []
  job    : Job := .none'
  abort  : Bool := false
  deriving DecidableEq, Repr

/-- An event waiting for room: KIND and payload (bit 0 of the payload is record bit 64). -/
structure Event where
  kind    : Nat
  payload : Nat
  deriving DecidableEq, Repr

/-- A completion or event ring: window offset, log2 of its records, next record to free and to write, records in
use, PHASE, vector, and its backlog (R338). -/
structure Ring where
  off     : Nat
  log2    : Nat
  head    : Nat := 0
  tail    : Nat := 0
  used    : Nat := 0
  phase   : Bool := true
  vector  : Nat := 0
  irq     : Bool := false
  backlog : List Event := []
  lost    : Half := 0
  deriving DecidableEq, Repr

/-- Q_STAT states; WAITING and RUNNING are told from IDLE by the command held (Table 14-3). -/
inductive QSt where
  | idle
  | fault
  | aborting
  deriving DecidableEq, Repr

/-- A queue of a context. -/
structure Queue where
  st    : QSt := .idle
  sqOff : Nat
  sqLog2 : Nat
  head  : Nat := 0
  tail  : Nat := 0
  cq    : Ring
  obj   : Nat := 0
  cmd   : Option QCmd := none
  deriving DecidableEq, Repr

/-- A handle index of a context: GEN of its last use and, while open, its object, count and SIGNAL right. -/
structure Handle where
  gen    : Nat
  obj    : Option Nat
  count  : Nat
  signal : Bool
  deriving DecidableEq, Repr

inductive CtxSt where
  | free
  | active
  | disabling
  deriving DecidableEq, Repr

/-- A context (R328). `burn` is BURN_CTX (Table 15-12), `destroy` the CTX_DESTROY that waits, `qinc` the queue
incarnations kept across queues, `disabled` the cause of a disable whose burnish runs. -/
structure Ctx where
  st      : CtxSt := .free
  port    : Nat := 0
  vf      : Option Nat := none
  evr     : Option Ring := none
  handles : Map Handle := []
  qinc    : Map Half := []
  burn    : Nat := 0x1F
  destroy : Option CmdRef := none
  evObj   : Option Nat := none
  deriving DecidableEq, Repr

/-- A plate object's loaded image (R161, R162). -/
structure PlateInfo where
  nstrokes : Nat
  entry    : Nat
  waitLog2 : Nat
  numver   : Nat
  lmin     : Nat
  lmax     : Nat
  canon    : Bool
  digest   : List Byte
  deriving DecidableEq, Repr

/-- An object (Table 14-9); TYPE 1 MEMORY, 2 FENCE, 3 QUEUE, 4 PLATE, 5 GROUP. -/
structure Obj where
  typ     : Nat
  owner   : Nat
  ownerH  : Nat
  base    : Nat
  size    : Nat
  host    : Nat := 1
  value   : Nat := 0
  last    : Nat := 0
  tstatus : Nat := 0
  low     : W32 := 0
  releasing : Bool := false
  awaits  : List Nat := []       -- while RELEASING: the frames that are not FREE yet
  plate   : Option PlateInfo := none
  deriving DecidableEq, Repr

/-- A DMA window (R316). -/
structure DmaWin where
  write : Bool
  base  : Nat
  size  : Nat
  deriving DecidableEq, Repr

/-- A host function: PF0 0, PF1 1, VF v of port p at 2 + 512·p + v (R311, R321 to R323). `stop` says that a
STOP_INTERFACE waits for burnish to return the TDI to CONFIG_UNLOCKED (R320). -/
structure Func where
  finc  : Half := 0
  nrdy  : Bool := false
  tdi   : Nat := 0
  stop  : Bool := false
  wins  : Map DmaWin := []
  bme   : Bool := false
  mse   : Bool := false
  stream : Nat := 0
  nonce : List Byte := []
  deriving DecidableEq, Repr

/-- A host port (Tables 13-8 to 13-10, R340). `ides` is CM, LINK and selective streams that are secure, `halted`
those halted, `ideLow` those whose
invocation count has passed its threshold; all by number, 0 CM, 1 LINK, 2 + s selective. -/
structure HPort where
  speed   : Nat := 0
  width   : Nat := 0
  flit256 : Bool := false
  viral   : Bool := false
  secure  : List Nat := []
  halted  : List Nat := []
  ideLow  : List Nat := []
  numVfs  : Nat := 0
  vfEn    : Bool := false
  negMaj  : Nat := 0
  effMin  : Nat := 0
  ce      : W64 := 0
  ue      : W64 := 0
  cto     : W64 := 0
  deny    : W64 := 0
  dbDrop  : W64 := 0
  flr     : W64 := 0
  staleCpl : W64 := 0
  deriving DecidableEq, Repr

/-- A registered shard (R368 to R372): state 0 VALID, 1 FAILED, 2 INVALID. -/
structure Shard where
  st      : Nat := 0
  scratch : Bool
  tile    : Nat
  dst     : Nat
  len     : Nat
  frozen  : Bool
  digest  : List Byte
  deriving DecidableEq, Repr

/-- An upstream write issued under a function: the function, the host address and the bytes. -/
structure HostWr where
  func  : Nat
  addr  : Nat
  bytes : List Byte
  deriving DecidableEq, Repr

/-- Contexts, queues (context · 64 + queue), ring windows (context · 2^21 + offset), objects, functions and ports,
shards (context · 64 + SHARD_ID), MSI-X messages sent (function, vector), and upstream writes issued; host memory itself is
outside the device. `winBad` lists 64-byte window lines that read uncorrectable. -/
structure RingsSt where
  ctxs   : Map Ctx := []
  queues : Map Queue := []
  win    : Bytes := []
  winBad : List Nat := []
  objs   : Map Obj := []
  funcs  : Map Func := []
  ports  : Map HPort := []
  shards : Map Shard := []
  shardCfg : W32 := 0x65
  msix   : List (Nat × Nat) := []
  hostWr : List HostWr := []
  deriving DecidableEq, Repr

end Sys2Proof.Machine
end

