-- ==== Sys2Proof/Machine/State.lean ====
section
/-! DEFINITION. The state of the block, its faults and refusals, and the state after a cold reset. -/
namespace Sys2Proof.Machine
open Sys2Proof

/-- Table 0-1: the variants. -/
inductive Variant where
  | n32 | h192 | h576x
  deriving DecidableEq, Repr

/-- What assembly and straps fix. -/
structure Hw where
  variant : Variant
  split   : Bool
  deriving DecidableEq, Repr

/-- The state of the block: what assembly and straps fix, the units with their transactions, tiles and partitions, contexts and
rings, memory, keys and life cycle, firmware, fabric and collectives, power, the meter, its mirror, the pins, the count of free
values drawn (the model's own), and the commands waiting, first in first out (the model's own). -/
structure State where
  hw      : Hw
  un      : UnitsSt
  tl      : TilesSt
  rg      : RingsSt
  mm      : MemSt
  ks      : KeysSt
  fw      : FwSt
  fb      : FabSt
  pw      : PowerSt
  mt      : MeterSt
  mi      : MirrorSt
  pn      : PinsSt
  free    : Nat
  pending : List Instr
  deriving DecidableEq, Repr

/-- What could stop the block. No meaning raises it: every command has a next state (safe, as it claims nothing). -/
inductive Fault where
  | none'
  deriving DecidableEq, Repr

/-- Why a command is refused. -/
inductive Refusal where
  /-- Raised by an arm of exec whose command has no meaning yet, and by no meaning; safe, as nothing is claimed. -/
  | notModelled (mnemonic : String)
  deriving DecidableEq, Repr

/-- Power cap ceiling of a variant in W (Table 0-1). -/
def ceilingW (v : Variant) : Nat := match v with | .n32 => 1150 | .h192 => 1400 | .h576x => 1800

/-- An admin ring emptied: geometry as fixed, PHASE 1 (R331). Its QINC lies with the context. -/
def adminQueue : Queue :=
  { sqOff := 0, sqLog2 := 8, cq := { off := 0x4000, log2 := 9, vector := 1, irq := true } }

/-- Contexts and queues after a cold reset: the admin context of each port with its admin ring (R328, R331). -/
def ringsReset (split : Bool) : RingsSt :=
  if split then { ctxs := [(0, { st := .active, port := 0 }), (1, { st := .active, port := 1 })],
                  queues := [(0, adminQueue), (64, adminQueue)] }
  else { ctxs := [(0, { st := .active, port := 0 })], queues := [(0, adminQueue)] }

/-- Life cycle of a device as delivered: PRODUCTION (log entry 4). -/
def lcDelivered : LcSt :=
  { segs := [(1, 0x5A5A5A5AA5A5A5A5), (2, 0x3C3CC3C33C3CC3C3), (3, 0x6996966969969669)], consume := 7, state := 4 }

/-- The device right after a cold reset with its rails up, before boot, its flash blank and its OTP as delivered (log entries 4
and 5). -/
def State.reset : State :=
  { hw := { variant := .h576x, split := false }, un := {}, tl := {}, rg := ringsReset false, mm := {},
    ks := { lc := lcDelivered }, fw := {}, fb := {}, pw := { capW := ceilingW .h576x }, mt := {}, mi := {}, pn := {},
    free := 0, pending := [] }

end Sys2Proof.Machine
end

