-- ==== Sys2Proof/Machine/UnitTree.lean ====
section
/-! DEFINITION. The unit tree: pages, kinds, parents, descendants and the fixed header registers (spec 01, R10 to
R19, R32). -/
namespace Sys2Proof.Machine
open Sys2Proof

/-! Completion statuses (Tables 0-4, 2-3, 3-11, 4-12, 5-5, 6-15, 7-3). -/
abbrev stOk : Nat := 0x00
abbrev stBusy : Nat := 0x01
abbrev stReset : Nat := 0x02
abbrev stStale : Nat := 0x03
abbrev stAborted : Nat := 0x04
abbrev stTxnAborted : Nat := 0x05
abbrev stIntegrity : Nat := 0x06
abbrev stUncorr : Nat := 0x07
abbrev stDenied : Nat := 0x08
abbrev stAlias : Nat := 0x09
abbrev stInvalid : Nat := 0x0A
abbrev stAbandoned : Nat := 0x0B
abbrev stFenceEnd : Nat := 0x0C
abbrev stKeyEnd : Nat := 0x0D
abbrev stVersion : Nat := 0x0E
abbrev stPageLost : Nat := 0x0F
abbrev stIllegal : Nat := 0x40
abbrev stOwned : Nat := 0x41
abbrev stQscTimeout : Nat := 0x42
abbrev stReqTimeout : Nat := 0x43
abbrev stResidue : Nat := 0x44
abbrev stArray : Nat := 0x45
abbrev stStream : Nat := 0x46
abbrev stPlate : Nat := 0x47
abbrev stRejected : Nat := 0x48
abbrev stVector : Nat := 0x49

/-- BAR0 page number of a unit (Table 1-17). -/
def pageOf (u : UnitId) : Nat :=
  match u with
  | .package => 0
  | .cdie d => 0x10 + d
  | .iodie i => 0x420 + 0x10 * i
  | .link k => 0x450 + k
  | .cluster c => 0x100 + c
  | .stack s => 0x400 + s
  | .near d => 0x410 + d
  | .tile t => 0x200 + t
  | .spare c => 0x180 + c
  | .fport p => 0x440 + p
  | .hport k => 0x421 + k
  | .service k => 0x480 + 0x10 * k

/-- Units fitted in a variant (Tables 0-1, 1-1; R10, R15). -/
def present (hw : Hw) (u : UnitId) : Bool :=
  match u with
  | .package => true
  | .cdie d => d < 4
  | .iodie i => i = 0 || (i = 1 && hw.variant = .h576x)
  | .link k => k < 6 || (k < 8 && hw.variant = .h576x)
  | .cluster c => c < 32
  | .stack s => s < 12 && (hw.variant = .h576x || (hw.variant = .h192 && s % 3 = 0))
  | .near d => d < 4
  | .tile t => t < 512
  | .spare c => c < 32
  | .fport p => p < 8 || (p < 16 && hw.variant = .h576x)
  | .hport k => k = 0 || (k = 1 && hw.split)
  | .service k => k < 4

/-- Parent of Table 1-1; the package and the service blocks have none. -/
def parentOf (u : UnitId) : Option UnitId :=
  match u with
  | .package => none
  | .cdie _ => some .package
  | .iodie _ => some .package
  | .link _ => some .package
  | .cluster c => some (.cdie (c / 8))
  | .stack s => some (.cdie (s / 3))
  | .near d => some (.cdie d)
  | .tile t => some (.cluster (t / 16))
  | .spare c => some (.cluster c)
  | .fport p => some (.iodie (p / 8))
  | .hport _ => some (.iodie 0)
  | .service _ => none

def childrenAll (u : UnitId) : List UnitId :=
  match u with
  | .package => (List.range 4).map .cdie ++ (List.range 2).map .iodie ++ (List.range 8).map .link
  | .cdie d => (List.range 8).map (fun i => .cluster (8 * d + i)) ++ (List.range 3).map (fun i => .stack (3 * d + i))
      ++ [.near d]
  | .iodie i => (List.range 8).map (fun p => .fport (8 * i + p)) ++ (if i = 0 then [.hport 0, .hport 1] else [])
  | .cluster c => (List.range 16).map (fun t => .tile (16 * c + t)) ++ [.spare c]
  | _ => []

/-- Direct children fitted. -/
def children (hw : Hw) (u : UnitId) : List UnitId := (childrenAll u).filter (present hw)

/-- Descendants fitted, top down. The tree is four levels deep. -/
def descendants (hw : Hw) (u : UnitId) : List UnitId :=
  let c1 := children hw u
  let c2 := c1.flatMap (children hw)
  let c3 := c2.flatMap (children hw)
  c1 ++ c2 ++ c3

def isService (u : UnitId) : Bool := match u with | .service _ => true | _ => false

def unitKind (u : UnitId) : Nat :=
  match u with
  | .package => 1 | .cdie _ => 2 | .iodie _ => 3 | .cluster _ => 4 | .tile _ => 5 | .spare _ => 6
  | .stack _ => 7 | .near _ => 8 | .fport _ => 9 | .hport _ => 0xA | .link _ => 0xB | .service _ => 0xC

def unitLevel (u : UnitId) : Nat :=
  match u with
  | .package => 0
  | .cdie _ | .iodie _ | .link _ | .service _ => 1
  | .tile _ | .spare _ => 3
  | _ => 2

/-- PATH_DIE, PATH_CLUSTER, PATH_TILE (Table 1-7). -/
def unitPath (u : UnitId) : Nat × Nat × Nat :=
  match u with
  | .package => (0xF, 0xF, 0x1F)
  | .cdie d => (d, 0xF, 0x1F)
  | .iodie i => (4 + i, 0xF, 0x1F)
  | .cluster c => (c / 8, c % 8, 0x1F)
  | .tile t => (t / 128, (t / 16) % 8, t % 16)
  | .spare c => (c / 8, c % 8, 0x10)
  | .stack s => (s / 3, s % 3, 0x1F)
  | .near d => (d, 0, 0x1F)
  | .fport p => (4 + p / 8, p % 8, 0x1F)
  | .hport k => (4, k, 0x1F)
  | .link k => (0xF, k, 0x1F)
  | .service k => (0xF, k, 0x1F)

/-- UNIT_ID (Table 1-5). -/
def unitIdReg (u : UnitId) : Nat :=
  let p := unitPath u
  unitLevel u <<< 28 + unitKind u <<< 24 + p.1 <<< 20 + p.2.1 <<< 16 + p.2.2 <<< 11

/-- UNIT_CAP.CMDS (Table 2-4). -/
def unitCmds (u : UnitId) : Nat :=
  match u with
  | .package => 3
  | .iodie i => if i = 0 then 3 else 31
  | .hport _ => 7
  | .service _ => 0
  | _ => 31

def unitCapReg (hw : Hw) (u : UnitId) : Nat := unitCmds u + (children hw u).length <<< 8

/-- All units and service blocks that could be fitted. -/
def allUnits : List UnitId :=
  let c1 := childrenAll .package
  let c2 := c1.flatMap childrenAll
  let c3 := c2.flatMap childrenAll
  [.package] ++ c1 ++ c2 ++ c3 ++ (List.range 4).map .service

/-- The unit of a page number. -/
def unitOfPage (p : Nat) : Option UnitId :=
  if p = 0 then some .package
  else if 0x10 ≤ p && p < 0x14 then some (.cdie (p - 0x10))
  else if 0x100 ≤ p && p < 0x120 then some (.cluster (p - 0x100))
  else if 0x180 ≤ p && p < 0x1A0 then some (.spare (p - 0x180))
  else if 0x200 ≤ p && p < 0x400 then some (.tile (p - 0x200))
  else if 0x400 ≤ p && p < 0x40C then some (.stack (p - 0x400))
  else if 0x410 ≤ p && p < 0x414 then some (.near (p - 0x410))
  else if p = 0x420 then some (.iodie 0)
  else if p = 0x430 then some (.iodie 1)
  else if p = 0x421 || p = 0x422 then some (.hport (p - 0x421))
  else if 0x440 ≤ p && p < 0x450 then some (.fport (p - 0x440))
  else if 0x450 ≤ p && p < 0x458 then some (.link (p - 0x450))
  else if p = 0x480 || p = 0x490 || p = 0x4A0 || p = 0x4B0 then some (.service ((p - 0x480) / 0x10))
  else none

/-- The header of a unit that nothing has touched since cold reset (R21). -/
def unitInit (u : UnitId) : Unit :=
  match u with
  | .package => { state := .run }
  | .iodie i => { state := if i = 0 then .run else .off }
  | .service _ => { state := .run }
  | _ => { state := .off }

/-- R16: links in the order of the route between two dies (io0 is 4, io1 is 5). The route crosses the fewest links
in RUN; of routes of one length the one with the lowest-numbered link that the other does not contain. -/
def linkEnds (k : Nat) : Nat × Nat :=
  match k with
  | 0 => (0, 1) | 1 => (2, 3) | 2 => (0, 2) | 3 => (1, 3) | 4 => (4, 0) | 5 => (4, 2) | 6 => (5, 1) | _ => (5, 3)

/-- Simple paths of exactly n links from a to b, as link lists. -/
def pathsOf (up : Nat → Bool) (n a b : Nat) (seen : List Nat) : List (List Nat) :=
  match n with
  | 0 => if a = b then [[]] else []
  | k + 1 =>
    (List.range 8).flatMap (fun l =>
      let e := linkEnds l
      let o : Option Nat := if e.1 = a then some e.2 else if e.2 = a then some e.1 else none
      match o with
      | none => []
      | some c => if up l && !(seen.contains c) then (pathsOf up k c b (c :: seen)).map (fun p => l :: p) else [])

/-- p precedes q: the lowest link in one and not the other is in p. -/
def routeBefore (p q : List Nat) : Bool :=
  match (List.range 8).find? (fun l => p.contains l != q.contains l) with
  | none => true
  | some l => p.contains l

def bestRoute (ps : List (List Nat)) : Option (List Nat) :=
  match ps with
  | [] => none
  | p :: r => some (r.foldl (fun a q => if routeBefore a q then a else q) p)

/-- The route of R16's rule between two dies over links that are up, none when no route exists. -/
def shortRoute (up : Nat → Bool) (a b : Nat) : Option (List Nat) :=
  match (List.range 6).find? (fun n => !(pathsOf up n a b [a]).isEmpty) with
  | none => none
  | some n => bestRoute (pathsOf up n a b [a])

/-- The route between two dies. With x2 or x3 out of RUN the fewest-links rule would go through an I/O die where R16 states as its
result the other two compute dies: traffic between compute dies keeps to the links of compute dies while these join them, and
follows the rule over every link otherwise (DEDUCED, log entry 117). -/
def routeOf (up : Nat → Bool) (a b : Nat) : Option (List Nat) :=
  let inner := if a < 4 && b < 4 then shortRoute (fun l => l < 4 && up l) a b else none
  match inner with
  | some r => some r
  | none => shortRoute up a b

end Sys2Proof.Machine
end

