-- ==== Sys2Proof/Machine/Operands.lean ====
section
/-! DEFINITION. Tensor descriptors as operands: fields, checks at issue, address generation, windows, element reads
and byte-enabled writes (spec 05, R109 to R120, R131). -/
namespace Sys2Proof.Machine
open Sys2Proof

/-- Dimension fields (Table 5-2). -/
structure Dim where
  extent : Nat
  stride : Int
  padLo  : Nat
  padHi  : Nat
  deriving DecidableEq, Repr

/-- Descriptor fields (Table 5-1) as numbers. -/
structure TDesc where
  base    : Nat
  etype   : Nat
  ndim    : Nat
  space   : Nat
  stride0 : Nat
  banked  : Bool
  banksel : Nat
  base2   : Nat
  tag     : Nat
  fill    : Nat
  idxDim  : Nat
  idxEn   : Bool
  idxTd   : Nat
  scat    : Nat
  scaleTd : Nat
  blockDim : Nat
  append  : Bool
  appendQ : Nat
  cpol    : Nat
  dims    : List Dim
  rsvOk   : Bool
  deriving DecidableEq, Repr

/-- Fields of dimension k at bit 256 + 128·k. -/
def dimOf (v k : Nat) : Dim :=
  let b := v >>> (256 + 128 * k)
  { extent := b % 2 ^ 32, stride := sextNat 40 (bitsOf b 71 32), padLo := bitsOf b 87 72, padHi := bitsOf b 103 88 }

/-- R109: reserved bits of a dimension, the stride of dimension 0 and whole unused dimensions. -/
def dimRsvOk (v nd k : Nat) : Bool :=
  let b := (v >>> (256 + 128 * k)) % 2 ^ 128
  if k < nd then bitsOf b 127 104 = 0 && (k ≠ 0 || bitsOf b 71 32 = 0) else b = 0

def descOf (raw : BitVec 1024) : TDesc :=
  let v := raw.toNat
  let nd := bitsOf v 55 53 + 1
  { base := bitsOf v 47 0, etype := bitsOf v 52 48, ndim := nd, space := bitsOf v 57 56,
    stride0 := bitsOf v 59 58, banked := bitOf v 60, banksel := bitsOf v 62 61, base2 := bitsOf v 111 64,
    tag := bitsOf v 123 112, fill := bitsOf v 191 128, idxDim := bitsOf v 194 192, idxEn := bitOf v 195,
    idxTd := bitsOf v 200 196, scat := bitsOf v 202 201, scaleTd := bitsOf v 207 203,
    blockDim := bitsOf v 210 208, append := bitOf v 211, appendQ := bitsOf v 215 212, cpol := bitsOf v 217 216,
    dims := (List.range (min nd 6)).map (dimOf v),
    rsvOk := !(bitOf v 63) && bitsOf v 127 124 = 0 && bitsOf v 255 218 = 0
      && (List.range 6).all (dimRsvOk v nd) }

def descFmt (d : TDesc) : Fmt := (fmtOfCode d.etype).getD .fp32
def descBits (d : TDesc) : Nat := fmtBits (descFmt d)
def descIsMx (d : TDesc) : Bool := fmtIsMx (descFmt d)
def dimAt (d : TDesc) (k : Nat) : Dim := d.dims.getD k { extent := 1, stride := 0, padLo := 0, padHi := 0 }

/-- The descriptor register named, as latched; an unlisted register reads zero. -/
def latDesc (l : Latched) (r : Nat) : TDesc := descOf (mapGet 0 l.descs r)
/-- The index register named, as latched. -/
def latX (l : Latched) (r : Nat) : Lanes := mapGet [] l.xs r
def laneOf (x : Lanes) (k : Nat) : Int := x.getD k 0

/-! ### Checks at issue -/

def extentProduct (d : TDesc) : Nat := d.dims.foldl (fun a k => a * k.extent) 1

/-- Bytes that dimension 0 spans: ⌈EXTENT_0 · EBITS / 8⌉. -/
def rowBytes (d : TDesc) : Nat := ((dimAt d 0).extent * descBits d + 7) / 8

/-- Address hull of the bank at `base` (R118): lowest and highest byte of an in-bounds element. -/
def hull (d : TDesc) (base : Nat) : Int × Int :=
  let up := (d.dims.drop 1).foldl (fun a k => if k.stride > 0 then a + k.stride * ((k.extent : Int) - 1) else a) (0 : Int)
  let dn := (d.dims.drop 1).foldl (fun a k => if k.stride < 0 then a + k.stride * ((k.extent : Int) - 1) else a) (0 : Int)
  let rb : Int := if d.stride0 = 1 then ((descBits d + 7) / 8 : Nat) else (rowBytes d : Nat)
  if d.stride0 = 2 then ((base : Int) + dn - rb, (base : Int) + up - 1)
  else ((base : Int) + dn, (base : Int) + up + rb - 1)

def hullIn (d : TDesc) (base : Nat) : Bool :=
  let h := hull d base
  let top : Int := if d.space = 0 then 786431 else 2 ^ 48 - 1
  0 ≤ h.1 && h.2 ≤ top

/-- R131 rules 1 to 4 for one descriptor. -/
def descBasicOk (d : TDesc) : Bool :=
  d.rsvOk && (fmtOfCode d.etype).isSome && d.ndim ≤ 6 && d.space ≤ 1 && d.stride0 ≤ 2 && d.banksel ≤ 2
    && d.scat ≤ 1 && d.cpol ≤ 2 && (d.banked || d.base2 = 0) && d.fill < 2 ^ descBits d
    && d.base % 64 = 0 && d.base2 % 64 = 0
    && (d.dims.drop 1).all (fun k => k.stride % 64 = 0) && d.dims.all (fun k => k.extent ≠ 0)
    && extentProduct d < 2 ^ 40
    && hullIn d d.base && (!d.banked || hullIn d d.base2)
    && !(d.stride0 = 2 && (descBits d < 8 || descIsMx d))

/-- R119 on the index descriptor. -/
def indexOk (ix : TDesc) : Bool :=
  descBasicOk ix && ix.etype = 0x07 && ix.ndim = 1 && ix.space = 0 && ix.stride0 = 0
    && (dimAt ix 0).padLo = 0 && (dimAt ix 0).padHi = 0 && !ix.banked && !ix.idxEn && !ix.append

/-- R118 on the companion scale descriptor, with R131 rule 6 (R117, R124): a written companion is written as its tensor is, and it is
never an APPEND descriptor. -/
def companionOk (d c : TDesc) (isWrite : Bool) : Bool :=
  descBasicOk c && !(isWrite && c.banked && c.banksel = 2) && !c.append && c.etype = 0x0E && c.ndim = d.ndim && c.space = d.space && c.banked = d.banked && !c.idxEn
    && (List.range d.ndim).all (fun k =>
      let a := dimAt d k
      let b := dimAt c k
      if k = d.blockDim then b.extent * 32 = a.extent && b.padLo * 32 = a.padLo && b.padHi * 32 = a.padHi
      else b.extent = a.extent && b.padLo = a.padLo && b.padHi = a.padHi)

/-- R131 rule 5: MX rules (R113, R118), sub-byte rule (R114), index rules (R119, R120). -/
def descShapeOk (l : Latched) (d : TDesc) (isWrite : Bool) : Bool :=
  (!descIsMx d || (d.fill = 0 && d.blockDim < d.ndim
      && (let k := dimAt d d.blockDim; k.extent % 32 = 0 && k.padLo % 32 = 0 && k.padHi % 32 = 0)
      && companionOk d (latDesc l d.scaleTd) isWrite))
    && (descBits d ≥ 8 || ((dimAt d 0).extent % 8 = 0 && (dimAt d 0).padLo % 8 = 0))
    && (!d.idxEn || (d.idxDim < d.ndim && indexOk (latDesc l d.idxTd)
      && (dimAt d d.idxDim).padLo = 0 && (dimAt d d.idxDim).padHi = 0
      && !(descIsMx d && d.idxDim = d.blockDim) && !(descBits d < 8 && d.idxDim = 0)))
    && (d.scat = 0 || d.etype = 0x01 || d.etype = 0x02 || d.etype = 0x03 || d.etype = 0x07)

/-- R131 rule 6 and R124. -/
def descUseOk (d : TDesc) (isWrite : Bool) : Bool :=
  !(isWrite && d.banked && d.banksel = 2)
    && (!d.append || (isWrite && d.space = 0 && d.ndim = 2 && d.base = 0 && (dimAt d 1).stride = 0 && !d.banked))

/-- R131 for one named descriptor. -/
def descOk (l : Latched) (d : TDesc) (isWrite : Bool) : Bool :=
  descBasicOk d && descShapeOk l d isWrite && descUseOk d isWrite

/-- R131 rule 7: what array and vector commands accept. -/
def descLocalOk (l : Latched) (d : TDesc) (isWrite : Bool) : Bool :=
  descOk l d isWrite && d.space = 0 && !d.idxEn

def insertStride (p : Nat × Nat) (l : List (Nat × Nat)) : List (Nat × Nat) :=
  match l with
  | [] => [p]
  | q :: r => if p.1 ≤ q.1 then p :: q :: r else q :: insertStride p r

def aliasGo (acc : Nat) (l : List (Nat × Nat)) : Bool :=
  match l with
  | [] => true
  | (s, e) :: r => acc ≤ s && aliasGo (acc + s * (e - 1)) r

/-- R115: the aliasing test of a descriptor used for writing. Dimension 1 of an APPEND descriptor is exempt. -/
def aliasOk (d : TDesc) : Bool :=
  let ks := (List.range d.ndim).filter (fun k => k ≥ 1 && (dimAt d k).extent > 1 && !(d.append && k = 1))
  let sorted := ks.foldl (fun a k => insertStride ((dimAt d k).stride.natAbs, (dimAt d k).extent) a) []
  !(d.stride0 = 1 && (dimAt d 0).extent > 1) && aliasGo (rowBytes d) sorted

/-- The aliasing test of a write use, companion included (R118). -/
def aliasWriteOk (l : Latched) (d : TDesc) : Bool :=
  aliasOk d && (!descIsMx d || aliasOk (latDesc l d.scaleTd))

/-- R117: the base of the bank that a read or a write uses, for the STEP value latched. -/
def bankBase (d : TDesc) (step : Nat) (isWrite : Bool) : Nat :=
  if !d.banked then d.base
  else
    let cur : Bool := step % 2 = 1
    let takeCur : Bool := match d.banksel with
      | 0 => !isWrite
      | 1 => false
      | _ => true
    if takeCur = cur then d.base2 else d.base

/-- R116: hulls of the banks that a MOVE reads and writes overlap in one space. -/
def hullsOverlap (s d : TDesc) (step : Nat) : Bool :=
  let a := hull s (bankBase s step false)
  let b := hull d (bankBase d step true)
  s.space = d.space && a.1 ≤ b.2 && b.1 ≤ a.2

/-! ### Addresses -/

/-- Where a position falls (R111). -/
inductive Pos where
  | oob
  | pad
  | at (c : List Nat) (bit : Nat)
  deriving DecidableEq, Repr

/-- Bytes a command can read: by space (0 scratchpad, 1 device) and address. -/
abbrev Reader := Nat → Nat → Byte

def readBits (rd : Nat → Byte) (bit w : Nat) : Nat :=
  let n := (bit % 8 + w + 7) / 8
  (leVal ((List.range n).map (fun i => rd (bit / 8 + i))) >>> (bit % 8)) % 2 ^ w

/-- R111: one coordinate; none is OOB. -/
def coordOf (l : Latched) (rd : Reader) (d : TDesc) (p : List Int) (k : Nat) : Option Int :=
  let q := laneOf p k
  let dm := dimAt d k
  if d.idxEn && k = d.idxDim then
    let ix := latDesc l d.idxTd
    if q < 0 || q ≥ (dimAt ix 0).extent then none
    else
      let c := sextNat 32 (readBits (rd 0) (ix.base * 8 + q.toNat * 32) 32)
      if c < 0 || c ≥ dm.extent then none else some c
  else if q < -(dm.padLo : Int) || q ≥ dm.extent + dm.padHi then none
  else some q

def coordsGo (l : Latched) (rd : Reader) (d : TDesc) (p : List Int) (ks : List Nat) : Option (List Int) :=
  match ks with
  | [] => some []
  | k :: r =>
    match coordOf l rd d p k with
    | none => none
    | some c => (coordsGo l rd d p r).map (fun t => c :: t)

/-- Byte offset of the row of coordinates c: Σ_{k≥1} c_k · STRIDE_k. -/
def rowOff (d : TDesc) (c : List Int) : Int :=
  (List.range d.ndim).foldl (fun a k => if k = 0 then a else a + laneOf c k * (dimAt d k).stride) 0

def bitAddr (d : TDesc) (base : Nat) (c : List Int) : Int :=
  let row := (base : Int) + rowOff d c
  let eb : Int := descBits d
  match d.stride0 with
  | 0 => row * 8 + laneOf c 0 * eb
  | 1 => row * 8
  | _ => row * 8 - (laneOf c 0 + 1) * eb

/-- R111 in whole. -/
def posOf (l : Latched) (rd : Reader) (d : TDesc) (isWrite : Bool) (p : List Int) : Pos :=
  match coordsGo l rd d p (List.range d.ndim) with
  | none => .oob
  | some c =>
    if (List.range d.ndim).all (fun k => 0 ≤ laneOf c k && laneOf c k < (dimAt d k).extent) then
      .at (c.map Int.toNat) (bitAddr d (bankBase d l.step isWrite) c).toNat
    else .pad

/-- R79: the linear index of in-bounds coordinates. -/
def linIndexGo (ds : List Dim) (c : List Nat) (mul : Nat) : Nat :=
  match ds, c with
  | d :: ds', x :: c' => x * mul + linIndexGo ds' c' (mul * d.extent)
  | _, _ => 0

def linIndex (d : TDesc) (c : List Nat) : Nat := linIndexGo d.dims c 1

/-- R118: companion coordinates of an element. -/
def scaleCoords (d : TDesc) (c : List Nat) : List Int :=
  (List.range d.ndim).map (fun k => let x : Nat := c.getD k 0; if k = d.blockDim then ((x / 32 : Nat) : Int) else (x : Int))

def scaleBit (l : Latched) (d : TDesc) (isWrite : Bool) (c : List Nat) : Nat :=
  let cd := latDesc l d.scaleTd
  (bitAddr cd (bankBase cd l.step isWrite) (scaleCoords d c)).toNat

/-- Raw bits of an element, FILL where no element is (R112). -/
def elemRaw (l : Latched) (rd : Reader) (d : TDesc) (p : List Int) : Nat :=
  match posOf l rd d false p with
  | .at _ b => readBits (rd d.space) b (descBits d)
  | _ => d.fill

/-- Scale byte of the block of a position; 0x7F for formats without a scale, 0x00 where no element is (R113). -/
def scaleRaw (l : Latched) (rd : Reader) (d : TDesc) (p : List Int) : Nat :=
  if descIsMx d then
    match posOf l rd d false p with
    | .at c _ => readBits (rd d.space) (scaleBit l d false c) 8
    | _ => 0
  else 0x7F

/-- Value of an element, MX scale applied (R63, R112). -/
def elemRead (l : Latched) (rd : Reader) (d : TDesc) (p : List Int) : FVal :=
  if descIsMx d then mxVal (descFmt d) (scaleRaw l rd d p) (elemRaw l rd d p)
  else elemVal (descFmt d) (elemRaw l rd d p)

/-! ### Windows -/

/-- Window positions in row-major order, dimension 0 innermost and ascending. -/
def windowPos (win : List Nat) : List (List Nat) :=
  match win with
  | [] => [[]]
  | w :: r => (windowPos r).flatMap (fun t => (List.range w).map (fun i => i :: t))

/-- Extents of a window from an index register; none when a lane below 1 makes it empty (R143). -/
def winOf (nd : Nat) (x : Lanes) : Option (List Nat) :=
  let ws := (List.range nd).map (fun k => laneOf x k)
  if ws.all (fun w => w ≥ 1) then some (ws.map Int.toNat) else none

/-- Position j of a window at an origin. -/
def posAdd (o : Lanes) (j : List Nat) : List Int :=
  (List.range j.length).map (fun k => laneOf o k + ((j.getD k 0 : Nat) : Int))

/-! ### Byte-enabled writes (R114) -/

/-- The bytes a command writes to one space: address and value, one entry a byte. -/
abbrev WriteSet := Map Byte

def outByte (o : WriteSet) (old : Nat → Byte) (a : Nat) : Byte :=
  match mapFind o a with
  | some b => b
  | none => old a

/-- Writes w bits at a bit address; bytes covered in part keep their other bits. -/
def putBits (o : WriteSet) (old : Nat → Byte) (bit w v : Nat) : WriteSet :=
  let n := (bit % 8 + w + 7) / 8
  let a := bit / 8
  let cur := leVal ((List.range n).map (fun i => outByte o old (a + i)))
  let lo := cur % 2 ^ (bit % 8)
  let hi := cur >>> (bit % 8 + w)
  let new := lo + (v % 2 ^ w) <<< (bit % 8) + hi <<< (bit % 8 + w)
  (List.range n).foldl (fun m i => mapSet m (a + i) (BitVec.ofNat 8 (new >>> (8 * i)))) o

/-- What one command's writes have gathered: bytes, OOB elements and flags. -/
structure WriteAcc where
  out   : WriteSet := []
  oob   : Nat := 0
  flags : NFlags := {}
  deriving DecidableEq, Repr

/-- One element through a destination position; SCAT_MODE ADD reads and adds (R120). -/
def putElem (d : TDesc) (old : Nat → Byte) (acc : WriteAcc) (bit raw : Nat) (fl : NFlags) : WriteAcc :=
  if d.scat = 1 && d.idxEn then
    let cur := elemVal (descFmt d) (readBits (outByte acc.out old) bit (descBits d))
    let r := convert (descFmt d) .rne false false (fadd cur (elemVal (descFmt d) raw))
    { acc with out := putBits acc.out old bit (descBits d) r.1, flags := flagsOr acc.flags (flagsOr fl r.2) }
  else { acc with out := putBits acc.out old bit (descBits d) raw, flags := flagsOr acc.flags fl }

/-- One element on its way out: destination position, raw bits, flags, and the block scale it carries. -/
structure OutElem where
  pos   : List Int
  raw   : Nat
  flags : NFlags
  scale : Option Nat := none
  deriving DecidableEq, Repr

/-- Stores one element: padding positions are not stored, OOB positions are counted, and only stored elements raise
flags (R81, R112). -/
def storeElem (l : Latched) (rd : Reader) (d : TDesc) (acc : WriteAcc) (e : OutElem) : WriteAcc :=
  match posOf l rd d true e.pos with
  | .oob => { acc with oob := acc.oob + 1 }
  | .pad => acc
  | .at c b =>
    let w := putElem d (rd d.space) acc b e.raw e.flags
    match e.scale with
    | none => w
    | some sc => { w with out := putBits w.out (rd d.space) (scaleBit l d true c) 8 sc }

def storeElems (l : Latched) (rd : Reader) (d : TDesc) (es : List OutElem) : WriteAcc :=
  es.foldl (storeElem l rd d) {}

/-- What fixes the conversion of a command's elements (R70, R76, R78). -/
structure ConvCtx where
  rmode    : Nat
  sat      : Bool
  headroom : Nat
  widen    : Bool
  draw     : DrawCtx
  deriving DecidableEq, Repr

/-- The rounding mode of an element, its draw taken at the destination's linear index (R79). -/
def modeAt (l : Latched) (rd : Reader) (d : TDesc) (c : ConvCtx) (p : List Int) : RMode :=
  match posOf l rd d true p with
  | .at k _ => rmodeAt c.rmode c.draw (linIndex d k)
  | _ => if c.rmode = 1 then .rtz else .rne

/-- Converts the elements of a window to the destination's format. MX destinations are quantised block by block
along their block dimension (R64); the first element of a block carries its scale. -/
def convertWindow (l : Latched) (rd : Reader) (d : TDesc) (c : ConvCtx) (win : List Nat) (dst : List Nat → List Int)
    (val : List Nat → FVal × NFlags) : List OutElem :=
  if descIsMx d then
    ((windowPos win).filter (fun j => j.getD d.blockDim 0 % 32 = 0)).flatMap (fun j =>
      let js := (List.range 32).map (fun m => j.set d.blockDim (j.getD d.blockDim 0 + m))
      let vs := js.map val
      let q := mxQuantise (descFmt d) c.headroom (js.map (fun j => modeAt l rd d c (dst j))) (vs.map Prod.fst)
      (List.range 32).map (fun m =>
        { pos := dst (js.getD m []), raw := q.2.1.getD m 0,
          flags := if m = 0 then flagsOr q.2.2 (vs.foldl (fun a v => flagsOr a v.2) {}) else {},
          scale := if m = 0 then some q.1 else none }))
  else
    (windowPos win).map (fun j =>
      let v := val j
      let r := convert (descFmt d) (modeAt l rd d c (dst j)) c.sat c.widen v.1
      { pos := dst j, raw := r.1, flags := flagsOr v.2 r.2 })

/-- The bytes of bits on their way out, laid over what memory holds. -/
def bitBytes (old : Nat → Byte) (ws : List BitWrite) : WriteSet := ws.foldl (fun m x => putBits m old x.bit x.w x.val) []

/-- What elements leave on their way out: bits for the descriptor's space, bits for the slot of a request queue, elements out of
bounds and the flags of those stored. -/
structure StoreOut where
  ws    : List BitWrite := []
  slot  : List BitWrite := []
  oob   : Nat := 0
  flags : NFlags := {}
  deriving DecidableEq, Repr

/-- One element on its way out, as `storeElem`, with its bits. Through an APPEND descriptor (R124) the element goes to the slot, `slot` bytes long, and
an element that starts at or beyond the slot's end is out of bounds; its block scale goes through the companion (R118). -/
def storeBits (l : Latched) (rd : Reader) (d : TDesc) (slot : Option Nat) (o : StoreOut) (e : OutElem) : StoreOut :=
  match posOf l rd d true e.pos with
  | .oob => { o with oob := o.oob + 1 }
  | .pad => o
  | .at c b =>
    if slot.any (fun n => n ≤ b / 8) then { o with oob := o.oob + 1 }
    else
      let w : BitWrite := { bit := b, w := descBits d, val := e.raw }
      let sc := match e.scale with
        | none => []
        | some v => [({ bit := scaleBit l d true c, w := 8, val := v } : BitWrite)]
      let f := flagsOr o.flags e.flags
      if slot.isSome then { o with slot := o.slot ++ [w], ws := o.ws ++ sc, flags := f }
      else { o with ws := o.ws ++ [w] ++ sc, flags := f }

def storeOut (l : Latched) (rd : Reader) (d : TDesc) (slot : Option Nat) (es : List OutElem) : StoreOut :=
  es.foldl (storeBits l rd d slot) {}

/-- Slot stride in bytes of the request queue that an APPEND descriptor names (Table 4-10). -/
def slotBytes (t : Tile) (d : TDesc) : Nat := bitsOf (mapGet {} t.bat.queues d.appendQ).cfg.toNat 37 28 * 64

/-- R124: each row of a window through an APPEND descriptor as one queue row, with what else the elements leave. -/
def appendRows (l : Latched) (rd : Reader) (d : TDesc) (engine bytes : Nat) (rows : List (List OutElem)) :
    List AppendRow × StoreOut :=
  let os := rows.map (storeOut l rd d (some bytes))
  (os.map (fun o => { q := d.appendQ, engine := engine, ws := o.slot }),
    os.foldl (fun a o => { a with ws := a.ws ++ o.ws, oob := a.oob + o.oob, flags := flagsOr a.flags o.flags }) {})

/-- Splits the elements of a window into its rows. -/
def rowsOf (w0 : Nat) (n : Nat) (es : List OutElem) : List (List OutElem) :=
  match n with
  | 0 => []
  | k + 1 => es.take w0 :: rowsOf w0 k (es.drop w0)

/-- Descriptor registers that a set of named registers reaches: companions and index tensors too. -/
def reachDescs (td : Nat → BitVec 1024) (rs : List Nat) : List (Nat × BitVec 1024) :=
  rs.foldl (fun m r =>
    let raw := td r
    let d := descOf raw
    let m := mapSet m r raw
    let m := if descIsMx d then mapSet m d.scaleTd (td d.scaleTd) else m
    if d.idxEn then mapSet m d.idxTd (td d.idxTd) else m) []

end Sys2Proof.Machine
end

