-- ==== Sys2Proof/Machine/ArrayOps.lean ====
section
/-! DEFINITION. What WLOAD, STREAM and DRAIN compute on a tile, cycle by cycle (spec 04, R87 to R105, R471): checks at issue, weight
sets, streams and the output path. -/
namespace Sys2Proof.Machine
open Sys2Proof

/-- Dual-class operand formats (Table 4-1). -/
def fmtDual (f : Fmt) : Bool :=
  match f with
  | .e4m3 | .e5m2 | .mxE4m3 | .mxE5m2 | .mxE3m2 | .mxE2m3 | .mxE2m1 | .int8 => true
  | _ => false

/-- Wide-class operand formats (Table 4-1). -/
def fmtWide (f : Fmt) : Bool :=
  match f with
  | .bf16 | .mxInt8 | .fp16 | .fp32 => true
  | _ => false

def scratchReader (t : Tile) : Reader := fun _ a => spByte t a

def pieceKey (bank a k n p : Nat) : Nat := ((bank * 4 + a) * 1024 + k * 32 + n) * 3 + p
def scaleKey (bank a n : Nat) : Nat := (bank * 4 + a) * 32 + n

def bankTag (t : Tile) (b : Nat) : Nat := mapGet 0x03 t.arr.tag b
def bankSplit (t : Tile) (b : Nat) : Nat := mapGet 0 t.arr.split b

/-- A piece register; an uncorrectable cell word reads zero (R86). -/
def pieceAt (t : Tile) (bank a k n p : Nat) : FVal :=
  if t.num.ue.contains (.weight bank a k n) then .fin false 0 0
  else mapGet (.fin false 0 0) t.arr.pieces (pieceKey bank a k n p)

def colScaleAt (t : Tile) (bank a n : Nat) : Nat :=
  if t.num.ue.contains (.scale bank a n) then 0 else mapGet 0 t.arr.scales (scaleKey bank a n)

/-- Scratchpad words that accesses at the positions of a descriptor touch: those of the elements and of the block scales
beside them (R112, R113). -/
def touches (l : Latched) (x : Tile) (d : TDesc) (wr : Bool) (ps : List (List Int)) (w : SramWord) : Bool :=
  match w with
  | .scratch k => d.space = 0 && ps.any (fun p => match posOf l (scratchReader x) d wr p with
    | .at c b => k = b / 64 || k = (b + descBits d - 1) / 64 || (descIsMx d && k = scaleBit l d wr c / 64)
    | _ => false)
  | _ => false

/-! ### WLOAD -/

/-- Table 4-4 and R88: weight format, split and block dimension accepted. -/
def wloadOk (d : TDesc) (split : Nat) : Bool :=
  match fmtOfCode d.etype with
  | none => false
  | some f =>
    ((fmtDual f && split = 0) || (fmtWide f && f ≠ .fp32 && split ≤ 1) || (f = .fp32 && (split = 1 || split = 2)))
      && (!fmtIsMx f || d.blockDim = 1)

/-- Length n of a WLOAD (Table 4-4). -/
def wloadLen (d : TDesc) (sw : Bool) : Nat :=
  if fmtDual (descFmt d) then 16 else if descFmt d = .fp32 && !sw then 64 else 32

/-- The rows that enter in cycle j of a WLOAD, each with its arrays, in ascending order: two rows a cycle where n is 16, one where it is
32, and one row in two cycles, arrays 0 and 1 first, where it is 64 (R92; the halves: log entry 122). -/
def wloadRows (n j : Nat) : List (Nat × List Nat) :=
  if n = 16 then [(2 * j, [0, 1, 2, 3]), (2 * j + 1, [0, 1, 2, 3])]
  else if n = 64 then [(j / 2, if j % 2 = 0 then [0, 1] else [2, 3])]
  else [(j, [0, 1, 2, 3])]

/-- Position of weight (k, column c) from the origin (R471). -/
def weightPos (x : Lanes) (k c : Nat) : List Int :=
  [laneOf x 0 + c, laneOf x 1 + k, laneOf x 2, laneOf x 3, laneOf x 4, laneOf x 5]

/-- The column of a weight set that column n of array a holds (R89, R90). -/
def weightCol (sw : Bool) (a n : Nat) : Nat := if sw then n else 32 * a + n

/-- Element on its way into a cell: pieces and whether the entry is inexact (R73, R74). -/
def enterCell (f : Fmt) (np : Nat) (v : FVal) : List FVal × Bool :=
  if np = 1 && f = .fp16 then
    let r := fp16n v
    ([r.1], r.2)
  else (pieces np v, np ≠ 1 && piecesInexact np v)

/-- One weight row of one array as scratchpad holds it: the pieces of its 32 cells, and with row 0 the column scales, the companion's
bytes for MX weights and 0x7F for other formats (R92). -/
def wloadRow (t : Tile) (l : Latched) (f : WloadOp) (k a : Nat) : Stage :=
  let d := latDesc l f.td
  let x := latX l f.x
  let rd := scratchReader t
  let es := (List.range 32).map (fun n =>
    enterCell (descFmt d) (f.split + 1) (elemVal (descFmt d) (elemRaw l rd d (weightPos x k (weightCol f.sw a n)))))
  .cell a k (es.map Prod.fst) (es.any Prod.snd)
    (if k = 0 then (List.range 32).map (fun n => scaleRaw l rd d (weightPos x 0 (weightCol f.sw a n))) else [])

/-- The array that reads a scratchpad word as a weight row enters it. -/
def wloadReader (t : Tile) (l : Latched) (f : WloadOp) (k a : Nat) (w : SramWord) : Option Nat :=
  if touches l t (latDesc l f.td) false ((List.range 32).map (fun n => weightPos (latX l f.x) k (weightCol f.sw a n))) w
  then some a else none

/-- A weight row is written into its cells; unused piece registers take zero (R92). -/
def cellPut (bank a k : Nat) (cells : List (List FVal)) (scales : List Nat) (t : Tile) : Tile :=
  let zero := FVal.fin false 0 0
  { t with
    arr := { t.arr with
      pieces := (List.range 32).foldl (fun m n => (List.range 3).foldl (fun m p =>
        mapSet m (pieceKey bank a k n p) ((cells.getD n []).getD p zero)) m) t.arr.pieces,
      scales := (scales.zip (List.range 32)).foldl (fun m e => mapSet m (scaleKey bank a e.2) e.1) t.arr.scales },
    num := { t.num with ue := t.num.ue.filter (fun w => match w with
      | .weight b a' k' _ => !(b = bank && a' = a && k' = k)
      | .scale b a' _ => !(b = bank && a' = a && !scales.isEmpty)
      | _ => true) } }

/-- The bank's tag and split take their new values (R92). -/
def tagPut (bank etype split : Nat) (t : Tile) : Tile :=
  { t with arr := { t.arr with tag := mapSet t.arr.tag bank etype, split := mapSet t.arr.split bank split } }

/-! ### STREAM -/

/-- What a STREAM must satisfy whatever its bank holds (R87, R88, R105). Which splits an activation format takes is stated only
for FP16 and FP32 (Table 4-1): the model refuses a split on a dual-class format and takes P2 and P3 on every wide one (log entry 123). -/
def streamFormOk (d : TDesc) (f : StreamOp) : Bool :=
  match fmtOfCode d.etype with
  | some a =>
    (fmtDual a || fmtWide a) && !(fmtDual a && f.splitA ≠ 0) && !(a = .fp32 && f.splitA = 0) && f.splitA ≤ 2
      && !(a = .int8 && f.acc64) && !(!f.acc64 && f.splitA = 2) && (!fmtIsMx a || d.blockDim = 0)
  | none => false

/-- R87, R105, Table 3-3: the operand classes, splits and accumulator against the bank's tag and split. -/
def streamOk (t : Tile) (d : TDesc) (f : StreamOp) : Bool :=
  match fmtOfCode d.etype, fmtOfCode (bankTag t f.bank) with
  | some a, some w =>
    let ws := bankSplit t f.bank
    streamFormOk d f && ((a = .int8) = (w = .int8)) && (passOrder (f.splitA + 1) (ws + 1)).isSome
      && !(f.acc64 && ((fmtDual a && fmtDual w) || (f.splitA = 1 && ws = 1))) && !(!f.acc64 && ws = 2)
  | _, _ => false

/-- Dual mode: both operands of dual class (R87). -/
def isDual (d : TDesc) (tag : Nat) : Bool := fmtDual (descFmt d) && fmtDual ((fmtOfCode tag).getD .bf16)

/-- Rows per cycle (Table 4-2). -/
def rowsPerCycle (sw dual : Bool) : Nat := (if sw then 4 else 1) * (if dual then 2 else 1)

/-- Arrays a stream row enters and its relative row (R89, R90). -/
def routeRow (sw dual : Bool) (r : Nat) : List Nat × Nat :=
  if !sw then ([0, 1, 2, 3], r)
  else if dual then ([(r / 2) % 4], 2 * (r / 8) + r % 2)
  else ([r % 4], r / 4)

/-- A descriptor whose rows are the slots of a request queue (R103): its base is the slot. Its companion keeps its own BASE, so every slot's
row has the companion's first row of scales (log entry 124). -/
def slotDesc (d : TDesc) (base : Nat) : TDesc := { d with base := base, banked := false }

/-- R97: an accumulator entry by view, row modulo the view's row count. -/
def accEntry (t : Tile) (acc64 : Bool) (a row n : Nat) : Nat :=
  if acc64 then
    let r := row % 256
    (accWord t a (2 * r * 32 + n)).toNat + (accWord t a ((2 * r + 1) * 32 + n)).toNat <<< 32
  else (accWord t a ((row % 512) * 32 + n)).toNat

def accEntryPut (t : Tile) (acc64 : Bool) (a row n v : Nat) : Tile :=
  if acc64 then
    let r := row % 256
    accPut (accPut t a (2 * r * 32 + n) (BitVec.ofNat 32 v)) a ((2 * r + 1) * 32 + n) (BitVec.ofNat 32 (v >>> 32))
  else accPut t a ((row % 512) * 32 + n) (BitVec.ofNat 32 v)

/-- Writes the 32 entries of a row of one array. -/
def accRowPut (acc64 : Bool) (a row : Nat) (vs : List Nat) (t : Tile) : Tile :=
  (vs.zip (List.range 32)).foldl (fun t e => accEntryPut t acc64 a row e.2 e.1) t

/-- A 32-bit accumulator word lies in an entry row (R97). -/
def accRowHit (acc64 : Bool) (row k : Nat) : Bool :=
  if acc64 then k / 64 = row % 256 else k / 32 = row % 512

def accFmt (acc64 isInt : Bool) : Fmt := if acc64 then .fp64 else if isInt then .int32 else .fp32

/-- Where stream row r is read: the descriptor and the row coordinate; none for a batch row that is missing (R103). -/
def streamSrc (t : Tile) (l : Latched) (d : TDesc) (f : StreamOp) (r : Nat) : Option (TDesc × Int) :=
  if f.batch then
    match (if t.bat.ready then t.bat.batch else []).drop r with
    | [] => none
    | (q, slot) :: _ =>
      let c := (mapGet {} t.bat.queues q).cfg.toNat
      some (slotDesc d (bitsOf c 13 0 * 64 + slot * bitsOf c 37 28 * 64), 0)
  else some (d, laneOf (latX l f.x) 1 + (r : Int))

/-- Position of element k of a stream row (R471). -/
def streamPos (x : Lanes) (row : Int) (k : Nat) : List Int :=
  [laneOf x 0 + (k : Int), row, laneOf x 2, laneOf x 3, laneOf x 4, laneOf x 5]

/-- Input row of a stream: 32 elements (without scale) and the block's scale byte (R89, R103, R471). -/
def streamRow (t : Tile) (l : Latched) (d : TDesc) (f : StreamOp) (r : Nat) : List FVal × Nat :=
  let x := latX l f.x
  let rd := scratchReader t
  match streamSrc t l d f r with
  | none => (List.replicate 32 (.fin false 0 0), if descIsMx d then 0 else 0x7F)
  | some (d', row) =>
    ((List.range 32).map (fun k => elemVal (descFmt d) (elemRaw l rd d' (streamPos x row k))), scaleRaw l rd d' (streamPos x row 0))

/-- The first array that a stream row enters reads a scratchpad word of the row (Table 3-13). -/
def streamReader (t : Tile) (l : Latched) (f : StreamOp) (dual : Bool) (r : Nat) (w : SramWord) : Option Nat :=
  match streamSrc t l (latDesc l f.td) f r with
  | some (d', row) =>
    if touches l t d' false ((List.range 32).map (streamPos (latX l f.x) row)) w then (routeRow f.sw dual r).1.head? else none
  | none => none

/-- The passes of a STREAM in order, as piece numbers of activation and weight (R94, Table 3-3). -/
def streamPasses (f : StreamOp) (split : Nat) : List (Nat × Nat) := (passOrder (f.splitA + 1) (split + 1)).getD []

/-- Groups of one pass: ⌈ROWS / RPC⌉ (R94). -/
def passGroups (f : StreamOp) (dual : Bool) : Nat := (f.rows + rowsPerCycle f.sw dual - 1) / rowsPerCycle f.sw dual

/-- Length G of a STREAM (R94). -/
def streamCycles (d : TDesc) (f : StreamOp) (tag split : Nat) : Nat := (streamPasses f split).length * passGroups f (isDual d tag)

/-- The rows of group g of a pass. -/
def groupRows (f : StreamOp) (dual : Bool) (g : Nat) : List Nat :=
  (List.range (rowsPerCycle f.sw dual)).filterMap (fun i =>
    let r := g * rowsPerCycle f.sw dual + i
    if r < f.rows then some r else none)

/-- S+1+g: a row of group g as it enters the cells, in the piece of its pass (Table 4-5). -/
def streamAct (t : Tile) (l : Latched) (f : StreamOp) (split pass r : Nat) : Stage :=
  let d := latDesc l f.td
  let rw := streamRow t l d f r
  let cells := rw.1.map (enterCell (descFmt d) (f.splitA + 1))
  let i := ((streamPasses f split).getD pass (0, 0)).1
  .act pass r (cells.map (fun c => c.1.getD i (.fin false 0 0))) rw.2 (cells.any Prod.snd)

/-- The windowed sum of one column with the block scales applied (R71, R72, R88). -/
def colSum (t : Tile) (f : StreamOp) (isInt : Bool) (a n pj : Nat) (xs : List FVal) (sa : Nat) : FVal :=
  let prods := (xs.zip (List.range 32)).map (fun p => fmul p.1 (pieceAt t f.bank a p.2 n pj))
  let s := if isInt then prods.foldl fadd (.fin false 0 0) else columnSum (if f.acc64 then 64 else 40) prods
  match scaleVal (scaleVal s sa) (colScaleAt t f.bank a n) with
  | .fin _ 0 _ => .fin false 0 0
  | w => w

/-- S+5+g: a row's products on the arrays it enters (Table 4-5). -/
def streamSums (t : Tile) (l : Latched) (f : StreamOp) (tag split pass r : Nat) (xs : List FVal) (sa : Nat) (inx : Bool) : List Stage :=
  let d := latDesc l f.td
  let dual := isDual d tag
  let route := routeRow f.sw dual r
  let base := if dual then f.accRow / 2 * 2 else f.accRow
  let pj := ((streamPasses f split).getD pass (0, 0)).2
  route.1.map (fun a => .sum a (base + route.2) (f.opset && pass = 0) inx
    ((List.range 32).map (fun n => colSum t f (descFmt d = .int8) a n pj xs sa)))

/-- The weight registers and scales that a row's products read, by array. -/
def cellReader (f : StreamOp) (dual : Bool) (r : Nat) (w : SramWord) : Option Nat :=
  let as := (routeRow f.sw dual r).1
  match w with
  | .weight b a _ _ => if b = f.bank && as.contains a then some a else none
  | .scale b a _ => if b = f.bank && as.contains a then some a else none
  | _ => none

/-- S+9+g: the entries of a row are read and updated with one rounding (R71, R72, Table 4-5). -/
def streamUpd (t : Tile) (f : StreamOp) (isInt : Bool) (a row : Nat) (set inx : Bool) (vs : List FVal) : Stage :=
  let fm := accFmt f.acc64 isInt
  let us := (vs.zip (List.range 32)).map (fun e =>
    convert fm .rne false false (if set then e.1 else fadd (elemVal fm (accEntry t f.acc64 a row e.2)) e.1))
  .upd a row (us.map Prod.fst) (us.foldl (fun o u => flagsOr o u.2) (if inx then { inx := true } else {}))

/-! ### DRAIN -/

/-- The format of v1 (R98). -/
def drainFmt (f : DrainOp) : Fmt :=
  if f.acc64 then .fp64 else if f.aint && f.scale = 0 then .int32 else .fp32

/-- R105 for a DRAIN. An MX OUT_FMT's block dimension is that of the columns, 0: another one is refused as R88 refuses it of an operand
(log entry 125). -/
def drainOk (l : Latched) (f : DrainOp) : Bool :=
  let d := latDesc l f.td
  let out := descFmt d
  (f.add = 0 || (out = .fp32 && ((latDesc l f.tdR).etype = 0x01 || (latDesc l f.tdR).etype = 0x03)))
    && (f.scale ≠ 2 || (latDesc l f.scaleSrc).etype = 0x01) && f.scale ≤ 2 && f.add ≤ 2
    && !(f.aint && f.acc64) && !(rmodeRefused f.rmode (!fmtWidens (drainFmt f) out))
    && !(f.batch && 2 ≤ f.rmode) && (!descIsMx d || d.blockDim = 0)

/-- Position of output row j, column n (R471). -/
def outPos (x : Lanes) (row : Int) (n : Nat) : List Int :=
  [laneOf x 0 + n, row, laneOf x 2, laneOf x 3, laneOf x 4, laneOf x 5]

/-- Position of the scale of an output column (R471). -/
def scalePos (l : Latched) (f : DrainOp) (n : Nat) : List Int := [laneOf (latX l f.x) 0 + n, 0, 0, 0, 0, 0]

/-- Position of the residual or bias element of output row j, column n (R471). -/
def addPos (l : Latched) (f : DrainOp) (j n : Nat) : List Int :=
  outPos (latX l f.xR) (if f.add = 2 then laneOf (latX l f.xR) 1 else laneOf (latX l f.xR) 1 + (j : Int)) n

/-- Step 1 of R98: the scaled value and its flags. -/
def drainScale (t : Tile) (l : Latched) (f : DrainOp) (n : Nat) (v : FVal) : FVal × NFlags :=
  if f.scale = 0 then (v, {})
  else
    let sg := if f.scale = 1 then elemVal .fp32 (l.sreg % 2 ^ 32)
      else elemRead l (scratchReader t) (latDesc l f.scaleSrc) (scalePos l f n)
    let r := convert (if f.acc64 then .fp64 else .fp32) .rne false false (fmul v sg)
    (elemVal (if f.acc64 then .fp64 else .fp32) r.1, r.2)

/-- Step 3 of R98: the residual or bias element added, rounded to binary32. -/
def drainAdd (t : Tile) (l : Latched) (f : DrainOp) (j n : Nat) (raw : Nat) : Nat × NFlags :=
  if f.add = 0 then (raw, {})
  else convert .fp32 .rne false false
    (fadd (elemVal .fp32 raw) (elemRead l (scratchReader t) (latDesc l f.tdR) (addPos l f j n)))

/-- Length J of a DRAIN (R99). -/
def drainLen (f : DrainOp) : Nat := if f.sw then (f.rows + 3) / 4 else f.rows

/-- The output rows of drain cycle c, each with its arrays and their first columns (R99). In SW the last cycle of a DRAIN whose ROWS is
no multiple of 4 leaves the arrays without an output row unread and uncleared (log entry 126). -/
def drainRows (f : DrainOp) (c : Nat) : List (Nat × List (Nat × Nat)) :=
  if f.sw then (List.range 4).filterMap (fun a => if 4 * c + a < f.rows then some (4 * c + a, [(a, 0)]) else none)
  else [(c, [(0, 0), (1, 32), (2, 64), (3, 96)])]

/-- Destination descriptor and row coordinate of output row j; none when the row is not written (R103). -/
def drainDest (t : Tile) (l : Latched) (f : DrainOp) (j : Nat) : Option (TDesc × Int) :=
  let d := latDesc l f.td
  if f.batch then
    match (if t.bat.ready then t.bat.batch else []).drop j with
    | [] => none
    | (q, slot) :: _ =>
      let c := (mapGet {} t.bat.queues q).cfg.toNat
      some (slotDesc d (bitsOf c 27 14 * 64 + slot * bitsOf c 47 38 * 64), 0)
  else some (d, laneOf (latX l f.x) 1 + (j : Int))

/-- D+1+c: an output row's entries as they are read (Table 4-7). -/
def drainEnt (t : Tile) (f : DrainOp) (c : Nat) (r : Nat × List (Nat × Nat)) : Stage :=
  .ent r.1 (r.2.map (fun a => (a.1, a.2, (List.range 32).map (fun n => accEntry t f.acc64 a.1 (f.accRow + c) n))))

/-- With CLR = 1 the entries that drain cycle c reads are set to +0. -/
def drainClear (f : DrainOp) (c : Nat) (t : Tile) : Tile :=
  if f.clr then
    (drainRows f c).foldl (fun t r => r.2.foldl (fun t a => accRowPut f.acc64 a.1 (f.accRow + c) (List.replicate 32 0) t) t) t
  else t

/-- The accumulator words that drain cycle c reads, by array. -/
def entReader (f : DrainOp) (c : Nat) (w : SramWord) : Option Nat :=
  match w with
  | .acc a k => if (drainRows f c).any (fun r => r.2.any (fun e => e.1 = a)) && accRowHit f.acc64 (f.accRow + c) k then some a else none
  | _ => none

/-- Draw context of a command's destination tensor. -/
def drawOf (seed : Nat) (l : Latched) (tag use : Nat) : DrawCtx := { seed := seed, tag := tag, step := l.step, use := use }

/-- The 32 columns of one array row scaled, converted and added: the elements that go out, each with the flags of all its steps (R98). The 32
columns form one block of an MX OUT_FMT (R98), whose one scale goes to the block of the first column, whatever column that is (log entry 125). -/
def drainElems (t : Tile) (l : Latched) (f : DrainOp) (seed j c0 : Nat) (d : TDesc) (row : Int) (vs : List Nat) : List OutElem :=
  let rd := scratchReader t
  let dr := drawOf seed l d.tag f.use
  let ns := List.range 32
  let pos := fun n => outPos (latX l f.x) row (c0 + n)
  let sc := ns.map (fun n => drainScale t l f (c0 + n) (elemVal (accFmt f.acc64 f.aint) (vs.getD n 0)))
  let cc : ConvCtx := { rmode := f.rmode, sat := f.sat, headroom := f.headroom, widen := fmtWidens (drainFmt f) (descFmt d), draw := dr }
  let mode := fun n => modeAt l rd d cc (pos n)
  let v1 := fun n => sc.getD n (.fin false 0 0, {})
  if descIsMx d then
    let q := mxQuantise (descFmt d) f.headroom (ns.map mode) (sc.map Prod.fst)
    let live := ns.find? (fun n => match posOf l rd d true (pos n) with
      | .at _ _ => true
      | _ => false)
    ns.map (fun n => { pos := pos n, raw := q.2.1.getD n 0, scale := if n = 0 then some q.1 else none,
                       flags := if live = some n then flagsOr (v1 n).2 q.2.2 else (v1 n).2 })
  else
    ns.map (fun n =>
      let cv := convert (descFmt d) (mode n) f.sat cc.widen (v1 n).1
      let ad := drainAdd t l f j (c0 + n) cv.1
      { pos := pos n, raw := ad.1, flags := flagsOr (v1 n).2 (flagsOr cv.2 ad.2) })

/-- D+4+c: an output row on its way out, one part for each array that supplies it, or a queue row through an APPEND TD_O (R98, R124). -/
def drainOut (t : Tile) (l : Latched) (f : DrainOp) (seed j : Nat) (srcs : List (Nat × Nat × List Nat)) : Stage :=
  match drainDest t l f j with
  | none => .out [] []
  | some (d, row) =>
    let slot := if d.append then some (slotBytes t d) else none
    let os := srcs.map (fun e => (e.1, storeOut l (scratchReader t) d slot (drainElems t l f seed j e.2.1 d row e.2.2)))
    .out (os.map (fun o => { rank := 4, source := o.1, ws := o.2.ws, oob := o.2.oob, flags := o.2.flags, tag := d.tag }))
      (if d.append then [{ q := d.appendQ, engine := (srcs.headD (0, 0, [])).1, ws := os.flatMap (fun o => o.2.slot) }] else [])

/-- The first array whose output path reads a scratchpad word for output row j: column scales and residual or bias rows. -/
def drainReader (t : Tile) (l : Latched) (f : DrainOp) (j : Nat) (srcs : List (Nat × Nat × List Nat)) (w : SramWord) : Option Nat :=
  if (drainDest t l f j).isNone then none
  else (srcs.find? (fun e =>
    (f.scale = 2 && touches l t (latDesc l f.scaleSrc) false ((List.range 32).map (fun n => scalePos l f (e.2.1 + n))) w)
      || (f.add ≠ 0 && touches l t (latDesc l f.tdR) false ((List.range 32).map (fun n => addPos l f j (e.2.1 + n))) w))).map Prod.fst

end Sys2Proof.Machine
end

