-- ==== Sys2Proof/Machine/Elem.lean ====
section
/-! DEFINITION. The function evaluators of the vector engine (spec 07, R170, R171, Table 7-2): exact results as
truncated 640-bit fixed-point numbers with a remainder mark, rounded once by their caller (log entry 12). -/
namespace Sys2Proof.Machine
open Sys2Proof

/-- Fraction bits of the evaluators' fixed point. -/
def fixP : Nat := 640
def fixOne : Int := 2 ^ 640

def fixMul (a b : Int) : Int := (a * b) / fixOne
def fixDiv (a b : Int) : Int := (a * fixOne) / b

/-- Σ z^(2n+1)/(2n+1), the inverse hyperbolic tangent of |z| ≤ 1/3. -/
def atanhGo (fuel : Nat) (z2 pow : Int) (n : Nat) (acc : Int) : Int :=
  match fuel with
  | 0 => acc
  | f + 1 => if pow = 0 then acc else atanhGo f z2 (fixMul pow z2) (n + 2) (acc + pow / (n : Int))

def fixAtanh (z : Int) : Int := atanhGo 700 (fixMul z z) z 1 0

def fixLn2 : Int := 2 * fixAtanh (fixOne / 3)

/-- Σ (−1)^n z^(2n+1)/(2n+1). -/
def atanGo (fuel : Nat) (z2 pow : Int) (n : Nat) (acc : Int) : Int :=
  match fuel with
  | 0 => acc
  | f + 1 => if pow = 0 then acc else atanGo f z2 (-(fixMul pow z2)) (n + 2) (acc + pow / (n : Int))

def fixAtan (z : Int) : Int := atanGo 700 (fixMul z z) z 1 0

def fixPi : Int := 16 * fixAtan (fixOne / 5) - 4 * fixAtan (fixOne / 239)

def expGo (fuel : Nat) (r term : Int) (n : Nat) (acc : Int) : Int :=
  match fuel with
  | 0 => acc
  | f + 1 => if term = 0 then acc else expGo f r (fixMul term r / (n : Int)) (n + 1) (acc + term)

/-- e^a for a fixed-point a with |a| at most 512. -/
def fixExp (a : Int) : Int :=
  let k := a / fixLn2
  let r := a - k * fixLn2
  let v := expGo 220 r fixOne 1 0
  if k ≥ 0 then v * 2 ^ k.toNat else v / 2 ^ (-k).toNat

/-- Fixed point of (−1)^neg · m · 2^e. -/
def fixOf (neg : Bool) (m : Nat) (e : Int) : Int :=
  let v : Int := (shiftBy m (e + 640) : Nat)
  if neg then -v else v

/-- A fixed-point result that is not exact. -/
def fixX (v : Int) : XVal := { neg := v < 0, m := v.natAbs, e := -640, sticky := true }

/-- A nonzero magnitude below every format's step. -/
def xTiny (neg : Bool) : XVal := { neg := neg, m := 1, e := -2000, sticky := true }
/-- A magnitude above every finite value. -/
def xHuge (neg : Bool) : XVal := { neg := neg, m := 1, e := 3000, sticky := true }
/-- A magnitude just below m · 2^e. -/
def xBelow (neg : Bool) (m : Nat) (e : Int) : XVal := { neg := neg, m := (m <<< 400) - 1, e := e - 400, sticky := true }

/-- |a| ≥ 2^k. -/
def magGe (m : Nat) (e : Int) (k : Nat) : Bool := !(magLt m e 1 k)

/-- The result of an evaluator: a special value or an exact magnitude to round. -/
inductive ElemRes where
  | nan
  | inf (neg ovf : Bool)
  | x (v : XVal)
  deriving DecidableEq, Repr

def xExact (neg : Bool) (m : Nat) (e : Int) : ElemRes := .x { neg := neg, m := m, e := e }

def elemExp (v : FVal) : ElemRes :=
  match v with
  | .nan => .nan
  | .inf n => if n then xExact false 0 0 else .inf false false
  | .fin n m e =>
    if m = 0 then xExact false 1 0
    else if magGe m e 9 then .x (if n then xTiny false else xHuge false)
    else .x (fixX (fixExp (fixOf n m e)))

def elemLog (v : FVal) : ElemRes :=
  match v with
  | .nan => .nan
  | .inf n => if n then .nan else .inf false false
  | .fin n m e =>
    if m = 0 then .inf true true
    else if n then .nan
    else
      let k := leadExp m e
      let y : Int := fixOf false m (e - k)
      if y = fixOne && k = 0 then xExact false 0 0
      else .x (fixX (k * fixLn2 + 2 * fixAtanh (fixDiv (y - fixOne) (y + fixOne))))

def elemTanh (v : FVal) : ElemRes :=
  match v with
  | .nan => .nan
  | .inf n => xExact n 1 0
  | .fin n m e =>
    if m = 0 then xExact n 0 0
    else if magGe m e 7 then .x (xBelow n 1 0)
    else
      let t := fixExp (2 * fixOf false m e)
      let r := fixDiv (t - fixOne) (t + fixOne)
      .x { fixX r with neg := n }

/-- 1 ÷ (1 + e^−a) in fixed point for |a| below 2^8. -/
def fixSigmoid (a : Int) : Int :=
  if a ≥ 0 then fixDiv fixOne (fixOne + fixExp (-a))
  else
    let t := fixExp a
    fixDiv t (fixOne + t)

def elemSigmoid (v : FVal) : ElemRes :=
  match v with
  | .nan => .nan
  | .inf n => if n then xExact false 0 0 else xExact false 1 0
  | .fin n m e =>
    if m = 0 then xExact false 1 (-1)
    else if magGe m e 8 then .x (if n then xTiny false else xBelow false 1 0)
    else .x (fixX (fixSigmoid (fixOf n m e)))

def elemSilu (v : FVal) : ElemRes :=
  match v with
  | .nan => .nan
  | .inf n => if n then xExact true 0 0 else .inf false false
  | .fin n m e =>
    if m = 0 then xExact n 0 0
    else if magGe m e 8 then .x (if n then xTiny true else xBelow false m e)
    else
      let a := fixOf n m e
      .x { fixX (fixMul a (fixSigmoid a)) with neg := n }

def gaussGo (fuel : Nat) (a2 term : Int) (n : Nat) (acc : Int) : Int :=
  match fuel with
  | 0 => acc
  | f + 1 => if term = 0 then acc else gaussGo f a2 (fixMul term a2 / (n : Int)) (n + 2) (acc + term)

def fixSqrt (v : Int) : Int := (isqrt ((v * fixOne).toNat) : Nat)

/-- (1 + erf(a ÷ √2)) ÷ 2 for |a| below 2^4. -/
def fixGauss (a : Int) : Int :=
  let a2 := fixMul a a
  let s := gaussGo 4000 a2 a 3 0
  fixOne / 2 + fixMul (fixDiv (fixExp (-(a2 / 2))) (fixSqrt (2 * fixPi))) s

def elemGelu (v : FVal) : ElemRes :=
  match v with
  | .nan => .nan
  | .inf n => if n then xExact true 0 0 else .inf false false
  | .fin n m e =>
    if m = 0 then xExact n 0 0
    else if magGe m e 4 then .x (if n then xTiny true else xBelow false m e)
    else
      let a := fixOf n m e
      .x { fixX (fixMul a (fixGauss a)) with neg := n }

/-- DIV (R171). -/
def elemDiv (a b : FVal) : ElemRes :=
  match a, b with
  | .nan, _ => .nan
  | _, .nan => .nan
  | .inf _, .inf _ => .nan
  | .inf n, .fin k _ _ => .inf (n != k) false
  | .fin n _ _, .inf k => xExact (n != k) 0 0
  | .fin n m e, .fin k m' e' =>
    if m' = 0 then (if m = 0 then .nan else .inf (n != k) true)
    else if m = 0 then xExact (n != k) 0 0
    else .x (divX (n != k) m e m' e')

def elemSqrt (a : FVal) : ElemRes :=
  match a with
  | .nan => .nan
  | .inf n => if n then .nan else .inf false false
  | .fin n m e =>
    if m = 0 then xExact n 0 0
    else if n then .nan
    else .x (sqrtX m e)

/-- 1 ÷ √t of the rounded sum t (R170, R171). -/
def elemRsqrt (t : FVal) : ElemRes :=
  match t with
  | .nan => .nan
  | .inf n => if n then .nan else xExact false 0 0
  | .fin n m e =>
    if m = 0 then .inf false true
    else if n then .nan
    else
      let odd : Bool := e % 2 ≠ 0
      let m' := if odd then 2 * m else m
      let e' := if odd then e - 1 else e
      let r := isqrt ((2 ^ 600) / m')
      .x { neg := false, m := r, e := -300 - e' / 2, sticky := r * r * m' ≠ 2 ^ 600 }

end Sys2Proof.Machine
end

