-- ==== Sys2Proof/Machine/VectorOps.lean ====
section
/-! DEFINITION. What a vector operation checks at issue and computes on a tile (spec 07, R165 to R178). -/
namespace Sys2Proof.Machine
open Sys2Proof

/-- Sources that an operation reads besides its destination: first, second, destination element, pip (Table 7-1). -/
structure VxUse where
  a : Bool
  b : Bool
  c : Bool
  p : Bool
  deriving DecidableEq, Repr

def vxUse (opc : Nat) : VxUse :=
  match opc with
  | 0x02 | 0xC0 | 0xC2 => ⟨false, false, false, false⟩
  | 0x01 | 0x28 | 0x40 | 0x61 | 0x62 | 0x80 | 0x81 | 0x82 | 0x83 | 0x84 | 0x85 | 0xA0 | 0xA1 | 0xA2 | 0xA3 | 0xA4
  | 0xC1 => ⟨true, false, false, false⟩
  | 0x09 | 0x23 => ⟨true, true, true, false⟩
  | 0x41 => ⟨true, true, false, true⟩
  | _ => ⟨true, true, false, false⟩

def vxIsRed (opc : Nat) : Bool := 0xA0 ≤ opc && opc ≤ 0xA4
def vxIsRand (opc : Nat) : Bool := 0xC0 ≤ opc && opc ≤ 0xC2
def vxIsInt (opc : Nat) : Bool := 0x03 ≤ opc && opc ≤ 0x06

/-- BASE of Table 7-1. -/
def vxBase (opc : Nat) : Nat :=
  if opc = 0x29 then 2 else if 0x60 ≤ opc && opc ≤ 0x85 then 4 else 1

/-- OPX[10:6]: the pip descriptor; equal to TD_D there is none (R175). -/
def vxPip (f : VxOp) : Option Nat := if bitsOf f.opx 10 6 = f.tdD then none else some (bitsOf f.opx 10 6)
def vxMonSlot (f : VxOp) : Nat := bitsOf f.opx 5 0

/-- Registers named, in field order, with whether they are written. -/
def vxNamed (opc : Nat) (f : VxOp) : List (Nat × Bool) :=
  let u := vxUse opc
  [(f.tdD, true)] ++ (if u.a then [(f.tdA, false)] else []) ++ (if u.b then [(f.tdB, false)] else [])
    ++ (if u.p then (match vxPip f with | some p => [(p, true)] | none => []) else [])

def fmtIsFloat (f : Fmt) : Bool := !fmtIsInt f

/-- The format in which an operation's result stands before its final conversion (R168). -/
def vxResFmt (opc : Nat) (f : VxOp) (a : Fmt) : Fmt :=
  if opc = 0x29 then .fp64
  else if vxIsRed opc && opc ≤ 0xA1 && bitOf f.opx 0 then .fp64
  else if opc = 0x40 && a = .fp64 then .fp64
  else .fp32

def vxMxOk (d : TDesc) (x : Lanes) (w0 : Int) : Bool :=
  !descIsMx d || (d.blockDim = 0 && w0 % 32 = 0 && laneOf x 0 % 32 = 0)

/-- A source that a floating-point operation takes: a floating-point format, FP64 only where the operation widens to binary64
(R168, R169). -/
def vxFloatOk (wide : Bool) (f : Fmt) : Bool := fmtIsFloat f && (f ≠ .fp64 || wide)

/-- R169, R168, R175: formats and the stipple rule (VECTOR_FAULT, FORMAT). Every operation but COPY, FILLS and the integer operations is a
floating-point operation: it takes no integer source, because an INT32 does not widen exactly to binary32 (log entry 34). -/
def vxFormatOk (l : Latched) (opc : Nat) (f : VxOp) : Bool :=
  let d := latDesc l f.tdD
  let a := latDesc l f.tdA
  let b := latDesc l f.tdB
  let u := vxUse opc
  let fd := descFmt d
  let fa := descFmt a
  let fb := descFmt b
  let wd := if vxIsRed opc then a else d
  let w0 : Int := (dimAt wd 0).extent - laneOf (latX l (if vxIsRed opc then f.xA else f.xD)) 0
  let wide : Bool := opc = 0x29 || opc = 0x40
  let srcOk : Bool :=
    if vxIsInt opc then fmtIsInt fa && fmtIsInt fb && fmtIsInt fd
    else if opc = 0x01 then fa = fd && fa ≠ .fp64
    else if opc = 0x41 then (fa = .fp32 || fa = .fp16 || fa = .bf16) && (fd = .fp32 || fd = .fp16 || fd = .bf16)
      && (fb = .fp32 || fb = .bf16)
      && (match vxPip f with
        | some p => (descFmt (latDesc l p) = .fp16 || descFmt (latDesc l p) = .bf16)
        | none => true)
    else (!u.a || vxFloatOk wide fa) && (!u.b || vxFloatOk wide fb) && (!u.c || vxFloatOk wide fd)
  let dstOk : Bool :=
    if opc = 0x01 || opc = 0x02 then !fmtIsMx fd
    else if vxIsInt opc then true
    else fd ≠ .e8m0 && (!fmtIsMx fd || opc = 0x40)
  let stOk : Bool :=
    if 2 ≤ f.rmode then
      !(opc = 0x01 || opc = 0x02 || vxIsInt opc) && !(rmodeRefused f.rmode (!fmtWidens (vxResFmt opc f fa) fd))
    else true
  srcOk && dstOk && stOk && vxMxOk d (latX l f.xD) w0 && (!u.a || vxMxOk a (latX l f.xA) w0)
    && (!u.b || vxMxOk b (latX l f.xB) w0)

/-- R166: the descriptors of an operation have one NDIM (VECTOR_FAULT, SHAPE). -/
def vxShapeOk (l : Latched) (opc : Nat) (f : VxOp) : Bool :=
  (vxNamed opc f).all (fun p => (latDesc l p.1).ndim = (latDesc l f.tdD).ndim)

/-- R176: the monitor slot is free or holds the same tag (VECTOR_FAULT, MON_TAG). -/
def vxMonOk (t : Tile) (l : Latched) (opc : Nat) (f : VxOp) : Bool :=
  opc ≠ 0x41 || vxMonSlot f = 63 ||
    (match mapFind t.mon (vxMonSlot f) with
      | none => true
      | some m => m.tag = (latDesc l f.tdD).tag)

/-- Window of an operation; none when empty (R166). -/
def vxWindow (l : Latched) (opc : Nat) (f : VxOp) : Option (List Nat) :=
  let wd := latDesc l (if vxIsRed opc then f.tdA else f.tdD)
  let x := latX l (if vxIsRed opc then f.xA else f.xD)
  winOf wd.ndim ((List.range wd.ndim).map (fun k => ((dimAt wd k).extent : Int) - laneOf x k))

/-- Blocks of a row of a reduction (R167). -/
def rowBlocks (w0 : Nat) : Nat := max 1 ((w0 + 63) / 64)

/-- Blocks of 64 positions that an operation takes (R167). -/
def vxBlocks (l : Latched) (opc : Nat) (f : VxOp) : Nat :=
  match vxWindow l opc f with
  | none => 0
  | some w =>
    let n := w.foldl (· * ·) 1
    if vxIsRed opc then rowBlocks (w.headD 1) * (n / max 1 (w.headD 1)) else (n + 63) / 64

/-- Scratchpad bytes of 64 elements of a descriptor, block scales included. -/
def blockBytes (d : TDesc) : Nat := 8 * descBits d + (if descIsMx d then 2 else 0)

/-- Bytes that one full block reads over all its sources (R167). -/
def vxReadBytes (l : Latched) (opc : Nat) (f : VxOp) : Nat :=
  let u := vxUse opc
  (if u.a then blockBytes (latDesc l f.tdA) else 0) + (if u.b then blockBytes (latDesc l f.tdB) else 0)
    + (if u.c then blockBytes (latDesc l f.tdD) else 0)
    + (if u.p then (match vxPip f with
      | some p => blockBytes (latDesc l p)
      | none => 0) else 0)

/-- Bytes that one full block writes over all its destinations (R167): one element for the block that ends a reduction's row. -/
def vxWriteBytes (l : Latched) (opc : Nat) (f : VxOp) : Nat :=
  let d := latDesc l f.tdD
  if vxIsRed opc then (descBits d + 7) / 8
  else blockBytes d + (if opc = 0x41 then (match vxPip f with
    | some p => blockBytes (latDesc l p)
    | none => 0) else 0)

/-- Cycles k that each block occupies its pipe (R167). -/
def vxCycles (l : Latched) (opc : Nat) (f : VxOp) : Nat :=
  max (vxBase opc) (max ((vxReadBytes l opc f + 511) / 512) ((vxWriteBytes l opc f + 255) / 256))

/-- LAT of an operation's latency class, OPC[7:5] (Table 6-13). -/
def vxLat (opc : Nat) : Nat :=
  match opc / 32 with
  | 0 => 4
  | 1 => 6
  | 2 => 8
  | 3 => 14
  | 4 => 18
  | 5 => 12
  | _ => 10

/-- Length L of an operation: 1 where its window is empty (R166, R167). -/
def vxLen (l : Latched) (opc : Nat) (f : VxOp) : Nat := max 1 (vxCycles l opc f * vxBlocks l opc f)

/-- Coordinates of window position i in iteration order. -/
def unindex (win : List Nat) (i : Nat) : List Nat :=
  match win with
  | [] => []
  | w :: r => i % w :: unindex r (i / w)

/-- The window positions of block b: of all positions, or for a reduction of one row (R167). -/
def blockPos (opc : Nat) (win : List Nat) (b : Nat) : List (List Nat) :=
  let w0 := win.headD 1
  let first := if vxIsRed opc then b / rowBlocks w0 * w0 + 64 * (b % rowBlocks w0) else 64 * b
  let last := if vxIsRed opc then (b / rowBlocks w0 + 1) * w0 else win.foldl (· * ·) 1
  (List.range 64).filterMap (fun k => if first + k < last then some (unindex win (first + k)) else none)

/-! ### Element operations -/

def arithMode (rmode : Nat) : RMode := if rmode = 1 then .rtz else .rne

/-- RN: one rounding to the operation's arithmetic format (R168). -/
def rnTo (f : Fmt) (rm : RMode) (v : FVal) : FVal × NFlags :=
  let r := convert f rm false false v
  (elemVal f r.1, r.2)

def rn32 (rm : RMode) (v : FVal) : FVal × NFlags := rnTo .fp32 rm v

/-- The rounded value of an evaluator's result, with OVF for an infinite result from finite operands (R171). -/
def rnElem (rm : RMode) (r : ElemRes) : FVal × NFlags :=
  match r with
  | .nan => (.nan, flagsInv)
  | .inf n o => (.inf n, { ovf := o })
  | .x v =>
    let q := roundFp ⟨8, 23, 127, .ieee⟩ rm false false v
    (elemVal .fp32 q.1, q.2)

def one : FVal := .fin false 1 0
def zero : FVal := .fin false 0 0

/-- −0 < +0 in MIN and MAX; a NaN operand gives NaN (Table 7-1). -/
def fmin (a b : FVal) : FVal :=
  match a, b with
  | .nan, _ => .nan
  | _, .nan => .nan
  | .fin n 0 _, .fin k 0 _ => .fin (n || k) 0 0
  | x, y => if flt y x then y else x

def fmax (a b : FVal) : FVal :=
  match a, b with
  | .nan, _ => .nan
  | _, .nan => .nan
  | .fin n 0 _, .fin k 0 _ => .fin (n && k) 0 0
  | x, y => if flt x y then y else x

def nanFlag (v : FVal) : NFlags := if fisNan v then flagsInv else {}

/-- Integer operands of class 0. -/
def intOf (f : Fmt) (raw : Nat) : Int := sextNat (fmtBits f) raw

def bitwise (opc : Nat) (a b : Nat) : Nat :=
  match opc with
  | 0x04 => Nat.land a b
  | 0x05 => Nat.lor a b
  | _ => Nat.xor a b

/-- The scalar operand: σ is bits 31..0 and τ bits 63..32 as binary32. -/
def sigmaOf (l : Latched) : FVal := elemVal .fp32 (l.sreg % 2 ^ 32)
def tauOf (l : Latched) : FVal := elemVal .fp32 ((l.sreg >>> 32) % 2 ^ 32)

/-- Two roundings chained: the second applied to a function of the first. The flags of both are the element's: no rule says whether an
intermediate rounding raises flags of its own (log entry 127). -/
def rnThen (x : FVal × NFlags) (g : FVal → FVal × NFlags) : FVal × NFlags :=
  let y := g x.1
  (y.1, flagsOr x.2 y.2)

/-- Table 7-1, the operations on values: a, b and c are operands, u is the random word. -/
def vxVal (l : Latched) (opc : Nat) (rm : RMode) (a b c : FVal) (u : Nat) : FVal × NFlags :=
  let sg := sigmaOf l
  let ta := tauOf l
  match opc with
  | 0x07 => (if flt a b then one else zero, {})
  | 0x08 => (if feq a b then one else zero, {})
  | 0x09 => (match a with | .fin _ 0 _ => c | _ => b, {})
  | 0x20 => rn32 rm (fadd a b)
  | 0x21 => rn32 rm (fadd a (fneg b))
  | 0x22 => rn32 rm (fmul a b)
  | 0x23 => rn32 rm (fadd (fmul a b) c)
  | 0x24 => rnThen (rn32 rm (fmul ta b)) (fun t => rn32 rm (fadd (fmul sg a) t))
  | 0x25 => rnThen (rnThen (rn32 rm (fmul b b)) (fun t => rn32 rm (fmul ta t))) (fun v => rn32 rm (fadd (fmul sg a) v))
  | 0x26 => (fmin a b, {})
  | 0x27 => (fmax a b, {})
  | 0x28 => rn32 rm (fmul sg a)
  | 0x29 => rnTo .fp64 rm (fadd a b)
  | 0x60 => rnElem rm (elemDiv a b)
  | 0x61 => rnElem rm (elemSqrt a)
  | 0x62 => rnThen (rn32 rm (fadd a sg)) (fun t => rnElem rm (elemRsqrt t))
  | 0x80 => rnElem rm (elemExp a)
  | 0x81 => rnElem rm (elemLog a)
  | 0x82 => rnElem rm (elemTanh a)
  | 0x83 => rnElem rm (elemSigmoid a)
  | 0x84 => rnElem rm (elemSilu a)
  | 0x85 => rnElem rm (elemGelu a)
  | 0xC0 => (.fin false (u / 256) (-24), {})
  | 0xC1 =>
    if u < l.sreg % 2 ^ 32 then
      (match a with | .nan => zero | .inf n => .fin n 0 0 | .fin n _ _ => .fin n 0 0, {})
    else rn32 rm (fmul a ta)
  | 0xC2 => (if u < l.sreg % 2 ^ 32 then one else zero, {})
  | _ => (a, {})

/-- A draw of the operation at its destination position. -/
def vxDraw (l : Latched) (rd : Reader) (d : TDesc) (dr : DrawCtx) (p : List Int) : Nat :=
  match posOf l rd d true p with
  | .at c _ => stippleBits dr 32 (linIndex d c)
  | _ => 0

/-- A source element as an operation takes it (R168): an MX element is widened to binary32 with its scale, to an infinity beyond the range
(R69); every other source widens exactly. -/
def vxSource (l : Latched) (rd : Reader) (rm : RMode) (d : TDesc) (p : List Int) : FVal × NFlags :=
  let v := elemRead l rd d p
  if descIsMx d then
    let r := convert .fp32 rm false true v
    (elemVal .fp32 r.1, r.2)
  else (v, {})

/-- Element-wise operations with a floating-point or converted result. -/
def vxElem (l : Latched) (rd : Reader) (opc : Nat) (f : VxOp) (seed : Nat) (j : List Nat) : FVal × NFlags :=
  let u := vxUse opc
  let d := latDesc l f.tdD
  let rm := arithMode f.rmode
  let dp := posAdd (latX l f.xD) j
  let src := fun (on : Bool) (e : TDesc) (p : List Int) => if on then vxSource l rd rm e p else (zero, {})
  let a := src u.a (latDesc l f.tdA) (posAdd (latX l f.xA) j)
  let b := src u.b (latDesc l f.tdB) (posAdd (latX l f.xB) j)
  let c := src u.c d dp
  let w := if vxIsRand opc then vxDraw l rd d (drawOf seed l d.tag f.use) dp else 0
  let r := vxVal l opc rm a.1 b.1 c.1 w
  (r.1, flagsOr a.2 (flagsOr b.2 (flagsOr c.2 r.2)))

/-- Integer and raw operations of class 0: FILLS, IADD, IAND, IOR, IXOR. -/
def vxRaw (l : Latched) (rd : Reader) (opc : Nat) (f : VxOp) (j : List Nat) : OutElem :=
  let d := latDesc l f.tdD
  let a := latDesc l f.tdA
  let b := latDesc l f.tdB
  let dp := posAdd (latX l f.xD) j
  if opc = 0x02 then { pos := dp, raw := l.sreg % 2 ^ descBits d, flags := {} }
  else
    let x := intOf (descFmt a) (elemRaw l rd a (posAdd (latX l f.xA) j))
    let y := intOf (descFmt b) (elemRaw l rd b (posAdd (latX l f.xB) j))
    let w := descBits d
    let s := if opc = 0x03 then x + y
      else (BitVec.ofNat 64 (bitwise opc (BitVec.ofInt 64 x).toNat (BitVec.ofInt 64 y).toNat)).toInt
    let r := convert (descFmt d) .rne true false (intVal s)
    { pos := dp, raw := r.1 % 2 ^ w, flags := r.2 }

/-! ### Reductions (R172) -/

def treeGo (n w : Nat) (op : FVal × NFlags → FVal × NFlags → FVal × NFlags) (acc : List (FVal × NFlags)) :
    List (FVal × NFlags) :=
  match n with
  | 0 => acc
  | k + 1 =>
    treeGo k (w / 2) op ((List.range w).map (fun i => op (acc.getD i (zero, {})) (acc.getD (i + w) (zero, {}))))

/-- 64 lanes over the elements in order, then the fixed pairwise tree. -/
def laneFold (op : FVal → FVal → FVal × NFlags) (ident : FVal) (xs : List (Nat × FVal × NFlags)) : FVal × NFlags :=
  let step := fun (x y : FVal × NFlags) => let r := op x.1 y.1; (r.1, flagsOr (flagsOr x.2 y.2) r.2)
  let acc := xs.foldl (fun (m : List (FVal × NFlags)) p =>
    m.set (p.1 % 64) (step (m.getD (p.1 % 64) (ident, {})) p.2)) (List.replicate 64 (ident, ({} : NFlags)))
  (treeGo 6 32 step acc).headD (ident, {})

def redOp (opc : Nat) (wide : Bool) (rm : RMode) (x y : FVal) : FVal × NFlags :=
  match opc with
  | 0xA0 | 0xA1 => rnTo (if wide then .fp64 else .fp32) rm (fadd x y)
  | 0xA3 => (fmin x y, {})
  | _ => (fmax x y, {})

def redElem (opc : Nat) (wide : Bool) (rm : RMode) (v : FVal) : FVal × NFlags :=
  match opc with
  | 0xA1 => if wide then (fmul v v, {}) else rn32 rm (fmul v v)
  | 0xA4 => (fabs v, {})
  | _ => (v, {})

def redIdent (opc : Nat) : FVal :=
  match opc with
  | 0xA2 | 0xA4 => .inf true
  | 0xA3 => .inf false
  | _ => zero

/-- An element of a reduction as its accumulator takes it: f of R172. -/
def redTerm (l : Latched) (rd : Reader) (opc : Nat) (f : VxOp) (j : List Nat) : FVal × NFlags :=
  let rm := arithMode f.rmode
  let a := vxSource l rd rm (latDesc l f.tdA) (posAdd (latX l f.xA) j)
  let e := redElem opc (bitOf f.opx 0) rm a.1
  (e.1, flagsOr a.2 e.2)

/-- The result of one row of a reduction from its terms in order. -/
def redRow (opc : Nat) (f : VxOp) (ts : List (FVal × NFlags)) : FVal × NFlags :=
  laneFold (redOp opc (bitOf f.opx 0) (arithMode f.rmode)) (redIdent opc) ((List.range ts.length).zip ts)

/-! ### UPDW (R175, R176) -/

/-- One element of UPDW: effective weight, Δ, and the stored weight and remainder with the flags of their own deliveries. -/
structure UpdwElem where
  w   : FVal
  dl  : FVal
  wOut : OutElem
  pOut : OutElem
  deriving DecidableEq, Repr

/-- R175. The sums w and n go into both results; each result's conversion raises its flags where that result is delivered (R81). -/
def updwElem (l : Latched) (rd : Reader) (f : VxOp) (seed : Nat) (j : List Nat) : UpdwElem :=
  let d := latDesc l f.tdD
  let rm := arithMode f.rmode
  let dp := posAdd (latX l f.xD) j
  let w0 := elemRead l rd (latDesc l f.tdA) (posAdd (latX l f.xA) j)
  let dl := elemRead l rd (latDesc l f.tdB) (posAdd (latX l f.xB) j)
  let w : FVal × NFlags := match vxPip f with
    | none => (w0, {})
    | some p => rn32 rm (fadd w0 (elemRead l rd (latDesc l p) dp))
  let n := rn32 rm (fadd w.1 dl)
  let cc : ConvCtx := { rmode := f.rmode, sat := f.sat, headroom := 0,
                        widen := fmtWidens .fp32 (descFmt d), draw := drawOf seed l d.tag f.use }
  let wr := convert (descFmt d) (modeAt l rd d cc dp) f.sat cc.widen n.1
  let pr : Nat × NFlags := match vxPip f with
    | none => (0, {})
    | some p => convert (descFmt (latDesc l p)) .rne true false (fadd n.1 (fneg (elemVal (descFmt d) wr.1)))
  { w := w.1, dl := dl, wOut := { pos := dp, raw := wr.1, flags := flagsOr w.2 (flagsOr n.2 wr.2) },
    pOut := { pos := dp, raw := pr.1, flags := pr.2 } }

def inBounds (l : Latched) (rd : Reader) (d : TDesc) (p : List Int) : Bool :=
  match posOf l rd d true p with
  | .at _ _ => true
  | _ => false

/-- R176: Σ x² over the in-bounds positions in the order of R172, binary64, RNE. -/
def sumSq (xs : List (Nat × FVal)) : FVal :=
  (laneFold (fun x y => rnTo .fp64 .rne (fadd x y)) zero (xs.map (fun p => (p.1, fmul p.2 p.2, {})))).1

def monAdd (old : W64) (v : FVal) : W64 :=
  BitVec.ofNat 64 (convert .fp64 .rne false false (fadd (elemVal .fp64 old.toNat) v)).1

/-- Loads or keeps a monitor slot when its UPDW starts and adds the contributions (R176). -/
def monUpdate (mon : Map MonSlot) (slot tag : Nat) (ssd ssw : FVal) : Map MonSlot :=
  let m := (mapFind mon slot).getD { tag := tag, ssd := 0, ssw := 0 }
  mapSet mon slot { m with ssd := monAdd m.ssd ssd, ssw := monAdd m.ssw ssw }

/-- R176: the terms of a block that a monitor slot takes, by position number: those whose destination through TD_D is in bounds. -/
def monTerms (l : Latched) (rd : Reader) (f : VxOp) (b : Nat) (ps : List (List Nat)) (es : List UpdwElem) : List (Nat × FVal × FVal) :=
  if vxMonSlot f = 63 then []
  else ((List.range es.length).zip (ps.zip es)).filterMap (fun e =>
    if inBounds l rd (latDesc l f.tdD) (posAdd (latX l f.xD) e.2.1) then some (64 * b + e.1, e.2.2.dl, e.2.2.w) else none)

/-- R176: an UPDW that takes a free monitor slot sets VALID and loads TAG. -/
def monOpen (x : Tile) (l : Latched) (opc : Nat) (f : VxOp) : Tile :=
  if opc ≠ 0x41 || vxMonSlot f = 63 then x
  else { x with mon := monUpdate x.mon (vxMonSlot f) (latDesc l f.tdD).tag zero zero }

/-- The contributions of an UPDW after its last block (R176). -/
def monClose (x : Tile) (l : Latched) (f : VxOp) (ms : List (Nat × FVal × FVal)) : Tile :=
  if vxMonSlot f = 63 then x
  else
    let ssd := sumSq (ms.map (fun m => (m.1, m.2.1)))
    let ssw := sumSq (ms.map (fun m => (m.1, m.2.2)))
    { x with mon := monUpdate x.mon (vxMonSlot f) (latDesc l f.tdD).tag ssd ssw }

/-! ### Blocks -/

/-- The conversion of an operation's results (R168). -/
def vxConv (l : Latched) (opc : Nat) (f : VxOp) (seed : Nat) : ConvCtx :=
  let d := latDesc l f.tdD
  { rmode := f.rmode, sat := f.sat, headroom := bitsOf f.opx 0 0,
    widen := fmtWidens (vxResFmt opc f (descFmt (latDesc l f.tdA))) (descFmt d),
    draw := drawOf seed l d.tag (if vxIsRand opc then (f.use + 1) % 256 else f.use) }

/-- Results at positions converted to the destination's format; every 32 of them are one block of an MX destination (R64, R169). -/
def convertBlock (l : Latched) (rd : Reader) (d : TDesc) (c : ConvCtx) (dst : List Nat → List Int) (js : List (List Nat))
    (vs : List (FVal × NFlags)) : List OutElem :=
  let ns := List.range js.length
  let pos := fun n => dst (js.getD n [])
  let v := fun n => vs.getD n (zero, {})
  if descIsMx d then
    let q := (List.range ((js.length + 31) / 32)).map (fun g =>
      let ms := (List.range 32).map (fun m => 32 * g + m)
      mxQuantise (descFmt d) c.headroom (ms.map (fun n => modeAt l rd d c (pos n))) (ms.map (fun n => (v n).1)))
    ns.map (fun n =>
      let b := q.getD (n / 32) (0, [], {})
      { pos := pos n, raw := b.2.1.getD (n % 32) 0, scale := if n % 32 = 0 then some b.1 else none,
        flags := if n % 32 = 0 then flagsOr b.2.2 (((vs.drop n).take 32).foldl (fun a x => flagsOr a x.2) {}) else {} })
  else
    ns.map (fun n =>
      let r := convert (descFmt d) (modeAt l rd d c (pos n)) c.sat c.widen (v n).1
      { pos := pos n, raw := r.1, flags := flagsOr (v n).2 r.2 })

/-- The elements that block b delivers, of an operation that is neither UPDW nor a reduction. -/
def vxBlock (l : Latched) (rd : Reader) (opc : Nat) (f : VxOp) (seed : Nat) (js : List (List Nat)) : List OutElem :=
  if opc = 0x02 || vxIsInt opc then js.map (vxRaw l rd opc f)
  else convertBlock l rd (latDesc l f.tdD) (vxConv l opc f seed) (posAdd (latX l f.xD)) js (js.map (vxElem l rd opc f seed))

/-- The element that a reduction's row delivers (R172). -/
def redOut (l : Latched) (rd : Reader) (opc : Nat) (f : VxOp) (seed : Nat) (row : List Nat) (ts : List (FVal × NFlags)) : OutElem :=
  let d := latDesc l f.tdD
  let v := redRow opc f ts
  let dp := posAdd (latX l f.xD) (0 :: row)
  let r := convert (descFmt d) (modeAt l rd d (vxConv l opc f seed) dp) f.sat (vxConv l opc f seed).widen v.1
  { pos := dp, raw := r.1, flags := flagsOr v.2 r.2 }

/-- Window rows that an APPEND destination takes (R178). -/
def vxAppendRows (l : Latched) (opc : Nat) (f : VxOp) : Nat :=
  match vxWindow l opc f with
  | none => 0
  | some w => (w.drop 1).foldl (· * ·) 1

/-- Free slots of a request queue (Table 4-10). -/
def qCap (q : BatchQ) : Nat := if bitsOf q.cfg.toNat 53 48 = 0 then 64 else bitsOf q.cfg.toNat 53 48

/-- R178: an APPEND destination's queue has room for every row. -/
def vxAppendRoom (x : Tile) (l : Latched) (opc : Nat) (f : VxOp) : Bool :=
  let d := latDesc l f.tdD
  let q := mapGet {} x.bat.queues d.appendQ
  !d.append || vxAppendRows l opc f ≤ qCap q - q.fill

/-- A scratchpad word that a block's positions read (R86). -/
def vxReads (x : Tile) (l : Latched) (opc : Nat) (f : VxOp) (js : List (List Nat)) (w : SramWord) : Bool :=
  let u := vxUse opc
  (u.a && touches l x (latDesc l f.tdA) false (js.map (posAdd (latX l f.xA))) w)
    || (u.b && touches l x (latDesc l f.tdB) false (js.map (posAdd (latX l f.xB))) w)
    || (u.c && touches l x (latDesc l f.tdD) false (js.map (posAdd (latX l f.xD))) w)
    || (u.p && (match vxPip f with
      | some p => touches l x (latDesc l p) false (js.map (posAdd (latX l f.xD))) w
      | none => false))

end Sys2Proof.Machine
end

