-- ==== Sys2Proof/Machine/Engine.lean ====
section
/-! DEFINITION. A tile's cycle: the commands in flight on its array paths and vector pipes, the operations of its scalar unit, and the
scratchpad writes that meet (spec 04 to 07: R91 to R100, R121, R153, R165 to R179). -/
namespace Sys2Proof.Machine
open Sys2Proof

/-! ### Paths (R91, R122, R167) -/

def pathOf (x : Tile) (p : PathId) : Path :=
  match p with
  | .stream => x.arr.stream
  | .weight => x.arr.weight
  | .drain => x.arr.drain
  | .pipe0 => x.pipe0
  | .pipe1 => x.pipe1
  | .unit k => (strAt x k).path

def pathPut (x : Tile) (p : PathId) (v : Path) : Tile :=
  match p with
  | .stream => { x with arr := { x.arr with stream := v } }
  | .weight => { x with arr := { x.arr with weight := v } }
  | .drain => { x with arr := { x.arr with drain := v } }
  | .pipe0 => { x with pipe0 := v }
  | .pipe1 => { x with pipe1 := v }
  | .unit k => { x with str := mapSet x.str k { strAt x k with path := v } }

def pathFull (p : Path) : Bool := p.run.isSome && p.pend.isSome

/-- The paths whose commands run in tile cycles. -/
def localPaths : List PathId := [.stream, .weight, .drain, .pipe0, .pipe1]

/-! ### Effective issue -/

/-- The command becomes its path's running command and is in flight from this cycle. -/
def flightStart (x : Tile) (p : PathId) (c : PathCmd) (seed tag split : Nat) (hw : HwErr) : Tile :=
  let y := sramHw (pathPut x p { pathOf x p with run := some c }) hw
  { y with flight := y.flight ++ [{ path := p, cmd := c, seed := seed, tag := tag, split := split }] }

/-- Effective issue of a command of an array or vector path (R91). A STREAM whose classes conflict with its bank's tag and a vector append without
room are dropped here (R105, R178). -/
def pathBegin (seed : Nat) (p : PathId) (c : PathCmd) (x : Tile) : Tile × List TileNote :=
  match c.op with
  | .wload f => (flightStart x p c seed 0 0 f.hw, [])
  | .stream f =>
    if streamOk x (latDesc c.lat f.td) f then
      (flightStart x p c seed (bankTag x f.bank) (bankSplit x f.bank) f.hw, residueNotes f.hw 0 c.lat.pc)
    else (x, [.fault stArray 4 c.lat.pc])
  | .drain f => (flightStart x p c seed 0 0 f.hw, [])
  | .vector opc f =>
    if vxAppendRoom x c.lat opc f then
      (monOpen (flightStart x p c seed 0 0 f.hw) c.lat opc f, residueNotes f.hw 4 c.lat.pc)
    else (x, [.fault stVector 6 c.lat.pc])
  | _ => (x, [])

/-- Length of a command in flight: the cycles its path is busy (R91). -/
def flightLen (fl : Flight) : Nat :=
  let l := fl.cmd.lat
  match fl.cmd.op with
  | .wload f => wloadLen (latDesc l f.td) f.sw
  | .stream f => streamCycles (latDesc l f.td) f fl.tag fl.split
  | .drain f => drainLen f
  | .vector opc f => vxLen l opc f
  | _ => 0

/-- The age at which a command in flight makes its last write. -/
def flightLast (fl : Flight) : Nat :=
  let l := fl.cmd.lat
  match fl.cmd.op with
  | .wload _ => flightLen fl + 4
  | .stream _ => flightLen fl + 9
  | .drain _ => flightLen fl + 9
  | .vector opc f =>
    if vxBlocks l opc f = 0 then 1 else max (flightLen fl) (vxLat opc + vxCycles l opc f * (vxBlocks l opc f - 1))
  | _ => 0

/-- The last busy cycle of a path's running command: the path is free and a pending command has its effective issue (R91). -/
def pathTurn (seed : Nat) (p : PathId) (a : Tile × List TileNote) : Tile × List TileNote :=
  let x := a.1
  if (pathOf x p).run.isSome && x.flight.any (fun fl => fl.path = p && fl.age = flightLen fl) then
    match (pathOf x p).pend with
    | none => (pathPut x p {}, a.2)
    | some c =>
      let r := pathBegin seed p c (pathPut x p {})
      (r.1, a.2 ++ r.2)
  else a

/-! ### Stages -/

/-- What the commands in flight do to a tile in one cycle: the tile as it will be, what they report, and what they write. -/
structure CycleAcc where
  tile  : Tile
  notes : List TileNote := []
  parts : List OutPart := []
  deriving DecidableEq, Repr

def dueStages (fl : Flight) : List Stage := (fl.stages.filter (fun e => e.1 = fl.age)).map Prod.snd

def flagNote (engine : Nat) (f : NFlags) (tag : Nat) : List TileNote :=
  if f = {} then [] else [.flag { engine := engine, flags := f, tag := tag }]

/-- The accumulator writes of the stream path due in this cycle (Table 4-5). -/
def streamWrites (fls : List Flight) (t : Tile) : Tile :=
  fls.foldl (fun t fl => match fl.cmd.op with
    | .stream f => (dueStages fl).foldl (fun t st => match st with
      | .upd a row vs _ => accRowPut f.acc64 a row vs t
      | _ => t) t
    | _ => t) t

/-- The clears of the drain reads of this cycle (Table 4-7). -/
def drainClears (fls : List Flight) (t : Tile) : Tile :=
  fls.foldl (fun t fl => match fl.cmd.op with
    | .drain f => if 1 ≤ fl.age && fl.age ≤ drainLen f then drainClear f (fl.age - 1) t else t
    | _ => t) t

/-- Queue q of the batcher is enabled (Table 4-8). -/
def batQen (b : Batcher) (q : Nat) : Bool := b.ctl.getLsbD q

/-- R101, R124: a row takes the slot at TAIL and is present from the next cycle; its bits at their scratchpad addresses. A row to a disabled queue
is discarded; none when the queue's FILL equals CAP. -/
def appendSlot (x : Tile) (r : AppendRow) : Option (Tile × List BitWrite) :=
  let b := mapGet {} x.bat.queues r.q
  if !(batQen x.bat r.q) then some (x, [])
  else if b.fill ≥ qCap b then none
  else
    let base := bitsOf b.cfg.toNat 13 0 * 64 + b.tail * (bitsOf b.cfg.toNat 37 28 * 64)
    let b1 : BatchQ := { b with tail := (b.tail + 1) % qCap b, fill := b.fill + 1, present := b.present ++ [b.tail] }
    some ({ x with bat := { x.bat with queues := mapSet x.bat.queues r.q b1 } },
      r.ws.map (fun w => { w with bit := 8 * base + w.bit }))

/-- A row of a DRAIN or a vector operation reaches its queue: in this cycle, or behind the rows that wait for the same queue or for room. -/
def appendRow (rank : Nat) (k : CycleAcc) (r : AppendRow) : CycleAcc :=
  let wait : CycleAcc := { k with tile := { k.tile with bat := { k.tile.bat with appends := k.tile.bat.appends ++ [r] } } }
  if k.tile.bat.appends.any (fun a => a.q = r.q) then wait
  else match appendSlot k.tile r with
    | some (t, ws) => { k with tile := t, parts := k.parts ++ [{ rank := rank, source := r.engine, ws := ws }] }
    | none => wait

/-- A stage falls due: `x` is the tile at the start of the cycle, `z` the same with the stream path's writes of this cycle forwarded (R96).
Answers the stages that follow, by their delay, and what happens. -/
def stageDue (x z : Tile) (fl : Flight) (st : Stage) (k : CycleAcc) : List (Nat × Stage) × CycleAcc :=
  let l := fl.cmd.lat
  match st, fl.cmd.op with
  | .cell a r cells inx scales, .wload f =>
    ([], { k with tile := cellPut f.bank a r cells scales k.tile,
                  notes := k.notes ++ flagNote a { inx := inx } (latDesc l f.td).tag })
  | .act pass r xs sa inx, .stream f =>
    ((streamSums x l f fl.tag fl.split pass r xs sa inx).map (fun s => (4, s)),
      { k with notes := k.notes ++ ueNotes x (cellReader f (isDual (latDesc l f.td) fl.tag) r) })
  | .sum a row set inx vs, .stream f =>
    ([(1, streamUpd z f (descFmt (latDesc l f.td) = .int8) a row set inx vs)],
      { k with notes := k.notes ++ (if set then [] else ueNotes z (fun w => match w with
        | .acc b i => if a = b && accRowHit f.acc64 row i then some a else none
        | _ => none)) })
  | .upd a _ _ fs, .stream f => ([], { k with notes := k.notes ++ flagNote a fs (latDesc l f.td).tag })
  | .ent j srcs, .drain f =>
    ([(6, drainOut x l f fl.seed j srcs)], { k with notes := k.notes ++ ueNotes x (drainReader x l f j srcs) })
  | .out ps rows, op =>
    let t := k.tile
    let t1 := { t with oobCnt := satAdd t.oobCnt (ps.foldl (fun n p => n + p.oob) 0) }
    let t2 := match op, fl.path with
      | .vector _ _, .pipe1 => { t1 with blk1 := satInc t1.blk1 }
      | .vector _ _, _ => { t1 with blk0 := satInc t1.blk0 }
      | _, _ => t1
    ([], rows.foldl (appendRow (match fl.path with
      | .pipe1 => 1
      | .pipe0 => 3
      | _ => 4)) { k with tile := t2, notes := k.notes ++ ps.flatMap (fun p => flagNote p.source p.flags p.tag), parts := k.parts ++ ps })
  | _, _ => ([], k)

/-- Elements of a vector operation on their way to the slots of a request queue: whole rows leave as they fill (R124, R178). -/
structure RowAcc where
  cur  : StoreOut := {}
  n    : Nat := 0
  rows : List AppendRow := []
  deriving DecidableEq, Repr

def rowPut (l : Latched) (rd : Reader) (d : TDesc) (bytes w0 : Nat) (r : RowAcc) (e : OutElem) : RowAcc :=
  let o := storeBits l rd d (some bytes) r.cur e
  if r.n + 1 ≥ w0 then { cur := { o with slot := [] }, n := 0, rows := r.rows ++ [{ q := d.appendQ, engine := 4, ws := o.slot }] }
  else { r with cur := o, n := r.n + 1 }

/-- The rank of a pipe among the writers of a byte: pipe 0 over pipe 1 (R179). -/
def pipeRank (p : PathId) : Nat := match p with | .pipe1 => 1 | _ => 3

/-- Elements that a block of a vector operation delivers through TD_D, and the flight with the part of a row that waits for its rest. -/
def vxDeliver (x : Tile) (fl : Flight) (l : Latched) (f : VxOp) (w0 : Nat) (es : List OutElem) : Flight × OutPart × List AppendRow :=
  let d := latDesc l f.tdD
  let rd := scratchReader x
  let part : OutPart := { rank := pipeRank fl.path, source := 4, tag := d.tag }
  if d.append then
    let r := es.foldl (rowPut l rd d (slotBytes x d) w0) { cur := { slot := fl.row }, n := fl.rowN }
    ({ fl with row := r.cur.slot, rowN := r.n },
      { part with ws := r.cur.ws, oob := r.cur.oob, flags := r.cur.flags }, r.rows)
  else
    let o := storeOut l rd d none es
    (fl, { part with ws := o.ws, oob := o.oob, flags := o.flags }, [])

/-- Block b enters its pipe: every source element is read, and what it delivers is due LAT cycles later (R167). -/
def vxEnter (x : Tile) (fl : Flight) (l : Latched) (opc : Nat) (f : VxOp) (b : Nat) : Flight × List TileNote :=
  let win := (vxWindow l opc f).getD []
  let js := blockPos opc win b
  let rd := scratchReader x
  let ue := ueNotes x (fun w => if vxReads x l opc f js w then some 4 else none)
  if opc = 0x41 then
    let es := js.map (updwElem l rd f fl.seed)
    let r := vxDeliver x fl l f (win.headD 1) (es.map UpdwElem.wOut)
    let ps := match vxPip f with
      | none => []
      | some p =>
        let o := storeOut l rd (latDesc l p) none (es.map UpdwElem.pOut)
        [({ rank := 2, source := 4, ws := o.ws, oob := o.oob, flags := o.flags, tag := (latDesc l p).tag } : OutPart)]
    ({ r.1 with stages := r.1.stages ++ [(fl.age + vxLat opc, .out (ps ++ [r.2.1]) r.2.2)],
                mon := r.1.mon ++ monTerms l rd f b js es }, ue)
  else if vxIsRed opc then
    let ts := fl.elems ++ js.map (redTerm l rd opc f)
    let nb := rowBlocks (win.headD 1)
    if b % nb + 1 = nb then
      let r := vxDeliver x { fl with elems := [] } l f 1 [redOut l rd opc f fl.seed (unindex (win.drop 1) (b / nb)) ts]
      ({ r.1 with stages := r.1.stages ++ [(fl.age + vxLat opc, .out [r.2.1] r.2.2)] }, ue)
    else ({ fl with elems := ts, stages := fl.stages ++ [(fl.age + vxLat opc, .out [] [])] }, ue)
  else
    let r := vxDeliver x fl l f (win.headD 1) (vxBlock l rd opc f fl.seed js)
    ({ r.1 with stages := r.1.stages ++ [(fl.age + vxLat opc, .out [r.2.1] r.2.2)] }, ue)

/-- What a command in flight begins in this cycle: the rows, groups, drain cycle or block that enter. -/
def flightEnter (x : Tile) (fl : Flight) (k : CycleAcc) : Flight × CycleAcc :=
  let l := fl.cmd.lat
  let a := fl.age
  match fl.cmd.op with
  | .wload f =>
    let k1 := if a = 4 then { k with tile := tagPut f.bank (latDesc l f.td).etype f.split k.tile } else k
    if 1 ≤ a && a ≤ flightLen fl then
      let rs := (wloadRows (flightLen fl) (a - 1)).flatMap (fun r => r.2.map (fun i => (r.1, i)))
      ({ fl with stages := fl.stages ++ rs.map (fun r => (a + 4, wloadRow x l f r.1 r.2)) },
        { k1 with notes := k1.notes ++ rs.flatMap (fun r => ueNotes x (wloadReader x l f r.1 r.2)) })
    else (fl, k1)
  | .stream f =>
    let dual := isDual (latDesc l f.td) fl.tag
    let ng := passGroups f dual
    let k1 := if 5 ≤ a && a < 5 + flightLen fl then
        { k with tile := { k.tile with arr := { k.tile.arr with rowCnt := satInc k.tile.arr.rowCnt } } } else k
    if 1 ≤ a && a ≤ flightLen fl then
      let rs := groupRows f dual ((a - 1) % ng)
      ({ fl with stages := fl.stages ++ rs.map (fun r => (a + 4, streamAct x l f fl.split ((a - 1) / ng) r)) },
        { k1 with notes := k1.notes ++ rs.flatMap (fun r => ueNotes x (streamReader x l f dual r)) })
    else (fl, k1)
  | .drain f =>
    if 1 ≤ a && a ≤ drainLen f then
      ({ fl with stages := fl.stages ++ (drainRows f (a - 1)).map (fun r => (a + 3, drainEnt x f (a - 1) r)) },
        { k with tile := { k.tile with arr := { k.tile.arr with drainCnt := satInc k.tile.arr.drainCnt } },
                 notes := k.notes ++ ueNotes x (entReader f (a - 1)) })
    else (fl, k)
  | .vector opc f =>
    let c := vxCycles l opc f
    if a % c = 0 && a / c < vxBlocks l opc f then
      let r := vxEnter x fl l opc f (a / c)
      (r.1, { k with notes := k.notes ++ r.2 })
    else (fl, k)
  | _ => (fl, k)

/-- What the end of a command leaves with its last write: a counter, the batch to retire, the monitor's contributions (R103, R176). -/
def flightEnd (fl : Flight) (t : Tile) : Tile :=
  match fl.cmd.op with
  | .wload _ => { t with arr := { t.arr with wloadCnt := satInc t.arr.wloadCnt } }
  | .drain f => if f.bret && t.bat.ready then { t with bat := { t.bat with retire := true } } else t
  | .vector opc f => if opc = 0x41 && 0 < vxBlocks fl.cmd.lat opc f then monClose t fl.cmd.lat f fl.mon else t
  | _ => t

/-- One cycle of one command in flight: its due stages, what it begins, and its end. -/
def flightCycle (x z : Tile) (a : List Flight × CycleAcc) (fl : Flight) : List Flight × CycleAcc :=
  let d := (dueStages fl).foldl (fun (b : List (Nat × Stage) × CycleAcc) st =>
    let r := stageDue x z fl st b.2
    (b.1 ++ r.1, r.2)) ([], a.2)
  let next := d.1.map (fun e => (fl.age + e.1, e.2))
  let e := flightEnter x { fl with stages := fl.stages.filter (fun s => s.1 ≠ fl.age) ++ next } d.2
  if flightLast fl ≤ fl.age then (a.1, { e.2 with tile := flightEnd e.1 e.2.tile })
  else (a.1 ++ [{ e.1 with age := fl.age + 1 }], e.2)

/-! ### Scratchpad writes that meet (R121) -/

/-- Bytes that a part writes. -/
def partBytes (p : OutPart) : List Nat :=
  p.ws.flatMap (fun w => (List.range ((w.bit % 8 + w.w + 7) / 8)).map (fun i => w.bit / 8 + i))

/-- Writers of different rank reach one byte in this cycle. -/
def partsMeet (ps : List OutPart) : Bool :=
  ps.any (fun p => ps.any (fun q => p.rank < q.rank && (partBytes p).any (fun b => (partBytes q).contains b)))

/-- Writes the parts of one cycle, the writer of highest rank last, so that its bytes are kept; a word that cannot take a part of itself is
recorded with the writer's SOURCE (R86, R121). -/
def partsPut (ps : List OutPart) (t : Tile) : Tile × List TileNote :=
  let t0 := if partsMeet ps then { t with confCnt := satInc t.confCnt } else t
  ((List.range 5).flatMap (fun r => ps.filter (fun p => p.rank = r))).foldl (fun (a : Tile × List TileNote) p =>
    let w := spWrite a.1 (bitBytes (spByte a.1) p.ws)
    (w.1, a.2 ++ w.2.map (fun k => .ue p.source (8 * k)))) (t0, [])

/-- The write of an SST among those of its cycle. -/
def sstPart (op : DueOp) : Option OutPart :=
  match op with
  | .sst a v => some { rank := 0, source := 14, ws := [{ bit := 8 * a, w := 64, val := v.toNat }] }
  | _ => none

/-! ### The cycle -/

/-- One tile cycle: paths turn over, every command in flight advances on the tile as it stands at the start of the cycle, scratchpad takes the
writes of the cycle, and what the scalar unit has due takes effect, its reads last because they belong to the next cycle. -/
def tileCycle (seed : Nat) (x0 : Tile) : Tile × List TileNote :=
  let s := localPaths.foldl (fun a p => pathTurn seed p a) (x0, [])
  let x := s.1
  let z := streamWrites x.flight x
  let y := streamWrites x.flight (drainClears x.flight x)
  let c := x.flight.foldl (flightCycle x z) ([], { tile := y, notes := s.2 })
  let now := (x.plate.due.filter (fun e => e.left ≤ 1)).map Due.op
  let later := (x.plate.due.filter (fun e => 1 < e.left)).map (fun e => { e with left := e.left - 1 })
  let w := partsPut (now.filterMap sstPart ++ c.2.parts) { c.2.tile with flight := c.1, plate := { x.plate with due := later } }
  let d := (now.filter dueWrites ++ now.filter dueReads).foldl (fun (a : Tile × List SramWord) o =>
    let r := landOp a.1 o
    (r.1, a.2 ++ r.2)) (w.1, [])
  (d.1, c.2.notes ++ w.2 ++ d.2.map (fun v => .ue 14 (sramAddr v)))

/-- n tile cycles. -/
def tileCycles (seed n : Nat) (x : Tile) : Tile × List TileNote :=
  match n with
  | 0 => (x, [])
  | k + 1 =>
    let a := tileCycle seed x
    let b := tileCycles seed k a.1
    (b.1, a.2 ++ b.2)

def pathIdle (p : Path) : Bool := p.run.isNone && p.pend.isNone

/-- Nothing that runs in tile cycles is issued, pending or in flight. -/
def tileQuiet (x : Tile) : Bool := localPaths.all (fun p => pathIdle (pathOf x p)) && x.flight.isEmpty && x.plate.due.isEmpty

/-- Tile cycles, at most n, until `done` holds. -/
def cyclesUntil (seed : Nat) (done : Tile → Bool) (n : Nat) (x : Tile) : Tile × List TileNote :=
  match n with
  | 0 => (x, [])
  | k + 1 =>
    if done x then (x, [])
    else
      let a := tileCycle seed x
      let b := cyclesUntil seed done k a.1
      (b.1, a.2 ++ b.2)

/-- Cycles that a pending command can last, its last write included: a STREAM runs at most six passes (Table 3-3). -/
def cmdSpan (c : PathCmd) : Nat :=
  match c.op with
  | .wload _ => 80
  | .stream f => 6 * f.rows + 16
  | .drain f => f.rows + 16
  | .vector opc f => vxLen c.lat opc f + 32
  | _ => 0

/-- Enough cycles for everything issued to have its effect. -/
def settleSpan (x : Tile) : Nat :=
  dueSpan + 1 + x.flight.foldl (fun n fl => n + (flightLast fl + 1)) 0
    + localPaths.foldl (fun n p => match (pathOf x p).pend with
      | some c => n + cmdSpan c
      | none => n) 0

end Sys2Proof.Machine
end

