-- ==== Sys2Proof/Machine/Ops.lean ====
section
/-! DEFINITION. The named operations every family shares: units and their events, error records, partitions and
tiles, stopping a plate, transactions and their aborts (spec 01, 02, 06, 08). -/
namespace Sys2Proof.Machine
open Sys2Proof

/-- What a command answers when it has a next state. -/
abbrev Out := Host.Outcome State Fault Refusal

/-! ### BAR0 as a writer reaches it -/

/-- The rails are up, and PF0's BAR0 serves: Memory Space Enable is set (Table 13-4), and in BOOT_FAILED and in TRANSITION_INCOMPLETE it serves only a few pages (R417, Table
16-6). -/
def bar0Open (s : State) (w : Writer) : Bool :=
  s.pw.on && (w ≠ .pf0 || ((mapGet {} s.rg.funcs 0).mse && s.fw.boot ≠ 15 && s.ks.lc.state ≠ 7))

/-- The pages that PF0 reaches all the same: the package root header, the life-cycle page and, in BOOT_FAILED, the firmware
mailbox. -/
def bar0Unit (s : State) (w : Writer) (u : UnitId) : Bool :=
  bar0Open s w || (s.pw.on && (mapGet {} s.rg.funcs 0).mse
    && (u = .package || u = .service 1 || (u = .service 3 && s.fw.boot = 15)))

/-- Merges a 32-bit write into a 64-bit register. -/
def merge64 (old : W64) (off width : Nat) (v : W64) : W64 :=
  if width = 8 then v
  else if off = 0 then (old &&& 0xFFFFFFFF00000000) ||| (v &&& 0xFFFFFFFF)
  else (old &&& 0xFFFFFFFF) ||| ((v &&& 0xFFFFFFFF) <<< 32)

/-- A write of a whole 64-bit register, or of one half (R24). -/
def halfOk (off width : Nat) : Bool := (off = 0 && width = 8) || ((off = 0 || off = 4) && width = 4)

/-! ### Units -/

def unitAt (s : State) (u : UnitId) : Unit := (mapFind s.un.tab (pageOf u)).getD (unitInit u)

def unitSet (s : State) (u : UnitId) (x : Unit) : State :=
  { s with un := { s.un with tab := mapSet s.un.tab (pageOf u) x } }

/-- The die of a unit: compute dies 0 to 3, io0 4 and io1 5. The package root, the links and the service blocks count as io0. -/
def dieOf (u : UnitId) : Nat := if (unitPath u).1 < 6 then (unitPath u).1 else 4

def linkUp (s : State) (k : Nat) : Bool := present s.hw (.link k) && (unitAt s (.link k)).state = .run

/-- R16: a route over links in RUN joins the dies of two units; without one a packet waits at its source. -/
def joined (s : State) (a b : UnitId) : Bool := dieOf a = dieOf b || (routeOf (linkUp s) (dieOf a) (dieOf b)).isSome

/-- R25: the unit's block registers are there. -/
def blockLive (s : State) (u : UnitId) : Bool :=
  let st := (unitAt s u).state
  st ≠ .off && st ≠ .sleep && st ≠ .retired

/-- Sets UNIT_EVT bits of a unit, nothing else. -/
def evtOr (x : Unit) (bits : Nat) : Unit := { x with evt := x.evt ||| BitVec.ofNat 32 bits }

/-- R22: (UNIT_EVT & UNIT_EVT_EN) ≠ 0 with CHILD computed from the direct children, n levels deep. -/
def evtCond (s : State) (n : Nat) (u : UnitId) : Bool :=
  let x := unitAt s u
  (x.evt &&& x.evtEn) ≠ 0 ||
    (match n with
      | 0 => false
      | k + 1 => x.evtEn.getLsbD 6 && (children s.hw u).any (evtCond s k))

/-- UNIT_EVT as it reads, CHILD included. -/
def evtReg (s : State) (u : UnitId) : W32 :=
  if (children s.hw u).any (evtCond s 3) then (unitAt s u).evt ||| 64 else (unitAt s u).evt

def rootCond (s : State) : Bool := evtCond s 3 .package

/-- One device event interrupt: MSI-X vector 0 of each PF (R22). -/
def sendDevIrq (s : State) : State :=
  { s with rg := { s.rg with msix := s.rg.msix ++ (if s.hw.split then [(0, 0), (1, 0)] else [(0, 0)]) } }

/-- R22: a message when the package-root condition goes from false to true. -/
def irqEdge (s : State) : State :=
  let c := rootCond s
  let s1 := if c && !s.un.devIrq then sendDevIrq s else s
  { s1 with un := { s1.un with devIrq := c } }

/-- A unit event: sets the bits and sends the device event interrupt when R22 says so. -/
def unitEvt (s : State) (u : UnitId) (bits : Nat) : State := irqEdge (unitSet s u (evtOr (unitAt s u) bits))

/-- Enters a unit state; STATE_CHG records a change (Table 1-14). -/
def setUState (s : State) (u : UnitId) (st : UState) : State :=
  let x := unitAt s u
  if x.state = st then s else irqEdge (unitSet s u (evtOr { x with state := st } 1))

/-- R23: latches an error record, or counts it beside the record held. `ctx` is none when no context is concerned. -/
def errRecord (x : Unit) (status source lo hi : Nat) (ctx : Option Nat) : Unit :=
  if x.err3.getLsbD 31 then
    { x with err3 := BitVec.ofNat 32 (2 ^ 31 + min 0xFFFF (x.err3.toNat % 65536 + 1)), evt := x.evt ||| 16 }
  else
    { x with err0 := BitVec.ofNat 32 (status % 256 + (source % 256) <<< 8 + x.inc.toNat <<< 16),
             err1 := BitVec.ofNat 32 lo,
             err2 := BitVec.ofNat 32 (hi % 65536 + (match ctx with | some c => (c % 4096) <<< 16 + 2 ^ 31 | none => 0)),
             err3 := BitVec.ofNat 32 (2 ^ 31 + 1), evt := x.evt ||| 8 }

def errLog (s : State) (u : UnitId) (status source lo hi : Nat) (ctx : Option Nat) : State :=
  irqEdge (unitSet s u (errRecord (unitAt s u) status source lo hi ctx))

/-! ### Tiles and partitions -/

/-- PHYS of a tile or spare page: the physical slot of its cluster that backs it, its own until a substitution (R12, R21). -/
def physAt (s : State) (u : UnitId) : Nat :=
  match u with
  | .tile t => mapGet (t % 16) s.un.phys (t / 16 * 17 + t % 16)
  | .spare c => mapGet 16 s.un.phys (c * 17 + 16)
  | _ => 0

/-- The physical slot's key that backs logical tile T (R12, R21). -/
def tileKey (s : State) (t : Nat) : Nat := (t / 16) * 17 + physAt s (.tile t)

def tileAt (s : State) (t : Nat) : Tile := (mapFind s.tl.tab (tileKey s t)).getD {}

def tileSet (s : State) (t : Nat) (x : Tile) : State :=
  { s with tl := { s.tl with tab := mapSet s.tl.tab (tileKey s t) x } }

/-- The record of the partition that covers tile T, if any (R13, R14). -/
def partFind (ps : Map Part) (t : Nat) : Option Part :=
  match ps with
  | [] => none
  | (_, p) :: r => if p.t0 ≤ t && t < p.t0 + 2 ^ p.log2n then some p else partFind r t

def partOf (s : State) (t : Nat) : Option Part := partFind s.tl.parts t

/-- The record of a partition already bound, its place and size as they stand. -/
def partSet (s : State) (p : Part) : State :=
  { s with tl := { s.tl with parts := s.tl.parts.map (fun e =>
      if e.1 = p.t0 then (e.1, { p with t0 := e.2.t0, log2n := e.2.log2n }) else e) } }

/-- The record of a partition that PART_BIND binds (R356). -/
def partAdd (s : State) (p : Part) : State := { s with tl := { s.tl with parts := mapSet s.tl.parts p.t0 p } }

/-- Applies f to the partition of tile T; nothing without one. -/
def partUpd (s : State) (t : Nat) (f : Part → Part) : State :=
  match partOf s t with
  | none => s
  | some p => partSet s (f p)

def partCtx (s : State) (t : Nat) : Option Nat := (partOf s t).map Part.ctx

/-- R185: the root unit of a partition, coordinator of its STEP transactions. -/
def partRoot (p : Part) : UnitId :=
  if p.log2n ≤ 4 then .cluster (p.t0 / 16) else if p.log2n ≤ 7 then .cdie (p.t0 / 128) else .package

/-- The units that a partition covers whole: its tiles, and the clusters, dies and package within it. -/
def partUnits (p : Part) : List UnitId :=
  (partTiles p).map .tile
    ++ (if p.log2n ≥ 4 then (List.range (2 ^ (p.log2n - 4))).map (fun i => .cluster (p.t0 / 16 + i)) else [])
    ++ (if p.log2n ≥ 7 then (List.range (2 ^ (p.log2n - 7))).map (fun i => .cdie (p.t0 / 128 + i)) else [])
    ++ (if p.log2n ≥ 9 then [.package] else [])

/-- UNIT_OWNER.RUNNING of every unit of a partition (Table 1-16). -/
def partRunning (s : State) (p : Part) (b : Bool) : State :=
  (partUnits p).foldl (fun s u => unitSet s u { unitAt s u with running := b }) s

/-- Applies f to every member tile. -/
def tilesUpd (s : State) (ts : List Nat) (f : Tile → Tile) : State :=
  ts.foldl (fun s t => tileSet s t (f (tileAt s t))) s

/-- R85: an event that blocks step commit sets the step error latch of an open step (R187), or gives the running
command its status. -/
def blockCommit (s : State) (t status : Nat) : State :=
  partUpd s t (fun p =>
    if p.opened then { p with err := true }
    else match p.run with
      | none => p
      | some r => { p with run := some { r with err := some (r.err.getD status) } })

/-- DETAIL of a run: UNIT_ID and ERRLOG1 of the first record latched (Table 14-6). -/
def noteDetail (s : State) (t lo : Nat) : State :=
  partUpd s t (fun p => { p with run := p.run.map (fun r => { r with
    det := some (r.det.getD (unitIdReg (.tile t) + (lo % 2 ^ 32) <<< 32)) }) })

/-- An error of a tile: its record and R85. -/
def tileErr (s : State) (t status source lo hi : Nat) : State :=
  blockCommit (noteDetail (errLog s (.tile t) status source lo hi (partCtx s t)) t lo) t status

/-- R86: an uncorrectable SRAM word met by a reader or writer. -/
def tileSramUe (s : State) (t source lo : Nat) : State :=
  let x := tileAt s t
  tileErr (tileSet s t { x with num := { x.num with sramUe := satInc x.num.sramUe } }) t stUncorr source lo 0

/-- R85: a residue mismatch. -/
def tileResidue (s : State) (t engine lane pc : Nat) : State :=
  let x := tileAt s t
  unitEvt (tileErr (tileSet s t { x with num := { x.num with resErr := satInc x.num.resErr } }) t stResidue engine pc lane)
    (.tile t) (2 ^ 17)

/-- Flag events of a tile's engines (R81 to R83), with UNIT_EVT.NUM_INV. -/
def tileFlags (s : State) (t : Nat) (es : List FlagEv) : State :=
  let x := tileAt s t
  let n := numFlags x.num es
  let s1 := tileSet s t { x with num := n }
  if invRose x.num n then unitEvt s1 (.tile t) (2 ^ 16) else s1

/-- Words of a tile's SRAM that become uncorrectable or are corrected while an operation runs that is not residue-checked (R84, R86). -/
def tileSram (s : State) (t : Nat) (hw : HwErr) : State := tileSet s t (sramHw (tileAt s t) hw)

/-- Counts and records every uncorrectable word that an operation reads, with its reader's SOURCE (R86, Table 3-13). -/
def tileReadUe (s : State) (t : Nat) (reader : SramWord → Option Nat) : State :=
  (tileAt s t).num.ue.foldl (fun s w => match reader w with
    | some k => tileSramUe s t k (sramAddr w)
    | none => s) s

/-- What a tile's engines report (R81 to R86, R105, R177). -/
def tileNote (t : Nat) (s : State) (n : TileNote) : State :=
  match n with
  | .flag e => tileFlags s t [e]
  | .ue source addr => tileSramUe s t source addr
  | .residue engine lane pc => tileResidue s t engine lane pc
  | .fault status source pc => tileErr s t status source pc 0

def tileNotes (s : State) (t : Nat) (ns : List TileNote) : State := ns.foldl (tileNote t) s

/-- What physics does to a tile while a residue-checked engine computes (R84 to R86). -/
def tileHw (s : State) (t : Nat) (hw : HwErr) (engine pc : Nat) : State := tileNotes (tileSram s t hw) t (residueNotes hw engine pc)

/-- SEED of the partition that a tile belongs to. -/
def seedOf (s : State) (t : Nat) : Nat := match partOf s t with | some p => p.seed | none => 0

/-- n cycles of a tile (R153). -/
def tileLand (s : State) (t n : Nat) : State :=
  let r := tileCycles (seedOf s t) n (tileAt s t)
  tileNotes (tileSet s t r.1) t r.2

/-- Cycles of a tile until `done` holds, at most n. -/
def tileUntil (s : State) (t : Nat) (done : Tile → Bool) (n : Nat) : State :=
  let r := cyclesUntil (seedOf s t) done n (tileAt s t)
  tileNotes (tileSet s t r.1) t r.2

/-- Everything that the tile's scalar unit, array paths and vector pipes have issued takes effect (R106, R159, R180). -/
def tileSettle (s : State) (t : Nat) : State := tileUntil s t tileQuiet (settleSpan (tileAt s t))

/-! ### Ring commands that other blocks end -/

def queueKey (c : CmdRef) : Nat := c.ctx * 64 + c.qid

/-- Ends the command that a queue runs: its record is written by COMMAND_COMPLETE (R337). The first status stays; a
command of an aborted queue other than a RUN, whose stop says its status, ends with ABORTED (R352, R159). -/
def endCmd (k : QCmd) (status result : Nat) : QCmd :=
  let st := match k.job with
    | .run _ => status
    | _ => if k.abort then stAborted else status
  { k with st := .ended, status := some (k.status.getD st), result := if k.status.isSome then k.result else result }

def queueAt (s : State) (c : CmdRef) : Option Queue := mapFind s.rg.queues (queueKey c)

def queueSet (s : State) (c : CmdRef) (q : Queue) : State :=
  { s with rg := { s.rg with queues := mapSet s.rg.queues (queueKey c) q } }

def finishRes (s : State) (c : CmdRef) (status result : Nat) : State :=
  match queueAt s c with
  | none => s
  | some q =>
    match q.cmd with
    | none => s
    | some k => queueSet s c { q with cmd := some (endCmd k status result) }

def finishCmd (s : State) (c : CmdRef) (status : Nat) : State := finishRes s c status 0

/-- Ends a command with DETAIL and RESULT where the queue still runs that job. -/
def finishJob (s : State) (c : CmdRef) (j : Job) (status result detail : Nat) : State :=
  match queueAt s c with
  | none => s
  | some q =>
    match q.cmd with
    | none => s
    | some k =>
      if k.job = j then queueSet s c { q with cmd := some { endCmd k status result with
        detail := if k.status.isSome then k.detail else detail } }
      else s

/-- What a group holds of a member's launches goes as their numbering restarts: those that failed. -/
def launchesForgotten (t0 : Nat) (g : Group) : Group :=
  match g.locals.find? (fun m => m.t0 = t0) with
  | some m => { g with failedL := g.failedL.filter (fun e => e.1 ≠ m.rank) }
  | none => g

/-- LSEQ restarts at plate start and at every STEP OPEN (R218). Failed launches and the failure notices taken belong to the numbering that
ends (log entry 132). -/
def lseqReset (s : State) (p : Part) : State :=
  let mine (k : Nat) : Bool := (partTiles p).contains (k / 64)
  let joined (gix : Nat) : Bool := s.fb.groups.any (fun e => e.1 = gix && e.2.locals.any (fun m => m.t0 = p.t0))
  { s with fb := { s.fb with
    lseqs := s.fb.lseqs.filter (fun e => !(mine e.1)), lastL := s.fb.lastL.filter (fun e => !(mine e.1)),
    groups := s.fb.groups.map (fun e => (e.1, launchesForgotten p.t0 e.2)),
    ctrlDone := s.fb.ctrlDone.filter (fun e => !(joined e.1 && e.2.1 = 8)) } }

/-! ### Requests between units (R40 to R46, R49) -/

def memberUpd (x : Txn) (page : Nat) (f : TxnMember → TxnMember) : Txn :=
  { x with members := x.members.map (fun m => if m.page = page then f m else m) }

def memberSt (x : Txn) (page : Nat) : Option MemberSt := (x.members.find? (fun m => m.page = page)).map TxnMember.st

/-- R41, R50: why a unit refuses a request or a transaction message; joined members that are QUIESCING still take theirs. -/
def txnRefusal (x : Unit) (inc : Half) (joined : Bool) : Option Nat :=
  match x.state with
  | .off | .retired => some stDenied
  | st =>
    if inc ≠ x.inc then some stStale
    else match st with
      | .resetting => some stReset
      | .quiescing => if joined then none else some stBusy
      | .quiesced | .sleep => some stBusy
      | _ => none

/-- Cause that Table 2-9 gives a refusal. -/
def refusalCause (st : Nat) : Nat := if st = stStale || st = stReset then 2 else 3

def countStale (s : State) (st : Nat) : State :=
  if st = stStale then { s with un := { s.un with staleReq := satInc s.un.staleReq } } else s

def outFind (s : State) (page tag : Nat) : Option Outst := s.un.outst.find? (fun o => o.src = page && o.tag = tag)

def outUpd (s : State) (page tag : Nat) (f : Outst → Outst) : State :=
  { s with un := { s.un with outst := s.un.outst.map (fun o => if o.src = page && o.tag = tag then f o else o) } }

/-- A request completes at its requester with a status: its tag is free again and the completion is noted (R46, R49, R52). -/
def outEnd (s : State) (page tag status : Nat) : State :=
  { s with un := { s.un with outst := s.un.outst.filter (fun o => !(o.src = page && o.tag = tag)),
                             cpl := mapSet s.un.cpl (page + 4096 * tag) status } }

/-- R44: a unit that enters RESETTING discards the tags of its own requests. -/
def dropOutst (s : State) (page : Nat) : State :=
  { s with un := { s.un with outst := s.un.outst.filter (fun o => o.src ≠ page) } }

/-- R52: the requests of a unit within an aborted transaction complete with TXN_ABORTED. -/
def dropTxnOutst (s : State) (tid page : Nat) : State :=
  (s.un.outst.filter (fun o => o.src = page && o.txn = some tid)).foldl (fun s o => outEnd s o.src o.tag stTxnAborted) s

/-- The requester holds the tag of a request from its issue; `arrived` as the packet has left its source and arrived, or not yet. A
request that it already holds keeps its entry. -/
def outIssued (s : State) (r : Req) (arrived : Bool) : State :=
  let x := unitAt s r.src
  if r.reqInc ≠ x.inc.toNat then s
  else if (outFind s (pageOf r.src) r.tag).isSome then outUpd s (pageOf r.src) r.tag (fun o => { o with arrived := arrived })
  else
    let o : Outst := { src := pageOf r.src, tag := r.tag, tgt := pageOf r.tgt, tgtInc := BitVec.ofNat 16 r.tgtInc,
                       reqInc := x.inc, txn := r.txn, arrived := arrived }
    { s with un := { s.un with outst := s.un.outst ++ [o] } }

/-- A packet with this tag is on its way or about to be sent: a tag held names a request of this target and TGT_INC whose packet has
not arrived (R44, R46). A packet of an earlier life of its requester needs no tag. -/
def requestSent (s : State) (r : Req) : Bool :=
  r.reqInc ≠ (unitAt s r.src).inc.toNat || (outFind s (pageOf r.src) r.tag).all (fun o =>
    !o.waiting && !o.arrived && o.tgt = pageOf r.tgt && o.tgtInc = BitVec.ofNat 16 r.tgtInc && o.txn = r.txn)

/-- A member of a transaction takes its messages while QUIESCING (R45). -/
def joinedTo (s : State) (txn : Option Nat) (u : UnitId) : Bool :=
  match txn.bind (fun t => mapFind s.un.txns t) with
  | some x => (memberSt x (pageOf u)).isSome && memberSt x (pageOf u) ≠ some .invited
  | none => false

/-- The answer to a request is on its way. -/
def reqReply (s : State) (r : Req) (status : Nat) (data : List Byte) : State :=
  let y : Reply := { src := pageOf r.src, tag := r.tag, tgt := pageOf r.tgt, reqInc := BitVec.ofNat 16 r.reqInc,
                     rspInc := (unitAt s r.tgt).inc, status := status, data := data }
  { s with un := { s.un with replies := s.un.replies ++ [y] } }

/-- R41 decides a request to a unit that serves no memory: its refusal, or OK. -/
def reqDeliver (s : State) (r : Req) : State :=
  match txnRefusal (unitAt s r.tgt) (BitVec.ofNat 16 r.tgtInc) (joinedTo s r.txn r.tgt) with
  | some st => reqReply (countStale s st) r st []
  | none => reqReply s r stOk []

/-- R41: requests that a unit accepted and did not answer complete with UNIT_RESET as it enters RESETTING. -/
def acceptedReset (s : State) (u : UnitId) : State :=
  let mine := s.un.accepted.filter (fun r => r.tgt = u)
  mine.foldl (fun s r => reqReply s r stReset []) { s with un := { s.un with accepted := s.un.accepted.filter (fun r => r.tgt ≠ u) } }

/-- A logical tile whose state moves to the spare: the cluster that buffers its messages (R56). -/
def movingTile (s : State) (u : UnitId) : Option Nat :=
  match u with
  | .tile t =>
    let x := mapGet {} s.un.subst (t / 16)
    if x.phase = .moving && x.tid.isSome && x.ltile = t % 16 then some (t / 16) else none
  | _ => none

/-! ### Transactions -/

def txnLive (x : Txn) : Bool := x.phase = .open || x.phase = .preparing

/-- TXN_STAT.OPEN (Table 2-11): transactions opened and not closed or aborted. -/
def txnOpenCount (s : State) : Nat := (s.un.txns.filter (fun p => p.2.phase ≠ .aborted)).length

def txnSet (s : State) (tid : Nat) (x : Txn) : State := { s with un := { s.un with txns := mapSet s.un.txns tid x } }

/-- R50: the next TID above the last one assigned that no transaction of the list holds, looked for n times. -/
def tidFrom (txns : Map Txn) (n k : Nat) : Option Nat :=
  match n with
  | 0 => none
  | m + 1 => if (mapFind txns (k % 1024)).isSome then tidFrom txns m (k + 1) else some (k % 1024)

/-- The TID of an OPEN (R50, R54): of those that no transaction holds, an aborted one whose members have not all taken ABORT included; with none
left, of those that no open transaction holds, and the aborted record goes. The spec does not say when an aborted transaction's TID is
free (DESIGN CHOICE, log entry 118). -/
def nextTid (s : State) : Option Nat :=
  match tidFrom s.un.txns 1024 s.un.nextTid with
  | some k => some k
  | none => tidFrom (s.un.txns.filter (fun p => p.2.phase ≠ .aborted)) 1024 s.un.nextTid

/-- Opens a transaction; none when 1,024 are open (R54). Members stand as enrolment sent. -/
def txnOpen (s : State) (kind key : Nat) (coord : UnitId) (members : List UnitId) (st : MemberSt) :
    Option (State × Nat) :=
  match nextTid s with
  | none => none
  | some tid =>
    let x : Txn := { kind := kind, key := key, coord := pageOf coord, coordInc := (unitAt s coord).inc, msgInc := (unitAt s coord).inc, phase := .open,
                     members := members.map (fun u => { page := pageOf u, inc := (unitAt s u).inc, st := st }),
                     merged := kind ≠ 1 }
    some ({ s with un := { s.un with txns := mapSet s.un.txns tid x, nextTid := (tid + 1) % 1024 } }, tid)

/-- The record of an abort in the package root (Table 2-12). -/
def txnAbortRecord (s : State) (tid : Nat) (x : Txn) (cause : Nat) : State :=
  { s with un := { s.un with
      abortCnt := satInc s.un.abortCnt,
      lastAbort := BitVec.ofNat 32 (cause + x.kind <<< 4 + tid <<< 16 + 2 ^ 31),
      lastCoord := BitVec.ofNat 32 (match unitOfPage x.coord with | some u => unitIdReg u | none => 0) } }

/-! ### Plate sequencing shared with barriers -/

/-- The tile goes on at a stroke address: it issues when the plate cache holds the stroke and freezes otherwise
(R156). -/
def goTo (x : Tile) (pc : Nat) : Tile :=
  { x with plate := { x.plate with
      pc := pc, held := 0, inStroke := none, used := [], jump := none, arrived := none, ending := false,
      pstate := if mapGet 0 x.plate.cache (pc % 1024) = pc + 1 then .issuing else .frozen } }

/-- The loops that end at pc at the current call depth go on or are left (R140, the closing loop). The innermost
loop stands first. -/
def closeLoops (pc cdepth : Nat) (loops : List Loop) (next : Nat) : List Loop × Nat :=
  match loops with
  | [] => ([], next)
  | l :: r =>
    if l.cdepth = cdepth && pc = l.fin then
      if l.idx + 1 < l.cnt then ({ l with idx := l.idx + 1 } :: r, l.start) else closeLoops pc cdepth r next
    else (l :: r, next)

/-- Next stroke address after a barrier-kind stroke without FLOW. -/
def barNext (p : Plate) : Nat := (closeLoops p.pc p.calls.length p.loops (p.pc + 1)).2

/-- The slots of a stroke (Table 6-1): the two parts of CTL, LDA, LDB, MX, VX0, VX1, XF and SY. -/
abbrev slSop : Nat := 0
abbrev slFlow : Nat := 1
abbrev slLda : Nat := 2
abbrev slLdb : Nat := 3
abbrev slMx : Nat := 4
abbrev slVx0 : Nat := 5
abbrev slVx1 : Nat := 6
abbrev slXf : Nat := 7
abbrev slSy : Nat := 8

/-- A barrier-kind stroke issues on a member (R151): BSEQ counts it; with further slots to come the stroke stays
open, otherwise the tile goes on at `next`. -/
def issueBar (more : Bool) (next : Option Nat) (bid : Option Nat) (x : Tile) : Tile :=
  let p := x.plate
  let p := { p with bseq := p.bseq + 1, bid := bid.getD p.bid, held := 0, arrived := none }
  if more then { x with plate := { p with pstate := .issuing, inStroke := some x.regs, used := [slSy], jump := next } }
  else goTo { x with plate := { p with
      issueCnt := satInc p.issueCnt, loops := (closeLoops p.pc p.calls.length p.loops (p.pc + 1)).1 } }
    (next.getD (barNext p))

def memberRuns (x : Tile) : Bool := x.plate.pstate ≠ .idle && x.plate.pstate ≠ .stopped

/-- Barrier release latency in tile cycles (Table 6-11). -/
def releaseCycles (log2n : Nat) : Nat :=
  if log2n = 0 then 4 else if log2n ≤ 4 then 12 else if log2n ≤ 7 then 40 else if log2n = 8 then 120 else 200

/-- HOLD_CNT of each member counts the cycles of its hold at a barrier: the release latency, and the cycles before it, which depend on the other
members and on what held the barrier: free values (log entry 1). -/
def barHeld (s : State) (p : Part) : State :=
  let s1 := (partTiles p).foldl (fun s t =>
    let x := tileAt s t
    tileSet s t { x with plate := { x.plate with
      holdCnt := satAdd x.plate.holdCnt (releaseCycles p.log2n + Config.freeCycles s.free t) } }) s
  { s1 with free := s.free + 1 }

/-- Issues the barrier-kind stroke of a partition on every member (R151). -/
def barIssue (s : State) (p : Part) (next : Tile → Option Nat) (bid : Option Nat) : State :=
  let s1 := tilesUpd (barHeld s p) (partTiles p) (fun x => if memberRuns x then issueBar p.barMore (next x) bid x else x)
  partUpd s1 p.t0 (fun q => { q with bar := none, decided := false })

/-- A member whose PREPARED is cast in the group's vote: its commit point is the group's commit record, so that nothing but the group's
decision ends its step (R191, R194, R196). -/
def stepInDoubt (p : Part) : Bool := p.opened && p.prep.isSome && p.retained

/-- R192: the partition's side of an aborted STEP transaction. A group member that had not cast its vote casts ABORT (R194). -/
def stepAborted (s : State) (p : Part) (cause gate : Nat) : State :=
  let p1 := { p with opened := false, preparing := false, outcome := stTxnAborted, lastOutcome := stTxnAborted,
                     lastCause := cause, lastGate := gate, lastValid := true, abortCnt := satInc p.abortCnt,
                     prep := none, catchUp := false,
                     abortVote := p.groupEn && !p.catchUp && p.preparing && !p.retained }
  unitEvt (partSet s p1) (.tile p.t0) (2 ^ 18)

/-- A STEP COMMIT held for its decision issues once it is decided (R189); a hold keeps the stroke until the RESUME
(R197). -/
def barDecided (s : State) (t0 : Nat) : State :=
  match partOf s t0 with
  | none => s
  | some p => match p.bar with
    | some (.stepCommit, _) =>
      if p.holds.isEmpty then barIssue s p (fun _ => none) none else partSet s { p with decided := true }
    | _ => s

def substAt (s : State) (c : Nat) : Subst := mapGet {} s.un.subst c
def substSet (s : State) (c : Nat) (x : Subst) : State := { s with un := { s.un with subst := mapSet s.un.subst c x } }

/-- R57: a live substitution aborts: PHYS stays, the buffered messages go to the old tile in arrival order, the spare is cleared and
stays in RUN. -/
def substAborted (s : State) (c : Nat) : State :=
  let x := substAt s c
  let s1 := { s with tl := { s.tl with tab := mapDel s.tl.tab (c * 17 + physAt s (.spare c)) } }
  unitEvt (x.buffered.foldl reqDeliver (substSet s1 c { x with phase := .idle, status := stTxnAborted, tid := none, buffered := [] }))
    (.cluster c) (2 ^ 16)

/-- R423, R425: an activation that aborts before its commit point is ARMED again after an emergency, otherwise no longer in
progress, its images still STAGED, with the cause in ACT_STAT.RESULT. -/
def actAborted (s : State) (cause : Nat) : State :=
  let f := s.fw
  if cause = 6 && s.pw.active ≠ 0 then { s with fw := { f with phase := 1, tid := none, left := [], cur := none, again := [] } }
  else { s with fw := { f with phase := 0, kinds := 0, tid := none, left := [], cur := none, again := [], result := cause,
                               nextSec := none, nextMgmt := none } }

/-- R52: aborts a transaction before its commit point, with the parts of its kind; the coordinator's own requests within it complete,
its members' with their ABORT. A step whose commit point is the group's is aborted by the group's decision alone (cause VOTE). -/
def txnAbortGate (s : State) (tid cause gate : Nat) : State :=
  match mapFind s.un.txns tid with
  | none => s
  | some x =>
    if !(txnLive x) || (x.kind = 1 && cause ≠ 5 && (partOf s x.key).any stepInDoubt) then s
    else
      let s0 := dropTxnOutst s tid x.coord
      let s1 := txnAbortRecord (txnSet s0 tid { x with phase := .aborted, cause := cause, gate := gate }) tid x cause
      match x.kind with
      | 1 => match partOf s1 x.key with
        | none => s1
        | some p => barDecided (stepAborted s1 p cause gate) x.key
      | 2 => substAborted s1 x.key
      | 3 => actAborted s1 cause
      | _ => s1

def txnAbort (s : State) (tid cause : Nat) : State := txnAbortGate s tid cause 0

/-- Aborts the open STEP transaction of a partition. -/
def stepAbort (s : State) (p : Part) (cause : Nat) : State := if p.opened then txnAbort s p.tid cause else s

/-- Aborts every live transaction that a unit coordinates or takes part in (R52, R54): cause 1 for the coordinator,
`cause` for a member. -/
def txnsOfUnit (s : State) (page cause : Nat) : State :=
  s.un.txns.foldl (fun s p =>
    if !(txnLive p.2) then s
    else if p.2.coord = page && cause = 2 then txnAbort s p.1 1
    else if p.2.members.any (fun m => m.page = page) then txnAbort s p.1 cause
    else s) s

/-- Several units reset in one cycle: each transaction aborts with the lowest cause, COORD_RESET before MEMBER_RESET (R52). -/
def txnsOfHit (s : State) (pages : List Nat) : State :=
  s.un.txns.foldl (fun s p =>
    if !(txnLive p.2) then s
    else if pages.contains p.2.coord then txnAbort s p.1 1
    else if p.2.members.any (fun m => pages.contains m.page) then txnAbort s p.1 2
    else s) s

/-! ### Answers to requests (R17, R44, R46) -/

/-- A reply that does not answer an outstanding request of this incarnation is dropped and counted. -/
def replyStale (s : State) (u : UnitId) : State :=
  unitEvt { s with un := { s.un with staleRep := satInc s.un.staleRep } } u 32

/-- Statuses that a hardware requester answers with a reissue. -/
def reissued (st : Nat) : Bool := st = stBusy || st = stReset || st = stStale

/-- A request is answered: a refused one waits out its backoff, one of a transaction aborts it. -/
def outAnswer (s : State) (o : Outst) (status : Nat) : State :=
  match o.txn with
  | none =>
    if reissued status then outUpd s o.src o.tag (fun o => { o with waiting := true })
    else outEnd s o.src o.tag status
  | some tid =>
    let s2 := outEnd s o.src o.tag status
    if reissued status || status = stDenied then txnAbort s2 tid (refusalCause status) else s2

/-- The reply completes its request, and the requester learns RSP_INC. -/
def replyTake (s : State) (o : Outst) (r : Reply) : State :=
  outAnswer { s with un := { s.un with incTab := mapSet s.un.incTab (o.src * 65536 + o.tgt) r.rspInc } } o r.status

/-- The route between two units crosses link k. -/
def crosses (s : State) (k a b : Nat) : Bool :=
  match unitOfPage a, unitOfPage b with
  | some u, some v => dieOf u ≠ dieOf v && (routeOf (linkUp s) (dieOf u) (dieOf v)).any (fun r => r.contains k)
  | _, _ => false

/-- R17: packets on a link that enters RESETTING complete with UNIT_RESET: requests on their way over it, and the requests whose
replies it carries. -/
def packetsReset (s : State) (k : Nat) : State :=
  let back := s.un.replies.filter (fun y => crosses s k y.tgt y.src)
  let lost := s.un.outst.filter (fun o => !o.waiting && (!o.arrived && crosses s k o.src o.tgt
    || back.any (fun y => y.src = o.src && y.tag = o.tag && y.reqInc = o.reqInc)))
  let s1 := { s with un := { s.un with replies := s.un.replies.filter (fun y => !(crosses s k y.tgt y.src)) } }
  lost.foldl (fun s o => outAnswer s o stReset) s1

/-! ### Stopping a plate (R159) -/

/-- Precedence of stop statuses: UNIT_RESET, then PLATE_FAULT, then ABORTED. -/
def stopRank (st : Nat) : Nat := if st = stReset then 3 else if st = stPlate then 2 else if st = stAborted then 1 else 0

/-- The member issues no further stroke. -/
def parkTile (x : Tile) : Tile :=
  { x with plate := { x.plate with pstate := .stopped, held := 0, inStroke := none, used := [], jump := none, arrived := none,
                                    ending := false } }

/-- A stop takes hold at the member's next stroke boundary: a stroke that has begun to issue issues as a whole (R134, R159). -/
def stopTile (x : Tile) : Tile :=
  if !(memberRuns x) then x
  else if x.plate.inStroke.isSome then { x with plate := { x.plate with ending := true } }
  else parkTile x

/-- Operations already issued complete when the plate stops (R106, R159, R180). -/
def landStopped (s : State) (t : Nat) : State :=
  if (tileAt s t).plate.inStroke.isSome then s else tileSettle s t

/-- R57: armed substitutions of a partition's tiles abort when it ceases to run: EXPLICIT, or MEMBER_RESET where a reset ends it. -/
def substOfPart (s : State) (p : Part) (cause : Nat) : State :=
  s.un.subst.foldl (fun s e =>
    match e.2.tid with
    | none => s
    | some tid =>
      if e.2.phase = .armed && p.t0 ≤ 16 * e.1 + e.2.ltile && 16 * e.1 + e.2.ltile < p.t0 + 2 ^ p.log2n
      then txnAbort s tid cause else s) s

/-- A stop of the partition's plate: no member issues a further stroke and the open step aborts. -/
def stopPart (s : State) (p : Part) (status cause : Nat) : State :=
  match p.run with
  | none => s
  | some _ =>
    let s1 := substOfPart (stepAbort s p cause) p (if cause = 2 then 2 else 6)
    let s2 := tilesUpd ((partTiles p).foldl landStopped s1) (partTiles p) stopTile
    partUpd s2 p.t0 (fun q => { q with
      bar := none, decided := false, startHeld := false,
      run := q.run.map (fun r => { r with stop := some (match r.stop with
        | none => status
        | some o => if stopRank status > stopRank o then status else o) }) })

def nstrokesOf (s : State) (t : Nat) : Nat :=
  match partOf s t with
  | some p => match p.run with
    | some r => r.nstrokes
    | none => 0
  | none => 0

/-- A plate fault of Table 6-14 on a tile: recorded there, and the plate stops (R159, R160). -/
def plateFault (s : State) (t source : Nat) : State :=
  match partOf s t with
  | none => s
  | some p =>
    let s1 := noteDetail (errLog s (.tile t) stPlate source (tileAt s t).plate.pc 0 (some p.ctx)) t (tileAt s t).plate.pc
    match partOf s1 t with
    | none => s1
    | some q => stopPart s1 q stPlate (if source = 1 then 4 else 6)

/-- R140, R157: a member whose next stroke address lies at or beyond NSTROKES after a barrier-kind stroke: plate fault FETCH. -/
def fetchBeyond (s : State) (t0 : Nat) : State :=
  match partOf s t0 with
  | none => s
  | some p =>
    match (partTiles p).find? (fun t => (tileAt s t).plate.pstate = .frozen && nstrokesOf s t ≤ (tileAt s t).plate.pc) with
    | some t => plateFault s t 1
    | none => s

end Sys2Proof.Machine
end

