-- ==== Sys2Proof/Machine/Schedule.lean ====
section
/-! DEFINITION. Drupelet schedules of numerics version 0x0001: the algorithm that a launch takes (R225, Table 9-7) and the
program that each member rank runs (R220, R224, Table 9-8). Where the spec states member orders but no entries, the entries
are this model's (log 129). -/
namespace Sys2Proof.Machine
open Sys2Proof

/-! ### Launch requests (Table 9-3) -/

def rqOp (r : Nat) : Nat := bitsOf r 3 0
def rqRedop (r : Nat) : Nat := bitsOf r 5 4
def rqEtype (r : Nat) : Nat := bitsOf r 10 6
def rqRoot (r : Nat) : Nat := bitsOf r 22 11
def rqTdS (r : Nat) : Nat := bitsOf r 27 23
def rqTdD (r : Nat) : Nat := bitsOf r 32 28
def rqAtData (r : Nat) : Nat := bitsOf r 37 33
def rqAtDone (r : Nat) : Nat := bitsOf r 42 38
def rqStg (r : Nat) : Nat := bitsOf r 50 43
def rqCpm (r : Nat) : Nat := bitsOf r 62 51
def rqElems (r : Nat) : Nat := bitsOf r 95 64
def rqRowl (r : Nat) : Nat := bitsOf r 105 96
def rqEpm (r : Nat) : Nat := bitsOf r 113 106
def rqTdCnt (r : Nat) : Nat := bitsOf r 118 114
def rqTdRcnt (r : Nat) : Nat := bitsOf r 123 119

def isA2a (r : Nat) : Bool := rqOp r = 6 || rqOp r = 7

/-- R7, Tables 9-3 and 9-4: the encodings that a request may hold. -/
def requestOk (r : Nat) : Bool :=
  1 ≤ rqOp r && rqOp r ≤ 7 && rqRedop r ≠ 3 && !(bitOf r 63) && bitsOf r 255 124 = 0 && rqStg r ≤ 128
    && (fmtOfCode (rqEtype r)).isSome
    && (!(isA2a r) || (1 ≤ rqRowl r && 1 ≤ rqEpm r))

/-! ### Drupelets of a window -/

/-- Drupelets that n bytes take. -/
def drupCount (n : Nat) : Nat := (n + 65535) / 65536

/-- Bytes of drupelet j of a piece of n bytes: 0 where the piece has no such drupelet. -/
def drupLen (n j : Nat) : Nat := min 65536 (n - 65536 * j)

/-- What a schedule is compiled from: the members' nodes by rank, this rank, the request's operation and root, the bytes
of ELEMS elements, and CPM with canonical-order mode. -/
structure SchedIn where
  nodes : List Nat
  rank  : Nat
  op    : Nat
  root  : Nat := 0
  bytes : Nat := 0
  cpm   : Nat := 1
  canon : Bool := false
  deriving DecidableEq, Repr

def SchedIn.n (x : SchedIn) : Nat := x.nodes.length

/-- The lane's send window in bytes (Tables 9-4 and 9-7). -/
def SchedIn.window (x : SchedIn) : Nat := x.bytes * (if x.canon && (x.op = 1 || x.op = 2) then x.cpm else 1)

/-- A part of the lane's windows: a rank's part for REDUCE_SCATTER, otherwise ELEMS elements. -/
def SchedIn.part (x : SchedIn) : Nat := if x.op = 2 then x.bytes / x.n else x.bytes

/-! ### Algorithm selection (R225) -/

inductive Algo where
  | ring | dbt | hier | chain | tree | barrier | direct
  deriving DecidableEq, Repr

/-- Ranks of each member device, in ascending rank; devices in the order of their lowest rank. -/
def deviceRanks (nodes : List Nat) : List (List Nat) :=
  nodes.eraseDups.map (fun d => (List.range nodes.length).filter (fun r => nodes.getD r 0 = d))

/-- Hierarchical layout: two or more devices, each with the same number L ≥ 2 of members. -/
def hierLayout (nodes : List Nat) : Bool :=
  let ds := deviceRanks nodes
  let l := (ds.headD []).length
  2 ≤ ds.length && 2 ≤ l && ds.all (fun d => d.length = l)

/-- Table 9-7. -/
def SchedIn.algo (x : SchedIn) : Algo :=
  if (x.op = 1 || x.op = 2) && x.canon then .chain
  else if x.op = 1 && x.window < 65536 * x.n then .dbt
  else if 1 ≤ x.op && x.op ≤ 3 then (if hierLayout x.nodes then .hier else .ring)
  else if x.op = 4 then .tree
  else if x.op = 5 then .barrier
  else .direct

/-! ### Entries (Table 9-5) -/

/-- A drupelet entry by its fields. -/
structure Ent where
  op    : Nat
  a     : Nat := 0
  b     : Nat := 0
  c     : Nat := 0
  freeA : Bool := false
  freeB : Bool := false
  inc   : Nat := 0
  peer  : Nat := 0
  tag   : Nat := 0
  doffS : Nat := 0
  doffD : Nat := 0
  len   : Nat := 64
  deriving DecidableEq, Repr

def Ent.bits (e : Ent) : Nat :=
  e.op + e.a * 2 ^ 4 + e.b * 2 ^ 8 + e.c * 2 ^ 12 + e.freeA.toNat * 2 ^ 16 + e.freeB.toNat * 2 ^ 17 + e.inc * 2 ^ 20
    + e.peer * 2 ^ 32 + (e.tag % 2 ^ 16) * 2 ^ 48 + e.doffS * 2 ^ 64 + e.doffD * 2 ^ 96 + (e.len / 64 - 1) * 2 ^ 128

def entEnd : Ent := { op := 0 }
def entLoop (body count dstep xstep : Nat) : Ent := { op := 5, peer := body, doffS := count, doffD := dstep, tag := xstep }

/-- `n` repetitions of a body whose drupelet indices rise by 1 and whose tags rise by `xstep`, by a LOOP where one holds it. -/
def repeated (body : Nat → List Ent) (n xstep : Nat) : List Ent :=
  let b := body 0
  if n = 0 || b.isEmpty then []
  else if n = 1 then b
  else if b.length ≤ 4095 then b ++ [entLoop b.length n 1 xstep]
  else (List.range n).flatMap body

/-- A body for each drupelet position: the first `full` positions are alike, and the others follow one by one. -/
def overDrups (body : Nat → List Ent) (full total xstep : Nat) : List Ent :=
  repeated body full xstep ++ (List.range (total - full)).flatMap (fun i => body (full + i))

/-! ### Chunks -/

/-- Where the chunks of a window lie: the first drupelet index of chunk k, the bytes of its drupelet j, how many leading
positions are full in every chunk, and the most drupelets of one. -/
structure Chunks where
  start : Nat → Nat
  len   : Nat → Nat → Nat
  full  : Nat
  total : Nat

/-- A whole window of `bytes` in n chunks of whole drupelets (ALLREDUCE). -/
def wholeChunks (n bytes : Nat) : Chunks :=
  let d := drupCount bytes
  let cut (k : Nat) : Nat := k * d / n
  { start := cut, len := fun k j => if j < cut (k + 1) - cut k then drupLen bytes (cut k + j) else 0,
    full := if bytes % 65536 = 0 then d / n else d / n - 1, total := (d + n - 1) / n }

/-- Chunk k is part k (REDUCE_SCATTER, ALLGATHER). -/
def partChunks (part : Nat) : Chunks :=
  { start := fun k => k * drupCount part, len := fun _ j => drupLen part j, full := part / 65536, total := drupCount part }

/-- Rank k positions before r, cyclically. -/
def before' (n r k : Nat) : Nat := (r + n - k % n) % n

/-! ### RING and HIER (R224, Table 9-8) -/

/-- A ring as one member sees it: its position among `size` and the ranks of its neighbours. -/
structure RingPos where
  size : Nat
  me   : Nat
  next : Nat
  prev : Nat

def sendEnt (a peer tag ds dd len : Nat) (free : Bool) : Ent :=
  { op := 1, a := a, peer := peer, tag := tag, doffS := if a = 4 then ds else 0, doffD := if a = 5 then dd else 0, len := len, freeA := free }
def recvEnt (c peer tag dd len inc : Nat) : Ent :=
  { op := 2, c := c, peer := peer, tag := tag, doffD := dd, len := len, inc := inc }
def foldEnt (a b c ds dd len inc : Nat) (fb : Bool) : Ent :=
  { op := 3, a := a, b := b, c := c, freeA := a < 4, freeB := fb, doffS := ds, doffD := dd, len := len, inc := inc }
def copyEnt (a c ds dd len inc : Nat) : Ent := { op := 4, a := a, c := c, doffS := ds, doffD := dd, len := len, inc := inc }

/-- RING's first half at one drupelet position: chunk me − 1 leaves first, each chunk that arrives takes this member's own
value, and chunk me stays in the receive window at `dst`. Buffers alternate as in Table 9-8. -/
def ringReduce (r : RingPos) (off len : Nat → Nat) (dst tag : Nat) : List Ent :=
  let first := before' r.size r.me 1
  let send (a c s : Nat) (free : Bool) : List Ent :=
    if len c = 0 then [] else [sendEnt a r.next (tag + s) (off c) 0 (len c) free]
  if r.size = 1 then (if len r.me = 0 then [] else [copyEnt 4 5 (off r.me) dst (len r.me) 1])
  else send 4 first 0 false ++ (List.range (r.size - 1)).flatMap (fun s =>
    let c := before' r.size r.me (s + 2)
    let b := 2 * s % 4
    if len c = 0 then []
    else if c = r.me then [recvEnt b r.prev (tag + s) 0 (len c) 0, foldEnt b 4 5 (off c) dst (len c) 1 false]
    else [recvEnt b r.prev (tag + s) 0 (len c) 0, foldEnt b 4 (b + 1) (off c) 0 (len c) 0 false] ++ send (b + 1) c (s + 1) true)

/-- RING's second half: chunk me goes round, the others arrive as me − 1, me − 2, …. -/
def ringGather (r : RingPos) (off len : Nat → Nat) (tag : Nat) : List Ent :=
  (List.range (r.size - 1)).flatMap (fun s =>
    let o := before' r.size r.me s
    let c := before' r.size r.me (s + 1)
    (if len o = 0 then [] else [sendEnt 5 r.next (tag + s) 0 (off o) (len o) false])
      ++ (if len c = 0 then [] else [recvEnt 5 r.prev (tag + s) (off c) (len c) 1]))

/-- This member's device and place on it, and the rank at device v, place i. -/
structure HierAt where
  devs  : Nat
  each  : Nat
  v     : Nat
  i     : Nat
  table : List (List Nat)

def HierAt.rank (h : HierAt) (v i : Nat) : Nat := (h.table.getD v []).getD i 0

def hierAt (x : SchedIn) : HierAt :=
  let t := deviceRanks x.nodes
  let v := (t.findIdx? (fun d => d.contains x.rank)).getD 0
  let d := t.getD v []
  { devs := t.length, each := d.length, v := v, i := (d.findIdx? (fun r => r = x.rank)).getD 0, table := t }

def HierAt.inner (h : HierAt) : RingPos :=
  { size := h.each, me := h.i, next := h.rank h.v ((h.i + 1) % h.each), prev := h.rank h.v (before' h.each h.i 1) }
def HierAt.outer (h : HierAt) : RingPos :=
  { size := h.devs, me := h.v, next := h.rank ((h.v + 1) % h.devs) h.i, prev := h.rank (before' h.devs h.v 1) h.i }

/-- The ring on the device for the chunks of device e: its end, this member's chunk of device e, stays in buffer 2. -/
def innerReduce (h : HierAt) (e : Nat) (off len : Nat → Nat) (tag : Nat) : List Ent :=
  let r := h.inner
  let first := h.rank e (before' r.size r.me 1)
  (if len first = 0 then [] else [sendEnt 4 r.next tag (off first) 0 (len first) false])
    ++ (List.range (r.size - 1)).flatMap (fun s =>
      let q := before' r.size r.me (s + 2)
      let c := h.rank e q
      if len c = 0 then []
      else if q = r.me then [recvEnt 0 r.prev (tag + s) 0 (len c) 0, foldEnt 0 4 2 (off c) 0 (len c) 0 false]
      else [recvEnt 0 r.prev (tag + s) 0 (len c) 0, foldEnt 0 4 1 (off c) 0 (len c) 0 false,
            sendEnt 1 r.next (tag + s + 1) 0 0 (len c) true])

/-- HIER's reduction at one drupelet position: for the chunks of each device in the order of the outer ring, the inner
ring and then this member's step of the outer one. Chunk (device, place) is the chunk of the rank there. -/
def hierReduce (h : HierAt) (off len : Nat → Nat) (dst tag : Nat) : List Ent :=
  let o := h.outer
  let span := h.each
  (List.range o.size).flatMap (fun s =>
    let e := before' o.size o.me (s + 1)
    let c := h.rank e h.i
    let far := tag + o.size * span + s
    innerReduce h e off len (tag + s * span) ++
      (if len c = 0 then []
       else if s = 0 then [sendEnt 2 o.next far 0 0 (len c) true]
       else if e = o.me then [recvEnt 3 o.prev (far - 1) 0 (len c) 0, foldEnt 3 2 5 0 dst (len c) 1 true]
       else [recvEnt 3 o.prev (far - 1) 0 (len c) 0, foldEnt 3 2 1 0 0 (len c) 0 true, sendEnt 1 o.next far 0 0 (len c) true]))

/-- HIER's gathers in reverse: round the devices, then round the members of the device for every device's chunk. -/
def hierGather (h : HierAt) (off len : Nat → Nat) (tag : Nat) : List Ent :=
  let o := h.outer
  let at' (v : Nat) (f : Nat → Nat) : Nat := f (h.rank v h.i)
  ringGather o (fun v => at' v off) (fun v => at' v len) tag ++
    (List.range o.size).flatMap (fun e =>
      ringGather h.inner (fun q => off (h.rank e q)) (fun q => len (h.rank e q)) (tag + o.size + e * h.each))

/-- RING or HIER over the chunks of a request's windows. -/
def ringProg (x : SchedIn) (hier : Bool) : List Ent :=
  let n := x.n
  let k := if x.op = 1 then wholeChunks n x.bytes else partChunks x.part
  let ring : RingPos := { size := n, me := x.rank, next := (x.rank + 1) % n, prev := before' n x.rank 1 }
  let h := hierAt x
  let red := if hier then h.devs * h.each + h.devs else n - 1
  let gat := if hier then h.devs + h.devs * h.each else n - 1
  let tags := (if x.op = 3 then 0 else red) + (if x.op = 2 then 0 else gat)
  let body (j : Nat) : List Ent :=
    let off (c : Nat) : Nat := k.start c + j
    let len (c : Nat) : Nat := k.len c j
    let dst := if x.op = 2 then j else off x.rank
    let reduce := if hier then hierReduce h off len dst (j * tags) else ringReduce ring off len dst (j * tags)
    let gather (t : Nat) : List Ent := if hier then hierGather h off len t else ringGather ring off len t
    let own := if len x.rank = 0 then [] else [copyEnt 4 5 j (off x.rank) (len x.rank) 0]
    match x.op with
    | 1 => reduce ++ gather (j * tags + red)
    | 2 => reduce
    | _ => own ++ gather (j * tags)
  overDrups body k.full k.total tags

/-! ### Trees (R224, R225) -/

/-- Children of a position of tree A. -/
def treeKids (n p : Nat) : List Nat := [2 * p + 1, 2 * p + 2].filter (fun k => k < n)
def treeUp (p : Nat) : Nat := (p - 1) / 2

/-- One drupelet of DBT at the member of position p, `rank` naming the rank of a position: the children's values fold into
its own in order, and the root's value comes down. -/
def dbtBody (n p : Nat) (rank : Nat → Nat) (d len : Nat) : List Ent :=
  let up := 2 * d
  let out := if p = 0 then 5 else 3
  let inc := boolNat (p = 0)
  let fold := match treeKids n p with
    | [] => if p = 0 then [copyEnt 4 5 d d len 1] else [sendEnt 4 (rank (treeUp p)) up d 0 len false]
    | [a] => [recvEnt 0 (rank a) up 0 len 0, foldEnt 4 0 out d d len inc true]
    | a :: b :: _ => [recvEnt 0 (rank a) up 0 len 0, recvEnt 1 (rank b) up 0 len 0,
        foldEnt 4 0 2 d 0 len 0 true, foldEnt 2 1 out 0 d len inc true]
  let send := if p = 0 || (treeKids n p).isEmpty then [] else [sendEnt 3 (rank (treeUp p)) up 0 0 len true]
  let down := if p = 0 then [] else [recvEnt 5 (rank (treeUp p)) (up + 1) d len 1]
  fold ++ send ++ down ++ (treeKids n p).map (fun k => sendEnt 5 (rank k) (up + 1) 0 d len false)

/-- DBT: the first ⌈D/2⌉ drupelets go by tree A, the rest by tree B, whose position is NMEMB − 1 − rank. -/
def dbtProg (x : SchedIn) : List Ent :=
  let n := x.n
  let d := drupCount x.bytes
  let half := (d + 1) / 2
  let full := x.bytes / 65536
  let a (j : Nat) : List Ent := dbtBody n x.rank (fun p => p) j (drupLen x.bytes j)
  let b (j : Nat) : List Ent := dbtBody n (n - 1 - x.rank) (fun p => n - 1 - p) (half + j) (drupLen x.bytes (half + j))
  overDrups a (min half full) half 2 ++ overDrups b (full - half) (d - half) 2

/-- BROADCAST: tree A with positions rotated so that ROOT is position 0, drupelet by drupelet. -/
def treeProg (x : SchedIn) : List Ent :=
  let n := x.n
  let p := (x.rank + n - x.root % n) % n
  let rank (q : Nat) : Nat := (q + x.root) % n
  let body (j : Nat) : List Ent :=
    let len := drupLen x.bytes j
    let own := if p = 0 then copyEnt 4 5 j j len 1 else recvEnt 5 (rank (treeUp p)) j j len 1
    own :: (treeKids n p).map (fun k => sendEnt 5 (rank k) j 0 j len false)
  overDrups body (x.bytes / 65536) (drupCount x.bytes) 1

/-- BARRIER: arrivals up tree A and the release down it, as drupelets that carry no bytes. A copy waits for each child's
arrival before this member's own goes up. -/
def barrierProg (x : SchedIn) : List Ent :=
  let n := x.n
  let kids := treeKids n x.rank
  let arrive := (List.range kids.length).flatMap (fun i => [recvEnt i (kids.getD i 0) 0 0 64 0])
    ++ (List.range kids.length).map (fun i => { copyEnt i (i + 2) 0 0 64 0 with freeA := true })
  let up := if x.rank = 0 then []
    else [sendEnt 4 (treeUp x.rank) 0 0 0 64 false, recvEnt 0 (treeUp x.rank) 1 0 64 0, { copyEnt 0 1 0 0 64 0 with freeA := true }]
  arrive ++ up ++ kids.map (fun k => sendEnt 4 k 1 0 0 64 false)

/-! ### CHAIN (R224, R226) -/

/-- This member's left fold of one drupelet: `src` is the buffer that holds the value so far (none for rank 0), `ps` the
partials' drupelet indices. The value ends in the buffer answered. -/
def chainFold (src : Option Nat) (ps : List Nat) (len : Nat) : List Ent × Nat :=
  match src, ps with
  | none, [] => ([], 4)
  | none, p :: r =>
    let t := chainFold (some 0) r len
    (copyEnt 4 0 p 0 len 0 :: t.1, t.2)
  | some b, [] => ([], b)
  | some b, p :: r =>
    let t := chainFold (some (1 - b)) r len
    (foldEnt b 4 (1 - b) p 0 len 0 false :: t.1, t.2)

/-- One drupelet of CHAIN: up the ranks with every partial added in ascending order, and the last rank's value back. Drupelet
j of part m of a partial has index `at' p`; the part's owner for REDUCE_SCATTER is rank m. -/
def chainBody (x : SchedIn) (at' : Nat → Nat) (owner : Option Nat) (dst len tag : Nat) : List Ent :=
  let n := x.n
  let last : Bool := x.rank + 1 = n
  let got := if x.rank = 0 then [] else [recvEnt 0 (x.rank - 1) tag 0 len 0]
  let f := chainFold (if x.rank = 0 then none else some 0) ((List.range x.cpm).map at') len
  let mine : Bool := owner = none || owner = some x.rank
  let pass : Bool := x.rank ≠ 0 && (match owner with
    | none => true
    | some m => decide (m < x.rank))
  let reach : Bool := match owner with
    | none => true
    | some m => decide (m ≤ x.rank)
  let val := if last then f.2 else 2
  let up := if last then [] else [sendEnt f.2 (x.rank + 1) tag 0 0 len true]
  let back := if last || !reach then [] else [recvEnt 2 (x.rank + 1) (tag + 1) 0 len 0]
  let keep := if mine then [{ copyEnt val 5 0 dst len 1 with freeA := !pass }] else []
  let down := if pass then [sendEnt val (x.rank - 1) (tag + 1) 0 0 len true] else []
  got ++ f.1 ++ up ++ back ++ keep ++ down

def chainProg (x : SchedIn) : List Ent :=
  let n := x.n
  if x.cpm = 0 then []
  else if x.op = 1 then
    let d := drupCount x.bytes
    overDrups (fun j => chainBody x (fun p => p * d + j) none j (drupLen x.bytes j) (2 * j)) (x.bytes / 65536) d 2
  else
    let d := drupCount x.part
    (List.range n).flatMap (fun m => overDrups (fun j =>
      chainBody x (fun p => (p * n + m) * d + j) (some m) j (drupLen x.part j) (2 * (m * d + j))) (x.part / 65536) d 2)

/-! ### All-to-all (R225, R228) -/

/-- Direct: the counts first, then this member's own rows, then rank m sends to ranks m + 1, m + 2, … cyclically. Each stream
runs until its rows end, which only the counts tell; its LOOP has the greatest COUNT. -/
def directProg (x : SchedIn) : List Ent :=
  let n := x.n
  let peer (i : Nat) : Nat := (x.rank + i) % n
  let from' (i : Nat) : Nat := before' n x.rank i
  let others := (List.range (n - 1)).map (fun i => i + 1)
  let loop (b : List Ent) : List Ent := b ++ [entLoop b.length (2 ^ 32 - 1) 1 1]
  let counts := if x.op = 6 then
      others.map (fun i => { op := 7, peer := from' i }) ++ others.map (fun i => { op := 6, peer := peer i })
    else []
  counts ++ loop [copyEnt 4 5 0 0 65536 1]
    ++ others.flatMap (fun i => loop [sendEnt 4 (peer i) 1 0 0 65536 false, recvEnt 5 (from' i) 1 0 65536 1])

/-- What the request of a group is compiled from for one of its ranks. -/
def schedIn (nodes : List Nat) (rq rank : Nat) (canon : Bool) : SchedIn :=
  { nodes := nodes, rank := rank, op := rqOp rq, root := rqRoot rq,
    bytes := rqElems rq * fmtBits ((fmtOfCode (rqEtype rq)).getD .fp32) / 8, cpm := rqCpm rq, canon := canon }

/-- The program of a member rank for a request (R225), END last. -/
def compileProg (x : SchedIn) : List Nat :=
  ((match x.algo with
    | .ring => ringProg x false
    | .hier => ringProg x true
    | .dbt => dbtProg x
    | .tree => treeProg x
    | .barrier => barrierProg x
    | .chain => chainProg x
    | .direct => directProg x) ++ [entEnd]).map Ent.bits

end Sys2Proof.Machine
end

