-- ==== Sys2Proof/Machine/FabricOps.lean ====
section
/-! DEFINITION. Fabric ports, paths and the sending of UCT frames (spec 10: R239, R243, R244, R247 to R254). -/
namespace Sys2Proof.Machine
open Sys2Proof

abbrev stCollFault : Nat := 0x4A
abbrev stPeerAbort : Nat := 0x4B
abbrev stMemberLost : Nat := 0x4C
abbrev stLayout : Nat := 0x4D

def fport (s : State) (p : Nat) : FPort := mapGet {} s.fb.ports p
def fportSet (s : State) (p : Nat) (x : FPort) : State := { s with fb := { s.fb with ports := mapSet s.fb.ports p x } }

/-- UCT_CFG.NODE (R244). -/
def nodeOf (s : State) : Nat := bitsOf s.fb.cfg.toNat 31 16

/-- The valid allow-list entry of lowest index that names a node (R244). -/
def allowFind (s : State) (node : Nat) : Option W64 :=
  (s.fb.allow.find? (fun e => e.2.getLsbD 32 && e.2.toNat % 65536 = node)).map Prod.snd

/-- Fitted ports through which a node is reached. -/
def nodePorts (s : State) (node : Nat) : List Nat :=
  match allowFind s node with
  | none => []
  | some e => (List.range 16).filter (fun p => bitOf e.toNat (16 + p) && present s.hw (.fport p))

def pathKey (node p : Nat) : Nat := node * 16 + p
def pathAt (s : State) (node p : Nat) : PathSt := mapGet {} s.fb.paths (pathKey node p)
def pathSet (s : State) (node p : Nat) (x : PathSt) : State :=
  { s with fb := { s.fb with paths := mapSet s.fb.paths (pathKey node p) x } }

/-- R243: the port's link may come up. -/
def portMayLink (s : State) (p : Nat) : Bool :=
  (unitAt s (.fport p)).state = .run && (fport s p).ctl.getLsbD 0 && (fport s p).cak.getLsbD 8 && nodeOf s ≠ 0

/-- The port carries UCT frames: its link is UP and MKA is SECURED, or rekeys with its old SAK (R243). -/
def portCarries (s : State) (p : Nat) : Bool :=
  (fport s p).link = 2 && ((fport s p).mka = 2 || (fport s p).mka = 3) && !(fport s p).txBlock

/-- UP paths of a node with room for n frames, whose ports send (R242, R249). -/
def upPorts (s : State) (node n : Nat) : List Nat :=
  (nodePorts s node).filter (fun p => (pathAt s node p).st = 2 && !(fport s p).txBlock
    && (pathAt s node p).unacked.length + n ≤ 16384)

def groupFind (s : State) (id : Nat) : Option Nat := (s.fb.groups.find? (fun e => e.2.id = id)).map Prod.fst
def groupAt (s : State) (g : Nat) : Option Group := mapFind s.fb.groups g
def groupSet (s : State) (g : Nat) (x : Group) : State := { s with fb := { s.fb with groups := mapSet s.fb.groups g x } }
def groupUpd (s : State) (g : Nat) (f : Group → Group) : State :=
  match groupAt s g with
  | some x => groupSet s g (f x)
  | none => s

/-- Every path of a port (keys of the path table with that port). -/
def portPaths (s : State) (p : Nat) : List Nat :=
  (s.fb.paths.filter (fun e => e.1 % 16 = p)).map (fun e => e.1 / 16)

/-- A local member's tile on a lane, and the group that a partition slot of a partition binds. -/
def localAt (g : Group) (t0 : Nat) : Option LocalMem := g.locals.find? (fun m => m.t0 = t0)
def localOfRank (g : Group) (r : Nat) : Option LocalMem := g.locals.find? (fun m => m.rank = r)
def groupOfSlot (s : State) (t0 pslot : Nat) : Option Nat :=
  (s.fb.groups.find? (fun e => e.2.pslot = pslot && (localAt e.2 t0).isSome)).map Prod.fst

/-! ### Sending (R230, R239, R242, R245, R247, R249) -/

/-- One protected frame sent by a port: its bytes on the line, counters, and the packet number with its limits (R242). A port that does
not carry UCT frames, or is stopped, sends none. -/
def portTx (s : State) (p : Nat) (q : PathHdr) (hdr : Nat) (body tag : List Byte) : State :=
  let x := fport s p
  if !(portCarries s p) then s
  else
    let n := x.xpn + 1
    let low := !x.pnLow && 0xC000000000000000 ≤ n.toNat
    let s1 := fportSet s p { x with
      tx := satInc x.tx, retx := if q.retx then satInc x.retx else x.retx, xpn := n, pnLow := x.pnLow || low,
      txBlock := x.txBlock || n = BitVec.allOnes 64, mka := if n = BitVec.allOnes 64 then 4 else x.mka,
      line := frameBytes s.fb.cfg.toNat x.ctl.toNat q x.xpn.toNat hdr body tag }
    if low then unitEvt s1 (.fport p) (2 ^ 18) else s1

/-- The path's fields of a frame that leaves now. PACK travels in every frame (R250). -/
def pathHdr (s : State) (node p pseq : Nat) (retx : Bool) : PathHdr :=
  let x := pathAt s node p
  { src := nodeOf s, dst := node, port := p, epoch := x.pepoch.toNat, pseq := pseq, pack := x.rxNext.toNat, retx := retx }

/-- An ACK, NACK, PROBE or PROBE_RSP leaves a port (Table 10-5): NEXT has been told with it. -/
def sendPlain (s : State) (node p typ pseq : Nat) (body : List Byte) : State :=
  if !(portCarries s p) then s
  else
    let q := pathHdr s node p pseq false
    let x := pathAt s node p
    portTx (pathSet s node p { x with rxPack := x.rxNext }) p q (uctHeader q typ 0 body.length { typ := typ, group := 0 }) body []

/-- The payload counter of a group at a port advances with each encryption (R247). JOIN and GONE are not encrypted. -/
def pctrNext (s : State) (f : UFrame) (p : Nat) : State :=
  match groupFind s f.group with
  | none => s
  | some g => groupUpd s g (fun x =>
      let c := mapGet 0 x.pctr p
      if isClear f then x
      else { x with pctr := mapSet x.pctr p (c + 1),
                    txBytes := if f.typ = 1 then satAdd x.txBytes f.body.length else x.txBytes })

/-- A sequenced frame leaves a port, sealed under the group's key and its next payload counter. -/
def frameTx (s : State) (node p pseq : Nat) (retx : Bool) (f : UFrame) : State :=
  let g := (groupFind s f.group).bind (groupAt s)
  let c := if isClear f then 0 else (g.map (fun x => mapGet 0 x.pctr p)).getD 0
  let q := pathHdr s node p pseq retx
  let hdr := uctHeader q f.typ c (wireBody f).length f
  let b := sealFrame ((g.map Group.key).getD []) q c hdr f
  portTx (pctrNext s f p) p q hdr b.1 b.2

/-- Sends one sequenced frame on a path (R249). -/
def sendOn (s : State) (node p : Nat) (retx : Bool) (f : UFrame) : State :=
  let x := pathAt s node p
  let s1 := pathSet s node p { x with txNext := x.txNext + 1,
                                      unacked := x.unacked ++ [{ pseq := x.txNext, frame := f, retx := retx }],
                                      rxPack := x.rxNext }
  frameTx s1 node p x.txNext.toNat retx f

/-- The UP path that takes a group's next drupelet to a node: the paths take turns in ascending port number (R239). -/
def nextPort (s : State) (group node n : Nat) : Option Nat :=
  let ps := upPorts s node n
  let last := mapGet 16 s.fb.turn (group * 65536 + node)
  match ps.find? (fun p => last < 16 && last < p) with
  | some p => some p
  | none => ps.head?

/-- Two frames are segments of one drupelet on its way to a node. -/
def sameDrup (a b : Nat × UFrame × Bool) : Bool :=
  a.1 = b.1 && a.2.2 = b.2.2 && { a.2.1 with seg := 0, body := [], holes := [] } = { b.2.1 with seg := 0, body := [], holes := [] }

/-- The waiting frames by drupelet; every other frame stands alone. -/
def drupGroups (w : List (Nat × UFrame × Bool)) : List (List (Nat × UFrame × Bool)) :=
  match w with
  | [] => []
  | e :: r =>
    match drupGroups r with
    | (x :: g) :: gs => if e.2.1.typ = 1 && sameDrup e x then (e :: x :: g) :: gs else [e] :: (x :: g) :: gs
    | gs => [e] :: gs

/-- One drupelet goes whole to the path whose turn it is (R239); a frame of the control queue goes to the lowest UP port and takes no turn
(DESIGN CHOICE, log entry 131). Without a path it waits. -/
def assignPort (s : State) (g : List (Nat × UFrame × Bool)) : State × List (Nat × Nat × UFrame × Bool) :=
  match g with
  | [] => (s, [])
  | (node, f, _) :: _ =>
    let port := if f.typ = 1 then nextPort s f.group node g.length else (upPorts s node 1).head?
    match port with
    | none => ({ s with fb := { s.fb with waitq := s.fb.waitq ++ g } }, [])
    | some p =>
      let s1 := if f.typ = 1 then { s with fb := { s.fb with turn := mapSet s.fb.turn (f.group * 65536 + node) p } } else s
      (s1, g.map (fun e => (p, e)))

def gixOf (s : State) (id : Nat) : Nat := (groupFind s id).getD 0
def weightOf (s : State) (gix : Nat) : Nat := ((groupAt s gix).map Group.weight).getD 1

/-- The frames assigned to one port leave in the order of R239. -/
def servePort (asg : List (Nat × Nat × UFrame × Bool)) (s : State) (p : Nat) : State :=
  let mine := (asg.filter (fun e => e.1 = p)).map Prod.snd
  if mine.isEmpty then s
  else
    let r := egressOrder (gixOf s) (weightOf s) (frameSize ((fport s p).ctl.getLsbD 2)) (mapGet {} s.fb.egress p)
      (mine.map Prod.snd)
    let nodeOf' (f : UFrame × Bool) : Nat := ((mine.find? (fun e => e.2 = f)).map Prod.fst).getD 0
    r.1.foldl (fun s f => sendOn s (nodeOf' f) p f.2 f.1) { s with fb := { s.fb with egress := mapSet s.fb.egress p r.2 } }

/-- Frames that wait for a path are assigned and leave, as far as a path is UP. The lines take no time (log entry 131). -/
def serveFabric (s : State) : State :=
  if s.fb.waitq.isEmpty then s
  else
    let r := (drupGroups s.fb.waitq).foldl (fun (a : State × List (Nat × Nat × UFrame × Bool)) g =>
      let x := assignPort a.1 g
      (x.1, a.2 ++ x.2)) ({ s with fb := { s.fb with waitq := [] } }, [])
    (List.range 16).foldl (servePort r.2) r.1

/-- The die-to-die egress that a message between local members takes: none while no route joins their dies, some none within a die. -/
def linkEgress (s : State) (f : UFrame) : Option (Option Nat) :=
  let die (r lane : Nat) : Nat :=
    match ((groupFind s f.group).bind (groupAt s)).bind (fun g => localOfRank g r) with
    | some m => dieOf (.tile (m.t0 + lane))
    | none => 0
  let a := die f.srcRank f.lane
  let b := die f.dstRank f.lane
  if a = b then some none
  else match routeOf (linkUp s) a b with
    | some (k :: _) => some (some (16 + 2 * k + (if (linkEnds k).1 = a then 0 else 1)))
    | _ => none

/-- Messages between local members leave their dies, as far as routes stand, each egress in the order of R230. -/
def serveLinks (s : State) : State :=
  if s.fb.linkq.isEmpty then s
  else
    let near := s.fb.linkq.filter (fun f => linkEgress s f = some none)
    let stay := s.fb.linkq.filter (fun f => linkEgress s f = none)
    let s1 := { s with fb := { s.fb with linkq := stay, msgs := s.fb.msgs ++ near } }
    (List.range 16).foldl (fun s1 k =>
      let mine := s.fb.linkq.filter (fun f => linkEgress s f = some (some (16 + k)))
      if mine.isEmpty then s1
      else
        let r := egressOrder (gixOf s) (weightOf s) (fun f => 64 + (wireBody f).length) (mapGet {} s1.fb.egress (16 + k))
          (mine.map (fun f => (f, false)))
        { s1 with fb := { s1.fb with egress := mapSet s1.fb.egress (16 + k) r.2, msgs := s1.fb.msgs ++ r.1.map Prod.fst } }) s1

/-- Submits frames for a node (R239, R253). A device sends only to nodes of its allow-list (R244); messages between its own members stay on
its die-to-die links. -/
def sendFrames (s : State) (node : Nat) (retx : Bool) (fs : List UFrame) : State :=
  if fs.isEmpty then s
  else if node = nodeOf s then serveLinks { s with fb := { s.fb with linkq := s.fb.linkq ++ fs } }
  else if (allowFind s node).isNone then s
  else serveFabric { s with fb := { s.fb with waitq := s.fb.waitq ++ fs.map (fun f => (node, f, retx)) } }

/-- A path goes DOWN: its unacknowledged frames move to the head of the queue and on to another UP path (R253). -/
def pathDown (s : State) (node p : Nat) : State :=
  let x := pathAt s node p
  if x.st = 0 then s
  else
    let s1 := pathSet s node p { x with st := 0, unacked := [], probed := false, heard := false }
    serveFabric { s1 with fb := { s1.fb with waitq := x.unacked.map (fun e => (node, e.frame, true)) ++ s1.fb.waitq } }

def portDown (s : State) (p : Nat) : State := (portPaths s p).foldl (fun s n => pathDown s n p) s

/-- A path enters PROBING (R248): PEPOCH advances and PSEQ restarts; what it receives on stays as it is. -/
def pathProbe (s : State) (node p : Nat) : State :=
  let x := pathAt s node p
  pathSet s node p { x with st := 1, pepoch := x.pepoch + 1, probed := false, heard := false, txNext := 0 }

/-- Every path of a port that carries frames begins to probe. -/
def portProbe (s : State) (p : Nat) : State :=
  if !(portCarries s p) || (unitAt s (.fport p)).state ≠ .run then s
  else
    let nodes := (s.fb.allow.filter (fun e => e.2.getLsbD 32 && e.2.getLsbD (16 + p))).map (fun e => e.2.toNat % 65536)
    nodes.eraseDups.foldl (fun s n =>
      if (nodePorts s n).contains p && (pathAt s n p).st = 0 then pathProbe s n p else s) s

/-- After a port stopped carrying frames its paths are DOWN. -/
def portCheck (s : State) (p : Nat) : State := if portCarries s p then s else portDown s p

/-- What a port's state does to its link and paths (Table 10-2): quiescing keeps the link, SLEEP, RETIRE and OFF drop it, a
reset also advances every path's PEPOCH and clears the counters, and in RUN the link trains again or the paths probe. -/
def portFollow (s : State) (p : Nat) (st : UState) : State :=
  let x := fport s p
  match st with
  | .quiescing => portDown s p
  | .off | .sleep | .retired => portDown (fportSet s p { x with link := 0, mka := 0 }) p
  | .resetting =>
    let s1 := portDown (fportSet s p { ctl := x.ctl, cak := x.cak }) p
    (portPaths s1 p).foldl (fun s n => pathSet s n p { pathAt s n p with pepoch := (pathAt s n p).pepoch + 1 }) s1
  | .run => if portCarries s p then portProbe s p else if portMayLink s p && x.link = 0 then fportSet s p { x with link := 1 } else s
  | .quiesced => s

/-- A unit enters a state, and a fabric port's link and paths follow. -/
def unitTo (s : State) (u : UnitId) (st : UState) : State :=
  match u with
  | .fport p => if (unitAt s u).state = st then s else portFollow (setUState s u st) p st
  | _ => setUState s u st

end Sys2Proof.Machine
end

