-- ==== Sys2Proof/Machine/Units.lean ====
section
/-! DEFINITION. What unit commands share: who may write, accepting a command, QUIESCE and RESUME with their holds (spec 01
and 02: R20, R26, R30 to R38). -/
namespace Sys2Proof.Machine
open Sys2Proof

/-- R26, R27: who has write access to unit pages. -/
def mayWrite (w : Writer) : Bool :=
  match w with
  | .pf0 | .mgmt | .sec => true
  | _ => false

/-- CMD_SRC code (Table 1-12). -/
def srcCode (w : Writer) : Nat :=
  match w with
  | .pf0 => 0 | .mgmt => 1 | .sec => 2 | _ => 3

/-- Bit of UNIT_CAP.CMDS for a command (Table 1-9). -/
def cmdBit (c : UCmd) : Nat :=
  match c with
  | .quiesce => 0 | .resume => 1 | .reset => 2 | .sleep => 3 | .retire => 4

/-- A command finishes or is refused: CMD_STATUS, CMD_BUSY, CMD_DONE (R20, R30). -/
def cmdDone (s : State) (u : UnitId) (status : Nat) : State :=
  irqEdge (unitSet s u (evtOr { unitAt s u with cmdStatus := status, cmdBusy := false, cmd := none } 2))

/-- R20 cases 1 to 5, and 6 with `go` for an accepted command. -/
def acceptCmd (s : State) (u : UnitId) (w : Writer) (inc : Half) (c : UCmd) (go : State → State) : State :=
  let x := unitAt s u
  if !(present s.hw u) || !(mayWrite w) || !(bar0Unit s w u) then s
  else if x.cmdBusy then unitEvt s u 4
  else if !(bitOf (unitCmds u) (cmdBit c)) then cmdDone s u stDenied
  else if inc ≠ x.inc then cmdDone s u stStale
  else go (unitSet s u { x with cmdBusy := true, cmdSrc := srcCode w, cmd := some c, root := pageOf u,
                                drainLog2 := s.un.tmo.toNat % 32 })

/-- R33: a QUIESCE of the package or of io0 leaves the host ports running. -/
def quiesceScope (hw : Hw) (u : UnitId) : List UnitId :=
  (descendants hw u).filter (fun d => match d with | .hport _ => false | _ => true)

/-- R38: a QUIESCE by the unit of `page` holds the running partition of tile t. -/
def placeHold (s : State) (page t : Nat) : State :=
  partUpd s t (fun p => if p.run.isSome && !(p.holds.contains page) then { p with holds := p.holds ++ [page] } else p)

def placeHoldAt (s : State) (page : Nat) (u : UnitId) : State :=
  match u with
  | .tile t => placeHold s page t
  | _ => s

/-- A QUIESCE (or the first part of a RETIRE) acts on one unit. -/
def quiesceOne (root src : Nat) (s : State) (u : UnitId) : State :=
  let x := unitAt s u
  let s := placeHoldAt s root u
  if x.cmdBusy then
    unitSet s u { x with waiting := x.waiting ++ [(root, .quiesce)] }
  else if x.state = .run then
    unitTo (unitSet s u { x with cmdBusy := true, cmdSrc := src, cmd := some .quiesce, root := root,
                                    brought := some root }) u .quiescing
  else s

/-- The commanded unit enters QUIESCING first, then its descendants (R34). -/
def quiesceGo (s : State) (u : UnitId) : State :=
  let page := pageOf u
  let s1 := placeHoldAt (unitTo s u .quiescing) page u
  (quiesceScope s.hw u).foldl (quiesceOne page (unitAt s u).cmdSrc) s1

/-- A QUIESCED member returns to RUN as its partition's last hold goes; a RESUME of the tile that waited for this completes (R30, R38). -/
def resumeTile (s : State) (t : Nat) : State :=
  let x := unitAt s (.tile t)
  if x.state ≠ .quiesced then s
  else
    let s1 := unitTo s (.tile t) .run
    if x.cmdBusy && x.cmd = some .resume && x.root = pageOf (.tile t) then cmdDone s1 (.tile t) stOk else s1

/-- Member tiles of a partition whose hold count is zero return to RUN (R38). -/
def unholdPart (s : State) (t0 : Nat) : State :=
  match partOf s t0 with
  | none => s
  | some p =>
    if p.holds.isEmpty then
      let s1 := (partTiles p).foldl resumeTile s
      if p.startHeld then
        partUpd (tilesUpd s1 (partTiles p) (fun x => goTo x x.plate.pc)) t0 (fun q => { q with startHeld := false })
      else if p.decided then fetchBeyond (barIssue s1 p (fun _ => none) none) t0
      else s1
    else s

/-- Withdraws every hold that a unit's QUIESCE placed (R38). -/
def withdrawHolds (s : State) (page : Nat) : State :=
  let ks := (s.tl.parts.filter (fun e => e.2.holds.contains page)).map Prod.fst
  let s1 := ks.foldl (fun s k => partUpd s k (fun p => { p with holds := p.holds.filter (fun h => h ≠ page) })) s
  ks.foldl unholdPart s1

/-- A tile that another unit's QUIESCE still holds (R38). -/
def stillHeld (s : State) (u : UnitId) : Bool :=
  match u with
  | .tile t => match partOf s t with
    | some p => !p.holds.isEmpty
    | none => false
  | _ => false

/-- A RESUME acts on one descendant: QUIESCED returns to RUN, SLEEP begins to wake (R34, R36). -/
def resumeOne (root src : Nat) (s : State) (u : UnitId) : State :=
  let x := unitAt s u
  if x.cmdBusy then unitSet s u { x with waiting := x.waiting ++ [(root, .resume)] }
  else if x.state = .quiesced && !(stillHeld s u) then unitTo (unitSet s u { x with cmdSrc := src }) u .run
  else if x.state = .sleep then unitSet s u { x with cmdBusy := true, cmdSrc := src, cmd := some .resume, root := root }
  else s

/-- The unit enters RUN first, then its descendants from the top down; its own hold is removed. A tile that another unit's QUIESCE
still holds stays QUIESCED, its RESUME in progress, until that hold goes (R30, R34, R38). -/
def resumeGo (s : State) (u : UnitId) : State :=
  let s1 := withdrawHolds s (pageOf u)
  let s2 := if (unitAt s1 u).state = .run then s1
    else if (unitAt s1 u).state = .quiesced && stillHeld s1 u then s1
    else cmdDone (unitTo s1 u .run) u stOk
  (descendants s.hw u).foldl (resumeOne (pageOf u) (unitAt s u).cmdSrc) s2

/-- R151: array paths, vector pipes and stream units neither running nor pending, nothing in flight and no append on its way. -/
def tileIdle (x : Tile) : Bool :=
  pathIdle x.arr.stream && pathIdle x.arr.weight && pathIdle x.arr.drain && pathIdle x.pipe0 && pathIdle x.pipe1
    && x.str.all (fun e => pathIdle e.2.path) && x.bat.appends.isEmpty && x.flight.isEmpty

/-- R46: a requester that leaves RESETTING loads every target incarnation. -/
def loadIncs (s : State) (u : UnitId) : State :=
  let page := pageOf u
  { s with un := { s.un with incTab := s.un.tab.foldl (fun m e => mapSet m (page * 65536 + e.1) e.2.inc) s.un.incTab } }

/-- R53: a member that returns to RUN after a commit point learns the outcome from the commit record and has thereby applied its part; a
member of an ACTIVATE transaction applies it in its turn (R424). -/
def recordApplied (s : State) (u : UnitId) : State :=
  { s with un := { s.un with txns := s.un.txns.map (fun e =>
      (e.1, if e.2.kind ≠ 3 && e.2.phase = .committed then
        { e.2 with members := e.2.members.map (fun m =>
            if m.page = pageOf u && (m.st = .counted || m.st = .prepared) then { m with st := .applied } else m) }
      else e.2)) } }

/-- R185, R53: a member tile that returns to RUN reloads its STEP copy from the partition record. -/
def reloadStep (s : State) (u : UnitId) : State :=
  match u with
  | .tile t =>
    match partOf s t with
    | none => recordApplied s u
    | some p => recordApplied (tileSet s t { tileAt s t with stepCopy := p.step }) u
  | _ => recordApplied s u

end Sys2Proof.Machine
end

