-- ==== Sys2Proof/Machine/TileOps.lean ====
section
/-! DEFINITION. Shared operations of the tile commands: strokes and their registers, the loop engine, paths with
pending registers, faults at issue and the effects of operations (spec 04 to 07). -/
namespace Sys2Proof.Machine
open Sys2Proof

/-! ### Strokes -/

/-- The tile is issuing strokes of a running plate (R134). A tile that is QUIESCING issues on to its barrier (R38). -/
def issuing (s : State) (t : Nat) : Bool :=
  t < 512 && (tileAt s t).plate.pstate = .issuing
    && ((unitAt s (.tile t)).state = .run || (unitAt s (.tile t)).state = .quiescing)
    && (match partOf s t with
      | some p => p.run.isSome
      | none => false)

/-- The registers that every slot of the stroke reads (R135). -/
def strokeRegs (x : Tile) : Regs := x.plate.inStroke.getD x.regs

/-- FLOW of a stroke (Table 6-4). -/
inductive Flow where
  | none'
  | loop (cnt body : Nat)
  | call (target : Nat)
  | ret
  deriving DecidableEq, Repr

/-- What R140 answers: the next address with the stacks, or the source of a plate fault with the address of the stroke at fault. -/
inductive FlowRes where
  | go (next : Nat) (loops : List Loop) (calls : List Nat)
  | fault (source addr : Nat)
  deriving DecidableEq, Repr

/-- The innermost loop belongs to the current call depth and ends before `fin`. -/
def loopBeyond (p : Plate) (fin : Nat) : Bool :=
  match p.loops with
  | l :: _ => l.cdepth = p.calls.length && fin > l.fin
  | [] => false

/-- The innermost loop was started at the current call depth. -/
def loopHere (p : Plate) : Bool :=
  match p.loops with
  | l :: _ => l.cdepth = p.calls.length
  | [] => false

/-- R140 up to its closing loop. -/
def flowStep (p : Plate) (f : Flow) : FlowRes :=
  match f with
  | .none' => .go (p.pc + 1) p.loops p.calls
  | .loop cnt body =>
    let fin := p.pc + 1 + body
    if cnt = 0 then .go (fin + 1) p.loops p.calls
    else if p.loops.length ≥ 4 then .fault 3 p.pc
    else if loopBeyond p fin then .fault 3 p.pc
    else .go (p.pc + 1) ({ start := p.pc + 1, fin := fin, cnt := cnt, idx := 0, cdepth := p.calls.length } :: p.loops) p.calls
  | .call target => if p.calls.length ≥ 4 then .fault 4 p.pc else .go target p.loops ((p.pc + 1) :: p.calls)
  | .ret =>
    match p.calls with
    | [] => .fault 4 p.pc
    | a :: r =>
      if loopHere p then .fault 4 p.pc
      else .go a p.loops r

/-- R140 whole: an ABORT_STEP continuation replaces the next address. -/
def flowNext (p : Plate) (nstrokes : Nat) (f : Flow) : FlowRes :=
  match flowStep p f with
  | .fault k a => .fault k a
  | .go n loops calls =>
    let c := closeLoops p.pc calls.length loops n
    let next := p.jump.getD c.2
    if next ≥ nstrokes then .fault 1 next else .go next c.1 calls

/-- Cycles from a stroke to the next: a CALL or RET leaves two bubbles (Table 6-12). -/
def flowCycles (f : Flow) : Nat :=
  match f with
  | .none' => 1
  | .loop _ _ => 1
  | .call _ => 3
  | .ret => 3

/-- The stroke ends: ISSUE_CNT counts it and the loop engine takes the next address (R140). -/
def endStroke (s : State) (t : Nat) (f : Flow) : State :=
  let x := tileAt s t
  if x.plate.pstate ≠ .issuing then s
  else if x.plate.ending then
    tileSettle (tileSet s t (parkTile { x with plate := { x.plate with issueCnt := satInc x.plate.issueCnt } })) t
  else match flowNext x.plate (nstrokesOf s t) f with
    | .fault k a =>
      plateFault (tileSet s t { x with plate := { x.plate with pc := a, inStroke := none, issueCnt := satInc x.plate.issueCnt } }) t k
    | .go n loops calls =>
      tileLand (tileSet s t (goTo { x with plate := { x.plate with loops := loops, calls := calls,
                                                                    issueCnt := satInc x.plate.issueCnt } } n)) t (flowCycles f)

/-- The plate-cache words of the stroke at pc are uncorrectable, or were when the fetcher read them: its slots read zero (R86). -/
def strokeLost (x : Tile) : Bool :=
  x.num.ue.contains (.plate (x.plate.pc % 1024)) || x.plate.blank.contains (x.plate.pc % 1024)

/-- Opens the stroke: later slots read the registers as they stand now (R135). Reading the plate cache meets its uncorrectable words
(R86, SOURCE 15). -/
def openStroke (s : State) (t : Nat) : State :=
  let x := tileAt s t
  match x.plate.inStroke with
  | some _ => s
  | none =>
    let s1 := tileSet s t { x with plate := { x.plate with inStroke := some x.regs, used := [] } }
    if x.num.ue.contains (.plate (x.plate.pc % 1024)) then tileSramUe s1 t 15 (x.plate.pc % 1024) else s1

/-- The first of the slots that may carry an operation and that the stroke has not used yet (Table 6-1). -/
def slotFree (x : Tile) (slots : List Nat) : Option Nat := slots.find? (fun k => !((x.plate.inStroke.isSome) && x.plate.used.contains k))

/-- An operation in one slot of the stroke being issued; the last one ends the stroke. `slots` are the slots that may carry it: a stroke whose
slots for it have issued has no place for another (R137, R144), and the command is none of this stroke's. -/
def slotDo (s : State) (t : Nat) (slots : List Nat) (more : Bool) (act : State → State) : State :=
  if !(issuing s t) then s
  else match slotFree (tileAt s t) slots with
    | none => s
    | some k =>
      let s1 := openStroke s t
      let x := tileAt s1 t
      let s2 := tileSet s1 t { x with plate := { x.plate with used := k :: x.plate.used } }
      let s3 := if strokeLost x then s2 else act s2
      if more then s3 else endStroke s3 t .none'

/-! ### Registers -/

def sreg (r : Regs) (i : Nat) : W64 := mapGet 0 r.s i
def xlane (r : Regs) (i k : Nat) : W32 := mapGet 0 r.x (i * 8 + k)
def tdreg (r : Regs) (i : Nat) : BitVec 1024 := mapGet 0 r.td i

/-- LIDX k: iteration index of the loop at nesting level k, outermost 0 (Table 6-3). -/
def lidx (p : Plate) (k : Nat) : Nat :=
  match p.loops.reverse.drop k with
  | l :: _ => l.idx
  | [] => 0

/-- Table 6-3: the special registers; S8 to S63 from the registers given. -/
def sRead (s : State) (t : Nat) (r : Regs) (i : Nat) : W64 :=
  let x := tileAt s t
  if i < 8 then
    match partOf s t with
    | none => 0
    | some p =>
      match i with
      | 0 => BitVec.ofNat 64 (t - p.t0)
      | 1 => BitVec.ofNat 64 (2 ^ p.log2n)
      | 2 => x.stepCopy
      | 3 => BitVec.ofNat 64 p.outcome
      | k => BitVec.ofNat 64 (lidx x.plate (k - 4))
  else if x.num.ue.contains (.sreg i) then 0
  else sreg r i

/-- An S register as the slots of the current stroke read it. -/
def sVal (s : State) (t i : Nat) : W64 := sRead s t (strokeRegs (tileAt s t)) i

/-- An S register is due to be written in `left` cycles. -/
def sDue (x : Tile) (i left : Nat) : Bool :=
  x.plate.due.any (fun e => e.left = left && (match e.op with
    | .sreg j _ => j = i
    | _ => false))

/-- The value that a write to S i leaves `left` cycles from now: a free value when an earlier operation writes the register in
that same cycle, which no rule orders (log entry 20). -/
def sClash (s : State) (t i left : Nat) (v : W64) : State × W64 :=
  let x := tileAt s t
  if sDue x i left then
    (tileSet { s with free := s.free + 1 } t { x with plate := { x.plate with due := x.plate.due.filter (fun e =>
      !(e.left = left && (match e.op with
        | .sreg j _ => j = i
        | _ => false))) } }, Config.freeReg s.free)
  else (s, v)

/-- Writes an S register for the next stroke (Table 6-12, E + 1). -/
def sWrite (s : State) (t i : Nat) (v : W64) : State :=
  let c := sClash s t i 1 v
  tileSet c.1 t (sregPut (tileAt c.1 t) i c.2)

/-- Writes an S register `left` cycles from now. -/
def sWriteLater (s : State) (t i left : Nat) (v : W64) : State :=
  let c := sClash s t i left v
  tileSet c.1 t (duePush (tileAt c.1 t) left (.sreg i c.2))

/-- Counts the uncorrectable S registers among those an operation reads (R86, SOURCE 14). -/
def noteS (s : State) (t : Nat) (is : List Nat) : State :=
  tileReadUe s t (fun w => match w with
    | .sreg i => if is.contains i then some 14 else none
    | _ => none)

def noteX (s : State) (t : Nat) (ws : List Nat) : State :=
  tileReadUe s t (fun w => match w with
    | .xreg i => if ws.contains i then some 14 else none
    | _ => none)

/-- An index lane as a reader receives it (R86). -/
def xEff (x : Tile) (r : Regs) (i k : Nat) : W32 := if x.num.ue.contains (.xreg (3 * i + k / 2)) then 0 else xlane r i k

/-- Writes lane k of X i. A lane is half a protected word: over an uncorrectable word the write is not performed and
the error is counted (R86). -/
def xWrite (s : State) (t i k : Nat) (v : W32) : State :=
  if (tileAt s t).num.ue.contains (.xreg (3 * i + k / 2)) then tileSramUe s t 14 (3 * i + k / 2)
  else
    let x := tileAt s t
    tileSet s t { x with regs := { x.regs with x := mapSet x.regs.x (i * 8 + k) v } }

/-- Writes all six lanes of X i, which replaces its words. -/
def xWriteAll (s : State) (t i : Nat) (v : Nat → W32) : State :=
  let x := tileAt s t
  tileSet s t { x with regs := { x.regs with x := (List.range 6).foldl (fun m k => mapSet m (i * 8 + k) (v k)) x.regs.x },
                       num := { x.num with ue := x.num.ue.filter (fun w => match w with
                         | .xreg j => j / 3 ≠ i
                         | _ => true) } }

/-- A descriptor register as a latching command receives it: zero for uncorrectable words (R86). -/
def tdEff (x : Tile) (r : Regs) (i : Nat) : BitVec 1024 :=
  (List.range 16).foldl (fun v k => if x.num.ue.contains (.td (16 * i + k))
    then v &&& ~~~(BitVec.ofNat 1024 (0xFFFFFFFFFFFFFFFF <<< (64 * k))) else v) (tdreg r i)

/-- An arrival token; AT31 reflects READY (Table 6-2). -/
def tokenAt (x : Tile) (i : Nat) : Nat :=
  if i = 31 then boolNat x.bat.ready else (mapGet 0 x.regs.tok i).toNat

/-- R149: increments saturate at 2^20 − 1. -/
def tokenAdd (s : State) (t i n : Nat) : State :=
  if i ≥ 31 then s
  else
    let x := tileAt s t
    tileSet s t { x with regs := { x.regs with tok := mapSet x.regs.tok i (satAdd (mapGet 0 x.regs.tok i) n) } }

/-- Six signed lanes of an index register. -/
def lanes (x : Tile) (r : Regs) (i : Nat) : Lanes :=
  (List.range 6).map (fun k => (xEff x r i k).toInt)

/-- R110: what a command latches in the cycle of its stroke. -/
def latch (s : State) (t : Nat) (tds xs : List Nat) (sr : Nat) : Latched :=
  let x := tileAt s t
  let r := strokeRegs x
  { step := x.stepCopy.toNat, pc := x.plate.pc,
    descs := reachDescs (tdEff x r) tds,
    xs := xs.foldl (fun m i => mapSet m i (lanes x r i)) [], sreg := (sRead s t r sr).toNat }

/-- Descriptor registers whose words are uncorrectable are counted when latched, with the engine's SOURCE, and index registers with the scalar
unit's (R86, Table 3-13). -/
def noteLatch (s : State) (t source : Nat) (tds xs : List Nat) : State :=
  tileReadUe s t (fun w => match w with
    | .td i => if tds.contains (i / 16) then some source else none
    | .xreg i => if xs.contains (i / 3) then some 14 else none
    | _ => none)

/-! ### Faults at issue (R105, R132, R177, R472) -/

def descFault (s : State) (t status engine pc reg : Nat) : State := tileErr s t status engine pc reg

/-- First descriptor that R131 refuses, in field order. -/
def firstBad (l : Latched) (named : List (Nat × Bool)) (ok : TDesc → Bool → Bool) : Option Nat :=
  (named.find? (fun p => !(ok (latDesc l p.1) p.2))).map Prod.fst

/-- First written descriptor that fails the aliasing test (R115). -/
def firstAlias (l : Latched) (named : List (Nat × Bool)) : Option Nat :=
  (named.find? (fun p => p.2 && !(aliasWriteOk l (latDesc l p.1)))).map Prod.fst

/-! ### Paths (R91, R122, R167) -/

/-- Puts the outcome of an operation into the state: the tile, its flags, and the words it could not write (R86), each recorded
with its writer's SOURCE and its address. -/
def fxApply (s : State) (t source : Nat) (x : Tile) (evs : List FlagEv) (bad : List Nat) : State :=
  bad.foldl (fun s w => tileSramUe s t source (8 * w)) (tileFlags (tileSet s t x) t evs)

/-- An accepted command of an array or vector path: its effective issue is this cycle when the path is idle, else it waits in the pending
register (R91). -/
def takeLocal (s : State) (t : Nat) (p : PathId) (c : PathCmd) : State :=
  let x := tileAt s t
  if (pathOf x p).run.isNone then
    let r := pathBegin (seedOf s t) p c x
    tileNotes (tileSet s t r.1) t r.2
  else tileSet s t (pathPut x p { pathOf x p with pend := some c })

end Sys2Proof.Machine
end

