-- ==== Sys2Proof/Machine/Scalar.lean ====
section
/-! DEFINITION. Scalar and index operations, TDLOAD and TDBASE, and the loop engine (spec 06, R138 to R143). -/
namespace Sys2Proof.Machine
open Sys2Proof

/-- A scalar operation: S[dst] := f of the values of its sources, which are read before any slot writes (R135). -/
def scalarOp (t dst : Nat) (srcs : List Nat) (more : Bool) (f : (Nat → W64) → W64) (s : State) : Out :=
  .next (slotDo s t [slSop] more (fun s => sWrite (noteS s t srcs) t dst (f (sVal s t))))

/-- Table 6-5: signed 14-bit immediate. -/
def imm64 (imm : BitVec 14) : W64 := imm.signExtend 64

def execAddi (t dst sa : Nat) (imm : BitVec 14) (more : Bool) (s : State) : Out :=
  scalarOp t dst [sa] more (fun r => r sa + imm64 imm) s
def execScalarAdd (t dst sa sb : Nat) (more : Bool) (s : State) : Out :=
  scalarOp t dst [sa, sb] more (fun r => r sa + r sb) s
def execScalarSub (t dst sa sb : Nat) (more : Bool) (s : State) : Out :=
  scalarOp t dst [sa, sb] more (fun r => r sa - r sb) s
/-- MUL: effect at E + 3 (Table 6-12). -/
def execScalarMul (t dst sa sb : Nat) (more : Bool) (s : State) : Out :=
  .next (slotDo s t [slSop] more (fun s => sWriteLater (noteS s t [sa, sb]) t dst 3 (sVal s t sa * sVal s t sb)))
def execSAnd (t dst sa sb : Nat) (more : Bool) (s : State) : Out :=
  scalarOp t dst [sa, sb] more (fun r => r sa &&& r sb) s
def execSOr (t dst sa sb : Nat) (more : Bool) (s : State) : Out :=
  scalarOp t dst [sa, sb] more (fun r => r sa ||| r sb) s
def execSXor (t dst sa sb : Nat) (more : Bool) (s : State) : Out :=
  scalarOp t dst [sa, sb] more (fun r => r sa ^^^ r sb) s
/-- Shift amount IMM[5:0]. -/
def shamt (imm : BitVec 14) : Nat := imm.toNat % 64
def execShli (t dst sa : Nat) (imm : BitVec 14) (more : Bool) (s : State) : Out :=
  scalarOp t dst [sa] more (fun r => r sa <<< shamt imm) s
def execShri (t dst sa : Nat) (imm : BitVec 14) (more : Bool) (s : State) : Out :=
  scalarOp t dst [sa] more (fun r => r sa >>> shamt imm) s
def execSrai (t dst sa : Nat) (imm : BitVec 14) (more : Bool) (s : State) : Out :=
  scalarOp t dst [sa] more (fun r => (r sa).sshiftRight (shamt imm)) s
def execScalarMin (t dst sa sb : Nat) (more : Bool) (s : State) : Out :=
  scalarOp t dst [sa, sb] more (fun r => if (r sa).sle (r sb) then r sa else r sb) s
def execScalarMax (t dst sa sb : Nat) (more : Bool) (s : State) : Out :=
  scalarOp t dst [sa, sb] more (fun r => if (r sa).sle (r sb) then r sb else r sa) s
def execSel (t dst sa sb : Nat) (more : Bool) (s : State) : Out :=
  scalarOp t dst [sa, sb, dst] more (fun r => if r sb ≠ 0 then r sa else r dst) s

/-- LI: bits 14k + 13 to 14k for k below 4, bits 63:56 for k = 4; other bits stay. -/
def liVal (old : W64) (k : Nat) (imm : BitVec 14) : W64 :=
  let w := if k < 4 then 14 else 8
  let lo := if k < 4 then 14 * k else 56
  let m := BitVec.ofNat 64 ((2 ^ w - 1) <<< lo)
  (old &&& ~~~m) ||| BitVec.ofNat 64 ((imm.toNat % 2 ^ w) <<< lo)

/-- LI writes part of a register word; over an uncorrectable word it is not performed (R86). -/
def execLi (t dst k : Nat) (imm : BitVec 14) (more : Bool) (s : State) : Out :=
  .next (slotDo s t [slSop] more (fun s =>
    if k > 4 then s
    else if (tileAt s t).num.ue.contains (.sreg dst) then tileSramUe s t 14 dst
    else sWrite s t dst (liVal (sVal s t dst) k imm)))

/-- Scratchpad bytes. -/
def spSize : Nat := 786432

/-- SLD and SST address: S[SA] + sext(IMM) · 8, wrapping. -/
def spAddr (a : W64) (imm : BitVec 14) : W64 := a + imm64 imm * 8

def spAddrOk (a : W64) : Bool := a.toNat % 8 = 0 && a.toNat < spSize

/-- SLD (R142): the scratchpad word is read at E + 2 and the S register written at E + 6; a bad address is a plate fault with
source MEMADDR. -/
def execSld (t dst sa : Nat) (imm : BitVec 14) (hw : HwErr) (more : Bool) (s : State) : Out :=
  .next (slotDo s t [slSop] more (fun s =>
    let a := spAddr (sVal s t sa) imm
    let s := tileSram (noteS s t [sa]) t hw
    if !(spAddrOk a) then plateFault s t 7
    else tileSet s t (duePush (tileAt s t) 2 (.sld a.toNat dst))))

/-- SST: the word is visible to reads from E + 4. -/
def execSst (t sa sb : Nat) (imm : BitVec 14) (hw : HwErr) (more : Bool) (s : State) : Out :=
  .next (slotDo s t [slSop] more (fun s =>
    let a := spAddr (sVal s t sa) imm
    let v := sVal s t sb
    let s := tileSram (noteS s t [sa, sb]) t hw
    if !(spAddrOk a) then plateFault s t 7
    else tileSet s t (duePush (tileAt s t) 4 (.sst a.toNat v))))

/-- XSET, XADDI and XADD write one lane; lanes above 5 do not exist (R142). -/
def laneOp (t dst lane : Nat) (srcs : List Nat) (more : Bool) (f : W32 → State → W32) (s : State) : Out :=
  .next (slotDo s t [slSop] more (fun s =>
    if lane > 5 then s
    else
      let x := tileAt s t
      xWrite (noteS s t srcs) t (dst % 16) lane (f (xEff x (strokeRegs x) (dst % 16) lane) s)))

def execXset (t dst lane sa : Nat) (more : Bool) (s : State) : Out :=
  laneOp t dst lane [sa] more (fun _ s => (sVal s t sa).setWidth 32) s
def execXaddi (t dst lane : Nat) (imm : BitVec 14) (more : Bool) (s : State) : Out :=
  laneOp t dst lane [] more (fun old _ => old + imm.signExtend 32) s
def execXadd (t dst lane sa : Nat) (more : Bool) (s : State) : Out :=
  laneOp t dst lane [sa] more (fun old s => old + (sVal s t sa).setWidth 32) s
def execXcopy (t dst sa : Nat) (more : Bool) (s : State) : Out :=
  .next (slotDo s t [slSop] more (fun s =>
    let x := tileAt s t
    let r := strokeRegs x
    xWriteAll (noteX s t [3 * sa, 3 * sa + 1, 3 * sa + 2]) t dst (fun k => xEff x r sa k)))
def execXget (t dst sa lane : Nat) (more : Bool) (s : State) : Out :=
  .next (slotDo s t [slSop] more (fun s =>
    if lane > 5 then s
    else
      let x := tileAt s t
      sWrite (noteX s t [3 * sa + lane / 2]) t dst ((xEff x (strokeRegs x) sa lane).signExtend 64)))

/-- TDLOAD (R143): the 128-byte image at S[SREG] + IMM · 64, read at E + 1 and E + 2 and latched from E + 4; outside the
scratchpad it is a plate fault MEMADDR. -/
def execTdload (t td sreg imm : Nat) (hw : HwErr) (more : Bool) (s : State) : Out :=
  .next (slotDo s t [slLda] more (fun s =>
    let a := (sVal s t sreg).toNat + (imm % 16384) * 64
    let s := tileSram (noteS s t [sreg]) t hw
    if a + 128 > spSize then plateFault s t 7
    else tileSet s t (duePush (tileAt s t) 1 (.tdLo a td))))

/-- Bit position of BASE or BASE2 in a descriptor (Table 5-1). -/
def basePos (second : Bool) : Nat := if second then 64 else 0

/-- TDBASE: S[SREG][47:0] to BASE or BASE2 of a descriptor, other fields unchanged. -/
def tdbaseVal (old : BitVec 1024) (second : Bool) (v : W64) : BitVec 1024 :=
  (old &&& ~~~(BitVec.ofNat 1024 ((2 ^ 48 - 1) <<< basePos second)))
    ||| BitVec.ofNat 1024 ((v.toNat % 2 ^ 48) <<< basePos second)

/-- A TDLOAD of the register takes effect in the same cycle as a TDBASE: the field holds a free value (log entry 20). -/
def tdClash (x : Tile) (td : Nat) (second : Bool) (v : W64) : Tile :=
  { x with plate := { x.plate with due := x.plate.due.map (fun e => match e.op with
      | .td i w => if e.left = 1 && i = td then { e with op := .td i (tdbaseVal w second v) } else e
      | _ => e) } }

def execTdbase (t td sreg : Nat) (second : Bool) (more : Bool) (s : State) : Out :=
  .next (slotDo s t [slLda, slLdb, slXf] more (fun s =>
    let w := 16 * td + (if second then 1 else 0)
    let v := sVal s t sreg
    let s := noteS s t [sreg]
    if (tileAt s t).num.ue.contains (.td w) then tileSramUe s t 14 w
    else
      let x := tdClash (tileAt s t) td second (Config.freeReg s.free)
      tileSet { s with free := s.free + 1 } t
        { x with regs := { x.regs with td := mapSet x.regs.td td (tdbaseVal (tdreg x.regs td) second v) } }))

/-- A FLOW operation closes its stroke: it is the stroke's last command (R139, R140). -/
def flowDo (s : State) (t : Nat) (f : State → Flow) : State :=
  if !(issuing s t) || (slotFree (tileAt s t) [slFlow]).isNone then s
  else
    let s1 := openStroke s t
    endStroke s1 t (if strokeLost (tileAt s t) then .none' else f s1)

/-- LSTART with an iteration count of 1 to 4,095 and a body length minus one. -/
def execLstart (t count body : Nat) (s : State) : Out := .next (flowDo s t (fun _ => .loop count body))
/-- LSTART_S: the count is S[..][31:0]. -/
def execLstartS (t sreg body : Nat) (s : State) : Out :=
  .next (flowDo (if issuing s t then noteS s t [sreg] else s) t (fun s => .loop ((sVal s t sreg).toNat % 2 ^ 32) body))
def execCall (t target : Nat) (s : State) : Out := .next (flowDo s t (fun _ => .call target))
def execRet (t : Nat) (s : State) : Out := .next (flowDo s t (fun _ => .ret))

end Sys2Proof.Machine
end

