-- ==== Sys2Proof/Machine/Txn.lean ====
section
/-! DEFINITION. Messages and timers of hardware transactions (spec 02, R49 to R54; gate and commit of a step, spec 08,
R188 to R191). -/
namespace Sys2Proof.Machine
open Sys2Proof

def memberTo (s : State) (tid : Nat) (x : Txn) (u : UnitId) (st : MemberSt) : State :=
  txnSet s tid (memberUpd x (pageOf u) (fun m => { m with st := st }))

/-- R16: a route joins the coordinator and a member; without one their messages wait at their source. -/
def msgRoute (s : State) (x : Txn) (u : UnitId) : Bool := (unitOfPage x.coord).all (fun c => joined s c u)

/-- A message between the coordinator and a member is kept from its receiver: no route exists, or the cluster buffers it for a moving tile
(R16, R56). -/
def msgHeld (s : State) (x : Txn) (u : UnitId) : Bool := !(msgRoute s x u) || (movingTile s u).isSome

/-- Every member has enrolled: the coordinator of a live substitution sends PREPARE, so that the votes are in before the tile moves
(R51, R56; DEDUCED, log entry 119). The other kinds send it at an event of their own. -/
def substEnrolled (s : State) (tid : Nat) : State :=
  match mapFind s.un.txns tid with
  | none => s
  | some x =>
    if x.kind = 2 && x.phase = .open && x.members.all (fun m => m.st = .enrolled) then txnSet s tid { x with phase := .preparing } else s

/-- TXN_ENROL (R50): a member in RUN records the TID and its incarnation; any other refuses and the transaction
aborts. A message to a tile whose state moves to the spare stays buffered by its cluster (R56). -/
def execTxnEnrol (tid : Nat) (u : UnitId) (inc : Half) (s : State) : Out :=
  match mapFind s.un.txns tid with
  | none => .next s
  | some x =>
    if !(txnLive x) || memberSt x (pageOf u) ≠ some .invited || msgHeld s x u then .next s
    else
      match txnRefusal (unitAt s u) inc false with
      | some st => .next (txnAbort (countStale s st) tid (refusalCause st))
      | none => .next (substEnrolled (txnSet s tid (memberUpd x (pageOf u) (fun m => { m with st := .enrolled, inc := inc }))) tid)

/-- Gate conditions INV, OVF and ERR of Table 8-1 on a member tile. -/
def memberGate (s : State) (p : Part) (t : Nat) : Nat :=
  let n := (tileAt s t).num.nstep &&& engMask p.gateMask
  let f := foldFlags n
  (if bitOf f 3 then 1 else 0) + (if p.gateOvf && bitOf f 0 then 2 else 0) + (if p.err then 4 else 0)

/-- A member's own part at PREPARE: the failed gate bits of a STEP transaction, none for the other kinds. -/
def prepareGate (s : State) (x : Txn) (u : UnitId) : Nat :=
  match x.kind, u with
  | 1, .tile t => match partOf s x.key with
    | some p => memberGate s p t
    | none => 0
  | _, _ => 0

/-- TXN_PREPARE (R51, R188): a member evaluates its part and answers PREPARED or ABORT. -/
def execTxnPrepare (tid : Nat) (u : UnitId) (inc : Half) (s : State) : Out :=
  match mapFind s.un.txns tid with
  | none => .next s
  | some x =>
    if x.phase ≠ .preparing || memberSt x (pageOf u) ≠ some .enrolled || msgHeld s x u then .next s
    else
      match txnRefusal (unitAt s u) inc true with
      | some st => .next (txnAbort (countStale s st) tid (refusalCause st))
      | none =>
        let g := prepareGate s x u
        .next (memberTo s tid { x with gate := Nat.lor x.gate g } u (if g = 0 then .prepared else .refused))

/-- Coordinator's gate conditions of Table 8-1: COLL, END, MON and, for a catch-up, VOTE. -/
def coordGate (p : Part) : Nat :=
  (if p.sinceOpen > 0 then 8 else 0) + (if p.step = BitVec.allOnes 64 then 16 else 0) + (if p.monBad then 32 else 0)
    + (if p.catchUp && p.step + 1 ≠ p.grpStep then 64 else 0)

/-- R200: compares a merged entry's RATIO with the thresholds: none, or whether it is above HI or NaN. -/
def monCompare (thr : W64) (ratio : Nat) : Option Bool :=
  let r := elemVal .fp32 ratio
  let lo := thr.toNat % 2 ^ 32
  let hi := thr.toNat >>> 32
  if fisNan r then some true
  else if hi ≠ 0 && flt (elemVal .fp32 hi) r then some true
  else if lo ≠ 0 && flt r (elemVal .fp32 lo) then some false
  else none

/-- R200: one recorded entry in MON_HIT (Table 8-13). -/
def monHitRecord (hit : W32) (tag : Nat) (high : Bool) : W32 :=
  if hit.getLsbD 31 then
    let c := min 4095 (bitsOf hit.toNat 27 16 + 1)
    BitVec.ofNat 32 (hit.toNat - (bitsOf hit.toNat 27 16) <<< 16 + c <<< 16)
  else BitVec.ofNat 32 (tag % 4096 + boolNat high <<< 12 + 1 <<< 16 + 2 ^ 31)

def monHits (thr : W64) (hit : W32) (merged : List (Nat × Nat)) : W32 :=
  merged.foldl (fun h e => match monCompare thr e.2 with
    | none => h
    | some b => monHitRecord h e.1 b) hit

/-- The commit point of a STEP transaction: the write of STEP + 1 into the partition record (R185, R189). -/
def stepCommitted (s : State) (tid : Nat) (x : Txn) (p : Part) : State :=
  let hit := monHits p.monThr p.monHit p.merged
  let p1 := { p with step := p.step + 1, opened := false, preparing := false, outcome := stOk, lastOutcome := stOk,
                     lastCause := 0, lastGate := 0, lastValid := true, commitCnt := satInc p.commitCnt, monHit := hit,
                     merged := [], prep := none, behind := p.behind && !p.catchUp, catchUp := false }
  let s1 := partSet (txnSet s tid { x with phase := .committed, record := true }) p1
  let s2 := { s1 with un := { s1.un with commitCnt := satInc s1.un.commitCnt } }
  if p.merged.any (fun e => (monCompare p.monThr e.2).isSome) then unitEvt s2 (.tile p.t0) (2 ^ 19) else s2

/-- R189, R194: with every vote counted and phase 2 ended, the coordinator's gate decides. In group mode the commit
point is the group's record, so the record notes PREP_STEP, its vote's number following as PREPARED is cast; a catch-up casts no vote. -/
def stepDecide (s : State) (tid : Nat) : State :=
  match mapFind s.un.txns tid with
  | none => s
  | some x =>
    if x.phase ≠ .preparing || !(x.members.all (fun m => m.st = .counted)) then s
    else match partOf s x.key with
      | none => s
      | some p =>
        let g := coordGate p
        if g ≠ 0 then txnAbortGate s tid 5 (Nat.lor x.gate g)
        else if !x.merged then s
        else if p.groupEn && !p.catchUp then
          if p.prep.isSome then s else partSet s { p with prep := some (p.step.toNat + 1, 0) }
        else stepCommitted s tid x p

/-- Kinds other than STEP, SUBST and GROUP_COMMIT: the commit record is the coordinator's own (R51). The commit point of a substitution is its
switch (R56). -/
def plainDecide (s : State) (tid : Nat) (x : Txn) : State :=
  if x.kind ≠ 2 && x.members.all (fun m => m.st = .counted) then
    let s1 := txnSet s tid { x with phase := .committed, record := true }
    { s1 with un := { s1.un with commitCnt := satInc s1.un.commitCnt } }
  else s

/-- R188: the failed conditions of every member and of the coordinator. Every member stands at the barrier, so what
each evaluates no longer changes. -/
def gateAll (s : State) (x : Txn) : Nat :=
  if x.kind ≠ 1 then x.gate
  else match partOf s x.key with
    | none => x.gate
    | some p => (partTiles p).foldl (fun g t => Nat.lor g (memberGate s p t)) (Nat.lor x.gate (coordGate p))

/-- A member applies its part: a tile updates its copy of STEP (R185). -/
def applyPart (s : State) (x : Txn) (u : UnitId) : State :=
  match x.kind, u with
  | 1, .tile t => match partOf s x.key with
    | some p => tileSet s t { tileAt s t with stepCopy := p.step }
    | none => s
  | _, _ => s

/-- The stroke of a STEP COMMIT issues once COMMIT has reached every member (R189). -/
def commitReached (s : State) (x : Txn) : State :=
  if x.kind = 1 && x.members.all (fun m => m.st = .applied || m.st = .acked) then fetchBeyond (barDecided s x.key) x.key else s

def txnDel (s : State) (tid : Nat) : State := { s with un := { s.un with txns := mapDel s.un.txns tid } }

def discardMember (s : State) (tid : Nat) (x : Txn) (u : UnitId) : State :=
  let x1 := memberUpd x (pageOf u) (fun m => { m with st := .discarded })
  let s1 := dropTxnOutst s tid (pageOf u)
  if x1.members.all (fun m => m.st = .discarded) then txnDel s1 tid else txnSet s1 tid x1

/-- The incarnation of a member as the transaction has it. -/
def memberInc (x : Txn) (page : Nat) : Half := ((x.members.find? (fun m => m.page = page)).map TxnMember.inc).getD 0

/-- The coordinator takes an answer of a member only with REQ_INC its own incarnation (R40, R44). -/
def coordTakes (s : State) (x : Txn) : Bool :=
  match unitOfPage x.coord with
  | some u => x.msgInc = (unitAt s u).inc
  | none => true

/-- An answer to a message of the coordinator's earlier life is dropped and counted, and the coordinator asks again as it is now. -/
def coordDrops (s : State) (tid : Nat) (x : Txn) : State :=
  match unitOfPage x.coord with
  | some u => txnSet (replyStale s u) tid { x with msgInc := (unitAt s u).inc }
  | none => s

/-- A member's refusal of ABORT (R41): busy, it takes ABORT once it is in RUN; otherwise its part is gone with its former life. -/
def abortHeld (s : State) (x : Txn) (u : UnitId) : Bool :=
  txnRefusal (unitAt s u) (memberInc x (pageOf u)) true = some stBusy || msgHeld s x u

def abortCount (s : State) (x : Txn) (u : UnitId) : State :=
  match txnRefusal (unitAt s u) (memberInc x (pageOf u)) true with
  | some st => countStale s st
  | none => s

/-- TXN_ABORT (R41, R52): a member discards its part. -/
def execTxnAbort (tid : Nat) (u : UnitId) (s : State) : Out :=
  match mapFind s.un.txns tid with
  | none => .next s
  | some x =>
    if x.phase ≠ .aborted || (memberSt x (pageOf u)).isNone || memberSt x (pageOf u) = some .discarded then .next s
    else if abortHeld s x u then .next s
    else .next (discardMember (abortCount s x u) tid x u)

/-- DECISION_QUERY (R53): COMMIT if the commit record exists, otherwise ABORT. An answer of ABORT to an undecided
transaction aborts it with cause TIMEOUT, as the member no longer holds its part (log entry 19). A member of an ACTIVATE
transaction applies its part in its turn (R424). R53 answers ABORT as well where the coordinator's incarnation is no longer the one
enrolled with; beside a commit record that clause would undo a commit, so COMMIT stands (DESIGN CHOICE, log entry 120), and without
one both clauses answer ABORT. A coordinator that waits for its group's decision answers once it knows it (R196). -/
def execDecisionQuery (tid : Nat) (u : UnitId) (s : State) : Out :=
  match mapFind s.un.txns tid with
  | none => .next s
  | some x =>
    if !(x.queries.contains (pageOf u)) || !(msgRoute s x u) then .next s
    else
      let x1 := { x with queries := x.queries.filter (fun p => p ≠ pageOf u) }
      let s1 := txnSet s tid x1
      if x.kind = 1 && (partOf s x.key).any stepInDoubt then .next s
      else if x.record then
        if x.kind ≠ 3 && memberSt x (pageOf u) = some .counted then
          let x2 := memberUpd x1 (pageOf u) (fun m => { m with st := .applied })
          .next (commitReached (txnSet (applyPart s1 x1 u) tid x2) x2)
        else .next s1
      else
        let s2 := txnAbort s1 tid 7
        match mapFind s2.un.txns tid with
        | none => .next s2
        | some x2 => .next (discardMember s2 tid x2 u)

end Sys2Proof.Machine
end

