-- ==== Sys2Proof/Machine/Plate.lean ====
section
/-! DEFINITION. Waits, partition barriers, step control and the other operations of the SY slot, plate fetch and the
end of a run (spec 06 and 08). -/
namespace Sys2Proof.Machine
open Sys2Proof

/-! ### Holds at a wait (R147, R148, R150) -/

/-- The stroke holds at a wait; PLATE_WAIT shows its SY slot (Table 6-18), and HOLD_CNT counts the cycle. -/
def holdWait (x : Tile) (sy : Nat) : Tile :=
  { x with plate := { x.plate with pstate := .heldWait, held := BitVec.ofNat 32 sy, holdCnt := satInc x.plate.holdCnt } }

def unholdWait (x : Tile) : Tile :=
  if x.plate.pstate = .heldWait then { x with plate := { x.plate with pstate := .issuing, held := 0 } } else x

/-- The stroke may be evaluated: it is the next to issue, or is held on this same SY slot. -/
def waitReady (s : State) (t sy : Nat) : Bool :=
  (tileAt s t).plate.inStroke.isNone &&
    (issuing s t || ((tileAt s t).plate.pstate = .heldWait && (tileAt s t).plate.held = BitVec.ofNat 32 sy
      && issuing (tileSet s t (unholdWait (tileAt s t))) t))

/-- A slot that holds its stroke until `ok`, then acts. Each evaluation that does not release is one cycle of the hold, in which what has issued
goes on (R148, R150). -/
def waitSlot (s : State) (t sy : Nat) (ok : Bool) (more : Bool) (act : State → State) : State :=
  if !(waitReady s t sy) then s
  else if !ok then tileLand (tileSet s t (holdWait (tileAt s t) sy)) t 1
  else slotDo (tileSet s t (unholdWait (tileAt s t))) t [slSy] more act

/-- ROWS of Table 6-10: the last command issued to the unit has completed, or runs with ROWS_DONE ≥ V. -/
def rowsReached (u : StreamUnit) (v : Nat) : Bool :=
  u.issuedN = u.doneN || (u.issuedN = u.doneN + 1 && u.path.run.isSome && u.path.pend.isNone && v ≤ u.rowsDone)

def waitHolds (s : State) (t : Nat) (k : WaitKind) (n : Nat) (src : Bool) (v : Nat) : Bool :=
  let x := tileAt s t
  let val := if src then (sRead s t x.regs (v % 64)).toNat else v % 2 ^ 18
  match k with
  | .rows => rowsReached (strAt x (n % 8)) val
  | .idle => pathIdle (strAt x (n % 8)).path
  | .token => val ≤ tokenAt x (n % 32)

def waitCode (k : WaitKind) : Nat := match k with | .rows => 1 | .idle => 2 | .token => 3

/-- SY slot of a WAIT (Table 6-9). -/
def waitSy (k : WaitKind) (n : Nat) (src : Bool) (v : Nat) : Nat :=
  1 + waitCode k <<< 4 + (n % 32) <<< 8 + boolNat src <<< 13 + (v % 2 ^ 18) <<< 14

/-- WAIT (R148). -/
def execWait (t : Nat) (k : WaitKind) (n : Nat) (src : Bool) (v : Nat) (more : Bool) (s : State) : Out :=
  .next (waitSlot s t (waitSy k n src v) (waitHolds s t k n src v) more (fun s =>
    if src then noteS s t [v % 64] else s))

/-- WAIT_TIMEOUT (R154): a hold of any kind reaches 2^WAIT_LOG2 cycles: plate fault WAIT_TIMEOUT. -/
def execWaitTimeout (t : Nat) (s : State) : Out :=
  let st := (tileAt s t).plate.pstate
  if t < 512 && (st = .heldWait || st = .heldBar) && (partOf s t).any (fun p => p.run.isSome)
  then .next (plateFault s t 5) else .next s

/-! ### Other SY operations -/

/-- TOKEN_DEC (R149): saturates at 0; no effect on AT31. -/
def execTokenDec (t n amount : Nat) (more : Bool) (s : State) : Out :=
  .next (slotDo s t [slSy] more (fun s =>
    if n % 32 = 31 then s
    else
      let x := tileAt s t
      let old := (mapGet 0 x.regs.tok (n % 32)).toNat
      tileSet s t { x with regs := { x.regs with
        tok := mapSet x.regs.tok (n % 32) (BitVec.ofNat 20 (old - amount % 2 ^ 20)) } }))

/-- FLAGCLR (R83). -/
def execFlagclr (t mask : Nat) (more : Bool) (s : State) : Out :=
  .next (slotDo s t [slSy] more (fun s =>
    let x := tileAt s t
    tileSet s t { x with num := numClear x.num mask }))

/-- CFG: the register governs events from E + 3 (Table 6-12). -/
def execCfg (t off sreg : Nat) (more : Bool) (s : State) : Out :=
  .next (slotDo s t [slSy] more (fun s => tileSet (noteS s t [sreg % 64]) t
    (duePush (tileAt (noteS s t [sreg % 64]) t) 3 (.cfg off (sVal s t (sreg % 64))))))

/-! ### Partition barriers (R151, R152) -/

/-- What every arrival must agree on. -/
def arrivalOf (x : Tile) : Nat × Nat × Option (BarKind × Nat) := (x.plate.pc, x.plate.bseq.toNat, x.plate.arrived)

def allArrived (s : State) (p : Part) : Bool :=
  (partTiles p).all (fun t => (tileAt s t).plate.arrived.isSome)

/-- R152: a mismatch raises LOCKSTEP on every member. -/
def lockstep (s : State) (p : Part) : State :=
  let s1 := (partTiles p).foldl (fun s t => errLog s (.tile t) stPlate 2 (tileAt s t).plate.pc 0 (some p.ctx)) s
  let s2 := noteDetail s1 p.t0 (tileAt s1 p.t0).plate.pc
  match partOf s2 p.t0 with
  | none => s2
  | some q => stopPart s2 q stPlate 6

/-- A member may come to its barrier-kind stroke: it is the next to issue, or the stroke already holds there and the member has not arrived. -/
def mayArrive (s : State) (t : Nat) (sy : W32) : Bool :=
  let x := tileAt s t
  x.plate.inStroke.isNone && x.plate.arrived.isNone && (partOf s t).all (fun p => !p.startHeld) && (issuing s t
    || (x.plate.pstate = .heldBar && x.plate.held = sy
      && issuing (tileSet s t { x with plate := { x.plate with pstate := .issuing } }) t))

/-- BARRIER_ARRIVE (R151, R152): the member holds at its barrier-kind stroke while what it has issued takes its effect, and arrives once its
scalar unit, array paths, vector pipes and stream units are idle. -/
def execBarrierArrive (t : Nat) (k : BarKind) (bid : Nat) (sy : W32) (s : State) : Out :=
  if !(mayArrive s t sy) then .next s
  else
    let s0 := tileSettle s t
    let x := tileAt s0 t
    let x0 := { x with plate := { x.plate with pstate := .heldBar, held := sy } }
    if !(tileIdle x0) then .next (tileSet s0 t x0)
    else
      let x1 := { x0 with plate := { x0.plate with arrived := some (k, if k = .barrier then bid % 256 else 0) } }
      let s1 := tileSet s0 t x1
      match partOf s1 t with
      | none => .next s1
      | some p =>
        if !(allArrived s1 p) then .next s1
        else if (partTiles p).all (fun u => arrivalOf (tileAt s1 u) = arrivalOf x1) then
          .next (partSet s1 { p with bar := some (k, (if k = .barrier then bid % 256 else 0)) })
        else .next (lockstep s1 p)

/-- A substitution of one of the partition's tiles is due or under way (R56). -/
def substDue (s : State) (p : Part) : Bool :=
  s.un.subst.any (fun e => ((e.2.phase = .armed && e.2.mode = 1) || (e.2.phase = .moving && e.2.tid.isSome))
    && p.t0 ≤ 16 * e.1 + e.2.ltile && 16 * e.1 + e.2.ltile < p.t0 + 2 ^ p.log2n)

/-- The barrier of tile t has been reached by all and nothing keeps its operation from being evaluated: no hold and
no substitution is due (R38, R56). -/
def barAt (s : State) (t : Nat) (k : BarKind) : Option Part :=
  match partOf s t with
  | none => none
  | some p =>
    match p.bar with
    | some (k', _) =>
      if k = k' && p.holds.isEmpty && !(substDue s p) && (partTiles p).all (fun u => (unitAt s (.tile u)).state = .run)
      then some p else none
    | none => none

/-- The partition with the slots that follow the barrier operation in its stroke noted. -/
def barWith (p : Part) (more : Bool) : Part := { p with barMore := more }

/-- BARRIER: the release (R151). -/
def execBarrier (t bid : Nat) (more : Bool) (s : State) : Out :=
  match barAt s t .barrier with
  | none => .next s
  | some p =>
    match p.bar with
    | some (_, b) => if b = bid % 256 then .next (fetchBeyond (barIssue s (barWith p more) (fun _ => none) (some b)) p.t0) else .next s
    | none => .next s

/-- PART_FLAGS (Table 3-9) over the tiles given. -/
def flagsOver (s : State) (ts : List Nat) : Nat :=
  ts.foldl (fun a t =>
    let n := (tileAt s t).num
    Nat.lor a (foldFlags n.nflags + foldFlags n.nstep <<< 4 + boolNat (n.resErr ≠ 0) <<< 8
      + boolNat (n.sramUe ≠ 0) <<< 9)) 0

def partFlags (s : State) (t : Nat) : Nat :=
  match partOf s t with
  | some p => flagsOver s (partTiles p)
  | none => flagsOver s [t]

/-- R158: COND against PART_FLAGS.ANY_STEP, RES_ERR, SRAM_UE and S3. -/
def abortTaken (s : State) (p : Part) (cond : Nat) : Bool :=
  let f := flagsOver s (partTiles p)
  let tested := (f >>> 4) % 16 + (bitsOf f 9 8) <<< 4 + (if p.outcome ≠ stOk then 64 else 0)
  cond % 128 = 0 || Nat.land (cond % 128) tested ≠ 0

/-- Empties the loop and call stacks of every member. -/
def clearStacks (s : State) (p : Part) : State :=
  tilesUpd s (partTiles p) (fun x => { x with plate := { x.plate with loops := [], calls := [] } })

/-- S[SREG][21:0] of a tile at its barrier. -/
def contOf (s : State) (t sreg : Nat) : Nat := (sRead s t (tileAt s t).regs (sreg % 64)).toNat % 2 ^ 22

/-- ABORT_STEP (R158). Each member reads S[SREG] as it stands before the stroke's effects (R135). A continuation at or beyond NSTROKES is a plate fault TARGET on the member that has it. -/
def execAbortStep (t cond sreg : Nat) (more : Bool) (s : State) : Out :=
  match barAt s t .abortStep with
  | none => .next s
  | some p =>
    if !(abortTaken s p cond) then .next (fetchBeyond (barIssue s (barWith p more) (fun _ => none) none) p.t0)
    else
      let s1 := clearStacks (stepAbort s p 6) p
      match partOf s1 t, (partTiles p).find? (fun u => contOf s u sreg ≥ nstrokesOf s u) with
      | some _, some bad => .next (plateFault s1 bad 6)
      | some q, none =>
        let next := (partTiles p).map (fun u => ((tileKey s1 u), contOf s u sreg))
        let s2 := (partTiles q).foldl (fun s u =>
          tileSet s u (issueBar more ((next.find? (fun e => e.1 = tileKey s u)).map Prod.snd) none (tileAt s u))) (barHeld s1 q)
        .next (partUpd s2 t (fun q => { q with bar := none, decided := false }))
      | none, _ => .next s1

/-- Clears what an OPEN clears on a member (R186 case 4). -/
def openTile (x : Tile) : Tile := { x with num := { x.num with nstep := 0 }, mon := [] }

/-- STEP OPEN (R186). -/
def execStepOpen (t : Nat) (more : Bool) (s : State) : Out :=
  match barAt s t .stepOpen with
  | none => .next s
  | some p0 =>
    let s1 := stepAbort s p0 6
    match partOf s1 t with
    | none => .next s1
    | some p =>
      if p.launched > 0 || (p.groupEn && (p.retained || p.abortVote || p.prep.isSome)) then .next s1
      else if p.groupEn && p.grpStep = p.step + 1 && !p.behind then
        let q := { p with behind := true, outcome := stTxnAborted }
        .next (fetchBeyond (unitEvt (barIssue (lseqReset (partSet s1 q) q) (barWith q more) (fun _ => none) none) (.tile p.t0) (2 ^ 20)) p.t0)
      else
        match txnOpen s1 1 p.t0 (partRoot p) ((partTiles p).map .tile) .invited with
        | none => .next s1
        | some (s2, tid) =>
          let q := { p with opened := true, preparing := false, err := false, catchUp := p.behind, tid := tid,
                            sinceOpen := 0, monBad := false, merged := [] }
          .next (fetchBeyond
            (barIssue (tilesUpd (lseqReset (partSet s2 q) q) (partTiles p) openTile) (barWith q more) (fun _ => none) none) p.t0)

/-- A decided STEP transaction of the partition whose COMMIT has not reached every member (R189 phase 5). -/
def stepSettling (s : State) (p : Part) : Bool :=
  s.un.txns.any (fun e => e.2.kind = 1 && e.2.key = p.t0 && e.2.phase = .committed
    && !(e.2.members.all (fun m => m.st = .applied || m.st = .acked)))

/-- STEP COMMIT (R189, R190): PREPARE goes to every member and the stroke stays held until the decision. With no
step open it acts as a BARRIER. -/
def execStepCommit (t : Nat) (more : Bool) (s : State) : Out :=
  match barAt s t .stepCommit with
  | none => .next s
  | some p =>
    if p.preparing || p.decided || stepSettling s p then .next s
    else if !p.opened then
      let q := { p with outcome := stTxnAborted, lastOutcome := stTxnAborted, lastCause := 0, lastGate := 0,
                        lastValid := true }
      .next (fetchBeyond (barIssue (partSet s q) (barWith q more) (fun _ => none) none) p.t0)
    else match mapFind s.un.txns p.tid with
      | none => .next s
      | some x =>
        let s1 := txnSet s p.tid { x with phase := .preparing, merged := false }
        .next (partSet s1 { barWith p more with preparing := true })

/-- A member at the release of a HALT: with further slots its stroke goes on to its end, otherwise it stops. -/
def haltTile (more : Bool) (x : Tile) : Tile :=
  let p := x.plate
  let y := { x with plate := { p with bseq := p.bseq + 1, held := 0, arrived := none } }
  if more then
    { y with plate := { y.plate with pstate := .issuing, inStroke := some x.regs, used := [slFlow], ending := true } }
  else stopTile { y with plate := { y.plate with issueCnt := satInc p.issueCnt } }

/-- HALT (R140, R159): released on all members, it stops the plate; an open step aborts with cause EXPLICIT. -/
def execHalt (t : Nat) (more : Bool) (s : State) : Out :=
  match barAt s t .halt with
  | none => .next s
  | some p =>
    let s1 := substOfPart (stepAbort s p 6) p 6
    let s2 := tilesUpd (barHeld s1 p) (partTiles p) (haltTile more)
    .next (partUpd s2 t (fun q => { q with
      bar := none, decided := false, run := q.run.map (fun r => { r with stop := some (r.stop.getD stOk) }) }))

/-! ### The end of a run -/

/-- Every member has stopped and is idle, and a commit that has passed its point, or waits for its group's decision, has been applied (R159,
R191, R196). -/
def runEnded (s : State) (p : Part) : Bool :=
  (p.run.any (fun r => r.stop.isSome)) && !(stepSettling s p) && !(stepInDoubt p)
    && (partTiles p).all (fun t => tileIdle (tileAt s t) && !(memberRuns (tileAt s t)))

/-- The final status of a run: that of its stop, else that of the error recorded, else OK (R159). -/
def runStatus (r : RunRec) : Nat :=
  let st := r.stop.getD stOk
  if st ≠ stOk then st else r.err.getD stOk

end Sys2Proof.Machine
end

