-- ==== Sys2Proof/Machine/RingOps.lean ====
section
/-! DEFINITION. Shared operations over contexts, rings, events, objects, handles and fences (spec 14). -/
namespace Sys2Proof.Machine
open Sys2Proof

abbrev stNotNeg : Nat := 0x50
abbrev stNoRes : Nat := 0x51
abbrev stSealTag : Nat := 0x52
abbrev stSealDigest : Nat := 0x53
abbrev stCkptIncompat : Nat := 0x54
abbrev stHostDown : Nat := 0x4E
abbrev stHostErr : Nat := 0x4F

/-! ### Contexts -/

def isAdminCtx (hw : Hw) (c : Nat) : Bool := c = 0 || (c = 1 && hw.split)

def ctxAt (s : State) (c : Nat) : Ctx := mapGet {} s.rg.ctxs c
def ctxSet (s : State) (c : Nat) (x : Ctx) : State := { s with rg := { s.rg with ctxs := mapSet s.rg.ctxs c x } }

/-- The port of a context: that of its admin context, else as assigned (R328). -/
def ctxPort (s : State) (c : Nat) : Nat := (ctxAt s c).port

def adminCtxOf (port : Nat) : Nat := if port = 0 then 0 else 1

def portPresent (s : State) (k : Nat) : Bool := k = 0 || (k = 1 && s.hw.split)
def hportAt (s : State) (k : Nat) : HPort := mapGet {} s.rg.ports k
def hportSet (s : State) (k : Nat) (x : HPort) : State := { s with rg := { s.rg with ports := mapSet s.rg.ports k x } }

/-- Function keys: PF0 0, PF1 1, VF v of port p at 2 + 512·p + v. -/
def vfKey (port v : Nat) : Nat := 2 + 512 * port + v
def funcAt (s : State) (f : Nat) : Func := mapGet {} s.rg.funcs f
def funcSet (s : State) (f : Nat) (x : Func) : State := { s with rg := { s.rg with funcs := mapSet s.rg.funcs f x } }

/-- The function that owns a context: its VF, or its port's PF (R316). -/
def ctxFunc (s : State) (c : Nat) : Nat :=
  match (ctxAt s c).vf with
  | some v => vfKey (ctxPort s c) v
  | none => ctxPort s c

/-- TDI state of a context's function; 0 for a PF. -/
def ctxTdi (s : State) (c : Nat) : Nat := if (ctxAt s c).vf.isSome then (funcAt s (ctxFunc s c)).tdi else 0

def tdiLocked (s : State) (c : Nat) : Bool := ctxTdi s c = 1 || ctxTdi s c = 2

/-- An MSI-X message. -/
def sendMsi (s : State) (f v : Nat) : State := { s with rg := { s.rg with msix := s.rg.msix ++ [(f, v)] } }

/-! ### Rings and records -/

def winBase (c : Nat) : Nat := c * 2 ^ 21
def winRead (s : State) (c off n : Nat) : List Byte := readBytes s.rg.win (winBase c + off) n
def winWrite (s : State) (c off : Nat) (bs : List Byte) : State :=
  { s with rg := { s.rg with
      win := writeBytes s.rg.win (winBase c + off) bs,
      winBad := s.rg.winBad.filter (fun l => !((winBase c + off) ≤ l * 64 && l * 64 + 64 ≤ winBase c + off + bs.length)) } }

def ringSize (r : Ring) : Nat := 2 ^ r.log2

/-- One record written at the ring's tail; PHASE alternates on each wrap (R338). -/
def ringPut (s : State) (c : Nat) (r : Ring) (v : Nat) : State × Ring :=
  let rec32 := leBytes 32 (v + boolNat r.phase <<< 8)
  let t := (r.tail + 1) % ringSize r
  (winWrite s c (r.off + 32 * r.tail) rec32,
    { r with tail := t, used := r.used + 1, phase := if t = 0 then !r.phase else r.phase })

/-- Event record (Table 14-6, TYPE 1). -/
def eventRec (c : Nat) (e : Event) : Nat := 1 <<< 9 + (e.kind % 65536) <<< 16 + (c % 4096) <<< 32 + (e.payload % 2 ^ 192) <<< 64

/-- Writes backlog events while a record is free and unclaimed; `claimed` records stay for completions (R338). -/
def ringDrain (n : Nat) (s : State) (c claimed : Nat) (r : Ring) : State × Ring :=
  match n with
  | 0 => (s, r)
  | k + 1 =>
    match r.backlog with
    | [] => (s, r)
    | e :: rest =>
      if r.used + claimed ≥ ringSize r then (s, r)
      else
        let p := ringPut s c { r with backlog := rest } (eventRec c e)
        ringDrain k p.1 c claimed p.2

/-- Posts an event on a ring: it joins the backlog, is lost when that is full, and is written as room allows. -/
def ringPost (s : State) (c claimed : Nat) (r : Ring) (e : Event) : State × Ring :=
  let r1 := if r.backlog.length ≥ 1024 then { r with lost := satInc r.lost } else { r with backlog := r.backlog ++ [e] }
  ringDrain 1025 s c claimed r1

/-- The record claimed for the command of a queue; a command that still waits has none (R336). -/
def qClaimed (q : Queue) : Nat := if q.cmd.any (fun k => k.st ≠ .waiting) then 1 else 0

def msiIf (s : State) (r : Ring) (f : Nat) (wrote : Bool) : State := if r.irq && wrote then sendMsi s f r.vector else s

/-- An event on the completion ring of a port's admin ring. -/
def postAdmin (s : State) (port : Nat) (e : Event) : State :=
  let c := adminCtxOf port
  let ref : CmdRef := { ctx := c, qid := 0 }
  match queueAt s ref with
  | none => s
  | some q =>
    let p := ringPost s c (qClaimed q) q.cq e
    msiIf (queueSet p.1 ref { q with cq := p.2 }) p.2 (ctxFunc s c) (p.2.used ≠ q.cq.used)

/-- An event on a context's event ring, if it has one. -/
def postCtx (s : State) (c : Nat) (e : Event) : State :=
  match (ctxAt s c).evr with
  | none => s
  | some r =>
    let p := ringPost s c 0 r e
    msiIf (ctxSet p.1 c { ctxAt p.1 c with evr := some p.2 }) p.2 (ctxFunc s c) (p.2.used ≠ r.used)

/-- An event that names a context: on the admin ring of its port and on its own event ring (R338). -/
def postNamed (s : State) (c : Nat) (e : Event) : State := postCtx (postAdmin s (ctxPort s c) e) c e

/-- A device event: on the admin ring of every port. -/
def postDevice (s : State) (e : Event) : State :=
  let s1 := postAdmin s 0 e
  if s.hw.split then postAdmin s1 1 e else s1

/-! ### Handles and objects (R343 to R347) -/

def objAt (s : State) (o : Nat) : Option Obj := mapFind s.rg.objs o
def objSet (s : State) (o : Nat) (x : Obj) : State := { s with rg := { s.rg with objs := mapSet s.rg.objs o x } }

/-- A handle value: INDEX in [13:0], GEN in [31:16]. -/
def handleVal (index gen : Nat) : Nat := index + gen <<< 16

/-- The open handle that a 32-bit value names in a context. -/
def handleFind (s : State) (c h : Nat) : Option (Nat × Handle) :=
  let i := h % 2 ^ 14
  if i = 0 || bitsOf h 15 14 ≠ 0 then none
  else match mapFind (ctxAt s c).handles i with
    | none => none
    | some x => if x.obj.isSome && x.gen = bitsOf h 31 16 then some (i, x) else none

/-- The object a handle names, of the type wanted (0 any). -/
def handleObj (s : State) (c h typ : Nat) : Option Nat :=
  match handleFind s c h with
  | none => none
  | some (_, x) => match x.obj with
    | none => none
    | some o => match objAt s o with
      | none => none
      | some b => if typ = 0 || b.typ = typ then some o else none

def handleSet (s : State) (c i : Nat) (h : Handle) : State :=
  let x := ctxAt s c
  ctxSet s c { x with handles := mapSet x.handles i h }

def openHandles (s : State) (c : Nat) : Nat := ((ctxAt s c).handles.filter (fun e => e.2.obj.isSome)).length

/-- The lowest index from i on that is not open, looked for n times. -/
def freeIndex (hs : Map Handle) (n i : Nat) : Option Nat :=
  match n with
  | 0 => none
  | k + 1 => match mapFind hs i with
    | some h => if h.obj.isSome then freeIndex hs k (i + 1) else some i
    | none => some i

/-- The next free object number; 0 names no object. -/
def freeObj (os : Map Obj) (n i : Nat) : Option Nat :=
  match n with
  | 0 => none
  | k + 1 => if (mapFind os i).isSome then freeObj os k (i + 1) else some i

/-- Opens a handle of a context to an object with count 1; none beyond 16,383 handles. GEN advances when an index is
reused. -/
def openHandle (s : State) (c o : Nat) (signal : Bool) : Option (State × Nat) :=
  match freeIndex (ctxAt s c).handles 16383 1 with
  | none => none
  | some i =>
    let gen := match mapFind (ctxAt s c).handles i with
      | some h => (h.gen + 1) % 65536
      | none => 0
    some (handleSet s c i { gen := gen, obj := some o, count := 1, signal := signal }, handleVal i gen)

/-- Creates an object with its owner's handle; none when a limit of R343 would be exceeded. -/
def createObj (s : State) (c : Nat) (x : Obj) : Option (State × Nat × Nat) :=
  if s.rg.objs.length ≥ 262144 then none
  else match freeObj s.rg.objs 262144 1 with
    | none => none
    | some o => match openHandle s c o true with
      | none => none
      | some (s1, h) => some (objSet s1 o { x with owner := c, ownerH := h }, o, h)

/-- Partitions that have joined a GROUP object (Table 14-10). -/
def groupHolds (s : State) (o : Nat) : Nat :=
  s.fb.groups.foldl (fun n e => n + (e.2.locals.filter (fun m => m.obj = o && m.joined)).length) 0

/-- DEV_CNT: the references of Table 14-10, counted from their holders (R346). -/
def devCount (s : State) (o : Nat) : Nat :=
  s.rg.queues.foldl (fun n e =>
    let q := e.2
    n + (match q.cmd with
      | some k => ((k.pobj.toList ++ k.wobj.toList ++ k.sobj.toList ++ k.refs).filter (fun r => r = o)).length
          + (if k.st = .waiting && k.wobj = some o then 1 else 0)
      | none => 0)
      + (if q.obj = o && (objAt s o).any (fun x => x.typ = 3) && (q.cmd.isSome || q.head ≠ q.tail) then 1 else 0))
    (groupHolds s o)

/-- Another context holds a handle of an object. -/
def otherHolds (s : State) (c o : Nat) : Bool :=
  s.rg.ctxs.any (fun e => e.1 ≠ c && e.2.handles.any (fun h => h.2.obj = some o))

def signalHeld (s : State) (o : Nat) : Bool :=
  s.rg.ctxs.any (fun e => e.2.handles.any (fun h => h.2.obj = some o && h.2.signal))

def anyHeld (s : State) (o : Nat) : Bool := s.rg.ctxs.any (fun e => e.2.handles.any (fun h => h.2.obj = some o))

/-! ### Fences (R349 to R351) -/

def fenceTop : Nat := 2 ^ 64 - 1

def fenceTerminal (x : Obj) : Bool := x.value = fenceTop

/-- A signal of value v; raising VALUE to 2^64 − 2 exhausts the fence. -/
def fenceSignal (x : Obj) (v : Nat) : Obj :=
  if fenceTerminal x || v ≤ x.value then { x with low := satInc x.low }
  else if v ≥ fenceTop - 1 then { x with last := fenceTop - 1, value := fenceTop, tstatus := stFenceEnd }
  else { x with value := v }

def fenceAbandon (x : Obj) : Obj :=
  if fenceTerminal x then x else { x with last := x.value, value := fenceTop, tstatus := stAbandoned }

def fenceUpd (s : State) (o : Nat) (f : Obj → Obj) : State :=
  match objAt s o with
  | some x => if x.typ = 2 then objSet s o (f x) else s
  | none => s

/-- R351: whether a wait for target t stands, is released, or ends with a status. -/
inductive WaitRes where
  | stand
  | go
  | fail (status : Nat)
  deriving DecidableEq, Repr

def fenceWait (x : Obj) (t : Nat) : WaitRes :=
  if !(fenceTerminal x) then (if t ≤ x.value then .go else .stand)
  else if t ≤ x.last then .go else .fail x.tstatus

/-- A pending wait on a fence. -/
def waitPending (s : State) (o : Nat) : Bool :=
  s.rg.queues.any (fun e => e.2.cmd.any (fun k => k.st = .waiting && k.wobj = some o))

/-- R350: the last SIGNAL handle has closed while another handle is open or a wait is pending. -/
def fenceOrphan (s : State) (o : Nat) : State :=
  if !(signalHeld s o) && (anyHeld s o || waitPending s o) then fenceUpd s o fenceAbandon else s

/-- Subtracts n from a handle's count; at 0 the handle closes. -/
def handleDrop (s : State) (c i n : Nat) : State :=
  match mapFind (ctxAt s c).handles i with
  | none => s
  | some h => match h.obj with
    | none => s
    | some o =>
      let cnt := h.count - n
      let h1 : Handle := { h with count := cnt, obj := if cnt = 0 then none else some o }
      let s1 := handleSet s c i h1
      let s2 := match objAt s1 o with
        | some x => objSet s1 o { x with host := x.host - n }
        | none => s1
      if cnt = 0 then fenceOrphan s2 o else s2

/-- Closes every open handle of a context (R330). -/
def closeHandles (s : State) (c : Nat) : State :=
  (ctxAt s c).handles.foldl (fun s e => handleDrop s c e.1 e.2.count) s

end Sys2Proof.Machine
end

