-- ==== Sys2Proof/Machine/Memory.lean ====
section
/-! DEFINITION. Device memory: frames, translation, stored lines with their code and tag, far-tier counters, repair
and migration (spec 11 and 12). -/
namespace Sys2Proof.Machine
open Sys2Proof

abbrev stKeyEnd' : Nat := stKeyEnd

/-! ### Addresses -/

/-- Frame key: tier · 2^26 + FRAME (R259). Tiers: 0 NEAR, 1 STACK, 2 FAR. -/
def frameKey (tier f : Nat) : Nat := tier * 2 ^ 26 + f
def frameTier (k : Nat) : Nat := k / 2 ^ 26
def frameNum (k : Nat) : Nat := k % 2 ^ 26
/-- Byte key of an offset within a frame: tier · 2^42 + device physical address. -/
def byteKey (fk off : Nat) : Nat := frameTier fk * 2 ^ 42 + frameNum fk * 65536 + off
/-- Line key of an offset within a frame: tier · 2^36 + LINE (R289). -/
def lineKey (fk off : Nat) : Nat := frameTier fk * 2 ^ 36 + frameNum fk * 1024 + off / 64
def lineFrame (lk : Nat) : Nat := frameKey (lk / 2 ^ 36) ((lk % 2 ^ 36) / 1024)
def farBlockOf (fk : Nat) : Nat := frameNum fk / 12800

/-- R259: the frame exists on this device. -/
def frameExists (s : State) (tier f : Nat) : Bool :=
  match tier with
  | 0 => f < 524288
  | 1 => present s.hw (.stack (f / 786432)) && f < 9437184 && (unitAt s (.stack (f / 786432))).state ≠ .retired
  | 2 => (mapFind s.mm.far (f / 12800)).isSome && f < 52428800
  | _ => false

/-! ### Controllers and pseudo-channels (R257, R258, R275) -/

/-- Controller number of an on-package frame: n0–n3 0–3, h0–h11 4–15. -/
def mcOf (fk : Nat) : Nat := if frameTier fk = 0 then frameNum fk / 131072 else 4 + frameNum fk / 786432
def mcUnit (m : Nat) : UnitId := if m < 4 then .near m else .stack (m - 4)
def mcIndex (u : UnitId) : Option Nat := match u with | .near d => some d | .stack k => some (4 + k) | _ => none
/-- PCs, and frames per PC, of a controller. -/
def mcPcs (m : Nat) : Nat := if m < 4 then 128 else 64
def pcFrames (m : Nat) : Nat := if m < 4 then 1024 else 12288
def mcFrames (m : Nat) : Nat := if m < 4 then 131072 else 786432
/-- Frame number within its controller. -/
def frameLocal (fk : Nat) : Nat := frameNum fk % mcFrames (mcOf fk)
def pcOf (fk : Nat) : Nat := frameLocal fk % mcPcs (mcOf fk)
def pcKey (fk : Nat) : Nat := mcOf fk * 128 + pcOf fk
/-- Row within the PC of a line of a frame: 32 lines a row (R273). -/
def rowOf (fk off : Nat) : Nat := (frameLocal fk / mcPcs (mcOf fk)) * 32 + (off / 64) / 32

def pcAt (s : State) (k : Nat) : PcSt := mapGet {} s.mm.pcs k
def pcSet (s : State) (k : Nat) (x : PcSt) : State := { s with mm := { s.mm with pcs := mapSet s.mm.pcs k x } }
def mcAt (s : State) (m : Nat) : Mc := mapGet {} s.mm.mcs m
def mcSet (s : State) (m : Nat) (x : Mc) : State := { s with mm := { s.mm with mcs := mapSet s.mm.mcs m x } }

/-! ### Frames (R264) -/

/-- A frame of the frame table. An unlisted frame is FREE, or RETIRED in a PC that is EVACUATING or RETIRED (R276). -/
def frameAt (s : State) (fk : Nat) : Frame :=
  match mapFind s.mm.frames fk with
  | some f => f
  | none => if frameTier fk < 2 && 2 ≤ (pcAt s (pcKey fk)).st then { st := 6 } else {}

def frameSet (s : State) (fk : Nat) (x : Frame) : State := { s with mm := { s.mm with frames := mapSet s.mm.frames fk x } }
/-- A frame becomes FREE; an object whose release awaits it awaits it no longer (R266, R347). -/
def frameFree (s : State) (fk : Nat) : State :=
  { s with mm := { s.mm with frames := mapDel s.mm.frames fk },
           rg := { s.rg with objs := s.rg.objs.map (fun e => (e.1, { e.2 with awaits := e.2.awaits.filter (fun f => f ≠ fk) })) } }

/-- The redirect of R276 that an access to a frame takes. -/
def redirect (s : State) (fk : Nat) : Nat := mapGet fk s.mm.redirs fk

/-- PTEs that name a frame (after no redirect). -/
def pteFrame (p : W64) : Nat := frameKey (bitsOf p.toNat 3 2) (bitsOf p.toNat 41 16)
def pteNames (s : State) (fk : Nat) : Bool := s.mm.ptes.any (fun e => e.2.getLsbD 0 && pteFrame e.2 = fk)
/-- A PTE maps the frame, directly or through a redirect. -/
def frameMapped (s : State) (fk : Nat) : Bool := s.mm.ptes.any (fun e => e.2.getLsbD 0 && redirect s (pteFrame e.2) = fk)

/-- Frames of the reserve pool (0) or page-table pool (1) of a tier. -/
def poolFrames (s : State) (tier pool : Nat) : List Nat :=
  (s.mm.frames.filter (fun e => e.2.st = 4 && e.2.pool = pool && frameTier e.1 = tier)).map Prod.fst

/-! ### Page tables (R260, R261) -/

def pteKey (ctx dva : Nat) : Nat := ctx * 2 ^ 32 + dva / 65536
/-- The four tables of a translation: root, then by DVA[47:40], DVA[47:32] and DVA[47:24]. -/
def tableKeys (ctx dva : Nat) : List Nat :=
  [(ctx * 4 + 3) * 2 ^ 24, (ctx * 4 + 2) * 2 ^ 24 + dva / 2 ^ 40, (ctx * 4 + 1) * 2 ^ 24 + dva / 2 ^ 32,
    (ctx * 4) * 2 ^ 24 + dva / 2 ^ 24]

/-- Whether a 2 KiB slot (frame key · 32 + index) is used. -/
def slotUsed (s : State) (slot : Nat) : Bool := s.mm.tables.any (fun e => e.2 = slot)

/-- The lowest free table slot of the page-table pools, near tier first (log entry on table placement). -/
def freeTable (s : State) : Option Nat :=
  ((poolFrames s 0 1 ++ poolFrames s 1 1).flatMap (fun f => (List.range 32).map (fun i => f * 32 + i))).find?
    (fun sl => !(slotUsed s sl))

/-- Allocates the tables that are missing for an address; none when the pools are exhausted. -/
def tablesFor (s : State) (keys : List Nat) : Option State :=
  match keys with
  | [] => some s
  | k :: r =>
    if (mapFind s.mm.tables k).isSome then tablesFor s r
    else match freeTable s with
      | none => none
      | some sl => tablesFor { s with mm := { s.mm with tables := mapSet s.mm.tables k sl } } r

/-- A frame that holds page tables. -/
def holdsTables (s : State) (fk : Nat) : Bool := s.mm.tables.any (fun e => e.2 / 32 = fk)

/-- A table entry above the leaves (Table 11-4), by the key of the table that it names: VALID, its tier, and its byte offset within the
tier in units of 2 KiB. -/
def tableEntry (s : State) (key : Nat) : Nat :=
  match mapFind s.mm.tables key with
  | none => 0
  | some sl => 1 + frameTier (sl / 32) <<< 2 + (frameNum (sl / 32) * 32 + sl % 32) <<< 11

/-- Drops the tables of a context under which nothing is mapped. -/
def tablesTrim (s : State) (ctx dva : Nat) : State :=
  (tableKeys ctx dva).foldl (fun s k =>
    let lvl := (k / 2 ^ 24) % 4
    let pre := k % 2 ^ 24
    let used := s.mm.ptes.any (fun e => e.1 / 2 ^ 32 = ctx &&
      (match lvl with
        | 3 => true
        | 2 => (e.1 % 2 ^ 32) / 2 ^ 24 = pre
        | 1 => (e.1 % 2 ^ 32) / 2 ^ 16 = pre
        | _ => (e.1 % 2 ^ 32) / 2 ^ 8 = pre))
    if used then s else { s with mm := { s.mm with tables := mapDel s.mm.tables k } }) s

inductive Xlate where
  | fault (status : Nat)
  | page (fk off ksel : Nat)
  deriving DecidableEq, Repr

/-- Whether a span of a context is write-protected (R162, R370). -/
def protectedAt (s : State) (ctx dva : Nat) : Bool :=
  s.mm.prots.any (fun p => p.ctx = ctx && p.lo ≤ dva && dva < p.hi)

/-- A frame that some protected page maps: a write that reaches it through another address is refused as well (R162, R265, R370). -/
def frameProtected (s : State) (fk : Nat) : Bool :=
  s.mm.ptes.any (fun e => e.2.getLsbD 0 && redirect s (pteFrame e.2) = fk &&
    s.mm.prots.any (fun p => p.ctx = e.1 / 2 ^ 32 && p.lo < (e.1 % 2 ^ 32 + 1) * 65536 && (e.1 % 2 ^ 32) * 65536 < p.hi))

/-- A page of a FROZEN shard (R370). -/
def frozenAt (s : State) (ctx dva : Nat) : Bool :=
  s.mm.prots.any (fun p => p.ctx = ctx && 2 ^ 20 ≤ p.id && p.lo ≤ dva && dva < p.hi)

/-- R261 with the redirect and the frame's state below it (R262, R264, R267, R278). -/
def xlate (s : State) (ctx dva : Nat) (wr : Bool) : Xlate :=
  if dva ≥ 2 ^ 48 then .fault stDenied
  else if (tableKeys ctx dva).any (fun k => match mapFind s.mm.tables k with
      | some sl => (frameAt s (sl / 32)).st = 5
      | none => false) then .fault stPageLost
  else match mapFind s.mm.ptes (pteKey ctx dva) with
    | none => .fault stDenied
    | some p =>
      if !(p.getLsbD 0) || (wr && !(p.getLsbD 1)) || (wr && protectedAt s ctx dva) then .fault stDenied
      else
        let fk := redirect s (pteFrame p)
        let f := frameAt s fk
        if wr && frameProtected s fk then .fault stDenied
        else if f.st = 5 then .fault stPageLost
        else if f.st ≠ 1 || f.owner ≠ ctx then .fault stDenied
        else .page fk (dva % 65536) (bitsOf p.toNat 6 4)

/-! ### Keys (R285, R286, R289) -/

def slotAt (s : State) (k : Nat) : Slot := mapGet {} s.ks.slots k
def slotSet (s : State) (k : Nat) (x : Slot) : State := { s with ks := { s.ks with slots := mapSet s.ks.slots k x } }
def tenantSlot (ctx i : Nat) : Nat := ctx * 8 + i
def deviceSlot (j : Nat) : Nat := 4096 + j

/-- Slot number that KSEL selects in a tier (Table 12-2). -/
def kselSlot (tier ksel : Nat) : Nat := if ksel = 0 then (if tier = 2 then 1 else 0) else ksel

/-- What the tag of a line written under a tenant slot binds. -/
def bindOf (s : State) (ctx k : Nat) : Bind := { kslot := k, ctx := ctx, kgen := (slotAt s (tenantSlot ctx k)).kgen.toNat }

def slotLive (s : State) (ctx k : Nat) : Bool := (slotAt s (tenantSlot ctx k)).ktype ≠ 0

/-- R287: a slot that some valid PTE of its context names. -/
def slotBound (s : State) (ctx k : Nat) : Bool :=
  s.mm.ptes.any (fun e => e.1 / 2 ^ 32 = ctx && e.2.getLsbD 0 &&
    kselSlot (bitsOf e.2.toNat 3 2) (bitsOf e.2.toNat 6 4) = k)

/-! ### Alarms and counts (R271, R305) -/

def io0 : UnitId := .iodie 0

/-- R305: one security alarm. `ctx` is none for a line that is not tenant-keyed; `quiet` says that an event of this
frame was posted within the last 2^16 AON cycles. -/
def secAlarm (s : State) (lk kslot : Nat) (ctx : Option Nat) (corrected partial' md quiet : Bool) : State :=
  let fk := lineFrame lk
  let ln := lk % 2 ^ 36
  let m := s.mm
  let m1 := if m.alarm3.getLsbD 31 then
      { m with alarm3 := BitVec.ofNat 32 (2 ^ 31 + min 0xFFFF (m.alarm3.toNat % 65536 + 1)) }
    else
      { m with
        alarm0 := BitVec.ofNat 32 (stIntegrity + (lk / 2 ^ 36) <<< 8 + boolNat corrected <<< 10 + boolNat partial' <<< 11
          + boolNat md <<< 12 + (kslot % 16) <<< 16),
        alarm1 := BitVec.ofNat 32 ln,
        alarm2 := BitVec.ofNat 32 (ln / 2 ^ 32 + (match ctx with | some c => c <<< 16 + 2 ^ 31 | none => 0)),
        alarm3 := BitVec.ofNat 32 (2 ^ 31 + 1) }
  let pend := mapGet 0 m.unposted fk
  let m2 := { m1 with tagFail := satInc m1.tagFail,
                      unposted := if quiet then mapSet m.unposted fk (pend + 1) else mapDel m.unposted fk }
  let s1 := unitEvt { s with mm := m2 } io0 (2 ^ 24)
  if quiet then s1
  else
    let pl := ctx.getD 0 + (lk / 2 ^ 36) <<< 12 + frameNum fk <<< 14 + (ln % 1024) <<< 40
      + boolNat corrected <<< 50 + boolNat partial' <<< 51 + boolNat md <<< 52 + (min pend 65535) <<< 53
    let e : Event := { kind := 5, payload := pl }
    match ctx with
    | some c => postCtx (postAdmin s1 0 e) c e
    | none => postAdmin s1 0 e

/-- R271: an uncorrectable line is counted and recorded by its controller, a far line by io0. -/
def lineUncorr (s : State) (lk : Nat) : State :=
  let fk := lineFrame lk
  let addr := (lk % 2 ^ 36) * 64
  let f := frameAt s fk
  let ctx := if f.st = 1 || f.st = 5 then some f.owner else none
  if frameTier fk = 2 then errLog s io0 stUncorr 0 (addr % 2 ^ 32) (addr / 2 ^ 32) ctx
  else
    let m := mcOf fk
    let x := mcAt s m
    unitEvt (errLog (mcSet s m { x with ue := satInc x.ue }) (mcUnit m) stUncorr (pcOf fk) (addr % 2 ^ 32)
      (addr / 2 ^ 32) ctx) (mcUnit m) (2 ^ 19)

/-! ### Pseudo-channel states and migration (R275 to R278) -/

/-- Frames listed in a PC, in ascending order. -/
def pcListed (s : State) (k : Nat) : List (Nat × Frame) :=
  s.mm.frames.filter (fun e => frameTier e.1 < 2 && pcKey e.1 = k)

/-- R268, R277: RESERVE_LOW. -/
def postReserveLow (s : State) (tier cause : Nat) : State :=
  postDevice s { kind := 3, payload := tier % 4 + ((poolFrames s tier 0).length % 2 ^ 24) <<< 2 + cause <<< 26 }

/-- Posts RESERVE_LOW when a tier's reserve pool falls below MEM_RSV_LOW. -/
def checkReserve (old s : State) (tier : Nat) : State :=
  let low := s.mm.rsvLow.toNat % 65536
  if (poolFrames s tier 0).length < low && low ≤ (poolFrames old tier 0).length then postReserveLow s tier 0 else s

/-- RESOURCE_STATE of a PC (Table 11-8). -/
def postPc (s : State) (k st : Nat) : State :=
  let u := mcUnit (k / 128)
  unitEvt (postDevice s { kind := 4, payload := unitIdReg u + (k % 128) <<< 32 + st <<< 40 }) u (2 ^ 16)

/-- A unit whose PCs are all RETIRED is RETIRED. -/
def mcRetired (s : State) (m : Nat) : State :=
  if (List.range (mcPcs m)).all (fun j => (pcAt s (m * 128 + j)).st = 3) then setUState s (mcUnit m) .retired else s

/-- R278: a frame not migrated when its PC retires becomes LOST. A frame that is being released becomes RETIRED and a MEM_RELEASE that waits
for it completes (R267; log entry 143). A frame of the device's own has no owner: the admin rings are told. -/
def frameLost (s : State) (fk : Nat) (f : Frame) : State :=
  match f.rel with
  | some c => finishJob (frameFree s fk) c (.release fk) stOk 0 0
  | none =>
    if f.st = 2 || f.st = 3 then frameFree s fk
    else
      let s1 := frameSet { s with mm := { s.mm with lostCnt := satInc s.mm.lostCnt } } fk { f with st := 5 }
      let e : Event := { kind := 2, payload := f.owner + frameTier fk <<< 12 + frameNum fk <<< 14 }
      if f.st = 1 then postNamed s1 f.owner e else postDevice s1 e

/-- A PC becomes RETIRED; what it still holds is lost. -/
def pcRetire (s : State) (k : Nat) : State :=
  let s1 := postPc (pcSet s k { pcAt s k with st := 3, mig := none }) k 3
  mcRetired ((pcListed s1 k).foldl (fun s e =>
    if e.2.st = 4 && !(holdsTables s e.1) then frameFree s e.1
    else if e.2.st = 5 || e.2.st = 6 then s
    else frameLost s e.1 e.2) s1) (k / 128)

def migTargets (s : State) : List Nat := s.mm.pcs.filterMap (fun e => e.2.mig.map Mig.dst)

/-- A reserve frame for a migration: the same tier first, then the other on-package tier; the lowest that is not a
target already (R276). -/
def migTarget (s : State) (tier : Nat) : Option Nat :=
  (poolFrames s tier 0 ++ poolFrames s (1 - tier) 0).find? (fun f => !((migTargets s).contains f))

/-- The frames of a PC still to migrate, in the order of R276. -/
def migQueue (s : State) (k : Nat) : List Nat :=
  ((pcListed s k).filter (fun e => e.2.st = 4 && e.2.pool = 1 && holdsTables s e.1)).map Prod.fst
    ++ ((pcListed s k).filter (fun e => e.2.st = 1 || e.2.st = 2 || e.2.st = 3)).map Prod.fst

/-- Starts the next migration of an EVACUATING PC, pauses it, or retires the PC when every frame is handled. -/
def migNext (s : State) (k : Nat) : State :=
  let x := pcAt s k
  if x.st ≠ 2 || x.mig.isSome then s
  else match migQueue s k with
    | [] => pcRetire s k
    | f :: _ =>
      if s.mm.migRate.toNat % 256 = 0 then s
      else if s.mm.redirs.length ≥ 60000 then postReserveLow s (frameTier f) 1
      else match migTarget s (frameTier f) with
        | none => postReserveLow s (frameTier f) 0
        | some d => pcSet s k { x with mig := some { src := f, dst := d } }

/-- Migrations that paused for a target, a redirect entry or the rate start again. -/
def migResume (s : State) : State :=
  (s.mm.pcs.filter (fun e => e.2.st = 2 && e.2.mig.isNone)).foldl (fun s e =>
    if s.mm.redirs.length < 60000 && (migTarget s (if e.1 / 128 < 4 then 0 else 1)).isSome then migNext s e.1 else s) s

/-- A PC enters EVACUATING: RESERVE frames without tables leave their pool, FREE frames are RETIRED, the rest are
migrated (R276). -/
def pcEvacuate (s : State) (k : Nat) : State :=
  if 2 ≤ (pcAt s k).st then s
  else
    let s1 := postPc (pcSet s k { pcAt s k with st := 2 }) k 2
    let s2 := (pcListed s1 k).foldl (fun s e =>
      if e.2.st = 4 && !(holdsTables s e.1) && !((migTargets s).contains e.1) then frameFree s e.1 else s) s1
    migNext (checkReserve s (checkReserve s s2 0) 1) k

def pcDegrade (s : State) (k : Nat) : State :=
  if (pcAt s k).st = 0 then postPc (pcSet s k { pcAt s k with st := 1 }) k 1 else s

/-! ### Repair on reads (R273, R274) -/

def erasedSyms (x : PcSt) : Nat := x.lanes.foldl (fun n l => if l.erased then n + l.syms else n) 0

/-- A corrected read that fell on a lane (R274). A near-tier PC knows its spare connections; a stack's repair resources show at its
next retraining. -/
def laneCount (s : State) (k lane syms : Nat) : State :=
  let x := pcAt s k
  let m := mcAt s (k / 128)
  let thr := 16 * max 1 (bitsOf m.cfg.toNat 15 8)
  let l := (x.lanes.find? (fun l => l.lane = lane)).getD { lane := lane, count := 0, syms := min 2 (max 1 syms) }
  let l1 := { l with count := l.count + 1 }
  let mark := !l.erased && thr ≤ l1.count
  let l2 := if mark then { l1 with erased := true } else l1
  let s1 := pcSet s k { x with lanes := x.lanes.filter (fun l => l.lane ≠ lane) ++ [l2] }
  if !mark then s1
  else
    let s2 := unitEvt (mcSet s1 (k / 128) { m with erase := satInc m.erase }) (mcUnit (k / 128)) (2 ^ 18)
    if erasedSyms (pcAt s2 k) ≥ 6 then pcEvacuate s2 k
    else if k / 128 < 4 && ((pcAt s2 k).lanes.filter (fun l => l.erased)).length > x.lspare then pcDegrade s2 k
    else s2

/-- Starts a row remap (R273); with no spare row left the PC is DEGRADED. -/
def remapStart (s : State) (k row : Nat) : State :=
  let x := pcAt s k
  if x.pending.contains row || x.st = 3 then s
  else if x.spare = 0 then pcDegrade s k
  else pcSet s k { x with spare := x.spare - 1, pending := x.pending ++ [row] }

def evFor (ev : List LineEv) (lk : Nat) : LineEv := (ev.find? (fun e => e.line = lk)).getD { line := lk }

def io0Page : Option Nat := some (pageOf io0)

/-! ### Requests to a memory controller (R41, R46, R49) -/

/-- R41, rule 1: the controller of a frame is OFF or RETIRED. -/
def mcAbsent (s : State) (fk : Nat) : Bool :=
  frameTier fk < 2 && ((unitAt s (mcUnit (mcOf fk))).state = .off || (unitAt s (mcUnit (mcOf fk))).state = .retired)

/-- R41, rules 3 and 4: the controller refuses for now, and the requester reissues (R46). -/
def mcRefuses (s : State) (fk : Nat) : Bool :=
  frameTier fk < 2 && !(mcAbsent s fk) && (unitAt s (mcUnit (mcOf fk))).state ≠ .run

/-- A request for a line is not answered yet: no route leads to its controller, its controller refuses for now, a row's remap copy is under way, or a frame's
migration copy holds back writes (R16, R41, R273, R276). The far tier is reached through io0. A request past its hard timeout no longer
waits, and one that its controller has accepted is completed by it in any state (R45). -/
def lineWaits (s : State) (src : Option Nat) (fk off : Nat) (wr : Bool) (ev : List LineEv) : Bool :=
  let home := if frameTier fk < 2 then mcUnit (mcOf fk) else io0
  (evFor ev (lineKey fk off)).late < 2 && (!((src.bind unitOfPage).all (fun u => joined s u home)) ||
    frameTier fk < 2 && !(mcAbsent s fk) &&
      (src.isSome && mcRefuses s fk || (pcAt s (pcKey fk)).pending.contains (rowOf fk off)
        || (wr && (pcAt s (pcKey fk)).mig.any (fun m => m.src = fk))))

/-- What the requester's side of a line access leaves: a request with an incarnation of old is refused once and counted, the
requester learns the current one, and a soft timeout is recorded (R41, R46, R49). `src` is the requester's page; none for an
access whose request has its own commands. -/
def reqNote (s : State) (src : Option Nat) (fk : Nat) (e : LineEv) : State :=
  match src with
  | none => s
  | some p =>
    if frameTier fk ≥ 2 then s
    else
      let u := mcUnit (mcOf fk)
      let k := p * 65536 + pageOf u
      let inc := (unitAt s u).inc
      let s1 := if mapGet 0 s.un.incTab k = inc then s else
        { s with un := { s.un with incTab := mapSet s.un.incTab k inc,
                                   staleReq := if mcAbsent s fk then s.un.staleReq else satInc s.un.staleReq } }
      if e.late = 0 then s1 else match unitOfPage p with
        | some v => errLog s1 v stReqTimeout 0 (unitIdReg u) 0 none
        | none => s1

/-- The status of a request that its controller does not serve: past the hard timeout REQ_TIMEOUT, absent ACCESS_DENIED. -/
def reqStatus (s : State) (src : Option Nat) (fk : Nat) (e : LineEv) : Option Nat :=
  if src.isNone then none
  else if mcAbsent s fk then some stDenied
  else if 2 ≤ e.late then some stReqTimeout
  else none

/-! ### Lines -/

def lineAt (s : State) (lk : Nat) : LineSt := mapGet {} s.mm.lines lk
def lineSet (s : State) (lk : Nat) (x : LineSt) : State :=
  { s with mm := { s.mm with lines := if x = {} then mapDel s.mm.lines lk else mapSet s.mm.lines lk x } }

/-- The binding under which a line was last written. -/
def lineBind (s : State) (lk : Nat) : Option Bind :=
  match (lineAt s lk).bind with
  | some b => some b
  | none => (frameAt s (lineFrame lk)).bind

/-- The code word of a line is beyond reach: 2t + e > 10 (R269), or it already is. -/
def lineDead (s : State) (lk : Nat) (e : LineEv) : Bool :=
  let marked := if lk / 2 ^ 36 < 2 then erasedSyms (pcAt s (pcKey (lineFrame lk))) else 0
  (lineAt s lk).uncorr || e.pcDead || 2 * e.errs + e.eras + marked > 10

def lineCorrected (s : State) (lk : Nat) (e : LineEv) : Bool :=
  e.errs + e.eras + (if lk / 2 ^ 36 < 2 then erasedSyms (pcAt s (pcKey (lineFrame lk))) else 0) > 0

/-- What a corrected read that verified leaves: its count, its lane and a row remap (R271, R273, R274). -/
def lineRepair (s : State) (lk : Nat) (e : LineEv) : State :=
  let fk := lineFrame lk
  if frameTier fk ≥ 2 then s
  else
    let m := mcOf fk
    let x := mcAt s m
    let s1 := mcSet s m { x with ce := satInc x.ce }
    let s2 := match e.lane with
      | some (l, y) => laneCount s1 (pcKey fk) l y
      | none => s1
    let thr := x.cfg.toNat % 8
    if thr ≠ 0 && thr ≤ e.errs then remapStart s2 (pcKey fk) (rowOf fk ((lk % 1024) * 64)) else s2

/-- R302: a metadata failure puts a far block into FAILED. -/
def farFail (s : State) (blk cause : Nat) : State :=
  match mapFind s.mm.far blk with
  | none => s
  | some b =>
    if b.fail.isSome then s
    else
      let s1 := unitEvt { s with mm := { s.mm with far := mapSet s.mm.far blk { b with fail := some cause } } } io0 (2 ^ 25)
      let owners := (s1.mm.frames.filter (fun e => frameTier e.1 = 2 && farBlockOf e.1 = blk && e.2.st = 1)).map
        (fun e => e.2.owner)
      let e (c : Nat) : Event := { kind := 7, payload := c + blk <<< 12 + cause <<< 24 }
      (owners.eraseDups).foldl (fun s c => postCtx s c (e c)) (postAdmin s1 0 (e (owners.headD 0)))

/-- The block of a far line serves: it is in the window, initialised and not FAILED. -/
def farOk (s : State) (fk : Nat) : Bool :=
  frameTier fk < 2 || (mapFind s.mm.far (farBlockOf fk)).any (fun b => b.init && b.fail.isNone)

/-- The tag of a line verifies for a reader (R292): it was written under the reader's own slot, context and key generation, and nothing
has changed it. A tag written under another binding never verifies (log entry 8). -/
def tagVerifies (s : State) (lk : Nat) (b : Bind) (e : LineEv) : Bool :=
  !((lineAt s lk).tagBad || e.tagBad) && lineBind s lk = some b

/-- R293: decode, verify, decrypt. A PC that returns no readable line is RETIRED at once (R275). Answers the state and the status; data may be taken only on OK. -/
def lineFetch (s : State) (lk : Nat) (b : Bind) (ctx : Option Nat) (partial' : Bool) (e : LineEv) : State × Nat :=
  let fk := lineFrame lk
  let x := lineAt s lk
  if !(farOk s fk) then (s, stIntegrity)
  else if frameTier fk = 2 && e.mdFail = 1 then
    (farFail (secAlarm s lk 12 none false partial' true e.quiet) (farBlockOf fk) 0, stIntegrity)
  else if frameTier fk = 2 && e.mdFail ≠ 0 then (farFail s (farBlockOf fk) 1, stUncorr)
  else if lineDead s lk e then
    let s1 := lineUncorr (lineSet s lk { x with uncorr := true }) lk
    (if e.pcDead && frameTier fk < 2 && (pcAt s (pcKey fk)).st ≠ 3 then pcRetire s1 (pcKey fk) else s1, stUncorr)
  else
    let corrected := lineCorrected s lk e
    if !(tagVerifies s lk b e) then
      (secAlarm (if e.tagBad then lineSet s lk { x with tagBad := true } else s) lk b.kslot ctx corrected partial' false
        e.quiet, stIntegrity)
    else (if corrected then lineRepair s lk e else s, stOk)

/-- Marks the counter block of a far line as modified in the metadata cache (R297). -/
def farDirty (s : State) (fk lk : Nat) : State :=
  let blk := farBlockOf fk
  match mapFind s.mm.far blk with
  | none => s
  | some b =>
    let page := ((lk % 2 ^ 36) / 64) % 204800
    if b.dirty.contains page then s
    else { s with mm := { s.mm with far := mapSet s.mm.far blk { b with dirty := b.dirty ++ [page] } } }

/-- R299: the page cannot be re-encrypted: the slot is exhausted. -/
def keyExhaust (s : State) (b : Bind) : State :=
  let k := tenantSlot b.ctx b.kslot
  let s1 := slotSet s k { slotAt s k with exh := true }
  unitEvt (postNamed s1 b.ctx { kind := 6, payload := b.ctx + b.kslot <<< 12 }) io0 (2 ^ 26)

/-- R298, R300: re-encrypts the 4 KiB page of a far line; lines that do not verify become tag-failed copies. -/
def pageReencrypt (s : State) (lk : Nat) : State :=
  let page := lk / 64
  let maj := mapGet 0 s.mm.majors page
  let s1 := { s with mm := { s.mm with majors := mapSet s.mm.majors page (maj + 1),
                                       minors := mapDrop s.mm.minors (page * 64) 64,
                                       minorOvf := satInc s.mm.minorOvf } }
  (List.range 64).foldl (fun s i =>
    let x := lineAt s (page * 64 + i)
    if x.uncorr || x.tagBad then lineSet s (page * 64 + i) { x with uncorr := false, tagBad := true, copied := true } else s) s1

/-- R298, R299: a far write advances its minor counter; the status is KEY_EXHAUSTED where it cannot. -/
def farBump (s : State) (lk : Nat) (b : Bind) : State × Nat :=
  let mn := mapGet 0 s.mm.minors lk
  if mn < 127 then (farDirty { s with mm := { s.mm with minors := mapSet s.mm.minors lk (mn + 1) } } (lineFrame lk) lk, stOk)
  else if mapGet 0 s.mm.majors (lk / 64) = 2 ^ 56 - 1 then
    (keyExhaust { s with mm := { s.mm with keyExh := satInc s.mm.keyExh } } b, stKeyEnd)
  else (farDirty (pageReencrypt s lk) (lineFrame lk) lk, stOk)

/-- R128: a write to a device memory line removes every copy of it from the cluster caches. Copies stand under the
line of the frame that a PTE names, above the redirect. -/
def cacheDrop (s : State) (lk : Nat) : State :=
  let hit (l : Nat) : Bool := lineKey (redirect s (lineFrame l)) ((l % 1024) * 64) = lk
  { s with tl := { s.tl with caches := s.tl.caches.map (fun e =>
      let gone := (e.2.lines.filter (fun l => hit l.line)).length
      if gone = 0 then e
      else (e.1, { e.2 with lines := e.2.lines.filter (fun l => !(hit l.line)),
                            bad := e.2.bad.filter (fun w => !(hit (w / 8))), inval := satAdd e.2.inval gone })) } }

/-- The lines of ways leave the cluster caches, by logical tile (R128, R361). -/
def wayLines (s : State) (mine : Nat → Bool) (restart : Nat → CCache → CCache) : State :=
  { s with tl := { s.tl with caches := s.tl.caches.map (fun e =>
      let gone (l : CLine) : Bool := mine (16 * e.1 + l.way)
      (e.1, { restart e.1 e.2 with lines := e.2.lines.filter (fun l => !(gone l)),
                                   bad := e.2.bad.filter (fun w => !(e.2.lines.any (fun l => gone l && l.line = w / 8))) })) } }

/-- R128 for a write of every line of frames: their copies leave the cluster caches. -/
def cacheDropFrames (s : State) (fs : Nat → Bool) : State :=
  let hit (l : Nat) : Bool := fs (redirect s (lineFrame l))
  { s with tl := { s.tl with caches := s.tl.caches.map (fun e =>
      let gone := (e.2.lines.filter (fun l => hit l.line)).length
      if gone = 0 then e
      else (e.1, { e.2 with lines := e.2.lines.filter (fun l => !(hit l.line)),
                            bad := e.2.bad.filter (fun w => !(hit (w / 8))), inval := satAdd e.2.inval gone })) } }

/-- The line as its frame's key stores it, after a full write under binding b. -/
def lineWritten (s : State) (lk : Nat) (b : Bind) : State :=
  lineSet s lk { bind := if (frameAt s (lineFrame lk)).bind = some b then none else some b }

/-- What a write needs of the line first: a partial one reads it, and so does one whose bytes add to what is stored (`rmw`, R120, R295). -/
def lineReady (s : State) (lk : Nat) (b : Bind) (bs : List (Nat × Byte)) (e : LineEv) (rmw : Bool) : State × Nat :=
  if bs.length ≥ 64 && !rmw then (s, stOk) else lineFetch s lk b (some b.ctx) true e

/-- A far write advances the line's counter before it stores (R298, R299). -/
def lineCounted (s : State) (lk : Nat) (b : Bind) : State × Nat :=
  if frameTier (lineFrame lk) = 2 then farBump s lk b else (s, stOk)

/-- The bytes of a line as stored; `bs` are (offset in the line, byte). -/
def lineBytes (s : State) (lk : Nat) (bs : List (Nat × Byte)) : State :=
  let base := (lk / 2 ^ 36) * 2 ^ 42 + (lk % 2 ^ 36) * 64
  { s with mm := { s.mm with bytes := bs.foldl (fun m p => byteSet m (base + p.1) p.2) s.mm.bytes } }

/-- R295, R298, R299: writes bytes of one line; `bs` are (offset in the line, byte). -/
def lineWrite (s : State) (lk : Nat) (b : Bind) (bs : List (Nat × Byte)) (e : LineEv) (rmw : Bool := false) : State × Nat :=
  if !(farOk s (lineFrame lk)) then (s, stIntegrity)
  else if (slotAt s (tenantSlot b.ctx b.kslot)).exh then
    ({ s with mm := { s.mm with keyExh := satInc s.mm.keyExh } }, stKeyEnd)
  else
    let r := lineReady s lk b bs e rmw
    if r.2 ≠ stOk then r
    else
      let c := lineCounted r.1 lk b
      if c.2 ≠ stOk then c else (lineWritten (cacheDrop (lineBytes c.1 lk bs) lk) lk b, stOk)

/-! ### Accesses by a context -/

/-- The answer to an access: the status of the first line that failed, the data with zeros for the lines that
failed, and the failed lines with their statuses. -/
structure MemRes where
  s      : State
  status : Nat
  data   : List Byte
  bad    : List (Nat × Nat) := []
  deriving DecidableEq, Repr

/-- The pieces of a span: (address, length) within 64-byte lines. -/
def spanLines (a n : Nat) : List (Nat × Nat) :=
  if n = 0 then []
  else (List.range ((a + n - 1) / 64 - a / 64 + 1)).map (fun i =>
    let lo := max a ((a / 64 + i) * 64)
    let hi := min (a + n) ((a / 64 + i) * 64 + 64)
    (lo, hi - lo))

/-- Whether some line of a span must wait. -/
def spanWaits (s : State) (src : Option Nat) (ctx a n : Nat) (wr : Bool) (ev : List LineEv) : Bool :=
  (spanLines a n).any (fun p => match xlate s ctx p.1 wr with
    | .page fk off _ => lineWaits s src fk off wr ev
    | .fault _ => false)

def ctxReadLine (s : State) (src : Option Nat) (ctx a n : Nat) (ev : List LineEv) : State × Nat × List Byte :=
  match xlate s ctx a false with
  | .fault st => (s, st, List.replicate n 0)
  | .page fk off ksel =>
    let k := kselSlot (frameTier fk) ksel
    let lk := lineKey fk off
    let s1 := reqNote s src fk (evFor ev lk)
    match reqStatus s1 src fk (evFor ev lk) with
    | some st => (s1, st, List.replicate n 0)
    | none =>
      let r := lineFetch s1 lk (bindOf s1 ctx k) (some ctx) false (evFor ev lk)
      if r.2 = stOk then (r.1, stOk, readBytes r.1.mm.bytes (byteKey fk off) n) else (r.1, r.2, List.replicate n 0)

/-- Reads a span of a context's device virtual addresses (R261, R293). -/
def ctxRead (s : State) (src : Option Nat) (ctx a n : Nat) (ev : List LineEv) : MemRes :=
  (spanLines a n).foldl (fun r p =>
    let x := ctxReadLine r.s src ctx p.1 p.2 ev
    { s := x.1, status := if r.status = stOk then x.2.1 else r.status, data := r.data ++ x.2.2,
      bad := if x.2.1 = stOk then r.bad else r.bad ++ [(p.1, x.2.1)] }) { s := s, status := stOk, data := [] }

def ctxWriteLine (s : State) (src : Option Nat) (ctx : Nat) (bs : List (Nat × Byte)) (ev : List LineEv) (rmw : Bool := false) :
    State × Nat :=
  match bs with
  | [] => (s, stOk)
  | (a, _) :: _ =>
    match xlate s ctx a true with
    | .fault st => (s, st)
    | .page fk off ksel =>
      let k := kselSlot (frameTier fk) ksel
      let lk := lineKey fk off
      let e := evFor ev lk
      let s1 := reqNote s src fk e
      let put := lineWrite s1 lk (bindOf s1 ctx k) (bs.map (fun p => (p.1 % 64, p.2))) e rmw
      match reqStatus s1 src fk e with
      | some st => (if st = stReqTimeout && e.late = 3 then put.1 else s1, st)
      | none => put

/-- Groups (address, byte) pairs, ascending, by their lines. -/
def byLine (bs : List (Nat × Byte)) : List (List (Nat × Byte)) :=
  bs.foldr (fun p acc => match acc with
    | ((q :: g) :: r) => if p.1 / 64 = q.1 / 64 then (p :: q :: g) :: r else [p] :: (q :: g) :: r
    | _ => [p] :: acc) []

/-- Writes bytes at a context's device virtual addresses, line by line in ascending order (R295). A failed line is named by its own
address. -/
def ctxWrite (s : State) (src : Option Nat) (ctx : Nat) (bs : List (Nat × Byte)) (ev : List LineEv) (rmw : Bool := false) :
    MemRes :=
  (byLine bs).foldl (fun r g =>
    let x := ctxWriteLine r.s src ctx g ev rmw
    { r with s := x.1, status := if r.status = stOk then x.2 else r.status,
             bad := if x.2 = stOk then r.bad else r.bad ++ [((g.headD (0, 0)).1 / 64 * 64, x.2)] })
    { s := s, status := stOk, data := [] }

def atAddr (a : Nat) (bs : List Byte) : List (Nat × Byte) := (List.range bs.length).map (fun i => (a + i, bs.getD i 0))

def ctxWriteAt (s : State) (src : Option Nat) (ctx a : Nat) (bs : List Byte) (ev : List LineEv) : MemRes :=
  ctxWrite s src ctx (atAddr a bs) ev

/-! ### Mapping (R263, R265, R285, R288, R294) -/

/-- R288: a frame inside an enabled device range other than DR4. -/
def inDeviceRange (s : State) (fk : Nat) : Bool :=
  [0, 1, 2, 3, 5].any (fun r =>
    let b := (mapGet 0 s.mm.drBase r).toNat
    let l := (mapGet 0 s.mm.drLimit r).toNat
    bitOf b 63 && bitsOf b 43 42 = frameTier fk && bitsOf b 41 0 ≤ frameNum fk * 65536 + 65535
      && frameNum fk * 65536 ≤ bitsOf l 41 0)

/-- R294: every line of a frame becomes the encryption of zero under a binding; far lines advance their counters. -/
def frameInit (s : State) (fk : Nat) (b : Bind) : State :=
  let s0 := cacheDropFrames s (fun f => f = fk)
  let s1 := { s0 with mm := { s0.mm with bytes := clearBytes s0.mm.bytes (byteKey fk 0) 65536,
                                         lines := mapDrop s0.mm.lines (lineKey fk 0) 1024 } }
  let s2 := frameSet s1 fk { frameAt s1 fk with bind := some b }
  if frameTier fk = 2 then (List.range 1024).foldl (fun s i => (farBump s (lineKey fk 0 + i) b).1) s2 else s2

/-- PTE image rules of R260 and R285: reserved fields, VALID, TIER and KSEL. -/
def pteOk (p : Nat) : Bool :=
  bitOf p 0 && bitsOf p 3 2 ≠ 3 && (bitsOf p 6 4 = 0 || 4 ≤ bitsOf p 6 4) && bitsOf p 15 7 = 0 && bitsOf p 63 42 = 0

/-- R260 to R265, R285, R288: why MEM_MAP of a page is refused, or none. -/
def mapRefusal (s : State) (ctx dva p : Nat) (replace : Bool) : Option Nat :=
  let tier := bitsOf p 3 2
  let fk := frameKey tier (bitsOf p 41 16)
  let f := frameAt s fk
  let old := mapFind s.mm.ptes (pteKey ctx dva)
  let sl := slotAt s (tenantSlot ctx (kselSlot tier (bitsOf p 6 4)))
  if !(pteOk p) || !(frameExists s tier (bitsOf p 41 16)) then some stInvalid
  else if sl.ktype = 0 || !(bitOf sl.attr 4) then some stDenied
  else if inDeviceRange s fk || (f.st = 4 && f.pool = 1) then some stDenied
  else if replace then
    (match old with
      | some o =>
        if redirect s (pteFrame o) = fk && pteFrame o ≠ fk then
          (if frozenAt s ctx dva then some stIllegal else none)
        else some stInvalid
      | none => some stInvalid)
  else if old.isSome then some stInvalid
  else if f.st = 0 then (if farOk s fk then none else some stIntegrity)
  else if f.st = 1 && f.owner = ctx then none
  else some stDenied

/-- MEM_MAP of one page (R263, R265, R294). -/
def mapPage (s : State) (ctx dva p : Nat) (replace : Bool) : State × Nat :=
  match mapRefusal s ctx dva p replace with
  | some st => (s, st)
  | none =>
    match tablesFor s (tableKeys ctx dva) with
    | none => (s, stNoRes)
    | some s1 =>
      let tier := bitsOf p 3 2
      let fk := frameKey tier (bitsOf p 41 16)
      let s2 := if (frameAt s1 fk).st = 0 then
          frameInit (frameSet s1 fk { st := 1, owner := ctx }) fk (bindOf s1 ctx (kselSlot tier (bitsOf p 6 4)))
        else s1
      ({ s2 with mm := { s2.mm with ptes := mapSet s2.mm.ptes (pteKey ctx dva) (BitVec.ofNat 64 p) } }, stOk)

def unmapPage (s : State) (ctx dva : Nat) : State :=
  tablesTrim { s with mm := { s.mm with ptes := mapDel s.mm.ptes (pteKey ctx dva) } } ctx dva

/-- A frame begins its release: DRAINING (R266). -/
def frameDrain (s : State) (fk : Nat) (rel : Option CmdRef) : State :=
  frameSet s fk { frameAt s fk with st := 2, owner := 0, rel := rel }

/-- Frames of a context that no PTE maps any more are released (R347, R267). -/
def releaseUnmapped (s : State) (fk : Nat) : State :=
  let f := frameAt s fk
  if frameMapped s fk then s
  else if f.st = 1 then frameDrain s fk none
  else if f.st = 5 then frameFree s fk
  else s

end Sys2Proof.Machine
end

