-- ==== Sys2Proof/Machine/MemCmds.lean ====
section
/-! DEFINITION. Events of the memory tiers and of line encryption (spec 11 and 12). -/
namespace Sys2Proof.Machine
open Sys2Proof

/-! ### Far-tier metadata (R297, R301 to R303) -/

/-- Lines of a metadata level (Table 12-7): counter blocks 0, L1 to L5. -/
def mdLines (level : Nat) : Nat := [204800, 25600, 3200, 400, 50, 7].getD level 0
def mdKey (level idx : Nat) : Nat := level * 2 ^ 20 + idx

/-- R301: the block's metadata is rebuilt with node and root counters at 0 under a new sub-key. -/
def mdRebuild (s : State) (blk : Nat) (b : FarBlock) : State :=
  { s with mm := { s.mm with far := mapSet s.mm.far blk { b with nodes := [], dirty := [], kgen := b.kgen + 1 },
                             metaRekey := satInc s.mm.metaRekey } }

/-- METADATA_EVICT (R297, R301): a modified line is written back and its counter in its parent advances; below the
root the parent is modified in turn. -/
def execMetadataEvict (blk level idx : Nat) (s : State) : Out :=
  match mapFind s.mm.far blk with
  | none => .next s
  | some b =>
    let k := mdKey level idx
    if level > 5 || idx ≥ mdLines level || !(b.dirty.contains k) then .next s
    else
      let c := mapGet 0 b.nodes k
      if c = 2 ^ 56 - 1 then .next (mdRebuild s blk b)
      else
        let up := mdKey (level + 1) (idx / 8)
        let d := b.dirty.filter (fun x => x ≠ k)
        let d1 := if level = 5 || d.contains up then d else d ++ [up]
        .next { s with mm := { s.mm with far := mapSet s.mm.far blk { b with nodes := mapSet b.nodes k (c + 1), dirty := d1 } } }

/-- Frames of a far block that are not FREE. -/
def farInUse (s : State) (blk : Nat) : Bool :=
  s.mm.frames.any (fun e => frameTier e.1 = 2 && farBlockOf e.1 = blk && e.2.st ≠ 0)

/-- R303: every counter of a block at zero, its lines without contents. -/
def farInit (s : State) (blk : Nat) (base : W64) : State :=
  let f0 := frameKey 2 (blk * 12800)
  let lk := lineKey f0 0
  let s := cacheDropFrames s (fun f => frameTier f = 2 && farBlockOf f = blk)
  { s with mm := { s.mm with
      far := mapSet s.mm.far blk { base := base },
      majors := mapDrop s.mm.majors (lk / 64) 204800,
      minors := mapDrop s.mm.minors lk (12800 * 1024),
      lines := mapDrop s.mm.lines lk (12800 * 1024),
      bytes := clearBytes s.mm.bytes (byteKey f0 0) (12800 * 65536) } }

/-- FAR_BLOCK_REINIT (R302): a FAILED block whose frames are all FREE is initialised again. -/
def execFarBlockReinit (blk : Nat) (s : State) : Out :=
  match mapFind s.mm.far blk with
  | none => .next s
  | some b =>
    if b.fail.isNone || farInUse s blk then .next s
    else .next (farInit s blk b.base)

/-! ### Patrol scrub (R272, R283) -/

/-- First and last line address (in bytes, exclusive) of a controller's memory; 16 is the far window. -/
def scrubSpan (s : State) (m : Nat) : Nat × Nat :=
  if m < 4 then (m * 131072 * 65536, (m + 1) * 131072 * 65536)
  else if m < 16 then ((m - 4) * 786432 * 65536, (m - 3) * 786432 * 65536)
  else
    let last := s.mm.far.foldl (fun a e => max a (e.1 + 1)) 0
    (0, last * 12800 * 65536)

def scrubTier (m : Nat) : Nat := if m < 4 then 0 else if m < 16 then 1 else 2

/-- R272: frames in SCRUBBING, LOST and RETIRED are skipped, as are blocks that are not initialised. -/
def scrubSkips (s : State) (fk : Nat) : Bool :=
  let st := (frameAt s fk).st
  st = 3 || st = 5 || st = 6 || !(farOk s fk)

/-- The scrub of one line: the code word only, no decryption (Table 12-8). -/
def scrubLine (s : State) (lk : Nat) (e : LineEv) : State :=
  if lineDead s lk e then
    let s1 := lineUncorr (lineSet s lk { lineAt s lk with uncorr := true }) lk
    if e.pcDead && lk / 2 ^ 36 < 2 && (pcAt s (pcKey (lineFrame lk))).st ≠ 3 then pcRetire s1 (pcKey (lineFrame lk)) else s1
  else if lineCorrected s lk e then lineRepair s lk e
  else s

/-- Moves a controller's scrub position on; at the end the pass counts. -/
def scrubNext (s : State) (m next : Nat) : State :=
  let sp := scrubSpan s m
  let x := mcAt s m
  if next ≥ sp.2 then mcSet s m { x with pos := BitVec.ofNat 64 sp.1, passes := satInc x.passes }
  else mcSet s m { x with pos := BitVec.ofNat 64 next }

/-- A controller works on its own accord: io0 for the far window. -/
def mcWorks (s : State) (m : Nat) : Bool :=
  let st := (unitAt s (if m < 16 then mcUnit m else io0)).state
  st = .run || st = .quiescing || st = .quiesced

/-- PATROL_SCRUB: the controller's next line is read, corrected or recorded. -/
def execPatrolScrub (m : Nat) (ev : LineEv) (s : State) : Out :=
  if m > 16 || !(mcWorks s m) || (m < 16 && !(present s.hw (mcUnit m))) || s.mm.scrubCfg.getLsbD 24 then .next s
  else
    let sp := scrubSpan s m
    let pos := max sp.1 (mcAt s m).pos.toNat
    if pos ≥ sp.2 then .next s
    else
      let lk := scrubTier m * 2 ^ 36 + pos / 64
      let fk := lineFrame lk
      if scrubSkips s fk then .next (scrubNext s m ((pos / 65536 + 1) * 65536))
      else if lineWaits s none fk (pos % 65536) false [] then .next s
      else .next (scrubNext (scrubLine s lk { ev with line := lk }) m (pos / 64 * 64 + 64))

/-! ### Row remap, lanes, retirement (R273 to R276) -/

/-- ROW_REMAP_DONE (R273): the remap table entry switches. -/
def execRowRemapDone (m pc row : Nat) (s : State) : Out :=
  let k := m * 128 + pc
  let x := pcAt s k
  if m > 15 || pc ≥ mcPcs m || !(x.pending.contains row) then .next s
  else
    let s1 := pcSet s k { x with pending := x.pending.filter (fun r => r ≠ row), rows := x.rows ++ [row] }
    let c := mcAt s1 m
    let s2 := unitEvt (mcSet s1 m { c with remap := satInc c.remap }) (mcUnit m) (2 ^ 17)
    .next (if x.spare = 0 then pcDegrade s2 k else s2)

def isMgmt (w : Writer) : Bool := w = .mgmt

/-- MC_REMAP_CMD with GO, written by management firmware (R273, R281). -/
def execMcRemapCmd (u : UnitId) (w : Writer) (pc row : Nat) (s : State) : Out :=
  match mcIndex u with
  | none => .next s
  | some m =>
    if !(isMgmt w) || !(present s.hw u) || !(blockLive s u) || pc ≥ mcPcs m || row ≥ pcFrames m * 32 then .next s
    else .next (remapStart s (m * 128 + pc) row)

/-- MC_EVAC with GO (R275): PC, channel of two PCs, or the whole tier unit. -/
def execMcEvac (u : UnitId) (w : Writer) (pc scope : Nat) (s : State) : Out :=
  match mcIndex u with
  | none => .next s
  | some m =>
    if !(isMgmt w) || !(present s.hw u) || !(blockLive s u) || pc ≥ mcPcs m || scope ≥ 3 then .next s
    else
      let pcs := if scope = 0 then [pc] else if scope = 1 then [pc / 2 * 2, pc / 2 * 2 + 1] else List.range (mcPcs m)
      .next (pcs.foldl (fun s j => pcEvacuate s (m * 128 + j)) s)

/-- Copies one line of a migrating frame: uncorrectable lines stay so, tag-failed ones become tag-failed copies
(R273, R300). Counts both. -/
def migLine (ev : List LineEv) (src dst : Nat) (a : State × Nat × Nat) (i : Nat) : State × Nat × Nat :=
  let s := a.1
  let ls := lineKey src (64 * i)
  let ld := lineKey dst (64 * i)
  let e := evFor ev ls
  let x := lineAt s ls
  if lineDead s ls e then (lineSet (lineUncorr s ls) ld { x with uncorr := true }, a.2.1 + 1, a.2.2)
  else if x.tagBad || e.tagBad then (lineSet s ld { x with tagBad := true, copied := true }, a.2.1, a.2.2 + 1)
  else (lineSet s ld x, a.2)

/-- A MEM_RELEASE that waits for a frame follows it to the target. -/
def relMoved (s : State) (f : Frame) (src dst : Nat) : State :=
  match f.rel with
  | none => s
  | some r => match queueAt s r with
    | none => s
    | some q => queueSet s r { q with cmd := q.cmd.map (fun (k : QCmd) =>
        if k.job = Job.release src then { k with job := Job.release dst } else k) }

/-- The target takes over the frame's contents, owner, state and pending release. -/
def migMove (s : State) (src dst : Nat) : State :=
  let s := cacheDropFrames s (fun f => f = dst)
  let f := frameAt s src
  let bs := s.mm.bytes
  let b0 := clearBytes bs (byteKey dst 0) 65536
  let b1 := (bs.filter (fun p => byteKey src 0 ≤ p.1 && p.1 < byteKey src 0 + 65536)).foldl
    (fun m p => byteSet m (p.1 - byteKey src 0 + byteKey dst 0) p.2) b0
  let s1 := { s with mm := { s.mm with
    bytes := clearBytes b1 (byteKey src 0) 65536,
    lines := mapDrop s.mm.lines (lineKey src 0) 1024,
    frames := mapSet (mapDel s.mm.frames src) dst f } }
  let s1 := relMoved s1 f src dst
  if f.st = 4 then
    { s1 with mm := { s1.mm with tables := s1.mm.tables.map (fun e => (e.1, if e.2 / 32 = src then dst * 32 + e.2 % 32 else e.2)) } }
  else
    let rd := s1.mm.redirs.map (fun e => (e.1, if e.2 = src then dst else e.2))
    { s1 with mm := { s1.mm with redirs := mapSet rd src dst } }

/-- MIGRATION_COPY_DONE (R276): the copy of a PC's frame under migration completes. While its controller is out of service the copy does
not go on, and starts again after (R279). -/
def execMigrationCopyDone (m pc : Nat) (ev : List LineEv) (s : State) : Out :=
  let k := m * 128 + pc
  match (pcAt s k).mig with
  | none => .next s
  | some g =>
    if !(mcWorks s m) then .next s else
    let f := frameAt s g.src
    let r := (List.range 1024).foldl (migLine ev g.src g.dst) (s, 0, 0)
    let s1 := migMove r.1 g.src g.dst
    let s2 := pcSet s1 k { pcAt s1 k with mig := none }
    let pl := f.owner + frameTier g.src <<< 12 + frameNum g.src <<< 14 + frameTier g.dst <<< 40 + frameNum g.dst <<< 42
      + (min r.2.1 65535) <<< 68 + (min r.2.2 65535) <<< 84
    let e : Event := { kind := 1, payload := pl }
    let s3 := if f.st = 1 then postNamed s2 f.owner e else postDevice s2 e
    .next (checkReserve s (migNext s3 k) (frameTier g.dst))

/-- Erased lanes of a PC are replaced by spares, at most `fix` as its repair resources allow and no more than a near-tier PC's spare
connections. Corrections count anew, and a lane left without a spare leaves the PC DEGRADED (R274, Table 11-6). -/
def retrainPc (m fix : Nat) (s : State) (pc : Nat) : State :=
  let k := m * 128 + pc
  let x := pcAt s k
  let n := if m < 4 then min fix x.lspare else fix
  let dead := x.lanes.filter (fun l => l.erased)
  let s1 := pcSet s k { x with lanes := dead.drop n, lspare := x.lspare - min n dead.length }
  if dead.length ≤ n then s1 else pcDegrade s1 k

/-- ONLINE_RETRAINING of a channel's two PCs; one that fails to train is RETIRED at once (R275). -/
def execOnlineRetraining (m ch : Nat) (fix : Option Nat × Option Nat) (s : State) : Out :=
  if m > 15 || 2 * ch + 1 ≥ mcPcs m || !(present s.hw (mcUnit m)) then .next s
  else
    let one (s : State) (pc : Nat) (f : Option Nat) : State := match f with
      | some n => retrainPc m n s pc
      | none => if (pcAt s (m * 128 + pc)).st = 3 then s else pcRetire s (m * 128 + pc)
    .next (one (one s (2 * ch) fix.1) (2 * ch + 1) fix.2)

/-! ### Frame release (R266) -/

/-- A frame's migration copy is under way: its release completes on the target (R279). -/
def migrating (s : State) (fk : Nat) : Bool := s.mm.pcs.any (fun e => e.2.mig.any (fun m => m.src = fk))

/-- FRAME_DRAINED: a DRAINING frame enters SCRUBBING. A frame of a FAILED far block is not scrubbed (R302). -/
def execFrameDrained (tier f : Nat) (s : State) : Out :=
  let fk := frameKey tier f
  let x := frameAt s fk
  if tier > 2 || f ≥ 2 ^ 26 || x.st ≠ 2 || migrating s fk then .next s else .next (frameSet s fk { x with st := 3 })

/-- What the scrub of a frame writes: fresh ciphertext under DR5 (R266, R288). -/
def frameScrub (s : State) (fk : Nat) : State :=
  let s := cacheDropFrames s (fun f => f = fk)
  { s with mm := { s.mm with bytes := clearBytes s.mm.bytes (byteKey fk 0) 65536,
                             lines := mapDrop s.mm.lines (lineKey fk 0) 1024 } }

/-- FRAME_SCRUB_DONE: the frame is FREE and a MEM_RELEASE that waits for it completes. -/
def execFrameScrubDone (tier f : Nat) (s : State) : Out :=
  let fk := frameKey tier f
  let x := frameAt s fk
  if tier > 2 || f ≥ 2 ^ 26 || x.st ≠ 3 || migrating s fk then .next s
  else
    let s1 := frameFree (if farOk s fk then frameScrub s fk else s) fk
    match x.rel with
    | some c => .next (finishJob s1 c (.release fk) stOk 0 0)
    | none => .next s1

/-- ENC_ALARM_CLEAR (R307): PF0 writes 1 to ENC_ALARM3.VALID. -/
def execEncAlarmClear (w : Writer) (s : State) : Out :=
  if w = .pf0 && bar0Open s w then .next { s with mm := { s.mm with alarm0 := 0, alarm1 := 0, alarm2 := 0, alarm3 := 0 } } else .next s

end Sys2Proof.Machine
end

