-- ==== Sys2Proof/Machine/RingCore.lean ====
section
/-! DEFINITION. Command entries: their layout, the checks made on reading one, and how a queue takes, starts and
completes its commands (spec 14: R329, R333 to R337, R351). -/
namespace Sys2Proof.Machine
open Sys2Proof

/-! ### Entries (R334, Table 14-4) -/

def eOpc (v : Nat) : Nat := v % 256
def eWaitEn (v : Nat) : Bool := bitOf v 8
def eSigEn (v : Nat) : Bool := bitOf v 9
def eOkOnly (v : Nat) : Bool := bitOf v 10
def eCid (v : Nat) : Nat := bitsOf v 31 16
def eCtx (v : Nat) : Nat := bitsOf v 43 32
def eWaitH (v : Nat) : Nat := bitsOf v 95 64
def eSigH (v : Nat) : Nat := bitsOf v 127 96
def eWaitVal (v : Nat) : Nat := bitsOf v 191 128
def eSigVal (v : Nat) : Nat := bitsOf v 255 192
/-- Bits [hi:lo] of the payload field at an entry byte offset. -/
def pay (v off hi lo : Nat) : Nat := bitsOf v (8 * off + hi) (8 * off + lo)

/-- Payload fields of each operation as (byte offset, high bit, low bit) (Tables 14-7, 15-7, 16-4, 17-7); none for a
reserved OPC. -/
def payFields (opc : Nat) : Option (List (Nat × Nat × Nat)) :=
  match opc with
  | 0x00 | 0x01 | 0x04 | 0x44 | 0x45 | 0x46 => some []
  | 0x02 => some [(0x20, 23, 0)]
  | 0x03 => some [(0x20, 11, 0)]
  | 0x05 | 0x06 => some [(0x20, 8, 0)]
  | 0x07 => some [(0x20, 9, 0), (0x22, 4, 0), (0x28, 63, 0), (0x30, 63, 0)]
  | 0x08 => some [(0x20, 12, 0), (0x28, 63, 0)]
  | 0x09 => some [(0x20, 31, 0), (0x24, 12, 0)]
  | 0x10 => some [(0x20, 3, 0), (0x28, 63, 0), (0x30, 63, 0)]
  | 0x11 | 0x12 => some [(0x20, 31, 0), (0x24, 31, 0)]
  | 0x13 | 0x15 | 0x16 | 0x28 => some [(0x20, 31, 0)]
  | 0x14 => some [(0x20, 5, 0), (0x20, 23, 8), (0x24, 31, 0), (0x28, 31, 0)]
  | 0x18 => some [(0x20, 31, 0), (0x24, 31, 0), (0x28, 63, 0), (0x30, 0, 0)]
  | 0x19 => some [(0x20, 31, 0), (0x24, 31, 0), (0x28, 31, 0)]
  | 0x1A | 0x1C => some [(0x20, 1, 0), (0x24, 25, 0)]
  | 0x1B => some [(0x20, 2, 0), (0x24, 25, 0), (0x28, 31, 0)]
  | 0x20 => some [(0x20, 3, 0), (0x24, 31, 0), (0x28, 63, 0), (0x30, 63, 0)]
  | 0x21 => some [(0x20, 3, 2), (0x24, 31, 0), (0x28, 63, 0), (0x30, 63, 0)]
  | 0x29 => some [(0x20, 31, 0), (0x24, 12, 0), (0x28, 63, 0)]
  | 0x2A => some [(0x24, 12, 0), (0x24, 21, 16), (0x28, 63, 0)]
  | 0x2B | 0x2C => some [(0x20, 31, 0), (0x24, 12, 0)]
  | 0x30 | 0x31 | 0x37 => some [(0x20, 12, 0)]
  | 0x32 => some [(0x20, 18, 0), (0x28, 63, 0), (0x30, 63, 0)]
  | 0x33 | 0x34 => some [(0x20, 5, 0)]
  | 0x35 => some [(0x20, 15, 0), (0x28, 63, 0), (0x30, 63, 0), (0x38, 63, 0)]
  | 0x36 => some [(0x20, 13, 0), (0x28, 63, 0), (0x30, 63, 0)]
  | 0x38 => some [(0x20, 15, 0), (0x22, 1, 0), (0x24, 31, 0)]
  | 0x39 => some [(0x20, 31, 0), (0x24, 31, 0), (0x28, 63, 0)]
  | 0x3A => some [(0x20, 31, 0), (0x24, 31, 0), (0x28, 63, 0), (0x30, 1, 0)]
  | 0x3B => some [(0x20, 15, 0)]
  | 0x3C => some [(0x20, 15, 0), (0x28, 63, 0)]
  | 0x3D => some [(0x20, 15, 0), (0x22, 0, 0), (0x28, 63, 0), (0x30, 63, 0)]
  | 0x3E => some [(0x28, 63, 0), (0x30, 63, 0), (0x38, 63, 0)]
  | 0x3F => some [(0x20, 1, 0), (0x24, 31, 0), (0x28, 63, 0), (0x30, 63, 0), (0x38, 63, 0)]
  | 0x40 => some [(0x20, 1, 0), (0x24, 31, 0)]
  | 0x41 => some [(0x20, 1, 0), (0x24, 31, 0), (0x28, 63, 0), (0x30, 63, 0)]
  | 0x42 | 0x43 => some [(0x20, 1, 0)]
  | 0x47 => some [(0x20, 1, 0), (0x24, 31, 0), (0x28, 63, 0)]
  | _ => none

def payMask (fs : List (Nat × Nat × Nat)) : Nat :=
  fs.foldl (fun m f => Nat.lor m ((2 ^ (f.2.1 + 1 - f.2.2) - 1) <<< (8 * f.1 + f.2.2))) 0

/-- R7, R334: no bit is set outside the fields that the operation and its enables use. -/
def reservedOk (v : Nat) (fs : List (Nat × Nat × Nat)) : Bool :=
  bitsOf v 15 11 = 0 && bitsOf v 63 44 = 0
    && (eWaitEn v || (eWaitH v = 0 && eWaitVal v = 0)) && (eSigEn v || (eSigH v = 0 && eSigVal v = 0))
    && Nat.land (v >>> 256) ((payMask fs) >>> 256) = v >>> 256

/-! ### Checks on reading (R329, R335) -/

def isAdminRing (s : State) (r : CmdRef) : Bool := isAdminCtx s.hw r.ctx && r.qid = 0

/-- R329. -/
def ctxOk (s : State) (r : CmdRef) (v : Nat) : Bool :=
  if isAdminRing s r then
    eCtx v < 512 && (ctxAt s (eCtx v)).st ≠ .free && ctxPort s (eCtx v) = ctxPort s r.ctx
  else eCtx v = r.ctx

/-- Table 14-7 and its kin: the rings that accept an operation. Key and attestation operations on operator slots are
for admin rings, decided with the slot. -/
def ringOk (s : State) (r : CmdRef) (v : Nat) : Bool :=
  let adm := isAdminRing s r
  let own : Bool := eCtx v = r.ctx
  let o := eOpc v
  if (1 ≤ o && o ≤ 7) || o = 9 || o = 0x1B || o = 0x1C || o = 0x30 then adm
  else if o = 8 || (0x40 ≤ o && o ≤ 0x47) then adm && r.ctx = 0
  else if 0x18 ≤ o && o ≤ 0x1A then own || (adm && !(tdiLocked s (eCtx v)))
  else if o = 0x31 || o = 0x37 then adm || own
  else if 0x32 ≤ o && o ≤ 0x36 then own
  else if (0x38 ≤ o && o ≤ 0x3B) || o = 0x3D then adm || own
  else true

/-- R340: what an ADMIN_ONLY port accepts. -/
def negOk (s : State) (r : CmdRef) (v : Nat) : Bool :=
  (hportAt s (ctxPort s r.ctx)).negMaj ≠ 0 || eOpc v ≤ 2 || (0x40 ≤ eOpc v && eOpc v ≤ 0x47)

/-- The type of the handle at payload byte 0x20; 0 any type, none for an operation without a handle. -/
def handleTyp (opc : Nat) : Option Nat :=
  match opc with
  | 0x09 | 0x16 => some 2
  | 0x11 | 0x12 | 0x13 => some 0
  | 0x18 | 0x19 => some 1
  | 0x28 | 0x29 => some 4
  | 0x2B | 0x2C => some 5
  | _ => none

/-- Check 5 of R335. -/
def handlesOk (s : State) (v : Nat) : Bool :=
  (match handleTyp (eOpc v) with
    | some t => (handleObj s (eCtx v) (pay v 0x20 31 0) t).isSome
    | none => true)
  && (!(eWaitEn v) || (handleObj s (eCtx v) (eWaitH v) 2).isSome)
  && (!(eSigEn v) || (handleObj s (eCtx v) (eSigH v) 2).isSome)

def hasSignal (s : State) (c h : Nat) : Bool := (handleFind s c h).any (fun e => e.2.signal)

/-- Checks 1 to 7 of R335, the right of FENCE_ABANDON (R342), then R330: the status of the first that fails. -/
def entryCheck (s : State) (r : CmdRef) (v : Nat) : Option Nat :=
  if !(ctxOk s r v) then some stDenied
  else match payFields (eOpc v) with
    | none => some stInvalid
    | some fs =>
      if !(reservedOk v fs) then some stInvalid
      else if !(ringOk s r v) then some stDenied
      else if !(negOk s r v) then some stNotNeg
      else if !(handlesOk s v) then some stInvalid
      else if eSigEn v && !(hasSignal s (eCtx v) (eSigH v)) then some stDenied
      else if eSigEn v && eSigVal v = fenceTop then some stFenceEnd
      else if eOpc v = 0x16 && !(hasSignal s (eCtx v) (pay v 0x20 31 0)) then some stDenied
      else if (ctxAt s (eCtx v)).st = .disabling then some stIllegal
      else none

/-! ### Taking a command from its queue (R333, R336) -/

/-- Memory objects of a context that a span touches and that are not being released (Table 14-10). -/
def memObjsAt (s : State) (c lo n : Nat) : List Nat :=
  (s.rg.objs.filter (fun e => e.2.typ = 1 && e.2.owner = c && !e.2.releasing && e.2.base < lo + n && lo < e.2.base + e.2.size
    && (e.2.host ≠ 0 || devCount s e.1 ≠ 0))).map Prod.fst

/-- Further references of Table 14-10: a DMA command's memory objects; a RUN's plate and every memory object. -/
def heldObjs (s : State) (v : Nat) (pobj : Option Nat) : List Nat :=
  let c := eCtx v
  if eOpc v = 0x20 then
    (if pay v 0x20 1 0 = 0 then memObjsAt s c (pay v 0x28 63 0) (pay v 0x24 31 0) else [])
      ++ (if pay v 0x20 3 2 = 0 then memObjsAt s c (pay v 0x30 63 0) (pay v 0x24 31 0) else [])
  else if eOpc v = 0x21 then
    (if pay v 0x20 3 2 = 0 then memObjsAt s c (pay v 0x30 63 0) (pay v 0x24 31 0) else [])
  else if eOpc v = 0x29 then pobj.toList ++ memObjsAt s c 0 (2 ^ 48)
  else []

def cmdAt (s : State) (r : CmdRef) : Option QCmd := (queueAt s r).bind Queue.cmd

def cmdUpd (s : State) (r : CmdRef) (f : QCmd → QCmd) : State :=
  match queueAt s r with
  | none => s
  | some q => queueSet s r { q with cmd := q.cmd.map f }

/-- The command goes on in other blocks until one ends it. -/
def setJob (s : State) (r : CmdRef) (j : Job) : State := cmdUpd s r (fun k => { k with st := .busy, job := j })

/-- Ends a command with DETAIL and RESULT. -/
def finishDet (s : State) (r : CmdRef) (status result detail : Nat) : State :=
  cmdUpd s r (fun k => { endCmd k status result with detail := if k.status.isSome then k.detail else detail })

/-- The queue faults: QUEUE_FAULT is posted (R333). -/
def queueFault (s : State) (r : CmdRef) (cause : Nat) : State :=
  match queueAt s r with
  | none => s
  | some q => postNamed (queueSet s r { q with st := .fault }) r.ctx
      { kind := 10, payload := r.ctx + (r.qid % 32) <<< 12 + cause <<< 17 }

/-- A record of the queue's completion ring is free and unclaimed. -/
def recordFree (q : Queue) : Bool := q.cq.used < ringSize q.cq

/-- The entry at SQ_HEAD, as a number; none where the window line reads uncorrectable. -/
def entryBytes (s : State) (r : CmdRef) (q : Queue) : Option (List Byte) :=
  let off := q.sqOff + 64 * q.head
  if s.rg.winBad.contains ((winBase r.ctx + off) / 64) then none else some (winRead s r.ctx off 64)

/-- The queue takes the entry at its head: the head advances, a record is claimed, and the checks decide whether the
command waits, is ready or has ended (R335, R336, R351). -/
def takeEntry (s : State) (r : CmdRef) (q : Queue) (bs : List Byte) : State :=
  let v := leVal bs
  let q1 := { q with head := (q.head + 1) % 2 ^ q.sqLog2 }
  match entryCheck s r v with
  | some st => queueSet s r { q1 with cmd := some { entry := bs, st := .ended, status := some st } }
  | none =>
    let c := eCtx v
    let po := (handleTyp (eOpc v)).bind (fun t => handleObj s c (pay v 0x20 31 0) t)
    let wo := if eWaitEn v then handleObj s c (eWaitH v) 2 else none
    let so := if eSigEn v then handleObj s c (eSigH v) 2 else none
    let k : QCmd := { entry := bs, pobj := po, pidx := pay v 0x20 13 0, wobj := wo, sobj := so,
                      refs := heldObjs s v po }
    match wo.bind (objAt s) with
    | none => queueSet s r { q1 with cmd := some k }
    | some f =>
      match fenceWait f (eWaitVal v) with
      | .stand => queueSet s r { q1 with cmd := some { k with st := .waiting } }
      | .go => queueSet s r { q1 with cmd := some k }
      | .fail st => queueSet s r { q1 with cmd := some { k with st := .ended, status := some st } }

/-- A command that its own row carries on: its upstream reads are outstanding, or its hold is placed. -/
def goesOn (k : QCmd) : Bool := match k.job with | .dma => true | .ckpt _ => true | _ => false

/-- Executes a command that is ready, or that its row carries on. -/
def runReady (s : State) (r : CmdRef) (ok : Nat → Bool) (exe : State → CmdRef → Nat → State) : State :=
  match cmdAt s r with
  | none => s
  | some k =>
    let v := leVal k.entry
    if ok (eOpc v) && (k.st = .ready || (k.st = .busy && goesOn k)) then exe s r v else s

/-- The queue's next entry is read when it may start (R336). -/
def queueRead (s : State) (r : CmdRef) (ok : Nat → Bool) : State :=
  match queueAt s r with
  | none => s
  | some q =>
    if q.st ≠ .idle || q.cmd.isSome || q.head = q.tail || !(recordFree q) then s
    else match entryBytes s r q with
      | none => queueFault s r 2
      | some bs => if ok (eOpc (leVal bs)) then takeEntry s r q bs else s

/-- A ring command: the queue's command of this operation is read if it is next, and executes once it is ready. -/
def ringRow (ctx qid : Nat) (ok : Nat → Bool) (exe : State → CmdRef → Nat → State) (s : State) : State :=
  let r : CmdRef := { ctx := ctx, qid := qid }
  runReady (queueRead s r ok) r ok exe

/-- The operation of one opcode. -/
def ringCmd (ctx qid opc : Nat) (exe : State → CmdRef → Nat → State) (s : State) : Out :=
  .next (ringRow ctx qid (fun o => o = opc) exe s)

/-! ### Firmware behind a command (R420) -/

/-- A command that needs management firmware runs while its cores run, waits while they do not, and completes with
RETRY_UNIT_BUSY once they have failed. -/
def needFw (exe : State → CmdRef → Nat → State) (s : State) (r : CmdRef) (v : Nat) : State :=
  if s.fw.mgmt = 1 then exe s r v else if s.fw.mgmt = 3 then finishCmd s r stBusy else s

/-! ### Upstream accesses (R316, R318, R321, R326) -/

/-- The selective stream of a function is halted, or its port's link stream. -/
def streamHalted (s : State) (c : Nat) : Bool :=
  let p := hportAt s (ctxPort s c)
  p.halted.contains 1 || (ctxTdi s c ≠ 0 && p.halted.contains (2 + (funcAt s (ctxFunc s c)).stream))

/-- Upstream requests of a context's function wait: Bus Master Enable is clear, or its port is held by a QUIESCE. -/
def upWaits (s : State) (c : Nat) : Bool :=
  !(funcAt s (ctxFunc s c)).bme || (unitAt s (.hport (ctxPort s c))).state = .quiescing
    || (unitAt s (.hport (ctxPort s c))).state = .quiesced

/-- R318, R326: the path to the host is not available. -/
def upDown (s : State) (c : Nat) : Bool :=
  let p := hportAt s (ctxPort s c)
  p.speed = 0 || p.viral || streamHalted s c || (unitAt s (.hport (ctxPort s c))).state ≠ .run

/-- R316: a span lies in one window granted to the context's function. -/
def inWindow (s : State) (c a n : Nat) (wr : Bool) : Bool :=
  (funcAt s (ctxFunc s c)).wins.any (fun e => (!wr || e.2.write) && e.2.base ≤ a && a + n ≤ e.2.base + e.2.size)

def hostWrite (s : State) (c a : Nat) (bs : List Byte) : State :=
  if bs.isEmpty then s
  else { s with rg := { s.rg with hostWr := s.rg.hostWr ++ [{ func := ctxFunc s c, addr := a, bytes := bs }] } }

/-- DETAIL of a status that a memory controller raised: its UNIT_ID and the line's address (Table 14-6). -/
def memDetail (s : State) (ctx : Nat) (bad : List (Nat × Nat)) : Nat :=
  match bad with
  | [] => 0
  | (a, st) :: _ =>
    if st ≠ stUncorr then 0
    else match xlate s ctx a false with
      | .fault _ => 0
      | .page fk off _ =>
        let u := if frameTier fk = 2 then io0 else mcUnit (mcOf fk)
        unitIdReg u + (((frameNum fk * 65536 + off) / 64 * 64) % 2 ^ 32) <<< 32

end Sys2Proof.Machine
end

