-- ==== Sys2Proof/Machine/CollOps.lean ====
section
/-! DEFINITION. Collective groups and launches: what they share — programs, windows and buffers, tokens owed, failing a
launch or a group, and leaving a group (spec 09). -/
namespace Sys2Proof.Machine
open Sys2Proof

/-! ### Drupelet entries (Table 9-5) -/

def enOp (e : Nat) : Nat := bitsOf e 3 0
def enA (e : Nat) : Nat := bitsOf e 7 4
def enB (e : Nat) : Nat := bitsOf e 11 8
def enC (e : Nat) : Nat := bitsOf e 15 12
def enFreeA (e : Nat) : Bool := bitOf e 16
def enFreeB (e : Nat) : Bool := bitOf e 17
def enInc (e : Nat) : Nat := bitsOf e 27 20
def enPeer (e : Nat) : Nat := bitsOf e 43 32
def enXtag (e : Nat) : Nat := bitsOf e 63 48
def enDoffS (e : Nat) : Nat := bitsOf e 95 64
def enDoffD (e : Nat) : Nat := bitsOf e 127 96
def enLen (e : Nat) : Nat := 64 * (bitsOf e 137 128 + 1)

/-- Whether an operation names an operand as its source or destination, and the operand is one of Table 9-5. -/
def enOperandOk (e : Nat) : Bool :=
  match enOp e with
  | 1 => enA e ≤ 5
  | 2 => enC e ≤ 5 && enC e ≠ 4
  | 3 => enA e ≤ 5 && enB e ≤ 5 && enC e ≤ 5 && enC e ≠ 4
  | 4 => enA e ≤ 5 && enC e ≤ 5 && enC e ≠ 4
  | _ => true

/-- R220, R221: a program that the engine takes. `prev` are the entries before the one looked at, latest first. -/
def progGo (prev es : List Nat) : Bool :=
  match es with
  | [] => true
  | e :: r =>
    enOp e ≤ 7 && bitsOf e 19 18 = 0 && bitsOf e 31 28 = 0 && bitsOf e 47 44 = 0 && bitsOf e 255 138 = 0
      && enOperandOk e
      && (enOp e ≠ 5 || (1 ≤ enPeer e && enPeer e ≤ prev.length && (prev.take (enPeer e)).all (fun x => enOp x ≠ 5)))
      && progGo (e :: prev) r

def progOk (es : List Nat) : Bool := es.length ≤ 65536 && progGo [] es && es.any (fun e => enOp e = 0)

/-- Times that the entry at a position runs: COUNT of the LOOP whose body holds it, else once (R220). -/
def repeats (es : List Nat) (i : Nat) : Nat :=
  match (List.range es.length).find? (fun j => enOp (es.getD j 0) = 5 && i < j && j ≤ i + enPeer (es.getD j 0)) with
  | some j => max 1 (enDoffS (es.getD j 0))
  | none => 1

/-- Every AT_DATA increment of a program. -/
def progIncs (es : List Nat) : Nat :=
  (List.range es.length).foldl (fun n i =>
    let e := es.getD i 0
    if 2 ≤ enOp e && enOp e ≤ 4 && enC e = 5 then n + enInc e * repeats es i else n) 0

/-! ### Groups and lanes -/

def localUpd (g : Group) (r : Nat) (f : LocalMem → LocalMem) : Group :=
  { g with locals := g.locals.map (fun m => if m.rank = r then f m else m) }

def laneAt (s : State) (t : Nat) : Option LaneRun := mapFind s.fb.lanes t
def laneSet (s : State) (t : Nat) (x : LaneRun) : State := { s with fb := { s.fb with lanes := mapSet s.fb.lanes t x } }
def laneDel (s : State) (t : Nat) : State := { s with fb := { s.fb with lanes := mapDel s.fb.lanes t } }

def progKey (rank sched : Nat) (canon : Bool) : Nat := rank * 2048 + sched * 2 + boolNat canon
def progOf (g : Group) (rank sched : Nat) (canon : Bool) : List Nat := mapGet [] g.progs (progKey rank sched canon)
def rqOf (g : Group) (sched : Nat) : Nat := g.reqs.getD sched 0

def engUpd (s : State) (c : Nat) (f : CollEng → CollEng) : State :=
  { s with fb := { s.fb with eng := mapSet s.fb.eng c (f (mapGet {} s.fb.eng c)) } }

/-- Nodes of the group's other member devices. -/
def remoteNodes (s : State) (g : Group) : List Nat :=
  ((g.members.map Prod.fst).filter (fun n => n ≠ nodeOf s)).eraseDups

/-- The lowest rank on a node. -/
def rankOnNode (g : Group) (node : Nat) : Nat := (g.members.findIdx? (fun m => m.1 = node)).getD 0

/-- One launch of a partition's tile has ended (R219, R235). -/
def launchEnded (s : State) (t : Nat) : State :=
  partUpd s t (fun p => { p with launched := p.launched - 1, sinceOpen := p.sinceOpen - 1 })

/-- Canonical-order mode of the running plate (R205). -/
def laneCanon (s : State) (t : Nat) : Bool :=
  match partOf s t with
  | some p => (p.run.map RunRec.canon).getD false
  | none => false

/-- Tokens that a launch still owes (R217). -/
def payTokens (s : State) (t rq data : Nat) : State :=
  tokenAdd (tokenAdd s t (rqAtData rq) data) t (rqAtDone rq) 1

/-- A failed launch on one tile: its record blocks the step or fails the run, and its tokens apply (R217, R235). -/
def failTile (s : State) (t status lseq : Nat) : State := launchEnded (tileErr s t status 13 lseq 0) t

/-- GRP_STAT and GRP_FAIL_CNT after a failed launch. -/
def noteFail (s : State) (gix status src : Nat) : State :=
  groupUpd s gix (fun g => { g with fails := satInc g.fails, lastErr := status,
                                    faultSrc := if src = 0 then g.faultSrc else src })

/-- The launch that runs on a lane fails. -/
def failLane (s : State) (t status src : Nat) : State :=
  match laneAt s t with
  | none => s
  | some l =>
    let s1 := match groupAt s l.gix with
      | some g => payTokens s t (rqOf g l.sched) (progIncs (progOf g l.rank l.sched l.canon) - l.applied)
      | none => s
    failTile (noteFail (laneDel s1 t) l.gix status src) t status l.lseq

/-- A failure notice to every other member device (R233, R234). That of a whole group carries the highest STEP, so that no
launch's notice is taken for its repeat. -/
def sendFail (s : State) (gix status rank step lseq : Nat) (whole : Bool) : State :=
  match groupAt s gix with
  | none => s
  | some g => (remoteNodes s g).foldl (fun s n =>
      sendFrames s n false [{ typ := 5, group := g.id, step := if whole then 2 ^ 64 - 1 else step, lseq := lseq, srcRank := rank,
                              dstRank := rankOnNode g n, ctype := 8,
                              body := [BitVec.ofNat 8 status, BitVec.ofNat 8 (boolNat whole)] }]) s

/-- A launch (STEP, LSEQ) of a group fails on every local lane that runs it and on lanes that come to it later, until the member's next
OPEN or plate start numbers its launches anew (R218, R234). -/
def failLaunch (s : State) (gix step lseq status src : Nat) : State :=
  let hit := (s.fb.lanes.filter (fun e => e.2.gix = gix && e.2.step = step && e.2.lseq = lseq)).map Prod.fst
  let s1 := hit.foldl (fun s t => failLane s t status src) s
  groupUpd s1 gix (fun g => { g with
    failedL := (g.failedL ++ g.locals.map (fun m => (m.rank, step, lseq, status))).eraseDups })

/-- R234: the launch of a lane fails on every member, and the other devices are told. -/
def abortLaunch (s : State) (t status src : Nat) : State :=
  match laneAt s t with
  | none => s
  | some l => sendFail (failLaunch s l.gix l.step l.lseq status src) l.gix status l.rank l.step l.lseq false

/-! ### Failing and leaving a group (R214, R232, R233) -/

/-- The group's vote decided ABORT for a member whose PREPARED stands (R194). -/
def voteAborted (s : State) (t0 : Nat) : State :=
  match partOf s t0 with
  | none => s
  | some p => if p.prep.isSome then txnAbortGate s p.tid 5 64 else s

/-- A group COMMIT on a member partition (R191, R194, R196): the step it prepared commits, whatever has become of its plate since; any
other partition notes GRP_STEP. -/
def commitPart (s : State) (t0 step round : Nat) : State :=
  match partOf s t0 with
  | none => s
  | some p0 =>
    let p := { p0 with grpStep := BitVec.ofNat 64 (step + 1), abortVote := false }
    if p.prep ≠ some (step + 1, round) then partSet s p
    else match (if p.opened then mapFind s.un.txns p.tid else none) with
      | some x => stepCommitted (partSet s p) p.tid x p
      | none => partSet s p

/-- A group ABORT on a member partition: its step aborts with cause VOTE and gate bit VOTE (R194). -/
def abortPart (s : State) (t0 : Nat) : State :=
  partUpd (voteAborted s t0) t0 (fun p => { p with prep := none, abortVote := false })

/-- What the record says of a vote that no decision has reached: COMMIT where GRP_STEP is the step after it. -/
def settleVote (s : State) (m : LocalMem) (grpStep : Nat) : State :=
  match m.vote with
  | some (true, step) =>
    if m.phase ≥ 2 then s
    else if grpStep = step + 1 then commitPart s m.t0 step m.round else abortPart s m.t0
  | _ => s

/-- A local member at the failure of its group (R232): where rank 0 is here its record settles the vote, and where rank 0 is lost an
undecided vote decides ABORT; either way its transaction closes. Otherwise rank 0's device sends the decision with CLOSED. -/
def memberFailed (g : Group) (lost : Nat) (s : State) (m : LocalMem) : State :=
  let here := (localOfRank g 0).isSome
  if here || lost = 0 then
    let s1 := settleVote s m (if here && g.record then g.grpStep.toNat else 0)
    partUpd s1 m.t0 (fun p => { p with retained := false })
  else s

/-- The CLOSED of a failed group (R232): rank 0's device sends it to every remote member, with the group record's STEP, which settles a vote
that no decision has reached. -/
def closeRemote (g : Group) (s : State) : State :=
  match localOfRank g 0 with
  | none => s
  | some m => (List.range g.members.length).foldl (fun s r =>
    let n := ((g.members.getD r (0, 0))).1
    if n = nodeOf s then s
    else sendFrames s n false [{ typ := 5, group := g.id, step := if g.record then g.grpStep.toNat else 0, lseq := m.round, srcRank := 0,
                                 dstRank := r, ctype := 6 }]) s

/-- Ends the join that a member waits with. -/
def joinDone (status : Nat) (s : State) (m : LocalMem) : State :=
  match m.join with
  | none => s
  | some r => finishCmd s r status

/-- A group turns FAILED on this device (R233); `tell` sends the notice to the other devices. -/
def groupFail (s : State) (gix status lost : Nat) (tell : Bool) : State :=
  match groupAt s gix with
  | none => s
  | some g =>
    if g.st = 3 then s
    else
      let closed : Bool := (localOfRank g 0).isSome || lost = 0
      let fresh (m : LocalMem) : LocalMem := { rank := m.rank, t0 := m.t0, obj := m.obj, joined := m.joined, round := m.round }
      let s0 := match g.tid with
        | none => s
        | some tid =>
          let s0 := txnAbort s tid 5
          { s0 with un := { s0.un with txns := mapDel s0.un.txns tid } }
      let s1 := groupSet s0 gix { g with st := 3, lastErr := status, lostRank := lost, tid := none,
                                         locals := g.locals.map (fun m => if closed then fresh m else { m with join := none }) }
      let lanes := (s1.fb.lanes.filter (fun e => e.2.gix = gix)).map Prod.fst
      let s2 := lanes.foldl (fun s t => failLane s t stMemberLost 0) s1
      let s3 := groupUpd s2 gix (fun g => { g with lastErr := status })
      let s4 := g.locals.foldl (joinDone status) s3
      let s5 := closeRemote g (g.locals.foldl (memberFailed g lost) s4)
      if tell then sendFail s5 gix status lost 0 0 true else s5

/-- Frees a GIX: its programs, keys and messages go with it (R214, R247). -/
def groupFree (s : State) (gix : Nat) : State :=
  match groupAt s gix with
  | none => s
  | some g => { s with fb := { s.fb with
      groups := mapDel s.fb.groups gix,
      msgs := s.fb.msgs.filter (fun f => f.group ≠ g.id),
      early := s.fb.early.filter (fun f => f.group ≠ g.id),
      waitq := s.fb.waitq.filter (fun e => e.2.1.group ≠ g.id),
      ctrlDone := s.fb.ctrlDone.filter (fun e => e.1 ≠ gix) } }

/-- A local member leaves (R214): the group fails with MEMBER_LOST and its rank; the last leaver frees the GIX. -/
def memberLeave (s : State) (gix t0 : Nat) : State :=
  match groupAt s gix with
  | none => s
  | some g =>
    match localAt g t0 with
    | none => s
    | some m =>
      let s1 := groupFail s gix stMemberLost m.rank true
      let s2 := groupUpd s1 gix (fun g => { g with locals := g.locals.filter (fun x => x.t0 ≠ t0) })
      match groupAt s2 gix with
      | some h => if h.locals.isEmpty then groupFree s2 gix else s2
      | none => s2

/-- A partition leaves every group it has joined (R359). -/
def leaveAll (s : State) (t0 : Nat) : State := s.fb.groups.foldl (fun s e => memberLeave s e.1 t0) s

/-- A queued launch of a member whose plate has stopped fails on every member under the LSEQ that its COLL gave it (R218, R234, R235). -/
def failQueued (p : Part) (s : State) (l : Launch) : State :=
  match groupOfSlot s p.t0 l.group with
  | none => failTile s l.tile stPeerAbort 0
  | some gix =>
    let k := l.tile * 64 + gix
    let lseq := mapGet 0 s.fb.lseqs k
    let s1 := { s with fb := { s.fb with lseqs := mapSet s.fb.lseqs k ((lseq + 1) % 65536) } }
    let rank := (((groupAt s1 gix).bind (fun g => localAt g p.t0)).map LocalMem.rank).getD 0
    let s2 := match groupAt s1 gix with
      | some g => if l.sched < g.reqs.length then
          payTokens s1 l.tile (rqOf g l.sched) (progIncs (progOf g rank l.sched (laneCanon s1 l.tile)))
        else s1
      | none => s1
    let s3 := failTile (noteFail (failLaunch s2 gix l.step lseq stPeerAbort 0) gix stPeerAbort 0) l.tile stPeerAbort lseq
    sendFail s3 gix stPeerAbort rank l.step lseq false

/-- A member whose plate has stopped fails the launches it has not completed, those still queued included (R234). -/
def failStopped (s : State) (p : Part) : State :=
  let ts := partTiles p
  let s1 := ts.foldl (fun s t => abortLaunch s t stPeerAbort 0) s
  ts.foldl (fun s t =>
    let c := t / 16
    let q := mapGet [] s.tl.lqueue c
    let mine := q.filter (fun l => l.tile = t)
    if mine.isEmpty then s
    else mine.foldl (failQueued p)
      { s with tl := { s.tl with lqueue := mapSet s.tl.lqueue c (q.filter (fun l => l.tile ≠ t)) } }) s1

/-! ### COLL -/

/-- The descriptor registers that a launch names: those of its launch request, as far as one is known (R211, R217). -/
def collTds (s : State) (t group sched : Nat) : List Nat :=
  match (partOf s t).bind (fun p => groupOfSlot s p.t0 group) with
  | none => []
  | some g => match mapFind s.fb.groups g with
    | none => []
    | some x =>
      let rq := rqOf x sched
      [rqTdS rq, rqTdD rq] ++ (if rqOp rq = 6 || rqOp rq = 7 then [rqTdCnt rq, rqTdRcnt rq] else [])

/-- COLL (R147): posted to the cluster's launch queue of 16 entries; a full queue holds the stroke. Its descriptors are read as it latches
them (R86, R110). -/
def execColl (t group sched sreg : Nat) (more : Bool) (s : State) : Out :=
  let c := t / 16
  let q := mapGet [] s.tl.lqueue c
  let sy := 8 + (group % 64) <<< 4 + (sched % 1024) <<< 10 + (sreg % 64) <<< 20
  .next (waitSlot s t sy (q.length < 16) more (fun s =>
    let l : Launch := { tile := t, group := group % 64, sched := sched % 1024, arg := sVal s t (sreg % 64),
                        step := (tileAt s t).stepCopy.toNat,
                        tds := (strokeRegs (tileAt s t)).td }
    let s1 := noteLatch (noteS s t [sreg % 64]) t 13 (collTds s t (group % 64) (sched % 1024)) []
    let s2 := { s1 with tl := { s1.tl with lqueue := mapSet s1.tl.lqueue c (q ++ [l]) } }
    partUpd s2 t (fun p => { p with launched := p.launched + 1,
                                    sinceOpen := if p.opened then p.sinceOpen + 1 else p.sinceOpen })))

end Sys2Proof.Machine
end

