-- ==== Sys2Proof/Machine/Cache.lean ====
section
/-! DEFINITION. The cluster caches: the ways of a partition, fills and the lines that stream units and plate fetchers read (spec 05, R127 to
R130). -/
namespace Sys2Proof.Machine
open Sys2Proof

/-! ### Cluster cache (R127 to R130) -/

/-- Ways of a partition in the cluster of tile t: one per member tile there (R128). -/
def cacheWays (s : State) (t : Nat) : List Nat :=
  match partOf s t with
  | none => []
  | some p => ((partTiles p).filter (fun u => u / 16 = t / 16)).map (fun u => u % 16)

def cacheAt (s : State) (c : Nat) : CCache := mapGet {} s.tl.caches c
def cacheSet (s : State) (c : Nat) (x : CCache) : State := { s with tl := { s.tl with caches := mapSet s.tl.caches c x } }

def cacheIndex (l : Nat) : Nat := l % 8192

/-- The line to replace among a set's candidates, least recently used first: one not kept unless all are (R129). -/
def victim (ls : List CLine) : Option CLine :=
  match ls.reverse.find? (fun l => !l.kept) with
  | some l => some l
  | none => ls.reverse.head?

/-- A fill under CPOL 0 NORMAL, 1 STREAM, 2 KEEP. The list stands most recently used first. -/
def cacheFill (x : CCache) (ways : List Nat) (l cpol : Nat) : CCache :=
  let cand := x.lines.filter (fun e => ways.contains e.way && cacheIndex e.line = cacheIndex l)
  let free := ways.find? (fun w => !(cand.any (fun e => e.way = w)))
  let out := if free.isSome then none else victim cand
  match free, out with
  | none, none => x
  | _, _ =>
    let way := free.getD ((out.map CLine.way).getD 0)
    let keep := x.lines.filter (fun e => some e ≠ out)
    let e : CLine := { way := way, line := l, kept := cpol = 2 }
    { x with lines := if cpol = 1 then keep ++ [e] else e :: keep,
             bad := x.bad.filter (fun w => w / 8 ≠ l && (out.map CLine.line) ≠ some (w / 8)) }

/-- A line under the frame that its PTE names, or none without translation. -/
def cacheLine (s : State) (ctx dva : Nat) : Option Nat :=
  (mapFind s.mm.ptes (pteKey ctx dva)).map (fun p => lineKey (pteFrame p) (dva % 65536))

/-- Device bytes that a stream unit has fetched: by line address ÷ 64. -/
abbrev Fetched := Map (List Byte)

/-- The bytes of a cached line; uncorrectable words read zero (R86). -/
def cachedBytes (s : State) (x : CCache) (ctx l dva : Nat) : List Byte :=
  match xlate s ctx dva false with
  | .page fk off _ => (List.range 64).map (fun i =>
      if x.bad.contains (l * 8 + i / 8) then 0 else byteAt s.mm.bytes (byteKey fk (off / 64 * 64) + i))
  | .fault _ => List.replicate 64 0

/-- A stream unit reads one line of its context: from its ways, or from memory with a fill (R128, R129). -/
def fetchLine (s : State) (t engine cpol : Nat) (ev : List LineEv) (a : Nat) : State × List Byte :=
  let ctx := (partCtx s t).getD 0
  let c := t / 16
  let ways := cacheWays s t
  let x := cacheAt s c
  let dva := a * 64
  match cacheLine s ctx dva, xlate s ctx dva false with
  | some l, .page _ _ _ =>
    match x.lines.find? (fun e => e.line = l && ways.contains e.way) with
    | some e =>
      let bs := cachedBytes s x ctx l dva
      let s1 := cacheSet s c { x with lines := e :: x.lines.filter (fun y => y ≠ e), hit := satInc x.hit }
      let bads := x.bad.filter (fun w => w / 8 = l)
      (bads.foldl (fun s w => tileSramUe s t engine (8 * w)) s1, bs)
    | none =>
      let r := ctxReadLine s (some (pageOf (.tile t))) ctx dva 64 ev
      let y := cacheAt r.1 c
      let y1 := { y with miss := satInc y.miss }
      if r.2.1 = stOk then (cacheSet r.1 c (cacheFill y1 ways l cpol), r.2.2)
      else (tileErr (cacheSet r.1 c y1) t r.2.1 engine (dva % 2 ^ 32) (dva / 2 ^ 32), r.2.2)
  | _, _ =>
    let r := ctxReadLine s (some (pageOf (.tile t))) ctx dva 64 ev
    (tileErr r.1 t r.2.1 engine (dva % 2 ^ 32) (dva / 2 ^ 32), r.2.2)

/-! ### Lookahead (R130) -/

/-- One lookahead fill: nothing where the ways hold the line, and discarded without a record where it fails. -/
def fillAhead (s : State) (t cpol : Nat) (ev : List LineEv) (a : Nat) : State :=
  let ctx := (partCtx s t).getD 0
  match cacheLine s ctx (a * 64), xlate s ctx (a * 64) false with
  | some l, .page _ _ _ =>
    if (cacheAt s (t / 16)).lines.any (fun e => e.line = l && (cacheWays s t).contains e.way) then s
    else
      let r := ctxReadLine s (some (pageOf (.tile t))) ctx (a * 64) 64 ev
      if r.2.1 = stOk then cacheSet r.1 (t / 16) (cacheFill (cacheAt r.1 (t / 16)) (cacheWays s t) l cpol) else s
  | _, _ => s

/-- How many of the lines that follow hold source bits within reach. Lines are (address ÷ 64, bits of elements on them). -/
def linesWithin : Nat → List (Nat × Nat) → Nat
  | _, [] => 0
  | n, (_, w) :: r => if n = 0 then 0 else linesWithin (n - w) r + 1

/-- A stream unit reads lines in order, and after each its lookahead fills those within `reach` source bits that no fill has covered
(log entry 137). Lines without elements hold scales, which lookahead does not cover. -/
def fetchAhead (own : State → Nat → State × List Byte) (t cpol reach : Nat) (ev : List LineEv) :
    List (Nat × Nat) → Nat → State × Fetched → State × Fetched
  | [], _, r => r
  | (a, _) :: rest, done, r =>
    let x := own r.1 a
    let m := max (done - 1) (linesWithin reach rest)
    let s1 := ((rest.take m).drop (done - 1)).foldl (fun s b => if b.2 = 0 then s else fillAhead s t cpol ev b.1) x.1
    fetchAhead own t cpol reach ev rest m (s1, mapSet r.2 a x.2)

/-- The bytes of a line as a merge at the memory controller finds them, without an access of the cluster's own. -/
def storedLine (s : State) (ctx a : Nat) : List Byte :=
  match xlate s ctx (a * 64) true with
  | .page fk off _ => readBytes s.mm.bytes (byteKey fk off) 64
  | .fault _ => List.replicate 64 0

end Sys2Proof.Machine
end

