-- ==== Sys2Proof/Machine/ArrayCmds.lean ====
section
/-! DEFINITION. WLOAD, STREAM and DRAIN, and the request batcher's events (spec 04). -/
namespace Sys2Proof.Machine
open Sys2Proof

/-- R472: the checks made when the stroke issues, in their order, for a command of an array or vector path. `own` is
the engine's own rule (its status source when broken), `ovr` the overrun source. -/
def issueLocal (s : State) (t : Nat) (p : PathId) (c : PathCmd) (named : List (Nat × Bool)) (engine status : Nat)
    (own : Option Nat) (ovr : Nat) : State :=
  match firstBad c.lat named (descLocalOk c.lat), firstAlias c.lat named, own with
  | some r, _, _ => descFault s t stInvalid engine c.lat.pc r
  | none, some r, _ => descFault s t stAlias engine c.lat.pc r
  | none, none, some k => tileErr s t status k c.lat.pc 0
  | none, none, none =>
    if pathFull (pathOf (tileAt s t) p) then tileErr s t status ovr c.lat.pc 0 else takeLocal s t p c

/-- Latches the registers a command names and issues it (R110). -/
def issueArray (s : State) (t : Nat) (p : PathId) (named : List (Nat × Bool)) (xs : List Nat) (sr ovr : Nat)
    (ok : Latched → Bool) (op : PathOp) : State :=
  let tds := named.map Prod.fst
  let l := latch s t tds xs sr
  let s1 := noteLatch s t 0 tds xs
  issueLocal s1 t p { op := op, lat := l } named 0 stArray (if ok l then none else some 4) ovr

/-- WLOAD (R92), in LDB. -/
def execWload (t : Nat) (f : WloadOp) (more : Bool) (s : State) : Out :=
  .next (slotDo s t [slLdb] more (fun s =>
    issueArray s t .weight [(f.td, false)] [f.x] 0 2 (fun l => wloadOk (latDesc l f.td) f.split) (.wload f)))

/-- STREAM (R94), in MX. What its bank holds is checked at its effective issue, where it latches the bank's tag and split (R92); the rest
when its stroke issues (R105, R472). -/
def execStream (t : Nat) (f : StreamOp) (more : Bool) (s : State) : Out :=
  .next (slotDo s t [slMx] more (fun s =>
    issueArray s t .stream [(f.td, false)] [f.x] 0 1 (fun l => streamFormOk (latDesc l f.td) f) (.stream f)))

/-- Descriptors a DRAIN names, in field order. -/
def drainNamed (f : DrainOp) : List (Nat × Bool) :=
  (if f.scale = 2 then [(f.scaleSrc % 32, false)] else []) ++ [(f.td, true)] ++ (if f.add = 0 then [] else [(f.tdR, false)])

/-- DRAIN (R98), in MX. -/
def execDrain (t : Nat) (f : DrainOp) (more : Bool) (s : State) : Out :=
  .next (slotDo s t [slMx] more (fun s =>
    let s1 := if f.scale = 1 then noteS s t [f.scaleSrc] else s
    issueArray s1 t .drain (drainNamed f) ([f.x] ++ (if f.add = 0 then [] else [f.xR])) (f.scaleSrc % 64) 3
      (fun l => drainOk l f) (.drain f)))

/-! ### Vector operations -/

/-- R177: the source of the first vector rule broken, in the order of R472. -/
def vxOwn (x : Tile) (l : Latched) (opc : Nat) (f : VxOp) : Option Nat :=
  if !(vxFormatOk l opc f) then some 3 else if !(vxShapeOk l opc f) then some 4
  else if !(vxMonOk x l opc f) then some 5 else none

def vxXs (opc : Nat) (f : VxOp) : List Nat :=
  [f.xD] ++ (if (vxUse opc).a then [f.xA] else []) ++ (if (vxUse opc).b then [f.xB] else [])

def pipeOf (f : VxOp) : PathId := if f.pipe = 0 then .pipe0 else .pipe1

/-- Operations that take S[SREG] (Table 7-1). -/
def vxScalar (opc : Nat) : Bool := [0x02, 0x24, 0x25, 0x28, 0x62, 0xC1, 0xC2].contains opc

/-- A vector operation in a stroke (R145, R165, R177). -/
def vxIssue (t opc : Nat) (f : VxOp) (more : Bool) (s : State) : Out :=
  .next (slotDo s t [if f.pipe = 0 then slVx0 else slVx1] more (fun s =>
    let named := vxNamed opc f
    let tds := named.map Prod.fst
    let l := latch s t tds (vxXs opc f) f.sreg
    let s1 := noteLatch (if vxScalar opc then noteS s t [f.sreg] else s) t 4 tds (vxXs opc f)
    issueLocal s1 t (pipeOf f) { op := .vector opc f, lat := l } named 4 stVector (vxOwn (tileAt s1 t) l opc f)
      (if f.pipe = 0 then 1 else 2)))

/-! ### The request batcher (R101 to R104) -/

def batPresent (b : Batcher) : Nat := b.queues.foldl (fun n e => n + e.2.present.length) 0

def batEn (b : Batcher) : Bool := b.ctl.getLsbD 16
def batDeadline (b : Batcher) : Nat := bitsOf b.ctl.toNat 31 20

/-- The first append waiting for queue q, and the others. -/
def takeAppend (q : Nat) (l : List AppendRow) : Option (AppendRow × List AppendRow) :=
  match l with
  | [] => none
  | r :: rest => if r.q = q then some (r, rest) else
      match takeAppend q rest with
      | some (a, b) => some (a, r :: b)
      | none => none

/-- A row that a stream unit appended has landed: ROWS_DONE of its running command counts it (R123, R124). -/
def rowLanded (x : Tile) (engine : Nat) : Tile :=
  if 5 ≤ engine && engine < 13 then
    { x with str := mapSet x.str (engine - 5) { strAt x (engine - 5) with rowsDone := (strAt x (engine - 5)).rowsDone + 1 } }
  else x

/-- BATCH_APPEND (R101, R124): a row's append lands in the slot at TAIL and becomes present. An append to a disabled
queue is discarded; one to a queue whose FILL equals CAP waits. -/
def execBatchAppend (t q : Nat) (s : State) : Out :=
  let x := tileAt s t
  match takeAppend q x.bat.appends with
  | none => .next s
  | some (r, rest) =>
    match appendSlot { x with bat := { x.bat with appends := rest } } r with
    | none => .next s
    | some (y, ws) =>
      let w := spWrite y (bitBytes (spByte y) ws)
      .next (w.2.foldl (fun s k => tileSramUe s t r.engine (8 * k)) (tileSet s t (rowLanded w.1 r.engine)))

/-- One round of R102: the queues in turn from q, each giving its oldest row while rows are wanted. -/
def takeRound (b : Batcher) (first n : Nat) (acc : List (Nat × Nat)) : Batcher × List (Nat × Nat) :=
  (List.range 16).foldl (fun (a : Batcher × List (Nat × Nat)) k =>
    let q := (first + k) % 16
    let bq := mapGet {} a.1.queues q
    match bq.present with
    | [] => a
    | p :: r =>
      if a.2.length ≥ n || !(batQen a.1 q) then a
      else ({ a.1 with queues := mapSet a.1.queues q { bq with present := r } }, a.2 ++ [(q, p)])) (b, acc)

def takeRounds (k : Nat) (b : Batcher) (first n : Nat) (acc : List (Nat × Nat)) : Batcher × List (Nat × Nat) :=
  match k with
  | 0 => (b, acc)
  | j + 1 =>
    let r := takeRound b first n acc
    takeRounds j r.1 first n r.2

/-- R102: takes up to n rows and holds them as the batch. -/
def release (b : Batcher) (n : Nat) (dl : Bool) : Batcher :=
  let r := takeRounds 32 b (if b.started then (b.firstq + 1) % 16 else 0) n []
  { r.1 with batch := r.2, ready := true, dl := dl, started := true, firstq := ((r.2.head?).map Prod.fst).getD b.firstq }

def batEnabledPresent (b : Batcher) : Nat :=
  b.queues.foldl (fun n e => if batQen b e.1 then n + e.2.present.length else n) 0

def batRelease (x : Tile) (n : Nat) (dl : Bool) : Tile :=
  { x with bat := release x.bat n dl, arr := { x.arr with relCnt := satInc x.arr.relCnt } }

/-- BATCH_RELEASE (R101 case 2): 32 rows or more are present, none is held, and release is enabled. -/
def execBatchRelease (t : Nat) (s : State) : Out :=
  let x := tileAt s t
  if x.bat.ready || !(batEn x.bat) || batEnabledPresent x.bat < 32 then .next s
  else .next (tileSet s t (batRelease x 32 false))

/-- BATCH_DEADLINE (R101 case 3): the deadline counter has reached DEADLINE · 16 with rows present. -/
def execBatchDeadline (t : Nat) (s : State) : Out :=
  let x := tileAt s t
  let n := batEnabledPresent x.bat
  if x.bat.ready || !(batEn x.bat) || batDeadline x.bat = 0 || n = 0 || 32 ≤ n then .next s
  else .next (tileSet s t (batRelease x n true))

/-- R103: HEAD advances past the taken rows, FILL falls by them and READY clears. COUNT and DL describe the held batch and read 0 with it gone;
R103 names neither (DESIGN CHOICE, log entry 128). -/
def retire (b : Batcher) : Batcher :=
  { b with
    queues := b.batch.foldl (fun m e =>
      let q := mapGet {} m e.1
      mapSet m e.1 { q with head := (q.head + 1) % qCap q, fill := q.fill - 1 }) b.queues,
    batch := [], ready := false, retire := false, dl := false }

/-- BATCH_RETIRE (R103): a DRAIN with BRET has made its last write. -/
def execBatchRetire (t : Nat) (s : State) : Out :=
  let x := tileAt s t
  if !(x.bat.retire) then .next s else .next (tileSet s t { x with bat := retire x.bat })

end Sys2Proof.Machine
end

