-- ==== Sys2Proof/Machine/VectorCmds.lean ====
section
/-! DEFINITION. The vector operations of Table 7-1, each by its operation code (spec 07). -/
namespace Sys2Proof.Machine
open Sys2Proof

/-- COPY (Table 7-1). -/
def execVcopy (t : Nat) (f : VxOp) (more : Bool) (s : State) : Out := vxIssue t 0x01 f more s
/-- FILLS (Table 7-1). -/
def execFills (t : Nat) (f : VxOp) (more : Bool) (s : State) : Out := vxIssue t 0x02 f more s
/-- IADD (Table 7-1). -/
def execIadd (t : Nat) (f : VxOp) (more : Bool) (s : State) : Out := vxIssue t 0x03 f more s
/-- IAND (Table 7-1). -/
def execIand (t : Nat) (f : VxOp) (more : Bool) (s : State) : Out := vxIssue t 0x04 f more s
/-- IOR (Table 7-1). -/
def execIor (t : Nat) (f : VxOp) (more : Bool) (s : State) : Out := vxIssue t 0x05 f more s
/-- IXOR (Table 7-1). -/
def execIxor (t : Nat) (f : VxOp) (more : Bool) (s : State) : Out := vxIssue t 0x06 f more s
/-- CMPLT (Table 7-1). -/
def execCmplt (t : Nat) (f : VxOp) (more : Bool) (s : State) : Out := vxIssue t 0x07 f more s
/-- CMPEQ (Table 7-1). -/
def execCmpeq (t : Nat) (f : VxOp) (more : Bool) (s : State) : Out := vxIssue t 0x08 f more s
/-- SELECT (Table 7-1). -/
def execSelect (t : Nat) (f : VxOp) (more : Bool) (s : State) : Out := vxIssue t 0x09 f more s
/-- ADD (Table 7-1). -/
def execVadd (t : Nat) (f : VxOp) (more : Bool) (s : State) : Out := vxIssue t 0x20 f more s
/-- SUB (Table 7-1). -/
def execVsub (t : Nat) (f : VxOp) (more : Bool) (s : State) : Out := vxIssue t 0x21 f more s
/-- MUL (Table 7-1). -/
def execVmul (t : Nat) (f : VxOp) (more : Bool) (s : State) : Out := vxIssue t 0x22 f more s
/-- FMA (Table 7-1). -/
def execFma (t : Nat) (f : VxOp) (more : Bool) (s : State) : Out := vxIssue t 0x23 f more s
/-- AXPBY (Table 7-1). -/
def execAxpby (t : Nat) (f : VxOp) (more : Bool) (s : State) : Out := vxIssue t 0x24 f more s
/-- AXPBY2 (Table 7-1). -/
def execAxpby2 (t : Nat) (f : VxOp) (more : Bool) (s : State) : Out := vxIssue t 0x25 f more s
/-- MIN (Table 7-1). -/
def execVmin (t : Nat) (f : VxOp) (more : Bool) (s : State) : Out := vxIssue t 0x26 f more s
/-- MAX (Table 7-1). -/
def execVmax (t : Nat) (f : VxOp) (more : Bool) (s : State) : Out := vxIssue t 0x27 f more s
/-- SCALE (Table 7-1). -/
def execScale (t : Nat) (f : VxOp) (more : Bool) (s : State) : Out := vxIssue t 0x28 f more s
/-- ADD64 (Table 7-1). -/
def execAdd64 (t : Nat) (f : VxOp) (more : Bool) (s : State) : Out := vxIssue t 0x29 f more s
/-- CVT (Table 7-1). -/
def execCvt (t : Nat) (f : VxOp) (more : Bool) (s : State) : Out := vxIssue t 0x40 f more s
/-- UPDW (Table 7-1). -/
def execUpdw (t : Nat) (f : VxOp) (more : Bool) (s : State) : Out := vxIssue t 0x41 f more s
/-- DIV (Table 7-1). -/
def execDiv (t : Nat) (f : VxOp) (more : Bool) (s : State) : Out := vxIssue t 0x60 f more s
/-- SQRT (Table 7-1). -/
def execSqrt (t : Nat) (f : VxOp) (more : Bool) (s : State) : Out := vxIssue t 0x61 f more s
/-- RSQRT (Table 7-1). -/
def execRsqrt (t : Nat) (f : VxOp) (more : Bool) (s : State) : Out := vxIssue t 0x62 f more s
/-- EXP (Table 7-1). -/
def execVexp (t : Nat) (f : VxOp) (more : Bool) (s : State) : Out := vxIssue t 0x80 f more s
/-- LOG (Table 7-1). -/
def execVlog (t : Nat) (f : VxOp) (more : Bool) (s : State) : Out := vxIssue t 0x81 f more s
/-- TANH (Table 7-1). -/
def execTanh (t : Nat) (f : VxOp) (more : Bool) (s : State) : Out := vxIssue t 0x82 f more s
/-- SIGMOID (Table 7-1). -/
def execSigmoid (t : Nat) (f : VxOp) (more : Bool) (s : State) : Out := vxIssue t 0x83 f more s
/-- SILU (Table 7-1). -/
def execSilu (t : Nat) (f : VxOp) (more : Bool) (s : State) : Out := vxIssue t 0x84 f more s
/-- GELU (Table 7-1). -/
def execGelu (t : Nat) (f : VxOp) (more : Bool) (s : State) : Out := vxIssue t 0x85 f more s
/-- RSUM (Table 7-1). -/
def execRsum (t : Nat) (f : VxOp) (more : Bool) (s : State) : Out := vxIssue t 0xA0 f more s
/-- RSUMSQ (Table 7-1). -/
def execRsumsq (t : Nat) (f : VxOp) (more : Bool) (s : State) : Out := vxIssue t 0xA1 f more s
/-- RMAX (Table 7-1). -/
def execRmax (t : Nat) (f : VxOp) (more : Bool) (s : State) : Out := vxIssue t 0xA2 f more s
/-- RMIN (Table 7-1). -/
def execRmin (t : Nat) (f : VxOp) (more : Bool) (s : State) : Out := vxIssue t 0xA3 f more s
/-- RMAXABS (Table 7-1). -/
def execRmaxabs (t : Nat) (f : VxOp) (more : Bool) (s : State) : Out := vxIssue t 0xA4 f more s
/-- RNDU (Table 7-1). -/
def execRndu (t : Nat) (f : VxOp) (more : Bool) (s : State) : Out := vxIssue t 0xC0 f more s
/-- DROPOUT (Table 7-1). -/
def execDropout (t : Nat) (f : VxOp) (more : Bool) (s : State) : Out := vxIssue t 0xC1 f more s
/-- RNDB (Table 7-1). -/
def execRndb (t : Nat) (f : VxOp) (more : Bool) (s : State) : Out := vxIssue t 0xC2 f more s

end Sys2Proof.Machine
end

