-- ==== Sys2Proof/Machine/StreamCmds.lean ====
section
/-! DEFINITION. MOVE and PREFETCH with the cluster cache, the completion of stream commands, and PENDING_START for
every path (spec 05). -/
namespace Sys2Proof.Machine
open Sys2Proof

/-- Reader over the scratchpad and the lines fetched. -/
def moveReader (x : Tile) (f : Fetched) : Reader := fun sp a =>
  if sp = 0 then spByte x a else (mapGet [] f (a / 64)).getD (a % 64) 0

/-- The lines that an element of w bits at bit b lies on, with its bits on each. -/
def elemLines (b w : Nat) : List (Nat × Nat) :=
  if b % 512 + w ≤ 512 then [(b / 512, w)] else [(b / 512, 512 - b % 512), (b / 512 + 1, b % 512 + w - 512)]

def addLoad (m : List (Nat × Nat)) (e : Nat × Nat) : List (Nat × Nat) :=
  if m.any (fun x => x.1 = e.1) then m.map (fun x => if x.1 = e.1 then (x.1, x.2 + e.2) else x) else m ++ [e]

/-- Device lines of the in-bounds elements (and scales) at positions of a descriptor, in order, each with the bits of elements on it. -/
def lineLoads (l : Latched) (x : Tile) (d : TDesc) (isWrite : Bool) (ps : List (List Int)) : List (Nat × Nat) :=
  if d.space = 0 then []
  else (ps.flatMap (fun p => match posOf l (moveReader x []) d isWrite p with
    | .at c b => elemLines b (descBits d) ++ (if descIsMx d then [(scaleBit l d isWrite c / 512, 0)] else [])
    | _ => [])).foldl addLoad []

/-- STR_CFG.LOOKAHEAD of a unit, in bits of source. -/
def lookBits (x : Tile) (k : Nat) : Nat := ((strAt x k).cfg.toNat % 256) * 4096 * 8

/-! ### MOVE -/

def unitTiming (x : Tile) (k : Nat) (f : StreamUnit → StreamUnit) : Tile := { x with str := mapSet x.str k (f (strAt x k)) }

/-- Rows of a window. -/
def winRows (win : List Nat) : Nat := (win.drop 1).foldl (· * ·) 1

/-- Rows of a stream command. -/
def cmdRows (c : PathCmd) : Nat :=
  match c.op with
  | .move f => match winOf (latDesc c.lat f.tdD).ndim (latX c.lat f.xW) with
    | some w => winRows w
    | none => 0
  | _ => 0

/-- A command of a stream unit begins. Its rows land with its effect, and ROWS_DONE counts them from then on, but the rows of an append count as they reach
their queue (R123, Table 5-8; log entry 1). -/
def beginUnit (s : State) (t k : Nat) (c : PathCmd) : State :=
  let x := tileAt s t
  let rows := match c.op with
    | .move f => if (latDesc c.lat f.tdD).append then 0 else cmdRows c
    | _ => 0
  tileSet s t (unitTiming (pathPut x (.unit k) { pathOf x (.unit k) with run := some c }) k (fun u => { u with rowsDone := rows }))

/-- Effect of a MOVE (Table 5-3): read, convert and write the window. Device writes that fail are not performed and
are recorded (R125). -/
def startMove (s : State) (t : Nat) (l : Latched) (f : MoveOp) : State :=
  let eng := 5 + f.unit
  let src := latDesc l f.tdS
  let dst := latDesc l f.tdD
  let ctx := (partCtx s t).getD 0
  let s0 := tileSram s t f.hw
  let cw := f.hw.upset.filterMap (fun w => match w with | .cache k => some k | _ => none)
  let s0 := if cw.isEmpty then s0 else cacheSet s0 (t / 16) { cacheAt s0 (t / 16) with bad := (cacheAt s0 (t / 16)).bad ++ cw }
  match winOf dst.ndim (latX l f.xW) with
  | none => s0
  | some win =>
    let js := windowPos win
    let oS := latX l f.xS
    let oD := latX l f.xD
    let x := tileAt s0 t
    let add := dst.scat = 1 && dst.idxEn && dst.space = 1
    let r := fetchAhead (fun s a => fetchLine s t eng src.cpol f.ev a) t src.cpol (lookBits x f.unit) f.ev
      (lineLoads l x src false (js.map (posAdd oS))) 0 (s0, [])
    let old : Fetched := if add || descBits dst < 8 then
        (lineLoads l x dst true (js.map (posAdd oD))).map (fun e => (e.1, storedLine r.1 ctx e.1)) else []
    let s1 := tileReadUe r.1 t (fun w => if touches l x src false (js.map (posAdd oS)) w then some eng else none)
    let x1 := tileAt s1 t
    let rd := moveReader x1 (old.foldl (fun m e => mapSet m e.1 e.2) r.2)
    let cv : ConvCtx := { rmode := f.rmode, sat := f.sat, headroom := f.headroom,
                          widen := fmtWidens (descFmt src) (descFmt dst), draw := drawOf (seedOf s1 t) l dst.tag f.use }
    let es := convertWindow l rd dst cv win (posAdd oD) (fun j => (elemRead l rd src (posAdd oS j), {}))
    let acc := storeElems l rd dst es
    let evs : List FlagEv := if acc.flags = {} then [] else [{ engine := eng, flags := acc.flags, tag := dst.tag }]
    if dst.append then
      let ap := appendRows l rd dst eng (slotBytes x1 dst) (rowsOf (win.headD 1) (winRows win) es)
      let w := spWrite x1 (bitBytes (spByte x1) ap.2.ws)
      fxApply s1 t eng { w.1 with bat := { w.1.bat with appends := w.1.bat.appends ++ ap.1 }, oobCnt := satAdd w.1.oobCnt ap.2.oob }
        (if ap.2.flags = {} then [] else [{ engine := eng, flags := ap.2.flags, tag := dst.tag }]) w.2
    else if dst.space = 0 then
      let w := spWrite x1 acc.out
      fxApply s1 t eng { w.1 with oobCnt := satAdd w.1.oobCnt acc.oob } evs w.2
    else
      let s2 := tileFlags (tileSet s1 t { x1 with oobCnt := satAdd x1.oobCnt acc.oob }) t evs
      let m := ctxWrite s2 (some (pageOf (.tile t))) ctx acc.out f.ev add
      m.bad.foldl (fun s e => tileErr s t e.2 eng (e.1 % 2 ^ 32) (e.1 / 2 ^ 32)) m.s

/-- Effect of a PREFETCH: the lines of the window that the ways do not hold are read and filled under the source's CPOL; a read
that fails is recorded as any stream command's (R125). -/
def startPrefetch (s : State) (t : Nat) (l : Latched) (f : MoveOp) : State :=
  let src := latDesc l f.tdS
  match winOf src.ndim (latX l f.xW) with
  | none => s
  | some win =>
    let own (s : State) (a : Nat) : State × List Byte :=
      let x := cacheAt s (t / 16)
      match cacheLine s ((partCtx s t).getD 0) (a * 64) with
      | some ln =>
        if x.lines.any (fun e => e.line = ln && (cacheWays s t).contains e.way) then
          (cacheSet s (t / 16) { x with hit := satInc x.hit }, [])
        else fetchLine s t (5 + f.unit) src.cpol f.ev a
      | none => fetchLine s t (5 + f.unit) src.cpol f.ev a
    (fetchAhead own t src.cpol (lookBits (tileAt s t) f.unit) f.ev
      (lineLoads l (tileAt s t) src false ((windowPos win).map (posAdd (latX l f.xS)))) 0 (s, [])).1

/-- Effective issue of a stream unit's command (R122). -/
def beginCmd (s : State) (t k : Nat) (c : PathCmd) : State :=
  match c.op with
  | .move f => startMove (beginUnit s t k c) t c.lat f
  | .prefetch f => startPrefetch (beginUnit s t k c) t c.lat f
  | _ => s

/-! ### Checks at issue (R131, R132, R115, R116) -/

/-- R132: the register of the first descriptor concerned when a stream rule is broken. -/
def moveOwn (l : Latched) (f : MoveOp) : Option Nat :=
  let s := latDesc l f.tdS
  let d := latDesc l f.tdD
  let mx := latX l f.xW
  if s.ndim ≠ d.ndim then some f.tdS
  else if s.space ≠ 0 && d.space ≠ 0 then some f.tdS
  else if rmodeRefused f.rmode (!fmtWidens (descFmt s) (descFmt d)) then some f.tdD
  else if descIsMx d && (laneOf (latX l f.xD) d.blockDim % 32 ≠ 0 || laneOf mx d.blockDim % 32 ≠ 0) then some f.tdD
  else none

def moveAlias (l : Latched) (f : MoveOp) : Option Nat :=
  if !(aliasWriteOk l (latDesc l f.tdD)) then some f.tdD
  else if hullsOverlap (latDesc l f.tdS) (latDesc l f.tdD) l.step then some f.tdD
  else none

/-- R472 for a stream command. -/
def moveRefusal (l : Latched) (named : List (Nat × Bool)) (al own : Option Nat) : Option (Nat × Nat) :=
  match firstBad l named (descOk l), al, own with
  | some r, _, _ => some (stInvalid, r)
  | none, some r, _ => some (stAlias, r)
  | none, none, some r => some (stStream, r)
  | none, none, none => none

/-- The stream unit takes the command, or refuses it (R122, R136). -/
def issueStream (s : State) (t : Nat) (f : MoveOp) (op : PathOp) (named : List (Nat × Bool)) (xs : List Nat)
    (al own : Latched → Option Nat) : State :=
  let k := f.unit % 8
  let eng := 5 + k
  let tds := named.map Prod.fst
  let l := latch s t tds xs 0
  let s1 := noteLatch s t eng tds xs
  match moveRefusal l named (al l) (own l) with
  | some (st, r) => tileErr s1 t st eng l.pc r
  | none =>
    let p := pathOf (tileAt s1 t) (.unit k)
    if pathFull p then tileErr s1 t stStream eng l.pc (named.headD (0, false)).1
    else
      let c : PathCmd := { op := op, lat := l }
      let s2 := tileSet s1 t (unitTiming (tileAt s1 t) k (fun u => { u with issuedN := u.issuedN + 1 }))
      if p.run.isNone then beginCmd s2 t k c
      else tileSet s2 t (pathPut (tileAt s2 t) (.unit k) { p with pend := some c })

/-- MOVE (R122, Table 5-3). -/
def execMove (t : Nat) (f : MoveOp) (more : Bool) (s : State) : Out :=
  .next (slotDo s t [slLda, slLdb, slXf] more (fun s =>
    let f := { f with unit := f.unit % 8 }
    issueStream s t f (.move f) [(f.tdS, false), (f.tdD, true)] [f.xS, f.xD, f.xW]
      (fun l => moveAlias l f) (fun l => moveOwn l f)))

/-- PREFETCH: its source must be DEVICE (R132). -/
def execPrefetch (t : Nat) (f : MoveOp) (more : Bool) (s : State) : Out :=
  .next (slotDo s t [slLda, slLdb, slXf] more (fun s =>
    let f := { f with unit := f.unit % 8 }
    issueStream s t f (.prefetch f) [(f.tdS, false)] [f.xS, f.xW] (fun _ => none)
      (fun l => if (latDesc l f.tdS).space = 1 then none else some f.tdS)))

/-! ### Ends of commands -/

/-- Appends of a stream unit that have not landed (R101, R123). -/
def appendsWait (x : Tile) (eng : Nat) : Bool := x.bat.appends.any (fun a => a.engine = eng)

/-- The next command of a stream unit starts when its pending register holds one. -/
def startPending (s : State) (t k : Nat) : State :=
  let x := tileAt s t
  match (pathOf x (.unit k)).pend with
  | none => s
  | some c => beginCmd (tileSet s t (pathPut x (.unit k) {})) t k c

/-- STREAM_CMD_DONE (R123): the last row of unit k's running command has landed; CMDS_DONE counts it and a pending
command starts. -/
def execStreamCmdDone (t k : Nat) (s : State) : Out :=
  let x := tileAt s t
  let u := strAt x k
  if t ≥ 512 || k ≥ 8 || appendsWait x (5 + k) then .next s
  else match u.path.run with
    | none => .next s
    | some c =>
      let u1 : StreamUnit := { u with
        rowsDone := cmdRows c, cmdsDone := u.cmdsDone + 1, doneN := u.doneN + 1, path := { u.path with run := none } }
      .next (startPending (tileSet s t { x with str := mapSet x.str k u1 }) t k)

/-- The running command of a path that is given has had its last busy cycle: a command that was pending has left its register. -/
def pathTurned (p : PathId) (pending : Bool) (x : Tile) : Bool :=
  if pending then (pathOf x p).pend.isNone else (pathOf x p).run.isNone

/-- PENDING_START (R91, R122): cycles pass up to the last busy cycle of a path's running command, in which a command in its pending register
starts. While strokes issue, each is a cycle and brings that one about itself, and a freeze suspends the paths (R156). A stream unit's command ends
by STREAM_CMD_DONE instead. -/
def execPendingStart (t : Nat) (p : PathId) (s : State) : Out :=
  let x := tileAt s t
  match p with
  | .unit _ => .next s
  | _ =>
    if t ≥ 512 || x.plate.pstate = .issuing || x.plate.pstate = .frozen || (pathOf x p).run.isNone then .next s
    else .next (tileUntil s t (pathTurned p (pathOf x p).pend.isSome) (settleSpan x))

end Sys2Proof.Machine
end

