-- ==== Sys2Proof/Machine/CollCmds.lean ====
section
/-! DEFINITION. Collective launches: starting or refusing one, its windows and buffers, drupelet entries and completion (spec
09: R215 to R222, R224 to R229, R234 to R236). -/
namespace Sys2Proof.Machine
open Sys2Proof

/-! ### Failing with the group -/

/-- Groups whose payload counter has reached its end fail with KEY_EXHAUSTED (R247). -/
def keySweep (s : State) : State :=
  s.fb.groups.foldl (fun s e =>
    if e.2.st ≠ 3 && e.2.pctr.any (fun c => c.2 ≥ 2 ^ 64 - 1)
    then groupFail s e.1 stKeyEnd ((e.2.locals.head?.map LocalMem.rank).getD 0) true else s) s

/-- Paths of ports that have stopped sending protected frames go DOWN (R242, R248). -/
def blockSweep (s : State) : State :=
  s.fb.ports.foldl (fun s e => if e.2.txBlock then portDown s e.1 else s) s

/-- A collective or fabric command's answer: what it submitted or set free leaves as far as it can. -/
def fabNext (s : State) : Out := .next (serveLinks (serveFabric (blockSweep (keySweep s))))

/-! ### Windows (R216, R220) -/

/-- A launch's descriptor register as the COLL latched it. -/
def laneDesc (tds : Map (BitVec 1024)) (r : Nat) : TDesc := descOf (mapGet 0 tds r)

/-- What R216 asks of every window descriptor but its dimensions. -/
def windowBase (d : TDesc) (rq : Nat) : Bool :=
  descBasicOk d && d.stride0 = 0 && d.dims.all (fun k => k.padLo = 0 && k.padHi = 0) && !d.idxEn && !d.append
    && d.etype = rqEtype rq && !(descIsMx d) && d.etype ≠ 0x0E

/-- A window of operations 1 to 4 of n elements from element `base` (R216). -/
def windowOk (d : TDesc) (rq base n : Nat) (wr : Bool) : Bool :=
  windowBase d rq && d.ndim = 1 && descUseOk d wr && (base * descBits d) % 512 = 0 && (n * descBits d) % 512 = 0
    && base + n ≤ (dimAt d 0).extent

/-- Elements of the send and receive windows of a lane (Table 9-4). -/
def sendElems (g : Group) (rq rank : Nat) (canon : Bool) : Nat :=
  match rqOp rq with
  | 1 | 2 => rqElems rq * (if canon then rqCpm rq else 1)
  | 3 => rqElems rq
  | 4 => if rank = rqRoot rq then rqElems rq else 0
  | _ => let _ := g; 0

def recvElems (g : Group) (rq : Nat) : Nat :=
  match rqOp rq with
  | 1 | 4 => rqElems rq
  | 2 => rqElems rq / g.members.length
  | 3 => rqElems rq * g.members.length
  | _ => 0

/-- First byte of a one-dimensional window. -/
def windowAddr (d : TDesc) (step base : Nat) (wr : Bool) : Nat := bankBase d step wr + base * descBits d / 8

/-- A SCRATCH window meets the staging area (R216). -/
def meetsStaging (d : TDesc) (rq step base n : Nat) (wr : Bool) : Bool :=
  let a := windowAddr d step base wr
  let len := n * descBits d / 8
  d.space = 0 && len ≠ 0 && a < rqStg rq * 4096 + 262144 && rqStg rq * 4096 < a + len

/-- R216 for operations 1 to 4. -/
def windowsOk (g : Group) (rq rank base step : Nat) (tds : Map (BitVec 1024)) (canon : Bool) : Bool :=
  if rqOp rq = 5 then true
  else
    let sd := laneDesc tds (rqTdS rq)
    let rd := laneDesc tds (rqTdD rq)
    let ns := sendElems g rq rank canon
    let nr := recvElems g rq
    let redOk : Bool := rqOp rq > 2 || rqEtype rq = 0x01 || rqEtype rq = 0x0F || rqEtype rq = 0x07
    redOk && (rqOp rq ≠ 2 || rqElems rq % g.members.length = 0)
      && windowOk sd rq base ns false && windowOk rd rq base nr true
      && !(meetsStaging sd rq step base ns false) && !(meetsStaging rd rq step base nr true)

/-- A descriptor's SCRATCH bytes meet the staging area. -/
def tensorMeets (d : TDesc) (rq step n : Nat) (wr : Bool) : Bool :=
  let a := bankBase d step wr
  d.space = 0 && n ≠ 0 && a < rqStg rq * 4096 + 262144 && rqStg rq * 4096 < a + n

/-- Elements of a descriptor. -/
def extentAll (d : TDesc) : Nat := (List.range d.ndim).foldl (fun n i => n * (dimAt d i).extent) 1

/-- R227: the descriptors of an all-to-all, whose windows begin at element S[SREG], `base`, of theirs (R216); none meets the staging area. -/
def a2aShapesOk (g : Group) (rq base step : Nat) (tds : Map (BitVec 1024)) : Bool :=
  let rowsD := laneDesc tds (if rqOp rq = 6 then rqTdS rq else rqTdD rq)
  let slotsD := laneDesc tds (if rqOp rq = 6 then rqTdD rq else rqTdS rq)
  let rowOk (d : TDesc) : Bool := windowBase d rq && (dimAt d 0).extent * descBits d = rqRowl rq * 512
  let cntOk (d : TDesc) : Bool := descBasicOk d && d.etype = 0x07 && d.ndim = 1 && d.space = 0 && d.stride0 = 0 && !d.idxEn
    && !d.append && (dimAt d 0).padLo = 0 && (dimAt d 0).padHi = 0 && (dimAt d 0).extent = g.members.length * rqEpm rq
  rowOk rowsD && rowOk slotsD && rowsD.ndim = 2 && slotsD.ndim = 3 && (dimAt slotsD 1).extent = rqElems rq
    && rqEpm rq ≤ (dimAt slotsD 2).extent && descUseOk (if rqOp rq = 6 then slotsD else rowsD) true
    && cntOk (laneDesc tds (rqTdCnt rq)) && cntOk (laneDesc tds (rqTdRcnt rq)) && descUseOk (laneDesc tds (rqTdRcnt rq)) true
    && (base * descBits rowsD) % 512 = 0 && (base * descBits slotsD) % 512 = 0
    && base + rqEpm rq * rqElems rq * (dimAt slotsD 0).extent ≤ extentAll slotsD && base ≤ extentAll rowsD
    && rqStg rq * 4096 + 262144 ≤ 524288
    && !(tensorMeets rowsD rq step (extentAll rowsD * descBits rowsD / 8) (rqOp rq = 7))
    && !(tensorMeets slotsD rq step (extentAll slotsD * descBits slotsD / 8) (rqOp rq = 6))
    && !(tensorMeets (laneDesc tds (rqTdCnt rq)) rq step (4 * g.members.length * rqEpm rq) false)
    && !(tensorMeets (laneDesc tds (rqTdRcnt rq)) rq step (4 * g.members.length * rqEpm rq) true)

/-- Entry i of a count tensor in the tile's scratchpad. -/
def countAt (x : Tile) (d : TDesc) (step i : Nat) (wr : Bool) : Int :=
  sextNat 32 (readLe x.scratch (bankBase d step wr + 4 * i) 4)

/-- R227: a negative count, or more rows than the window holds from element `base`. -/
def a2aCountsOk (x : Tile) (g : Group) (rq base step : Nat) (tds : Map (BitVec 1024)) : Bool :=
  let n := g.members.length * rqEpm rq
  let cs := (List.range n).map (fun i => countAt x (laneDesc tds (rqTdCnt rq)) step i false)
  let d := laneDesc tds (if rqOp rq = 6 then rqTdS rq else rqTdD rq)
  let rows := (extentAll d - base) / max 1 (dimAt d 0).extent
  cs.all (fun c => 0 ≤ c) && cs.foldl (· + ·) 0 ≤ (rows : Int)

/-! ### A lane at work -/

/-- R236: the tile of a lane is being substituted live. -/
def lanePaused (s : State) (t : Nat) : Bool :=
  let x := substAt s (t / 16)
  x.phase = .moving && x.mode = 1 && 16 * (t / 16) + x.ltile = t

/-- The group, member and request of the launch that runs on a tile's lane. -/
structure LaneCtx where
  t    : Nat
  t0   : Nat
  l    : LaneRun
  g    : Group
  rq   : Nat
  prog : List Nat
  deriving DecidableEq, Repr

def laneCtx (s : State) (t : Nat) : Option LaneCtx :=
  match laneAt s t, partOf s t with
  | some l, some p => (groupAt s l.gix).map (fun g =>
      { t := t, t0 := p.t0, l := l, g := g, rq := rqOf g l.sched, prog := progOf g l.rank l.sched l.canon })
  | _, _ => none

/-- The entry at the lane's position, and what the repetition of an open LOOP adds to it (Table 9-6). -/
def curEntry (x : LaneCtx) : Nat := x.prog.getD x.l.pos 0
def curLoop (x : LaneCtx) : Nat :=
  match x.l.loopAt with
  | some j => if x.l.pos < j then x.prog.getD j 0 else 0
  | none => 0
def curDoffS (x : LaneCtx) : Nat := enDoffS (curEntry x) + x.l.rep * enDoffD (curLoop x)
def curDoffD (x : LaneCtx) : Nat := enDoffD (curEntry x) + x.l.rep * enDoffD (curLoop x)
def curXtag (x : LaneCtx) : Nat := (enXtag (curEntry x) + x.l.rep * enXtag (curLoop x)) % 65536
def curKey (x : LaneCtx) : Nat := x.l.rep * 65536 + x.l.pos

/-- Count descriptors of an all-to-all, and the element count of a row. -/
def cntDesc (x : LaneCtx) : TDesc := laneDesc x.l.tds (rqTdCnt x.rq)
def rcntDesc (x : LaneCtx) : TDesc := laneDesc x.l.tds (rqTdRcnt x.rq)
def rowLen (x : LaneCtx) : Nat := rqRowl x.rq * 64

def cntOf (s : State) (x : LaneCtx) (i : Nat) : Nat := (countAt (tileAt s x.t) (cntDesc x) x.l.step i false).toNat
def rcntOf (s : State) (x : LaneCtx) (i : Nat) : Nat := (countAt (tileAt s x.t) (rcntDesc x) x.l.step i true).toNat

def sumTo (n : Nat) (f : Nat → Nat) : Nat := (List.range n).foldl (fun a i => a + f i) 0

/-- Rows that the lane sends to member q: its own rows for q's experts in a dispatch, the rows q sent in a return. -/
def rowsTo (s : State) (x : LaneCtx) (q : Nat) : Nat :=
  let e := rqEpm x.rq
  sumTo e (fun i => if rqOp x.rq = 6 then cntOf s x (q * e + i) else rcntOf s x (q * e + i))

/-- Rows that the lane receives from member q. -/
def rowsFrom (s : State) (x : LaneCtx) (q : Nat) : Nat :=
  let e := rqEpm x.rq
  sumTo e (fun i => if rqOp x.rq = 6 then rcntOf s x (q * e + i) else cntOf s x (q * e + i))

/-- The local expert and the row within it of row i of a stream whose expert l has `n l` rows. -/
def expertOf (n : Nat → Nat) (es : List Nat) (i : Nat) : Nat × Nat :=
  match es with
  | [] => (0, i)
  | l :: r => if i < n l then (l, i) else expertOf n r (i - n l)

/-- R228: the local expert and slot OFF + j of row i that source q sends. -/
def slotOf (s : State) (x : LaneCtx) (q i : Nat) : Nat × Nat :=
  let e := rqEpm x.rq
  let r := expertOf (fun l => rcntOf s x (q * e + l)) (List.range e) i
  (r.1, sumTo q (fun q' => rcntOf s x (q' * e + r.1)) + r.2)

/-- Where a row lies: none for a slot at or beyond CAP. `slots` says that the row is one of the expert slots; the other side
of an all-to-all is the rows sorted by expert, of which those of member q come in order. -/
def rowAddr (s : State) (x : LaneCtx) (slots wr : Bool) (q i : Nat) : Option Nat :=
  let d := laneDesc x.l.tds (if wr then rqTdD x.rq else rqTdS x.rq)
  let base := bankBase d x.l.step wr + x.l.base * descBits d / 8
  if slots then
    let p := slotOf s x q i
    if p.2 ≥ rqElems x.rq then none else some ((bitAddr d base [0, (p.2 : Int), (p.1 : Int)]).toNat / 8)
  else
    let first := sumTo (q * rqEpm x.rq) (cntOf s x)
    some ((bitAddr d base [0, ((first + i : Nat) : Int)]).toNat / 8)

/-- The words of the count tensors that the engine cannot correct, read as R86 states. -/
def countUe (x : Tile) (g : Group) (rq step : Nat) (tds : Map (BitVec 1024)) (w : SramWord) : Bool :=
  let n := 4 * g.members.length * rqEpm rq
  let hit (d : TDesc) (wr : Bool) (k : Nat) : Bool := bankBase d step wr / 8 ≤ k && 8 * k < bankBase d step wr + n
  match w with
  | .scratch k => isA2a rq && x.num.ue.contains w && (hit (laneDesc tds (rqTdCnt rq)) false k || hit (laneDesc tds (rqTdRcnt rq)) true k)
  | _ => false

/-- FILL of a descriptor over n bytes. -/
def fillBytes (d : TDesc) (n : Nat) : List Byte :=
  let w := descBits d
  let v := (List.range (512 / w)).foldl (fun a i => a + (d.fill % 2 ^ w) <<< (w * i)) 0
  (List.range n).map (fun i => BitVec.ofNat 8 (v >>> (8 * (i % 64))))

/-- Pieces (row, offset in it, length) of the bytes [a, a + n) of a stream of rows. -/
def rowPieces (len fuel a n : Nat) : List (Nat × Nat × Nat) :=
  match fuel with
  | 0 => []
  | k + 1 =>
    if n = 0 then []
    else
      let m := min n (len - a % len)
      (a / len, a % len, m) :: rowPieces len k (a + m) (n - m)

/-! ### Accesses of the engine (R221, R223, R234) -/

/-- What an access of the engine answers: it waits, its bytes, or it failed and the launch with it. -/
inductive Got where
  | wait
  | ok (s : State) (bs : List Byte)
  | failed (s : State)
  deriving DecidableEq, Repr

/-- Scratchpad bytes of the lane's tile; an uncorrectable word is met as R86 states. -/
def engScratch (s : State) (t a n : Nat) : Got :=
  if lanePaused s t then .wait
  else
    let hit (w : SramWord) : Bool := match w with
      | .scratch k => a / 8 ≤ k && k ≤ (a + n - 1) / 8
      | _ => false
    if n ≠ 0 && (tileAt s t).num.ue.any hit then .failed (tileReadUe s t (fun w => if hit w then some 13 else none))
    else .ok s (readBytes (tileAt s t).scratch a n)

def engRead (s : State) (t sp a n : Nat) (ev : List LineEv) : Got :=
  if sp = 0 then engScratch s t a n
  else
    let c := (partCtx s t).getD 0
    if spanWaits s (some (pageOf (.cluster (t / 16)))) c a n false ev then .wait
    else
      let m := ctxRead s (some (pageOf (.cluster (t / 16)))) c a n ev
      if m.status = stOk then .ok m.s m.data
      else
        let b := (m.bad.headD (a, 0)).1
        .failed (tileErr m.s t m.status 13 (b % 2 ^ 32) (b / 2 ^ 32))

def engWrite (s : State) (t sp a : Nat) (bs : List Byte) (ev : List LineEv) : Got :=
  if sp = 0 then
    if lanePaused s t then .wait
    else
      let w := spWrite (tileAt s t) ((List.range bs.length).map (fun i => (a + i, bs.getD i 0)))
      let s1 := tileSet s t w.1
      if w.2.isEmpty then .ok s1 [] else .failed (w.2.foldl (fun s k => tileSramUe s t 13 (8 * k)) s1)
  else
    let c := (partCtx s t).getD 0
    if spanWaits s (some (pageOf (.cluster (t / 16)))) c a bs.length true ev then .wait
    else
      let m := ctxWriteAt s (some (pageOf (.cluster (t / 16)))) c a bs ev
      if m.status = stOk then .ok m.s []
      else
        let b := (m.bad.headD (a, 0)).1
        .failed (tileErr m.s t m.status 13 (b % 2 ^ 32) (b / 2 ^ 32))

/-- One access after another. -/
def gotThen (g : Got) (k : State → List Byte → Got) : Got :=
  match g with
  | .wait => .wait
  | .failed s => .failed s
  | .ok s bs => k s bs

/-- Reads the bytes [off, off + n) of the stream of rows for member q; a row that was dropped at dispatch reads as the FILL of the lane's
own TD_D, which the receiver replaces by that of its own (R229). -/
def streamRead (x : LaneCtx) (q : Nat) (ev : List LineEv) (ps : List (Nat × Nat × Nat)) (s : State) (acc : List Byte) : Got :=
  match ps with
  | [] => .ok s acc
  | (i, o, m) :: r =>
    match rowAddr s x (rqOp x.rq = 7) false q i with
    | none => streamRead x q ev r s (acc ++ fillBytes (laneDesc x.l.tds (rqTdD x.rq)) m)
    | some a => gotThen (engRead s x.t (laneDesc x.l.tds (rqTdS x.rq)).space (a + o) m ev) (fun s bs =>
        streamRead x q ev r s (acc ++ bs))

/-- Writes bytes of the stream of rows from member q. A row whose slot is at or beyond CAP is not stored and is counted
(R228). -/
def streamWrite (x : LaneCtx) (q : Nat) (ev : List LineEv) (ps : List (Nat × Nat × Nat)) (s : State) (bs : List Byte) : Got :=
  match ps with
  | [] => .ok s []
  | (i, o, m) :: r =>
    let d := laneDesc x.l.tds (rqTdD x.rq)
    match rowAddr s x (rqOp x.rq = 6) true q i with
    | none =>
      let s1 := if o ≠ 0 then s else
        let y := tileAt s x.t
        groupUpd (tileSet s x.t { y with oobCnt := satAdd y.oobCnt (dimAt d 0).extent }) x.l.gix
          (fun g => { g with a2aDrop := satInc g.a2aDrop })
      streamWrite x q ev r s1 (bs.drop m)
    | some a => gotThen (engWrite s x.t d.space (a + o) (bs.take m) ev) (fun s _ => streamWrite x q ev r s (bs.drop m))

def stgAddr (x : LaneCtx) (b : Nat) : Nat := rqStg x.rq * 4096 + 65536 * b

/-- Bytes of a part of a request's windows: a rank's part for REDUCE_SCATTER, otherwise ELEMS elements. -/
def partBytes' (x : LaneCtx) (d : TDesc) : Nat :=
  (if rqOp x.rq = 2 then rqElems x.rq / x.g.members.length else rqElems x.rq) * descBits d / 8

/-- Offset of drupelet k in windows whose parts have `part` bytes: 65,536 · k (R220), counted anew in each part where these are no multiple of
65,536 bytes (DESIGN CHOICE, log entry 129). -/
def drupOff (part k : Nat) : Nat :=
  let n := max 1 (drupCount part)
  k / n * part + 65536 * (k % n)

/-- The first byte of a window drupelet of `len` bytes, which must lie within its part and the window. -/
def drupSpan (x : LaneCtx) (recv : Bool) (k len : Nat) : Option Nat :=
  let d := laneDesc x.l.tds (if recv then rqTdD x.rq else rqTdS x.rq)
  let n := (if recv then recvElems x.g x.rq else sendElems x.g x.rq x.l.rank x.l.canon) * descBits d / 8
  let part := partBytes' x d
  let o := drupOff part k
  if o + len ≤ n && 65536 * (k % max 1 (drupCount part)) + len ≤ part then some (windowAddr d x.l.step x.l.base recv + o) else none

/-- Reads an operand of an entry; a drupelet outside its window is COLL_FAULT WINDOW. Those of a BARRIER carry no bytes. -/
def operandRead (s : State) (x : LaneCtx) (o k len : Nat) (ev : List LineEv) : Option Got :=
  if rqOp x.rq = 5 then some (.ok s [])
  else if o < 4 then some (engScratch s x.t (stgAddr x o) len)
  else
    let d := laneDesc x.l.tds (if o = 5 then rqTdD x.rq else rqTdS x.rq)
    (drupSpan x (o = 5) k len).map (fun a => engRead s x.t d.space a len ev)

def operandWrite (s : State) (x : LaneCtx) (o k : Nat) (bs : List Byte) (ev : List LineEv) : Option Got :=
  if rqOp x.rq = 5 then some (.ok s [])
  else if o < 4 then some (engWrite s x.t 0 (stgAddr x o) bs ev)
  else
    let d := laneDesc x.l.tds (rqTdD x.rq)
    (drupSpan x true k bs.length).map (fun a => engWrite s x.t d.space a bs ev)

/-! ### Tokens (R222) -/

/-- Increments that have landed and have none before them that has not: what is applied, and what stays owed. -/
def takeLanded (owed : List (Nat × Nat × Bool)) : Nat × List (Nat × Nat × Bool) :=
  match owed with
  | (_, n, true) :: r => let t := takeLanded r; (n + t.1, t.2)
  | l => (0, l)

/-- Applies the increments due on a lane. -/
def applyOwed (s : State) (t : Nat) (rq : Nat) : State :=
  match laneAt s t with
  | none => s
  | some l =>
    let r := takeLanded l.owed
    tokenAdd (laneSet s t { l with owed := r.2, applied := l.applied + r.1 }) t (rqAtData rq) r.1

/-- An entry with a receive-window destination joins the increments in program order; one that moves no row of an all-to-all has none. -/
def oweKey (x : LaneCtx) (landed empty : Bool) (l : LaneRun) : LaneRun :=
  let e := curEntry x
  if 2 ≤ enOp e && enOp e ≤ 4 && enC e = 5 && !empty then { l with owed := l.owed ++ [(curKey x, enInc e, landed)] } else l

def nextPos (l : LaneRun) : LaneRun := { l with pos := l.pos + 1 }

/-- An access failed on this member: the launch fails with COLL_PEER_ABORT on every member (R234). -/
def accessFailed (s : State) (t : Nat) : State := abortLaunch s t stPeerAbort 0

/-- Drupelets moved, as COLL_DRUP_CNT counts them (Table 9-11). -/
def drupInc (s : State) (t n : Nat) : State := engUpd s (t / 16) (fun e => { e with drup := satAdd e.drup n })

/-! ### Starting a launch (R217) -/

/-- Refuses the launch at the head of a queue; `pay` says that its owed tokens are known. -/
def refuseLaunch (s : State) (l : Launch) (gix : Option Nat) (rank lseq status src : Nat) (pay : Bool) : State :=
  match gix with
  | none => failTile s l.tile status lseq
  | some k =>
    match groupAt s k with
    | none => failTile s l.tile status lseq
    | some g =>
      let s1 := if pay then payTokens s l.tile (rqOf g l.sched) (progIncs (progOf g rank l.sched (laneCanon s l.tile))) else s
      failTile (noteFail s1 k status src) l.tile status lseq

/-- The COLL_FAULT source of a launch that R216, R226 or R227 refuses. -/
def launchFault (s : State) (l : Launch) (g : Group) (rank : Nat) : Option Nat :=
  let rq := rqOf g l.sched
  let canon := laneCanon s l.tile
  if isA2a rq then
    let base := l.arg.toNat % 2 ^ 32
    if a2aShapesOk g rq base l.step l.tds && a2aCountsOk (tileAt s l.tile) g rq base l.step l.tds then none else some 6
  else if canon && (rqOp rq = 1 || rqOp rq = 2) && rqCpm rq = 0 then some 5
  else if windowsOk g rq rank (l.arg.toNat % 2 ^ 32) l.step l.tds canon then none
  else some 3

/-- A count that cannot be corrected: the word is noted and the launch fails on every member (R86, R234). -/
def countsFailed (s : State) (t : Nat) : State :=
  match laneCtx s t with
  | none => s
  | some x => accessFailed (tileReadUe s t (fun w =>
      if countUe (tileAt s t) x.g x.rq x.l.step x.l.tds w then some 13 else none)) t

/-- The counts that a lane's all-to-all reads can be corrected. -/
def countsClean (s : State) (x : LaneCtx) : Bool :=
  !((tileAt s x.t).num.ue.any (countUe (tileAt s x.t) x.g x.rq x.l.step x.l.tds))

/-- A dispatch writes the counts that its own member keeps (R228). -/
def ownCounts (s : State) (t : Nat) : State :=
  match laneCtx s t with
  | none => s
  | some x =>
    if rqOp x.rq ≠ 6 then s
    else
      let e := rqEpm x.rq
      let a := bankBase (rcntDesc x) x.l.step true + 4 * (x.l.rank * e)
      let bs := (List.range e).flatMap (fun l => leBytes 4 (cntOf s x (x.l.rank * e + l)))
      match engWrite s t 0 a bs [] with
      | .ok s1 _ => s1
      | .failed s1 => accessFailed s1 t
      | .wait => s

/-- Credits that came before the launch started; one for another request is a MISMATCH (R218). -/
def earlyCredits (s : State) (t gid rank lane : Nat) : State :=
  match laneAt s t with
  | none => s
  | some l =>
    let mine (f : UFrame) : Bool := f.group = gid && f.dstRank = rank && f.lane = lane && f.step = l.step && f.lseq = l.lseq
    let fs := s.fb.early.filter mine
    let s1 := { s with fb := { s.fb with early := s.fb.early.filter (fun f => !(mine f)) } }
    if fs.any (fun f => f.sched ≠ l.sched) then abortLaunch s1 t stCollFault 4
    else laneSet s1 t { l with credits := fs.map (fun f => (f.srcRank, f.xtag)) }

def startLaunch (s : State) (l : Launch) (p : Part) : State :=
  match groupOfSlot s p.t0 l.group with
  | none => refuseLaunch s l none 0 0 stCollFault 1 false
  | some gix =>
    match groupAt s gix with
    | none => s
    | some g =>
      let k := l.tile * 64 + gix
      let lseq := mapGet 0 s.fb.lseqs k
      let s1 := { s with fb := { s.fb with lseqs := mapSet s.fb.lseqs k ((lseq + 1) % 65536),
                                           lastL := mapSet s.fb.lastL k (l.step, lseq) } }
      let rank := ((localAt g p.t0).map LocalMem.rank).getD 0
      let known : Bool := l.sched < g.reqs.length
      if g.st = 3 then refuseLaunch s1 l (some gix) rank lseq stMemberLost 0 known
      else if g.st ≠ 2 then refuseLaunch s1 l (some gix) rank lseq stCollFault 1 known
      else match g.failedL.find? (fun e => e.1 = rank && e.2.1 = l.step && e.2.2.1 = lseq) with
        | some (_, _, _, st) => refuseLaunch s1 l (some gix) rank lseq st 0 known
        | none =>
          if !known then refuseLaunch s1 l (some gix) rank lseq stCollFault 2 false
          else match launchFault s1 l g rank with
            | some src => refuseLaunch s1 l (some gix) rank lseq stCollFault src true
            | none =>
              let r : LaneRun := { gix := gix, rank := rank, sched := l.sched, lseq := lseq, step := l.step,
                                   base := l.arg.toNat % 2 ^ 32, canon := laneCanon s1 l.tile, tds := l.tds }
              let s2 := groupUpd (laneSet s1 l.tile r) gix (fun g => { g with launches := satInc g.launches })
              if (tileAt s2 l.tile).num.ue.any (countUe (tileAt s2 l.tile) g (rqOf g l.sched) l.step l.tds) then countsFailed s2 l.tile
              else ownCounts (earlyCredits s2 l.tile g.id rank (l.tile - p.t0)) l.tile

/-- LAUNCH_START (R217): the engine of cluster c takes the launch at the head of its queue once the tile's lane is free. -/
def execLaunchStart (c : Nat) (s : State) : Out :=
  match mapGet [] s.tl.lqueue c with
  | [] => .next s
  | l :: r =>
    if (laneAt s l.tile).isSome || lanePaused s l.tile then .next s
    else
      let s1 := { s with tl := { s.tl with lqueue := mapSet s.tl.lqueue c r } }
      match partOf s1 l.tile with
      | none => .next s1
      | some p => fabNext (startLaunch s1 l p)

/-! ### Drupelet entries (R220, R221) -/

/-- A source operand is ready: a full buffer, the send window, or a receive-window drupelet that has landed. -/
def sourceReady (x : LaneCtx) (o : Nat) : Bool :=
  if o < 4 then x.l.full.contains o
  else o ≠ 5 || !(x.l.recvs.any (fun r => r.dst = 5 && r.doff = curDoffD x))

/-- A destination buffer is empty and not awaited by a RECV; a receive-window drupelet is not awaited either. -/
def destReady (x : LaneCtx) (o : Nat) : Bool :=
  if o < 4 then !(x.l.full.contains o) && !(x.l.recvs.any (fun r => r.dst = o)) && !(x.l.sends.any (fun k => k.frees = some o))
  else true

/-- No count of an all-to-all is still awaited. -/
def countsIn (x : LaneCtx) : Bool := !(x.l.recvs.any (fun r => r.dst = 6))

/-- The entry at the lane's position when the row's operation is due on it. -/
def entryAt (s : State) (t op : Nat) : Option LaneCtx :=
  match laneCtx s t with
  | some x => if !x.l.ended && x.l.pos < x.prog.length && enOp (curEntry x) = op then some x else none
  | none => none

/-- Length of a drupelet of an all-to-all stream of `rows` rows; otherwise the entry's own. -/
def streamLen (x : LaneCtx) (rows k : Nat) : Nat := min (enLen (curEntry x)) (rows * rowLen x - 65536 * k)

/-- Frames of a drupelet: segments of 8,192 bytes (R252); a drupelet of no bytes is one frame. `holes` are the parts of it that stand for
dropped rows. -/
def segFrames (x : LaneCtx) (lane peer xtag : Nat) (bs : List Byte) (holes : List (Nat × Nat)) : List UFrame :=
  let cs := if bs.isEmpty then [[]] else chunks (bs.length / 8192 + 1) 8192 bs
  (List.range cs.length).map (fun i =>
    { typ := 1, group := x.g.id, step := x.l.step, lseq := x.l.lseq, sched := x.l.sched, lane := lane, seg := i,
      srcRank := x.l.rank, dstRank := peer, xtag := xtag, body := cs.getD i [],
      holes := (holes.filter (fun h => h.1 / 8192 = i)).map (fun h => (h.1 % 8192, h.2)) })

def peerNode (g : Group) (r : Nat) : Nat := ((g.members.getD r (0, 0))).1

/-- The bytes of a SEND leave for its peer: its credit is used, and its buffer stays full until the peer has acknowledged them. -/
def sendDrup (s : State) (x : LaneCtx) (k : SendSt) (bs : List Byte) (holes : List (Nat × Nat)) : State :=
  match laneAt s x.t with
  | none => s
  | some l =>
    let fs := segFrames x (x.t - x.t0) k.peer k.xtag bs holes
    let l1 := { l with credits := l.credits.erase (k.peer, k.xtag),
                       sends := l.sends.map (fun q => if q = k then { k with sent := true, left := fs.length } else q) }
    drupInc (sendFrames (laneSet s x.t l1) (peerNode x.g k.peer) false fs) x.t 1

/-- What an access answers, put to use; a drupelet outside its window is COLL_FAULT WINDOW. -/
def useGot (s : State) (t : Nat) (g : Option Got) (k : State → List Byte → State) : State :=
  match g with
  | none => abortLaunch s t stCollFault 3
  | some .wait => s
  | some (.failed s1) => accessFailed s1 t
  | some (.ok s1 bs) => k s1 bs

/-- The parts (offset, bytes) of a stream of rows for member q that stand for rows dropped at dispatch: each segment of 8,192 bytes has its own. -/
def holesOf (s : State) (x : LaneCtx) (q off : Nat) (ps : List (Nat × Nat × Nat)) : List (Nat × Nat) :=
  match ps with
  | [] => []
  | (i, _, m) :: r =>
    (if (rowAddr s x (rqOp x.rq = 7) false q i).isNone then (rowPieces 8192 (m + 1) off m).map (fun c => (8192 * c.1 + c.2.1, c.2.2)) else [])
      ++ holesOf s x q (off + m) r

/-- A SEND that waits has its peer's credit: its operand is read and leaves (R221 item 4). -/
def sendReady (s : State) (x : LaneCtx) (k : SendSt) (ev : List LineEv) : State :=
  if isA2a x.rq && k.opnd = 4 then
    let ps := rowPieces (rowLen x) (k.len + 1) (65536 * k.doff) k.len
    useGot s x.t (some (streamRead x k.peer ev ps s [])) (fun s bs => sendDrup s x k bs (holesOf s x k.peer 0 ps))
  else useGot s x.t (operandRead s x k.opnd k.doff k.len ev) (fun s bs => sendDrup s x k bs [])

/-- The SEND at the lane's position starts, with its source full and at most four drupelets in flight. It does not keep later entries from
starting while it waits for its credit: Table 9-8 begins every rank's program with a SEND before the RECV that posts the credit for it
(DEDUCED, log entry 135). A drupelet of an all-to-all that holds no row is not sent. -/
def sendStart (s : State) (x : LaneCtx) (ev : List LineEv) : State :=
  let e := curEntry x
  let o := enA e
  let k := if o = 5 then curDoffD x else curDoffS x
  let rows : Bool := isA2a x.rq && o = 4
  if !(sourceReady x o) || x.l.sends.length ≥ 4 || (rows && !(countsIn x)) then s
  else if rows && !(countsClean s x) then countsFailed s x.t
  else
    let n := if rows then streamLen x (rowsTo s x (enPeer e)) k else enLen e
    let q : SendSt := { peer := enPeer e, xtag := curXtag x, frees := if enFreeA e && o < 4 then some o else none, opnd := o, doff := k,
                        len := n }
    let l := nextPos x.l
    if rows && n = 0 then laneSet s x.t l
    else
      let s1 := laneSet s x.t { l with sends := l.sends ++ [q] }
      if l.credits.contains (q.peer, q.xtag) then
        match laneCtx s1 x.t with
        | some y => sendReady s1 y q ev
        | none => s1
      else s1

/-- SEND (R221): the oldest SEND that waits and has its credit is transmitted; else the one at the lane's position starts. -/
def execSend (t : Nat) (ev : List LineEv) (s : State) : Out :=
  match laneCtx s t with
  | none => .next s
  | some x =>
    match x.l.sends.find? (fun k => !k.sent && x.l.credits.contains (k.peer, k.xtag)) with
    | some k => fabNext (sendReady s x k ev)
    | none => match entryAt s t 1 with
      | none => .next s
      | some x => fabNext (sendStart s x ev)

/-- Sends the credit of a RECV or COUNTR to its peer. -/
def sendCredit (s : State) (x : LaneCtx) : State :=
  let peer := enPeer (curEntry x)
  sendFrames s (peerNode x.g peer) false
    [{ typ := 2, group := x.g.id, step := x.l.step, lseq := x.l.lseq, sched := x.l.sched, lane := x.t - x.t0,
       srcRank := x.l.rank, dstRank := peer, xtag := curXtag x }]

/-- Posts a RECV: one of no row of an all-to-all is complete at once. -/
def postRecv (s : State) (x : LaneCtx) (dst len : Nat) : State :=
  let none' : Bool := len = 0 && rqOp x.rq ≠ 5
  let l := oweKey x false none' (nextPos x.l)
  let r : Recv := { peer := enPeer (curEntry x), xtag := curXtag x, dst := dst, doff := curDoffD x, len := len, key := curKey x }
  let l1 := if none' then { l with done := l.done ++ [(r.peer, r.xtag)] } else { l with recvs := l.recvs ++ [r] }
  applyOwed (laneSet s x.t l1) x.t x.rq

/-- RECV (R221): posts a credit to the peer and does not delay later entries. -/
def execRecv (t : Nat) (s : State) : Out :=
  match entryAt s t 2 with
  | none => .next s
  | some x =>
    let e := curEntry x
    if !(destReady x (enC e)) then .next s
    else if isA2a x.rq && enC e = 5 then
      if !(countsIn x) then .next s
      else if !(countsClean s x) then fabNext (countsFailed s t)
      else
        let n := streamLen x (rowsFrom s x (enPeer e)) (curDoffD x)
        fabNext (postRecv (if n = 0 then s else sendCredit s x) x 5 n)
    else fabNext (postRecv (sendCredit s x) x (enC e) (if rqOp x.rq = 5 then 0 else enLen e))

/-- One element of a REDUCE (R224). -/
def redElemBits (f : Fmt) (redop a b : Nat) : Nat × NFlags :=
  let x := elemVal f a
  let y := elemVal f b
  convert f .rne false false (match redop with | 0 => fadd x y | 1 => fmax x y | _ => fmin x y)

/-- Elementwise REDOP of two drupelets, with the flags of every element. -/
def reduceBytes (f : Fmt) (redop : Nat) (a b : List Byte) : List Byte × NFlags :=
  let w := fmtBits f / 8
  (List.range (a.length / w)).foldl (fun r i =>
    let v := redElemBits f redop (leVal ((a.drop (w * i)).take w)) (leVal ((b.drop (w * i)).take w))
    (r.1 ++ leBytes w v.1, flagsOr r.2 v.2)) ([], {})

/-- Buffers that an entry frees and the one it fills. -/
def freeFill (x : LaneCtx) (l : LaneRun) : LaneRun :=
  let e := curEntry x
  let f1 := l.full.filter (fun b => !((enFreeA e && b = enA e) || (enOp e = 3 && enFreeB e && b = enB e)))
  { l with full := if enC e < 4 then f1 ++ [enC e] else f1 }

/-- The end of a REDUCE or COPY: its destination has landed. -/
def localDone (s : State) (x : LaneCtx) (empty : Bool) : State :=
  match laneAt s x.t with
  | none => s
  | some l => applyOwed (laneSet s x.t (oweKey x true empty (nextPos (freeFill x l)))) x.t x.rq

/-- REDUCE (R224): C = A ⊕ B, flags in engine 4 of the lane's tile, a residue mismatch with SOURCE 13. -/
def execReduce (t : Nat) (hw : HwErr) (ev : List LineEv) (s : State) : Out :=
  match entryAt s t 3 with
  | none => .next s
  | some x =>
    let e := curEntry x
    let dst := laneDesc x.l.tds (rqTdD x.rq)
    let f := (fmtOfCode (rqEtype x.rq)).getD .fp32
    let off (o : Nat) : Nat := if o = 5 then curDoffD x else curDoffS x
    if !(sourceReady x (enA e)) || !(sourceReady x (enB e)) || !(destReady x (enC e)) || lanePaused s t then .next s
    else
      let s0 := tileHw s t hw 13 0
      fabNext (useGot s0 t (operandRead s0 x (enA e) (off (enA e)) (enLen e) ev) (fun s1 a =>
        useGot s1 t (operandRead s1 x (enB e) (off (enB e)) (enLen e) ev) (fun s2 b =>
          let r := reduceBytes f (rqRedop x.rq) a b
          useGot s2 t (operandWrite s2 x (enC e) (curDoffD x) r.1 ev) (fun s3 _ =>
            let s4 := tileFlags s3 t (if r.2 = {} then [] else [{ engine := 4, flags := r.2, tag := dst.tag }])
            localDone (engUpd s4 (t / 16) (fun c => { c with red := satInc c.red })) x false))))

/-- DRUPELET_COPY (R220): C = A. In an all-to-all the window operands are the member's own rows and slots. -/
def execDrupeletCopy (t : Nat) (ev : List LineEv) (s : State) : Out :=
  match entryAt s t 4 with
  | none => .next s
  | some x =>
    let e := curEntry x
    let k := if enA e = 5 then curDoffD x else curDoffS x
    if !(sourceReady x (enA e)) || !(destReady x (enC e)) || lanePaused s t then .next s
    else if isA2a x.rq && enA e = 4 && enC e = 5 then
      if !(countsIn x) then .next s
      else if !(countsClean s x) then fabNext (countsFailed s t)
      else
        let n := streamLen x (rowsTo s x x.l.rank) k
        let ps := rowPieces (rowLen x) (n + 1) (65536 * k) n
        fabNext (useGot s t (some (gotThen (streamRead x x.l.rank ev ps s []) (fun s bs => streamWrite x x.l.rank ev ps s bs)))
          (fun s _ => localDone s x (n = 0)))
    else fabNext (useGot s t (operandRead s x (enA e) k (enLen e) ev) (fun s1 bs =>
      useGot s1 t (operandWrite s1 x (enC e) (curDoffD x) bs ev) (fun s2 _ => localDone s2 x false)))

/-- The next repetition of a LOOP of an all-to-all moves rows: otherwise its streams have ended (log entry 129). -/
def rowsLeft (s : State) (x : LaneCtx) : Bool :=
  let k := x.l.rep + 1
  ((x.prog.drop (x.l.pos - enPeer (curEntry x))).take (enPeer (curEntry x))).any (fun b => match enOp b with
    | 1 => 65536 * k < rowsTo s x (enPeer b) * rowLen x
    | 2 => 65536 * k < rowsFrom s x (enPeer b) * rowLen x
    | 4 => 65536 * k < rowsTo s x x.l.rank * rowLen x
    | _ => false)

/-- LOOP (Table 9-6): the body runs COUNT times in all; repetition i adds i · DSTEP and i · XSTEP. That of an all-to-all ends with its rows. -/
def execLanLoop (t : Nat) (s : State) : Out :=
  match entryAt s t 5 with
  | none => .next s
  | some x =>
    let e := curEntry x
    let l := x.l
    if l.rep + 1 < enDoffS e && (!(isA2a x.rq) || rowsLeft s x) then .next (laneSet s t { l with pos := l.pos - enPeer e, rep := l.rep + 1, loopAt := some l.pos })
    else .next (laneSet s t { l with pos := l.pos + 1, rep := 0, loopAt := none })

/-- COUNTX (R228): this member's counts for PEER's experts. -/
def execCountx (t : Nat) (s : State) : Out :=
  match entryAt s t 6 with
  | none => .next s
  | some x =>
    let peer := enPeer (curEntry x)
    let n := rqEpm x.rq
    if !(isA2a x.rq) || x.l.sends.length ≥ 4 || !(x.l.credits.contains (peer, curXtag x)) then .next s
    else
      let k : SendSt := { peer := peer, xtag := curXtag x, frees := none, len := 4 * n }
      let l := nextPos x.l
      let s1 := laneSet s t { l with sends := l.sends ++ [k] }
      fabNext (useGot s1 t (some (engScratch s1 t (bankBase (cntDesc x) x.l.step false + 4 * (peer * n)) (4 * n)))
        (fun s bs => sendDrup s x k bs []))

/-- COUNTR (R228): posts a credit for PEER's counts, which land in the received-count tensor. -/
def execCountr (t : Nat) (s : State) : Out :=
  match entryAt s t 7 with
  | none => .next s
  | some x => if !(isA2a x.rq) then .next s else fabNext (postRecv (sendCredit s x) x 6 (4 * rqEpm x.rq))

/-- END (R219): the program has ended. -/
def execEndProg (t : Nat) (s : State) : Out :=
  match entryAt s t 0 with
  | none => .next s
  | some x => .next (laneSet s t { x.l with ended := true })

/-- LAUNCH_COMPLETE (R219): END reached, every SEND acknowledged, every receive-window byte landed: AT_DONE advances. -/
def execLaunchComplete (t : Nat) (s : State) : Out :=
  match laneCtx s t with
  | none => .next s
  | some x =>
    if !x.l.ended || !x.l.sends.isEmpty || !x.l.recvs.isEmpty || lanePaused s t then .next s
    else .next (launchEnded (tokenAdd (laneDel s t) t (rqAtDone x.rq) 1) t)

/-! ### Arrivals (R218, R252) -/

/-- What becomes of an arriving message: it is done with and acknowledged, kept back, or kept by the engine for a paused lane (R236). -/
inductive Arrival where
  | done (s : State)
  | dup (s : State)
  | keep
  | park

/-- The tile that a DATA or CREDIT names, with its group. -/
def frameTile (s : State) (f : UFrame) : Option (Nat × Nat × Group) :=
  match groupFind s f.group with
  | none => none
  | some gix => match groupAt s gix with
    | none => none
    | some g => match localOfRank g f.dstRank with
      | none => none
      | some m => if f.lane < 2 ^ g.log2n then some (m.t0 + f.lane, gix, g) else none

/-- A message against the launch that its lane runs (R218), or, with none running, against the last one it started. -/
inductive LaunchCmp where
  | stale
  | current (l : LaneRun)
  | mismatch
  | future
  deriving DecidableEq, Repr

def cmpLaunch (s : State) (t gix : Nat) (g : Group) (f : UFrame) : LaunchCmp :=
  let failed := g.failedL.any (fun e => e.1 = f.dstRank && e.2.1 = f.step && e.2.2.1 = f.lseq)
  let before (step lseq : Nat) : Bool := f.step < step || (f.step = step && f.lseq < lseq)
  let past : Bool := f.step < (tileAt s t).stepCopy.toNat
    || (mapFind s.fb.lastL (t * 64 + gix)).any (fun e => before e.1 (e.2 + 1))
  match (laneAt s t).filter (fun l => l.gix = gix) with
  | some l =>
    if failed || before l.step l.lseq then .stale
    else if f.step = l.step && f.lseq = l.lseq then (if f.sched = l.sched then .current l else .mismatch)
    else .future
  | none => if failed || past then .stale else .future

def staleMsg (s : State) (t : Nat) : State := engUpd s (t / 16) (fun e => { e with stale := satInc e.stale })

/-- Segments of a RECV; a drupelet of no bytes comes as one frame. -/
def segCount (len : Nat) : Nat := max 1 ((len + 8191) / 8192)

/-- The RECV has all its segments: its buffer is full, its increment due (R221, R222). -/
def recvDone (s : State) (t rq : Nat) (r : Recv) : State :=
  match laneAt s t with
  | none => s
  | some l =>
    let l1 := { l with recvs := l.recvs.filter (fun q => !(q.peer = r.peer && q.xtag = r.xtag)),
                       done := l.done ++ [(r.peer, r.xtag)],
                       full := if r.dst < 4 then l.full ++ [r.dst] else l.full,
                       owed := l.owed.map (fun o => if o.1 = r.key && r.dst = 5 then (o.1, o.2.1, true) else o) }
    drupInc (applyOwed (laneSet s t l1) t rq) t 1

/-- A segment's bytes as they land: where they stand for a row dropped at dispatch they are the FILL of the receiver's own TD_D (R229). -/
def holesFilled (x : LaneCtx) (f : UFrame) : List Byte :=
  f.holes.foldl (fun bs h => bs.take h.1 ++ fillBytes (laneDesc x.l.tds (rqTdD x.rq)) h.2 ++ bs.drop (h.1 + h.2)) f.body

/-- Where a segment of a RECV is written. -/
def segWrite (s : State) (x : LaneCtx) (r : Recv) (f : UFrame) (ev : List LineEv) : Option Got :=
  let o := 8192 * f.seg
  if rqOp x.rq = 5 then some (.ok s [])
  else if r.dst < 4 then some (engWrite s x.t 0 (stgAddr x r.dst + o) f.body ev)
  else if r.dst = 6 then
    some (engWrite s x.t 0 (bankBase (rcntDesc x) x.l.step true + 4 * (r.peer * rqEpm x.rq) + o) f.body ev)
  else if isA2a x.rq then
    some (streamWrite x r.peer ev (rowPieces (rowLen x) (f.body.length + 1) (65536 * r.doff + o) f.body.length) s (holesFilled x f))
  else
    let d := laneDesc x.l.tds (rqTdD x.rq)
    (drupSpan x true r.doff r.len).map (fun a => engWrite s x.t d.space (a + o) f.body ev)

/-- A DATA segment at its lane (R252). -/
def dataArrive (s : State) (f : UFrame) (ev : List LineEv) : Arrival :=
  match frameTile s f with
  | none => .done s
  | some (t, gix, g) =>
    match cmpLaunch s t gix g f with
    | .stale => .done (staleMsg s t)
    | .future => .keep
    | .mismatch => .done (abortLaunch s t stCollFault 4)
    | .current l =>
      match l.recvs.find? (fun r => r.peer = f.srcRank && r.xtag = f.xtag), laneCtx s t with
      | some r, some x =>
        if r.segs.contains f.seg then .dup s
        else if f.seg ≥ segCount r.len || f.body.length ≠ min 8192 (r.len - 8192 * f.seg) then
          .done (abortLaunch s t stCollFault 4)
        else match segWrite s x r f ev with
          | none => .done (abortLaunch s t stCollFault 3)
          | some .wait => if lanePaused s t then .park else .keep
          | some (.failed s1) => .done (accessFailed s1 t)
          | some (.ok s1 _) =>
            match laneAt s1 t with
            | none => .done s1
            | some l1 =>
              let r1 := { r with segs := r.segs ++ [f.seg] }
              let s2 := laneSet s1 t { l1 with recvs := l1.recvs.map (fun q => if q.peer = r.peer && q.xtag = r.xtag then r1 else q) }
              .done (if r1.segs.length = segCount r.len then recvDone s2 t x.rq r1 else s2)
      | _, _ =>
        if l.done.contains (f.srcRank, f.xtag) then .dup s else .done (abortLaunch s t stCollFault 4)

/-- A CREDIT at its lane: one for a launch that has not started is kept for it. -/
def creditArrive (s : State) (f : UFrame) : Arrival :=
  match frameTile s f with
  | none => .done s
  | some (t, gix, g) =>
    match cmpLaunch s t gix g f with
    | .stale => .done (staleMsg s t)
    | .mismatch => .done (abortLaunch s t stCollFault 4)
    | .future => .done { s with fb := { s.fb with early := s.fb.early ++ [f] } }
    | .current l => .done (laneSet s t { l with credits := l.credits ++ [(f.srcRank, f.xtag)] })

/-- The peer has acknowledged a DATA frame that this device sent (R221 item 6): the last one completes its SEND. -/
def dataAcked (s : State) (f : UFrame) : State :=
  if f.typ ≠ 1 then s
  else match groupFind s f.group with
    | none => s
    | some gix => match groupAt s gix with
      | none => s
      | some g => match localOfRank g f.srcRank with
        | none => s
        | some m =>
          let t := m.t0 + f.lane
          match laneAt s t with
          | none => s
          | some l =>
            if l.gix ≠ gix || l.step ≠ f.step || l.lseq ≠ f.lseq then s
            else match l.sends.find? (fun k => k.peer = f.dstRank && k.xtag = f.xtag) with
              | none => s
              | some k =>
                let rest := l.sends.erase k
                if k.left ≤ 1 then laneSet s t { l with sends := rest, full := l.full.filter (fun b => some b ≠ k.frees) }
                else laneSet s t { l with sends := l.sends.map (fun q => if q = k then { k with left := k.left - 1 } else q) }

end Sys2Proof.Machine
end

