-- ==== Sys2Proof/Machine/Disable.lean ====
section
/-! DEFINITION. Aborting queues and disabling functions and contexts (spec 13: R321, R322, R326; spec 14: R330, R352;
spec 15: R359). -/
namespace Sys2Proof.Machine
open Sys2Proof

/-! ### Queue aborts (R352) -/

/-- The hold that an export places on its partition, as a page beyond the unit pages (R373). -/
def exportHold (r : CmdRef) : Nat := 0x10000 + queueKey r

/-- The hold of an export ends. -/
def exportEnd (s : State) (r : CmdRef) : State := withdrawHolds s (exportHold r)

/-- The running command of an aborted queue stops issuing: a RUN stops its plate, a transfer ends, an export drops its
hold; the others end with ABORTED once their effects have retired. -/
def abortBusy (s : State) (r : CmdRef) (k : QCmd) : State :=
  let s1 := cmdUpd s r (fun k => { k with abort := true })
  match k.job with
  | .run t0 => match partOf s1 t0 with
    | some p => stopPart s1 p stAborted 6
    | none => s1
  | .dma => finishCmd s1 r stAborted
  | .ckpt _ => finishCmd (exportEnd s1 r) r stAborted
  | _ => s1

/-- A queue is aborted: ABORTING until its aborted completions are written, with QINC advanced. -/
def abortQueue (s : State) (r : CmdRef) : State :=
  match queueAt s r with
  | none => s
  | some q =>
    let x := ctxAt s r.ctx
    let s1 := ctxSet s r.ctx { x with qinc := mapSet x.qinc r.qid (mapGet 0 x.qinc r.qid + 1) }
    let s2 := queueSet s1 r { q with st := if q.cmd.isSome || q.head ≠ q.tail then .aborting else .idle }
    match q.cmd with
    | none => s2
    | some k =>
      if k.st = .busy then abortBusy s2 r k
      else if k.st = .ended then s2
      else finishCmd s2 r stAborted

/-- Queues of a context. -/
def ctxQueues (s : State) (c : Nat) : List CmdRef :=
  (s.rg.queues.filter (fun e => e.1 / 64 = c)).map (fun e => { ctx := c, qid := e.1 % 64 })

def abortAll (s : State) (c : Nat) : State := (ctxQueues s c).foldl abortQueue s

/-! ### Disabling (R321, R322) -/

/-- Step 4 of R322: fences of which the context holds a SIGNAL handle and another context a handle. -/
def abandonShared (s : State) (c : Nat) : State :=
  (ctxAt s c).handles.foldl (fun s e => match e.2.obj with
    | some o => if e.2.signal && otherHolds s c o then fenceUpd s o fenceAbandon else s
    | none => s) s

/-- Partitions of a context that are not FREE. -/
def ctxParts (s : State) (c : Nat) : List Part :=
  (s.tl.parts.filter (fun e => e.2.ctx = c)).map Prod.snd

/-- Steps 1 and 2 of a partition burnish (R359): they wait for a run that has not completed. -/
def partBurnish (s : State) (p : Part) : State :=
  if p.run.isSome || p.st = .burnishing then s
  else partUpd (leaveAll s p.t0) p.t0 (fun q => { q with st := .burnishing })

/-- Steps 1 to 5 of R322 for one context, whose function is dealt with beside it. -/
def disableCtx (s : State) (c : Nat) : State :=
  if (ctxAt s c).st ≠ .active then s
  else
    let s1 := abandonShared (abortAll s c) c
    let s2 := ctxSet s1 c { ctxAt s1 c with st := .disabling, burn := 0 }
    (ctxParts s2 c).foldl partBurnish s2

/-- Contexts in ACTIVE or DISABLING that a function owns. -/
def funcCtxs (s : State) (fk : Nat) : List Nat :=
  (s.rg.ctxs.filter (fun e => e.2.st ≠ .free && ctxFunc s e.1 = fk)).map Prod.fst

/-- Port and VF number of a function; none for a PF. -/
def funcPort (fk : Nat) : Nat := if fk < 2 then fk else (fk - 2) / 512
def funcVf (fk : Nat) : Option Nat := if fk < 2 then none else some ((fk - 2) % 512)

/-- FUNC_DISABLED (Table 14-8). -/
def postDisabled (s : State) (fk : Nat) (old new : Half) (cause : Nat) : State :=
  let pl := (match funcVf fk with | some v => v | none => 1 <<< 10) + funcPort fk <<< 11 + old.toNat <<< 12
    + new.toNat <<< 28 + cause <<< 44
  unitEvt (postAdmin s (funcPort fk) { kind := 9, payload := pl }) (.hport (funcPort fk)) (2 ^ 19)

/-- R322 for a function: its contexts, FINC, DMA windows and not-ready state. A function that is not ready repeats no
step (R323). -/
def disableFunc (s : State) (cause fk : Nat) : State :=
  let f := funcAt s fk
  if f.nrdy then s
  else
    let cs := (funcCtxs s fk).filter (fun c => (ctxAt s c).st = .active)
    let s1 := cs.foldl disableCtx s
    let s2 := funcSet s1 fk { f with finc := f.finc + 1, nrdy := !cs.isEmpty, wins := [],
                                     tdi := if f.tdi = 1 || f.tdi = 2 then 3 else f.tdi }
    postDisabled s2 fk f.finc (f.finc + 1) cause

/-- One disabling event at a port, over the functions it names (HL_FLR_CNT). -/
def disableEvent (s : State) (port cause : Nat) (fks : List Nat) : State :=
  let p := hportAt s port
  fks.foldl (fun s fk => disableFunc s cause fk) (hportSet s port { p with flr := satInc p.flr })

/-- VFs of a port that a disable of all of them concerns: those enabled or bound. -/
def portVfs (s : State) (port : Nat) : List Nat :=
  let p := hportAt s port
  (List.range 512).filterMap (fun v =>
    if (p.vfEn && v < p.numVfs) || (s.rg.ctxs.any (fun e => e.2.st ≠ .free && e.2.port = port && e.2.vf = some v))
    then some (vfKey port v) else none)

/-- Every function of a port: its VFs, then the PF. -/
def portFuncs (s : State) (port : Nat) : List Nat := portVfs s port ++ [port]

/-- The far window is out of reach: every block reads as FAILED with WINDOW_RESET (R315, R318). -/
def farUnreached (s : State) : State := s.mm.far.foldl (fun s e => farFail s e.1 2) s

/-- The far window is lost, and the roots of its blocks with it (R303). -/
def farLost (s : State) : State :=
  let s1 := farUnreached s
  { s1 with mm := { s1.mm with far := s1.mm.far.map (fun e => (e.1, { e.2 with rooted := false })) } }

/-- RESET of a port or a link event that acts as one (R326, R331, R340): the admin ring is emptied, the port is
ADMIN_ONLY, its counters clear, every function is disabled, the sessions over its DOE mailbox close (R403), and on hp0 the far
window is lost. -/
def portReset (s : State) (k : Nat) : State :=
  let p := hportAt s k
  let fresh : HPort := { numVfs := p.numVfs, vfEn := p.vfEn, ideLow := p.ideLow, secure := p.secure, halted := p.halted }
  let s1 := hportSet s k fresh
  let s2 := queueSet s1 { ctx := adminCtxOf k, qid := 0 } adminQueue
  let s3 := disableEvent s2 k 4 (portFuncs s2 k)
  let s4 := { s3 with ks := { s3.ks with sessions := s3.ks.sessions.filter (fun x => x.doe ≠ some k),
                                         spdmCon := mapDel s3.ks.spdmCon k, doe := mapDel s3.ks.doe k } }
  if k = 0 then farLost s4 else s4

/-- The port's incarnation advances with a link event (R39, R326). -/
def portIncarnate (s : State) (k : Nat) : State :=
  let u : UnitId := .hport k
  let s1 := dropOutst (txnsOfUnit s (pageOf u) 2) (pageOf u)
  unitSet s1 u { unitAt s1 u with inc := (unitAt s1 u).inc + 1 }

/-- A TDI enters ERROR from CONFIG_LOCKED or RUN, and the disable starts at once (R319, R320). -/
def tdiError (s : State) (fk cause : Nat) : State :=
  let f := funcAt s fk
  if f.tdi = 1 || f.tdi = 2 then
    disableEvent (funcSet s fk { f with tdi := 3 }) (funcPort fk) cause [fk]
  else s

end Sys2Proof.Machine
end

