-- ==== Sys2Proof/Machine/RingCmds.lean ====
section
/-! DEFINITION. Doorbells, completion, and the ring commands over contexts, queues, objects, fences, memory and DMA
(spec 14; R266 to R268, R277, R312, R315, R316). -/
namespace Sys2Proof.Machine
open Sys2Proof

/-! ### Doorbells (R332, R333) -/

def srcFunc (src : DbSrc) : Nat := match src with | .pf p => p | .vf p v _ => vfKey p v
def srcPort (src : DbSrc) : Nat := match src with | .pf p => p | .vf p _ _ => p

/-- The function maps the doorbell page of a context (R26, R27, R28). -/
def dbMapped (s : State) (src : DbSrc) (c : Nat) : Bool :=
  match src with
  | .pf 0 => c < 512
  | .pf p => portPresent s p && c < 512 && (ctxAt s c).st ≠ .free && ctxPort s c = p
  | .vf p v _ => (ctxAt s c).st ≠ .free && ctxPort s c = p && (ctxAt s c).vf = some v

/-- What Table 13-3 lets through: nothing in CONFIG_LOCKED and ERROR, only the T-bit stream in RUN. -/
def dbTdiOk (s : State) (src : DbSrc) (c : Nat) : Bool :=
  match ctxTdi s c with
  | 0 => true
  | 2 => match src with | .vf _ _ t => t | .pf _ => false
  | _ => false

/-- A doorbell is taken: its function is ready and its context ACTIVE (R322 step 1). -/
def dbTaken (s : State) (src : DbSrc) (c : Nat) : Bool :=
  dbTdiOk s src c && (ctxAt s c).st = .active && !(funcAt s (ctxFunc s c)).nrdy && !(funcAt s (srcFunc src)).nrdy

def dbDrop (s : State) (src : DbSrc) : State :=
  let p := hportAt s (srcPort src)
  hportSet s (srcPort src) { p with dbDrop := satInc p.dbDrop }

/-- A doorbell write: without effect where the page is not mapped or memory space is off, dropped and counted where the
function does not take it. -/
def doorbell (s : State) (src : DbSrc) (c : Nat) (go : State → State) : State :=
  if !(funcAt s (srcFunc src)).mse || !(dbMapped s src c) then s
  else if dbTaken s src c then go s else dbDrop s src

/-- SQ_TAIL (R333). -/
def sqTailGo (src : DbSrc) (r : CmdRef) (tail : Nat) (s : State) : State :=
  match queueAt s r with
  | none => dbDrop s src
  | some q =>
    if q.st ≠ .idle then dbDrop s src
    else if tail < 2 ^ q.sqLog2 then queueSet s r { q with tail := tail }
    else queueFault s r 1

def execSqTail (src : DbSrc) (ctx q tail : Nat) (s : State) : Out :=
  .next (doorbell s src ctx (sqTailGo src { ctx := ctx, qid := q % 32 } (tail % 4096)))

/-- Frees the records before HEAD. -/
def ringFree (r : Ring) (head : Nat) : Ring :=
  if head ≥ ringSize r then r
  else { r with head := head, used := r.used - min r.used ((head + ringSize r - r.head) % ringSize r) }

/-- CQ_HEAD (R333); events that waited on the admin ring follow (R338). -/
def cqHeadGo (r : CmdRef) (head : Nat) (s : State) : State :=
  match queueAt s r with
  | none => s
  | some q =>
    let c0 := ringFree q.cq head
    let p := ringDrain 1025 s r.ctx (qClaimed q) c0
    msiIf (queueSet p.1 r { q with cq := p.2 }) p.2 (ctxFunc s r.ctx) (p.2.used ≠ c0.used)

def execCqHead (src : DbSrc) (ctx q head : Nat) (s : State) : Out :=
  .next (doorbell s src ctx (cqHeadGo { ctx := ctx, qid := q % 32 } (head % 4096)))

/-- EVQ_HEAD (Table 14-2). -/
def evqHeadGo (c head : Nat) (s : State) : State :=
  match (ctxAt s c).evr with
  | none => s
  | some r =>
    let r0 := ringFree r head
    let p := ringDrain 1025 s c 0 r0
    msiIf (ctxSet p.1 c { ctxAt p.1 c with evr := some p.2 }) p.2 (ctxFunc s c) (p.2.used ≠ r0.used)

def execEvqHead (src : DbSrc) (ctx head : Nat) (s : State) : Out :=
  .next (doorbell s src ctx (evqHeadGo ctx (head % 4096)))

/-- A lost count becomes an EV_OVERFLOW event once the backlog has room (R338). -/
def overflowOf (r : Ring) : Option Event :=
  if r.lost = 0 || r.backlog.length ≥ 1024 then none else some { kind := 11, payload := r.lost.toNat }

/-- EV_OVERFLOW: of a port's admin ring (queue 0 of an admin context) or of a context's event ring. -/
def execEvOverflow (ctx : Nat) (evq : Bool) (s : State) : Out :=
  if evq then
    match (ctxAt s ctx).evr with
    | none => .next s
    | some r => match overflowOf r with
      | none => .next s
      | some e => .next (postCtx (ctxSet s ctx { ctxAt s ctx with evr := some { r with lost := 0 } }) ctx e)
  else if !(isAdminCtx s.hw ctx) then .next s
  else
    let ref : CmdRef := { ctx := ctx, qid := 0 }
    match queueAt s ref with
    | none => .next s
    | some q => match overflowOf q.cq with
      | none => .next s
      | some e => .next (postAdmin (queueSet s ref { q with cq := { q.cq with lost := 0 } }) ctx e)

/-! ### Completion (R337) -/

/-- Completion record (Table 14-6, TYPE 0) without PHASE. -/
def completionRec (qid head : Nat) (v status detail result : Nat) : Nat :=
  status % 256 + (qid % 32) <<< 11 + eCid v <<< 16 + eCtx v <<< 32 + (head % 4096) <<< 48
    + (detail % 2 ^ 64) <<< 64 + (result % 2 ^ 128) <<< 128

/-- The signal of a completed command (R337 step 2). -/
def applySignal (s : State) (k : QCmd) (status : Nat) : State :=
  let v := leVal k.entry
  match k.sobj with
  | none => s
  | some o =>
    if !(eSigEn v) || status = stAborted || (eOkOnly v && status ≠ stOk) then s
    else fenceUpd s o (fun x => fenceSignal x (eSigVal v))

/-- The record is written, the signal applied, the vector fired, in that order. -/
def completeCmd (s : State) (r : CmdRef) (q : Queue) (k : QCmd) (status : Nat) : State :=
  let p := ringPut s r.ctx q.cq (completionRec r.qid q.head (leVal k.entry) status k.detail k.result)
  let q1 := { q with cq := p.2, cmd := none, st := if q.st = .aborting && q.head = q.tail then .idle else q.st }
  msiIf (applySignal (queueSet p.1 r q1) k status) p.2 (ctxFunc s r.ctx) true

/-- COMMAND_COMPLETE: the ended command of a queue, or the next entry of one that is ABORTING (R352). -/
def execCommandComplete (ctx qid : Nat) (s : State) : Out :=
  let r : CmdRef := { ctx := ctx, qid := qid }
  match queueAt s r with
  | none => .next s
  | some q =>
    match q.cmd with
    | some k => match k.st, k.status with
      | .ended, some st => .next (if recordFree q then completeCmd s r q k st else s)
      | _, _ => .next s
    | none =>
      if q.st ≠ .aborting then .next s
      else if q.head = q.tail then .next (queueSet s r { q with st := .idle })
      else if !(recordFree q) then .next s
      else
        let bs := (entryBytes s r q).getD (List.replicate 64 0)
        .next (completeCmd s r { q with head := (q.head + 1) % 2 ^ q.sqLog2 } { entry := bs } stAborted)

/-- FENCE_WAIT_RELEASE (R351): the wait of a queue's command is released, or ends it with TSTATUS; it starts once a record is free (R336). -/
def execFenceWaitRelease (ctx qid : Nat) (s : State) : Out :=
  let r : CmdRef := { ctx := ctx, qid := qid }
  match cmdAt s r with
  | none => .next s
  | some k =>
    if k.st ≠ .waiting || !((queueAt s r).any recordFree) then .next s
    else match k.wobj.bind (objAt s) with
      | none => .next s
      | some f => match fenceWait f (eWaitVal (leVal k.entry)) with
        | .stand => .next s
        | .go => .next (cmdUpd s r (fun k => { k with st := .ready }))
        | .fail st => .next (finishCmd s r st)

/-! ### Interface and contexts -/

/-- NOP; an entry with a reserved OPC is read by this row too and ends with DESC_INVALID (R335). -/
def execRingNop (ctx qid : Nat) (s : State) : Out :=
  .next (ringRow ctx qid (fun o => o = 0 || (payFields o).isNone) (fun s r _ => finishCmd s r stOk) s)

def fwMajMin (s : State) : Nat := (s.fw.runMgmt.map Image.ifMin).getD 0
def fwMajMax (s : State) : Nat := (s.fw.runMgmt.map Image.ifMax).getD 0
/-- Minor that the running firmware serves at a major it holds (R339): the header's at IF_MAJ_MAX, unstated below. -/
def fwMinorAt (s : State) (major : Nat) : Nat :=
  match s.fw.runMgmt with
  | none => 0
  | some i => if major = i.ifMax then i.ifMinor else Config.fwMinor i.version major % 256

def variantCode (v : Variant) : Nat := match v with | .n32 => 0 | .h192 => 1 | .h576x => 2

/-- IDENTIFY (Table 14-7). -/
def exeIdentify (s : State) (r : CmdRef) (_v : Nat) : State :=
  finishRes s r stOk (variantCode s.hw.variant + boolNat s.hw.split <<< 2 + fwMajMin s <<< 8 + fwMajMax s <<< 16
    + fwMinorAt s (fwMajMax s) <<< 24)

def execIdentify (ctx qid : Nat) (s : State) : Out := ringCmd ctx qid 0x01 exeIdentify s

/-- IF_NEGOTIATE (R340). -/
def exeIfNegotiate (s : State) (r : CmdRef) (v : Nat) : State :=
  let lo := pay v 0x20 7 0
  let hi := pay v 0x20 15 8
  let minor := pay v 0x20 23 16
  let k := ctxPort s r.ctx
  let p := hportAt s k
  if lo = 0 || lo > hi then finishCmd s r stInvalid
  else
    let m := min hi (fwMajMax s)
    let ranges := fwMajMin s <<< 16 + fwMajMax s <<< 24 + lo <<< 32 + hi <<< 40
    if m < lo || m < fwMajMin s || s.fw.runMgmt.isNone then
      finishRes s r (if p.negMaj = 0 then stVersion else stIllegal) (if p.negMaj = 0 then ranges else 0)
    else
      let eff := min minor (fwMinorAt s m)
      if p.negMaj = 0 then finishRes (hportSet s k { p with negMaj := m, effMin := eff }) r stOk (m + eff <<< 8 + ranges)
      else if p.negMaj = m then finishRes s r stOk (m + p.effMin <<< 8 + ranges)
      else finishCmd s r stIllegal

def execIfNegotiate (ctx qid : Nat) (s : State) : Out := ringCmd ctx qid 0x02 exeIfNegotiate s

/-- CTX_CREATE. -/
def exeCtxCreate (s : State) (r : CmdRef) (v : Nat) : State :=
  let c := pay v 0x20 11 0
  if c ≥ 512 then finishCmd s r stInvalid
  else if isAdminCtx s.hw c || (ctxAt s c).st ≠ .free then finishCmd s r stIllegal
  else
    let x := ctxAt s c
    let s1 := { s with pw := { s.pw with appCtx := mapDel s.pw.appCtx c } }
    finishCmd (ctxSet s1 c { x with st := .active, port := ctxPort s r.ctx, vf := none }) r stOk

def execCtxCreate (ctx qid : Nat) (s : State) : Out := ringCmd ctx qid 0x03 exeCtxCreate s

/-- CTX_DESTROY (R330): the disable of the context, with its VF if one is bound; it completes at the burnish's end. -/
def exeCtxDestroy (s : State) (r : CmdRef) (v : Nat) : State :=
  let c := eCtx v
  if isAdminCtx s.hw c then finishCmd s r stIllegal
  else
    let s1 := setJob (ctxSet s c { ctxAt s c with destroy := some r }) r (.destroy c)
    if (ctxAt s c).vf.isSome then disableFunc s1 5 (ctxFunc s c)
    else
      let f := funcAt s (ctxFunc s c)
      postDisabled (disableCtx s1 c) (ctxFunc s c) f.finc f.finc 5

def execCtxDestroy (ctx qid : Nat) (s : State) : Out := ringCmd ctx qid 0x04 exeCtxDestroy s

/-- VF_BIND (R312). -/
def exeVfBind (s : State) (r : CmdRef) (v : Nat) : State :=
  let c := eCtx v
  let vf := pay v 0x20 8 0
  let taken := s.rg.ctxs.any (fun e => e.2.st ≠ .free && e.2.port = ctxPort s c && e.2.vf = some vf)
  if isAdminCtx s.hw c || (ctxAt s c).vf.isSome || taken then finishCmd s r stIllegal
  else finishCmd (ctxSet s c { ctxAt s c with vf := some vf }) r stOk

def execVfBind (ctx qid : Nat) (s : State) : Out := ringCmd ctx qid 0x05 exeVfBind s

/-- VF_UNBIND (Table 14-7). -/
def exeVfUnbind (s : State) (r : CmdRef) (v : Nat) : State :=
  let c := eCtx v
  if (ctxAt s c).vf ≠ some (pay v 0x20 8 0) || !(ctxQueues s c).isEmpty || ctxTdi s c ≠ 0
      || (ctxParts s c).any (fun p => p.st = .running) then finishCmd s r stIllegal
  else finishCmd (ctxSet s c { ctxAt s c with vf := none }) r stOk

def execVfUnbind (ctx qid : Nat) (s : State) : Out := ringCmd ctx qid 0x06 exeVfUnbind s

/-- DMA_WINDOW (R316, R319). -/
def exeDmaWindow (s : State) (r : CmdRef) (v : Nat) : State :=
  let fn := pay v 0x20 9 0
  let idx := pay v 0x22 3 0
  let base := pay v 0x28 63 0
  let size := pay v 0x30 63 0
  let port := ctxPort s r.ctx
  if (fn ≥ 512 && fn ≠ 0x3FF) || base % 4096 ≠ 0 || size % 4096 ≠ 0 then finishCmd s r stInvalid
  else
    let fk := if fn = 0x3FF then port else vfKey port fn
    let s1 := tdiError s fk 3
    let f := funcAt s1 fk
    let w : DmaWin := { write := pay v 0x22 4 4 = 1, base := base, size := size }
    finishCmd (funcSet s1 fk { f with wins := if size = 0 then mapDel f.wins idx else mapSet f.wins idx w }) r stOk

def execDmaWindow (ctx qid : Nat) (s : State) : Out := ringCmd ctx qid 0x07 exeDmaWindow s

/-- The lines of a block's OWNED frames were written under counters that are gone: no tag of theirs verifies (R303). -/
def farUnbound (s : State) (blk : Nat) : State :=
  { s with mm := { s.mm with frames := s.mm.frames.map (fun e =>
      (e.1, if frameTier e.1 = 2 && farBlockOf e.1 = blk then { e.2 with bind := none } else e.2)) } }

/-- FAR_WINDOW (R303, R315): a block that reads as FAILED with WINDOW_RESET is established again, with its metadata as it stands while
io0 holds its roots, and initialised otherwise. -/
def exeFarWindow (s : State) (r : CmdRef) (v : Nat) : State :=
  let blk := pay v 0x20 11 0
  let base := pay v 0x28 63 0
  let there := (mapFind s.mm.far blk).isSome
  if pay v 0x20 12 12 = 1 then
    if !there then finishCmd s r stInvalid
    else if farInUse s blk then finishCmd s r stIllegal
    else finishCmd { s with mm := { s.mm with far := mapDel s.mm.far blk } } r stOk
  else if base % 2 ^ 30 ≠ 0 then finishCmd s r stInvalid
  else match mapFind s.mm.far blk with
    | none => finishCmd (farInit s blk (BitVec.ofNat 64 base)) r stOk
    | some b =>
      if b.fail ≠ some 2 then finishCmd s r stIllegal
      else if b.rooted then
        finishCmd { s with mm := { s.mm with far := mapSet s.mm.far blk { b with base := BitVec.ofNat 64 base, fail := none } } } r stOk
      else finishCmd (farUnbound (farInit s blk (BitVec.ofNat 64 base)) blk) r stOk

def execFarWindow (ctx qid : Nat) (s : State) : Out := ringCmd ctx qid 0x08 exeFarWindow s

/-! ### Objects and handles (R343 to R347) -/

/-- OBJ_SHARE: a handle of a fence in another context. -/
def exeObjShare (s : State) (r : CmdRef) (v : Nat) : State :=
  let target := pay v 0x24 11 0
  match (cmdAt s r).bind QCmd.pobj with
  | none => finishCmd s r stInvalid
  | some o =>
    if target ≥ 512 || (ctxAt s target).st ≠ .active then finishCmd s r stIllegal
    else match objAt s o with
      | none => finishCmd s r stInvalid
      | some x =>
        if x.host + 1 ≥ 2 ^ 32 then finishCmd s r stNoRes
        else match openHandle s target o (pay v 0x24 12 12 = 1) with
          | none => finishCmd s r stNoRes
          | some (s1, h) => finishRes (objSet s1 o { x with host := x.host + 1 }) r stOk h

def execObjShare (ctx qid : Nat) (s : State) : Out := ringCmd ctx qid 0x09 exeObjShare s

/-- R348: a range that overlaps another memory object of the context. -/
def memOverlaps (s : State) (c base size : Nat) : Bool :=
  s.rg.objs.any (fun e => e.2.typ = 1 && e.2.owner = c && e.2.base < base + size && base < e.2.base + e.2.size)

/-- TYPE, BASE and SIZE as R344 allows them. -/
def objArgsOk (s : State) (c typ base size : Nat) : Bool :=
  match typ with
  | 1 => base % 65536 = 0 && size % 65536 = 0 && size ≤ 2 ^ 40 && base + size ≤ 2 ^ 48 && !(memOverlaps s c base size)
  | 2 => base < 2 ^ 64 - 2 && size = 0
  | 4 => true
  | 5 => true
  | _ => false

/-- OBJ_CREATE. -/
def exeObjCreate (s : State) (r : CmdRef) (v : Nat) : State :=
  let c := eCtx v
  let typ := pay v 0x20 3 0
  let base := pay v 0x28 63 0
  let size := pay v 0x30 63 0
  if !(objArgsOk s c typ base size) then finishCmd s r stInvalid
  else
    let x : Obj := { typ := typ, owner := c, ownerH := 0, base := base, size := size,
                     value := if typ = 2 then base else 0 }
    match createObj s c x with
    | none => finishCmd s r stNoRes
    | some (s1, _, h) => finishRes s1 r stOk h

def execObjCreate (ctx qid : Nat) (s : State) : Out := ringCmd ctx qid 0x10 exeObjCreate s

/-- The handle of a payload as it stands when its command executes, with its object. -/
def payHandle (s : State) (v : Nat) : Option (Nat × Handle × Nat × Obj) :=
  match handleFind s (eCtx v) (pay v 0x20 31 0) with
  | none => none
  | some (i, h) => match h.obj with
    | none => none
    | some o => (objAt s o).map (fun x => (i, h, o, x))

def countOk (n : Nat) : Bool := 1 ≤ n && n ≤ 2 ^ 31

/-- OBJ_REF (R345). -/
def exeObjRef (s : State) (r : CmdRef) (v : Nat) : State :=
  let n := pay v 0x24 31 0
  match payHandle s v with
  | none => finishCmd s r stInvalid
  | some (i, h, o, x) =>
    if !(countOk n) then finishCmd s r stInvalid
    else if h.count + n ≥ 2 ^ 32 || x.host + n ≥ 2 ^ 32 then finishCmd s r stNoRes
    else finishCmd (objSet (handleSet s (eCtx v) i { h with count := h.count + n }) o { x with host := x.host + n }) r stOk

def execObjRef (ctx qid : Nat) (s : State) : Out := ringCmd ctx qid 0x11 exeObjRef s

/-- OBJ_UNREF (R345). -/
def exeObjUnref (s : State) (r : CmdRef) (v : Nat) : State :=
  let n := pay v 0x24 31 0
  match payHandle s v with
  | none => finishCmd s r stInvalid
  | some (i, h, _, _) =>
    if !(countOk n) || h.count < n then finishCmd s r stInvalid
    else finishCmd (handleDrop s (eCtx v) i n) r stOk

def execObjUnref (ctx qid : Nat) (s : State) : Out := ringCmd ctx qid 0x12 exeObjUnref s

/-- OBJ_QUERY: the reference word without the query's own reference, and VALUE or header bytes 0x08 to 0x0F. -/
def exeObjQuery (s : State) (r : CmdRef) (_v : Nat) : State :=
  match (cmdAt s r).bind QCmd.pobj with
  | none => finishCmd s r stInvalid
  | some o => match objAt s o with
    | none => finishCmd s r stInvalid
    | some x =>
      let hdr := x.typ + boolNat x.releasing <<< 4 + x.owner <<< 8 + x.ownerH <<< 32
      finishRes s r stOk ((devCount s o - 1) % 2 ^ 32 + x.host <<< 32 + (if x.typ = 2 then x.value else hdr) <<< 64)

def execObjQuery (ctx qid : Nat) (s : State) : Out := ringCmd ctx qid 0x13 exeObjQuery s

/-- Spans of the rings of a context as (offset, bytes). -/
def ringSpans (s : State) (c : Nat) : List (Nat × Nat) :=
  (s.rg.queues.filter (fun e => e.1 / 64 = c)).flatMap (fun e =>
      [(e.2.sqOff, 64 * 2 ^ e.2.sqLog2), (e.2.cq.off, 32 * ringSize e.2.cq)])
    ++ (match (ctxAt s c).evr with | some r => [(r.off, 32 * ringSize r)] | none => [])

def spanFree (others : List (Nat × Nat)) (off n : Nat) : Bool :=
  others.all (fun o => off + n ≤ o.1 || o.1 + o.2 ≤ off)

/-- R331 for one ring. -/
def ringGeom (others : List (Nat × Nat)) (off log2 rec : Nat) : Bool :=
  4 ≤ log2 && log2 ≤ 12 && off % 4096 = 0 && off + rec * 2 ^ log2 ≤ 2 ^ 21 && spanFree others off (rec * 2 ^ log2)

/-- A vector of the queue vectors of a context's function (R312). -/
def vectorOk (s : State) (c v : Nat) : Bool :=
  if (ctxAt s c).vf.isSome then 1 ≤ v && v ≤ 7 else 2 ≤ v && v ≤ 63

/-- QUEUE_CREATE of the event ring. -/
def createEvents (s : State) (r : CmdRef) (c log2 vec off : Nat) : State :=
  let isVf := (ctxAt s c).vf.isSome
  if !(ringGeom (ringSpans s c) off log2 32) || (!isVf && !(vectorOk s c vec)) then finishCmd s r stInvalid
  else if (ctxAt s c).evr.isSome then finishCmd s r stIllegal
  else match createObj s c { typ := 3, owner := c, ownerH := 0, base := off, size := log2 <<< 8 } with
    | none => finishCmd s r stNoRes
    | some (s1, o, h) =>
      let ring : Ring := { off := off, log2 := log2, vector := if isVf then 0 else vec, irq := true }
      finishRes (ctxSet s1 c { ctxAt s1 c with evr := some ring, evObj := some o }) r stOk h

/-- QUEUE_CREATE of a queue (R331, R333). -/
def createQueue (s : State) (r : CmdRef) (c qid sl cl vec : Nat) (irq : Bool) (sqOff cqOff : Nat) : State :=
  let rings := ringSpans s c
  let ref : CmdRef := { ctx := c, qid := qid }
  if !(ringGeom rings sqOff sl 64) || !(ringGeom ((sqOff, 64 * 2 ^ sl) :: rings) cqOff cl 32) || !(vectorOk s c vec) then
    finishCmd s r stInvalid
  else if (queueAt s ref).isSome || isAdminRing s ref then finishCmd s r stIllegal
  else match createObj s c { typ := 3, owner := c, ownerH := 0, base := sqOff, size := sl + cl <<< 8 } with
    | none => finishCmd s r stNoRes
    | some (s1, o, h) =>
      let x := ctxAt s1 c
      let s2 := ctxSet s1 c { x with qinc := mapSet x.qinc qid (mapGet 0 x.qinc qid + 1) }
      let q : Queue := { sqOff := sqOff, sqLog2 := sl, cq := { off := cqOff, log2 := cl, vector := vec, irq := irq }, obj := o }
      finishRes (queueSet s2 ref q) r stOk h

def exeQueueCreate (s : State) (r : CmdRef) (v : Nat) : State :=
  let c := eCtx v
  if pay v 0x20 5 5 = 1 then createEvents s r c (pay v 0x20 15 12) (pay v 0x20 22 16) (pay v 0x28 31 0)
  else createQueue s r c (pay v 0x20 4 0) (pay v 0x20 11 8) (pay v 0x20 15 12) (pay v 0x20 22 16) (pay v 0x20 23 23 = 1)
    (pay v 0x24 31 0) (pay v 0x28 31 0)

def execQueueCreate (ctx qid : Nat) (s : State) : Out := ringCmd ctx qid 0x14 exeQueueCreate s

/-- ABORT_QUEUES (R352): the aborted queues have stopped issuing when it completes. -/
def exeAbortQueues (s : State) (r : CmdRef) (v : Nat) : State :=
  let mask := pay v 0x20 31 0
  if eCtx v = r.ctx && bitOf mask r.qid then finishCmd s r stInvalid
  else finishCmd (((ctxQueues s (eCtx v)).filter (fun q => bitOf mask q.qid)).foldl abortQueue s) r stOk

def execAbortQueues (ctx qid : Nat) (s : State) : Out := ringCmd ctx qid 0x15 exeAbortQueues s

/-- FENCE_ABANDON (R350). -/
def exeFenceAbandon (s : State) (r : CmdRef) (_v : Nat) : State :=
  match (cmdAt s r).bind QCmd.pobj with
  | none => finishCmd s r stInvalid
  | some o => finishCmd (fenceUpd s o fenceAbandon) r stOk

def execFenceAbandon (ctx qid : Nat) (s : State) : Out := ringCmd ctx qid 0x16 exeFenceAbandon s

/-- OBJ_RELEASED (Table 14-8). -/
def postReleased (s : State) (x : Obj) : State :=
  postNamed s x.owner { kind := 8, payload := x.owner + x.ownerH <<< 12 + x.typ <<< 44 }

/-- Pages of a context within a span that are mapped, as device virtual addresses. -/
def mappedPages (s : State) (c lo n : Nat) : List Nat :=
  (s.mm.ptes.filter (fun e => e.1 / 2 ^ 32 = c && lo ≤ (e.1 % 2 ^ 32) * 65536 && (e.1 % 2 ^ 32) * 65536 < lo + n)).map
    (fun e => (e.1 % 2 ^ 32) * 65536)

/-- A page of a released memory object: unmapped, and its frame released when no other PTE maps it (R347). -/
def dropPage (c : Nat) (s : State) (dva : Nat) : State :=
  match mapFind s.mm.ptes (pteKey c dva) with
  | none => s
  | some p =>
    let fk := redirect s (pteFrame p)
    releaseUnmapped (unmapPage s c dva) fk

/-- The teardown of an object by its type (R347). -/
def teardown (s : State) (o : Nat) (x : Obj) : State :=
  match x.typ with
  | 1 => (mappedPages s x.owner x.base x.size).foldl (dropPage x.owner) s
  | 3 =>
    let s1 := { s with rg := { s.rg with queues := s.rg.queues.filter (fun e => e.2.obj ≠ o || isAdminRing s { ctx := e.1 / 64, qid := e.1 % 64 }) } }
    if (ctxAt s1 x.owner).evObj = some o then ctxSet s1 x.owner { ctxAt s1 x.owner with evr := none, evObj := none } else s1
  | 4 => { s with mm := { s.mm with prots := s.mm.prots.filter (fun p => p.id ≠ o) } }
  | _ => s

/-- An accepted request of a context still waits for a line of one of the pages (R263). -/
def pageAwaited (s : State) (c : Nat) (ps : List Nat) : Bool :=
  s.un.accepted.any (fun a => a.ctx = c && ps.any (fun p => a.va / 65536 ≤ p / 65536 &&
    p / 65536 ≤ (a.va + max a.len (match a.op with | .write bs => bs.length | _ => 64) - 1) / 65536))

/-- The header is freed, the index becomes reusable, and OBJ_RELEASED is posted. -/
def freeHeader (s : State) (o : Nat) (x : Obj) : State :=
  postReleased { s with rg := { s.rg with objs := mapDel s.rg.objs o } } x

/-- Frames of a memory object's pages whose release has begun. -/
def framesDraining (s : State) (pages : List W64) : List Nat :=
  ((pages.map (fun p => redirect s (pteFrame p))).filter (fun f => (frameAt s f).st = 2 || (frameAt s f).st = 3)).eraseDups

/-- OBJ_RELEASE (R347): an object without references is torn down, once no access translated through a page of it is outstanding (R263).
It stays RELEASING until its frames are FREE; then its header is freed. -/
def execObjRelease (obj : Nat) (s : State) : Out :=
  match objAt s obj with
  | none => .next s
  | some x =>
    if x.releasing then .next (if x.awaits.isEmpty then freeHeader s obj x else s)
    else if x.host ≠ 0 || devCount s obj ≠ 0 then .next s
    else if x.typ = 1 && pageAwaited s x.owner (mappedPages s x.owner x.base x.size) then .next s
    else
      let ps := (mappedPages s x.owner x.base x.size).filterMap (fun a => mapFind s.mm.ptes (pteKey x.owner a))
      let s1 := teardown s obj x
      let fs := if x.typ = 1 then framesDraining s1 ps else []
      .next (if fs.isEmpty then freeHeader s1 obj x else objSet s1 obj { x with releasing := true, awaits := fs })

/-! ### Memory (R263, R265 to R268, R277, R348) -/

/-- The memory object that a command names. -/
def memObj (s : State) (r : CmdRef) : Option Obj := ((cmdAt s r).bind QCmd.pobj).bind (objAt s)

/-- MEM_MAP. -/
def exeMemMap (s : State) (r : CmdRef) (v : Nat) : State :=
  match memObj s r with
  | none => finishCmd s r stInvalid
  | some x =>
    let page := pay v 0x24 31 0
    if page * 65536 ≥ x.size then finishCmd s r stInvalid
    else
      let p := mapPage s (eCtx v) (x.base + page * 65536) (pay v 0x28 63 0) (pay v 0x30 0 0 = 1)
      finishCmd p.1 r p.2

def execMemMap (ctx qid : Nat) (s : State) : Out := ringCmd ctx qid 0x18 exeMemMap s

/-- MEM_UNMAP: pages that are not mapped are skipped; a page of a FROZEN shard refuses the command (R370). While an access that translated
through the pages has not completed, the command has not either (R263; log entry 144). -/
def exeMemUnmap (s : State) (r : CmdRef) (v : Nat) : State :=
  match memObj s r with
  | none => finishCmd s r stInvalid
  | some x =>
    let page := pay v 0x24 31 0
    let n := pay v 0x28 31 0
    let c := eCtx v
    if (page + n) * 65536 > x.size then finishCmd s r stInvalid
    else
      let ps := mappedPages s c (x.base + page * 65536) (n * 65536)
      if ps.any (frozenAt s c) then finishCmd s r stIllegal
      else if pageAwaited s c ps then s
      else finishCmd (ps.foldl (fun s a => unmapPage s c a) s) r stOk

def execMemUnmap (ctx qid : Nat) (s : State) : Out := ringCmd ctx qid 0x19 exeMemUnmap s

/-- MEM_RELEASE of a RESERVE frame (R266, R268). -/
def releaseReserve (s : State) (r : CmdRef) (fk : Nat) : State :=
  let f := frameAt s fk
  if !(isAdminRing s r) then finishCmd s r stDenied
  else if (f.pool = 0 && (migTargets s).contains fk) || (f.pool = 1 && holdsTables s fk) then finishCmd s r stIllegal
  else
    let s1 := setJob (frameDrain s fk (some r)) r (.release fk)
    checkReserve s s1 (frameTier fk)

/-- MEM_RELEASE (R266 to R268): it completes once the frame is FREE, for a LOST frame at once. -/
def exeMemRelease (s : State) (r : CmdRef) (v : Nat) : State :=
  let tier := pay v 0x20 1 0
  let fk := frameKey tier (pay v 0x24 25 0)
  let f := frameAt s fk
  if !(frameExists s tier (pay v 0x24 25 0)) then finishCmd s r stInvalid
  else if f.st = 4 then releaseReserve s r fk
  else if f.st ≠ 1 && f.st ≠ 5 then finishCmd s r stIllegal
  else if f.owner ≠ eCtx v then finishCmd s r stDenied
  else if frameMapped s fk then finishCmd s r stIllegal
  else if f.st = 5 then finishCmd (frameFree s fk) r stOk
  else setJob (frameDrain s fk (some r)) r (.release fk)

def execMemRelease (ctx qid : Nat) (s : State) : Out := ringCmd ctx qid 0x1A exeMemRelease s

/-- Frames of a tier that could exist. -/
def tierFrames (tier : Nat) : Nat := match tier with | 0 => 524288 | 1 => 9437184 | _ => 0

/-- MEM_RESERVE (R268): the whole range or nothing. -/
def exeMemReserve (s : State) (r : CmdRef) (v : Nat) : State :=
  let tier := pay v 0x20 1 0
  let f0 := pay v 0x24 25 0
  let n := pay v 0x28 31 0
  if f0 + n > tierFrames tier then finishCmd s r stInvalid
  else
    let fs := (List.range n).map (fun i => f0 + i)
    if !(fs.all (frameExists s tier)) then finishCmd s r stInvalid
    else if fs.any (fun f => (frameAt s (frameKey tier f)).st ≠ 0 || 2 ≤ (pcAt s (pcKey (frameKey tier f))).st) then
      finishCmd s r stIllegal
    else
      let s1 := fs.foldl (fun s f => frameSet s (frameKey tier f) { st := 4, pool := pay v 0x20 2 2 }) s
      finishCmd (migResume s1) r stOk

def execMemReserve (ctx qid : Nat) (s : State) : Out := ringCmd ctx qid 0x1B exeMemReserve s

/-- MEM_REDIR_CLEAR (R277). -/
def exeMemRedirClear (s : State) (r : CmdRef) (v : Nat) : State :=
  let fk := frameKey (pay v 0x20 1 0) (pay v 0x24 25 0)
  if pteNames s fk then finishCmd s r stIllegal
  else finishCmd (migResume { s with mm := { s.mm with redirs := mapDel s.mm.redirs fk } }) r stOk

def execMemRedirClear (ctx qid : Nat) (s : State) : Out := ringCmd ctx qid 0x1C exeMemRedirClear s

/-! ### DMA (Table 14-7, R316) -/

/-- Spaces: 0 DEVICE, 1 HOST, 2 WINDOW. -/
def dmaSpanOk (sp a n : Nat) : Bool :=
  match sp with
  | 0 => a % 64 = 0
  | 1 => true
  | 2 => a % 64 = 0 && a + n ≤ 2 ^ 21
  | _ => false

/-- Bytes of a window up to the first line that reads uncorrectable. -/
def winFetch (s : State) (c a n : Nat) : List Byte × Nat :=
  match (spanLines a n).find? (fun p => s.rg.winBad.contains ((winBase c + p.1) / 64)) with
  | none => (winRead s c a n, stOk)
  | some p => (winRead s c a (p.1 - a), stUncorr)

/-- Bytes of a device span up to the first line that fails, with the status and its DETAIL. -/
def devFetch (s : State) (c a n : Nat) (ev : List LineEv) : State × List Byte × Nat × Nat :=
  let r := ctxRead s io0Page c a n ev
  match r.bad with
  | [] => (r.s, r.data, stOk, 0)
  | (b, st) :: _ => (r.s, r.data.take (b - a), st, memDetail r.s c r.bad)

/-- Writes lines in ascending order up to the first that fails. -/
def devStore (s : State) (c : Nat) (ls : List (List (Nat × Byte))) (ev : List LineEv) : State × Nat × Nat :=
  match ls with
  | [] => (s, stOk, 0)
  | g :: rest =>
    let w := ctxWriteLine s io0Page c g ev
    if w.2 = stOk then devStore w.1 c rest ev else (w.1, w.2, memDetail w.1 c [((g.headD (0, 0)).1, w.2)])

def dmaStore (s : State) (c sp a : Nat) (bs : List Byte) (ev : List LineEv) : State × Nat × Nat :=
  match sp with
  | 0 => devStore s c (byLine (atAddr a bs)) ev
  | 1 => (hostWrite s c a bs, stOk, 0)
  | _ => (winWrite s c a bs, stOk, 0)

/-- Ends a DMA command: what was read is written, and the first status that is not OK stands. -/
def dmaEnd (s : State) (r : CmdRef) (c dsp da : Nat) (bs : List Byte) (st det : Nat) (ev : List LineEv) : State :=
  let w := dmaStore s c dsp da bs ev
  if st ≠ stOk then finishDet w.1 r st 0 det else finishDet w.1 r w.2.1 0 w.2.2

/-- Refusal of a DMA command for a HOST side: outside the windows, or the path down. -/
def hostRefusal (s : State) (c a n : Nat) (wr : Bool) : Option Nat :=
  if !(inWindow s c a n wr) then some stDenied else if upDown s c then some stHostDown else none

def hostErrCount (s : State) (c : Nat) : State :=
  let k := ctxPort s c
  let p := hportAt s k
  hportSet s k { p with ue := satInc p.ue }

/-- The source of a DMA_COPY. -/
def copyEnd (s : State) (r : CmdRef) (c ssp sa dsp da n : Nat) (host : HostRsp) (ev : List LineEv) : State :=
  match ssp, host with
  | 0, _ =>
    let x := devFetch s c sa n ev
    dmaEnd x.1 r c dsp da x.2.1 x.2.2.1 x.2.2.2 ev
  | 1, .data bs => dmaEnd s r c dsp da ((bs ++ List.replicate n 0).take n) stOk 0 ev
  | 1, _ => finishCmd (hostErrCount s c) r stHostErr
  | _, _ =>
    let x := winFetch s c sa n
    dmaEnd s r c dsp da x.1 x.2 0 ev

/-- DMA_COPY: its host reads are issued first, and it goes on once they are answered. -/
def exeDmaCopy (host : HostRsp) (ev : List LineEv) (s : State) (r : CmdRef) (v : Nat) : State :=
  let c := eCtx v
  let ssp := pay v 0x20 1 0
  let dsp := pay v 0x20 3 2
  let n := pay v 0x24 31 0
  let sa := pay v 0x28 63 0
  let da := pay v 0x30 63 0
  let busy := (cmdAt s r).any (fun k => k.st = .busy)
  let up := ssp = 1 || dsp = 1
  if n % 64 ≠ 0 || !(dmaSpanOk ssp sa n) || !(dmaSpanOk dsp da n) then finishCmd s r stInvalid
  else if (ssp = 0 && spanWaits s io0Page c sa n false ev) || (dsp = 0 && spanWaits s io0Page c da n true ev) then s
  else if up && !busy && upWaits s c then s
  else
    let no := if busy then none
      else match (if ssp = 1 then hostRefusal s c sa n false else none) with
        | some st => some st
        | none => if dsp = 1 then hostRefusal s c da n true else none
    match no with
    | some st => finishCmd s r st
    | none =>
      if ssp = 1 && host = .wait then (if busy then s else setJob s r .dma)
      else copyEnd s r c ssp sa dsp da n host ev

def execDmaCopy (ctx qid : Nat) (host : HostRsp) (ev : List LineEv) (s : State) : Out :=
  ringCmd ctx qid 0x20 (exeDmaCopy host ev) s

/-- DMA_FILL. -/
def exeDmaFill (ev : List LineEv) (s : State) (r : CmdRef) (v : Nat) : State :=
  let c := eCtx v
  let dsp := pay v 0x20 3 2
  let n := pay v 0x24 31 0
  let da := pay v 0x30 63 0
  if n % 64 ≠ 0 || !(dmaSpanOk dsp da n) then finishCmd s r stInvalid
  else if (dsp = 0 && spanWaits s io0Page c da n true ev) || (dsp = 1 && upWaits s c) then s
  else match (if dsp = 1 then hostRefusal s c da n true else none) with
    | some st => finishCmd s r st
    | none =>
      let pat := leBytes 8 (pay v 0x28 63 0)
      dmaEnd s r c dsp da ((List.range (n / 8)).flatMap (fun _ => pat)) stOk 0 ev

def execDmaFill (ctx qid : Nat) (ev : List LineEv) (s : State) : Out := ringCmd ctx qid 0x21 (exeDmaFill ev) s

end Sys2Proof.Machine
end

