-- ==== Sys2Proof/Machine/PlateImage.lean ====
section
/-! DEFINITION. Plate images: the load checks of the header and of every stroke, the plate digest, and PLATE_LOAD
(spec 06: R135, R137, R139 to R146, R161, R162; spec 07: Table 7-1). -/
namespace Sys2Proof.Machine
open Sys2Proof

/-! ### Checks of a slot: each answers the bits of its slot at which a failing field starts -/

/-- Lowest set bit of v outside the bits used. -/
def rsvBits (v used : Nat) : List Nat :=
  match (List.range 96).find? (fun i => bitOf v i && !(bitOf used i)) with
  | some i => [i]
  | none => []

/-- Bits of the fields given as (high, low). -/
def useBits (fs : List (Nat × Nat)) : Nat := fs.foldl (fun m f => Nat.lor m ((2 ^ (f.1 + 1 - f.2) - 1) <<< f.2)) 0

def failAt (bit : Nat) (bad : Bool) : List Nat := if bad then [bit] else []

/-- Fields of FLOW (Table 6-4); none for a reserved value. -/
def flowFields (f : Nat) : Option (List (Nat × Nat)) :=
  match f with
  | 0 | 4 | 5 => some []
  | 1 => some [(14, 3), (25, 15)]
  | 2 => some [(8, 3), (25, 15)]
  | 3 => some [(24, 3)]
  | _ => none

/-- Fields of SOP (Table 6-5, R142). -/
def sopFields (o : Nat) : Option (List (Nat × Nat)) :=
  match o with
  | 0x00 => some []
  | 0x01 => some [(37, 32), (43, 38), (63, 50)]
  | 0x08 | 0x09 | 0x0A => some [(37, 32), (43, 38), (63, 50)]
  | 0x02 | 0x03 | 0x04 | 0x05 | 0x06 | 0x07 | 0x0B | 0x0C | 0x0E => some [(37, 32), (43, 38), (49, 44)]
  | 0x0D => some [(37, 32), (40, 38), (63, 50)]
  | 0x10 => some [(37, 32), (43, 38), (63, 50)]
  | 0x11 => some [(43, 38), (49, 44), (63, 50)]
  | 0x18 | 0x1A => some [(35, 32), (43, 38), (46, 44)]
  | 0x19 => some [(35, 32), (46, 44), (63, 50)]
  | 0x1B => some [(35, 32), (41, 38)]
  | 0x1C => some [(37, 32), (41, 38), (46, 44)]
  | _ => none

def sopWritesS (o : Nat) : Bool := (1 ≤ o && o ≤ 0x0E) || o = 0x10 || o = 0x1C
def sopLane (o : Nat) : Bool := o = 0x18 || o = 0x19 || o = 0x1A || o = 0x1C

/-- CTL (R139 to R142). -/
def ctlFails (v : Nat) : List Nat :=
  let f := bitsOf v 2 0
  let o := bitsOf v 31 26
  let ff := (flowFields f).getD []
  let sf := (sopFields o).getD []
  let used := useBits ([(2, 0), (31, 26)] ++ ff ++ sf)
  failAt 0 (flowFields f).isNone
    ++ failAt 26 (sopFields o).isNone
    ++ (if (flowFields f).isNone || (sopFields o).isNone then [] else rsvBits v used)
    ++ failAt 3 (f = 1 && bitsOf v 14 3 = 0)
    ++ failAt 32 (sopWritesS o && bitsOf v 37 32 < 8)
    ++ failAt 44 (sopLane o && bitsOf v 46 44 > 5)
    ++ failAt 38 (o = 0x0D && bitsOf v 40 38 > 4)

/-- A stream-command slot (Table 6-6): 0 LDA, 1 LDB, 2 XF. -/
def streamFails (slot v : Nat) : List Nat :=
  let o := bitsOf v 2 0
  let go (used : List (Nat × Nat)) : List Nat := rsvBits v (useBits ((2, 0) :: used))
  match o with
  | 0 => go []
  | 1 => go [(40, 3)] ++ failAt 28 (bitsOf v 30 28 > 4)
  | 2 => go [(14, 3), (27, 24)]
  | 3 => if slot = 0 then go [(27, 3)] else [0]
  | 4 => go [(14, 3)]
  | 5 => if slot = 1 then go [(15, 3)] ++ failAt 5 (bitsOf v 6 5 = 3) else [0]
  | _ => [0]

/-- The descriptor register that a slot writes (R135). -/
def tdTarget (v : Nat) : Option Nat := if bitsOf v 2 0 = 3 || bitsOf v 2 0 = 4 then some (bitsOf v 7 3) else none

/-- MX (R144). -/
def mxFails (v : Nat) : List Nat :=
  match bitsOf v 1 0 with
  | 0 => rsvBits v 3
  | 1 => rsvBits v (useBits [(35, 0)]) ++ failAt 4 (bitsOf v 5 4 = 3)
  | 2 => rsvBits v (useBits [(66, 0)]) ++ failAt 22 (bitsOf v 23 22 = 3) ++ failAt 39 (bitsOf v 41 39 > 4)
      ++ failAt 52 (bitsOf v 53 52 = 3)
  | _ => [0]

/-- Pipes and operands of a vector operation (Table 7-1): pipe 0, pipe 1, TD_A, TD_B, SREG, and the OPX bits used. -/
structure VxForm where
  p0  : Bool
  p1  : Bool
  a   : Bool
  b   : Bool
  s   : Bool
  opx : Nat

def vxForm (opc : Nat) : Option VxForm :=
  let both (a b sr : Bool) : Option VxForm := some { p0 := true, p1 := true, a := a, b := b, s := sr, opx := 0 }
  let zero (b sr : Bool) (x : Nat) : Option VxForm := some { p0 := true, p1 := false, a := true, b := b, s := sr, opx := x }
  match opc with
  | 0x01 => both true false false
  | 0x02 => both false false true
  | 0x03 | 0x04 | 0x05 | 0x06 | 0x07 | 0x08 | 0x09 => both true true false
  | 0x20 | 0x21 | 0x22 | 0x23 | 0x26 | 0x27 | 0x29 | 0x60 => zero true false 0
  | 0x24 | 0x25 => zero true true 0
  | 0x28 | 0x62 => zero false true 0
  | 0x40 => some { p0 := true, p1 := true, a := true, b := false, s := false, opx := 1 }
  | 0x41 => zero true false 0x7FF
  | 0x61 | 0x80 | 0x81 | 0x82 | 0x83 | 0x84 | 0x85 | 0xA2 | 0xA3 | 0xA4 => zero false false 0
  | 0xA0 | 0xA1 => zero false false 1
  | 0xC0 => some { p0 := false, p1 := true, a := false, b := false, s := false, opx := 0 }
  | 0xC1 => some { p0 := false, p1 := true, a := true, b := false, s := true, opx := 0 }
  | 0xC2 => some { p0 := false, p1 := true, a := false, b := false, s := true, opx := 0 }
  | _ => none

/-- A VX slot of a pipe (R145, R170). -/
def vxFails (pipe v : Nat) : List Nat :=
  let opc := v % 256
  if opc = 0 then rsvBits v 255
  else match vxForm opc with
    | none => [0]
    | some u =>
      if !(if pipe = 0 then u.p0 else u.p1) then [0]
      else
        let used := useBits ([(16, 0), (46, 35)] ++ (if u.a then [(25, 17)] else []) ++ (if u.b then [(34, 26)] else [])
          ++ (if u.s then [(52, 47)] else []))
        rsvBits v (Nat.lor used (u.opx <<< 53)) ++ failAt 35 (bitsOf v 37 35 > 4)

/-- CFG offsets of Table 6-9. -/
def cfgListed (off : Nat) : Bool :=
  off = 0x12 || off = 0x58 || (0x60 ≤ off && off < 0x80 && off % 2 = 0) || (0xC0 ≤ off && off < 0xC8)

/-- SY (R146, R148, R158). -/
def syFails (v : Nat) : List Nat :=
  let go (used : List (Nat × Nat)) : List Nat := rsvBits v (useBits ((3, 0) :: used))
  match bitsOf v 3 0 with
  | 0 => go []
  | 1 => failAt 4 (bitsOf v 7 4 = 0 || bitsOf v 7 4 > 3) ++ failAt 11 (bitsOf v 7 4 < 3 && bitsOf v 12 11 ≠ 0)
      ++ failAt 20 (bitOf v 13 && bitsOf v 31 20 ≠ 0)
  | 2 => go [(11, 4)]
  | 3 => go [(28, 4)]
  | 4 => go [(16, 4)]
  | 5 => go [(19, 4)] ++ failAt 4 (!(cfgListed (bitsOf v 13 4)))
  | 6 => go [(10, 4), (17, 12)]
  | 7 => go [(5, 4)] ++ failAt 4 (bitsOf v 5 4 > 1)
  | 8 => go [(25, 4)]
  | _ => [0]

def barrierSy (v : Nat) : Bool := bitsOf v 3 0 = 2 || bitsOf v 3 0 = 6 || bitsOf v 3 0 = 7

/-- Bits of one stroke at which a failing field starts, in order of its slots (Table 6-1). -/
def strokeFails (x : Nat) : List Nat :=
  let lda := bitsOf x 127 64
  let ldb := bitsOf x 191 128
  let xf := bitsOf x 463 416
  let t0 := tdTarget lda
  let t1 := tdTarget ldb
  let t2 := tdTarget xf
  let sy := bitsOf x 495 464
  (ctlFails (bitsOf x 63 0))
    ++ (streamFails 0 lda).map (· + 64) ++ (streamFails 1 ldb).map (· + 128)
    ++ failAt 131 (t1.isSome && t1 = t0)
    ++ (mxFails (bitsOf x 287 192)).map (· + 192)
    ++ (vxFails 0 (bitsOf x 351 288)).map (· + 288) ++ (vxFails 1 (bitsOf x 415 352)).map (· + 352)
    ++ (streamFails 2 xf).map (· + 416) ++ failAt 419 (t2.isSome && (t2 = t0 || t2 = t1))
    ++ (syFails sy).map (· + 464) ++ failAt 464 (bitsOf x 2 0 = 5 && barrierSy sy)
    ++ failAt 496 (bitsOf x 511 496 ≠ 0)

/-- Last stroke of the body of a stroke's loop (R140). -/
def loopEnd (a x : Nat) : Option Nat :=
  if bitsOf x 2 0 = 1 || bitsOf x 2 0 = 2 then some (a + 1 + bitsOf x 25 15) else none

/-- Bits of stroke a at which R141 fails: a loop end or CALL target beyond the plate. -/
def flowFails (n a x : Nat) : List Nat :=
  failAt 15 ((loopEnd a x).any (fun e => e ≥ n)) ++ failAt 3 (bitsOf x 2 0 = 3 && bitsOf x 24 3 ≥ n)

/-- Byte offset of the first failing field among the strokes. `ends` are loop ends already met. -/
def strokesFail (k n a : Nat) (img : List Byte) (ends : List Nat) : Option Nat :=
  match k with
  | 0 => none
  | k' + 1 =>
    let x := leVal (img.take 64)
    let fs := strokeFails x ++ flowFails n a x ++ failAt 0 (ends.contains a && bitsOf x 2 0 ≠ 0)
    match fs.min? with
    | some b => some (256 + 64 * a + b / 8)
    | none =>
      strokesFail k' n (a + 1) (img.drop 64) ((match loopEnd a x with | some e => [e] | none => []) ++ ends.filter (fun e => e ≠ a))

/-! ### Header and digest (Table 6-16, R161) -/

def hdrField (img : List Byte) (off n : Nat) : Nat := leVal ((img.drop off).take n)

/-- Header constraints in order of their offsets, with the status of a failure. -/
def headerTests (img : List Byte) (size : Nat) : List (Nat × Bool × Nat) :=
  let n := hdrField img 0x10 4
  let w := hdrField img 0x09 1
  let flags := hdrField img 0x1A 2
  let fixed : List (Nat × Bool × Nat) := [(0x000, hdrField img 0 4 = 0x45544C50, stRejected), (0x004, hdrField img 4 2 = 256, stRejected),
    (0x006, hdrField img 6 2 = 1, stRejected), (0x008, hdrField img 8 1 = 1, stRejected),
    (0x009, w = 0 || (20 ≤ w && w ≤ 40), stRejected), (0x00C, hdrField img 0x0C 4 = 0, stRejected),
    (0x010, 1 ≤ n && n ≤ 2 ^ 22 && 256 + 64 * n ≤ size, stRejected), (0x014, hdrField img 0x14 4 < n, stRejected),
    (0x018, hdrField img 0x18 1 ≤ 9 && hdrField img 0x18 1 ≤ hdrField img 0x19 1, stRejected),
    (0x019, hdrField img 0x19 1 ≤ 9, stRejected), (0x01A, flags ≤ 1, stInvalid),
    (0x01C, hdrField img 0x1C 4 ≤ 786432, stRejected)]
  fixed ++ ((List.range 96).map (fun i => 0x20 + i) ++ (List.range 80).map (fun i => 0xB0 + i)).map
      (fun i => (i, decide (img.getD i 0 = 0), stInvalid))

/-- The plate digest: SHA-384 over the image with DIGEST taken as zero. -/
def plateDigest (img : List Byte) (n : Nat) : List Byte :=
  let x := img.take (256 + 64 * n)
  sha384 (x.take 0x80 ++ List.replicate 48 0 ++ x.drop 0xB0)

/-- What loading an image answers: a status with the byte offset of the first failing field, or the plate. -/
inductive LoadRes where
  | bad (status off : Nat)
  | ok (p : PlateInfo)
  deriving DecidableEq, Repr

def checkImage (img : List Byte) (size : Nat) : LoadRes :=
  match (headerTests img size).find? (fun t => !t.2.1) with
  | some t => .bad t.2.2 t.1
  | none =>
    let n := hdrField img 0x10 4
    match strokesFail n n 0 (img.drop 256) [] with
    | some off => .bad stInvalid off
    | none =>
      let d := plateDigest img n
      if d ≠ (img.drop 0x80).take 48 then .bad stRejected 0x80
      else
        let w := hdrField img 9 1
        .ok { nstrokes := n, entry := hdrField img 0x14 4, waitLog2 := if w = 0 then 30 else w,
              numver := hdrField img 0x0A 2, lmin := hdrField img 0x18 1, lmax := hdrField img 0x19 1,
              canon := bitOf (hdrField img 0x1A 2) 0, digest := d }

/-- Pages that a span touches: first page number and count. -/
def spanPages (base size : Nat) : Nat × Nat := (base / 65536, if size = 0 then 0 else (base + size - 1) / 65536 + 1 - base / 65536)

/-- R344: a span lies in mapped pages of a context. -/
def spanMapped (s : State) (c base size : Nat) : Bool :=
  base + size ≤ 2 ^ 48 &&
    (mappedPages s c ((spanPages base size).1 * 65536) ((spanPages base size).2 * 65536)).length = (spanPages base size).2

/-- PLATE_LOAD (R161, R162): a plate that loads is write-protected until its object is released. -/
def exePlateLoad (ev : List LineEv) (s : State) (r : CmdRef) (v : Nat) : State :=
  let c := eCtx v
  match (cmdAt s r).bind QCmd.pobj with
  | none => finishCmd s r stInvalid
  | some o => match objAt s o with
    | none => finishCmd s r stInvalid
    | some x =>
      if !(spanMapped s c x.base x.size) then finishCmd s r stInvalid
      else if spanWaits s io0Page c x.base x.size false ev then s
      else
        let m := ctxRead s io0Page c x.base x.size ev
        if m.status ≠ stOk then finishDet m.s r m.status 0 (memDetail m.s c m.bad)
        else match checkImage m.data x.size with
          | .bad st off => finishDet m.s r st 0 off
          | .ok p =>
            let pg := spanPages x.base x.size
            let s1 := objSet m.s o { x with plate := some p }
            let prots := s1.mm.prots.filter (fun p => p.id ≠ o)
            finishCmd { s1 with mm := { s1.mm with
              prots := prots ++ [{ ctx := c, lo := pg.1 * 65536, hi := (pg.1 + pg.2) * 65536, id := o }] } } r stOk

def execPlateLoad (ctx qid : Nat) (ev : List LineEv) (s : State) : Out := ringCmd ctx qid 0x28 (exePlateLoad ev) s

end Sys2Proof.Machine
end

