-- ==== Sys2Proof/Machine/UnitCmds.lean ====
section
/-! DEFINITION. Unit commands and unit events (spec 01 and 02: R20, R22, R23, R30 to R38, R43, R45, R49). -/
namespace Sys2Proof.Machine
open Sys2Proof

/-- R36: block registers and memories of a unit return to their reset values, but for the state named as kept: a stack
or near-tier controller keeps its remap table, PC states and counters. A tile's reset sets SRAM, REGS and WAY of BURN_DONE
(R361) and fails its launch (R234); a compute die's page holds APP_CTX; a host port's reset is that of R326; a fabric port follows
Table 10-2. I/O die 1 and the links have no block registers. -/
def resetBlock (s : State) (u : UnitId) : State :=
  match u with
  | .tile t => abortLaunch (wayLines (tileSet s t { burnDone := Nat.lor (tileAt s t).burnDone 7 }) (fun x => x = t) (fun _ x => x)) t
                 stPeerAbort 0
  | .spare c => { s with tl := { s.tl with tab := mapDel s.tl.tab (c * 17 + physAt s (.spare c)) } }
  | .cluster c =>
    let s1 := if (substAt s c).phase = .idle then { s with un := { s.un with subst := mapDel s.un.subst c } } else s
    { s1 with tl := { s1.tl with caches := mapDel s1.tl.caches c }, fb := { s1.fb with eng := mapDel s1.fb.eng c } }
  | .package => { s with un := { s.un with tmo := 0x00181415, staleReq := 0, staleRep := 0, commitCnt := 0, abortCnt := 0,
                                           lastAbort := 0, lastCoord := 0 } }
  | .hport k => portReset s k
  | .cdie d => { s with pw := { s.pw with appCtx := mapDrop s.pw.appCtx (128 * d) 128 } }
  | u => match mcIndex u with
    | none => s
    | some m =>
      let s1 := mcSet s m { mcAt s m with cfg := 0x102, pos := 0 }
      { s1 with mm := { s1.mm with pcs := s1.mm.pcs.map (fun e =>
          (e.1, if e.1 / 128 = m then { e.2 with lanes := e.2.lanes.map (fun l => { l with count := 0, erased := false }) }
                else e.2)) } }

/-- One unit enters RESETTING: the incarnation advances, its tags are discarded, what it accepted and did not answer and the packets on a
link complete with UNIT_RESET, transactions abort, registers return to reset values (R17, R36, R39, R41, R44, R52, R54). -/
def enterReset (s : State) (u : UnitId) : State :=
  let s0 := match u with
    | .link k => packetsReset s k
    | _ => s
  let s1 := txnsOfUnit s0 (pageOf u) 2
  let s1 := { s1 with un := { s1.un with partBurn := mapDel s1.un.partBurn (pageOf u),
                                         substCtl := match u with
                                           | .cluster c => mapDel s1.un.substCtl c
                                           | _ => s1.un.substCtl } }
  let s2 := resetBlock (dropOutst s1 (pageOf u)) u
  let x := unitAt s2 u
  acceptedReset (unitTo (unitSet s2 u { x with inc := x.inc + 1, evt := 0, evtEn := 0 }) u .resetting) u

/-- A RESET acts on one descendant that is not RETIRED. -/
def resetOne (root src : Nat) (s : State) (u : UnitId) : State :=
  let x := unitAt s u
  if x.state = .retired then s
  else if x.cmdBusy then unitSet s u { x with waiting := x.waiting ++ [(root, .reset)] }
  else enterReset (unitSet s u { x with cmdBusy := true, cmdSrc := src, cmd := some .reset, root := root }) u

/-- The pages of a unit and of its descendants that a reset takes with it in one cycle. -/
def resetPages (s : State) (u : UnitId) : List Nat :=
  ((u :: descendants s.hw u).filter (fun d => (unitAt s d).state ≠ .retired)).map pageOf

def resetGo (s : State) (u : UnitId) : State :=
  (descendants s.hw u).foldl (resetOne (pageOf u) (unitAt s u).cmdSrc) (enterReset (txnsOfHit s (resetPages s u)) u)

/-- The state that SLEEP or RETIRE gives a unit. A member that enters it aborts its transactions (R52). -/
def sweepState (c : UCmd) : UState := if c = .sleep then .sleep else .retired

def sweepTake (c : UCmd) (s : State) (u : UnitId) : State := unitTo (txnsOfUnit s (pageOf u) 3) u (sweepState c)

/-- Some descendant's own command keeps it from this SLEEP or RETIRE so far (R35). -/
def sweepWaits (s : State) (c : UCmd) (root : Nat) (u : UnitId) : Bool :=
  (descendants s.hw u).any (fun d => (unitAt s d).waiting.contains (root, c))

/-- SLEEP or RETIRE acts on one descendant, those below it first (R34): one whose own command is busy waits for its end, and the units
above it wait with it, reading CMD_BUSY (R35). SLEEP acts on QUIESCED descendants only. -/
def sweepOne (c : UCmd) (root src : Nat) (s : State) (u : UnitId) : State :=
  let x := unitAt s u
  if x.cmdBusy && x.root ≠ root then
    if x.waiting.contains (root, c) then s else unitSet s u { x with waiting := x.waiting ++ [(root, c)] }
  else if c = .sleep && x.state ≠ .quiesced then s
  else if sweepWaits s c root u then unitSet s u { x with cmdBusy := true, cmdSrc := src, cmd := some c, root := root }
  else sweepTake c (unitSet s u { x with cmdBusy := false, cmdSrc := src, cmd := none, root := root }) u

/-- Descendants enter SLEEP, or are retired, from the bottom up, the commanded unit last (R34). -/
def sweepGo (c : UCmd) (s : State) (u : UnitId) : State :=
  let s1 := (descendants s.hw u).reverse.foldl (sweepOne c (pageOf u) (unitAt s u).cmdSrc) s
  if sweepWaits s1 c (pageOf u) u then s1 else cmdDone (sweepTake c s1 u) u stOk

def sleepGo (s : State) (u : UnitId) : State := sweepGo .sleep s u

def retireAll (s : State) (u : UnitId) : State := sweepGo .retire s u

/-- R37: the unit or a descendant belongs to a running partition. -/
def ownedRunning (s : State) (u : UnitId) : Bool :=
  (u :: descendants s.hw u).any (fun d => (unitAt s d).running)

/-- R35: the parent's action waited for the unit's own command; it applies to the state left behind. A SLEEP or RETIRE goes on from
the bottom of the commanded unit's descendants. -/
def actWaiting (s : State) (u : UnitId) (e : Nat × UCmd) : State :=
  let src := match unitOfPage e.1 with | some r => (unitAt s r).cmdSrc | none => 0
  match e.2 with
  | .quiesce => quiesceOne e.1 src s u
  | .resume => resumeOne e.1 src s u
  | .reset => resetOne e.1 src s u
  | .sleep | .retire => match unitOfPage e.1 with
    | some r => if (unitAt s r).cmdBusy && (unitAt s r).cmd = some e.2 then sweepGo e.2 s r else s
    | none => s

/-- The action of a command on a unit ends; the commanded unit's command completes, then waiting actions apply. -/
def endAction (s : State) (u : UnitId) (status : Nat) : State :=
  let x := unitAt s u
  let s1 := if x.cmdBusy && x.root = pageOf u then cmdDone s u status
    else unitSet s u { x with cmdBusy := false, cmd := none }
  let w := (unitAt s1 u).waiting
  w.foldl (fun s e => actWaiting s u e) (unitSet s1 u { unitAt s1 u with waiting := [] })

/-- Actions that waited for a RESUME which the end of another unit's hold completed (R35, R38). -/
def settleWaiting (s : State) : State :=
  s.un.tab.foldl (fun s e => match unitOfPage e.1 with
    | none => s
    | some u =>
      let x := unitAt s u
      if x.cmdBusy || x.waiting.isEmpty then s
      else x.waiting.foldl (fun s w => actWaiting s u w) (unitSet s u { x with waiting := [] })) s

/-- R30, R37: an accepted command is refused or runs. -/
def runCmd (s : State) (u : UnitId) (c : UCmd) : State :=
  let st := (unitAt s u).state
  match c with
  | .quiesce => if st = .run then quiesceGo s u else cmdDone s u stIllegal
  | .resume =>
    if st = .quiesced then settleWaiting (resumeGo s u)
    else if st = .sleep then s
    else cmdDone s u stIllegal
  | .reset =>
    if ownedRunning s u then cmdDone s u stOwned
    else if st = .off || st = .sleep || st = .run || st = .quiesced then resetGo s u
    else cmdDone s u stIllegal
  | .sleep =>
    if ownedRunning s u then cmdDone s u stOwned
    else if st = .quiesced then sleepGo s u
    else cmdDone s u stIllegal
  | .retire =>
    if ownedRunning s u then cmdDone s u stOwned
    else if st = .run then quiesceGo s u
    else if st = .off || st = .sleep || st = .quiesced then retireAll s u
    else cmdDone s u stIllegal

/-- R20, R30: a command written to UNIT_CTL. -/
def unitCmd (s : State) (u : UnitId) (w : Writer) (inc : Half) (c : UCmd) : State :=
  acceptCmd s u w inc c (fun s => runCmd s u c)

/-- UNIT_NOP: a UNIT_CTL write with CMD 0 has no effect (R20). -/
def execUnitNop (_u : UnitId) (_w : Writer) (_inc : Half) (s : State) : Out := .next s
def execQuiesce (u : UnitId) (w : Writer) (inc : Half) (s : State) : Out := .next (unitCmd s u w inc .quiesce)
def execResume (u : UnitId) (w : Writer) (inc : Half) (s : State) : Out := .next (unitCmd s u w inc .resume)
def execReset (u : UnitId) (w : Writer) (inc : Half) (s : State) : Out := .next (unitCmd s u w inc .reset)
def execSleep (u : UnitId) (w : Writer) (inc : Half) (s : State) : Out := .next (unitCmd s u w inc .sleep)
def execRetire (u : UnitId) (w : Writer) (inc : Half) (s : State) : Out := .next (unitCmd s u w inc .retire)

/-- R45: nothing that the unit accepted, issued or joined keeps it from QUIESCED; a member of a committed ACTIVATE transaction quiesces
in order to apply its part (R424). -/
def drained (s : State) (u : UnitId) : Bool :=
  let page := pageOf u
  !(s.un.outst.any (fun o => o.src = page)) && !(s.un.accepted.any (fun r => r.tgt = u))
    && !(s.un.txns.any (fun e => e.2.members.any (fun m => m.page = page &&
        ((e.2.phase = .preparing && m.st ≠ .invited) ||
          (e.2.phase = .committed && e.2.kind ≠ 3 && (m.st = .counted || m.st = .prepared))))))
    && (match u with
      | .tile t => tileIdle (tileAt s t)
      | .cluster c => !(s.fb.lanes.any (fun e => e.1 / 16 = c))
      | .fport p => s.fb.paths.all (fun e => e.1 % 16 ≠ p || e.2.unacked.isEmpty)
      | .hport k => !(s.rg.queues.any (fun e => (mapGet {} s.rg.ctxs (e.1 / 64)).port = k && e.2.cmd.any (fun c => c.job = .dma)))
      | _ => true)

/-- R34: every descendant the QUIESCE reaches is QUIESCED, SLEEP, OFF or RETIRED. -/
def descendantsQuiet (s : State) (u : UnitId) : Bool :=
  (quiesceScope s.hw u).all (fun d =>
    let st := (unitAt s d).state
    st = .quiesced || st = .sleep || st = .off || st = .retired)

/-- A unit enters QUIESCED; a RETIRE that passed through QUIESCING retires it and its descendants (R30). -/
def becomeQuiesced (s : State) (u : UnitId) : State :=
  let s1 := unitTo s u .quiesced
  let x := unitAt s1 u
  if x.cmd = some .retire && x.root = pageOf u then retireAll s1 u
  else if x.cmd = some .quiesce then endAction s1 u stOk
  else s1

/-- R38: the members of a held partition enter QUIESCED together at its barrier. -/
def quiescePart (s : State) (p : Part) : State :=
  (partTiles p).foldl (fun s t =>
    let st := (unitAt s (.tile t)).state
    if st = .run || st = .quiescing then becomeQuiesced s (.tile t) else s) s

/-- Every member that a hold brings to QUIESCED has drained, the decision of a commit applied (R45, R197). -/
def partDrained (s : State) (p : Part) : Bool :=
  (partTiles p).all (fun t => drained s (.tile t) || (unitAt s (.tile t)).state = .quiesced)

/-- UNIT_QUIESCED (R38, R45): a QUIESCING unit with nothing outstanding enters QUIESCED. A tile of a running partition does so at the
partition's barrier, with every other member, after a substitution due there (R56); one of a stopped plate at its stroke boundary
(R43). -/
def execUnitQuiesced (u : UnitId) (s : State) : Out :=
  if (unitAt s u).state ≠ .quiescing || !(drained s u) || !(descendantsQuiet s u) then .next s
  else
    match u with
    | .tile t =>
      match partOf s t with
      | none => .next (becomeQuiesced s u)
      | some p =>
        if p.run.all (fun r => r.stop.isSome) then
          (if (tileAt s t).plate.inStroke.isNone then .next (becomeQuiesced s u) else .next s)
        else if p.bar.isSome && !p.preparing && !(substDue s p) && partDrained s p then .next (quiescePart s p)
        else .next s
    | _ => .next (becomeQuiesced s u)

/-- One unit leaves RESETTING, after everything below it that the reset takes: a spare reset by its ancestor's command ends in OFF, every
other unit in RUN (R34). -/
def finishReset (s : State) (u : UnitId) : State :=
  let r := (unitAt s u).root
  if (unitAt s u).state ≠ .resetting
      || (descendants s.hw u).any (fun d => (unitAt s d).state = .resetting || (unitAt s d).waiting.contains (r, .reset)) then s
  else
    let s1 := unitTo s u (match u with | .spare _ => (if (unitAt s u).root = pageOf u then .run else .off) | _ => .run)
    endAction (reloadStep (loadIncs s1 u) u) u stOk

/-- RESET_DONE (R34): units in RESETTING finish from the bottom up, the commanded unit last. -/
def execResetDone (u : UnitId) (s : State) : Out :=
  if (unitAt s u).state ≠ .resetting then .next s
  else .next (finishReset ((descendants s.hw u).reverse.foldl finishReset s) u)

/-- The parent wakes under the same RESUME and has not reached RUN. -/
def parentWakes (s : State) (u : UnitId) : Bool :=
  match parentOf u with
  | some p => (unitAt s p).state = .sleep && (unitAt s p).cmd = some .resume && (unitAt s p).root = (unitAt s u).root
  | none => false

/-- WAKE_DONE (R34, R36): a unit resumed from SLEEP enters RUN, from the top down; the commanded unit's descendants follow it. -/
def execWakeDone (u : UnitId) (s : State) : Out :=
  let x := unitAt s u
  if x.state ≠ .sleep || x.cmd ≠ some .resume || parentWakes s u then .next s
  else if x.root = pageOf u then .next (settleWaiting (resumeGo s u))
  else .next (endAction (unitTo s u .run) u stOk)

/-- R43: what happens to a running partition with a member among the units reset: its plate stops, and its other members enter QUIESCED
once they have drained and their last stroke has issued (R45). -/
def fatalPart (s : State) (hit : List UnitId) (p : Part) : State :=
  if p.run.isNone || !((partTiles p).any (fun t => hit.contains (.tile t))) then s
  else
    let s1 := partRunning (stopPart s p stReset (if hit.contains (partRoot p) then 1 else 2)) p false
    (partTiles p).foldl (fun s t =>
      let x := unitAt s (.tile t)
      if hit.contains (.tile t) || !(x.state = .run || x.state = .quiescing) then s
      else if (tileAt s t).plate.inStroke.isNone && drained s (.tile t) then becomeQuiesced s (.tile t)
      else unitTo s (.tile t) .quiescing) s1

/-- No action of the command of this unit waits any longer on a descendant. -/
def dropWaiting (s : State) (root : Nat) : State :=
  { s with un := { s.un with tab := s.un.tab.map (fun e =>
      (e.1, { e.2 with waiting := e.2.waiting.filter (fun w => w.1 ≠ root) })) } }

/-- R43: one unit resets itself: no CMD_BUSY for the reset, and a command it had busy, its own or its parent's, completes with
UNIT_RESET. -/
def fatalOneAt (top : Nat) (s : State) (u : UnitId) : State :=
  let x := unitAt s u
  let s0 := enterReset s u
  let s1 := unitSet s0 u { unitAt s0 u with root := top }
  if x.cmdBusy then cmdDone (if x.root = pageOf u then dropWaiting s1 (pageOf u) else s1) u stReset else s1

def fatalOne (top : Nat) (s : State) (u : UnitId) : State :=
  if (unitAt s u).state = .retired then s else fatalOneAt top s u

/-- FATAL_INTERNAL_ERROR (R43). -/
def execFatalInternalError (u : UnitId) (s : State) : Out :=
  if !(present s.hw u) || isService u || (unitAt s u).state = .off || (unitAt s u).state = .retired then .next s
  else
    let hit := u :: descendants s.hw u
    let s0 := txnsOfHit s (resetPages s u)
    let s1 := s0.tl.parts.foldl (fun s e => match partOf s e.2.t0 with
      | some p => fatalPart s hit p
      | none => s) s0
    .next (hit.foldl (fatalOne (pageOf u)) s1)

/-- A descendant that the timed-out command brought to QUIESCING or QUIESCED returns to RUN (R49). -/
def unquiesceOne (root : Nat) (s : State) (u : UnitId) : State :=
  let x := unitAt s u
  if x.brought = some root && (x.state = .quiescing || (x.state = .quiesced && !(stillHeld s u))) then
    let s1 := unitTo (unitSet s u { x with brought := none }) u .run
    if x.cmdBusy && x.root = root then endAction s1 u stOk else s1
  else s

/-- QUIESCE_DRAIN_LIMIT (R38, R49): the command completes with QUIESCE_TIMEOUT, its holds are withdrawn and what it had waiting on
descendants goes. -/
def execQuiesceDrainLimit (u : UnitId) (s : State) : Out :=
  let x := unitAt s u
  if x.state ≠ .quiescing || x.root ≠ pageOf u || !x.cmdBusy then .next s
  else
    let s1 := withdrawHolds (dropWaiting s (pageOf u)) (pageOf u)
    let s2 := cmdDone (unitTo s1 u .run) u stQscTimeout
    .next (settleWaiting ((descendants s.hw u).foldl (unquiesceOne (pageOf u)) s2))

/-- The block-specific events [31:16] that a unit's owning chapter defines (Table 1-14): a cluster's SUBST_DONE (chapter 2), a tile's
(chapter 3, R209), a fabric port's (R256), a controller's (R281), io0's (R307, R406), a host port's (R327), the life-cycle page's
(R406) and the firmware mailbox's (R428). Every other block bit is reserved. -/
def evtBlock : UnitId → W32
  | .cluster _ => 0x00010000
  | .tile _ => 0x001F0000
  | .fport _ => 0x000F0000
  | .stack _ => 0x000F0000
  | .near _ => 0x000F0000
  | .iodie i => if i = 0 then 0x0F000000 else 0
  | .hport _ => 0x001F0000
  | .service k => if k = 1 then 0x00010000 else if k = 3 then 0x00070000 else 0
  | .package => 0
  | .cdie _ => 0
  | .link _ => 0
  | .spare _ => 0

/-- UNIT_EVT bits of a unit that software can clear (Table 1-14). -/
def evtW1c (u : UnitId) : W32 := evtBlock u ||| 0x3F

/-- UNIT_EVT_EN bits of a unit that it can write: every defined bit (Table 1-14). -/
def evtEnRw (u : UnitId) : W32 := evtBlock u ||| 0x7F

/-- Registers that a writer with access may write: the meter mirror's pages are read-only (Table 1-17). -/
def pageWritable (u : UnitId) : Bool := u ≠ .service 2

/-- UNIT_EVT_WRITE (R22): the write, and a further message if the device condition holds after it. -/
def execUnitEvtWrite (u : UnitId) (w : Writer) (en : Bool) (v : W32) (s : State) : Out :=
  if !(present s.hw u) || !(mayWrite w) || !(bar0Unit s w u) || !(pageWritable u) then .next s
  else
    let x := unitAt s u
    let s1 := unitSet s u (if en then { x with evtEn := v &&& evtEnRw u } else { x with evt := x.evt &&& ~~~(v &&& evtW1c u) })
    let c := rootCond s1
    let s2 := if c then sendDevIrq s1 else s1
    .next { s2 with un := { s2.un with devIrq := c } }

/-- ERRLOG_CLEAR (R23): writing 1 to VALID clears all four words. -/
def execErrlogClear (u : UnitId) (w : Writer) (s : State) : Out :=
  if !(present s.hw u) || !(mayWrite w) || !(bar0Unit s w u) || !(pageWritable u) then .next s
  else .next (unitSet s u { unitAt s u with err0 := 0, err1 := 0, err2 := 0, err3 := 0 })

end Sys2Proof.Machine
end

