-- ==== Sys2Proof/Machine/RunCmds.lean ====
section
/-! DEFINITION. Partitions and runs: PART_BIND, STEP_CONFIG, RUN and its end, PART_UNBIND and burnish (spec 06: R138,
R159, R163; spec 08: R207, R208; spec 15: R355 to R364, R377). -/
namespace Sys2Proof.Machine
open Sys2Proof

/-! ### Partition records -/

/-- The record of exactly this partition. -/
def partExact (s : State) (t0 log2n : Nat) : Option Part :=
  match mapFind s.tl.parts t0 with
  | some p => if p.log2n = log2n then some p else none
  | none => none

/-- Shape of R13. -/
def shapeOk (t0 log2n : Nat) : Bool := log2n ≤ 9 && t0 % 2 ^ log2n = 0 && t0 + 2 ^ log2n ≤ 512

def partIn (s : State) (c t0 log2n : Nat) : Option Part :=
  match partExact s t0 log2n with
  | some p => if p.ctx = c then some p else none
  | none => none

/-- PART_BIND: an OFF member comes up as by RESET, a SLEEP member as by RESUME (R356). -/
def bringUp (s : State) (t : Nat) : State :=
  let u : UnitId := .tile t
  match (unitAt s u).state with
  | .off => finishReset (enterReset s u) u
  | .sleep => setUState s u .run
  | _ => s

/-- UNIT_OWNER of the units of a partition (Table 1-16). -/
def setOwner (s : State) (p : Part) (bound : Bool) (c : Nat) : State :=
  (partUnits p).foldl (fun s u => unitSet s u { unitAt s u with bound := bound, ownerCtx := c }) s

/-- Checks 1 to 4 of R356. -/
def bindRefusal (s : State) (c t0 log2n : Nat) : Option Nat :=
  let ts := (List.range (2 ^ log2n)).map (fun i => t0 + i)
  if !(shapeOk t0 log2n) then some stInvalid
  else if tdiLocked s c then some stDenied
  else if ts.any (fun t => (partOf s t).isSome) then some stIllegal
  else if ts.any (fun t => (unitAt s (.tile t)).state = .retired || !(bitOf (tileAt s t).burnDone 4)) then some stIllegal
  else none

/-- PART_BIND sets the partition's operating point to 2.0 GHz before it can run (R437), so its dies' voltages serve that point. -/
def oppBound (s : State) (p : Part) : State :=
  let dies := ((partTiles p).map (fun t => t / 128)).eraseDups
  { s with pw := { s.pw with opp := mapSet s.pw.opp p.t0 20, oppNext := mapDel s.pw.oppNext p.t0,
                             volt := dies.foldl (fun m d => mapSet m d 20) s.pw.volt } }

def exePartBind (s : State) (r : CmdRef) (v : Nat) : State :=
  let c := eCtx v
  let t0 := pay v 0x20 8 0
  let log2n := pay v 0x20 12 9
  match bindRefusal s c t0 log2n with
  | some st => finishCmd s r st
  | none =>
    let p : Part := { t0 := t0, log2n := log2n, st := .bound, ctx := c }
    let s1 := (partTiles p).foldl bringUp s
    let s2 := tilesUpd s1 (partTiles p) (fun x => { x with burnDone := 0, stepCopy := 0 })
    finishCmd (oppBound (partAdd (setOwner s2 p true c) p) p) r stOk

def execPartBind (ctx qid : Nat) (s : State) : Out := ringCmd ctx qid 0x30 (needFw exePartBind) s

/-- An export or import of the partition is in progress. -/
def ckptBusy (s : State) (t0 : Nat) : Bool :=
  s.rg.queues.any (fun e => e.2.cmd.any (fun k => k.st = .busy &&
    (k.job = .ckpt t0 || (eOpc (leVal k.entry) = 0x36 && pay (leVal k.entry) 0x20 8 0 = t0))))

/-- PART_UNBIND (R358). -/
def exePartUnbind (s : State) (r : CmdRef) (v : Nat) : State :=
  let t0 := pay v 0x20 8 0
  let log2n := pay v 0x20 12 9
  if !(shapeOk t0 log2n) then finishCmd s r stInvalid
  else match partIn s (eCtx v) t0 log2n with
    | none => finishCmd s r stIllegal
    | some p =>
      if p.st ≠ .bound || ckptBusy s t0 then finishCmd s r stIllegal
      else partBurnish (setJob s r (.unbind t0)) p

def execPartUnbind (ctx qid : Nat) (s : State) : Out := ringCmd ctx qid 0x31 exePartUnbind s

def partStCode (p : Part) : Nat := match p.st with | .bound => 1 | .running => 2 | .burnishing => 3

/-- PART_QUERY (Table 15-7): a partition that has no record reads FREE. -/
def exePartQuery (s : State) (r : CmdRef) (v : Nat) : State :=
  let t0 := pay v 0x20 8 0
  let log2n := pay v 0x20 12 9
  if !(shapeOk t0 log2n) then finishCmd s r stInvalid
  else match partExact s t0 log2n with
    | none => finishRes s r stOk 0
    | some p => finishRes s r stOk (partStCode p + p.ctx <<< 4 + p.step.toNat <<< 64)

def execPartQuery (ctx qid : Nat) (s : State) : Out := ringCmd ctx qid 0x37 exePartQuery s

/-! ### Step configuration (R207, R208) -/

/-- A numerics version that the running firmware holds: every image that serves lists it (R207). -/
def numverHeld (s : State) (v : Nat) : Bool :=
  v ≠ 0 && (s.fw.runMgmt.any (fun i => i.numvers.contains v))
    && (s.fw.phase < 3 || s.fw.nextMgmt.all (fun i => i.numvers.contains v)
      && s.fw.prevMgmt.all (fun i => i.numvers.contains v))

/-- STEP written in group mode equal to GRP_STEP acknowledges the group's commit and clears BEHIND. -/
def stepWritten (p : Part) (step : Nat) : Part :=
  let p1 := { p with step := BitVec.ofNat 64 step }
  if p1.groupEn && p1.step = p1.grpStep then { p1 with behind := false } else p1

/-- STEP_CFG (Table 8-10). Outside group mode GRP_STEP is 0 (Table 8-14). -/
def cfgWritten (p : Part) (w : Nat) : Part :=
  { p with numver := bitsOf w 15 0, gateMask := bitsOf w 28 16, gateOvf := bitOf w 29, groupEn := bitOf w 30,
           group := bitsOf w 37 32, grpStep := if bitOf w 30 then p.grpStep else 0 }

/-- The fields that MASK selects, in the block's order. -/
def applyBlock (p : Part) (mask : Nat) (b : Nat → Nat) : Part :=
  let p1 := if bitOf mask 2 then cfgWritten p (b 2) else p
  let p2 := if bitOf mask 0 then stepWritten p1 (b 0) else p1
  let p3 := if bitOf mask 1 then { p2 with seed := b 1 % 2 ^ 52 } else p2
  let p4 := if bitOf mask 3 then { p3 with monBase0 := b 3 % 2 ^ 48 } else p3
  let p5 := if bitOf mask 4 then { p4 with monBase1 := b 4 % 2 ^ 48 } else p4
  if bitOf mask 5 then { p5 with monThr := BitVec.ofNat 64 (b 5) } else p5

/-- Reserved bits of the block are zero, whatever MASK selects (R7), and the monitor bases that it selects are aligned (Table 8-12). -/
def blockOk (mask : Nat) (b : Nat → Nat) : Bool :=
  b 6 = 0 && b 7 = 0 && b 1 < 2 ^ 52 && !(bitOf (b 2) 31) && b 2 < 2 ^ 38 && b 3 < 2 ^ 48 && b 4 < 2 ^ 48
    && (!(bitOf mask 3) || b 3 % 65536 = 0) && (!(bitOf mask 4) || b 4 % 65536 = 0)

/-- STEP_CONFIG. -/
def exeStepConfig (ev : List LineEv) (s : State) (r : CmdRef) (v : Nat) : State :=
  let c := eCtx v
  let mask := pay v 0x24 21 16
  let a := pay v 0x28 63 0
  match partIn s c (pay v 0x24 8 0) (pay v 0x24 12 9) with
  | none => finishCmd s r stIllegal
  | some p =>
    if p.st = .burnishing || ((p.run.isSome || p.st = .running) && mask ≠ 32 && mask ≠ 0) then finishCmd s r stIllegal
    else if spanWaits s io0Page c a 64 false ev then s
    else
      let m := ctxRead s io0Page c a 64 ev
      let b (k : Nat) : Nat := leVal ((m.data.drop (8 * k)).take 8)
      if m.status ≠ stOk then finishDet m.s r m.status 0 (memDetail m.s c m.bad)
      else if !(blockOk mask b) then finishCmd m.s r stInvalid
      else if bitOf mask 2 && !(numverHeld s (bitsOf (b 2) 15 0)) then finishCmd m.s r stVersion
      else
        let p1 := applyBlock p mask b
        finishCmd (tilesUpd (partSet m.s p1) (partTiles p1) (fun x => { x with stepCopy := p1.step })) r stOk

def execStepConfig (ctx qid : Nat) (ev : List LineEv) (s : State) : Out := ringCmd ctx qid 0x2A (exeStepConfig ev) s

/-! ### RUN (R138, R159, R163) -/

/-- Start values of a member (R138): the arguments in S8 to S15, everything else zero, the stacks empty, no stroke in the
plate cache, and the header's WAIT_LOG2. -/
def startTile (args : List Nat) (p : PlateInfo) (x : Tile) : Tile :=
  let regs : Regs := { s := ((List.range 8).filter (fun i => args.getD i 0 ≠ 0)).map (fun i => (8 + i, BitVec.ofNat 64 (args.getD i 0))) }
  let pl := x.plate
  { x with
    regs := regs
    str := x.str.map (fun (e : Nat × StreamUnit) => (e.1, { e.2 with issuedN := 0, doneN := 0 }))
    num := { x.num with ue := x.num.ue.filter (fun w => match w with
      | .sreg _ => false | .xreg _ => false | .td _ => false | .plate _ => false | _ => true) }
    plate := { pc := p.entry, pstate := .frozen, waitCfg := p.waitLog2, digest := p.digest,
               issueCnt := pl.issueCnt, holdCnt := pl.holdCnt, freezeCnt := pl.freezeCnt } }

/-- A RUN is refused before the checks of R163 (R342). -/
def runRefusal (p : Part) (i : PlateInfo) : Option Nat :=
  if p.log2n < i.lmin || i.lmax < p.log2n then some stRejected
  else if p.numver = 0 || i.numver ≠ p.numver then some stVersion
  else none

/-- The plate starts: a hold keeps every member at its start barrier (R356, R373). -/
def runStart (s : State) (r : CmdRef) (p : Part) (o : Nat) (i : PlateInfo) (args : List Nat) : State :=
  let held := !p.holds.isEmpty
  let rec0 : RunRec := { obj := o, nstrokes := i.nstrokes, entry := i.entry, digest := i.digest, numver := i.numver,
                         canon := i.canon, cmd := r }
  let p1 := { p with st := .running, run := some rec0, bar := none, decided := false, startHeld := held, launched := 0,
                     sinceOpen := 0, plateDig := i.digest }
  let s1 := partRunning (partSet s p1) p1 true
  let s2 := tilesUpd s1 (partTiles p1) (fun x =>
    let y := startTile args i x
    if held then { y with plate := { y.plate with pstate := .heldBar } } else y)
  setJob (lseqReset s2 p1) r (.run p.t0)

/-- RUN. -/
def exeRun (ev : List LineEv) (s : State) (r : CmdRef) (v : Nat) : State :=
  let c := eCtx v
  let a := pay v 0x28 63 0
  match partIn s c (pay v 0x24 8 0) (pay v 0x24 12 9), (cmdAt s r).bind QCmd.pobj with
  | some p, some o =>
    match (objAt s o).bind Obj.plate with
    | none => finishCmd s r stIllegal
    | some i =>
      if p.st ≠ .bound || p.run.isSome then finishCmd s r stIllegal
      else match runRefusal p i with
        | some st => finishCmd s r st
        | none =>
          if !((partTiles p).all (fun t => (unitAt s (.tile t)).state = .run)) then s
          else if a = 0 then runStart s r p o i []
          else if spanWaits s io0Page c a 64 false ev then s
          else
            let m := ctxRead s io0Page c a 64 ev
            if m.status ≠ stOk then finishDet m.s r m.status 0 (memDetail m.s c m.bad)
            else runStart m.s r p o i ((List.range 8).map (fun k => leVal ((m.data.drop (8 * k)).take 8)))
  | _, _ => finishCmd s r stIllegal

def execRun (ctx qid : Nat) (ev : List LineEv) (s : State) : Out := ringCmd ctx qid 0x29 (exeRun ev) s

/-- RUN_COMPLETE (R159, R234, R355): every member is idle; launches not completed fail, the RUN ends with STEP as it
stood, and a partition whose context is being disabled goes on to its burnish. -/
def execRunComplete (t : Nat) (s : State) : Out :=
  match partOf s t with
  | none => .next s
  | some p0 =>
    if !(runEnded s p0) then .next s
    else
      let s0 := failStopped s p0
      match partOf s0 t with
      | none => .next s0
      | some p => match p.run with
        | none => .next s0
        | some r =>
          let p1 := { p with st := .bound, run := none, bar := none, decided := false, startHeld := false, launched := 0,
                             sinceOpen := 0 }
          let s1 := tilesUpd (partRunning (partSet s0 p1) p1 false) (partTiles p1)
            (fun x => { x with plate := { x.plate with digest := [] } })
          let st := runStatus r
          let s2 := finishJob s1 r.cmd (.run p.t0) st p.step.toNat (if st = stOk then 0 else r.det.getD 0)
          if (ctxAt s2 p.ctx).st = .disabling then .next (partBurnish s2 p1) else .next s2

/-! ### Burnish (R359 to R364) -/

/-- What the tile clear leaves: reset values, with the physical slot's header untouched (R359 step 3). -/
def clearTile (x : Tile) : Tile := { burnDone := x.burnDone }

/-- The cluster cache lines of the ways that a partition's tiles own are dropped, and the counters of its clusters' caches restart
(R128, R133). -/
def clearWays (s : State) (p : Part) : State :=
  let last := p.t0 + 2 ^ p.log2n
  wayLines s (fun t => p.t0 ≤ t && t < last)
    (fun c x => if 16 * c < last && p.t0 < 16 * c + 16 then { x with hit := 0, miss := 0, inval := 0 } else x)

/-- PART_BURN.GO (R359 step 3): management firmware's write, whose fields the register holds, starts at the root unit every member's tile clear and clears
the record. -/
def execPartBurnGo (w : Writer) (u : UnitId) (t0 log2n : Nat) (s : State) : Out :=
  if w ≠ .mgmt || !(bar0Open s w) then .next s
  else
  let s := { s with un := { s.un with partBurn := mapSet s.un.partBurn (pageOf u) (t0 % 512 + (log2n % 16) <<< 9) } }
  match partExact s t0 log2n with
  | none => .next s
  | some p =>
    if p.st ≠ .burnishing || p.run.isSome || partRoot p ≠ u || p.clearing then .next s
    else
      let s1 := tilesUpd (leaveAll s t0) (partTiles p) clearTile
      let fresh : Part := { t0 := t0, log2n := log2n, st := .burnishing, ctx := p.ctx, clearing := true }
      .next (partSet (clearWays s1 p) fresh)

/-- PART_FREE (Table 15-9). -/
def postPartFree (s : State) (p : Part) : State :=
  postNamed s p.ctx { kind := 12, payload := p.ctx + p.t0 <<< 12 + p.log2n <<< 21 }

/-- Steps 4 and 5 of R359: BURN_DONE and CLEAN are set, the owner cleared, the record gone, PART_FREE posted; a
PART_UNBIND that waits completes. -/
def execTileClearDone (t0 : Nat) (s : State) : Out :=
  match mapFind s.tl.parts t0 with
  | none => .next s
  | some p =>
    if p.st ≠ .burnishing || !p.clearing then .next s
    else
      let s1 := setOwner (tilesUpd s (partTiles p) (fun x => { x with burnDone := 31 })) p false 0
      let s2 := postPartFree { s1 with
        tl := { s1.tl with parts := mapDel s1.tl.parts t0 },
        pw := { s1.pw with opp := mapDel s1.pw.opp t0, oppNext := mapDel s1.pw.oppNext t0, level := mapDel s1.pw.level t0,
                           est := mapDel s1.pw.est t0 } } p
      .next ((ctxQueues s2 p.ctx ++ ctxQueues s2 (adminCtxOf (ctxPort s2 p.ctx))).foldl
        (fun s q => finishJob s q (.unbind t0) stOk 0 0) s2)

/-- Every shard of a context is unregistered (R362 step 2). -/
def dropShards (s : State) (c : Nat) : State :=
  { s with
    rg := { s.rg with shards := s.rg.shards.filter (fun e => e.1 / 64 ≠ c) },
    mm := { s.mm with prots := s.mm.prots.filter (fun p => !(p.ctx = c && 2 ^ 20 ≤ p.id)) } }

/-- Frames that a context owns, or lost, and no PTE maps. -/
def dropFrames (s : State) (c : Nat) : State :=
  ((s.mm.frames.filter (fun e => (e.2.st = 1 || e.2.st = 5) && e.2.owner = c)).map Prod.fst).foldl releaseUnmapped s

/-- The context's sessions close, then the key store destroys its slots; KGEN stays (R362 step 4, R403). -/
def dropKeys (s : State) (c : Nat) : State :=
  let s0 := { s with ks := { s.ks with sessions := s.ks.sessions.filter (fun x => x.ctx ≠ c) } }
  (List.range 8).foldl (fun s i =>
    let x := slotAt s (tenantSlot c i)
    if x.ktype = 0 then s
    else
      let s1 := slotSet s (tenantSlot c i) { kgen := x.kgen }
      { s1 with ks := { s1.ks with destroyC := satInc s1.ks.destroyC } }) s0

def burnSet (s : State) (c bit : Nat) : State := ctxSet s c { ctxAt s c with burn := Nat.lor (ctxAt s c).burn (2 ^ bit) }

/-- The context's burnish is complete (R330, R323): a destroyed context becomes FREE, a disabled one ACTIVE again, and its
function is ready once none of its contexts burns. -/
def burnEnd (s : State) (c : Nat) : State :=
  let x := ctxAt s c
  let fk := ctxFunc s c
  let s1 := match x.destroy with
    | none => ctxSet s c { x with st := .active, burn := 0x1F }
    | some r => finishJob (ctxSet s c { x with st := .free, burn := 0x1F, destroy := none, vf := none, evr := none }) r
        (.destroy c) stOk 0 0
  let f := funcAt s1 fk
  if s1.rg.ctxs.any (fun e => e.1 ≠ c && e.2.st = .disabling && ctxFunc s1 e.1 = fk) then s1
  else funcSet s1 fk { f with nrdy := false, tdi := if f.stop then 0 else f.tdi, stop := false }

/-- CONTEXT_BURNISH (R362): the next step of a context's burnish, as far as it can go. -/
def burnStep (s : State) (c : Nat) : State :=
  let b := (ctxAt s c).burn
  if !(bitOf b 0) then
    let s1 := (ctxParts s c).foldl partBurnish s
    if (ctxParts s1 c).isEmpty then burnSet s1 c 0 else s1
  else if !(bitOf b 1) then
    let s1 := dropShards (closeHandles s c) c
    if s1.rg.objs.any (fun e => e.2.owner = c) then s1 else burnSet s1 c 1
  else if !(bitOf b 2) then
    let s1 := dropFrames s c
    if s1.mm.frames.any (fun e => e.2.st = 1 && e.2.owner = c) then s1 else burnSet s1 c 2
  else if !(bitOf b 3) then burnSet (dropKeys s c) c 3
  else burnEnd s c

def execContextBurnish (ctx : Nat) (s : State) : Out :=
  if (ctxAt s ctx).st ≠ .disabling then .next s else .next (burnStep s ctx)

/-- BURN_STUCK (R364): the clear bits still 0 of a partition (its members' bits together) or of a context. -/
def execBurnStuck (part : Bool) (n : Nat) (s : State) : Out :=
  if part then
    match mapFind s.tl.parts n with
    | none => .next s
    | some p =>
      if p.st ≠ .burnishing then .next s
      else
        let done := (partTiles p).foldl (fun a t => Nat.land a (tileAt s t).burnDone) 31
        .next (postNamed s p.ctx { kind := 14, payload := p.ctx + p.t0 <<< 12 + p.log2n <<< 21 + (31 - done) <<< 26 })
  else if (ctxAt s n).st ≠ .disabling then .next s
  else .next (postNamed s n
    { kind := 14, payload := n + 1 <<< 25 + (31 - (ctxAt s n).burn % 32) <<< 26 })

end Sys2Proof.Machine
end

