-- ==== Sys2Proof/Machine/Subst.lean ====
section
/-! DEFINITION. Spare substitution (spec 02, R55 to R59). -/
namespace Sys2Proof.Machine
open Sys2Proof

def substLTile (c ltile : Nat) : Nat := 16 * c + ltile % 16

/-- R55: the status of a refused GO, or none. -/
def substRefusal (s : State) (c ltile mode : Nat) : Option Nat :=
  let t := substLTile c ltile
  let lt := unitAt s (.tile t)
  let sp := unitAt s (.spare c)
  if (substAt s c).phase ≠ .idle then some stBusy
  else if mode ≠ 1 && mode ≠ 2 then some stInvalid
  else if sp.state = .retired || sp.state = .resetting || lt.state = .resetting
      || (match partOf s t with | some p => p.st = .burnishing | none => false) then some stIllegal
  else if mode = 1 && (!lt.running || sp.state ≠ .run) then some stIllegal
  else if mode = 2 && lt.running then some stOwned
  else none

/-- Members of a SUBST transaction: the partition's member tiles (or the tile alone) and the spare. -/
def substMembers (s : State) (c ltile : Nat) : List UnitId :=
  (match partOf s (substLTile c ltile) with
    | some p => (partTiles p).map .tile
    | none => [.tile (substLTile c ltile)]) ++ [.spare c]

/-- PHYS of a logical tile t of the cluster becomes the spare's slot and the spare page takes the old one (R56). -/
def substSwitch (s : State) (c t : Nat) : State :=
  { s with un := { s.un with
      phys := mapSet (mapSet s.un.phys (c * 17 + t % 16) (physAt s (.spare c))) (c * 17 + 16) (physAt s (.tile t)) } }

/-- The commit point of a live substitution: the commit record, after which COMMIT goes to the members (R51, R56). -/
def substCommit (s : State) (tid : Nat) : State :=
  match mapFind s.un.txns tid with
  | none => s
  | some x =>
    let s1 := txnSet s tid { x with phase := .committed, record := true }
    { s1 with un := { s1.un with commitCnt := satInc s1.un.commitCnt } }

/-- The transaction of a cold substitution opens, passes its commit point with the switch and closes: no member runs a plate or has a part
of its own to prepare (DESIGN CHOICE, log entry 23). -/
def substTxnDone (s : State) (tid : Nat) : State :=
  { s with un := { s.un with txns := mapDel s.un.txns tid, commitCnt := satInc s.un.commitCnt } }

/-- A cold substitution brings the spare's slot up as if by RESET: the logical tile enters RESETTING with its incarnation advanced, and a
command it had busy completes with UNIT_RESET (R43, R59). -/
def substCold (s : State) (c t : Nat) : State := fatalOneAt (pageOf (.tile t)) (substSwitch s c t) (.tile t)

/-- The RW fields of SUBST_CTL (Table 2-13). -/
def substField (ltile mode : Nat) (retireOld : Bool) : Nat := ltile % 16 + (mode % 4) <<< 4 + boolNat retireOld <<< 6

/-- Tag of the OPEN that a cluster sends the package root; requests of a unit use 16-bit tags. -/
def openTag : Nat := 65536

/-- The OPEN of a substitution was refused at the limit of R54: it is reissued after a backoff, like any request of the cluster (R46). -/
def substBackoff (s : State) (c : Nat) : State :=
  if (outFind s (pageOf (.cluster c)) openTag).isSome then outUpd s (pageOf (.cluster c)) openTag (fun o => { o with waiting := true })
  else
    let o : Outst := { src := pageOf (.cluster c), tag := openTag, tgt := 0, tgtInc := (unitAt s .package).inc,
                       reqInc := (unitAt s (.cluster c)).inc, txn := none, waiting := true }
    { s with un := { s.un with outst := s.un.outst ++ [o] } }

def substOpenDone (s : State) (c : Nat) : State :=
  { s with un := { s.un with outst := s.un.outst.filter (fun o => !(o.src = pageOf (.cluster c) && o.tag = openTag)) } }

/-- The transaction of an accepted GO opens: a live substitution is ARMED, a cold one goes straight to MOVING (R55). -/
def substOpen (s : State) (c ltile mode : Nat) (retireOld : Bool) : State :=
  let x := substAt s c
  let t := substLTile c ltile
  match txnOpen s 2 c (.cluster c) (substMembers s c ltile) .invited with
  | none => substSet (substBackoff s c) c { x with ltile := ltile % 16, mode := mode, retireOld := retireOld, status := stBusy,
                                                    opening := true }
  | some (s1, tid) =>
    let y : Subst := { x with ltile := ltile % 16, mode := mode, retireOld := retireOld, tid := some tid,
                              oldSlot := physAt s (.tile t), buffered := [], opening := false }
    let s2 := substOpenDone s1 c
    if mode = 1 then substSet s2 c { y with phase := .armed }
    else substSet (substCold (substTxnDone s2 tid) c t) c { y with phase := .moving, tid := none }

/-- SUBST_GO (R55): firmware's write of GO; writes from PF0 are ignored. -/
def execSubstGo (c : Nat) (w : Writer) (ltile mode : Nat) (retireOld : Bool) (s : State) : Out :=
  if c ≥ 32 || !(w = .mgmt || w = .sec) || !(blockLive s (.cluster c)) then .next s
  else
    let s := { s with un := { s.un with substCtl := mapSet s.un.substCtl c (substField ltile mode retireOld) } }
    let x := substAt s c
    match substRefusal s c ltile mode with
    | some st => .next (substSet (substOpenDone s c) c { x with status := st, opening := false })
    | none => .next (substOpen s c ltile mode retireOld)

/-- The OPEN of a substitution is reissued after its backoff (R46, R54); GO's conditions are those of the state it finds. -/
def substRetry (s : State) (c : Nat) : State :=
  let x := substAt s c
  if !x.opening then s
  else match substRefusal s c x.ltile x.mode with
    | some st => substSet (substOpenDone s c) c { x with status := st, opening := false }
    | none => substOpen (outUpd s (pageOf (.cluster c)) openTag (fun o => { o with tries := min 7 (o.tries + 1) })) c x.ltile x.mode x.retireOld

/-- SUBST_CANCEL (R57): aborts an ARMED or MOVING substitution with cause EXPLICIT. -/
def execSubstCancel (c : Nat) (w : Writer) (s : State) : Out :=
  if c ≥ 32 || !(w = .mgmt || w = .sec) then .next s
  else match (substAt s c).tid with
    | none => .next s
    | some tid =>
      if (substAt s c).phase = .armed || (substAt s c).phase = .moving then .next (txnAbort s tid 6) else .next s

/-- Every member of the substitution has voted PREPARED. -/
def substVoted (s : State) (tid : Option Nat) : Bool :=
  (tid.bind (fun k => mapFind s.un.txns k)).any (fun x => x.phase = .preparing && x.members.all (fun m => m.st = .counted))

/-- LIVE_SUBST_START (R56, R57): at the partition's barrier, with every vote in, the state of the old physical tile is copied to the
spare; an uncorrectable word aborts. -/
def execLiveSubstStart (c : Nat) (s : State) : Out :=
  let x := substAt s c
  let t := substLTile c x.ltile
  match x.phase, partOf s t with
  | .armed, some p =>
    if p.bar.isNone || p.preparing || !(substVoted s x.tid) then .next s
    else
      let old := tileAt s t
      match old.num.ue, x.tid with
      | w :: _, some tid => .next (tileSramUe (txnAbort s tid 4) t 16 (sramAddr w))
      | _, _ =>
        let s1 := { s with tl := { s.tl with
          tab := mapSet s.tl.tab (c * 17 + physAt s (.spare c)) old } }
        .next (substSet s1 c { x with phase := .moving })
  | _, _ => .next s

/-- LIVE_SUBST_COMMIT (R56, R57): the verified copy becomes the logical tile, or the substitution aborts with
DATA_ERROR. The buffered messages are delivered to the new physical tile in arrival order. -/
def execLiveSubstCommit (c : Nat) (ok : Bool) (s : State) : Out :=
  let x := substAt s c
  match x.phase, x.tid with
  | .moving, some tid =>
    if !ok then .next (txnAbort s tid 4)
    else
      let s1 := substCommit (substSwitch s c (substLTile c x.ltile)) tid
      .next (x.buffered.foldl reqDeliver (substSet s1 c { x with phase := .clearing, tid := none, buffered := [] }))
  | _, _ => .next s

/-- SUBST_CLEAR_DONE (R58, R59): the vacated slot is clear, the spare page shows OFF or RETIRED, and PHASE returns to
IDLE. A cold substitution's tile ends in RUN. -/
def execSubstClearDone (c : Nat) (s : State) : Out :=
  let x := substAt s c
  let t := substLTile c x.ltile
  let cold := x.phase = .moving && x.tid.isNone
  if x.phase ≠ .clearing && !cold then .next s
  else
    let s1 := { s with tl := { s.tl with tab := mapDel s.tl.tab (c * 17 + physAt s (.spare c)) } }
    let s2 := setUState s1 (.spare c) (if x.retireOld then .retired else .off)
    let s3 := if cold then finishReset s2 (.tile t) else s2
    .next (unitEvt (substSet s3 c { x with phase := .idle, status := stOk, buffered := [] }) (.cluster c) (2 ^ 16))

end Sys2Proof.Machine
end

