-- ==== Sys2Proof/Machine/GroupCmds.lean ====
section
/-! DEFINITION. Group descriptors, joining and leaving a group, its payload key, and the group commit vote (spec 08: R194,
R196; spec 09: R210 to R214, R231, R232; spec 10: R247). -/
namespace Sys2Proof.Machine
open Sys2Proof

/-! ### Control messages -/

/-- A CTRL message of a group from one of this device's members to a member. -/
def sendCtrl (s : State) (g : Group) (src dst ctype step lseq : Nat) (body : List Byte) : State :=
  sendFrames s (peerNode g dst) false
    [{ typ := 5, group := g.id, step := step, lseq := lseq, srcRank := src, dstRank := dst, ctype := ctype, body := body }]

/-- The lowest local rank, which speaks for the device. -/
def deviceRank (g : Group) : Nat := (g.locals.head?.map LocalMem.rank).getD 0

/-! ### Forming a group (R213, R247) -/

/-- Members of the group on this device. -/
def ownMembers (s : State) (g : Group) : Nat := (g.members.filter (fun m => m.1 = nodeOf s)).length

def peerAt (g : Group) (node : Nat) : Option Peer := g.peers.find? (fun p => p.node = node)

/-- Device nonces in ascending NODE. -/
def nonceSalt (s : State) (g : Group) : List Byte :=
  let all : Map (List Byte) := g.peers.foldl (fun m p => mapSet m p.node p.nonce) [(nodeOf s, g.nonce)]
  all.flatMap Prod.snd

/-- The group payload key (R247). -/
def groupKey (s : State) (g : Group) : List Byte :=
  let ikm := (slotAt s (tenantSlot g.kctx g.kslot)).key
  let info : List Byte := [0x55, 0x43, 0x54, 0x2D, 0x47] ++ leBytes 4 g.id ++ g.digest
  hkdf384 ikm (nonceSalt s g) info 32

/-- What KEYCONF carries: the GCM tag of the layout digest under the payload key. R247 gives no IV for it; the all-zero one belongs to no frame,
as no node has number 0 (DESIGN CHOICE, log entry 133). -/
def keyconfTag (g : Group) : List Byte := gcmTag g.key (List.replicate 12 0) g.digest []

/-- Every local member has joined and every peer's digest agrees: the key is derived and KEYCONF sent; once every KEYCONF has
verified, the group is ACTIVE and its joins complete. -/
def groupAdvance (s : State) (gix : Nat) : State :=
  match groupAt s gix with
  | none => s
  | some g =>
    let nodes := remoteNodes s g
    if g.st ≠ 1 || (g.locals.filter (fun m => m.joined)).length < ownMembers s g
        || !(nodes.all (fun n => (peerAt g n).isSome)) then s
    else
      let s1 := if g.key.isEmpty then
          let g1 := { g with key := groupKey s g }
          nodes.foldl (fun s n => sendCtrl s g1 (deviceRank g) (rankOnNode g n) 2 0 0 (keyconfTag g1)) (groupSet s gix g1)
        else s
      if g.peers.all Peer.conf then
        let s2 := groupUpd s1 gix (fun g => { g with st := 2, locals := g.locals.map (fun m => { m with join := none }) })
        g.locals.foldl (joinDone stOk) s2
      else s1

/-- A JOIN of a bound group (R213): a digest that differs fails it. -/
def joinApply (s : State) (gix node : Nat) (f : UFrame) : State :=
  match groupAt s gix with
  | none => s
  | some g =>
    if f.body.take 48 ≠ g.digest then groupFail s gix stLayout (rankOnNode g node) true
    else if (peerAt g node).isSome then s
    else groupAdvance (groupSet s gix { g with peers := g.peers ++ [{ node := node, digest := f.body.take 48, nonce := f.body.drop 48 }] }) gix

/-- A KEYCONF (R247): one that does not verify fails the group. -/
def keyconfApply (s : State) (gix node : Nat) (tag : List Byte) : State :=
  match groupAt s gix with
  | none => s
  | some g =>
    if tag ≠ keyconfTag g then groupFail s gix stLayout (rankOnNode g node) true
    else groupAdvance (groupSet s gix { g with peers := g.peers.map (fun p => if p.node = node then { p with conf := true } else p) }) gix

/-- Fields of a group descriptor (Table 9-1) and what it holds. -/
structure GroupDesc where
  id      : Nat
  nmemb   : Nat
  log2n   : Nat
  pslot   : Nat
  numver  : Nat
  weight  : Nat
  kslot   : Nat
  nlaunch : Nat
  flags   : Nat
  members : List Nat
  reqs    : List Nat
  digest  : List Byte
  ok      : Bool
  deriving DecidableEq, Repr

/-- Reads and checks a descriptor body (R212, R213). -/
def groupDesc (b : List Byte) : GroupDesc :=
  let at' (o n : Nat) : Nat := leVal ((b.drop o).take n)
  let nm := at' 4 2
  let nl := at' 0x0C 2
  let rq := (0x40 + 8 * nm + 63) / 64 * 64
  let len := rq + 32 * nl
  let ms := if nm ≤ 4096 then (List.range nm).map (fun m => at' (0x40 + 8 * m) 8) else []
  let rs := if nl ≤ 1024 then (List.range nl).map (fun j => at' (rq + 32 * j) 32) else []
  { id := at' 0 4, nmemb := nm, log2n := at' 6 1, pslot := at' 7 1, numver := at' 8 2, weight := at' 0xA 1,
    kslot := at' 0xB 1, nlaunch := nl, flags := at' 0xE 2, members := ms, reqs := rs,
    digest := sha384 (((b.take len).take 0xB) ++ [0] ++ (b.take len).drop 0xC),
    ok := len ≤ b.length && at' 0 4 ≠ 0 && 1 ≤ nm && nm ≤ 4096 && at' 6 1 ≤ 9 && at' 7 1 ≤ 63 && 1 ≤ at' 0xA 1
      && 4 ≤ at' 0xB 1 && at' 0xB 1 ≤ 7 && nl ≤ 1024 && at' 0xE 2 ≤ 1 && (b.drop 0x10).take 0x30 = List.replicate 0x30 0
      && ms.all (fun m => m < 2 ^ 25) && ms.eraseDups.length = ms.length && rs.all requestOk }

/-- Programs of numerics version 0x0001 for every launch request of every local rank, in and out of canonical-order mode (R205, R213, R225). -/
def compileAll (d : GroupDesc) (ranks : List Nat) : Map (List Nat) :=
  let nodes := d.members.map (fun m => m % 65536)
  ranks.flatMap (fun r => (List.range d.nlaunch).flatMap (fun j =>
    [false, true].map (fun c => (progKey r j c, compileProg (schedIn nodes (d.reqs.getD j 0) r c)))))

/-- The programs that firmware compiles at the first local join (R213): the spec gives those of version 0x0001; those of a version that the
running firmware holds beside it come with the command (log entry 17). -/
def groupProgs (d : GroupDesc) (ranks : List Nat) (other : Map (List Nat)) : Map (List Nat) :=
  if d.numver = 1 then compileAll d ranks else other

/-- A program for every launch request of every local member, in the form that the engine takes (R7, R220, R221). -/
def progsOk (ranks : List Nat) (nlaunch : Nat) (progs : Map (List Nat)) : Bool :=
  mapSorted progs && ranks.all (fun r => (List.range nlaunch).all (fun j =>
    [false, true].all (fun c => progOk (mapGet [] progs (progKey r j c)))))

/-- Refusals of R213 beyond the descriptor's own form. -/
def joinRefusal (s : State) (c : Nat) (p : Part) (d : GroupDesc) : Option Nat :=
  let k := slotAt s (tenantSlot c d.kslot)
  if !(d.members.contains (nodeOf s + p.t0 <<< 16)) || d.log2n ≠ p.log2n || d.numver ≠ p.numver
      || (groupOfSlot s p.t0 d.pslot).isSome then some stInvalid
  else if k.ktype = 0 || !(bitOf k.attr 5) then some stDenied
  else if d.members.any (fun m => m % 65536 ≠ nodeOf s && (allowFind s (m % 65536)).isNone) then some stDenied
  else match (groupFind s d.id).bind (groupAt s) with
    | some g => if g.digest ≠ d.digest || (localAt g p.t0).isSome then some stInvalid else none
    | none => if s.fb.groups.length ≥ 64 then some stNoRes else none

/-- The lowest free GIX. -/
def freeGix (s : State) : Nat := ((List.range 64).find? (fun i => (groupAt s i).isNone)).getD 63

/-- The first local join binds the group: its nonce is drawn and JOIN sent to every other member device; JOINs held for it are
applied. -/
def groupBind (s : State) (c : Nat) (d : GroupDesc) (progs : Map (List Nat)) : State × Nat :=
  let gix := freeGix s
  let g : Group := { id := d.id, log2n := d.log2n, pslot := d.pslot, numver := d.numver, weight := d.weight,
                     kslot := d.kslot, kctx := c, vote := bitOf d.flags 0, members := d.members.map (fun m => (m % 65536, bitsOf m 24 16)),
                     reqs := d.reqs, digest := d.digest, nonce := leBytes 16 (Config.freeRandom s.free 128), progs := progs }
  ({ groupSet s gix g with free := s.free + 1 }, gix)

/-- JOIN goes out and the JOINs held are applied. -/
def groupAnnounce (s : State) (gix : Nat) : State :=
  match groupAt s gix with
  | none => s
  | some g =>
    let mine := s.fb.held.filter (fun e => e.2.group = g.id)
    let s1 := { s with fb := { s.fb with held := s.fb.held.filter (fun e => e.2.group ≠ g.id) } }
    let s2 := (remoteNodes s1 g).foldl (fun s n => sendCtrl s g (deviceRank g) (rankOnNode g n) 1 0 0 (g.digest ++ g.nonce)) s1
    mine.foldl (fun s e => joinApply s gix e.1 e.2) s2

/-- A member is added to a bound group; its command waits for ACTIVE or FAILED. -/
def memberJoin (s : State) (r : CmdRef) (gix o : Nat) (p : Part) (d : GroupDesc) (first : Bool) : State :=
  let rank := (d.members.findIdx? (fun m => m = nodeOf s + p.t0 <<< 16)).getD 0
  let m : LocalMem := { rank := rank, t0 := p.t0, obj := o, join := some r, joined := true }
  let s1 := groupUpd (setJob s r (.join gix p.t0)) gix (fun g => { g with locals := g.locals ++ [m] })
  let s2 := if first then groupAnnounce s1 gix else s1
  match groupAt s2 gix with
  | none => s2
  | some g => if g.st = 3 then finishCmd s2 r g.lastErr else groupAdvance s2 gix

/-- GROUP_JOIN (R213). -/
def exeGroupJoin (progs : Map (List Nat)) (ev : List LineEv) (s : State) (r : CmdRef) (v : Nat) : State :=
  let c := eCtx v
  match (cmdAt s r).bind QCmd.pobj with
  | none => finishCmd s r stInvalid
  | some o => match objAt s o with
    | none => finishCmd s r stInvalid
    | some x =>
      if !(spanMapped s c x.base x.size) then finishCmd s r stInvalid
      else if spanWaits s io0Page c x.base x.size false ev then s
      else
        let m := ctxRead s io0Page c x.base x.size ev
        if m.status ≠ stOk then finishDet m.s r m.status 0 (memDetail m.s c m.bad)
        else
          let d := groupDesc m.data
          if !d.ok then finishCmd m.s r stInvalid
          else match partIn m.s c (pay v 0x24 8 0) (pay v 0x24 12 9) with
            | none => finishCmd m.s r stDenied
            | some p =>
              if p.st = .burnishing then finishCmd m.s r stDenied
              else match joinRefusal m.s c p d with
                | some st => finishCmd m.s r st
                | none =>
                  match groupFind m.s d.id with
                  | some gix => memberJoin m.s r gix o p d false
                  | none =>
                    let ranks := (List.range d.nmemb).filter (fun i => (d.members.getD i 0) % 65536 = nodeOf s)
                    if d.numver ≠ 1 && !(progsOk ranks d.nlaunch progs) then finishCmd m.s r stInvalid
                    else
                      let b := groupBind m.s c d (groupProgs d ranks progs)
                      memberJoin b.1 r b.2 o p d true

def execGroupJoin (ctx qid : Nat) (progs : List (Nat × List Nat)) (ev : List LineEv) (s : State) : Out :=
  fabNext (ringRow ctx qid (fun o => o = 0x2B) (needFw (exeGroupJoin progs ev)) s)

/-- GROUP_LEAVE (R214): refused while the partition's plate runs. -/
def exeGroupLeave (s : State) (r : CmdRef) (v : Nat) : State :=
  match partIn s (eCtx v) (pay v 0x24 8 0) (pay v 0x24 12 9), (cmdAt s r).bind QCmd.pobj with
  | some p, some o =>
    match (s.fb.groups.find? (fun e => e.2.locals.any (fun m => m.t0 = p.t0 && m.obj = o))).map Prod.fst with
    | none => finishCmd s r stIllegal
    | some gix => if p.run.isSome then finishCmd s r stIllegal else finishCmd (memberLeave s gix p.t0) r stOk
  | _, _ => finishCmd s r stDenied

def execGroupLeave (ctx qid : Nat) (s : State) : Out := fabNext (ringRow ctx qid (fun o => o = 0x2C) exeGroupLeave s)

/-! ### Commit vote (R194, R231, R232) -/

def memAt (s : State) (gix r : Nat) : Option (Group × LocalMem) :=
  (groupAt s gix).bind (fun g => (localOfRank g r).map (fun m => (g, m)))

def memUpd (s : State) (gix r : Nat) (f : LocalMem → LocalMem) : State := groupUpd s gix (fun g => localUpd g r f)

/-- A member closes (R231 step 5): a vote can be cast again, and CLOSED goes down the tree. Rank 0's transaction ends. -/
def closeMember (s : State) (gix r : Nat) : State :=
  match memAt s gix r with
  | none => s
  | some (g, m) =>
    let fresh : LocalMem := { rank := m.rank, t0 := m.t0, obj := m.obj, join := m.join, joined := m.joined,
                              round := (m.round + 1) % 65536 }
    let step := (m.dec.map Prod.snd).getD 0
    let s1 := partUpd (memUpd s gix r (fun _ => fresh)) m.t0 (fun p => { p with retained := false })
    let s2 := (treeKids g.members.length r).foldl (fun s k => sendCtrl s g r k 6 step m.round []) s1
    if r ≠ 0 then s2
    else
      let s3 := groupUpd s2 gix (fun g => { g with record := false, tid := none })
      match g.tid with
      | none => s3
      | some tid => { s3 with un := { s3.un with txns := mapDel s3.un.txns tid } }

/-- A decided member acknowledges up the tree once its own part is applied and its children have acknowledged. -/
def tryAck (s : State) (gix r : Nat) : State :=
  match memAt s gix r with
  | none => s
  | some (g, m) =>
    match m.dec with
    | none => s
    | some (commit, step) =>
      let own : Bool := !commit || (match partOf s m.t0 with
        | some p => step + 1 ≤ p.step.toNat
        | none => true)
      if m.phase ≠ 2 || !own || !((treeKids g.members.length r).all (fun k => m.acks.contains k)) then s
      else if r = 0 then closeMember s gix 0
      else sendCtrl (memUpd s gix r (fun m => { m with phase := 3 })) g r (treeUp r) 5 step m.round []

/-- A member applies the group's decision and passes it down tree A (R231 step 4). -/
def applyDecision (s : State) (gix r : Nat) (commit : Bool) (step : Nat) : State :=
  match memAt s gix r with
  | none => s
  | some (g, m) =>
    if m.phase ≥ 2 then s
    else
      let s1 := memUpd s gix r (fun m => { m with phase := 2, dec := some (commit, step) })
      let s2 := if commit then commitPart s1 m.t0 step m.round else abortPart s1 m.t0
      let s3 := (treeKids g.members.length r).foldl (fun s k =>
        sendCtrl s g r k 4 step m.round [BitVec.ofNat 8 (boolNat commit)]) s2
      tryAck s3 gix r

/-- Rank 0 decides (R231 step 3): the commit record is the write of GRP_STEP, and the group's commit point. A transaction that
has been aborted decides ABORT. -/
def groupDecide (s : State) (gix : Nat) (ok : Bool) (step : Nat) : State :=
  match groupAt s gix with
  | none => s
  | some g =>
    let live := match g.tid.bind (mapFind s.un.txns) with
      | some x => txnLive x
      | none => false
    if ok && live then
      let s1 := groupSet s gix { g with grpStep := BitVec.ofNat 64 (step + 1), record := true }
      let s2 := match g.tid with
        | none => s1
        | some tid => match mapFind s1.un.txns tid with
          | none => s1
          | some x => txnSet s1 tid { x with phase := .committed, record := true }
      applyDecision { s2 with un := { s2.un with commitCnt := satInc s2.un.commitCnt } } gix 0 true step
    else
      let s1 := match g.tid with
        | none => s
        | some tid => txnAbort s tid 5
      applyDecision s1 gix 0 false step

/-- A node forwards once it holds its own vote and its children's (R231 step 2). -/
def tryForward (s : State) (gix r : Nat) : State :=
  match memAt s gix r with
  | none => s
  | some (g, m) =>
    match m.vote with
    | none => s
    | some (ok, step) =>
      let kids := treeKids g.members.length r
      if m.phase ≠ 0 || !(kids.all (fun k => m.kids.any (fun v => v.1 = k))) then s
      else
        let all := ok && m.kids.all (fun v => v.2.1 && v.2.2 = step)
        if r = 0 then groupDecide s gix all step
        else sendCtrl (memUpd s gix r (fun m => { m with phase := 1 })) g r (treeUp r) 3 step m.round
          [BitVec.ofNat 8 (boolNat all)]

/-- CLOSED at a member (R231, R232): that of a failed group may come before the decision, and its STEP, the group record's, settles the vote. -/
def closedApply (s : State) (gix r step : Nat) : State :=
  match memAt s gix r with
  | none => s
  | some (_, m) => closeMember (if m.dec.isNone then settleVote s m step else s) gix r

/-- A vote that no ACTIVE voting group takes decides ABORT at once (R232). -/
def voteRefused (s : State) (t0 : Nat) : State := partUpd (abortPart s t0) t0 (fun p => { p with retained := false })

/-- Rank 0's own vote opens the GROUP_COMMIT transaction (R231 step 1); none when 1,024 are open. -/
def openGroupTxn (s : State) (gix : Nat) (m : LocalMem) (p : Part) : Option State :=
  if m.rank ≠ 0 then some s
  else (txnOpen s 4 gix (partRoot p) [] .enrolled).map (fun r =>
    let s1 := match mapFind r.1.un.txns r.2 with
      | some x => txnSet r.1 r.2 { x with phase := .preparing }
      | none => r.1
    groupUpd s1 gix (fun g => { g with tid := some r.2 }))

/-- A member casts its own vote: PREPARED when its phases 1 and 2 have passed, ABORT when they failed (R194). No UCT message carries a TID: the
record holds the number of the group's vote in the place of the group's TID (DESIGN CHOICE, log entry 134). -/
def castVote (s : State) (t0 gix : Nat) : State :=
  match partOf s t0 with
  | none => s
  | some p =>
    if p.t0 ≠ t0 || !p.groupEn || !(p.prep.isSome || p.abortVote) then s
    else match groupOfSlot s t0 p.group with
      | none => voteRefused s t0
      | some k => match groupAt s k with
        | none => s
        | some g => match localAt g t0 with
          | none => s
          | some m =>
            if m.vote.isSome || m.dec.isSome then s
            else if g.st ≠ 2 || !g.vote then voteRefused s t0
            else if k ≠ gix then s
            else match openGroupTxn s gix m p with
              | none => s
              | some s1 =>
                let s2 := memUpd s1 gix m.rank (fun m => { m with vote := some (p.prep.isSome, p.step.toNat) })
                let note (q : Part) : Part := { q with
                  retained := true, abortVote := false, prep := q.prep.map (fun e => (e.1, m.round)) }
                tryForward (partUpd s2 t0 note) gix m.rank

/-- A PREPARED member that hears no decision asks rank 0 (R53, R231). -/
def sendQuery (s : State) (t0 gix : Nat) : State :=
  match groupAt s gix with
  | none => s
  | some g => match localAt g t0 with
    | none => s
    | some m => match m.vote with
      | some (true, step) => if m.phase = 1 then sendCtrl s g m.rank 0 7 step m.round [] else s
      | _ => s

/-- Rank 0 answers a query: COMMIT if the record of that step exists, otherwise ABORT, which decides an undecided vote. -/
def queryApply (s : State) (gix : Nat) (f : UFrame) : State :=
  match memAt s gix 0 with
  | none => s
  | some (g, m) =>
    let reply (s : State) (c : Bool) : State := sendCtrl s g 0 f.srcRank 4 f.step f.lseq [BitVec.ofNat 8 (boolNat c)]
    if g.grpStep.toNat = f.step + 1 then reply s true
    else reply (if f.lseq = m.round && m.phase < 2 then groupDecide s gix false f.step else s) false

/-- VOTE, DECISION, VACK, CLOSED and DQUERY at the member they name; those of another vote than the current are spent. -/
def voteApply (s : State) (gix : Nat) (f : UFrame) : State :=
  match memAt s gix f.dstRank with
  | none => s
  | some (_, m) =>
    let ok : Bool := f.body.headD 0 ≠ 0
    let r := f.dstRank
    if f.ctype = 7 then queryApply s gix f
    else if f.lseq ≠ m.round then s
    else match f.ctype with
      | 3 => tryForward (memUpd s gix r (fun m => { m with kids := m.kids.filter (fun v => v.1 ≠ f.srcRank) ++ [(f.srcRank, ok, f.step)] })) gix r
      | 4 => applyDecision s gix r ok f.step
      | 5 => tryAck (memUpd s gix r (fun m => { m with acks := f.srcRank :: m.acks })) gix r
      | 6 => closedApply s gix r f.step
      | _ => s

/-- TRANSACTION_TIMEOUT (R49, R53, R57, R232): the coordinator aborts, a PREPARED member queries, an armed substitution
aborts. A group member that has cast PREPARED queries rank 0; rank 0's own timeout decides ABORT. -/
def execTransactionTimeout (w : TxnTimer) (s : State) : Out :=
  match w with
  | .coord tid =>
    match mapFind s.un.txns tid with
    | some x =>
      if x.phase ≠ .preparing then .next s
      else if x.kind = 4 then fabNext (match memAt s x.key 0 with
        | some (_, m) => groupDecide (txnAbort s tid 7) x.key false ((m.vote.map Prod.snd).getD 0)
        | none => txnAbort s tid 7)
      else match (if x.kind = 1 then partOf s x.key else none) with
        | some p =>
          if p.prep.isSome then fabNext (match groupOfSlot s p.t0 p.group with
            | some gix => sendQuery s p.t0 gix
            | none => s)
          else .next (txnAbort s tid 7)
        | none => .next (txnAbort s tid 7)
    | none => .next s
  | .member tid u =>
    match mapFind s.un.txns tid with
    | some x =>
      if (memberSt x (pageOf u) = some .prepared || memberSt x (pageOf u) = some .counted)
          && !(x.queries.contains (pageOf u)) then
        .next (txnSet s tid { x with queries := x.queries ++ [pageOf u] })
      else .next s
    | none => .next s
  | .subst c =>
    match (substAt s c).phase, (substAt s c).tid with
    | .armed, some tid => .next (txnAbort s tid 7)
    | _, _ => .next s

end Sys2Proof.Machine
end

