-- ==== Sys2Proof/Machine/FabCmds.lean ====
section
/-! DEFINITION. Frames at the fabric ports, path and port events, and the fabric's registers (spec 10: R240 to R256; messages
between local members included). -/
namespace Sys2Proof.Machine
open Sys2Proof

/-! ### Receiving (R240, R244, R246, R248 to R250) -/

/-- A frame that the port drops unseen by UCT (R240, R244, R246). -/
def filterDrop (s : State) (p : Nat) : State := fportSet s p { fport s p with filter := satInc (fport s p).filter }

def oowDrop (s : State) (p : Nat) : State := fportSet s p { fport s p with oow := satInc (fport s p).oow }

/-- A group frame for a GROUP_ID that is not bound is answered with GONE (R254). -/
def answerGone (s : State) (node group : Nat) : State :=
  sendFrames s node false [{ typ := 5, group := group, ctype := 9 }]

/-- The port's link receives protected frames: it is UP and MKA is SECURED, or rekeys with its old SAK (R243). -/
def portReceives (s : State) (p : Nat) : Bool :=
  present s.hw (.fport p) && (fport s p).link = 2 && ((fport s p).mka = 2 || (fport s p).mka = 3)

/-- The ICV verifies and the packet number lies above the last one received: the replay window is 0 (R241). -/
def macOk (x : FPort) (h : RxHead) : Bool := h.icvOk && !(x.rxPn.any (fun n => h.pn ≤ n.toNat))

/-- A frame up to the UCT header's addresses: MACsec, form, DST_NODE and the allow-list. Answers whether it goes on. -/
def rxPre (s : State) (h : RxHead) : State × Bool :=
  if !(portReceives s h.port) then (s, false)
  else
    let x := fport s h.port
    let x1 := { x with fecCorr := satAdd x.fecCorr h.fecCor, fecUnc := satAdd x.fecUnc h.fecUnc }
    if !(macOk x h) then (fportSet s h.port { x1 with macsec := satInc x1.macsec }, false)
    else
      let s1 := fportSet s h.port { x1 with rx := satInc x1.rx, rxPn := some (BitVec.ofNat 64 h.pn) }
      if !h.fmtOk || h.dst ≠ nodeOf s || (allowFind s h.node).isNone then (filterDrop s1 h.port, false) else (s1, true)

/-- PACK frees the frames that precede it (R250); a SEND completes with its last. -/
def rxAck (s : State) (h : RxHead) : State :=
  let x := pathAt s h.node h.port
  let freed (e : TxFrame) : Bool :=
    let d := (h.pack + 2 ^ 32 - e.pseq.toNat) % 2 ^ 32
    1 ≤ d && d < 2 ^ 31
  let s1 := pathSet s h.node h.port { x with unacked := x.unacked.filter (fun e => !(freed e)) }
  (x.unacked.filter freed).foldl (fun s e => dataAcked s e.frame) s1

/-- A frame carries the path's expected epoch; any other is dropped and counted (R248). -/
def epochOk (s : State) (h : RxHead) : Bool := (pathAt s h.node h.port).rxEpoch = some (BitVec.ofNat 16 h.epoch)

/-- An ACK leaves the port: PACK covers all up to NEXT. -/
def sendAck (s : State) (node p : Nat) : State := sendPlain s node p 3 0 []

/-- Runs (first, length) of the PSEQs from NEXT up that are missing before the last one received. -/
def missingRuns (fuel : Nat) (at' : Nat) (got : List Nat) : List (Nat × Nat) :=
  match fuel with
  | 0 => []
  | k + 1 =>
    if got.isEmpty then []
    else if got.contains at' then missingRuns k ((at' + 1) % 2 ^ 32) (got.filter (fun q => q ≠ at'))
    else match missingRuns k ((at' + 1) % 2 ^ 32) got with
      | (a, n) :: r => if a = (at' + 1) % 2 ^ 32 then (at', n + 1) :: r else (at', 1) :: (a, n) :: r
      | [] => [(at', 1)]

/-- A NACK lists the missing runs, at most 64 (R251, Table 10-5). -/
def sendNack (s : State) (node p : Nat) : State :=
  let x := pathAt s node p
  sendPlain s node p 4 0
    (((missingRuns 16384 x.rxNext.toNat x.rxGot).take 64).flatMap (fun r => leBytes 4 r.1 ++ leBytes 2 (r.2 % 65536) ++ [0, 0]))

/-- A PROBE or PROBE_RSP: the path's next PSEQ and AVAIL, which a port outside RUN denies (Tables 10-2, 10-5). -/
def sendProbe (s : State) (node p typ : Nat) : State :=
  sendPlain s node p typ 0
    (leBytes 4 (pathAt s node p).txNext.toNat ++ leBytes 4 (boolNat ((unitAt s (.fport p)).state = .run)))

/-- NEXT after what has been received; fuel bounds the run. -/
def advanceNext (fuel : Nat) (next : W32) (got : List Nat) : W32 × List Nat :=
  match fuel with
  | 0 => (next, got)
  | k + 1 => if got.contains next.toNat then advanceNext k (next + 1) (got.filter (fun q => q ≠ next.toNat)) else (next, got)

/-- A sequenced frame is received: NEXT advances; past a hole an ACK goes out, and a frame that comes REORDER or more early
with frames before it missing brings a NACK (R250, R251). -/
def rxMark (s : State) (h : RxHead) (d : Nat) : State :=
  let x := pathAt s h.node h.port
  let r := advanceNext (x.rxGot.length + 1) x.rxNext (x.rxGot ++ [h.pseq % 2 ^ 32])
  let s1 := pathSet s h.node h.port { x with rxNext := r.1, rxGot := r.2 }
  let reorder := bitsOf s.fb.tmr.toNat 27 24
  if r.1 ≠ x.rxNext && !x.rxGot.isEmpty then sendAck s1 h.node h.port
  else if d ≥ reorder && r.1 = x.rxNext then sendNack s1 h.node h.port
  else s1

def dupDrop (s : State) (h : RxHead) : State :=
  sendAck (fportSet s h.port { fport s h.port with dupRx := satInc (fport s h.port).dupRx }) h.node h.port

/-- Window classification of R249, then what the frame does. One whose lane is paused stays in the engine's buffers, not yet acknowledged
(R236, R255). -/
def rxSeq (s : State) (h : RxHead) (f : UFrame) (apply : State → Arrival) : State :=
  let x := pathAt s h.node h.port
  let d := (h.pseq + 2 ^ 32 - x.rxNext.toNat) % 2 ^ 32
  if d ≥ 2 ^ 32 - 2 ^ 30 then dupDrop s h
  else if d ≥ 16384 then oowDrop s h.port
  else if x.rxGot.contains (h.pseq % 2 ^ 32) then dupDrop s h
  else match apply s with
    | .keep => s
    | .park => if s.fb.parked.any (fun e => e.2 = f) then s else { s with fb := { s.fb with parked := s.fb.parked ++ [(h, f)] } }
    | .done s1 => rxMark s1 h d
    | .dup s1 => rxMark (fportSet s1 h.port { fport s1 h.port with dupRx := satInc (fport s1 h.port).dupRx }) h d

/-- A failed payload tag: no acknowledgement, TAG_FAIL and its event, a security alarm (R247, R305). -/
def tagFailed (s : State) (p : Nat) (ctx : Option Nat) : State :=
  secAlarm (unitEvt (fportSet s p { fport s p with tagFail := satInc (fport s p).tagFail }) (.fport p) (2 ^ 19))
    0 0 ctx false false false false

/-- The group message that a frame past the header checks carries, where this row takes it: `typ`, and `ctype` of a CTRL message. Before
the group's key is derived only JOIN can be read; other frames are not acknowledged, and come again. -/
def rxGroup (s : State) (h : RxHead) (g : Group) (ctype : Nat) (apply : UFrame → State → Arrival) : State :=
  if !(epochOk s h) then oowDrop s h.port
  else match openFrame g.key h with
    | none => if g.key.isEmpty then s else tagFailed s h.port (some g.kctx)
    | some f => if f.typ = 5 && f.ctype ≠ ctype then s else rxSeq (rxAck s h) h f (apply f)

/-- A frame for a GROUP_ID that is not bound: JOIN is held, GONE dropped, any other answered with GONE (R244, R254). -/
def rxUnbound (s : State) (h : RxHead) (ctype : Nat) (apply : UFrame → State → Arrival) : State :=
  match openFrame [] h with
  | some f =>
    if f.ctype = 9 then filterDrop s h.port
    else if !(epochOk s h) then oowDrop s h.port
    else if f.ctype ≠ ctype then s
    else rxSeq (rxAck s h) h f (apply f)
  | none => answerGone (filterDrop s h.port) h.node h.group

/-- A sequenced frame at a port. -/
def rxFrame (s : State) (h : RxHead) (ctype : Nat) (apply : UFrame → State → Arrival) : State :=
  let r := rxPre s h
  if !r.2 then r.1
  else match (groupFind r.1 h.group).bind (groupAt r.1) with
    | none => rxUnbound r.1 h ctype apply
    | some g => rxGroup r.1 h g ctype apply

/-- A frame that the engine kept for a paused lane lands: it is acknowledged where its path still receives under its epoch (R236). -/
def rxParked (s : State) (k : Nat) (ok : UFrame → Bool) (apply : UFrame → State → Arrival) : State :=
  match s.fb.parked[k]? with
  | none => s
  | some (h, f) =>
    let mark (s1 : State) : State :=
      let x := pathAt s1 h.node h.port
      let d := (h.pseq + 2 ^ 32 - x.rxNext.toNat) % 2 ^ 32
      if epochOk s1 h && d < 16384 && !(x.rxGot.contains (h.pseq % 2 ^ 32)) then rxMark s1 h d else s1
    if !(ok f) then s
    else match apply f { s with fb := { s.fb with parked := s.fb.parked.eraseIdx k } } with
      | .keep => s
      | .park => s
      | .done s1 => mark s1
      | .dup s1 => mark s1

/-- A message between local members: taken when it is done with. Numbers beyond theirs are those of the frames kept for paused lanes. -/
def rxLocal (s : State) (k : Nat) (ok : UFrame → Bool) (apply : UFrame → State → Arrival) : State :=
  match s.fb.msgs[k]? with
  | none => rxParked s (k - s.fb.msgs.length) ok apply
  | some f =>
    if !(ok f) then s
    else match apply f { s with fb := { s.fb with msgs := s.fb.msgs.eraseIdx k } } with
      | .keep => s
      | .park => s
      | .done s1 => dataAcked s1 f
      | .dup s1 => dataAcked s1 f

/-- A group message from either side. -/
def rxMsg (s : State) (src : MsgSrc) (typ ctype : Nat) (apply : Nat → UFrame → State → Arrival) : State :=
  let ok (f : UFrame) : Bool := f.typ = typ && (typ ≠ 5 || f.ctype = ctype)
  match src with
  | .wire h => if h.typ = typ then rxFrame s h ctype (apply h.node) else s
  | .local' k => rxLocal s k ok (apply (nodeOf s))
  | .own _ _ => s

/-- DATA (R252). -/
def execDataFrame (src : MsgSrc) (ev : List LineEv) (s : State) : Out :=
  fabNext (rxMsg s src 1 0 (fun _ f s => dataArrive s f ev))

/-- CREDIT (R221). -/
def execCreditFrame (src : MsgSrc) (s : State) : Out := fabNext (rxMsg s src 2 0 (fun _ f s => creditArrive s f))

/-- A CTRL message applies once (R246, Table 10-6). -/
def ctrlOnce (f : UFrame) (s : State) (apply : Nat → State → State) : Arrival :=
  match groupFind s f.group with
  | none => .done s
  | some gix =>
    let key := (gix, f.ctype, f.srcRank, f.step, f.lseq)
    if s.fb.ctrlDone.contains key then .done s
    else .done (apply gix { s with fb := { s.fb with ctrlDone := s.fb.ctrlDone ++ [key] } })

/-- JOIN (R213): held for a group that is not bound yet (R254). -/
def execJoinMsg (src : MsgSrc) (s : State) : Out :=
  fabNext (rxMsg s src 5 1 (fun node f s =>
    if (groupFind s f.group).isNone then .done { s with fb := { s.fb with held := s.fb.held ++ [(node, f)] } }
    else ctrlOnce f s (fun gix s => joinApply s gix node f)))

/-- KEYCONF (R247). -/
def execKeyconf (src : MsgSrc) (s : State) : Out :=
  fabNext (rxMsg s src 5 2 (fun node f s => ctrlOnce f s (fun gix s => keyconfApply s gix node f.body)))

def voteRow (src : MsgSrc) (ctype : Nat) (s : State) : State :=
  rxMsg s src 5 ctype (fun _ f s => ctrlOnce f s (fun gix s => voteApply s gix f))

/-- VOTE (R194, R231): a member casts its own, or a child's arrives. -/
def execVoteMsg (src : MsgSrc) (s : State) : Out :=
  fabNext (match src with
    | .own t0 gix => castVote s t0 gix
    | src => voteRow src 3 s)

/-- DECISION (R231). -/
def execDecision (src : MsgSrc) (s : State) : Out := fabNext (voteRow src 4 s)

/-- VACK (R231): a child's acknowledgement, or the member's own once it has applied the decision (R196). -/
def execVack (src : MsgSrc) (s : State) : Out :=
  fabNext (match src with
    | .own t0 gix => match (groupAt s gix).bind (fun g => localAt g t0) with
      | some m => tryAck s gix m.rank
      | none => s
    | src => voteRow src 5 s)

/-- CLOSED (R231). -/
def execClosed (src : MsgSrc) (s : State) : Out := fabNext (voteRow src 6 s)

/-- DQUERY (R231): at rank 0's coordinator, or sent by a member whose own timeout has run out. -/
def execDquery (src : MsgSrc) (s : State) : Out :=
  fabNext (match src with
    | .own t0 gix => sendQuery s t0 gix
    | src => voteRow src 7 s)

/-- The status of a failure notice. One that no launch or group fails with is no status an A1 device returns (R8): COLL_PEER_ABORT stands for it,
or MEMBER_LOST for a whole group's (DESIGN CHOICE, log entry 136). -/
def failStatus (b : Byte) (whole : Bool) : Nat :=
  let st := b.toNat
  if whole then (if st = stMemberLost || st = stLayout || st = stKeyEnd then st else stMemberLost)
  else if st = stCollFault || st = stPeerAbort || st = stMemberLost then st else stPeerAbort

/-- FAIL (R233, R234). -/
def execFailMsg (src : MsgSrc) (s : State) : Out :=
  fabNext (rxMsg s src 5 8 (fun _ f s => ctrlOnce f s (fun gix s =>
    let st := failStatus (f.body.headD 0) (f.body.getD 1 0 ≠ 0)
    if f.body.getD 1 0 ≠ 0 then groupFail s gix st f.srcRank false
    else failLaunch s gix f.step f.lseq st (if st = stCollFault then 4 else 0))))

/-- GONE (R254): the group fails with MEMBER_LOST and the sender's rank. -/
def execGoneMsg (src : MsgSrc) (s : State) : Out :=
  fabNext (rxMsg s src 5 9 (fun node f s => ctrlOnce f s (fun gix s => match groupAt s gix with
    | some g => groupFail s gix stMemberLost (rankOnNode g node) true
    | none => s)))

/-! ### Unsequenced frames (R248, R250, R251) -/

/-- ACK (R250). -/
def execAckFrame (h : RxHead) (s : State) : Out :=
  if h.typ ≠ 3 then .next s
  else
    let r := rxPre s h
    fabNext (if !r.2 then r.1 else if epochOk r.1 h then rxAck r.1 h else oowDrop r.1 h.port)

/-- Retransmits one frame on its path: same PSEQ and PEPOCH, a new PCTR (R251). -/
def resend (s : State) (node p : Nat) (e : TxFrame) : State :=
  if !(portCarries s p) then s
  else
    let x := pathAt s node p
    let s1 := pathSet s node p { x with unacked := x.unacked.map (fun q => if q.pseq = e.pseq then { q with retx := true } else q) }
    frameTx s1 node p e.pseq.toNat true e.frame

/-- The entries of a NACK's body: first missing PSEQ and run length, 8 bytes each (Table 10-5). -/
def nackRuns : Nat → List Byte → List (Nat × Nat)
  | 0, _ => []
  | n + 1, bs => if bs.length < 8 then [] else (leVal (bs.take 4), leVal ((bs.drop 4).take 2)) :: nackRuns n (bs.drop 8)

/-- NACK (R251): each listed frame is retransmitted once. `runs` are what the frame's body lists. -/
def execNackFrame (h : RxHead) (runs : List (Nat × Nat)) (s : State) : Out :=
  if h.typ ≠ 4 || runs ≠ nackRuns 64 h.body then .next s
  else
    let r := rxPre s h
    if !r.2 then .next r.1
    else if !(epochOk r.1 h) then .next (oowDrop r.1 h.port)
    else
      let e := rxAck r.1 h
      let s1 := fportSet e h.port { fport e h.port with nackRx := satInc (fport e h.port).nackRx }
      let listed (q : TxFrame) : Bool := runs.any (fun n => (q.pseq.toNat + 2 ^ 32 - n.1 % 2 ^ 32) % 2 ^ 32 < n.2)
      fabNext (((pathAt s1 h.node h.port).unacked.filter listed).foldl (fun s q => resend s h.node h.port q) s1)

/-- A probing path that has sent a PROBE and heard one with AVAIL is UP, and frames that waited go out (R248). -/
def pathRise (s : State) (node p : Nat) : State :=
  let x := pathAt s node p
  if x.st = 1 && x.probed && x.heard then serveFabric (pathSet s node p { x with st := 2 }) else s

/-- AVAIL = 1: the receive state restarts at the carried PSEQ and PEPOCH (R248). -/
def probeHeard (s : State) (h : RxHead) (next : Nat) : State :=
  let x := pathAt s h.node h.port
  pathSet s h.node h.port { x with rxNext := BitVec.ofNat 32 next, rxGot := [], rxEpoch := some (BitVec.ofNat 16 h.epoch),
                                   rxPack := BitVec.ofNat 32 next, heard := x.heard || x.st = 1 }

/-- A PROBE or PROBE_RSP says so: the sender's next PSEQ and AVAIL (Table 10-5). -/
def probeSays (h : RxHead) (next : Nat) (avail : Bool) : Bool :=
  leVal (h.body.take 4) = next && ((h.body.getD 4 0).getLsbD 0) = avail

/-- A frame that is not sequenced, past the port's checks: it counts where a path joins the port to its node, and its PACK frees frames where
its epoch is the one expected (R248, R250). -/
def rxPlain (s : State) (h : RxHead) : State × Bool :=
  let r := rxPre s h
  if !r.2 || !((nodePorts r.1 h.node).contains h.port) then (r.1, false)
  else (if epochOk r.1 h then rxAck r.1 h else r.1, true)

/-- A PEPOCH that precedes the path's expected one: left over from before the peer's port was reset (R255; log entry 142). -/
def epochOld (s : State) (h : RxHead) : Bool :=
  match (pathAt s h.node h.port).rxEpoch with
  | some e => let d := (e.toNat + 2 ^ 16 - h.epoch) % 2 ^ 16
              1 ≤ d && d < 2 ^ 15
  | none => false

/-- PROBE (R248): answered with a PROBE_RSP, unavailable while the port is not in RUN. -/
def execProbe (h : RxHead) (next : Nat) (avail : Bool) (s : State) : Out :=
  if h.typ ≠ 6 || !(probeSays h next avail) then .next s
  else
    let r := rxPlain s h
    if !r.2 then .next r.1
    else fabNext (pathRise (sendProbe (if avail then probeHeard r.1 h next else r.1) h.node h.port 7) h.node h.port)

/-- PROBE_RSP (R248): without AVAIL the path goes DOWN. One that reaches a path which is DOWN, or whose PEPOCH is old, is dropped
(R255). -/
def execProbeRsp (h : RxHead) (next : Nat) (avail : Bool) (s : State) : Out :=
  if h.typ ≠ 7 || !(probeSays h next avail) then .next s
  else
    let r := rxPlain s h
    if !r.2 then .next r.1
    else if epochOld r.1 h then .next (oowDrop r.1 h.port)
    else if (pathAt r.1 h.node h.port).st = 0 then .next r.1
    else if avail then fabNext (pathRise (probeHeard r.1 h next) h.node h.port)
    else fabNext (pathDown r.1 h.node h.port)

/-! ### Timers (R248 to R251, R254) -/

/-- PROBE_INTERVAL: a PROBE on a probing path, or on an UP path without traffic. -/
def execProbeInterval (node p : Nat) (s : State) : Out :=
  let x := pathAt s node p
  if x.st = 0 || (x.st = 2 && !x.unacked.isEmpty) || !(portCarries s p) || (unitAt s (.fport p)).state ≠ .run then .next s
  else fabNext (pathRise (sendProbe (pathSet s node p { x with probed := true }) node p 6) node p)

/-- ACK_INTERVAL: an ACK when no PACK sent covers what was received; a NACK while a hole stands. -/
def execAckInterval (node p : Nat) (s : State) : Out :=
  let x := pathAt s node p
  if !(portCarries s p) then .next s
  else
    let s1 := if x.rxPack ≠ x.rxNext then sendAck s node p else s
    fabNext (if x.rxGot.isEmpty then s1 else sendNack s1 node p)

/-- RETRANSMISSION_TIMEOUT (R251): the oldest frame is sent again; its RETRY-th timeout in a row takes the path DOWN. -/
def execRetransmissionTimeout (node p : Nat) (s : State) : Out :=
  let x := pathAt s node p
  match x.unacked with
  | [] => .next s
  | e :: r =>
    if e.timeouts + 1 ≥ bitsOf s.fb.tmr.toNat 23 20 then fabNext (pathDown s node p)
    else
      let e1 := { e with timeouts := e.timeouts + 1 }
      fabNext (resend (pathSet s node p { x with unacked := e1 :: r }) node p e1)

/-- A node is unreachable (R254): its record, and every group with a member there fails. -/
def nodeLost (s : State) (node : Nat) : State :=
  let s1 := { s with fb := { s.fb with stat := BitVec.ofNat 32 (node % 65536 + 2 ^ 31), unreach := satInc s.fb.unreach } }
  s1.fb.groups.foldl (fun s e =>
    if e.2.members.any (fun m => m.1 = node) then groupFail s e.1 stMemberLost (rankOnNode e.2 node) true else s) s1

/-- UNREACHABLE_LIMIT (R254): no path of the node is UP. -/
def execUnreachableLimit (node : Nat) (s : State) : Out :=
  if node = nodeOf s || (allowFind s node).isNone || (nodePorts s node).any (fun p => (pathAt s node p).st = 2) then .next s
  else fabNext (nodeLost s node)

/-! ### Links and MKA (R242, R243) -/

/-- The CAK of a port: its device-bank slot holds a key with use-link. -/
def cakOk (s : State) (p : Nat) : Bool :=
  let k := slotAt s (deviceSlot ((fport s p).cak.toNat % 256))
  (fport s p).cak.getLsbD 8 && k.ktype ≠ 0 && bitOf k.attr 5

/-- A new SAK: packet numbers restart at 1 and the paths probe. -/
def sakInstalled (s : State) (p : Nat) : State :=
  let x := fport s p
  let s1 := fportSet s p { x with mka := 2, txBlock := false, pnLow := false, xpn := 1, rxPn := none }
  portProbe (if x.mka = 2 then s1 else unitEvt s1 (.fport p) (2 ^ 17)) p

/-- The link of a port is lost: its paths go DOWN (R253); the port trains again while R243 holds. -/
def linkLost (s : State) (p : Nat) : State :=
  let x := fport s p
  let bits := (if x.link = 2 then 2 ^ 16 else 0) + (if x.mka ≠ 0 then 2 ^ 17 else 0)
  let s1 := fportSet s p { x with link := if portMayLink s p then 1 else 0, mka := 0, txBlock := false }
  portDown (if bits = 0 then s1 else unitEvt s1 (.fport p) bits) p

/-- FABRIC_LINK_UP (R243): the link comes up; with the CAK's slot good, MKA secures it and the paths probe. -/
def execFabricLinkUp (p : Nat) (s : State) : Out :=
  let x := fport s p
  if !(present s.hw (.fport p)) || !(portMayLink s p) || x.link = 2 then .next s
  else
    let s1 := unitEvt (fportSet s p { x with link := 2, mka := if cakOk s p then 1 else 0 }) (.fport p) (2 ^ 16)
    fabNext (if cakOk s p then sakInstalled s1 p else s1)

/-- FABRIC_LINK_LOSS (R253). -/
def execFabricLinkLoss (p : Nat) (s : State) : Out :=
  if !(present s.hw (.fport p)) || (fport s p).link = 0 then .next s else fabNext (linkLost s p)

def mkaTo (s : State) (p m : Nat) : State :=
  let x := fport s p
  if x.mka = m then s else unitEvt (fportSet s p { x with mka := m }) (.fport p) (2 ^ 17)

/-- MKPDU (R242): MKA finds its peer, distributes a new SAK while the old one serves, or installs it. -/
def execMkpdu (p : Nat) (e : MkEv) (s : State) : Out :=
  if !(present s.hw (.fport p)) || (fport s p).link ≠ 2 then .next s
  else
    let s1 := fportSet s p { fport s p with rx := satInc (fport s p).rx }
    if !(cakOk s1 p) then .next s1
    else match e with
      | .peer => .next (if (fport s1 p).mka = 0 then mkaTo s1 p 1 else s1)
      | .rekey => .next (if (fport s1 p).mka = 2 then mkaTo s1 p 3 else s1)
      | .sak => fabNext (sakInstalled s1 p)

/-- MKA_LIVE_PEER_LOSS (R242): only MKPDUs are sent, and the port's paths go DOWN. -/
def execMkaLivePeerLoss (p : Nat) (s : State) : Out :=
  if !(present s.hw (.fport p)) || (fport s p).mka < 2 then .next s else fabNext (portDown (mkaTo s p 1) p)

/-- FILTERED_FRAME (R240): a frame that is neither a MACsec-protected UCT frame nor EAPOL. -/
def execFilteredFrame (p : Nat) (s : State) : Out :=
  if !(present s.hw (.fport p)) || (fport s p).link ≠ 2 then .next s
  else
    let s1 := fportSet s p { fport s p with rx := satInc (fport s p).rx }
    .next (filterDrop s1 p)

/-! ### Registers (R244, R254 to R256) -/

/-- After a change of what R243 asks: a link that may not stand drops, one that may trains. -/
def portSync (s : State) (p : Nat) : State :=
  let x := fport s p
  let st := (unitAt s (.fport p)).state
  let may : Bool := (st = .run || st = .quiescing || st = .quiesced) && x.ctl.getLsbD 0 && x.cak.getLsbD 8 && nodeOf s ≠ 0
  if !may && x.link ≠ 0 then linkLost s p
  else if portMayLink s p && x.link = 0 then fportSet s p { x with link := 1 }
  else s

/-- What a change of the allow-list does to one node: ports lost take their paths DOWN, ports gained probe, and a node left
without any is unreachable. -/
def nodeChanged (old s : State) (node : Nat) : State :=
  let before := nodePorts old node
  let after := nodePorts s node
  let s1 := (before.filter (fun p => !(after.contains p))).foldl (fun s p => pathDown s node p) s
  let s2 := (after.filter (fun p => !(before.contains p))).foldl (fun s p =>
    if portCarries s p && (unitAt s (.fport p)).state = .run && (pathAt s node p).st = 0 then pathProbe s node p else s) s1
  if !before.isEmpty && after.isEmpty then nodeLost s2 node else s2

/-- ALLOW_WRITE (R244, R255): PF0 only. -/
def execAllowWrite (w : Writer) (e : Nat) (v : RegPart) (s : State) : Out :=
  if w ≠ .pf0 || !(bar0Open s w) || e ≥ 1024 || !(halfOk v.off v.width) then .next s
  else
    let old := mapGet 0 s.fb.allow e
    let new := merge64 old v.off v.width v.val &&& 0x1FFFFFFFF
    let s1 := { s with fb := { s.fb with allow := if new = 0 then mapDel s.fb.allow e else mapSet s.fb.allow e new } }
    fabNext (([old.toNat % 65536, new.toNat % 65536].eraseDups).foldl (nodeChanged s) s1)

/-- Table 10-8: a value that is stored; any other leaves the whole register unchanged. A 32-bit write has the fields of its half
alone. -/
def cfgStored (off width v : Nat) : Bool :=
  let e := bitsOf v 15 0
  let lo : Bool := 0x600 ≤ e && e ≠ 0x8808 && e ≠ 0x888E && e ≠ 0x88E5 && bitsOf v 31 16 ≠ 0xFFFF
  (off = 4 || lo) && ((off = 0 && width = 4) || (bitOf v 49 && !(bitOf v 48)))

/-- UCT_CFG_WRITE (R256): PF0 only, ignored while any GIX is bound. -/
def execUctCfgWrite (w : Writer) (off width : Nat) (v : W64) (s : State) : Out :=
  let new := (merge64 s.fb.cfg off width v).toNat % 2 ^ 56
  if w ≠ .pf0 || !(bar0Open s w) || !s.fb.groups.isEmpty || !(cfgStored off width new) || !(halfOk off width) then
    .next s
  else
    let s1 := { s with fb := { s.fb with cfg := BitVec.ofNat 64 new } }
    fabNext (((List.range 16).filter (fun p => present s.hw (.fport p))).foldl portSync s1)

/-- FP_CTL_WRITE (R243, Table 10-12): PF0 only. -/
def execFpCtlWrite (w : Writer) (p : Nat) (v : W32) (s : State) : Out :=
  if w ≠ .pf0 || !(bar0Open s w) || !(present s.hw (.fport p)) || !(blockLive s (.fport p)) then .next s
  else fabNext (portSync (fportSet s p { fport s p with ctl := v &&& 0x3FFFF }) p)

/-- FP_CAK_WRITE (R242, Table 10-12): PF0 only. -/
def execFpCakWrite (w : Writer) (p : Nat) (v : W32) (s : State) : Out :=
  if w ≠ .pf0 || !(bar0Open s w) || !(present s.hw (.fport p)) || !(blockLive s (.fport p)) then .next s
  else fabNext (portSync (fportSet s p { fport s p with cak := v &&& 0x1FF }) p)

end Sys2Proof.Machine
end

