-- ==== Sys2Proof/Machine/KeyOps.lean ====
section
/-! DEFINITION. The key store's operations: random values, slots and their attributes, derivations from the roots, the device
identity, and measurement reports (spec 16: R380 to R391, R399). -/
namespace Sys2Proof.Machine
open Sys2Proof

abbrev stUnwrap : Nat := 0x55
abbrev stSession : Nat := 0x56
abbrev stToken : Nat := 0x57
abbrev stUnlocks : Nat := 0x58

def ascii (t : String) : List Byte := t.toList.map (fun c => BitVec.ofNat 8 c.toNat)

/-! ### Random values -/

/-- The next random value of the entropy source (log entry 16). -/
def rand (s : State) (bits : Nat) : Nat := Config.freeRandom s.free bits % 2 ^ bits
def drawn (s : State) : State := { s with free := s.free + 1 }
def randBytes (s : State) (n : Nat) : List Byte := leBytes n (rand s (8 * n))

/-- 448 bits to a private scalar, 48 bytes big-endian (Table 16-3). -/
def scalarOf (v : Nat) : List Byte := beBytes 48 (v % (bpN - 1) + 1)

/-- The secret of a key drawn at random. -/
def randKey (s : State) (ktype : Nat) : List Byte :=
  match ktype with
  | 1 => randBytes s 32
  | 2 => randBytes s 48
  | _ => scalarOf (rand s 448)

/-- The secret of a key from a derivation. -/
def derivedKey (ktype : Nat) (key label ctx : List Byte) : List Byte :=
  match ktype with
  | 1 => kdf108 key label ctx 256
  | 2 => kdf108 key label ctx 384
  | _ => scalarOf (beVal (kdf108 key label ctx 448))

/-! ### Slot references and attributes (R380, R381, Tables 16-1, 16-2) -/

/-- The table key that a SLOTREF names for a context; none where reserved. -/
def slotRef (c ref : Nat) : Option Nat :=
  if ref ≥ 512 then none
  else if ref ≥ 256 then some (deviceSlot (ref - 256))
  else if ref < 8 then some (tenantSlot c ref) else none

def isDeviceKey (k : Nat) : Bool := 4096 ≤ k

/-- Attribute rules of R381: the use bits a key type takes. -/
def useAllowed (ktype use : Nat) : Bool :=
  match ktype with
  | 1 => Nat.land use 0x3B = use
  | 2 => Nat.land use 0x28 = use
  | 3 => Nat.land use 0x04 = use
  | _ => false

/-- Roles of Table 16-1: type and required use bits of a slot's key. -/
def roleAllowed (k ktype use : Nat) : Bool :=
  let need (m : Nat) : Bool := ktype = 1 && Nat.land use m = m
  if isDeviceKey k then 4112 ≤ k
  else match k % 8 with
    | 0 | 1 => need 0x10
    | 2 => need 0x02
    | 3 => need 0x03
    | _ => true

/-- A request's ATTR, laid out as SLOT_ATTR: use bits, LCB, VOLATILE and, where the payload has no other KTYPE field, KTYPE. -/
def attrUse (a : Nat) : Nat := a % 64
def attrLcb (a : Nat) : Bool := bitOf a 10
def attrVol (a : Nat) : Bool := bitOf a 11
def attrType (a : Nat) : Nat := bitsOf a 13 12
def attrMask : Nat := 0x0C3F

/-- A device range key is memory-bound while its range is enabled (R287). -/
def memBound (s : State) (k : Nat) : Bool :=
  if isDeviceKey k then k < 4104 && bitOf (mapGet 0 s.mm.drBase (k - 4096)).toNat 63
  else slotBound s (k / 8) (k % 8)

/-- OWNER of a slot (Table 16-15). -/
def slotOwner (k : Nat) : Nat := if isDeviceKey k then (if 4112 ≤ k then 2 else 1) else 0

/-- SLOT_ATTR (Table 16-15). -/
def slotAttr (s : State) (k : Nat) : Nat :=
  let x := slotAt s k
  if x.ktype = 0 then 0
  else x.attr % 64 + x.origin <<< 6 + slotOwner k <<< 8 + boolNat x.lcb <<< 10 + boolNat x.vol <<< 11 + x.ktype <<< 12
    + boolNat x.exh <<< 14 + boolNat (memBound s k) <<< 15

/-- Public key, X then Y, of a slot's ECP384 key. -/
def slotPub (x : Slot) : List Byte := ecPublic (beVal x.key)

/-! ### Use, installation and destruction (R383, R384, R286, R287) -/

/-- A command in progress uses a slot: a shard load (c.2) or a checkpoint transfer (c.3) of the context, or the join of a
group whose KSLOT it is. -/
def slotInUse (s : State) (k : Nat) : Bool :=
  !(isDeviceKey k) &&
    (s.rg.queues.any (fun e => e.2.cmd.any (fun q =>
        let v := leVal q.entry
        q.st = .busy && eCtx v = k / 8
          && ((k % 8 = 2 && eOpc v = 0x32) || (k % 8 = 3 && (eOpc v = 0x35 || eOpc v = 0x36)))))
      || s.fb.groups.any (fun e => e.2.st = 1 && e.2.kctx = k / 8 && e.2.kslot = k % 8))

/-- Why a key may not be installed in a slot. -/
def installRefusal (s : State) (k : Nat) : Option Nat :=
  if memBound s k || slotInUse s k then some stIllegal else none

/-- A slot that FP_CAK names, or the KSLOT of an ACTIVE group. -/
def slotNamed (s : State) (k : Nat) : Bool :=
  if isDeviceKey k then
    (List.range 16).any (fun p => (fport s p).cak.getLsbD 8 && deviceSlot ((fport s p).cak.toNat % 256) = k)
  else s.fb.groups.any (fun e => e.2.st = 2 && e.2.kctx = k / 8 && e.2.kslot = k % 8)

def destroyRefusal (s : State) (k : Nat) : Option Nat :=
  if memBound s k || slotInUse s k || slotNamed s k then some stIllegal else none

/-- MKA starts again on every port that names a slot as its CAK (R384). -/
def cakRestart (s : State) (k : Nat) : State :=
  if !(isDeviceKey k) then s
  else (List.range 16).foldl (fun s p =>
    let x := fport s p
    if x.cak.getLsbD 8 && deviceSlot (x.cak.toNat % 256) = k && x.link = 2 then
      portCheck (fportSet s p { x with mka := if cakOk s p then 1 else 0 }) p
    else s) s

/-- Non-volatile operator keys are saved in the flash under d.10 (Table 16-2). -/
def slotSave (s : State) (k : Nat) : State :=
  let x := slotAt s k
  let sv := if 4112 ≤ k && x.ktype ≠ 0 && !x.vol then mapSet s.ks.saved k { slot := x, state := s.ks.lc.state }
    else mapDel s.ks.saved k
  { s with ks := { s.ks with saved := sv } }

/-- Installs a key: KGEN advances and EXHAUSTED clears; tenant keys are LCB and VOLATILE. -/
def slotInstall (s : State) (k ktype use origin : Nat) (lcb vol : Bool) (key : List Byte) : State :=
  let old := slotAt s k
  let t := !(isDeviceKey k)
  let x : Slot := { ktype := ktype, key := key, attr := use, origin := origin, lcb := t || lcb, vol := t || vol,
                    kgen := old.kgen + 1, exh := false }
  cakRestart (slotSave (slotSet s k x) k) k

/-- Empties a slot; KGEN outlives the key. -/
def slotClear (s : State) (k : Nat) : State :=
  let x := slotAt s k
  if x.ktype = 0 then s
  else
    let s1 := slotSave (slotSet s k { kgen := x.kgen }) k
    { s1 with ks := { s1.ks with destroyC := satInc s1.ks.destroyC } }

/-! ### Roots and derived keys (R385 to R387, Tables 16-3, 16-6) -/

/-- The root of a life-cycle state. -/
def rootOf (st : Nat) : Option Nat :=
  match st with
  | 1 | 2 => some 0
  | 3 => some 1
  | 4 => some 2
  | 5 => some 3
  | _ => none

def lcState (s : State) : Nat := s.ks.lc.state

/-- The root that the current state may use. -/
def curRoot (s : State) : Option Nat :=
  match rootOf (lcState s) with
  | some r => if s.ks.lc.locked.contains r then none else some r
  | none => none

def rootBytes (r : Nat) : List Byte := beBytes 48 (Config.rootSecret r % 2 ^ 384)
def stateByte (st : Nat) : List Byte := [BitVec.ofNat 8 st]

/-- Private scalar of the identity key of a state. -/
def idKeyOf (root st : Nat) : List Byte := derivedKey 3 (rootBytes root) (ascii "UR-IDK") (stateByte st)

/-- The settings block that applies since the last cold reset. -/
def settings (s : State) : List Byte := if s.fw.setSel then s.fw.set1 else s.fw.set0
def settingsDigest (s : State) : List Byte := sha384 (settings s)
def bootRomDigest : List Byte := beBytes 48 (Config.bootRomDigest % 2 ^ 384)
def secDigest (s : State) : List Byte := (s.fw.runSec.map Image.digest).getD []

def akContext (s : State) : List Byte :=
  sha384 (bootRomDigest ++ secDigest s ++ settingsDigest s ++ stateByte (lcState s))

/-- d.8, d.9 and d.10 of the current state, or none of them without a root. -/
def deriveDevice (s : State) : State :=
  match curRoot s with
  | none => slotClear (slotClear (slotClear s (deviceSlot 8)) (deviceSlot 9)) (deviceSlot 10)
  | some r =>
    let st := lcState s
    let s1 := slotInstall s (deviceSlot 8) 3 0x04 2 false true (idKeyOf r st)
    let s2 := slotInstall s1 (deviceSlot 9) 3 0x04 2 false true
      (derivedKey 3 (rootBytes r) (ascii "UR-AK") (akContext s))
    slotInstall s2 (deviceSlot 10) 1 0x03 2 false true (kdf108 (rootBytes r) (ascii "UR-DSEAL") (stateByte st) 256)

/-- Public key of the identity key that PRODUCTION has. -/
def prodPub : List Byte := ecPublic (beVal (idKeyOf 2 4))

/-- LC_IDKPUB (R386). -/
def idkPub (s : State) : List Byte :=
  if lcState s = 3 then prodPub
  else if lcState s = 4 then slotPub (slotAt s (deviceSlot 8))
  else List.replicate 96 0

/-- DEVICE_ID (R387); zero where LC_DEVID reads zero (Table 16-17). -/
def deviceId (s : State) : List Byte :=
  if 3 ≤ lcState s && lcState s ≤ 5 then sha384 ([4] ++ prodPub) else List.replicate 48 0

def akSlot (s : State) : Slot := slotAt s (deviceSlot 9)
def akReady (s : State) : Bool := (akSlot s).ktype ≠ 0

/-- ECDSA over SHA-384 of a message under a private scalar, with a nonce drawn at random. -/
def signMsg (s : State) (scalar msg : List Byte) : State × List Byte :=
  (drawn s, ecdsaSign (beVal scalar) (rand s 384) (sha384 msg))

/-- One statement or report signed by the AK (KS_ATTEST_CNT). -/
def akSign (s : State) (msg : List Byte) : State × List Byte :=
  let p := signMsg s (akSlot s).key msg
  ({ p.1 with ks := { p.1.ks with attestC := satInc p.1.ks.attestC } }, p.2)

/-! ### Measurements (R399, Tables 16-9, 16-10) -/

def measEntry (kind subid st version : Nat) (digest : List Byte) (aux : Nat) : List Byte :=
  leBytes 1 kind ++ leBytes 2 subid ++ leBytes 1 st ++ leBytes 4 version ++ digest ++ leBytes 8 aux

/-- Part of an activation is applied (R423). -/
def activating (s : State) : Bool := s.fw.phase = 3 || s.fw.phase = 4

def imageEntry (kind st : Nat) (i : Option Image) : List (List Byte) :=
  match i with
  | some x => [measEntry kind 0 st x.version x.digest 0]
  | none => []

/-- LC_CONSUME and S1 to S5 as bytes. -/
def lcBytes (x : LcSt) : List Byte :=
  (List.range 5).flatMap (fun i => leBytes 8 (mapGet 0 x.segs (i + 1)).toNat) ++ leBytes 4 x.consume.toNat

/-- Device entries, kinds 1 to 6. -/
def deviceEntries (s : State) : List (List Byte) :=
  [measEntry 1 0 0 (Config.bootRomVersion % 2 ^ 32) bootRomDigest 0]
    ++ imageEntry 2 0 s.fw.runSec ++ (if activating s then imageEntry 2 1 s.fw.nextSec else [])
    ++ imageEntry 3 0 s.fw.runMgmt ++ (if activating s then imageEntry 3 1 s.fw.nextMgmt else [])
    ++ [measEntry 4 0 0 (Config.meterRomVersion % 2 ^ 32) (beBytes 48 (Config.meterRomDigest % 2 ^ 384)) 0,
        measEntry 5 0 0 (Config.settingsVersion (beVal (settingsDigest s)) % 2 ^ 32) (settingsDigest s) 0,
        measEntry 6 0 0 0 (sha384 (lcBytes s.ks.lc)) (lcState s)]

def devMeas (s : State) : List Byte := sha384 (deviceEntries s).flatten

def partEntry (p : Part) : List Byte :=
  measEntry 7 0 (boolNat p.run.isSome) p.numver ((p.run.map RunRec.digest).getD (List.replicate 48 0))
    (p.t0 + p.log2n <<< 9)

/-- State of a shard: 0 VALID, 1 FAILED, 2 INVALID. A SCRATCH shard is INVALID once its tile no longer watches it (R372). -/
def shardSt (s : State) (k : Nat) (x : Shard) : Nat :=
  if x.scratch && !((tileAt s x.tile).watch.any (fun w => w.1 = k)) then 2 else x.st

/-- Partitions bound to a context in ascending T0, then its shards in ascending SHARD_ID. -/
def ctxEntries (s : State) (c : Nat) : List (List Byte) :=
  ((s.tl.parts.filter (fun e => e.2.ctx = c)).map (fun e => partEntry e.2))
    ++ (s.rg.shards.filter (fun e => e.1 / 64 = c && shardSt s e.1 e.2 ≤ 1)).map (fun e =>
      measEntry 8 (e.1 % 64) (shardSt s e.1 e.2) 0 e.2.digest (boolNat e.2.frozen + boolNat e.2.scratch <<< 1))

def variantByte (hw : Hw) : Nat := (match hw.variant with | .n32 => 0 | .h192 => 1 | .h576x => 2) + boolNat hw.split <<< 2

/-- ARB as a count (R413). -/
def arbValue (s : State) : Nat := ((List.range 64).filter (fun i => s.ks.arb.getLsbD i)).length

/-- The report without its signature; `c` is none on an admin ring. -/
def reportBody (s : State) (c : Option Nat) (nonce : List Byte) : List Byte :=
  let es := deviceEntries s ++ (match c with | some x => ctxEntries s x | none => [])
  let lc := s.ks.lc
  leBytes 4 0x5341454D ++ leBytes 2 256 ++ leBytes 2 1 ++ leBytes 1 lc.state
    ++ leBytes 1 (boolNat lc.debugSeen + boolNat lc.fromRma <<< 1 + boolNat lc.pend <<< 2 + boolNat (activating s) <<< 3)
    ++ leBytes 1 (variantByte s.hw) ++ leBytes 1 (arbValue s) ++ leBytes 2 es.length ++ leBytes 2 (c.getD 0xFFFF)
    ++ leBytes 4 (256 + 64 * es.length + 96) ++ List.replicate 12 0 ++ nonce ++ deviceId s ++ devMeas s
    ++ sha384 ([4] ++ slotPub (akSlot s)) ++ List.replicate 48 0 ++ es.flatten

/-- The signed report. -/
def report (s : State) (c : Option Nat) (nonce : List Byte) : State × List Byte :=
  let b := reportBody s c nonce
  let p := akSign s b
  (p.1, b ++ p.2)

/-- Why a statement, a report or a session OPEN cannot be made (R385, R396, the entropy source). -/
def attestRefusal (s : State) : Option Nat :=
  if s.ks.lc.pend || !(akReady s) then some stIllegal else if s.ks.rngFail then some stBusy else none

/-! ### Sessions (R402, R403) -/

def sessionAt (s : State) (id : Nat) : Option Session := s.ks.sessions.find? (fun x => x.id = id)

def sessionsDrop (s : State) (gone : Session → Bool) : State :=
  { s with ks := { s.ks with sessions := s.ks.sessions.filter (fun x => !(gone x)) } }

def sessionUpd (s : State) (id : Nat) (f : Session → Session) : State :=
  { s with ks := { s.ks with sessions := s.ks.sessions.map (fun x => if x.id = id then f x else x) } }

end Sys2Proof.Machine
end

