-- ==== Sys2Proof/Machine/KeyCmds.lean ====
section
/-! DEFINITION. Key and attestation commands, and the attestation mailbox (spec 16: R383, R384, R388 to R391, R399 to R404). -/
namespace Sys2Proof.Machine
open Sys2Proof

/-! ### Payload buffers -/

/-- A payload buffer of n bytes as DMA_COPY addresses it: space 0 DEVICE or 2 WINDOW. -/
def payOk (sp a n : Nat) : Bool := sp ≠ 1 && dmaSpanOk sp a n

/-- Reads a payload buffer and goes on, or ends the command with the access's status. -/
def payRead (s : State) (r : CmdRef) (c sp a n : Nat) (ev : List LineEv) (go : State → List Byte → State) : State :=
  if !(payOk sp a n) then finishCmd s r stInvalid
  else if sp = 0 then
    if spanWaits s io0Page c a n false ev then s
    else
      let x := devFetch s c a n ev
      if x.2.2.1 ≠ stOk then finishDet x.1 r x.2.2.1 0 x.2.2.2 else go x.1 x.2.1
  else
    let x := winFetch s c a n
    if x.2 ≠ stOk then finishCmd s r x.2 else go s x.1

/-- Writes a payload buffer and ends the command. -/
def payWrite (s : State) (r : CmdRef) (c sp a : Nat) (bs : List Byte) (result : Nat) (ev : List LineEv) : State :=
  let w := dmaStore s c sp a bs ev
  if w.2.1 = stOk then finishRes w.1 r stOk result else finishDet w.1 r w.2.1 0 w.2.2

/-! ### Rights (R383) -/

/-- Who may write a slot: the context's own queues, or the admin ring of hp0 for an operator slot. -/
def slotRight (s : State) (r : CmdRef) (c k : Nat) : Bool :=
  if isDeviceKey k then 4112 ≤ k && isAdminRing s r && r.ctx = 0 else c = r.ctx

/-- The checks that KEY_GENERATE, KEY_DERIVE and KEY_IMPORT share, and then the slot's table key. -/
def installCheck (s : State) (r : CmdRef) (c ref ktype use : Nat) (right : Nat → Bool) (go : Nat → State) : State :=
  match slotRef c ref with
  | none => finishCmd s r stInvalid
  | some k =>
    if !(right k) then finishCmd s r stDenied
    else if !(useAllowed ktype use) || !(roleAllowed k ktype use) then finishCmd s r stInvalid
    else match installRefusal s k with
      | some st => finishCmd s r st
      | none => go k

/-- A key is installed and the command ends with the new KGEN. -/
def installEnd (s : State) (r : CmdRef) (k : Nat) : State := finishRes s r stOk (slotAt s k).kgen.toNat

def countGen (s : State) : State := { s with ks := { s.ks with genCnt := satInc s.ks.genCnt } }

/-- KEY_GENERATE. -/
def exeKeyGenerate (s : State) (r : CmdRef) (v : Nat) : State :=
  let c := eCtx v
  let kt := pay v 0x22 1 0
  let a := pay v 0x24 31 0
  if Nat.land a attrMask ≠ a then finishCmd s r stInvalid
  else installCheck s r c (pay v 0x20 15 0) kt (attrUse a) (slotRight s r c) (fun k =>
    if s.ks.rngFail then finishCmd s r stBusy
    else installEnd (countGen (drawn (slotInstall s k kt (attrUse a) 1 (attrLcb a) (attrVol a) (randKey s kt)))) r k)

def execKeyGenerate (ctx qid : Nat) (s : State) : Out := ringCmd ctx qid 0x38 exeKeyGenerate s

/-- The context string of KEY_DERIVE (R390). -/
def deriveContext (src dst ctx : Nat) (label : List Byte) : List Byte :=
  leBytes 2 src ++ leBytes 2 dst ++ leBytes 2 ctx ++ label

def deriveLabel : List Byte := leBytes 8 (Config.deriveLabel % 2 ^ 64)

/-- KEY_DERIVE with its label read. -/
def deriveGo (s : State) (r : CmdRef) (v k src : Nat) (blk : List Byte) : State :=
  let c := eCtx v
  let a := pay v 0x24 31 0
  let x := slotAt s src
  let n := (blk.headD 0).toNat
  let cx := if isDeviceKey k then 0xFFFF else c
  if n < 1 || 56 < n then finishCmd s r stInvalid
  else
    let key := derivedKey (attrType a) x.key deriveLabel
      (deriveContext (pay v 0x22 15 0) (pay v 0x20 15 0) cx ((blk.drop 8).take n))
    installEnd (countGen (slotInstall s k (attrType a) (attrUse a) 2 (x.lcb || attrLcb a) (x.vol || attrVol a) key)) r k

/-- KEY_DERIVE (R390). -/
def exeKeyDerive (ev : List LineEv) (s : State) (r : CmdRef) (v : Nat) : State :=
  let c := eCtx v
  let a := pay v 0x24 31 0
  if Nat.land a (attrMask + 0x3000) ≠ a then finishCmd s r stInvalid
  else match slotRef c (pay v 0x22 15 0) with
    | none => finishCmd s r stInvalid
    | some src =>
      installCheck s r c (pay v 0x20 15 0) (attrType a) (attrUse a) (slotRight s r c) (fun k =>
        let x := slotAt s src
        if isDeviceKey src ≠ isDeviceKey k then finishCmd s r stInvalid
        else if x.ktype = 0 || !(bitOf x.attr 3) then finishCmd s r stDenied
        else if Nat.land (attrUse a) x.attr ≠ attrUse a then finishCmd s r stInvalid
        else payRead s r c 0 (pay v 0x28 63 0) 64 ev (fun s blk => deriveGo s r v k src blk))

def execKeyDerive (ctx qid : Nat) (ev : List LineEv) (s : State) : Out := ringCmd ctx qid 0x39 (exeKeyDerive ev) s

/-! ### Wrapped imports (R404, Table 16-12) -/

/-- R383: a session opened over a PF's DOE mailbox may import into a context whose TDI is CONFIG_LOCKED or RUN on that PF. -/
def doeRight (s : State) (x : Session) (c k : Nat) : Bool :=
  !(isDeviceKey k) && x.doe = some (ctxPort s c) && tdiLocked s c

/-- The session serves this command's context. -/
def sessionServes (s : State) (r : CmdRef) (x : Session) (c k : Nat) : Bool :=
  x.active && (x.ctx = (if isDeviceKey k then r.ctx else c) || doeRight s x c k)

def unwrapFail (s : State) (r : CmdRef) : State :=
  finishCmd { s with ks := { s.ks with unwrapF := satInc s.ks.unwrapF } } r stUnwrap

/-- The key of a wrapped key block; none where R404 fails it. -/
def unwrapKey (x : Session) (c ref attr : Nat) (k : Nat) (b : List Byte) : Option (Nat × List Byte) :=
  let at' (o n : Nat) : Nat := leVal ((b.drop o).take n)
  let seq := at' 8 8
  let kt := at' 6 1
  let hdr : Bool := at' 0 4 = 0x59454B57 && at' 4 2 = 1 && at' 7 1 = 0 && at' 0x18 8 = 0
  let same : Bool := at' 0x10 2 = (if isDeviceKey k then 0xFFFF else c) && at' 0x12 2 = ref && kt = attrType attr
    && at' 0x14 4 = attr
  match gcmOpen x.kimp (leBytes 4 x.id ++ leBytes 8 seq) (b.take 0x20) ((b.drop 0x20).take 48) ((b.drop 0x50).take 16) with
  | none => none
  | some pt =>
    let body := if kt = 1 then pt.take 32 else pt
    let fits : Bool := (kt ≠ 1 || pt.drop 32 = List.replicate 16 0) && (kt ≠ 3 || (1 ≤ beVal pt && beVal pt < bpN))
    if hdr && same && x.seq < seq && fits then some (seq, body) else none

/-- KEY_IMPORT with its wrapped key read. -/
def importGo (s : State) (r : CmdRef) (v k : Nat) (x : Session) (blk : List Byte) : State :=
  let a := pay v 0x24 31 0
  match unwrapKey x (eCtx v) (pay v 0x20 15 0) a k blk with
  | none => unwrapFail s r
  | some (seq, key) =>
    let s1 := sessionUpd s x.id (fun y => { y with seq := seq })
    let s2 := slotInstall s1 k (attrType a) (attrUse a) 3 (attrLcb a) (attrVol a) key
    installEnd { s2 with ks := { s2.ks with impCnt := satInc s2.ks.impCnt } } r k

/-- KEY_IMPORT. -/
def exeKeyImport (ev : List LineEv) (s : State) (r : CmdRef) (v : Nat) : State :=
  let c := eCtx v
  let a := pay v 0x24 31 0
  let ses := sessionAt s (pay v 0x22 15 0)
  let right (k : Nat) : Bool := slotRight s r c k || ses.any (fun x => doeRight s x c k)
  if Nat.land a (attrMask + 0x3000) ≠ a then finishCmd s r stInvalid
  else installCheck s r c (pay v 0x20 15 0) (attrType a) (attrUse a) right (fun k =>
    match ses with
    | none => finishCmd s r stSession
    | some x =>
      if !(sessionServes s r x c k) then finishCmd s r stSession
      else payRead s r c (pay v 0x30 1 0) (pay v 0x28 63 0) 96 ev (fun s blk => importGo s r v k x blk))

def execKeyImport (ctx qid : Nat) (ev : List LineEv) (s : State) : Out := ringCmd ctx qid 0x3A (exeKeyImport ev) s

/-! ### KEY_DESTROY, KEY_QUERY, KEY_ATTEST, MEAS_REPORT -/

/-- KEY_DESTROY. -/
def exeKeyDestroy (s : State) (r : CmdRef) (v : Nat) : State :=
  let c := eCtx v
  match slotRef c (pay v 0x20 15 0) with
  | none => finishCmd s r stInvalid
  | some k =>
    if !(slotRight s r c k) then finishCmd s r stDenied
    else match destroyRefusal s k with
      | some st => finishCmd s r st
      | none => finishCmd (slotClear s k) r stOk

def execKeyDestroy (ctx qid : Nat) (s : State) : Out := ringCmd ctx qid 0x3B exeKeyDestroy s

/-- KEY_QUERY. -/
def exeKeyQuery (ev : List LineEv) (s : State) (r : CmdRef) (v : Nat) : State :=
  let c := eCtx v
  let a := pay v 0x28 63 0
  match slotRef c (pay v 0x20 15 0) with
  | none => finishCmd s r stInvalid
  | some k =>
    let x := slotAt s k
    let res := slotAttr s k + x.kgen.toNat <<< 32
    if a = 0 || x.ktype ≠ 3 then finishRes s r stOk res
    else if !(payOk 0 a 96) then finishCmd s r stInvalid
    else if spanWaits s io0Page c a 96 true ev then s
    else payWrite s r c 0 a (slotPub x) res ev

def execKeyQuery (ctx qid : Nat) (ev : List LineEv) (s : State) : Out := ringCmd ctx qid 0x3C (exeKeyQuery ev) s

/-- KEY_ID of a slot (Table 16-5). -/
def keyId (x : Slot) : List Byte := if x.ktype = 3 then sha384 ([4] ++ slotPub x) else hmac384 x.key (ascii "UR-KID")

/-- The key attestation statement without its signature (Table 16-5). -/
def statement (s : State) (c k ref : Nat) (nonce : List Byte) : List Byte :=
  let x := slotAt s k
  leBytes 4 0x5454414B ++ leBytes 2 1 ++ leBytes 1 0 ++ leBytes 1 x.ktype ++ leBytes 2 (if isDeviceKey k then 0xFFFF else c)
    ++ leBytes 2 ref ++ leBytes 4 (slotAttr s k) ++ leBytes 4 x.kgen.toNat ++ leBytes 1 (lcState s) ++ List.replicate 11 0
    ++ nonce ++ keyId x ++ deviceId s ++ devMeas s ++ (if x.ktype = 3 then slotPub x else List.replicate 96 0)

/-- KEY_ATTEST with its input read: MODE ATTEST or SIGN (R391). -/
def attestGo (s : State) (r : CmdRef) (v k : Nat) (inp : List Byte) (ev : List LineEv) : State :=
  let c := eCtx v
  let out := pay v 0x30 63 0
  if pay v 0x22 0 0 = 1 then
    payWrite (drawn s) r c 0 out (ecdsaSign (beVal (slotAt s k).key) (rand s 384) inp) 0 ev
  else
    let b := statement s c k (pay v 0x20 15 0) inp
    let p := akSign s b
    payWrite p.1 r c 0 out (b ++ p.2) 0 ev

/-- KEY_ATTEST. -/
def exeKeyAttest (ev : List LineEv) (s : State) (r : CmdRef) (v : Nat) : State :=
  let c := eCtx v
  let sign : Bool := pay v 0x22 0 0 = 1
  let n := if sign then 96 else 400
  match slotRef c (pay v 0x20 15 0) with
  | none => finishCmd s r stInvalid
  | some k =>
    let x := slotAt s k
    if (if isDeviceKey k then !(isAdminRing s r) else c ≠ r.ctx) then finishCmd s r stDenied
    else if x.ktype = 0 || s.ks.lc.pend then finishCmd s r stIllegal
    else if sign && !(bitOf x.attr 2) then finishCmd s r stDenied
    else if !sign && !(akReady s) then finishCmd s r stIllegal
    else if s.ks.rngFail then finishCmd s r stBusy
    else if !(payOk 0 (pay v 0x30 63 0) n) then finishCmd s r stInvalid
    else if spanWaits s io0Page c (pay v 0x30 63 0) n true ev then s
    else payRead s r c 0 (pay v 0x28 63 0) (if sign then 48 else 32) ev (fun s inp => attestGo s r v k inp ev)

def execKeyAttest (ctx qid : Nat) (ev : List LineEv) (s : State) : Out := ringCmd ctx qid 0x3D (exeKeyAttest ev) s

/-- The context that a report of a ring or session covers: none on an admin ring. -/
def reportScope (s : State) (r : CmdRef) (c : Nat) : Option Nat := if isAdminRing s r then none else some c

/-- MEAS_REPORT (R399). -/
def exeMeasReport (ev : List LineEv) (s : State) (r : CmdRef) (v : Nat) : State :=
  let c := eCtx v
  let out := pay v 0x30 63 0
  match attestRefusal s with
  | some st => finishCmd s r st
  | none =>
    payRead s r c 0 (pay v 0x28 63 0) 32 ev (fun s nonce =>
      let n := (reportBody s (reportScope s r c) nonce).length + 96
      if pay v 0x38 63 0 < n || !(payOk 0 out n) then finishCmd s r stInvalid
      else if spanWaits s io0Page c out n true ev then s
      else
        let p := report s (reportScope s r c) nonce
        payWrite p.1 r c 0 out p.2 n ev)

def execMeasReport (ctx qid : Nat) (ev : List LineEv) (s : State) : Out := ringCmd ctx qid 0x3E (exeMeasReport ev) s

/-! ### Mailbox messages (R401 to R403, Table 16-11) -/

/-- Who sends a mailbox message: a context on its ring, or a PF's admin context over its DOE mailbox. -/
structure MbFrom where
  ctx : Nat
  doe : Option Nat
  deriving DecidableEq, Repr

def mbMsg (msg sess : Nat) (body : List Byte) : List Byte :=
  leBytes 1 msg ++ [0] ++ leBytes 2 body.length ++ leBytes 4 sess ++ body

def mbError (s : State) (st : Nat) : State × List Byte := (s, mbMsg 15 0 (leBytes 1 st))

def chainBytes (s : State) : List Byte :=
  Config.certChain (beVal (slotPub (slotAt s (deviceSlot 8)))) (beVal (slotPub (akSlot s)))

/-- GET_INFO. -/
def mbGetInfo (s : State) : State × List Byte := (s, mbMsg 1 0 ([1] ++ deviceId s ++ chainBytes s))

/-- The sessions of a context after room for one more is made; none when there is no room (R403). -/
def sessionRoom (s : State) (c : Nat) : Option State :=
  let mine := s.ks.sessions.filter (fun x => !x.spdm && x.ctx = c)
  let s1 := if mine.length < 2 then some s
    else match mine.find? (fun x => !x.active) with
      | some old => some (sessionsDrop s (fun x => x.id = old.id))
      | none => none
  match s1 with
  | none => none
  | some t => if (t.ks.sessions.filter (fun x => !x.spdm)).length < 1024 then some t else none

def sessionKey (prk label th : List Byte) (n : Nat) : List Byte := hkdfExpand prk (label ++ th) n

/-- The response to OPEN without SIG, in a session of number sid. -/
def openBody (s : State) (f : MbFrom) (sid : Nat) (qd nd : List Byte) : List Byte :=
  leBytes 4 sid ++ leBytes 2 f.ctx ++ ([4] ++ qd) ++ nd ++ devMeas s

/-- OPEN (R402): the device draws dD and ND and signs TH with the AK. -/
def mbOpenGo (s : State) (f : MbFrom) (sid : Nat) (req : List Byte) : State × List Byte :=
  let qr := ((req.drop 8).take 97)
  let nr := (req.drop 105).take 32
  match attestRefusal s with
  | some st => mbError s st
  | none => match sessionRoom s f.ctx with
    | none => mbError s stNoRes
    | some s0 =>
      let dD := beVal (scalarOf (rand s0 448))
      let s1 := drawn s0
      let nd := randBytes s1 32
      let s2 := drawn s1
      match ecdh dD (qr.drop 1) with
      | none => mbError s stInvalid
      | some z =>
        let body := openBody s2 f sid (ecPublic dD) nd
        let th := sha384 (req ++ (mbMsg 2 sid (body ++ List.replicate 96 0)).take (8 + body.length))
        let prk := hkdfExtract (nr ++ nd) z
        let x : Session := { id := sid, ctx := f.ctx, doe := f.doe, th := th,
                             kfreq := sessionKey prk (ascii "UR-S fin-req") th 48,
                             kfrsp := sessionKey prk (ascii "UR-S fin-rsp") th 48,
                             kimp := sessionKey prk (ascii "UR-S import") th 32 }
        let s3 := drawn s2
        ({ s3 with ks := { s3.ks with sessions := s3.ks.sessions ++ [x], attestC := satInc s3.ks.attestC } },
          mbMsg 2 sid (body ++ ecdsaSign (beVal (akSlot s2).key) (rand s2 384) th))

/-- A session of the sender. -/
def mbSession (s : State) (f : MbFrom) (id : Nat) : Option Session :=
  (sessionAt s id).bind (fun x => if !x.spdm && x.ctx = f.ctx && x.doe = f.doe then some x else none)

/-- FINISH (R402): VERIFY_REQ makes the session ACTIVE, or closes it. -/
def mbFinishGo (s : State) (f : MbFrom) (req : List Byte) : State × List Byte :=
  let id := leVal ((req.drop 4).take 4)
  let vr := req.drop 8
  match mbSession s f id with
  | none => mbError s stSession
  | some x =>
    if x.active then mbError s stSession
    else if hmac384 x.kfreq x.th = vr then
      (sessionUpd s id (fun y => { y with active := true }), mbMsg 3 id (hmac384 x.kfrsp (x.th ++ vr)))
    else mbError (sessionsDrop s (fun y => y.id = id)) stSession

/-- REPORT: the measurement report for the session's context. -/
def mbReportGo (s : State) (f : MbFrom) (req : List Byte) : State × List Byte :=
  let id := leVal ((req.drop 4).take 4)
  match mbSession s f id with
  | none => mbError s stSession
  | some x =>
    if !x.active then mbError s stSession
    else match attestRefusal s with
      | some st => mbError s st
      | none =>
        let p := report s (if isAdminCtx s.hw x.ctx then none else some x.ctx) (req.drop 8)
        (p.1, mbMsg 4 id p.2)

/-- CLOSE (R403). -/
def mbCloseGo (s : State) (f : MbFrom) (req : List Byte) : State × List Byte :=
  let id := leVal ((req.drop 4).take 4)
  match mbSession s f id with
  | none => mbError s stSession
  | some _ => (sessionsDrop s (fun y => y.id = id), mbMsg 5 id [])

/-- The point QR of an OPEN is uncompressed and on the curve. -/
def openPointOk (req : List Byte) : Bool :=
  (req.drop 8).headD 0 = 4 && (pubPoint ((req.drop 9).take 96)).isSome

/-- A message is well formed: its header, the body length it states, and the body its MSG takes (R401). -/
def mbFormOk (req : List Byte) : Bool :=
  let n := req.length - 8
  8 ≤ req.length && req.getD 1 0 = 0 && leVal ((req.drop 2).take 2) = n &&
    (match (req.headD 0).toNat with
      | 1 => n = 0
      | 2 => n = 129 && openPointOk req
      | 3 => n = 48
      | 4 => n = 32
      | 5 => n = 0
      | _ => false)

/-- The response to a mailbox message; `sid` is the number that the device gives a session it opens. -/
def mbAnswer (s : State) (f : MbFrom) (sid : Nat) (req : List Byte) : State × List Byte :=
  if !(mbFormOk req) then mbError s stInvalid
  else match (req.headD 0).toNat with
    | 1 => mbGetInfo s
    | 2 => mbOpenGo s f sid req
    | 3 => mbFinishGo s f req
    | 4 => mbReportGo s f req
    | _ => mbCloseGo s f req

/-- A session number that is free: the device draws no other. -/
def sidFree (s : State) (sid : Nat) : Bool := sid < 65536 && (sessionAt s sid).isNone

/-- ATT_MSG with its request read; a response beyond the capacity is not given and has no effect. -/
def attMsgGo (s : State) (r : CmdRef) (v sid : Nat) (req : List Byte) (ev : List LineEv) : State :=
  let sp := pay v 0x20 1 0
  let out := pay v 0x30 63 0
  let p := mbAnswer s { ctx := r.ctx, doe := none } sid req
  let n := p.2.length
  if pay v 0x38 63 0 < n || !(payOk sp out n) then finishCmd s r stInvalid
  else if sp = 0 && spanWaits s io0Page (eCtx v) out n true ev then s
  else payWrite p.1 r (eCtx v) sp out p.2 n ev

/-- ATT_MSG. -/
def exeAttMsg (sid : Nat) (ev : List LineEv) (s : State) (r : CmdRef) (v : Nat) : State :=
  if !(sidFree s sid) then s
  else payRead s r (eCtx v) (pay v 0x20 1 0) (pay v 0x28 63 0) (pay v 0x24 31 0) ev (fun s req => attMsgGo s r v sid req ev)

def execAttMsg (ctx qid sid : Nat) (ev : List LineEv) (s : State) : Out := ringCmd ctx qid 0x3F (exeAttMsg sid ev) s

/-- A mailbox data object over a PF's DOE mailbox, answered there. -/
def mbDoe (port : Nat) (msg : Nat → Bool) (sid : Nat) (req : List Byte) (s : State) : Out :=
  if !(portPresent s port) || !s.pw.on || !(msg (req.headD 0).toNat) || !(sidFree s sid) then .next s
  else
    let p := mbAnswer s { ctx := adminCtxOf port, doe := some port } sid req
    .next { p.1 with ks := { p.1.ks with doe := mapSet p.1.ks.doe port (.object p.2) } }

/-- A number that no session holds, for messages that open none. -/
def anySid (s : State) : Nat := ((List.range 2048).find? (fun i => (sessionAt s i).isNone)).getD 2048

/-- GET_INFO; a message of no known MSG is answered here too. -/
def execGetInfo (port : Nat) (req : List Byte) (s : State) : Out := mbDoe port (fun m => m = 1 || m = 0 || 5 < m) (anySid s) req s
def execMbOpen (port sid : Nat) (req : List Byte) (s : State) : Out := mbDoe port (fun m => m = 2) sid req s
def execMbFinish (port : Nat) (req : List Byte) (s : State) : Out := mbDoe port (fun m => m = 3) (anySid s) req s
def execMbReport (port : Nat) (req : List Byte) (s : State) : Out := mbDoe port (fun m => m = 4) (anySid s) req s
def execMbClose (port : Nat) (req : List Byte) (s : State) : Out := mbDoe port (fun m => m = 5) (anySid s) req s

end Sys2Proof.Machine
end

