-- ==== Sys2Proof/Machine/SpdmCmds.lean ====
section
/-! DEFINITION. The SPDM responder of a PF's DOE mailbox (spec 16, R400; R402, R403), at the level at which R400 gives it: which
requests are served when, the content that R400 names, and the sessions. -/
namespace Sys2Proof.Machine
open Sys2Proof

/-- The response of a PF's responder. -/
def doeAnswer (s : State) (port : Nat) (a : DoeRsp) : State :=
  { s with ks := { s.ks with doe := mapSet s.ks.doe port a } }

/-- ERROR codes of DSP0274. -/
abbrev spdmInvalid : Nat := 1
abbrev spdmBusy : Nat := 3
abbrev spdmUnexpected : Nat := 4
abbrev spdmDecrypt : Nat := 6
abbrev spdmUnsupported : Nat := 7
abbrev spdmSessions : Nat := 10

def spdmError (s : State) (port code : Nat) : State := doeAnswer s port (.error code)

def spdmStage (s : State) (port : Nat) : Nat := mapGet 0 s.ks.spdmCon port
def spdmTo (s : State) (port n : Nat) : State := { s with ks := { s.ks with spdmCon := mapSet s.ks.spdmCon port n } }

/-- A request served once the connection has come far enough. -/
def spdmReq (port stage : Nat) (s : State) (go : State → State) : Out :=
  if !(portPresent s port) || !s.pw.on then .next s
  else if spdmStage s port < stage then .next (spdmError s port spdmUnexpected)
  else .next (go s)

/-- GET_VERSION: version 1.2 only; the connection starts again. -/
def execGetVersion (port : Nat) (s : State) : Out :=
  spdmReq port 0 s (fun s => doeAnswer (spdmTo s port 1) port (.version 2 1))

/-- GET_CAPABILITIES. -/
def execGetCapabilities (port : Nat) (s : State) : Out :=
  spdmReq port 1 s (fun s => doeAnswer (spdmTo s port 2) port (.capabilities true true true true true true true true true))

/-- NEGOTIATE_ALGORITHMS by a requester that offers the extended algorithm of R400. -/
def execNegotiateAlgorithms (port : Nat) (common : Bool) (s : State) : Out :=
  spdmReq port 2 s (fun s =>
    if common then doeAnswer (spdmTo s port 3) port (.algorithms true true true) else spdmError s port spdmUnsupported)

/-- GET_DIGESTS: SHA-384 of the chain of slot 0, the only slot provisioned. -/
def execGetDigests (port : Nat) (s : State) : Out :=
  spdmReq port 3 s (fun s => doeAnswer s port (.digests (sha384 (chainBytes s))))

/-- GET_CERTIFICATE: a portion of the chain. -/
def execGetCertificate (port off len : Nat) (s : State) : Out :=
  spdmReq port 3 s (fun s =>
    let p := ((chainBytes s).drop off).take len
    doeAnswer s port (.certificate p ((chainBytes s).length - off - p.length)))

/-- CHALLENGE: signed by the AK. -/
def execChallenge (port : Nat) (nonce : List Byte) (s : State) : Out :=
  spdmReq port 3 s (fun s =>
    match attestRefusal s with
    | some st => spdmError s port (if st = stBusy then spdmBusy else spdmUnexpected)
    | none =>
      let nd := randBytes s 32
      let p := akSign (drawn s) (sha384 (chainBytes s) ++ nonce ++ nd)
      doeAnswer p.1 port (.challengeAuth (sha384 (chainBytes s)) nd p.2))

/-- Value type of a measurement block (R400). -/
def measType (kind : Nat) : Nat := if kind = 1 then 0 else if kind ≤ 4 then 1 else if kind = 5 then 3 else 2

def entryKind (e : List Byte) : Nat := (e.headD 0).toNat
def entryDigest (e : List Byte) : List Byte := (e.drop 8).take 48

/-- The block of a measurement index: k for the device entry of kind k, 0x10 + m for entry m of the requester's context. -/
def measBlock (s : State) (port : Nat) (vf : Option Nat) (index : Nat) : Option (Nat × Nat × List Byte) :=
  let e := if 1 ≤ index && index ≤ 6 then (deviceEntries s).find? (fun e => entryKind e = index)
    else if index < 16 then none
    else match s.rg.ctxs.find? (fun c => c.2.st ≠ .free && c.2.port = port && vf.isSome && c.2.vf = vf) with
      | none => none
      | some c => (ctxEntries s c.1)[index - 16]?
  e.map (fun e => (index, measType (entryKind e), entryDigest e))

/-- GET_MEASUREMENTS. -/
def execGetMeasurements (port : Nat) (vf : Option Nat) (index : Nat) (sign : Bool) (s : State) : Out :=
  spdmReq port 3 s (fun s =>
    match measBlock s port vf index with
    | none => spdmError s port spdmInvalid
    | some b =>
      if !sign then doeAnswer s port (.measurements [b] [])
      else match attestRefusal s with
        | some st => spdmError s port (if st = stBusy then spdmBusy else spdmUnexpected)
        | none =>
          let p := akSign s (leBytes 1 b.1 ++ leBytes 1 b.2.1 ++ b.2.2)
          doeAnswer p.1 port (.measurements [b] p.2))

def spdmSession (s : State) (port sid : Nat) : Option Session :=
  (sessionAt s sid).bind (fun x => if x.spdm && x.doe = some port then some x else none)

/-- KEY_EXCHANGE: at most four sessions of a PF; the export master secret is that of the SPDM key schedule, whose transcript the
block does not hold: a free value. -/
def execKeyExchange (port sid : Nat) (pub : List Byte) (s : State) : Out :=
  if !(sidFree s sid) then .next s
  else spdmReq port 3 s (fun s =>
    if (pubPoint pub).isNone then spdmError s port spdmInvalid
    else if 4 ≤ (s.ks.sessions.filter (fun x => x.spdm && x.doe = some port)).length then spdmError s port spdmSessions
    else match attestRefusal s with
      | some st => spdmError s port (if st = stBusy then spdmBusy else spdmUnexpected)
      | none =>
        let ems := randBytes s 48
        let x : Session := { id := sid, spdm := true, ctx := adminCtxOf port, doe := some port,
                             kimp := hkdfExpand ems (ascii "UR-S import") 32 }
        let p := akSign (drawn s) ems
        doeAnswer { p.1 with ks := { p.1.ks with sessions := p.1.ks.sessions ++ [x] } } port (.keyExchange sid p.2))

/-- A request inside a session of the PF. -/
def spdmIn (port sid : Nat) (s : State) (go : State → Session → State) : Out :=
  if !(portPresent s port) then .next s
  else match spdmSession s port sid with
    | none => .next (spdmError s port spdmUnexpected)
    | some x => .next (go s x)

/-- FINISH of SPDM: the requester's proof verifies, or the session closes. -/
def execSpdmFinish (port sid : Nat) (verifies : Bool) (s : State) : Out :=
  spdmIn port sid s (fun s x =>
    if x.active then spdmError s port spdmUnexpected
    else if verifies then doeAnswer (sessionUpd s sid (fun y => { y with active := true })) port (.finish sid)
    else spdmError (sessionsDrop s (fun y => y.id = sid)) port spdmDecrypt)

/-- A request of an established session. -/
def spdmActive (port sid : Nat) (s : State) (go : State → State) : Out :=
  spdmIn port sid s (fun s x => if x.active then go s else spdmError s port spdmUnexpected)

def execHeartbeat (port sid : Nat) (s : State) : Out :=
  spdmActive port sid s (fun s => doeAnswer s port (.heartbeat sid))

/-- KEY_UPDATE: the session's data keys move on; K_IMP, drawn from the export secret, stays. -/
def execKeyUpdate (port sid : Nat) (s : State) : Out :=
  spdmActive port sid s (fun s =>
    doeAnswer (sessionUpd s sid (fun y => { y with epoch := y.epoch + 1 })) port (.keyUpdate sid))

/-- END_SESSION (R403); IDE streams keyed over the session go on. -/
def execEndSession (port sid : Nat) (s : State) : Out :=
  spdmActive port sid s (fun s => doeAnswer (sessionsDrop s (fun y => y.id = sid)) port (.ended sid))

/-- VENDOR_DEFINED_REQUEST: IDE key programming and TDISP run in a session by rows of their own (R317, R319); any other request
is answered with UnsupportedRequest. -/
def execVendorDefinedRequest (port sid : Nat) (_body : List Byte) (s : State) : Out :=
  spdmActive port sid s (fun s => spdmError s port spdmUnsupported)

end Sys2Proof.Machine
end

