-- ==== Sys2Proof/Machine/LcCmds.lean ====
section
/-! DEFINITION. The life-cycle block and the entropy source (spec 16: R384, R392 to R398, R405, R406). -/
namespace Sys2Proof.Machine
open Sys2Proof

/-- The life-cycle page as a unit. -/
def lcUnit : UnitId := .service 1

def lcSet (s : State) (x : LcSt) : State := { s with ks := { s.ks with lc := x } }

/-- Segment patterns (Table 16-7). -/
def segPattern (k : Nat) : W64 :=
  match k with
  | 1 => 0x5A5A5A5AA5A5A5A5
  | 2 => 0x3C3CC3C33C3CC3C3
  | 3 => 0x6996966969969669
  | 4 => 0x0FF0F00F0FF0F00F
  | _ => 0xFFFFFFFFFFFFFFFF

/-- The state that a full segment means. -/
def segState (k : Nat) : Nat := match k with | 1 => 1 | 2 => 3 | 3 => 4 | 4 => 5 | 5 => 6 | _ => 0

def seg (x : LcSt) (k : Nat) : W64 := mapGet 0 x.segs k
def segFull (x : LcSt) (k : Nat) : Bool := seg x k = segPattern k
def segCorrupt (x : LcSt) (k : Nat) : Bool := seg x k &&& ~~~(segPattern k) ≠ 0
def segPartial (x : LcSt) (k : Nat) : Bool := !(segCorrupt x k) && !(segFull x k) && seg x k ≠ 0

def allSegs : List Nat := [1, 2, 3, 4, 5]

/-- Legal sets of full segments, S5 apart (R393). -/
def setLegal (full : List Nat) : Bool :=
  [[], [1], [1, 2], [1, 2, 3], [1, 2, 4], [1, 2, 3, 4]].contains (full.filter (fun k => k ≠ 5))

/-- R393: state, TARGET and CORRUPT from the segments. -/
def lcDecide (x : LcSt) : Nat × Nat × Bool :=
  let full := allSegs.filter (segFull x)
  let part := allSegs.filter (segPartial x)
  if allSegs.any (segCorrupt x) then (6, 0, true)
  else match part with
    | [k] => (7, segState k, false)
    | _ =>
      if !(setLegal full) then (6, 0, true)
      else (segState (full.foldl max 0), 0, false)

def setBit32 (v : W32) (i : Nat) : W32 := v ||| (1#32 <<< i)

/-- What a cold reset leaves of the life-cycle block: the OTP, with the consumption bit of a full segment programmed at boot
(R398), the state it means, and everything else at reset. -/
def lcCold (x : LcSt) : LcSt :=
  let d := lcDecide x
  let c := (allSegs.filter (segFull x)).foldl (fun c k => setBit32 c (k - 1)) x.consume
  { segs := x.segs, consume := c, digests := x.digests, state := d.1, target := d.2.1, corrupt := d.2.2 }

/-- A transition of Table 16-8 that programs a segment: the segment and the token. -/
def transitionOf (src dst : Nat) : Option (Nat × Nat) :=
  match src, dst with
  | 0, 1 => some (1, 0)
  | 1, 3 => some (2, 1)
  | 3, 4 => some (3, 3)
  | 3, 5 | 4, 5 => some (4, 4)
  | 1, 6 | 3, 6 | 4, 6 | 5, 6 => some (5, 6)
  | _, _ => none

/-- The state whose transitions are accepted: TEST_UNLOCK takes those of its origin. -/
def lcFrom (x : LcSt) : Nat := if x.state = 2 then x.origin else x.state

/-- Consumption bits and token of an unlock from a state. -/
def unlockOf (st : Nat) : Option (List Nat × Nat) :=
  match st with
  | 1 => some ([8, 9, 10, 11, 12, 13, 14], 2)
  | 5 => some ([16, 17, 18, 19], 5)
  | _ => none

def unlockFree (x : LcSt) (bits : List Nat) : Option Nat := bits.find? (fun b => !(x.consume.getLsbD b))

/-- A tenant slot holds a key, or a partition is bound. -/
def lcHeld (s : State) : Bool :=
  s.ks.slots.any (fun e => !(isDeviceKey e.1) && e.2.ktype ≠ 0) || !(s.tl.parts.isEmpty)

def tokenBytes (x : LcSt) : List Byte := (List.range 8).flatMap (fun k => leBytes 4 (mapGet 0 x.token k).toNat)

/-- The digest stored for a transition: the one held, else the device's own, programmed in RAW (R394). -/
def tokenDigest (x : LcSt) (d : Nat) : List Byte := (mapFind x.digests d).getD (beBytes 48 (Config.tokenDigest d % 2 ^ 384))

def tokenOk (x : LcSt) (d : Nat) : Bool := tokenDigest x d = sha384 (tokenBytes x)

/-- A request ends with a status in RESULT; the token registers clear, and LC_DONE is set. -/
def lcEnd (s : State) (st : Nat) : State :=
  unitEvt (lcSet s { s.ks.lc with result := st, token := [] }) lcUnit (2 ^ 16)

/-- A request that is refused while another runs leaves that one's token. -/
def lcBusyRefuse (s : State) : State := lcSet s { s.ks.lc with result := stBusy }

/-- The token of a request is checked: `go` on success. -/
def lcToken (s : State) (d : Nat) (go : State → State) : State :=
  let x := s.ks.lc
  if 8 ≤ x.fails then lcEnd s stToken
  else if tokenOk x d then go s
  else lcEnd (lcSet s { x with fails := x.fails + 1 }) stToken

/-- What a verified token does first: every LCB slot and d.8 to d.10 are destroyed and the sessions close (R396, R397, R403). -/
def lcDestroy (s : State) : State :=
  let ks := (s.ks.slots.filter (fun e => e.2.ktype ≠ 0 && (e.2.lcb || (4104 ≤ e.1 && e.1 ≤ 4106)))).map Prod.fst
  sessionsDrop (ks.foldl slotClear s) (fun _ => true)

def lockRoot (x : LcSt) (r : Option Nat) : LcSt :=
  match r with
  | some k => { x with locked := if x.locked.contains k then x.locked else x.locked ++ [k] }
  | none => x

/-- Bits of a pattern still to program, ascending. -/
def bitsLeft (x : LcSt) (k : Nat) : List Nat :=
  (List.range 64).filter (fun i => (segPattern k).getLsbD i && !((seg x k).getLsbD i))

/-- Programs the next n steps of a request: pattern bits, then the consumption bit, with which it ends (R396). -/
def lcProgram (s : State) (n : Nat) : State :=
  let x := s.ks.lc
  match x.run with
  | none => s
  | some r =>
    let now := r.bits.take n
    let v := now.foldl (fun v i => v ||| (1#64 <<< i)) (seg x r.seg)
    let x1 := { x with segs := mapSet x.segs r.seg v }
    if n ≤ r.bits.length then lcSet s { x1 with run := some { r with bits := r.bits.drop n } }
    else lcEnd (lcSet s { x1 with consume := setBit32 x.consume (r.seg - 1), run := none, pend := true }) stOk

/-- TRANSITION (R394 to R396). -/
def lcTransitionGo (s : State) (target bits : Nat) : State :=
  let x := s.ks.lc
  match transitionOf (lcFrom x) target with
  | none => lcEnd s stIllegal
  | some (k, d) =>
    if x.pend || lcHeld s then lcEnd s stIllegal
    else if s.pw.warn || s.fw.phase ≠ 0 then lcEnd s stBusy
    else lcToken s d (fun s =>
      let root := curRoot s
      let s1 := lcDestroy s
      let x1 := lockRoot s1.ks.lc root
      lcProgram (lcSet s1 { x1 with run := some { seg := k, bits := bitsLeft x1 k } }) bits)

/-- UNLOCK (R397). -/
def lcUnlockGo (s : State) : State :=
  let x := s.ks.lc
  match unlockOf x.state with
  | none => lcEnd s stIllegal
  | some (bs, d) =>
    if x.pend || lcHeld s then lcEnd s stIllegal
    else if s.pw.warn || s.fw.phase ≠ 0 then lcEnd s stBusy
    else match unlockFree x bs with
      | none => lcEnd s stUnlocks
      | some b => lcToken s d (fun s =>
        let s1 := lcDestroy s
        let y := s1.ks.lc
        let y1 := if y.state = 5 then lockRoot y (some 3) else y
        lcEnd (deriveDevice (lcSet s1 { y1 with consume := setBit32 y.consume b, origin := y.state, fromRma := y.state = 5,
                                                state := 2 })) stOk)

/-- COMPLETE (R398). -/
def lcCompleteGo (s : State) (bits : Nat) : State :=
  let x := s.ks.lc
  match allSegs.find? (segPartial x) with
  | none => lcEnd s stIllegal
  | some k =>
    if x.state ≠ 7 || x.pend then lcEnd s stIllegal
    else if s.pw.warn then lcEnd s stBusy
    else lcProgram (lcSet s { x with run := some { seg := k, bits := bitsLeft x k } }) bits

/-- A write of LC_CMD with GO: refused with RETRY_UNIT_BUSY while a request runs; TRANSITION_INCOMPLETE takes only COMPLETE
(R395, R398). -/
def lcRequest (s : State) (op target bits : Nat) : State :=
  if s.ks.lc.run.isSome then lcBusyRefuse s
  else if s.ks.lc.state = 7 && op ≠ 3 then lcEnd s stIllegal
  else match op with
    | 1 => lcTransitionGo s target bits
    | 2 => lcUnlockGo s
    | 3 => lcCompleteGo s bits
    | _ => s

/-- The TAP reaches LC_CMD in every state but SCRAP (Table 19-5), PF0 through its BAR0 (R394). -/
def lcReach (s : State) (tap : Bool) : Bool := if tap then lcState s ≠ 6 else bar0Unit s .pf0 lcUnit

def execLcTransition (tap : Bool) (target : Nat) (cont : Bool) (bits : Nat) (s : State) : Out :=
  if !(lcReach s tap) then .next s
  else .next (if cont then lcProgram s bits else lcRequest s 1 target bits)

def execLcUnlock (tap : Bool) (s : State) : Out := .next (if lcReach s tap then lcRequest s 2 0 0 else s)

def execLcComplete (tap cont : Bool) (bits : Nat) (s : State) : Out :=
  if !(lcReach s tap) then .next s
  else .next (if cont then lcProgram s bits else lcRequest s 3 0 bits)

/-! ### The entropy source -/

/-- RNG_FAIL. -/
def execRngFail (s : State) : Out := .next (unitEvt { s with ks := { s.ks with rngFail := true } } io0 (2 ^ 27))

/-- ENTROPY_SOURCE_PASS. -/
def execEntropySourcePass (s : State) : Out := .next { s with ks := { s.ks with rngFail := false } }

end Sys2Proof.Machine
end

