-- ==== Sys2Proof/Machine/SealCmds.lean ====
section
/-! DEFINITION. Sealed images: weight shards and checkpoints (spec 15: R365 to R376). -/
namespace Sys2Proof.Machine
open Sys2Proof

/-! ### Images (R365, R366) -/

def chunkSize : Nat := 65536
def chunkCount (n : Nat) : Nat := (n + 65535) / 65536
/-- DATA_OFF of an image of n chunks. -/
def dataOff (n : Nat) : Nat := 0x10000 + 65536 * ((16 * n + 65535) / 65536)

/-- A section: LENGTH, TAG, SKIND, FIRST_CHUNK. -/
structure Sect where
  len   : Nat
  tag   : Nat
  kind  : Nat
  first : Nat
  deriving DecidableEq, Repr

def sectBytes (x : Sect) : List Byte :=
  leBytes 8 x.len ++ leBytes 4 (x.tag % 4096 + (x.kind % 16) <<< 12) ++ leBytes 4 0 ++ leBytes 4 x.first ++ List.replicate 12 0

/-- An entry as bytes hold it; none where a reserved bit is set. -/
def sectOf (b : List Byte) : Option Sect :=
  let v := leVal (b.take 32)
  let x : Sect := { len := bitsOf v 63 0, tag := bitsOf v 75 64, kind := bitsOf v 79 76, first := bitsOf v 159 128 }
  if bitsOf v 127 80 = 0 && bitsOf v 255 160 = 0 then some x else none

def sectsOf (n : Nat) (b : List Byte) : Option (List Sect) :=
  (List.range n).foldr (fun i acc => match acc, sectOf (b.drop (32 * i)) with
    | some l, some x => some (x :: l)
    | _, _ => none) (some [])

/-- FIRST_CHUNK of sections of these lengths, in order. -/
def withFirst (xs : List Sect) : List Sect :=
  (xs.foldl (fun (a : List Sect × Nat) x => (a.1 ++ [{ x with first := a.2 }], a.2 + chunkCount x.len)) ([], 0)).1

def totalLen (xs : List Sect) : Nat := xs.foldl (fun n x => n + x.len) 0
def totalChunks (xs : List Sect) : Nat := xs.foldl (fun n x => n + chunkCount x.len) 0

/-- K_SEAL. -/
def sealKey (key : List Byte) (kind : Nat) (nonce : List Byte) : List Byte :=
  kdf108 key (ascii "UR-SEAL") (leBytes 1 kind ++ nonce) 256

def chunkIv (nonce : List Byte) (j : Nat) : List Byte := nonce.take 8 ++ leBytes 4 j

/-- Header fields as read. -/
structure SealHdr where
  kind   : Nat
  flags  : Nat
  numver : Nat
  nsect  : Nat
  log2n  : Nat
  nonce  : List Byte
  step   : Nat
  nchunk : Nat
  digest : List Byte
  ok     : Bool
  deriving DecidableEq, Repr

/-- Table 15-4 over the 512 header bytes and the section table. -/
def sealHdr (h : List Byte) (kind : Nat) (xs : Option (List Sect)) : SealHdr :=
  let at' (o n : Nat) : Nat := leVal ((h.drop o).take n)
  let nchunk := at' 0x30 4
  let fits : Bool := match xs with
    | none => false
    | some l => l.all (fun x => x.len % 64 = 0) && at' 0x28 8 = totalLen l && totalLen l < 2 ^ 40 && nchunk = totalChunks l
        && withFirst l = l && nchunk < 2 ^ 32 - 1 && at' 0x38 8 = dataOff nchunk
        && (if kind = 1 then l.length = 1 && l.all (fun x => x.kind = 0)
            else 2 ≤ l.length && l.length ≤ 1024 && (l.headD { len := 0, tag := 0, kind := 0, first := 0 }).kind = 1
              && (l.headD { len := 0, tag := 0, kind := 0, first := 0 }).len = 64
              && (l.drop 1).all (fun x => x.kind = 0 || x.kind = 2))
  { kind := at' 8 1, flags := at' 9 1, numver := at' 0xA 2, nsect := at' 0xC 2, log2n := at' 0xE 1,
    nonce := (h.drop 0x10).take 16, step := at' 0x20 8, nchunk := nchunk, digest := (h.drop 0x40).take 48,
    ok := at' 0 4 = 0x4C414553 && at' 4 2 = 512 && at' 6 2 = 1 && at' 8 1 = kind && at' 0xF 1 = 0 && at' 0x34 4 = 0
      && (h.drop 0x100).take 0xF0 = List.replicate 0xF0 0
      && (if kind = 1 then at' 9 1 = 0 && at' 0xA 2 = 0 && at' 0xE 1 = 0 && at' 0x20 8 = 0
          else at' 9 1 < 8 && at' 0xE 1 ≤ 9)
      && fits }

/-- HDR_TAG over the header and the section table (R366). -/
def hdrTag (key h table : List Byte) (nonce : List Byte) : List Byte :=
  gcmTag key (nonce.take 8 ++ leBytes 4 0xFFFFFFFF) (h.take 0x1F0 ++ table) []

/-! ### Reading an image -/

/-- Where an image is read from: device memory of a context, or the bytes that the host has answered. -/
inductive SealSrc where
  | dev (ctx addr : Nat)
  | host (bs : List Byte)
  deriving DecidableEq, Repr

/-- A read of n bytes at an offset of the image. -/
def srcRead (s : State) (src : SealSrc) (off n : Nat) (ev : List LineEv) : State × List Byte × Nat × Nat :=
  match src with
  | .dev c a => devFetch s c (a + off) n ev
  | .host bs => (s, ((bs.drop off) ++ List.replicate n 0).take n, stOk, 0)

def srcWaits (s : State) (src : SealSrc) (n : Nat) (ev : List LineEv) : Bool :=
  match src with
  | .dev c a => spanWaits s io0Page c a n false ev
  | .host _ => false

/-- What a step over an image leaves: the state, the plaintext so far, the status and DETAIL, and whether anything was
written. -/
structure SealRun where
  s      : State
  plain  : List Byte := []
  status : Nat := stOk
  det    : Nat := 0
  wrote  : Bool := false

/-- One chunk: read, verified under its tag, and given to `put` with its section and its offset there. -/
def chunkStep (src : SealSrc) (key hdr tags : List Byte) (h : SealHdr) (ev : List LineEv)
    (put : State → Sect → Nat → List Byte → State × Nat × Nat) (x : Sect) (r : SealRun) (i : Nat) : SealRun :=
  if r.status ≠ stOk then r
  else
    let j := x.first + i
    let n := min chunkSize (x.len - i * chunkSize)
    let d := srcRead r.s src (dataOff h.nchunk + chunkSize * j) n ev
    if d.2.2.1 ≠ stOk then { r with s := d.1, status := d.2.2.1, det := d.2.2.2 }
    else match gcmOpen key (chunkIv h.nonce j) (hdr.take 0x40) d.2.1 ((tags.drop (16 * j)).take 16) with
      | none => { r with s := d.1, status := stSealTag }
      | some pt =>
        let w := put d.1 x (i * chunkSize) pt
        { s := w.1, plain := r.plain ++ pt, status := w.2.1, det := w.2.2, wrote := true }

/-- Every chunk of every section in order, then the DIGEST. -/
def sealRun (src : SealSrc) (key hdr tags : List Byte) (h : SealHdr) (ev : List LineEv)
    (put : State → Sect → Nat → List Byte → State × Nat × Nat) (xs : List Sect) (s : State) : SealRun :=
  let r := xs.foldl (fun r x =>
    (List.range (chunkCount x.len)).foldl (fun r i => chunkStep src key hdr tags h ev put x r i) r) { s := s }
  if r.status = stOk && sha384 r.plain ≠ h.digest then { r with status := stSealDigest } else r

/-- Header, section table and tag array of an image, read in that order. -/
structure SealTop where
  s      : State
  hdr    : List Byte := []
  table  : List Byte := []
  tags   : List Byte := []
  status : Nat := stOk
  det    : Nat := 0

def sealTop (s : State) (src : SealSrc) (ev : List LineEv) : SealTop :=
  let a := srcRead s src 0 512 ev
  if a.2.2.1 ≠ stOk then { s := a.1, status := a.2.2.1, det := a.2.2.2 }
  else
    let ns := leVal ((a.2.1.drop 0xC).take 2)
    let b := srcRead a.1 src 512 (32 * ns) ev
    if b.2.2.1 ≠ stOk then { s := b.1, hdr := a.2.1, status := b.2.2.1, det := b.2.2.2 }
    else
      let nc := leVal ((a.2.1.drop 0x30).take 4)
      if (sealHdr a.2.1 (leVal ((a.2.1.drop 8).take 1)) (sectsOf ns b.2.1)).ok then
        let c := srcRead b.1 src 0x10000 (16 * nc) ev
        { s := c.1, hdr := a.2.1, table := b.2.1, tags := c.2.1, status := c.2.2.1, det := c.2.2.2 }
      else { s := b.1, hdr := a.2.1, table := b.2.1 }

/-- The size of the image that a header describes. -/
def imageSize (hdr : List Byte) : Nat :=
  dataOff (leVal ((hdr.drop 0x30).take 4)) + chunkSize * leVal ((hdr.drop 0x30).take 4)

/-- A HOST side of an image command: its reads are issued first and answered by the host; then it goes on with the bytes (R316,
R318). -/
def sealFrom (s : State) (r : CmdRef) (c : Nat) (isHost : Bool) (a : Nat) (host : HostRsp)
    (go : State → SealSrc → State) : State :=
  if !isHost then go s (.dev c a)
  else
    let busy := (cmdAt s r).any (fun k => k.st = .busy)
    match host with
    | .wait =>
      if busy then s
      else match hostRefusal s c a 512 false with
        | some st => finishCmd s r st
        | none => if upWaits s c then s else setJob s r .dma
    | .data bs =>
      if !busy then s
      else if !(inWindow s c a (imageSize bs) false) then finishCmd s r stDenied
      else go s (.host bs)
    | .error => if busy then finishCmd (hostErrCount s c) r stHostErr else s

/-! ### Shards (R368 to R372) -/

def shardKey (c id : Nat) : Nat := c * 64 + id
def shardAt (s : State) (k : Nat) : Option Shard := mapFind s.rg.shards k

/-- A write of a shard's plaintext: device memory, or a tile's scratchpad. -/
def shardPut (c : Nat) (scratch : Bool) (t dst : Nat) (ev : List LineEv) (s : State) (off : Nat) (bs : List Byte) :
    State × Nat × Nat :=
  if scratch then
    (tileSet s t (spWrite (tileAt s t) (atAddr (dst + off) bs)).1, stOk, 0)
  else devStore s c (byLine (atAddr (dst + off) bs)) ev

/-- Zero over a destination, line by line, whatever fails (R369, R375). -/
def zeroSpan (s : State) (c a n : Nat) (ev : List LineEv) : State :=
  (ctxWriteAt s io0Page c a (List.replicate n 0) ev).s

def shardZero (c : Nat) (scratch : Bool) (t dst n : Nat) (ev : List LineEv) (s : State) : State :=
  if scratch then tileSet s t (spWrite (tileAt s t) (atAddr dst (List.replicate n 0))).1 else zeroSpan s c dst n ev

/-- Pages that a FROZEN shard protects (R370). -/
def shardProt (c id dst n : Nat) : Prot :=
  { ctx := c, lo := dst / 65536 * 65536, hi := (dst + n + 65535) / 65536 * 65536, id := 2 ^ 20 + id }

/-- The shard is registered, VALID. -/
def shardRegister (s : State) (c id : Nat) (x : Shard) : State :=
  let k := shardKey c id
  let s1 := { s with rg := { s.rg with shards := mapSet s.rg.shards k x } }
  let s2 := if x.frozen then { s1 with mm := { s1.mm with prots := s1.mm.prots ++ [shardProt c id x.dst x.len] } } else s1
  if x.scratch then
    let t := tileAt s2 x.tile
    tileSet s2 x.tile { t with watch := t.watch ++ [(k, x.dst, x.dst + x.len)] }
  else s2

/-- SHARD_LOAD with its source at hand: the checks of R368 in order. -/
def shardLoadGo (s : State) (r : CmdRef) (v : Nat) (src : SealSrc) (ev : List LineEv) : State :=
  let c := eCtx v
  let scratch : Bool := pay v 0x20 2 2 = 1
  let t := pay v 0x20 18 10
  let dst := pay v 0x30 63 0
  let top := sealTop s src ev
  let xs := sectsOf (leVal ((top.hdr.drop 0xC).take 2)) top.table
  let h := sealHdr top.hdr 1 xs
  let key := sealKey (slotAt s (tenantSlot c 2)).key 1 h.nonce
  let n := (xs.map totalLen).getD 0
  if top.status ≠ stOk then finishDet top.s r top.status 0 top.det
  else if !h.ok || (scratch && spSize < dst + n) then finishCmd top.s r stInvalid
  else if hdrTag key top.hdr top.table h.nonce ≠ (top.hdr.drop 0x1F0).take 16 then finishCmd top.s r stSealTag
  else if srcWaits s src (imageSize top.hdr) ev || (!scratch && spanWaits s io0Page c dst n true ev) then s
  else
    let q := sealRun src key top.hdr top.tags h ev (fun s _ off bs => shardPut c scratch t dst ev s off bs) (xs.getD []) top.s
    if q.status = stOk then
      let x : Shard := { scratch := scratch, tile := t, dst := dst, len := n, frozen := pay v 0x20 3 3 = 1, digest := h.digest }
      finishRes (shardRegister q.s c (pay v 0x20 9 4) x) r stOk n
    else finishDet (if q.wrote then shardZero c scratch t dst n ev q.s else q.s) r q.status 0 q.det

/-- SHARD_LOAD. -/
def exeShardLoad (host : HostRsp) (ev : List LineEv) (s : State) (r : CmdRef) (v : Nat) : State :=
  let c := eCtx v
  let src := pay v 0x20 1 0
  let scratch : Bool := pay v 0x20 2 2 = 1
  let frozen : Bool := pay v 0x20 3 3 = 1
  let a := pay v 0x28 63 0
  let dst := pay v 0x30 63 0
  let slot := slotAt s (tenantSlot c 2)
  let part := partOf s (pay v 0x20 18 10)
  if 1 < src || a % 64 ≠ 0 || (frozen && (scratch || dst % 65536 ≠ 0)) || (!scratch && dst % 64 ≠ 0) then
    finishCmd s r stInvalid
  else if (shardAt s (shardKey c (pay v 0x20 9 4))).isSome then finishCmd s r stIllegal
  else if scratch && !(part.any (fun p => p.ctx = c && p.st = .bound)) then finishCmd s r stIllegal
  else if !(bitOf slot.attr 1) || slot.ktype = 0 then finishCmd s r stDenied
  else sealFrom s r c (src = 1) a host (fun s x => shardLoadGo s r v x ev)

def execShardLoad (ctx qid : Nat) (host : HostRsp) (ev : List LineEv) (s : State) : Out :=
  ringCmd ctx qid 0x32 (exeShardLoad host ev) s

/-- SHARD_FAILED (Table 15-9), and the measurement report marks the shard. -/
def shardFail (s : State) (c id : Nat) (x : Shard) (st : Nat) : State :=
  let s1 := { s with rg := { s.rg with shards := mapSet s.rg.shards (shardKey c id) { x with st := 1 } } }
  if shardSt s (shardKey c id) x ≠ 0 then s else postNamed s1 c { kind := 13, payload := c + id <<< 12 + st <<< 18 }

/-- A shard is re-read and re-hashed (R371): the state, the status and DETAIL. Other failing reads than those of lines mark nothing. -/
def shardHash (s : State) (c id : Nat) (x : Shard) (ev : List LineEv) : State × Nat × Nat :=
  let d := if x.scratch then
      ((s, (List.range x.len).map (fun i => spByte (tileAt s x.tile) (x.dst + i)), stOk, 0) : State × List Byte × Nat × Nat)
    else devFetch s c x.dst x.len ev
  if d.2.2.1 ≠ stOk then
    (if d.2.2.1 = stUncorr || d.2.2.1 = stIntegrity then shardFail d.1 c id x d.2.2.1 else d.1, d.2.2.1, d.2.2.2)
  else if sha384 d.2.1 ≠ x.digest then (shardFail d.1 c id x stSealDigest, stSealDigest, 0)
  else (d.1, stOk, 0)

/-- SHARD_CHECK. -/
def exeShardCheck (ev : List LineEv) (s : State) (r : CmdRef) (v : Nat) : State :=
  let c := eCtx v
  let id := pay v 0x20 5 0
  match shardAt s (shardKey c id) with
  | none => finishCmd s r stIllegal
  | some x =>
    if !x.scratch && spanWaits s io0Page c x.dst x.len false ev then s
    else
      let p := shardHash s c id x ev
      finishDet p.1 r p.2.1 0 p.2.2

def execShardCheck (ctx qid : Nat) (ev : List LineEv) (s : State) : Out := ringCmd ctx qid 0x33 (exeShardCheck ev) s

/-- SHARD_RELEASE (R372). -/
def exeShardRelease (s : State) (r : CmdRef) (v : Nat) : State :=
  let c := eCtx v
  let id := pay v 0x20 5 0
  match shardAt s (shardKey c id) with
  | none => finishCmd s r stIllegal
  | some x =>
    let k := shardKey c id
    let s1 := { s with
      rg := { s.rg with shards := mapDel s.rg.shards k }
      mm := { s.mm with prots := s.mm.prots.filter (fun p => !(p.ctx = c && p.id = 2 ^ 20 + id)) } }
    let t := tileAt s1 x.tile
    finishCmd (if x.scratch then tileSet s1 x.tile { t with watch := t.watch.filter (fun w => w.1 ≠ k) } else s1) r stOk

def execShardRelease (ctx qid : Nat) (s : State) : Out := ringCmd ctx qid 0x34 exeShardRelease s

/-- SHARD_PERIODIC_CHECK: the interval of a FROZEN shard has passed while SHARD_CFG.EN is 1. -/
def execShardPeriodicCheck (ctx id : Nat) (ev : List LineEv) (s : State) : Out :=
  match shardAt s (shardKey ctx id) with
  | none => .next s
  | some x =>
    if !x.frozen || !(s.rg.shardCfg.getLsbD 6) || spanWaits s io0Page ctx x.dst x.len false ev then .next s
    else .next (shardHash s ctx id x ev).1

/-! ### Checkpoints (R373 to R375) -/

/-- An entry of a section or destination list. -/
structure ListEnt where
  base  : Nat
  base2 : Nat
  len   : Nat
  tag   : Nat
  deriving DecidableEq, Repr

def bankOf (x : ListEnt) (b : Bool) : Nat := if b then x.base2 else x.base

def listEnt (b : List Byte) : Option ListEnt :=
  let v := leVal (b.take 32)
  if bitsOf v 255 204 ≠ 0 then none
  else some { base := bitsOf v 63 0, base2 := bitsOf v 127 64, len := bitsOf v 191 128, tag := bitsOf v 203 192 }

def listEntOk (s : State) (c : Nat) (x : ListEnt) : Bool :=
  x.base ≠ x.base2 && x.base % 64 = 0 && x.base2 % 64 = 0 && x.len % 64 = 0 && x.len ≠ 0
    && spanMapped s c x.base x.len && spanMapped s c x.base2 x.len

/-- A section or destination list at a device virtual address: its entries, or the status that ends the command. -/
def readList (s : State) (c a : Nat) (ev : List LineEv) : State × Option (List ListEnt) × Nat × Nat :=
  if a % 64 ≠ 0 then (s, none, stInvalid, 0)
  else
    let h := devFetch s c a 64 ev
    if h.2.2.1 ≠ stOk then (h.1, none, h.2.2.1, h.2.2.2)
    else
      let n := leVal (h.2.1.take 2)
      if n = 0 || 1022 < n || h.2.1.drop 2 ≠ List.replicate 62 0 then (h.1, none, stInvalid, 0)
      else
        let b := devFetch h.1 c (a + 64) (32 * n) ev
        if b.2.2.1 ≠ stOk then (b.1, none, b.2.2.1, b.2.2.2)
        else
          let es := (List.range n).map (fun i => listEnt (b.2.1.drop (32 * i)))
          if es.all (fun e => e.any (listEntOk s c)) then (b.1, some (es.filterMap id), stOk, 0) else (b.1, none, stInvalid, 0)

/-- The step record's section (R365). -/
def stepRecord (p : Part) (withSeed : Bool) : List Byte :=
  leBytes 8 p.step.toNat ++ leBytes 8 (if withSeed then p.seed % 2 ^ 52 else 0) ++ leBytes 2 p.numver ++ List.replicate 46 0

def monLen : Nat := 131072
def monBank (p : Part) (b : Bool) : Nat := if b then p.monBase1 else p.monBase0

/-- Reads the sections' plaintext in order. -/
def readSections (s : State) (c : Nat) (spans : List (Nat × Nat)) (ev : List LineEv) : SealRun × List (List Byte) :=
  spans.foldl (fun (a : SealRun × List (List Byte)) sp =>
    if a.1.status ≠ stOk then a
    else
      let d := devFetch a.1.s c sp.1 sp.2 ev
      ({ a.1 with s := d.1, status := d.2.2.1, det := d.2.2.2 }, a.2 ++ [d.2.1])) ({ s := s }, [])

/-- The image of sections: their chunks sealed, padded to their places, the tag array and the header with its table (R365,
R366). -/
def buildImage (key nonce hdr0 : List Byte) (xs : List Sect) (parts : List (List Byte)) : List Byte × List Byte × List Byte :=
  let nc := totalChunks xs
  let hdrTop := hdr0.take 0x40
  let cs := (List.zip xs parts).flatMap (fun (x : Sect × List Byte) =>
    (List.range (chunkCount x.1.len)).map (fun i => (x.1.first + i, (x.2.drop (i * chunkSize)).take chunkSize)))
  let sealed := cs.map (fun (c : Nat × List Byte) => gcmSeal key (chunkIv nonce c.1) hdrTop c.2)
  let data := sealed.flatMap (fun x => x.1 ++ List.replicate (chunkSize - x.1.length) 0)
  let tags := sealed.flatMap Prod.snd
  let table := xs.flatMap sectBytes
  let head := hdr0 ++ hdrTag key hdr0 table nonce ++ table
  (head ++ List.replicate (0x10000 - head.length) 0, tags ++ List.replicate (dataOff nc - 0x10000 - tags.length) 0, data)

/-- Header bytes 0x000 to 0x1EF of a checkpoint. -/
def ckptHdr (s : State) (p : Part) (flags : Nat) (nonce : List Byte) (xs : List Sect) (digest layout : List Byte) : List Byte :=
  leBytes 4 0x4C414553 ++ leBytes 2 512 ++ leBytes 2 1 ++ leBytes 1 2 ++ leBytes 1 flags ++ leBytes 2 p.numver
    ++ leBytes 2 xs.length ++ leBytes 1 p.log2n ++ [0] ++ nonce ++ leBytes 8 p.step.toNat ++ leBytes 8 (totalLen xs)
    ++ leBytes 4 (totalChunks xs) ++ leBytes 4 0 ++ leBytes 8 (dataOff (totalChunks xs)) ++ digest
    ++ (if p.plateDig.isEmpty then List.replicate 48 0 else p.plateDig) ++ layout ++ devMeas s ++ List.replicate 0xF0 0

/-- The layout digest of the group slot STEP_CFG.GROUP. -/
def layoutDigest (s : State) (p : Part) : List Byte :=
  match (groupOfSlot s p.t0 p.group).bind (groupAt s) with
  | some g => if p.groupEn then g.digest else List.replicate 48 0
  | none => List.replicate 48 0

/-- The hold of an export has taken effect: no plate runs, or every member has arrived at a barrier, or stands at the start
barrier (R373 step 1). -/
def holdEffective (p : Part) : Bool := p.run.isNone || p.startHeld || (p.bar.isSome && !p.preparing)

/-- Steps 2 to 4 of R373, once the hold is in effect. -/
def exportGo (s : State) (r : CmdRef) (v : Nat) (p : Part) (ents : List ListEnt) (ev : List LineEv) : State :=
  let c := eCtx v
  let seed : Bool := pay v 0x20 14 14 = 1
  let mon : Bool := pay v 0x20 15 15 = 1
  let b := p.step.getLsbD 0
  let xs := withFirst (({ len := 64, tag := 0, kind := 1, first := 0 } : Sect)
    :: ents.map (fun e => ({ len := e.len, tag := e.tag, kind := 0, first := 0 } : Sect))
    ++ (if mon then [({ len := monLen, tag := 0, kind := 2, first := 0 } : Sect)] else []))
  let size := dataOff (totalChunks xs) + chunkSize * totalChunks xs
  let spans := ents.map (fun e => (bankOf e b, e.len)) ++ (if mon then [(monBank p b, monLen)] else [])
  let dst := pay v 0x28 63 0
  let dsp := pay v 0x20 13 13
  if pay v 0x38 63 0 < size then finishCmd (exportEnd s r) r stInvalid
  else if spans.any (fun x => spanWaits s io0Page c x.1 x.2 false ev) || (dsp = 0 && spanWaits s io0Page c dst size true ev) then s
  else
    let rd := readSections s c spans ev
    if rd.1.status ≠ stOk then finishDet (exportEnd rd.1.s r) r rd.1.status 0 rd.1.det
    else
      let nonce := randBytes rd.1.s 16
      let s1 := drawn rd.1.s
      let parts := stepRecord p seed :: rd.2
      let flags := boolNat seed + boolNat mon <<< 1 + boolNat p.groupEn <<< 2
      let key := sealKey (slotAt s (tenantSlot c 3)).key 2 nonce
      let im := buildImage key nonce (ckptHdr s1 p flags nonce xs (sha384 parts.flatten) (layoutDigest s1 p)) xs parts
      let w1 := dmaStore s1 c dsp (dst + dataOff (totalChunks xs)) im.2.2 ev
      let w2 := if w1.2.1 = stOk then dmaStore w1.1 c dsp (dst + 0x10000) im.2.1 ev else w1
      let w3 := if w2.2.1 = stOk then dmaStore w2.1 c dsp dst im.1 ev else w2
      let s2 := exportEnd w3.1 r
      if w3.2.1 = stOk then finishRes s2 r stOk (size + p.step.toNat <<< 64) else finishDet s2 r w3.2.1 0 w3.2.2

/-- The section list is read and the export made, or its failure ends the command and the hold. -/
def exportTry (s : State) (r : CmdRef) (v : Nat) (p : Part) (ev : List LineEv) : State :=
  let c := eCtx v
  let mon : Bool := pay v 0x20 15 15 = 1
  let l := readList s c (pay v 0x30 63 0) ev
  match l.2.1 with
  | none => finishDet (exportEnd l.1 r) r l.2.2.1 0 l.2.2.2
  | some ents => if mon && p.monBase0 = 0 then finishCmd (exportEnd l.1 r) r stInvalid else exportGo l.1 r v p ents ev

/-- CKPT_EXPORT: the hold is placed first. -/
def exeCkptExport (ev : List LineEv) (s : State) (r : CmdRef) (v : Nat) : State :=
  let c := eCtx v
  let t0 := pay v 0x20 8 0
  let dst := pay v 0x28 63 0
  let slot := slotAt s (tenantSlot c 3)
  let busy := (cmdAt s r).any (fun k => k.st = .busy)
  match partIn s c t0 (pay v 0x20 12 9) with
  | none => finishCmd (exportEnd s r) r stIllegal
  | some p =>
    if busy then (if holdEffective p then exportTry s r v p ev else s)
    else if dst % 64 ≠ 0 then finishCmd s r stInvalid
    else if p.st ≠ .bound && p.st ≠ .running then finishCmd s r stIllegal
    else if slot.ktype = 0 || !(bitOf slot.attr 0) then finishCmd s r stDenied
    else if s.ks.rngFail then finishCmd s r stBusy
    else
      let no := if pay v 0x20 13 13 = 1 then hostRefusal s c dst (pay v 0x38 63 0) true else none
      match no with
      | some st => finishCmd s r st
      | none =>
        let p1 := { p with holds := p.holds ++ [exportHold r] }
        let s1 := setJob (partSet s p1) r (.ckpt t0)
        if holdEffective p1 then exportTry s1 r v p1 ev else s1

def execCkptExport (ctx qid : Nat) (ev : List LineEv) (s : State) : Out := ringCmd ctx qid 0x35 (exeCkptExport ev) s

/-- Where a section of an imported image goes: the step record nowhere, data sections to bank b of their entries in order, the
monitor section to the monitor bank. -/
def importDst (p : Part) (b : Bool) (ents : List ListEnt) (xs : List Sect) (x : Sect) : Option Nat :=
  match x.kind with
  | 0 => (ents[(xs.takeWhile (fun y => y.first ≠ x.first || y.kind ≠ 0)).length - 1]?).map (fun e => bankOf e b)
  | 2 => some (monBank p b)
  | _ => none

/-- The destination list fits the section table (R374). -/
def listFits (p : Part) (h : SealHdr) (ents : List ListEnt) (xs : List Sect) : Bool :=
  let ds := xs.filter (fun x => x.kind = 0)
  h.log2n = p.log2n && ds.length = ents.length
    && (List.zip ds ents).all (fun (x : Sect × ListEnt) => x.1.len = x.2.len && x.1.tag = x.2.tag)
    && (!(bitOf h.flags 1) || p.monBase0 ≠ 0)
    && (xs.any (fun x => x.kind = 2) = bitOf h.flags 1)

/-- STEP, SEED and the pin in one act (R374). -/
def importDone (s : State) (p : Part) (h : SealHdr) (rec0 : List Byte) : State :=
  let p1 := stepWritten { p with numver := h.numver, seed := if bitOf h.flags 0 then leVal ((rec0.drop 8).take 8) % 2 ^ 52
                                                            else p.seed } h.step
  tilesUpd (partSet s p1) (partTiles p1) (fun x => { x with stepCopy := p1.step })

/-- R375: bank b and the monitor table are zeroed, and STEP, SEED and the pin. -/
def importFail (s : State) (c : Nat) (p : Part) (b : Bool) (ents : List ListEnt) (mon : Bool) (ev : List LineEv) : State :=
  let s1 := ents.foldl (fun s e => zeroSpan s c (bankOf e b) e.len ev) s
  let s2 := if mon then zeroSpan s1 c (monBank p b) monLen ev else s1
  match partOf s2 p.t0 with
  | none => s2
  | some q => tilesUpd (partSet s2 { q with step := 0, seed := 0, numver := 0 }) (partTiles q) (fun x => { x with stepCopy := 0 })

/-- CKPT_IMPORT with its source at hand. -/
def importCkptGo (s : State) (r : CmdRef) (v : Nat) (p : Part) (src : SealSrc) (ev : List LineEv) : State :=
  let c := eCtx v
  let l := readList s c (pay v 0x30 63 0) ev
  match l.2.1 with
  | none => finishDet l.1 r l.2.2.1 0 l.2.2.2
  | some ents =>
    let top := sealTop l.1 src ev
    let xs := (sectsOf (leVal ((top.hdr.drop 0xC).take 2)) top.table).getD []
    let h := sealHdr top.hdr 2 (sectsOf (leVal ((top.hdr.drop 0xC).take 2)) top.table)
    let key := sealKey (slotAt s (tenantSlot c 3)).key 2 h.nonce
    let b : Bool := h.step % 2 = 1
    if top.status ≠ stOk then finishDet top.s r top.status 0 top.det
    else if !h.ok then finishCmd top.s r stInvalid
    else if hdrTag key top.hdr top.table h.nonce ≠ (top.hdr.drop 0x1F0).take 16 then finishCmd top.s r stSealTag
    else if !(listFits p h ents xs) then finishCmd top.s r stCkptIncompat
    else if !(numverHeld s h.numver) then finishCmd top.s r stVersion
    else if srcWaits s src (imageSize top.hdr) ev || ents.any (fun e => spanWaits s io0Page c (bankOf e b) e.len true ev) then s
    else
      let q := sealRun src key top.hdr top.tags h ev (fun s x off bs => match importDst p b ents xs x with
        | some a => devStore s c (byLine (atAddr (a + off) bs)) ev
        | none => (s, stOk, 0)) xs top.s
      if q.status = stOk then finishCmd (importDone q.s p h (q.plain.take 64)) r stOk
      else finishDet (if q.wrote then importFail q.s c p b ents (bitOf h.flags 1) ev else q.s) r q.status 0 q.det

/-- CKPT_IMPORT. -/
def exeCkptImport (host : HostRsp) (ev : List LineEv) (s : State) (r : CmdRef) (v : Nat) : State :=
  let c := eCtx v
  let a := pay v 0x28 63 0
  let slot := slotAt s (tenantSlot c 3)
  match partIn s c (pay v 0x20 8 0) (pay v 0x20 12 9) with
  | none => finishCmd s r stIllegal
  | some p =>
    if a % 64 ≠ 0 then finishCmd s r stInvalid
    else if p.st ≠ .bound || p.run.isSome then finishCmd s r stIllegal
    else if slot.ktype = 0 || !(bitOf slot.attr 1) then finishCmd s r stDenied
    else sealFrom s r c (pay v 0x20 13 13 = 1) a host (fun s x => importCkptGo s r v p x ev)

def execCkptImport (ctx qid : Nat) (host : HostRsp) (ev : List LineEv) (s : State) : Out :=
  ringCmd ctx qid 0x36 (exeCkptImport host ev) s

end Sys2Proof.Machine
end

