-- ==== Sys2Proof/Machine/FwOps.lean ====
section
/-! DEFINITION. Firmware images in the serial flash: slots, verification, the journal, staging and the firmware commands (spec 17:
R407 to R414, R421, R422). -/
namespace Sys2Proof.Machine
open Sys2Proof

abbrev stImgRej : Nat := 0x59
abbrev stRollback : Nat := 0x5A

/-- The firmware mailbox page as a unit. -/
def fwUnit : UnitId := .service 3

def fwSet (s : State) (f : FwSt) : State := { s with fw := f }

/-- CRC-32 of IEEE 802.3, reflected, bit by bit (R417 names no polynomial; log entry 145). -/
def crcBits (n : Nat) (v crc : Nat) : Nat :=
  match n with
  | 0 => crc
  | k + 1 =>
    let c := crc / 2
    crcBits k (v / 2) (if (crc + v) % 2 = 1 then Nat.xor c 0xEDB88320 else c)

def crc32 (bs : List Byte) : Nat := Nat.xor (bs.foldl (fun c b => crcBits 8 b.toNat c) 0xFFFFFFFF) 0xFFFFFFFF

/-- The 32 bytes of a journal record written at an AON count since BOOT_START (Table 17-5). -/
def journalRec (x : JRec) (aon : Nat) : List Byte :=
  let body := leBytes 1 x.typ ++ leBytes 1 x.step ++ leBytes 1 x.status ++ leBytes 1 x.attempt ++ leBytes 8 x.seq
    ++ leBytes 4 aon ++ leBytes 12 x.detail
  body ++ leBytes 4 (crc32 body)

/-- Records that the journal's area holds: 2,048 in each of 128 sectors of 64 KiB (R417, Table 17-2). -/
def journalCap : Nat := 262144

/-- A journal record with the current BOOT_SEQ; the ring erases its oldest sector for it where it is full (R410, R417). -/
def journalAdd (s : State) (typ step status detail : Nat) : State :=
  let j := s.fw.journal
  let x : JRec := { typ := typ, step := step, status := status, attempt := s.fw.attempt, seq := s.fw.bootSeq.toNat, detail := detail }
  fwSet s { s.fw with journal := (if j.length < journalCap then j else j.drop 2048) ++ [x] }

/-- The hardware emergency indication (R425, R444). -/
def emerg (s : State) : Bool := s.pw.active ≠ 0

/-! ### ALERT_N (R462, R465) -/

/-- MTR_STAT [3:1]: SEALED, CAL_VALID and TAMPER_SEEN of the latest reading in the mirror (Table 18-15). -/
def mirrorFlags (s : State) : Nat := (s.mi.reading.getD 7 0).toNat % 8

/-- MTR_STAT (Table 18-15). -/
def mtrStat (s : State) : Nat := boolNat s.mi.linkOk + mirrorFlags s <<< 1

/-- The conditions under which ALERT_N is low. -/
def alertLow (s : State) : Bool :=
  s.pw.active ≠ 0 || s.pw.trip ≠ 0 || s.fw.boot = 15 || s.fw.mgmt = 3 || (!s.mi.linkOk && 7 ≤ s.fw.boot)
    || bitOf (mirrorFlags s) 2

/-- An in-band interrupt of io0 with its mandatory byte, where the manual gives one. -/
def raiseIbi (s : State) (k : Option Nat) : State := { s with pn := { s.pn with ibi := s.pn.ibi ++ [k] } }

/-- ALERT_N follows its conditions; each change raises an in-band interrupt. -/
def alertEdge (s : State) : State :=
  if s.pn.alert = alertLow s then s else raiseIbi { s with pn := { s.pn with alert := alertLow s } } none

/-- No new flash work starts: PWR_WARN is asserted, or the board owns the flash (R431, R464). -/
def flashWaits (s : State) : Bool := s.pw.warn || s.pn.boardFlash

/-! ### Slots and verification (R409 to R412) -/

/-- Bytes of a slot of a kind: 2 MiB security, 16 MiB management. -/
def slotSize (kind : Nat) : Nat := if kind = 1 then 2 ^ 21 else 2 ^ 24

def activeB (s : State) (kind : Nat) : Bool := if kind = 1 then s.fw.secSlot else s.fw.mgmtSlot
def imgKey (kind : Nat) (b : Bool) : Nat := 2 * kind + boolNat b
def imgSlot (s : State) (kind : Nat) (b : Bool) : ImgSlot := mapGet {} s.fw.slots (imgKey kind b)
def imgSlotSet (s : State) (kind : Nat) (b : Bool) (x : ImgSlot) : State :=
  fwSet s { s.fw with slots := mapSet s.fw.slots (imgKey kind b) x }

/-- The inactive slot of a kind. -/
def idleSlot (s : State) (kind : Nat) : Bool := !(activeB s kind)

/-- Numerics versions of a header. -/
def imgNumvers (h : List Byte) : List Nat :=
  (List.range (leVal ((h.drop 0x17).take 1))).map (fun i => leVal ((h.drop (0xD0 + 2 * i)).take 2))

def ascending (l : List Nat) : Bool :=
  match l with
  | a :: b :: r => a < b && ascending (b :: r)
  | _ => true

/-- Bits of RESET_REQ that no image may set: PACKAGE, CDIE, IODIE, CLUSTER, TILE, SPARE, HPORT. -/
def resetReqBad : Nat := 0x47E

/-- Table 17-3 over the 512 header bytes. -/
def imgHeaderOk (h : List Byte) (kind : Nat) : Bool :=
  let at' (o n : Nat) : Nat := leVal ((h.drop o).take n)
  let nn := at' 0x17 1
  at' 0 4 = 0x4D575255 && at' 4 2 = 512 && at' 6 2 = 1 && at' 8 1 = kind && at' 9 1 = 1 && at' 0xA 1 ≤ 64 && at' 0xB 1 ≤ 3
    && at' 0x10 4 % 4096 = 0 && 512 + at' 0x10 4 ≤ slotSize kind && at' 0x14 1 ≤ at' 0x15 1
    && (if kind = 1 then nn = 0 && at' 0x18 2 = 0 else 1 ≤ nn && nn ≤ 64)
    && (h.drop 0x1A).take 38 = List.replicate 38 0 && ascending (imgNumvers h)
    && (h.drop (0xD0 + 2 * nn)).take (128 - 2 * nn) = List.replicate (128 - 2 * nn) 0
    && (h.drop 0x150).take 80 = List.replicate 80 0 && Nat.land (at' 0x18 2) resetReqBad = 0

/-- Key indices that a life-cycle state accepts. -/
def keyIndexOk (st idx : Nat) : Bool := idx ≤ 1 || st = 1 || st = 2 || st = 5

/-- The OTP key digest at an index: the one held, else the device's own, programmed in RAW (R412). -/
def otpKey (s : State) (idx : Nat) : List Byte :=
  (mapFind s.ks.otpKeys idx).getD (beBytes 48 (Config.otpKeyDigest idx % 2 ^ 384))

/-- R412 apart from the SVN. -/
def imgSound (s : State) (kind : Nat) (h body : List Byte) : Bool :=
  let pk := (h.drop 0x70).take 96
  let idx := leVal ((h.drop 0xB).take 1)
  imgHeaderOk h kind && keyIndexOk (lcState s) idx && otpKey s idx = sha384 pk
    && ecdsaVerify pk (sha384 (h.take 0x1A0)) ((h.drop 0x1A0).take 96) && (h.drop 0x40).take 48 = sha384 body

/-- What the header of a verified image gives. -/
def imgOf (h body : List Byte) : Image :=
  let at' (o n : Nat) : Nat := leVal ((h.drop o).take n)
  { version := at' 0xC 4, svn := at' 0xA 1, ifMin := at' 0x14 1, ifMax := at' 0x15 1, ifMinor := at' 0x16 1,
    resetReq := at' 0x18 2, numvers := imgNumvers h, digest := sha384 (h ++ body) }

/-- R412, R414: the image of a slot, or the status with which it does not verify. -/
def imgVerify (s : State) (kind : Nat) (b : Bool) : Nat × Option Image :=
  let x := imgSlot s kind b
  let h := readBytes x.bytes 0 512
  let body := readBytes x.bytes 512 (leVal ((h.drop 0x10).take 4))
  if x.len < 512 || !(imgSound s kind h body) then (stImgRej, none)
  else if leVal ((h.drop 0xA).take 1) < arbValue s then (stRollback, none)
  else (stOk, some (imgOf h body))

/-! ### Sources of the firmware commands -/

/-- Reads a command's source as DMA_COPY does, host included, and goes on with the bytes. -/
def dmaSource (s : State) (r : CmdRef) (c sp a n : Nat) (host : HostRsp) (ev : List LineEv)
    (go : State → List Byte → State) : State :=
  let busy := (cmdAt s r).any (fun k => k.st = .busy)
  if !(dmaSpanOk sp a n) then finishCmd s r stInvalid
  else if sp ≠ 1 then payRead s r c sp a n ev go
  else match host with
    | .wait =>
      if busy then s
      else match hostRefusal s c a n false with
        | some st => finishCmd s r st
        | none => if upWaits s c then s else setJob s r .dma
    | .data bs => if busy then go s ((bs ++ List.replicate n 0).take n) else s
    | .error => if busy then finishCmd (hostErrCount s c) r stHostErr else s

/-! ### Staging (Table 17-7) -/

def kindOk (k : Nat) : Bool := k = 1 || k = 2

/-- Units of 4 KiB that an image of a length takes. -/
def units4k (n : Nat) : Nat := (n + 4095) / 4096

/-- FW_STAGE_BEGIN. -/
def exeFwStageBegin (s : State) (r : CmdRef) (v : Nat) : State :=
  let kind := pay v 0x20 1 0
  let n := pay v 0x24 31 0
  if !(kindOk kind) || n < 512 || slotSize kind < n then finishCmd s r stInvalid
  else if s.fw.phase ≠ 0 then finishCmd s r stIllegal
  else if s.fw.flashLow then finishCmd s r stNoRes
  else if flashWaits s then s
  else
    let s1 := imgSlotSet s kind (idleSlot s kind) { st := 0, len := n }
    finishCmd (fwSet s1 { s1.fw with staging := some (kind, n) }) r stOk

def execFwStageBegin (ctx qid : Nat) (s : State) : Out := ringCmd ctx qid 0x40 exeFwStageBegin s

/-- FW_STAGE_DATA with its data read. -/
def stageWrite (s : State) (r : CmdRef) (kind off : Nat) (bs : List Byte) : State :=
  let b := idleSlot s kind
  let x := imgSlot s kind b
  let new := (List.range (bs.length / 4096)).map (fun i => off / 4096 + i)
  let y := { x with st := 1, bytes := writeBytes (clearBytes x.bytes off bs.length) off bs,
                    got := (x.got ++ new).eraseDups }
  finishCmd (imgSlotSet s kind b y) r stOk

/-- FW_STAGE_DATA: the header at offset 0 is accepted last. -/
def exeFwStageData (host : HostRsp) (ev : List LineEv) (s : State) (r : CmdRef) (v : Nat) : State :=
  let n := pay v 0x24 31 0
  let off := pay v 0x30 63 0
  if s.fw.phase ≠ 0 then finishCmd s r stIllegal
  else match s.fw.staging with
    | none => finishCmd s r stIllegal
    | some (kind, total) =>
      let x := imgSlot s kind (idleSlot s kind)
      let rest := (List.range (units4k total)).filter (fun i => !(off / 4096 ≤ i && i < (off + n) / 4096))
      if n % 4096 ≠ 0 || off % 4096 ≠ 0 || units4k total * 4096 < off + n then finishCmd s r stInvalid
      else if off = 0 && n ≠ 0 && !(rest.all (fun i => x.got.contains i)) then finishCmd s r stIllegal
      else if flashWaits s then s
      else dmaSource s r (eCtx v) (pay v 0x20 1 0) (pay v 0x28 63 0) n host ev (fun s bs => stageWrite s r kind off bs)

def execFwStageData (ctx qid : Nat) (host : HostRsp) (ev : List LineEv) (s : State) : Out :=
  ringCmd ctx qid 0x41 (exeFwStageData host ev) s

/-- FW_VERIFY. -/
def exeFwVerify (s : State) (r : CmdRef) (v : Nat) : State :=
  let kind := pay v 0x20 1 0
  if !(kindOk kind) then finishCmd s r stInvalid
  else if s.fw.phase ≠ 0 || !(s.fw.staging.any (fun x => x.1 = kind)) then finishCmd s r stIllegal
  else
    let b := idleSlot s kind
    match imgVerify s kind b with
    | (st, none) => finishCmd (imgSlotSet s kind b { imgSlot s kind b with st := 0 }) r st
    | (_, some i) =>
      let s1 := imgSlotSet s kind b { imgSlot s kind b with st := 2, img := some i }
      finishRes (fwSet s1 { s1.fw with staging := none }) r stOk (i.version + i.svn <<< 32)

def execFwVerify (ctx qid : Nat) (s : State) : Out := ringCmd ctx qid 0x42 exeFwVerify s

/-! ### Arming (R422) -/

/-- Check 3: the interface majors of a management image. -/
def ifaceOk (s : State) (i : Image) : Bool :=
  [0, 1].all (fun k => !(portPresent s k) || (hportAt s k).negMaj = 0
      || (i.ifMin ≤ (hportAt s k).negMaj && (hportAt s k).negMaj ≤ i.ifMax))
    && s.fw.runMgmt.all (fun m => i.ifMin ≤ m.ifMax && m.ifMin ≤ i.ifMax)

/-- Check 4: every nonzero pinned version is held. -/
def pinsOk (s : State) (i : Image) : Bool :=
  s.tl.parts.all (fun e => e.2.numver = 0 || i.numvers.contains e.2.numver)

/-- Checks 3 and 4 for the management image being activated. -/
def actChecks (s : State) (m : Option Image) : Bool := m.all (fun i => ifaceOk s i && pinsOk s i)

/-- The image of a STAGED slot verified again. -/
def stagedAgain (s : State) (kind : Nat) : Nat × Option Image := imgVerify s kind (idleSlot s kind)

/-- R422: the first failing status, or none with the images. -/
def armRefusal (s : State) (mask : Nat) : Option Nat :=
  let ks := [1, 2].filter (fun k => bitOf mask (k - 1))
  if ks.any (fun k => (imgSlot s k (idleSlot s k)).st ≠ 2) then some stIllegal
  else match ks.find? (fun k => (stagedAgain s k).1 ≠ stOk) with
    | some k => some (stagedAgain s k).1
    | none => if bitOf mask 1 && !(actChecks s (stagedAgain s 2).2) then some stVersion else none

/-- FW_ARM. -/
def exeFwArm (s : State) (r : CmdRef) (v : Nat) : State :=
  let mask := pay v 0x20 1 0
  if mask = 0 then finishCmd s r stInvalid
  else if s.fw.phase ≠ 0 then finishCmd s r stIllegal
  else match armRefusal s mask with
    | some st => finishCmd (fwSet s { s.fw with result := st }) r st
    | none =>
      finishCmd (fwSet s { s.fw with
        phase := 1, kinds := mask, result := stOk,
        nextSec := if bitOf mask 0 then (stagedAgain s 1).2 else none,
        nextMgmt := if bitOf mask 1 then (stagedAgain s 2).2 else none }) r stOk

def execFwArm (ctx qid : Nat) (s : State) : Out := ringCmd ctx qid 0x43 exeFwArm s

/-- FW_CANCEL. -/
def exeFwCancel (s : State) (r : CmdRef) (_v : Nat) : State :=
  match s.fw.phase with
  | 0 => match s.fw.staging with
    | none => finishCmd s r stOk
    | some (kind, _) =>
      let s1 := imgSlotSet s kind (idleSlot s kind) { imgSlot s kind (idleSlot s kind) with st := 0 }
      finishCmd (fwSet s1 { s1.fw with staging := none }) r stOk
  | 1 => finishCmd (fwSet s { s.fw with phase := 0, kinds := 0, nextSec := none, nextMgmt := none }) r stOk
  | 2 => match s.fw.tid with
    | some tid => finishCmd (txnAbort s tid 6) r stOk
    | none => finishCmd s r stOk
  | _ => finishCmd s r stIllegal

def execFwCancel (ctx qid : Nat) (s : State) : Out := ringCmd ctx qid 0x44 exeFwCancel s

/-- ACT_STAT (Table 17-14). -/
def actStat (s : State) : Nat :=
  s.fw.phase % 8 + (s.fw.kinds % 4) <<< 3 + (s.fw.left.length % 128) <<< 5 + (s.fw.result % 256) <<< 16

def imgWord (i : Option Image) : Nat := match i with | some x => x.version + x.svn <<< 32 | none => 0

/-- What FW_QUERY returns: running and staged VERSION and SVN of each kind, ACT_STAT and ARB. Its RESULT of 128 bits holds them in
a form that Table 17-7 does not give: a free value of these contents. -/
def queryParts (s : State) : List Nat :=
  let staged (k : Nat) : Option Image :=
    let x := imgSlot s k (idleSlot s k)
    if x.st = 2 then x.img else none
  [imgWord s.fw.runSec, imgWord s.fw.runMgmt, imgWord (staged 1), imgWord (staged 2), actStat s, arbValue s]

/-- FW_QUERY. -/
def exeFwQuery (s : State) (r : CmdRef) (_v : Nat) : State :=
  finishRes s r stOk (Config.fwQuery (queryParts s) % 2 ^ 128)

def execFwQuery (ctx qid : Nat) (s : State) : Out := ringCmd ctx qid 0x45 exeFwQuery s

/-- The thermometer with every bit below n set. -/
def thermo (n : Nat) : W64 := BitVec.ofNat 64 (2 ^ min n 64 - 1)

/-- FW_ARB_RAISE (R413). -/
def exeFwArbRaise (s : State) (r : CmdRef) (_v : Nat) : State :=
  match s.fw.runSec, s.fw.runMgmt with
  | some a, some b =>
    let t := min a.svn b.svn
    if t ≤ arbValue s then finishCmd s r stIllegal
    else if s.pw.warn then s
    else
      let s1 := { s with ks := { s.ks with arb := thermo t } }
      finishCmd (journalAdd s1 9 0 stOk t) r stOk
  | _, _ => finishCmd s r stIllegal

def execFwArbRaise (ctx qid : Nat) (s : State) : Out := ringCmd ctx qid 0x46 exeFwArbRaise s

/-- The other settings copy is written; it applies from the next cold reset. -/
def settingsWrite (s : State) (r : CmdRef) (bs : List Byte) : State :=
  finishCmd (fwSet s (if s.fw.setSel then { s.fw with set0 := bs, setNew := true } else { s.fw with set1 := bs, setNew := true })) r stOk

/-- FW_SETTINGS. -/
def exeFwSettings (host : HostRsp) (ev : List LineEv) (s : State) (r : CmdRef) (v : Nat) : State :=
  let n := pay v 0x24 31 0
  if 65504 < n then finishCmd s r stInvalid
  else if flashWaits s then s
  else dmaSource s r (eCtx v) (pay v 0x20 1 0) (pay v 0x28 63 0) n host ev (fun s bs => settingsWrite s r bs)

def execFwSettings (ctx qid : Nat) (host : HostRsp) (ev : List LineEv) (s : State) : Out :=
  ringCmd ctx qid 0x47 (exeFwSettings host ev) s

end Sys2Proof.Machine
end

