-- ==== Sys2Proof/Machine/ActCmds.lean ====
section
/-! DEFINITION. Live activation as an ACTIVATE transaction, the votes, commits and acknowledgements of transactions, and the
management cores' watchdogs (spec 17: R420, R423 to R425; spec 02: R51). -/
namespace Sys2Proof.Machine
open Sys2Proof

/-! ### Members and order (Table 17-8) -/

/-- The units of Table 17-8 that are fitted, in the order in which they switch. -/
def actOrder (hw : Hw) : List UnitId :=
  let all : List UnitId := [UnitId.iodie 1] ++ (List.range 16).map UnitId.fport ++ (List.range 12).map UnitId.stack
    ++ (List.range 4).map UnitId.near ++ (List.range 32).map UnitId.cluster ++ [UnitId.hport 0, UnitId.hport 1]
  all.filter (present hw)

/-- A unit takes its new microcode without a command (R424). -/
def takesSilently (s : State) (u : UnitId) : Bool :=
  let st := (unitAt s u).state
  st = .off || st = .sleep || st = .retired

/-- The activation's transaction opens, with io0 as coordinator (R423). -/
def actOpen (s : State) : State :=
  let ms := (actOrder s.hw).filter (fun u => !(takesSilently s u))
  match txnOpen s 3 0 io0 ms .invited with
  | none => s
  | some (s1, tid) =>
    match mapFind s1.un.txns tid with
    | none => s1
    | some x =>
      let s2 := txnSet s1 tid { x with phase := .preparing }
      fwSet s2 { s2.fw with phase := 2, tid := some tid }

/-- The new images serve: the security core, then the management cores; a new security image has its own AK (R386, R423). -/
def actSwitchCores (s : State) : State :=
  let f := s.fw
  let s1 := fwSet s { f with runSec := if f.nextSec.isSome then f.nextSec else f.runSec,
                             runMgmt := if f.nextMgmt.isSome then f.nextMgmt else f.runMgmt,
                             nextSec := none, nextMgmt := none, prevMgmt := none }
  if f.nextSec.isSome && (curRoot s1).isSome then
    match curRoot s1 with
    | some r => slotInstall s1 (deviceSlot 9) 3 0x04 2 false true (derivedKey 3 (rootBytes r) (ascii "UR-AK") (akContext s1))
    | none => s1
  else s1

/-- The activation closes: every unit has switched and the transaction is closed. -/
def actClose (s : State) : State :=
  let s1 := actSwitchCores s
  let s2 := journalAdd s1 8 0 stOk 0
  unitEvt (fwSet s2 { s2.fw with phase := 0, kinds := 0, tid := none, left := [], cur := none, again := [], result := stOk })
    fwUnit (2 ^ 16)

/-- Pages at the head of `left` whose unit takes its microcode silently, or is no member, count as switched. -/
def actSkip (s : State) (x : Option Txn) (pages : List Nat) : List Nat :=
  pages.filter (fun p => match unitOfPage p with
    | none => false
    | some u => !(takesSilently s u) && x.any (fun t => t.members.any (fun m => m.page = p)))

/-- The activation closes if nothing is left and its transaction is closed. -/
def actTry (s : State) : State :=
  match s.fw.tid with
  | none => s
  | some tid =>
    if s.fw.phase = 3 && (mapFind s.un.txns tid).isNone then actClose s else s

/-- The commit point: the flash header makes the staged slots active (R410, R423). Cores that had failed start on the image that
the record selects (R420). -/
def actCommit (s : State) (tid : Nat) (x : Txn) : State :=
  let f := s.fw
  let sec := bitOf f.kinds 0
  let mgmt := bitOf f.kinds 1
  let s1 := txnSet s tid { x with phase := .committed, record := true }
  let s2 := { s1 with un := { s1.un with commitCnt := satInc s1.un.commitCnt } }
  let s3 := if sec then imgSlotSet s2 1 (idleSlot s2 1) { imgSlot s2 1 (idleSlot s2 1) with st := 3 } else s2
  let s4 := if mgmt then imgSlotSet s3 2 (idleSlot s3 2) { imgSlot s3 2 (idleSlot s3 2) with st := 3 } else s3
  let s5 := journalAdd (fwSet s4 { s4.fw with
    hdrSeq := f.hdrSeq + 1, secSlot := if sec then !f.secSlot else f.secSlot,
    mgmtSlot := if mgmt then !f.mgmtSlot else f.mgmtSlot, phase := 3,
    mgmt := if mgmt && f.mgmt = 3 then 1 else f.mgmt,
    left := (actOrder s.hw).map pageOf, cur := none, again := [] }) 7 0 stOk 0
  if x.members.isEmpty then actTry (fwSet { alertEdge s5 with un := { s5.un with txns := mapDel s5.un.txns tid } } { s5.fw with left := [] })
  else alertEdge s5

/-- The last vote of an ACTIVATE transaction: checks 3 and 4 of R422 again, then the commit point. -/
def actDecide (s : State) (tid : Nat) (x : Txn) : State :=
  if !(x.members.all (fun m => m.st = .counted)) then s
  else if actChecks s s.fw.nextMgmt then actCommit s tid x
  else
    let s1 := txnAbort s tid 5
    fwSet s1 { s1.fw with result := stVersion }

/-! ### Switching one unit at a time (R424, R425) -/

/-- The unit's part is applied: it counts as switched. -/
def actApplied (s : State) (tid : Nat) (u : UnitId) : State :=
  let f := s.fw
  let s1 := fwSet s { f with left := f.left.filter (fun p => p ≠ pageOf u), cur := none,
                             again := f.again.filter (fun p => p ≠ pageOf u) }
  match mapFind s1.un.txns tid with
  | none => s1
  | some x => memberTo s1 tid x u .applied

/-- Some image being activated has the RESET_REQ bit of the unit's kind. -/
def switchesByReset (s : State) (u : UnitId) : Bool :=
  s.fw.nextMgmt.any (fun i => bitOf i.resetReq (unitKind u))

/-- The unit begins its switch: QUIESCE, or RESET where the image demands it. A unit that is QUIESCED already switches there. -/
def actBegin (s : State) (tid : Nat) (u : UnitId) : State :=
  let x := unitAt s u
  if x.cmdBusy then s
  else if switchesByReset s u then
    let s1 := acceptCmd s u .mgmt x.inc .reset (fun s => runCmd s u .reset)
    fwSet s1 { s1.fw with cur := some (pageOf u) }
  else if x.state = .quiesced then actApplied s tid u
  else if x.state = .run then
    let s1 := acceptCmd s u .mgmt x.inc .quiesce (fun s => runCmd s u .quiesce)
    fwSet s1 { s1.fw with cur := some (pageOf u) }
  else s

/-- The unit being switched goes on: QUIESCED it resumes on its new microcode; a QUIESCE that timed out leaves it to be tried
again; after a RESET it is in RUN. -/
def actGo (s : State) (tid : Nat) (u : UnitId) : State :=
  let x := unitAt s u
  if switchesByReset s u then (if x.state = .run && !x.cmdBusy then actApplied s tid u else s)
  else if x.state = .quiesced && !x.cmdBusy then
    actApplied (acceptCmd s u .mgmt x.inc .resume (fun s => runCmd s u .resume)) tid u
  else if x.state = .run && !x.cmdBusy then
    fwSet s { s.fw with cur := none, again := s.fw.again ++ [pageOf u] }
  else s

/-- The unit that is next: the first left that has not timed out. -/
def actNext (s : State) : Option Nat := (s.fw.left.filter (fun p => !(s.fw.again.contains p))).head?

/-- A member's turn: units that take their microcode silently count as switched; while PAUSED no further member begins. -/
def actTurn (s : State) (tid : Nat) (u : UnitId) : State :=
  let s0 := fwSet s { s.fw with left := actSkip s (mapFind s.un.txns tid) s.fw.left }
  if takesSilently s u then actApplied s0 tid u
  else if s0.fw.cur = some (pageOf u) then actGo s0 tid u
  else if s0.fw.phase ≠ 3 || s0.fw.cur.isSome || actNext s0 ≠ some (pageOf u) then s0
  else actBegin s0 tid u

/-- ACT_HOLDOFF: an ARMED activation opens, a PAUSED one goes on (R423, R425). -/
def execActHoldoff (s : State) : Out :=
  if emerg s then .next s
  else match s.fw.phase with
    | 1 => .next (actOpen s)
    | 4 => .next (fwSet s { s.fw with phase := 3 })
    | _ => .next s

/-- ACT_RETRY: a unit that did not quiesce is tried again after every other unit (R424). -/
def execActRetry (u : UnitId) (s : State) : Out :=
  if s.fw.phase ≠ 3 || (actNext s).isSome || !(s.fw.again.contains (pageOf u)) then .next s
  else .next (fwSet s { s.fw with again := s.fw.again.filter (fun p => p ≠ pageOf u) })

/-! ### Transactions (R51) -/

/-- TXN_VOTE (R44, R51): the coordinator counts a vote; ABORT aborts with cause VOTE, the last PREPARED decides. -/
def execTxnVote (tid : Nat) (u : UnitId) (s : State) : Out :=
  match mapFind s.un.txns tid with
  | none => .next s
  | some x =>
    if x.phase ≠ .preparing || !(memberSt x (pageOf u) = some .refused || memberSt x (pageOf u) = some .prepared) || !(msgRoute s x u) then .next s
    else if !(coordTakes s x) then .next (coordDrops s tid x)
    else match memberSt x (pageOf u) with
      | some .refused => .next (txnAbortGate s tid 5 (gateAll s x))
      | some .prepared =>
        let x1 := memberUpd x (pageOf u) (fun m => { m with st := .counted })
        let s1 := txnSet s tid x1
        if x.kind = 1 then .next (stepDecide s1 tid)
        else if x.kind = 3 then .next (actDecide s1 tid x1)
        else .next (plainDecide s1 tid x1)
      | _ => .next s

/-- The last acknowledgement closes the transaction (R51). -/
def ackMember (s : State) (tid : Nat) (x : Txn) (u : UnitId) : State :=
  let x1 := memberUpd x (pageOf u) (fun m => { m with st := .acked })
  if x1.members.all (fun m => m.st = .acked) then (if x.kind = 3 then actTry (txnDel s tid) else txnDel s tid) else txnSet s tid x1

/-- A member refuses COMMIT (R41). One that is OFF or RETIRED has no part left to apply, and its refusal answers for it; any other applies its
part from the commit record when it is in RUN again (R53). -/
def commitRefused (s : State) (tid : Nat) (x : Txn) (u : UnitId) (st : Nat) : State :=
  if st = stDenied then ackMember s tid x u else countStale s st

/-- TXN_COMMIT (R41, R51): a member applies its part and acknowledges; in an ACTIVATE transaction it switches in its turn. -/
def execTxnCommit (tid : Nat) (u : UnitId) (s : State) : Out :=
  match mapFind s.un.txns tid with
  | none => .next s
  | some x =>
    if x.phase ≠ .committed || memberSt x (pageOf u) ≠ some .counted then .next s
    else if msgHeld s x u then .next s
    else if x.kind = 3 then .next (actTurn s tid u)
    else match txnRefusal (unitAt s u) (memberInc x (pageOf u)) true with
    | some st => .next (commitRefused s tid x u st)
    | none =>
      let x1 := memberUpd x (pageOf u) (fun m => { m with st := .applied })
      .next (commitReached (txnSet (applyPart s x u) tid x1) x1)

/-- TXN_ACK (R44, R51): the coordinator takes an acknowledgement of its present life; an older one is dropped, and COMMIT goes out
again. -/
def execTxnAck (tid : Nat) (u : UnitId) (s : State) : Out :=
  match mapFind s.un.txns tid with
  | none => .next s
  | some x =>
    if x.phase ≠ .committed || memberSt x (pageOf u) ≠ some .applied || !(msgRoute s x u) then .next s
    else if !(coordTakes s x) then
      .next (coordDrops s tid (if x.kind = 3 then x else memberUpd x (pageOf u) (fun m => { m with st := .counted })))
    else .next (ackMember s tid x u)

/-! ### Management cores (R420) -/

/-- MGMT_WATCHDOG: the cores restart from the verified copy in DR0, after a commit point the one that its record selected (R427), or, after three restarts within 2^35 AON cycles, stay stopped;
`fresh` says that the span of the restarts counted has passed, `back` that a restart has completed. -/
def execMgmtWatchdog (back fresh : Bool) (s : State) : Out :=
  let f := s.fw
  if back then
    if f.mgmt ≠ 2 then .next s
    else if 3 ≤ f.phase && f.nextMgmt.isSome && f.runMgmt ≠ f.nextMgmt then
      .next (fwSet s { f with mgmt := 1, runMgmt := f.nextMgmt, prevMgmt := f.runMgmt })
    else .next (fwSet s { f with mgmt := 1 })
  else if f.mgmt ≠ 1 && f.mgmt ≠ 2 then .next s
  else
    let n := if fresh then 0 else f.restarts
    if 3 ≤ n then .next (alertEdge (fwSet s { f with mgmt := 3 }))
    else
      let s1 := journalAdd (fwSet s { f with mgmt := 2, restarts := n + 1 }) 10 0 stOk 0
      .next (unitEvt s1 fwUnit (2 ^ 18))

end Sys2Proof.Machine
end

