-- ==== Sys2Proof/Machine/PowerOps.lean ====
section
/-! DEFINITION. Power caps, stretch levels, emergencies with their events, and operating points (spec 18: R431, R437 to R441, R444,
R454). -/
namespace Sys2Proof.Machine
open Sys2Proof

def pwSet (s : State) (p : PowerSt) : State := { s with pw := p }

/-! ### The effective cap (R439, Table 18-4) -/

/-- EFF_W in W: the lowest of the cap, the variant's ceiling and the reduced targets in force. -/
def effW (s : State) : Nat :=
  let cap := min s.pw.capW (ceilingW s.hw.variant)
  let a := s.pw.active
  let m (b : Bool) (v : Nat) : Nat := if b then min v cap else cap
  min (min (m (bitOf a 0) 200) (m (bitOf a 4) (cap / 2))) (m (bitOf a 5) (cap / 4))

/-! ### Stretch levels (R438, R440) -/

/-- Compute dies of a partition. -/
def partDies (p : Part) : List Nat := ((partTiles p).map (fun t => t / 128)).eraseDups

def runningParts (s : State) : List Part := (s.tl.parts.filter (fun e => e.2.run.isSome)).map Prod.snd

/-- The stretch level of a partition's tiles: the highest that the limiter, a throttle or an emergency demands of any member. A
partition without a run is idle. -/
def stretchOf (s : State) (p : Part) : Nat :=
  if p.run.isNone then 0
  else (partDies p).foldl (fun l d => max l (if s.pw.hotDies.contains d then 60 else mapGet 0 s.pw.demand d))
    (mapGet 0 s.pw.level p.t0)

/-- EMERG_STAT.STRETCH_MAX. -/
def stretchMax (s : State) : Nat := (runningParts s).foldl (fun m p => max m (stretchOf s p)) 0

/-! ### Emergencies (R425, R444) -/

/-- POWER (Table 18-10). -/
def powerEvent (s : State) (changed : Nat) : Event :=
  { kind := 15, payload := s.pw.active % 64 + (changed % 64) <<< 6 + boolNat s.pw.margin <<< 12 + (effW s / 2 % 2 ^ 15) <<< 13 }

def postPower (s : State) (changed : Nat) : State := raiseIbi (postDevice s (powerEvent s changed)) (some 15)

/-- The activation follows the emergency indication: PREPARING aborts, SWITCHING pauses (R425). -/
def emergAct (s : State) : State :=
  if s.pw.active = 0 then s
  else match s.fw.phase, s.fw.tid with
    | 2, some tid => txnAbort s tid 6
    | 3, _ => fwSet s { s.fw with phase := 4 }
    | _, _ => s

/-- The active sources become `a`: sources that assert are counted and seen, and a change posts POWER. -/
def emergTo (s : State) (a : Nat) : State :=
  let p := s.pw
  if a = p.active then s
  else
    let up := (List.range 6).filter (fun i => bitOf a i && !(bitOf p.active i))
    let s1 := pwSet s { p with active := a, seen := up.foldl (fun m i => Nat.lor m (2 ^ i)) p.seen,
                               emergCnt := satAdd p.emergCnt up.length }
    alertEdge (emergAct (postPower s1 (Nat.xor a p.active)))

def emergOn (s : State) (i : Nat) : State := emergTo s (Nat.lor s.pw.active (2 ^ i))
def emergOff (s : State) (i : Nat) : State := if bitOf s.pw.active i then emergTo s (s.pw.active - 2 ^ i) else s

/-! ### Operating points (R437) -/

/-- The point that a die's voltage must serve: the highest of its partitions, waiting or in force. -/
def voltTarget (s : State) (d : Nat) : Nat :=
  s.tl.parts.foldl (fun m e =>
    if (partDies e.2).contains d then max m ((mapFind s.pw.oppNext e.1).getD (mapGet 0 s.pw.opp e.1)) else m) 6

/-- The entry of PWR_OPP of a T0. -/
def oppEntry (s : State) (t0 : Nat) : Nat := (mapFind s.pw.oppNext t0).getD (mapGet 0 s.pw.opp t0)

/-- Points that wait take effect once the voltage of every die of their partition serves them. -/
def oppApply (s : State) : State :=
  s.pw.oppNext.foldl (fun s e =>
    match mapFind s.tl.parts e.1 with
    | none => s
    | some p =>
      if (partDies p).all (fun d => e.2 ≤ mapGet 6 s.pw.volt d) then
        pwSet s { s.pw with opp := mapSet s.pw.opp e.1 e.2, oppNext := mapDel s.pw.oppNext e.1 }
      else s) s

/-- A write of one entry: clamped to 6–20; a T0 that starts no bound partition takes none. -/
def oppWrite (s : State) (t0 v : Nat) : State :=
  match mapFind s.tl.parts t0 with
  | none => s
  | some p =>
    let s1 := oppApply (pwSet s { s.pw with oppNext := mapSet s.pw.oppNext t0 (max 6 (min 20 v)) })
    -- a voltage that may fall is lowered after the tiles have moved
    pwSet s1 { s1.pw with volt := (partDies p).foldl (fun m d => mapSet m d (min (mapGet 6 m d) (voltTarget s1 d))) s1.pw.volt }

/-! ### The cap and the prediction (R445, R456) -/

/-- CAP_W as stored: clamped to 400 W and the variant's ceiling. -/
def capStored (hw : Hw) (w : Nat) : Nat := min (ceilingW hw.variant) (max 400 w)

def capWrite (s : State) (v : Nat) : State := pwSet s { s.pw with capW := capStored s.hw (v % 65536) }

/-- AGEING (Table 18-10): MONTHS_MID and LIMIT. -/
def ageEvent (v : Nat) : Event := { kind := 16, payload := bitsOf v 31 16 + bitsOf v 51 48 <<< 16 }

/-- AGE_PRED is written: its reserved bits stay zero, and MONTHS_MID falling below AGE_THR posts AGEING, once per crossing. -/
def ageWrite (s : State) (w : W64) : State :=
  let v := (w &&& 0x800FFFFFFFFFFFFF).toNat
  let low : Bool := bitOf v 63 && bitsOf v 31 16 < s.pw.ageThr.toNat
  let s1 := pwSet s { s.pw with agePred := BitVec.ofNat 64 v, below := low }
  if low && !s.pw.below then raiseIbi (postDevice s1 (ageEvent v)) (some 16) else s1

end Sys2Proof.Machine
end

