-- ==== Sys2Proof/Machine/RegView.lean ====
section
/-! DEFINITION. What the register pages read: the unit headers and the block registers of every page of BAR0 as views of the state,
and what the VF and PF1 windows and the I3C interface show of them (spec 00: R3, R4; 01: R18 to R28; and the register tables of
the later chapters). -/
namespace Sys2Proof.Machine
open Sys2Proof

/-- A register: page offset, bytes, value. -/
abbrev Reg := Nat × Nat × Nat

/-- The 32 bits at a page offset, zero where no register lies (R24). -/
def regPick (rs : List Reg) (o : Nat) : Nat :=
  match rs with
  | [] => 0
  | (a, n, v) :: r => if a ≤ o && o < a + n then (v >>> (8 * (o - a))) % 2 ^ 32 else regPick r o

/-- Registers of one width in a row. -/
def regRow (base width : Nat) (vs : List Nat) : List Reg :=
  (List.range vs.length).map (fun i => (base + width * i, width, vs.getD i 0))

/-! ### Unit headers (R18 to R23, Table 1-4) -/

def unitVerReg : Nat := 0x01000001

def unitStatReg (x : Unit) (phys : Nat) : Nat :=
  x.cmdStatus % 256 + boolNat x.cmdBusy <<< 8 + (x.cmdSrc % 4) <<< 9 + ustateCode x.state <<< 12 + (phys % 32) <<< 16

def unitOwnerReg (x : Unit) : Nat := x.ownerCtx % 4096 + boolNat x.bound <<< 16 + boolNat x.running <<< 17

def headerRegs (s : State) (u : UnitId) : List Reg :=
  let x := unitAt s u
  regRow 0 4 [unitIdReg u, unitVerReg, unitCapReg s.hw u, 0, unitStatReg x (physAt s u), x.inc.toNat, (evtReg s u).toNat, x.evtEn.toNat,
    x.err0.toNat, x.err1.toNat, x.err2.toNat, x.err3.toNat, unitOwnerReg x]

/-! ### Package root (Tables 2-7 to 2-12, 15-11, 18-12 to 18-16) -/

/-- PART_BURN of the page that roots partitions. -/
def partBurnReg (s : State) (u : UnitId) : Nat :=
  mapGet 0 s.un.partBurn (pageOf u) + boolNat (s.tl.parts.any (fun e => e.2.clearing && partRoot e.2 = u)) <<< 24

/-- EMERG_STAT. -/
def emergStatReg (s : State) : Nat :=
  s.pw.active % 64 + (s.pw.seen % 64) <<< 16 + (stretchMax s % 64) <<< 22 + boolNat s.pw.curBound <<< 28

/-- Package root offsets 0x200 to 0x23F. -/
def powerRegs (s : State) : List Reg :=
  regRow 0x200 4 [s.pw.capW % 65536 + (effW s % 65536) <<< 16, s.pw.policy.toNat, emergStatReg s, s.pw.trip % 16]
    ++ regRow 0x210 8 [s.pw.pwrIn.toNat, s.pw.pwrDie.toNat, s.pw.thDie.toNat, s.pw.thAux.toNat]
    ++ [(0x230, 4, s.pw.coolant.toNat), (0x238, 8, s.pw.emergCnt.toNat)]

/-- PWR_OPPk, as last written (R5), and PWR_BUDGETk. -/
def oppReg (s : State) (k : Nat) : Nat :=
  (List.range 4).foldl (fun a j => a + (oppEntry s (4 * k + j) % 32) <<< (8 * j)) 0
def budgetReg (s : State) (k : Nat) : Nat := mapGet 0 s.pw.budget (2 * k) % 65536 + (mapGet 0 s.pw.budget (2 * k + 1) % 65536) <<< 16

def packageRegs (s : State) : List Reg :=
  [(0x040, 4, s.un.tmo.toNat), (0x048, 8, s.un.staleReq.toNat), (0x050, 8, s.un.staleRep.toNat),
    (0x058, 4, txnOpenCount s + boolNat (txnOpenCount s = 1024) <<< 16), (0x060, 8, s.un.commitCnt.toNat),
    (0x068, 8, s.un.abortCnt.toNat), (0x070, 4, s.un.lastAbort.toNat), (0x074, 4, s.un.lastCoord.toNat),
    (0x140, 4, partBurnReg s .package), (0x2F0, 8, s.pw.appOper.toNat), (0x300, 8, s.pw.agePred.toNat),
    (0x308, 4, s.pw.ageEye.toNat), (0x30C, 4, s.pw.ageThr.toNat)] ++ powerRegs s

/-! ### Clusters and dies (Tables 2-13, 2-14, 5-10, 9-11, 18-15) -/

def substPhaseCode (p : SubstPhase) : Nat := match p with | .idle => 0 | .armed => 1 | .moving => 2 | .clearing => 3

def substStatReg (x : Subst) : Nat := substPhaseCode x.phase + (x.status % 256) <<< 8 + (x.oldSlot % 32) <<< 16

/-- CC_WAYMAP. -/
def waymapReg (s : State) (c : Nat) : Nat :=
  (List.range 16).foldl (fun a w => a + boolNat (partOf s (16 * c + w)).isSome <<< w) 0

/-- COLL_STAT. -/
def collStatReg (s : State) (c : Nat) : Nat :=
  (mapGet [] s.tl.lqueue c).length % 32
    + (List.range 16).foldl (fun a t => a + boolNat (mapFind s.fb.lanes (16 * c + t)).isSome <<< (5 + t)) 0

def clusterRegs (s : State) (c : Nat) : List Reg :=
  let k := mapGet {} s.tl.caches c
  let e := mapGet {} s.fb.eng c
  [(0x040, 4, mapGet 0 s.un.substCtl c), (0x044, 4, substStatReg (substAt s c)), (0x080, 4, waymapReg s c),
    (0x088, 8, k.hit.toNat), (0x090, 8, k.miss.toNat), (0x098, 8, k.inval.toNat), (0x100, 4, collStatReg s c),
    (0x108, 8, e.drup.toNat), (0x110, 8, e.red.toNat), (0x118, 8, e.stale.toNat), (0x140, 4, partBurnReg s (.cluster c)),
    (0x180, 4, (mapGet 0 s.pw.ageRo c).toNat)]

def cdieReg (s : State) (d o : Nat) : Nat :=
  if 0x400 ≤ o && o < 0x800 then regPick [(o / 8 * 8, 8, (mapGet 0 s.pw.appCtx (128 * d + (o - 0x400) / 8)).toNat)] o
  else regPick [(0x140, 4, partBurnReg s (.cdie d))] o

/-! ### Tiles (Tables 3-7 to 3-12, 4-8 to 4-15, 5-6 to 5-9, 6-17 to 6-21, 7-5, 7-6, 8-9 to 8-14, 15-10) -/

def pstateCode (p : PState) : Nat :=
  match p with | .idle => 0 | .issuing => 1 | .heldWait => 2 | .heldBar => 3 | .frozen => 4 | .stopped => 5

def plateRegs (s : State) (t : Nat) (p : Plate) : List Reg :=
  let run : Bool := (partOf s t).any (fun q => q.run.isSome)
  [(0x040, 4, p.pc % 2 ^ 22 + pstateCode p.pstate <<< 22 + (p.loops.length % 8) <<< 25 + (p.calls.length % 8) <<< 28),
    (0x044, 4, if p.pstate = .heldWait || p.pstate = .heldBar then p.held.toNat else 0), (0x048, 4, p.waitCfg % 64),
    (0x04C, 4, p.bseq.toNat + (p.bid % 256) <<< 16), (0x050, 8, p.issueCnt.toNat), (0x058, 8, p.holdCnt.toNat),
    (0x060, 8, p.freezeCnt.toNat), (0x0C0, 48, if run then leVal p.digest else 0)]

/-- Tiles whose flags a tile's PART_FLAGS gathers. -/
def flagTiles (s : State) (t : Nat) : List Nat := match partOf s t with | some p => partTiles p | none => [t]

/-- PART_FLAGS. -/
def partFlagsReg (s : State) (t : Nat) : Nat :=
  let ns := (flagTiles s t).map (fun u => (tileAt s u).num)
  ns.foldl (fun a n => Nat.lor a (foldFlags n.nflags)) 0 + (ns.foldl (fun a n => Nat.lor a (foldFlags n.nstep)) 0) <<< 4
    + boolNat (ns.any (fun n => n.resErr ≠ 0)) <<< 8 + boolNat (ns.any (fun n => n.sramUe ≠ 0)) <<< 9

def numRegs (s : State) (t : Nat) (n : NumRegs) : List Reg :=
  [(0x100, 8, n.nflags.toNat), (0x108, 8, n.nstep.toNat), (0x110, 4, partFlagsReg s t), (0x114, 4, n.firstInv.toNat),
    (0x118, 4, n.resErr.toNat), (0x11C, 4, n.sramCe.toNat), (0x120, 4, n.sramUe.toNat)]

/-- MX_STAT. -/
def mxStatReg (a : Arrays) : Nat :=
  let b (x : Bool) (i : Nat) : Nat := boolNat x <<< i
  b a.stream.run.isSome 0 + b a.stream.pend.isSome 1 + b a.weight.run.isSome 2 + b a.weight.pend.isSome 3
    + b a.drain.run.isSome 4 + b a.drain.pend.isSome 5 + (mapGet 3 a.tag 0 % 32) <<< 8 + (mapGet 0 a.split 0 % 4) <<< 13
    + (mapGet 3 a.tag 1 % 32) <<< 16 + (mapGet 0 a.split 1 % 4) <<< 21

/-- BATCH_STAT. -/
def batchStatReg (b : Batcher) : Nat :=
  (b.queues.foldl (fun n e => n + e.2.present.length) 0) % 2048 + boolNat b.ready <<< 16
    + ((if b.ready then b.batch.length else 0) % 64) <<< 17 + boolNat b.dl <<< 23 + (b.firstq % 16) <<< 24

def batchQ (b : Batcher) (q : Nat) : BatchQ := mapGet {} b.queues q

def arrayRegs (a : Arrays) (b : Batcher) : List Reg :=
  [(0x140, 4, mxStatReg a), (0x148, 8, a.rowCnt.toNat), (0x150, 8, a.wloadCnt.toNat), (0x158, 8, a.drainCnt.toNat),
    (0x160, 4, b.ctl.toNat), (0x164, 4, batchStatReg b), (0x168, 8, a.relCnt.toNat)]
    ++ regRow 0x180 8 ((List.range 16).map (fun q => (batchQ b q).cfg.toNat))
    ++ regRow 0x200 4 ((List.range 16).map (fun q =>
      let x := batchQ b q
      x.head % 64 + (x.tail % 64) <<< 8 + (x.fill % 128) <<< 16))


def streamRegs (x : Tile) : List Reg :=
  let ks := List.range 8
  regRow 0x300 4 (ks.map (fun k => (strAt x k).cfg.toNat))
    ++ [(0x320, 4, ks.foldl (fun a k => a + boolNat (strAt x k).path.run.isSome <<< k
      + boolNat (strAt x k).path.pend.isSome <<< (8 + k)) 0)]
    ++ regRow 0x340 8 (ks.map (fun k => (strAt x k).rowsDone % 2 ^ 32 + (strAt x k).cmdsDone.toNat <<< 32))
    ++ [(0x380, 8, x.oobCnt.toNat), (0x388, 8, x.confCnt.toNat)]

/-- OPC of the operation that a pipe runs. -/
def pipeOpc (p : Path) : Nat :=
  match p.run with
  | some c => (match c.op with | .vector o _ => o % 256 | _ => 0)
  | none => 0

def vectorRegs (x : Tile) : List Reg :=
  [(0x500, 4, boolNat x.pipe0.run.isSome + boolNat x.pipe0.pend.isSome <<< 1 + boolNat x.pipe1.run.isSome <<< 2
      + boolNat x.pipe1.pend.isSome <<< 3 + pipeOpc x.pipe0 <<< 8 + pipeOpc x.pipe1 <<< 16),
    (0x508, 8, x.blk0.toNat), (0x510, 8, x.blk1.toNat)]

/-- Views of the partition record (R209); none on a tile that is not bound. -/
def stepRegs (s : State) (t : Nat) : List Reg :=
  match partOf s t with
  | none => []
  | some p =>
    [(0x600, 8, p.step.toNat),
      (0x608, 8, p.numver % 65536 + (p.gateMask % 8192) <<< 16 + boolNat p.gateOvf <<< 29 + boolNat p.groupEn <<< 30
        + (p.group % 64) <<< 32),
      (0x610, 4, boolNat p.opened + boolNat p.preparing <<< 1 + boolNat p.err <<< 2 + boolNat p.behind <<< 3
        + boolNat (p.run.any (fun r => r.canon)) <<< 4 + (p.tid % 1024) <<< 16),
      (0x614, 4, p.lastOutcome % 256 + (p.lastCause % 16) <<< 8 + (p.lastGate % 256) <<< 16 + boolNat p.lastValid <<< 31),
      (0x618, 8, p.monBase0), (0x620, 8, p.monBase1), (0x628, 8, p.monThr.toNat), (0x630, 4, p.monHit.toNat),
      (0x638, 8, if p.groupEn then p.grpStep.toNat else 0), (0x640, 8, p.commitCnt.toNat), (0x648, 8, p.abortCnt.toNat)]

/-- AT t: the arrival tokens; AT31 reads READY. -/
def tokenReg (x : Tile) (t : Nat) : Nat := if t = 31 then boolNat x.bat.ready else (mapGet 0 x.regs.tok t).toNat

def tileReg (s : State) (t o : Nat) : Nat :=
  let x := tileAt s t
  if o < 0x100 then regPick (plateRegs s t x.plate) o
  else if o < 0x140 then regPick (numRegs s t x.num) o
  else if o < 0x300 then regPick (arrayRegs x.arr x.bat) o
  else if o < 0x400 then regPick (streamRegs x) o
  else if o < 0x500 then (if o < 0x480 && o % 4 = 0 then tokenReg x ((o - 0x400) / 4) else 0)
  else if o < 0x600 then regPick (vectorRegs x) o
  else if o < 0x700 then regPick (stepRegs s t) o
  else regPick [(0x700, 4, x.burnDone % 32)] o

/-! ### Memory controllers, fabric ports and host ports (Tables 10-12, 10-13, 11-9 to 11-11, 13-8 to 13-10) -/

def mcRegs (s : State) (m : Nat) : List Reg :=
  let x := mcAt s m
  let ps := (List.range (mcPcs m)).map (fun j => pcAt s (m * 128 + j))
  let cnt (st : Nat) : Nat := (ps.filter (fun p => p.st = st)).length
  [(0x040, 4, x.cfg.toNat),
    (0x044, 4, cnt 2 % 256 + (cnt 3 % 256) <<< 8 + (min 8191 (ps.foldl (fun n p => n + p.spare) 0)) <<< 16),
    (0x048, 4, (ps.filter (fun p => p.st ≠ 3)).length * pcFrames m)]
    ++ regRow 0x080 4 ((List.range (mcPcs m / 16)).map (fun w =>
      (List.range 16).foldl (fun a j => a + ((ps.getD (16 * w + j) {}).st % 4) <<< (2 * j)) 0))
    ++ regRow 0x0A0 8 [x.ce.toNat, x.ue.toNat, x.remap.toNat, x.erase.toNat, x.passes.toNat, x.pos.toNat]

/-- R244: the MAC address of a port, first octet in bits [47:40]. -/
def portMac (s : State) (p : Nat) : Nat := bitsOf s.fb.cfg.toNat 55 32 <<< 24 + nodeOf s <<< 8 + p

def fportRegs (s : State) (p : Nat) : List Reg :=
  let x := fport s p
  let up := (s.fb.paths.filter (fun e => e.1 % 16 = p && e.2.st = 2)).length
  [(0x040, 4, x.ctl.toNat), (0x044, 4, x.link % 4 + (x.mka % 8) <<< 2 + boolNat x.txBlock <<< 5 + (up % 2048) <<< 8),
    (0x048, 8, portMac s p), (0x050, 8, x.xpn.toNat), (0x058, 4, x.cak.toNat)]
    ++ regRow 0x060 8 [x.tx.toNat, x.rx.toNat, x.retx.toNat, x.nackRx.toNat, x.dupRx.toNat, x.oow.toNat, x.filter.toNat,
      x.tagFail.toNat, x.fecCorr.toNat, x.fecUnc.toNat, x.macsec.toNat]

def hportRegs (s : State) (k : Nat) : List Reg :=
  let x := hportAt s k
  [(0x040, 4, x.speed % 8 + (x.width % 32) <<< 3 + boolNat x.flit256 <<< 8 + boolNat s.hw.split <<< 9
      + boolNat (funcAt s k).nrdy <<< 10 + boolNat x.viral <<< 11),
    (0x044, 4, boolNat (x.secure.contains 0) + boolNat (x.secure.contains 1) <<< 1
      + (List.range 8).foldl (fun a i => a + boolNat (x.secure.contains (2 + i)) <<< (2 + i)) 0
      + boolNat (!x.ideLow.isEmpty) <<< 10 + boolNat (!x.halted.isEmpty) <<< 11)]
    ++ regRow 0x080 4 ((List.range 16).map (fun w =>
      (List.range 32).foldl (fun a j => a + boolNat (funcAt s (vfKey k (32 * w + j))).nrdy <<< j) 0))
    ++ regRow 0x0C0 8 [x.ce.toNat, x.ue.toNat, x.cto.toNat, x.deny.toNat, x.dbDrop.toNat, x.flr.toNat, x.staleCpl.toNat]

/-! ### The io0 block (Tables 9-12, 10-8 to 10-11, 11-12, 12-11 to 12-13, 15-12, 15-13) -/

def iodieRegs (s : State) (o : Nat) : Nat :=
  if 0x800 ≤ o then (if o % 4 = 0 then (ctxAt s ((o - 0x800) / 4)).burn % 32 else 0)
  else regPick [(0x040, 4, s.rg.shardCfg.toNat)] o

def memRegs (s : State) : List Reg :=
  regRow 0 4 [s.mm.scrubCfg.toNat, s.mm.migRate.toNat, s.mm.rsvLow.toNat,
    min 0xFFFF (poolFrames s 0 0).length + (min 0xFFFF (poolFrames s 1 0).length) <<< 16, s.mm.redirs.length]
    ++ [(0x18, 8, s.mm.lostCnt.toNat)]

def groupRegs (g : Group) : List Reg :=
  [(0, 4, g.st % 8 + (g.faultSrc % 8) <<< 3 + (g.lastErr % 256) <<< 8 + (g.lostRank % 4096) <<< 16), (4, 4, g.id),
    (8, 4, g.members.length % 8192 + (g.pslot % 64) <<< 13 + (g.log2n % 16) <<< 19 + (g.weight % 256) <<< 23
      + boolNat g.vote <<< 31),
    (0xC, 4, (g.locals.filter (fun m => m.joined)).length % 1024), (0x10, 8, g.launches.toNat), (0x18, 8, g.fails.toNat),
    (0x20, 8, g.txBytes.toNat), (0x28, 8, g.a2aDrop.toNat)]

def groupReg (s : State) (o : Nat) : Nat :=
  match groupAt s (o / 64) with
  | some g => regPick (groupRegs g) (o % 64)
  | none => 0

/-- FAR_FAILED w: blocks FAILED or not yet initialised. -/
def farFailedReg (s : State) (w : Nat) : Nat :=
  (List.range 32).foldl (fun a j => a + boolNat ((mapFind s.mm.far (32 * w + j)).any (fun b => !b.init || b.fail.isSome)) <<< j) 0

/-- DR_LOCK is bit 63 of one DR_LIMIT and reads the same in every one. -/
def drLocked (s : State) : Bool := s.mm.drLimit.any (fun e => e.2.getLsbD 63)

def encReg (s : State) (o : Nat) : Nat :=
  if o < 0x100 then regPick (regRow 0 4 [s.mm.alarm0.toNat, s.mm.alarm1.toNat, s.mm.alarm2.toNat, s.mm.alarm3.toNat]
    ++ regRow 0x10 8 [s.mm.tagFail.toNat, s.mm.blockCnt.toNat, s.mm.minorOvf.toNat, s.mm.metaRekey.toNat, s.mm.keyExh.toNat]) o
  else if o < 0x180 then
    let r := (o - 0x100) / 16
    regPick (regRow (0x100 + 16 * r) 8 [(mapGet 0 s.mm.drBase r).toNat,
      (mapGet 0 s.mm.drLimit r).toNat % 2 ^ 63 + boolNat (drLocked s) <<< 63]) o
  else if 0x200 ≤ o && o < 0x400 && o % 4 = 0 then farFailedReg s ((o - 0x200) / 4)
  else 0

def uctRegs (s : State) : List Reg :=
  [(0, 8, s.fb.cfg.toNat), (8, 4, s.fb.tmr.toNat), (0x10, 4, s.fb.stat.toNat), (0x18, 8, s.fb.unreach.toNat)]

/-- Block offsets 0x3000 and above of io0. -/
def blockReg (s : State) (o : Nat) : Nat :=
  if o < 0x4000 then regPick (memRegs s) (o - 0x3000)
  else if o < 0x5000 then groupReg s (o - 0x4000)
  else if o < 0x6000 then encReg s (o - 0x5000)
  else if o < 0x8000 then regPick (uctRegs s) (o - 0x6000)
  else if o < 0xA000 then regPick [((o - 0x8000) / 8 * 8, 8, (mapGet 0 s.fb.allow ((o - 0x8000) / 8)).toNat)] (o - 0x8000)
  else 0

/-! ### Service blocks (Tables 16-14 to 16-17, 17-12 to 17-14; R457) -/

def keyReg (s : State) (o : Nat) : Nat :=
  if 0x1000 ≤ o && o < 0x5000 then (if o % 4 = 0 then slotAttr s ((o - 0x1000) / 4) else 0)
  else if 0x5000 ≤ o && o < 0x5400 then (if o % 4 = 0 then slotAttr s (deviceSlot ((o - 0x5000) / 4)) else 0)
  else
    let used (dev : Bool) : Nat := (s.ks.slots.filter (fun e => isDeviceKey e.1 = dev && e.2.ktype ≠ 0)).length
    let sess (p : Option Nat) : Nat := (s.ks.sessions.filter (fun x => x.spdm = p.isSome && (p.isNone || x.doe = p))).length
    regPick ([(0x040, 4, used false + used true <<< 13 + boolNat s.ks.rngFail <<< 22),
      (0x044, 4, sess none + sess (some 0) <<< 11 + sess (some 1) <<< 14)]
      ++ regRow 0x048 8 [s.ks.genCnt.toNat, s.ks.impCnt.toNat, s.ks.unwrapF.toNat, s.ks.destroyC.toNat, s.ks.attestC.toNat]) o

/-- Unlocks left of a list of consumption bits. -/
def unlocksLeft (x : LcSt) (bits : List Nat) : Nat := (bits.filter (fun b => !(x.consume.getLsbD b))).length

/-- LC_STAT. -/
def lcStatReg (x : LcSt) : Nat :=
  x.state % 16 + (x.target % 16) <<< 4 + unlocksLeft x [8, 9, 10, 11, 12, 13, 14] <<< 8
    + unlocksLeft x [16, 17, 18, 19] <<< 11 + boolNat x.fromRma <<< 14 + boolNat x.pend <<< 15 + boolNat x.run.isSome <<< 16
    + boolNat x.debugSeen <<< 17 + boolNat x.corrupt <<< 18 + (x.fails % 16) <<< 19 + (x.result % 256) <<< 24

/-- LC_DEVID as one number: zero in RAW and TEST states. -/
def lcDevid (s : State) : Nat := if s.ks.lc.state ≤ 2 then 0 else leVal (deviceId s)

def lcReg (s : State) (o : Nat) : Nat :=
  if o < 0x080 then regPick [(0x040, 4, lcStatReg s.ks.lc)] o
  else if o < 0x0C0 then regPick [(0x080, 48, lcDevid s)] o
  else if o < 0x100 then regPick (regRow 0x0C0 8 (allSegs.map (fun k => (seg s.ks.lc k).toNat))
    ++ [(0x0E8, 4, s.ks.lc.consume.toNat)]) o
  else regPick [(0x100, 96, leVal (idkPub s))] o

/-- FW_STAT. -/
def fwStatReg (s : State) : Nat :=
  s.fw.boot % 16 + (s.fw.mgmt % 4) <<< 4 + boolNat s.fw.secSlot <<< 6 + boolNat s.fw.mgmtSlot <<< 7
    + boolNat s.fw.degraded <<< 8 + boolNat (emerg s) <<< 9 + boolNat s.fw.flashLow <<< 10 + (s.fw.spares % 256) <<< 11

def imgReg (i : Option Image) : Nat :=
  match i with
  | some x => x.version + x.svn <<< 32 + x.ifMin <<< 40 + x.ifMax <<< 48
  | none => 0

/-- The recovery buffer's words lie at 0x8000. -/
def mailReg (s : State) (o : Nat) : Nat :=
  if 0x8000 ≤ o then readLe s.fw.rcvBuf (o - 0x8000) 4
  else regPick ([(0x040, 4, fwStatReg s), (0x048, 8, imgReg s.fw.runSec), (0x050, 8, imgReg s.fw.runMgmt),
    (0x058, 4, actStat s), (0x05C, 4, arbValue s), (0x060, 8, s.fw.bootSeq.toNat), (0x080, 4, s.fw.rcvCtl.toNat)]) o

/-- Meter mirror (R452): MTR_STAT, then byte copies of the reading, the wrap record, the public key and the log. -/
def mirrorReg (s : State) (o : Nat) : Nat :=
  let at' (base : Nat) (bs : List Byte) : Nat := leVal ((bs.drop (o - base)).take 4)
  if o < 0x100 then regPick [(0x040, 4, mtrStat s)] o
  else if o < 0x300 then at' 0x100 s.mi.reading
  else if o < 0x400 then at' 0x300 s.mi.wrap
  else if o < 0x460 then at' 0x400 s.mi.pub
  else if 0x8000 ≤ o then leVal (((mapGet [] s.mi.log ((o - 0x8000) / 32)).drop ((o - 0x8000) % 32)).take 4)
  else 0

/-! ### Doorbell pages (Tables 14-1 to 14-3) -/

def qStatReg (s : State) (c q : Nat) : Nat :=
  match queueAt s { ctx := c, qid := q } with
  | none => (mapGet 0 (ctxAt s c).qinc q).toNat <<< 16
  | some x =>
    let st : Nat := match x.st with
      | .aborting => 4
      | .fault => 5
      | .idle => (match x.cmd with | none => 1 | some k => if k.st = .waiting then 2 else 3)
    x.head % 4096 + st <<< 12 + (mapGet 0 (ctxAt s c).qinc q).toNat <<< 16

def dbIfReg (s : State) (p : Nat) : Nat :=
  (match s.fw.runMgmt with | some i => i.ifMin % 256 + (i.ifMax % 256) <<< 8 | none => 0)
    + ((hportAt s p).negMaj % 256) <<< 16 + boolNat ((hportAt s p).negMaj ≠ 0) <<< 24

def dbReg (s : State) (c o : Nat) : Nat :=
  let x := ctxAt s c
  let f := funcAt s (ctxFunc s c)
  if o < 0x100 then regPick [
      (0, 4, c % 4096 + (ctxPort s c) <<< 12 + boolNat (isAdminCtx s.hw c) <<< 13 + boolNat x.vf.isSome <<< 14),
      (4, 4, f.finc.toNat + boolNat f.nrdy <<< 16 + (ctxTdi s c % 4) <<< 17), (8, 4, dbIfReg s (ctxPort s c)),
      (0x10, 4, match x.evr with | some r => r.tail % 4096 + 1 <<< 12 + r.lost.toNat <<< 16 | none => 0)] o
  else if 0x200 ≤ o && o < 0x280 && o % 4 = 0 then qStatReg s c ((o - 0x200) / 4)
  else 0

/-! ### Pages -/

/-- A block register of a unit, 32 bits at a page offset of 0x040 or more. -/
def unitReg (s : State) (u : UnitId) (o : Nat) : Nat :=
  match u with
  | .package =>
    if 0x400 ≤ o && o < 0x800 then (if o % 4 = 0 then budgetReg s ((o - 0x400) / 4) else 0)
    else if 0x800 ≤ o && o < 0xA00 then (if o % 4 = 0 then oppReg s ((o - 0x800) / 4) else 0)
    else regPick (packageRegs s) o
  | .cdie d => cdieReg s d o
  | .iodie i => if i = 0 then iodieRegs s o else 0
  | .cluster c => regPick (clusterRegs s c) o
  | .tile t => tileReg s t o
  | .stack k => regPick (mcRegs s (4 + k)) o
  | .near d => regPick (mcRegs s d) o
  | .fport p => regPick (fportRegs s p) o
  | .hport k => regPick (hportRegs s k) o
  | .service k => match k with
    | 0 => keyReg s o
    | 1 => lcReg s o
    | 2 => mirrorReg s o
    | 3 => mailReg s o
    | _ => 0
  | .spare _ | .link _ => 0

/-- A word of a unit's page: its header, then its block registers (R18, R25). -/
def pageReg (s : State) (u : UnitId) (o : Nat) : Nat :=
  if !(present s.hw u) then 0
  else if o < 0x40 then regPick (headerRegs s u) o
  else if blockLive s u then unitReg s u o
  else 0

/-- Pages of a service block: 64 KiB each (Table 1-17). -/
def serviceOf (a : Nat) : Option Nat := if 0x480000 ≤ a && a < 0x4C0000 then some ((a - 0x480000) / 65536) else none

/-- Table 1-17: the 32 bits at an aligned BAR0 offset of PF0. -/
def bar0Word (s : State) (a : Nat) : Nat :=
  match serviceOf a with
  | some k => pageReg s (.service k) (a % 65536)
  | none =>
    if 0x423000 ≤ a && a < 0x430000 then blockReg s (a - 0x420000)
    else if 0x800000 ≤ a && a < 0xA00000 then dbReg s ((a - 0x800000) / 4096) (a % 4096)
    else match unitOfPage (a / 4096) with
      | some u => pageReg s u (a % 4096)
      | none => 0

/-- R24 at a BAR0 whose aligned words are given: a read of 1, 2, 4 or 8 bytes; a misaligned one returns zero. -/
def narrowRead (word : Nat → Nat) (a n : Nat) : Nat :=
  if !([1, 2, 4, 8].contains n) || a % n ≠ 0 then 0
  else if n = 8 then word a + word (a + 4) <<< 32
  else (word (a / 4 * 4) >>> (8 * (a % 4))) % 2 ^ (8 * n)

/-- A read of BAR0 of PF0 (R24). -/
def bar0Read (s : State) (a n : Nat) : Nat := narrowRead (bar0Word s) a n

/-- R27: what PF1 reads of the same layout. -/
def bar0Pf1 (s : State) (a n : Nat) : Nat :=
  let hidden : Bool := match serviceOf a with
    | some k => k ≠ 2
    | none => 0x800000 ≤ a && a < 0xA00000 && ctxPort s ((a - 0x800000) / 4096) ≠ 1
  if hidden then 0 else bar0Read s a n

/-- Header offsets that a status view of a VF shows (R28). -/
def viewShown (o : Nat) : Bool := o = 0 || o = 4 || o = 0x10 || o = 0x14 || o = 0x30

/-- The partition of a context that the status views of its VF show: a context may own several (R356, R362) and R28 speaks of one; the
model takes the one with the lowest first tile (DESIGN CHOICE, log entry 121). -/
def ctxPart (s : State) (c : Nat) : Option Part := (s.tl.parts.find? (fun e => e.2.ctx = c)).map Prod.snd

/-- R28: the 32 bits at an aligned offset of BAR0 of VF v of a port. -/
def vfWord (s : State) (port v a : Nat) : Nat :=
  match s.rg.ctxs.find? (fun e => e.2.st ≠ .free && e.2.port = port && e.2.vf = some v) with
  | none => 0
  | some (c, _) =>
    if a < 4096 then dbReg s c a
    else match ctxPart s c with
      | none => 0
      | some p =>
        let i := a / 4096 - 1
        if i < 2 ^ p.log2n && viewShown (a % 4096) then regPick (headerRegs s (.tile (p.t0 + i))) (a % 4096) else 0

/-- A read of BAR0 of VF v of a port (R24, R28). -/
def bar0Vf (s : State) (port v a n : Nat) : Nat := narrowRead (vfWord s port v) a n

end Sys2Proof.Machine
end

