-- ==== Sys2Proof/Machine/RegWrite.lean ====
section
/-! DEFINITION. Writes to registers that have no row of their own, and the requests and replies between units with their timers
(spec 01: R24 to R26; 02: R40 to R46, R49; and the register tables of the later chapters). -/
namespace Sys2Proof.Machine
open Sys2Proof

/-! ### Register writes -/

def clampTo (lo hi v : Nat) : Nat := max lo (min hi v)

/-- One 32-bit half of a 64-bit register replaced. -/
def putHalf (old : W64) (hi : Bool) (v : Nat) : W64 :=
  if hi then BitVec.ofNat 64 (old.toNat % 2 ^ 32 + (v % 2 ^ 32) <<< 32)
  else BitVec.ofNat 64 (old.toNat / 2 ^ 32 * 2 ^ 32 + v % 2 ^ 32)

/-- The number n with the bits of m cleared. -/
def clearBits (n m : Nat) : Nat := n - Nat.land n m

/-- TMO_CFG as stored (Table 2-7). -/
def tmoStored (v : Nat) : W32 :=
  BitVec.ofNat 32 (clampTo 16 30 (bitsOf v 4 0) + clampTo 16 28 (bitsOf v 12 8) <<< 8 + clampTo 16 30 (bitsOf v 20 16) <<< 16)

/-- MC_CFG as stored (Table 11-9). -/
def mcCfgStored (v : Nat) : W32 := BitVec.ofNat 32 (v % 8 + max 1 (bitsOf v 15 8) <<< 8)

/-- MEM_SCRUB_CFG as stored (Table 11-12). -/
def scrubStored (v : Nat) : W32 :=
  BitVec.ofNat 32 (clampTo 1 4095 (bitsOf v 11 0) + clampTo 1 4095 (bitsOf v 23 12) <<< 12 + boolNat (bitOf v 24) <<< 24)

/-- UCT_TMR as stored; none where Table 10-9 does not store the value (R256). -/
def tmrStored (v : Nat) : Option W32 :=
  if bitsOf v 23 20 = 0 || bitsOf v 27 24 = 0 then none
  else some (BitVec.ofNat 32 (clampTo 12 24 (bitsOf v 4 0) + clampTo 6 16 (bitsOf v 9 5) <<< 5
    + clampTo 16 26 (bitsOf v 14 10) <<< 10 + clampTo 22 31 (bitsOf v 19 15) <<< 15 + bitsOf v 23 20 <<< 20
    + bitsOf v 27 24 <<< 24))

/-- SHARD_CFG as stored (Table 15-13). -/
def shardCfgStored (v : Nat) : W32 := BitVec.ofNat 32 (clampTo 30 44 (bitsOf v 5 0) + boolNat (bitOf v 6) <<< 6)

/-- PART_BURN without GO: its RW fields (Table 15-11). A write with GO is PART_BURN_GO's. -/
def partBurnWrite (w : Writer) (u : UnitId) (v : Nat) (s : State) : State :=
  if w ≠ .mgmt || bitOf v 16 then s else { s with un := { s.un with partBurn := mapSet s.un.partBurn (pageOf u) (v % 8192) } }

def budgetWrite (k v : Nat) (s : State) : State :=
  pwSet s { s.pw with budget := mapSet (mapSet s.pw.budget (2 * k) (v % 65536)) (2 * k + 1) (v / 65536 % 65536) }

/-- Package root registers (Tables 2-7, 2-12, 15-11, 18-12, 18-14, 18-15; R456). -/
def packageWrite (w : Writer) (o v : Nat) (s : State) : State :=
  if o = 0x040 then { s with un := { s.un with tmo := tmoStored v } }
  else if o = 0x070 then
    (if bitOf v 31 then { s with un := { s.un with lastAbort := s.un.lastAbort &&& 0x7FFFFFFF } } else s)
  else if o = 0x140 then partBurnWrite w .package v s
  else if o = 0x204 then (if w = .mgmt then pwSet s { s.pw with policy := BitVec.ofNat 32 (v % 2) } else s)
  else if o = 0x208 then (if w = .pf0 then pwSet s { s.pw with seen := clearBits s.pw.seen (bitsOf v 21 16) } else s)
  else if o = 0x2F0 || o = 0x2F4 then
    (if w = .mgmt then pwSet s { s.pw with appOper := putHalf s.pw.appOper (o = 0x2F4) v } else s)
  else if o = 0x30C then (if w = .pf0 then pwSet s { s.pw with ageThr := BitVec.ofNat 32 (v % 65536) } else s)
  else if 0x400 ≤ o && o < 0x800 then (if w = .mgmt then budgetWrite ((o - 0x400) / 4) v s else s)
  else s

/-- SUBST_CTL without GO and CANCEL: its RW fields (Table 2-13). -/
def clusterWrite (w : Writer) (c o v : Nat) (s : State) : State :=
  if o = 0x040 then
    (if (w = .mgmt || w = .sec) && !(bitOf v 7) && !(bitOf v 8) then
      { s with un := { s.un with substCtl := mapSet s.un.substCtl c (v % 128) } } else s)
  else if o = 0x140 then partBurnWrite w (.cluster c) v s
  else s

/-- APP_CTX (Table 18-14) and PART_BURN of a compute die. -/
def cdieWrite (w : Writer) (d o v : Nat) (s : State) : State :=
  if o = 0x140 then partBurnWrite w (.cdie d) v s
  else if 0x400 ≤ o && o < 0x800 && w = .mgmt then
    let c := 128 * d + (o - 0x400) / 8
    pwSet s { s.pw with appCtx := mapSet s.pw.appCtx c (putHalf (mapGet 0 s.pw.appCtx c) (o % 8 = 4) v) }
  else s

/-- A check counter: writing all ones clears it, any other write is ignored (Table 3-12). -/
def counterWrite (old : W32) (v : Nat) : W32 := if v % 2 ^ 32 = 2 ^ 32 - 1 then 0 else old

/-- W1C registers of a tile (Tables 3-7, 3-10, 3-12). -/
def tileWrite (t o v : Nat) (s : State) : State :=
  let x := tileAt s t
  let n := x.num
  let put (m : NumRegs) : State := tileSet s t { x with num := m }
  if o = 0x100 || o = 0x104 then
    put { n with nflags := BitVec.ofNat 64 (clearBits n.nflags.toNat (if o = 0x104 then (v % 2 ^ 32) <<< 32 else v % 2 ^ 32)) }
  else if o = 0x114 then (if bitOf v 31 then put { n with firstInv := n.firstInv &&& 0x7FFFFFFF } else s)
  else if o = 0x118 then put { n with resErr := counterWrite n.resErr v }
  else if o = 0x11C then put { n with sramCe := counterWrite n.sramCe v }
  else if o = 0x120 then put { n with sramUe := counterWrite n.sramUe v }
  else s

/-- Life-cycle tokens (R394) and the recovery registers and buffer while boot has failed (R428). -/
def serviceWrite (w : Writer) (k o v : Nat) (s : State) : State :=
  if w ≠ .pf0 then s
  else if k = 1 && 0x060 ≤ o && o < 0x080 then
    lcSet s { s.ks.lc with token := mapSet s.ks.lc.token ((o - 0x060) / 4) (BitVec.ofNat 32 v) }
  else if k = 3 && s.fw.boot = 15 then
    (if o = 0x080 then (if bitOf v 31 then s else fwSet s { s.fw with rcvCtl := BitVec.ofNat 32 v &&& 0x40FFFFFF })
     else if 0x8000 ≤ o then fwSet s { s.fw with rcvBuf := writeLe s.fw.rcvBuf (o - 0x8000) 4 v }
     else s)
  else s

/-- The memory-wide, encryption and UCT registers of io0 (Tables 10-9, 10-10, 11-12, 12-13). -/
def blockWrite (w : Writer) (o v : Nat) (s : State) : State :=
  if o = 0x3000 then (if w = .mgmt then { s with mm := { s.mm with scrubCfg := scrubStored v } } else s)
  else if o = 0x3004 then
    (if w = .mgmt then migResume { s with mm := { s.mm with migRate := BitVec.ofNat 32 (v % 256) } } else s)
  else if o = 0x3008 then (if w = .pf0 then { s with mm := { s.mm with rsvLow := BitVec.ofNat 32 (v % 65536) } } else s)
  else if 0x5100 ≤ o && o < 0x5180 then
    (if w ≠ .sec || drLocked s then s
     else
      let r := (o - 0x5100) / 16
      let hi : Bool := o % 8 = 4
      if o % 16 < 8 then
        { s with mm := { s.mm with drBase := mapSet s.mm.drBase r (putHalf (mapGet 0 s.mm.drBase r) hi v &&& 0x80000FFFFFFFFFFF) } }
      else
        { s with mm := { s.mm with drLimit := mapSet s.mm.drLimit r (putHalf (mapGet 0 s.mm.drLimit r) hi v &&& 0x800003FFFFFFFFFF) } })
  else if o = 0x6008 then
    (if w ≠ .pf0 then s
     else match tmrStored v with
      | some t => { s with fb := { s.fb with tmr := t } }
      | none => s)
  else if o = 0x6010 then
    (if w = .pf0 && bitOf v 31 then { s with fb := { s.fb with stat := s.fb.stat &&& 0x7FFFFFFF } } else s)
  else s

/-- A 32-bit write to a block register of a unit. -/
def unitWrite (w : Writer) (u : UnitId) (o v : Nat) (s : State) : State :=
  match u with
  | .package => packageWrite w o v s
  | .cdie d => cdieWrite w d o v s
  | .cluster c => clusterWrite w c o v s
  | .tile t => tileWrite t o v s
  | .stack k => if o = 0x040 && w = .mgmt then mcSet s (4 + k) { mcAt s (4 + k) with cfg := mcCfgStored v } else s
  | .near d => if o = 0x040 && w = .mgmt then mcSet s d { mcAt s d with cfg := mcCfgStored v } else s
  | .iodie i => if i = 0 && o = 0x040 && w = .pf0 then { s with rg := { s.rg with shardCfg := shardCfgStored v } } else s
  | .service k => serviceWrite w k o v s
  | .spare _ | .fport _ | .hport _ | .link _ => s

/-- A UNIT_CTL write with a reserved CMD (R20, cases 1 to 3); the other values of CMD have rows of their own. -/
def ctlReserved (w : Writer) (u : UnitId) (v : Nat) (s : State) : State :=
  if !(present s.hw u) || !(bar0Unit s w u) || v % 8 < 6 then s
  else if (unitAt s u).cmdBusy then unitEvt s u 4
  else cmdDone s u stInvalid

/-- A 32-bit write at an aligned BAR0 offset: to a fitted unit whose block registers are live (R25), or to the io0 block. -/
def wordWrite (w : Writer) (a v : Nat) (s : State) : State :=
  let go (u : UnitId) (o : Nat) : State :=
    if o = 0x00C then ctlReserved w u v s
    else if present s.hw u && bar0Unit s w u && 0x40 ≤ o && blockLive s u then unitWrite w u o v s else s
  match serviceOf a with
  | some k => go (.service k) (a % 65536)
  | none =>
    if 0x423000 ≤ a && a < 0x430000 then (if bar0Open s w then blockWrite w (a - 0x420000) v s else s)
    else match unitOfPage (a / 4096) with
      | some u => go u (a % 4096)
      | none => s

/-- REGISTER_WRITE (R24, R26, R27): 32 or 64 bits, aligned; a 64-bit write covers two registers, the lower address first. Registers
with a row of their own are left to it (log entry 10). -/
def execRegisterWrite (w : Writer) (off width : Nat) (v : W64) (s : State) : Out :=
  if !(mayWrite w) || !(width = 4 || width = 8) || off % width ≠ 0 then .next s
  else if width = 4 then .next (wordWrite w off (v.toNat % 2 ^ 32) s)
  else .next (wordWrite w (off + 4) (v.toNat / 2 ^ 32) (wordWrite w off (v.toNat % 2 ^ 32) s))

/-! ### Requests (R41, R45, R46) -/

/-- The bytes that a merge writes: byte i of the line where bit i of the mask is set. -/
def mergeBytes (va mask : Nat) (bs : List Byte) : List (Nat × Byte) :=
  ((List.range 64).filter (bitOf mask)).map (fun i => (va / 64 * 64 + i, bs.getD i 0))

/-- A memory controller, or io0 for the far tier. -/
def servesMemory (u : UnitId) : Bool := (mcIndex u).isSome || u = io0

/-- Table 12-8: requesters that the inline engines serve on a context's tenant-keyed frames: its tiles and their clusters, its DMA through an
I/O die, and the controllers themselves. -/
def tenantMay (s : State) (src : UnitId) (ctx : Nat) : Bool :=
  match src with
  | .tile t => partCtx s t = some ctx
  | .cluster c => (List.range 16).any (fun i => partCtx s (16 * c + i) = some ctx)
  | .iodie _ => true
  | .near _ => true
  | .stack _ => true
  | _ => false

/-- A requester other than these reaches a line of a tenant-keyed frame (R304). -/
def tenantBlocked (s : State) (r : Req) (a n : Nat) (wr : Bool) : Bool :=
  !(tenantMay s r.src r.ctx) && (spanLines a n).any (fun p => match xlate s r.ctx p.1 wr with
    | .page _ _ _ => true
    | .fault _ => false)

/-- Bytes that a memory request touches: address, length, and whether it writes. -/
def reqSpan (r : Req) : Nat × Nat × Bool :=
  match r.op with
  | .read => (r.va, r.len, false)
  | .write bs => (r.va, bs.length, true)
  | .merge _ _ => (r.va / 64 * 64, 64, true)
  | .message => (0, 0, false)

/-- An accepted request is performed: its status and data (R42). A foreign access to a tenant-keyed frame touches no line (R304). -/
def reqPerform (s : State) (r : Req) : State × Nat × List Byte :=
  if !(servesMemory r.tgt) then (s, stOk, [])
  else if tenantBlocked s r (reqSpan r).1 (reqSpan r).2.1 (reqSpan r).2.2 then
    ({ s with mm := { s.mm with blockCnt := satInc s.mm.blockCnt } }, stDenied, [])
  else match r.op with
    | .read => let m := ctxRead s none r.ctx r.va r.len r.ev; (m.s, m.status, m.data)
    | .write bs => let m := ctxWriteAt s none r.ctx r.va bs r.ev; (m.s, m.status, [])
    | .merge mask bs => let m := ctxWrite s none r.ctx (mergeBytes r.va mask bs) r.ev; (m.s, m.status, [])
    | .message => (s, stOk, [])

/-- A line of the request waits for a remap or a migration. -/
def reqWaits (s : State) (r : Req) : Bool :=
  servesMemory r.tgt && (match r.op with
    | .read => spanWaits s none r.ctx r.va r.len false r.ev
    | .write bs => spanWaits s none r.ctx r.va bs.length true r.ev
    | .merge _ _ => spanWaits s none r.ctx (r.va / 64 * 64) 64 true r.ev
    | .message => false)

/-- An accepted request is performed and its answer sent; it waits, accepted and unanswered, while a line of it waits for a remap or a
migration (R41, R45, R273, R276). -/
def reqServe (s : State) (r : Req) : State :=
  let s1 := { s with un := { s.un with accepted := s.un.accepted.filter (fun a => !(a.src = r.src && a.tag = r.tag && a.reqInc = r.reqInc)) } }
  if reqWaits s1 r then { s1 with un := { s1.un with accepted := s1.un.accepted ++ [r] } }
  else
    let p := reqPerform s1 r
    reqReply p.1 r p.2.1 p.2.2

/-- The target has accepted this request and not answered it. -/
def reqAccepted (s : State) (r : Req) : Bool :=
  s.un.accepted.any (fun a => a.src = r.src && a.tag = r.tag && a.reqInc = r.reqInc && a.tgt = r.tgt)

/-- REQUEST_ARRIVAL (R16, R41): a packet without a route waits at its source, its timers running; one that arrives is buffered for a moving
tile, refused by incarnation or state, or accepted and performed. The same command for a request accepted before serves it once its
lines no longer wait. -/
def execRequestArrival (r : Req) (s : State) : Out :=
  if !(present s.hw r.src) || !(present s.hw r.tgt) then .next s
  else if reqAccepted s r then .next (reqServe s r)
  else if !(requestSent s r) then .next s
  else if !(joined s r.src r.tgt) then .next (outIssued s r false)
  else match movingTile s r.tgt with
    | some c => .next (substSet (outIssued s r true) c { substAt s c with buffered := (substAt s c).buffered ++ [r] })
    | none =>
      match txnRefusal (unitAt s r.tgt) (BitVec.ofNat 16 r.tgtInc) (joinedTo s r.txn r.tgt) with
      | some st => .next (reqReply (countStale (outIssued s r true) st) r st [])
      | none => .next (reqServe (outIssued s r true) r)

/-! ### Replies (R44, R46) -/

/-- REPLY_ARRIVAL (R44): a reply on its way reaches its requester; or, for a host function, a read completion comes from the host
with the incarnation of its issue, and a stale one is dropped and counted by the port (R322). -/
def execReplyArrival (u : UnitId) (tag : Nat) (reqInc rspInc : Half) (tgt : UnitId) (status : Nat) (func : Option Nat) (s : State) : Out :=
  match func with
  | some fk =>
    if (funcAt s fk).finc = reqInc then .next s
    else
      let p := hportAt s (funcPort fk)
      .next (replyStale (hportSet s (funcPort fk) { p with staleCpl := satInc p.staleCpl }) (.hport (funcPort fk)))
  | none =>
    let is (r : Reply) : Bool := r.src = pageOf u && r.tag = tag && r.reqInc = reqInc && r.rspInc = rspInc && r.tgt = pageOf tgt
      && r.status = status
    match s.un.replies.find? is with
    | none => .next s
    | some r =>
      if !(joined s u tgt) then .next s
      else
      let s1 := { s with un := { s.un with replies := s.un.replies.erase r } }
      match outFind s1 (pageOf u) tag with
      | some o => if reqInc = (unitAt s u).inc then .next (replyTake s1 o r) else .next (replyStale s1 u)
      | none => .next (replyStale s1 u)

/-- A refused request leaves its source again, with the target incarnation that the table now holds. -/
def reissue (s : State) (o : Outst) : State :=
  outUpd s o.src o.tag (fun o => { o with
    waiting := false, arrived := false, tries := min 7 (o.tries + 1), tgtInc := mapGet 0 s.un.incTab (o.src * 65536 + o.tgt) })

/-- REQUEST_REISSUE (R46, R54): with the current incarnation of its target, after a wait that doubles up to 8,192 cycles. The OPEN of a
substitution is decided by the package root at once. -/
def execRequestReissue (u : UnitId) (tag : Nat) (s : State) : Out :=
  match outFind s (pageOf u) tag with
  | some o =>
    if !o.waiting then .next s
    else match u with
    | .cluster c => if tag = openTag then .next (substRetry s c) else .next (reissue s o)
    | _ => .next (reissue s o)
  | none => .next s

/-- REQUEST_SOFT_TIMEOUT (R49). -/
def execRequestSoftTimeout (u : UnitId) (tag : Nat) (s : State) : Out :=
  match outFind s (pageOf u) tag with
  | some o =>
    if o.soft then .next s
    else .next (errLog (outUpd s o.src tag (fun o => { o with soft := true })) u stReqTimeout 0
      (match unitOfPage o.tgt with | some t => unitIdReg t | none => 0) 0 none)
  | none => .next s

/-- REQUEST_HARD_TIMEOUT (R49): the request completes locally with REQ_TIMEOUT and its tag is discarded. -/
def execRequestHardTimeout (u : UnitId) (tag : Nat) (s : State) : Out :=
  match outFind s (pageOf u) tag with
  | some o => if o.soft then .next (outEnd s o.src tag stReqTimeout) else .next s
  | none => .next s

end Sys2Proof.Machine
end

