-- ==== Sys2Proof/Machine/BootCmds.lean ====
section
/-! DEFINITION. Rails off, cold reset, the boot steps with their restarts and fallback, and recovery (spec 17: R410, R412, R413,
R415 to R418, R470; spec 18: R433, R434; spec 19: R459, R464). -/
namespace Sys2Proof.Machine
open Sys2Proof

/-! ### What the flash keeps (R418) -/

/-- A substitution recorded as intent is applied as if it had completed: armed and moving ones switch, and a vacated slot that was to
be retired is. -/
def recordSubst (s : State) (e : Nat × Subst) : State :=
  let c := e.1
  let x := e.2
  let s1 := if (x.phase = .armed || x.phase = .moving) && x.tid.isSome then substSwitch s c (substLTile c x.ltile) else s
  if x.phase ≠ .idle && x.retireOld then unitSet s1 (.spare c) { unitAt s1 (.spare c) with state := .retired } else s1

/-- A pseudo-channel's record: an evacuation counts as completed, a remap under way too. -/
def recordPc (p : PcSt) : PcSt :=
  { st := if 2 ≤ p.st then 3 else p.st, spare := p.spare, rows := p.rows ++ p.pending.filter (fun r => !(p.rows.contains r)),
    lspare := p.lspare }

/-- The persistent records as the flash holds them when power fails, or a boot attempt ends: what boot has restored so far is
taken from the running state, the rest stays as recorded. -/
def saveRecords (s : State) : State :=
  let on : Bool := s.fw.boot ≠ 15
  let s1 := s.un.subst.foldl recordSubst s
  let gone := (s1.un.tab.filter (fun e => e.2.state = .retired)).map Prod.fst
  let r := s.fw.recs
  fwSet s { s.fw with recs := {
    retired := if on && 11 ≤ s.fw.boot then gone else (r.retired ++ gone).eraseDups,
    phys := if on && 11 ≤ s.fw.boot then s1.un.phys else r.phys,
    pcs := if on && 9 ≤ s.fw.boot then s.mm.pcs.map (fun e => (e.1, recordPc e.2)) else r.pcs } }

/-- Firmware state that the flash keeps: slots, header, map, journal with the boot attempts, records and settings. A slot being
staged is no longer. -/
def flashKeeps (f : FwSt) : FwSt :=
  { slots := f.slots.map (fun e => (e.1, if e.2.st = 1 then { e.2 with st := 0, got := [] } else e.2)), secSlot := f.secSlot,
    mgmtSlot := f.mgmtSlot, hdrSeq := f.hdrSeq, badMap := f.badMap, spares := f.spares, flashLow := f.flashLow,
    bootSeq := f.bootSeq, journal := f.journal, recs := f.recs, fails := f.fails, stepFails := f.stepFails,
    fellBack := f.fellBack, set0 := f.set0, set1 := f.set1, setSel := f.setSel, setNew := f.setNew }

/-- OTP of the life-cycle block without what only a running AON domain holds. -/
def lcOtp (x : LcSt) : LcSt := { segs := x.segs, consume := x.consume, digests := x.digests, state := x.state }

/-- R433, R442, R459: every rail but the meter's is off; the AON domain stays up only in a trip. All state outside OTP and flash is
lost, TRIP_CAUSE apart. -/
def railsOff (s : State) (aon : Bool) : State :=
  let s1 := saveRecords s
  { hw := s.hw, un := {}, tl := {}, rg := {}, mm := {},
    ks := { saved := s.ks.saved, lc := if aon then s.ks.lc else lcOtp s.ks.lc, otpKeys := s.ks.otpKeys, arb := s.ks.arb },
    fw := flashKeeps s1.fw, fb := {},
    pw := { on := false, trip := s.pw.trip, tripped := s.pw.tripped, tripMem := s.pw.tripMem, capW := ceilingW s.hw.variant,
            warn := s.pw.warn, pwrDie := if aon then s.pw.pwrDie else 0, thDie := if aon then s.pw.thDie else 0,
            thAux := if aon then s.pw.thAux else 0, coolant := if aon then s.pw.coolant else 0,
            hotRead := s.pw.hotRead },
    mt := s.mt, mi := {}, pn := if aon then s.pn else { s.pn with jtagIr := 1, jtagDr := 0, i3cRsp := [], alert := false },
    free := s.free, pending := s.pending }

/-! ### Cold reset (R413, R434, R460) -/

/-- The number of the highest set bit plus one. -/
def topBit (v : W64) : Nat := (List.range 64).foldl (fun m i => if v.getLsbD i then i + 1 else m) 0

/-- A cold reset of a device whose rails were off: HP_SPLIT is sampled, clear bits beneath a set ARB bit are programmed, BOOT_SEQ
advances, and the first boot attempt begins. -/
def coldReset (s : State) (split : Bool) : State :=
  let f := s.fw
  let s1 := { s with
    hw := { s.hw with split := split }, rg := ringsReset split,
    ks := { s.ks with lc := lcCold s.ks.lc, arb := thermo (topBit s.ks.arb) },
    pw := { capW := ceilingW s.hw.variant, trip := s.pw.trip, warn := s.pw.warn },
    pn := { s.pn with hpSplit := split, boardFlash := !s.pn.flashPin } }
  let s2 := fwSet s1 { f with bootSeq := f.bootSeq + 1, booting := true, boot := 0, attempt := 1,
                              setSel := if f.setNew then !f.setSel else f.setSel, setNew := false }
  let s3 := journalAdd s2 1 0 stOk 0
  alertEdge (if s.pw.warn then emergOn s3 0 else s3)

/-! ### Steps (Table 17-4) -/

def stepVaries (k : Nat) : Bool := [2, 3, 6, 8, 9, 10, 11, 13].contains k
def stepSkips (k : Nat) : Bool := k = 5 || (8 ≤ k && k ≤ 12)

/-- How the next attempt handles a step: by the failures that the journal holds for it. -/
inductive StepMode where
  | normal
  | varied
  | skipped
  deriving DecidableEq, Repr

def stepMode (s : State) (k : Nat) : StepMode :=
  let n := mapGet 0 s.fw.stepFails k
  if n = 0 then .normal
  else if 2 ≤ n && stepSkips k then .skipped
  else if stepVaries k then .varied
  else .normal

/-- Boot waits: for ever in SCRAP and TRANSITION_INCOMPLETE, after the boot ROM's steps in RAW, at step 2 while the board owns the
flash (R469), and at step 13 while a port's PERST# is low. -/
def bootWaits (s : State) (k : Nat) : Bool :=
  let st := lcState s
  (k = 1 && (st = 6 || st = 7)) || (k = 4 && st = 0) || (k = 2 && s.pn.boardFlash)
    || (k = 13 && (!s.pn.perst0 || (s.hw.split && !s.pn.perst1)))

def degrade (s : State) : State := unitEvt (fwSet s { s.fw with degraded := true }) fwUnit (2 ^ 17)

/-- The image that steps 3 and 6 load: the active slot's, or the other slot's under their variation. -/
def bootImage (s : State) (kind : Nat) (m : StepMode) : Nat × Option Image :=
  imgVerify s kind (if m = .varied then !(activeB s kind) else activeB s kind)

/-- The status a step ends with: that of its image for steps 3 and 6, otherwise as it went. -/
def stepStatus (s : State) (k : Nat) (m : StepMode) (x : BootStep) : Nat :=
  let st := if k = 3 then (bootImage s 1 m).1 else if k = 6 then (bootImage s 2 m).1 else stOk
  if st ≠ stOk then st else x.status

/-- Step 4: d.8 to d.10, the keys of DR0 to DR7, and the ranges, written and locked (R288). -/
def bootKeys (s : State) (x : BootStep) : State :=
  let s1 := (List.range 8).foldl (fun s j => drawn (slotInstall s (deviceSlot j) 1 0x10 1 false true (randKey s 1))) (deriveDevice s)
  let en : W64 := 0x8000000000000000
  let put (m : MemSt) (r : Nat × W64 × W64) : MemSt :=
    if r.1 = 4 || 6 ≤ r.1 then m
    else { m with drBase := mapSet m.drBase r.1 ((r.2.1 &&& 0x80000FFFFFFFFFFF) ||| en),
                  drLimit := mapSet m.drLimit r.1 ((r.2.2 &&& 0x3FFFFFFFFFF) ||| en) }
  let m1 := x.ranges.foldl put s1.mm
  { s1 with mm := { m1 with drBase := mapSet m1.drBase 4 (en ||| 0x80000000000), drLimit := mapSet m1.drLimit 4 (en ||| 0x3FFFFFFFFFF) } }

/-- Step 5: non-volatile keys sealed under the current state's d.10 return to their slots. -/
def bootRestoreKeys (s : State) : State :=
  (s.ks.saved.filter (fun e => e.2.state = lcState s)).foldl (fun s e => slotSet s e.1 e.2.slot) s

def unitStateTo (s : State) (u : UnitId) (st : UState) : State := setUState s u st

/-- Brings up the units of a list that are recorded as retired or in RUN. -/
def bootUnits (s : State) (us : List UnitId) (down : UState) (failed : List UnitId) : State :=
  (us.filter (present s.hw)).foldl (fun s u =>
    if s.fw.recs.retired.contains (pageOf u) then unitStateTo s u .retired
    else if failed.contains u then unitStateTo s u down
    else unitStateTo s u .run) s

/-- Steps 8 and 9: the controllers from m to m + n − 1 with the PCs of their records; the variation retires the failing PCs, a skip
the failing controllers. -/
def bootMemory (s : State) (us : List UnitId) (ms : List Nat) (m : StepMode) (x : BootStep) : State :=
  let keep := s.fw.recs.pcs.filter (fun e => ms.contains (e.1 / 128))
  let s1 := keep.foldl (fun s e => pcSet s e.1 e.2) s
  let s2 := bootUnits s1 us .retired (if m = .skipped then x.units else [])
  if m ≠ .varied then s2
  else (x.pcs.filter (fun p => ms.contains p.1 && p.2 < mcPcs p.1)).foldl (fun s p => pcRetire s (p.1 * 128 + p.2)) s2

/-- A tile or spare is reset after its test. -/
def bootTile (s : State) (u : UnitId) (st : UState) : State :=
  let x := unitAt s u
  unitStateTo (unitSet s u { x with inc := x.inc + 1 }) u st

/-- The variation of step 11: the cluster's spare slot backs the failing tile, whose own slot is retired under the spare page. -/
def bootSubst (s : State) (u : UnitId) : State :=
  match u with
  | .tile t =>
    let c := t / 16
    if (unitAt s (.spare c)).state = .retired then unitStateTo s u .retired
    else unitStateTo (substSwitch s c t) (.spare c) .retired
  | .spare _ => unitStateTo s u .retired
  | _ => s

def allTiles : List UnitId := (List.range 512).map .tile
def allSpares : List UnitId := (List.range 32).map .spare

/-- Step 11: dies and clusters run, substitutions and retirements are restored, and each tile is tested and reset (R470). -/
def bootTiles (s : State) (m : StepMode) (x : BootStep) : State :=
  let s1 := bootUnits s ((List.range 4).map UnitId.cdie ++ (List.range 32).map UnitId.cluster) .run []
  let s2 := { s1 with un := { s1.un with phys := s1.fw.recs.phys } }
  let s3 := (s2.fw.recs.retired).foldl (fun s p => match unitOfPage p with
    | some u => unitStateTo s u .retired
    | none => s) s2
  let s4 := match m with
    | .normal => s3
    | .varied => x.units.foldl bootSubst s3
    | .skipped => (x.units.filter (fun u => allTiles.contains u || allSpares.contains u)).foldl (fun s u => unitStateTo s u .retired) s3
  let live (s : State) (u : UnitId) : Bool := (unitAt s u).state ≠ .retired
  let s5 := (allTiles.filter (live s4)).foldl (fun s u => bootTile s u .sleep) s4
  (allSpares.filter (live s5)).foldl (fun s u => bootTile s u .off) s5

/-- Step 12: io1 and the fabric ports run; a failing port stays OFF. -/
def bootPorts (s : State) (m : StepMode) (x : BootStep) : State :=
  let s1 := bootUnits s [.iodie 1] .off []
  bootUnits s1 ((List.range 16).map UnitId.fport) .off (if m = .skipped then x.units else [])

/-- A register that management firmware writes, as far as a setting can write it (R410). -/
def settingReg (s : State) (a : Nat) : Bool :=
  let o := a % 4096
  a % 4 = 0 && (a = 0x40 || a = 0x200 || a = 0x204 || a = 0x2F0 || a = 0x2F4 || a = 0x300 || a = 0x304
    || (0x400 ≤ a && a < 0xA00) || a = 0x423000 || a = 0x423004
    || (match unitOfPage (a / 4096) with
      | some u => present s.hw u && (match u with
        | .stack _ | .near _ => o = 0x040
        | .cdie _ => 0x400 ≤ o && o < 0x800
        | _ => false)
      | none => false))

/-- One settings entry of 16 bytes: BAR0 offset, mask, value; any other register is ignored and journalled. -/
def settingApply (s : State) (e : List Byte) : State :=
  let a := leVal (e.take 4)
  let m := leVal ((e.drop 4).take 4)
  let v := leVal ((e.drop 8).take 8) % 2 ^ 32
  if !(settingReg s a) then journalAdd s 12 13 stOk a
  else
    let new := clearBits (bar0Word s a) m + Nat.land v m
    if a = 0x200 then capWrite s new
    else if a = 0x300 || a = 0x304 then ageWrite s (putHalf s.pw.agePred (a = 0x304) new)
    else wordWrite .mgmt a new s

/-- Step 13: the host ports run on the links that trained, and the settings block applies. -/
def bootHost (s : State) (x : BootStep) : State :=
  let s1 := bootUnits s [.hport 0, .hport 1] .run []
  let link (s : State) (l : Nat × Nat × Nat × Bool) : State :=
    if !(portPresent s l.1) then s
    else unitEvt (hportSet s l.1 { hportAt s l.1 with speed := l.2.1 % 8, width := min 16 l.2.2.1, flit256 := l.2.2.2 })
      (.hport l.1) (2 ^ 16)
  let s2 := x.links.foldl link s1
  (chunks 4096 16 (settings s2)).foldl settingApply s2

/-- Step 14: the admin rings open, every unit's STATE_CHG, CMD_DONE and CMD_DROP clear, and the boot record closes. -/
def bootEnd (s : State) : State :=
  let s1 := { s with un := { s.un with tab := s.un.tab.map (fun e => (e.1, { e.2 with evt := e.2.evt &&& ~~~7 })) } }
  let s2 := journalAdd s1 13 0 stOk 0
  fwSet s2 { s2.fw with booting := false, fails := 0, stepFails := [], fellBack := [] }

/-- What a step that ends with OK, or is skipped, has done. -/
def stepEffect (s : State) (k : Nat) (m : StepMode) (x : BootStep) : State :=
  match k with
  | 3 => fwSet s { s.fw with runSec := (bootImage s 1 m).2 }
  | 4 => bootKeys s x
  | 5 => if m = .skipped then s else bootRestoreKeys s
  | 6 => fwSet s { s.fw with runMgmt := (bootImage s 2 m).2, mgmt := 1 }
  | 8 => bootMemory s ((List.range 4).map UnitId.near) (List.range 4) m x
  | 9 => bootMemory s ((List.range 12).map UnitId.stack) ((List.range 12).map (fun i => 4 + i)) m x
  | 10 => bootUnits s ((List.range 8).map UnitId.link) .off (if m = .skipped then x.units else [])
  | 11 => bootTiles s m x
  | 12 => bootPorts s m x
  | 13 => bootHost s x
  | 14 => bootEnd s
  | _ => s

/-! ### Failures (R416, R417) -/

/-- A boot restart: every core starts from the boot ROM, and every unit except io0 and the service blocks is reset
(R39, R416). -/
def bootRestart (s : State) : State :=
  let s0 := saveRecords s
  let back (u : UnitId) : Bool := !(isService u) && u ≠ io0
  let tab := (allUnits.filter (fun u => present s.hw u && back u)).foldl (fun m u =>
    let x := unitAt s u
    mapSet m (pageOf u) { unitInit u with inc := x.inc + 1, err0 := x.err0, err1 := x.err1, err2 := x.err2, err3 := x.err3 }) s.un.tab
  let f := s0.fw
  let s1 := { s0 with un := { tab := tab }, tl := {}, mm := {}, fb := {}, ks := { s.ks with slots := [], sessions := [], spdmCon := [], doe := [] } }
  fwSet s1 { f with boot := 0, attempt := f.attempt + 1, runSec := none, runMgmt := none, mgmt := 0 }

/-- A failed attempt with a step at fault: the next attempt, the other slot of the failing kind, or BOOT_FAILED. -/
def bootFail (s : State) (k : Nat) : State :=
  let kind := if k ≤ 5 then 1 else 2
  let s1 := bootRestart (fwSet s { s.fw with stepFails := mapSet s.fw.stepFails k (mapGet 0 s.fw.stepFails k + 1),
                                             fails := s.fw.fails + 1 })
  let f := s1.fw
  if f.fails < 3 then s1
  else if f.fellBack.contains kind || (imgVerify s1 kind (idleSlot s1 kind)).2.isNone then
    alertEdge (fwSet s1 { f with boot := 15, booting := false, fails := 0, stepFails := [], fellBack := [] })
  else
    let s2 := fwSet s1 { f with
      secSlot := if kind = 1 then !f.secSlot else f.secSlot, mgmtSlot := if kind = 2 then !f.mgmtSlot else f.mgmtSlot,
      hdrSeq := f.hdrSeq + 1, fails := 0, stepFails := [], fellBack := f.fellBack ++ [kind] }
    journalAdd s2 6 0 stOk (imgKey kind (activeB s2 kind))

/-- One boot step: begun and ended in the journal, or skipped. -/
def bootOne (s : State) (x : BootStep) : State :=
  let k := s.fw.boot + 1
  let m := stepMode s k
  let s0 := match m with
    | .normal => s
    | .varied => degrade (journalAdd s 5 k stOk 0)
    | .skipped => degrade (journalAdd s 4 k stOk 0)
  let s1 := journalAdd s0 2 k stOk 0
  let st := if m = .skipped then stOk else stepStatus s k m x
  let s2 := journalAdd s1 3 k st 0
  if st ≠ stOk then bootFail s2 k
  else
    let s3 := stepEffect s2 k m x
    alertEdge (fwSet s3 { s3.fw with boot := k })

/-- Boot goes on through the steps given, until it waits, fails for good or ends. -/
def bootGo (steps : List BootStep) (s : State) : State :=
  match steps with
  | [] => s
  | x :: r => if !s.fw.booting || bootWaits s (s.fw.boot + 1) then s else bootGo r (bootOne s x)

/-- BOOT_WATCHDOG (R416): the step in progress fails. -/
def execBootWatchdog (steps : List BootStep) (s : State) : Out :=
  if !s.pw.on || !s.fw.booting then .next s else .next (bootGo steps (bootFail s (s.fw.boot + 1)))

/-- The 32 KiB recovery buffer written at an offset of a slot, as far as the slot reaches. -/
def rcvSlot (x : ImgSlot) (off size : Nat) (buf : Bytes) : ImgSlot :=
  let n := min 32768 (size - off)
  { st := 1, bytes := writeBytes (clearBytes x.bytes off n) off (readBytes buf 0 n), len := max x.len (off + n) }

/-- RCV_GO (R417, Table 17-14): in BOOT_FAILED the buffer goes to the inactive slot of KIND; with LAST, an image that verifies becomes
active and the boot restarts. -/
def execRcvGo (w : Writer) (v : W32) (steps : List BootStep) (s : State) : Out :=
  if w ≠ .pf0 || s.fw.boot ≠ 15 || !(bar0Unit s w fwUnit) || !(v.getLsbD 31) then .next s
  else
    let c := v.toNat
    let kind := c % 4
    let s0 := fwSet s { s.fw with rcvCtl := v &&& 0x40FFFFFF }
    if !(kindOk kind) || slotSize kind ≤ bitsOf c 23 2 * 4096 || flashWaits s then .next s0
    else
      let b := idleSlot s kind
      let s1 := imgSlotSet s0 kind b (rcvSlot (imgSlot s0 kind b) (bitsOf c 23 2 * 4096) (slotSize kind) s.fw.rcvBuf)
      match if bitOf c 30 then (imgVerify s1 kind b).2 else none with
      | none => .next s1
      | some i =>
        let s2 := imgSlotSet s1 kind b { imgSlot s1 kind b with st := 3, img := some i }
        let f := s2.fw
        let s3 := fwSet s2 { f with secSlot := if kind = 1 then b else f.secSlot, mgmtSlot := if kind = 2 then b else f.mgmtSlot,
                                    hdrSeq := f.hdrSeq + 1, boot := 0, booting := true, attempt := 1 }
        .next (bootGo steps (alertEdge (journalAdd s3 1 0 stOk 0)))

/-! ### Input power (R433, R434) -/

/-- INPUT_POWER_ON (R434): a rise above 50.0 V with MOD_RST_N high starts a cold reset; a device whose boot waits goes on through
the steps given. Right after State.reset it starts the boot. -/
def execInputPowerOn (split : Bool) (steps : List BootStep) (s : State) : Out :=
  if s.pw.tripped || !s.pn.modRst then .next s
  else if s.pw.on && s.fw.booting then .next (bootGo steps s)
  else if s.pw.on && s.fw.boot ≠ 0 then .next s
  else .next (bootGo steps (coldReset (railsOff s false) split))

/-- UVLO (R433): the input is below its lockout. TRIP_CAUSE clears with the input removed (R442). -/
def execUvlo (s : State) : Out :=
  let s1 := railsOff s false
  .next (pwSet s1 { s1.pw with trip := 0, tripped := false, tripMem := false, warn := false })

end Sys2Proof.Machine
end

