-- ==== Sys2Proof/Machine/Commit.lean ====
section
/-! DEFINITION. Phase 2 of a step commit: the merge of the monitor slots into the ratio monitor table, and MON_HIT (spec 08: R189,
R198 to R200, R209). -/
namespace Sys2Proof.Machine
open Sys2Proof

/-- Valid monitor slots of the members, in ascending member rank and slot number. -/
def monSlots (s : State) (p : Part) : List MonSlot := (partTiles p).flatMap (fun t => (tileAt s t).mon.map Prod.snd)

/-- SSD and SSW of one tag, added in that order from +0, each addition rounded RNE to binary64. -/
def monSums (slots : List MonSlot) (tag : Nat) : W64 × W64 :=
  (slots.filter (fun m => m.tag = tag)).foldl
    (fun a m => (monAdd a.1 (elemVal .fp64 m.ssd.toNat), monAdd a.2 (elemVal .fp64 m.ssw.toNat))) (0, 0)

def fp32Layout : FpLayout := (fpLayout .fp32).getD ⟨8, 23, 127, .ieee⟩

/-- RATIO: √(SSD ÷ SSW), rounded once. The quotient keeps 240 bits, so that its root tells every tie. -/
def monRatio (ssd ssw : W64) : Nat :=
  match elemVal .fp64 ssd.toNat, elemVal .fp64 ssw.toNat with
  | .nan, _ | _, .nan => fpNan fp32Layout
  | d, .fin _ 0 _ => if flt (.fin false 0 0) d then fpInf fp32Layout false else 0
  | .inf _, .inf _ => Config.freeRatio % 2 ^ 32
  | .inf _, _ => fpInf fp32Layout false
  | .fin _ _ _, .inf _ => 0
  | .fin _ m e, .fin _ m' e' =>
    let n := m <<< (240 + Nat.log2 m')
    let r := sqrtX (n / m') (e - e' - (240 + Nat.log2 m' : Nat))
    (roundFp fp32Layout .rne false false { r with sticky := r.sticky || n % m' ≠ 0 }).1

/-- A merged entry (Table 8-5). -/
def monEntry (tag step : Nat) (sums : W64 × W64) : List Byte :=
  leBytes 32 (sums.1.toNat + sums.2.toNat <<< 64 + (monRatio sums.1 sums.2 % 2 ^ 32) <<< 128 + ((step + 1) % 2 ^ 32) <<< 160
    + (tag % 4096) <<< 192 + 1 <<< 204)

/-- The 4,096 entries of the bank to write: merged tags anew, every other entry as the current bank holds it. -/
def monTable (old : List Byte) (slots : List MonSlot) (step : Nat) : List Byte :=
  (List.range 4096).flatMap (fun t =>
    if slots.any (fun m => m.tag = t) then monEntry t step (monSums slots t) else (old.drop (32 * t)).take 32)

/-- Phase 2 on a partition: reads the current bank, writes the other, and notes the merged ratios; a failed access fails the gate
(Table 8-1). -/
def monMerge (s : State) (p : Part) (ev : List LineEv) : State :=
  let cur : Bool := p.step.toNat % 2 = 1
  let slots := monSlots s p
  let tags := (List.range 4096).filter (fun t => slots.any (fun m => m.tag = t))
  let r := ctxRead s io0Page p.ctx (monBank p cur) 131072 ev
  let w := if r.status = stOk then ctxWriteAt r.s io0Page p.ctx (monBank p !cur) (monTable r.data slots p.step.toNat) ev else r
  let bad : Bool := w.status ≠ stOk
  partUpd w.s p.t0 (fun q => { q with
    monBad := bad, merged := if bad then [] else tags.map (fun t => (t, let m := monSums slots t; monRatio m.1 m.2)) })

/-- MONITOR_MERGE_DONE (R189): phase 2 of the commit in progress ends, and the decision follows once every vote is in. -/
def execMonitorMergeDone (t : Nat) (ev : List LineEv) (s : State) : Out :=
  match partOf s t with
  | none => .next s
  | some p =>
    match mapFind s.un.txns p.tid with
    | none => .next s
    | some x =>
      let waits (b : Bool) (wr : Bool) : Bool := spanWaits s io0Page p.ctx (monBank p b) 131072 wr ev
      let cur : Bool := p.step.toNat % 2 = 1
      if !p.preparing || x.kind ≠ 1 || x.key ≠ p.t0 || x.phase ≠ .preparing || x.merged || waits cur false || waits (!cur) true then .next s
      else
        let s1 := monMerge s p ev
        .next (stepDecide (txnSet s1 p.tid { x with merged := true }) p.tid)

/-- MON_HIT_CLEAR (R209): PF0 writes 1 to VALID. -/
def execMonHitClear (t : Nat) (w : Writer) (s : State) : Out :=
  match partOf s t with
  | none => .next s
  | some p =>
    if w ≠ .pf0 || !(bar0Unit s w (.tile t)) || !(blockLive s (.tile t)) || !(p.monHit.getLsbD 31) then .next s
    else .next (partUpd s p.t0 (fun q => { q with monHit := 0 }))

end Sys2Proof.Machine
end

