-- ==== Sys2Proof/Machine/HostCmds.lean ====
section
/-! DEFINITION. The host link: accesses to DR3, disabling events, link events, link encryption and TDISP (spec 13: R308 to R327). -/
namespace Sys2Proof.Machine
open Sys2Proof

/-- A port takes part in what the host does: the rails are up and the port is there. -/
def portUp (s : State) (k : Nat) : Bool := s.pw.on && portPresent s k

def vfThere (s : State) (port vf : Nat) : Bool := portUp s port && (portVfs s port).contains (vfKey port vf)

/-! ### DR3 (R310, R313, R314, R318, R325) -/

/-- Context whose window an access reaches, and the stream of the port that carries it; none where nothing serves it. -/
def hdmTarget (s : State) (src : HdmSrc) (off n : Nat) : Option Nat :=
  match src with
  | .cxlMem p =>
    let c := off / 2 ^ 21
    if c < 512 && (ctxAt s c).st ≠ .free && ctxPort s c = p && !(tdiLocked s c) && off % 2 ^ 21 + n ≤ 2 ^ 21 then some c else none
  | .vfBar2 p v =>
    match s.rg.ctxs.find? (fun e => e.2.st ≠ .free && e.2.port = p && e.2.vf = some v) with
    | some e => if off + n ≤ 2 ^ 21 then some e.1 else none
    | none => none
  | .foreign _ => none

/-- Inbound traffic on a halted stream is dropped. -/
def hdmDropped (s : State) (src : HdmSrc) : Bool :=
  match src with
  | .cxlMem p => (hportAt s p).halted.contains 0
  | .vfBar2 p v =>
    let f := funcAt s (vfKey p v)
    (hportAt s p).halted.contains (if f.tdi = 0 then 1 else 2 + f.stream) || !f.mse
  | .foreign _ => false

def hdmDeny (s : State) (p : Nat) : State :=
  let x := hportAt s p
  hportSet s p { x with deny := satInc x.deny }

/-- HDM_ACCESS (R310, R314): a read changes nothing, a write stores unless it is poisoned; a CXL.mem access that nothing serves is counted,
and so is the Unsupported Request that answers a requester other than the port's root port. `off` is an offset of DR3, or of the
VF's BAR2. -/
def execHdmAccess (src : HdmSrc) (off : Nat) (wr : Option (List Byte)) (poison : Bool) (s : State) : Out :=
  let bs := wr.getD []
  let port := match src with | .cxlMem p => p | .vfBar2 p _ => p | .foreign p => p
  if !(portUp s port) || hdmDropped s src then .next s
  else match hdmTarget s src off bs.length with
    | none => .next (match src with | .cxlMem p => hdmDeny s p | .vfBar2 _ _ => s | .foreign p => hdmDeny s p)
    | some c => .next (if poison || wr.isNone then s else winWrite s c (off % 2 ^ 21) bs)

/-- SNOOP (R308): answered with RspIHitI, as the device holds no host line. -/
def execSnoop (_port _addr : Nat) (s : State) : Out := .next s

/-- ATS_INVALIDATE (R315): the far block reads as FAILED with WINDOW_RESET. -/
def execAtsInvalidate (blk : Nat) (s : State) : Out := .next (if s.pw.on then farFail s blk 2 else s)

/-! ### Disabling events (R311, R321 to R323, Table 13-4) -/

/-- Bus Master Enable and Memory Space Enable of functions that a PCIe reset reaches (log entry 5). -/
def cfgReset (s : State) (fks : List Nat) : State :=
  fks.foldl (fun s fk => funcSet s fk { funcAt s fk with bme := false, mse := false }) s

/-- The VF settings of a port's PF that a PCIe reset clears. -/
def vfsOff (s : State) (k : Nat) : State := hportSet s k { hportAt s k with numVfs := 0, vfEn := false }

/-- VF_FLR. -/
def execVfFlr (port vf : Nat) (s : State) : Out :=
  if !(vfThere s port vf) then .next s
  else .next (cfgReset (disableEvent s port 1 [vfKey port vf]) [vfKey port vf])

/-- PF_FLR: every VF of the PF, and its own contexts. -/
def execPfFlr (port : Nat) (s : State) : Out :=
  if !(portUp s port) then .next s
  else .next (vfsOff (cfgReset (disableEvent s port 2 (portFuncs s port)) (portFuncs s port)) port)

/-- VF_ENABLE_CLEAR. -/
def execVfEnableClear (port : Nat) (s : State) : Out :=
  if !(portUp s port) || !(hportAt s port).vfEn || (funcAt s port).nrdy then .next s
  else
    let s1 := cfgReset (disableEvent s port 2 (portFuncs s port)) (portVfs s port)
    .next (hportSet s1 port { hportAt s1 port with vfEn := false })

/-- NUMVFS_WRITE: stored while both PFs together stay within 512; a change disables as VF Enable does. `enable` sets VF Enable with it. -/
def execNumvfsWrite (port n : Nat) (enable : Bool) (s : State) : Out :=
  if !(portUp s port) || (funcAt s port).nrdy || 512 < n + (hportAt s (1 - port)).numVfs then .next s
  else
    let s1 := if n = (hportAt s port).numVfs then s else disableEvent s port 2 (portFuncs s port)
    let p := hportAt s1 port
    .next (hportSet s1 port { p with numVfs := n, vfEn := p.vfEn || enable })

/-- A function by port and VF; the PF without one. -/
def funcKey (port : Nat) (vf : Option Nat) : Nat := match vf with | some v => vfKey port v | none => port

def funcThere (s : State) (port : Nat) (vf : Option Nat) : Bool := match vf with | some v => vfThere s port v | none => portUp s port

/-- BME_CLEAR, and its opposite: without it no new upstream request is issued; a locked TDI enters ERROR first. -/
def execBmeClear (port : Nat) (vf : Option Nat) (set : Bool) (s : State) : Out :=
  let fk := funcKey port vf
  if !(funcThere s port vf) || (funcAt s fk).nrdy || (funcAt s fk).bme = set then .next s
  else
    let s1 := if set then s else tdiError s fk 3
    .next (funcSet s1 fk { funcAt s1 fk with bme := set })

/-- MSE_CLEAR, and its opposite: without it BAR accesses complete with Unsupported Request. -/
def execMseClear (port : Nat) (vf : Option Nat) (set : Bool) (s : State) : Out :=
  let fk := funcKey port vf
  if !(funcThere s port vf) || (funcAt s fk).nrdy || (funcAt s fk).mse = set then .next s
  else
    let s1 := if set then s else tdiError s fk 3
    .next (funcSet s1 fk { funcAt s1 fk with mse := set })

/-! ### Link events (R325, R326, Table 13-6) -/

/-- A link event that acts as port RESET: the functions are disabled, the incarnation advances, the configuration resets. -/
def linkReset (s : State) (k : Nat) : State :=
  let fs := portFuncs s k
  unitEvt (vfsOff (cfgReset (portIncarnate (portReset s k) k) fs) k) (.hport k) (2 ^ 16)

/-- HOST_LINK_DOWN: link down or hot reset. -/
def execHostLinkDown (port : Nat) (s : State) : Out := .next (if portUp s port then linkReset s port else s)

/-- HOST_LINK_UP: a port in RUN whose PERST# is high has trained, at 64 GT/s with 256-byte flits (Table 13-1). -/
def execHostLinkUp (port speed width : Nat) (flit256 : Bool) (s : State) : Out :=
  let high : Bool := if port = 0 then s.pn.perst0 else s.pn.perst1
  if !(portUp s port) || !high || (unitAt s (.hport port)).state ≠ .run || speed = 0 || 4 < speed then .next s
  else .next (unitEvt (hportSet s port { hportAt s port with
      speed := speed, width := min (if s.hw.split then 8 else 16) width, flit256 := flit256 || speed = 4 })
    (.hport port) (2 ^ 16))

/-- VIRAL: every plate of the port's contexts stops, and no further upstream write is issued. -/
def execViral (port : Nat) (s : State) : Out :=
  if !(portUp s port) then .next s
  else
    let s1 := unitEvt (hportSet s port { hportAt s port with viral := true }) (.hport port) (2 ^ 20)
    let ps := (s1.tl.parts.filter (fun e => e.2.run.isSome && ctxPort s1 e.2.ctx = port)).map Prod.snd
    .next (ps.foldl (fun s p => stopPart s p stAborted 6) s1)

/-- COMPLETION_TIMEOUT: of the host read that a queue's command waits for, or of a far line. -/
def execCompletionTimeout (port : Nat) (cmd : Option (Nat × Nat)) (line : Option Nat) (s : State) : Out :=
  if !(portUp s port) then .next s
  else
    let p := hportAt s port
    let s1 := hportSet s port { p with cto := satInc p.cto }
    match cmd, line with
    | some c, _ =>
      let r : CmdRef := { ctx := c.1, qid := c.2 }
      if ctxPort s1 c.1 = port && (cmdAt s1 r).any (fun k => k.st = .busy && k.job = .dma) then .next (finishCmd s1 r stHostErr)
      else .next s1
    | none, some lk => .next (if frameTier (lineFrame lk) = 2 then lineUncorr s1 lk else s1)
    | none, none => .next s1

/-- CORRECTABLE_LINK_ERROR. -/
def execCorrectableLinkError (port : Nat) (s : State) : Out :=
  let p := hportAt s port
  .next (if portUp s port then hportSet s port { p with ce := satInc p.ce } else s)

/-! ### Link encryption (R317, R318). Streams: 0 CXL.cachemem, 1 the PCIe link stream, 2 + s selective stream s -/

/-- TDIs of a port that a selective stream carries. -/
def streamTdis (s : State) (port stream : Nat) : List Nat :=
  (List.range 512).map (vfKey port) |>.filter (fun fk =>
    2 ≤ stream && (funcAt s fk).stream + 2 = stream && ((funcAt s fk).tdi = 1 || (funcAt s fk).tdi = 2))

/-- A stream halts: its TDIs enter ERROR, and a halt of CXL.cachemem on hp0 loses the far window. -/
def streamHalt (s : State) (port stream : Nat) (secure : Bool) : State :=
  let p := hportAt s port
  let s1 := hportSet s port { p with halted := if p.halted.contains stream then p.halted else p.halted ++ [stream],
                                     secure := if secure then p.secure else p.secure.filter (fun x => x ≠ stream) }
  let s2 := unitEvt s1 (.hport port) (2 ^ 18)
  let s3 := (streamTdis s2 port stream).foldl (fun s fk => tdiError s fk 3) s2
  if stream = 0 && port = 0 then farUnreached s3 else s3

/-- IDE_INTEGRITY_FAIL, with the other ends of a stream's key (R318). -/
def execIdeIntegrityFail (port stream : Nat) (e : IdeEv) (s : State) : Out :=
  let p := hportAt s port
  if !(portUp s port) || !(p.secure.contains stream) then .next s
  else match e with
    | .low =>
      if p.ideLow.contains stream then .next s
      else .next (unitEvt (hportSet s port { p with ideLow := p.ideLow ++ [stream] }) (.hport port) (2 ^ 17))
    | .exhausted => .next (streamHalt s port stream true)
    | .integrity => .next (streamHalt (secAlarm s 0 0 none false false false false) port stream false)

/-- An SPDM session over the port's DOE mailbox is established: key programming and TDISP run inside one (R317, R400). -/
def spdmUp (s : State) (port : Nat) : Bool := s.ks.sessions.any (fun x => x.spdm && x.active && x.doe = some port)

/-- IDE_KEY_PROGRAM: a stream has new keys, is secure and no longer halted. -/
def execIdeKeyProgram (port stream : Nat) (s : State) : Out :=
  if !(portUp s port) || !(spdmUp s port) || 10 ≤ stream then .next s
  else
    let p := hportAt s port
    let drop (l : List Nat) : List Nat := l.filter (fun x => x ≠ stream)
    .next (hportSet s port { p with secure := drop p.secure ++ [stream], halted := drop p.halted, ideLow := drop p.ideLow })

/-! ### TDISP (R319, R320) -/

/-- Context bound to a VF. -/
def vfCtx (s : State) (port vf : Nat) : Option Nat :=
  (s.rg.ctxs.find? (fun e => e.2.st ≠ .free && e.2.port = port && e.2.vf = some vf)).map Prod.fst

/-- The cases in which a lock is refused. -/
def lockRefused (s : State) (port vf stream : Nat) : Bool :=
  let p := hportAt s port
  let sec (k : Nat) : Bool := p.secure.contains k && !(p.halted.contains k)
  match vfCtx s port vf with
  | none => true
  | some c => !(s.tl.parts.any (fun e => e.2.ctx = c)) || !(sec 0) || !(sec (2 + stream)) || 8 ≤ stream

/-- LOCK_INTERFACE_REQUEST: CONFIG_UNLOCKED to CONFIG_LOCKED with a random nonce, or refused. -/
def execLockInterfaceRequest (port vf stream : Nat) (s : State) : Out :=
  let f := funcAt s (vfKey port vf)
  if !(vfThere s port vf) || !(spdmUp s port) || f.tdi ≠ 0 || f.nrdy || lockRefused s port vf stream then .next s
  else .next (drawn (funcSet s (vfKey port vf) { f with tdi := 1, stream := stream, nonce := randBytes s 32 }))

/-- START_INTERFACE_REQUEST: CONFIG_LOCKED to RUN for the nonce of the lock. -/
def execStartInterfaceRequest (port vf : Nat) (nonce : List Byte) (s : State) : Out :=
  let f := funcAt s (vfKey port vf)
  if !(vfThere s port vf) || !(spdmUp s port) || f.tdi ≠ 1 || nonce ≠ f.nonce then .next s
  else .next (funcSet s (vfKey port vf) { f with tdi := 2, nonce := [] })

/-- STOP_INTERFACE: the disable sequence, and CONFIG_UNLOCKED when its burnish completes. -/
def execStopInterface (port vf : Nat) (s : State) : Out :=
  let fk := vfKey port vf
  let f := funcAt s fk
  if !(vfThere s port vf) || !(spdmUp s port) || f.tdi = 0 then .next s
  else
    let s1 := disableEvent (funcSet s fk { f with stop := true }) port 3 [fk]
    let g := funcAt s1 fk
    .next (if g.nrdy then s1 else funcSet s1 fk { g with tdi := 0, stop := false })

/-- FROZEN_CONFIGURATION_WRITE: a locked TDI enters ERROR before the write takes effect. -/
def execFrozenConfigurationWrite (port vf : Nat) (s : State) : Out :=
  .next (if vfThere s port vf then tdiError s (vfKey port vf) 3 else s)

end Sys2Proof.Machine
end

