-- ==== Sys2Proof/Machine/MeterCmds.lean ====
section
/-! DEFINITION. The Kazcel meter: its signed readings, its chained log with wrap records, sealing and calibration, its I3C messages,
and the mirror that its output link fills (spec 18: R446 to R452; spec 19: R465). -/
namespace Sys2Proof.Machine
open Sys2Proof

def mtSet (s : State) (m : MeterSt) : State := { s with mt := m }

/-! ### Identity (R446, Table 18-6) -/

def meterScalar : List Byte := scalarOf Config.meterKey
def meterPub : List Byte := ecPublic (beVal meterScalar)
def meterId : List Byte := sha384 ([4] ++ meterPub)
def meterRom : List Byte := beBytes 48 (Config.meterRomDigest % 2 ^ 384)

/-- CAL_DIGEST: over the calibration OTP, whose layout R450 does not give. -/
def calDigest (m : MeterSt) : List Byte := sha384 (Config.calOtp (m.sealDig ++ m.metroDig ++ m.calOtp))

/-- FLAGS of a reading. -/
def meterFlags (m : MeterSt) : Nat := boolNat m.isSealed + boolNat m.calValid <<< 1 + boolNat m.tamper <<< 2 + boolNat m.overRange <<< 3

/-! ### The log (R449, Tables 18-7 and 18-8) -/

/-- Bytes 0 to 27 of an entry. -/
def logBody (m : MeterSt) (typ detail arg : Nat) : List Byte :=
  leBytes 28 (typ % 256 + (detail % 2 ^ 24) <<< 8 + m.msec.toNat <<< 32 + m.energy.toNat <<< 96 + (arg % 2 ^ 64) <<< 160)

/-- Writes an entry at LOG_HEAD, chained to the last. -/
def logPut (m : MeterSt) (typ detail arg : Nat) : MeterSt :=
  let b := logBody m typ detail arg
  let h := sha384 (m.chain ++ b)
  { m with log := mapSet m.log m.logHead (b ++ h.take 4), chain := h, logHead := (m.logHead + 1) % 8192 }

/-- Bytes 0x00 to 0x87 of a wrap record. -/
def wrapBody (m : MeterSt) : List Byte :=
  leBytes 4 0x52575A4B ++ leBytes 2 1 ++ leBytes 2 0 ++ leBytes 4 m.lap.toNat ++ leBytes 4 0 ++ leBytes 8 m.seq.toNat
    ++ leBytes 8 m.msec.toNat ++ leBytes 8 m.energy.toNat ++ m.chain ++ meterId

/-- After entry 8,191: the lap counts, its wrap record is signed and kept, and a WRAP entry opens the new lap. -/
def logWrap (s : State) : State :=
  let m := { s.mt with lap := s.mt.lap + 1 }
  let b := wrapBody m
  let p := signMsg s meterScalar b
  mtSet p.1 (logPut { m with wrap := b ++ p.2 } 7 (m.lap.toNat % 2 ^ 24) 0)

/-- Logs one entry; DETAIL is free where Table 18-7 does not give it. -/
def logAdd (s : State) (typ arg : Nat) : State :=
  let s1 := mtSet s (logPut s.mt typ (Config.logDetail typ) arg)
  if s1.mt.logHead = 0 then logWrap s1 else s1

/-! ### Measurement (R447) -/

/-- What the instruments show when an event reaches the meter: the totals never run back, and an input outside the range of R447
sets OVERRANGE and is logged. -/
def meterSees (s : State) (x : MeterIn) : State :=
  let m := s.mt
  let s1 := mtSet s { m with
    msec := BitVec.ofNat 64 (max m.msec.toNat (x.msec % 2 ^ 64)), energy := BitVec.ofNat 64 (max m.energy.toNat (x.energy % 2 ^ 64)),
    mV := x.mV % 2 ^ 32, mA := x.mA % 2 ^ 32, overRange := m.overRange || x.overRange }
  if x.overRange && !m.overRange then logAdd s1 10 0 else s1

/-! ### Signed readings (R448) -/

/-- Bytes 0x000 to 0x10F of a reading with the current SEQ. -/
def readingBody (m : MeterSt) (kind : Nat) (nonce : List Byte) : List Byte :=
  leBytes 4 0x44525A4B ++ leBytes 2 1 ++ leBytes 1 kind ++ leBytes 1 (meterFlags m) ++ leBytes 8 m.seq.toNat
    ++ leBytes 8 m.msec.toNat ++ leBytes 8 m.energy.toNat ++ leBytes 4 m.mV ++ leBytes 4 m.mA ++ leBytes 4 m.logHead
    ++ leBytes 4 m.lap.toNat ++ nonce ++ meterId ++ meterRom ++ calDigest m ++ m.chain

/-- The next SEQ is taken. -/
def seqNext (s : State) : State := mtSet s { s.mt with seq := s.mt.seq + 1 }

/-- Signs and keeps a reading of the current state; OVERRANGE counts from it on. -/
def readingSign (s : State) (kind : Nat) (nonce : List Byte) : State :=
  let b := readingBody s.mt kind nonce
  let p := signMsg s meterScalar b
  mtSet p.1 { p.1.mt with reading := b ++ p.2, overRange := false }

/-- METER_PERIODIC, every 60 MSEC. -/
def execMeterPeriodic (m : MeterIn) (s : State) : Out :=
  if !s.mt.on then .next s
  else .next (readingSign (seqNext (meterSees s m)) 1 (List.replicate 32 0))

/-! ### Messages (R451, R465, Table 19-4) -/

/-- A response: code, status, body length, body. It waits to be read. -/
def meterAnswer (s : State) (code status : Nat) (body : List Byte) : State :=
  let a := leBytes 1 code ++ leBytes 1 status ++ leBytes 2 body.length ++ body
  mtSet s { s.mt with rsp := some a, answer := a }

/-- A request reaches the meter; `prev` says that the response before it has been read. One that has not makes the meter busy. -/
def meterRequest (s : State) (prev : Bool) (code : Nat) (go : State → State) : Out :=
  if !s.mt.on then .next s
  else
    let s1 := if prev then mtSet s { s.mt with rsp := none } else s
    if s1.mt.rsp.isSome then .next (mtSet s1 { s1.mt with answer := leBytes 1 code ++ leBytes 1 3 ++ leBytes 2 0 })
    else .next (go s1)

/-- GET_READING: the READ_REQUEST entry is logged with the reading's SEQ, then the reading is signed. -/
def execGetReading (m : MeterIn) (prev : Bool) (body : List Byte) (s : State) : Out :=
  meterRequest s prev 1 (fun s =>
    if body.length ≠ 32 then meterAnswer s 1 2 []
    else
      let s1 := seqNext (meterSees s m)
      let s2 := readingSign (logAdd s1 8 s1.mt.seq.toNat) 2 body
      meterAnswer s2 1 0 s2.mt.reading)

/-- GET_LOG: entries from the start index on, wrapping; an index never written reads as zero. -/
def execGetLog (prev : Bool) (body : List Byte) (s : State) : Out :=
  meterRequest s prev 2 (fun s =>
    let start := leVal (body.take 2)
    let n := leVal (body.drop 2)
    if body.length ≠ 3 || n = 0 || 32 < n || 8192 ≤ start then meterAnswer s 2 2 []
    else meterAnswer s 2 0 ((List.range n).flatMap (fun i => mapGet (List.replicate 32 0) s.mt.log ((start + i) % 8192))))

/-- GET_WRAP. -/
def execGetWrap (prev : Bool) (s : State) : Out :=
  meterRequest s prev 3 (fun s => meterAnswer s 3 0 (if s.mt.lap = 0 then Config.firstWrap.take 232 else s.mt.wrap))

/-- GET_CERT: up to 1,024 bytes of the chain from an offset on. -/
def execGetCert (prev : Bool) (body : List Byte) (s : State) : Out :=
  meterRequest s prev 4 (fun s =>
    if body.length ≠ 2 then meterAnswer s 4 2 []
    else meterAnswer s 4 0 ((Config.meterChain.drop (leVal body)).take 1024))

/-! ### Seal, calibration and tampering (R450) -/

/-- Why a request was refused, where no status names it. -/
def refuseStatus (reason : Nat) : Nat := Config.meterRefusal reason % 256

/-- A token whose digest does not match is logged and changes nothing. -/
def tokenRejected (s : State) (code : Nat) : State := meterAnswer (logAdd s (Config.rejectedType % 256) 0) code 1 []

/-- Burns one of the 64 bits and changes the seal; with none left the meter stays as it is. -/
def sealTo (s : State) (code typ : Nat) (b : Bool) : State :=
  if 64 ≤ s.mt.burned then meterAnswer s code (refuseStatus 2) []
  else meterAnswer (logAdd (mtSet s { s.mt with isSealed := b, burned := s.mt.burned + 1 }) typ 0) code 0 []

/-- SEAL. -/
def execMeterSeal (m : MeterIn) (prev : Bool) (token : List Byte) (s : State) : Out :=
  meterRequest s prev 5 (fun s =>
    let s1 := meterSees s m
    if token.length ≠ 32 then meterAnswer s1 5 2 []
    else if sha384 token ≠ s1.mt.sealDig then tokenRejected s1 5
    else if !s1.mt.calValid then meterAnswer s1 5 (refuseStatus 1) []
    else sealTo s1 5 3 true)

/-- UNSEAL. -/
def execMeterUnseal (m : MeterIn) (prev : Bool) (token : List Byte) (s : State) : Out :=
  meterRequest s prev 6 (fun s =>
    let s1 := meterSees s m
    if token.length ≠ 32 then meterAnswer s1 6 2 []
    else if sha384 token ≠ s1.mt.metroDig then tokenRejected s1 6
    else sealTo s1 6 4 false)

/-- A part of a calibration record joins the parts before it; offset 0 begins anew. -/
def calJoin (m : MeterSt) (off : Nat) (bs : List Byte) : Option (List Byte) :=
  if off = 0 then some bs else if off = m.calPart.length then some (m.calPart ++ bs) else none

/-- CALIBRATE: the parts of a record; the last one is checked (`genuine`: the metrology authority signed it) and written. -/
def execCalibrate (m : MeterIn) (prev : Bool) (body : List Byte) (last genuine : Bool) (s : State) : Out :=
  meterRequest s prev 7 (fun s =>
    let s1 := meterSees s m
    if body.length < 3 || 1026 < body.length then meterAnswer s1 7 2 []
    else if s1.mt.isSealed then meterAnswer s1 7 (refuseStatus 3) []
    else match calJoin s1.mt (leVal (body.take 2)) (body.drop 2) with
      | none => meterAnswer s1 7 2 []
      | some r =>
        if !last then meterAnswer (mtSet s1 { s1.mt with calPart := r }) 7 0 []
        else if !genuine then meterAnswer (mtSet s1 { s1.mt with calPart := [] }) 7 (refuseStatus 4) []
        else if 4 ≤ s1.mt.calRecs then meterAnswer (mtSet s1 { s1.mt with calPart := [] }) 7 (refuseStatus 5) []
        else
          let n := s1.mt.calRecs
          let s2 := mtSet s1 { s1.mt with calPart := [], calOtp := s1.mt.calOtp ++ r, calRecs := n + 1, calValid := true }
          meterAnswer (logAdd s2 6 n) 7 0 [])

/-- TAMPER: the lid segment opens. -/
def execTamper (m : MeterIn) (s : State) : Out :=
  if !s.mt.on then .next s
  else
    let s1 := meterSees s m
    .next (logAdd (mtSet s1 { s1.mt with isSealed := false, tamper := true }) 5 0)

/-! ### Power of the meter (R449, R455) -/

/-- METER_POWER_DOWN: its input is below 36 V; the hold-up logs POWER_DOWN with the final ENERGY. -/
def execMeterPowerDown (m : MeterIn) (s : State) : Out :=
  if !s.mt.on then .next s
  else
    let s1 := logAdd (meterSees s m) 2 0
    .next (mtSet s1 { s1.mt with on := false, rsp := none, calPart := [] })

/-- METER_POWER_UP: POWER_UP is logged, and ENERGY goes on from its stored total. -/
def execMeterPowerUp (m : MeterIn) (s : State) : Out :=
  if s.mt.on then .next s
  else .next (logAdd (meterSees (mtSet s { s.mt with on := true }) m) 1 0)

/-! ### The mirror (R452) -/

/-- Indices of the 1,024 entries most recently written. -/
def recentLog (m : MeterSt) : List Nat := (List.range 1024).map (fun i => (m.logHead + 7168 + i) % 8192)

/-- The output link delivers copies into the io0 mirror: reading, wrap record, public key and the recent log entries. -/
def execMirrorUpdate (s : State) : Out :=
  if !s.pw.on || !s.mt.on then .next s
  else
    let m := s.mt
    let put (l : Map (List Byte)) (k : Nat) : Map (List Byte) :=
      match mapFind m.log k with
      | some e => mapSet l (k % 1024) e
      | none => l
    .next (alertEdge { s with mi := { linkOk := true, reading := m.reading, wrap := m.wrap, pub := meterPub,
                                      log := (recentLog m).foldl put s.mi.log } })

/-- METER_LINK_FAIL: the mirror keeps its last contents. -/
def execMeterLinkFail (s : State) : Out :=
  if !s.pw.on then .next s else .next (alertEdge { s with mi := { s.mi with linkOk := false } })

end Sys2Proof.Machine
end

