-- ==== Sys2Proof/Machine/PowerCmds.lean ====
section
/-! DEFINITION. The power and thermal commands: warnings, the current limiter, readings with their throttles, emergencies and trips,
operating points, ageing and apportionment (spec 18: R429 to R445, R453 to R456). -/
namespace Sys2Proof.Machine
open Sys2Proof

/-! ### PWR_WARN (R431, R461) -/

/-- PWR_WARN_ASSERT: the input fell below 52.0 V, or a board device holds the pin low (`board`). -/
def execPwrWarnAssert (board : Bool) (s : State) : Out :=
  let s1 := { pwSet s { s.pw with warn := true } with pn := { s.pn with warnPin := s.pn.warnPin || board } }
  .next (if s.pw.on then emergOn s1 0 else s1)

/-- PWR_WARN_DEASSERT: every driver has released the pin, and the input is above 54.0 V. -/
def execPwrWarnDeassert (s : State) : Out :=
  let s1 := { pwSet s { s.pw with warn := false } with pn := { s.pn with warnPin := false } }
  .next (if s.pw.on then emergOff s1 0 else s1)

/-! ### The limiter (R430, R439, R440) -/

/-- The input current in 10 mA exceeds I_CAP = EFF_W ÷ 56 V, or the power in 0.1 W exceeds EFF_W. -/
def limiterOver (s : State) (i p : Nat) : Bool := effW s * 10 < p || effW s * 100 < i * 56

def levelOf (s : State) (p : Part) : Nat := mapGet 0 s.pw.level p.t0

/-- Running partitions whose estimate exceeds their budget; a budget of 0 is none. -/
def overBudget (s : State) : List Part :=
  (runningParts s).filter (fun p => mapGet 0 s.pw.budget p.t0 ≠ 0 && mapGet 0 s.pw.budget p.t0 < mapGet 0 s.pw.est p.t0)

/-- Levels of the running partitions; the others lose theirs. -/
def levelsSet (s : State) (f : Part → Nat) : State :=
  pwSet s { s.pw with level := (runningParts s).foldl (fun m p => mapSet m p.t0 (min 60 (f p))) [] }

/-- One decision of the limiter: up by `raise`, or down by one level. Under UNIFORM all running partitions take one level; under
BUDGET those over their budget rise first. -/
def limiterMove (s : State) (ovr : Bool) (raise : Nat) : State :=
  let top := (runningParts s).foldl (fun m p => max m (levelOf s p)) 0
  let uniform : Bool := !(s.pw.policy.getLsbD 0)
  let first := ((overBudget s).filter (fun p => levelOf s p < 60)).map Part.t0
  if uniform then levelsSet s (fun _ => if ovr then top + raise else top - 1)
  else if !ovr then levelsSet s (fun p => levelOf s p - 1)
  else if first.isEmpty then levelsSet s (fun p => levelOf s p + raise)
  else levelsSet s (fun p => if first.contains p.t0 then levelOf s p + raise else levelOf s p)

/-- LIMITER_STEP: the averages sampled through the sense path, in 10 mV, 10 mA and 0.1 W. -/
def execLimiterStep (v i p raise : Nat) (s : State) : Out :=
  if !s.pw.on then .next s
  else
    let s1 := pwSet s { s.pw with
      pwrIn := BitVec.ofNat 64 (v % 65536 + (i % 65536) <<< 16 + (p % 65536) <<< 32), curBound := v < 5600 }
    .next (limiterMove s1 (limiterOver s1 i p) raise)

/-- POWER_ESTIMATE: estimates in W of bound partitions, by T0, and the dies' power in 0.1 W. -/
def execPowerEstimate (est : List (Nat × Nat)) (dies : List Nat) (s : State) : Out :=
  if !s.pw.on then .next s
  else
    let live (e : Nat × Nat) : Bool := (mapFind s.tl.parts e.1).isSome
    .next (pwSet s { s.pw with
      est := (est.filter live).foldl (fun m e => mapSet m e.1 e.2) [],
      pwrDie := BitVec.ofNat 64 ((List.range 4).foldl (fun a d => a + (dies.getD d 0 % 65536) <<< (16 * d)) 0) })

/-! ### Temperatures (R441, R442, Table 18-3) -/

/-- 16-bit two's complement. -/
def half16 (t : Int) : Nat := (BitVec.ofInt 16 t).toNat

def hottest (l : List Int) : Int := l.tail.foldl max (l.headD 0)

/-- The readings of fitted units only. -/
def fitted (hw : Hw) (f : Nat → UnitId) (l : List Int) : List (Nat × Int) :=
  (List.zip (List.range l.length) l).filter (fun e => present hw (f e.1))

def atOrAbove (p : Int) (l : List (Nat × Int)) : List Nat := (l.filter (fun e => p ≤ e.2)).map Prod.fst

/-- Dies by index, the I/O dies at 4 and 5, from a point on. -/
def dieHot (hw : Hw) (r : Thermal) (p : Int) : List Nat :=
  atOrAbove p (fitted hw .cdie r.dies) ++ (atOrAbove p (fitted hw .iodie r.ios)).map (fun i => 4 + i)

/-- Memory controllers, the near tiers before the stacks, each at its own point. -/
def memHot (hw : Hw) (r : Thermal) (near stack : Int) : List Nat :=
  atOrAbove near (fitted hw .near r.nears) ++ (atOrAbove stack (fitted hw .stack r.hbms)).map (fun k => 4 + k)

/-- The trip that a round of readings causes, the first of Table 18-12's order. -/
def tripOf (hw : Hw) (r : Thermal) : Nat :=
  if !(atOrAbove 1150 (fitted hw .cdie r.dies)).isEmpty then 1
  else if !(atOrAbove 1150 (fitted hw .iodie r.ios)).isEmpty then 2
  else if !(atOrAbove 1050 (fitted hw .near r.nears)).isEmpty then 3
  else if !(atOrAbove 1050 (fitted hw .stack r.hbms)).isEmpty then 4
  else 0

/-- R442: a trip switches off every rail but the AON rail and the meter's; it acts as an input loss for the rest. -/
def thermalTrip (s : State) (cause : Nat) : State :=
  let s1 := pwSet s { s.pw with trip := cause, tripped := true,
                                tripMem := cause = 3 || cause = 4 }
  alertEdge (railsOff s1 true)

/-- Registers of the sensors that the AON domain itself reads: dies, I/O dies and coolant. -/
def readAon (s : State) (r : Thermal) : State :=
  let io (i : Nat) : Nat := half16 (r.ios.getD i 0)
  let die (d : Nat) : Nat := half16 (r.dies.getD d 0)
  pwSet s { s.pw with
    thDie := BitVec.ofNat 64 ((List.range 4).foldl (fun a d => a + die d <<< (16 * d)) 0),
    thAux := BitVec.ofNat 64 (s.pw.thAux.toNat / 2 ^ 32 * 2 ^ 32 + io 0 + io 1 <<< 16),
    coolant := BitVec.ofNat 32 (r.inlet % 65536 + (r.flow % 65536) <<< 16),
    hotRead := dieHot s.hw r 950 }

/-- All readings, with what throttles regulate: the dies' stretch and the memory controllers to limit. -/
def readAll (s : State) (r : Thermal) : State :=
  let s1 := readAon s r
  let hot := dieHot s.hw r 950
  let aux := half16 (hottest ((fitted s.hw .stack r.hbms).map Prod.snd)) + half16 (hottest ((fitted s.hw .near r.nears).map Prod.snd)) <<< 16
  pwSet s1 { s1.pw with
    thAux := BitVec.ofNat 64 (s1.pw.thAux.toNat % 2 ^ 32 + aux <<< 32),
    memThrottle := memHot s.hw r 850 950,
    demand := (hot.filter (fun d => d < 4)).foldl (fun m d => mapSet m d (min 60 (r.stretch.getD d 0))) [] }

/-- Emergencies that the readings assert at once: DIE_THERM, MEM_THERM and COOL_TEMP. -/
def readEmerg (s : State) (r : Thermal) : State :=
  let d := dieHot s.hw r 1050
  let m := memHot s.hw r 950 1000
  let add (l k : List Nat) : List Nat := l ++ k.filter (fun x => !(l.contains x))
  let s1 := pwSet s { s.pw with hotDies := add s.pw.hotDies d, hotMem := add s.pw.hotMem m }
  let bits := (if d.isEmpty then 0 else 4) + (if m.isEmpty then 0 else 8) + (if 450 < r.inlet then 16 else 0)
  emergTo s1 (Nat.lor s1.pw.active bits)

/-- COOLANT_MARGINAL: inlet above 40.0 °C or flow below 2.0 L/min; becoming so posts a POWER event. -/
def readMargin (s : State) (r : Thermal) : State :=
  let m : Bool := 400 < r.inlet || r.flow < 200
  let s1 := pwSet s { s.pw with margin := m }
  if m && !s.pw.margin then postPower s1 0 else s1

/-- THERMAL_READING. During a trip the AON domain goes on reading its own sensors. -/
def execThermalReading (r : Thermal) (s : State) : Out :=
  if !s.pw.on then .next (if s.pw.tripped && s.pn.modRst then readAon s r else s)
  else
    let s1 := readEmerg (readMargin (readAll s r) r) r
    let c := tripOf s.hw r
    .next (if c = 0 then s1 else thermalTrip s1 c)

/-! ### Hold times (R444, Table 18-4) -/

def inputI (s : State) : Nat := bitsOf s.pw.pwrIn.toNat 31 16
def inletOf (s : State) : Nat := s.pw.coolant.toNat % 65536
def flowOf (s : State) : Nat := s.pw.coolant.toNat / 65536

/-- EMERG_DURATION: the hold time of source 1 to 5 elapses, and it asserts or clears if its condition held; 6 is the 5 s of the
flow's trip point. -/
def execEmergDuration (src : Nat) (s : State) : Out :=
  if !s.pw.on then .next s
  else match src with
    | 1 =>
      if bitOf s.pw.active 1 then .next (if inputI s * 56 < effW s * 100 then emergOff s 1 else s)
      else if effW s * 500 < inputI s * 224 && (runningParts s).all (fun p => stretchOf s p = 60) then .next (emergOn s 1)
      else .next s
    | 2 => .next (if s.pw.hotRead.isEmpty then emergOff (pwSet s { s.pw with hotDies := [] }) 2 else s)
    | 3 =>
      let s1 := pwSet s { s.pw with hotMem := s.pw.hotMem.filter (fun m => s.pw.memThrottle.contains m) }
      .next (if s1.pw.hotMem.isEmpty then emergOff s1 3 else s1)
    | 4 => .next (if inletOf s < 420 then emergOff s 4 else s)
    | 5 =>
      if bitOf s.pw.active 5 then .next (if 180 ≤ flowOf s then emergOff s 5 else s)
      else .next (if flowOf s < 150 then emergOn s 5 else s)
    | 6 => .next (if flowOf s < 50 then thermalTrip s 5 else s)
    | _ => .next s

/-! ### Registers with an effect (R437, R439, R442, R445, R456) -/

/-- Management firmware runs; PF0 reaches the package root. -/
def pwWriter (s : State) (w : Writer) : Bool := bar0Open s w && (w ≠ .mgmt || s.fw.mgmt = 1)

/-- PWR_CAP_WRITE, by PF0 or management firmware. -/
def execPwrCapWrite (w : Writer) (v : W32) (s : State) : Out :=
  .next (if (w = .pf0 || w = .mgmt) && pwWriter s w then capWrite s v.toNat else s)

/-- PWR_OPP_WRITE: the four entries of PWR_OPPk. -/
def execPwrOppWrite (w : Writer) (k : Nat) (v : W32) (s : State) : Out :=
  .next (if w = .mgmt && pwWriter s w && k < 128 then
      (List.range 4).foldl (fun s j => oppWrite s (4 * k + j) (bitsOf v.toNat (8 * j + 4) (8 * j))) s
    else s)

/-- DIE_VOLTAGE_REACHED: the die's voltage serves the point it ramps to, and points that wait take effect. -/
def execDieVoltageReached (d : Nat) (s : State) : Out :=
  .next (if s.pw.on && present s.hw (.cdie d) then
      oppApply (pwSet s { s.pw with volt := mapSet s.pw.volt d (voltTarget s d) })
    else s)

/-- AGE_PRED_WRITE, by management firmware. -/
def execAgePredWrite (w : Writer) (v : RegPart) (s : State) : Out :=
  .next (if w = .mgmt && pwWriter s w && halfOk v.off v.width then ageWrite s (merge64 s.pw.agePred v.off v.width v.val) else s)

/-- TRIP_CAUSE_CLEAR: PF0 writes 1 to bit 0. -/
def execTripCauseClear (w : Writer) (v : W32) (s : State) : Out :=
  .next (if w = .pf0 && bar0Unit s w .package && v.getLsbD 0 then alertEdge (pwSet s { s.pw with trip := 0 }) else s)

/-! ### Apportionment (R453) -/

/-- Shares that exceed the interval's energy are scaled down in proportion. -/
def shareScaled (shares : List (Nat × Nat)) (total : Nat) : List (Nat × Nat) :=
  let sum := shares.foldl (fun a e => a + e.2) 0
  if sum ≤ total then shares else shares.map (fun e => (e.1, e.2 * total / sum))

/-- APPORTION: estimated shares in µJ of active contexts, and the input energy of the interval in µJ; the rest goes to the
operator. -/
def execApportion (shares : List (Nat × Nat)) (total : Nat) (s : State) : Out :=
  if !s.pw.on || s.fw.mgmt ≠ 1 then .next s
  else
    let xs := shareScaled (shares.filter (fun e => (ctxAt s e.1).st ≠ .free)) total
    let sum := xs.foldl (fun a e => a + e.2) 0
    .next (pwSet s { s.pw with
      appCtx := xs.foldl (fun m e => mapSet m e.1 (satAdd (mapGet 0 m e.1) e.2)) s.pw.appCtx,
      appOper := satAdd s.pw.appOper (total - sum) })

end Sys2Proof.Machine
end

