-- ==== Sys2Proof/Machine/PinCmds.lean ====
section
/-! DEFINITION. The module's pins: MOD_RST_N, PERST#, FLASH_OWN_N, the I3C target of io0 and the JTAG port (spec 19: R458 to R466,
R469). -/
namespace Sys2Proof.Machine
open Sys2Proof

/-! ### MOD_RST_N (R459, R463) -/

/-- MOD_RST_LOW: an OTP bit being programmed completes, then every rail but AON's and the meter's is off, and AON is held in reset.
ALERT_N stays low for a trip, as TRIP_CAUSE survives. -/
def execModRstLow (s : State) : Out :=
  let s1 := railsOff (lcProgram s 1) false
  .next { s1 with pn := { s1.pn with modRst := false, alert := s1.pw.trip ≠ 0 } }

/-- R463: what a reset after a trip waits for. `waited`: 10 s have passed since the trip. -/
def tripHolds (s : State) (waited : Bool) : Bool :=
  s.pw.tripped && (!s.pw.hotRead.isEmpty || flowOf s < 180 || (s.pw.tripMem && !waited))

/-- MOD_RST_RISE, with HP_SPLIT as sampled and the boot steps that follow; a reset that a trip holds goes on with a later one. -/
def execModRstRise (split : Bool) (steps : List BootStep) (waited : Bool) (s : State) : Out :=
  if s.pn.modRst && !(s.pw.tripped && !s.pw.on) then .next s
  else
    let s1 := { s with pn := { s.pn with modRst := true } }
    .next (if tripHolds s1 waited then s1 else bootGo steps (coldReset s1 split))

/-! ### PERST# (R460) -/

/-- PERST1# is ignored while the port is not split. -/
def perstTaken (s : State) (port : Nat) : Bool := port = 0 || (port = 1 && s.hw.split)

def perstSet (s : State) (port : Nat) (level : Bool) : State :=
  { s with pn := if port = 0 then { s.pn with perst0 := level } else { s.pn with perst1 := level } }

/-- PERST_ASSERT: the port resets, and R321 applies to its functions. -/
def execPerstAssert (port : Nat) (s : State) : Out :=
  if !(perstTaken s port) then .next s
  else
    let s1 := perstSet s port false
    .next (if s.pw.on then linkReset s1 port else s1)

/-- PERST_DEASSERT: the port trains (HOST_LINK_UP), and a boot that waits at step 13 goes on. -/
def execPerstDeassert (port : Nat) (steps : List BootStep) (s : State) : Out :=
  if !(perstTaken s port) then .next s
  else
    let s1 := perstSet s port true
    .next (if s.pw.on && s.fw.booting then bootGo steps s1 else s1)

/-! ### FLASH_OWN_N (R464) -/

/-- FLASH_OWN: a fall counts only while MOD_RST_N is low; a rise returns the flash, and a boot that waits at step 2 goes on. -/
def execFlashOwn (level : Bool) (steps : List BootStep) (s : State) : Out :=
  let owned : Bool := !level && (s.pn.boardFlash || !s.pn.modRst)
  let s1 := { s with pn := { s.pn with flashPin := level, boardFlash := owned } }
  .next (if level && s.pw.on && s.fw.booting then bootGo steps s1 else s1)

/-! ### The I3C target of io0 (R465) -/

/-- The AON domain runs: with the rails up, or in a trip. -/
def aonUp (s : State) : Bool := s.pn.modRst && (s.pw.on || s.pw.tripped)

/-- Offsets whose contents the target returns. -/
def i3cShown (a : Nat) : Bool :=
  (0x200 ≤ a && a < 0x240) || (0x4B0040 ≤ a && a < 0x4B0068) || (0x490040 ≤ a && a < 0x490044) || (0x490080 ≤ a && a < 0x4900B0)
    || (0x4A0040 ≤ a && a < 0x4A0460) || (0x4A8000 ≤ a && a < 0x4B0000)

def i3cWord (s : State) (a : Nat) : List Byte := leBytes 4 (if i3cShown a then bar0Word s a else 0)

/-- READ: the response with the register contents of the permitted ranges, zero elsewhere. -/
def execI3cRead (off len : Nat) (s : State) : Out :=
  if !(aonUp s) then .next s
  else
    let ok : Bool := off % 4 = 0 && len % 4 = 0 && 4 ≤ len && len ≤ 1024
    let body := if ok then (List.range (len / 4)).flatMap (fun i => i3cWord s (off + 4 * i)) else []
    .next { s with pn := { s.pn with
      i3cRsp := leBytes 1 1 ++ leBytes 1 (if ok then 0 else 2) ++ leBytes 2 body.length ++ body } }

/-! ### JTAG (R466, Table 19-5) -/

def bypassIr : Nat := 0xFF

/-- Whether the life-cycle state permits an instruction; a reserved value selects the bypass register. -/
def irAllowed (st ir : Nat) : Bool :=
  if ir = 0x00 || ir = 0x02 then st ≠ 6 && st ≠ 7
  else if ir = 0x01 || ir = bypassIr then true
  else if ir = 0x10 then st ≠ 6
  else if 0x20 ≤ ir && ir ≤ 0x7F then st = 0 || st = 2
  else false

/-- Selects an instruction, or the bypass register in its place; `go` acts under a permitted one. -/
def jtagIr (s : State) (ir : Nat) (go : State → State) : Out :=
  if !(aonUp s) then .next s
  else if irAllowed (lcState s) ir then .next (go { s with pn := { s.pn with jtagIr := ir } })
  else .next { s with pn := { s.pn with jtagIr := bypassIr, jtagDr := 0 } }

/-- DEBUG_SEEN is set until cold reset (R392). -/
def debugSeen (s : State) : State := lcSet s { s.ks.lc with debugSeen := true }

/-- TRIP_N is high: TRIP_CAUSE is 0 (R458, R462). -/
def tripN (s : State) : Bool := s.pw.trip = 0

/-- VAR[1:0] and PRSNT_N[1:0] (R458). -/
def tiedPins (s : State) : List Bool :=
  let v := match s.hw.variant with | .n32 => 0 | .h192 => 1 | .h576x => 2
  [bitOf v 0, bitOf v 1, false, false]

/-- Levels of the J5 and strap pins that the boundary-scan cells cover. -/
def pinLevels (s : State) : List Bool :=
  [s.pn.modRst, s.pn.perst0, s.pn.perst1, s.pn.hpSplit, s.pn.flashPin, !s.pw.warn, !s.pn.alert, tripN s] ++ tiedPins s

def scanCapture (s : State) : Nat := Config.scanImage (pinLevels s)

/-- EXTEST drives the output cells. -/
def execExtest (cells : Nat) (s : State) : Out :=
  jtagIr s 0x00 (fun s => debugSeen { s with pn := { s.pn with bscan := cells, jtagDr := scanCapture s } })

/-- IDCODE. -/
def execIdcode (s : State) : Out := jtagIr s 0x01 (fun s => { s with pn := { s.pn with jtagDr := 0x15C71F4B } })

/-- SAMPLE/PRELOAD captures the pins and loads the cells. -/
def execSamplePreload (cells : Nat) (s : State) : Out :=
  jtagIr s 0x02 (fun s => debugSeen { s with pn := { s.pn with bscan := cells, jtagDr := scanCapture s } })

/-- LC_ACCESS: reads LC_STAT, writes LC_TOKEN or LC_CMD. -/
def lcAccessGo (a : LcAcc) (s : State) : State :=
  match a with
  | .stat => { s with pn := { s.pn with jtagDr := lcStatReg s.ks.lc } }
  | .token k v => if k < 8 then lcSet s { s.ks.lc with token := mapSet s.ks.lc.token k v } else s
  | .cmd go op target => if go then lcRequest s op target 0 else s

def execLcAccess (a : LcAcc) (s : State) : Out := jtagIr s 0x10 (lcAccessGo a)

/-- DEBUG, 0x20 to 0x7F: debug access is opened in RAW and TEST_UNLOCK; what a debug register does, the manual does not say. -/
def execJtagDebug (ir : Nat) (s : State) : Out :=
  if 0x20 ≤ ir && ir ≤ 0x7F then jtagIr s ir debugSeen else .next s

/-- BYPASS. -/
def execBypass (s : State) : Out := jtagIr s bypassIr (fun s => { s with pn := { s.pn with jtagDr := 0 } })

end Sys2Proof.Machine
end

