-- ==== Sys2Proof/Machine/PlateFetch.lean ====
section
/-! DEFINITION. The plate fetcher: lookahead, the arrival of a stroke and the end of a freeze (spec 06, R155 to R157). -/
namespace Sys2Proof.Machine
open Sys2Proof

/-- R155: a body stroke of an active loop with iterations remaining holds the index of `addr`; lookahead does not
replace it. -/
def inLiveBody (p : Plate) (a : Nat) : Bool :=
  p.loops.any (fun l => l.start ≤ a && a ≤ l.fin && l.idx + 1 < l.cnt)

/-- R155: lookahead may bring the stroke at `a`: at most 512 strokes ahead of PC along the sequential path, and it has not stopped before it, at an index
that holds a stroke of the body of a live loop. -/
def lookahead (p : Plate) (a : Nat) : Bool :=
  p.pc ≤ a && a ≤ p.pc + 512 && (List.range (a + 1 - p.pc)).all (fun i =>
    let held := mapGet 0 p.cache ((p.pc + i) % 1024)
    held = 0 || held = p.pc + i + 1 || !(inLiveBody p (held - 1)))

/-- A stroke reaches the plate cache; `blank` where the fetcher read zero. The freeze that waits for it ends, and FREEZE_CNT counts its cycles: one, in which the
stroke arrives, and those before it, which memory decides (R156; log entry 1). -/
def fetchArrive (s : State) (t addr : Nat) (blank : Bool) : State :=
  let x := tileAt s t
  let due : Bool := x.plate.pstate = .frozen && addr = x.plate.pc
  let bl := x.plate.blank.filter (fun k => k ≠ addr % 1024)
  let x1 := { x with
    plate := { x.plate with cache := mapSet x.plate.cache (addr % 1024) (addr + 1),
                            blank := if blank then addr % 1024 :: bl else bl },
    num := { x.num with ue := x.num.ue.filter (fun w => w ≠ .plate (addr % 1024)) } }
  if due then
    tileSet { s with free := s.free + 1 } t { x1 with plate := { x1.plate with
      pstate := .issuing, freezeCnt := satAdd x1.plate.freezeCnt (1 + Config.freeCycles s.free t) } }
  else tileSet s t x1

/-- The device address of a stroke of the plate that a partition runs: it stands in the plate object at image byte 0x100 + 64·a. -/
def strokeDva (s : State) (p : Part) (addr : Nat) : Nat :=
  match p.run.bind (fun r => mapFind s.rg.objs r.obj) with
  | some o => o.base + 0x100 + 64 * addr
  | none => 0

/-- The fetcher of tile t's cluster reads a plate line once for all member tiles there, through the partition's ways under CPOL NORMAL: the access is made with
the delivery to the lowest of them (R128, R155). Uncorrectable cache words are recorded there with SOURCE 15 (Table 3-13). The status of a failed read is
answered and leaves no record (R157). -/
def plateLine (s : State) (p : Part) (t addr : Nat) : State × Nat :=
  let dva := strokeDva s p addr
  if ((partTiles p).find? (fun u => u / 16 = t / 16)) ≠ some t then (s, stOk)
  else match cacheLine s p.ctx dva with
    | none => (s, stOk)
    | some l =>
      if (cacheAt s (t / 16)).lines.any (fun e => e.line = l && (cacheWays s t).contains e.way) then ((fetchLine s t 15 0 [] (dva / 64)).1, stOk)
      else
        let r := ctxReadLine s (some (pageOf (.tile t))) p.ctx (dva / 64 * 64) 64 []
        let y := cacheAt r.1 (t / 16)
        let y1 := { y with miss := satInc y.miss }
        (cacheSet r.1 (t / 16) (if r.2.1 = stOk then cacheFill y1 (cacheWays s t) l 0 else y1), r.2.1)

/-- A plate line in the cluster's ways holds uncorrectable words. -/
def plateLineBad (s : State) (p : Part) (t addr : Nat) : Bool :=
  match cacheLine s p.ctx (strokeDva s p addr) with
  | some l => let x := cacheAt s (t / 16)
              x.lines.any (fun e => e.line = l && (cacheWays s t).contains e.way) && x.bad.any (fun w => w / 8 = l)
  | none => false

/-- PLATE_FETCH_ARRIVE (R155 to R157): the fetcher delivers a stroke, or the final status of a line that failed. The next stroke to issue replaces what its
index holds; a failed one, or one at or beyond NSTROKES, is a plate fault FETCH. Lookahead does not replace a stroke of a live loop body, and its
failures leave no record. -/
def execPlateFetchArrive (t addr status : Nat) (s : State) : Out :=
  let x := tileAt s t
  match partOf s t with
  | none => .next s
  | some p =>
    if t ≥ 512 || !(memberRuns x) then .next s
    else if x.plate.pstate = .frozen && nstrokesOf s t ≤ x.plate.pc then .next (plateFault s t 1)
    else
      let due : Bool := x.plate.pstate = .frozen && addr = x.plate.pc
      if nstrokesOf s t ≤ addr || (!due && !(lookahead x.plate addr)) then .next s
      else
        let r := plateLine s p t addr
        let st := if status ≠ stOk then status else r.2
        if st ≠ stOk then .next (if due then plateFault r.1 t 1 else r.1)
        else .next (fetchArrive r.1 t addr (plateLineBad s p t addr))

end Sys2Proof.Machine
end

