-- ==== Sys2Proof/Machine/Dispatch.lean ====
section
/-! DEFINITION. One arm per command: the meaning it calls. -/
namespace Sys2Proof.Machine
open Sys2Proof

def exec (i : Instr) (s : State) : Host.Outcome State Fault Refusal :=
  match i with
  | .unitNop u w inc => Sys2Proof.Machine.execUnitNop u w inc s
  | .quiesce u w inc => Sys2Proof.Machine.execQuiesce u w inc s
  | .resume u w inc => Sys2Proof.Machine.execResume u w inc s
  | .reset u w inc => Sys2Proof.Machine.execReset u w inc s
  | .sleep u w inc => Sys2Proof.Machine.execSleep u w inc s
  | .retire u w inc => Sys2Proof.Machine.execRetire u w inc s
  | .unitQuiesced u => Sys2Proof.Machine.execUnitQuiesced u s
  | .resetDone u => Sys2Proof.Machine.execResetDone u s
  | .wakeDone u => Sys2Proof.Machine.execWakeDone u s
  | .fatalInternalError u => Sys2Proof.Machine.execFatalInternalError u s
  | .requestArrival r => Sys2Proof.Machine.execRequestArrival r s
  | .replyArrival u tag reqInc rspInc tgt status func => Sys2Proof.Machine.execReplyArrival u tag reqInc rspInc tgt status func s
  | .requestReissue u tag => Sys2Proof.Machine.execRequestReissue u tag s
  | .quiesceDrainLimit u => Sys2Proof.Machine.execQuiesceDrainLimit u s
  | .requestSoftTimeout u tag => Sys2Proof.Machine.execRequestSoftTimeout u tag s
  | .requestHardTimeout u tag => Sys2Proof.Machine.execRequestHardTimeout u tag s
  | .transactionTimeout w => Sys2Proof.Machine.execTransactionTimeout w s
  | .txnEnrol tid u inc => Sys2Proof.Machine.execTxnEnrol tid u inc s
  | .txnPrepare tid u inc => Sys2Proof.Machine.execTxnPrepare tid u inc s
  | .txnVote tid u => Sys2Proof.Machine.execTxnVote tid u s
  | .txnCommit tid u => Sys2Proof.Machine.execTxnCommit tid u s
  | .txnAck tid u => Sys2Proof.Machine.execTxnAck tid u s
  | .txnAbort tid u => Sys2Proof.Machine.execTxnAbort tid u s
  | .decisionQuery tid u => Sys2Proof.Machine.execDecisionQuery tid u s
  | .unitEvtWrite u w en v => Sys2Proof.Machine.execUnitEvtWrite u w en v s
  | .errlogClear u w => Sys2Proof.Machine.execErrlogClear u w s
  | .registerWrite w off width v => Sys2Proof.Machine.execRegisterWrite w off width v s
  | .substGo c w ltile mode retireOld => Sys2Proof.Machine.execSubstGo c w ltile mode retireOld s
  | .substCancel c w => Sys2Proof.Machine.execSubstCancel c w s
  | .liveSubstStart c => Sys2Proof.Machine.execLiveSubstStart c s
  | .liveSubstCommit c ok => Sys2Proof.Machine.execLiveSubstCommit c ok s
  | .substClearDone c => Sys2Proof.Machine.execSubstClearDone c s
  | .pendingStart t p => Sys2Proof.Machine.execPendingStart t p s
  | .wload t f more => Sys2Proof.Machine.execWload t f more s
  | .stream t f more => Sys2Proof.Machine.execStream t f more s
  | .drain t f more => Sys2Proof.Machine.execDrain t f more s
  | .batchAppend t q => Sys2Proof.Machine.execBatchAppend t q s
  | .batchRelease t => Sys2Proof.Machine.execBatchRelease t s
  | .batchDeadline t => Sys2Proof.Machine.execBatchDeadline t s
  | .batchRetire t => Sys2Proof.Machine.execBatchRetire t s
  | .move t f more => Sys2Proof.Machine.execMove t f more s
  | .prefetch t f more => Sys2Proof.Machine.execPrefetch t f more s
  | .streamCmdDone t k => Sys2Proof.Machine.execStreamCmdDone t k s
  | .tdload t td sreg imm hw more => Sys2Proof.Machine.execTdload t td sreg imm hw more s
  | .tdbase t td sreg second more => Sys2Proof.Machine.execTdbase t td sreg second more s
  | .lstart t count body => Sys2Proof.Machine.execLstart t count body s
  | .lstartS t sreg body => Sys2Proof.Machine.execLstartS t sreg body s
  | .call t target => Sys2Proof.Machine.execCall t target s
  | .ret t => Sys2Proof.Machine.execRet t s
  | .halt t more => Sys2Proof.Machine.execHalt t more s
  | .addi t dst sa imm more => Sys2Proof.Machine.execAddi t dst sa imm more s
  | .scalarAdd t dst sa sb more => Sys2Proof.Machine.execScalarAdd t dst sa sb more s
  | .scalarSub t dst sa sb more => Sys2Proof.Machine.execScalarSub t dst sa sb more s
  | .scalarMul t dst sa sb more => Sys2Proof.Machine.execScalarMul t dst sa sb more s
  | .sAnd t dst sa sb more => Sys2Proof.Machine.execSAnd t dst sa sb more s
  | .sOr t dst sa sb more => Sys2Proof.Machine.execSOr t dst sa sb more s
  | .sXor t dst sa sb more => Sys2Proof.Machine.execSXor t dst sa sb more s
  | .shli t dst sa imm more => Sys2Proof.Machine.execShli t dst sa imm more s
  | .shri t dst sa imm more => Sys2Proof.Machine.execShri t dst sa imm more s
  | .srai t dst sa imm more => Sys2Proof.Machine.execSrai t dst sa imm more s
  | .scalarMin t dst sa sb more => Sys2Proof.Machine.execScalarMin t dst sa sb more s
  | .scalarMax t dst sa sb more => Sys2Proof.Machine.execScalarMax t dst sa sb more s
  | .li t dst k imm more => Sys2Proof.Machine.execLi t dst k imm more s
  | .sel t dst sa sb more => Sys2Proof.Machine.execSel t dst sa sb more s
  | .sld t dst sa imm hw more => Sys2Proof.Machine.execSld t dst sa imm hw more s
  | .sst t sa sb imm hw more => Sys2Proof.Machine.execSst t sa sb imm hw more s
  | .xset t dst lane sa more => Sys2Proof.Machine.execXset t dst lane sa more s
  | .xaddi t dst lane imm more => Sys2Proof.Machine.execXaddi t dst lane imm more s
  | .xadd t dst lane sa more => Sys2Proof.Machine.execXadd t dst lane sa more s
  | .xcopy t dst sa more => Sys2Proof.Machine.execXcopy t dst sa more s
  | .xget t dst sa lane more => Sys2Proof.Machine.execXget t dst sa lane more s
  | .wait t k n src v more => Sys2Proof.Machine.execWait t k n src v more s
  | .barrier t bid more => Sys2Proof.Machine.execBarrier t bid more s
  | .barrierArrive t k bid sy => Sys2Proof.Machine.execBarrierArrive t k bid sy s
  | .tokenDec t n amount more => Sys2Proof.Machine.execTokenDec t n amount more s
  | .flagclr t mask more => Sys2Proof.Machine.execFlagclr t mask more s
  | .cfg t off sreg more => Sys2Proof.Machine.execCfg t off sreg more s
  | .abortStep t cond sreg more => Sys2Proof.Machine.execAbortStep t cond sreg more s
  | .stepOpen t more => Sys2Proof.Machine.execStepOpen t more s
  | .stepCommit t more => Sys2Proof.Machine.execStepCommit t more s
  | .coll t group sched sreg more => Sys2Proof.Machine.execColl t group sched sreg more s
  | .waitTimeout t => Sys2Proof.Machine.execWaitTimeout t s
  | .plateFetchArrive t addr status => Sys2Proof.Machine.execPlateFetchArrive t addr status s
  | .runComplete t => Sys2Proof.Machine.execRunComplete t s
  | .vcopy t f more => Sys2Proof.Machine.execVcopy t f more s
  | .fills t f more => Sys2Proof.Machine.execFills t f more s
  | .iadd t f more => Sys2Proof.Machine.execIadd t f more s
  | .iand t f more => Sys2Proof.Machine.execIand t f more s
  | .ior t f more => Sys2Proof.Machine.execIor t f more s
  | .ixor t f more => Sys2Proof.Machine.execIxor t f more s
  | .cmplt t f more => Sys2Proof.Machine.execCmplt t f more s
  | .cmpeq t f more => Sys2Proof.Machine.execCmpeq t f more s
  | .select t f more => Sys2Proof.Machine.execSelect t f more s
  | .vadd t f more => Sys2Proof.Machine.execVadd t f more s
  | .vsub t f more => Sys2Proof.Machine.execVsub t f more s
  | .vmul t f more => Sys2Proof.Machine.execVmul t f more s
  | .fma t f more => Sys2Proof.Machine.execFma t f more s
  | .axpby t f more => Sys2Proof.Machine.execAxpby t f more s
  | .axpby2 t f more => Sys2Proof.Machine.execAxpby2 t f more s
  | .vmin t f more => Sys2Proof.Machine.execVmin t f more s
  | .vmax t f more => Sys2Proof.Machine.execVmax t f more s
  | .scale t f more => Sys2Proof.Machine.execScale t f more s
  | .add64 t f more => Sys2Proof.Machine.execAdd64 t f more s
  | .cvt t f more => Sys2Proof.Machine.execCvt t f more s
  | .updw t f more => Sys2Proof.Machine.execUpdw t f more s
  | .div t f more => Sys2Proof.Machine.execDiv t f more s
  | .sqrt t f more => Sys2Proof.Machine.execSqrt t f more s
  | .rsqrt t f more => Sys2Proof.Machine.execRsqrt t f more s
  | .vexp t f more => Sys2Proof.Machine.execVexp t f more s
  | .vlog t f more => Sys2Proof.Machine.execVlog t f more s
  | .tanh t f more => Sys2Proof.Machine.execTanh t f more s
  | .sigmoid t f more => Sys2Proof.Machine.execSigmoid t f more s
  | .silu t f more => Sys2Proof.Machine.execSilu t f more s
  | .gelu t f more => Sys2Proof.Machine.execGelu t f more s
  | .rsum t f more => Sys2Proof.Machine.execRsum t f more s
  | .rsumsq t f more => Sys2Proof.Machine.execRsumsq t f more s
  | .rmax t f more => Sys2Proof.Machine.execRmax t f more s
  | .rmin t f more => Sys2Proof.Machine.execRmin t f more s
  | .rmaxabs t f more => Sys2Proof.Machine.execRmaxabs t f more s
  | .rndu t f more => Sys2Proof.Machine.execRndu t f more s
  | .dropout t f more => Sys2Proof.Machine.execDropout t f more s
  | .rndb t f more => Sys2Proof.Machine.execRndb t f more s
  | .monitorMergeDone t ev => Sys2Proof.Machine.execMonitorMergeDone t ev s
  | .monHitClear t w => Sys2Proof.Machine.execMonHitClear t w s
  | .launchStart c => Sys2Proof.Machine.execLaunchStart c s
  | .send t ev => Sys2Proof.Machine.execSend t ev s
  | .recv t => Sys2Proof.Machine.execRecv t s
  | .reduce t hw ev => Sys2Proof.Machine.execReduce t hw ev s
  | .drupeletCopy t ev => Sys2Proof.Machine.execDrupeletCopy t ev s
  | .lanLoop t => Sys2Proof.Machine.execLanLoop t s
  | .countx t => Sys2Proof.Machine.execCountx t s
  | .countr t => Sys2Proof.Machine.execCountr t s
  | .endProg t => Sys2Proof.Machine.execEndProg t s
  | .launchComplete t => Sys2Proof.Machine.execLaunchComplete t s
  | .dataFrame src ev => Sys2Proof.Machine.execDataFrame src ev s
  | .creditFrame src => Sys2Proof.Machine.execCreditFrame src s
  | .ackFrame h => Sys2Proof.Machine.execAckFrame h s
  | .nackFrame h runs => Sys2Proof.Machine.execNackFrame h runs s
  | .probe h next avail => Sys2Proof.Machine.execProbe h next avail s
  | .probeRsp h next avail => Sys2Proof.Machine.execProbeRsp h next avail s
  | .joinMsg src => Sys2Proof.Machine.execJoinMsg src s
  | .keyconf src => Sys2Proof.Machine.execKeyconf src s
  | .voteMsg src => Sys2Proof.Machine.execVoteMsg src s
  | .decision src => Sys2Proof.Machine.execDecision src s
  | .vack src => Sys2Proof.Machine.execVack src s
  | .closed src => Sys2Proof.Machine.execClosed src s
  | .dquery src => Sys2Proof.Machine.execDquery src s
  | .failMsg src => Sys2Proof.Machine.execFailMsg src s
  | .goneMsg src => Sys2Proof.Machine.execGoneMsg src s
  | .mkpdu p e => Sys2Proof.Machine.execMkpdu p e s
  | .probeInterval node p => Sys2Proof.Machine.execProbeInterval node p s
  | .ackInterval node p => Sys2Proof.Machine.execAckInterval node p s
  | .retransmissionTimeout node p => Sys2Proof.Machine.execRetransmissionTimeout node p s
  | .unreachableLimit node => Sys2Proof.Machine.execUnreachableLimit node s
  | .fabricLinkUp p => Sys2Proof.Machine.execFabricLinkUp p s
  | .fabricLinkLoss p => Sys2Proof.Machine.execFabricLinkLoss p s
  | .allowWrite w e v => Sys2Proof.Machine.execAllowWrite w e v s
  | .uctCfgWrite w off width v => Sys2Proof.Machine.execUctCfgWrite w off width v s
  | .fpCtlWrite w p v => Sys2Proof.Machine.execFpCtlWrite w p v s
  | .fpCakWrite w p v => Sys2Proof.Machine.execFpCakWrite w p v s
  | .metadataEvict blk level idx => Sys2Proof.Machine.execMetadataEvict blk level idx s
  | .patrolScrub m ev => Sys2Proof.Machine.execPatrolScrub m ev s
  | .rowRemapDone m pc row => Sys2Proof.Machine.execRowRemapDone m pc row s
  | .mcRemapCmd u w pc row => Sys2Proof.Machine.execMcRemapCmd u w pc row s
  | .mcEvac u w pc scope => Sys2Proof.Machine.execMcEvac u w pc scope s
  | .migrationCopyDone m pc ev => Sys2Proof.Machine.execMigrationCopyDone m pc ev s
  | .frameDrained tier f => Sys2Proof.Machine.execFrameDrained tier f s
  | .frameScrubDone tier f => Sys2Proof.Machine.execFrameScrubDone tier f s
  | .farBlockReinit blk => Sys2Proof.Machine.execFarBlockReinit blk s
  | .encAlarmClear w => Sys2Proof.Machine.execEncAlarmClear w s
  | .hdmAccess src off wr poison => Sys2Proof.Machine.execHdmAccess src off wr poison s
  | .snoop port addr => Sys2Proof.Machine.execSnoop port addr s
  | .atsInvalidate blk => Sys2Proof.Machine.execAtsInvalidate blk s
  | .numvfsWrite port n enable => Sys2Proof.Machine.execNumvfsWrite port n enable s
  | .vfFlr port vf => Sys2Proof.Machine.execVfFlr port vf s
  | .pfFlr port => Sys2Proof.Machine.execPfFlr port s
  | .vfEnableClear port => Sys2Proof.Machine.execVfEnableClear port s
  | .bmeClear port vf set => Sys2Proof.Machine.execBmeClear port vf set s
  | .mseClear port vf set => Sys2Proof.Machine.execMseClear port vf set s
  | .hostLinkDown port => Sys2Proof.Machine.execHostLinkDown port s
  | .viral port => Sys2Proof.Machine.execViral port s
  | .completionTimeout port cmd line => Sys2Proof.Machine.execCompletionTimeout port cmd line s
  | .ideIntegrityFail port stream e => Sys2Proof.Machine.execIdeIntegrityFail port stream e s
  | .ideKeyProgram port stream => Sys2Proof.Machine.execIdeKeyProgram port stream s
  | .lockInterfaceRequest port vf stream => Sys2Proof.Machine.execLockInterfaceRequest port vf stream s
  | .stopInterface port vf => Sys2Proof.Machine.execStopInterface port vf s
  | .sqTail src ctx q tail => Sys2Proof.Machine.execSqTail src ctx q tail s
  | .cqHead src ctx q head => Sys2Proof.Machine.execCqHead src ctx q head s
  | .evqHead src ctx head => Sys2Proof.Machine.execEvqHead src ctx head s
  | .ringNop ctx qid => Sys2Proof.Machine.execRingNop ctx qid s
  | .identify ctx qid => Sys2Proof.Machine.execIdentify ctx qid s
  | .ifNegotiate ctx qid => Sys2Proof.Machine.execIfNegotiate ctx qid s
  | .ctxCreate ctx qid => Sys2Proof.Machine.execCtxCreate ctx qid s
  | .ctxDestroy ctx qid => Sys2Proof.Machine.execCtxDestroy ctx qid s
  | .vfBind ctx qid => Sys2Proof.Machine.execVfBind ctx qid s
  | .vfUnbind ctx qid => Sys2Proof.Machine.execVfUnbind ctx qid s
  | .dmaWindow ctx qid => Sys2Proof.Machine.execDmaWindow ctx qid s
  | .farWindow ctx qid => Sys2Proof.Machine.execFarWindow ctx qid s
  | .objShare ctx qid => Sys2Proof.Machine.execObjShare ctx qid s
  | .objCreate ctx qid => Sys2Proof.Machine.execObjCreate ctx qid s
  | .objRef ctx qid => Sys2Proof.Machine.execObjRef ctx qid s
  | .objUnref ctx qid => Sys2Proof.Machine.execObjUnref ctx qid s
  | .objQuery ctx qid => Sys2Proof.Machine.execObjQuery ctx qid s
  | .queueCreate ctx qid => Sys2Proof.Machine.execQueueCreate ctx qid s
  | .abortQueues ctx qid => Sys2Proof.Machine.execAbortQueues ctx qid s
  | .fenceAbandon ctx qid => Sys2Proof.Machine.execFenceAbandon ctx qid s
  | .memMap ctx qid => Sys2Proof.Machine.execMemMap ctx qid s
  | .memUnmap ctx qid => Sys2Proof.Machine.execMemUnmap ctx qid s
  | .memRelease ctx qid => Sys2Proof.Machine.execMemRelease ctx qid s
  | .memReserve ctx qid => Sys2Proof.Machine.execMemReserve ctx qid s
  | .memRedirClear ctx qid => Sys2Proof.Machine.execMemRedirClear ctx qid s
  | .dmaCopy ctx qid host ev => Sys2Proof.Machine.execDmaCopy ctx qid host ev s
  | .dmaFill ctx qid ev => Sys2Proof.Machine.execDmaFill ctx qid ev s
  | .plateLoad ctx qid ev => Sys2Proof.Machine.execPlateLoad ctx qid ev s
  | .run ctx qid ev => Sys2Proof.Machine.execRun ctx qid ev s
  | .stepConfig ctx qid ev => Sys2Proof.Machine.execStepConfig ctx qid ev s
  | .groupJoin ctx qid progs ev => Sys2Proof.Machine.execGroupJoin ctx qid progs ev s
  | .groupLeave ctx qid => Sys2Proof.Machine.execGroupLeave ctx qid s
  | .fenceWaitRelease ctx qid => Sys2Proof.Machine.execFenceWaitRelease ctx qid s
  | .commandComplete ctx qid => Sys2Proof.Machine.execCommandComplete ctx qid s
  | .objRelease obj => Sys2Proof.Machine.execObjRelease obj s
  | .evOverflow ctx evq => Sys2Proof.Machine.execEvOverflow ctx evq s
  | .partBind ctx qid => Sys2Proof.Machine.execPartBind ctx qid s
  | .partUnbind ctx qid => Sys2Proof.Machine.execPartUnbind ctx qid s
  | .partBurnGo w u t0 log2n => Sys2Proof.Machine.execPartBurnGo w u t0 log2n s
  | .tileClearDone t0 => Sys2Proof.Machine.execTileClearDone t0 s
  | .contextBurnish ctx => Sys2Proof.Machine.execContextBurnish ctx s
  | .burnStuck part n => Sys2Proof.Machine.execBurnStuck part n s
  | .shardLoad ctx qid host ev => Sys2Proof.Machine.execShardLoad ctx qid host ev s
  | .shardCheck ctx qid ev => Sys2Proof.Machine.execShardCheck ctx qid ev s
  | .shardRelease ctx qid => Sys2Proof.Machine.execShardRelease ctx qid s
  | .shardPeriodicCheck ctx id ev => Sys2Proof.Machine.execShardPeriodicCheck ctx id ev s
  | .ckptExport ctx qid ev => Sys2Proof.Machine.execCkptExport ctx qid ev s
  | .ckptImport ctx qid host ev => Sys2Proof.Machine.execCkptImport ctx qid host ev s
  | .partQuery ctx qid => Sys2Proof.Machine.execPartQuery ctx qid s
  | .keyGenerate ctx qid => Sys2Proof.Machine.execKeyGenerate ctx qid s
  | .keyDerive ctx qid ev => Sys2Proof.Machine.execKeyDerive ctx qid ev s
  | .keyImport ctx qid ev => Sys2Proof.Machine.execKeyImport ctx qid ev s
  | .keyDestroy ctx qid => Sys2Proof.Machine.execKeyDestroy ctx qid s
  | .keyQuery ctx qid ev => Sys2Proof.Machine.execKeyQuery ctx qid ev s
  | .keyAttest ctx qid ev => Sys2Proof.Machine.execKeyAttest ctx qid ev s
  | .measReport ctx qid ev => Sys2Proof.Machine.execMeasReport ctx qid ev s
  | .attMsg ctx qid sid ev => Sys2Proof.Machine.execAttMsg ctx qid sid ev s
  | .getInfo port req => Sys2Proof.Machine.execGetInfo port req s
  | .mbOpen port sid req => Sys2Proof.Machine.execMbOpen port sid req s
  | .mbFinish port req => Sys2Proof.Machine.execMbFinish port req s
  | .mbReport port req => Sys2Proof.Machine.execMbReport port req s
  | .mbClose port req => Sys2Proof.Machine.execMbClose port req s
  | .getVersion port => Sys2Proof.Machine.execGetVersion port s
  | .getCapabilities port => Sys2Proof.Machine.execGetCapabilities port s
  | .negotiateAlgorithms port common => Sys2Proof.Machine.execNegotiateAlgorithms port common s
  | .getDigests port => Sys2Proof.Machine.execGetDigests port s
  | .getCertificate port off len => Sys2Proof.Machine.execGetCertificate port off len s
  | .challenge port nonce => Sys2Proof.Machine.execChallenge port nonce s
  | .getMeasurements port vf index sign => Sys2Proof.Machine.execGetMeasurements port vf index sign s
  | .keyExchange port sid pub => Sys2Proof.Machine.execKeyExchange port sid pub s
  | .spdmFinish port sid verifies => Sys2Proof.Machine.execSpdmFinish port sid verifies s
  | .heartbeat port sid => Sys2Proof.Machine.execHeartbeat port sid s
  | .keyUpdate port sid => Sys2Proof.Machine.execKeyUpdate port sid s
  | .endSession port sid => Sys2Proof.Machine.execEndSession port sid s
  | .vendorDefinedRequest port sid body => Sys2Proof.Machine.execVendorDefinedRequest port sid body s
  | .rngFail => Sys2Proof.Machine.execRngFail s
  | .lcTransition tap target cont bits => Sys2Proof.Machine.execLcTransition tap target cont bits s
  | .lcUnlock tap => Sys2Proof.Machine.execLcUnlock tap s
  | .lcComplete tap cont bits => Sys2Proof.Machine.execLcComplete tap cont bits s
  | .fwStageBegin ctx qid => Sys2Proof.Machine.execFwStageBegin ctx qid s
  | .fwStageData ctx qid host ev => Sys2Proof.Machine.execFwStageData ctx qid host ev s
  | .fwVerify ctx qid => Sys2Proof.Machine.execFwVerify ctx qid s
  | .fwArm ctx qid => Sys2Proof.Machine.execFwArm ctx qid s
  | .fwCancel ctx qid => Sys2Proof.Machine.execFwCancel ctx qid s
  | .fwQuery ctx qid => Sys2Proof.Machine.execFwQuery ctx qid s
  | .fwArbRaise ctx qid => Sys2Proof.Machine.execFwArbRaise ctx qid s
  | .fwSettings ctx qid host ev => Sys2Proof.Machine.execFwSettings ctx qid host ev s
  | .actHoldoff => Sys2Proof.Machine.execActHoldoff s
  | .actRetry u => Sys2Proof.Machine.execActRetry u s
  | .bootWatchdog steps => Sys2Proof.Machine.execBootWatchdog steps s
  | .mgmtWatchdog back fresh => Sys2Proof.Machine.execMgmtWatchdog back fresh s
  | .rcvGo w v steps => Sys2Proof.Machine.execRcvGo w v steps s
  | .inputPowerOn split steps => Sys2Proof.Machine.execInputPowerOn split steps s
  | .pwrWarnAssert board => Sys2Proof.Machine.execPwrWarnAssert board s
  | .pwrWarnDeassert => Sys2Proof.Machine.execPwrWarnDeassert s
  | .uvlo => Sys2Proof.Machine.execUvlo s
  | .limiterStep v a p raise => Sys2Proof.Machine.execLimiterStep v a p raise s
  | .powerEstimate est dies => Sys2Proof.Machine.execPowerEstimate est dies s
  | .thermalReading r => Sys2Proof.Machine.execThermalReading r s
  | .emergDuration src => Sys2Proof.Machine.execEmergDuration src s
  | .pwrCapWrite w v => Sys2Proof.Machine.execPwrCapWrite w v s
  | .pwrOppWrite w k v => Sys2Proof.Machine.execPwrOppWrite w k v s
  | .agePredWrite w v => Sys2Proof.Machine.execAgePredWrite w v s
  | .tripCauseClear w v => Sys2Proof.Machine.execTripCauseClear w v s
  | .apportion shares total => Sys2Proof.Machine.execApportion shares total s
  | .meterPeriodic m => Sys2Proof.Machine.execMeterPeriodic m s
  | .getReading m prev body => Sys2Proof.Machine.execGetReading m prev body s
  | .getLog prev body => Sys2Proof.Machine.execGetLog prev body s
  | .getWrap prev => Sys2Proof.Machine.execGetWrap prev s
  | .getCert prev body => Sys2Proof.Machine.execGetCert prev body s
  | .meterSeal m prev token => Sys2Proof.Machine.execMeterSeal m prev token s
  | .meterUnseal m prev token => Sys2Proof.Machine.execMeterUnseal m prev token s
  | .calibrate m prev body last genuine => Sys2Proof.Machine.execCalibrate m prev body last genuine s
  | .tamper m => Sys2Proof.Machine.execTamper m s
  | .mirrorUpdate => Sys2Proof.Machine.execMirrorUpdate s
  | .meterLinkFail => Sys2Proof.Machine.execMeterLinkFail s
  | .modRstLow => Sys2Proof.Machine.execModRstLow s
  | .modRstRise split steps waited => Sys2Proof.Machine.execModRstRise split steps waited s
  | .perstAssert port => Sys2Proof.Machine.execPerstAssert port s
  | .perstDeassert port steps => Sys2Proof.Machine.execPerstDeassert port steps s
  | .flashOwn level steps => Sys2Proof.Machine.execFlashOwn level steps s
  | .i3cRead off len => Sys2Proof.Machine.execI3cRead off len s
  | .extest cells => Sys2Proof.Machine.execExtest cells s
  | .idcode => Sys2Proof.Machine.execIdcode s
  | .samplePreload cells => Sys2Proof.Machine.execSamplePreload cells s
  | .lcAccess a => Sys2Proof.Machine.execLcAccess a s
  | .jtagDebug ir => Sys2Proof.Machine.execJtagDebug ir s
  | .bypass => Sys2Proof.Machine.execBypass s
  | .hostLinkUp port speed width flit256 => Sys2Proof.Machine.execHostLinkUp port speed width flit256 s
  | .startInterfaceRequest port vf nonce => Sys2Proof.Machine.execStartInterfaceRequest port vf nonce s
  | .frozenConfigurationWrite port vf => Sys2Proof.Machine.execFrozenConfigurationWrite port vf s
  | .onlineRetraining m ch fix => Sys2Proof.Machine.execOnlineRetraining m ch fix s
  | .mkaLivePeerLoss p => Sys2Proof.Machine.execMkaLivePeerLoss p s
  | .filteredFrame p => Sys2Proof.Machine.execFilteredFrame p s
  | .entropySourcePass => Sys2Proof.Machine.execEntropySourcePass s
  | .meterPowerDown m => Sys2Proof.Machine.execMeterPowerDown m s
  | .meterPowerUp m => Sys2Proof.Machine.execMeterPowerUp m s
  | .correctableLinkError port => Sys2Proof.Machine.execCorrectableLinkError port s
  | .dieVoltageReached d => Sys2Proof.Machine.execDieVoltageReached d s

end Sys2Proof.Machine
end

