-- ==== Sys2Proof/Safety.lean ====
section
/-! DEFINITION. The terms in which claims are made: that a command is answered with a next state, what a command leaves unchanged,
and the conditions under which the spec gives each family its effect. -/
namespace Sys2Proof.Machine
open Sys2Proof

/-- The command is answered with a next state, and that state has the property. -/
def Answers (c : Instr) (s : State) (P : State → Prop) : Prop := ∃ t, exec c s = .next t ∧ P t

/-- The command is answered and changes nothing. -/
def Ignores (c : Instr) (s : State) : Prop := exec c s = .next s

/-! ### Units and requests -/

/-- Every unit on another page reads as before. -/
def unitsKept (s t : State) (u : UnitId) : Prop := ∀ v, pageOf v ≠ pageOf u → unitAt t v = unitAt s v

/-- Only units and the messages sent to the host differ. -/
def onlyUnits (s t : State) : Prop := t = { s with un := t.un, rg := t.rg }

/-- The command written to UNIT_CTL (Table 1-11). -/
def ctlCommand (c : UCmd) (u : UnitId) (w : Writer) (inc : Half) : Instr :=
  match c with
  | .quiesce => .quiesce u w inc
  | .resume => .resume u w inc
  | .reset => .reset u w inc
  | .sleep => .sleep u w inc
  | .retire => .retire u w inc

/-- The writer's access reaches the page of a unit that is fitted (R20 case 1, R26). -/
def ctlReaches (s : State) (u : UnitId) (w : Writer) : Bool := present s.hw u && mayWrite w && bar0Unit s w u

/-- R20: cases 1 to 5 do not apply, so the command is accepted. -/
def ctlAccepted (s : State) (u : UnitId) (w : Writer) (inc : Half) (c : UCmd) : Bool :=
  ctlReaches s u w && !(unitAt s u).cmdBusy && bitOf (unitCmds u) (cmdBit c) && decide (inc = (unitAt s u).inc)

/-- R38, R43: the unit is no tile of a partition whose plate runs on, and has no stroke open. -/
def notInRun (s : State) (u : UnitId) : Bool :=
  match u with
  | .tile t => match partOf s t with
    | some p => p.run.all (fun r => r.stop.isSome) && (tileAt s t).plate.inStroke.isNone
    | none => true
  | _ => true

/-- No action of a command waits on any unit for that unit's own command to end (R35). -/
def calmUnits (s : State) : Bool := s.un.tab.all (fun e => e.2.waiting.isEmpty)

/-- A tile whose partition a QUIESCE of another unit holds (R38). -/
def heldElse (s : State) (u : UnitId) : Bool :=
  match u with
  | .tile t => match partOf s t with
    | some p => p.holds.any (fun h => h ≠ pageOf u)
    | none => false
  | _ => false

/-- Every unit that a command on u acts on below u. -/
def below (s : State) (u : UnitId) : List UnitId := descendants s.hw u

/-- No unit below u is busy with a command. -/
def idleBelow (s : State) (u : UnitId) : Bool := (below s u).all (fun d => !(unitAt s d).cmdBusy)

/-- The unit is busy with an action of a command that is not u's. -/
def ownBusy (s : State) (u d : UnitId) : Bool := (unitAt s d).cmdBusy && (unitAt s d).root ≠ pageOf u

/-- A unit on its way into reset: RESETTING with its incarnation one ahead (R34, R39). -/
def enteredReset (s t : State) (u : UnitId) : Prop :=
  (unitAt t u).state = .resetting ∧ (unitAt t u).inc = (unitAt s u).inc + 1

/-- The command in progress on u is over: CMD_BUSY clear and CMD_STATUS as given. -/
def cmdOver (t : State) (u : UnitId) (status : Nat) : Prop :=
  (unitAt t u).cmdBusy = false ∧ (unitAt t u).cmdStatus = status

/-- The start states that Table 2-2 does not list for a command. -/
def startIllegal (st : UState) (c : UCmd) : Bool :=
  match c with
  | .quiesce => st ≠ .run
  | .resume => st ≠ .quiesced && st ≠ .sleep
  | .sleep => st ≠ .quiesced
  | .reset => st = .quiescing || st = .resetting || st = .retired
  | .retire => st = .quiescing || st = .resetting || st = .retired

/-- A request sent and not yet accepted that reaches a fitted target over a route that exists, the target's state not on the move to a spare
(R16, R44, R56). -/
def reqReaches (s : State) (r : Req) : Bool :=
  present s.hw r.src && present s.hw r.tgt && !(reqAccepted s r) && requestSent s r && joined s r.src r.tgt
    && (movingTile s r.tgt).isNone

/-- The request has arrived and is about to be performed. -/
def taken (s : State) (r : Req) : State :=
  let a := outIssued s r true
  { a with un := { a.un with accepted := a.un.accepted.filter (fun b => !(b.src = r.src && b.tag = r.tag && b.reqInc = r.reqInc)) } }

/-- R41: the status of the first rule that refuses a request outside the transactions its target has joined; none accepts it. -/
def reqRefusal (s : State) (r : Req) : Option Nat :=
  let x := unitAt s r.tgt
  if x.state = .off || x.state = .retired then some stDenied
  else if BitVec.ofNat 16 r.tgtInc ≠ x.inc then some stStale
  else if x.state = .resetting then some stReset
  else if x.state = .quiescing || x.state = .quiesced || x.state = .sleep then some stBusy
  else none

/-- Only the requests outstanding and accepted, the replies on their way and the root's counters differ. -/
def onlyRequests (s t : State) : Prop :=
  t = { s with un := { s.un with outst := t.un.outst, replies := t.un.replies, staleReq := t.un.staleReq, accepted := t.un.accepted } }

/-- The reply that a target gives (Table 2-5). -/
def replyOf (s : State) (r : Req) (status : Nat) (data : List Byte) : Reply :=
  { src := pageOf r.src, tag := r.tag, tgt := pageOf r.tgt, reqInc := BitVec.ofNat 16 r.reqInc,
    rspInc := (unitAt s r.tgt).inc, status := status, data := data }

/-- The outstanding requests of a requester but for one tag. -/
def otherTags (s : State) (u : UnitId) (tag : Nat) : List Outst :=
  s.un.outst.filter (fun o => !(o.src = pageOf u && o.tag = tag))

/-! ### Transactions, activation and substitution -/

/-- How far a member of a transaction has come; none where the transaction or the member is not known. -/
def memberOf (s : State) (tid : Nat) (u : UnitId) : Option MemberSt :=
  (mapFind s.un.txns tid).bind (fun x => memberSt x (pageOf u))

/-- Only transactions differ, and of these only one. -/
def onlyTxn (s t : State) (tid : Nat) : Prop :=
  t = { s with un := { s.un with txns := t.un.txns } } ∧ ∀ k, k ≠ tid → mapFind t.un.txns k = mapFind s.un.txns k

/-- The transaction has aborted with the cause given, counted and recorded in the package root (R52, Table 2-12). -/
def txnAborted (s t : State) (tid cause : Nat) : Prop :=
  (∃ x, mapFind t.un.txns tid = some x ∧ x.phase = .aborted ∧ x.cause = cause) ∧
    t.un.abortCnt = satInc s.un.abortCnt ∧ t.un.lastAbort.toNat % 16 = cause

/-- Partition records stand in rising order and do not overlap. -/
def partsApart (m : Map Part) : Bool :=
  match m with
  | [] => true
  | e :: r => r.all (fun f => e.2.t0 + 2 ^ e.2.log2n ≤ f.2.t0) && partsApart r

/-- Every partition record stands under its own T0, and no two partitions overlap (an invariant of every step). -/
def partsWf (s : State) : Bool := partsApart s.tl.parts && s.tl.parts.all (fun e => e.1 = e.2.t0 && e.2.t0 + 2 ^ e.2.log2n ≤ 512)

/-- Every member but the unit's own has had its PREPARED counted. -/
def othersCounted (x : Txn) (u : UnitId) : Bool := x.members.all (fun m => m.page = pageOf u || m.st = .counted)

/-- A member in RUN, or QUIESCING where it has joined, at the incarnation that the message names (R41, R45). -/
def takesMessage (s : State) (u : UnitId) (inc : Half) (joined : Bool) : Bool :=
  decide (inc = (unitAt s u).inc) && ((unitAt s u).state = .run || (joined && (unitAt s u).state = .quiescing))

/-- Nothing but the group's decision ends a step whose PREPARED is cast (R191, R196); every other transaction can be decided here. -/
def abortable (s : State) (x : Txn) : Bool := x.kind ≠ 1 || !((partOf s x.key).any stepInDoubt)

/-- The member's acknowledgement has been taken: the last one closes the transaction (R51). -/
def ackedOrClosed (t : State) (tid : Nat) (x : Txn) (u : UnitId) : Prop :=
  if x.members.all (fun m => m.page = pageOf u || m.st = .acked) then mapFind t.un.txns tid = none
  else memberOf t tid u = some .acked

/-- A TID is free (R50, R54). -/
def tidFree (s : State) : Option Nat := tidFrom s.un.txns 1024 s.un.nextTid

/-- The live transaction of a cluster's substitution. -/
def substLive (s : State) (c tid : Nat) : Bool :=
  decide ((substAt s c).tid = some tid) &&
    (match mapFind s.un.txns tid with
      | some x => decide (x.kind = 2) && decide (x.key = c) && txnLive x
      | none => false)

/-! ### Strokes of a tile -/

/-- The tiles on other physical slots read as before, and of all other state only units, messages and partition records differ. -/
def othersKept (s t : State) (n : Nat) : Prop :=
  (∀ m, tileKey s m ≠ tileKey s n → tileAt t m = tileAt s m) ∧
    t = { s with un := t.un, rg := t.rg, free := t.free, tl := { s.tl with tab := t.tl.tab, parts := t.tl.parts } }

/-- The tile can issue an operation in one of these slots: a stroke is being issued whose plate-cache words are sound, and one of the slots
is not yet used in it (R86, R134, R137). -/
def slotReady (s : State) (n : Nat) (slots : List Nat) : Bool :=
  issuing s n && (slotFree (tileAt s n) slots).isSome && !(strokeLost (tileAt s n))

/-- The tile with its stroke open: later slots read the registers as they stand now (R135), and the first free one of these slots is used. -/
def opened (slots : List Nat) (x : Tile) : Tile :=
  { x with plate := { x.plate with
      inStroke := some (strokeRegs x),
      used := (slotFree x slots).getD 0 :: (if x.plate.inStroke.isSome then x.plate.used else []) } }

/-- The slot's stroke is open, the tile is changed as f says, and besides only its check registers may have counted what the slot
read (R84 to R86); everything else is kept. -/
def slotLeaves (s t : State) (n : Nat) (slots : List Nat) (f : Tile → Tile) : Prop :=
  tileAt t n = { f (opened slots (tileAt s n)) with num := (tileAt t n).num } ∧ othersKept s t n

/-- S, X and descriptor registers of a tile replaced. -/
def withS (i : Nat) (v : W64) (x : Tile) : Tile := { x with regs := { x.regs with s := mapSet x.regs.s i v } }
def withX (i k : Nat) (v : W32) (x : Tile) : Tile := { x with regs := { x.regs with x := mapSet x.regs.x (i * 8 + k) v } }
def withTd (i : Nat) (v : BitVec 1024) (x : Tile) : Tile := { x with regs := { x.regs with td := mapSet x.regs.td i v } }

/-- The command, a slot of a stroke being issued with further slots to come, writes v to S[dst]: S8 to S63 hold it afterwards, S0 to
S7 discard it (Table 6-2). No operation issued earlier writes the register in the same cycle. -/
def writesS (c : Instr) (n dst : Nat) (s : State) (v : W64) : Prop :=
  slotReady s n [slSop] = true → sDue (tileAt s n) dst 1 = false →
    Answers c s fun t =>
      (8 ≤ dst → dst < 64 → sreg (tileAt t n).regs dst = v ∧ slotLeaves s t n [slSop] (withS dst v)) ∧
      (dst < 8 ∨ 64 ≤ dst → slotLeaves s t n [slSop] id)

/-- The command writes lane k of X[dst] and nothing else. -/
def writesLane (c : Instr) (n dst k : Nat) (s : State) (v : W32) : Prop :=
  slotReady s n [slSop] = true → k ≤ 5 → (tileAt s n).num.ue.contains (.xreg (3 * (dst % 16) + k / 2)) = false →
    Answers c s fun t => xlane (tileAt t n).regs (dst % 16) k = v ∧ slotLeaves s t n [slSop] (withX (dst % 16) k v)

/-- The old value of an index lane as an operation of the stroke reads it. -/
def xVal (s : State) (n i k : Nat) : W32 := xEff (tileAt s n) (strokeRegs (tileAt s n)) i k

/-- The command's effect comes later: it stands among the operations issued, due in so many cycles (Table 6-12). -/
def issuesDue (c : Instr) (n : Nat) (slots : List Nat) (left : Nat) (op : DueOp) (s : State) : Prop :=
  slotReady s n slots = true → Answers c s fun t =>
    (tileAt t n).plate.due = (tileAt s n).plate.due ++ [{ left := left, op := op }] ∧ slotLeaves s t n slots (fun x => duePush x left op)

/-- The partition of the tile has stopped with PLATE_FAULT (R159, R160). -/
def plateStopped (t : State) (n : Nat) : Prop :=
  ∃ p r, partOf t n = some p ∧ p.run = some r ∧ r.stop = some stPlate

/-- A tile of a running partition that no stop has reached. -/
def runsOn (s : State) (n : Nat) : Bool :=
  partsWf s && (match partOf s n with
    | some p => p.run.any (fun r => r.stop.isNone)
    | none => false)

/-- The words of the stroke being issued are uncorrectable: the slot reads zero and does nothing (R86). -/
def lostSlot (c : Instr) (n : Nat) (slots : List Nat) (s : State) : Prop :=
  issuing s n = true → (slotFree (tileAt s n) slots).isSome = true → strokeLost (tileAt s n) = true →
    Answers c s fun t => slotLeaves s t n slots id

/-- The slot that ends its stroke does what the slot with more to come does, and then the stroke ends. -/
def endsStroke (f : Bool → Instr) (n : Nat) (slots : List Nat) : Prop :=
  ∀ s, issuing s n = true → (slotFree (tileAt s n) slots).isSome = true → ∃ t, exec (f true) s = .next t ∧ exec (f false) s = .next (endStroke t n .none')

/-- The tile's stroke can end in the loop engine's hands: it issues, no HALT has been released and no continuation chosen. -/
def flowReady (s : State) (n : Nat) : Bool :=
  slotReady s n [slFlow] && !(tileAt s n).plate.ending && (tileAt s n).plate.jump.isNone

/-- After a stroke: its count, the next address, the stacks, and whether the tile issues on or freezes (R140, R156). -/
def wentTo (s t : State) (n pc : Nat) (loops : List Loop) (calls : List Nat) : Prop :=
  (tileAt t n).plate.pc = pc ∧ (tileAt t n).plate.loops = loops ∧ (tileAt t n).plate.calls = calls ∧
    (tileAt t n).plate.inStroke = none ∧ (tileAt t n).plate.issueCnt = satInc (tileAt s n).plate.issueCnt ∧
    (tileAt t n).plate.pstate = (if mapGet 0 (tileAt s n).plate.cache (pc % 1024) = pc + 1 then .issuing else .frozen)

/-- The next address after the loops that end at pc at call depth d have gone round or been left (R140). -/
def closedTo (p : Plate) (d next : Nat) : List Loop × Nat := closeLoops p.pc d p.loops next

/-- PHYS of the sixteen tiles and the spare of a cluster (R12). -/
def physList (s : State) (c : Nat) : List Nat :=
  (List.range 16).map (fun i => physAt s (.tile (16 * c + i))) ++ [physAt s (.spare c)]

/-- No two of a list are equal. -/
def apart (l : List Nat) : Bool :=
  match l with
  | [] => true
  | a :: r => !(r.contains a) && apart r

/-- In every cluster the sixteen tiles and the spare address seventeen different slots (an invariant of every step; R12, R21). -/
def physApart (s : State) : Bool := (List.range 32).all (fun c => apart (physList s c) && (physList s c).all (fun k => k ≤ 16))

/-- A barrier-kind stroke has issued on a member: BSEQ counts it; with slots to come the stroke is open, otherwise the tile goes on
at `pc` (R151). -/
def barIssued (s t : State) (u pc : Nat) (more : Bool) : Prop :=
  let a := (tileAt s u).plate
  let b := (tileAt t u).plate
  b.bseq = a.bseq + 1 ∧ b.arrived = none ∧
    (if more then b.pstate = .issuing ∧ b.inStroke = some (tileAt s u).regs ∧ b.used = [slSy] ∧ b.pc = a.pc
      else b.pc = pc ∧ b.inStroke = none ∧ b.issueCnt = satInc a.issueCnt ∧
        b.pstate = (if mapGet 0 a.cache (pc % 1024) = pc + 1 then .issuing else .frozen))

/-- A member that stands at its barrier. -/
def barMember (s : State) (p : Part) (u : Nat) : Bool :=
  (partTiles p).contains u && memberRuns (tileAt s u) && (tileAt s u).plate.inStroke.isNone

/-- The member comes to its barrier-kind stroke and everything it has issued takes its effect (R151). -/
def arrives (s : State) (n : Nat) (sy : W32) : Bool := mayArrive s n sy && tileIdle (tileAt (tileSettle s n) n)

/-- No member's next stroke address lies at or beyond the end of the plate (R140). -/
def barGoesOn (s : State) (p : Part) : Bool := (partTiles p).all (fun u => barNext (tileAt s u).plate < nstrokesOf s u)

/-- A TDLOAD of the descriptor register takes effect in the next cycle. -/
def tdDue (x : Tile) (td : Nat) : Bool :=
  x.plate.due.any (fun e => e.left = 1 && (match e.op with
    | .td i _ => i = td
    | _ => false))

/-- The vector operations with their operation codes (Table 7-1). -/
def vectorOps : List ((Nat → VxOp → Bool → Instr) × Nat) :=
  [(Instr.vcopy, 0x01), (Instr.fills, 0x02), (Instr.iadd, 0x03), (Instr.iand, 0x04), (Instr.ior, 0x05),
   (Instr.ixor, 0x06), (Instr.cmplt, 0x07), (Instr.cmpeq, 0x08), (Instr.select, 0x09), (Instr.vadd, 0x20),
   (Instr.vsub, 0x21), (Instr.vmul, 0x22), (Instr.fma, 0x23), (Instr.axpby, 0x24), (Instr.axpby2, 0x25),
   (Instr.vmin, 0x26), (Instr.vmax, 0x27), (Instr.scale, 0x28), (Instr.add64, 0x29), (Instr.cvt, 0x40),
   (Instr.updw, 0x41), (Instr.div, 0x60), (Instr.sqrt, 0x61), (Instr.rsqrt, 0x62), (Instr.vexp, 0x80),
   (Instr.vlog, 0x81), (Instr.tanh, 0x82), (Instr.sigmoid, 0x83), (Instr.silu, 0x84), (Instr.gelu, 0x85),
   (Instr.rsum, 0xA0), (Instr.rsumsq, 0xA1), (Instr.rmax, 0xA2), (Instr.rmin, 0xA3), (Instr.rmaxabs, 0xA4),
   (Instr.rndu, 0xC0), (Instr.dropout, 0xC1), (Instr.rndb, 0xC2)]

/-! ### Array, vector and stream commands, and the batcher -/

/-- What an array command latches in its stroke (R110). -/
def latchedBy (s : State) (n : Nat) (op : PathOp) : Latched :=
  match op with
  | .wload f => latch s n [f.td] [f.x] 0
  | .stream f => latch s n [f.td] [f.x] 0
  | .drain f => latch s n ((drainNamed f).map Prod.fst) ([f.x] ++ (if f.add = 0 then [] else [f.xR])) (f.scaleSrc % 64)
  | .move f => latch s n [f.tdS, f.tdD] [f.xS, f.xD, f.xW] 0
  | .prefetch f => latch s n [f.tdS] [f.xS, f.xW] 0
  | .vector o f => latch s n ((vxNamed o f).map Prod.fst) (vxXs o f) f.sreg

/-- The command with what it latches. -/
def cmdOf (s : State) (n : Nat) (op : PathOp) : PathCmd := { op := op, lat := latchedBy s n op }

/-- The descriptors that a command names, with those it writes through. -/
def namedBy (op : PathOp) : List (Nat × Bool) :=
  match op with
  | .wload f => [(f.td, false)]
  | .stream f => [(f.td, false)]
  | .drain f => drainNamed f
  | .move f => [(f.tdS, false), (f.tdD, true)]
  | .prefetch f => [(f.tdS, false)]
  | .vector o f => vxNamed o f

/-- The path that takes a command. -/
def pathBy (op : PathOp) : PathId :=
  match op with
  | .wload _ => .weight
  | .stream _ => .stream
  | .drain _ => .drain
  | .move f => .unit f.unit
  | .prefetch f => .unit f.unit
  | .vector _ f => pipeOf f

/-- R131, R115: every descriptor of a local command passes its checks and no written one aliases. -/
def localClean (s : State) (n : Nat) (op : PathOp) : Bool :=
  (firstBad (latchedBy s n op) (namedBy op) (descLocalOk (latchedBy s n op))).isNone &&
    (firstAlias (latchedBy s n op) (namedBy op)).isNone

/-- The slots that may carry a command (Table 6-1). -/
def vxSlot (f : VxOp) : Nat := if f.pipe = 0 then slVx0 else slVx1

def slotsBy (op : PathOp) : List Nat :=
  match op with
  | .wload _ => [slLdb]
  | .stream _ => [slMx]
  | .drain _ => [slMx]
  | .vector _ f => [vxSlot f]
  | _ => [slLda, slLdb, slXf]

/-- The engine's own rules on a command hold as it issues (R87, R92, R98, R105, R177). -/
def ownClean (s : State) (n : Nat) (op : PathOp) : Bool :=
  match op with
  | .wload f => wloadOk (latDesc (latchedBy s n op) f.td) f.split
  | .stream f => streamFormOk (latDesc (latchedBy s n op) f.td) f
  | .drain f => drainOk (latchedBy s n op) f
  | .vector o f => (vxOwn (tileAt s n) (latchedBy s n op) o f).isNone
  | _ => true

/-- At its effective issue a STREAM agrees with the tag and split of its bank, and a vector append has room (R105, R178). -/
def mayBegin (s : State) (n : Nat) (op : PathOp) : Bool :=
  match op with
  | .stream f => streamOk (tileAt s n) (latDesc (latchedBy s n op) f.td) f
  | .vector o f => vxAppendRoom (tileAt s n) (latchedBy s n op) o f
  | _ => true

/-- The command enters its path's pipeline: what it latches of its bank as its effective issue comes (R92), and no cycle of it has passed. -/
def freshFlight (s : State) (n : Nat) (op : PathOp) : Flight :=
  let held := match op with
    | .stream f => (bankTag (tileAt s n) f.bank, bankSplit (tileAt s n) f.bank)
    | _ => (0, 0)
  { path := pathBy op, cmd := cmdOf s n op, seed := seedOf s n, tag := held.1, split := held.2 }

/-- The command runs on its path: it is in flight from this cycle on, and of the tile only its check registers and a monitor slot that an UPDW opens
differ besides. -/
def beginsOn (s t : State) (n : Nat) (op : PathOp) : Prop :=
  (pathOf (tileAt t n) (pathBy op)).run = some (cmdOf s n op) ∧
    (tileAt t n).flight = (tileAt s n).flight ++ [freshFlight s n op] ∧
    slotLeaves s t n (slotsBy op) (fun x =>
      let y := pathPut x (pathBy op) { pathOf x (pathBy op) with run := some (cmdOf s n op) }
      { y with flight := y.flight ++ [freshFlight s n op], mon := (tileAt t n).mon }) ∧
    ((∀ f, op ≠ .vector 0x41 f) → (tileAt t n).mon = (tileAt s n).mon)

/-- The command waits in its path's pending register, and else only the check registers differ. -/
def waitsOn (s t : State) (n : Nat) (op : PathOp) : Prop :=
  slotLeaves s t n (slotsBy op) (fun x => pathPut x (pathBy op) { pathOf x (pathBy op) with pend := some (cmdOf s n op) })

/-- The command is dropped: nothing of the tile but its check registers differs, and a record is latched or counted. -/
def droppedBy (s t : State) (n : Nat) (slots : List Nat) : Prop :=
  slotLeaves s t n slots id ∧ ((unitAt t (.tile n)).evt.getLsbD 3 = true ∨ (unitAt t (.tile n)).evt.getLsbD 4 = true)

/-- The three ways in which an accepted or refused local command leaves the tile. -/
def issuesLocal (c : Instr) (n : Nat) (op : PathOp) (s : State) : Prop :=
  slotReady s n (slotsBy op) = true →
    (localClean s n op = true → ownClean s n op = true → mayBegin s n op = true →
      (pathOf (tileAt s n) (pathBy op)).run = none → Answers c s fun t => beginsOn s t n op) ∧
    (localClean s n op = true → ownClean s n op = true → (pathOf (tileAt s n) (pathBy op)).run.isSome = true →
      (pathOf (tileAt s n) (pathBy op)).pend = none → Answers c s fun t => waitsOn s t n op) ∧
    ((localClean s n op = false ∨ ownClean s n op = false ∨ pathFull (pathOf (tileAt s n) (pathBy op)) = true ∨
      ((pathOf (tileAt s n) (pathBy op)).run = none ∧ mayBegin s n op = false)) →
      Answers c s fun t => droppedBy s t n (slotsBy op))

/-- The command whose flight this is writes accumulator entries; one of these writes the weight registers, and of these scratchpad. -/
def writesAcc (fl : Flight) : Bool :=
  match fl.cmd.op with
  | .stream _ => true
  | .drain f => f.clr
  | _ => false

def writesCells (fl : Flight) : Bool :=
  match fl.cmd.op with
  | .wload _ => true
  | _ => false

def writesScratch (fl : Flight) : Bool :=
  match fl.cmd.op with
  | .drain _ => true
  | .vector _ _ => true
  | _ => fl.stages.any (fun e => match e.2 with
    | .out _ _ => true
    | _ => false)

/-- No SST falls due in this cycle. -/
def noSst (x : Tile) : Bool := x.plate.due.all (fun e => match e.op with
  | .sst _ _ => false
  | _ => true)

/-- A path's running command is in flight and its last busy cycle lies ahead. -/
def pathBusy (x : Tile) (p : PathId) : Bool :=
  (pathOf x p).run.isSome && x.flight.any (fun fl => fl.path = p && fl.age ≤ flightLen fl && flightLen fl ≤ flightLast fl)

/-- A stream command's checks pass (R115, R116, R131, R132). -/
def streamClean (s : State) (n : Nat) (op : PathOp) : Bool :=
  match op with
  | .move f => (moveRefusal (latchedBy s n op) (namedBy op) (moveAlias (latchedBy s n op) f) (moveOwn (latchedBy s n op) f)).isNone
  | .prefetch f =>
    (moveRefusal (latchedBy s n op) (namedBy op) none
      (if (latDesc (latchedBy s n op) f.tdS).space = 1 then none else some f.tdS)).isNone
  | _ => false

/-- Only one queue's rows, the batch held and the scratchpad of the tile differ. -/
def onlyBatcher (s t : State) (n : Nat) : Prop :=
  tileAt t n = { tileAt s n with bat := (tileAt t n).bat, arr := { (tileAt s n).arr with relCnt := (tileAt t n).arr.relCnt } } ∧
    (∀ m, tileKey s m ≠ tileKey s n → tileAt t m = tileAt s m) ∧ t = { s with tl := { s.tl with tab := t.tl.tab } }

/-! ### Collectives and the fabric -/

/-- No payload counter of a group comes near its end, at which the group fails (R247). -/
def keysRoom (s : State) : Bool := s.fb.groups.all (fun e => e.2.pctr.all (fun c => c.2 + 65536 < 2 ^ 64))

/-- Nothing waits for a path or a link, every port may send and is far from its last packet number, and every group has a weight (Table 9-1): what a
command submits leaves at once. -/
def fabCalm (s : State) : Bool :=
  s.fb.waitq.isEmpty && s.fb.linkq.isEmpty && s.fb.groups.all (fun e => 1 ≤ e.2.weight) && keysRoom s
    && s.fb.ports.all (fun e => !e.2.txBlock && e.2.xpn.toNat + 2 ^ 20 < 2 ^ 64)

/-- Only one lane differs. -/
def onlyLane (s t : State) (n : Nat) : Prop :=
  t = { s with fb := { s.fb with lanes := t.fb.lanes } } ∧ ∀ m, m ≠ n → laneAt t m = laneAt s m

/-- Frames have been sent to a node: to the device itself as messages between its members, which wait where no route joins their dies; to a node of the
allow-list whole on one UP path with room, or, with none, into the queue that waits for one; to any other node not at all (R230, R239,
R244, R249, R253). -/
def sentTo (s t : State) (node : Nat) (fs : List UFrame) : Prop :=
  if node = nodeOf s then
    (if fs.all (fun f => (linkEgress s f).isNone) then t.fb.linkq = fs ∧ t.fb.msgs = s.fb.msgs
      else t.fb.linkq = [] ∧ t.fb.msgs = s.fb.msgs ++ fs)
  else if (allowFind s node).isNone then t.fb.msgs = s.fb.msgs ∧ t.fb.waitq = s.fb.waitq
  else if (upPorts s node fs.length).isEmpty then t.fb.waitq = s.fb.waitq ++ fs.map (fun f => (node, f, false))
  else ∃ p ∈ upPorts s node fs.length,
    (pathAt t node p).unacked.map TxFrame.frame = (pathAt s node p).unacked.map TxFrame.frame ++ fs ∧
      (pathAt t node p).txNext = (pathAt s node p).txNext + BitVec.ofNat 32 fs.length

/-- The credit of a RECV or COUNTR (R221). -/
def creditOf (x : LaneCtx) : UFrame :=
  { typ := 2, group := x.g.id, step := x.l.step, lseq := x.l.lseq, sched := x.l.sched, lane := x.t - x.t0,
    srcRank := x.l.rank, dstRank := enPeer (curEntry x), xtag := curXtag x }

/-- The node of the peer of the entry at a lane's position. -/
def peerOf (x : LaneCtx) : Nat := peerNode x.g (enPeer (curEntry x))

/-- The RECV that an entry posts. -/
def postedRecv (x : LaneCtx) (dst len : Nat) : Recv :=
  { peer := enPeer (curEntry x), xtag := curXtag x, dst := dst, doff := curDoffD x, len := len, key := curKey x }

/-- The SEND of the entry at a lane's position, as it starts. -/
def queuedSend (x : LaneCtx) : SendSt :=
  let e := curEntry x
  { peer := enPeer e, xtag := curXtag x, frees := if enFreeA e && enA e < 4 then some (enA e) else none, opnd := enA e,
    doff := if enA e = 5 then curDoffD x else curDoffS x, len := enLen e }

/-- The lane past its entry, with one more SEND under way. -/
def withSend (x : LaneCtx) (k : SendSt) : LaneCtx := { x with l := { x.l with pos := x.l.pos + 1, sends := x.l.sends ++ [k] } }

/-- A SEND that waits and has its peer's credit. -/
def readySend (x : LaneCtx) : Option SendSt := x.l.sends.find? (fun k => !k.sent && x.l.credits.contains (k.peer, k.xtag))

/-- The bytes of a SEND have gone out: its credit is used, it awaits its acknowledgements, and the drupelet is counted. -/
def drupSent (s t : State) (x : LaneCtx) (k : SendSt) (bs : List Byte) : Prop :=
  let fs := segFrames x (x.t - x.t0) k.peer k.xtag bs []
  laneAt t x.t = some { x.l with
      credits := x.l.credits.erase (k.peer, k.xtag),
      sends := x.l.sends.map (fun q => if q = k then { k with sent := true, left := fs.length } else q) } ∧
    sentTo s t (peerNode x.g k.peer) fs ∧
    (mapGet {} t.fb.eng (x.t / 16)).drup = satAdd (mapGet {} s.fb.eng (x.t / 16)).drup 1

/-- Scratchpad bytes of a staging buffer. -/
def stagingBytes (s : State) (x : LaneCtx) (b : Nat) : List Byte :=
  readBytes (tileAt s x.t).scratch (stgAddr x b) (enLen (curEntry x))

/-- The entry works on staging buffers that are ready, on a tile whose words are all good. -/
def stagingReady (s : State) (x : LaneCtx) : Bool :=
  rqOp x.rq ≠ 5 && sourceReady x (enA (curEntry x)) && destReady x (enC (curEntry x)) && !(lanePaused s x.t) && (tileAt s x.t).num.ue.isEmpty
    && enA (curEntry x) < 4 && enC (curEntry x) < 4

/-- The destination buffer of an entry holds the bytes, every other byte of the scratchpad is kept, the lane goes on, the freed
buffers are empty and the destination is full. -/
def stagingDone (s t : State) (x : LaneCtx) (bs : List Byte) : Prop :=
  stagingBytes t x (enC (curEntry x)) = bs ∧
    (∀ a, (a < stgAddr x (enC (curEntry x)) ∨ stgAddr x (enC (curEntry x)) + enLen (curEntry x) ≤ a) →
      byteAt (tileAt t x.t).scratch a = byteAt (tileAt s x.t).scratch a) ∧
    ∃ l, laneAt t x.t = some l ∧ l.pos = x.l.pos + 1 ∧ l.full = (freeFill x x.l).full ∧ l.recvs = x.l.recvs ∧ l.sends = x.l.sends

/-- A frame that its port takes: protected, well formed, for this node and from one of the allow-list (R240, R244, R246). -/
def rxGood (s : State) (h : RxHead) : Bool := (rxPre s h).2

/-- The port has counted the frame and the bits that its FEC corrected. -/
def rxCounted (s : State) (h : RxHead) : State := (rxPre s h).1

/-- The frame is the next in order on its path, of the path's epoch (R248, R249). -/
def rxInOrder (s : State) (h : RxHead) : Bool :=
  rxGood s h && (pathAt s h.node h.port).rxEpoch = some (BitVec.ofNat 16 h.epoch)
    && (pathAt s h.node h.port).rxNext.toNat = h.pseq && (pathAt s h.node h.port).rxGot.isEmpty

/-- The group message in a frame for a bound group: none where its payload tag does not verify (R247). -/
def opensTo (s : State) (h : RxHead) : Option UFrame :=
  ((groupFind s h.group).bind (groupAt s)).bind (fun g => openFrame g.key h)

/-- The message f reaches its group's engine, which finds the state s1: as a message between local members, taken from the queue, or
in the next frame of a path, whose PACK has been taken. -/
def delivers (s : State) (src : MsgSrc) (f : UFrame) (s1 : State) : Prop :=
  match src with
  | .local' k => s.fb.msgs[k]? = some f ∧ s1 = { s with fb := { s.fb with msgs := s.fb.msgs.eraseIdx k } }
  | .wire h => rxInOrder s h = true ∧ opensTo s h = some f ∧ s1 = rxAck (rxCounted s h) h
  | .own _ _ => False

/-- A CTRL message of a bound group that has not been applied (R246). -/
def ctrlNew (s : State) (f : UFrame) (gix : Nat) : Bool :=
  groupFind s f.group = some gix && !(s.fb.ctrlDone.contains (gix, f.ctype, f.srcRank, f.step, f.lseq))

/-- The rows that take a group message, with its type and CTYPE (Tables 10-4 to 10-6). -/
def msgRows : List ((MsgSrc → Instr) × Nat × Nat) :=
  [(fun m => Instr.dataFrame m [], 1, 0), (Instr.creditFrame, 2, 0), (Instr.joinMsg, 5, 1), (Instr.keyconf, 5, 2),
   (Instr.voteMsg, 5, 3), (Instr.decision, 5, 4), (Instr.vack, 5, 5), (Instr.closed, 5, 6), (Instr.dquery, 5, 7),
   (Instr.failMsg, 5, 8), (Instr.goneMsg, 5, 9)]

/-- Only fabric ports differ. -/
def onlyPorts (s t : State) : Prop := t = { s with fb := { s.fb with ports := t.fb.ports } }

/-- Another UP path of the node with room for a frame. -/
def otherUp (s : State) (node p : Nat) : Bool := (upPorts s node 1).any (fun q => q ≠ p)

/-- A member of a bound group on this device. -/
def localMember (s : State) (gix r : Nat) : Option LocalMem := (groupAt s gix).bind (fun g => localOfRank g r)

/-- A CTRL message of a group (Table 10-6). -/
def ctrlOf (g : Group) (src dst ctype step lseq : Nat) (body : List Byte) : UFrame :=
  { typ := 5, group := g.id, step := step, lseq := lseq, srcRank := src, dstRank := dst, ctype := ctype, body := body }

/-! ### Memory -/

/-- Only device memory differs. -/
def onlyMem (s t : State) : Prop := t = { s with mm := t.mm }

/-- Only device memory differs, and the copies of its lines in the cluster caches (R128). -/
def onlyMemCaches (s t : State) : Prop := t = { s with mm := t.mm, tl := { s.tl with caches := t.tl.caches } }

/-- Pseudo-channels other than k read as before. -/
def otherPcs (s t : State) (k : Nat) : Prop := ∀ j, j ≠ k → pcAt t j = pcAt s j

/-- A byte address lies in a frame. -/
def inFrame (fk a : Nat) : Bool := byteKey fk 0 ≤ a && a < byteKey fk 0 + 65536

/-- Next line that the patrol scrub of a controller reads. -/
def scrubPos (s : State) (m : Nat) : Nat := max (scrubSpan s m).1 (mcAt s m).pos.toNat
def scrubLk (s : State) (m : Nat) : Nat := scrubTier m * 2 ^ 36 + scrubPos s m / 64

/-- The patrol scrub of a controller runs, and its next line lies in a frame that it does not skip and that answers. -/
def scrubReads (s : State) (m : Nat) : Bool :=
  m ≤ 16 && mcWorks s m && (m = 16 || present s.hw (mcUnit m)) && !(s.mm.scrubCfg.getLsbD 24) && scrubPos s m + 64 < (scrubSpan s m).2
    && !(scrubSkips s (lineFrame (scrubLk s m))) && !(lineWaits s none (lineFrame (scrubLk s m)) (scrubPos s m % 65536) false [])

/-- The erased lanes of a PC that are left after its retraining with so many repairs (R274). -/
def retrained (s : State) (m pc fix : Nat) : List Lane :=
  ((pcAt s (m * 128 + pc)).lanes.filter (fun l => l.erased)).drop (if m < 4 then min fix (pcAt s (m * 128 + pc)).lspare else fix)

/-- Pseudo-channels that MC_EVAC names (R275). -/
def evacPcs (m pc scope : Nat) : List Nat :=
  if scope = 0 then [pc] else if scope = 1 then [pc / 2 * 2, pc / 2 * 2 + 1] else List.range (mcPcs m)

/-! ### The host link -/

/-- Only one port of the host link differs. -/
def onlyHport (s t : State) (k : Nat) : Prop :=
  t = { s with rg := { s.rg with ports := t.rg.ports } } ∧ ∀ j, j ≠ k → hportAt t j = hportAt s j

/-- Only one function differs. -/
def onlyFunc (s t : State) (fk : Nat) : Prop :=
  t = { s with rg := { s.rg with funcs := t.rg.funcs } } ∧ ∀ j, j ≠ fk → funcAt t j = funcAt s j

/-- A function that was ready has been disabled: its incarnation is one ahead, its DMA windows are gone, a locked TDI is in ERROR,
and each of its contexts that was ACTIVE is DISABLING (R321, R322). -/
def disabledFn (s t : State) (fk : Nat) : Prop :=
  (funcAt t fk).finc = (funcAt s fk).finc + 1 ∧ (funcAt t fk).wins = [] ∧
    ((funcAt s fk).tdi = 1 ∨ (funcAt s fk).tdi = 2 → (funcAt t fk).tdi = 3) ∧
    ∀ c, (ctxAt s c).st = .active → ctxFunc s c = fk → (ctxAt t c).st = .disabling

/-- Every function of a port that was ready has been disabled, and none masters the bus or serves its BARs. -/
def portOff (s t : State) (k : Nat) : Prop :=
  ∀ fk ∈ portFuncs s k, (funcAt t fk).bme = false ∧ (funcAt t fk).mse = false ∧
    ((funcAt s fk).nrdy = false → disabledFn s t fk)

/-! ### Rings, contexts and objects -/

/-- A queue by context and number. -/
def qRef (ctx qid : Nat) : CmdRef := { ctx := ctx, qid := qid }

/-- A queue holds a command of an operation that is ready to execute. -/
def ready (s : State) (r : CmdRef) (opc : Nat) (k : QCmd) : Prop :=
  cmdAt s r = some k ∧ k.st = .ready ∧ k.job = .none' ∧ k.status = none ∧ k.abort = false ∧ eOpc (leVal k.entry) = opc

/-- The command has ended with a status and a result; its record is still to be written (R337). -/
def endedAs (t : State) (r : CmdRef) (k : QCmd) (status result : Nat) : Prop :=
  cmdAt t r = some { k with st := .ended, status := some status, result := result }

/-- Only one queue differs. -/
def onlyQueue (s t : State) (r : CmdRef) : Prop :=
  t = { s with rg := { s.rg with queues := t.rg.queues } } ∧
    ∀ k, k ≠ queueKey r → mapFind t.rg.queues k = mapFind s.rg.queues k

/-- Only contexts, rings and objects, and the alerts that their records raise, differ. -/
def onlyRings (s t : State) : Prop := t = { s with rg := t.rg }

/-- The queue's next entry may be read (R336): no command is held, an entry waits, and a record is free. -/
def mayRead (q : Queue) : Bool := q.st = .idle && q.cmd.isNone && q.head ≠ q.tail && recordFree q

/-- The rows that run ring commands, with their operations (Tables 14-7, 15-7, 16-4, 17-7). -/
noncomputable def ringRows : List ((Nat → Nat → Instr) × Nat) :=
  [(Instr.ringNop, 0x00), (Instr.identify, 0x01), (Instr.ifNegotiate, 0x02), (Instr.ctxCreate, 0x03), (Instr.ctxDestroy, 0x04),
   (Instr.vfBind, 0x05), (Instr.vfUnbind, 0x06), (Instr.dmaWindow, 0x07), (Instr.farWindow, 0x08), (Instr.objShare, 0x09),
   (Instr.objCreate, 0x10), (Instr.objRef, 0x11), (Instr.objUnref, 0x12), (Instr.objQuery, 0x13), (Instr.queueCreate, 0x14),
   (Instr.abortQueues, 0x15), (Instr.fenceAbandon, 0x16), (Instr.memMap, 0x18), (Instr.memUnmap, 0x19), (Instr.memRelease, 0x1A),
   (Instr.memReserve, 0x1B), (Instr.memRedirClear, 0x1C), (fun c q => Instr.dmaCopy c q .wait [], 0x20),
   (fun c q => Instr.dmaFill c q [], 0x21), (fun c q => Instr.plateLoad c q [], 0x28), (fun c q => Instr.run c q [], 0x29),
   (fun c q => Instr.stepConfig c q [], 0x2A), (fun c q => Instr.groupJoin c q [] [], 0x2B), (Instr.groupLeave, 0x2C),
   (Instr.partBind, 0x30), (Instr.partUnbind, 0x31), (fun c q => Instr.shardLoad c q .wait [], 0x32),
   (fun c q => Instr.shardCheck c q [], 0x33), (Instr.shardRelease, 0x34), (fun c q => Instr.ckptExport c q [], 0x35),
   (fun c q => Instr.ckptImport c q .wait [], 0x36), (Instr.partQuery, 0x37), (Instr.keyGenerate, 0x38),
   (fun c q => Instr.keyDerive c q [], 0x39), (fun c q => Instr.keyImport c q [], 0x3A), (Instr.keyDestroy, 0x3B),
   (fun c q => Instr.keyQuery c q [], 0x3C), (fun c q => Instr.keyAttest c q [], 0x3D), (fun c q => Instr.measReport c q [], 0x3E),
   (fun c q => Instr.attMsg c q 0 [], 0x3F), (Instr.fwStageBegin, 0x40), (fun c q => Instr.fwStageData c q .wait [], 0x41),
   (Instr.fwVerify, 0x42), (Instr.fwArm, 0x43), (Instr.fwCancel, 0x44), (Instr.fwQuery, 0x45), (Instr.fwArbRaise, 0x46),
   (fun c q => Instr.fwSettings c q .wait [], 0x47)]

/-- A completion record as it stands in the ring window, with the ring's PHASE (Table 14-6). -/
def recordOf (r : CmdRef) (q : Queue) (k : QCmd) (status : Nat) : List Byte :=
  leBytes 32 (completionRec r.qid q.head (leVal k.entry) status k.detail k.result + boolNat q.cq.phase <<< 8)

/-- A doorbell write reaches a context of a ready function with memory space on (R322, R332, Table 13-3). -/
def dbReaches (s : State) (src : DbSrc) (c : Nat) : Bool :=
  (funcAt s (srcFunc src)).mse && dbMapped s src c && dbTaken s src c

/-- Records in use after HEAD is written. -/
def usedAfter (r : Ring) (head : Nat) : Nat := r.used - min r.used ((head + ringSize r - r.head) % ringSize r)

/-- Object named by the payload handle of a command that stands at index i of its context. -/
def payNames (s : State) (v i : Nat) (h : Handle) (o : Nat) (x : Obj) : Prop := payHandle s v = some (i, h, o, x)

/-- A handle opened at index i of context c on object o. -/
def handleOpened (s t : State) (c i o : Nat) (signal : Bool) : Prop :=
  ∃ g, mapFind (ctxAt t c).handles i = some { gen := g, obj := some o, count := 1, signal := signal } ∧
    g = (match mapFind (ctxAt s c).handles i with
      | some h => (h.gen + 1) % 65536
      | none => 0) ∧
    ∀ j, j ≠ i → mapFind (ctxAt t c).handles j = mapFind (ctxAt s c).handles j

/-- GEN of the handle at an index. -/
def handleGen (t : State) (c i : Nat) : Nat := ((mapFind (ctxAt t c).handles i).map Handle.gen).getD 0

/-! ### Partitions -/

/-- A tile of the span of a partition. -/
def inSpan (t0 log2n n : Nat) : Bool := t0 ≤ n && n < t0 + 2 ^ log2n

/-- The partition that covers a tile has become this record. -/
def partNow (t : State) (t0 log2n : Nat) (p : Part) : Prop := ∀ n, inSpan t0 log2n n = true → partOf t n = some p

/-- A RUN has started the plate of a partition (R138, R163, R355): the record, the command that goes on, and every member at the entry stroke
with its stacks and plate cache empty and its index and descriptor registers zero. -/
def runStarted (t : State) (r : CmdRef) (t0 lg : Nat) (p : Part) (o : Nat) (i : PlateInfo) : Prop :=
  (∃ q, partNow t t0 lg q ∧ q.st = .running ∧ q.step = p.step ∧ q.seed = p.seed ∧ q.ctx = p.ctx ∧
    q.run = some { obj := o, nstrokes := i.nstrokes, entry := i.entry, digest := i.digest, numver := i.numver, canon := i.canon, cmd := r }) ∧
    (∃ k, cmdAt t r = some k ∧ k.st = .busy ∧ k.status = none) ∧
    ∀ n, inSpan t0 lg n = true → (unitAt t (.tile n)).running = true ∧ (tileAt t n).plate.pc = i.entry ∧
      (tileAt t n).plate.pstate = (if p.holds.isEmpty then .frozen else .heldBar) ∧
      (tileAt t n).plate.loops = [] ∧ (tileAt t n).plate.calls = [] ∧ (tileAt t n).plate.cache = [] ∧
      ∀ a b, xlane (tileAt t n).regs a b = 0 ∧ tdreg (tileAt t n).regs a = 0

/-- Field k of a configuration block read from device memory (Table 8-9). -/
def blockField (bs : List Byte) (k : Nat) : Nat := leVal ((bs.drop (8 * k)).take 8)


/-! ### Sealed images -/

/-- A queue holds a command of an operation, not ended and not aborted. -/
def heldCmd (s : State) (r : CmdRef) (opc : Nat) (k : QCmd) : Prop :=
  cmdAt s r = some k ∧ k.status = none ∧ k.abort = false ∧ eOpc (leVal k.entry) = opc

/-- Where a command reads its image (Table 15-7): device memory, once it is ready; or the host, once its reads are answered and the
whole image lies in a window. -/
def sourceAt (s : State) (k : QCmd) (isHost : Bool) (host : HostRsp) (src : SealSrc) : Prop :=
  (isHost = false ∧ k.st = .ready ∧ k.job = .none' ∧ src = .dev (eCtx (leVal k.entry)) (pay (leVal k.entry) 0x28 63 0)) ∨
  (isHost = true ∧ k.st = .busy ∧ k.job = .dma ∧ ∃ bs, host = .data bs ∧ src = .host bs ∧
    inWindow s (eCtx (leVal k.entry)) (pay (leVal k.entry) 0x28 63 0) (imageSize bs) false = true)

/-- The command has ended with a status and a result. -/
def endedWith (t : State) (r : CmdRef) (status result : Nat) : Prop :=
  ∃ k, cmdAt t r = some k ∧ k.st = .ended ∧ k.status = some status ∧ k.result = result

def topSects (top : SealTop) : Option (List Sect) := sectsOf (leVal ((top.hdr.drop 0xC).take 2)) top.table

/-- An image's header and section table are sound and their tag verifies under a key slot of the context (R365, R366). -/
def topGood (s : State) (c slot kind : Nat) (top : SealTop) (h : SealHdr) : Prop :=
  top.status = stOk ∧ h = sealHdr top.hdr kind (topSects top) ∧ h.ok = true ∧
    hdrTag (sealKey (slotAt s (tenantSlot c slot)).key kind h.nonce) top.hdr top.table h.nonce = (top.hdr.drop 0x1F0).take 16

/-- What a check reads of a shard, and the status. -/
def shardRead (s : State) (c : Nat) (x : Shard) (ev : List LineEv) : List Byte × Nat :=
  if x.scratch then ((List.range x.len).map (fun i => spByte (tileAt s x.tile) (x.dst + i)), stOk)
  else ((devFetch s c x.dst x.len ev).2.1, (devFetch s c x.dst x.len ev).2.2.1)

/-- How a check ends (R371): with the failing read's status, with SEAL_DIGEST_FAIL, or with OK. -/
def shardVerdict (s : State) (c : Nat) (x : Shard) (ev : List LineEv) : Nat :=
  if (shardRead s c x ev).2 ≠ stOk then (shardRead s c x ev).2
  else if sha384 (shardRead s c x ev).1 = x.digest then stOk else stSealDigest

/-- A check marks a VALID shard FAILED when its lines cannot be read or its digest differs (R371). -/
def shardMarked (s : State) (key : Nat) (x : Shard) (verdict : Nat) : Shard :=
  if shardSt s key x = 0 && (verdict = stUncorr || verdict = stIntegrity || verdict = stSealDigest) then { x with st := 1 } else x

/-- SHARD_LOAD's arguments are sound and its identifier and destination are free (R368, R370). -/
def loadArgs (s : State) (k : QCmd) (x : Shard) (id : Nat) : Prop :=
  pay (leVal k.entry) 0x20 1 0 < 2 ∧ pay (leVal k.entry) 0x28 63 0 % 64 = 0 ∧ id = pay (leVal k.entry) 0x20 9 4 ∧
    x.st = 0 ∧ x.scratch = decide (pay (leVal k.entry) 0x20 2 2 = 1) ∧ x.frozen = decide (pay (leVal k.entry) 0x20 3 3 = 1) ∧
    x.tile = pay (leVal k.entry) 0x20 18 10 ∧ x.dst = pay (leVal k.entry) 0x30 63 0 ∧
    (x.frozen = true → x.scratch = false ∧ x.dst % 65536 = 0) ∧ (x.scratch = false → x.dst % 64 = 0) ∧
    shardAt s (shardKey (eCtx (leVal k.entry)) id) = none ∧
    (x.scratch = true → (∃ p, partOf s x.tile = some p ∧ p.ctx = eCtx (leVal k.entry) ∧ p.st = .bound) ∧ x.dst + x.len ≤ spSize) ∧
    bitOf (slotAt s (tenantSlot (eCtx (leVal k.entry)) 2)).attr 1 = true ∧ (slotAt s (tenantSlot (eCtx (leVal k.entry)) 2)).ktype ≠ 0

/-- The state in which an export of a partition goes on: its hold is placed (R373 step 1). -/
def exportHeld (s : State) (r : CmdRef) (p : Part) : State :=
  setJob (partSet s { p with holds := p.holds ++ [exportHold r] }) r (.ckpt p.t0)

/-- CKPT_EXPORT's arguments are sound: a BOUND or RUNNING partition of the context, an aligned destination, an encryption key in c.3,
and a HOST destination that lies in a window (R373). -/
def exportArgs (s : State) (k : QCmd) (p : Part) (t0 lg : Nat) : Prop :=
  partsWf s = true ∧ t0 = pay (leVal k.entry) 0x20 8 0 ∧ lg = pay (leVal k.entry) 0x20 12 9 ∧
    partIn s (eCtx (leVal k.entry)) t0 lg = some p ∧ (p.st = .bound ∨ p.st = .running) ∧ pay (leVal k.entry) 0x28 63 0 % 64 = 0 ∧
    (slotAt s (tenantSlot (eCtx (leVal k.entry)) 3)).ktype ≠ 0 ∧
    bitOf (slotAt s (tenantSlot (eCtx (leVal k.entry)) 3)).attr 0 = true ∧ s.ks.rngFail = false ∧
    (pay (leVal k.entry) 0x20 13 13 = 1 →
      hostRefusal s (eCtx (leVal k.entry)) (pay (leVal k.entry) 0x28 63 0) (pay (leVal k.entry) 0x38 63 0) true = none)

/-- The sections of an export in order: the step record, the listed data, and the monitor table if it is taken (R365). -/
def exportSects (ents : List ListEnt) (mon : Bool) : List Sect :=
  withFirst (({ len := 64, tag := 0, kind := 1, first := 0 } : Sect)
    :: ents.map (fun e => ({ len := e.len, tag := e.tag, kind := 0, first := 0 } : Sect))
    ++ (if mon then [({ len := monLen, tag := 0, kind := 2, first := 0 } : Sect)] else []))

/-- Where those sections' bytes are read: bank b of each entry, b the low bit of STEP. -/
def exportSpans (p : Part) (ents : List ListEnt) (mon : Bool) : List (Nat × Nat) :=
  ents.map (fun e => (bankOf e (p.step.getLsbD 0), e.len)) ++ (if mon then [(monBank p (p.step.getLsbD 0), monLen)] else [])

/-- The status of what an import's chunks and digest leave, over a source. -/
def importRun (s : State) (p : Part) (c : Nat) (src : SealSrc) (top : SealTop) (h : SealHdr) (ents : List ListEnt)
    (ev : List LineEv) : SealRun :=
  sealRun src (sealKey (slotAt s (tenantSlot c 3)).key 2 h.nonce) top.hdr top.tags h ev
    (fun s x off bs => match importDst p (decide (h.step % 2 = 1)) ents ((topSects top).getD []) x with
      | some a => devStore s c (byLine (atAddr (a + off) bs)) ev
      | none => (s, stOk, 0)) ((topSects top).getD []) top.s

/-! ### Keys and attestation -/

/-- The bytes of a payload buffer are at hand (Table 16-4): the state after the read, and the bytes. -/
def payGot (s : State) (c sp a n : Nat) (ev : List LineEv) (s1 : State) (bs : List Byte) : Prop :=
  payOk sp a n = true ∧
    ((sp = 0 ∧ spanWaits s io0Page c a n false ev = false ∧ s1 = (devFetch s c a n ev).1 ∧
        bs = (devFetch s c a n ev).2.1 ∧ (devFetch s c a n ev).2.2.1 = stOk) ∨
     (sp = 2 ∧ s1 = s ∧ winFetch s c a n = (bs, stOk)))

/-- A slot that SLOTREF names may take a key of a type and use from the queue (R381, R383, R384). -/
def mayInstall (s : State) (r : CmdRef) (c ref ktype use k : Nat) : Prop :=
  slotRef c ref = some k ∧ slotRight s r c k = true ∧ useAllowed ktype use = true ∧ roleAllowed k ktype use = true ∧
    installRefusal s k = none

/-- A slot holds a new key: KGEN has advanced, EXHAUSTED is clear, and a tenant key is LCB and VOLATILE; no other slot differs. -/
def keyInstalled (s t : State) (k ktype use origin : Nat) (lcb vol : Bool) (key : List Byte) : Prop :=
  slotAt t k = { ktype := ktype, key := key, attr := use, origin := origin, lcb := !(isDeviceKey k) || lcb,
                 vol := !(isDeviceKey k) || vol, kgen := (slotAt s k).kgen + 1, exh := false } ∧
    ∀ j, j ≠ k → slotAt t j = slotAt s j

/-- The queue may attest or sign with a slot (R391). -/
def mayAttest (s : State) (r : CmdRef) (c ref k : Nat) : Prop :=
  slotRef c ref = some k ∧ (isDeviceKey k = true → isAdminRing s r = true) ∧ (isDeviceKey k = false → c = r.ctx) ∧
    (slotAt s k).ktype ≠ 0 ∧ s.ks.lc.pend = false ∧ s.ks.rngFail = false

/-! ### Attestation over a PF's DOE mailbox -/

/-- The DOE mailbox of a present port is up, and a session number is free (R401, R403). -/
def doeUp (s : State) (port : Nat) : Bool := portPresent s port && s.pw.on && sidFree s (anySid s)

/-- What a PF's DOE mailbox last answered. -/
def saidDoe (t : State) (port : Nat) (a : DoeRsp) : Prop := mapFind t.ks.doe port = some a

/-- Only the mailbox's answer, the connection's progress and the sessions differ, and what a signature draws and counts. -/
def onlyDoe (s t : State) : Prop :=
  t = { s with free := t.free, ks := { s.ks with doe := t.ks.doe, spdmCon := t.ks.spdmCon, sessions := t.ks.sessions,
                                                 attestC := t.ks.attestC } }

/-- The sender of a PF's mailbox messages. -/
def doeFrom (port : Nat) : MbFrom := { ctx := adminCtxOf port, doe := some port }

/-- A well-formed mailbox message of a kind. -/
def mbOf (req : List Byte) (msg : Nat) : Bool := mbFormOk req && decide ((req.headD 0).toNat = msg)

/-- The session that a message names. -/
def mbSid (req : List Byte) : Nat := leVal ((req.drop 4).take 4)

/-- The status of an SPDM request that needs a signature which cannot be made. -/
def spdmRefused (st : Nat) : Nat := if st = stBusy then spdmBusy else spdmUnexpected

/-- The port is up and its connection has come as far as a request needs. -/
def spdmAt (s : State) (port stage : Nat) : Bool := portPresent s port && s.pw.on && decide (stage ≤ spdmStage s port)

/-! ### Life cycle -/

/-- Programming of a segment has gone on by n steps from life-cycle block x: the next bits are set and no other; the step after the
last sets the consumption bit and ends the request with OK (R396). -/
def programmed (x : LcSt) (t : State) (k : Nat) (bits : List Nat) (n : Nat) : Prop :=
  (∀ i ∈ bits.take n, i < 64 → (seg t.ks.lc k).getLsbD i = true) ∧
  (∀ i, i ∉ bits.take n → (seg t.ks.lc k).getLsbD i = (seg x k).getLsbD i) ∧
  (n ≤ bits.length → t.ks.lc.run = some { seg := k, bits := bits.drop n } ∧ t.ks.lc.consume = x.consume ∧
    t.ks.lc.pend = x.pend) ∧
  (bits.length < n → t.ks.lc.run = none ∧ t.ks.lc.pend = true ∧ t.ks.lc.result = stOk ∧ t.ks.lc.token = [] ∧
    t.ks.lc.consume = setBit32 x.consume (k - 1))

/-- A verified token has destroyed every LCB key and the derived device keys, and closed the sessions (R396, R397). -/
def keysGone (s t : State) (kept : Nat → Bool) : Prop :=
  t.ks.sessions = [] ∧ ∀ j, kept j = false → (slotAt s j).ktype ≠ 0 → ((slotAt s j).lcb = true ∨ (4104 ≤ j ∧ j ≤ 4106)) →
    (slotAt t j).ktype = 0

/-- A request ended with a status, its token cleared, and changed nothing else but LC_DONE and the count of failed tokens. -/
def lcEndedWith (s t : State) (st fails : Nat) : Prop :=
  t.ks = { s.ks with lc := { s.ks.lc with result := st, token := [], fails := fails } } ∧ onlyUnits { s with ks := t.ks } t

/-- No request runs, no reset is pending, no tenant key or partition is held, and neither PWR_WARN nor an activation stands in the
way (R396). -/
def lcClear (s : State) : Bool :=
  s.ks.lc.run.isNone && !s.ks.lc.pend && !(lcHeld s) && !s.pw.warn && decide (s.fw.phase = 0)

/-! ### Firmware, boot and reset -/

/-- The bytes of a firmware command's source are at hand: read as they are needed, or answered by the host. -/
def fwSource (s : State) (k : QCmd) (n : Nat) (host : HostRsp) (ev : List LineEv) (s1 : State) (bs : List Byte) : Prop :=
  (pay (leVal k.entry) 0x20 1 0 ≠ 1 ∧ k.st = .ready ∧ k.job = .none' ∧
    payGot s (eCtx (leVal k.entry)) (pay (leVal k.entry) 0x20 1 0) (pay (leVal k.entry) 0x28 63 0) n ev s1 bs) ∨
  (pay (leVal k.entry) 0x20 1 0 = 1 ∧ k.st = .busy ∧ k.job = .dma ∧ s1 = s ∧
    ∃ b, host = .data b ∧ bs = (b ++ List.replicate n 0).take n)

/-- A read of the host may be issued for a ready command. -/
def hostReadGoes (s : State) (k : QCmd) (n : Nat) : Prop :=
  pay (leVal k.entry) 0x20 1 0 = 1 ∧ upWaits s (eCtx (leVal k.entry)) = false ∧
    hostRefusal s (eCtx (leVal k.entry)) (pay (leVal k.entry) 0x28 63 0) n false = none

/-- The idle slot of an image kind holds x, every other slot what it held. -/
def idleSlotIs (s t : State) (kind : Nat) (x : ImgSlot) : Prop :=
  imgSlot t kind (idleSlot s kind) = x ∧
    ∀ j, j ≠ imgKey kind (idleSlot s kind) → mapFind t.fw.slots j = mapFind s.fw.slots j

/-- Only firmware state, rings and units differ. -/
def onlyFw (s t : State) : Prop := t = { s with fw := t.fw, rg := t.rg, un := t.un }

/-- A cold reset has begun the first boot attempt (R393, R413, R434, R460). -/
def coldBegun (s t : State) (split : Bool) : Prop :=
  t.hw = { s.hw with split := split } ∧ t.pw.on = true ∧ t.pw.capW = ceilingW s.hw.variant ∧ t.pw.trip = s.pw.trip ∧
    t.fw.booting = true ∧ t.fw.boot = 0 ∧ t.fw.attempt = 1 ∧ t.fw.bootSeq = s.fw.bootSeq + 1 ∧
    t.ks.lc.segs = s.ks.lc.segs ∧ t.ks.lc.state = (lcDecide s.ks.lc).1 ∧ t.ks.lc.corrupt = (lcDecide s.ks.lc).2.2 ∧
    t.ks.lc.run = none ∧ t.ks.lc.pend = false ∧ t.ks.arb = thermo (topBit s.ks.arb) ∧ t.pn.boardFlash = !s.pn.flashPin ∧
    t.mt = s.mt

/-- With the rails, everything outside OTP, flash and the meter is lost (R433). -/
def allLost (s t : State) : Prop :=
  t.un = {} ∧ t.tl = {} ∧ t.mm = {} ∧ t.fb = {} ∧ t.mi = {} ∧ t.ks.slots = [] ∧ t.ks.sessions = [] ∧ t.ks.saved = s.ks.saved ∧
    t.ks.otpKeys = s.ks.otpKeys ∧ t.mt = s.mt

/-- The next attempt of a boot has begun after a failure of step k (R416). -/
def nextAttempt (s t : State) (k : Nat) : Prop :=
  t.fw.boot = 0 ∧ t.fw.booting = true ∧ t.fw.attempt = s.fw.attempt + 1 ∧ t.fw.fails = s.fw.fails + 1 ∧
    mapGet 0 t.fw.stepFails k = mapGet 0 s.fw.stepFails k + 1 ∧ t.fw.mgmt = 0 ∧ t.fw.runSec = none ∧ t.fw.runMgmt = none

/-- Boot stands before a step and does not wait. -/
def bootReady (s : State) : Bool :=
  s.pw.on && s.fw.booting && s.pn.modRst && !s.pw.tripped && !(bootWaits s (s.fw.boot + 1))

/-! ### Power, meter and pins -/

/-- The active emergency sources, one by one (R425, R444). -/
def emergBits (t : State) (f : Nat → Bool) : Prop := ∀ i, bitOf t.pw.active i = f i

/-- One source asserts or clears, the others stay. -/
def sourceSet (s t : State) (i : Nat) (on : Bool) : Prop :=
  emergBits t fun j => if j = i then on else bitOf s.pw.active j

/-- The highest stretch level of a running partition. -/
def topLevel (s : State) : Nat := (runningParts s).foldl (fun m p => max m (levelOf s p)) 0

/-- The level that a decision of the limiter gives a running partition (R439, R440). -/
def limiterLevel (s : State) (ovr : Bool) (raise : Nat) (p : Part) : Nat :=
  let first := ((overBudget s).filter (fun p => levelOf s p < 60)).map Part.t0
  min 60 (if s.pw.policy.getLsbD 0 = false then (if ovr then topLevel s + raise else topLevel s - 1)
    else if ovr then (if first.isEmpty || first.contains p.t0 then levelOf s p + raise else levelOf s p) else levelOf s p - 1)

/-- A thermal trip: every rail but AON's and the meter's is off, with its cause (R442). -/
def tripBegun (s t : State) (cause : Nat) : Prop :=
  allLost s t ∧ t.pw.on = false ∧ t.pw.tripped = true ∧ t.pw.trip = cause ∧ t.pn.alert = true

/-- Field d of a register of four 16-bit fields. -/
def field16 (v : W64) (d : Nat) : Nat := v.toNat >>> (16 * d) % 65536

/-- The meter takes a request: it is powered, and the response before it has been read (R451). -/
def meterFree (s : State) (prev : Bool) : Bool := s.mt.on && (prev || s.mt.rsp.isNone)

/-- The meter's response waits to be read. -/
def answered (t : State) (code status : Nat) (body : List Byte) : Prop :=
  t.mt.rsp = some (leBytes 1 code ++ leBytes 1 status ++ leBytes 2 body.length ++ body) ∧
    t.mt.answer = leBytes 1 code ++ leBytes 1 status ++ leBytes 2 body.length ++ body

/-- Only the meter differs, and what its signatures draw. -/
def onlyMeter (s t : State) : Prop := t = { s with mt := t.mt, free := t.free }

/-- A log entry of a type stands at an index, formed from meter state m. -/
def loggedAt (t : State) (i : Nat) (m : MeterSt) (typ arg : Nat) : Prop :=
  ∃ tag, mapFind t.mt.log i = some (logBody m typ (Config.logDetail typ) arg ++ tag)

/-- The response before has been read. -/
def rspRead (s : State) (prev : Bool) : State := if prev then mtSet s { s.mt with rsp := none } else s

/-- A reading signed over its body is the latest (R448). -/
def readingOf (u t : State) (kind : Nat) (nonce : List Byte) : Prop :=
  t.mt.reading = readingBody u.mt kind nonce ++ (signMsg u meterScalar (readingBody u.mt kind nonce)).2 ∧ t.mt.overRange = false

/-- Only the JTAG instruction, its data register and boundary cells, and the life-cycle block's debug mark differ. -/
def onlyJtag (s t : State) : Prop :=
  t = { s with pn := { s.pn with jtagIr := t.pn.jtagIr, jtagDr := t.pn.jtagDr, bscan := t.pn.bscan },
               ks := { s.ks with lc := { s.ks.lc with debugSeen := t.ks.lc.debugSeen } } }

/-- An instruction selected the bypass register in its place. -/
def bypassed (s t : State) : Prop := t = { s with pn := { s.pn with jtagIr := bypassIr, jtagDr := 0 } }

/-! ### Rollback protection and what every step keeps -/

/-- The SVN in the header of the image in a slot (Table 17-3). -/
def imgSvn (s : State) (kind : Nat) (b : Bool) : Nat := leVal (((readBytes (imgSlot s kind b).bytes 0 512).drop 0xA).take 1)

/-- Apart from its SVN, the image in a slot meets R412. -/
def imgSoundAt (s : State) (kind : Nat) (b : Bool) : Bool :=
  decide (512 ≤ (imgSlot s kind b).len) &&
    imgSound s kind (readBytes (imgSlot s kind b).bytes 0 512)
      (readBytes (imgSlot s kind b).bytes 512 (leVal (((readBytes (imgSlot s kind b).bytes 0 512).drop 0x10).take 4)))

/-- Boot stands before the step that runs the image of a kind, and the step is not skipped: 3 for the security image, 6 for the
management image (Table 17-4). -/
def bootsImage (s : State) (kind : Nat) : Bool :=
  bootReady s && ((s.fw.boot = 2 && kind = 1) || (s.fw.boot = 5 && kind = 2)) && decide (stepMode s (s.fw.boot + 1) ≠ .skipped)

/-- The slot of the image that a boot step runs. -/
def bootSlot (s : State) (kind : Nat) : Bool :=
  if stepMode s (s.fw.boot + 1) = .varied then !(activeB s kind) else activeB s kind

/-- Device memory and the ring windows stand in their one canonical form (an invariant of every step; log entry 7). -/
def memoriesWf (s : State) : Bool := Memory.wf s.mm.bytes && Memory.wf s.rg.win

/-- The tile and spare pages that the flash records name address different slots too (R418). -/
def recsApart (s : State) : Bool := physApart { s with un := { s.un with phys := s.fw.recs.phys } }
end Sys2Proof.Machine
end

