-- ==== Sys2Proof/Certificates/Slice0/Obligations.lean ====
section
/-! DEFINITION. The statements about the model that are to be proved: what each command does under the conditions the spec gives,
what it leaves unchanged, and what every step keeps. -/
open Sys2Proof Sys2Proof.Machine

/-- A step runs the command at the front of the queue on the state with the queue's rest, and idles on an empty queue (95_what_each_step_holds). -/
def Obligations.StepRunsFront : Prop :=
  (∀ (c : Instr) (r : List Instr) (s : State), step { s with pending := c :: r } = exec c { s with pending := r }) ∧
  (∀ s : State, s.pending = [] → step s = .next s)

/-- How a unit command is ignored, dropped or refused (R20, R26, R30, R37). -/
def Obligations.UnitCommandRefusals : Prop :=
  (∀ c u w inc s, ctlReaches s u w = false → Ignores (ctlCommand c u w inc) s) ∧
  (∀ c u w inc s, ctlReaches s u w = true → (unitAt s u).cmdBusy = true →
    Answers (ctlCommand c u w inc) s fun t =>
      unitAt t u = { unitAt s u with evt := (unitAt s u).evt ||| 4 } ∧ unitsKept s t u ∧ onlyUnits s t) ∧
  (∀ c u w inc s, ctlReaches s u w = true → (unitAt s u).cmdBusy = false → bitOf (unitCmds u) (cmdBit c) = false →
    Answers (ctlCommand c u w inc) s fun t =>
      unitAt t u = { unitAt s u with cmdStatus := stDenied, cmd := none, evt := (unitAt s u).evt ||| 2 } ∧
        unitsKept s t u ∧ onlyUnits s t) ∧
  (∀ c u w inc s, ctlReaches s u w = true → (unitAt s u).cmdBusy = false → bitOf (unitCmds u) (cmdBit c) = true →
    inc ≠ (unitAt s u).inc →
    Answers (ctlCommand c u w inc) s fun t =>
      unitAt t u = { unitAt s u with cmdStatus := stStale, cmd := none, evt := (unitAt s u).evt ||| 2 } ∧
        unitsKept s t u ∧ onlyUnits s t) ∧
  (∀ c u w inc s, ctlAccepted s u w inc c = true → (c = .reset ∨ c = .sleep ∨ c = .retire) → ownedRunning s u = true →
    Answers (ctlCommand c u w inc) s fun t =>
      cmdOver t u stOwned ∧ (unitAt t u).state = (unitAt s u).state ∧ (unitAt t u).inc = (unitAt s u).inc ∧
        unitsKept s t u ∧ onlyUnits s t) ∧
  (∀ c u w inc s, ctlAccepted s u w inc c = true → startIllegal (unitAt s u).state c = true →
    (c = .quiesce ∨ c = .resume ∨ ownedRunning s u = false) →
    Answers (ctlCommand c u w inc) s fun t =>
      cmdOver t u stIllegal ∧ (unitAt t u).state = (unitAt s u).state ∧ (unitAt t u).inc = (unitAt s u).inc ∧
        unitsKept s t u ∧ onlyUnits s t)

/-- What an accepted unit command does (R20, R30, R34, R35, R36, R38, R39). -/
def Obligations.UnitCommandsAct : Prop :=
  (∀ u w inc s, exec (.unitNop u w inc) s = .next s) ∧
  (∀ u w inc s, ctlAccepted s u w inc .quiesce = true → (unitAt s u).state = .run →
    Answers (.quiesce u w inc) s fun t =>
      (unitAt t u).state = .quiescing ∧ (unitAt t u).cmdBusy = true ∧ (unitAt t u).cmdSrc = srcCode w ∧
        (unitAt t u).inc = (unitAt s u).inc ∧
        ∀ d ∈ quiesceScope s.hw u, (unitAt s d).state = .run → (unitAt s d).cmdBusy = false →
          (unitAt t d).state = .quiescing ∧ (unitAt t d).cmdBusy = true) ∧
  (∀ u w inc s, ctlAccepted s u w inc .resume = true → (unitAt s u).state = .quiesced → calmUnits s = true →
    partsWf s = true → heldElse s u = false →
    Answers (.resume u w inc) s fun t =>
      (unitAt t u).state = .run ∧ cmdOver t u stOk ∧ (unitAt t u).cmdSrc = srcCode w ∧ (unitAt t u).inc = (unitAt s u).inc) ∧
  (∀ u w inc s, ctlAccepted s u w inc .resume = true → (unitAt s u).state = .quiesced → calmUnits s = true →
    partsWf s = true → heldElse s u = true →
    Answers (.resume u w inc) s fun t =>
      (unitAt t u).state = .quiesced ∧ (unitAt t u).cmdBusy = true ∧ (unitAt t u).cmd = some .resume ∧
        (unitAt t u).inc = (unitAt s u).inc) ∧
  (∀ u w inc s, ctlAccepted s u w inc .resume = true → (unitAt s u).state = .sleep →
    Answers (.resume u w inc) s fun t =>
      (unitAt t u).state = .sleep ∧ (unitAt t u).cmdBusy = true ∧ (unitAt t u).cmd = some .resume ∧
        (unitAt t u).inc = (unitAt s u).inc ∧ unitsKept s t u ∧ onlyUnits s t) ∧
  (∀ u w inc s, ctlAccepted s u w inc .reset = true → ownedRunning s u = false →
    ((unitAt s u).state = .off ∨ (unitAt s u).state = .sleep ∨ (unitAt s u).state = .run ∨ (unitAt s u).state = .quiesced) →
    Answers (.reset u w inc) s fun t =>
      enteredReset s t u ∧ (unitAt t u).cmdBusy = true ∧ (unitAt t u).cmdSrc = srcCode w ∧
        ∀ d ∈ below s u, (unitAt s d).state ≠ .retired → (unitAt s d).cmdBusy = false → enteredReset s t d) ∧
  (∀ u w inc s, ctlAccepted s u w inc .sleep = true → ownedRunning s u = false → (unitAt s u).state = .quiesced →
    calmUnits s = true → idleBelow s u = true →
    Answers (.sleep u w inc) s fun t =>
      (unitAt t u).state = .sleep ∧ cmdOver t u stOk ∧ (unitAt t u).inc = (unitAt s u).inc ∧
        ∀ d ∈ below s u, (unitAt s d).state = .quiesced → (unitAt t d).state = .sleep) ∧
  (∀ u d w inc s, ctlAccepted s u w inc .sleep = true → ownedRunning s u = false → (unitAt s u).state = .quiesced →
    d ∈ below s u → ownBusy s u d = true →
    Answers (.sleep u w inc) s fun t =>
      (unitAt t u).state = .quiesced ∧ (unitAt t u).cmdBusy = true ∧ (unitAt t u).inc = (unitAt s u).inc ∧
        (unitAt t d).waiting.contains (pageOf u, .sleep) = true) ∧
  (∀ u w inc s, ctlAccepted s u w inc .retire = true → ownedRunning s u = false →
    ((unitAt s u).state = .off ∨ (unitAt s u).state = .sleep ∨ (unitAt s u).state = .quiesced) →
    calmUnits s = true → idleBelow s u = true →
    Answers (.retire u w inc) s fun t =>
      (unitAt t u).state = .retired ∧ cmdOver t u stOk ∧ (unitAt t u).inc = (unitAt s u).inc ∧
        ∀ d ∈ below s u, (unitAt t d).state = .retired) ∧
  (∀ u d w inc s, ctlAccepted s u w inc .retire = true → ownedRunning s u = false →
    ((unitAt s u).state = .off ∨ (unitAt s u).state = .sleep ∨ (unitAt s u).state = .quiesced) →
    d ∈ below s u → ownBusy s u d = true →
    Answers (.retire u w inc) s fun t =>
      (unitAt t u).state = (unitAt s u).state ∧ (unitAt t u).cmdBusy = true ∧ (unitAt t u).inc = (unitAt s u).inc ∧
        (unitAt t d).waiting.contains (pageOf u, .retire) = true) ∧
  (∀ u w inc s, ctlAccepted s u w inc .retire = true → ownedRunning s u = false → (unitAt s u).state = .run →
    Answers (.retire u w inc) s fun t =>
      (unitAt t u).state = .quiescing ∧ (unitAt t u).cmdBusy = true ∧ (unitAt t u).cmd = some .retire)

/-- How the actions of unit commands end, and a unit's own reset (R30, R34, R36, R38, R43, R45, R49). -/
def Obligations.UnitReports : Prop :=
  (∀ u s, (unitAt s u).state = .quiescing → drained s u = true → descendantsQuiet s u = true → notInRun s u = true →
    (unitAt s u).cmd = some .quiesce → (unitAt s u).waiting = [] →
    Answers (.unitQuiesced u) s fun t =>
      (unitAt t u).state = .quiesced ∧ (unitAt t u).cmdBusy = false ∧ (unitAt t u).inc = (unitAt s u).inc ∧
        ((unitAt s u).cmdBusy = true → (unitAt s u).root = pageOf u → (unitAt t u).cmdStatus = stOk)) ∧
  (∀ u s, (unitAt s u).state = .quiescing → drained s u = true → descendantsQuiet s u = true → notInRun s u = true →
    (unitAt s u).cmd = some .retire → (unitAt s u).root = pageOf u → calmUnits s = true → idleBelow s u = true →
    Answers (.unitQuiesced u) s fun t => (unitAt t u).state = .retired ∧ cmdOver t u stOk) ∧
  (∀ n s p r, partOf s n = some p → p.run = some r → r.stop = none → p.bar = none → Ignores (.unitQuiesced (.tile n)) s) ∧
  (∀ n s p r, (unitAt s (.tile n)).state = .quiescing → drained s (.tile n) = true → partsWf s = true → partOf s n = some p →
    p.run = some r → r.stop = none → p.bar.isSome = true → p.preparing = false → substDue s p = false → partDrained s p = true →
    calmUnits s = true → (∀ v ∈ partTiles p, (unitAt s (.tile v)).cmd ≠ some .retire) →
    Answers (.unitQuiesced (.tile n)) s fun t =>
      ∀ v ∈ partTiles p, ((unitAt s (.tile v)).state = .run ∨ (unitAt s (.tile v)).state = .quiescing) →
        (unitAt t (.tile v)).state = .quiesced) ∧
  (∀ u s, (unitAt s u).state = .resetting → (unitAt s u).root = pageOf u → (unitAt s u).cmdBusy = true →
    calmUnits s = true →
    Answers (.resetDone u) s fun t =>
      (unitAt t u).state = .run ∧ cmdOver t u stOk ∧ (unitAt t u).inc = (unitAt s u).inc) ∧
  (∀ c s, (unitAt s (.spare c)).state = .resetting → (unitAt s (.spare c)).root ≠ pageOf (.spare c) →
    (unitAt s (.spare c)).waiting = [] →
    Answers (.resetDone (.spare c)) s fun t => (unitAt t (.spare c)).state = .off ∧ (unitAt t (.spare c)).cmdBusy = false) ∧
  (∀ u s, (unitAt s u).state = .sleep → (unitAt s u).cmd = some .resume → (unitAt s u).root = pageOf u →
    parentWakes s u = false → calmUnits s = true →
    Answers (.wakeDone u) s fun t => (unitAt t u).state = .run ∧ cmdOver t u stOk) ∧
  (∀ u s, (unitAt s u).state = .sleep → (unitAt s u).cmd = some .resume → (unitAt s u).root ≠ pageOf u →
    parentWakes s u = false → (unitAt s u).waiting = [] →
    Answers (.wakeDone u) s fun t => (unitAt t u).state = .run ∧ (unitAt t u).cmdBusy = false) ∧
  (∀ u s, (unitAt s u).state = .sleep → parentWakes s u = true → Ignores (.wakeDone u) s) ∧
  (∀ u s, present s.hw u = true → isService u = false → (unitAt s u).state ≠ .off → (unitAt s u).state ≠ .retired →
    calmUnits s = true →
    Answers (.fatalInternalError u) s fun t =>
      enteredReset s t u ∧ (unitAt t u).cmdSrc = (unitAt s u).cmdSrc ∧
        ((unitAt s u).cmdBusy = true → cmdOver t u stReset)) ∧
  (∀ u s, (unitAt s u).state = .quiescing → (unitAt s u).root = pageOf u → (unitAt s u).cmdBusy = true → calmUnits s = true →
    Answers (.quiesceDrainLimit u) s fun t =>
      (unitAt t u).state = .run ∧ cmdOver t u stQscTimeout ∧ (unitAt t u).inc = (unitAt s u).inc)

/-- Writes of a unit's event and error registers (R22, R23, R26). -/
def Obligations.UnitEventRegisters : Prop :=
  (∀ u w v s, ctlReaches s u w = true → pageWritable u = true →
    Answers (.unitEvtWrite u w false v) s fun t =>
      unitAt t u = { unitAt s u with evt := (unitAt s u).evt &&& ~~~(v &&& evtW1c u) } ∧ unitsKept s t u ∧ onlyUnits s t) ∧
  (∀ u w v s, ctlReaches s u w = true → pageWritable u = true →
    Answers (.unitEvtWrite u w true v) s fun t =>
      unitAt t u = { unitAt s u with evtEn := v &&& evtEnRw u } ∧ unitsKept s t u ∧ onlyUnits s t) ∧
  (∀ u w en v s, ctlReaches s u w = false ∨ pageWritable u = false → Ignores (.unitEvtWrite u w en v) s) ∧
  (∀ u w s, ctlReaches s u w = false ∨ pageWritable u = false → Ignores (.errlogClear u w) s) ∧
  (∀ u w s, ctlReaches s u w = true → pageWritable u = true →
    Answers (.errlogClear u w) s fun t =>
      unitAt t u = { unitAt s u with err0 := 0, err1 := 0, err2 := 0, err3 := 0 } ∧ unitsKept s t u ∧
        t = { s with un := { s.un with tab := t.un.tab } })

/-- A target decides an arriving request by the first rule that applies (R16, R41, R42, R44, R50). -/
def Obligations.RequestsDecided : Prop :=
  (∀ r s st, reqReaches s r = true → joinedTo s r.txn r.tgt = false → reqRefusal s r = some st →
    Answers (.requestArrival r) s fun t =>
      t.un.replies = s.un.replies ++ [replyOf s r st []] ∧ onlyRequests s t ∧ t.un.accepted = s.un.accepted ∧
        t.un.staleReq = (if st = stStale then satInc s.un.staleReq else s.un.staleReq)) ∧
  (∀ r s, reqReaches s r = true → reqRefusal s r = none → r.op = .message →
    Answers (.requestArrival r) s fun t =>
      t.un.replies = s.un.replies ++ [replyOf s r stOk []] ∧ onlyRequests s t ∧ t.un.staleReq = s.un.staleReq) ∧
  (∀ r s, reqReaches s r = true → reqRefusal s r = none → reqWaits (taken s r) r = false →
    Answers (.requestArrival r) s fun t =>
      t.un.replies = (reqPerform (taken s r) r).1.un.replies ++
        [replyOf (reqPerform (taken s r) r).1 r (reqPerform (taken s r) r).2.1 (reqPerform (taken s r) r).2.2] ∧
      t.mm = (reqPerform (taken s r) r).1.mm) ∧
  (∀ r s, reqReaches s r = true → reqRefusal s r = none → reqWaits (taken s r) r = true →
    Answers (.requestArrival r) s fun t =>
      t.un.accepted = (taken s r).un.accepted ++ [r] ∧ t.un.replies = s.un.replies ∧ t.mm = s.mm ∧ onlyRequests s t) ∧
  (∀ r s, present s.hw r.src = true → present s.hw r.tgt = true → reqAccepted s r = false → requestSent s r = true →
    joined s r.src r.tgt = false → r.reqInc = (unitAt s r.src).inc.toNat → outFind s (pageOf r.src) r.tag = none →
    Answers (.requestArrival r) s fun t =>
      (∃ o, t.un.outst = s.un.outst ++ [o] ∧ o.src = pageOf r.src ∧ o.tag = r.tag ∧ o.tgt = pageOf r.tgt ∧ o.arrived = false) ∧
        t = { s with un := { s.un with outst := t.un.outst } })

/-- How an outstanding request ends: replies, reissue and timeouts (R44, R46, R49, R322). -/
def Obligations.RequestsEnd : Prop :=
  (∀ u tag tgt y o s, y ∈ s.un.replies → y.src = pageOf u → y.tag = tag → y.reqInc = (unitAt s u).inc → y.tgt = pageOf tgt →
    joined s u tgt = true → outFind s (pageOf u) tag = some o → o.txn = none →
    Answers (.replyArrival u tag y.reqInc y.rspInc tgt y.status none) s fun t =>
      t.un.outst = (if reissued y.status then
          s.un.outst.map (fun q => if q.src = pageOf u && q.tag = tag then { q with waiting := true } else q)
        else otherTags s u tag) ∧
      (reissued y.status = false → mapFind t.un.cpl (pageOf u + 4096 * tag) = some y.status) ∧
      mapFind t.un.incTab (pageOf u * 65536 + o.tgt) = some y.rspInc ∧ t.un.replies.length + 1 = s.un.replies.length ∧
      t = { s with un := { s.un with outst := t.un.outst, incTab := t.un.incTab, replies := t.un.replies, cpl := t.un.cpl } }) ∧
  (∀ u tag tgt y s, y ∈ s.un.replies → y.src = pageOf u → y.tag = tag → y.tgt = pageOf tgt → joined s u tgt = true →
    (outFind s (pageOf u) tag = none ∨ y.reqInc ≠ (unitAt s u).inc) →
    Answers (.replyArrival u tag y.reqInc y.rspInc tgt y.status none) s fun t =>
      t.un.staleRep = satInc s.un.staleRep ∧ unitAt t u = { unitAt s u with evt := (unitAt s u).evt ||| 32 } ∧
        t.un.outst = s.un.outst ∧ t.un.incTab = s.un.incTab ∧ unitsKept s t u ∧ onlyUnits s t) ∧
  (∀ u tag reqInc rspInc tgt status k s, (funcAt s k).finc ≠ reqInc →
    Answers (.replyArrival u tag reqInc rspInc tgt status (some k)) s fun t =>
      (hportAt t (funcPort k)).staleCpl = satInc (hportAt s (funcPort k)).staleCpl ∧ t.un.staleRep = satInc s.un.staleRep ∧
        (unitAt t (.hport (funcPort k))).evt = (unitAt s (.hport (funcPort k))).evt ||| 32 ∧ onlyUnits s t) ∧
  (∀ u tag o s, outFind s (pageOf u) tag = some o → o.waiting = true → tag < 65536 →
    Answers (.requestReissue u tag) s fun t =>
      (∃ q, outFind t (pageOf u) tag = some q ∧ q.waiting = false ∧ q.tries = min 7 (o.tries + 1) ∧
        q.tgtInc = mapGet 0 s.un.incTab (pageOf u * 65536 + o.tgt) ∧ q.reqInc = o.reqInc ∧ q.tgt = o.tgt) ∧
      t = { s with un := { s.un with outst := t.un.outst } }) ∧
  (∀ u tag o tgt s, outFind s (pageOf u) tag = some o → o.soft = false → unitOfPage o.tgt = some tgt →
    (unitAt s u).err3.getLsbD 31 = false →
    Answers (.requestSoftTimeout u tag) s fun t =>
      (unitAt t u).err0.toNat % 256 = stReqTimeout ∧ (unitAt t u).err0.toNat / 256 % 256 = 0 ∧
        (unitAt t u).err1 = BitVec.ofNat 32 (unitIdReg tgt) ∧ (unitAt t u).evt = (unitAt s u).evt ||| 8 ∧
        (∃ q, outFind t (pageOf u) tag = some q ∧ q.soft = true ∧ q.tgt = o.tgt) ∧ unitsKept s t u ∧ onlyUnits s t) ∧
  (∀ u tag o s, outFind s (pageOf u) tag = some o → o.soft = true →
    Answers (.requestHardTimeout u tag) s fun t =>
      t = { s with un := { s.un with outst := otherTags s u tag, cpl := mapSet s.un.cpl (pageOf u + 4096 * tag) stReqTimeout } })

/-- Enrolment, PREPARE, ABORT and DECISION queries at a member (R16, R41, R45, R50, R51, R52, R53, R188). -/
def Obligations.TransactionMembers : Prop :=
  (∀ tid u inc x s, mapFind s.un.txns tid = some x → txnLive x = true → memberOf s tid u = some .invited →
    msgHeld s x u = false → takesMessage s u inc false = true →
    Answers (.txnEnrol tid u inc) s fun t => memberOf t tid u = some .enrolled ∧ onlyTxn s t tid) ∧
  (∀ tid u inc x s, mapFind s.un.txns tid = some x → txnLive x = true → memberOf s tid u = some .invited →
    msgHeld s x u = false → abortable s x = true → (unitAt s u).state = .quiescing → inc = (unitAt s u).inc →
    Answers (.txnEnrol tid u inc) s fun t => txnAborted s t tid 3) ∧
  (∀ tid u inc x s, mapFind s.un.txns tid = some x → x.phase = .preparing → memberOf s tid u = some .enrolled →
    msgHeld s x u = false → takesMessage s u inc true = true →
    Answers (.txnPrepare tid u inc) s fun t =>
      memberOf t tid u = some (if prepareGate s x u = 0 then .prepared else .refused) ∧ onlyTxn s t tid) ∧
  (∀ tid u inc x s, mapFind s.un.txns tid = some x → x.phase = .preparing → memberOf s tid u = some .enrolled →
    msgHeld s x u = false → abortable s x = true → (unitAt s u).state = .run → inc ≠ (unitAt s u).inc →
    Answers (.txnPrepare tid u inc) s fun t =>
      txnAborted s t tid 2 ∧ (x.kind ≠ 2 → t.un.staleReq = satInc s.un.staleReq)) ∧
  (∀ tid u inc x s, mapFind s.un.txns tid = some x → msgHeld s x u = true →
    Ignores (.txnEnrol tid u inc) s ∧ Ignores (.txnPrepare tid u inc) s) ∧
  (∀ tid u x m s, mapFind s.un.txns tid = some x → x.phase = .aborted → memberOf s tid u = some m → m ≠ .discarded →
    abortHeld s x u = false →
    Answers (.txnAbort tid u) s fun t =>
      (memberOf t tid u = some .discarded ∨ mapFind t.un.txns tid = none) ∧
        (∀ o ∈ t.un.outst, ¬ (o.src = pageOf u ∧ o.txn = some tid)) ∧
        t = { s with un := { s.un with txns := t.un.txns, outst := t.un.outst, cpl := t.un.cpl, staleReq := t.un.staleReq } }) ∧
  (∀ tid u x s, mapFind s.un.txns tid = some x → abortHeld s x u = true → Ignores (.txnAbort tid u) s) ∧
  (∀ tid u x s, mapFind s.un.txns tid = some x → x.queries.contains (pageOf u) = true → msgRoute s x u = true →
    abortable s x = true → x.record = true → x.kind ≠ 3 → memberOf s tid u = some .counted →
    Answers (.decisionQuery tid u) s fun t => memberOf t tid u = some .applied) ∧
  (∀ tid u x s, mapFind s.un.txns tid = some x → x.queries.contains (pageOf u) = true → msgRoute s x u = true →
    abortable s x = true → x.record = false → x.phase = .preparing → (memberOf s tid u).isSome = true →
    Answers (.decisionQuery tid u) s fun t =>
      (memberOf t tid u = some .discarded ∨ mapFind t.un.txns tid = none) ∧ t.un.abortCnt = satInc s.un.abortCnt ∧
        t.un.lastAbort.toNat % 16 = 7) ∧
  (∀ tid u x s, mapFind s.un.txns tid = some x → abortable s x = false → Ignores (.decisionQuery tid u) s)

/-- Votes, the commit point, COMMIT, acknowledgements and the transaction timers (R44, R51, R52, R53, R54, R57, R185, R188, R189). -/
def Obligations.TransactionDecision : Prop :=
  (∀ tid u x s, mapFind s.un.txns tid = some x → x.phase = .preparing → memberOf s tid u = some .prepared →
    msgRoute s x u = true → coordTakes s x = true → (othersCounted x u = false ∨ x.kind = 2) →
    Answers (.txnVote tid u) s fun t => memberOf t tid u = some .counted ∧ onlyTxn s t tid) ∧
  (∀ tid u x s, mapFind s.un.txns tid = some x → x.phase = .preparing →
    (memberOf s tid u = some .prepared ∨ memberOf s tid u = some .refused) →
    msgRoute s x u = true → coordTakes s x = false →
    Answers (.txnVote tid u) s fun t =>
      (∃ c, unitOfPage x.coord = some c ∧ mapFind t.un.txns tid = some { x with msgInc := (unitAt s c).inc }) ∧
        t.un.staleRep = satInc s.un.staleRep ∧ onlyUnits s t) ∧
  (∀ tid u x p s, mapFind s.un.txns tid = some x → x.phase = .preparing → memberOf s tid u = some .prepared →
    msgRoute s x u = true → coordTakes s x = true →
    othersCounted x u = true → x.kind = 1 → partsWf s = true → partOf s x.key = some p → coordGate p = 0 →
    x.merged = true → (p.groupEn = false ∨ p.catchUp = true) →
    Answers (.txnVote tid u) s fun t =>
      (∃ y, mapFind t.un.txns tid = some y ∧ y.phase = .committed ∧ y.record = true) ∧
      (∃ q, partOf t x.key = some q ∧ q.step = p.step + 1 ∧ q.opened = false ∧ q.preparing = false ∧
        q.outcome = stOk ∧ q.lastOutcome = stOk ∧ q.lastCause = 0 ∧ q.lastValid = true ∧
        q.commitCnt = satInc p.commitCnt ∧ q.abortCnt = p.abortCnt) ∧
      t.un.commitCnt = satInc s.un.commitCnt) ∧
  (∀ tid u x p s, mapFind s.un.txns tid = some x → x.phase = .preparing → memberOf s tid u = some .prepared →
    msgRoute s x u = true → coordTakes s x = true →
    othersCounted x u = true → x.kind = 1 → partsWf s = true → partOf s x.key = some p → coordGate p ≠ 0 →
    Answers (.txnVote tid u) s fun t =>
      txnAborted s t tid 5 ∧ ∃ q, partOf t x.key = some q ∧ q.step = p.step ∧ q.opened = false ∧
        q.lastOutcome = stTxnAborted ∧ q.lastCause = 5 ∧ q.abortCnt = satInc p.abortCnt) ∧
  (∀ tid u x s, mapFind s.un.txns tid = some x → x.phase = .preparing → memberOf s tid u = some .refused →
    msgRoute s x u = true → coordTakes s x = true →
    Answers (.txnVote tid u) s fun t => txnAborted s t tid 5) ∧
  (∀ tid u x s, mapFind s.un.txns tid = some x → x.phase = .committed → memberOf s tid u = some .counted → x.kind ≠ 3 →
    msgHeld s x u = false → takesMessage s u (memberInc x (pageOf u)) true = true →
    Answers (.txnCommit tid u) s fun t =>
      memberOf t tid u = some .applied ∧
        ∀ n p, u = .tile n → x.kind = 1 → partOf s x.key = some p → (tileAt t n).stepCopy = p.step) ∧
  (∀ tid u x s, mapFind s.un.txns tid = some x → x.phase = .committed → memberOf s tid u = some .counted → x.kind ≠ 3 →
    msgHeld s x u = false → ((unitAt s u).state = .off ∨ (unitAt s u).state = .retired) →
    Answers (.txnCommit tid u) s fun t => ackedOrClosed t tid x u ∧ t = { s with un := { s.un with txns := t.un.txns } }) ∧
  (∀ tid u x s, mapFind s.un.txns tid = some x → x.phase = .committed → memberOf s tid u = some .applied → x.kind ≠ 3 →
    msgRoute s x u = true → coordTakes s x = true →
    Answers (.txnAck tid u) s fun t => ackedOrClosed t tid x u ∧ t = { s with un := { s.un with txns := t.un.txns } }) ∧
  (∀ tid x s, mapFind s.un.txns tid = some x → x.phase = .preparing → x.kind ≠ 4 →
    (∀ p, x.kind = 1 → partOf s x.key = some p → p.prep = none) →
    Answers (.transactionTimeout (.coord tid)) s fun t => txnAborted s t tid 7) ∧
  (∀ tid u x s, mapFind s.un.txns tid = some x → (memberOf s tid u = some .prepared ∨ memberOf s tid u = some .counted) →
    x.queries.contains (pageOf u) = false →
    Answers (.transactionTimeout (.member tid u)) s fun t =>
      mapFind t.un.txns tid = some { x with queries := x.queries ++ [pageOf u] } ∧ onlyTxn s t tid) ∧
  (∀ c tid s, (substAt s c).phase = .armed → substLive s c tid = true →
    Answers (.transactionTimeout (.subst c)) s fun t =>
      txnAborted s t tid 7 ∧ (substAt t c).phase = .idle ∧ (substAt t c).status = stTxnAborted)

/-- Live activation: opening, the commit point, switching a unit, retries and the management watchdog (R410, R420, R422, R423, R424, R425). -/
def Obligations.Activation : Prop :=
  (∀ s tid, s.fw.phase = 1 → emerg s = false → tidFree s = some tid →
    Answers .actHoldoff s fun t => t.fw.phase = 2 ∧ t.fw.tid = some tid ∧
      ∃ x, mapFind t.un.txns tid = some x ∧ x.kind = 3 ∧ x.phase = .preparing ∧ x.coord = pageOf (.iodie 0)) ∧
  (∀ s, s.fw.phase = 4 → emerg s = false →
    Answers .actHoldoff s fun t => t = { s with fw := { s.fw with phase := 3 } }) ∧
  (∀ s, emerg s = true → Ignores .actHoldoff s) ∧
  (∀ tid u x s, mapFind s.un.txns tid = some x → x.phase = .preparing → memberOf s tid u = some .prepared →
    msgRoute s x u = true → coordTakes s x = true → othersCounted x u = true → x.kind = 3 → actChecks s s.fw.nextMgmt = true →
    Answers (.txnVote tid u) s fun t =>
      t.fw.phase = 3 ∧ t.fw.hdrSeq = s.fw.hdrSeq + 1 ∧
        t.fw.secSlot = (if bitOf s.fw.kinds 0 then !s.fw.secSlot else s.fw.secSlot) ∧
        t.fw.mgmtSlot = (if bitOf s.fw.kinds 1 then !s.fw.mgmtSlot else s.fw.mgmtSlot) ∧
        t.fw.left = (actOrder s.hw).map pageOf ∧ t.un.commitCnt = satInc s.un.commitCnt ∧
        ∃ y, mapFind t.un.txns tid = some y ∧ y.phase = .committed ∧ y.record = true) ∧
  (∀ tid u x s, mapFind s.un.txns tid = some x → x.phase = .preparing → memberOf s tid u = some .prepared →
    msgRoute s x u = true → coordTakes s x = true → othersCounted x u = true → x.kind = 3 → actChecks s s.fw.nextMgmt = false →
    Answers (.txnVote tid u) s fun t => txnAborted s t tid 5 ∧ t.fw.result = stVersion ∧ t.fw.phase = 0) ∧
  (∀ tid u x s, mapFind s.un.txns tid = some x → x.phase = .committed → memberOf s tid u = some .counted → x.kind = 3 →
    msgHeld s x u = false → takesSilently s u = true →
    Answers (.txnCommit tid u) s fun t =>
      memberOf t tid u = some .applied ∧ t.fw.left.contains (pageOf u) = false ∧ unitAt t u = unitAt s u) ∧
  (∀ tid u x s, mapFind s.un.txns tid = some x → x.phase = .committed → memberOf s tid u = some .counted → x.kind = 3 →
    msgHeld s x u = false → (unitAt s u).state = .quiesced → (unitAt s u).cmdBusy = false → switchesByReset s u = false → s.fw.phase = 3 →
    s.fw.cur = none → ((actSkip s (some x) s.fw.left).filter (fun p => !(s.fw.again.contains p))).head? = some (pageOf u) →
    Answers (.txnCommit tid u) s fun t =>
      memberOf t tid u = some .applied ∧ t.fw.left.contains (pageOf u) = false ∧ unitAt t u = unitAt s u) ∧
  (∀ u s, s.fw.phase = 3 → actNext s = none → s.fw.again.contains (pageOf u) = true →
    Answers (.actRetry u) s fun t =>
      t = { s with fw := { s.fw with again := s.fw.again.filter (fun p => p ≠ pageOf u) } }) ∧
  (∀ fresh s, (s.fw.mgmt = 1 ∨ s.fw.mgmt = 2) → (fresh = true ∨ s.fw.restarts < 3) →
    Answers (.mgmtWatchdog false fresh) s fun t =>
      t.fw.mgmt = 2 ∧ t.fw.restarts = (if fresh then 1 else s.fw.restarts + 1) ∧
        (unitAt t (.service 3)).evt = (unitAt s (.service 3)).evt ||| 0x40000 ∧
        t = { s with fw := t.fw, un := t.un, rg := t.rg }) ∧
  (∀ s, (s.fw.mgmt = 1 ∨ s.fw.mgmt = 2) → 3 ≤ s.fw.restarts →
    Answers (.mgmtWatchdog false false) s fun t => t.fw.mgmt = 3 ∧ t.pn.alert = true) ∧
  (∀ fresh s, s.fw.mgmt = 2 → (s.fw.phase < 3 ∨ s.fw.nextMgmt = none) →
    Answers (.mgmtWatchdog true fresh) s fun t => t = { s with fw := { s.fw with mgmt := 1 } }) ∧
  (∀ fresh s, s.fw.mgmt = 2 → 3 ≤ s.fw.phase → s.fw.nextMgmt.isSome = true → s.fw.runMgmt ≠ s.fw.nextMgmt →
    Answers (.mgmtWatchdog true fresh) s fun t =>
      t = { s with fw := { s.fw with mgmt := 1, runMgmt := s.fw.nextMgmt, prevMgmt := s.fw.runMgmt } })

/-- Spare substitution: GO, cancellation, the live copy, its commit and the clearing (R12, R51, R55, R56, R57, R58, R59). -/
def Obligations.Substitution : Prop :=
  (∀ c w ltile ret tid s, c < 32 → (w = .mgmt ∨ w = .sec) → blockLive s (.cluster c) = true →
    substRefusal s c ltile 1 = none → tidFree s = some tid →
    Answers (.substGo c w ltile 1 ret) s fun t =>
      (substAt t c).phase = .armed ∧ (substAt t c).ltile = ltile % 16 ∧ (substAt t c).tid = some tid ∧
        (substAt t c).oldSlot = physAt s (.tile (substLTile c ltile)) ∧
        (∃ x, mapFind t.un.txns tid = some x ∧ x.kind = 2 ∧ x.coord = pageOf (.cluster c) ∧
          x.members.map TxnMember.page = (substMembers s c ltile).map pageOf) ∧
        t = { s with un := t.un }) ∧
  (∀ c w ltile ret tid s, c < 32 → (w = .mgmt ∨ w = .sec) → blockLive s (.cluster c) = true →
    substRefusal s c ltile 2 = none → tidFree s = some tid →
    Answers (.substGo c w ltile 2 ret) s fun t =>
      (substAt t c).phase = .moving ∧ (substAt t c).tid = none ∧ t.un.commitCnt = satInc s.un.commitCnt ∧
        physAt t (.tile (substLTile c ltile)) = physAt s (.spare c) ∧
        physAt t (.spare c) = physAt s (.tile (substLTile c ltile)) ∧
        enteredReset s t (.tile (substLTile c ltile))) ∧
  (∀ c w ltile mode ret st s, c < 32 → (w = .mgmt ∨ w = .sec) → blockLive s (.cluster c) = true →
    substRefusal s c ltile mode = some st →
    Answers (.substGo c w ltile mode ret) s fun t =>
      substAt t c = { substAt s c with status := st, opening := false } ∧
        t = { s with un := { s.un with subst := t.un.subst, substCtl := t.un.substCtl, outst := t.un.outst } }) ∧
  (∀ c w ltile mode ret s, (w ≠ .mgmt ∧ w ≠ .sec) ∨ blockLive s (.cluster c) = false →
    Ignores (.substGo c w ltile mode ret) s) ∧
  (∀ c w tid s, c < 32 → (w = .mgmt ∨ w = .sec) → ((substAt s c).phase = .armed ∨ (substAt s c).phase = .moving) →
    substLive s c tid = true →
    Answers (.substCancel c w) s fun t =>
      txnAborted s t tid 6 ∧ (substAt t c).phase = .idle ∧ (substAt t c).status = stTxnAborted ∧ (substAt t c).tid = none ∧
        (unitAt t (.cluster c)).evt = (unitAt s (.cluster c)).evt ||| 0x10000) ∧
  (∀ c p s, (substAt s c).phase = .armed → partOf s (substLTile c (substAt s c).ltile) = some p → p.bar.isSome = true →
    p.preparing = false → substVoted s (substAt s c).tid = true → (tileAt s (substLTile c (substAt s c).ltile)).num.ue = [] →
    Answers (.liveSubstStart c) s fun t =>
      (substAt t c).phase = .moving ∧
        mapFind t.tl.tab (c * 17 + physAt s (.spare c)) = some (tileAt s (substLTile c (substAt s c).ltile)) ∧
        t = { s with un := { s.un with subst := t.un.subst }, tl := { s.tl with tab := t.tl.tab } }) ∧
  (∀ c p w r tid s, (substAt s c).phase = .armed → partOf s (substLTile c (substAt s c).ltile) = some p →
    p.bar.isSome = true → p.preparing = false → substVoted s (substAt s c).tid = true →
    (tileAt s (substLTile c (substAt s c).ltile)).num.ue = w :: r → substLive s c tid = true →
    Answers (.liveSubstStart c) s fun t => txnAborted s t tid 4 ∧ (substAt t c).phase = .idle) ∧
  (∀ c s, (substAt s c).phase = .armed → substVoted s (substAt s c).tid = false → Ignores (.liveSubstStart c) s) ∧
  (∀ c tid x s, (substAt s c).phase = .moving → (substAt s c).tid = some tid → mapFind s.un.txns tid = some x →
    Answers (.liveSubstCommit c true) s fun t =>
      (substAt t c).phase = .clearing ∧ t.un.commitCnt = satInc s.un.commitCnt ∧
        mapFind t.un.txns tid = some { x with phase := .committed, record := true } ∧
        unitAt t (.tile (substLTile c (substAt s c).ltile)) = unitAt s (.tile (substLTile c (substAt s c).ltile)) ∧
        physAt t (.tile (substLTile c (substAt s c).ltile)) = physAt s (.spare c) ∧
        physAt t (.spare c) = physAt s (.tile (substLTile c (substAt s c).ltile)) ∧ t = { s with un := t.un }) ∧
  (∀ c tid s, (substAt s c).phase = .moving → substLive s c tid = true →
    Answers (.liveSubstCommit c false) s fun t => txnAborted s t tid 4 ∧ (substAt t c).phase = .idle) ∧
  (∀ c s, (substAt s c).phase = .clearing →
    Answers (.substClearDone c) s fun t =>
      (substAt t c).phase = .idle ∧ (substAt t c).status = stOk ∧
        (unitAt t (.spare c)).state = (if (substAt s c).retireOld then .retired else .off) ∧
        (unitAt t (.cluster c)).evt = (unitAt s (.cluster c)).evt ||| 0x10000 ∧
        mapFind t.tl.tab (c * 17 + physAt s (.spare c)) = none) ∧
  (∀ c s, (substAt s c).phase = .moving → (substAt s c).tid = none →
    (unitAt s (.tile (substLTile c (substAt s c).ltile))).state = .resetting →
    (unitAt s (.tile (substLTile c (substAt s c).ltile))).waiting = [] →
    Answers (.substClearDone c) s fun t =>
      (substAt t c).phase = .idle ∧ (substAt t c).status = stOk ∧
        (unitAt t (.tile (substLTile c (substAt s c).ltile))).state = .run)

/-- Results and frame of the scalar operations that take effect with the next stroke (R135, R142). -/
def Obligations.ScalarOperations : Prop :=
  (∀ n dst sa imm s, writesS (.addi n dst sa imm true) n dst s (sVal s n sa + imm.signExtend 64)) ∧
  (∀ n dst sa sb s, writesS (.scalarAdd n dst sa sb true) n dst s (sVal s n sa + sVal s n sb)) ∧
  (∀ n dst sa sb s, writesS (.scalarSub n dst sa sb true) n dst s (sVal s n sa - sVal s n sb)) ∧
  (∀ n dst sa sb s, writesS (.sAnd n dst sa sb true) n dst s (sVal s n sa &&& sVal s n sb)) ∧
  (∀ n dst sa sb s, writesS (.sOr n dst sa sb true) n dst s (sVal s n sa ||| sVal s n sb)) ∧
  (∀ n dst sa sb s, writesS (.sXor n dst sa sb true) n dst s (sVal s n sa ^^^ sVal s n sb)) ∧
  (∀ n dst sa imm s, writesS (.shli n dst sa imm true) n dst s (sVal s n sa <<< (imm.toNat % 64))) ∧
  (∀ n dst sa imm s, writesS (.shri n dst sa imm true) n dst s (sVal s n sa >>> (imm.toNat % 64))) ∧
  (∀ n dst sa imm s, writesS (.srai n dst sa imm true) n dst s ((sVal s n sa).sshiftRight (imm.toNat % 64))) ∧
  (∀ n dst sa sb s, writesS (.scalarMin n dst sa sb true) n dst s
    (if (sVal s n sa).toInt ≤ (sVal s n sb).toInt then sVal s n sa else sVal s n sb)) ∧
  (∀ n dst sa sb s, writesS (.scalarMax n dst sa sb true) n dst s
    (if (sVal s n sa).toInt ≤ (sVal s n sb).toInt then sVal s n sb else sVal s n sa)) ∧
  (∀ n dst sa sb s, writesS (.sel n dst sa sb true) n dst s (if sVal s n sb ≠ 0 then sVal s n sa else sVal s n dst)) ∧
  (∀ n dst k imm s, k ≤ 4 → (tileAt s n).num.ue.contains (.sreg dst) = false →
    writesS (.li n dst k imm true) n dst s (liVal (sVal s n dst) k imm)) ∧
  (∀ n dst k imm s, slotReady s n [slSop] = true → k ≤ 4 → (tileAt s n).num.ue.contains (.sreg dst) = true →
    Answers (.li n dst k imm true) s fun t =>
      (tileAt t n).regs = (tileAt s n).regs ∧ (tileAt t n).num.sramUe = satInc (tileAt s n).num.sramUe) ∧
  (∀ n dst sa k s, k ≤ 5 → writesS (.xget n dst sa k true) n dst s ((xVal s n sa k).signExtend 64)) ∧
  (∀ (old : W64) (imm : BitVec 14) (k i : Nat), k < 4 → i < 64 →
    (liVal old k imm).getLsbD i = (if 14 * k ≤ i ∧ i < 14 * k + 14 then imm.getLsbD (i - 14 * k) else old.getLsbD i)) ∧
  (∀ (old : W64) (imm : BitVec 14) (i : Nat), i < 64 →
    (liVal old 4 imm).getLsbD i = (if 56 ≤ i then imm.getLsbD (i - 56) else old.getLsbD i))

/-- Results and frame of the index operations and TDBASE (R135, R142, R143). -/
def Obligations.IndexOperations : Prop :=
  (∀ n dst k sa s, writesLane (.xset n dst k sa true) n dst k s ((sVal s n sa).setWidth 32)) ∧
  (∀ n dst k imm s, writesLane (.xaddi n dst k imm true) n dst k s (xVal s n (dst % 16) k + imm.signExtend 32)) ∧
  (∀ n dst k sa s, writesLane (.xadd n dst k sa true) n dst k s (xVal s n (dst % 16) k + (sVal s n sa).setWidth 32)) ∧
  (∀ n dst sa s, slotReady s n [slSop] = true →
    Answers (.xcopy n dst sa true) s fun t =>
      (∀ k, k < 6 → xlane (tileAt t n).regs dst k = xVal s n sa k) ∧
      slotLeaves s t n [slSop] (fun x => (List.range 6).foldl (fun y k => withX dst k (xVal s n sa k) y) x)) ∧
  (∀ n td sreg second s, slotReady s n [slLda, slLdb, slXf] = true →
    (tileAt s n).num.ue.contains (.td (16 * td + (if second then 1 else 0))) = false →
    tdDue (tileAt s n) td = false →
    Answers (.tdbase n td sreg second true) s fun t =>
      tdreg (tileAt t n).regs td = tdbaseVal (tdreg (tileAt s n).regs td) second (sVal s n sreg) ∧
      slotLeaves s t n [slLda, slLdb, slXf] (withTd td (tdbaseVal (tdreg (tileAt s n).regs td) second (sVal s n sreg)))) ∧
  (∀ (old : BitVec 1024) (second : Bool) (v : W64) (i : Nat), i < 1024 →
    (tdbaseVal old second v).getLsbD i =
      (if basePos second ≤ i ∧ i < basePos second + 48 then v.getLsbD (i - basePos second) else old.getLsbD i))

/-- Operations of the scalar unit whose effects come later, and their address checks (R142, R143, R146, R153, R160). -/
def Obligations.LateOperations : Prop :=
  (∀ n dst sa sb s, sDue (tileAt s n) dst 3 = false →
    issuesDue (.scalarMul n dst sa sb true) n [slSop] 3 (.sreg dst (sVal s n sa * sVal s n sb)) s) ∧
  (∀ n dst sa imm hw s, spAddrOk (sVal s n sa + imm.signExtend 64 * 8) = true →
    issuesDue (.sld n dst sa imm hw true) n [slSop] 2 (.sld (sVal s n sa + imm.signExtend 64 * 8).toNat dst) s) ∧
  (∀ n sa sb imm hw s, spAddrOk (sVal s n sa + imm.signExtend 64 * 8) = true →
    issuesDue (.sst n sa sb imm hw true) n [slSop] 4 (.sst (sVal s n sa + imm.signExtend 64 * 8).toNat (sVal s n sb)) s) ∧
  (∀ n td sreg imm hw s, (sVal s n sreg).toNat + imm % 16384 * 64 + 128 ≤ 786432 →
    issuesDue (.tdload n td sreg imm hw true) n [slLda] 1 (.tdLo ((sVal s n sreg).toNat + imm % 16384 * 64) td) s) ∧
  (∀ n off sreg s, issuesDue (.cfg n off sreg true) n [slSy] 3 (.cfg off (sVal s n (sreg % 64))) s) ∧
  (∀ n dst sa imm hw more s, slotReady s n [slSop] = true → runsOn s n = true →
    spAddrOk (sVal s n sa + imm.signExtend 64 * 8) = false →
    Answers (.sld n dst sa imm hw more) s fun t => plateStopped t n) ∧
  (∀ n sa sb imm hw more s, slotReady s n [slSop] = true → runsOn s n = true →
    spAddrOk (sVal s n sa + imm.signExtend 64 * 8) = false →
    Answers (.sst n sa sb imm hw more) s fun t => plateStopped t n) ∧
  (∀ n td sreg imm hw more s, slotReady s n [slLda] = true → runsOn s n = true →
    786432 < (sVal s n sreg).toNat + imm % 16384 * 64 + 128 →
    Answers (.tdload n td sreg imm hw more) s fun t => plateStopped t n) ∧
  (∀ a : W64, spAddrOk a = true ↔ a.toNat % 8 = 0 ∧ a.toNat < 786432)

/-- When the late operations take effect (R142, R143, R153). -/
def Obligations.LateEffects : Prop :=
  (∀ (x : Tile) (seed i : Nat) (v : W64), x.flight = [] → x.plate.due = [{ left := 3, op := .sreg i v }] → 8 ≤ i → i < 64 →
    (tileCycles seed 2 x).1.regs = x.regs ∧ sreg (tileCycles seed 3 x).1.regs i = v) ∧
  (∀ (x : Tile) (seed a i : Nat), x.flight = [] → x.plate.due = [{ left := 2, op := .sld a i }] → 8 ≤ i → i < 64 → x.num.ue = [] →
    (tileCycles seed 5 x).1.regs = x.regs ∧ sreg (tileCycles seed 6 x).1.regs i = BitVec.ofNat 64 (readLe x.scratch a 8)) ∧
  (∀ (x : Tile) (seed a : Nat) (v : W64), x.flight = [] → x.plate.due = [{ left := 4, op := .sst a v }] → x.num.ue = [] →
    a % 8 = 0 →
    (tileCycles seed 3 x).1.scratch = x.scratch ∧ readLe (tileCycles seed 4 x).1.scratch a 8 = v.toNat ∧
      ∀ b, b < a ∨ a + 8 ≤ b → byteAt (tileCycles seed 4 x).1.scratch b = byteAt x.scratch b) ∧
  (∀ (x : Tile) (seed a i : Nat), x.flight = [] → x.plate.due = [{ left := 1, op := .tdLo a i }] → x.num.ue = [] →
    (tileCycles seed 3 x).1.regs = x.regs ∧ tdreg (tileCycles seed 4 x).1.regs i = BitVec.ofNat 1024 (readLe x.scratch a 128)) ∧
  (∀ (x : Tile) (seed off : Nat) (v : W64), x.flight = [] → x.plate.due = [{ left := 3, op := .cfg off v }] →
    (tileCycles seed 2 x).1.plate.waitCfg = x.plate.waitCfg ∧ (tileCycles seed 2 x).1.bat = x.bat ∧
    (tileCycles seed 2 x).1.str = x.str ∧
    (off = 0x12 → (tileCycles seed 3 x).1.plate.waitCfg = max 20 (min 40 (v.toNat % 64))) ∧
    (off = 0x58 → (tileCycles seed 3 x).1.bat.ctl = v.setWidth 32 &&& 0xFFF1FFFF) ∧
    (0xC0 ≤ off → off < 0xC8 → (strAt (tileCycles seed 3 x).1 (off - 0xC0)).cfg = v.setWidth 32 &&& 0xFF))

/-- The loop engine: LSTART, LSTART_S, CALL and RET, and the end of a stroke (R134, R135, R140, R156, R159, R160). -/
def Obligations.FlowOperations : Prop :=
  (∀ n count body s, flowReady s n = true → 1 ≤ count → (tileAt s n).plate.loops.length < 4 →
    loopBeyond (tileAt s n).plate ((tileAt s n).plate.pc + 1 + body) = false →
    (tileAt s n).plate.pc + 1 < nstrokesOf s n →
    Answers (.lstart n count body) s fun t => wentTo s t n ((tileAt s n).plate.pc + 1)
      ({ start := (tileAt s n).plate.pc + 1, fin := (tileAt s n).plate.pc + 1 + body, cnt := count, idx := 0,
         cdepth := (tileAt s n).plate.calls.length } :: (tileAt s n).plate.loops) (tileAt s n).plate.calls) ∧
  (∀ n sreg body s, flowReady s n = true → (sVal s n sreg).toNat % 2 ^ 32 ≠ 0 → (tileAt s n).plate.loops.length < 4 →
    loopBeyond (tileAt s n).plate ((tileAt s n).plate.pc + 1 + body) = false →
    (tileAt s n).plate.pc + 1 < nstrokesOf s n →
    Answers (.lstartS n sreg body) s fun t => wentTo s t n ((tileAt s n).plate.pc + 1)
      ({ start := (tileAt s n).plate.pc + 1, fin := (tileAt s n).plate.pc + 1 + body, cnt := (sVal s n sreg).toNat % 2 ^ 32,
         idx := 0, cdepth := (tileAt s n).plate.calls.length } :: (tileAt s n).plate.loops) (tileAt s n).plate.calls) ∧
  (∀ n sreg body s, flowReady s n = true → (sVal s n sreg).toNat % 2 ^ 32 = 0 →
    (closedTo (tileAt s n).plate (tileAt s n).plate.calls.length ((tileAt s n).plate.pc + 2 + body)).2 < nstrokesOf s n →
    Answers (.lstartS n sreg body) s fun t => wentTo s t n
      (closedTo (tileAt s n).plate (tileAt s n).plate.calls.length ((tileAt s n).plate.pc + 2 + body)).2
      (closedTo (tileAt s n).plate (tileAt s n).plate.calls.length ((tileAt s n).plate.pc + 2 + body)).1
      (tileAt s n).plate.calls) ∧
  (∀ n target s, flowReady s n = true → (tileAt s n).plate.calls.length < 4 →
    (closedTo (tileAt s n).plate ((tileAt s n).plate.calls.length + 1) target) = ((tileAt s n).plate.loops, target) →
    target < nstrokesOf s n →
    Answers (.call n target) s fun t => wentTo s t n target (tileAt s n).plate.loops
      (((tileAt s n).plate.pc + 1) :: (tileAt s n).plate.calls)) ∧
  (∀ n a r s, flowReady s n = true → (tileAt s n).plate.calls = a :: r → loopHere (tileAt s n).plate = false →
    (closedTo (tileAt s n).plate r.length a).2 < nstrokesOf s n →
    Answers (.ret n) s fun t => wentTo s t n (closedTo (tileAt s n).plate r.length a).2
      (closedTo (tileAt s n).plate r.length a).1 r) ∧
  (∀ n count body s, flowReady s n = true → runsOn s n = true → 1 ≤ count →
    (4 ≤ (tileAt s n).plate.loops.length ∨ loopBeyond (tileAt s n).plate ((tileAt s n).plate.pc + 1 + body) = true ∨
      nstrokesOf s n ≤ (tileAt s n).plate.pc + 1) →
    Answers (.lstart n count body) s fun t => plateStopped t n) ∧
  (∀ n target s, flowReady s n = true → runsOn s n = true → 4 ≤ (tileAt s n).plate.calls.length →
    Answers (.call n target) s fun t => plateStopped t n) ∧
  (∀ n s, flowReady s n = true → runsOn s n = true →
    ((tileAt s n).plate.calls = [] ∨ loopHere (tileAt s n).plate = true) →
    Answers (.ret n) s fun t => plateStopped t n) ∧
  (∀ n f g h, endsStroke (fun m => .wload n f m) n [slLdb] ∧ endsStroke (fun m => .stream n g m) n [slMx] ∧ endsStroke (fun m => .drain n h m) n [slMx]) ∧
  (∀ n f, endsStroke (fun m => .move n f m) n [slLda, slLdb, slXf] ∧ endsStroke (fun m => .prefetch n f m) n [slLda, slLdb, slXf]) ∧
  (∀ e ∈ vectorOps, ∀ n f, endsStroke (fun m => e.1 n f m) n [vxSlot f]) ∧
  (∀ n dst sa sb (imm : BitVec 14), endsStroke (fun m => .addi n dst sa imm m) n [slSop] ∧ endsStroke (fun m => .scalarAdd n dst sa sb m) n [slSop] ∧
    endsStroke (fun m => .scalarSub n dst sa sb m) n [slSop] ∧ endsStroke (fun m => .scalarMul n dst sa sb m) n [slSop] ∧
    endsStroke (fun m => .sAnd n dst sa sb m) n [slSop] ∧ endsStroke (fun m => .sOr n dst sa sb m) n [slSop] ∧
    endsStroke (fun m => .sXor n dst sa sb m) n [slSop] ∧ endsStroke (fun m => .shli n dst sa imm m) n [slSop] ∧
    endsStroke (fun m => .shri n dst sa imm m) n [slSop] ∧ endsStroke (fun m => .srai n dst sa imm m) n [slSop] ∧
    endsStroke (fun m => .scalarMin n dst sa sb m) n [slSop] ∧ endsStroke (fun m => .scalarMax n dst sa sb m) n [slSop] ∧
    endsStroke (fun m => .sel n dst sa sb m) n [slSop]) ∧
  (∀ n dst sa sb k td second (imm : BitVec 14) hw, endsStroke (fun m => .li n dst k imm m) n [slSop] ∧
    endsStroke (fun m => .sld n dst sa imm hw m) n [slSop] ∧ endsStroke (fun m => .sst n sa sb imm hw m) n [slSop] ∧
    endsStroke (fun m => .xset n dst k sa m) n [slSop] ∧ endsStroke (fun m => .xaddi n dst k imm m) n [slSop] ∧
    endsStroke (fun m => .xadd n dst k sa m) n [slSop] ∧ endsStroke (fun m => .xcopy n dst sa m) n [slSop] ∧
    endsStroke (fun m => .xget n dst sa k m) n [slSop] ∧ endsStroke (fun m => .tdload n td sa k hw m) n [slLda] ∧
    endsStroke (fun m => .tdbase n td sa second m) n [slLda, slLdb, slXf] ∧ endsStroke (fun m => .tokenDec n k td m) n [slSy] ∧
    endsStroke (fun m => .flagclr n k m) n [slSy] ∧ endsStroke (fun m => .cfg n k sa m) n [slSy]) ∧
  (∀ n s, (tileAt s n).plate.pstate = .issuing → (tileAt s n).plate.ending = false → (tileAt s n).plate.jump = none →
    (closedTo (tileAt s n).plate (tileAt s n).plate.calls.length ((tileAt s n).plate.pc + 1)).2 < nstrokesOf s n →
    wentTo s (endStroke s n .none') n
      (closedTo (tileAt s n).plate (tileAt s n).plate.calls.length ((tileAt s n).plate.pc + 1)).2
      (closedTo (tileAt s n).plate (tileAt s n).plate.calls.length ((tileAt s n).plate.pc + 1)).1 (tileAt s n).plate.calls) ∧
  (∀ n s, (tileAt s n).plate.pstate = .issuing → (tileAt s n).plate.ending = true →
    (tileAt (endStroke s n .none') n).plate.pstate = .stopped ∧
      (tileAt (endStroke s n .none') n).plate.issueCnt = satInc (tileAt s n).plate.issueCnt) ∧
  (∀ n f g h s, lostSlot (.wload n f true) n [slLdb] s ∧ lostSlot (.stream n g true) n [slMx] s ∧
    lostSlot (.drain n h true) n [slMx] s) ∧
  (∀ e ∈ vectorOps, ∀ n f s, lostSlot (e.1 n f true) n [vxSlot f] s) ∧
  (∀ n f m s, issuing s n = false ∨ slotFree (tileAt s n) [slLdb] = none → Ignores (.wload n f m) s) ∧
  (∀ n f m s, issuing s n = false ∨ slotFree (tileAt s n) [slMx] = none →
    Ignores (.stream n f m) s) ∧
  (∀ n f m s, issuing s n = false ∨ slotFree (tileAt s n) [slMx] = none → Ignores (.drain n f m) s) ∧
  (∀ n dst sa imm m s, issuing s n = false ∨ slotFree (tileAt s n) [slSop] = none → Ignores (.addi n dst sa imm m) s) ∧
  (∀ n f m s, issuing s n = false ∨ slotFree (tileAt s n) [slLda, slLdb, slXf] = none → Ignores (.move n f m) s)

/-- WAIT, COLL, TOKEN_DEC and FLAGCLR (R83, R146, R147, R148, R149, R150). -/
def Obligations.WaitsAndTokens : Prop :=
  (∀ n k u src v s, waitReady s n (waitSy k u src v) = true → waitHolds s n k u src v = true →
    Answers (.wait n k u src v true) s fun t =>
      (tileAt t n).plate.pstate = .issuing ∧ (tileAt t n).plate.inStroke = some (tileAt s n).regs ∧
        (tileAt t n).regs = (tileAt s n).regs ∧ (tileAt t n).scratch = (tileAt s n).scratch ∧ othersKept s t n) ∧
  (∀ n k u src v more s, waitReady s n (waitSy k u src v) = true → waitHolds s n k u src v = false →
    Answers (.wait n k u src v more) s fun t =>
      (tileAt t n).plate.pstate = .heldWait ∧ (tileAt t n).plate.held = BitVec.ofNat 32 (waitSy k u src v) ∧
        (tileAt t n).plate.holdCnt = satInc (tileAt s n).plate.holdCnt ∧ (tileAt t n).plate.pc = (tileAt s n).plate.pc ∧
        ((tileAt s n).flight = [] → (tileAt s n).plate.due = [] →
          tileAt t n = holdWait (tileAt s n) (waitSy k u src v)) ∧ othersKept s t n) ∧
  (∀ n u v s, waitHolds s n .idle u false v = pathIdle (strAt (tileAt s n) (u % 8)).path) ∧
  (∀ n u v s, waitHolds s n .token u false v = decide (v % 2 ^ 18 ≤ tokenAt (tileAt s n) (u % 32))) ∧
  (∀ n g sc r s, waitReady s n (8 + (g % 64) <<< 4 + (sc % 1024) <<< 10 + (r % 64) <<< 20) = true →
    (mapGet [] s.tl.lqueue (n / 16)).length < 16 → partsWf s = true → strokeLost (tileAt s n) = false →
    Answers (.coll n g sc r true) s fun t =>
      (∃ l, mapGet [] t.tl.lqueue (n / 16) = mapGet [] s.tl.lqueue (n / 16) ++ [l] ∧ l.tile = n ∧ l.group = g % 64 ∧
        l.sched = sc % 1024 ∧ l.arg = sVal s n (r % 64) ∧ l.step = (tileAt s n).stepCopy.toNat) ∧
      (tileAt t n).plate.pstate = .issuing ∧ (tileAt t n).regs = (tileAt s n).regs ∧
      ∀ p, partOf s n = some p → ∃ q, partOf t n = some q ∧ q.launched = p.launched + 1 ∧
        q.sinceOpen = (if p.opened then p.sinceOpen + 1 else p.sinceOpen)) ∧
  (∀ n g sc r more s, waitReady s n (8 + (g % 64) <<< 4 + (sc % 1024) <<< 10 + (r % 64) <<< 20) = true →
    16 ≤ (mapGet [] s.tl.lqueue (n / 16)).length →
    Answers (.coll n g sc r more) s fun t => (tileAt t n).plate.pstate = .heldWait ∧ othersKept s t n) ∧
  (∀ n k a s, slotReady s n [slSy] = true → k % 32 ≠ 31 →
    Answers (.tokenDec n k a true) s fun t =>
      tokenAt (tileAt t n) (k % 32) = tokenAt (tileAt s n) (k % 32) - a % 2 ^ 20 ∧
        slotLeaves s t n [slSy] (fun x => { x with regs := { x.regs with
          tok := mapSet x.regs.tok (k % 32) (BitVec.ofNat 20 ((mapGet 0 x.regs.tok (k % 32)).toNat - a % 2 ^ 20)) } })) ∧
  (∀ n a s, slotReady s n [slSy] = true → Answers (.tokenDec n 31 a true) s fun t => slotLeaves s t n [slSy] id) ∧
  (∀ n mask s, slotReady s n [slSy] = true →
    Answers (.flagclr n mask true) s fun t =>
      (tileAt t n).num = { (tileAt s n).num with nflags := (tileAt s n).num.nflags &&& ~~~(engMask mask) } ∧ slotLeaves s t n [slSy] id)

/-- Partition barriers: arrival, BARRIER, ABORT_STEP, STEP_OPEN, STEP_COMMIT and HALT (R140, R151, R152, R157, R158, R159, R186, R187, R189). -/
def Obligations.BarrierOperations : Prop :=
  (∀ n k bid sy p u s, arrives s n sy = true → partOf (tileSettle s n) n = some p → u ∈ partTiles p →
    tileKey s u ≠ tileKey s n → (tileAt (tileSettle s n) u).plate.arrived = none →
    Answers (.barrierArrive n k bid sy) s fun t =>
      (tileAt t n).plate.pstate = .heldBar ∧ (tileAt t n).plate.held = sy ∧
        (tileAt t n).plate.arrived = some (k, if k = .barrier then bid % 256 else 0) ∧ othersKept (tileSettle s n) t n) ∧
  (∀ n k bid sy p s, arrives s n sy = true → partsWf (tileSettle s n) = true → partOf (tileSettle s n) n = some p →
    physApart s = true →
    (∀ u ∈ partTiles p, u ≠ n → arrivalOf (tileAt (tileSettle s n) u) =
      ((tileAt (tileSettle s n) n).plate.pc, (tileAt (tileSettle s n) n).plate.bseq.toNat,
        some (k, if k = .barrier then bid % 256 else 0))) →
    Answers (.barrierArrive n k bid sy) s fun t =>
      ∃ q, partOf t n = some q ∧ q.bar = some (k, if k = .barrier then bid % 256 else 0) ∧
        (tileAt t n).plate.pstate = .heldBar) ∧
  (∀ n k bid sy p u s, arrives s n sy = true → runsOn (tileSettle s n) n = true → partOf (tileSettle s n) n = some p →
    physApart s = true →
    (∀ v ∈ partTiles p, v ≠ n → (tileAt (tileSettle s n) v).plate.arrived.isSome = true) → u ∈ partTiles p → u ≠ n →
    arrivalOf (tileAt (tileSettle s n) u) ≠
      ((tileAt (tileSettle s n) n).plate.pc, (tileAt (tileSettle s n) n).plate.bseq.toNat,
        some (k, if k = .barrier then bid % 256 else 0)) →
    Answers (.barrierArrive n k bid sy) s fun t => plateStopped t n) ∧
  (∀ n k bid sy s, mayArrive s n sy = false → Ignores (.barrierArrive n k bid sy) s) ∧
  (∀ n bid more p k s, barAt s n .barrier = some p → p.bar = some (k, bid % 256) → partsWf s = true → physApart s = true →
    (more = true ∨ barGoesOn s p = true) →
    Answers (.barrier n bid more) s fun t =>
      ∀ u, barMember s p u = true →
        barIssued s t u (barNext (tileAt s u).plate) more ∧ (tileAt t u).plate.bid = bid % 256 ∧
          (tileAt t u).regs = (tileAt s u).regs) ∧
  (∀ n bid p k u s, barAt s n .barrier = some p → p.bar = some (k, bid % 256) → runsOn s n = true → physApart s = true →
    barMember s p u = true → nstrokesOf s u ≤ barNext (tileAt s u).plate →
    mapGet 0 (tileAt s u).plate.cache (barNext (tileAt s u).plate % 1024) ≠ barNext (tileAt s u).plate + 1 →
    Answers (.barrier n bid false) s fun t => plateStopped t n) ∧
  (∀ n cond r more p s, barAt s n .abortStep = some p → abortTaken s p cond = false →
    partsWf s = true → physApart s = true → (more = true ∨ barGoesOn s p = true) →
    Answers (.abortStep n cond r more) s fun t =>
      ∀ u, barMember s p u = true → barIssued s t u (barNext (tileAt s u).plate) more) ∧
  (∀ n cond r p s, barAt s n .abortStep = some p → partsWf s = true → physApart s = true → abortTaken s p cond = true →
    (∀ u ∈ partTiles p, contOf s u r < nstrokesOf s u) →
    Answers (.abortStep n cond r false) s fun t =>
      (∀ x, p.opened = true → mapFind s.un.txns p.tid = some x → txnLive x = true → x.kind = 1 → x.key = p.t0 →
        stepInDoubt p = false →
        txnAborted s t p.tid 6 ∧ ∃ q, partOf t n = some q ∧ q.opened = false ∧ q.outcome = stTxnAborted ∧ q.step = p.step) ∧
      ∀ u, barMember s p u = true → barIssued s t u (contOf s u r) false ∧
        (tileAt t u).plate.loops = [] ∧ (tileAt t u).plate.calls = []) ∧
  (∀ n more p tid s, barAt s n .stepOpen = some p → partsWf s = true → physApart s = true →
    p.opened = false → p.launched = 0 → p.groupEn = false → (more = true ∨ barGoesOn s p = true) →
    tidFree s = some tid →
    Answers (.stepOpen n more) s fun t =>
      (∃ q, partOf t n = some q ∧ q.opened = true ∧ q.err = false ∧ q.preparing = false ∧ q.tid = tid ∧ q.step = p.step ∧
        q.sinceOpen = 0) ∧
      (∃ x, mapFind t.un.txns tid = some x ∧ x.kind = 1 ∧ x.key = p.t0 ∧ x.coord = pageOf (partRoot p) ∧ x.phase = .open ∧
        x.members.map TxnMember.page = (partTiles p).map (fun u => pageOf (.tile u))) ∧
      ∀ u, barMember s p u = true → barIssued s t u (barNext (tileAt s u).plate) more ∧ (tileAt t u).num.nstep = 0 ∧
        (tileAt t u).mon = []) ∧
  (∀ n more p x s, barAt s n .stepCommit = some p → partsWf s = true → p.opened = true → p.preparing = false →
    p.decided = false → stepSettling s p = false → mapFind s.un.txns p.tid = some x →
    Answers (.stepCommit n more) s fun t =>
      (∃ q, partOf t n = some q ∧ q.preparing = true ∧ q.step = p.step ∧ q.bar = p.bar) ∧
        mapFind t.un.txns p.tid = some { x with phase := .preparing, merged := false } ∧ t.tl.tab = s.tl.tab) ∧
  (∀ n p s, barAt s n .halt = some p → runsOn s n = true → physApart s = true →
    Answers (.halt n false) s fun t =>
      (∃ q r, partOf t n = some q ∧ q.run = some r ∧ r.stop = some stOk ∧ q.bar = none) ∧
      ∀ u, barMember s p u = true → (tileAt t u).plate.pstate = .stopped ∧
        (tileAt t u).plate.issueCnt = satInc (tileAt s u).plate.issueCnt ∧ (tileAt t u).regs = (tileAt s u).regs)

/-- The wait limit, delivered strokes and the end of a run (R154, R155, R156, R157, R159, R160). -/
def Obligations.PlateEvents : Prop :=
  (∀ n s, n < 512 → runsOn s n = true → ((tileAt s n).plate.pstate = .heldWait ∨ (tileAt s n).plate.pstate = .heldBar) →
    (unitAt s (.tile n)).err3.getLsbD 31 = false →
    Answers (.waitTimeout n) s fun t =>
      plateStopped t n ∧ (unitAt t (.tile n)).err0.toNat % 65536 = stPlate + 5 * 256) ∧
  (∀ n a p s, n < 512 → partOf s n = some p → a < nstrokesOf s n → (tileAt s n).plate.pstate = .frozen →
    a = (tileAt s n).plate.pc → (plateLine s p n a).2 = stOk →
    Answers (.plateFetchArrive n a stOk) s fun t =>
      (tileAt t n).plate.pstate = .issuing ∧ mapGet 0 (tileAt t n).plate.cache (a % 1024) = a + 1 ∧
        (tileAt t n).plate.pc = a ∧ (tileAt t n).regs = (tileAt s n).regs ∧
        (∀ m, tileKey s m ≠ tileKey s n → tileAt t m = tileAt s m)) ∧
  (∀ n a p s, n < 512 → partOf s n = some p → a < nstrokesOf s n → (tileAt s n).plate.pstate = .issuing →
    lookahead (tileAt s n).plate a = true → (plateLine s p n a).2 = stOk →
    Answers (.plateFetchArrive n a stOk) s fun t =>
      (tileAt t n).plate.pstate = .issuing ∧ mapGet 0 (tileAt t n).plate.cache (a % 1024) = a + 1 ∧
        (tileAt t n).plate.pc = (tileAt s n).plate.pc ∧ (tileAt t n).regs = (tileAt s n).regs) ∧
  (∀ n a st s, n < 512 → a < nstrokesOf s n → runsOn s n = true → (tileAt s n).plate.pstate = .frozen →
    a = (tileAt s n).plate.pc → st ≠ stOk →
    Answers (.plateFetchArrive n a st) s fun t => plateStopped t n) ∧
  (∀ n a st s, n < 512 → runsOn s n = true → (tileAt s n).plate.pstate = .frozen →
    nstrokesOf s n ≤ (tileAt s n).plate.pc →
    Answers (.plateFetchArrive n a st) s fun t => plateStopped t n) ∧
  (∀ n p q r s, partOf s n = some p → runEnded s p = true → partsWf (failStopped s p) = true →
    partOf (failStopped s p) n = some q → q.run = some r → (ctxAt (failStopped s p) q.ctx).st ≠ .disabling →
    Answers (.runComplete n) s fun t =>
      ∃ q', partOf t n = some q' ∧ q'.st = .bound ∧ q'.run = none ∧ q'.step = q.step ∧ q'.seed = q.seed)

/-- WLOAD, STREAM and DRAIN at issue, and what their cycles write (R87, R91, R92, R94, R96, R98, R105, R110, R131, R472). -/
def Obligations.ArrayCommands : Prop :=
  (∀ n f s, issuesLocal (.wload n f true) n (.wload f) s) ∧
  (∀ n f s, issuesLocal (.stream n f true) n (.stream f) s) ∧
  (∀ n f s, issuesLocal (.drain n f true) n (.drain f) s) ∧
  (∀ seed x, x.flight.all (fun fl => !(writesAcc fl)) = true → (tileCycle seed x).1.arr.acc = x.arr.acc) ∧
  (∀ seed x, x.flight.all (fun fl => !(writesCells fl)) = true →
    (tileCycle seed x).1.arr.pieces = x.arr.pieces ∧ (tileCycle seed x).1.arr.scales = x.arr.scales ∧
      (tileCycle seed x).1.arr.tag = x.arr.tag ∧ (tileCycle seed x).1.arr.split = x.arr.split) ∧
  (∀ seed x fl f, x.flight = [fl] → fl.cmd.op = .wload f → fl.age = 4 →
    mapGet 3 (tileCycle seed x).1.arr.tag f.bank = (latDesc fl.cmd.lat f.td).etype ∧
      mapGet 0 (tileCycle seed x).1.arr.split f.bank = f.split) ∧
  (∀ seed x fl f a k cells inx sc n p, x.flight = [fl] → fl.cmd.op = .wload f → fl.stages = [(fl.age, .cell a k cells inx sc)] →
    n < 32 → p < 3 →
    mapGet (.fin false 0 0) (tileCycle seed x).1.arr.pieces (pieceKey f.bank a k n p) =
      (cells.getD n []).getD p (.fin false 0 0)) ∧
  (∀ seed x fl f a row vs fs n, x.flight = [fl] → fl.cmd.op = .stream f → fl.stages = [(fl.age, .upd a row vs fs)] →
    vs.length = 32 → n < 32 → vs.getD n 0 < 2 ^ (if f.acc64 then 64 else 32) →
    accEntry (tileCycle seed x).1 f.acc64 a row n = vs.getD n 0) ∧
  (∀ seed x fl f r e n, x.flight = [fl] → fl.cmd.op = .drain f → f.clr = true → 1 ≤ fl.age → fl.age ≤ drainLen f →
    r ∈ drainRows f (fl.age - 1) → e ∈ r.2 → n < 32 →
    accEntry (tileCycle seed x).1 f.acc64 e.1 (f.accRow + (fl.age - 1)) n = 0)

/-- Every vector operation at issue, and what its cycles write (R110, R131, R145, R153, R165, R167, R170, R177, R178, R472). -/
def Obligations.VectorCommands : Prop :=
  (∀ e ∈ vectorOps, ∀ n f s, issuesLocal (e.1 n f true) n (.vector e.2 f) s) ∧
  (∀ seed x, x.flight.all (fun fl => !(writesScratch fl)) = true → noSst x = true →
    (tileCycle seed x).1.scratch = x.scratch) ∧
  (∀ seed x, x.plate.due = [] → (tileCycle seed x).1.regs = x.regs ∧ (tileCycle seed x).1.str = x.str ∧
    (tileCycle seed x).1.plate = x.plate) ∧
  (∀ seed x fl o f part, x.flight = [fl] → x.plate.due = [] → x.num.ue = [] → fl.cmd.op = .vector o f →
    fl.age ≠ flightLen fl → fl.stages = [(fl.age, .out [part] [])] → part.rank < 5 →
    (∀ a, byteAt (tileCycle seed x).1.scratch a = mapGet (byteAt x.scratch a) (bitBytes (spByte x) part.ws) a) ∧
      (fl.path = .pipe1 → (tileCycle seed x).1.blk1 = satInc x.blk1 ∧ (tileCycle seed x).1.blk0 = x.blk0) ∧
      (fl.path ≠ .pipe1 → (tileCycle seed x).1.blk0 = satInc x.blk0 ∧ (tileCycle seed x).1.blk1 = x.blk1))

/-- MOVE and PREFETCH at issue, and the end of a stream unit's command (R110, R115, R116, R121, R122, R123, R131, R132). -/
def Obligations.StreamCommands : Prop :=
  (∀ n f s, slotReady s n [slLda, slLdb, slXf] = true → f.unit < 8 → streamClean s n (.move f) = true →
    (strAt (tileAt s n) f.unit).path.run = none →
    Answers (.move n f true) s fun t =>
      (strAt (tileAt t n) f.unit).path.run = some (cmdOf s n (.move f)) ∧
        (strAt (tileAt t n) f.unit).issuedN = (strAt (tileAt s n) f.unit).issuedN + 1 ∧
        (strAt (tileAt t n) f.unit).rowsDone =
          (if (latDesc (latchedBy s n (.move f)) f.tdD).append then 0 else cmdRows (cmdOf s n (.move f))) ∧
        (tileAt t n).regs = (tileAt s n).regs ∧ (tileAt t n).arr = (tileAt s n).arr ∧ (tileAt t n).flight = (tileAt s n).flight) ∧
  (∀ n f s, slotReady s n [slLda, slLdb, slXf] = true → f.unit < 8 → streamClean s n (.prefetch f) = true →
    (strAt (tileAt s n) f.unit).path.run = none →
    Answers (.prefetch n f true) s fun t =>
      (strAt (tileAt t n) f.unit).path.run = some (cmdOf s n (.prefetch f)) ∧
        (strAt (tileAt t n) f.unit).issuedN = (strAt (tileAt s n) f.unit).issuedN + 1 ∧
        (tileAt t n).scratch = (tileAt s n).scratch ∧ (tileAt t n).regs = (tileAt s n).regs ∧
        t.mm.bytes = s.mm.bytes) ∧
  (∀ n f s, slotReady s n [slLda, slLdb, slXf] = true → f.unit < 8 → streamClean s n (.move f) = true →
    (strAt (tileAt s n) f.unit).path.run.isSome = true → (strAt (tileAt s n) f.unit).path.pend = none →
    Answers (.move n f true) s fun t =>
      strAt (tileAt t n) f.unit = { strAt (tileAt s n) f.unit with
        issuedN := (strAt (tileAt s n) f.unit).issuedN + 1,
        path := { (strAt (tileAt s n) f.unit).path with pend := some (cmdOf s n (.move f)) } } ∧ othersKept s t n) ∧
  (∀ n f s, slotReady s n [slLda, slLdb, slXf] = true → f.unit < 8 →
    (streamClean s n (.move f) = false ∨ pathFull (strAt (tileAt s n) f.unit).path = true) →
    Answers (.move n f true) s fun t => droppedBy s t n [slLda, slLdb, slXf]) ∧
  (∀ n f s, slotReady s n [slLda, slLdb, slXf] = true → f.unit < 8 →
    (streamClean s n (.prefetch f) = false ∨ pathFull (strAt (tileAt s n) f.unit).path = true) →
    Answers (.prefetch n f true) s fun t => droppedBy s t n [slLda, slLdb, slXf]) ∧
  (∀ n k c s, n < 512 → k < 8 → appendsWait (tileAt s n) (5 + k) = false → (strAt (tileAt s n) k).path.run = some c →
    (strAt (tileAt s n) k).path.pend = none →
    Answers (.streamCmdDone n k) s fun t =>
      strAt (tileAt t n) k = { strAt (tileAt s n) k with
        rowsDone := cmdRows c, cmdsDone := (strAt (tileAt s n) k).cmdsDone + 1, doneN := (strAt (tileAt s n) k).doneN + 1,
        path := {} } ∧
      tileAt t n = { tileAt s n with str := (tileAt t n).str } ∧
      (∀ m, tileKey s m ≠ tileKey s n → tileAt t m = tileAt s m) ∧ t = { s with tl := { s.tl with tab := t.tl.tab } }) ∧
  (∀ n k c f l s, n < 512 → k < 8 → appendsWait (tileAt s n) (5 + k) = false → (strAt (tileAt s n) k).path.run = some c →
    (strAt (tileAt s n) k).path.pend = some { op := .move f, lat := l } →
    Answers (.streamCmdDone n k) s fun t =>
      (strAt (tileAt t n) k).path = { run := some { op := .move f, lat := l }, pend := none } ∧
        (strAt (tileAt t n) k).cmdsDone = (strAt (tileAt s n) k).cmdsDone + 1 ∧ (tileAt t n).regs = (tileAt s n).regs)

/-- The last busy cycle of a path's running command (R91, R92, R103, R122, R156, R167, R181). -/
def Obligations.PathsGoOn : Prop :=
  (∀ n p s, localPaths.contains p = true → n < 512 → (tileAt s n).plate.pstate ≠ .issuing → (tileAt s n).plate.pstate ≠ .frozen →
    pathBusy (tileAt s n) p = true → (pathOf (tileAt s n) p).pend = none →
    Answers (.pendingStart n p) s fun t =>
      pathOf (tileAt t n) p = {} ∧ (tileAt t n).plate.pstate = (tileAt s n).plate.pstate ∧ othersKept s t n) ∧
  (∀ n f l s, n < 512 → (tileAt s n).plate.pstate ≠ .issuing → (tileAt s n).plate.pstate ≠ .frozen →
    pathBusy (tileAt s n) .weight = true → (tileAt s n).arr.weight.pend = some { op := .wload f, lat := l } →
    Answers (.pendingStart n .weight) s fun t =>
      (tileAt t n).arr.weight = { run := some { op := .wload f, lat := l }, pend := none } ∧ othersKept s t n) ∧
  (∀ n f l s, n < 512 → (tileAt s n).plate.pstate ≠ .issuing → (tileAt s n).plate.pstate ≠ .frozen →
    pathBusy (tileAt s n) .drain = true → (tileAt s n).arr.drain.pend = some { op := .drain f, lat := l } →
    Answers (.pendingStart n .drain) s fun t =>
      (tileAt t n).arr.drain = { run := some { op := .drain f, lat := l }, pend := none } ∧ othersKept s t n) ∧
  (∀ n p s, ((tileAt s n).plate.pstate = .issuing ∨ (tileAt s n).plate.pstate = .frozen ∨ (pathOf (tileAt s n) p).run = none) →
    Ignores (.pendingStart n p) s) ∧
  (∀ n k s, Ignores (.pendingStart n (.unit k)) s) ∧
  (∀ seed x fl f, x.flight = [fl] → fl.cmd.op = .wload f → flightLast fl ≤ fl.age →
    (tileCycle seed x).1.flight = [] ∧ (tileCycle seed x).1.arr.wloadCnt = satInc x.arr.wloadCnt) ∧
  (∀ seed x fl f, x.flight = [fl] → fl.cmd.op = .drain f → flightLast fl ≤ fl.age →
    (tileCycle seed x).1.flight = [] ∧ (tileCycle seed x).1.bat.retire = ((f.bret && x.bat.ready) || x.bat.retire))

/-- The request batcher: appends, releases, the deadline and retirement (R101, R102, R103, R104, R124). -/
def Obligations.RequestBatcher : Prop :=
  (∀ n q r rest s, takeAppend q (tileAt s n).bat.appends = some (r, rest) → batQen (tileAt s n).bat q = true →
    (mapGet {} (tileAt s n).bat.queues q).fill < qCap (mapGet {} (tileAt s n).bat.queues q) →
    (tileAt s n).num.ue = [] →
    Answers (.batchAppend n q) s fun t =>
      mapGet {} (tileAt t n).bat.queues q = { mapGet {} (tileAt s n).bat.queues q with
        tail := ((mapGet {} (tileAt s n).bat.queues q).tail + 1) % qCap (mapGet {} (tileAt s n).bat.queues q),
        fill := (mapGet {} (tileAt s n).bat.queues q).fill + 1,
        present := (mapGet {} (tileAt s n).bat.queues q).present ++ [(mapGet {} (tileAt s n).bat.queues q).tail] } ∧
      (tileAt t n).bat.appends = rest ∧
      (∀ a, byteAt (tileAt t n).scratch a = mapGet (byteAt (tileAt s n).scratch a)
        (bitBytes (spByte (tileAt s n)) (r.ws.map (fun w => { w with
          bit := 8 * (bitsOf (mapGet {} (tileAt s n).bat.queues q).cfg.toNat 13 0 * 64
            + (mapGet {} (tileAt s n).bat.queues q).tail * (bitsOf (mapGet {} (tileAt s n).bat.queues q).cfg.toNat 37 28 * 64))
            + w.bit }))) a) ∧
      (∀ k, r.engine = 5 + k → k < 8 → (strAt (tileAt t n) k).rowsDone = (strAt (tileAt s n) k).rowsDone + 1) ∧
      (tileAt t n).regs = (tileAt s n).regs ∧ (tileAt t n).arr = (tileAt s n).arr) ∧
  (∀ n q r rest s, takeAppend q (tileAt s n).bat.appends = some (r, rest) → batQen (tileAt s n).bat q = false →
    Answers (.batchAppend n q) s fun t =>
      (tileAt t n).bat = { (tileAt s n).bat with appends := rest } ∧ (tileAt t n).scratch = (tileAt s n).scratch ∧
        (tileAt t n).regs = (tileAt s n).regs ∧ (tileAt t n).arr = (tileAt s n).arr ∧
        (∀ m, tileKey s m ≠ tileKey s n → tileAt t m = tileAt s m) ∧ t = { s with tl := { s.tl with tab := t.tl.tab } }) ∧
  (∀ n q r rest s, takeAppend q (tileAt s n).bat.appends = some (r, rest) → batQen (tileAt s n).bat q = true →
    qCap (mapGet {} (tileAt s n).bat.queues q) ≤ (mapGet {} (tileAt s n).bat.queues q).fill → Ignores (.batchAppend n q) s) ∧
  (∀ n s, (tileAt s n).bat.ready = false → batEn (tileAt s n).bat = true → 32 ≤ batEnabledPresent (tileAt s n).bat →
    Answers (.batchRelease n) s fun t =>
      (tileAt t n).bat.ready = true ∧ (tileAt t n).bat.dl = false ∧ (tileAt t n).bat.batch.length ≤ 32 ∧
        (tileAt t n).arr.relCnt = satInc (tileAt s n).arr.relCnt ∧ (tileAt t n).bat.appends = (tileAt s n).bat.appends ∧
        onlyBatcher s t n) ∧
  (∀ n s, (tileAt s n).bat.ready = false → batEn (tileAt s n).bat = true → batDeadline (tileAt s n).bat ≠ 0 →
    0 < batEnabledPresent (tileAt s n).bat → batEnabledPresent (tileAt s n).bat < 32 →
    Answers (.batchDeadline n) s fun t =>
      (tileAt t n).bat.ready = true ∧ (tileAt t n).bat.dl = true ∧
        (tileAt t n).bat.batch.length ≤ batEnabledPresent (tileAt s n).bat ∧
        (tileAt t n).arr.relCnt = satInc (tileAt s n).arr.relCnt ∧ onlyBatcher s t n) ∧
  (∀ n s, (tileAt s n).bat.retire = true →
    Answers (.batchRetire n) s fun t =>
      (tileAt t n).bat.ready = false ∧ (tileAt t n).bat.batch = [] ∧ (tileAt t n).bat.retire = false ∧
        (∀ q, (∀ e ∈ (tileAt s n).bat.batch, e.1 ≠ q) →
          mapGet {} (tileAt t n).bat.queues q = mapGet {} (tileAt s n).bat.queues q) ∧ onlyBatcher s t n) ∧
  (∀ n s, (tileAt s n).bat.ready = true → Ignores (.batchRelease n) s ∧ Ignores (.batchDeadline n) s)

/-- REGISTER_WRITE: access, clamped and cleared fields, and reserved unit commands (R20, R24, R26, R27). -/
def Obligations.RegisterWrites : Prop :=
  (∀ w off width v s, (mayWrite w = false ∨ (width ≠ 4 ∧ width ≠ 8) ∨ off % width ≠ 0) → Ignores (.registerWrite w off width v) s) ∧
  (∀ w v s, mayWrite w = true → bar0Open s w = true → blockLive s .package = true →
    Answers (.registerWrite w 0x40 4 v) s fun t =>
      t = { s with un := { s.un with tmo := BitVec.ofNat 32 (max 16 (min 30 (v.toNat % 32))
        + max 16 (min 28 (v.toNat / 256 % 32)) * 256 + max 16 (min 30 (v.toNat / 65536 % 32)) * 65536) } }) ∧
  (∀ w v s, mayWrite w = true → bar0Open s w = true → blockLive s .package = true → v.getLsbD 31 = true →
    Answers (.registerWrite w 0x70 4 v) s fun t =>
      t = { s with un := { s.un with lastAbort := s.un.lastAbort &&& 0x7FFFFFFF } }) ∧
  (∀ v s, bar0Open s .pf0 = true → blockLive s (.iodie 0) = true →
    Answers (.registerWrite .pf0 0x420040 4 v) s fun t =>
      t = { s with rg := { s.rg with shardCfg := BitVec.ofNat 32 (max 30 (min 44 (v.toNat % 64)) + v.toNat / 64 % 2 * 64) } }) ∧
  (∀ w n v s, n < 512 → mayWrite w = true → bar0Open s w = true → blockLive s (.tile n) = true →
    Answers (.registerWrite w (0x200000 + 4096 * n + 0x100) 4 v) s fun t =>
      (tileAt t n).num.nflags = (tileAt s n).num.nflags &&& ~~~((v.setWidth 32).setWidth 64) ∧
        tileAt t n = { tileAt s n with num := { (tileAt s n).num with nflags := (tileAt t n).num.nflags } } ∧
        (∀ m, tileKey s m ≠ tileKey s n → tileAt t m = tileAt s m) ∧ t = { s with tl := { s.tl with tab := t.tl.tab } }) ∧
  (∀ w n v s, n < 512 → mayWrite w = true → bar0Open s w = true → blockLive s (.tile n) = true →
    Answers (.registerWrite w (0x200000 + 4096 * n + 0x118) 4 v) s fun t =>
      tileAt t n = { tileAt s n with num := { (tileAt s n).num with
        resErr := if v.toNat % 2 ^ 32 = 2 ^ 32 - 1 then 0 else (tileAt s n).num.resErr } }) ∧
  (∀ w n v s, n < 512 → mayWrite w = true → bar0Open s w = true → present s.hw (.tile n) = true →
    6 ≤ v.toNat % 8 → (unitAt s (.tile n)).cmdBusy = false →
    Answers (.registerWrite w (0x200000 + 4096 * n + 0x00C) 4 v) s fun t =>
      cmdOver t (.tile n) stInvalid ∧ (unitAt t (.tile n)).state = (unitAt s (.tile n)).state ∧
        unitsKept s t (.tile n) ∧ onlyUnits s t)

/-- How a launch starts, is refused and completes; the monitor merge of a commit, and clearing MON_HIT (R189, R198, R209, R217, R218, R219, R234). -/
def Obligations.Launches : Prop :=
  (∀ c l r p gix g s, mapGet [] s.tl.lqueue c = l :: r → laneAt s l.tile = none → lanePaused s l.tile = false →
    partOf s l.tile = some p → groupOfSlot s p.t0 l.group = some gix → groupAt s gix = some g → g.st = 2 → fabCalm s = true →
    g.failedL.any (fun e => e.1 = ((localAt g p.t0).map LocalMem.rank).getD 0 && e.2.1 = l.step
      && e.2.2.1 = mapGet 0 s.fb.lseqs (l.tile * 64 + gix)) = false →
    l.sched < g.reqs.length → launchFault s l g (((localAt g p.t0).map LocalMem.rank).getD 0) = none →
    rqOp (rqOf g l.sched) ≠ 6 → s.fb.early.all (fun f => f.group ≠ g.id) = true →
    Answers (.launchStart c) s fun t =>
      laneAt t l.tile = some
        { gix := gix, rank := ((localAt g p.t0).map LocalMem.rank).getD 0, sched := l.sched,
          lseq := mapGet 0 s.fb.lseqs (l.tile * 64 + gix), step := l.step, base := l.arg.toNat % 2 ^ 32,
          canon := laneCanon s l.tile, tds := l.tds } ∧
      mapGet [] t.tl.lqueue c = r ∧
      mapGet 0 t.fb.lseqs (l.tile * 64 + gix) = (mapGet 0 s.fb.lseqs (l.tile * 64 + gix) + 1) % 65536 ∧
      groupAt t gix = some { g with launches := satInc g.launches }) ∧
  (∀ c l r p gix g s, mapGet [] s.tl.lqueue c = l :: r → laneAt s l.tile = none → lanePaused s l.tile = false →
    partOf s l.tile = some p → groupOfSlot s p.t0 l.group = some gix → groupAt s gix = some g → g.st = 3 → fabCalm s = true →
    Answers (.launchStart c) s fun t =>
      laneAt t l.tile = none ∧ mapGet [] t.tl.lqueue c = r ∧
        (∃ g', groupAt t gix = some g' ∧ g'.lastErr = stMemberLost ∧ g'.fails = satInc g.fails)) ∧
  (∀ c s, mapGet [] s.tl.lqueue c = [] → Ignores (.launchStart c) s) ∧
  (∀ n x p s, laneCtx s n = some x → x.l.ended = true → x.l.sends = [] → x.l.recvs = [] → lanePaused s n = false →
    partsWf s = true → partOf s n = some p → rqAtDone x.rq < 31 →
    Answers (.launchComplete n) s fun t =>
      laneAt t n = none ∧ (∀ m, m ≠ n → laneAt t m = laneAt s m) ∧
        mapGet 0 (tileAt t n).regs.tok (rqAtDone x.rq) = satAdd (mapGet 0 (tileAt s n).regs.tok (rqAtDone x.rq)) 1 ∧
        partOf t n = some { p with launched := p.launched - 1, sinceOpen := p.sinceOpen - 1 }) ∧
  (∀ n ev p x s, partsWf s = true → partOf s n = some p → mapFind s.un.txns p.tid = some x → p.preparing = true → x.kind = 1 →
    x.key = p.t0 → x.phase = .preparing → x.merged = false → x.members.any (fun m => m.st ≠ .counted) = true →
    spanWaits s io0Page p.ctx (monBank p (p.step.toNat % 2 = 1)) 131072 false ev = false →
    spanWaits s io0Page p.ctx (monBank p (p.step.toNat % 2 = 0)) 131072 true ev = false →
    Answers (.monitorMergeDone n ev) s fun t =>
      mapFind t.un.txns p.tid = some { x with merged := true } ∧
        ∃ q, partOf t n = some q ∧ q.step = p.step ∧ q.preparing = true ∧
          (q.monBad = false →
            q.merged.map Prod.fst = (List.range 4096).filter (fun k => (monSlots s p).any (fun m => m.tag = k)))) ∧
  (∀ n p s, partsWf s = true → partOf s n = some p → bar0Unit s .pf0 (.tile n) = true → blockLive s (.tile n) = true →
    p.monHit.getLsbD 31 = true →
    Answers (.monHitClear n .pf0) s fun t =>
      partOf t n = some { p with monHit := 0 } ∧ t = { s with tl := { s.tl with parts := t.tl.parts } }) ∧
  (∀ n w s, w ≠ .pf0 → Ignores (.monHitClear n w) s)

/-- What each drupelet entry does when it starts (R220, R221, R222, R224, R228). -/
def Obligations.DrupeletEntries : Prop :=
  (∀ n ev x s s1 bs, entryAt s n 1 = some x → readySend x = none → sourceReady x (enA (curEntry x)) = true → x.l.sends.length < 4 →
    (isA2a x.rq && enA (curEntry x) = 4) = false → x.l.credits.contains (enPeer (curEntry x), curXtag x) = true →
    operandRead (laneSet s n (withSend x (queuedSend x)).l) (withSend x (queuedSend x)) (queuedSend x).opnd (queuedSend x).doff
      (queuedSend x).len ev = some (.ok s1 bs) → fabCalm s1 = true →
    Answers (.send n ev) s fun t => drupSent s1 t (withSend x (queuedSend x)) (queuedSend x) bs) ∧
  (∀ n ev x s, entryAt s n 1 = some x → readySend x = none → sourceReady x (enA (curEntry x)) = true → x.l.sends.length < 4 →
    (isA2a x.rq && enA (curEntry x) = 4) = false → x.l.credits.contains (enPeer (curEntry x), curXtag x) = false →
    fabCalm s = true →
    Answers (.send n ev) s fun t => laneAt t n = some (withSend x (queuedSend x)).l ∧ onlyLane s t n) ∧
  (∀ n ev x k s s1 bs, laneCtx s n = some x → readySend x = some k → (isA2a x.rq && k.opnd = 4) = false →
    operandRead s x k.opnd k.doff k.len ev = some (.ok s1 bs) → k.len ≤ 65536 → fabCalm s1 = true →
    Answers (.send n ev) s fun t => drupSent s1 t x k bs) ∧
  (∀ n x s, entryAt s n 2 = some x → destReady x (enC (curEntry x)) = true → (isA2a x.rq && enC (curEntry x) = 5) = false →
    fabCalm s = true →
    Answers (.recv n) s fun t =>
      (∃ l, laneAt t n = some l ∧ l.pos = x.l.pos + 1 ∧
        l.recvs = x.l.recvs ++ [postedRecv x (enC (curEntry x)) (if rqOp x.rq = 5 then 0 else enLen (curEntry x))] ∧
        l.sends = x.l.sends ∧ l.full = x.l.full) ∧
      sentTo s t (peerOf x) [creditOf x]) ∧
  (∀ n x s, entryAt s n 3 = some x → stagingReady s x = true → sourceReady x (enB (curEntry x)) = true →
    enB (curEntry x) < 4 → (rqEtype x.rq = 0x01 ∨ rqEtype x.rq = 0x0F ∨ rqEtype x.rq = 0x07) → fabCalm s = true →
    Answers (.reduce n {} []) s fun t =>
      stagingDone s t x (reduceBytes ((fmtOfCode (rqEtype x.rq)).getD .fp32) (rqRedop x.rq)
        (stagingBytes s x (enA (curEntry x))) (stagingBytes s x (enB (curEntry x)))).1 ∧
      (mapGet {} t.fb.eng (n / 16)).red = satInc (mapGet {} s.fb.eng (n / 16)).red) ∧
  (∀ n x s, entryAt s n 4 = some x → stagingReady s x = true → fabCalm s = true →
    Answers (.drupeletCopy n []) s fun t => stagingDone s t x (stagingBytes s x (enA (curEntry x)))) ∧
  (∀ n x s, entryAt s n 5 = some x → x.l.rep + 1 < enDoffS (curEntry x) → (isA2a x.rq = true → rowsLeft s x = true) →
    Answers (.lanLoop n) s fun t =>
      laneAt t n = some { x.l with pos := x.l.pos - enPeer (curEntry x), rep := x.l.rep + 1, loopAt := some x.l.pos } ∧
        onlyLane s t n) ∧
  (∀ n x s, entryAt s n 5 = some x → (enDoffS (curEntry x) ≤ x.l.rep + 1 ∨ (isA2a x.rq = true ∧ rowsLeft s x = false)) →
    Answers (.lanLoop n) s fun t =>
      laneAt t n = some { x.l with pos := x.l.pos + 1, rep := 0, loopAt := none } ∧ onlyLane s t n) ∧
  (∀ n x s, entryAt s n 6 = some x → isA2a x.rq = true → x.l.sends.length < 4 → 0 < rqEpm x.rq →
    x.l.credits.contains (enPeer (curEntry x), curXtag x) = true → lanePaused s n = false → (tileAt s n).num.ue = [] →
    fabCalm s = true → rqEpm x.rq ≤ 4096 →
    Answers (.countx n) s fun t =>
      drupSent s t (withSend x { peer := enPeer (curEntry x), xtag := curXtag x, frees := none, len := 4 * rqEpm x.rq })
        { peer := enPeer (curEntry x), xtag := curXtag x, frees := none, len := 4 * rqEpm x.rq }
        (readBytes (tileAt s n).scratch
          (bankBase (cntDesc x) x.l.step false + 4 * (enPeer (curEntry x) * rqEpm x.rq)) (4 * rqEpm x.rq))) ∧
  (∀ n x s, entryAt s n 7 = some x → isA2a x.rq = true → 0 < rqEpm x.rq → fabCalm s = true →
    Answers (.countr n) s fun t =>
      (∃ l, laneAt t n = some l ∧ l.pos = x.l.pos + 1 ∧ l.recvs = x.l.recvs ++ [postedRecv x 6 (4 * rqEpm x.rq)]) ∧
        sentTo s t (peerOf x) [creditOf x]) ∧
  (∀ n x s, entryAt s n 0 = some x →
    Answers (.endProg n) s fun t => laneAt t n = some { x.l with ended := true } ∧ onlyLane s t n)

/-- Which frames a port drops, and what it counts (R240, R241, R244, R246, R247, R248, R249, R254). -/
def Obligations.FramesFiltered : Prop :=
  (∀ e ∈ msgRows, ∀ h s, h.typ = e.2.1 → fabCalm s = true → portReceives s h.port = false → Ignores (e.1 (.wire h)) s) ∧
  (∀ e ∈ msgRows, ∀ h s, h.typ = e.2.1 → fabCalm s = true → portReceives s h.port = true → macOk (fport s h.port) h = false →
    Answers (e.1 (.wire h)) s fun t =>
      (fport t h.port).macsec = satInc (fport s h.port).macsec ∧ (fport t h.port).rx = (fport s h.port).rx ∧ onlyPorts s t) ∧
  (∀ x h, macOk x h = true ↔ h.icvOk = true ∧ ∀ n, x.rxPn = some n → n.toNat < h.pn) ∧
  (∀ e ∈ msgRows, ∀ h s, h.typ = e.2.1 → fabCalm s = true → portReceives s h.port = true → macOk (fport s h.port) h = true →
    (h.fmtOk = false ∨ h.dst ≠ nodeOf s ∨ allowFind s h.node = none) →
    Answers (e.1 (.wire h)) s fun t =>
      (fport t h.port).filter = satInc (fport s h.port).filter ∧ (fport t h.port).rx = satInc (fport s h.port).rx ∧
        (fport t h.port).rxPn = some (BitVec.ofNat 64 h.pn) ∧ onlyPorts s t) ∧
  (∀ e ∈ msgRows, ∀ h gix g s, h.typ = e.2.1 → fabCalm s = true → rxGood s h = true → groupFind s h.group = some gix →
    groupAt s gix = some g → (pathAt s h.node h.port).rxEpoch ≠ some (BitVec.ofNat 16 h.epoch) →
    Answers (e.1 (.wire h)) s fun t =>
      (fport t h.port).oow = satInc (fport s h.port).oow ∧ (fport t h.port).rx = satInc (fport s h.port).rx ∧ onlyPorts s t) ∧
  (∀ e ∈ msgRows, ∀ h gix g s, h.typ = e.2.1 → fabCalm s = true → rxGood s h = true → groupFind s h.group = some gix →
    groupAt s gix = some g → g.key ≠ [] → opensTo s h = none →
    (pathAt s h.node h.port).rxEpoch = some (BitVec.ofNat 16 h.epoch) →
    Answers (e.1 (.wire h)) s fun t =>
      (fport t h.port).tagFail = satInc (fport s h.port).tagFail ∧ t.fb.groups = s.fb.groups ∧ t.fb.paths = s.fb.paths) ∧
  (∀ e ∈ msgRows, ∀ h f s, h.typ = e.2.1 → fabCalm s = true → rxGood s h = true → opensTo s h = some f →
    (e.2.1 = 5 → f.ctype = e.2.2) → (pathAt s h.node h.port).rxEpoch = some (BitVec.ofNat 16 h.epoch) →
    (pathAt s h.node h.port).unacked = [] → (pathAt s h.node h.port).rxGot.contains h.pseq = true →
    (h.pseq + 2 ^ 32 - (pathAt s h.node h.port).rxNext.toNat) % 2 ^ 32 < 16384 →
    Answers (e.1 (.wire h)) s fun t =>
      (fport t h.port).dupRx = satInc (fport s h.port).dupRx ∧ t.fb.groups = s.fb.groups ∧ t.fb.lanes = s.fb.lanes ∧
        t.fb.msgs = s.fb.msgs ∧ (pathAt t h.node h.port).rxNext = (pathAt s h.node h.port).rxNext ∧
        (pathAt t h.node h.port).rxPack = (pathAt s h.node h.port).rxNext) ∧
  (∀ e ∈ msgRows, ∀ h s, h.typ = e.2.1 → fabCalm s = true → rxGood s h = true → groupFind s h.group = none → h.tag ≠ [] →
    Answers (e.1 (.wire h)) s fun t =>
      (fport t h.port).filter = satInc (fport s h.port).filter ∧
        sentTo s t h.node [{ typ := 5, group := h.group, ctype := 9 }]) ∧
  (∀ p s, present s.hw (.fport p) = true → (fport s p).link = 2 →
    Answers (.filteredFrame p) s fun t =>
      fport t p = { fport s p with rx := satInc (fport s p).rx, filter := satInc (fport s p).filter } ∧ onlyPorts s t)

/-- DATA and CREDIT at the launch they name (R218, R221, R236, R252). -/
def Obligations.CollectiveMessages : Prop :=
  (∀ src f s s1 n gix g l, delivers s src f s1 → f.typ = 2 → fabCalm s = true → frameTile s1 f = some (n, gix, g) →
    cmpLaunch s1 n gix g f = .current l →
    Answers (.creditFrame src) s fun t =>
      laneAt t n = some { l with credits := l.credits ++ [(f.srcRank, f.xtag)] } ∧ ∀ m, m ≠ n → laneAt t m = laneAt s1 m) ∧
  (∀ src f s s1 n gix g, delivers s src f s1 → f.typ = 2 → fabCalm s = true → frameTile s1 f = some (n, gix, g) →
    cmpLaunch s1 n gix g f = .future →
    Answers (.creditFrame src) s fun t => t.fb.early = s1.fb.early ++ [f] ∧ t.fb.lanes = s1.fb.lanes) ∧
  (∀ src f s s1 n gix g, delivers s src f s1 → f.typ = 2 → fabCalm s = true → frameTile s1 f = some (n, gix, g) →
    cmpLaunch s1 n gix g f = .stale →
    Answers (.creditFrame src) s fun t =>
      (mapGet {} t.fb.eng (n / 16)).stale = satInc (mapGet {} s.fb.eng (n / 16)).stale ∧ t.fb.lanes = s1.fb.lanes) ∧
  (∀ src f s s1 n gix g l x r, delivers s src f s1 → f.typ = 1 → fabCalm s = true → frameTile s1 f = some (n, gix, g) →
    cmpLaunch s1 n gix g f = .current l → laneCtx s1 n = some x → rqOp x.rq ≠ 5 →
    (∀ m, localOfRank g f.srcRank = some m → m.t0 + f.lane ≠ n) →
    l.recvs.find? (fun r => r.peer = f.srcRank && r.xtag = f.xtag) = some r → r.dst < 4 → r.segs = [] → f.seg = 0 →
    0 < r.len → r.len ≤ 8192 → f.body.length = r.len → lanePaused s1 n = false → (tileAt s1 n).num.ue = [] →
    Answers (.dataFrame src []) s fun t =>
      readBytes (tileAt t n).scratch (stgAddr x r.dst) r.len = f.body ∧
        ∃ l', laneAt t n = some l' ∧ l'.full = l.full ++ [r.dst] ∧ l'.done = l.done ++ [(r.peer, r.xtag)] ∧
          l'.recvs = l.recvs.filter (fun q => !(q.peer = r.peer && q.xtag = r.xtag)) ∧ l'.pos = l.pos) ∧
  (∀ h f s s1 n gix g l x r, delivers s (.wire h) f s1 → f.typ = 1 → fabCalm s = true → frameTile s1 f = some (n, gix, g) →
    cmpLaunch s1 n gix g f = .current l → laneCtx s1 n = some x → rqOp x.rq ≠ 5 →
    l.recvs.find? (fun r => r.peer = f.srcRank && r.xtag = f.xtag) = some r → r.dst < 4 → r.segs = [] → f.seg = 0 →
    f.body.length = min 8192 r.len → lanePaused s1 n = true → s.fb.parked.any (fun e => e.2 = f) = false →
    Answers (.dataFrame (.wire h) []) s fun t =>
      t.fb.parked = s.fb.parked ++ [(h, f)] ∧ t.fb.lanes = s1.fb.lanes ∧
        (pathAt t h.node h.port).rxNext = (pathAt s h.node h.port).rxNext)

/-- ACK, NACK, PROBE and PROBE_RSP on a path, and the timers of a path and of a node (R248, R249, R250, R251, R253, R254, R255). -/
def Obligations.PathFrames : Prop :=
  (∀ h s, h.typ = 3 → rxGood s h = true → fabCalm s = true → (pathAt s h.node h.port).rxEpoch = some (BitVec.ofNat 16 h.epoch) →
    Answers (.ackFrame h) s fun t =>
      (pathAt t h.node h.port).unacked = (pathAt s h.node h.port).unacked.filter (fun e =>
        !(1 ≤ (h.pack + 2 ^ 32 - e.pseq.toNat) % 2 ^ 32 && (h.pack + 2 ^ 32 - e.pseq.toNat) % 2 ^ 32 < 2 ^ 31)) ∧
      (fport t h.port).rx = satInc (fport s h.port).rx ∧ t.fb.groups = s.fb.groups ∧ t.fb.waitq = s.fb.waitq) ∧
  (∀ h runs s, h.typ = 4 → runs = nackRuns 64 h.body → rxGood s h = true → fabCalm s = true →
    (pathAt s h.node h.port).rxEpoch = some (BitVec.ofNat 16 h.epoch) → (pathAt s h.node h.port).unacked.length ≤ 16384 →
    Answers (.nackFrame h runs) s fun t =>
      (fport t h.port).nackRx = satInc (fport s h.port).nackRx ∧
        (pathAt t h.node h.port).unacked.map (fun e => (e.pseq, e.frame)) =
          (pathAt (rxAck (rxCounted s h) h) h.node h.port).unacked.map (fun e => (e.pseq, e.frame)) ∧
        ∀ e ∈ (pathAt t h.node h.port).unacked,
          runs.any (fun n => (e.pseq.toNat + 2 ^ 32 - n.1 % 2 ^ 32) % 2 ^ 32 < n.2) = true → e.retx = true) ∧
  (∀ h next s, h.typ = 6 → probeSays h next true = true → rxGood s h = true → fabCalm s = true →
    (nodePorts s h.node).contains h.port = true →
    Answers (.probe h next true) s fun t =>
      (pathAt t h.node h.port).rxNext = BitVec.ofNat 32 next ∧
        (pathAt t h.node h.port).rxEpoch = some (BitVec.ofNat 16 h.epoch) ∧ (pathAt t h.node h.port).rxGot = [] ∧
        (pathAt t h.node h.port).st =
          (if (pathAt s h.node h.port).st = 1 ∧ (pathAt s h.node h.port).probed = true then 2 else (pathAt s h.node h.port).st)) ∧
  (∀ h next s, h.typ = 7 → probeSays h next true = true → rxGood s h = true → fabCalm s = true →
    (nodePorts s h.node).contains h.port = true → (pathAt s h.node h.port).st ≠ 0 → epochOld s h = false →
    Answers (.probeRsp h next true) s fun t =>
      (pathAt t h.node h.port).rxNext = BitVec.ofNat 32 next ∧
        (pathAt t h.node h.port).rxEpoch = some (BitVec.ofNat 16 h.epoch) ∧
        (pathAt t h.node h.port).st =
          (if (pathAt s h.node h.port).st = 1 ∧ (pathAt s h.node h.port).probed = true then 2 else (pathAt s h.node h.port).st)) ∧
  (∀ h next s, h.typ = 7 → probeSays h next false = true → rxGood s h = true → fabCalm s = true →
    (nodePorts s h.node).contains h.port = true → (pathAt s h.node h.port).st ≠ 0 → epochOld s h = false →
    otherUp s h.node h.port = false →
    Answers (.probeRsp h next false) s fun t =>
      (pathAt t h.node h.port).st = 0 ∧ (pathAt t h.node h.port).unacked = [] ∧
        t.fb.waitq = (pathAt (rxPlain s h).1 h.node h.port).unacked.map (fun e => (h.node, e.frame, true))) ∧
  (∀ h next a s, h.typ = 7 → probeSays h next a = true → rxGood s h = true → epochOld s h = false →
    (pathAt s h.node h.port).st = 0 → Answers (.probeRsp h next a) s fun t => t = (rxPlain s h).1) ∧
  (∀ node p s, (pathAt s node p).st ≠ 0 → ((pathAt s node p).st = 2 → (pathAt s node p).unacked = []) → portCarries s p = true →
    (unitAt s (.fport p)).state = .run → fabCalm s = true →
    Answers (.probeInterval node p) s fun t =>
      (pathAt t node p).probed = true ∧ (fport t p).tx = satInc (fport s p).tx ∧
        (pathAt t node p).st = (if (pathAt s node p).st = 1 ∧ (pathAt s node p).heard = true then 2
          else (pathAt s node p).st)) ∧
  (∀ node p s, portCarries s p = true → (pathAt s node p).rxPack ≠ (pathAt s node p).rxNext → (pathAt s node p).rxGot = [] →
    fabCalm s = true →
    Answers (.ackInterval node p) s fun t =>
      pathAt t node p = { pathAt s node p with rxPack := (pathAt s node p).rxNext } ∧
        (fport t p).tx = satInc (fport s p).tx ∧ t.fb.groups = s.fb.groups) ∧
  (∀ node p s, (pathAt s node p).rxPack = (pathAt s node p).rxNext → (pathAt s node p).rxGot = [] → fabCalm s = true →
    Ignores (.ackInterval node p) s) ∧
  (∀ node p e r s, (pathAt s node p).unacked = e :: r → e.timeouts + 1 < bitsOf s.fb.tmr.toNat 23 20 → fabCalm s = true →
    portCarries s p = true →
    Answers (.retransmissionTimeout node p) s fun t =>
      (∃ e' r', (pathAt t node p).unacked = e' :: r' ∧ e'.timeouts = e.timeouts + 1 ∧ e'.retx = true ∧ e'.pseq = e.pseq ∧
        e'.frame = e.frame) ∧
      (fport t p).tx = satInc (fport s p).tx ∧ (fport t p).retx = satInc (fport s p).retx ∧
      (pathAt t node p).st = (pathAt s node p).st) ∧
  (∀ node p e r s, (pathAt s node p).unacked = e :: r → bitsOf s.fb.tmr.toNat 23 20 ≤ e.timeouts + 1 → fabCalm s = true →
    (pathAt s node p).st ≠ 0 → p < 16 → otherUp s node p = false →
    Answers (.retransmissionTimeout node p) s fun t =>
      (pathAt t node p).st = 0 ∧ (pathAt t node p).unacked = [] ∧ t.fb.waitq = (e :: r).map (fun e => (node, e.frame, true))) ∧
  (∀ node s, node ≠ nodeOf s → (allowFind s node).isSome = true → fabCalm s = true →
    (nodePorts s node).any (fun p => (pathAt s node p).st = 2) = false →
    Answers (.unreachableLimit node) s fun t =>
      t.fb.stat = BitVec.ofNat 32 (node % 65536 + 2 ^ 31) ∧ t.fb.unreach = satInc s.fb.unreach ∧
        ∀ gix g, groupAt s gix = some g → g.members.any (fun m => m.1 = node) = true →
          ∃ g', groupAt t gix = some g' ∧ g'.st = 3)

/-- Links and MKA of a fabric port, and writes of the fabric registers (R242, R243, R244, R253, R256). -/
def Obligations.FabricLinksAndRegisters : Prop :=
  (∀ p s, present s.hw (.fport p) = true → portMayLink s p = true → (fport s p).link ≠ 2 → fabCalm s = true →
    Answers (.fabricLinkUp p) s fun t =>
      (fport t p).link = 2 ∧ (unitAt t (.fport p)).evt.getLsbD 16 = true ∧
        (if cakOk s p then (fport t p).mka = 2 ∧ (fport t p).xpn = 1 ∧ (fport t p).txBlock = false
          else (fport t p).mka = 0)) ∧
  (∀ p s, portMayLink s p = false → Ignores (.fabricLinkUp p) s) ∧
  (∀ p s, present s.hw (.fport p) = true → (fport s p).link ≠ 0 →
    Answers (.fabricLinkLoss p) s fun t =>
      (fport t p).mka = 0 ∧ (fport t p).link = (if portMayLink s p then 1 else 0) ∧ (∀ node, (pathAt t node p).st = 0) ∧
        ((fport s p).link = 2 → (unitAt t (.fport p)).evt.getLsbD 16 = true)) ∧
  (∀ p s, present s.hw (.fport p) = true → (fport s p).link = 2 → cakOk s p = true → fabCalm s = true →
    ((fport s p).mka = 0 → Answers (.mkpdu p .peer) s fun t =>
      (fport t p).mka = 1 ∧ (fport t p).rx = satInc (fport s p).rx ∧ (unitAt t (.fport p)).evt.getLsbD 17 = true) ∧
    ((fport s p).mka = 2 → Answers (.mkpdu p .rekey) s fun t =>
      (fport t p).mka = 3 ∧ (fport t p).rx = satInc (fport s p).rx ∧ (fport t p).xpn = (fport s p).xpn) ∧
    (Answers (.mkpdu p .sak) s fun t =>
      (fport t p).mka = 2 ∧ (fport t p).xpn = 1 ∧ (fport t p).txBlock = false ∧ (fport t p).rx = satInc (fport s p).rx)) ∧
  (∀ p s, present s.hw (.fport p) = true → 2 ≤ (fport s p).mka →
    Answers (.mkaLivePeerLoss p) s fun t =>
      (fport t p).mka = 1 ∧ (fport t p).link = (fport s p).link ∧ (unitAt t (.fport p)).evt.getLsbD 17 = true ∧
        ∀ node, (pathAt t node p).st = 0) ∧
  (∀ e v s, bar0Open s .pf0 = true → e < 1024 → halfOk v.off v.width = true →
    Answers (.allowWrite .pf0 e v) s fun t =>
      mapGet 0 t.fb.allow e = merge64 (mapGet 0 s.fb.allow e) v.off v.width v.val &&& 0x1FFFFFFFF ∧ (∀ k, k ≠ e → mapFind t.fb.allow k = mapFind s.fb.allow k) ∧
        t.fb.cfg = s.fb.cfg) ∧
  (∀ off width v s, bar0Open s .pf0 = true → s.fb.groups = [] → ((off = 0 ∧ width = 8) ∨ ((off = 0 ∨ off = 4) ∧ width = 4)) →
    cfgStored off width ((merge64 s.fb.cfg off width v).toNat % 2 ^ 56) = true →
    Answers (.uctCfgWrite .pf0 off width v) s fun t =>
      t.fb.cfg = BitVec.ofNat 64 ((merge64 s.fb.cfg off width v).toNat % 2 ^ 56) ∧ t.fb.allow = s.fb.allow) ∧
  (∀ w off width v s, (s.fb.groups ≠ [] ∨ w ≠ .pf0) → Ignores (.uctCfgWrite w off width v) s) ∧
  (∀ p v s, bar0Open s .pf0 = true → present s.hw (.fport p) = true → blockLive s (.fport p) = true →
    (Answers (.fpCtlWrite .pf0 p v) s fun t => (fport t p).ctl = v &&& 0x3FFFF ∧ (fport t p).cak = (fport s p).cak) ∧
    (Answers (.fpCakWrite .pf0 p v) s fun t => (fport t p).cak = v &&& 0x1FF ∧ (fport t p).ctl = (fport s p).ctl)) ∧
  (∀ w p v s, (w ≠ .pf0 ∨ present s.hw (.fport p) = false ∨ blockLive s (.fport p) = false) →
    Ignores (.fpCtlWrite w p v) s ∧ Ignores (.fpCakWrite w p v) s) ∧
  (∀ w e x s, w ≠ .pf0 → Ignores (.allowWrite w e x) s)

/-- The messages that form, fail and close a group and carry its vote (R194, R213, R231, R233, R247, R254). -/
def Obligations.GroupMessages : Prop :=
  (∀ h f s, h.typ = 5 → openFrame [] h = some f → f.ctype = 1 → rxInOrder s h = true → fabCalm s = true →
    groupFind s h.group = none →
    Answers (.joinMsg (.wire h)) s fun t =>
      t.fb.held = s.fb.held ++ [(h.node, f)] ∧ t.fb.groups = s.fb.groups ∧
        (pathAt t h.node h.port).rxNext = (pathAt s h.node h.port).rxNext + 1) ∧
  (∀ h f s s1 gix g, delivers s (.wire h) f s1 → f.typ = 5 → f.ctype = 1 → ctrlNew s1 f gix = true → groupAt s1 gix = some g →
    g.st ≠ 3 → f.body.take 48 ≠ g.digest →
    Answers (.joinMsg (.wire h)) s fun t =>
      ∃ g', groupAt t gix = some g' ∧ g'.st = 3 ∧ g'.lastErr = stLayout ∧ g'.lostRank = rankOnNode g h.node) ∧
  (∀ h f s s1 gix g, delivers s (.wire h) f s1 → f.typ = 5 → f.ctype = 2 → ctrlNew s1 f gix = true → groupAt s1 gix = some g →
    g.st ≠ 3 → f.body ≠ keyconfTag g →
    Answers (.keyconf (.wire h)) s fun t =>
      ∃ g', groupAt t gix = some g' ∧ g'.st = 3 ∧ g'.lastErr = stLayout ∧ g'.lostRank = rankOnNode g h.node) ∧
  (∀ h f s s1 gix g, delivers s (.wire h) f s1 → f.typ = 5 → f.ctype = 2 → ctrlNew s1 f gix = true → groupAt s1 gix = some g →
    fabCalm s = true → g.st = 1 → g.key ≠ [] → f.body = keyconfTag g →
    ownMembers s1 g ≤ (g.locals.filter (fun m => m.joined)).length →
    (remoteNodes s1 g).all (fun n => (peerAt g n).isSome) = true → g.peers.all (fun p => p.conf || p.node = h.node) = true →
    Answers (.keyconf (.wire h)) s fun t => ∃ g', groupAt t gix = some g' ∧ g'.st = 2 ∧ g'.key = g.key) ∧
  (∀ n gix g m p s, partsWf s = true → fabCalm s = true → partOf s n = some p → p.t0 = n → p.groupEn = true → p.prep.isSome = true →
    groupOfSlot s n p.group = some gix → groupAt s gix = some g → localAt g n = some m → localOfRank g m.rank = some m →
    g.st = 2 → g.vote = true → m.vote = none → m.dec = none → m.phase = 0 → m.kids = [] → m.rank ≠ 0 →
    treeKids g.members.length m.rank = [] →
    Answers (.voteMsg (.own n gix)) s fun t =>
      (∃ m', localMember t gix m.rank = some m' ∧ m'.vote = some (true, p.step.toNat) ∧ m'.phase = 1) ∧
        (∃ q, partOf t n = some q ∧ q.retained = true ∧ q.prep = p.prep.map (fun e => (e.1, m.round))) ∧
        sentTo s t (peerNode g (treeUp m.rank)) [ctrlOf g m.rank (treeUp m.rank) 3 p.step.toNat m.round [1]]) ∧
  (∀ src f s s1 gix m, delivers s src f s1 → f.typ = 5 → ctrlNew s1 f gix = true → fabCalm s = true → f.dstRank ≠ 0 →
    localMember s1 gix f.dstRank = some m → f.lseq = m.round →
    (f.ctype = 3 → Answers (.voteMsg src) s fun t => ∃ m', localMember t gix f.dstRank = some m' ∧
      m'.kids = m.kids.filter (fun v => v.1 ≠ f.srcRank) ++ [(f.srcRank, decide (f.body.headD 0 ≠ 0), f.step)]) ∧
    (f.ctype = 4 → m.phase < 2 → Answers (.decision src) s fun t => ∃ m', localMember t gix f.dstRank = some m' ∧
      m'.dec = some (decide (f.body.headD 0 ≠ 0), f.step) ∧ 2 ≤ m'.phase) ∧
    (f.ctype = 5 → Answers (.vack src) s fun t => ∃ m', localMember t gix f.dstRank = some m' ∧
      m'.acks = f.srcRank :: m.acks) ∧
    (f.ctype = 6 → Answers (.closed src) s fun t => ∃ m', localMember t gix f.dstRank = some m' ∧ m'.vote = none ∧
      m'.dec = none ∧ m'.phase = 0 ∧ m'.kids = [] ∧ m'.acks = [] ∧ m'.round = (m.round + 1) % 65536)) ∧
  (∀ src f s s1 gix g m, delivers s src f s1 → f.typ = 5 → f.ctype = 7 → ctrlNew s1 f gix = true → fabCalm s = true →
    groupAt s1 gix = some g → f.dstRank = 0 → localOfRank g 0 = some m → g.grpStep.toNat = f.step + 1 →
    Answers (.dquery src) s fun t =>
      sentTo s1 t (peerNode g f.srcRank) [ctrlOf g 0 f.srcRank 4 f.step f.lseq [1]] ∧
        ∃ g', groupAt t gix = some g' ∧ g'.st = g.st ∧ g'.locals = g.locals ∧ g'.grpStep = g.grpStep) ∧
  (∀ src f s s1 gix g, delivers s src f s1 → f.typ = 5 → ctrlNew s1 f gix = true → groupAt s1 gix = some g → g.st ≠ 3 →
    (f.ctype = 8 → f.body.getD 1 0 ≠ 0 → Answers (.failMsg src) s fun t =>
      ∃ g', groupAt t gix = some g' ∧ g'.st = 3 ∧ g'.lastErr = failStatus (f.body.headD 0) true ∧ g'.lostRank = f.srcRank) ∧
    (f.ctype = 9 → ∀ h, src = .wire h → Answers (.goneMsg src) s fun t =>
      ∃ g', groupAt t gix = some g' ∧ g'.st = 3 ∧ g'.lastErr = stMemberLost ∧ g'.lostRank = rankOnNode g h.node))

/-- Patrol scrub, row remap, evacuation, retraining and migration (R271, R272, R273, R274, R275, R276, R281, R283, R300). -/
def Obligations.MemoryRepair : Prop :=
  (∀ m e s, scrubReads s m = true → lineDead s (scrubLk s m) { e with line := scrubLk s m } = false →
    lineCorrected s (scrubLk s m) { e with line := scrubLk s m } = false →
    Answers (.patrolScrub m e) s fun t =>
      mcAt t m = { mcAt s m with pos := BitVec.ofNat 64 (scrubPos s m / 64 * 64 + 64) } ∧
        t = { s with mm := { s.mm with mcs := t.mm.mcs } }) ∧
  (∀ m e s, scrubReads s m = true → m < 16 → lineDead s (scrubLk s m) { e with line := scrubLk s m } = true → e.pcDead = false →
    Answers (.patrolScrub m e) s fun t =>
      (lineAt t (scrubLk s m)).uncorr = true ∧ (mcAt t m).ue = satInc (mcAt s m).ue ∧ t.mm.bytes = s.mm.bytes ∧
        (mcAt t m).pos = BitVec.ofNat 64 (scrubPos s m / 64 * 64 + 64) ∧ (unitAt t (mcUnit m)).evt.getLsbD 19 = true) ∧
  (∀ m e s, scrubReads s m = true → m < 16 → e.pcDead = true →
    Answers (.patrolScrub m e) s fun t =>
      (pcAt t (pcKey (lineFrame (scrubLk s m)))).st = 3 ∧ (mcAt t m).ue = satInc (mcAt s m).ue) ∧
  (∀ m pc row s, m < 16 → pc < mcPcs m → (pcAt s (m * 128 + pc)).pending.contains row = true →
    Answers (.rowRemapDone m pc row) s fun t =>
      (pcAt t (m * 128 + pc)).rows = (pcAt s (m * 128 + pc)).rows ++ [row] ∧
        (pcAt t (m * 128 + pc)).pending = (pcAt s (m * 128 + pc)).pending.filter (fun r => r ≠ row) ∧
        (mcAt t m).remap = satInc (mcAt s m).remap ∧ (unitAt t (mcUnit m)).evt.getLsbD 17 = true ∧
        otherPcs s t (m * 128 + pc)) ∧
  (∀ u m pc row s, mcIndex u = some m → present s.hw u = true → blockLive s u = true → pc < mcPcs m → row < pcFrames m * 32 →
    (pcAt s (m * 128 + pc)).pending.contains row = false → (pcAt s (m * 128 + pc)).st ≠ 3 → (pcAt s (m * 128 + pc)).spare ≠ 0 →
    Answers (.mcRemapCmd u .mgmt pc row) s fun t =>
      pcAt t (m * 128 + pc) = { pcAt s (m * 128 + pc) with spare := (pcAt s (m * 128 + pc)).spare - 1,
                                                           pending := (pcAt s (m * 128 + pc)).pending ++ [row] } ∧
        otherPcs s t (m * 128 + pc) ∧ t = { s with mm := { s.mm with pcs := t.mm.pcs } }) ∧
  (∀ u m pc scope s, mcIndex u = some m → present s.hw u = true → blockLive s u = true → pc < mcPcs m → scope < 3 →
    Answers (.mcEvac u .mgmt pc scope) s fun t =>
      (∀ j ∈ evacPcs m pc scope, 2 ≤ (pcAt t (m * 128 + j)).st) ∧ t.mm.bytes = s.mm.bytes ∧
        ((pcAt s (m * 128 + pc)).st < 2 → (unitAt t u).evt.getLsbD 16 = true)) ∧
  (∀ u w pc row scope s, w ≠ .mgmt ∨ blockLive s u = false → Ignores (.mcRemapCmd u w pc row) s ∧ Ignores (.mcEvac u w pc scope) s) ∧
  (∀ m pc ev g s, (pcAt s (m * 128 + pc)).mig = some g → mcWorks s m = true → g.src ≠ g.dst → (frameAt s g.src).st = 1 →
    pcKey g.dst ≠ m * 128 + pc → Memory.wf s.mm.bytes = true →
    Answers (.migrationCopyDone m pc ev) s fun t =>
      mapFind t.mm.frames g.dst = some (frameAt s g.src) ∧ redirect t g.src = g.dst ∧
        (∀ i, i < 65536 → byteAt t.mm.bytes (byteKey g.dst 0 + i) = byteAt s.mm.bytes (byteKey g.src 0 + i)) ∧
        (∀ a, inFrame g.dst a = false → inFrame g.src a = false → byteAt t.mm.bytes a = byteAt s.mm.bytes a)) ∧
  (∀ m ch a b s, m < 16 → 2 * ch + 1 < mcPcs m → present s.hw (mcUnit m) = true →
    Answers (.onlineRetraining m ch (some a, some b)) s fun t =>
      (pcAt t (m * 128 + 2 * ch)).lanes = retrained s m (2 * ch) a ∧
      (pcAt t (m * 128 + (2 * ch + 1))).lanes = retrained s m (2 * ch + 1) b ∧
      (∀ k, k ≠ m * 128 + 2 * ch → k ≠ m * 128 + (2 * ch + 1) → pcAt t k = pcAt s k) ∧ t.mm = { s.mm with pcs := t.mm.pcs }) ∧
  (∀ m ch b s, m < 16 → 2 * ch + 1 < mcPcs m → present s.hw (mcUnit m) = true →
    Answers (.onlineRetraining m ch (none, b)) s fun t => (pcAt t (m * 128 + 2 * ch)).st = 3) ∧
  (∀ m ch a s, m < 16 → 2 * ch + 1 < mcPcs m → present s.hw (mcUnit m) = true →
    Answers (.onlineRetraining m ch (a, none)) s fun t => (pcAt t (m * 128 + (2 * ch + 1))).st = 3)

/-- Far metadata, frames on their way to FREE, and the alarm registers (R266, R297, R301, R302, R303, R307). -/
def Obligations.FarAndFrames : Prop :=
  (∀ blk level idx b s, mapFind s.mm.far blk = some b → level ≤ 5 → idx < mdLines level → b.dirty.contains (mdKey level idx) = true →
    mapGet 0 b.nodes (mdKey level idx) ≠ 2 ^ 56 - 1 →
    Answers (.metadataEvict blk level idx) s fun t =>
      (∃ b', mapFind t.mm.far blk = some b' ∧
        mapGet 0 b'.nodes (mdKey level idx) = mapGet 0 b.nodes (mdKey level idx) + 1 ∧
        (∀ k, k ≠ mdKey level idx → mapFind b'.nodes k = mapFind b.nodes k) ∧ mdKey level idx ∉ b'.dirty ∧
        (level < 5 → mdKey (level + 1) (idx / 8) ∈ b'.dirty) ∧ b'.fail = b.fail) ∧
      t = { s with mm := { s.mm with far := t.mm.far } }) ∧
  (∀ blk level idx b s, mapFind s.mm.far blk = some b → level ≤ 5 → idx < mdLines level → b.dirty.contains (mdKey level idx) = true →
    mapGet 0 b.nodes (mdKey level idx) = 2 ^ 56 - 1 →
    Answers (.metadataEvict blk level idx) s fun t =>
      mapFind t.mm.far blk = some { b with nodes := [], dirty := [], kgen := b.kgen + 1 } ∧
        t.mm.metaRekey = satInc s.mm.metaRekey ∧ onlyMem s t) ∧
  (∀ blk b s, mapFind s.mm.far blk = some b → b.fail.isSome = true → farInUse s blk = false →
    Answers (.farBlockReinit blk) s fun t =>
      mapFind t.mm.far blk = some { base := b.base } ∧
        (∀ i, i < 12800 * 65536 → byteAt t.mm.bytes (byteKey (frameKey 2 (blk * 12800)) 0 + i) = 0) ∧
        (∀ a, (a < byteKey (frameKey 2 (blk * 12800)) 0 ∨ byteKey (frameKey 2 (blk * 12800)) 0 + 12800 * 65536 ≤ a) →
          byteAt t.mm.bytes a = byteAt s.mm.bytes a) ∧ onlyMemCaches s t) ∧
  (∀ blk b s, mapFind s.mm.far blk = some b → (b.fail = none ∨ farInUse s blk = true) → Ignores (.farBlockReinit blk) s) ∧
  (∀ tier f s, tier ≤ 2 → f < 2 ^ 26 → (frameAt s (frameKey tier f)).st = 2 →
    migrating s (frameKey tier f) = false →
    Answers (.frameDrained tier f) s fun t =>
      frameAt t (frameKey tier f) = { frameAt s (frameKey tier f) with st := 3 } ∧
        t = { s with mm := { s.mm with frames := t.mm.frames } }) ∧
  (∀ tier f s, tier ≤ 2 → f < 2 ^ 26 → (frameAt s (frameKey tier f)).st = 3 → farOk s (frameKey tier f) = true →
    migrating s (frameKey tier f) = false →
    Answers (.frameScrubDone tier f) s fun t =>
      mapFind t.mm.frames (frameKey tier f) = none ∧
        (∀ a, byteAt t.mm.bytes a = if inFrame (frameKey tier f) a then 0 else byteAt s.mm.bytes a) ∧
        (∀ r k, (frameAt s (frameKey tier f)).rel = some r → cmdAt s r = some k → k.job = .release (frameKey tier f) →
          k.status = none → k.abort = false →
          ∃ k', cmdAt t r = some k' ∧ k'.st = .ended ∧ k'.status = some stOk) ∧
        ((frameAt s (frameKey tier f)).rel = none →
          t = { s with mm := t.mm, tl := { s.tl with caches := t.tl.caches }, rg := { s.rg with objs := t.rg.objs } })) ∧
  (∀ tier f s, migrating s (frameKey tier f) = true →
    Ignores (.frameDrained tier f) s ∧ Ignores (.frameScrubDone tier f) s) ∧
  (∀ s, bar0Open s .pf0 = true →
    Answers (.encAlarmClear .pf0) s fun t =>
      t = { s with mm := { s.mm with alarm0 := 0, alarm1 := 0, alarm2 := 0, alarm3 := 0 } }) ∧
  (∀ w s, w ≠ .pf0 → Ignores (.encAlarmClear w) s)

/-- Accesses to ring windows, snoops, and link events of a host port (R308, R313, R314, R315, R325). -/
def Obligations.HostAccesses : Prop :=
  (∀ src off bs c s, portUp s (match src with | .cxlMem p => p | .vfBar2 p _ => p | .foreign p => p) = true → hdmDropped s src = false →
    hdmTarget s src off bs.length = some c →
    Answers (.hdmAccess src off (some bs) false) s fun t =>
      winRead t c (off % 2 ^ 21) bs.length = bs ∧
        (∀ a, (a < winBase c + off % 2 ^ 21 ∨ winBase c + off % 2 ^ 21 + bs.length ≤ a) →
          byteAt t.rg.win a = byteAt s.rg.win a) ∧
        t = { s with rg := { s.rg with win := t.rg.win, winBad := t.rg.winBad } }) ∧
  (∀ src off c s, hdmTarget s src off 0 = some c → Ignores (.hdmAccess src off none false) s) ∧
  (∀ src off bs c s, hdmTarget s src off bs.length = some c → Ignores (.hdmAccess src off (some bs) true) s) ∧
  (∀ p off s, portUp s p = true → hdmDropped s (.cxlMem p) = false → hdmTarget s (.cxlMem p) off 0 = none →
    Answers (.hdmAccess (.cxlMem p) off none false) s fun t =>
      (hportAt t p).deny = satInc (hportAt s p).deny ∧ onlyHport s t p) ∧
  (∀ p off wr s, portUp s p = true →
    Answers (.hdmAccess (.foreign p) off wr false) s fun t =>
      (hportAt t p).deny = satInc (hportAt s p).deny ∧ onlyHport s t p) ∧
  (∀ port addr s, exec (.snoop port addr) s = .next s) ∧
  (∀ blk b s, s.pw.on = true → mapFind s.mm.far blk = some b → b.fail = none →
    Answers (.atsInvalidate blk) s fun t =>
      mapFind t.mm.far blk = some { b with fail := some 2 } ∧ t.mm.bytes = s.mm.bytes ∧
        (unitAt t io0).evt.getLsbD 25 = true) ∧
  (∀ port speed width fl s, portUp s port = true → (if port = 0 then s.pn.perst0 else s.pn.perst1) = true →
    (unitAt s (.hport port)).state = .run → 1 ≤ speed → speed ≤ 4 →
    Answers (.hostLinkUp port speed width fl) s fun t =>
      hportAt t port = { hportAt s port with speed := speed, width := min (if s.hw.split then 8 else 16) width, flit256 := fl || speed = 4 } ∧
        (unitAt t (.hport port)).evt.getLsbD 16 = true) ∧
  (∀ port s, portUp s port = true →
    Answers (.correctableLinkError port) s fun t =>
      (hportAt t port).ce = satInc (hportAt s port).ce ∧ onlyHport s t port) ∧
  (∀ port c q k s, portUp s port = true → cmdAt s { ctx := c, qid := q } = some k → k.st = .busy → k.job = .dma →
    k.status = none → k.abort = false → ctxPort s c = port →
    Answers (.completionTimeout port (some (c, q)) none) s fun t =>
      (hportAt t port).cto = satInc (hportAt s port).cto ∧
        ∃ k', cmdAt t { ctx := c, qid := q } = some k' ∧ k'.st = .ended ∧ k'.status = some stHostErr) ∧
  (∀ port s, portUp s port = true →
    Answers (.viral port) s fun t =>
      (hportAt t port).viral = true ∧ (unitAt t (.hport port)).evt.getLsbD 20 = true ∧
        (partsWf s = true → ∀ n p, partOf s n = some p → p.run.isSome = true → ctxPort s p.ctx = port →
          ∃ q r, partOf t n = some q ∧ q.run = some r ∧ r.stop.isSome = true))

/-- Events that disable functions, and the enables of a function (R311, R321, R322, R323, R325, R326). -/
def Obligations.DisablingEvents : Prop :=
  (∀ port vf s, vfThere s port vf = true → (funcAt s (vfKey port vf)).nrdy = false →
    Answers (.vfFlr port vf) s fun t =>
      disabledFn s t (vfKey port vf) ∧ (funcAt t (vfKey port vf)).bme = false ∧ (funcAt t (vfKey port vf)).mse = false ∧
        (hportAt t port).flr = satInc (hportAt s port).flr) ∧
  (∀ port s, portUp s port = true →
    Answers (.pfFlr port) s fun t =>
      portOff s t port ∧ (hportAt t port).numVfs = 0 ∧ (hportAt t port).vfEn = false ∧
        (hportAt t port).flr = satInc (hportAt s port).flr) ∧
  (∀ port s, portUp s port = true → (funcAt s port).nrdy = false → (hportAt s port).vfEn = true →
    Answers (.vfEnableClear port) s fun t =>
      (hportAt t port).vfEn = false ∧ (hportAt t port).flr = satInc (hportAt s port).flr ∧
        ∀ fk ∈ portFuncs s port, (funcAt s fk).nrdy = false → disabledFn s t fk) ∧
  (∀ port n en s, portUp s port = true → (funcAt s port).nrdy = false → n + (hportAt s (1 - port)).numVfs ≤ 512 →
    Answers (.numvfsWrite port n en) s fun t =>
      (hportAt t port).numVfs = n ∧ (hportAt t port).vfEn = ((hportAt s port).vfEn || en) ∧
        (n ≠ (hportAt s port).numVfs → ∀ fk ∈ portFuncs s port, (funcAt s fk).nrdy = false → disabledFn s t fk) ∧
        (n = (hportAt s port).numVfs → onlyHport s t port)) ∧
  (∀ port n en s, 512 < n + (hportAt s (1 - port)).numVfs → Ignores (.numvfsWrite port n en) s) ∧
  (∀ port s, portUp s port = true →
    Answers (.hostLinkDown port) s fun t =>
      portOff s t port ∧ (unitAt t (.hport port)).inc = (unitAt s (.hport port)).inc + 1 ∧
        (unitAt t (.hport port)).evt.getLsbD 16 = true ∧ (hportAt t port).speed = 0 ∧ (hportAt t port).numVfs = 0 ∧
        (hportAt t port).negMaj = 0 ∧ (hportAt t port).deny = 0 ∧ t.ks.sessions.all (fun x => x.doe ≠ some port) = true) ∧
  (∀ port vf s, funcThere s port vf = true → (funcAt s (funcKey port vf)).nrdy = false →
    ((funcAt s (funcKey port vf)).bme = false →
      Answers (.bmeClear port vf true) s fun t =>
        funcAt t (funcKey port vf) = { funcAt s (funcKey port vf) with bme := true } ∧ onlyFunc s t (funcKey port vf)) ∧
    ((funcAt s (funcKey port vf)).mse = false →
      Answers (.mseClear port vf true) s fun t =>
        funcAt t (funcKey port vf) = { funcAt s (funcKey port vf) with mse := true } ∧ onlyFunc s t (funcKey port vf)) ∧
    ((funcAt s (funcKey port vf)).bme = true →
      Answers (.bmeClear port vf false) s fun t =>
        (funcAt t (funcKey port vf)).bme = false ∧
          ((funcAt s (funcKey port vf)).tdi = 0 → onlyFunc s t (funcKey port vf)) ∧
          ((funcAt s (funcKey port vf)).tdi = 2 → (funcAt t (funcKey port vf)).tdi = 3)) ∧
    ((funcAt s (funcKey port vf)).mse = true →
      Answers (.mseClear port vf false) s fun t =>
        (funcAt t (funcKey port vf)).mse = false ∧
          ((funcAt s (funcKey port vf)).tdi = 0 → onlyFunc s t (funcKey port vf)) ∧
          ((funcAt s (funcKey port vf)).tdi = 2 → (funcAt t (funcKey port vf)).tdi = 3)))

/-- Link encryption and TDISP (R317, R318, R319, R320). -/
def Obligations.LinkSecurity : Prop :=
  (∀ port st s, portUp s port = true → spdmUp s port = true → st < 10 →
    Answers (.ideKeyProgram port st) s fun t =>
      (hportAt t port).secure.contains st = true ∧ (hportAt t port).halted.contains st = false ∧
        (hportAt t port).ideLow.contains st = false ∧ onlyHport s t port) ∧
  (∀ port st s, spdmUp s port = false → Ignores (.ideKeyProgram port st) s) ∧
  (∀ port st s, portUp s port = true → (hportAt s port).secure.contains st = true →
    (Answers (.ideIntegrityFail port st .integrity) s fun t =>
      (hportAt t port).halted.contains st = true ∧ (hportAt t port).secure.contains st = false ∧
        t.mm.alarm3.getLsbD 31 = true ∧ (unitAt t (.hport port)).evt.getLsbD 18 = true) ∧
    (Answers (.ideIntegrityFail port st .exhausted) s fun t =>
      (hportAt t port).halted.contains st = true ∧ (hportAt t port).secure = (hportAt s port).secure ∧
        (unitAt t (.hport port)).evt.getLsbD 18 = true) ∧
    ((hportAt s port).ideLow.contains st = false → Answers (.ideIntegrityFail port st .low) s fun t =>
      (hportAt t port).ideLow = (hportAt s port).ideLow ++ [st] ∧ (hportAt t port).halted = (hportAt s port).halted ∧
        (unitAt t (.hport port)).evt.getLsbD 17 = true)) ∧
  (∀ port vf st s, vfThere s port vf = true → spdmUp s port = true → (funcAt s (vfKey port vf)).tdi = 0 →
    (funcAt s (vfKey port vf)).nrdy = false → lockRefused s port vf st = false →
    Answers (.lockInterfaceRequest port vf st) s fun t =>
      funcAt t (vfKey port vf) = { funcAt s (vfKey port vf) with tdi := 1, stream := st, nonce := randBytes s 32 } ∧
        (∀ j, j ≠ vfKey port vf → funcAt t j = funcAt s j) ∧
        t = { s with free := t.free, rg := { s.rg with funcs := t.rg.funcs } }) ∧
  (∀ port vf s, vfThere s port vf = true → spdmUp s port = true → (funcAt s (vfKey port vf)).tdi = 1 →
    (Answers (.startInterfaceRequest port vf (funcAt s (vfKey port vf)).nonce) s fun t =>
      funcAt t (vfKey port vf) = { funcAt s (vfKey port vf) with tdi := 2, nonce := [] } ∧ onlyFunc s t (vfKey port vf)) ∧
    ∀ x, x ≠ (funcAt s (vfKey port vf)).nonce → Ignores (.startInterfaceRequest port vf x) s) ∧
  (∀ port vf s, vfThere s port vf = true → spdmUp s port = true → (funcAt s (vfKey port vf)).tdi ≠ 0 →
    (funcAt s (vfKey port vf)).nrdy = false →
    Answers (.stopInterface port vf) s fun t =>
      (funcAt t (vfKey port vf)).finc = (funcAt s (vfKey port vf)).finc + 1 ∧
        ((funcAt t (vfKey port vf)).nrdy = false → (funcAt t (vfKey port vf)).tdi = 0 ∧ (funcAt t (vfKey port vf)).stop = false) ∧
        ((funcAt t (vfKey port vf)).nrdy = true → (funcAt t (vfKey port vf)).stop = true)) ∧
  (∀ port vf s, vfThere s port vf = true → (funcAt s (vfKey port vf)).nrdy = false →
    ((funcAt s (vfKey port vf)).tdi = 1 ∨ (funcAt s (vfKey port vf)).tdi = 2) →
    Answers (.frozenConfigurationWrite port vf) s fun t => (funcAt t (vfKey port vf)).tdi = 3 ∧
      (funcAt t (vfKey port vf)).finc = (funcAt s (vfKey port vf)).finc + 1) ∧
  (∀ port vf s, (funcAt s (vfKey port vf)).tdi = 0 → Ignores (.frozenConfigurationWrite port vf) s)

/-- How a ring row reads its queue's next entry, and how fence waits end (R329, R333, R335, R336, R350, R351). -/
def Obligations.EntriesTaken : Prop :=
  (∀ e ∈ ringRows, ∀ ctx qid q bs st s, fabCalm s = true → queueAt s (qRef ctx qid) = some q → mayRead q = true →
    entryBytes s (qRef ctx qid) q = some bs → eOpc (leVal bs) = e.2 → entryCheck s (qRef ctx qid) (leVal bs) = some st →
    Answers (e.1 ctx qid) s fun t =>
      queueAt t (qRef ctx qid) = some { q with head := (q.head + 1) % 2 ^ q.sqLog2,
                                               cmd := some { entry := bs, st := .ended, status := some st } } ∧
        onlyQueue s t (qRef ctx qid)) ∧
  (∀ e ∈ ringRows, ∀ ctx qid q bs o f s, fabCalm s = true → queueAt s (qRef ctx qid) = some q → mayRead q = true →
    entryBytes s (qRef ctx qid) q = some bs → eOpc (leVal bs) = e.2 → entryCheck s (qRef ctx qid) (leVal bs) = none →
    eWaitEn (leVal bs) = true → handleObj s (eCtx (leVal bs)) (eWaitH (leVal bs)) 2 = some o → objAt s o = some f →
    fenceWait f (eWaitVal (leVal bs)) = .stand →
    Answers (e.1 ctx qid) s fun t =>
      (∃ k, cmdAt t (qRef ctx qid) = some k ∧ k.st = .waiting ∧ k.entry = bs ∧ k.wobj = some o ∧ k.status = none) ∧
        onlyQueue s t (qRef ctx qid)) ∧
  (∀ e ∈ ringRows, ∀ ctx qid q s, fabCalm s = true → queueAt s (qRef ctx qid) = some q → mayRead q = true →
    entryBytes s (qRef ctx qid) q = none →
    Answers (e.1 ctx qid) s fun t => ∃ q', queueAt t (qRef ctx qid) = some q' ∧ q'.st = .fault ∧ q'.head = q.head) ∧
  (∀ e ∈ ringRows, ∀ ctx qid q s, fabCalm s = true → queueAt s (qRef ctx qid) = some q → q.cmd = none → q.head = q.tail →
    Ignores (e.1 ctx qid) s) ∧
  (∀ ctx qid k o f s, cmdAt s (qRef ctx qid) = some k → k.st = .waiting → k.wobj = some o → objAt s o = some f →
    k.status = none → k.abort = false → k.job = .none' → (queueAt s (qRef ctx qid)).any recordFree = true →
    (fenceWait f (eWaitVal (leVal k.entry)) = .go → Answers (.fenceWaitRelease ctx qid) s fun t =>
      cmdAt t (qRef ctx qid) = some { k with st := .ready } ∧ onlyQueue s t (qRef ctx qid)) ∧
    (∀ st, fenceWait f (eWaitVal (leVal k.entry)) = .fail st → Answers (.fenceWaitRelease ctx qid) s fun t =>
      endedAs t (qRef ctx qid) k st 0 ∧ onlyQueue s t (qRef ctx qid)) ∧
    (fenceWait f (eWaitVal (leVal k.entry)) = .stand → Ignores (.fenceWaitRelease ctx qid) s)) ∧
  (∀ f x, (f.value ≠ fenceTop → (fenceWait f x = .go ↔ x ≤ f.value)) ∧
    (f.value = fenceTop → x ≤ f.last → fenceWait f x = .go) ∧
    (f.value = fenceTop → f.last < x → fenceWait f x = .fail f.tstatus))

/-- Doorbells, completion records, released objects and lost events (R332, R333, R337, R338, R347, R349). -/
def Obligations.RingEvents : Prop :=
  (∀ src ctx qn tail q s, dbReaches s src ctx = true → queueAt s (qRef ctx (qn % 32)) = some q → q.st = .idle →
    tail % 4096 < 2 ^ q.sqLog2 →
    Answers (.sqTail src ctx qn tail) s fun t =>
      queueAt t (qRef ctx (qn % 32)) = some { q with tail := tail % 4096 } ∧ onlyQueue s t (qRef ctx (qn % 32))) ∧
  (∀ src ctx qn tail q s, dbReaches s src ctx = true → queueAt s (qRef ctx (qn % 32)) = some q → q.st = .idle →
    2 ^ q.sqLog2 ≤ tail % 4096 →
    Answers (.sqTail src ctx qn tail) s fun t => ∃ q', queueAt t (qRef ctx (qn % 32)) = some q' ∧ q'.st = .fault) ∧
  (∀ src ctx qn head q s, dbReaches s src ctx = true → queueAt s (qRef ctx (qn % 32)) = some q → q.cq.backlog = [] →
    head % 4096 < ringSize q.cq →
    Answers (.cqHead src ctx qn head) s fun t =>
      queueAt t (qRef ctx (qn % 32)) = some { q with cq := { q.cq with head := head % 4096, used := usedAfter q.cq (head % 4096) } } ∧
        onlyQueue s t (qRef ctx (qn % 32))) ∧
  (∀ src ctx head r s, dbReaches s src ctx = true → (ctxAt s ctx).evr = some r → r.backlog = [] → head % 4096 < ringSize r →
    Answers (.evqHead src ctx head) s fun t =>
      (ctxAt t ctx).evr = some { r with head := head % 4096, used := usedAfter r (head % 4096) } ∧
        t = { s with rg := { s.rg with ctxs := t.rg.ctxs } }) ∧
  (∀ src ctx n m s, (funcAt s (srcFunc src)).mse = true → dbMapped s src ctx = true → dbTaken s src ctx = false →
    ∀ c ∈ [Instr.sqTail src ctx n m, Instr.cqHead src ctx n m, Instr.evqHead src ctx m],
      Answers c s fun t => (hportAt t (srcPort src)).dbDrop = satInc (hportAt s (srcPort src)).dbDrop ∧
        onlyHport s t (srcPort src)) ∧
  (∀ ctx qid q k st s, queueAt s (qRef ctx qid) = some q → q.cmd = some k → k.st = .ended → k.status = some st → recordFree q = true →
    Answers (.commandComplete ctx qid) s fun t =>
      winRead t ctx (q.cq.off + 32 * q.cq.tail) 32 = recordOf (qRef ctx qid) q k st ∧
        (∃ q', queueAt t (qRef ctx qid) = some q' ∧ q'.cmd = none ∧ q'.cq.used = q.cq.used + 1 ∧
          q'.cq.tail = (q.cq.tail + 1) % ringSize q.cq ∧ q'.head = q.head) ∧
        (∀ o x, k.sobj = some o → objAt s o = some x → x.typ = 2 → eSigEn (leVal k.entry) = true → st = stOk →
          objAt t o = some (fenceSignal x (eSigVal (leVal k.entry)))) ∧
        (st = stAborted → t.rg.objs = s.rg.objs) ∧ onlyRings s t) ∧
  (∀ obj x s, objAt s obj = some x → x.releasing = false → x.host = 0 → devCount s obj = 0 → x.typ ≠ 1 →
    Answers (.objRelease obj) s fun t =>
      objAt t obj = none ∧ (∀ o, o ≠ obj → objAt t o = objAt s o) ∧
        (x.typ = 4 → t.mm.prots = s.mm.prots.filter (fun p => p.id ≠ obj)) ∧ (x.typ = 2 → onlyRings s t)) ∧
  (∀ obj x s, objAt s obj = some x → x.releasing = false → x.host = 0 → devCount s obj = 0 → x.typ = 1 →
    pageAwaited s x.owner (mappedPages s x.owner x.base x.size) = false →
    Answers (.objRelease obj) s fun t =>
      (objAt t obj = none ∨ ∃ y, objAt t obj = some y ∧ y.releasing = true ∧ y.awaits ≠ []) ∧
        ∀ a ∈ mappedPages s x.owner x.base x.size, mapFind t.mm.ptes (pteKey x.owner a) = none) ∧
  (∀ obj x s, objAt s obj = some x → x.releasing = true → x.awaits = [] →
    Answers (.objRelease obj) s fun t => objAt t obj = none ∧ (∀ o, o ≠ obj → objAt t o = objAt s o)) ∧
  (∀ obj x s, objAt s obj = some x → x.releasing = true → x.awaits ≠ [] → Ignores (.objRelease obj) s) ∧
  (∀ obj x s, objAt s obj = some x → x.releasing = false → (x.host ≠ 0 ∨ devCount s obj ≠ 0) → Ignores (.objRelease obj) s) ∧
  (∀ ctx r s, (ctxAt s ctx).evr = some r → r.lost ≠ 0 → r.backlog.length < 1024 →
    Answers (.evOverflow ctx true) s fun t => onlyRings s t ∧
      ∃ r', (ctxAt t ctx).evr = some r' ∧ r'.lost = 0 ∧
        r'.used + r'.backlog.length = r.used + r.backlog.length + 1) ∧
  (∀ port q s, port < 2 → isAdminCtx s.hw (adminCtxOf port) = true → queueAt s (qRef (adminCtxOf port) 0) = some q →
    q.cq.lost ≠ 0 → q.cq.backlog.length < 1024 →
    Answers (.evOverflow (adminCtxOf port) false) s fun t => onlyRings s t ∧
      ∃ q', queueAt t (qRef (adminCtxOf port) 0) = some q' ∧ q'.cq.lost = 0 ∧
        q'.cq.used + q'.cq.backlog.length = q.cq.used + q.cq.backlog.length + 1)

/-- Ring commands over the interface, contexts, functions and queues (R303, R312, R315, R316, R322, R328, R330, R331, R339, R340, R352). -/
def Obligations.ContextCommands : Prop :=
  (∀ ctx qid k s, ready s (qRef ctx qid) 0x00 k →
    Answers (.ringNop ctx qid) s fun t => endedAs t (qRef ctx qid) k stOk 0 ∧ onlyQueue s t (qRef ctx qid)) ∧
  (∀ ctx qid k s, ready s (qRef ctx qid) 0x01 k →
    Answers (.identify ctx qid) s fun t =>
      endedAs t (qRef ctx qid) k stOk (variantCode s.hw.variant + boolNat s.hw.split <<< 2 + fwMajMin s <<< 8 + fwMajMax s <<< 16
        + fwMinorAt s (fwMajMax s) <<< 24) ∧ onlyQueue s t (qRef ctx qid)) ∧
  (∀ ctx qid k s lo hi, ready s (qRef ctx qid) 0x02 k → lo = pay (leVal k.entry) 0x20 7 0 → hi = pay (leVal k.entry) 0x20 15 8 →
    lo ≠ 0 → lo ≤ hi → lo ≤ min hi (fwMajMax s) → fwMajMin s ≤ min hi (fwMajMax s) → s.fw.runMgmt.isSome = true →
    (hportAt s (ctxPort s ctx)).negMaj = 0 →
    Answers (.ifNegotiate ctx qid) s fun t =>
      (hportAt t (ctxPort s ctx)).negMaj = min hi (fwMajMax s) ∧
        (hportAt t (ctxPort s ctx)).effMin = min (pay (leVal k.entry) 0x20 23 16) (fwMinorAt s (min hi (fwMajMax s))) ∧
        (∃ k', cmdAt t (qRef ctx qid) = some k' ∧ k'.st = .ended ∧ k'.status = some stOk) ∧ onlyRings s t) ∧
  (∀ ctx qid k s c, ready s (qRef ctx qid) 0x03 k → c = pay (leVal k.entry) 0x20 11 0 → c < 512 → isAdminCtx s.hw c = false →
    (ctxAt s c).st = .free →
    Answers (.ctxCreate ctx qid) s fun t =>
      ctxAt t c = { ctxAt s c with st := .active, port := ctxPort s ctx, vf := none } ∧ endedAs t (qRef ctx qid) k stOk 0 ∧
        (∀ d, d ≠ c → ctxAt t d = ctxAt s d)) ∧
  (∀ ctx qid k s, ready s (qRef ctx qid) 0x04 k → isAdminCtx s.hw (eCtx (leVal k.entry)) = false →
    (ctxAt s (eCtx (leVal k.entry))).st = .active → (ctxAt s (eCtx (leVal k.entry))).vf = none →
    Answers (.ctxDestroy ctx qid) s fun t =>
      (ctxAt t (eCtx (leVal k.entry))).st = .disabling ∧ (ctxAt t (eCtx (leVal k.entry))).destroy = some (qRef ctx qid) ∧
        (ctxAt t (eCtx (leVal k.entry))).burn = 0) ∧
  (∀ ctx qid k s c vf, ready s (qRef ctx qid) 0x05 k → c = eCtx (leVal k.entry) → vf = pay (leVal k.entry) 0x20 8 0 →
    isAdminCtx s.hw c = false → (ctxAt s c).vf = none →
    s.rg.ctxs.any (fun e => e.2.st ≠ .free && e.2.port = ctxPort s c && e.2.vf = some vf) = false →
    Answers (.vfBind ctx qid) s fun t =>
      ctxAt t c = { ctxAt s c with vf := some vf } ∧ endedAs t (qRef ctx qid) k stOk 0 ∧ (∀ d, d ≠ c → ctxAt t d = ctxAt s d) ∧
        onlyRings s t) ∧
  (∀ ctx qid k s c, ready s (qRef ctx qid) 0x06 k → c = eCtx (leVal k.entry) →
    (ctxAt s c).vf = some (pay (leVal k.entry) 0x20 8 0) → ctxQueues s c = [] → ctxTdi s c = 0 →
    (ctxParts s c).any (fun p => p.st = .running) = false →
    Answers (.vfUnbind ctx qid) s fun t =>
      ctxAt t c = { ctxAt s c with vf := none } ∧ endedAs t (qRef ctx qid) k stOk 0 ∧ onlyRings s t) ∧
  (∀ ctx qid k s fn base size, ready s (qRef ctx qid) 0x07 k → fn = pay (leVal k.entry) 0x20 9 0 → fn < 512 →
    base = pay (leVal k.entry) 0x28 63 0 → size = pay (leVal k.entry) 0x30 63 0 → base % 4096 = 0 → size % 4096 = 0 →
    (funcAt s (vfKey (ctxPort s ctx) fn)).tdi = 0 →
    Answers (.dmaWindow ctx qid) s fun t =>
      mapFind (funcAt t (vfKey (ctxPort s ctx) fn)).wins (pay (leVal k.entry) 0x22 3 0) =
        (if size = 0 then none else some { write := decide (pay (leVal k.entry) 0x22 4 4 = 1), base := base, size := size }) ∧
      endedAs t (qRef ctx qid) k stOk 0 ∧ onlyRings s t) ∧
  (∀ ctx qid k s blk base, ready s (qRef ctx qid) 0x08 k → blk = pay (leVal k.entry) 0x20 11 0 →
    base = pay (leVal k.entry) 0x28 63 0 →
    (pay (leVal k.entry) 0x20 12 12 = 0 → base % 2 ^ 30 = 0 → mapFind s.mm.far blk = none →
      Answers (.farWindow ctx qid) s fun t =>
        mapFind t.mm.far blk = some { base := BitVec.ofNat 64 base } ∧ endedAs t (qRef ctx qid) k stOk 0) ∧
    (pay (leVal k.entry) 0x20 12 12 = 1 → (mapFind s.mm.far blk).isSome = true → farInUse s blk = false →
      Answers (.farWindow ctx qid) s fun t =>
        mapFind t.mm.far blk = none ∧ endedAs t (qRef ctx qid) k stOk 0 ∧ t.mm.bytes = s.mm.bytes) ∧
    (∀ b, pay (leVal k.entry) 0x20 12 12 = 0 → base % 2 ^ 30 = 0 → mapFind s.mm.far blk = some b → b.fail = some 2 → b.rooted = true →
      Answers (.farWindow ctx qid) s fun t =>
        mapFind t.mm.far blk = some { b with base := BitVec.ofNat 64 base, fail := none } ∧ endedAs t (qRef ctx qid) k stOk 0 ∧
          t.mm.bytes = s.mm.bytes)) ∧
  (∀ ctx qid k s c n sl cl vec sqOff cqOff o i, ready s (qRef ctx qid) 0x14 k → c = eCtx (leVal k.entry) →
    pay (leVal k.entry) 0x20 5 5 = 0 → n = pay (leVal k.entry) 0x20 4 0 → sl = pay (leVal k.entry) 0x20 11 8 →
    cl = pay (leVal k.entry) 0x20 15 12 → vec = pay (leVal k.entry) 0x20 22 16 → sqOff = pay (leVal k.entry) 0x24 31 0 →
    cqOff = pay (leVal k.entry) 0x28 31 0 → ringGeom (ringSpans s c) sqOff sl 64 = true →
    ringGeom ((sqOff, 64 * 2 ^ sl) :: ringSpans s c) cqOff cl 32 = true → vectorOk s c vec = true →
    queueAt s (qRef c n) = none → isAdminRing s (qRef c n) = false → s.rg.objs.length < 262144 →
    freeObj s.rg.objs 262144 1 = some o → freeIndex (ctxAt s c).handles 16383 1 = some i →
    Answers (.queueCreate ctx qid) s fun t =>
      (∃ q, queueAt t (qRef c n) = some q ∧ q.st = .idle ∧ q.sqOff = sqOff ∧ q.sqLog2 = sl ∧ q.head = 0 ∧ q.tail = 0 ∧
        q.cmd = none ∧ q.obj = o ∧ q.cq.off = cqOff ∧ q.cq.log2 = cl ∧ q.cq.vector = vec ∧ q.cq.phase = true) ∧
      (∃ x, objAt t o = some x ∧ x.typ = 3 ∧ x.owner = c) ∧ handleOpened s t c i o true ∧
      mapGet 0 (ctxAt t c).qinc n = mapGet 0 (ctxAt s c).qinc n + 1 ∧
      endedAs t (qRef ctx qid) k stOk (handleVal i (handleGen t c i))) ∧
  (∀ ctx qid k s, ready s (qRef ctx qid) 0x15 k → eCtx (leVal k.entry) ≠ ctx → mapSorted s.rg.queues = true →
    Answers (.abortQueues ctx qid) s fun t =>
      ∀ n q, n < 64 → queueAt s (qRef (eCtx (leVal k.entry)) n) = some q → bitOf (pay (leVal k.entry) 0x20 31 0) n = true →
        (∃ q', queueAt t (qRef (eCtx (leVal k.entry)) n) = some q' ∧
          q'.st = (if q.cmd.isSome ∨ q.head ≠ q.tail then .aborting else .idle) ∧ q'.head = q.head) ∧
        mapGet 0 (ctxAt t (eCtx (leVal k.entry))).qinc n = mapGet 0 (ctxAt s (eCtx (leVal k.entry))).qinc n + 1)

/-- Ring commands over objects, handles and fences (R343, R344, R345, R346, R349, R350). -/
def Obligations.ObjectCommands : Prop :=
  (∀ ctx qid k s typ base size o i, ready s (qRef ctx qid) 0x10 k → typ = pay (leVal k.entry) 0x20 3 0 →
    base = pay (leVal k.entry) 0x28 63 0 → size = pay (leVal k.entry) 0x30 63 0 →
    objArgsOk s (eCtx (leVal k.entry)) typ base size = true → s.rg.objs.length < 262144 →
    freeObj s.rg.objs 262144 1 = some o → freeIndex (ctxAt s (eCtx (leVal k.entry))).handles 16383 1 = some i →
    Answers (.objCreate ctx qid) s fun t =>
      (∃ x, objAt t o = some x ∧ x.typ = typ ∧ x.owner = eCtx (leVal k.entry) ∧ x.base = base ∧ x.size = size ∧ x.host = 1 ∧
        x.value = (if typ = 2 then base else 0)) ∧
      (∀ p, p ≠ o → objAt t p = objAt s p) ∧ handleOpened s t (eCtx (leVal k.entry)) i o true ∧
      endedAs t (qRef ctx qid) k stOk (handleVal i (handleGen t (eCtx (leVal k.entry)) i)) ∧ onlyRings s t) ∧
  (∀ ctx qid k s c o x i, ready s (qRef ctx qid) 0x09 k → c = pay (leVal k.entry) 0x24 11 0 → c < 512 → (ctxAt s c).st = .active →
    k.pobj = some o → objAt s o = some x → x.host + 1 < 2 ^ 32 → freeIndex (ctxAt s c).handles 16383 1 = some i →
    Answers (.objShare ctx qid) s fun t =>
      objAt t o = some { x with host := x.host + 1 } ∧ handleOpened s t c i o (decide (pay (leVal k.entry) 0x24 12 12 = 1)) ∧
        endedAs t (qRef ctx qid) k stOk (handleVal i (handleGen t c i)) ∧ onlyRings s t) ∧
  (∀ ctx qid k s i h o x n, ready s (qRef ctx qid) 0x11 k → payNames s (leVal k.entry) i h o x →
    n = pay (leVal k.entry) 0x24 31 0 → countOk n = true → h.count + n < 2 ^ 32 → x.host + n < 2 ^ 32 →
    Answers (.objRef ctx qid) s fun t =>
      objAt t o = some { x with host := x.host + n } ∧
        mapFind (ctxAt t (eCtx (leVal k.entry))).handles i = some { h with count := h.count + n } ∧
        endedAs t (qRef ctx qid) k stOk 0 ∧ onlyRings s t) ∧
  (∀ ctx qid k s i h o x n, ready s (qRef ctx qid) 0x12 k → payNames s (leVal k.entry) i h o x →
    n = pay (leVal k.entry) 0x24 31 0 → countOk n = true → n ≤ h.count → x.typ ≠ 2 →
    Answers (.objUnref ctx qid) s fun t =>
      objAt t o = some { x with host := x.host - n } ∧
        mapFind (ctxAt t (eCtx (leVal k.entry))).handles i =
          some { h with count := h.count - n, obj := if h.count = n then none else some o } ∧
        endedAs t (qRef ctx qid) k stOk 0 ∧ onlyRings s t) ∧
  (∀ ctx qid k s o x, ready s (qRef ctx qid) 0x13 k → k.pobj = some o → objAt s o = some x →
    Answers (.objQuery ctx qid) s fun t =>
      endedAs t (qRef ctx qid) k stOk ((devCount s o - 1) % 2 ^ 32 + x.host <<< 32
        + (if x.typ = 2 then x.value else x.typ + boolNat x.releasing <<< 4 + x.owner <<< 8 + x.ownerH <<< 32) <<< 64) ∧
      onlyQueue s t (qRef ctx qid)) ∧
  (∀ ctx qid k s o x, ready s (qRef ctx qid) 0x16 k → k.pobj = some o → objAt s o = some x → x.typ = 2 → x.value ≠ fenceTop →
    Answers (.fenceAbandon ctx qid) s fun t =>
      objAt t o = some { x with last := x.value, value := fenceTop, tstatus := stAbandoned } ∧
        (∀ p, p ≠ o → objAt t p = objAt s p) ∧ endedAs t (qRef ctx qid) k stOk 0 ∧ onlyRings s t)

/-- Ring commands over pages, frames and DMA (R263, R265, R266, R267, R268, R277, R294, R316). -/
def Obligations.MemoryCommands : Prop :=
  (∀ ctx qid k s x dva p s1, ready s (qRef ctx qid) 0x18 k → memObj s (qRef ctx qid) = some x →
    pay (leVal k.entry) 0x24 31 0 * 65536 < x.size → dva = x.base + pay (leVal k.entry) 0x24 31 0 * 65536 →
    p = pay (leVal k.entry) 0x28 63 0 →
    mapRefusal s (eCtx (leVal k.entry)) dva p (pay (leVal k.entry) 0x30 0 0 = 1) = none →
    tablesFor s (tableKeys (eCtx (leVal k.entry)) dva) = some s1 →
    Answers (.memMap ctx qid) s fun t =>
      mapFind t.mm.ptes (pteKey (eCtx (leVal k.entry)) dva) = some (BitVec.ofNat 64 p) ∧
        (∀ j, j ≠ pteKey (eCtx (leVal k.entry)) dva → mapFind t.mm.ptes j = mapFind s.mm.ptes j) ∧
        ((frameAt s (frameKey (bitsOf p 3 2) (bitsOf p 41 16))).st = 0 →
          (frameAt t (frameKey (bitsOf p 3 2) (bitsOf p 41 16))).st = 1 ∧
          (frameAt t (frameKey (bitsOf p 3 2) (bitsOf p 41 16))).owner = eCtx (leVal k.entry) ∧
          ∀ a, inFrame (frameKey (bitsOf p 3 2) (bitsOf p 41 16)) a = true → byteAt t.mm.bytes a = 0) ∧
        endedAs t (qRef ctx qid) k stOk 0) ∧
  (∀ ctx qid k s x page n, ready s (qRef ctx qid) 0x19 k → memObj s (qRef ctx qid) = some x →
    page = pay (leVal k.entry) 0x24 31 0 → n = pay (leVal k.entry) 0x28 31 0 → (page + n) * 65536 ≤ x.size →
    (mappedPages s (eCtx (leVal k.entry)) (x.base + page * 65536) (n * 65536)).any (frozenAt s (eCtx (leVal k.entry))) = false →
    pageAwaited s (eCtx (leVal k.entry)) (mappedPages s (eCtx (leVal k.entry)) (x.base + page * 65536) (n * 65536)) = false →
    Answers (.memUnmap ctx qid) s fun t =>
      (∀ a ∈ mappedPages s (eCtx (leVal k.entry)) (x.base + page * 65536) (n * 65536),
        mapFind t.mm.ptes (pteKey (eCtx (leVal k.entry)) a) = none) ∧
      t.mm.bytes = s.mm.bytes ∧ t.mm.frames = s.mm.frames ∧ endedAs t (qRef ctx qid) k stOk 0) ∧
  (∀ ctx qid k s tier f, ready s (qRef ctx qid) 0x1A k → tier = pay (leVal k.entry) 0x20 1 0 → f = pay (leVal k.entry) 0x24 25 0 →
    frameExists s tier f = true → (frameAt s (frameKey tier f)).owner = eCtx (leVal k.entry) →
    frameMapped s (frameKey tier f) = false →
    ((frameAt s (frameKey tier f)).st = 1 → Answers (.memRelease ctx qid) s fun t =>
      (frameAt t (frameKey tier f)).st = 2 ∧ (frameAt t (frameKey tier f)).rel = some (qRef ctx qid) ∧
        cmdAt t (qRef ctx qid) = some { k with st := .busy, job := .release (frameKey tier f) }) ∧
    ((frameAt s (frameKey tier f)).st = 5 → Answers (.memRelease ctx qid) s fun t =>
      mapFind t.mm.frames (frameKey tier f) = none ∧ endedAs t (qRef ctx qid) k stOk 0)) ∧
  (∀ ctx qid k s tier f0 n, ready s (qRef ctx qid) 0x1B k → tier = pay (leVal k.entry) 0x20 1 0 →
    f0 = pay (leVal k.entry) 0x24 25 0 → n = pay (leVal k.entry) 0x28 31 0 → f0 + n ≤ tierFrames tier →
    (List.range n).all (fun i => frameExists s tier (f0 + i) && (frameAt s (frameKey tier (f0 + i))).st = 0 &&
      (pcAt s (pcKey (frameKey tier (f0 + i)))).st < 2) = true →
    s.mm.pcs.all (fun e => e.2.st ≠ 2) = true →
    Answers (.memReserve ctx qid) s fun t =>
      (∀ i, i < n → frameAt t (frameKey tier (f0 + i)) = { st := 4, pool := pay (leVal k.entry) 0x20 2 2 }) ∧
        endedAs t (qRef ctx qid) k stOk 0 ∧ t.mm.bytes = s.mm.bytes) ∧
  (∀ ctx qid k s fk, ready s (qRef ctx qid) 0x1C k →
    fk = frameKey (pay (leVal k.entry) 0x20 1 0) (pay (leVal k.entry) 0x24 25 0) → pteNames s fk = false →
    Answers (.memRedirClear ctx qid) s fun t => redirect t fk = fk ∧ t.mm.ptes = s.mm.ptes ∧ t.mm.bytes = s.mm.bytes) ∧
  (∀ ctx qid k s c n sa da h ev, ready s (qRef ctx qid) 0x20 k → c = eCtx (leVal k.entry) → pay (leVal k.entry) 0x20 1 0 = 2 →
    pay (leVal k.entry) 0x20 3 2 = 2 → n = pay (leVal k.entry) 0x24 31 0 → sa = pay (leVal k.entry) 0x28 63 0 →
    da = pay (leVal k.entry) 0x30 63 0 → n % 64 = 0 → dmaSpanOk 2 sa n = true → dmaSpanOk 2 da n = true → s.rg.winBad = [] →
    Answers (.dmaCopy ctx qid h ev) s fun t =>
      winRead t c da n = winRead s c sa n ∧
        (∀ a, (a < winBase c + da ∨ winBase c + da + n ≤ a) → byteAt t.rg.win a = byteAt s.rg.win a) ∧
        (∃ k', cmdAt t (qRef ctx qid) = some k' ∧ k'.st = .ended ∧ k'.status = some stOk) ∧ onlyRings s t) ∧
  (∀ ctx qid k s c n sa da ev, ready s (qRef ctx qid) 0x20 k → c = eCtx (leVal k.entry) → pay (leVal k.entry) 0x20 1 0 = 1 →
    pay (leVal k.entry) 0x20 3 2 = 2 → n = pay (leVal k.entry) 0x24 31 0 → sa = pay (leVal k.entry) 0x28 63 0 →
    da = pay (leVal k.entry) 0x30 63 0 → n % 64 = 0 → dmaSpanOk 2 da n = true → upWaits s c = false → upDown s c = false →
    inWindow s c sa n false = true →
    (Answers (.dmaCopy ctx qid .wait ev) s fun t =>
      cmdAt t (qRef ctx qid) = some { k with st := .busy, job := .dma } ∧ onlyQueue s t (qRef ctx qid)) ∧
    (∀ bs, bs.length = n → Answers (.dmaCopy ctx qid (.data bs) ev) s fun t =>
      winRead t c da n = bs ∧ (∃ k', cmdAt t (qRef ctx qid) = some k' ∧ k'.st = .ended ∧ k'.status = some stOk))) ∧
  (∀ ctx qid k s c n da ev, ready s (qRef ctx qid) 0x21 k → c = eCtx (leVal k.entry) → pay (leVal k.entry) 0x20 3 2 = 2 →
    n = pay (leVal k.entry) 0x24 31 0 → da = pay (leVal k.entry) 0x30 63 0 → n % 64 = 0 → dmaSpanOk 2 da n = true →
    Answers (.dmaFill ctx qid ev) s fun t =>
      (∀ i, i < n → byteAt t.rg.win (winBase c + da + i) = BitVec.ofNat 8 (pay (leVal k.entry) 0x28 63 0 >>> (8 * (i % 8)))) ∧
        (∃ k', cmdAt t (qRef ctx qid) = some k' ∧ k'.st = .ended ∧ k'.status = some stOk) ∧ onlyRings s t)

/-- Binding, querying, unbinding and burnishing partitions and contexts (R355, R356, R358, R359, R362, R364). -/
def Obligations.PartitionCommands : Prop :=
  (∀ ctx qid k s c t0 lg, ready s (qRef ctx qid) 0x30 k → s.fw.mgmt = 1 → partsWf s = true → c = eCtx (leVal k.entry) →
    t0 = pay (leVal k.entry) 0x20 8 0 → lg = pay (leVal k.entry) 0x20 12 9 → bindRefusal s c t0 lg = none →
    Answers (.partBind ctx qid) s fun t =>
      partNow t t0 lg { t0 := t0, log2n := lg, st := .bound, ctx := c } ∧
        (∀ n, inSpan t0 lg n = true → (tileAt t n).burnDone = 0 ∧ (tileAt t n).stepCopy = 0 ∧
          (unitAt t (.tile n)).bound = true ∧ (unitAt t (.tile n)).ownerCtx = c) ∧
        mapGet 0 t.pw.opp t0 = 20) ∧
  (∀ ctx qid k s st, ready s (qRef ctx qid) 0x30 k → s.fw.mgmt = 1 →
    bindRefusal s (eCtx (leVal k.entry)) (pay (leVal k.entry) 0x20 8 0) (pay (leVal k.entry) 0x20 12 9) = some st →
    Answers (.partBind ctx qid) s fun t => endedAs t (qRef ctx qid) k st 0 ∧ onlyQueue s t (qRef ctx qid)) ∧
  (∀ ctx qid k s p, ready s (qRef ctx qid) 0x37 k →
    shapeOk (pay (leVal k.entry) 0x20 8 0) (pay (leVal k.entry) 0x20 12 9) = true →
    partExact s (pay (leVal k.entry) 0x20 8 0) (pay (leVal k.entry) 0x20 12 9) = some p →
    Answers (.partQuery ctx qid) s fun t =>
      endedAs t (qRef ctx qid) k stOk (partStCode p + p.ctx <<< 4 + p.step.toNat <<< 64) ∧ onlyQueue s t (qRef ctx qid)) ∧
  (∀ ctx qid k s p t0 lg, ready s (qRef ctx qid) 0x31 k → partsWf s = true → t0 = pay (leVal k.entry) 0x20 8 0 →
    lg = pay (leVal k.entry) 0x20 12 9 → shapeOk t0 lg = true → partIn s (eCtx (leVal k.entry)) t0 lg = some p → p.st = .bound →
    p.run = none → ckptBusy s t0 = false → s.fb.groups = [] →
    Answers (.partUnbind ctx qid) s fun t =>
      partNow t t0 lg { p with st := .burnishing } ∧ cmdAt t (qRef ctx qid) = some { k with st := .busy, job := .unbind t0 }) ∧
  (∀ u t0 lg p s, bar0Open s .mgmt = true → partsWf s = true → partExact s t0 lg = some p → p.st = .burnishing → p.run = none →
    partRoot p = u → p.clearing = false → s.fb.groups = [] →
    Answers (.partBurnGo .mgmt u t0 lg) s fun t =>
      partNow t t0 lg { t0 := t0, log2n := lg, st := .burnishing, ctx := p.ctx, clearing := true } ∧
        (∀ n, inSpan t0 lg n = true → tileAt t n = { burnDone := (tileAt s n).burnDone })) ∧
  (∀ w u t0 lg s, w ≠ .mgmt → Ignores (.partBurnGo w u t0 lg) s) ∧
  (∀ t0 p s, mapFind s.tl.parts t0 = some p → p.st = .burnishing → p.clearing = true →
    Answers (.tileClearDone t0) s fun t =>
      mapFind t.tl.parts t0 = none ∧ mapFind t.pw.opp t0 = none ∧
        ∀ n ∈ partTiles p, (tileAt t n).burnDone = 31 ∧ (unitAt t (.tile n)).bound = false) ∧
  (∀ ctx s, (ctxAt s ctx).st = .disabling → (ctxAt s ctx).burn = 0 → ctxParts s ctx = [] →
    Answers (.contextBurnish ctx) s fun t =>
      ctxAt t ctx = { ctxAt s ctx with burn := 1 } ∧ t = { s with rg := { s.rg with ctxs := t.rg.ctxs } }) ∧
  (∀ ctx s, (ctxAt s ctx).st = .disabling → (ctxAt s ctx).burn = 7 →
    Answers (.contextBurnish ctx) s fun t =>
      (ctxAt t ctx).burn = 15 ∧
        (∀ i, i < 8 → (slotAt t (tenantSlot ctx i)).ktype = 0 ∧
          (slotAt t (tenantSlot ctx i)).kgen = (slotAt s (tenantSlot ctx i)).kgen ∧
          ((slotAt s (tenantSlot ctx i)).ktype ≠ 0 → (slotAt t (tenantSlot ctx i)).key = [])) ∧
        t.ks.sessions.all (fun x => !(x.ctx = ctx && x.doe.isNone)) = true) ∧
  (∀ ctx s, (ctxAt s ctx).st = .disabling → (ctxAt s ctx).burn = 15 →
    Answers (.contextBurnish ctx) s fun t =>
      ((ctxAt s ctx).destroy = none → ctxAt t ctx = { ctxAt s ctx with st := .active, burn := 0x1F }) ∧
        ((ctxAt s ctx).destroy.isSome = true → (ctxAt t ctx).st = .free ∧ (ctxAt t ctx).vf = none ∧ (ctxAt t ctx).destroy = none) ∧
        onlyRings s t) ∧
  (∀ n s, (ctxAt s n).st = .disabling →
    Answers (.burnStuck false n) s fun t => (ctxAt t n).st = .disabling ∧ (ctxAt t n).burn = (ctxAt s n).burn ∧ onlyRings s t) ∧
  (∀ n p s, mapFind s.tl.parts n = some p → p.st = .burnishing → Answers (.burnStuck true n) s fun t => onlyRings s t) ∧
  (∀ n s, (ctxAt s n).st ≠ .disabling → Ignores (.contextBurnish n) s ∧ Ignores (.burnStuck false n) s)

/-- Loading and running a plate, configuring a step, and joining and leaving a group (R138, R161, R162, R163, R207, R208, R212, R213, R214, R355). -/
def Obligations.PlateAndStepCommands : Prop :=
  (∀ ctx qid k s ev o x m p, ready s (qRef ctx qid) 0x28 k → k.pobj = some o → objAt s o = some x →
    spanMapped s (eCtx (leVal k.entry)) x.base x.size = true →
    spanWaits s io0Page (eCtx (leVal k.entry)) x.base x.size false ev = false →
    m = ctxRead s io0Page (eCtx (leVal k.entry)) x.base x.size ev → m.status = stOk → checkImage m.data x.size = .ok p →
    Answers (.plateLoad ctx qid ev) s fun t =>
      objAt t o = some { x with plate := some p } ∧
        (∀ a, x.base ≤ a → a < x.base + x.size → protectedAt t (eCtx (leVal k.entry)) a = true) ∧
        (∃ k', cmdAt t (qRef ctx qid) = some k' ∧ k'.st = .ended ∧ k'.status = some stOk)) ∧
  (∀ ctx qid k s ev o x m st off, ready s (qRef ctx qid) 0x28 k → k.pobj = some o → objAt s o = some x →
    spanMapped s (eCtx (leVal k.entry)) x.base x.size = true →
    spanWaits s io0Page (eCtx (leVal k.entry)) x.base x.size false ev = false →
    m = ctxRead s io0Page (eCtx (leVal k.entry)) x.base x.size ev → m.status = stOk → checkImage m.data x.size = .bad st off →
    Answers (.plateLoad ctx qid ev) s fun t =>
      objAt t o = some x ∧ t.mm.prots = s.mm.prots ∧
        (∃ k', cmdAt t (qRef ctx qid) = some k' ∧ k'.st = .ended ∧ k'.status = some st ∧ k'.detail = off)) ∧
  (∀ ctx qid k s ev o x i p t0 lg, ready s (qRef ctx qid) 0x29 k → partsWf s = true → t0 = pay (leVal k.entry) 0x24 8 0 →
    lg = pay (leVal k.entry) 0x24 12 9 → partIn s (eCtx (leVal k.entry)) t0 lg = some p → k.pobj = some o → objAt s o = some x →
    x.plate = some i → p.st = .bound → p.run = none → runRefusal p i = none →
    (partTiles p).all (fun n => (unitAt s (.tile n)).state = .run) = true → pay (leVal k.entry) 0x28 63 0 = 0 →
    Answers (.run ctx qid ev) s fun t =>
      runStarted t (qRef ctx qid) t0 lg p o i ∧ t.mm = s.mm ∧ ∀ n j, inSpan t0 lg n = true → sreg (tileAt t n).regs j = 0) ∧
  (∀ ctx qid k s ev o x i p m t0 lg, ready s (qRef ctx qid) 0x29 k → partsWf s = true → t0 = pay (leVal k.entry) 0x24 8 0 →
    lg = pay (leVal k.entry) 0x24 12 9 → partIn s (eCtx (leVal k.entry)) t0 lg = some p → k.pobj = some o → objAt s o = some x →
    x.plate = some i → p.st = .bound → p.run = none → runRefusal p i = none →
    (partTiles p).all (fun n => (unitAt s (.tile n)).state = .run) = true → pay (leVal k.entry) 0x28 63 0 ≠ 0 →
    spanWaits s io0Page (eCtx (leVal k.entry)) (pay (leVal k.entry) 0x28 63 0) 64 false ev = false →
    m = ctxRead s io0Page (eCtx (leVal k.entry)) (pay (leVal k.entry) 0x28 63 0) 64 ev → m.status = stOk →
    Answers (.run ctx qid ev) s fun t =>
      runStarted t (qRef ctx qid) t0 lg p o i ∧ t.mm = m.s.mm ∧ ∀ n j, inSpan t0 lg n = true →
        sreg (tileAt t n).regs j =
          (if 8 ≤ j ∧ j < 16 then BitVec.ofNat 64 (leVal ((m.data.drop (8 * (j - 8))).take 8)) else 0)) ∧
  (∀ ctx qid k s ev p m t0 lg mask, ready s (qRef ctx qid) 0x2A k → partsWf s = true → t0 = pay (leVal k.entry) 0x24 8 0 →
    lg = pay (leVal k.entry) 0x24 12 9 → mask = pay (leVal k.entry) 0x24 21 16 →
    partIn s (eCtx (leVal k.entry)) t0 lg = some p → p.st = .bound → p.run = none →
    spanWaits s io0Page (eCtx (leVal k.entry)) (pay (leVal k.entry) 0x28 63 0) 64 false ev = false →
    m = ctxRead s io0Page (eCtx (leVal k.entry)) (pay (leVal k.entry) 0x28 63 0) 64 ev → m.status = stOk →
    blockOk mask (blockField m.data) = true → (bitOf mask 2 = true → numverHeld s (bitsOf (blockField m.data 2) 15 0) = true) →
    Answers (.stepConfig ctx qid ev) s fun t =>
      ∃ q, partNow t t0 lg q ∧
        q.step = (if bitOf mask 0 then BitVec.ofNat 64 (blockField m.data 0) else p.step) ∧
        q.seed = (if bitOf mask 1 then blockField m.data 1 % 2 ^ 52 else p.seed) ∧
        q.numver = (if bitOf mask 2 then bitsOf (blockField m.data 2) 15 0 else p.numver) ∧
        q.groupEn = (if bitOf mask 2 then bitOf (blockField m.data 2) 30 else p.groupEn) ∧
        q.monBase0 = (if bitOf mask 3 then blockField m.data 3 % 2 ^ 48 else p.monBase0) ∧
        q.monBase1 = (if bitOf mask 4 then blockField m.data 4 % 2 ^ 48 else p.monBase1) ∧
        q.monThr = (if bitOf mask 5 then BitVec.ofNat 64 (blockField m.data 5) else p.monThr) ∧
        q.st = .bound ∧ q.ctx = p.ctx ∧ ∀ n, inSpan t0 lg n = true → (tileAt t n).stepCopy = q.step) ∧
  (∀ ctx qid k s progs ev o x m d p, ready s (qRef ctx qid) 0x2B k → s.fw.mgmt = 1 → fabCalm s = true → k.pobj = some o →
    objAt s o = some x → spanMapped s (eCtx (leVal k.entry)) x.base x.size = true →
    spanWaits s io0Page (eCtx (leVal k.entry)) x.base x.size false ev = false →
    m = ctxRead s io0Page (eCtx (leVal k.entry)) x.base x.size ev → m.status = stOk → d = groupDesc m.data → d.ok = true →
    partIn m.s (eCtx (leVal k.entry)) (pay (leVal k.entry) 0x24 8 0) (pay (leVal k.entry) 0x24 12 9) = some p →
    p.st = .bound → joinRefusal m.s (eCtx (leVal k.entry)) p d = none → groupFind m.s d.id = none →
    (d.numver ≠ 1 → progsOk ((List.range d.nmemb).filter (fun i => (d.members.getD i 0) % 65536 = nodeOf s)) d.nlaunch progs = true) →
    Answers (.groupJoin ctx qid progs ev) s fun t =>
      ∃ gix g, groupAt t gix = some g ∧ g.id = d.id ∧ g.digest = d.digest ∧
        g.locals.any (fun l => l.t0 = p.t0 && l.joined && l.obj = o) = true ∧
        (d.nmemb = 1 → s.fb.held = [] → g.st = 2 ∧
          ∃ k', cmdAt t (qRef ctx qid) = some k' ∧ k'.st = .ended ∧ k'.status = some stOk)) ∧
  (∀ ctx qid k s p o gix g, ready s (qRef ctx qid) 0x2C k → k.pobj = some o →
    partIn s (eCtx (leVal k.entry)) (pay (leVal k.entry) 0x24 8 0) (pay (leVal k.entry) 0x24 12 9) = some p → p.run = none →
    s.fb.groups.find? (fun e => e.2.locals.any (fun m => m.t0 = p.t0 && m.obj = o)) = some (gix, g) → groupAt s gix = some g →
    Answers (.groupLeave ctx qid) s fun t =>
      (∀ g', groupAt t gix = some g' → g'.st = 3 ∧ g'.locals.all (fun l => l.t0 ≠ p.t0) = true) ∧
        (g.locals.all (fun l => l.t0 = p.t0) = true → groupAt t gix = none))

/-- Loading, checking and releasing shards, and exporting and importing checkpoints (R365, R366, R368, R369, R370, R371, R372, R373, R374, R375). -/
def Obligations.SealedImages : Prop :=
  (∀ ctx qid k s host ev x id src top h q, heldCmd s (qRef ctx qid) 0x32 k → loadArgs s k x id →
    sourceAt s k (decide (pay (leVal k.entry) 0x20 1 0 = 1)) host src → top = sealTop s src ev →
    topGood s (eCtx (leVal k.entry)) 2 1 top h → x.len = ((topSects top).map totalLen).getD 0 → x.digest = h.digest →
    srcWaits s src (imageSize top.hdr) ev = false →
    (x.scratch = false → spanWaits s io0Page (eCtx (leVal k.entry)) x.dst x.len true ev = false) →
    q = sealRun src (sealKey (slotAt s (tenantSlot (eCtx (leVal k.entry)) 2)).key 1 h.nonce) top.hdr top.tags h ev
      (fun s _ off bs => shardPut (eCtx (leVal k.entry)) x.scratch x.tile x.dst ev s off bs) ((topSects top).getD []) top.s →
    (q.status = stOk → Answers (.shardLoad ctx qid host ev) s fun t =>
      shardAt t (shardKey (eCtx (leVal k.entry)) id) = some x ∧ endedWith t (qRef ctx qid) stOk x.len ∧
        (∀ j, j ≠ shardKey (eCtx (leVal k.entry)) id → shardAt t j = shardAt s j) ∧
        (x.frozen = true → ∀ a, x.dst ≤ a → a < x.dst + x.len → protectedAt t (eCtx (leVal k.entry)) a = true) ∧
        (x.scratch = true → (tileAt t x.tile).watch.contains (shardKey (eCtx (leVal k.entry)) id, x.dst, x.dst + x.len) = true)) ∧
    (q.status ≠ stOk → Answers (.shardLoad ctx qid host ev) s fun t =>
      (∀ j, shardAt t j = shardAt s j) ∧ t.mm.prots = s.mm.prots ∧ endedWith t (qRef ctx qid) q.status 0)) ∧
  (∀ ctx qid k s ev c a x id, ready s (qRef ctx qid) 0x32 k → loadArgs s k x id → pay (leVal k.entry) 0x20 1 0 = 1 →
    c = eCtx (leVal k.entry) → a = pay (leVal k.entry) 0x28 63 0 → inWindow s c a 512 false = true → upDown s c = false →
    upWaits s c = false →
    Answers (.shardLoad ctx qid .wait ev) s fun t =>
      cmdAt t (qRef ctx qid) = some { k with st := .busy, job := .dma } ∧ onlyQueue s t (qRef ctx qid)) ∧
  (∀ ctx qid k s ev id x key, ready s (qRef ctx qid) 0x33 k → id = pay (leVal k.entry) 0x20 5 0 →
    key = shardKey (eCtx (leVal k.entry)) id → shardAt s key = some x →
    (x.scratch = false → spanWaits s io0Page (eCtx (leVal k.entry)) x.dst x.len false ev = false) →
    Answers (.shardCheck ctx qid ev) s fun t =>
      endedWith t (qRef ctx qid) (shardVerdict s (eCtx (leVal k.entry)) x ev) 0 ∧ t.mm.prots = s.mm.prots ∧
        shardAt t key = some (shardMarked s key x (shardVerdict s (eCtx (leVal k.entry)) x ev))) ∧
  (∀ ctx id s ev x, shardAt s (shardKey ctx id) = some x → x.frozen = true → s.rg.shardCfg.getLsbD 6 = true →
    spanWaits s io0Page ctx x.dst x.len false ev = false →
    Answers (.shardPeriodicCheck ctx id ev) s fun t =>
      shardAt t (shardKey ctx id) = some (shardMarked s (shardKey ctx id) x (shardVerdict s ctx x ev)) ∧
        t.mm.prots = s.mm.prots ∧ t.tl = s.tl) ∧
  (∀ ctx id s ev x, shardAt s (shardKey ctx id) = some x → (x.frozen = false ∨ s.rg.shardCfg.getLsbD 6 = false) →
    Ignores (.shardPeriodicCheck ctx id ev) s) ∧
  (∀ ctx qid k s id x key, ready s (qRef ctx qid) 0x34 k → id = pay (leVal k.entry) 0x20 5 0 →
    key = shardKey (eCtx (leVal k.entry)) id → shardAt s key = some x →
    Answers (.shardRelease ctx qid) s fun t =>
      shardAt t key = none ∧ (∀ j, j ≠ key → shardAt t j = shardAt s j) ∧ endedAs t (qRef ctx qid) k stOk 0 ∧
        t.mm.prots = s.mm.prots.filter (fun p => !(p.ctx = eCtx (leVal k.entry) && p.id = 2 ^ 20 + id)) ∧
        t.mm.bytes = s.mm.bytes) ∧
  (∀ ctx qid k s p t0 lg ev, ready s (qRef ctx qid) 0x35 k → exportArgs s k p t0 lg → p.run.isSome = true → p.startHeld = false →
    p.bar = none →
    Answers (.ckptExport ctx qid ev) s fun t =>
      partNow t t0 lg { p with holds := p.holds ++ [exportHold (qRef ctx qid)] } ∧
        cmdAt t (qRef ctx qid) = some { k with st := .busy, job := .ckpt t0 }) ∧
  (∀ ctx qid k s p t0 lg ev c dst cap sp mon seed ents l xs size rd nonce im w1 w2 w3,
    ready s (qRef ctx qid) 0x35 k → exportArgs s k p t0 lg → p.run = none → c = eCtx (leVal k.entry) →
    dst = pay (leVal k.entry) 0x28 63 0 → cap = pay (leVal k.entry) 0x38 63 0 → sp = pay (leVal k.entry) 0x20 13 13 →
    seed = decide (pay (leVal k.entry) 0x20 14 14 = 1) → mon = decide (pay (leVal k.entry) 0x20 15 15 = 1) →
    l = readList (exportHeld s (qRef ctx qid) p) c (pay (leVal k.entry) 0x30 63 0) ev → l.2.1 = some ents →
    (mon = true → p.monBase0 ≠ 0) → xs = exportSects ents mon →
    size = dataOff (totalChunks xs) + chunkSize * totalChunks xs → size ≤ cap →
    (exportSpans p ents mon).all (fun e => !(spanWaits l.1 io0Page c e.1 e.2 false ev)) = true →
    (sp = 0 → spanWaits l.1 io0Page c dst size true ev = false) →
    rd = readSections l.1 c (exportSpans p ents mon) ev → rd.1.status = stOk → nonce = randBytes rd.1.s 16 →
    im = buildImage (sealKey (slotAt s (tenantSlot c 3)).key 2 nonce) nonce
      (ckptHdr (drawn rd.1.s) p (boolNat seed + boolNat mon <<< 1 + boolNat p.groupEn <<< 2) nonce xs
        (sha384 (stepRecord p seed :: rd.2).flatten) (layoutDigest (drawn rd.1.s) p)) xs (stepRecord p seed :: rd.2) →
    w1 = dmaStore (drawn rd.1.s) c sp (dst + dataOff (totalChunks xs)) im.2.2 ev → w1.2.1 = stOk →
    w2 = dmaStore w1.1 c sp (dst + 0x10000) im.2.1 ev → w2.2.1 = stOk → w3 = dmaStore w2.1 c sp dst im.1 ev → w3.2.1 = stOk →
    Answers (.ckptExport ctx qid ev) s fun t =>
      endedWith t (qRef ctx qid) stOk (size + p.step.toNat <<< 64) ∧
        (sp = 1 → t.rg.hostWr = s.rg.hostWr ++
          [{ func := ctxFunc s c, addr := dst + dataOff (totalChunks xs), bytes := im.2.2 },
           { func := ctxFunc s c, addr := dst + 0x10000, bytes := im.2.1 }, { func := ctxFunc s c, addr := dst, bytes := im.1 }])) ∧
  (∀ ctx qid k s host ev p t0 lg c src l ents top h q, heldCmd s (qRef ctx qid) 0x36 k → partsWf s = true →
    c = eCtx (leVal k.entry) → t0 = pay (leVal k.entry) 0x20 8 0 → lg = pay (leVal k.entry) 0x20 12 9 →
    partIn s c t0 lg = some p → p.st = .bound → p.run = none → pay (leVal k.entry) 0x28 63 0 % 64 = 0 →
    (slotAt s (tenantSlot c 3)).ktype ≠ 0 → bitOf (slotAt s (tenantSlot c 3)).attr 1 = true →
    sourceAt s k (decide (pay (leVal k.entry) 0x20 13 13 = 1)) host src → l = readList s c (pay (leVal k.entry) 0x30 63 0) ev →
    l.2.1 = some ents → top = sealTop l.1 src ev → topGood s c 3 2 top h → listFits p h ents ((topSects top).getD []) = true →
    numverHeld s h.numver = true → srcWaits s src (imageSize top.hdr) ev = false →
    ents.all (fun e => !(spanWaits s io0Page c (bankOf e (decide (h.step % 2 = 1))) e.len true ev)) = true →
    q = importRun s p c src top h ents ev →
    (q.status = stOk → Answers (.ckptImport ctx qid host ev) s fun t =>
      (∃ p', partNow t t0 lg p' ∧ p'.step = BitVec.ofNat 64 h.step ∧ p'.numver = h.numver ∧ p'.st = .bound ∧ p'.ctx = p.ctx ∧
        p'.seed = (if bitOf h.flags 0 then leVal ((q.plain.drop 8).take 8) % 2 ^ 52 else p.seed)) ∧
      (∀ n, inSpan t0 lg n = true → (tileAt t n).stepCopy = BitVec.ofNat 64 h.step) ∧ endedWith t (qRef ctx qid) stOk 0) ∧
    (q.status ≠ stOk → q.wrote = true → Answers (.ckptImport ctx qid host ev) s fun t =>
      (∃ p', partNow t t0 lg p' ∧ p'.step = 0 ∧ p'.numver = 0 ∧ p'.seed = 0 ∧ p'.st = .bound) ∧
        endedWith t (qRef ctx qid) q.status 0))

/-- Generating, deriving, importing, destroying, querying and attesting keys, and reports and mailbox messages on a ring (R381, R383, R384, R385, R388, R389, R390, R391, R399, R401, R404). -/
def Obligations.KeyCommands : Prop :=
  (∀ ctx qid k s a kt slot, ready s (qRef ctx qid) 0x38 k → a = pay (leVal k.entry) 0x24 31 0 → Nat.land a attrMask = a →
    kt = pay (leVal k.entry) 0x22 1 0 →
    mayInstall s (qRef ctx qid) (eCtx (leVal k.entry)) (pay (leVal k.entry) 0x20 15 0) kt (attrUse a) slot → s.ks.rngFail = false →
    Answers (.keyGenerate ctx qid) s fun t =>
      keyInstalled s t slot kt (attrUse a) 1 (attrLcb a) (attrVol a) (randKey s kt) ∧
        endedAs t (qRef ctx qid) k stOk ((slotAt s slot).kgen + 1).toNat ∧ t.ks.genCnt = satInc s.ks.genCnt ∧
        t.ks.sessions = s.ks.sessions) ∧
  (∀ ctx qid k s ev a slot src s1 blk n, ready s (qRef ctx qid) 0x39 k → a = pay (leVal k.entry) 0x24 31 0 →
    Nat.land a (attrMask + 0x3000) = a →
    mayInstall s (qRef ctx qid) (eCtx (leVal k.entry)) (pay (leVal k.entry) 0x20 15 0) (attrType a) (attrUse a) slot →
    slotRef (eCtx (leVal k.entry)) (pay (leVal k.entry) 0x22 15 0) = some src → isDeviceKey src = isDeviceKey slot →
    (slotAt s src).ktype ≠ 0 → bitOf (slotAt s src).attr 3 = true → Nat.land (attrUse a) (slotAt s src).attr = attrUse a →
    payGot s (eCtx (leVal k.entry)) 0 (pay (leVal k.entry) 0x28 63 0) 64 ev s1 blk → n = (blk.headD 0).toNat → 1 ≤ n → n ≤ 56 →
    Answers (.keyDerive ctx qid ev) s fun t =>
      keyInstalled s t slot (attrType a) (attrUse a) 2 ((slotAt s src).lcb || attrLcb a) ((slotAt s src).vol || attrVol a)
        (derivedKey (attrType a) (slotAt s src).key deriveLabel
          (deriveContext (pay (leVal k.entry) 0x22 15 0) (pay (leVal k.entry) 0x20 15 0)
            (if isDeviceKey slot then 0xFFFF else eCtx (leVal k.entry)) ((blk.drop 8).take n))) ∧
        endedAs t (qRef ctx qid) k stOk ((slotAt s slot).kgen + 1).toNat ∧ t.ks.genCnt = satInc s.ks.genCnt) ∧
  (∀ ctx qid k s ev a slot x s1 blk, ready s (qRef ctx qid) 0x3A k → a = pay (leVal k.entry) 0x24 31 0 →
    Nat.land a (attrMask + 0x3000) = a → slotRef (eCtx (leVal k.entry)) (pay (leVal k.entry) 0x20 15 0) = some slot →
    sessionAt s (pay (leVal k.entry) 0x22 15 0) = some x →
    (slotRight s (qRef ctx qid) (eCtx (leVal k.entry)) slot = true ∨ doeRight s x (eCtx (leVal k.entry)) slot = true) →
    useAllowed (attrType a) (attrUse a) = true → roleAllowed slot (attrType a) (attrUse a) = true → installRefusal s slot = none →
    sessionServes s (qRef ctx qid) x (eCtx (leVal k.entry)) slot = true →
    payGot s (eCtx (leVal k.entry)) (pay (leVal k.entry) 0x30 1 0) (pay (leVal k.entry) 0x28 63 0) 96 ev s1 blk →
    (∀ seq key, unwrapKey x (eCtx (leVal k.entry)) (pay (leVal k.entry) 0x20 15 0) a slot blk = some (seq, key) →
      Answers (.keyImport ctx qid ev) s fun t =>
        keyInstalled s t slot (attrType a) (attrUse a) 3 (attrLcb a) (attrVol a) key ∧
          endedAs t (qRef ctx qid) k stOk ((slotAt s slot).kgen + 1).toNat ∧ t.ks.impCnt = satInc s.ks.impCnt ∧
          sessionAt t x.id = some { x with seq := seq }) ∧
    (unwrapKey x (eCtx (leVal k.entry)) (pay (leVal k.entry) 0x20 15 0) a slot blk = none →
      Answers (.keyImport ctx qid ev) s fun t =>
        t.ks = { s.ks with unwrapF := satInc s.ks.unwrapF } ∧ endedAs t (qRef ctx qid) k stUnwrap 0)) ∧
  (∀ ctx qid k s slot, ready s (qRef ctx qid) 0x3B k →
    slotRef (eCtx (leVal k.entry)) (pay (leVal k.entry) 0x20 15 0) = some slot →
    slotRight s (qRef ctx qid) (eCtx (leVal k.entry)) slot = true →
    (destroyRefusal s slot = none → Answers (.keyDestroy ctx qid) s fun t =>
      (slotAt t slot).ktype = 0 ∧ (slotAt t slot).kgen = (slotAt s slot).kgen ∧ (∀ j, j ≠ slot → slotAt t j = slotAt s j) ∧
        ((slotAt s slot).ktype ≠ 0 → (slotAt t slot).key = [] ∧ t.ks.destroyC = satInc s.ks.destroyC) ∧
        endedAs t (qRef ctx qid) k stOk 0) ∧
    (∀ st, destroyRefusal s slot = some st → Answers (.keyDestroy ctx qid) s fun t =>
      endedAs t (qRef ctx qid) k st 0 ∧ onlyQueue s t (qRef ctx qid))) ∧
  (∀ ctx qid k s ev slot a, ready s (qRef ctx qid) 0x3C k →
    slotRef (eCtx (leVal k.entry)) (pay (leVal k.entry) 0x20 15 0) = some slot → a = pay (leVal k.entry) 0x28 63 0 →
    ((a = 0 ∨ (slotAt s slot).ktype ≠ 3) → Answers (.keyQuery ctx qid ev) s fun t =>
      endedAs t (qRef ctx qid) k stOk (slotAttr s slot + (slotAt s slot).kgen.toNat <<< 32) ∧ onlyQueue s t (qRef ctx qid)) ∧
    (∀ w, a ≠ 0 → (slotAt s slot).ktype = 3 → a % 64 = 0 → spanWaits s io0Page (eCtx (leVal k.entry)) a 96 true ev = false →
      w = dmaStore s (eCtx (leVal k.entry)) 0 a (slotPub (slotAt s slot)) ev → w.2.1 = stOk →
      Answers (.keyQuery ctx qid ev) s fun t => t.mm = w.1.mm ∧
        endedWith t (qRef ctx qid) stOk (slotAttr s slot + (slotAt s slot).kgen.toNat <<< 32))) ∧
  (∀ ctx qid k s ev slot c out s1 inp w, ready s (qRef ctx qid) 0x3D k → c = eCtx (leVal k.entry) →
    mayAttest s (qRef ctx qid) c (pay (leVal k.entry) 0x20 15 0) slot → pay (leVal k.entry) 0x22 0 0 = 1 →
    bitOf (slotAt s slot).attr 2 = true → out = pay (leVal k.entry) 0x30 63 0 → out % 64 = 0 →
    spanWaits s io0Page c out 96 true ev = false → payGot s c 0 (pay (leVal k.entry) 0x28 63 0) 48 ev s1 inp →
    w = dmaStore (drawn s1) c 0 out (ecdsaSign (beVal (slotAt s slot).key) (rand s1 384) inp) ev → w.2.1 = stOk →
    Answers (.keyAttest ctx qid ev) s fun t => t.mm = w.1.mm ∧ endedWith t (qRef ctx qid) stOk 0 ∧
      t.ks.attestC = s.ks.attestC) ∧
  (∀ ctx qid k s ev slot c out s1 inp b w, ready s (qRef ctx qid) 0x3D k → c = eCtx (leVal k.entry) →
    mayAttest s (qRef ctx qid) c (pay (leVal k.entry) 0x20 15 0) slot → pay (leVal k.entry) 0x22 0 0 = 0 → akReady s = true →
    out = pay (leVal k.entry) 0x30 63 0 → out % 64 = 0 → spanWaits s io0Page c out 400 true ev = false →
    payGot s c 0 (pay (leVal k.entry) 0x28 63 0) 32 ev s1 inp → b = statement s1 c slot (pay (leVal k.entry) 0x20 15 0) inp →
    w = dmaStore (akSign s1 b).1 c 0 out (b ++ (akSign s1 b).2) ev → w.2.1 = stOk →
    Answers (.keyAttest ctx qid ev) s fun t => t.mm = w.1.mm ∧ endedWith t (qRef ctx qid) stOk 0 ∧
      t.ks.attestC = satInc s.ks.attestC) ∧
  (∀ ctx qid k s ev c out s1 nonce p w, ready s (qRef ctx qid) 0x3E k → c = eCtx (leVal k.entry) → attestRefusal s = none →
    out = pay (leVal k.entry) 0x30 63 0 → out % 64 = 0 → payGot s c 0 (pay (leVal k.entry) 0x28 63 0) 32 ev s1 nonce →
    (reportBody s1 (reportScope s1 (qRef ctx qid) c) nonce).length + 96 ≤ pay (leVal k.entry) 0x38 63 0 →
    spanWaits s1 io0Page c out ((reportBody s1 (reportScope s1 (qRef ctx qid) c) nonce).length + 96) true ev = false →
    p = report s1 (reportScope s1 (qRef ctx qid) c) nonce → w = dmaStore p.1 c 0 out p.2 ev → w.2.1 = stOk →
    Answers (.measReport ctx qid ev) s fun t => t.mm = w.1.mm ∧ t.ks.attestC = satInc s.ks.attestC ∧
      endedWith t (qRef ctx qid) stOk ((reportBody s1 (reportScope s1 (qRef ctx qid) c) nonce).length + 96)) ∧
  (∀ ctx qid sid k s ev sp out s1 req p w, ready s (qRef ctx qid) 0x3F k → sidFree s sid = true →
    sp = pay (leVal k.entry) 0x20 1 0 → out = pay (leVal k.entry) 0x30 63 0 →
    payGot s (eCtx (leVal k.entry)) sp (pay (leVal k.entry) 0x28 63 0) (pay (leVal k.entry) 0x24 31 0) ev s1 req →
    p = mbAnswer s1 { ctx := ctx, doe := none } sid req → p.2.length ≤ pay (leVal k.entry) 0x38 63 0 →
    payOk sp out p.2.length = true → (sp = 0 → spanWaits s1 io0Page (eCtx (leVal k.entry)) out p.2.length true ev = false) →
    w = dmaStore p.1 (eCtx (leVal k.entry)) sp out p.2 ev → w.2.1 = stOk →
    Answers (.attMsg ctx qid sid ev) s fun t =>
      t.ks.sessions = p.1.ks.sessions ∧ endedWith t (qRef ctx qid) stOk p.2.length ∧
        (sp = 2 → winRead t (eCtx (leVal k.entry)) out p.2.length = p.2))

/-- Mailbox messages and SPDM requests over a PF's DOE mailbox (R387, R400, R401, R402, R403). -/
def Obligations.AttestationExchanges : Prop :=
  (∀ port req s, doeUp s port = true → mbOf req 1 = true →
    Answers (.getInfo port req) s fun t => onlyDoe s t ∧ t.ks.sessions = s.ks.sessions ∧
      saidDoe t port (.object (mbMsg 1 0 ([1] ++ deviceId s ++ chainBytes s)))) ∧
  (∀ port req s, doeUp s port = true → mbFormOk req = false →
    ((req.headD 0).toNat = 1 ∨ (req.headD 0).toNat = 0 ∨ 5 < (req.headD 0).toNat) →
    Answers (.getInfo port req) s fun t => onlyDoe s t ∧ t.ks.sessions = s.ks.sessions ∧
      saidDoe t port (.object (mbMsg 15 0 [BitVec.ofNat 8 stInvalid]))) ∧
  (∀ port sid req s s0, doeUp s port = true → sidFree s sid = true → mbOf req 2 = true → attestRefusal s = none →
    sessionRoom s (adminCtxOf port) = some s0 →
    (ecdh (beVal (scalarOf (rand s0 448))) (((req.drop 8).take 97).drop 1)).isSome = true →
    Answers (.mbOpen port sid req) s fun t => onlyDoe s t ∧ t.ks.attestC = satInc s.ks.attestC ∧
      (∃ x, t.ks.sessions = s0.ks.sessions ++ [x] ∧ x.id = sid ∧ x.spdm = false ∧ x.ctx = adminCtxOf port ∧ x.doe = some port ∧
        x.active = false ∧ x.seq = 0) ∧
      ∃ a, saidDoe t port (.object a) ∧ (a.headD 0).toNat = 2 ∧ mbSid a = sid) ∧
  (∀ port req s x, doeUp s port = true → mbOf req 3 = true → mbSession s (doeFrom port) (mbSid req) = some x →
    x.active = false →
    (hmac384 x.kfreq x.th = req.drop 8 → Answers (.mbFinish port req) s fun t => onlyDoe s t ∧
      sessionAt t (mbSid req) = some { x with active := true } ∧
      saidDoe t port (.object (mbMsg 3 (mbSid req) (hmac384 x.kfrsp (x.th ++ req.drop 8))))) ∧
    (hmac384 x.kfreq x.th ≠ req.drop 8 → Answers (.mbFinish port req) s fun t => onlyDoe s t ∧
      sessionAt t (mbSid req) = none ∧ saidDoe t port (.object (mbMsg 15 0 [BitVec.ofNat 8 stSession])))) ∧
  (∀ port req s x, doeUp s port = true → mbOf req 4 = true → mbSession s (doeFrom port) (mbSid req) = some x →
    x.active = true → attestRefusal s = none →
    Answers (.mbReport port req) s fun t => onlyDoe s t ∧ t.ks.sessions = s.ks.sessions ∧
      t.ks.attestC = satInc s.ks.attestC ∧ saidDoe t port (.object (mbMsg 4 (mbSid req)
        (report s (if isAdminCtx s.hw x.ctx then none else some x.ctx) (req.drop 8)).2))) ∧
  (∀ port req s x, doeUp s port = true → mbOf req 5 = true → mbSession s (doeFrom port) (mbSid req) = some x →
    Answers (.mbClose port req) s fun t => onlyDoe s t ∧
      t.ks.sessions = s.ks.sessions.filter (fun y => y.id ≠ mbSid req) ∧ saidDoe t port (.object (mbMsg 5 (mbSid req) []))) ∧
  (∀ port s, spdmAt s port 0 = true →
    Answers (.getVersion port) s fun t => onlyDoe s t ∧ spdmStage t port = 1 ∧ saidDoe t port (.version 2 1) ∧
      t.ks.sessions = s.ks.sessions) ∧
  (∀ port s, spdmAt s port 1 = true →
    Answers (.getCapabilities port) s fun t => onlyDoe s t ∧ spdmStage t port = 2 ∧
      saidDoe t port (.capabilities true true true true true true true true true) ∧ t.ks.sessions = s.ks.sessions) ∧
  (∀ port common s, spdmAt s port 2 = true →
    Answers (.negotiateAlgorithms port common) s fun t => onlyDoe s t ∧ t.ks.sessions = s.ks.sessions ∧
      (common = true → spdmStage t port = 3 ∧ saidDoe t port (.algorithms true true true)) ∧
      (common = false → spdmStage t port = spdmStage s port ∧ saidDoe t port (.error spdmUnsupported))) ∧
  (∀ port s, spdmAt s port 3 = true →
    Answers (.getDigests port) s fun t => onlyDoe s t ∧ t.ks.sessions = s.ks.sessions ∧ t.ks.spdmCon = s.ks.spdmCon ∧
      saidDoe t port (.digests (sha384 (chainBytes s)))) ∧
  (∀ port off len s, spdmAt s port 3 = true → off ≤ (chainBytes s).length →
    Answers (.getCertificate port off len) s fun t => onlyDoe s t ∧ t.ks.sessions = s.ks.sessions ∧
      ∃ p r, saidDoe t port (.certificate p r) ∧ p = ((chainBytes s).drop off).take len ∧
        off + p.length + r = (chainBytes s).length) ∧
  (∀ port nonce s, spdmAt s port 3 = true →
    (attestRefusal s = none → Answers (.challenge port nonce) s fun t => onlyDoe s t ∧ t.ks.sessions = s.ks.sessions ∧
      t.ks.attestC = satInc s.ks.attestC ∧ ∃ nd sig, saidDoe t port (.challengeAuth (sha384 (chainBytes s)) nd sig) ∧
        sig = (akSign (drawn s) (sha384 (chainBytes s) ++ nonce ++ nd)).2) ∧
    (∀ st, attestRefusal s = some st → Answers (.challenge port nonce) s fun t => onlyDoe s t ∧ t.ks.sessions = s.ks.sessions ∧
      saidDoe t port (.error (spdmRefused st)))) ∧
  (∀ port vf index sign s, spdmAt s port 3 = true →
    (measBlock s port vf index = none → Answers (.getMeasurements port vf index sign) s fun t => onlyDoe s t ∧
      saidDoe t port (.error spdmInvalid)) ∧
    (∀ b, measBlock s port vf index = some b → sign = false → Answers (.getMeasurements port vf index sign) s fun t =>
      onlyDoe s t ∧ t.free = s.free ∧ saidDoe t port (.measurements [b] [])) ∧
    (∀ b, measBlock s port vf index = some b → sign = true → attestRefusal s = none →
      Answers (.getMeasurements port vf index sign) s fun t => onlyDoe s t ∧ t.ks.attestC = satInc s.ks.attestC ∧
        saidDoe t port (.measurements [b] (akSign s (leBytes 1 b.1 ++ leBytes 1 b.2.1 ++ b.2.2)).2))) ∧
  (∀ port sid pub s, spdmAt s port 3 = true → sidFree s sid = true → (pubPoint pub).isSome = true →
    ((s.ks.sessions.filter (fun x => x.spdm && x.doe = some port)).length < 4 → attestRefusal s = none →
      Answers (.keyExchange port sid pub) s fun t => onlyDoe s t ∧ t.ks.attestC = satInc s.ks.attestC ∧
        ∃ x sig, t.ks.sessions = s.ks.sessions ++ [x] ∧ x.id = sid ∧ x.spdm = true ∧ x.doe = some port ∧ x.active = false ∧
          x.ctx = adminCtxOf port ∧ saidDoe t port (.keyExchange sid sig)) ∧
    (4 ≤ (s.ks.sessions.filter (fun x => x.spdm && x.doe = some port)).length →
      Answers (.keyExchange port sid pub) s fun t => onlyDoe s t ∧ t.ks.sessions = s.ks.sessions ∧
        saidDoe t port (.error spdmSessions))) ∧
  (∀ port stage s, spdmAt s port 0 = true → spdmStage s port < stage →
    ∀ c ∈ (if stage = 1 then [Instr.getCapabilities port] else if stage = 2 then [Instr.negotiateAlgorithms port true]
      else if stage = 3 then [Instr.getDigests port, Instr.getCertificate port 0 0, Instr.challenge port [],
        Instr.getMeasurements port none 1 false] else []),
      Answers c s fun t => onlyDoe s t ∧ t.ks.spdmCon = s.ks.spdmCon ∧ saidDoe t port (.error spdmUnexpected)) ∧
  (∀ port sid ver s x, portPresent s port = true → spdmSession s port sid = some x → x.active = false →
    Answers (.spdmFinish port sid ver) s fun t => onlyDoe s t ∧
      (ver = true → sessionAt t sid = some { x with active := true } ∧ saidDoe t port (.finish sid)) ∧
      (ver = false → sessionAt t sid = none ∧ saidDoe t port (.error spdmDecrypt))) ∧
  (∀ port sid s x, portPresent s port = true → spdmSession s port sid = some x → x.active = true →
    (Answers (.heartbeat port sid) s fun t => onlyDoe s t ∧ t.ks.sessions = s.ks.sessions ∧ saidDoe t port (.heartbeat sid)) ∧
    (Answers (.keyUpdate port sid) s fun t => onlyDoe s t ∧ sessionAt t sid = some { x with epoch := x.epoch + 1 } ∧
      saidDoe t port (.keyUpdate sid)) ∧
    (Answers (.endSession port sid) s fun t => onlyDoe s t ∧ saidDoe t port (.ended sid) ∧
      t.ks.sessions = s.ks.sessions.filter (fun y => y.id ≠ sid)) ∧
    (∀ body, Answers (.vendorDefinedRequest port sid body) s fun t => onlyDoe s t ∧ t.ks.sessions = s.ks.sessions ∧
      saidDoe t port (.error spdmUnsupported)))

/-- Life-cycle requests and the entropy source (R384, R385, R394, R395, R396, R397, R398, R405). -/
def Obligations.LifeCycleRequests : Prop :=
  (∀ tap target n s k d, lcReach s tap = true → lcClear s = true → s.ks.lc.state ≠ 7 →
    transitionOf (lcFrom s.ks.lc) target = some (k, d) → s.ks.lc.fails < 8 →
    (tokenOk s.ks.lc d = true → Answers (.lcTransition tap target false n) s fun t =>
      programmed s.ks.lc t k (bitsLeft s.ks.lc k) n ∧ keysGone s t (fun _ => false) ∧ t.ks.lc.state = s.ks.lc.state ∧
        (∀ r, curRoot s = some r → t.ks.lc.locked.contains r = true)) ∧
    (tokenOk s.ks.lc d = false → Answers (.lcTransition tap target false n) s fun t =>
      lcEndedWith s t stToken (s.ks.lc.fails + 1))) ∧
  (∀ tap target n s k d, lcReach s tap = true → lcClear s = true → s.ks.lc.state ≠ 7 →
    transitionOf (lcFrom s.ks.lc) target = some (k, d) → 8 ≤ s.ks.lc.fails →
    Answers (.lcTransition tap target false n) s fun t => lcEndedWith s t stToken s.ks.lc.fails) ∧
  (∀ tap target n s, lcReach s tap = true → s.ks.lc.run = none →
    (s.ks.lc.state = 7 ∨ transitionOf (lcFrom s.ks.lc) target = none ∨ s.ks.lc.pend = true ∨ lcHeld s = true) →
    Answers (.lcTransition tap target false n) s fun t => lcEndedWith s t stIllegal s.ks.lc.fails) ∧
  (∀ tap target n s, lcReach s tap = true → s.ks.lc.run = none → s.ks.lc.state ≠ 7 → s.ks.lc.pend = false → lcHeld s = false →
    (transitionOf (lcFrom s.ks.lc) target).isSome = true → (s.pw.warn = true ∨ s.fw.phase ≠ 0) →
    Answers (.lcTransition tap target false n) s fun t => lcEndedWith s t stBusy s.ks.lc.fails) ∧
  (∀ tap target n s r, lcReach s tap = true → s.ks.lc.run = some r →
    (Answers (.lcTransition tap target true n) s fun t => programmed s.ks.lc t r.seg r.bits n) ∧
    (Answers (.lcComplete tap true n) s fun t => programmed s.ks.lc t r.seg r.bits n) ∧
    ∀ c ∈ [Instr.lcTransition tap target false n, Instr.lcUnlock tap, Instr.lcComplete tap false n],
      Answers c s fun t => t = { s with ks := { s.ks with lc := { s.ks.lc with result := stBusy } } }) ∧
  (∀ tap s bs d b, lcReach s tap = true → lcClear s = true → unlockOf s.ks.lc.state = some (bs, d) →
    unlockFree s.ks.lc bs = some b → s.ks.lc.fails < 8 →
    (tokenOk s.ks.lc d = true → Answers (.lcUnlock tap) s fun t =>
      t.ks.lc.state = 2 ∧ t.ks.lc.origin = s.ks.lc.state ∧ t.ks.lc.fromRma = decide (s.ks.lc.state = 5) ∧
        t.ks.lc.consume = setBit32 s.ks.lc.consume b ∧ t.ks.lc.result = stOk ∧ t.ks.lc.token = [] ∧
        t.ks.lc.segs = s.ks.lc.segs ∧ keysGone s t (fun j => 4104 ≤ j && j ≤ 4106) ∧
        (s.ks.lc.state = 5 → t.ks.lc.locked.contains 3 = true) ∧
        (s.ks.lc.locked.contains 0 = false → akReady t = true)) ∧
    (tokenOk s.ks.lc d = false → Answers (.lcUnlock tap) s fun t => lcEndedWith s t stToken (s.ks.lc.fails + 1))) ∧
  (∀ tap s bs d, lcReach s tap = true → lcClear s = true → unlockOf s.ks.lc.state = some (bs, d) →
    unlockFree s.ks.lc bs = none → Answers (.lcUnlock tap) s fun t => lcEndedWith s t stUnlocks s.ks.lc.fails) ∧
  (∀ tap s, lcReach s tap = true → s.ks.lc.run = none → unlockOf s.ks.lc.state = none →
    Answers (.lcUnlock tap) s fun t => lcEndedWith s t stIllegal s.ks.lc.fails) ∧
  (∀ tap n s k, lcReach s tap = true → s.ks.lc.run = none → allSegs.find? (segPartial s.ks.lc) = some k → s.ks.lc.state = 7 →
    s.ks.lc.pend = false → s.pw.warn = false →
    Answers (.lcComplete tap false n) s fun t => programmed s.ks.lc t k (bitsLeft s.ks.lc k) n ∧ t.ks.slots = s.ks.slots) ∧
  (∀ tap n s, lcReach s tap = true → s.ks.lc.run = none → (s.ks.lc.state ≠ 7 ∨ allSegs.find? (segPartial s.ks.lc) = none) →
    Answers (.lcComplete tap false n) s fun t => lcEndedWith s t stIllegal s.ks.lc.fails) ∧
  (∀ tap target cont n s, lcReach s tap = false → Ignores (.lcTransition tap target cont n) s ∧ Ignores (.lcUnlock tap) s ∧
    Ignores (.lcComplete tap cont n) s) ∧
  (∀ s, Answers .rngFail s fun t => t.ks = { s.ks with rngFail := true } ∧ (unitAt t io0).evt.getLsbD 27 = true ∧
    unitsKept s t io0 ∧ onlyUnits { s with ks := t.ks } t) ∧
  (∀ s, Answers .entropySourcePass s fun t => t = { s with ks := { s.ks with rngFail := false } })

/-- Staging, verifying, arming, cancelling and querying firmware, raising ARB and writing settings (R410, R411, R412, R413, R414, R421, R422, R425). -/
def Obligations.FirmwareCommands : Prop :=
  (∀ ctx qid k s kind n, ready s (qRef ctx qid) 0x40 k → kind = pay (leVal k.entry) 0x20 1 0 → n = pay (leVal k.entry) 0x24 31 0 →
    (kind = 1 ∨ kind = 2) → 512 ≤ n → n ≤ slotSize kind → s.fw.phase = 0 → s.fw.flashLow = false → flashWaits s = false →
    Answers (.fwStageBegin ctx qid) s fun t =>
      idleSlotIs s t kind { st := 0, len := n } ∧ t.fw.staging = some (kind, n) ∧ endedAs t (qRef ctx qid) k stOk 0 ∧ onlyFw s t) ∧
  (∀ ctx qid k s host ev n off kind total b s1 bs, heldCmd s (qRef ctx qid) 0x41 k → n = pay (leVal k.entry) 0x24 31 0 →
    off = pay (leVal k.entry) 0x30 63 0 → s.fw.phase = 0 → s.fw.staging = some (kind, total) → n % 4096 = 0 → off % 4096 = 0 →
    off + n ≤ units4k total * 4096 → b = idleSlot s kind →
    (off ≠ 0 ∨ n = 0 ∨ ∀ i, i < units4k total → n / 4096 ≤ i → (imgSlot s kind b).got.contains i = true) →
    flashWaits s = false → fwSource s k n host ev s1 bs →
    Answers (.fwStageData ctx qid host ev) s fun t =>
      readBytes (imgSlot t kind b).bytes off n = bs ∧ (imgSlot t kind b).st = 1 ∧
        (∀ a, (a < off ∨ off + n ≤ a) → byteAt (imgSlot t kind b).bytes a = byteAt (imgSlot s kind b).bytes a) ∧
        (∀ i, off / 4096 ≤ i → i < (off + n) / 4096 → (imgSlot t kind b).got.contains i = true) ∧
        t.fw.staging = s.fw.staging ∧ endedWith t (qRef ctx qid) stOk 0) ∧
  (∀ ctx qid k s ev n off kind total, ready s (qRef ctx qid) 0x41 k → n = pay (leVal k.entry) 0x24 31 0 →
    off = pay (leVal k.entry) 0x30 63 0 → s.fw.phase = 0 → s.fw.staging = some (kind, total) → n % 4096 = 0 → off % 4096 = 0 →
    off ≠ 0 → off + n ≤ units4k total * 4096 → flashWaits s = false → hostReadGoes s k n →
    Answers (.fwStageData ctx qid .wait ev) s fun t =>
      cmdAt t (qRef ctx qid) = some { k with st := .busy, job := .dma } ∧ onlyQueue s t (qRef ctx qid)) ∧
  (∀ ctx qid k s kind, ready s (qRef ctx qid) 0x42 k → kind = pay (leVal k.entry) 0x20 1 0 → (kind = 1 ∨ kind = 2) →
    s.fw.phase = 0 → s.fw.staging.any (fun x => x.1 = kind) = true →
    (∀ i, (imgVerify s kind (idleSlot s kind)).2 = some i → Answers (.fwVerify ctx qid) s fun t =>
      idleSlotIs s t kind { imgSlot s kind (idleSlot s kind) with st := 2, img := some i } ∧ t.fw.staging = none ∧
        endedAs t (qRef ctx qid) k stOk (i.version + i.svn <<< 32) ∧ onlyFw s t) ∧
    ((imgVerify s kind (idleSlot s kind)).2 = none → Answers (.fwVerify ctx qid) s fun t =>
      idleSlotIs s t kind { imgSlot s kind (idleSlot s kind) with st := 0 } ∧ t.fw.staging = s.fw.staging ∧
        endedAs t (qRef ctx qid) k (imgVerify s kind (idleSlot s kind)).1 0 ∧ onlyFw s t)) ∧
  (∀ ctx qid k s mask, ready s (qRef ctx qid) 0x43 k → mask = pay (leVal k.entry) 0x20 1 0 → mask ≠ 0 → s.fw.phase = 0 →
    (armRefusal s mask = none → Answers (.fwArm ctx qid) s fun t =>
      t.fw.phase = 1 ∧ t.fw.kinds = mask ∧ t.fw.result = stOk ∧
        t.fw.nextSec = (if bitOf mask 0 then (stagedAgain s 1).2 else none) ∧
        t.fw.nextMgmt = (if bitOf mask 1 then (stagedAgain s 2).2 else none) ∧ t.fw.slots = s.fw.slots ∧
        endedAs t (qRef ctx qid) k stOk 0 ∧ onlyFw s t) ∧
    (∀ st, armRefusal s mask = some st → Answers (.fwArm ctx qid) s fun t =>
      t.fw = { s.fw with result := st } ∧ endedAs t (qRef ctx qid) k st 0 ∧ onlyFw s t)) ∧
  (∀ ctx qid k s, ready s (qRef ctx qid) 0x44 k →
    (s.fw.phase = 0 → s.fw.staging = none → Answers (.fwCancel ctx qid) s fun t =>
      endedAs t (qRef ctx qid) k stOk 0 ∧ onlyQueue s t (qRef ctx qid)) ∧
    (∀ kind n, s.fw.phase = 0 → s.fw.staging = some (kind, n) → Answers (.fwCancel ctx qid) s fun t =>
      idleSlotIs s t kind { imgSlot s kind (idleSlot s kind) with st := 0 } ∧ t.fw.staging = none ∧
        endedAs t (qRef ctx qid) k stOk 0 ∧ onlyFw s t) ∧
    (s.fw.phase = 1 → Answers (.fwCancel ctx qid) s fun t =>
      t.fw = { s.fw with phase := 0, kinds := 0, nextSec := none, nextMgmt := none } ∧ endedAs t (qRef ctx qid) k stOk 0 ∧
        onlyFw s t) ∧
    (∀ tid x, s.fw.phase = 2 → s.fw.tid = some tid → mapFind s.un.txns tid = some x → x.phase = .preparing → x.kind = 3 →
      Answers (.fwCancel ctx qid) s fun t => txnAborted s t tid 6 ∧ endedWith t (qRef ctx qid) stOk 0) ∧
    (3 ≤ s.fw.phase → Answers (.fwCancel ctx qid) s fun t =>
      endedAs t (qRef ctx qid) k stIllegal 0 ∧ onlyQueue s t (qRef ctx qid))) ∧
  (∀ ctx qid k s, ready s (qRef ctx qid) 0x45 k →
    Answers (.fwQuery ctx qid) s fun t =>
      endedAs t (qRef ctx qid) k stOk (Config.fwQuery (queryParts s) % 2 ^ 128) ∧ onlyQueue s t (qRef ctx qid)) ∧
  (∀ ctx qid k s a b, ready s (qRef ctx qid) 0x46 k → s.fw.runSec = some a → s.fw.runMgmt = some b →
    (arbValue s < min a.svn b.svn → s.pw.warn = false → Answers (.fwArbRaise ctx qid) s fun t =>
      t.ks = { s.ks with arb := thermo (min a.svn b.svn) } ∧
        (∃ x, t.fw.journal.getLast? = some x ∧ x.typ = 9 ∧ x.status = stOk ∧ x.detail = min a.svn b.svn) ∧
        endedAs t (qRef ctx qid) k stOk 0 ∧ onlyFw { s with ks := t.ks } t) ∧
    (min a.svn b.svn ≤ arbValue s → Answers (.fwArbRaise ctx qid) s fun t =>
      endedAs t (qRef ctx qid) k stIllegal 0 ∧ onlyQueue s t (qRef ctx qid))) ∧
  (∀ ctx qid k s host ev n s1 bs, heldCmd s (qRef ctx qid) 0x47 k → n = pay (leVal k.entry) 0x24 31 0 → n ≤ 65504 →
    flashWaits s = false → fwSource s k n host ev s1 bs →
    Answers (.fwSettings ctx qid host ev) s fun t =>
      (if s.fw.setSel then t.fw.set0 else t.fw.set1) = bs ∧ settings t = settings s ∧ t.fw.setNew = true ∧
        endedWith t (qRef ctx qid) stOk 0) ∧
  (∀ ctx qid k s ev n, ready s (qRef ctx qid) 0x47 k → n = pay (leVal k.entry) 0x24 31 0 → n ≤ 65504 → flashWaits s = false →
    hostReadGoes s k n →
    Answers (.fwSettings ctx qid .wait ev) s fun t =>
      cmdAt t (qRef ctx qid) = some { k with st := .busy, job := .dma } ∧ onlyQueue s t (qRef ctx qid))

/-- Input power, cold reset, boot steps, their failures, and recovery (R393, R413, R415, R416, R417, R433, R434, R459, R463, R469). -/
def Obligations.BootAndRecovery : Prop :=
  (∀ split s, s.pw.tripped = false → s.pn.modRst = true → (s.pw.on = false ∨ (s.fw.booting = false ∧ s.fw.boot = 0)) →
    Answers (.inputPowerOn split []) s fun t => coldBegun s t split ∧ allLost s t) ∧
  (∀ split steps s, (s.pw.tripped = true ∨ s.pn.modRst = false ∨ (s.pw.on = true ∧ s.fw.booting = true ∧
      bootWaits s (s.fw.boot + 1) = true) ∨ (s.pw.on = true ∧ s.fw.booting = false ∧ s.fw.boot ≠ 0)) →
    Ignores (.inputPowerOn split steps) s) ∧
  (∀ split x s k m, bootReady s = true → k = s.fw.boot + 1 → m = stepMode s k → (m = .skipped ∨ stepStatus s k m x = stOk) →
    Answers (.inputPowerOn split [x]) s fun t =>
      t.fw.boot = k ∧ (k = 14 → t.fw.booting = false ∧ t.fw.fails = 0) ∧ (k = 3 → t.fw.runSec = (bootImage s 1 m).2) ∧
        (k = 6 → t.fw.runMgmt = (bootImage s 2 m).2 ∧ t.fw.mgmt = 1) ∧
        (k = 11 → ∀ n, n < 512 → (unitAt t (.tile n)).state = .sleep ∨ (unitAt t (.tile n)).state = .retired)) ∧
  (∀ split x s k m, bootReady s = true → k = s.fw.boot + 1 → m = stepMode s k → m ≠ .skipped → stepStatus s k m x ≠ stOk →
    s.fw.fails < 2 → Answers (.inputPowerOn split [x]) s fun t => nextAttempt s t k) ∧
  (∀ s k, s.pw.on = true → s.fw.booting = true → k = s.fw.boot + 1 →
    (s.fw.fails < 2 → Answers (.bootWatchdog []) s fun t => nextAttempt s t k) ∧
    (∀ kind, 2 ≤ s.fw.fails → kind = (if k ≤ 5 then 1 else 2) → s.fw.fellBack.contains kind = false →
      (imgVerify s kind (idleSlot s kind)).2.isSome = true → Answers (.bootWatchdog []) s fun t =>
        t.fw.boot = 0 ∧ t.fw.booting = true ∧ activeB t kind = idleSlot s kind ∧ t.fw.hdrSeq = s.fw.hdrSeq + 1 ∧ t.fw.fails = 0 ∧
          t.fw.fellBack = s.fw.fellBack ++ [kind]) ∧
    (∀ kind, 2 ≤ s.fw.fails → kind = (if k ≤ 5 then 1 else 2) →
      (s.fw.fellBack.contains kind = true ∨ (imgVerify s kind (idleSlot s kind)).2 = none) →
      Answers (.bootWatchdog []) s fun t => t.fw.boot = 15 ∧ t.fw.booting = false ∧ t.pn.alert = true)) ∧
  (∀ steps s, (s.pw.on = false ∨ s.fw.booting = false) → Ignores (.bootWatchdog steps) s) ∧
  (∀ v s kind b off n, s.fw.boot = 15 → bar0Unit s .pf0 fwUnit = true → v.getLsbD 31 = true → kind = v.toNat % 4 →
    (kind = 1 ∨ kind = 2) → off = bitsOf v.toNat 23 2 * 4096 → off < slotSize kind → flashWaits s = false → b = idleSlot s kind →
    n = min 32768 (slotSize kind - off) →
    (bitOf v.toNat 30 = false → Answers (.rcvGo .pf0 v []) s fun t =>
      readBytes (imgSlot t kind b).bytes off n = readBytes s.fw.rcvBuf 0 n ∧ (imgSlot t kind b).st = 1 ∧ t.fw.boot = 15 ∧
        t = { s with fw := t.fw }) ∧
    (bitOf v.toNat 30 = true → Answers (.rcvGo .pf0 v []) s fun t =>
      (t.fw.boot = 15 ∧ t = { s with fw := t.fw } ∧ activeB t kind = activeB s kind) ∨
      (t.fw.boot = 0 ∧ t.fw.booting = true ∧ t.fw.attempt = 1 ∧ activeB t kind = b ∧ (imgVerify t kind b).2.isSome = true))) ∧
  (∀ w v steps s, (w ≠ .pf0 ∨ s.fw.boot ≠ 15 ∨ v.getLsbD 31 = false) → Ignores (.rcvGo w v steps) s) ∧
  (∀ s, Answers .uvlo s fun t => allLost s t ∧ t.pw.on = false ∧ t.pw.trip = 0 ∧ t.pw.tripped = false ∧ t.rg = {} ∧
    t.fw.slots.map Prod.fst = s.fw.slots.map Prod.fst ∧ t.fw.journal = s.fw.journal ∧ t.ks.lc.segs = s.ks.lc.segs ∧
    t.ks.arb = s.ks.arb) ∧
  (∀ s, Answers .modRstLow s fun t => allLost s t ∧ t.pw.on = false ∧ t.pw.trip = s.pw.trip ∧ t.pn.modRst = false ∧ t.rg = {} ∧
    t.fw.journal = s.fw.journal ∧ (s.ks.lc.run = none → t.ks.lc.segs = s.ks.lc.segs) ∧ t.ks.arb = s.ks.arb) ∧
  (∀ split waited s, (s.pn.modRst = false ∨ (s.pw.tripped = true ∧ s.pw.on = false)) → tripHolds s waited = false → s.fw.phase = 0 →
    Answers (.modRstRise split [] waited) s fun t => coldBegun s t split ∧ t.pn.modRst = true) ∧
  (∀ split steps waited s, (s.pn.modRst = false ∨ (s.pw.tripped = true ∧ s.pw.on = false)) → tripHolds s waited = true →
    Answers (.modRstRise split steps waited) s fun t => t = { s with pn := { s.pn with modRst := true } })

/-- Warnings, the limiter, readings, emergencies and trips, operating points, ageing and apportionment (R425, R431, R437, R439, R440, R441, R442, R444, R445, R453, R454, R456). -/
def Obligations.PowerCommands : Prop :=
  (∀ board s, s.pw.on = true → Answers (.pwrWarnAssert board) s fun t =>
    t.pw.warn = true ∧ t.pn.warnPin = (s.pn.warnPin || board) ∧ sourceSet s t 0 true ∧
      (bitOf s.pw.active 0 = false → t.pn.alert = true ∧ t.pw.emergCnt = satAdd s.pw.emergCnt 1 ∧ bitOf t.pw.seen 0 = true ∧
        (s.fw.phase = 3 → t.fw.phase = 4))) ∧
  (∀ s, s.pw.on = true → Answers .pwrWarnDeassert s fun t =>
    t.pw.warn = false ∧ t.pn.warnPin = false ∧ sourceSet s t 0 false ∧ t.pw.emergCnt = s.pw.emergCnt) ∧
  (∀ v i p raise s, s.pw.on = true → partsWf s = true → Answers (.limiterStep v i p raise) s fun t =>
    field16 t.pw.pwrIn 0 = v % 65536 ∧ field16 t.pw.pwrIn 1 = i % 65536 ∧ field16 t.pw.pwrIn 2 = p % 65536 ∧
      t.pw.curBound = decide (v < 5600) ∧ t = { s with pw := t.pw } ∧ t.pw.active = s.pw.active ∧
      ∀ q ∈ runningParts s, mapGet 0 t.pw.level q.t0 = limiterLevel s (limiterOver s i p) raise q) ∧
  (∀ est dies s, s.pw.on = true → Answers (.powerEstimate est dies) s fun t =>
    (∀ d, d < 4 → field16 t.pw.pwrDie d = dies.getD d 0 % 65536) ∧
      (∀ t0, mapFind t.pw.est t0 = ((est.filter (fun e => (mapFind s.tl.parts e.1).isSome)).reverse.find?
        (fun e => e.1 = t0)).map Prod.snd) ∧
      t = { s with pw := { s.pw with est := t.pw.est, pwrDie := t.pw.pwrDie } }) ∧
  (∀ r s, s.pw.on = true → tripOf s.hw r = 0 → Answers (.thermalReading r) s fun t =>
    (∀ d, d < 4 → field16 t.pw.thDie d = half16 (r.dies.getD d 0)) ∧
      t.pw.coolant = BitVec.ofNat 32 (r.inlet % 65536 + (r.flow % 65536) <<< 16) ∧
      t.pw.hotRead = dieHot s.hw r 950 ∧ t.pw.memThrottle = memHot s.hw r 850 950 ∧
      t.pw.margin = decide (400 < r.inlet ∨ r.flow < 200) ∧
      emergBits t fun i => bitOf s.pw.active i || (decide (i = 2) && !(dieHot s.hw r 1050).isEmpty) ||
        (decide (i = 3) && !(memHot s.hw r 950 1000).isEmpty) || (decide (i = 4) && decide (450 < r.inlet))) ∧
  (∀ r s, s.pw.on = true → tripOf s.hw r ≠ 0 → Answers (.thermalReading r) s fun t => tripBegun s t (tripOf s.hw r)) ∧
  (∀ r s, s.pw.on = false → (s.pw.tripped = false ∨ s.pn.modRst = false) → Ignores (.thermalReading r) s) ∧
  (∀ s, s.pw.on = true →
    (bitOf s.pw.active 1 = true → inputI s * 56 < effW s * 100 →
      Answers (.emergDuration 1) s fun t => sourceSet s t 1 false) ∧
    (bitOf s.pw.active 1 = false → effW s * 500 < inputI s * 224 →
      (runningParts s).all (fun p => decide (stretchOf s p = 60)) = true →
      Answers (.emergDuration 1) s fun t => sourceSet s t 1 true) ∧
    (s.pw.hotRead = [] → Answers (.emergDuration 2) s fun t => t.pw.hotDies = [] ∧ sourceSet s t 2 false) ∧
    (s.pw.hotRead ≠ [] → Ignores (.emergDuration 2) s) ∧
    (s.pw.hotMem.all (fun m => !(s.pw.memThrottle.contains m)) = true →
      Answers (.emergDuration 3) s fun t => t.pw.hotMem = [] ∧ sourceSet s t 3 false) ∧
    (inletOf s < 420 → Answers (.emergDuration 4) s fun t => sourceSet s t 4 false) ∧
    (420 ≤ inletOf s → Ignores (.emergDuration 4) s) ∧
    (bitOf s.pw.active 5 = true → 180 ≤ flowOf s → Answers (.emergDuration 5) s fun t => sourceSet s t 5 false) ∧
    (bitOf s.pw.active 5 = false → flowOf s < 150 → Answers (.emergDuration 5) s fun t => sourceSet s t 5 true) ∧
    (flowOf s < 50 → Answers (.emergDuration 6) s fun t => tripBegun s t 5) ∧
    (50 ≤ flowOf s → Ignores (.emergDuration 6) s)) ∧
  (∀ w v s, (w = .pf0 ∨ w = .mgmt) → pwWriter s w = true →
    Answers (.pwrCapWrite w v) s fun t =>
      t = { s with pw := { s.pw with capW := min (ceilingW s.hw.variant) (max 400 (v.toNat % 65536)) } }) ∧
  (∀ k v s, pwWriter s .mgmt = true → k < 128 → mapSorted s.pw.oppNext = true →
    Answers (.pwrOppWrite .mgmt k v) s fun t =>
      (∀ j p, j < 4 → mapFind s.tl.parts (4 * k + j) = some p →
        oppEntry t (4 * k + j) = max 6 (min 20 (bitsOf v.toNat (8 * j + 4) (8 * j)))) ∧
      t = { s with pw := { s.pw with opp := t.pw.opp, oppNext := t.pw.oppNext, volt := t.pw.volt } }) ∧
  (∀ d s, s.pw.on = true → present s.hw (.cdie d) = true → mapSorted s.pw.oppNext = true →
    Answers (.dieVoltageReached d) s fun t =>
      mapGet 6 t.pw.volt d = voltTarget s d ∧
        (∀ t0 p v, mapFind s.pw.oppNext t0 = some v → mapFind s.tl.parts t0 = some p → partDies p = [d] → v ≤ voltTarget s d →
          mapFind t.pw.opp t0 = some v ∧ mapFind t.pw.oppNext t0 = none) ∧
        t = { s with pw := { s.pw with opp := t.pw.opp, oppNext := t.pw.oppNext, volt := t.pw.volt } }) ∧
  (∀ v w s, pwWriter s .mgmt = true → halfOk v.off v.width = true → w = merge64 s.pw.agePred v.off v.width v.val →
    Answers (.agePredWrite .mgmt v) s fun t =>
      t.pw.agePred = w &&& 0x800FFFFFFFFFFFFF ∧
        t.pw.below = (w.getLsbD 63 && decide (bitsOf w.toNat 31 16 < s.pw.ageThr.toNat)) ∧
        (s.pw.below = true ∨ t.pw.below = false → t = { s with pw := t.pw }) ∧
        (s.pw.below = false ∧ t.pw.below = true → t.pn.ibi = s.pn.ibi ++ [some 16])) ∧
  (∀ v s, bar0Unit s .pf0 .package = true → v.getLsbD 0 = true →
    Answers (.tripCauseClear .pf0 v) s fun t =>
      t.pw = { s.pw with trip := 0 } ∧ t.pn.alert = alertLow t ∧ t = { s with pw := t.pw, pn := t.pn }) ∧
  (∀ w v k w64 s, pwWriter s w = false → Ignores (.pwrCapWrite w v) s ∧ Ignores (.pwrOppWrite w k v) s ∧
    Ignores (.agePredWrite w w64) s) ∧
  (∀ shares total xs s, s.pw.on = true → s.fw.mgmt = 1 → (shares.map Prod.fst).Nodup →
    xs = shareScaled (shares.filter (fun e => (ctxAt s e.1).st ≠ .free)) total →
    Answers (.apportion shares total) s fun t =>
      (∀ e ∈ xs, mapGet 0 t.pw.appCtx e.1 = satAdd (mapGet 0 s.pw.appCtx e.1) e.2) ∧
        (∀ c, (xs.map Prod.fst).contains c = false → mapGet 0 t.pw.appCtx c = mapGet 0 s.pw.appCtx c) ∧
        (xs.map Prod.snd).sum ≤ total ∧ t.pw.appOper = satAdd s.pw.appOper (total - (xs.map Prod.snd).sum) ∧
        t = { s with pw := { s.pw with appCtx := t.pw.appCtx, appOper := t.pw.appOper } })

/-- The meter: readings, its messages, seal and calibration, tampering, its power, and the mirror (R446, R447, R448, R449, R450, R451, R452, R455). -/
def Obligations.MeterCommands : Prop :=
  (∀ m s u, s.mt.on = true → u = seqNext (meterSees s m) →
    Answers (.meterPeriodic m) s fun t => readingOf u t 1 (List.replicate 32 0) ∧ t.mt.seq = s.mt.seq + 1 ∧
      s.mt.energy.toNat ≤ t.mt.energy.toNat ∧ s.mt.msec.toNat ≤ t.mt.msec.toNat ∧ onlyMeter s t) ∧
  (∀ m prev body s u, meterFree s prev = true → body.length = 32 → u = seqNext (meterSees (rspRead s prev) m) →
    Answers (.getReading m prev body) s fun t =>
      readingOf (logAdd u 8 u.mt.seq.toNat) t 2 body ∧ answered t 1 0 t.mt.reading ∧ t.mt.seq = s.mt.seq + 1 ∧
        loggedAt t u.mt.logHead u.mt 8 u.mt.seq.toNat ∧ s.mt.energy.toNat ≤ t.mt.energy.toNat ∧ onlyMeter s t) ∧
  (∀ m prev body s, meterFree s prev = true → body.length ≠ 32 →
    Answers (.getReading m prev body) s fun t => answered t 1 2 [] ∧
      t = { s with mt := { s.mt with rsp := t.mt.rsp, answer := t.mt.answer } }) ∧
  (∀ prev body s start n, meterFree s prev = true → body.length = 3 → start = leVal (body.take 2) → n = leVal (body.drop 2) →
    1 ≤ n → n ≤ 32 → start < 8192 →
    Answers (.getLog prev body) s fun t =>
      answered t 2 0 ((List.range n).flatMap (fun i => mapGet (List.replicate 32 0) s.mt.log ((start + i) % 8192))) ∧
        t = { s with mt := { s.mt with rsp := t.mt.rsp, answer := t.mt.answer } }) ∧
  (∀ prev s, meterFree s prev = true →
    Answers (.getWrap prev) s fun t => answered t 3 0 (if s.mt.lap = 0 then Config.firstWrap.take 232 else s.mt.wrap) ∧
      t = { s with mt := { s.mt with rsp := t.mt.rsp, answer := t.mt.answer } }) ∧
  (∀ prev body s, meterFree s prev = true → body.length = 2 →
    Answers (.getCert prev body) s fun t => answered t 4 0 ((Config.meterChain.drop (leVal body)).take 1024) ∧
      t = { s with mt := { s.mt with rsp := t.mt.rsp, answer := t.mt.answer } }) ∧
  (∀ m body tok last gen s, s.mt.on = true → s.mt.rsp.isSome = true →
    ∀ c ∈ [(Instr.getReading m false body, 1), (Instr.getLog false body, 2), (Instr.getWrap false, 3), (Instr.getCert false body, 4),
        (Instr.meterSeal m false tok, 5), (Instr.meterUnseal m false tok, 6), (Instr.calibrate m false body last gen, 7)],
      Answers c.1 s fun t =>
        t = { s with mt := { s.mt with answer := leBytes 1 c.2 ++ leBytes 1 3 ++ leBytes 2 0 } }) ∧
  (∀ m prev tok s, meterFree s prev = true → tok.length = 32 →
    (sha384 tok = s.mt.sealDig → s.mt.calValid = true → s.mt.burned < 64 → Answers (.meterSeal m prev tok) s fun t =>
      t.mt.isSealed = true ∧ t.mt.burned = s.mt.burned + 1 ∧ answered t 5 0 [] ∧ onlyMeter s t) ∧
    (sha384 tok ≠ s.mt.sealDig → Answers (.meterSeal m prev tok) s fun t =>
      t.mt.isSealed = s.mt.isSealed ∧ t.mt.burned = s.mt.burned ∧ answered t 5 1 [] ∧ onlyMeter s t) ∧
    (sha384 tok = s.mt.metroDig → s.mt.burned < 64 → Answers (.meterUnseal m prev tok) s fun t =>
      t.mt.isSealed = false ∧ t.mt.burned = s.mt.burned + 1 ∧ answered t 6 0 [] ∧ onlyMeter s t) ∧
    (sha384 tok ≠ s.mt.metroDig → Answers (.meterUnseal m prev tok) s fun t =>
      t.mt.isSealed = s.mt.isSealed ∧ t.mt.burned = s.mt.burned ∧ answered t 6 1 [] ∧ onlyMeter s t)) ∧
  (∀ m prev body gen s, meterFree s prev = true → 3 ≤ body.length → body.length ≤ 1026 → s.mt.isSealed = false →
    leVal (body.take 2) = 0 →
    (Answers (.calibrate m prev body false gen) s fun t =>
      t.mt.calPart = body.drop 2 ∧ t.mt.calRecs = s.mt.calRecs ∧ answered t 7 0 [] ∧ onlyMeter s t) ∧
    (gen = true → s.mt.calRecs < 4 → Answers (.calibrate m prev body true gen) s fun t =>
      t.mt.calOtp = s.mt.calOtp ++ body.drop 2 ∧ t.mt.calRecs = s.mt.calRecs + 1 ∧ t.mt.calValid = true ∧ t.mt.calPart = [] ∧
        answered t 7 0 [] ∧ onlyMeter s t)) ∧
  (∀ m s, s.mt.on = true → Answers (.tamper m) s fun t =>
    t.mt.isSealed = false ∧ t.mt.tamper = true ∧ t.mt.calOtp = s.mt.calOtp ∧ onlyMeter s t ∧
      loggedAt t (meterSees s m).mt.logHead (meterSees s m).mt 5 0) ∧
  (∀ m s, s.mt.on = true → Answers (.meterPowerDown m) s fun t =>
    t.mt.on = false ∧ t.mt.rsp = none ∧ s.mt.energy.toNat ≤ t.mt.energy.toNat ∧ onlyMeter s t ∧
      loggedAt t (meterSees s m).mt.logHead (meterSees s m).mt 2 0) ∧
  (∀ m s u, s.mt.on = false → u = meterSees (mtSet s { s.mt with on := true }) m → Answers (.meterPowerUp m) s fun t =>
    t.mt.on = true ∧ s.mt.energy.toNat ≤ t.mt.energy.toNat ∧ onlyMeter s t ∧ loggedAt t u.mt.logHead u.mt 1 0) ∧
  (∀ m s, s.mt.on = false → Ignores (.meterPeriodic m) s ∧ Ignores (.tamper m) s ∧ Ignores (.meterPowerDown m) s) ∧
  (∀ s, s.pw.on = true → s.mt.on = true → Answers .mirrorUpdate s fun t =>
    t.mi.linkOk = true ∧ t.mi.reading = s.mt.reading ∧ t.mi.wrap = s.mt.wrap ∧ t.mi.pub = meterPub ∧
      (∀ k e, k ∈ recentLog s.mt → mapFind s.mt.log k = some e → mapFind t.mi.log (k % 1024) = some e) ∧
      t = { s with mi := t.mi, pn := t.pn }) ∧
  (∀ s, s.pw.on = true → Answers .meterLinkFail s fun t =>
    t.mi = { s.mi with linkOk := false } ∧ t.pn.alert = alertLow t ∧ t = { s with mi := t.mi, pn := t.pn })

/-- PERST#, FLASH_OWN_N, I3C reads of io0 and the JTAG instructions (R321, R392, R458, R460, R464, R465, R466). -/
def Obligations.PinEvents : Prop :=
  (∀ port s, portUp s port = true → s.pw.on = true → perstTaken s port = true →
    Answers (.perstAssert port) s fun t =>
      portOff s t port ∧ (unitAt t (.hport port)).inc = (unitAt s (.hport port)).inc + 1 ∧ (hportAt t port).speed = 0 ∧
        (hportAt t port).negMaj = 0 ∧ (if port = 0 then t.pn.perst0 else t.pn.perst1) = false) ∧
  (∀ port s, s.pw.on = false → perstTaken s port = true →
    Answers (.perstAssert port) s fun t => t = perstSet s port false) ∧
  (∀ port s, perstTaken s port = true → Answers (.perstDeassert port []) s fun t => t = perstSet s port true) ∧
  (∀ port steps s, perstTaken s port = false → Ignores (.perstAssert port) s ∧ Ignores (.perstDeassert port steps) s) ∧
  (∀ level s, Answers (.flashOwn level []) s fun t =>
    t = { s with pn := { s.pn with flashPin := level, boardFlash := !level && (s.pn.boardFlash || !s.pn.modRst) } }) ∧
  (∀ off len s, aonUp s = true → off % 4 = 0 → len % 4 = 0 → 4 ≤ len → len ≤ 1024 →
    Answers (.i3cRead off len) s fun t =>
      t = { s with pn := { s.pn with i3cRsp := t.pn.i3cRsp } } ∧ t.pn.i3cRsp.length = 4 + len ∧
        t.pn.i3cRsp.take 4 = leBytes 1 1 ++ leBytes 1 0 ++ leBytes 2 len ∧
        ∀ i, i < len / 4 → (t.pn.i3cRsp.drop (4 + 4 * i)).take 4 =
          leBytes 4 (if i3cShown (off + 4 * i) then bar0Word s (off + 4 * i) else 0)) ∧
  (∀ off len s, aonUp s = true → (off % 4 ≠ 0 ∨ len % 4 ≠ 0 ∨ len < 4 ∨ 1024 < len) →
    Answers (.i3cRead off len) s fun t =>
      t = { s with pn := { s.pn with i3cRsp := leBytes 1 1 ++ leBytes 1 2 ++ leBytes 2 0 } }) ∧
  (∀ s, aonUp s = true → Answers .idcode s fun t => onlyJtag s t ∧ t.pn.jtagIr = 1 ∧ t.pn.jtagDr = 0x15C71F4B) ∧
  (∀ s, aonUp s = true → Answers .bypass s fun t => bypassed s t) ∧
  (∀ cells s, aonUp s = true → lcState s ≠ 6 → lcState s ≠ 7 →
    ∀ c ∈ [(Instr.extest cells, 0x00), (Instr.samplePreload cells, 0x02)],
      Answers c.1 s fun t => onlyJtag s t ∧ t.pn.jtagIr = c.2 ∧ t.pn.bscan = cells ∧ t.pn.jtagDr = scanCapture s ∧
        t.ks.lc.debugSeen = true) ∧
  (∀ cells s, aonUp s = true → (lcState s = 6 ∨ lcState s = 7) →
    (Answers (.extest cells) s fun t => bypassed s t) ∧ Answers (.samplePreload cells) s fun t => bypassed s t) ∧
  (∀ ir s, aonUp s = true → 0x20 ≤ ir → ir ≤ 0x7F →
    ((lcState s = 0 ∨ lcState s = 2) → Answers (.jtagDebug ir) s fun t =>
      onlyJtag s t ∧ t.pn.jtagIr = ir ∧ t.ks.lc.debugSeen = true) ∧
    (lcState s ≠ 0 → lcState s ≠ 2 → Answers (.jtagDebug ir) s fun t => bypassed s t)) ∧
  (∀ s, aonUp s = true → lcState s ≠ 6 →
    (Answers (.lcAccess .stat) s fun t => onlyJtag s t ∧ t.pn.jtagIr = 0x10 ∧ t.pn.jtagDr = lcStatReg s.ks.lc) ∧
    (∀ k v, k < 8 → Answers (.lcAccess (.token k v)) s fun t =>
      mapFind t.ks.lc.token k = some v ∧ (∀ j, j ≠ k → mapFind t.ks.lc.token j = mapFind s.ks.lc.token j) ∧
        t = { s with pn := { s.pn with jtagIr := 0x10 }, ks := { s.ks with lc := { s.ks.lc with token := t.ks.lc.token } } }) ∧
    (∀ target, Answers (.lcAccess (.cmd true 1 target)) s fun t =>
      exec (.lcTransition true target false 0) { s with pn := { s.pn with jtagIr := 0x10 } } = .next t) ∧
    (∀ target, Answers (.lcAccess (.cmd true 2 target)) s fun t =>
      exec (.lcUnlock true) { s with pn := { s.pn with jtagIr := 0x10 } } = .next t) ∧
    (∀ target, Answers (.lcAccess (.cmd true 3 target)) s fun t =>
      exec (.lcComplete true false 0) { s with pn := { s.pn with jtagIr := 0x10 } } = .next t)) ∧
  (∀ a s, aonUp s = true → lcState s = 6 → Answers (.lcAccess a) s fun t => bypassed s t) ∧
  (∀ cells a ir off len s, aonUp s = false → Ignores (.extest cells) s ∧ Ignores .idcode s ∧ Ignores (.samplePreload cells) s ∧
    Ignores (.lcAccess a) s ∧ Ignores (.jtagDebug ir) s ∧ Ignores .bypass s ∧ Ignores (.i3cRead off len) s)

/-- A service block takes no unit command (R11). -/
def Obligations.ServiceBlocks : Prop :=
  (∀ hw k, unitCapReg hw (.service k) % 256 = 0) ∧
  (∀ c k w inc s, ctlReaches s (.service k) w = true → (unitAt s (.service k)).cmdBusy = false →
    Answers (ctlCommand c (.service k) w inc) s fun t =>
      unitAt t (.service k) = { unitAt s (.service k) with cmdStatus := stDenied, cmd := none,
                                                           evt := (unitAt s (.service k)).evt ||| 2 } ∧
        unitsKept s t (.service k) ∧ onlyUnits s t ∧ t.rg = { s.rg with msix := t.rg.msix })

/-- A STEP COMMIT with no STEP transaction open (R190). -/
def Obligations.StepCommitUnopened : Prop :=
  ∀ n more p s, barAt s n .stepCommit = some p → partsWf s = true → physApart s = true → p.opened = false → p.preparing = false →
    p.decided = false → stepSettling s p = false →
    Answers (.stepCommit n more) s fun t =>
      (∃ q, partOf t n = some q ∧ q.bar = none ∧ q.step = p.step ∧ q.opened = false) ∧
      (∀ u, barMember s p u = true → barIssued s t u (barNext (tileAt s u).plate) more ∧
        (tileAt t u).regs = (tileAt s u).regs ∧ (tileAt t u).scratch = (tileAt s u).scratch) ∧
      (∀ u r, (partTiles p).contains u = true → sRead t u r 3 = BitVec.ofNat 64 stTxnAborted ∧
        ∃ v, (0x614, 4, v) ∈ stepRegs t u ∧ v % 256 = stTxnAborted ∧ bitsOf v 11 8 = 0 ∧ bitsOf v 23 16 = 0) ∧
      t.un.txns = s.un.txns

/-- An image below ARB does not verify in boot, staging or activation, and one at or above it boots (R414). -/
def Obligations.RollbackRefused : Prop :=
  (∀ s kind b, imgSvn s kind b < arbValue s → (imgVerify s kind b).2 = none ∧ (imgVerify s kind b).1 ≠ stOk) ∧
  (∀ ctx qid k s kind, ready s (qRef ctx qid) 0x42 k → kind = pay (leVal k.entry) 0x20 1 0 → (kind = 1 ∨ kind = 2) →
    s.fw.phase = 0 → s.fw.staging.any (fun x => x.1 = kind) = true → imgSvn s kind (idleSlot s kind) < arbValue s →
    Answers (.fwVerify ctx qid) s fun t =>
      (imgSlot t kind (idleSlot s kind)).st = 0 ∧ ∃ st, st ≠ stOk ∧ endedAs t (qRef ctx qid) k st 0) ∧
  (∀ ctx qid k s mask kind, ready s (qRef ctx qid) 0x43 k → mask = pay (leVal k.entry) 0x20 1 0 → s.fw.phase = 0 →
    (kind = 1 ∨ kind = 2) → bitOf mask (kind - 1) = true → imgSvn s kind (idleSlot s kind) < arbValue s →
    Answers (.fwArm ctx qid) s fun t =>
      t.fw.phase = 0 ∧ ∃ st, st ≠ stOk ∧ t.fw = { s.fw with result := st } ∧ endedAs t (qRef ctx qid) k st 0) ∧
  (∀ split x s kind, bootsImage s kind = true → imgSvn s kind (bootSlot s kind) < arbValue s →
    Answers (.inputPowerOn split [x]) s fun t => t.fw.boot ≠ s.fw.boot + 1) ∧
  (∀ s kind b, imgSoundAt s kind b = true → arbValue s ≤ imgSvn s kind b →
    (imgVerify s kind b).1 = stOk ∧ ∃ i, (imgVerify s kind b).2 = some i ∧ i.svn = imgSvn s kind b) ∧
  (∀ split x s kind, bootsImage s kind = true → imgSoundAt s kind (bootSlot s kind) = true →
    arbValue s ≤ imgSvn s kind (bootSlot s kind) → x.status = stOk →
    Answers (.inputPowerOn split [x]) s fun t => t.fw.boot = s.fw.boot + 1 ∧
      ∃ i, (if kind = 1 then t.fw.runSec else t.fw.runMgmt) = some i ∧ i.svn = imgSvn s kind (bootSlot s kind))

/-- What the state after a cold reset holds (R328, R331, R415, R433, R434, 11_memory_tiers, 15_tenancy, 18_power_clocks_metering). -/
def Obligations.ResetState : Prop :=
  State.reset.pending = [] ∧ State.reset.un.txns = [] ∧ State.reset.tl.parts = [] ∧ State.reset.mm.bytes = [] ∧
  State.reset.ks.slots = [] ∧ State.reset.ks.sessions = [] ∧ State.reset.fw.boot = 0 ∧
  State.reset.pw.capW = ceilingW State.reset.hw.variant ∧
  (ctxAt State.reset 0).st = .active ∧ (∀ c, c ≠ 0 → (ctxAt State.reset c).st = .free) ∧
  (∃ q, queueAt State.reset { ctx := 0, qid := 0 } = some q ∧ q.sqOff = 0 ∧ q.sqLog2 = 8 ∧ q.cq.off = 0x4000 ∧ q.cq.log2 = 9 ∧
    q.cq.vector = 1 ∧ q.cq.phase = true ∧ q.cmd = none) ∧
  State.reset.mm.scrubCfg = 0x48018 ∧ State.reset.mm.migRate = 0x10 ∧ State.reset.mm.rsvLow = 0x100 ∧
  (mapGet {} State.reset.mm.mcs 0).cfg = 0x102 ∧ State.reset.rg.shardCfg = 0x65 ∧ State.reset.pw.ageThr = 24 ∧
  memoriesWf State.reset = true ∧ partsWf State.reset = true ∧ physApart State.reset = true ∧ recsApart State.reset = true ∧ keysRoom State.reset = true

/-- Every command completes in every state (95_what_each_step_holds). -/
def Obligations.EveryCommandAnswers : Prop := ∀ c s, ∃ t, exec c s = .next t

/-- What every step keeps: the queue's rest, the variant, and the canonical form of the memories (R3, R433, 95_what_each_step_holds). -/
def Obligations.EveryStepKeeps : Prop :=
  ∀ s t, step s = .next t →
    t.pending = s.pending.tail ∧ t.hw.variant = s.hw.variant ∧ (memoriesWf s = true → memoriesWf t = true)

/-- No step makes two partitions overlap or two pages of a cluster address one slot (R12, R13, R14, R21, R55, R356, R418). -/
def Obligations.PartitionsAndSlotsStayApart : Prop :=
  (∀ s t, partsWf s = true → step s = .next t → partsWf t = true) ∧
  (∀ s t, physApart s = true → recsApart s = true → step s = .next t → physApart t = true ∧ recsApart t = true)
end

