-- ==== Sys2Proof/Laws/Map.lean ====
section
/-! SUPPORT. What the tables and byte memories do: reading after writing, and the canonical form that every operation keeps. -/
namespace Sys2Proof.Machine
open Sys2Proof

variable {α : Type}

/-! ### Tables -/

@[simp] theorem mapFind_nil (k : Nat) : mapFind ([] : Map α) k = none := rfl

@[simp] theorem mapGet_nil (d : α) (k : Nat) : mapGet d [] k = d := rfl

@[simp] theorem mapFind_mapSet_self (m : Map α) (k : Nat) (v : α) : mapFind (mapSet m k v) k = some v := by
  induction m with
  | nil => simp [mapSet, mapFind]
  | cons p r ih =>
    obtain ⟨k', v'⟩ := p
    simp only [mapSet]
    split
    · simp [mapFind]
    · split
      · simp [mapFind]
      · rename_i h; simp [mapFind, ih, Ne.symm h]

theorem mapFind_mapSet_ne (m : Map α) {k j : Nat} (v : α) (h : j ≠ k) : mapFind (mapSet m k v) j = mapFind m j := by
  induction m with
  | nil => simp [mapSet, mapFind, h.symm]
  | cons p r ih =>
    obtain ⟨k', v'⟩ := p
    simp only [mapSet]
    split
    · simp [mapFind, h.symm]
    · split
      · rename_i e; subst e; simp [mapFind, h.symm]
      · simp [mapFind, ih]

theorem mapFind_mapSet (m : Map α) (k j : Nat) (v : α) :
    mapFind (mapSet m k v) j = if j = k then some v else mapFind m j := by
  split
  · rename_i h; rw [h, mapFind_mapSet_self]
  · rename_i h; exact mapFind_mapSet_ne m v h

@[simp] theorem mapGet_mapSet_self (d : α) (m : Map α) (k : Nat) (v : α) : mapGet d (mapSet m k v) k = v := by
  simp [mapGet]

theorem mapGet_mapSet_ne (d : α) (m : Map α) {k j : Nat} (v : α) (h : j ≠ k) : mapGet d (mapSet m k v) j = mapGet d m j := by
  simp [mapGet, mapFind_mapSet_ne m v h]

theorem mapFind_filter_of_pos (m : Map α) (f : Nat × α → Bool) (k : Nat) (h : ∀ v, f (k, v) = true) :
    mapFind (m.filter f) k = mapFind m k := by
  induction m with
  | nil => rfl
  | cons p r ih =>
    obtain ⟨k', v'⟩ := p
    by_cases e : k' = k
    · subst e; simp [List.filter, h, mapFind]
    · cases hf : f (k', v') <;> simp [List.filter, hf, mapFind, e, ih]

theorem mapFind_filter_of_neg (m : Map α) (f : Nat × α → Bool) (k : Nat) (h : ∀ v, f (k, v) = false) :
    mapFind (m.filter f) k = none := by
  induction m with
  | nil => rfl
  | cons p r ih =>
    obtain ⟨k', v'⟩ := p
    by_cases e : k' = k
    · subst e; simp [List.filter, h, ih]
    · cases hf : f (k', v') <;> simp [List.filter, hf, mapFind, e, ih]

@[simp] theorem mapFind_mapDel_self (m : Map α) (k : Nat) : mapFind (mapDel m k) k = none :=
  mapFind_filter_of_neg m _ k (by simp)

theorem mapFind_mapDel_ne (m : Map α) {k j : Nat} (h : j ≠ k) : mapFind (mapDel m k) j = mapFind m j :=
  mapFind_filter_of_pos m _ j (by simp [h])

theorem mapFind_mapDrop (m : Map α) (lo n j : Nat) :
    mapFind (mapDrop m lo n) j = if lo ≤ j ∧ j < lo + n then none else mapFind m j := by
  split
  · rename_i h; exact mapFind_filter_of_neg m _ j (by simp [h.1, h.2])
  · rename_i h; exact mapFind_filter_of_pos m _ j (by intro v; simp; omega)

/-! ### The canonical form -/

theorem mapSorted_cons {k : Nat} {v : α} {r : Map α} :
    mapSorted ((k, v) :: r) = true ↔ (∀ p ∈ r, k < p.1) ∧ mapSorted r = true := by
  simp [mapSorted]

theorem mapSorted_filter (f : Nat × α → Bool) (m : Map α) (h : mapSorted m = true) : mapSorted (m.filter f) = true := by
  induction m with
  | nil => rfl
  | cons p r ih =>
    obtain ⟨k, v⟩ := p
    rw [mapSorted_cons] at h
    cases hf : f (k, v)
    · simpa [List.filter, hf] using ih h.2
    · simp only [List.filter, hf]
      exact mapSorted_cons.mpr ⟨fun p hp => h.1 p (List.mem_of_mem_filter hp), ih h.2⟩

theorem mapSorted_mapDel (m : Map α) (k : Nat) (h : mapSorted m = true) : mapSorted (mapDel m k) = true :=
  mapSorted_filter _ m h

theorem mapSorted_mapDrop (m : Map α) (lo n : Nat) (h : mapSorted m = true) : mapSorted (mapDrop m lo n) = true :=
  mapSorted_filter _ m h

theorem mem_mapSet {m : Map α} {k : Nat} {v : α} {p : Nat × α} (h : p ∈ mapSet m k v) : p = (k, v) ∨ p ∈ m := by
  induction m with
  | nil => simpa [mapSet] using h
  | cons q r ih =>
    obtain ⟨k', v'⟩ := q
    simp only [mapSet] at h
    split at h
    · simpa using h
    · split at h
      · rcases List.mem_cons.mp h with h | h <;> simp [h]
      · rcases List.mem_cons.mp h with h | h
        · simp [h]
        · rcases ih h with h | h <;> simp [h]

theorem mapSorted_mapSet (m : Map α) (k : Nat) (v : α) (h : mapSorted m = true) : mapSorted (mapSet m k v) = true := by
  induction m with
  | nil => rfl
  | cons q r ih =>
    obtain ⟨k', v'⟩ := q
    have hs := mapSorted_cons.mp h
    simp only [mapSet]
    split
    · rename_i lt
      exact mapSorted_cons.mpr ⟨fun p hp => (List.mem_cons.mp hp).elim (fun e => e ▸ lt) (fun hp => lt.trans (hs.1 p hp)), h⟩
    · split
      · rename_i e; subst e; exact mapSorted_cons.mpr hs
      · rename_i nlt ne
        refine mapSorted_cons.mpr ⟨fun p hp => ?_, ih hs.2⟩
        rcases mem_mapSet hp with rfl | hp
        · show k' < k; omega
        · exact hs.1 p hp

/-- In the canonical form the value of a listed key is the one listed. -/
theorem mapFind_of_mem {m : Map α} {k : Nat} {v : α} (h : mapSorted m = true) (hp : (k, v) ∈ m) : mapFind m k = some v := by
  induction m with
  | nil => cases hp
  | cons q r ih =>
    obtain ⟨k', v'⟩ := q
    have hs := mapSorted_cons.mp h
    rcases List.mem_cons.mp hp with e | hp
    · cases e; simp [mapFind]
    · have : k' ≠ k := Nat.ne_of_lt (hs.1 _ hp)
      simp [mapFind, this, ih hs.2 hp]

theorem mem_of_mapFind {m : Map α} {k : Nat} {v : α} (h : mapFind m k = some v) : (k, v) ∈ m := by
  induction m with
  | nil => cases h
  | cons q r ih =>
    obtain ⟨k', v'⟩ := q
    simp only [mapFind] at h
    split at h
    · rename_i e; cases h; subst e; simp
    · exact List.mem_cons_of_mem _ (ih h)

/-! ### Byte memories -/

theorem bytesWf_iff (m : Bytes) : bytesWf m = true ↔ mapSorted m = true ∧ ∀ p ∈ m, p.2 ≠ 0 := by simp [bytesWf]

@[simp] theorem Memory_wf_nil : Memory.wf [] = true := rfl

/-- Every operation on byte memories keeps the canonical form: a byte written, bytes written, a span zeroed. -/
theorem Memory_wf_byteSet (m : Bytes) (a : Nat) (b : Byte) (h : Memory.wf m = true) : Memory.wf (byteSet m a b) = true := by
  rw [Memory.wf, bytesWf_iff] at *
  unfold byteSet
  split
  · exact ⟨mapSorted_mapDel m a h.1, fun p hp => h.2 p (List.mem_of_mem_filter hp)⟩
  · rename_i nz
    refine ⟨mapSorted_mapSet m a b h.1, fun p hp => ?_⟩
    rcases mem_mapSet hp with rfl | hp
    · exact nz
    · exact h.2 p hp

theorem Memory_wf_writeBytes (m : Bytes) (a : Nat) (bs : List Byte) (h : Memory.wf m = true) :
    Memory.wf (writeBytes m a bs) = true := by
  induction bs generalizing m a with
  | nil => exact h
  | cons b r ih => exact ih _ _ (Memory_wf_byteSet m a b h)

theorem Memory_wf_clearBytes (m : Bytes) (a n : Nat) (h : Memory.wf m = true) : Memory.wf (clearBytes m a n) = true := by
  rw [Memory.wf, bytesWf_iff] at *
  exact ⟨mapSorted_mapDrop m a n h.1, fun p hp => h.2 p (List.mem_of_mem_filter hp)⟩

theorem Memory_wf_writeLe (m : Bytes) (a n v : Nat) (h : Memory.wf m = true) : Memory.wf (writeLe m a n v) = true :=
  Memory_wf_writeBytes m a _ h

@[simp] theorem byteAt_byteSet_self (m : Bytes) (a : Nat) (b : Byte) : byteAt (byteSet m a b) a = b := by
  unfold byteSet byteAt mapGet
  split
  · rename_i h; simp [h]
  · simp

theorem byteAt_byteSet_ne (m : Bytes) {a j : Nat} (b : Byte) (h : j ≠ a) : byteAt (byteSet m a b) j = byteAt m j := by
  unfold byteSet byteAt mapGet
  split
  · rw [mapFind_mapDel_ne m h]
  · rw [mapFind_mapSet_ne m b h]

/-- What a write of bytes leaves at every address. -/
theorem byteAt_writeBytes (m : Bytes) (a j : Nat) (bs : List Byte) :
    byteAt (writeBytes m a bs) j = if a ≤ j ∧ j < a + bs.length then bs.getD (j - a) 0 else byteAt m j := by
  induction bs generalizing m a with
  | nil => simp [writeBytes]
  | cons b r ih =>
    rw [writeBytes, ih]
    by_cases e : j = a
    · subst e; simp
    · rw [byteAt_byteSet_ne m b e]
      by_cases h : a + 1 ≤ j ∧ j < a + 1 + r.length
      · have h2 : a ≤ j ∧ j < a + (b :: r).length := by simp; omega
        rw [if_pos h, if_pos h2, show j - a = (j - (a + 1)) + 1 by omega]; simp
      · have h2 : ¬ (a ≤ j ∧ j < a + (b :: r).length) := by simp; omega
        rw [if_neg h, if_neg h2]

theorem byteAt_writeBytes_outside (m : Bytes) {a j : Nat} (bs : List Byte) (h : j < a ∨ a + bs.length ≤ j) :
    byteAt (writeBytes m a bs) j = byteAt m j := by
  rw [byteAt_writeBytes, if_neg (by omega)]

theorem byteAt_clearBytes (m : Bytes) (a n j : Nat) :
    byteAt (clearBytes m a n) j = if a ≤ j ∧ j < a + n then 0 else byteAt m j := by
  unfold clearBytes byteAt mapGet
  rw [mapFind_mapDrop]
  split <;> rfl

@[simp] theorem readBytes_length (m : Bytes) (a n : Nat) : (readBytes m a n).length = n := by simp [readBytes]

/-- Reading back what was written. -/
@[simp] theorem readBytes_writeBytes (m : Bytes) (a : Nat) (bs : List Byte) : readBytes (writeBytes m a bs) a bs.length = bs := by
  apply List.ext_getElem
  · simp
  · intro i h1 h2
    simp [readBytes, byteAt_writeBytes, h2]

/-- Equal reads make equal memories: two memories in canonical form that read the same everywhere are the same list. -/
theorem Memory_ext {m m' : Bytes} (h : Memory.wf m = true) (h' : Memory.wf m' = true) (e : ∀ a, byteAt m a = byteAt m' a) : m = m' := by
  rw [Memory.wf, bytesWf_iff] at h h'
  have key : ∀ {x y : Bytes}, (mapSorted x = true ∧ ∀ p ∈ x, p.2 ≠ 0) → (∀ a, byteAt x a = byteAt y a) → ∀ p ∈ x, p ∈ y := by
    intro x y hx hxy p hp
    have hb : byteAt y p.1 = p.2 := by rw [← hxy]; simp [byteAt, mapGet, mapFind_of_mem hx.1 (show (p.1, p.2) ∈ x from hp)]
    cases hf : mapFind y p.1 with
    | none => exact absurd (by simpa [byteAt, mapGet, hf] using hb.symm) (hx.2 p hp)
    | some v => rw [byteAt, mapGet, hf] at hb; have := mem_of_mapFind hf; simp only [Option.getD_some] at hb; rw [hb] at this; exact this
  have sorted : ∀ {x : Bytes}, mapSorted x = true → x.Pairwise (fun p q => p.1 < q.1) := by
    intro x hx
    induction x with
    | nil => exact List.Pairwise.nil
    | cons q r ih => exact List.Pairwise.cons (mapSorted_cons.mp hx).1 (ih (mapSorted_cons.mp hx).2)
  exact List.Perm.eq_of_pairwise (le := fun p q => p.1 < q.1)
    (fun p q _ _ a b => absurd a (by omega)) (sorted h.1) (sorted h'.1)
    ((List.perm_ext_iff_of_nodup ((sorted h.1).imp (fun hl e => by simp [e] at hl)) ((sorted h'.1).imp (fun hl e => by simp [e] at hl))).mpr
      (fun p => ⟨key h e p, key h' (fun a => (e a).symm) p⟩))

/-! ### Little-endian values (R3) -/

@[simp] theorem leBytes_length (n v : Nat) : (leBytes n v).length = n := by simp [leBytes]

@[simp] theorem leVal_nil : leVal [] = 0 := rfl

theorem leBytes_succ (n v : Nat) : leBytes (n + 1) v = BitVec.ofNat 8 v :: leBytes n (v >>> 8) := by
  simp only [leBytes, List.range_succ_eq_map, List.map_cons, List.map_map]
  congr 1
  apply List.map_congr_left
  intro i _
  simp [← Nat.shiftRight_add, Nat.mul_succ, Nat.add_comm]

/-- A value read back from its bytes. -/
theorem leVal_leBytes (n v : Nat) : leVal (leBytes n v) = v % 2 ^ (8 * n) := by
  induction n generalizing v with
  | zero => simp [leBytes, Nat.mod_one]
  | succ n ih =>
    rw [leBytes_succ, leVal, ih, BitVec.toNat_ofNat, Nat.shiftRight_eq_div_pow, Nat.mul_succ, Nat.add_comm (8 * n), pow_add,
      Nat.mod_mul]
    norm_num

theorem leVal_lt (bs : List Byte) : leVal bs < 2 ^ (8 * bs.length) := by
  induction bs with
  | nil => simp
  | cons b r ih =>
    have hb := b.isLt
    have e : 2 ^ (8 * (b :: r).length) = 2 ^ (8 * r.length) * 256 := by rw [List.length_cons, Nat.mul_succ, pow_add]; norm_num
    rw [leVal, e]; omega

/-! ### Counters -/

theorem satInc_toNat {w : Nat} (c : BitVec w) : (satInc c).toNat = min (2 ^ w - 1) (c.toNat + 1) := by
  have h := c.isLt
  unfold satInc
  split
  · rename_i e; subst e; simp
  · rename_i e
    have hne : c.toNat ≠ 2 ^ w - 1 := fun x => e (BitVec.eq_of_toNat_eq (by simpa using x))
    have lt : c.toNat + 1 < 2 ^ w := by omega
    have e1 : (c + 1).toNat = c.toNat + 1 := by simp [BitVec.toNat_add, Nat.mod_eq_of_lt lt]
    rw [e1]; omega

end Sys2Proof.Machine
end

