-- ==== Sys2Proof/Laws/State.lean ====
section
/-! SUPPORT. State's updates: for each operation that replaces one record, one equation per field of State, and what reading that record
gives afterwards. -/
namespace Sys2Proof.Machine
open Sys2Proof

/-! ### unitSet -/

@[simp] theorem unitSet_hw (s : State) (u : UnitId) (x : Unit) : (unitSet s u x).hw = s.hw := rfl
@[simp] theorem unitSet_un (s : State) (u : UnitId) (x : Unit) : (unitSet s u x).un = { s.un with tab := mapSet s.un.tab (pageOf u) x } := rfl
@[simp] theorem unitSet_tl (s : State) (u : UnitId) (x : Unit) : (unitSet s u x).tl = s.tl := rfl
@[simp] theorem unitSet_rg (s : State) (u : UnitId) (x : Unit) : (unitSet s u x).rg = s.rg := rfl
@[simp] theorem unitSet_mm (s : State) (u : UnitId) (x : Unit) : (unitSet s u x).mm = s.mm := rfl
@[simp] theorem unitSet_ks (s : State) (u : UnitId) (x : Unit) : (unitSet s u x).ks = s.ks := rfl
@[simp] theorem unitSet_fw (s : State) (u : UnitId) (x : Unit) : (unitSet s u x).fw = s.fw := rfl
@[simp] theorem unitSet_fb (s : State) (u : UnitId) (x : Unit) : (unitSet s u x).fb = s.fb := rfl
@[simp] theorem unitSet_pw (s : State) (u : UnitId) (x : Unit) : (unitSet s u x).pw = s.pw := rfl
@[simp] theorem unitSet_mt (s : State) (u : UnitId) (x : Unit) : (unitSet s u x).mt = s.mt := rfl
@[simp] theorem unitSet_mi (s : State) (u : UnitId) (x : Unit) : (unitSet s u x).mi = s.mi := rfl
@[simp] theorem unitSet_pn (s : State) (u : UnitId) (x : Unit) : (unitSet s u x).pn = s.pn := rfl
@[simp] theorem unitSet_free (s : State) (u : UnitId) (x : Unit) : (unitSet s u x).free = s.free := rfl
@[simp] theorem unitSet_pending (s : State) (u : UnitId) (x : Unit) : (unitSet s u x).pending = s.pending := rfl

/-! ### txnSet -/

@[simp] theorem txnSet_hw (s : State) (tid : Nat) (x : Txn) : (txnSet s tid x).hw = s.hw := rfl
@[simp] theorem txnSet_un (s : State) (tid : Nat) (x : Txn) : (txnSet s tid x).un = { s.un with txns := mapSet s.un.txns tid x } := rfl
@[simp] theorem txnSet_tl (s : State) (tid : Nat) (x : Txn) : (txnSet s tid x).tl = s.tl := rfl
@[simp] theorem txnSet_rg (s : State) (tid : Nat) (x : Txn) : (txnSet s tid x).rg = s.rg := rfl
@[simp] theorem txnSet_mm (s : State) (tid : Nat) (x : Txn) : (txnSet s tid x).mm = s.mm := rfl
@[simp] theorem txnSet_ks (s : State) (tid : Nat) (x : Txn) : (txnSet s tid x).ks = s.ks := rfl
@[simp] theorem txnSet_fw (s : State) (tid : Nat) (x : Txn) : (txnSet s tid x).fw = s.fw := rfl
@[simp] theorem txnSet_fb (s : State) (tid : Nat) (x : Txn) : (txnSet s tid x).fb = s.fb := rfl
@[simp] theorem txnSet_pw (s : State) (tid : Nat) (x : Txn) : (txnSet s tid x).pw = s.pw := rfl
@[simp] theorem txnSet_mt (s : State) (tid : Nat) (x : Txn) : (txnSet s tid x).mt = s.mt := rfl
@[simp] theorem txnSet_mi (s : State) (tid : Nat) (x : Txn) : (txnSet s tid x).mi = s.mi := rfl
@[simp] theorem txnSet_pn (s : State) (tid : Nat) (x : Txn) : (txnSet s tid x).pn = s.pn := rfl
@[simp] theorem txnSet_free (s : State) (tid : Nat) (x : Txn) : (txnSet s tid x).free = s.free := rfl
@[simp] theorem txnSet_pending (s : State) (tid : Nat) (x : Txn) : (txnSet s tid x).pending = s.pending := rfl

/-! ### substSet -/

@[simp] theorem substSet_hw (s : State) (c : Nat) (x : Subst) : (substSet s c x).hw = s.hw := rfl
@[simp] theorem substSet_un (s : State) (c : Nat) (x : Subst) : (substSet s c x).un = { s.un with subst := mapSet s.un.subst c x } := rfl
@[simp] theorem substSet_tl (s : State) (c : Nat) (x : Subst) : (substSet s c x).tl = s.tl := rfl
@[simp] theorem substSet_rg (s : State) (c : Nat) (x : Subst) : (substSet s c x).rg = s.rg := rfl
@[simp] theorem substSet_mm (s : State) (c : Nat) (x : Subst) : (substSet s c x).mm = s.mm := rfl
@[simp] theorem substSet_ks (s : State) (c : Nat) (x : Subst) : (substSet s c x).ks = s.ks := rfl
@[simp] theorem substSet_fw (s : State) (c : Nat) (x : Subst) : (substSet s c x).fw = s.fw := rfl
@[simp] theorem substSet_fb (s : State) (c : Nat) (x : Subst) : (substSet s c x).fb = s.fb := rfl
@[simp] theorem substSet_pw (s : State) (c : Nat) (x : Subst) : (substSet s c x).pw = s.pw := rfl
@[simp] theorem substSet_mt (s : State) (c : Nat) (x : Subst) : (substSet s c x).mt = s.mt := rfl
@[simp] theorem substSet_mi (s : State) (c : Nat) (x : Subst) : (substSet s c x).mi = s.mi := rfl
@[simp] theorem substSet_pn (s : State) (c : Nat) (x : Subst) : (substSet s c x).pn = s.pn := rfl
@[simp] theorem substSet_free (s : State) (c : Nat) (x : Subst) : (substSet s c x).free = s.free := rfl
@[simp] theorem substSet_pending (s : State) (c : Nat) (x : Subst) : (substSet s c x).pending = s.pending := rfl

/-! ### tileSet -/

@[simp] theorem tileSet_hw (s : State) (t : Nat) (x : Tile) : (tileSet s t x).hw = s.hw := rfl
@[simp] theorem tileSet_un (s : State) (t : Nat) (x : Tile) : (tileSet s t x).un = s.un := rfl
@[simp] theorem tileSet_tl (s : State) (t : Nat) (x : Tile) : (tileSet s t x).tl = { s.tl with tab := mapSet s.tl.tab (tileKey s t) x } := rfl
@[simp] theorem tileSet_rg (s : State) (t : Nat) (x : Tile) : (tileSet s t x).rg = s.rg := rfl
@[simp] theorem tileSet_mm (s : State) (t : Nat) (x : Tile) : (tileSet s t x).mm = s.mm := rfl
@[simp] theorem tileSet_ks (s : State) (t : Nat) (x : Tile) : (tileSet s t x).ks = s.ks := rfl
@[simp] theorem tileSet_fw (s : State) (t : Nat) (x : Tile) : (tileSet s t x).fw = s.fw := rfl
@[simp] theorem tileSet_fb (s : State) (t : Nat) (x : Tile) : (tileSet s t x).fb = s.fb := rfl
@[simp] theorem tileSet_pw (s : State) (t : Nat) (x : Tile) : (tileSet s t x).pw = s.pw := rfl
@[simp] theorem tileSet_mt (s : State) (t : Nat) (x : Tile) : (tileSet s t x).mt = s.mt := rfl
@[simp] theorem tileSet_mi (s : State) (t : Nat) (x : Tile) : (tileSet s t x).mi = s.mi := rfl
@[simp] theorem tileSet_pn (s : State) (t : Nat) (x : Tile) : (tileSet s t x).pn = s.pn := rfl
@[simp] theorem tileSet_free (s : State) (t : Nat) (x : Tile) : (tileSet s t x).free = s.free := rfl
@[simp] theorem tileSet_pending (s : State) (t : Nat) (x : Tile) : (tileSet s t x).pending = s.pending := rfl

/-! ### partAdd -/

@[simp] theorem partAdd_hw (s : State) (p : Part) : (partAdd s p).hw = s.hw := rfl
@[simp] theorem partAdd_un (s : State) (p : Part) : (partAdd s p).un = s.un := rfl
@[simp] theorem partAdd_tl (s : State) (p : Part) : (partAdd s p).tl = { s.tl with parts := mapSet s.tl.parts p.t0 p } := rfl
@[simp] theorem partAdd_rg (s : State) (p : Part) : (partAdd s p).rg = s.rg := rfl
@[simp] theorem partAdd_mm (s : State) (p : Part) : (partAdd s p).mm = s.mm := rfl
@[simp] theorem partAdd_ks (s : State) (p : Part) : (partAdd s p).ks = s.ks := rfl
@[simp] theorem partAdd_fw (s : State) (p : Part) : (partAdd s p).fw = s.fw := rfl
@[simp] theorem partAdd_fb (s : State) (p : Part) : (partAdd s p).fb = s.fb := rfl
@[simp] theorem partAdd_pw (s : State) (p : Part) : (partAdd s p).pw = s.pw := rfl
@[simp] theorem partAdd_mt (s : State) (p : Part) : (partAdd s p).mt = s.mt := rfl
@[simp] theorem partAdd_mi (s : State) (p : Part) : (partAdd s p).mi = s.mi := rfl
@[simp] theorem partAdd_pn (s : State) (p : Part) : (partAdd s p).pn = s.pn := rfl
@[simp] theorem partAdd_free (s : State) (p : Part) : (partAdd s p).free = s.free := rfl
@[simp] theorem partAdd_pending (s : State) (p : Part) : (partAdd s p).pending = s.pending := rfl

/-! ### cacheSet -/

@[simp] theorem cacheSet_hw (s : State) (c : Nat) (x : CCache) : (cacheSet s c x).hw = s.hw := rfl
@[simp] theorem cacheSet_un (s : State) (c : Nat) (x : CCache) : (cacheSet s c x).un = s.un := rfl
@[simp] theorem cacheSet_tl (s : State) (c : Nat) (x : CCache) : (cacheSet s c x).tl = { s.tl with caches := mapSet s.tl.caches c x } := rfl
@[simp] theorem cacheSet_rg (s : State) (c : Nat) (x : CCache) : (cacheSet s c x).rg = s.rg := rfl
@[simp] theorem cacheSet_mm (s : State) (c : Nat) (x : CCache) : (cacheSet s c x).mm = s.mm := rfl
@[simp] theorem cacheSet_ks (s : State) (c : Nat) (x : CCache) : (cacheSet s c x).ks = s.ks := rfl
@[simp] theorem cacheSet_fw (s : State) (c : Nat) (x : CCache) : (cacheSet s c x).fw = s.fw := rfl
@[simp] theorem cacheSet_fb (s : State) (c : Nat) (x : CCache) : (cacheSet s c x).fb = s.fb := rfl
@[simp] theorem cacheSet_pw (s : State) (c : Nat) (x : CCache) : (cacheSet s c x).pw = s.pw := rfl
@[simp] theorem cacheSet_mt (s : State) (c : Nat) (x : CCache) : (cacheSet s c x).mt = s.mt := rfl
@[simp] theorem cacheSet_mi (s : State) (c : Nat) (x : CCache) : (cacheSet s c x).mi = s.mi := rfl
@[simp] theorem cacheSet_pn (s : State) (c : Nat) (x : CCache) : (cacheSet s c x).pn = s.pn := rfl
@[simp] theorem cacheSet_free (s : State) (c : Nat) (x : CCache) : (cacheSet s c x).free = s.free := rfl
@[simp] theorem cacheSet_pending (s : State) (c : Nat) (x : CCache) : (cacheSet s c x).pending = s.pending := rfl

/-! ### queueSet -/

@[simp] theorem queueSet_hw (s : State) (c : CmdRef) (x : Queue) : (queueSet s c x).hw = s.hw := rfl
@[simp] theorem queueSet_un (s : State) (c : CmdRef) (x : Queue) : (queueSet s c x).un = s.un := rfl
@[simp] theorem queueSet_tl (s : State) (c : CmdRef) (x : Queue) : (queueSet s c x).tl = s.tl := rfl
@[simp] theorem queueSet_rg (s : State) (c : CmdRef) (x : Queue) : (queueSet s c x).rg = { s.rg with queues := mapSet s.rg.queues (queueKey c) x } := rfl
@[simp] theorem queueSet_mm (s : State) (c : CmdRef) (x : Queue) : (queueSet s c x).mm = s.mm := rfl
@[simp] theorem queueSet_ks (s : State) (c : CmdRef) (x : Queue) : (queueSet s c x).ks = s.ks := rfl
@[simp] theorem queueSet_fw (s : State) (c : CmdRef) (x : Queue) : (queueSet s c x).fw = s.fw := rfl
@[simp] theorem queueSet_fb (s : State) (c : CmdRef) (x : Queue) : (queueSet s c x).fb = s.fb := rfl
@[simp] theorem queueSet_pw (s : State) (c : CmdRef) (x : Queue) : (queueSet s c x).pw = s.pw := rfl
@[simp] theorem queueSet_mt (s : State) (c : CmdRef) (x : Queue) : (queueSet s c x).mt = s.mt := rfl
@[simp] theorem queueSet_mi (s : State) (c : CmdRef) (x : Queue) : (queueSet s c x).mi = s.mi := rfl
@[simp] theorem queueSet_pn (s : State) (c : CmdRef) (x : Queue) : (queueSet s c x).pn = s.pn := rfl
@[simp] theorem queueSet_free (s : State) (c : CmdRef) (x : Queue) : (queueSet s c x).free = s.free := rfl
@[simp] theorem queueSet_pending (s : State) (c : CmdRef) (x : Queue) : (queueSet s c x).pending = s.pending := rfl

/-! ### ctxSet -/

@[simp] theorem ctxSet_hw (s : State) (c : Nat) (x : Ctx) : (ctxSet s c x).hw = s.hw := rfl
@[simp] theorem ctxSet_un (s : State) (c : Nat) (x : Ctx) : (ctxSet s c x).un = s.un := rfl
@[simp] theorem ctxSet_tl (s : State) (c : Nat) (x : Ctx) : (ctxSet s c x).tl = s.tl := rfl
@[simp] theorem ctxSet_rg (s : State) (c : Nat) (x : Ctx) : (ctxSet s c x).rg = { s.rg with ctxs := mapSet s.rg.ctxs c x } := rfl
@[simp] theorem ctxSet_mm (s : State) (c : Nat) (x : Ctx) : (ctxSet s c x).mm = s.mm := rfl
@[simp] theorem ctxSet_ks (s : State) (c : Nat) (x : Ctx) : (ctxSet s c x).ks = s.ks := rfl
@[simp] theorem ctxSet_fw (s : State) (c : Nat) (x : Ctx) : (ctxSet s c x).fw = s.fw := rfl
@[simp] theorem ctxSet_fb (s : State) (c : Nat) (x : Ctx) : (ctxSet s c x).fb = s.fb := rfl
@[simp] theorem ctxSet_pw (s : State) (c : Nat) (x : Ctx) : (ctxSet s c x).pw = s.pw := rfl
@[simp] theorem ctxSet_mt (s : State) (c : Nat) (x : Ctx) : (ctxSet s c x).mt = s.mt := rfl
@[simp] theorem ctxSet_mi (s : State) (c : Nat) (x : Ctx) : (ctxSet s c x).mi = s.mi := rfl
@[simp] theorem ctxSet_pn (s : State) (c : Nat) (x : Ctx) : (ctxSet s c x).pn = s.pn := rfl
@[simp] theorem ctxSet_free (s : State) (c : Nat) (x : Ctx) : (ctxSet s c x).free = s.free := rfl
@[simp] theorem ctxSet_pending (s : State) (c : Nat) (x : Ctx) : (ctxSet s c x).pending = s.pending := rfl

/-! ### hportSet -/

@[simp] theorem hportSet_hw (s : State) (k : Nat) (x : HPort) : (hportSet s k x).hw = s.hw := rfl
@[simp] theorem hportSet_un (s : State) (k : Nat) (x : HPort) : (hportSet s k x).un = s.un := rfl
@[simp] theorem hportSet_tl (s : State) (k : Nat) (x : HPort) : (hportSet s k x).tl = s.tl := rfl
@[simp] theorem hportSet_rg (s : State) (k : Nat) (x : HPort) : (hportSet s k x).rg = { s.rg with ports := mapSet s.rg.ports k x } := rfl
@[simp] theorem hportSet_mm (s : State) (k : Nat) (x : HPort) : (hportSet s k x).mm = s.mm := rfl
@[simp] theorem hportSet_ks (s : State) (k : Nat) (x : HPort) : (hportSet s k x).ks = s.ks := rfl
@[simp] theorem hportSet_fw (s : State) (k : Nat) (x : HPort) : (hportSet s k x).fw = s.fw := rfl
@[simp] theorem hportSet_fb (s : State) (k : Nat) (x : HPort) : (hportSet s k x).fb = s.fb := rfl
@[simp] theorem hportSet_pw (s : State) (k : Nat) (x : HPort) : (hportSet s k x).pw = s.pw := rfl
@[simp] theorem hportSet_mt (s : State) (k : Nat) (x : HPort) : (hportSet s k x).mt = s.mt := rfl
@[simp] theorem hportSet_mi (s : State) (k : Nat) (x : HPort) : (hportSet s k x).mi = s.mi := rfl
@[simp] theorem hportSet_pn (s : State) (k : Nat) (x : HPort) : (hportSet s k x).pn = s.pn := rfl
@[simp] theorem hportSet_free (s : State) (k : Nat) (x : HPort) : (hportSet s k x).free = s.free := rfl
@[simp] theorem hportSet_pending (s : State) (k : Nat) (x : HPort) : (hportSet s k x).pending = s.pending := rfl

/-! ### funcSet -/

@[simp] theorem funcSet_hw (s : State) (f : Nat) (x : Func) : (funcSet s f x).hw = s.hw := rfl
@[simp] theorem funcSet_un (s : State) (f : Nat) (x : Func) : (funcSet s f x).un = s.un := rfl
@[simp] theorem funcSet_tl (s : State) (f : Nat) (x : Func) : (funcSet s f x).tl = s.tl := rfl
@[simp] theorem funcSet_rg (s : State) (f : Nat) (x : Func) : (funcSet s f x).rg = { s.rg with funcs := mapSet s.rg.funcs f x } := rfl
@[simp] theorem funcSet_mm (s : State) (f : Nat) (x : Func) : (funcSet s f x).mm = s.mm := rfl
@[simp] theorem funcSet_ks (s : State) (f : Nat) (x : Func) : (funcSet s f x).ks = s.ks := rfl
@[simp] theorem funcSet_fw (s : State) (f : Nat) (x : Func) : (funcSet s f x).fw = s.fw := rfl
@[simp] theorem funcSet_fb (s : State) (f : Nat) (x : Func) : (funcSet s f x).fb = s.fb := rfl
@[simp] theorem funcSet_pw (s : State) (f : Nat) (x : Func) : (funcSet s f x).pw = s.pw := rfl
@[simp] theorem funcSet_mt (s : State) (f : Nat) (x : Func) : (funcSet s f x).mt = s.mt := rfl
@[simp] theorem funcSet_mi (s : State) (f : Nat) (x : Func) : (funcSet s f x).mi = s.mi := rfl
@[simp] theorem funcSet_pn (s : State) (f : Nat) (x : Func) : (funcSet s f x).pn = s.pn := rfl
@[simp] theorem funcSet_free (s : State) (f : Nat) (x : Func) : (funcSet s f x).free = s.free := rfl
@[simp] theorem funcSet_pending (s : State) (f : Nat) (x : Func) : (funcSet s f x).pending = s.pending := rfl

/-! ### objSet -/

@[simp] theorem objSet_hw (s : State) (o : Nat) (x : Obj) : (objSet s o x).hw = s.hw := rfl
@[simp] theorem objSet_un (s : State) (o : Nat) (x : Obj) : (objSet s o x).un = s.un := rfl
@[simp] theorem objSet_tl (s : State) (o : Nat) (x : Obj) : (objSet s o x).tl = s.tl := rfl
@[simp] theorem objSet_rg (s : State) (o : Nat) (x : Obj) : (objSet s o x).rg = { s.rg with objs := mapSet s.rg.objs o x } := rfl
@[simp] theorem objSet_mm (s : State) (o : Nat) (x : Obj) : (objSet s o x).mm = s.mm := rfl
@[simp] theorem objSet_ks (s : State) (o : Nat) (x : Obj) : (objSet s o x).ks = s.ks := rfl
@[simp] theorem objSet_fw (s : State) (o : Nat) (x : Obj) : (objSet s o x).fw = s.fw := rfl
@[simp] theorem objSet_fb (s : State) (o : Nat) (x : Obj) : (objSet s o x).fb = s.fb := rfl
@[simp] theorem objSet_pw (s : State) (o : Nat) (x : Obj) : (objSet s o x).pw = s.pw := rfl
@[simp] theorem objSet_mt (s : State) (o : Nat) (x : Obj) : (objSet s o x).mt = s.mt := rfl
@[simp] theorem objSet_mi (s : State) (o : Nat) (x : Obj) : (objSet s o x).mi = s.mi := rfl
@[simp] theorem objSet_pn (s : State) (o : Nat) (x : Obj) : (objSet s o x).pn = s.pn := rfl
@[simp] theorem objSet_free (s : State) (o : Nat) (x : Obj) : (objSet s o x).free = s.free := rfl
@[simp] theorem objSet_pending (s : State) (o : Nat) (x : Obj) : (objSet s o x).pending = s.pending := rfl

/-! ### pcSet -/

@[simp] theorem pcSet_hw (s : State) (k : Nat) (x : PcSt) : (pcSet s k x).hw = s.hw := rfl
@[simp] theorem pcSet_un (s : State) (k : Nat) (x : PcSt) : (pcSet s k x).un = s.un := rfl
@[simp] theorem pcSet_tl (s : State) (k : Nat) (x : PcSt) : (pcSet s k x).tl = s.tl := rfl
@[simp] theorem pcSet_rg (s : State) (k : Nat) (x : PcSt) : (pcSet s k x).rg = s.rg := rfl
@[simp] theorem pcSet_mm (s : State) (k : Nat) (x : PcSt) : (pcSet s k x).mm = { s.mm with pcs := mapSet s.mm.pcs k x } := rfl
@[simp] theorem pcSet_ks (s : State) (k : Nat) (x : PcSt) : (pcSet s k x).ks = s.ks := rfl
@[simp] theorem pcSet_fw (s : State) (k : Nat) (x : PcSt) : (pcSet s k x).fw = s.fw := rfl
@[simp] theorem pcSet_fb (s : State) (k : Nat) (x : PcSt) : (pcSet s k x).fb = s.fb := rfl
@[simp] theorem pcSet_pw (s : State) (k : Nat) (x : PcSt) : (pcSet s k x).pw = s.pw := rfl
@[simp] theorem pcSet_mt (s : State) (k : Nat) (x : PcSt) : (pcSet s k x).mt = s.mt := rfl
@[simp] theorem pcSet_mi (s : State) (k : Nat) (x : PcSt) : (pcSet s k x).mi = s.mi := rfl
@[simp] theorem pcSet_pn (s : State) (k : Nat) (x : PcSt) : (pcSet s k x).pn = s.pn := rfl
@[simp] theorem pcSet_free (s : State) (k : Nat) (x : PcSt) : (pcSet s k x).free = s.free := rfl
@[simp] theorem pcSet_pending (s : State) (k : Nat) (x : PcSt) : (pcSet s k x).pending = s.pending := rfl

/-! ### mcSet -/

@[simp] theorem mcSet_hw (s : State) (m : Nat) (x : Mc) : (mcSet s m x).hw = s.hw := rfl
@[simp] theorem mcSet_un (s : State) (m : Nat) (x : Mc) : (mcSet s m x).un = s.un := rfl
@[simp] theorem mcSet_tl (s : State) (m : Nat) (x : Mc) : (mcSet s m x).tl = s.tl := rfl
@[simp] theorem mcSet_rg (s : State) (m : Nat) (x : Mc) : (mcSet s m x).rg = s.rg := rfl
@[simp] theorem mcSet_mm (s : State) (m : Nat) (x : Mc) : (mcSet s m x).mm = { s.mm with mcs := mapSet s.mm.mcs m x } := rfl
@[simp] theorem mcSet_ks (s : State) (m : Nat) (x : Mc) : (mcSet s m x).ks = s.ks := rfl
@[simp] theorem mcSet_fw (s : State) (m : Nat) (x : Mc) : (mcSet s m x).fw = s.fw := rfl
@[simp] theorem mcSet_fb (s : State) (m : Nat) (x : Mc) : (mcSet s m x).fb = s.fb := rfl
@[simp] theorem mcSet_pw (s : State) (m : Nat) (x : Mc) : (mcSet s m x).pw = s.pw := rfl
@[simp] theorem mcSet_mt (s : State) (m : Nat) (x : Mc) : (mcSet s m x).mt = s.mt := rfl
@[simp] theorem mcSet_mi (s : State) (m : Nat) (x : Mc) : (mcSet s m x).mi = s.mi := rfl
@[simp] theorem mcSet_pn (s : State) (m : Nat) (x : Mc) : (mcSet s m x).pn = s.pn := rfl
@[simp] theorem mcSet_free (s : State) (m : Nat) (x : Mc) : (mcSet s m x).free = s.free := rfl
@[simp] theorem mcSet_pending (s : State) (m : Nat) (x : Mc) : (mcSet s m x).pending = s.pending := rfl

/-! ### frameSet -/

@[simp] theorem frameSet_hw (s : State) (fk : Nat) (x : Frame) : (frameSet s fk x).hw = s.hw := rfl
@[simp] theorem frameSet_un (s : State) (fk : Nat) (x : Frame) : (frameSet s fk x).un = s.un := rfl
@[simp] theorem frameSet_tl (s : State) (fk : Nat) (x : Frame) : (frameSet s fk x).tl = s.tl := rfl
@[simp] theorem frameSet_rg (s : State) (fk : Nat) (x : Frame) : (frameSet s fk x).rg = s.rg := rfl
@[simp] theorem frameSet_mm (s : State) (fk : Nat) (x : Frame) : (frameSet s fk x).mm = { s.mm with frames := mapSet s.mm.frames fk x } := rfl
@[simp] theorem frameSet_ks (s : State) (fk : Nat) (x : Frame) : (frameSet s fk x).ks = s.ks := rfl
@[simp] theorem frameSet_fw (s : State) (fk : Nat) (x : Frame) : (frameSet s fk x).fw = s.fw := rfl
@[simp] theorem frameSet_fb (s : State) (fk : Nat) (x : Frame) : (frameSet s fk x).fb = s.fb := rfl
@[simp] theorem frameSet_pw (s : State) (fk : Nat) (x : Frame) : (frameSet s fk x).pw = s.pw := rfl
@[simp] theorem frameSet_mt (s : State) (fk : Nat) (x : Frame) : (frameSet s fk x).mt = s.mt := rfl
@[simp] theorem frameSet_mi (s : State) (fk : Nat) (x : Frame) : (frameSet s fk x).mi = s.mi := rfl
@[simp] theorem frameSet_pn (s : State) (fk : Nat) (x : Frame) : (frameSet s fk x).pn = s.pn := rfl
@[simp] theorem frameSet_free (s : State) (fk : Nat) (x : Frame) : (frameSet s fk x).free = s.free := rfl
@[simp] theorem frameSet_pending (s : State) (fk : Nat) (x : Frame) : (frameSet s fk x).pending = s.pending := rfl

/-! ### slotSet -/

@[simp] theorem slotSet_hw (s : State) (k : Nat) (x : Slot) : (slotSet s k x).hw = s.hw := rfl
@[simp] theorem slotSet_un (s : State) (k : Nat) (x : Slot) : (slotSet s k x).un = s.un := rfl
@[simp] theorem slotSet_tl (s : State) (k : Nat) (x : Slot) : (slotSet s k x).tl = s.tl := rfl
@[simp] theorem slotSet_rg (s : State) (k : Nat) (x : Slot) : (slotSet s k x).rg = s.rg := rfl
@[simp] theorem slotSet_mm (s : State) (k : Nat) (x : Slot) : (slotSet s k x).mm = s.mm := rfl
@[simp] theorem slotSet_ks (s : State) (k : Nat) (x : Slot) : (slotSet s k x).ks = { s.ks with slots := mapSet s.ks.slots k x } := rfl
@[simp] theorem slotSet_fw (s : State) (k : Nat) (x : Slot) : (slotSet s k x).fw = s.fw := rfl
@[simp] theorem slotSet_fb (s : State) (k : Nat) (x : Slot) : (slotSet s k x).fb = s.fb := rfl
@[simp] theorem slotSet_pw (s : State) (k : Nat) (x : Slot) : (slotSet s k x).pw = s.pw := rfl
@[simp] theorem slotSet_mt (s : State) (k : Nat) (x : Slot) : (slotSet s k x).mt = s.mt := rfl
@[simp] theorem slotSet_mi (s : State) (k : Nat) (x : Slot) : (slotSet s k x).mi = s.mi := rfl
@[simp] theorem slotSet_pn (s : State) (k : Nat) (x : Slot) : (slotSet s k x).pn = s.pn := rfl
@[simp] theorem slotSet_free (s : State) (k : Nat) (x : Slot) : (slotSet s k x).free = s.free := rfl
@[simp] theorem slotSet_pending (s : State) (k : Nat) (x : Slot) : (slotSet s k x).pending = s.pending := rfl

/-! ### lcSet -/

@[simp] theorem lcSet_hw (s : State) (x : LcSt) : (lcSet s x).hw = s.hw := rfl
@[simp] theorem lcSet_un (s : State) (x : LcSt) : (lcSet s x).un = s.un := rfl
@[simp] theorem lcSet_tl (s : State) (x : LcSt) : (lcSet s x).tl = s.tl := rfl
@[simp] theorem lcSet_rg (s : State) (x : LcSt) : (lcSet s x).rg = s.rg := rfl
@[simp] theorem lcSet_mm (s : State) (x : LcSt) : (lcSet s x).mm = s.mm := rfl
@[simp] theorem lcSet_ks (s : State) (x : LcSt) : (lcSet s x).ks = { s.ks with lc := x } := rfl
@[simp] theorem lcSet_fw (s : State) (x : LcSt) : (lcSet s x).fw = s.fw := rfl
@[simp] theorem lcSet_fb (s : State) (x : LcSt) : (lcSet s x).fb = s.fb := rfl
@[simp] theorem lcSet_pw (s : State) (x : LcSt) : (lcSet s x).pw = s.pw := rfl
@[simp] theorem lcSet_mt (s : State) (x : LcSt) : (lcSet s x).mt = s.mt := rfl
@[simp] theorem lcSet_mi (s : State) (x : LcSt) : (lcSet s x).mi = s.mi := rfl
@[simp] theorem lcSet_pn (s : State) (x : LcSt) : (lcSet s x).pn = s.pn := rfl
@[simp] theorem lcSet_free (s : State) (x : LcSt) : (lcSet s x).free = s.free := rfl
@[simp] theorem lcSet_pending (s : State) (x : LcSt) : (lcSet s x).pending = s.pending := rfl

/-! ### fwSet -/

@[simp] theorem fwSet_hw (s : State) (f : FwSt) : (fwSet s f).hw = s.hw := rfl
@[simp] theorem fwSet_un (s : State) (f : FwSt) : (fwSet s f).un = s.un := rfl
@[simp] theorem fwSet_tl (s : State) (f : FwSt) : (fwSet s f).tl = s.tl := rfl
@[simp] theorem fwSet_rg (s : State) (f : FwSt) : (fwSet s f).rg = s.rg := rfl
@[simp] theorem fwSet_mm (s : State) (f : FwSt) : (fwSet s f).mm = s.mm := rfl
@[simp] theorem fwSet_ks (s : State) (f : FwSt) : (fwSet s f).ks = s.ks := rfl
@[simp] theorem fwSet_fw (s : State) (f : FwSt) : (fwSet s f).fw = f := rfl
@[simp] theorem fwSet_fb (s : State) (f : FwSt) : (fwSet s f).fb = s.fb := rfl
@[simp] theorem fwSet_pw (s : State) (f : FwSt) : (fwSet s f).pw = s.pw := rfl
@[simp] theorem fwSet_mt (s : State) (f : FwSt) : (fwSet s f).mt = s.mt := rfl
@[simp] theorem fwSet_mi (s : State) (f : FwSt) : (fwSet s f).mi = s.mi := rfl
@[simp] theorem fwSet_pn (s : State) (f : FwSt) : (fwSet s f).pn = s.pn := rfl
@[simp] theorem fwSet_free (s : State) (f : FwSt) : (fwSet s f).free = s.free := rfl
@[simp] theorem fwSet_pending (s : State) (f : FwSt) : (fwSet s f).pending = s.pending := rfl

/-! ### fportSet -/

@[simp] theorem fportSet_hw (s : State) (p : Nat) (x : FPort) : (fportSet s p x).hw = s.hw := rfl
@[simp] theorem fportSet_un (s : State) (p : Nat) (x : FPort) : (fportSet s p x).un = s.un := rfl
@[simp] theorem fportSet_tl (s : State) (p : Nat) (x : FPort) : (fportSet s p x).tl = s.tl := rfl
@[simp] theorem fportSet_rg (s : State) (p : Nat) (x : FPort) : (fportSet s p x).rg = s.rg := rfl
@[simp] theorem fportSet_mm (s : State) (p : Nat) (x : FPort) : (fportSet s p x).mm = s.mm := rfl
@[simp] theorem fportSet_ks (s : State) (p : Nat) (x : FPort) : (fportSet s p x).ks = s.ks := rfl
@[simp] theorem fportSet_fw (s : State) (p : Nat) (x : FPort) : (fportSet s p x).fw = s.fw := rfl
@[simp] theorem fportSet_fb (s : State) (p : Nat) (x : FPort) : (fportSet s p x).fb = { s.fb with ports := mapSet s.fb.ports p x } := rfl
@[simp] theorem fportSet_pw (s : State) (p : Nat) (x : FPort) : (fportSet s p x).pw = s.pw := rfl
@[simp] theorem fportSet_mt (s : State) (p : Nat) (x : FPort) : (fportSet s p x).mt = s.mt := rfl
@[simp] theorem fportSet_mi (s : State) (p : Nat) (x : FPort) : (fportSet s p x).mi = s.mi := rfl
@[simp] theorem fportSet_pn (s : State) (p : Nat) (x : FPort) : (fportSet s p x).pn = s.pn := rfl
@[simp] theorem fportSet_free (s : State) (p : Nat) (x : FPort) : (fportSet s p x).free = s.free := rfl
@[simp] theorem fportSet_pending (s : State) (p : Nat) (x : FPort) : (fportSet s p x).pending = s.pending := rfl

/-! ### pathSet -/

@[simp] theorem pathSet_hw (s : State) (node p : Nat) (x : PathSt) : (pathSet s node p x).hw = s.hw := rfl
@[simp] theorem pathSet_un (s : State) (node p : Nat) (x : PathSt) : (pathSet s node p x).un = s.un := rfl
@[simp] theorem pathSet_tl (s : State) (node p : Nat) (x : PathSt) : (pathSet s node p x).tl = s.tl := rfl
@[simp] theorem pathSet_rg (s : State) (node p : Nat) (x : PathSt) : (pathSet s node p x).rg = s.rg := rfl
@[simp] theorem pathSet_mm (s : State) (node p : Nat) (x : PathSt) : (pathSet s node p x).mm = s.mm := rfl
@[simp] theorem pathSet_ks (s : State) (node p : Nat) (x : PathSt) : (pathSet s node p x).ks = s.ks := rfl
@[simp] theorem pathSet_fw (s : State) (node p : Nat) (x : PathSt) : (pathSet s node p x).fw = s.fw := rfl
@[simp] theorem pathSet_fb (s : State) (node p : Nat) (x : PathSt) : (pathSet s node p x).fb = { s.fb with paths := mapSet s.fb.paths (pathKey node p) x } := rfl
@[simp] theorem pathSet_pw (s : State) (node p : Nat) (x : PathSt) : (pathSet s node p x).pw = s.pw := rfl
@[simp] theorem pathSet_mt (s : State) (node p : Nat) (x : PathSt) : (pathSet s node p x).mt = s.mt := rfl
@[simp] theorem pathSet_mi (s : State) (node p : Nat) (x : PathSt) : (pathSet s node p x).mi = s.mi := rfl
@[simp] theorem pathSet_pn (s : State) (node p : Nat) (x : PathSt) : (pathSet s node p x).pn = s.pn := rfl
@[simp] theorem pathSet_free (s : State) (node p : Nat) (x : PathSt) : (pathSet s node p x).free = s.free := rfl
@[simp] theorem pathSet_pending (s : State) (node p : Nat) (x : PathSt) : (pathSet s node p x).pending = s.pending := rfl

/-! ### groupSet -/

@[simp] theorem groupSet_hw (s : State) (g : Nat) (x : Group) : (groupSet s g x).hw = s.hw := rfl
@[simp] theorem groupSet_un (s : State) (g : Nat) (x : Group) : (groupSet s g x).un = s.un := rfl
@[simp] theorem groupSet_tl (s : State) (g : Nat) (x : Group) : (groupSet s g x).tl = s.tl := rfl
@[simp] theorem groupSet_rg (s : State) (g : Nat) (x : Group) : (groupSet s g x).rg = s.rg := rfl
@[simp] theorem groupSet_mm (s : State) (g : Nat) (x : Group) : (groupSet s g x).mm = s.mm := rfl
@[simp] theorem groupSet_ks (s : State) (g : Nat) (x : Group) : (groupSet s g x).ks = s.ks := rfl
@[simp] theorem groupSet_fw (s : State) (g : Nat) (x : Group) : (groupSet s g x).fw = s.fw := rfl
@[simp] theorem groupSet_fb (s : State) (g : Nat) (x : Group) : (groupSet s g x).fb = { s.fb with groups := mapSet s.fb.groups g x } := rfl
@[simp] theorem groupSet_pw (s : State) (g : Nat) (x : Group) : (groupSet s g x).pw = s.pw := rfl
@[simp] theorem groupSet_mt (s : State) (g : Nat) (x : Group) : (groupSet s g x).mt = s.mt := rfl
@[simp] theorem groupSet_mi (s : State) (g : Nat) (x : Group) : (groupSet s g x).mi = s.mi := rfl
@[simp] theorem groupSet_pn (s : State) (g : Nat) (x : Group) : (groupSet s g x).pn = s.pn := rfl
@[simp] theorem groupSet_free (s : State) (g : Nat) (x : Group) : (groupSet s g x).free = s.free := rfl
@[simp] theorem groupSet_pending (s : State) (g : Nat) (x : Group) : (groupSet s g x).pending = s.pending := rfl

/-! ### laneSet -/

@[simp] theorem laneSet_hw (s : State) (t : Nat) (x : LaneRun) : (laneSet s t x).hw = s.hw := rfl
@[simp] theorem laneSet_un (s : State) (t : Nat) (x : LaneRun) : (laneSet s t x).un = s.un := rfl
@[simp] theorem laneSet_tl (s : State) (t : Nat) (x : LaneRun) : (laneSet s t x).tl = s.tl := rfl
@[simp] theorem laneSet_rg (s : State) (t : Nat) (x : LaneRun) : (laneSet s t x).rg = s.rg := rfl
@[simp] theorem laneSet_mm (s : State) (t : Nat) (x : LaneRun) : (laneSet s t x).mm = s.mm := rfl
@[simp] theorem laneSet_ks (s : State) (t : Nat) (x : LaneRun) : (laneSet s t x).ks = s.ks := rfl
@[simp] theorem laneSet_fw (s : State) (t : Nat) (x : LaneRun) : (laneSet s t x).fw = s.fw := rfl
@[simp] theorem laneSet_fb (s : State) (t : Nat) (x : LaneRun) : (laneSet s t x).fb = { s.fb with lanes := mapSet s.fb.lanes t x } := rfl
@[simp] theorem laneSet_pw (s : State) (t : Nat) (x : LaneRun) : (laneSet s t x).pw = s.pw := rfl
@[simp] theorem laneSet_mt (s : State) (t : Nat) (x : LaneRun) : (laneSet s t x).mt = s.mt := rfl
@[simp] theorem laneSet_mi (s : State) (t : Nat) (x : LaneRun) : (laneSet s t x).mi = s.mi := rfl
@[simp] theorem laneSet_pn (s : State) (t : Nat) (x : LaneRun) : (laneSet s t x).pn = s.pn := rfl
@[simp] theorem laneSet_free (s : State) (t : Nat) (x : LaneRun) : (laneSet s t x).free = s.free := rfl
@[simp] theorem laneSet_pending (s : State) (t : Nat) (x : LaneRun) : (laneSet s t x).pending = s.pending := rfl

/-! ### pwSet -/

@[simp] theorem pwSet_hw (s : State) (p : PowerSt) : (pwSet s p).hw = s.hw := rfl
@[simp] theorem pwSet_un (s : State) (p : PowerSt) : (pwSet s p).un = s.un := rfl
@[simp] theorem pwSet_tl (s : State) (p : PowerSt) : (pwSet s p).tl = s.tl := rfl
@[simp] theorem pwSet_rg (s : State) (p : PowerSt) : (pwSet s p).rg = s.rg := rfl
@[simp] theorem pwSet_mm (s : State) (p : PowerSt) : (pwSet s p).mm = s.mm := rfl
@[simp] theorem pwSet_ks (s : State) (p : PowerSt) : (pwSet s p).ks = s.ks := rfl
@[simp] theorem pwSet_fw (s : State) (p : PowerSt) : (pwSet s p).fw = s.fw := rfl
@[simp] theorem pwSet_fb (s : State) (p : PowerSt) : (pwSet s p).fb = s.fb := rfl
@[simp] theorem pwSet_pw (s : State) (p : PowerSt) : (pwSet s p).pw = p := rfl
@[simp] theorem pwSet_mt (s : State) (p : PowerSt) : (pwSet s p).mt = s.mt := rfl
@[simp] theorem pwSet_mi (s : State) (p : PowerSt) : (pwSet s p).mi = s.mi := rfl
@[simp] theorem pwSet_pn (s : State) (p : PowerSt) : (pwSet s p).pn = s.pn := rfl
@[simp] theorem pwSet_free (s : State) (p : PowerSt) : (pwSet s p).free = s.free := rfl
@[simp] theorem pwSet_pending (s : State) (p : PowerSt) : (pwSet s p).pending = s.pending := rfl

/-! ### mtSet -/

@[simp] theorem mtSet_hw (s : State) (m : MeterSt) : (mtSet s m).hw = s.hw := rfl
@[simp] theorem mtSet_un (s : State) (m : MeterSt) : (mtSet s m).un = s.un := rfl
@[simp] theorem mtSet_tl (s : State) (m : MeterSt) : (mtSet s m).tl = s.tl := rfl
@[simp] theorem mtSet_rg (s : State) (m : MeterSt) : (mtSet s m).rg = s.rg := rfl
@[simp] theorem mtSet_mm (s : State) (m : MeterSt) : (mtSet s m).mm = s.mm := rfl
@[simp] theorem mtSet_ks (s : State) (m : MeterSt) : (mtSet s m).ks = s.ks := rfl
@[simp] theorem mtSet_fw (s : State) (m : MeterSt) : (mtSet s m).fw = s.fw := rfl
@[simp] theorem mtSet_fb (s : State) (m : MeterSt) : (mtSet s m).fb = s.fb := rfl
@[simp] theorem mtSet_pw (s : State) (m : MeterSt) : (mtSet s m).pw = s.pw := rfl
@[simp] theorem mtSet_mt (s : State) (m : MeterSt) : (mtSet s m).mt = m := rfl
@[simp] theorem mtSet_mi (s : State) (m : MeterSt) : (mtSet s m).mi = s.mi := rfl
@[simp] theorem mtSet_pn (s : State) (m : MeterSt) : (mtSet s m).pn = s.pn := rfl
@[simp] theorem mtSet_free (s : State) (m : MeterSt) : (mtSet s m).free = s.free := rfl
@[simp] theorem mtSet_pending (s : State) (m : MeterSt) : (mtSet s m).pending = s.pending := rfl

/-! ### Reading after writing -/

@[simp] theorem unitAt_unitSet_self (s : State) (u : UnitId) (x : Unit) : unitAt (unitSet s u x) u = x := by simp [unitAt]
@[simp] theorem substAt_substSet_self (s : State) (c : Nat) (x : Subst) : substAt (substSet s c x) c = x := by simp [substAt]
theorem substAt_substSet_ne (s : State) {c j : Nat} (x : Subst) (h : j ≠ c) : substAt (substSet s c x) j = substAt s j := by
  simp [substAt, mapGet_mapSet_ne _ _ x h]
@[simp] theorem cacheAt_cacheSet_self (s : State) (c : Nat) (x : CCache) : cacheAt (cacheSet s c x) c = x := by simp [cacheAt]
theorem cacheAt_cacheSet_ne (s : State) {c j : Nat} (x : CCache) (h : j ≠ c) : cacheAt (cacheSet s c x) j = cacheAt s j := by
  simp [cacheAt, mapGet_mapSet_ne _ _ x h]
@[simp] theorem ctxAt_ctxSet_self (s : State) (c : Nat) (x : Ctx) : ctxAt (ctxSet s c x) c = x := by simp [ctxAt]
theorem ctxAt_ctxSet_ne (s : State) {c j : Nat} (x : Ctx) (h : j ≠ c) : ctxAt (ctxSet s c x) j = ctxAt s j := by
  simp [ctxAt, mapGet_mapSet_ne _ _ x h]
@[simp] theorem hportAt_hportSet_self (s : State) (k : Nat) (x : HPort) : hportAt (hportSet s k x) k = x := by simp [hportAt]
theorem hportAt_hportSet_ne (s : State) {k j : Nat} (x : HPort) (h : j ≠ k) : hportAt (hportSet s k x) j = hportAt s j := by
  simp [hportAt, mapGet_mapSet_ne _ _ x h]
@[simp] theorem funcAt_funcSet_self (s : State) (f : Nat) (x : Func) : funcAt (funcSet s f x) f = x := by simp [funcAt]
theorem funcAt_funcSet_ne (s : State) {f j : Nat} (x : Func) (h : j ≠ f) : funcAt (funcSet s f x) j = funcAt s j := by
  simp [funcAt, mapGet_mapSet_ne _ _ x h]
@[simp] theorem pcAt_pcSet_self (s : State) (k : Nat) (x : PcSt) : pcAt (pcSet s k x) k = x := by simp [pcAt]
theorem pcAt_pcSet_ne (s : State) {k j : Nat} (x : PcSt) (h : j ≠ k) : pcAt (pcSet s k x) j = pcAt s j := by
  simp [pcAt, mapGet_mapSet_ne _ _ x h]
@[simp] theorem mcAt_mcSet_self (s : State) (m : Nat) (x : Mc) : mcAt (mcSet s m x) m = x := by simp [mcAt]
theorem mcAt_mcSet_ne (s : State) {m j : Nat} (x : Mc) (h : j ≠ m) : mcAt (mcSet s m x) j = mcAt s j := by
  simp [mcAt, mapGet_mapSet_ne _ _ x h]
@[simp] theorem slotAt_slotSet_self (s : State) (k : Nat) (x : Slot) : slotAt (slotSet s k x) k = x := by simp [slotAt]
theorem slotAt_slotSet_ne (s : State) {k j : Nat} (x : Slot) (h : j ≠ k) : slotAt (slotSet s k x) j = slotAt s j := by
  simp [slotAt, mapGet_mapSet_ne _ _ x h]
@[simp] theorem objAt_objSet_self (s : State) (o : Nat) (x : Obj) : objAt (objSet s o x) o = some x := by simp [objAt]
theorem objAt_objSet_ne (s : State) {o j : Nat} (x : Obj) (h : j ≠ o) : objAt (objSet s o x) j = objAt s j := by
  simp [objAt, mapFind_mapSet_ne _ x h]
@[simp] theorem groupAt_groupSet_self (s : State) (g : Nat) (x : Group) : groupAt (groupSet s g x) g = some x := by simp [groupAt]
theorem groupAt_groupSet_ne (s : State) {g j : Nat} (x : Group) (h : j ≠ g) : groupAt (groupSet s g x) j = groupAt s j := by
  simp [groupAt, mapFind_mapSet_ne _ x h]
@[simp] theorem laneAt_laneSet_self (s : State) (t : Nat) (x : LaneRun) : laneAt (laneSet s t x) t = some x := by simp [laneAt]
theorem laneAt_laneSet_ne (s : State) {t j : Nat} (x : LaneRun) (h : j ≠ t) : laneAt (laneSet s t x) j = laneAt s j := by
  simp [laneAt, mapFind_mapSet_ne _ x h]
@[simp] theorem queueAt_queueSet_self (s : State) (c : CmdRef) (x : Queue) : queueAt (queueSet s c x) c = some x := by simp [queueAt]
theorem queueAt_queueSet_ne (s : State) {c d : CmdRef} (x : Queue) (h : queueKey d ≠ queueKey c) : queueAt (queueSet s c x) d = queueAt s d := by
  simp [queueAt, mapFind_mapSet_ne _ x h]
theorem unitAt_unitSet_ne (s : State) {u v : UnitId} (x : Unit) (h : pageOf v ≠ pageOf u) : unitAt (unitSet s u x) v = unitAt s v := by
  simp [unitAt, mapFind_mapSet_ne _ x h]
@[simp] theorem pathAt_pathSet_self (s : State) (node p : Nat) (x : PathSt) : pathAt (pathSet s node p x) node p = x := by simp [pathAt]

/-- The physical slots do not move with a tile's record. -/
@[simp] theorem tileKey_tileSet (s : State) (t j : Nat) (x : Tile) : tileKey (tileSet s t x) j = tileKey s j := rfl

@[simp] theorem tileAt_tileSet_self (s : State) (t : Nat) (x : Tile) : tileAt (tileSet s t x) t = x := by simp [tileAt]
theorem tileAt_tileSet_ne (s : State) {t j : Nat} (x : Tile) (h : tileKey s j ≠ tileKey s t) : tileAt (tileSet s t x) j = tileAt s j := by
  simp [tileAt, mapFind_mapSet_ne _ x h]

/-- Other records of the same unit tree are read as before. -/
@[simp] theorem tileAt_unitSet (s : State) (u : UnitId) (x : Unit) (t : Nat) : tileAt (unitSet s u x) t = tileAt s t := by
  cases u <;> rfl
@[simp] theorem partOf_unitSet (s : State) (u : UnitId) (x : Unit) (t : Nat) : partOf (unitSet s u x) t = partOf s t := rfl
@[simp] theorem partOf_tileSet (s : State) (t j : Nat) (x : Tile) : partOf (tileSet s t x) j = partOf s j := rfl
@[simp] theorem unitAt_tileSet (s : State) (t : Nat) (x : Tile) (u : UnitId) : unitAt (tileSet s t x) u = unitAt s u := rfl

end Sys2Proof.Machine
end

