-- ==== Sys2Proof/Laws/Ops.lean ====
section
/-! SUPPORT. What each shared operation can do, said once: the events and error records of units, what a tile's engines report, the end of
a ring command, the requests between units, transactions and registers. A proof cites these and unfolds no operation. -/
namespace Sys2Proof.Machine
open Sys2Proof

/-! ### Events and records of units -/

/-- Only unit records, the device interrupt's level and the messages sent may differ. -/
def EvtFrame (s t : State) : Prop :=
  ∃ tab irq msix, t = { s with un := { s.un with tab := tab, devIrq := irq }, rg := { s.rg with msix := msix } }

theorem EvtFrame.refl (s : State) : EvtFrame s s := ⟨_, _, _, rfl⟩

theorem EvtFrame.trans {s t u : State} (h : EvtFrame s t) (k : EvtFrame t u) : EvtFrame s u := by
  obtain ⟨_, _, _, rfl⟩ := h
  obtain ⟨_, _, _, rfl⟩ := k
  exact ⟨_, _, _, rfl⟩

theorem unitSet_frame (s : State) (u : UnitId) (x : Unit) : EvtFrame s (unitSet s u x) := ⟨_, _, _, rfl⟩

theorem sendDevIrq_frame (s : State) : EvtFrame s (sendDevIrq s) := ⟨_, _, _, rfl⟩

theorem irqEdge_frame (s : State) : EvtFrame s (irqEdge s) := by
  unfold irqEdge
  dsimp only
  split
  · exact ⟨_, _, _, rfl⟩
  · exact ⟨_, _, _, rfl⟩

/-- An edge of the root condition leaves the unit records. -/
@[simp] theorem unitAt_irqEdge (s : State) (u : UnitId) : unitAt (irqEdge s) u = unitAt s u := by
  unfold irqEdge
  dsimp only
  split <;> rfl

theorem unitEvt_frame (s : State) (u : UnitId) (bits : Nat) : EvtFrame s (unitEvt s u bits) :=
  (unitSet_frame s u _).trans (irqEdge_frame _)

theorem unitAt_unitEvt_self (s : State) (u : UnitId) (bits : Nat) : unitAt (unitEvt s u bits) u = evtOr (unitAt s u) bits := by
  simp [unitEvt]

theorem unitAt_unitEvt_ne (s : State) {u v : UnitId} (bits : Nat) (h : pageOf v ≠ pageOf u) : unitAt (unitEvt s u bits) v = unitAt s v := by
  simp [unitEvt, unitAt_unitSet_ne s _ h]

theorem setUState_frame (s : State) (u : UnitId) (st : UState) : EvtFrame s (setUState s u st) := by
  unfold setUState
  dsimp only
  split
  · exact .refl s
  · exact (unitSet_frame s u _).trans (irqEdge_frame _)

/-- The unit is in the state it enters. -/
@[simp] theorem unitAt_setUState_state (s : State) (u : UnitId) (st : UState) : (unitAt (setUState s u st) u).state = st := by
  unfold setUState
  dsimp only
  split
  · assumption
  · simp [evtOr]

theorem unitAt_setUState_ne (s : State) {u v : UnitId} (st : UState) (h : pageOf v ≠ pageOf u) :
    unitAt (setUState s u st) v = unitAt s v := by
  unfold setUState
  dsimp only
  split
  · rfl
  · simp [unitAt_unitSet_ne s _ h]

theorem errLog_frame (s : State) (u : UnitId) (status source lo hi : Nat) (ctx : Option Nat) :
    EvtFrame s (errLog s u status source lo hi ctx) :=
  (unitSet_frame s u _).trans (irqEdge_frame _)

/-- R23: a record held stays; the unit's state is no part of it. -/
theorem errRecord_held (x : Unit) (status source lo hi : Nat) (ctx : Option Nat) (h : x.err3.getLsbD 31 = true) :
    (errRecord x status source lo hi ctx).err0 = x.err0 ∧ (errRecord x status source lo hi ctx).err1 = x.err1
      ∧ (errRecord x status source lo hi ctx).err2 = x.err2 := by
  simp [errRecord, h]

@[simp] theorem errRecord_state (x : Unit) (status source lo hi : Nat) (ctx : Option Nat) :
    (errRecord x status source lo hi ctx).state = x.state := by
  unfold errRecord
  split <;> rfl

@[simp] theorem errRecord_inc (x : Unit) (status source lo hi : Nat) (ctx : Option Nat) :
    (errRecord x status source lo hi ctx).inc = x.inc := by
  unfold errRecord
  split <;> rfl

/-! ### What a tile's engines report -/

/-- Only tiles, partition records and what events change may differ. -/
def TileFrame (s t : State) : Prop :=
  ∃ tiles parts tab irq msix, t =
    { s with tl := { s.tl with tab := tiles, parts := parts }, un := { s.un with tab := tab, devIrq := irq }, rg := { s.rg with msix := msix } }

theorem TileFrame.refl (s : State) : TileFrame s s := ⟨_, _, _, _, _, rfl⟩

theorem TileFrame.trans {s t u : State} (h : TileFrame s t) (k : TileFrame t u) : TileFrame s u := by
  obtain ⟨_, _, _, _, _, rfl⟩ := h
  obtain ⟨_, _, _, _, _, rfl⟩ := k
  exact ⟨_, _, _, _, _, rfl⟩

theorem EvtFrame.tile {s t : State} (h : EvtFrame s t) : TileFrame s t := by
  obtain ⟨_, _, _, rfl⟩ := h
  exact ⟨_, _, _, _, _, rfl⟩

/-- A fold of operations of one frame keeps the frame. -/
theorem TileFrame.foldl {α : Type} (f : State → α → State) (h : ∀ s a, TileFrame s (f s a)) (l : List α) (s : State) :
    TileFrame s (l.foldl f s) := by
  induction l generalizing s with
  | nil => exact .refl s
  | cons a r ih => exact (h s a).trans (ih (f s a))

theorem tileSet_frame (s : State) (t : Nat) (x : Tile) : TileFrame s (tileSet s t x) := ⟨_, _, _, _, _, rfl⟩

theorem partSet_frame (s : State) (p : Part) : TileFrame s (partSet s p) := ⟨_, _, _, _, _, rfl⟩

theorem partUpd_frame (s : State) (t : Nat) (f : Part → Part) : TileFrame s (partUpd s t f) := by
  unfold partUpd
  split
  · exact .refl s
  · exact partSet_frame s _

theorem tilesUpd_frame (s : State) (ts : List Nat) (f : Tile → Tile) : TileFrame s (tilesUpd s ts f) :=
  .foldl _ (fun s t => tileSet_frame s t _) ts s

theorem blockCommit_frame (s : State) (t status : Nat) : TileFrame s (blockCommit s t status) := partUpd_frame s t _

theorem noteDetail_frame (s : State) (t lo : Nat) : TileFrame s (noteDetail s t lo) := partUpd_frame s t _

theorem tileErr_frame (s : State) (t status source lo hi : Nat) : TileFrame s (tileErr s t status source lo hi) :=
  ((errLog_frame s _ _ _ _ _ _).tile.trans (noteDetail_frame _ _ _)).trans (blockCommit_frame _ _ _)

theorem tileSramUe_frame (s : State) (t source lo : Nat) : TileFrame s (tileSramUe s t source lo) :=
  (tileSet_frame s t _).trans (tileErr_frame _ _ _ _ _ _)

theorem tileResidue_frame (s : State) (t engine lane pc : Nat) : TileFrame s (tileResidue s t engine lane pc) :=
  ((tileSet_frame s t _).trans (tileErr_frame _ _ _ _ _ _)).trans (unitEvt_frame _ _ _).tile

theorem tileFlags_frame (s : State) (t : Nat) (es : List FlagEv) : TileFrame s (tileFlags s t es) := by
  unfold tileFlags
  dsimp only
  split
  · exact (tileSet_frame s t _).trans (unitEvt_frame _ _ _).tile
  · exact tileSet_frame s t _

theorem tileReadUe_frame (s : State) (t : Nat) (reader : SramWord → Option Nat) : TileFrame s (tileReadUe s t reader) :=
  .foldl _ (fun s w => by
    cases reader w with
    | none => exact .refl s
    | some k => exact tileSramUe_frame s t k _) _ s

theorem tileNote_frame (t : Nat) (s : State) (n : TileNote) : TileFrame s (tileNote t s n) := by
  cases n with
  | flag e => exact tileFlags_frame s t [e]
  | ue source addr => exact tileSramUe_frame s t source addr
  | residue engine lane pc => exact tileResidue_frame s t engine lane pc
  | fault status source pc => exact tileErr_frame s t status source pc 0

theorem tileNotes_frame (s : State) (t : Nat) (ns : List TileNote) : TileFrame s (tileNotes s t ns) :=
  .foldl _ (tileNote_frame t) ns s

theorem tileHw_frame (s : State) (t : Nat) (hw : HwErr) (engine pc : Nat) : TileFrame s (tileHw s t hw engine pc) :=
  (tileSet_frame s t _).trans (tileNotes_frame _ t _)

/-- Cycles of a tile, whatever its engines do in them (R153, R93, R100). -/
theorem tileLand_frame (s : State) (t n : Nat) : TileFrame s (tileLand s t n) :=
  (tileSet_frame s t _).trans (tileNotes_frame _ t _)

theorem tileUntil_frame (s : State) (t : Nat) (done : Tile → Bool) (n : Nat) : TileFrame s (tileUntil s t done n) :=
  (tileSet_frame s t _).trans (tileNotes_frame _ t _)

theorem tileSettle_frame (s : State) (t : Nat) : TileFrame s (tileSettle s t) := tileUntil_frame s t _ _

theorem takeLocal_frame (s : State) (t : Nat) (p : PathId) (c : PathCmd) : TileFrame s (takeLocal s t p c) := by
  unfold takeLocal
  dsimp only
  split
  · exact (tileSet_frame s t _).trans (tileNotes_frame _ t _)
  · exact tileSet_frame s t _

theorem fxApply_frame (s : State) (t source : Nat) (x : Tile) (evs : List FlagEv) (bad : List Nat) :
    TileFrame s (fxApply s t source x evs bad) :=
  ((tileSet_frame s t x).trans (tileFlags_frame _ t evs)).trans (.foldl _ (fun s w => tileSramUe_frame s t source (8 * w)) _ _)

/-! ### Registers -/

/-- A token adds to AT0 to AT30 and to nothing else of the machine. -/
theorem tokenAdd_frame (s : State) (t i n : Nat) : TileFrame s (tokenAdd s t i n) := by
  unfold tokenAdd
  split
  · exact .refl s
  · exact tileSet_frame s t _

/-- AT31 reflects READY: adding to it does nothing (R149). -/
theorem tokenAdd_31 (s : State) (t n : Nat) : tokenAdd s t 31 n = s := rfl

theorem xWrite_frame (s : State) (t i k : Nat) (v : W32) : TileFrame s (xWrite s t i k v) := by
  unfold xWrite
  split
  · exact tileSramUe_frame s t _ _
  · exact tileSet_frame s t _

/-- Outside SRAM errors a lane written reads as written, and its neighbours as before. -/
theorem xlane_xWrite (s : State) (t i k : Nat) (v : W32) (h : (tileAt s t).num.ue.contains (.xreg (3 * i + k / 2)) = false)
    (j m : Nat) : xlane (tileAt (xWrite s t i k v) t).regs j m =
      if j * 8 + m = i * 8 + k then v else xlane (tileAt s t).regs j m := by
  rw [xWrite, if_neg (by rw [h]; decide), tileAt_tileSet_self]
  simp only [xlane, mapGet, mapFind_mapSet]
  split <;> rfl

/-! ### Ring commands -/

@[simp] theorem endCmd_st (k : QCmd) (status result : Nat) : (endCmd k status result).st = .ended := rfl

/-- The first status of a command stays (R337). -/
theorem endCmd_first (k : QCmd) (status result v : Nat) (h : k.status = some v) : (endCmd k status result).status = some v := by
  simp [endCmd, h]

/-- Ending the command of a queue touches that queue alone, or nothing where it runs none. -/
theorem finishRes_cases (s : State) (c : CmdRef) (status result : Nat) :
    finishRes s c status result = s ∨
    ∃ q k, queueAt s c = some q ∧ q.cmd = some k ∧
      finishRes s c status result = queueSet s c { q with cmd := some (endCmd k status result) } := by
  unfold finishRes
  split
  · exact .inl rfl
  · rename_i q hq
    split
    · exact .inl rfl
    · rename_i k hk
      exact .inr ⟨q, k, hq, hk, rfl⟩

theorem finishJob_cases (s : State) (c : CmdRef) (j : Job) (status result detail : Nat) :
    finishJob s c j status result detail = s ∨
    ∃ q k, queueAt s c = some q ∧ q.cmd = some k ∧ k.job = j ∧
      finishJob s c j status result detail = queueSet s c { q with cmd := some { endCmd k status result with
        detail := if k.status.isSome then k.detail else detail } } := by
  unfold finishJob
  split
  · exact .inl rfl
  · rename_i q hq
    split
    · exact .inl rfl
    · rename_i k hk
      split
      · rename_i hj
        exact .inr ⟨q, k, hq, hk, hj, rfl⟩
      · exact .inl rfl

/-! ### Requests between units -/

/-- Only the requester's side of requests may differ. -/
def ReqFrame (s t : State) : Prop :=
  ∃ outst cpl, t = { s with un := { s.un with outst := outst, cpl := cpl } }

theorem ReqFrame.refl (s : State) : ReqFrame s s := ⟨_, _, rfl⟩

theorem ReqFrame.trans {s t u : State} (h : ReqFrame s t) (k : ReqFrame t u) : ReqFrame s u := by
  obtain ⟨_, _, rfl⟩ := h
  obtain ⟨_, _, rfl⟩ := k
  exact ⟨_, _, rfl⟩

theorem ReqFrame.foldl {α : Type} (f : State → α → State) (h : ∀ s a, ReqFrame s (f s a)) (l : List α) (s : State) :
    ReqFrame s (l.foldl f s) := by
  induction l generalizing s with
  | nil => exact .refl s
  | cons a r ih => exact (h s a).trans (ih (f s a))

theorem outUpd_frame (s : State) (page tag : Nat) (f : Outst → Outst) : ReqFrame s (outUpd s page tag f) := ⟨_, _, rfl⟩

theorem outEnd_frame (s : State) (page tag status : Nat) : ReqFrame s (outEnd s page tag status) := ⟨_, _, rfl⟩

theorem dropOutst_frame (s : State) (page : Nat) : ReqFrame s (dropOutst s page) := ⟨_, _, rfl⟩

theorem dropTxnOutst_frame (s : State) (tid page : Nat) : ReqFrame s (dropTxnOutst s tid page) :=
  .foldl (fun (s : State) (o : Outst) => outEnd s o.src o.tag stTxnAborted) (fun s o => outEnd_frame s o.src o.tag _) _ s

/-- The tag of a completed request is free and its status noted (R46). -/
theorem outFind_outEnd (s : State) (page tag status : Nat) : outFind (outEnd s page tag status) page tag = none := by
  simp only [outFind, outEnd, List.find?_filter, List.find?_eq_none]
  intro o _
  by_cases h : o.src = page <;> by_cases k : o.tag = tag <;> simp [h, k]

theorem cpl_outEnd (s : State) (page tag status : Nat) : mapFind (outEnd s page tag status).un.cpl (page + 4096 * tag) = some status := by
  simp [outEnd]

/-- A unit that enters RESETTING holds no tag of its own (R44). -/
theorem outst_dropOutst (s : State) (page : Nat) : ∀ o ∈ (dropOutst s page).un.outst, o.src ≠ page := by
  intro o h
  simpa using (List.mem_filter.mp h).2

/-- R41 in order: which units refuse a request, and with which status. -/
theorem txnRefusal_run (x : Unit) (inc : Half) (joined : Bool) (h : x.state = .run) :
    txnRefusal x inc joined = if inc ≠ x.inc then some stStale else none := by
  simp only [txnRefusal, h]

theorem txnRefusal_off (x : Unit) (inc : Half) (joined : Bool) (h : x.state = .off ∨ x.state = .retired) :
    txnRefusal x inc joined = some stDenied := by
  obtain h | h := h <;> simp only [txnRefusal, h]

/-! ### Transactions -/

@[simp] theorem txnFind_txnSet_self (s : State) (tid : Nat) (x : Txn) : mapFind (txnSet s tid x).un.txns tid = some x := by simp [txnSet]

/-- A transaction that does not exist or has ended is not aborted again (R52). -/
theorem txnAbort_ended (s : State) (tid cause : Nat) (h : (mapFind s.un.txns tid).all (fun x => !(txnLive x)) = true) :
    txnAbort s tid cause = s := by
  unfold txnAbort txnAbortGate
  split
  · rfl
  · rename_i x hx
    rw [hx] at h
    rw [if_pos (by simp at h; simp [h])]

/-- The TID of an OPEN is one of 1,024 and free (R50). -/
theorem tidFrom_free (txns : Map Txn) (n k tid : Nat) (h : tidFrom txns n k = some tid) : tid < 1024 ∧ mapFind txns tid = none := by
  induction n generalizing k with
  | zero => simp [tidFrom] at h
  | succ m ih =>
    rw [tidFrom] at h
    split at h
    · exact ih _ h
    · rename_i hk
      cases h
      exact ⟨Nat.mod_lt _ (by decide), by simpa using hk⟩

end Sys2Proof.Machine
end

