-- ==== Sys2Proof/Laws/Memory.lean ====
section
/-! SUPPORT. The two byte memories of State, device memory and the command windows, keep their canonical form through every memory
operation: one lemma per operation, and the reset state has it. -/
namespace Sys2Proof.Machine
open Sys2Proof

/-- Canonical byte memories stay canonical. -/
def MemKept (s t : State) : Prop :=
  (Memory.wf s.mm.bytes = true → Memory.wf t.mm.bytes = true) ∧ (Memory.wf s.rg.win = true → Memory.wf t.rg.win = true)

theorem MemKept.refl (s : State) : MemKept s s := ⟨id, id⟩

theorem MemKept.trans {s t u : State} (h : MemKept s t) (k : MemKept t u) : MemKept s u :=
  ⟨fun x => k.1 (h.1 x), fun x => k.2 (h.2 x)⟩

/-- An operation that touches neither memory keeps both. -/
theorem MemKept.of_eq {s t : State} (h : t.mm.bytes = s.mm.bytes) (k : t.rg.win = s.rg.win) : MemKept s t :=
  ⟨fun x => by rw [h]; exact x, fun x => by rw [k]; exact x⟩

theorem MemKept.foldl {α : Type} (f : State → α → State) (h : ∀ s a, MemKept s (f s a)) (l : List α) (s : State) :
    MemKept s (l.foldl f s) := by
  induction l generalizing s with
  | nil => exact .refl s
  | cons a r ih => exact (h s a).trans (ih (f s a))

theorem MemKept.ite {c : Prop} [Decidable c] {s t u : State} (h : MemKept s t) (k : MemKept s u) : MemKept s (if c then t else u) := by
  split
  · exact h
  · exact k

/-- The state of an answer that is named otherwise. -/
theorem MemKept.fst {β : Type} {s : State} {p r : State × β} (h : MemKept s p.1) (e : r = p) : MemKept s r.1 := by
  rw [e]
  exact h

theorem MemKept.iteFst {β : Type} {c : Prop} [Decidable c] {s : State} {p q : State × β} (h : MemKept s p.1) (k : MemKept s q.1) :
    MemKept s (if c then p else q).1 := by
  split
  · exact h
  · exact k

theorem EvtFrame.mem {s t : State} (h : EvtFrame s t) : MemKept s t := by
  obtain ⟨_, _, _, rfl⟩ := h
  exact .refl s

theorem TileFrame.mem {s t : State} (h : TileFrame s t) : MemKept s t := by
  obtain ⟨_, _, _, _, _, rfl⟩ := h
  exact .refl s

theorem ReqFrame.mem {s t : State} (h : ReqFrame s t) : MemKept s t := by
  obtain ⟨_, _, rfl⟩ := h
  exact .refl s

/-- Right after reset both memories are canonical: they list nothing. -/
theorem reset_mem : Memory.wf State.reset.mm.bytes = true ∧ Memory.wf State.reset.rg.win = true := ⟨rfl, rfl⟩

/-! ### Rings and events -/

theorem winWrite_mem (s : State) (c off : Nat) (bs : List Byte) : MemKept s (winWrite s c off bs) :=
  ⟨id, Memory_wf_writeBytes _ _ bs⟩

theorem ringPut_mem (s : State) (c : Nat) (r : Ring) (v : Nat) : MemKept s (ringPut s c r v).1 := winWrite_mem s c _ _

theorem ringDrain_mem (n : Nat) (s : State) (c claimed : Nat) (r : Ring) : MemKept s (ringDrain n s c claimed r).1 := by
  induction n generalizing s r with
  | zero => exact .refl s
  | succ k ih =>
    rw [ringDrain]
    split
    · exact .refl s
    · split
      · exact .refl s
      · exact (ringPut_mem s c _ _).trans (ih _ _)

theorem ringPost_mem (s : State) (c claimed : Nat) (r : Ring) (e : Event) : MemKept s (ringPost s c claimed r e).1 :=
  ringDrain_mem _ s c claimed _

theorem msiIf_mem (s : State) (r : Ring) (f : Nat) (wrote : Bool) : MemKept s (msiIf s r f wrote) := .ite (.of_eq rfl rfl) (.refl s)

theorem postAdmin_mem (s : State) (port : Nat) (e : Event) : MemKept s (postAdmin s port e) := by
  unfold postAdmin
  dsimp only
  split
  · exact .refl s
  · refine MemKept.trans ?_ (msiIf_mem _ _ _ _)
    exact (ringPost_mem s _ _ _ e).trans (.of_eq rfl rfl)

theorem postCtx_mem (s : State) (c : Nat) (e : Event) : MemKept s (postCtx s c e) := by
  unfold postCtx
  dsimp only
  split
  · exact .refl s
  · refine MemKept.trans ?_ (msiIf_mem _ _ _ _)
    exact (ringPost_mem s _ _ _ e).trans (.of_eq rfl rfl)

theorem postNamed_mem (s : State) (c : Nat) (e : Event) : MemKept s (postNamed s c e) := (postAdmin_mem s _ e).trans (postCtx_mem _ c e)

theorem postDevice_mem (s : State) (e : Event) : MemKept s (postDevice s e) := by
  unfold postDevice
  dsimp only
  split
  · exact (postAdmin_mem s 0 e).trans (postAdmin_mem _ 1 e)
  · exact postAdmin_mem s 0 e

theorem finishJob_mem (s : State) (c : CmdRef) (j : Job) (status result detail : Nat) : MemKept s (finishJob s c j status result detail) := by
  obtain h | ⟨q, k, _, _, _, h⟩ := finishJob_cases s c j status result detail <;> rw [h]
  · exact .refl s
  · exact .of_eq rfl rfl

/-! ### Alarms, counts and pseudo-channels -/

theorem secAlarm_mem (s : State) (lk kslot : Nat) (ctx : Option Nat) (corrected partial' md quiet : Bool) :
    MemKept s (secAlarm s lk kslot ctx corrected partial' md quiet) := by
  unfold secAlarm
  extract_lets fk ln m m1 pend m2 s1 pl e
  have h1 : m1.bytes = s.mm.bytes := by
    simp only [m1]
    split <;> rfl
  have h : MemKept s s1 := MemKept.trans (t := { s with mm := m2 }) (.of_eq h1 rfl) (unitEvt_frame _ _ _).mem
  split
  · exact h
  · refine h.trans ?_
    split
    · exact (postAdmin_mem _ _ _).trans (postCtx_mem _ _ _)
    · exact postAdmin_mem _ _ _

theorem lineUncorr_mem (s : State) (lk : Nat) : MemKept s (lineUncorr s lk) := by
  unfold lineUncorr
  extract_lets fk addr f ctx m x
  split
  · exact (errLog_frame _ _ _ _ _ _ _).mem
  · refine MemKept.trans ?_ (unitEvt_frame _ _ _).mem
    refine MemKept.trans ?_ (errLog_frame _ _ _ _ _ _ _).mem
    exact .of_eq rfl rfl

theorem postReserveLow_mem (s : State) (tier cause : Nat) : MemKept s (postReserveLow s tier cause) := postDevice_mem s _

theorem checkReserve_mem (old s : State) (tier : Nat) : MemKept s (checkReserve old s tier) :=
  .ite (postReserveLow_mem s tier 0) (.refl s)

theorem postPc_mem (s : State) (k st : Nat) : MemKept s (postPc s k st) := (postDevice_mem s _).trans (unitEvt_frame _ _ _).mem

theorem mcRetired_mem (s : State) (m : Nat) : MemKept s (mcRetired s m) := .ite (setUState_frame s _ _).mem (.refl s)

theorem frameFree_mem (s : State) (fk : Nat) : MemKept s (frameFree s fk) := .of_eq rfl rfl

theorem frameLost_mem (s : State) (fk : Nat) (f : Frame) : MemKept s (frameLost s fk f) := by
  unfold frameLost
  split
  · exact (frameFree_mem s fk).trans (finishJob_mem _ _ _ _ _ _)
  · split
    · exact frameFree_mem s fk
    · dsimp only
      split
      · refine MemKept.trans ?_ (postNamed_mem _ _ _)
        exact .of_eq rfl rfl
      · refine MemKept.trans ?_ (postDevice_mem _ _)
        exact .of_eq rfl rfl

theorem pcRetire_mem (s : State) (k : Nat) : MemKept s (pcRetire s k) := by
  unfold pcRetire
  dsimp only
  refine MemKept.trans ?_ (mcRetired_mem _ _)
  refine MemKept.trans ?_ (.foldl _ ?_ _ _)
  · refine MemKept.trans ?_ (postPc_mem _ k 3)
    exact .of_eq rfl rfl
  intro s e
  split
  · exact frameFree_mem s _
  · split
    · exact .refl s
    · exact frameLost_mem s _ _

theorem migNext_mem (s : State) (k : Nat) : MemKept s (migNext s k) := by
  unfold migNext
  dsimp only
  split
  · exact .refl s
  · split
    · exact pcRetire_mem s k
    · split
      · exact .refl s
      · split
        · exact postReserveLow_mem s _ _
        · split
          · exact postReserveLow_mem s _ _
          · exact .of_eq rfl rfl

theorem pcEvacuate_mem (s : State) (k : Nat) : MemKept s (pcEvacuate s k) := by
  unfold pcEvacuate
  split
  · exact .refl s
  · dsimp only
    refine MemKept.trans ?_ (migNext_mem _ k)
    refine MemKept.trans ?_ (checkReserve_mem _ _ 1)
    refine MemKept.trans ?_ (checkReserve_mem _ _ 0)
    refine MemKept.trans ?_ (.foldl _ ?_ _ _)
    · refine MemKept.trans ?_ (postPc_mem _ k 2)
      exact .of_eq rfl rfl
    intro s e
    exact .ite (frameFree_mem s _) (.refl s)

theorem pcDegrade_mem (s : State) (k : Nat) : MemKept s (pcDegrade s k) := by
  unfold pcDegrade
  split
  · refine MemKept.trans ?_ (postPc_mem _ k 1)
    exact .of_eq rfl rfl
  · exact .refl s

theorem laneCount_mem (s : State) (k lane syms : Nat) : MemKept s (laneCount s k lane syms) := by
  unfold laneCount
  extract_lets x m thr l l1 mark l2 s1 s2
  have h1 : MemKept s s1 := .of_eq rfl rfl
  have h2 : MemKept s s2 := (h1.trans (.of_eq rfl rfl : MemKept s1 (mcSet s1 (k / 128) _))).trans (unitEvt_frame _ _ _).mem
  split
  · exact h1
  · split
    · exact h2.trans (pcEvacuate_mem s2 k)
    · split
      · exact h2.trans (pcDegrade_mem s2 k)
      · exact h2

theorem remapStart_mem (s : State) (k row : Nat) : MemKept s (remapStart s k row) := by
  unfold remapStart
  dsimp only
  split
  · exact .refl s
  · exact .ite (pcDegrade_mem s k) (.of_eq rfl rfl)

theorem lineRepair_mem (s : State) (lk : Nat) (e : LineEv) : MemKept s (lineRepair s lk e) := by
  unfold lineRepair
  extract_lets fk m x s1 s2 thr
  have h1 : MemKept s s1 := .of_eq rfl rfl
  have h2 : MemKept s s2 := by
    simp only [s2]
    split
    · exact h1.trans (laneCount_mem s1 _ _ _)
    · exact h1
  split
  · exact .refl s
  · split
    · exact h2.trans (remapStart_mem _ _ _)
    · exact h2

/-! ### Lines -/

theorem lineSet_mem (s : State) (lk : Nat) (x : LineSt) : MemKept s (lineSet s lk x) := .of_eq rfl rfl

theorem farFail_mem (s : State) (blk cause : Nat) : MemKept s (farFail s blk cause) := by
  unfold farFail
  split
  · exact .refl s
  · rename_i b _
    extract_lets _ s1 owners e
    have h1 : MemKept s s1 :=
      MemKept.trans (t := { s with mm := { s.mm with far := mapSet s.mm.far blk { b with fail := some cause } } }) (.of_eq rfl rfl)
        (unitEvt_frame _ _ _).mem
    split
    · exact .refl s
    · exact h1.trans ((postAdmin_mem _ _ _).trans (.foldl _ (fun s c => postCtx_mem s c _) _ _))

/-- Decoding, verifying and decrypting a line writes no byte of memory by itself; what it records keeps the memories (R293). -/
theorem lineFetch_mem (s : State) (lk : Nat) (b : Bind) (ctx : Option Nat) (partial' : Bool) (e : LineEv) :
    MemKept s (lineFetch s lk b ctx partial' e).1 := by
  unfold lineFetch
  extract_lets fk x s1 corrected
  have h1 : MemKept s s1 := (lineSet_mem s lk _).trans (lineUncorr_mem _ lk)
  split
  · exact .refl s
  · split
    · exact (secAlarm_mem s _ _ _ _ _ _ _).trans (farFail_mem _ _ _)
    · split
      · exact farFail_mem s _ _
      · split
        · dsimp only
          split
          · exact h1.trans (pcRetire_mem _ _)
          · exact h1
        · split
          · dsimp only
            refine MemKept.trans ?_ (secAlarm_mem _ _ _ _ _ _ _ _)
            split
            · exact lineSet_mem s lk _
            · exact .refl s
          · dsimp only
            split
            · exact lineRepair_mem s lk e
            · exact .refl s

theorem farDirty_mem (s : State) (fk lk : Nat) : MemKept s (farDirty s fk lk) := by
  unfold farDirty
  dsimp only
  split
  · exact .refl s
  · exact .ite (.refl s) (.of_eq rfl rfl)

theorem keyExhaust_mem (s : State) (b : Bind) : MemKept s (keyExhaust s b) := by
  unfold keyExhaust
  refine MemKept.trans ?_ (unitEvt_frame _ _ _).mem
  refine MemKept.trans ?_ (postNamed_mem _ _ _)
  exact .of_eq rfl rfl

theorem pageReencrypt_mem (s : State) (lk : Nat) : MemKept s (pageReencrypt s lk) := by
  unfold pageReencrypt
  extract_lets page maj _ s1
  have h1 : MemKept s s1 := .of_eq rfl rfl
  exact h1.trans (.foldl _ (fun s i => .ite (lineSet_mem s _ _) (.refl s)) _ _)

theorem farBump_mem (s : State) (lk : Nat) (b : Bind) : MemKept s (farBump s lk b).1 := by
  unfold farBump
  extract_lets mn _
  split
  · dsimp only
    refine MemKept.trans ?_ (farDirty_mem _ _ _)
    exact .of_eq rfl rfl
  · split
    · dsimp only
      refine MemKept.trans ?_ (keyExhaust_mem _ b)
      exact .of_eq rfl rfl
    · dsimp only
      exact (pageReencrypt_mem s lk).trans (farDirty_mem _ _ _)

theorem cacheDrop_mem (s : State) (lk : Nat) : MemKept s (cacheDrop s lk) := .of_eq rfl rfl

theorem cacheDropFrames_mem (s : State) (fs : Nat → Bool) : MemKept s (cacheDropFrames s fs) := .of_eq rfl rfl

theorem lineWritten_mem (s : State) (lk : Nat) (b : Bind) : MemKept s (lineWritten s lk b) := lineSet_mem s lk _

/-- Bytes written one by one keep the canonical form. -/
theorem Memory_wf_byteSets (bs : List (Nat × Byte)) (f : Nat → Nat) (m : Bytes) (h : Memory.wf m = true) :
    Memory.wf (bs.foldl (fun m p => byteSet m (f p.1) p.2) m) = true := by
  induction bs generalizing m with
  | nil => exact h
  | cons p r ih => exact ih _ (Memory_wf_byteSet m _ _ h)

theorem lineReady_mem (s : State) (lk : Nat) (b : Bind) (bs : List (Nat × Byte)) (e : LineEv) (rmw : Bool) :
    MemKept s (lineReady s lk b bs e rmw).1 := .iteFst (.refl s) (lineFetch_mem s lk b (some b.ctx) true e)

theorem lineCounted_mem (s : State) (lk : Nat) (b : Bind) : MemKept s (lineCounted s lk b).1 := .iteFst (farBump_mem s lk b) (.refl s)

theorem lineBytes_mem (s : State) (lk : Nat) (bs : List (Nat × Byte)) : MemKept s (lineBytes s lk bs) :=
  ⟨Memory_wf_byteSets bs (fun k => (lk / 2 ^ 36) * 2 ^ 42 + (lk % 2 ^ 36) * 64 + k) _, id⟩

/-- The last of three stages answers, or the first that fails. -/
theorem MemKept.stages {s : State} {r c : State × Nat} {w : State} (hr : MemKept s r.1) (hc : MemKept s c.1) (hw : MemKept s w) :
    MemKept s (if r.2 ≠ stOk then r else if c.2 ≠ stOk then c else (w, stOk)).1 :=
  .iteFst hr (.iteFst hc hw)

/-- A line write (R295, R298, R299). -/
theorem lineWrite_mem (s : State) (lk : Nat) (b : Bind) (bs : List (Nat × Byte)) (e : LineEv) (rmw : Bool) :
    MemKept s (lineWrite s lk b bs e rmw).1 := by
  have hr := lineReady_mem s lk b bs e rmw
  have hc := hr.trans (lineCounted_mem (lineReady s lk b bs e rmw).1 lk b)
  have hw := ((hc.trans (lineBytes_mem _ lk bs)).trans (cacheDrop_mem _ lk)).trans (lineWritten_mem _ lk b)
  unfold lineWrite
  split
  · exact .refl s
  · split
    · exact .of_eq rfl rfl
    · exact .stages hr hc hw

/-! ### Accesses by a context -/

theorem reqNote_mem (s : State) (src : Option Nat) (fk : Nat) (e : LineEv) : MemKept s (reqNote s src fk e) := by
  unfold reqNote
  split
  · exact .refl s
  · extract_lets u k inc _ s1
    have h1 : MemKept s s1 := .ite (.refl s) (.of_eq rfl rfl)
    split
    · exact .refl s
    · split
      · exact h1
      · split
        · exact h1.trans (errLog_frame _ _ _ _ _ _ _).mem
        · exact h1

theorem ctxReadLine_mem (s : State) (src : Option Nat) (ctx a n : Nat) (ev : List LineEv) : MemKept s (ctxReadLine s src ctx a n ev).1 := by
  unfold ctxReadLine
  split
  · exact .refl s
  · extract_lets k lk s1 r
    have h1 : MemKept s s1 := reqNote_mem s src _ _
    have hr : MemKept s1 r.1 := .fst (lineFetch_mem s1 _ _ _ _ _) rfl
    clear_value r s1
    obtain ⟨s2, st⟩ := r
    have h2 : MemKept s s2 := h1.trans hr
    split
    · exact h1
    · split
      · exact h2
      · exact h2

theorem ctxWriteLine_mem (s : State) (src : Option Nat) (ctx : Nat) (bs : List (Nat × Byte)) (ev : List LineEv) (rmw : Bool) :
    MemKept s (ctxWriteLine s src ctx bs ev rmw).1 := by
  unfold ctxWriteLine
  split
  · exact .refl s
  · split
    · exact .refl s
    · extract_lets k lk e s1 put
      have h1 : MemKept s s1 := reqNote_mem s src _ _
      have hp : MemKept s1 put.1 := .fst (lineWrite_mem s1 _ _ _ _ _) rfl
      clear_value put s1
      obtain ⟨s2, st⟩ := put
      have h2 : MemKept s s2 := h1.trans hp
      split
      · exact .ite h2 h1
      · exact h2

/-- A fold over an answer keeps the memories when each of its steps does. -/
theorem MemRes_foldl_mem {α : Type} (f : MemRes → α → MemRes) (h : ∀ r a, MemKept r.s (f r a).s) (l : List α) (r : MemRes) :
    MemKept r.s (l.foldl f r).s := by
  induction l generalizing r with
  | nil => exact .refl r.s
  | cons a l ih => exact (h r a).trans (ih (f r a))

/-- Reading a span of a context's addresses (R261, R293). -/
theorem ctxRead_mem (s : State) (src : Option Nat) (ctx a n : Nat) (ev : List LineEv) : MemKept s (ctxRead s src ctx a n ev).s :=
  MemRes_foldl_mem _ (fun r p => ctxReadLine_mem r.s src ctx p.1 p.2 ev) _ { s := s, status := stOk, data := [] }

/-- Writing bytes at a context's addresses (R295). -/
theorem ctxWrite_mem (s : State) (src : Option Nat) (ctx : Nat) (bs : List (Nat × Byte)) (ev : List LineEv) (rmw : Bool) :
    MemKept s (ctxWrite s src ctx bs ev rmw).s :=
  MemRes_foldl_mem _ (fun r g => ctxWriteLine_mem r.s src ctx g ev rmw) _ { s := s, status := stOk, data := [] }

theorem ctxWriteAt_mem (s : State) (src : Option Nat) (ctx a : Nat) (bs : List Byte) (ev : List LineEv) :
    MemKept s (ctxWriteAt s src ctx a bs ev).s := ctxWrite_mem s src ctx _ ev false

/-! ### Frames -/

/-- Frame initialisation (R294). -/
theorem frameInit_mem (s : State) (fk : Nat) (b : Bind) : MemKept s (frameInit s fk b) := by
  unfold frameInit
  extract_lets s0 _ s1 _ s2
  have h2 : MemKept s s2 := ⟨Memory_wf_clearBytes _ _ _, id⟩
  exact .ite (h2.trans (.foldl _ (fun s i => farBump_mem s _ b) _ _)) h2

theorem frameScrub_mem (s : State) (fk : Nat) : MemKept s (frameScrub s fk) := ⟨Memory_wf_clearBytes _ _ _, id⟩

theorem farInit_mem (s : State) (blk : Nat) (base : W64) : MemKept s (farInit s blk base) := ⟨Memory_wf_clearBytes _ _ _, id⟩

theorem relMoved_mem (s : State) (f : Frame) (src dst : Nat) : MemKept s (relMoved s f src dst) := by
  unfold relMoved
  split
  · exact .refl s
  · split
    · exact .refl s
    · exact .of_eq rfl rfl

/-- A frame's contents move to the target of its migration (R276). -/
theorem migMove_mem (s : State) (src dst : Nat) : MemKept s (migMove s src dst) := by
  unfold migMove
  extract_lets s0 f bs b0 b1 _ s1 s2 _ rd
  have h1 : MemKept s s1 := ⟨fun h => Memory_wf_clearBytes _ _ _ (Memory_wf_byteSets _ (fun k => k - byteKey src 0 + byteKey dst 0) _
    (Memory_wf_clearBytes _ _ _ h)), id⟩
  have h2 : MemKept s s2 := h1.trans (relMoved_mem _ f src dst)
  split
  · exact h2.trans (.of_eq rfl rfl)
  · exact h2.trans (.of_eq rfl rfl)

end Sys2Proof.Machine
end

