-- ==== Sys2Proof/Machine/LineCode.lean ====
section
/-! DEFINITION. The stored form of a memory line: its engine blocks, its keys, its ciphertext, its integrity tag and its code word, and
the metadata lines of the far tier (spec 11, R269; spec 12, R286, R289 to R292, R296, R297). -/
namespace Sys2Proof.Machine
open Sys2Proof

/-! ### Engine blocks (Table 12-4) -/

/-- Address block T. -/
def blockT (line tier : Nat) : Nat := line + tier <<< 36
/-- GHASH block A. -/
def blockA (line tier : Nat) (b : Bind) : Nat := blockT line tier + b.kgen <<< 40 + b.kslot <<< 72 + b.ctx <<< 80
/-- Counter block CB_j of a far line. -/
def blockCB (line j major minor : Nat) : Nat := blockT line 2 + j <<< 38 + major <<< 40 + minor <<< 96
/-- Mask block J; both counters are 0 on the package. -/
def blockJ (line tier major minor : Nat) : Nat := blockT line tier + major <<< 40 + minor <<< 96

/-! ### Keys (R286) -/

inductive MemKey where
  | data | tweak | tag
  deriving DecidableEq, Repr

/-- The labels "UR-MEM-DATA", "UR-MEM-TWK" and "UR-MEM-TAG" of the derivations. -/
def memLabel : MemKey → List Byte
  | .data => ascii "UR-MEM-DATA"
  | .tweak => ascii "UR-MEM-TWK"
  | .tag => ascii "UR-MEM-TAG"

def memKey (root : List Byte) (b : Bind) (k : MemKey) : List Byte :=
  kdf108 root (memLabel k) (leBytes 1 b.kslot ++ leBytes 2 b.ctx ++ leBytes 4 b.kgen) 256

/-- The slot key of a binding, while the slot still holds it: KSLOT 0 to 7 are the context's, 8 + r that of device range r (R289). -/
def bindRoot (s : State) (b : Bind) : Option (List Byte) :=
  let sl := slotAt s (if b.kslot < 8 then tenantSlot b.ctx b.kslot else deviceSlot (b.kslot - 8))
  if sl.ktype ≠ 0 && sl.kgen.toNat = b.kgen then some sl.key else none

/-! ### Cipher, tag and code word -/

/-- R290, R291: ciphertext of a line. -/
def lineCipher (root : List Byte) (b : Bind) (lk major minor : Nat) (pt : List Byte) : List Byte :=
  let kd := memKey root b .data
  let line := lk % 2 ^ 36
  if lk / 2 ^ 36 = 2 then
    xorBytes pt ((List.range 4).flatMap (fun j => aes256 kd (leBytes 16 (blockCB line j major minor))))
  else xtsEnc kd (memKey root b .tweak) (leBytes 16 (blockT line (lk / 2 ^ 36))) pt

/-- R292: bytes 0 to 5 of GHASH over A and the ciphertext, masked by AES of J, both under K_TAG. -/
def tagOver (kt a j ct : List Byte) : List Byte :=
  let h := beVal (aes256 kt (List.replicate 16 0))
  (xorBytes (beBytes 16 (ghash h a ct)) (aes256 kt j)).take 6

def lineTag (root : List Byte) (b : Bind) (lk major minor : Nat) (ct : List Byte) : List Byte :=
  let line := lk % 2 ^ 36
  tagOver (memKey root b .tag) (leBytes 16 (blockA line (lk / 2 ^ 36) b))
    (leBytes 16 (blockJ line (lk / 2 ^ 36) major minor)) ct

/-- R269: data ciphertext in symbols 0 to 63, the tag in 64 to 69, check symbols in 70 to 79. -/
def codeWord (ct tag : List Byte) : List Byte := ct ++ tag ++ rsCheck (ct ++ tag)

/-- The counters of a line: those of its page and of the line on the far tier, else 0. -/
def lineCounters (s : State) (lk : Nat) : Nat × Nat :=
  if lk / 2 ^ 36 = 2 then (mapGet 0 s.mm.majors (lk / 64), mapGet 0 s.mm.minors lk) else (0, 0)

/-- The 80 symbols of a line as they were written; a tag-failed copy holds the encryption of zero under the complement of its tag (R300).
None where its key is gone, or where a fault of the memory has changed them. -/
def lineSymbols (s : State) (lk : Nat) : Option (List Byte) :=
  let x := lineAt s lk
  if x.uncorr || (x.tagBad && !x.copied) then none
  else match lineBind s lk with
    | none => none
    | some b => (bindRoot s b).map (fun root =>
        let c := lineCounters s lk
        let pt := if x.copied then List.replicate 64 0
          else readBytes s.mm.bytes (byteKey (lineFrame lk) ((lk % 1024) * 64)) 64
        let ct := lineCipher root b lk c.1 c.2 pt
        let tg := lineTag root b lk c.1 c.2 ct
        codeWord ct (if x.copied then tg.map (fun y => ~~~ y) else tg))

/-! ### Far-tier metadata (R296, R297, Tables 12-6 and 12-7) -/

/-- Contents of a metadata line: a counter block, or a node with the counters of its eight children. -/
def mdContents (s : State) (blk level idx : Nat) : List Byte :=
  match mapFind s.mm.far blk with
  | none => []
  | some b =>
    if level = 0 then
      let page := blk * 204800 + idx
      leBytes 64 ((List.range 64).foldl (fun n i => n + mapGet 0 s.mm.minors (page * 64 + i) <<< (7 * i + 56))
        (mapGet 0 s.mm.majors page))
    else leBytes 64 ((List.range 8).foldl (fun n k => n + mapGet 0 b.nodes (mdKey (level - 1) (8 * idx + k)) <<< (56 * k)) 0)

/-- Number of a metadata line in its area: counter blocks first, then the levels upwards (log entry 139). -/
def mdIndex (level idx : Nat) : Nat := ((List.range level).map mdLines).sum + idx

/-- LINE of a metadata line: bits 41 to 6 of its window offset (R288). -/
def mdLine (blk level idx : Nat) : Nat := (blk * 2 ^ 30 + 0x3E800000 + 64 * mdIndex level idx) / 64

/-- The 80 symbols of a metadata line: XTS under the key of DR4, its tag masked with the counter that its parent holds for it. A block's
own generation derives its sub-key after a rebuild (R301; log entry 139). -/
def mdSymbols (s : State) (blk level idx : Nat) : Option (List Byte) :=
  match mapFind s.mm.far blk with
  | none => none
  | some f =>
    let sl := slotAt s (deviceSlot 4)
    if sl.ktype = 0 then none
    else
      let b : Bind := { kslot := 12, ctx := 0, kgen := (sl.kgen.toNat + f.kgen) % 2 ^ 32 }
      let line := mdLine blk level idx
      let ct := xtsEnc (memKey sl.key b .data) (memKey sl.key b .tweak) (leBytes 16 (blockT line 2)) (mdContents s blk level idx)
      some (codeWord ct (tagOver (memKey sl.key b .tag) (leBytes 16 (blockA line 2 b))
        (leBytes 16 (blockJ line 2 (mapGet 0 f.nodes (mdKey level idx)) 0)) ct))

end Sys2Proof.Machine
end

