-- ==== Sys2Proof/Machine/Strokes.lean ====
section
/-! DEFINITION. What the 512 bits of a stroke spell: the commands that its slots give to a tile (spec 06, R137, R139 to R146, Tables 6-1, 6-4
to 6-9; spec 07, Table 7-1). -/
namespace Sys2Proof.Machine
open Sys2Proof

/-- The commands of a slot, each still to be told whether the stroke holds more; none for a reserved value. -/
abbrev SlotCmds := Option (List (Bool → Instr))

/-- SOP (Table 6-5). -/
def sopCommand (t v : Nat) : SlotCmds :=
  let d := bitsOf v 37 32
  let a := bitsOf v 43 38
  let b := bitsOf v 49 44
  let i := BitVec.ofNat 14 (bitsOf v 63 50)
  match bitsOf v 31 26 with
  | 0x00 => some []
  | 0x01 => some [.addi t d a i]
  | 0x02 => some [.scalarAdd t d a b]
  | 0x03 => some [.scalarSub t d a b]
  | 0x04 => some [.scalarMul t d a b]
  | 0x05 => some [.sAnd t d a b]
  | 0x06 => some [.sOr t d a b]
  | 0x07 => some [.sXor t d a b]
  | 0x08 => some [.shli t d a i]
  | 0x09 => some [.shri t d a i]
  | 0x0A => some [.srai t d a i]
  | 0x0B => some [.scalarMin t d a b]
  | 0x0C => some [.scalarMax t d a b]
  | 0x0D => some [.li t d (a % 8) i]
  | 0x0E => some [.sel t d a b]
  | 0x10 => some [.sld t d a i {}]
  | 0x11 => some [.sst t a b i {}]
  | 0x18 => some [.xset t (d % 16) (b % 8) a]
  | 0x19 => some [.xaddi t (d % 16) (b % 8) i]
  | 0x1A => some [.xadd t (d % 16) (b % 8) a]
  | 0x1B => some [.xcopy t (d % 16) (a % 16)]
  | 0x1C => some [.xget t d (a % 16) (b % 8)]
  | _ => none

/-- FLOW but HALT (Table 6-4): it comes last among a stroke's commands. -/
def flowCommand (t v : Nat) : Option (List Instr) :=
  match bitsOf v 2 0 with
  | 0 | 5 => some []
  | 1 => some [.lstart t (bitsOf v 14 3) (bitsOf v 25 15)]
  | 2 => some [.lstartS t (bitsOf v 8 3) (bitsOf v 25 15)]
  | 3 => some [.call t (bitsOf v 24 3)]
  | 4 => some [.ret t]
  | _ => none

/-- A stream-command slot (Table 6-6): 0 LDA, 1 LDB, 2 XF. -/
def streamCommand (t slot v : Nat) : SlotCmds :=
  let f : MoveOp := {
    unit := bitsOf v 5 3, tdS := bitsOf v 10 6, xS := bitsOf v 14 11, tdD := bitsOf v 19 15, xD := bitsOf v 23 20,
    xW := bitsOf v 27 24, rmode := bitsOf v 30 28, sat := bitOf v 31, use := bitsOf v 39 32, headroom := bitsOf v 40 40 }
  match bitsOf v 2 0 with
  | 0 => some []
  | 1 => some [.move t f]
  | 2 => some [.prefetch t f]
  | 3 => if slot = 0 then some [.tdload t (bitsOf v 7 3) (bitsOf v 13 8) (bitsOf v 27 14) {}] else none
  | 4 => some [.tdbase t (bitsOf v 7 3) (bitsOf v 13 8) (bitOf v 14)]
  | 5 =>
    if slot = 1 then
      some [.wload t { bank := bitsOf v 3 3, sw := bitOf v 4, split := bitsOf v 6 5, td := bitsOf v 11 7, x := bitsOf v 15 12 }]
    else none
  | _ => none

/-- MX (Table 6-7). -/
def mxCommand (t v : Nat) : SlotCmds :=
  match bitsOf v 1 0 with
  | 0 => some []
  | 1 =>
    let f : StreamOp := {
      sw := bitOf v 2, bank := bitsOf v 3 3, splitA := bitsOf v 5 4, acc64 := bitOf v 6, opset := bitOf v 7,
      accRow := bitsOf v 16 8, rows := bitsOf v 25 17 + 1, td := bitsOf v 30 26, x := bitsOf v 34 31, batch := bitOf v 35 }
    some [.stream t f]
  | 2 =>
    let f : DrainOp := {
      sw := bitOf v 2, acc64 := bitOf v 3, accRow := bitsOf v 12 4, rows := bitsOf v 21 13 + 1, scale := bitsOf v 23 22,
      scaleSrc := bitsOf v 29 24, td := bitsOf v 34 30, x := bitsOf v 38 35, rmode := bitsOf v 41 39, sat := bitOf v 42,
      use := bitsOf v 50 43, headroom := bitsOf v 51 51, add := bitsOf v 53 52, tdR := bitsOf v 58 54, xR := bitsOf v 62 59,
      clr := bitOf v 63, batch := bitOf v 64, bret := bitOf v 65, aint := bitOf v 66 }
    some [.drain t f]
  | _ => none

/-- A VX slot (Table 6-8) with the operation codes of Table 7-1. -/
def vxCommand (t pipe v : Nat) : SlotCmds :=
  let f : VxOp := {
    pipe := pipe, tdD := bitsOf v 12 8, xD := bitsOf v 16 13, tdA := bitsOf v 21 17, xA := bitsOf v 25 22, tdB := bitsOf v 30 26,
    xB := bitsOf v 34 31, rmode := bitsOf v 37 35, sat := bitOf v 38, use := bitsOf v 46 39, sreg := bitsOf v 52 47,
    opx := bitsOf v 63 53 }
  match bitsOf v 7 0 with
  | 0x00 => some []
  | 0x01 => some [.vcopy t f]
  | 0x02 => some [.fills t f]
  | 0x03 => some [.iadd t f]
  | 0x04 => some [.iand t f]
  | 0x05 => some [.ior t f]
  | 0x06 => some [.ixor t f]
  | 0x07 => some [.cmplt t f]
  | 0x08 => some [.cmpeq t f]
  | 0x09 => some [.select t f]
  | 0x20 => some [.vadd t f]
  | 0x21 => some [.vsub t f]
  | 0x22 => some [.vmul t f]
  | 0x23 => some [.fma t f]
  | 0x24 => some [.axpby t f]
  | 0x25 => some [.axpby2 t f]
  | 0x26 => some [.vmin t f]
  | 0x27 => some [.vmax t f]
  | 0x28 => some [.scale t f]
  | 0x29 => some [.add64 t f]
  | 0x40 => some [.cvt t f]
  | 0x41 => some [.updw t f]
  | 0x60 => some [.div t f]
  | 0x61 => some [.sqrt t f]
  | 0x62 => some [.rsqrt t f]
  | 0x80 => some [.vexp t f]
  | 0x81 => some [.vlog t f]
  | 0x82 => some [.tanh t f]
  | 0x83 => some [.sigmoid t f]
  | 0x84 => some [.silu t f]
  | 0x85 => some [.gelu t f]
  | 0xA0 => some [.rsum t f]
  | 0xA1 => some [.rsumsq t f]
  | 0xA2 => some [.rmax t f]
  | 0xA3 => some [.rmin t f]
  | 0xA4 => some [.rmaxabs t f]
  | 0xC0 => some [.rndu t f]
  | 0xC1 => some [.dropout t f]
  | 0xC2 => some [.rndb t f]
  | _ => none

/-- The SY operations that hold or release the whole stroke come first (Table 6-9), HALT of the CTL slot among them: a member's arrival
stands before the operation at its barrier. -/
def gateCommand (t ctl v : Nat) : SlotCmds :=
  let sy := BitVec.ofNat 32 v
  let bar (k : BarKind) (bid : Nat) (c : Bool → Instr) : SlotCmds := some [fun _ => .barrierArrive t k bid sy, c]
  if bitsOf ctl 2 0 = 5 then bar .halt 0 (.halt t)
  else match bitsOf v 3 0 with
    | 1 =>
      let val := bitsOf v 31 14
      match bitsOf v 7 4 with
      | 1 => some [.wait t .rows (bitsOf v 12 8) (bitOf v 13) val]
      | 2 => some [.wait t .idle (bitsOf v 12 8) (bitOf v 13) val]
      | 3 => some [.wait t .token (bitsOf v 12 8) (bitOf v 13) val]
      | _ => none
    | 2 => bar .barrier (bitsOf v 11 4) (.barrier t (bitsOf v 11 4))
    | 6 => bar .abortStep 0 (.abortStep t (bitsOf v 11 4) (bitsOf v 17 12))
    | 7 =>
      match bitsOf v 5 4 with
      | 0 => bar .stepOpen 0 (.stepOpen t)
      | 1 => bar .stepCommit 0 (.stepCommit t)
      | _ => none
    | _ => some []

/-- The other SY operations. COLL holds its stroke while the launch queue is full (R147). -/
def syCommand (t v : Nat) : SlotCmds :=
  match bitsOf v 3 0 with
  | 0 | 1 | 2 | 6 | 7 => some []
  | 3 => some [.tokenDec t (bitsOf v 8 4) (bitsOf v 28 9)]
  | 4 => some [.flagclr t (bitsOf v 16 4)]
  | 5 => some [.cfg t (bitsOf v 13 4) (bitsOf v 19 14)]
  | 8 => some [.coll t (bitsOf v 9 4) (bitsOf v 19 10) (bitsOf v 25 20)]
  | _ => none

/-- Tells each command whether others of the stroke follow it. -/
def tellMore : List (Bool → Instr) → List Instr → List Instr
  | [], last => last
  | c :: r, last => c (!(r.isEmpty && last.isEmpty)) :: tellMore r last

/-- The commands that a stroke spells for tile t, in an order in which they may be given. A stroke of NOPs is a token decrement by 0
(log entry 141). -/
def strokeCommands (t x : Nat) : Option (List Instr) := do
  let ctl := bitsOf x 63 0
  let sy := bitsOf x 495 464
  let gate ← gateCommand t ctl sy
  let other ← syCommand t sy
  let sop ← sopCommand t ctl
  let lda ← streamCommand t 0 (bitsOf x 127 64)
  let ldb ← streamCommand t 1 (bitsOf x 191 128)
  let mx ← mxCommand t (bitsOf x 287 192)
  let v0 ← vxCommand t 0 (bitsOf x 351 288)
  let v1 ← vxCommand t 1 (bitsOf x 415 352)
  let xf ← streamCommand t 2 (bitsOf x 463 416)
  let flow ← flowCommand t ctl
  let all := gate ++ other ++ sop ++ lda ++ ldb ++ mx ++ v0 ++ v1 ++ xf
  return tellMore (if all.isEmpty && flow.isEmpty then [.tokenDec t 0 0] else all) flow

/-- The commands of stroke a of a plate image. -/
def imageCommands (t a : Nat) (img : List Byte) : Option (List Instr) := strokeCommands t (leVal ((img.drop (256 + 64 * a)).take 64))

end Sys2Proof.Machine
end

