-- ==== Sys2Proof/WellFormed.lean ====
section
/-! DEFINITION. Well-formed commands: every number lies in the range that the manual gives what it names, and every field of a
stroke's operation fits its slot (spec 00, 01, 06, 10, 13, 14). -/
namespace Sys2Proof

/-! ### Ranges -/

def tileOk (t : Nat) : Bool := t < 512
def clusterOk (c : Nat) : Bool := c < 32
def dieOk (d : Nat) : Bool := d < 4
def mcOk (m : Nat) : Bool := m < 16
def pcOk (pc : Nat) : Bool := pc < 128
def tierOk (tier : Nat) : Bool := tier < 3
def blockOk (b : Nat) : Bool := b < 4096
def fportOk (p : Nat) : Bool := p < 16
def nodeOk (n : Nat) : Bool := n < 65536
def portOk (k : Nat) : Bool := k < 2
def vfOk (v : Nat) : Bool := v < 512
def ctxOk (c : Nat) : Bool := c < 512
def qidOk (q : Nat) : Bool := q < 32
def bqOk (q : Nat) : Bool := q < 16
def tidOk (t : Nat) : Bool := t < 1024
def log2nOk (n : Nat) : Bool := n ≤ 9
def sOk (r : Nat) : Bool := r < 64
/-- S0 to S7 are read-only (R142). -/
def dstOk (r : Nat) : Bool := 8 ≤ r && r < 64
def xOk (r : Nat) : Bool := r < 16
def laneOk (k : Nat) : Bool := k ≤ 5
def tdOk (r : Nat) : Bool := r < 32
def tokOk (r : Nat) : Bool := r < 32
/-- IDE streams: 0 CXL.cachemem, 1 the link stream, 2 + s selective stream s (Table 13-8). -/
def ideOk (k : Nat) : Bool := k < 10

/-- Units that the widest variant has, with its service blocks (Tables 1-1 and 1-17). -/
def unitOk (u : UnitId) : Bool :=
  match u with
  | .package => true
  | .cdie d => d < 4
  | .iodie i => i < 2
  | .link k => k < 8
  | .cluster c => c < 32
  | .stack s => s < 12
  | .near d => d < 4
  | .tile t => t < 512
  | .spare c => c < 32
  | .fport p => p < 16
  | .hport k => k < 2
  | .service k => k < 4

/-! ### Slot fields (Tables 6-6 to 6-8) -/

def wloadOk (f : WloadOp) : Bool := f.bank < 2 && f.split < 4 && tdOk f.td && xOk f.x
def streamOpOk (f : StreamOp) : Bool :=
  f.bank < 2 && f.splitA < 4 && f.accRow < 512 && 1 ≤ f.rows && f.rows ≤ 512 && tdOk f.td && xOk f.x
def drainOk (f : DrainOp) : Bool :=
  f.accRow < 512 && 1 ≤ f.rows && f.rows ≤ 512 && f.scale < 3 && f.scaleSrc < 64 && tdOk f.td && xOk f.x && f.rmode < 8
    && f.use < 256 && f.headroom < 2 && f.add < 3 && tdOk f.tdR && xOk f.xR
/-- Residue checks run on the cells, adder trees and vector lanes; what passes through the other engines has none (R84). -/
def noResidue (hw : HwErr) : Bool := hw.residue.isEmpty
def moveOk (f : MoveOp) : Bool :=
  f.unit < 8 && tdOk f.tdS && xOk f.xS && tdOk f.tdD && xOk f.xD && xOk f.xW && f.rmode < 8 && f.use < 256 && f.headroom < 2
    && noResidue f.hw
def vxOk (f : VxOp) : Bool :=
  f.pipe < 2 && tdOk f.tdD && xOk f.xD && tdOk f.tdA && xOk f.xA && tdOk f.tdB && xOk f.xB && f.rmode < 8 && f.use < 256
    && sOk f.sreg && f.opx < 2048

/-! ### Names within operands -/

def pathOk (p : PathId) : Bool := match p with | .unit k => k < 8 | _ => true
def timerOk (w : TxnTimer) : Bool :=
  match w with
  | .coord tid => tidOk tid
  | .member tid u => tidOk tid && unitOk u
  | .subst c => clusterOk c
def dbSrcOk (d : DbSrc) : Bool := match d with | .pf p => portOk p | .vf p v _ => portOk p && vfOk v
def hdmSrcOk (d : HdmSrc) : Bool := match d with | .cxlMem p => portOk p | .vfBar2 p v => portOk p && vfOk v | .foreign p => portOk p
def rxOk (h : RxHead) : Bool :=
  fportOk h.port && h.pn < 2 ^ 64 && h.hdr < 2 ^ 512 && h.body.length ≤ 8192 && (h.tag.length = 0 || h.tag.length = 16)
def msgSrcOk (m : MsgSrc) : Bool := match m with | .wire h => rxOk h | .local' _ => true | .own t0 g => tileOk t0 && g < 64
def lcAccOk (a : LcAcc) : Bool := match a with | .token k _ => k < 8 | _ => true

/-- A command whose operands lie in their ranges. -/
def Instr.wf (i : Instr) : Bool :=
  match i with
  | .unitNop u _ _ => unitOk u
  | .quiesce u _ _ => unitOk u
  | .resume u _ _ => unitOk u
  | .reset u _ _ => unitOk u
  | .sleep u _ _ => unitOk u
  | .retire u _ _ => unitOk u
  | .unitQuiesced u => unitOk u
  | .resetDone u => unitOk u
  | .wakeDone u => unitOk u
  | .fatalInternalError u => unitOk u
  | .requestArrival r => unitOk r.src && unitOk r.tgt
  | .replyArrival u _ _ _ tgt _ _ => unitOk u && unitOk tgt
  | .requestReissue u _ => unitOk u
  | .quiesceDrainLimit u => unitOk u
  | .requestSoftTimeout u _ => unitOk u
  | .requestHardTimeout u _ => unitOk u
  | .transactionTimeout w => timerOk w
  | .txnEnrol tid u _ => tidOk tid && unitOk u
  | .txnPrepare tid u _ => tidOk tid && unitOk u
  | .txnVote tid u => tidOk tid && unitOk u
  | .txnCommit tid u => tidOk tid && unitOk u
  | .txnAck tid u => tidOk tid && unitOk u
  | .txnAbort tid u => tidOk tid && unitOk u
  | .decisionQuery tid u => tidOk tid && unitOk u
  | .unitEvtWrite u _ _ _ => unitOk u
  | .errlogClear u _ => unitOk u
  | .registerWrite _ _ _ _ => true
  | .substGo c _ _ _ _ => clusterOk c
  | .substCancel c _ => clusterOk c
  | .liveSubstStart c => clusterOk c
  | .liveSubstCommit c _ => clusterOk c
  | .substClearDone c => clusterOk c
  | .pendingStart t p => tileOk t && pathOk p
  | .wload t f _ => tileOk t && wloadOk f && noResidue f.hw
  | .stream t f _ => tileOk t && streamOpOk f
  | .drain t f _ => tileOk t && drainOk f && noResidue f.hw
  | .batchAppend t q => tileOk t && bqOk q
  | .batchRelease t => tileOk t
  | .batchDeadline t => tileOk t
  | .batchRetire t => tileOk t
  | .move t f _ => tileOk t && moveOk f
  | .prefetch t f _ => tileOk t && moveOk f
  | .streamCmdDone t _ => tileOk t
  | .tdload t td sreg _ hw _ => tileOk t && tdOk td && sOk sreg && noResidue hw
  | .tdbase t td sreg _ _ => tileOk t && tdOk td && sOk sreg
  | .lstart t _ _ => tileOk t
  | .lstartS t sreg _ => tileOk t && sOk sreg
  | .call t _ => tileOk t
  | .ret t => tileOk t
  | .halt t _ => tileOk t
  | .addi t dst sa _ _ => tileOk t && dstOk dst && sOk sa
  | .scalarAdd t dst sa sb _ => tileOk t && dstOk dst && sOk sa && sOk sb
  | .scalarSub t dst sa sb _ => tileOk t && dstOk dst && sOk sa && sOk sb
  | .scalarMul t dst sa sb _ => tileOk t && dstOk dst && sOk sa && sOk sb
  | .sAnd t dst sa sb _ => tileOk t && dstOk dst && sOk sa && sOk sb
  | .sOr t dst sa sb _ => tileOk t && dstOk dst && sOk sa && sOk sb
  | .sXor t dst sa sb _ => tileOk t && dstOk dst && sOk sa && sOk sb
  | .shli t dst sa _ _ => tileOk t && dstOk dst && sOk sa
  | .shri t dst sa _ _ => tileOk t && dstOk dst && sOk sa
  | .srai t dst sa _ _ => tileOk t && dstOk dst && sOk sa
  | .scalarMin t dst sa sb _ => tileOk t && dstOk dst && sOk sa && sOk sb
  | .scalarMax t dst sa sb _ => tileOk t && dstOk dst && sOk sa && sOk sb
  | .li t dst _ _ _ => tileOk t && dstOk dst
  | .sel t dst sa sb _ => tileOk t && dstOk dst && sOk sa && sOk sb
  | .sld t dst sa _ hw _ => tileOk t && dstOk dst && sOk sa && noResidue hw
  | .sst t sa sb _ hw _ => tileOk t && sOk sa && sOk sb && noResidue hw
  | .xset t dst lane sa _ => tileOk t && xOk dst && laneOk lane && sOk sa
  | .xaddi t dst lane _ _ => tileOk t && xOk dst && laneOk lane
  | .xadd t dst lane sa _ => tileOk t && xOk dst && laneOk lane && sOk sa
  | .xcopy t dst sa _ => tileOk t && xOk dst && xOk sa
  | .xget t dst sa lane _ => tileOk t && dstOk dst && xOk sa && laneOk lane
  | .wait t _ _ _ _ _ => tileOk t
  | .barrier t _ _ => tileOk t
  | .barrierArrive t _ _ _ => tileOk t
  | .tokenDec t n _ _ => tileOk t && tokOk n
  | .flagclr t _ _ => tileOk t
  | .cfg t _ sreg _ => tileOk t && sOk sreg
  | .abortStep t _ sreg _ => tileOk t && sOk sreg
  | .stepOpen t _ => tileOk t
  | .stepCommit t _ => tileOk t
  | .coll t _ _ sreg _ => tileOk t && sOk sreg
  | .waitTimeout t => tileOk t
  | .plateFetchArrive t _ _ => tileOk t
  | .runComplete t => tileOk t
  | .vcopy t f _ => tileOk t && vxOk f
  | .fills t f _ => tileOk t && vxOk f
  | .iadd t f _ => tileOk t && vxOk f
  | .iand t f _ => tileOk t && vxOk f
  | .ior t f _ => tileOk t && vxOk f
  | .ixor t f _ => tileOk t && vxOk f
  | .cmplt t f _ => tileOk t && vxOk f
  | .cmpeq t f _ => tileOk t && vxOk f
  | .select t f _ => tileOk t && vxOk f
  | .vadd t f _ => tileOk t && vxOk f
  | .vsub t f _ => tileOk t && vxOk f
  | .vmul t f _ => tileOk t && vxOk f
  | .fma t f _ => tileOk t && vxOk f
  | .axpby t f _ => tileOk t && vxOk f
  | .axpby2 t f _ => tileOk t && vxOk f
  | .vmin t f _ => tileOk t && vxOk f
  | .vmax t f _ => tileOk t && vxOk f
  | .scale t f _ => tileOk t && vxOk f
  | .add64 t f _ => tileOk t && vxOk f
  | .cvt t f _ => tileOk t && vxOk f
  | .updw t f _ => tileOk t && vxOk f
  | .div t f _ => tileOk t && vxOk f
  | .sqrt t f _ => tileOk t && vxOk f
  | .rsqrt t f _ => tileOk t && vxOk f
  | .vexp t f _ => tileOk t && vxOk f
  | .vlog t f _ => tileOk t && vxOk f
  | .tanh t f _ => tileOk t && vxOk f
  | .sigmoid t f _ => tileOk t && vxOk f
  | .silu t f _ => tileOk t && vxOk f
  | .gelu t f _ => tileOk t && vxOk f
  | .rsum t f _ => tileOk t && vxOk f
  | .rsumsq t f _ => tileOk t && vxOk f
  | .rmax t f _ => tileOk t && vxOk f
  | .rmin t f _ => tileOk t && vxOk f
  | .rmaxabs t f _ => tileOk t && vxOk f
  | .rndu t f _ => tileOk t && vxOk f
  | .dropout t f _ => tileOk t && vxOk f
  | .rndb t f _ => tileOk t && vxOk f
  | .monitorMergeDone t _ => tileOk t
  | .monHitClear t _ => tileOk t
  | .launchStart c => clusterOk c
  | .send t _ => tileOk t
  | .recv t => tileOk t
  | .reduce t _ _ => tileOk t
  | .drupeletCopy t _ => tileOk t
  | .lanLoop t => tileOk t
  | .countx t => tileOk t
  | .countr t => tileOk t
  | .endProg t => tileOk t
  | .launchComplete t => tileOk t
  | .dataFrame src _ => msgSrcOk src
  | .creditFrame src => msgSrcOk src
  | .ackFrame h => rxOk h
  | .nackFrame h _ => rxOk h
  | .probe h _ _ => rxOk h
  | .probeRsp h _ _ => rxOk h
  | .joinMsg src => msgSrcOk src
  | .keyconf src => msgSrcOk src
  | .voteMsg src => msgSrcOk src
  | .decision src => msgSrcOk src
  | .vack src => msgSrcOk src
  | .closed src => msgSrcOk src
  | .dquery src => msgSrcOk src
  | .failMsg src => msgSrcOk src
  | .goneMsg src => msgSrcOk src
  | .mkpdu p _ => fportOk p
  | .probeInterval node p => nodeOk node && fportOk p
  | .ackInterval node p => nodeOk node && fportOk p
  | .retransmissionTimeout node p => nodeOk node && fportOk p
  | .unreachableLimit node => nodeOk node
  | .fabricLinkUp p => fportOk p
  | .fabricLinkLoss p => fportOk p
  | .allowWrite _ _ _ => true
  | .uctCfgWrite _ _ _ _ => true
  | .fpCtlWrite _ p _ => fportOk p
  | .fpCakWrite _ p _ => fportOk p
  | .metadataEvict blk _ _ => blockOk blk
  | .patrolScrub m _ => mcOk m
  | .rowRemapDone m pc _ => mcOk m && pcOk pc
  | .mcRemapCmd u _ pc _ => unitOk u && pcOk pc
  | .mcEvac u _ pc _ => unitOk u && pcOk pc
  | .migrationCopyDone m pc _ => mcOk m && pcOk pc
  | .frameDrained tier _ => tierOk tier
  | .frameScrubDone tier _ => tierOk tier
  | .farBlockReinit blk => blockOk blk
  | .encAlarmClear _ => true
  | .hdmAccess src _ _ _ => hdmSrcOk src
  | .snoop port _ => portOk port
  | .atsInvalidate blk => blockOk blk
  | .numvfsWrite port _ _ => portOk port
  | .vfFlr port vf => portOk port && vfOk vf
  | .pfFlr port => portOk port
  | .vfEnableClear port => portOk port
  | .bmeClear port vf _ => portOk port && vf.all vfOk
  | .mseClear port vf _ => portOk port && vf.all vfOk
  | .hostLinkDown port => portOk port
  | .viral port => portOk port
  | .completionTimeout port _ _ => portOk port
  | .ideIntegrityFail port st _ => portOk port && ideOk st
  | .ideKeyProgram port st => portOk port && ideOk st
  | .lockInterfaceRequest port vf st => portOk port && vfOk vf && ideOk (2 + st)
  | .stopInterface port vf => portOk port && vfOk vf
  | .sqTail src ctx q _ => dbSrcOk src && ctxOk ctx && qidOk q
  | .cqHead src ctx q _ => dbSrcOk src && ctxOk ctx && qidOk q
  | .evqHead src ctx _ => dbSrcOk src && ctxOk ctx
  | .ringNop ctx qid => ctxOk ctx && qidOk qid
  | .identify ctx qid => ctxOk ctx && qidOk qid
  | .ifNegotiate ctx qid => ctxOk ctx && qidOk qid
  | .ctxCreate ctx qid => ctxOk ctx && qidOk qid
  | .ctxDestroy ctx qid => ctxOk ctx && qidOk qid
  | .vfBind ctx qid => ctxOk ctx && qidOk qid
  | .vfUnbind ctx qid => ctxOk ctx && qidOk qid
  | .dmaWindow ctx qid => ctxOk ctx && qidOk qid
  | .farWindow ctx qid => ctxOk ctx && qidOk qid
  | .objShare ctx qid => ctxOk ctx && qidOk qid
  | .objCreate ctx qid => ctxOk ctx && qidOk qid
  | .objRef ctx qid => ctxOk ctx && qidOk qid
  | .objUnref ctx qid => ctxOk ctx && qidOk qid
  | .objQuery ctx qid => ctxOk ctx && qidOk qid
  | .queueCreate ctx qid => ctxOk ctx && qidOk qid
  | .abortQueues ctx qid => ctxOk ctx && qidOk qid
  | .fenceAbandon ctx qid => ctxOk ctx && qidOk qid
  | .memMap ctx qid => ctxOk ctx && qidOk qid
  | .memUnmap ctx qid => ctxOk ctx && qidOk qid
  | .memRelease ctx qid => ctxOk ctx && qidOk qid
  | .memReserve ctx qid => ctxOk ctx && qidOk qid
  | .memRedirClear ctx qid => ctxOk ctx && qidOk qid
  | .dmaCopy ctx qid _ _ => ctxOk ctx && qidOk qid
  | .dmaFill ctx qid _ => ctxOk ctx && qidOk qid
  | .plateLoad ctx qid _ => ctxOk ctx && qidOk qid
  | .run ctx qid _ => ctxOk ctx && qidOk qid
  | .stepConfig ctx qid _ => ctxOk ctx && qidOk qid
  | .groupJoin ctx qid _ _ => ctxOk ctx && qidOk qid
  | .groupLeave ctx qid => ctxOk ctx && qidOk qid
  | .fenceWaitRelease ctx qid => ctxOk ctx && qidOk qid
  | .commandComplete ctx qid => ctxOk ctx && qidOk qid
  | .objRelease _ => true
  | .evOverflow ctx _ => ctxOk ctx
  | .partBind ctx qid => ctxOk ctx && qidOk qid
  | .partUnbind ctx qid => ctxOk ctx && qidOk qid
  | .partBurnGo _ u t0 log2n => unitOk u && tileOk t0 && log2nOk log2n
  | .tileClearDone t0 => tileOk t0
  | .contextBurnish ctx => ctxOk ctx
  | .burnStuck _ _ => true
  | .shardLoad ctx qid _ _ => ctxOk ctx && qidOk qid
  | .shardCheck ctx qid _ => ctxOk ctx && qidOk qid
  | .shardRelease ctx qid => ctxOk ctx && qidOk qid
  | .shardPeriodicCheck ctx _ _ => ctxOk ctx
  | .ckptExport ctx qid _ => ctxOk ctx && qidOk qid
  | .ckptImport ctx qid _ _ => ctxOk ctx && qidOk qid
  | .partQuery ctx qid => ctxOk ctx && qidOk qid
  | .keyGenerate ctx qid => ctxOk ctx && qidOk qid
  | .keyDerive ctx qid _ => ctxOk ctx && qidOk qid
  | .keyImport ctx qid _ => ctxOk ctx && qidOk qid
  | .keyDestroy ctx qid => ctxOk ctx && qidOk qid
  | .keyQuery ctx qid _ => ctxOk ctx && qidOk qid
  | .keyAttest ctx qid _ => ctxOk ctx && qidOk qid
  | .measReport ctx qid _ => ctxOk ctx && qidOk qid
  | .attMsg ctx qid _ _ => ctxOk ctx && qidOk qid
  | .getInfo port _ => portOk port
  | .mbOpen port _ _ => portOk port
  | .mbFinish port _ => portOk port
  | .mbReport port _ => portOk port
  | .mbClose port _ => portOk port
  | .getVersion port => portOk port
  | .getCapabilities port => portOk port
  | .negotiateAlgorithms port _ => portOk port
  | .getDigests port => portOk port
  | .getCertificate port _ _ => portOk port
  | .challenge port _ => portOk port
  | .getMeasurements port vf _ _ => portOk port && vf.all vfOk
  | .keyExchange port _ _ => portOk port
  | .spdmFinish port _ _ => portOk port
  | .heartbeat port _ => portOk port
  | .keyUpdate port _ => portOk port
  | .endSession port _ => portOk port
  | .vendorDefinedRequest port _ _ => portOk port
  | .rngFail => true
  | .lcTransition _ _ _ _ => true
  | .lcUnlock _ => true
  | .lcComplete _ _ _ => true
  | .fwStageBegin ctx qid => ctxOk ctx && qidOk qid
  | .fwStageData ctx qid _ _ => ctxOk ctx && qidOk qid
  | .fwVerify ctx qid => ctxOk ctx && qidOk qid
  | .fwArm ctx qid => ctxOk ctx && qidOk qid
  | .fwCancel ctx qid => ctxOk ctx && qidOk qid
  | .fwQuery ctx qid => ctxOk ctx && qidOk qid
  | .fwArbRaise ctx qid => ctxOk ctx && qidOk qid
  | .fwSettings ctx qid _ _ => ctxOk ctx && qidOk qid
  | .actHoldoff => true
  | .actRetry u => unitOk u
  | .bootWatchdog _ => true
  | .mgmtWatchdog _ _ => true
  | .rcvGo _ _ _ => true
  | .inputPowerOn _ _ => true
  | .pwrWarnAssert _ => true
  | .pwrWarnDeassert => true
  | .uvlo => true
  | .limiterStep _ _ _ _ => true
  | .powerEstimate _ _ => true
  | .thermalReading _ => true
  | .emergDuration _ => true
  | .pwrCapWrite _ _ => true
  | .pwrOppWrite _ _ _ => true
  | .agePredWrite _ _ => true
  | .tripCauseClear _ _ => true
  | .apportion _ _ => true
  | .meterPeriodic _ => true
  | .getReading _ _ _ => true
  | .getLog _ _ => true
  | .getWrap _ => true
  | .getCert _ _ => true
  | .meterSeal _ _ _ => true
  | .meterUnseal _ _ _ => true
  | .calibrate _ _ _ _ _ => true
  | .tamper _ => true
  | .mirrorUpdate => true
  | .meterLinkFail => true
  | .modRstLow => true
  | .modRstRise _ _ _ => true
  | .perstAssert port => portOk port
  | .perstDeassert port _ => portOk port
  | .flashOwn _ _ => true
  | .i3cRead _ _ => true
  | .extest _ => true
  | .idcode => true
  | .samplePreload _ => true
  | .lcAccess a => lcAccOk a
  | .jtagDebug _ => true
  | .bypass => true
  | .hostLinkUp port _ _ _ => portOk port
  | .startInterfaceRequest port vf _ => portOk port && vfOk vf
  | .frozenConfigurationWrite port vf => portOk port && vfOk vf
  | .onlineRetraining m _ _ => mcOk m
  | .mkaLivePeerLoss p => fportOk p
  | .filteredFrame p => fportOk p
  | .entropySourcePass => true
  | .meterPowerDown _ => true
  | .meterPowerUp _ => true
  | .correctableLinkError port => portOk port
  | .dieVoltageReached d => dieOk d

end Sys2Proof
end

