-- ==== Sys2Proof/Tests/Slice0.lean ====
section
/-! SUPPORT. Tests of the model: ill-formed commands that well-formedness refuses, worked examples of the spec, and for every statement
with hypotheses a state and operands that meet them. -/
namespace Sys2Proof.Machine.Tests
set_option Elab.async false
set_option maxRecDepth 100000


/-! ### Well-formedness: one command that breaks each check -/

/-- Units of the tree (Table 1-1): tiles 0 to 511, 32 clusters, 4 dies, 12 stacks, 16 ports, 4 service blocks. -/
theorem test_wf_units : (([.tile 512, .cluster 32, .cdie 4, .stack 12, .near 4, .iodie 2, .link 8, .spare 32, .fport 16, .hport 2,
      .service 4] : List UnitId).all (fun u => !(Instr.quiesce u .pf0 0).wf) &&
    ([.tile 511, .cluster 31, .cdie 3, .stack 11, .near 3, .iodie 1, .link 7, .spare 31, .fport 15, .hport 1, .service 3] :
      List UnitId).all (fun u => (Instr.quiesce u .pf0 0).wf)) = true := by decide +kernel

/-- Scalar destinations below S8, registers beyond the files and lanes beyond 5 (R142). -/
theorem test_wf_registers : ([.addi 0 7 0 0 true, .addi 0 8 64 0 true, .xset 0 16 0 0 true, .xset 0 0 6 0 true, .tdbase 0 32 0 false true,
    .halt 512 true, .tokenDec 0 32 0 true] : List Instr).all (fun i => !i.wf) = true := by decide +kernel

/-- Fields of the slots (Tables 6-6 to 6-8): rows 1 to 512, accumulator rows below 512, formats of a DRAIN's scale. -/
theorem test_wf_slots :
    let a : StreamOp := { sw := false, bank := 0, splitA := 0, acc64 := false, opset := false, accRow := 511, rows := 512, td := 31, x := 15,
                          batch := false }
    let v : VxOp := { pipe := 1, tdD := 31, xD := 15, tdA := 31, xA := 15, tdB := 31, xB := 15, rmode := 7, sat := true, use := 255, sreg := 63,
                      opx := 2047 }
    (Instr.stream 0 a true).wf = true ∧ (Instr.vadd 0 v true).wf = true ∧
      ([.stream 0 { a with rows := 0 } true, .stream 0 { a with rows := 513 } true, .stream 0 { a with accRow := 512 } true,
        .stream 0 { a with bank := 2 } true, .stream 0 { a with splitA := 4 } true, .vadd 0 { v with pipe := 2 } true,
        .vadd 0 { v with opx := 2048 } true, .vadd 0 { v with sreg := 64 } true] : List Instr).all (fun i => !i.wf) = true := by decide +kernel

/-- Contexts, queues, ports, functions, controllers, pseudo-channels, tiers, blocks and transaction identifiers. -/
theorem test_wf_names : ([.ringNop 512 0, .ringNop 0 32, .pfFlr 2, .vfFlr 0 512, .patrolScrub 16 { line := 0 }, .frameDrained 3 0,
    .farBlockReinit 4096, .txnCommit 1024 (.tile 0), .batchAppend 0 16, .probeInterval 65536 0, .tileClearDone 512,
    .partBurnGo .pf0 (.cluster 0) 0 10, .dieVoltageReached 4, .lcAccess (.token 8 0), .ideKeyProgram 0 10] : List Instr).all
      (fun i => !i.wf) = true := by decide +kernel

/-! ### Worked examples of the spec -/

/-- The image of a scratchpad descriptor: base, format and for each dimension its extent and stride. -/
def tdRaw (base etype : Nat) (ds : List (Nat × Nat)) : BitVec 1024 :=
  BitVec.ofNat 1024 (base + etype <<< 48 + (ds.length - 1) <<< 53
    + ((List.range ds.length).map (fun k => ((ds.getD k (1, 0)).1 + (if k = 0 then 0 else (ds.getD k (1, 0)).2) <<< 32) <<< (256 + 128 * k))).foldl (· + ·) 0)

/-- Spec 00: tile d2.c5.t11 has index 347 and page 0x35B; spec 01: its UNIT_ID and the package's. -/
theorem test_tile_347 : pageOf (.tile 347) = 0x35B ∧ unitIdReg (.tile 347) = 0x35255800 ∧ unitIdReg .package = 0x01FFF800 := by
  decide +kernel

/-- Spec 03, R74: the pieces of the binary32 value nearest to 1/3; the last, 43 · 2^-25, as an eight-bit significand. -/
theorem test_pieces_third : pieces 3 (elemVal .fp32 0x3EAAAAAB) = [.fin false 171 (-9), .fin true 171 (-18), .fin false 172 (-27)] := by
  decide +kernel

/-- Spec 03: an MXFP8_E4M3 block with H = 1 and A = 0.0123 (binary32 0x3C49_8557) has the scale byte 0x71. -/
theorem test_mx_scale : (mxQuantise .mxE4m3 1 (List.replicate 32 .rne) (elemVal .fp32 0x3C498557 :: List.replicate 31 (.fin false 0 0))).1 = 0x71 := by
  decide +kernel

/-- The Philox4x32-10 answer for a zero counter and key (Random123's known answers). -/
theorem test_philox : philox 0 0 0 0 0 0 = 0x9B00DBD8BC57AC4CE169C58D6627E8D5 := by decide +kernel

/-- SHA-384 of "abc" (FIPS 180-4). -/
theorem test_sha384 : beVal (sha384 [0x61, 0x62, 0x63])
    = 0xCB00753F45A35E8BB5A03D699AC65007272C32AB0EDED1631A8B605A43FF5BED8086072BA1E7CC2358BAECA134C825A7 := by decide +kernel

/-- The check value of CRC-32 over "123456789". -/
theorem test_crc32 : crc32 [0x31, 0x32, 0x33, 0x34, 0x35, 0x36, 0x37, 0x38, 0x39] = 0xCBF43926 := by decide +kernel

/-- Spec 05: strides of 128 B and 192 B for rows of 64 B alias; 64 B and 192 B do not. -/
theorem test_aliasing :
    aliasOk (descOf (tdRaw 0 1 [(16, 4), (3, 128), (2, 192)])) = false ∧ aliasOk (descOf (tdRaw 0 1 [(16, 4), (3, 64), (2, 192)])) = true := by
  decide +kernel

/-- UPDW on W at 0 and P at 2 (BF16) and Δ at 4 (FP32), with this W and P and Δ = 2^-10: W' and P' (spec 07, R175). -/
def updwOnce (w p : Nat) : Nat × Nat :=
  let l : Latched := { step := 0, pc := 0, xs := [], sreg := 0,
                       descs := [(0, tdRaw 0 3 [(1, 2)]), (1, tdRaw 4 1 [(1, 4)]), (2, tdRaw 2 3 [(1, 2)])] }
  let bs := leBytes 2 w ++ leBytes 2 p ++ leBytes 4 0x3A800000
  let r := updwElem l (fun _ a => bs.getD a 0)
    { pipe := 0, tdD := 0, xD := 0, tdA := 0, xA := 0, tdB := 1, xB := 0, rmode := 0, sat := false, use := 0, sreg := 0, opx := 2 <<< 6 } 0 [0]
  (r.wOut.raw, r.pOut.raw)

/-- Steps 1, 4 and 5 of the example of spec 07. -/
theorem test_updw : updwOnce 0x3F80 0 = (0x3F80, 0x3A80) ∧ updwOnce 0x3F80 0x3B40 = (0x3F80, 0x3B80)
    ∧ updwOnce 0x3F80 0x3B80 = (0x3F81, 0xBB40) := by decide +kernel

/-- Table 9-8: the entries of the ring's rank 1 of four, as OP, A, B, C, PEER, XTAG, DOFF_S, DOFF_D, free A and ATINC. -/
theorem test_ring_program :
    (compileProg { nodes := [1, 2, 3, 4], rank := 1, op := 1, bytes := 262144 }).map (fun e =>
      [enOp e, enA e, enB e, enC e, enPeer e, enXtag e, enDoffS e, enDoffD e, boolNat (enFreeA e), enInc e])
    = [[1, 4, 0, 0, 2, 0, 0, 0, 0, 0], [2, 0, 0, 0, 0, 0, 0, 0, 0, 0], [3, 0, 4, 1, 0, 0, 3, 0, 1, 0],
       [1, 1, 0, 0, 2, 1, 0, 0, 1, 0], [2, 0, 0, 2, 0, 1, 0, 0, 0, 0], [3, 2, 4, 3, 0, 0, 2, 0, 1, 0],
       [1, 3, 0, 0, 2, 2, 0, 0, 1, 0], [2, 0, 0, 0, 0, 2, 0, 0, 0, 0], [3, 0, 4, 5, 0, 0, 1, 1, 1, 1],
       [1, 5, 0, 0, 2, 3, 0, 1, 0, 0], [2, 0, 0, 5, 0, 3, 0, 0, 0, 1], [1, 5, 0, 0, 2, 4, 0, 0, 0, 0],
       [2, 0, 0, 5, 0, 4, 0, 3, 0, 1], [1, 5, 0, 0, 2, 5, 0, 3, 0, 0], [2, 0, 0, 5, 0, 5, 0, 2, 0, 1],
       [0, 0, 0, 0, 0, 0, 0, 0, 0, 0]] := by decide +kernel

/-! ### Strokes (Tables 6-4 to 6-9) -/

/-- ADDI S9 ← S3 + 5 in the scalar field. -/
theorem test_stroke_addi : strokeCommands 4 (0x01 <<< 26 + 9 <<< 32 + 3 <<< 38 + 5 <<< 50) = some [.addi 4 9 3 5 false] := by decide +kernel

/-- LSTART of 7 iterations of a body of 6 strokes, after the scalar operation of the same stroke. -/
theorem test_stroke_lstart :
    strokeCommands 4 (1 + 7 <<< 3 + 5 <<< 15 + 0x02 <<< 26 + 8 <<< 32 + 1 <<< 38 + 2 <<< 44) = some [.scalarAdd 4 8 1 2 true, .lstart 4 7 5] := by
  decide +kernel

/-- VX0 multiplies: OPC 0x22 at bits 295 to 288. -/
theorem test_stroke_vmul :
    strokeCommands 4 ((0x22 + 3 <<< 8 + 2 <<< 13) <<< 288) = some [.vmul 4
      { pipe := 0, tdD := 3, xD := 2, tdA := 0, xA := 0, tdB := 0, xB := 0, rmode := 0, sat := false, use := 0, sreg := 0, opx := 0 } false] := by
  decide +kernel

/-- A reserved SOP value spells no stroke (R7). -/
theorem test_stroke_reserved : strokeCommands 4 (0x0F <<< 26) = none := by decide +kernel

/-- No row of the table gives bits: no word spells a command. -/
theorem test_no_words : decodeTableWord 0 0 = none ∧ decodeTableWord 64 5 = none := by decide +kernel

/-! ### States that meet the hypotheses of the statements

Each theorem `witness_<Statement>` gives, for the clauses of that statement which have hypotheses, operands and a state that meet them
together. Left out are clauses whose hypotheses hold of whole images, certificates or wrapped keys (a signature by a key whose digest is
fused, a sealed section, a plate's digest): evaluating those would take the kernel minutes. Their statements keep witnesses of other clauses. -/

/-- The state after reset with BAR0 open to PF0, which is a bus master. -/
def wUp : State := { State.reset with rg := { State.reset.rg with funcs := [(0, { mse := true, bme := true })] } }

/-- That state with one unit's header. -/
def wUnit (u : UnitId) (x : Machine.Unit) : State := unitSet wUp u x

/-- A plate's run as PLATE_RUN starts it. -/
def wRun : RunRec := { obj := 1, nstrokes := 8, entry := 0, digest := [], numver := 0, canon := false, cmd := { ctx := 0, qid := 0 } }

/-- A running partition of one tile, T0 = 0. -/
def wPart : Part := { t0 := 0, log2n := 0, st := .running, ctx := 0, run := some wRun }

/-- A partition record and the tile and unit of tile 0. -/
def wRuns (p : Part) (x : Tile) : State :=
  let s := unitSet wUp (.tile 0) { state := .run, bound := true, running := true }
  { s with tl := { s.tl with parts := [(0, p)], tab := [(0, x)] } }

/-- A request of tile 0 for tile 1. -/
def wReq : Req := { src := .tile 0, tag := 3, tgt := .tile 1, reqInc := 0, tgtInc := 0, op := .message }

/-- Its entry among the outstanding requests. -/
def wOut : Outst := { src := 0x200, tag := 3, tgt := 0x201, tgtInc := 0, reqInc := 0, txn := none, arrived := false }

/-- That request outstanding, with these replies on their way. -/
def wOuts (o : Outst) (y : List Reply) : State :=
  let s := unitSet (unitSet wUp (.tile 0) { state := .run }) (.tile 1) { state := .run }
  { s with un := { s.un with outst := [o], replies := y } }

/-- The same with tile 1 in another state. -/
def wAtTgt (st : UState) : State := unitSet (wOuts wOut []) (.tile 1) { state := st }

/-- The reply to it. -/
def wRep : Reply := { src := 0x200, tag := 3, tgt := 0x201, reqInc := 0, rspInc := 0, status := 0, data := [] }

/-- A transaction with TID 5 and members tile 0 and tile 1, coordinated by cluster 0. -/
def wTxn (kind : Nat) (ph : TxnPhase) (a b : MemberSt) : Txn :=
  { kind := kind, key := 0, coord := 0x100, coordInc := 0, phase := ph, record := ph = .committed,
    members := [{ page := 0x200, inc := 0, st := a }, { page := 0x201, inc := 0, st := b }] }

/-- The same with tile 0 and tile 1 in RUN and a partition of both. -/
def wTxns (x : Txn) (p : Part) : State :=
  let s := unitSet (unitSet wUp (.tile 0) { state := .run }) (.tile 1) { state := .run }
  { s with un := { s.un with txns := [(5, x)] }, tl := { s.tl with parts := [(0, p)] } }

/-- A running partition of tiles 0 and 1 whose STEP transaction 5 is open. -/
def wPart2 : Part := { wPart with log2n := 1, opened := true, tid := 5 }

/-- An activation's transaction over host port 0 and stack 1. -/
def wActTxn (tp : TxnPhase) (a b : MemberSt) : Txn :=
  { kind := 3, key := 0, coord := 0x420, coordInc := 0, phase := tp, record := tp = .committed,
    members := [{ page := 0x421, inc := 0, st := a }, { page := 0x401, inc := 0, st := b }] }

/-- An activation with transaction 5. -/
def wAct (ph : Nat) (tp : TxnPhase) (a b : MemberSt) (u : UState) (im : Option Image) : State :=
  let s := unitSet wUp (.hport 0) { state := u }
  { s with
    un := { s.un with txns := [(5, wActTxn tp a b)] },
    fw := { s.fw with phase := ph, kinds := 2, tid := some 5, left := if ph = 3 then [0x421] else [], nextMgmt := im } }

/-- A management image. -/
def wImage : Image := { version := 1, svn := 0, ifMin := 1, ifMax := 1, ifMinor := 0, resetReq := 0, numvers := [], digest := [] }

/-- The state after reset, up, with this firmware state. -/
def wFw (f : FwSt) : State := { wUp with fw := f }

/-- Cluster 0 with a substitution of tile 0, whose transaction is 6. -/
def wSubst (ph : SubstPhase) (tid : Option Nat) (tp : TxnPhase) (x : Tile) : State :=
  let s := unitSet (unitSet (wUnit (.cluster 0) { state := .run }) (.tile 0) { state := .run, running := true }) (.spare 0) { state := .run }
  { s with
    un := { s.un with
      subst := [(0, { phase := ph, mode := 1, tid := tid })],
      txns := [(6, { wTxn 2 tp .invited .invited with members := [] })] },
    tl := { s.tl with parts := [(0, { wPart with bar := some (.barrier, 0) })], tab := [(0, x)] } }

/-- A tile that issues the stroke at address 2, whose next stroke the plate cache holds. -/
def wPlate : Plate := { pc := 2, pstate := .issuing, cache := [(2, 3), (3, 4)] }

/-- Tile 0 issues under wPart with these S registers and this plate. -/
def wIss (sr : Map W64) (p : Plate) : State := wRuns wPart { plate := p, regs := { s := sr } }

/-- Tile 0 issuing with S8 = 5 and S9 = 7. -/
def wIs : State := wIss [(8, 5), (9, 7)] wPlate

/-- A tile at a barrier of a kind. -/
def wAtBar (k : BarKind) (b pc : Nat) : Tile :=
  { plate := { pc := pc, pstate := .heldBar, arrived := some (k, b), cache := [(pc + 1, pc + 2)] }, regs := { s := [(8, 3)] } }

/-- Tiles 0 and 1 in RUN under a partition of both. -/
def wTwo (p : Part) (x y : Tile) : State :=
  let s := unitSet (unitSet wUp (.tile 0) { state := .run }) (.tile 1) { state := .run }
  { s with tl := { s.tl with parts := [(0, p)], tab := [(0, x), (1, y)] } }

/-- That partition over two tiles. -/
def wPair : Part := { wPart with log2n := 1 }

/-- A WLOAD of bank 0. -/
def wWload : WloadOp := { bank := 0, sw := false, split := 0, td := 6, x := 0 }

/-- A STREAM of one row. -/
def wStream : StreamOp :=
  { sw := false, bank := 0, splitA := 0, acc64 := false, opset := true, accRow := 0, rows := 1, td := 6, x := 0, batch := false }

/-- A DRAIN of one row. -/
def wDrain : DrainOp :=
  { sw := false, acc64 := false, accRow := 0, rows := 1, scale := 0, scaleSrc := 0, td := 0, x := 0, rmode := 0, sat := false, use := 0,
    headroom := 0, add := 0, tdR := 0, xR := 0, clr := false, batch := false, bret := false, aint := false }

/-- A MOVE on stream unit 0. -/
def wMove : MoveOp :=
  { unit := 7, tdS := 0, xS := 0, tdD := 1, xD := 1, xW := 2, rmode := 0, sat := false, use := 0, headroom := 0 }

/-- The barrier of a kind reached by tiles 0 and 1. -/
def wBar (k : BarKind) (b : Nat) (p : Part) : State := wTwo { p with bar := some (k, b) } (wAtBar k b 2) (wAtBar k b 2)

/-- A tensor descriptor of two rows of 64 bytes in the scratchpad. -/
def wTd (base etype e0 : Nat) : BitVec 1024 :=
  BitVec.ofNat 1024 (base + etype <<< 48 + 1 <<< 53 + e0 <<< 256 + 2 <<< 384 + 64 <<< 416)

/-- Tile 0 issuing with FP32 descriptors 0 to 2, INT32 descriptors 3 to 5 and a BF16 descriptor 6, apart from each other. -/
def wTds (x : Tile) : State :=
  wRuns wPart { x with plate := wPlate, regs := { td := [(0, wTd 0 1 16), (1, wTd 1024 1 16), (2, wTd 2048 1 16), (3, wTd 3072 7 16),
    (4, wTd 4096 7 16), (5, wTd 5120 7 16), (6, wTd 6144 3 32)] } }

/-- A vector operation over FP32 rows, or INT32 rows for the integer operations. -/
def wVx (o : Nat) : VxOp :=
  let k := if vxIsInt o then 3 else 0
  { pipe := 0, tdD := k, xD := 0, tdA := k + 1, xA := 0, tdB := k + 2, xB := 0, rmode := 0, sat := false, use := 0, sreg := 8,
    opx := 63 + k <<< 6 }

/-- An operation in progress. -/
def wCmd (o : PathOp) : PathCmd := cmdOf (wTds {}) 0 o

/-- A command in flight. -/
def wFl (o : PathOp) (age : Nat) (st : List (Nat × Stage)) : Flight := { path := pathBy o, cmd := wCmd o, age := age, stages := st }

/-- A tile with one command in flight. -/
def wFly (o : PathOp) (age : Nat) (st : List (Nat × Stage)) : Tile := { flight := [wFl o age st] }

/-- The row that waits for queue 3. -/
def wRow : AppendRow := { q := 3, engine := 5, ws := [{ bit := 8, w := 8, val := 7 }] }

/-- The batcher with queue 3 enabled. -/
def wBat (ctl : W32) (fill : Nat) (present : List Nat) : Batcher :=
  { ctl := ctl, queues := [(3, { cfg := 0x0008000000000000, fill := fill, present := present })], appends := [wRow] }

/-- A fabric port whose link carries frames. -/
def wPort : FPort := { ctl := 1, cak := 0x100, link := 2, mka := 2, xpn := 1 }

/-- A group of this node's tile 0 (rank 0) and node 2's (rank 1), with these requests and programs. -/
def wGrp (reqs : List Nat) (progs : Map (List Nat)) : Group :=
  { id := 9, log2n := 0, pslot := 1, numver := 0, weight := 1, kslot := 0, kctx := 0, vote := false, members := [(1, 0), (2, 0)],
    reqs := reqs, digest := [1], nonce := [2], progs := progs, st := 2, locals := [{ rank := 0, t0 := 0, joined := true }] }

/-- Node 1, joined to node 2 by port 0, with this path, this group with GIX 3 and these lanes. -/
def wFab (x : PathSt) (g : Group) (ls : Map LaneRun) : State :=
  let s := unitSet (wRuns { wPart with group := 1, groupEn := true } {}) (.fport 0) { state := .run }
  { s with fb := { s.fb with
    cfg := 0x0002000000018855, allow := [(0, 0x100010002)], ports := [(0, wPort)], paths := [(32, x)], groups := [(3, g)],
    lanes := ls } }

/-- A path UP that has received an epoch. -/
def wPath : PathSt := { st := 2, rxEpoch := some 0 }

/-- A launch that runs on tile 0, at this place of its program. -/
def wLane (pos : Nat) : LaneRun := { gix := 3, rank := 0, sched := 0, lseq := 4, step := 2, base := 0, tds := [], pos := pos }

/-- A broadcast's request over FP32, of no windows of its own (operands are buffers). -/
def wRq (op : Nat) : Nat := op + 1 <<< 6 + 5 <<< 38 + 64 <<< 43 + 32 <<< 64 + 1 <<< 106

/-- Tile 0 at the one entry of a program. -/
def wAt (op e : Nat) (l : LaneRun) : State := wFab wPath (wGrp [wRq op] [(0, [e, e, 0])]) [(0, l)]

/-- A frame of node 2 at port 0. -/
def wHead (typ pseq : Nat) (f : UFrame) (body tag : List Byte) : RxHead :=
  { port := 0, pn := 1, hdr := uctHeader { src := 2, dst := 1, port := 0, epoch := 0, pseq := pseq } typ 0 body.length f, body := body,
    tag := tag }

/-- A frame of node 2 without group, body and tag. -/
def wHd (typ : Nat) : RxHead := wHead typ 0 { typ := typ, group := 9 } [] []

/-- The state that a message in the queue reaches. -/
def wMsg (f : UFrame) (s : State) : State := { s with fb := { s.fb with msgs := [f] } }

/-- A frame of rank 1 for rank 0 of the running launch. -/
def wFrame (typ : Nat) (body : List Byte) : UFrame :=
  { typ := typ, group := 9, step := 2, lseq := 4, srcRank := 1, dstRank := 0, xtag := 7, body := body }

/-- A CTRL message of rank 1. -/
def wCtrl (c lseq : Nat) (body : List Byte) : UFrame :=
  { typ := 5, group := 9, step := 2, lseq := lseq, srcRank := 1, dstRank := 0, ctype := c, body := body }

/-- A CTRL message without fields or body. -/
def wCtrl0 (c : Nat) : UFrame := { typ := 5, group := 9, ctype := c }

/-- Power on, stack 0, near 0, host port 0 and compute die 0 in RUN, this memory. -/
def wMem (m : MemSt) : State :=
  let s := [UnitId.stack 0, .near 0, .hport 0, .cdie 0, .iodie 0, .link 0, .link 1, .link 2, .link 3, .link 4, .link 5].foldl (fun s u => unitSet s u { state := .run }) (wRuns wPart {})
  { s with mm := m, pw := { s.pw with on := true } }

/-- The same with one pseudo-channel of stack 0. -/
def wPc (p : PcSt) : State := wMem { pcs := [(512, p)] }

/-- A far block with a dirty line of its first metadata level. -/
def wFar (b : FarBlock) : State := wMem { far := [(0, b)] }

/-- An HBM frame in a state. -/
def wFrm (f : Frame) (p : Map PcSt) : State := wMem { frames := [(2 ^ 26 + 5, f)], bytes := [(2 ^ 42 + 327680, 7)], pcs := p }

/-- Host port 0 with one VF, whose function is f; context 0 is the VF's, an SPDM session stands on the port. -/
def wHost (f : Func) (p : HPort) : State :=
  let s := wMem {}
  { s with
    pn := { s.pn with perst0 := true },
    ks := { s.ks with sessions := [{ id := 1, ctx := 0, active := true, spdm := true, doe := some 0 }] },
    rg := { s.rg with
      funcs := [(0, { mse := true, bme := true }), (2, f)], ports := [(0, p)],
      ctxs := [(0, { st := .active, port := 0, vf := some 0 })] } }

/-- A host port with one VF enabled. -/
def wVfs : HPort := { numVfs := 1, vfEn := true, secure := [0, 2] }

/-- An entry of an operation for context 3, with its payload from byte 0x20 on. -/
def wEnt (opc pl : Nat) : List Byte := leBytes 64 (opc + 3 <<< 32 + pl <<< 256)

/-- A command ready to execute. -/
def wCmdR (opc pl : Nat) : QCmd := { entry := wEnt opc pl, pobj := some 7 }

/-- A queue with room, holding this command. -/
def wQueue (k : Option QCmd) : Queue := { sqOff := 0, sqLog2 := 4, cq := { off := 4096, log2 := 4 }, cmd := k }

/-- The admin ring with a command, context 3 ACTIVE with handle 5 on object 7, which is x. -/
def wRing (k : Option QCmd) (x : Obj) : State :=
  let s := wHost { mse := true, bme := true } { wVfs with speed := 4, numVfs := 4 }
  { s with
    mm := { s.mm with frames := [(2 ^ 26 + 5, { st := 1, owner := 3 }), (2 ^ 26 + 9, { st := 4, pool := 1 })] },
    ks := { s.ks with slots := [(tenantSlot 3 4, { ktype := 3, attr := 0xFF, kgen := 1 })] },
    fw := { s.fw with mgmt := 1, runMgmt := some { wImage with numvers := [1] } },
    rg := { s.rg with
      queues := [(0, wQueue k)],
      objs := [(7, x)],
      ctxs := [(0, { st := .active }), (3, { st := .active, handles := [(5, { gen := 1, obj := some 7, count := 2, signal := true })] })] } }

/-- An object of context 3 of this type. -/
def wObj (typ : Nat) : Obj := { typ := typ, owner := 3, ownerH := 5, base := 0, size := 655360, value := 4 }

/-- The admin ring about to run a command. -/
def wRun1 (opc pl : Nat) (typ : Nat) : State := wRing (some (wCmdR opc pl)) (wObj typ)

/-- A ring with an entry in its window and none taken. -/
def wSent (bs : List Byte) : State :=
  let s := wRing none (wObj 2)
  { winWrite s 0 0 bs with rg := { (winWrite s 0 0 bs).rg with queues := [(0, { wQueue none with tail := 1 })] } }

/-- The function's DMA windows, the port's, the partition's and the frames' changes of that state. -/
def wCtxs (c : Map Ctx) (s : State) : State := { s with rg := { s.rg with ctxs := c } }

/-- That state with this memory. -/
def wMm (m : MemSt) (s : State) : State := { s with mm := m }

/-- That state with these partitions. -/
def wParts (p : Map Part) (s : State) : State := { s with tl := { s.tl with parts := p } }

/-- HBM frame 5, owned by context 3 and mapped by it at 0, and these bytes in it. -/
def wMapped (bs : List Byte) : MemSt :=
  { frames := [(2 ^ 26 + 5, { st := 1, owner := 3, bind := some { kslot := 4, ctx := 3, kgen := 1 } })],
    ptes := [(pteKey 3 0, 3 + 1 <<< 2 + 4 <<< 4 + 5 <<< 16)], bytes := writeBytes [] (2 ^ 42 + 327680) bs }

/-- A registered shard of context 3. -/
def wShard (frozen : Bool) : Shard := { scratch := false, tile := 0, dst := 0, len := 64, frozen := frozen, digest := [1] }

/-- A ring's state with that shard. -/
def wShards (s : State) (f : Bool) : State := { s with rg := { s.rg with shards := [(shardKey 3 1, wShard f)], shardCfg := 0x40 } }

/-- Key slots of context 3 that its sealed images need. -/
def wKeyed (s : State) : State :=
  { s with ks := { s.ks with slots := [(tenantSlot 3 2, { ktype := 1, attr := 0x3F, kgen := 1 }),
    (tenantSlot 3 3, { ktype := 1, attr := 0x3F, kgen := 1 }), (tenantSlot 3 4, { ktype := 1, attr := 0x3F, kgen := 1 }),
    (tenantSlot 3 6, { ktype := 3, attr := 4, kgen := 1 }), (deviceSlot 9, { ktype := 3, attr := 4 })] } }

/-- DMA windows of PF0. -/
def wWins (s : State) : State :=
  { s with rg := { s.rg with funcs := [(0, { mse := true, bme := true, wins := [(0, { write := true, base := 0, size := 2 ^ 20 })] })] } }

/-- A session over PF0's mailbox. -/
def wSess (spdm active : Bool) : Session := { id := 5, spdm := spdm, ctx := 0, doe := some 0, active := active }

/-- PF0's mailbox with sessions, at a stage of its SPDM connection, with the AK. -/
def wDoe (xs : List Session) (stage : Nat) : State :=
  let s := wKeyed (wRing none (wObj 2))
  { s with ks := { s.ks with sessions := xs, spdmCon := [(0, stage)] } }

/-- A life-cycle block. -/
def wLc (x : LcSt) : State :=
  let s := unitSet wUp io0 { state := .run }
  { s with ks := { s.ks with lc := x } }

/-- Queue 1 of context 3 with a command, its keys, its first page and a window. -/
def wTen (k : QCmd) : State :=
  let s := wMm (wMapped [9]) (wKeyed (wWins (wRing none (wObj 2))))
  { s with rg := { s.rg with queues := s.rg.queues ++ [(193, wQueue (some k))] } }

/-- A ring about to run a firmware command. -/
def wFwq (opc pl : Nat) (f : FwSt) : State :=
  let s := wRun1 opc pl 2
  { s with fw := { f with mgmt := 1 } }

/-- Those commands once their reads of the host are answered. -/
def wBusy (opc pl : Nat) : QCmd := { wCmdR opc pl with st := .busy, job := .dma }

/-- The same as a state. -/
def wFwb (opc pl : Nat) (f : FwSt) : State :=
  let s := wRing (some (wBusy opc pl)) (wObj 2)
  { s with fw := { f with mgmt := 1 } }

/-- A boot under way. -/
def wBoot (f : FwSt) : State := { wUp with fw := { f with booting := true } }

/-- Power, meter and pins of the state after reset. -/
def wPw (p : PowerSt) : State := { wUp with pw := p }

/-- With this meter. -/
def wMt (m : MeterSt) : State := { wUp with mt := m }

/-- With these pins. -/
def wPn (p : PinsSt) : State := { wUp with pn := p }

/-- Tile 0 writes to HBM controller 0 while the frame's pseudo-channel moves the row it names. -/
def wMoving : Req × State :=
  let m := wMapped [9]
  let s := wMm { m with pcs := [(pcKey (2 ^ 26 + 5), { pending := [rowOf (2 ^ 26 + 5) 0] })] } wUp
  ({ src := .tile 0, tag := 3, tgt := .stack 0, reqInc := 0, tgtInc := 0, ctx := 3, op := .write [1] },
   unitSet (unitSet (unitSet s (.tile 0) { state := .run }) (.stack 0) { state := .run }) (.cdie 0) { state := .run })

/-- A frame of node 2 at port 0 whose body is sealed with a group's key. -/
def wSealed (key : List Byte) (f : UFrame) : RxHead :=
  let body := wireBody f
  let b := wHead f.typ 0 f body []
  let q := gcmSeal key (payloadIv b.node b.port b.pctr) (leBytes 64 b.hdr) body
  { b with body := q.1, tag := q.2 }

/-- A group key. -/
def wKey : List Byte := List.replicate 32 0

/-- A group descriptor of two members and no launch request. -/
def wGroupDesc : List Byte :=
  leBytes 128 (9 + 2 <<< 32 + 1 <<< 56 + 1 <<< 64 + 1 <<< 80 + 4 <<< 88 + 1 <<< 512 + 2 <<< 576)

/-- A ring about to run a command on an object of the first page, which holds these bytes. -/
def wPage (opc pl typ size : Nat) (bs : List Byte) : State :=
  wMm (wMapped bs) (wRing (some (wCmdR opc pl)) { wObj typ with size := size })

/-- An attested session of context 3 with its import key, and queue 1 about to import a wrapped key. -/
def wImport (pl : Nat) (bs : List Byte) : State :=
  let s := wMm (wMapped bs) (wTen (wCmdR 0x3A pl))
  { s with ks := { s.ks with sessions := [{ id := 1, ctx := 3, active := true, kimp := List.replicate 32 0 }] } }

theorem witness_StepRunsFront :
    ∃ (s : State), s.pending = [] :=
  ⟨wUp, by decide +kernel⟩

theorem witness_UnitCommandRefusals :
    (∃ (u : UnitId) (w : Writer) (s : State), ctlReaches s u w = false) ∧
    (∃ (u : UnitId) (w : Writer) (s : State), ctlReaches s u w = true ∧ (unitAt s u).cmdBusy = true) ∧
    (∃ (c : UCmd) (u : UnitId) (w : Writer) (s : State), ctlReaches s u w = true ∧ (unitAt s u).cmdBusy = false ∧ bitOf (unitCmds u) (cmdBit c) = false) ∧
    (∃ (c : UCmd) (u : UnitId) (w : Writer) (inc : Half) (s : State), ctlReaches s u w = true ∧ (unitAt s u).cmdBusy = false ∧ bitOf (unitCmds u) (cmdBit c) = true ∧ inc ≠ (unitAt s u).inc) ∧
    (∃ (c : UCmd) (u : UnitId) (w : Writer) (inc : Half) (s : State), ctlAccepted s u w inc c = true ∧ (c = .reset ∨ c = .sleep ∨ c = .retire) ∧ ownedRunning s u = true) ∧
    (∃ (c : UCmd) (u : UnitId) (w : Writer) (inc : Half) (s : State), ctlAccepted s u w inc c = true ∧ startIllegal (unitAt s u).state c = true ∧ (c = .quiesce ∨ c = .resume ∨ ownedRunning s u = false)) :=
  ⟨⟨(.tile 512), .pf0, wUp, by decide +kernel⟩,
   ⟨(.tile 0), .pf0, (wUnit (.tile 0) { state := .run, cmdBusy := true }), by decide +kernel⟩,
   ⟨.retire, .package, .pf0, wUp, by decide +kernel⟩,
   ⟨.retire, (.tile 0), .mgmt, 1, wUp, by decide +kernel⟩,
   ⟨.reset, (.tile 0), .pf0, 0, (wRuns wPart {}), by decide +kernel⟩,
   ⟨.sleep, (.tile 0), .pf0, 0, (wUnit (.tile 0) { state := .run }), by decide +kernel⟩⟩

theorem witness_UnitCommandsAct :
    (∃ (u : UnitId) (w : Writer) (inc : Half) (s : State), ctlAccepted s u w inc .quiesce = true ∧ (unitAt s u).state = .run) ∧
    (∃ (u : UnitId) (w : Writer) (inc : Half) (s : State), ctlAccepted s u w inc .resume = true ∧ (unitAt s u).state = .quiesced ∧ calmUnits s = true ∧ partsWf s = true ∧ heldElse s u = false) ∧
    (∃ (u : UnitId) (w : Writer) (inc : Half) (s : State), ctlAccepted s u w inc .resume = true ∧ (unitAt s u).state = .quiesced ∧ calmUnits s = true ∧ partsWf s = true ∧ heldElse s u = true) ∧
    (∃ (u : UnitId) (w : Writer) (inc : Half) (s : State), ctlAccepted s u w inc .resume = true ∧ (unitAt s u).state = .sleep) ∧
    (∃ (u : UnitId) (w : Writer) (inc : Half) (s : State), ctlAccepted s u w inc .reset = true ∧ ownedRunning s u = false ∧ ((unitAt s u).state = .off ∨ (unitAt s u).state = .sleep ∨ (unitAt s u).state = .run ∨ (unitAt s u).state = .quiesced)) ∧
    (∃ (u : UnitId) (w : Writer) (inc : Half) (s : State), ctlAccepted s u w inc .sleep = true ∧ ownedRunning s u = false ∧ (unitAt s u).state = .quiesced ∧ calmUnits s = true ∧ idleBelow s u = true) ∧
    (∃ (u : UnitId) (d : UnitId) (w : Writer) (inc : Half) (s : State), ctlAccepted s u w inc .sleep = true ∧ ownedRunning s u = false ∧ (unitAt s u).state = .quiesced ∧ d ∈ below s u ∧ ownBusy s u d = true) ∧
    (∃ (u : UnitId) (w : Writer) (inc : Half) (s : State), ctlAccepted s u w inc .retire = true ∧ ownedRunning s u = false ∧ ((unitAt s u).state = .off ∨ (unitAt s u).state = .sleep ∨ (unitAt s u).state = .quiesced) ∧ calmUnits s = true ∧ idleBelow s u = true) :=
  ⟨⟨(.tile 0), .pf0, 0, (wUnit (.tile 0) { state := .run }), by decide +kernel⟩,
   ⟨(.tile 0), .pf0, 0, (wUnit (.tile 0) { state := .quiesced }), by decide +kernel⟩,
   ⟨(.tile 0), .pf0, 0, (let s := wRuns { wPart with holds := [0x100] } {}; unitSet s (.tile 0) { state := .quiesced }), by decide +kernel⟩,
   ⟨(.tile 0), .pf0, 0, (wUnit (.tile 0) { state := .sleep }), by decide +kernel⟩,
   ⟨(.tile 0), .pf0, 0, wUp, by decide +kernel⟩,
   ⟨(.tile 0), .pf0, 0, (wUnit (.tile 0) { state := .quiesced }), by decide +kernel⟩,
   ⟨(.cluster 0), (.tile 3), .pf0, 0, (unitSet (wUnit (.cluster 0) { state := .quiesced }) (.tile 3) { state := .quiescing, cmdBusy := true, cmd := some .quiesce, root := 0x203 }), by decide +kernel⟩,
   ⟨(.tile 0), .mgmt, 0, wUp, by decide +kernel⟩⟩

theorem witness_UnitCommandsAct_b :
    (∃ (u : UnitId) (d : UnitId) (w : Writer) (inc : Half) (s : State), ctlAccepted s u w inc .retire = true ∧ ownedRunning s u = false ∧ ((unitAt s u).state = .off ∨ (unitAt s u).state = .sleep ∨ (unitAt s u).state = .quiesced) ∧ d ∈ below s u ∧ ownBusy s u d = true) ∧
    (∃ (u : UnitId) (w : Writer) (inc : Half) (s : State), ctlAccepted s u w inc .retire = true ∧ ownedRunning s u = false ∧ (unitAt s u).state = .run) :=
  ⟨⟨(.cluster 0), (.tile 3), .mgmt, 0, (unitSet (wUnit (.cluster 0) { state := .quiesced }) (.tile 3) { state := .quiescing, cmdBusy := true, cmd := some .quiesce, root := 0x203 }), by decide +kernel⟩,
   ⟨(.tile 0), .mgmt, 0, (wUnit (.tile 0) { state := .run }), by decide +kernel⟩⟩

theorem witness_UnitReports :
    (∃ (u : UnitId) (s : State), (unitAt s u).state = .quiescing ∧ drained s u = true ∧ descendantsQuiet s u = true ∧ notInRun s u = true ∧ (unitAt s u).cmd = some .quiesce ∧ (unitAt s u).waiting = []) ∧
    (∃ (u : UnitId) (s : State), (unitAt s u).state = .quiescing ∧ drained s u = true ∧ descendantsQuiet s u = true ∧ notInRun s u = true ∧ (unitAt s u).cmd = some .retire ∧ (unitAt s u).root = pageOf u ∧ calmUnits s = true ∧ idleBelow s u = true) ∧
    (∃ (n : ℕ) (s : State) (p : Part) (r : RunRec), partOf s n = some p ∧ p.run = some r ∧ r.stop = none ∧ p.bar = none) ∧
    (∃ (n : ℕ) (s : State) (p : Part) (r : RunRec), (unitAt s (.tile n)).state = .quiescing ∧ drained s (.tile n) = true ∧ partsWf s = true ∧ partOf s n = some p ∧ p.run = some r ∧ r.stop = none ∧ p.bar.isSome = true ∧ p.preparing = false ∧ substDue s p = false ∧ partDrained s p = true ∧ calmUnits s = true ∧ (∀ v ∈ partTiles p, (unitAt s (.tile v)).cmd ≠ some .retire)) ∧
    (∃ (u : UnitId) (s : State), (unitAt s u).state = .resetting ∧ (unitAt s u).root = pageOf u ∧ (unitAt s u).cmdBusy = true ∧ calmUnits s = true) ∧
    (∃ (c : ℕ) (s : State), (unitAt s (.spare c)).state = .resetting ∧ (unitAt s (.spare c)).root ≠ pageOf (.spare c) ∧ (unitAt s (.spare c)).waiting = []) ∧
    (∃ (u : UnitId) (s : State), (unitAt s u).state = .sleep ∧ (unitAt s u).cmd = some .resume ∧ (unitAt s u).root = pageOf u ∧ parentWakes s u = false ∧ calmUnits s = true) ∧
    (∃ (u : UnitId) (s : State), (unitAt s u).state = .sleep ∧ (unitAt s u).cmd = some .resume ∧ (unitAt s u).root ≠ pageOf u ∧ parentWakes s u = false ∧ (unitAt s u).waiting = []) :=
  ⟨⟨(.tile 0), (wUnit (.tile 0) { state := .quiescing, cmd := some .quiesce, cmdBusy := true, root := 0x200 }), by decide +kernel⟩,
   ⟨(.tile 0), (wUnit (.tile 0) { state := .quiescing, cmd := some .retire, cmdBusy := true, root := 0x200 }), by decide +kernel⟩,
   ⟨0, (wRuns wPart {}), wPart, wRun, by decide +kernel⟩,
   ⟨0, (unitSet (wRuns { wPart with bar := some (.barrier, 0) } {}) (.tile 0) { state := .quiescing, cmd := some .quiesce, cmdBusy := true, root := 0x200 }), { wPart with bar := some (.barrier, 0) }, wRun, by decide +kernel⟩,
   ⟨(.tile 0), (wUnit (.tile 0) { state := .resetting, cmd := some .reset, cmdBusy := true, root := 0x200 }), by decide +kernel⟩,
   ⟨0, (wUnit (.spare 0) { state := .resetting, cmdBusy := true, root := 0x100 }), by decide +kernel⟩,
   ⟨(.tile 0), (wUnit (.tile 0) { state := .sleep, cmd := some .resume, cmdBusy := true, root := 0x200 }), by decide +kernel⟩,
   ⟨(.tile 0), (wUnit (.tile 0) { state := .sleep, cmd := some .resume, cmdBusy := true, root := 0x100 }), by decide +kernel⟩⟩

theorem witness_UnitReports_b :
    (∃ (u : UnitId) (s : State), (unitAt s u).state = .sleep ∧ parentWakes s u = true) ∧
    (∃ (u : UnitId) (s : State), present s.hw u = true ∧ isService u = false ∧ (unitAt s u).state ≠ .off ∧ (unitAt s u).state ≠ .retired ∧ calmUnits s = true) ∧
    (∃ (u : UnitId) (s : State), (unitAt s u).state = .quiescing ∧ (unitAt s u).root = pageOf u ∧ (unitAt s u).cmdBusy = true ∧ calmUnits s = true) :=
  ⟨⟨(.tile 0), (unitSet (wUnit (.tile 0) { state := .sleep, cmd := some .resume, cmdBusy := true, root := 0x100 }) (.cluster 0) { state := .sleep, cmd := some .resume, cmdBusy := true, root := 0x100 }), by decide +kernel⟩,
   ⟨(.tile 0), (wUnit (.tile 0) { state := .run }), by decide +kernel⟩,
   ⟨(.tile 0), (wUnit (.tile 0) { state := .quiescing, cmd := some .quiesce, cmdBusy := true, root := 0x200 }), by decide +kernel⟩⟩

theorem witness_UnitEventRegisters :
    (∃ (u : UnitId) (w : Writer) (s : State), ctlReaches s u w = true ∧ pageWritable u = true) ∧
    (∃ (u : UnitId) (w : Writer) (s : State), ctlReaches s u w = true ∧ pageWritable u = true) ∧
    (∃ (u : UnitId) (w : Writer) (s : State), (ctlReaches s u w = false ∨ pageWritable u = false)) ∧
    (∃ (u : UnitId) (w : Writer) (s : State), (ctlReaches s u w = false ∨ pageWritable u = false)) ∧
    (∃ (u : UnitId) (w : Writer) (s : State), ctlReaches s u w = true ∧ pageWritable u = true) :=
  ⟨⟨(.tile 0), .pf0, (wUnit (.tile 0) { state := .run, evt := 9 }), by decide +kernel⟩,
   ⟨(.tile 0), .pf0, (wUnit (.tile 0) { state := .run, evt := 9 }), by decide +kernel⟩,
   ⟨(.tile 512), .pf0, wUp, by decide +kernel⟩,
   ⟨(.service 2), .pf0, (wUnit (.service 2) { state := .run, err3 := 0x80000001 }), by decide +kernel⟩,
   ⟨(.tile 0), .pf0, (wUnit (.tile 0) { state := .run, err3 := 0x80000001 }), by decide +kernel⟩⟩

theorem witness_RequestsDecided :
    (∃ (r : Req) (s : State) (st : ℕ), reqReaches s r = true ∧ joinedTo s r.txn r.tgt = false ∧ reqRefusal s r = some st) ∧
    (∃ (r : Req) (s : State), reqReaches s r = true ∧ reqRefusal s r = none ∧ r.op = .message) ∧
    (∃ (r : Req) (s : State), reqReaches s r = true ∧ reqRefusal s r = none ∧ reqWaits (taken s r) r = false) ∧
    (∃ (r : Req) (s : State), reqReaches s r = true ∧ reqRefusal s r = none ∧ reqWaits (taken s r) r = true) ∧
    (∃ (r : Req) (s : State), present s.hw r.src = true ∧ present s.hw r.tgt = true ∧ reqAccepted s r = false ∧ requestSent s r = true ∧ joined s r.src r.tgt = false ∧ r.reqInc = (unitAt s r.src).inc.toNat ∧ outFind s (pageOf r.src) r.tag = none) :=
  ⟨⟨wReq, (wAtTgt .quiesced), stBusy, by decide +kernel⟩,
   ⟨wReq, (wOuts wOut []), by decide +kernel⟩,
   ⟨wReq, (wOuts wOut []), by decide +kernel⟩,
   ⟨wMoving.1, wMoving.2, by decide +kernel⟩,
   ⟨{ wReq with tgt := .near 3 }, { wOuts wOut [] with un := { (wOuts wOut []).un with outst := [], tab := [] } }, by decide +kernel⟩⟩

theorem witness_RequestsEnd :
    (∃ (u : UnitId) (tag : ℕ) (tgt : UnitId) (y : Reply) (o : Outst) (s : State), y ∈ s.un.replies ∧ y.src = pageOf u ∧ y.tag = tag ∧ y.reqInc = (unitAt s u).inc ∧ y.tgt = pageOf tgt ∧ joined s u tgt = true ∧ outFind s (pageOf u) tag = some o ∧ o.txn = none) ∧
    (∃ (u : UnitId) (tag : ℕ) (tgt : UnitId) (y : Reply) (s : State), y ∈ s.un.replies ∧ y.src = pageOf u ∧ y.tag = tag ∧ y.tgt = pageOf tgt ∧ joined s u tgt = true ∧ (outFind s (pageOf u) tag = none ∨ y.reqInc ≠ (unitAt s u).inc)) ∧
    (∃ (reqInc : Half) (k : ℕ) (s : State), (funcAt s k).finc ≠ reqInc) ∧
    (∃ (u : UnitId) (tag : ℕ) (o : Outst) (s : State), outFind s (pageOf u) tag = some o ∧ o.waiting = true ∧ tag < 65536) ∧
    (∃ (u : UnitId) (tag : ℕ) (o : Outst) (tgt : UnitId) (s : State), outFind s (pageOf u) tag = some o ∧ o.soft = false ∧ unitOfPage o.tgt = some tgt ∧ (unitAt s u).err3.getLsbD 31 = false) ∧
    (∃ (u : UnitId) (tag : ℕ) (o : Outst) (s : State), outFind s (pageOf u) tag = some o ∧ o.soft = true) :=
  ⟨⟨(.tile 0), 3, (.tile 1), wRep, wOut, (wOuts wOut [wRep]), by decide +kernel⟩,
   ⟨(.tile 0), 3, (.tile 1), wRep, (wOuts { wOut with tag := 4 } [wRep]), by decide +kernel⟩,
   ⟨1, 0, wUp, by decide +kernel⟩,
   ⟨(.tile 0), 3, { wOut with waiting := true }, (wOuts { wOut with waiting := true } []), by decide +kernel⟩,
   ⟨(.tile 0), 3, wOut, (.tile 1), (wOuts wOut []), by decide +kernel⟩,
   ⟨(.tile 0), 3, { wOut with soft := true }, (wOuts { wOut with soft := true } []), by decide +kernel⟩⟩

theorem witness_TransactionMembers :
    (∃ (tid : ℕ) (u : UnitId) (inc : Half) (x : Txn) (s : State), mapFind s.un.txns tid = some x ∧ txnLive x = true ∧ memberOf s tid u = some .invited ∧ msgHeld s x u = false ∧ takesMessage s u inc false = true) ∧
    (∃ (tid : ℕ) (u : UnitId) (inc : Half) (x : Txn) (s : State), mapFind s.un.txns tid = some x ∧ txnLive x = true ∧ memberOf s tid u = some .invited ∧ msgHeld s x u = false ∧ abortable s x = true ∧ (unitAt s u).state = .quiescing ∧ inc = (unitAt s u).inc) ∧
    (∃ (tid : ℕ) (u : UnitId) (inc : Half) (x : Txn) (s : State), mapFind s.un.txns tid = some x ∧ x.phase = .preparing ∧ memberOf s tid u = some .enrolled ∧ msgHeld s x u = false ∧ takesMessage s u inc true = true) ∧
    (∃ (tid : ℕ) (u : UnitId) (inc : Half) (x : Txn) (s : State), mapFind s.un.txns tid = some x ∧ x.phase = .preparing ∧ memberOf s tid u = some .enrolled ∧ msgHeld s x u = false ∧ abortable s x = true ∧ (unitAt s u).state = .run ∧ inc ≠ (unitAt s u).inc) ∧
    (∃ (tid : ℕ) (u : UnitId) (x : Txn) (s : State), mapFind s.un.txns tid = some x ∧ msgHeld s x u = true) ∧
    (∃ (tid : ℕ) (u : UnitId) (x : Txn) (m : MemberSt) (s : State), mapFind s.un.txns tid = some x ∧ x.phase = .aborted ∧ memberOf s tid u = some m ∧ m ≠ .discarded ∧ abortHeld s x u = false) ∧
    (∃ (tid : ℕ) (u : UnitId) (x : Txn) (s : State), mapFind s.un.txns tid = some x ∧ abortHeld s x u = true) ∧
    (∃ (tid : ℕ) (u : UnitId) (x : Txn) (s : State), mapFind s.un.txns tid = some x ∧ x.queries.contains (pageOf u) = true ∧ msgRoute s x u = true ∧ abortable s x = true ∧ x.record = true ∧ x.kind ≠ 3 ∧ memberOf s tid u = some .counted) :=
  ⟨⟨5, (.tile 0), 0, (wTxn 1 .open .invited .enrolled), (wTxns (wTxn 1 .open .invited .enrolled) wPart2), by decide +kernel⟩,
   ⟨5, (.tile 0), 0, (wTxn 1 .open .invited .enrolled), (unitSet (wTxns (wTxn 1 .open .invited .enrolled) wPart2) (.tile 0) { state := .quiescing }), by decide +kernel⟩,
   ⟨5, (.tile 0), 0, (wTxn 1 .preparing .enrolled .enrolled), (wTxns (wTxn 1 .preparing .enrolled .enrolled) wPart2), by decide +kernel⟩,
   ⟨5, (.tile 0), 1, (wTxn 1 .preparing .enrolled .enrolled), (wTxns (wTxn 1 .preparing .enrolled .enrolled) wPart2), by decide +kernel⟩,
   ⟨5, (.tile 0), { (wTxn 1 .preparing .enrolled .enrolled) with coord := 0x412 }, (wTxns { (wTxn 1 .preparing .enrolled .enrolled) with coord := 0x412 } wPart2), by decide +kernel⟩,
   ⟨5, (.tile 0), (wTxn 1 .aborted .prepared .discarded), .prepared, (wTxns (wTxn 1 .aborted .prepared .discarded) wPart2), by decide +kernel⟩,
   ⟨5, (.tile 0), { (wTxn 1 .aborted .prepared .enrolled) with coord := 0x412 }, (wTxns { (wTxn 1 .aborted .prepared .enrolled) with coord := 0x412 } wPart2), by decide +kernel⟩,
   ⟨5, (.tile 0), { wTxn 1 .committed .counted .counted with queries := [0x200] }, (wTxns { wTxn 1 .committed .counted .counted with queries := [0x200] } wPart2), by decide +kernel⟩⟩

theorem witness_TransactionMembers_b :
    (∃ (tid : ℕ) (u : UnitId) (x : Txn) (s : State), mapFind s.un.txns tid = some x ∧ x.queries.contains (pageOf u) = true ∧ msgRoute s x u = true ∧ abortable s x = true ∧ x.record = false ∧ x.phase = .preparing ∧ (memberOf s tid u).isSome = true) ∧
    (∃ (tid : ℕ) (x : Txn) (s : State), mapFind s.un.txns tid = some x ∧ abortable s x = false) :=
  ⟨⟨5, (.tile 0), { wTxn 1 .preparing .counted .counted with queries := [0x200] }, (wTxns { wTxn 1 .preparing .counted .counted with queries := [0x200] } wPart2), by decide +kernel⟩,
   ⟨5, { wTxn 1 .preparing .counted .counted with queries := [0x200] }, (wTxns { wTxn 1 .preparing .counted .counted with queries := [0x200] } { wPart2 with prep := some (1, 4), retained := true }), by decide +kernel⟩⟩

theorem witness_TransactionDecision :
    (∃ (tid : ℕ) (u : UnitId) (x : Txn) (s : State), mapFind s.un.txns tid = some x ∧ x.phase = .preparing ∧ memberOf s tid u = some .prepared ∧ msgRoute s x u = true ∧ coordTakes s x = true ∧ (othersCounted x u = false ∨ x.kind = 2)) ∧
    (∃ (tid : ℕ) (u : UnitId) (x : Txn) (s : State), mapFind s.un.txns tid = some x ∧ x.phase = .preparing ∧ (memberOf s tid u = some .prepared ∨ memberOf s tid u = some .refused) ∧ msgRoute s x u = true ∧ coordTakes s x = false) ∧
    (∃ (tid : ℕ) (u : UnitId) (x : Txn) (p : Part) (s : State), mapFind s.un.txns tid = some x ∧ x.phase = .preparing ∧ memberOf s tid u = some .prepared ∧ msgRoute s x u = true ∧ coordTakes s x = true ∧ othersCounted x u = true ∧ x.kind = 1 ∧ partsWf s = true ∧ partOf s x.key = some p ∧ coordGate p = 0 ∧ x.merged = true ∧ (p.groupEn = false ∨ p.catchUp = true)) ∧
    (∃ (tid : ℕ) (u : UnitId) (x : Txn) (p : Part) (s : State), mapFind s.un.txns tid = some x ∧ x.phase = .preparing ∧ memberOf s tid u = some .prepared ∧ msgRoute s x u = true ∧ coordTakes s x = true ∧ othersCounted x u = true ∧ x.kind = 1 ∧ partsWf s = true ∧ partOf s x.key = some p ∧ coordGate p ≠ 0) ∧
    (∃ (tid : ℕ) (u : UnitId) (x : Txn) (s : State), mapFind s.un.txns tid = some x ∧ x.phase = .preparing ∧ memberOf s tid u = some .refused ∧ msgRoute s x u = true ∧ coordTakes s x = true) ∧
    (∃ (tid : ℕ) (u : UnitId) (x : Txn) (s : State), mapFind s.un.txns tid = some x ∧ x.phase = .committed ∧ memberOf s tid u = some .counted ∧ x.kind ≠ 3 ∧ msgHeld s x u = false ∧ takesMessage s u (memberInc x (pageOf u)) true = true) ∧
    (∃ (tid : ℕ) (u : UnitId) (x : Txn) (s : State), mapFind s.un.txns tid = some x ∧ x.phase = .committed ∧ memberOf s tid u = some .counted ∧ x.kind ≠ 3 ∧ msgHeld s x u = false ∧ ((unitAt s u).state = .off ∨ (unitAt s u).state = .retired)) ∧
    (∃ (tid : ℕ) (u : UnitId) (x : Txn) (s : State), mapFind s.un.txns tid = some x ∧ x.phase = .committed ∧ memberOf s tid u = some .applied ∧ x.kind ≠ 3 ∧ msgRoute s x u = true ∧ coordTakes s x = true) :=
  ⟨⟨5, (.tile 0), (wTxn 1 .preparing .prepared .enrolled), (wTxns (wTxn 1 .preparing .prepared .enrolled) wPart2), by decide +kernel⟩,
   ⟨5, (.tile 0), { (wTxn 1 .preparing .prepared .enrolled) with msgInc := 3 }, (wTxns { (wTxn 1 .preparing .prepared .enrolled) with msgInc := 3 } wPart2), by decide +kernel⟩,
   ⟨5, (.tile 0), (wTxn 1 .preparing .prepared .counted), { wPart2 with preparing := true }, (wTxns (wTxn 1 .preparing .prepared .counted) { wPart2 with preparing := true }), by decide +kernel⟩,
   ⟨5, (.tile 0), (wTxn 1 .preparing .prepared .counted), { wPart2 with preparing := true, monBad := true }, (wTxns (wTxn 1 .preparing .prepared .counted) { wPart2 with preparing := true, monBad := true }), by decide +kernel⟩,
   ⟨5, (.tile 0), (wTxn 1 .preparing .refused .counted), (wTxns (wTxn 1 .preparing .refused .counted) wPart2), by decide +kernel⟩,
   ⟨5, (.tile 0), (wTxn 1 .committed .counted .counted), (wTxns (wTxn 1 .committed .counted .counted) wPart2), by decide +kernel⟩,
   ⟨5, (.tile 0), (wTxn 1 .committed .counted .counted), (unitSet (wTxns (wTxn 1 .committed .counted .counted) wPart2) (.tile 0) { state := .off }), by decide +kernel⟩,
   ⟨5, (.tile 0), (wTxn 1 .committed .applied .acked), (wTxns (wTxn 1 .committed .applied .acked) wPart2), by decide +kernel⟩⟩

theorem witness_TransactionDecision_b :
    (∃ (tid : ℕ) (x : Txn) (s : State), mapFind s.un.txns tid = some x ∧ x.phase = .preparing ∧ x.kind ≠ 4 ∧ (∀ p, x.kind = 1 → partOf s x.key = some p → p.prep = none)) ∧
    (∃ (tid : ℕ) (u : UnitId) (x : Txn) (s : State), mapFind s.un.txns tid = some x ∧ (memberOf s tid u = some .prepared ∨ memberOf s tid u = some .counted) ∧ x.queries.contains (pageOf u) = false) ∧
    (∃ (c : ℕ) (tid : ℕ) (s : State), (substAt s c).phase = .armed ∧ substLive s c tid = true) :=
  ⟨⟨5, (wTxn 2 .preparing .prepared .counted), (wTxns (wTxn 2 .preparing .prepared .counted) wPart2), rfl, rfl, by decide +kernel, fun _ h => absurd h (by decide +kernel)⟩,
   ⟨5, (.tile 0), (wTxn 1 .preparing .prepared .counted), (wTxns (wTxn 1 .preparing .prepared .counted) wPart2), by decide +kernel⟩,
   ⟨0, 6, (wSubst .armed (some 6) .open {}), by decide +kernel⟩⟩

theorem witness_Activation :
    (∃ (s : State) (tid : ℕ), s.fw.phase = 1 ∧ emerg s = false ∧ tidFree s = some tid) ∧
    (∃ (s : State), s.fw.phase = 4 ∧ emerg s = false) ∧
    (∃ (s : State), emerg s = true) ∧
    (∃ (tid : ℕ) (u : UnitId) (x : Txn) (s : State), mapFind s.un.txns tid = some x ∧ x.phase = .preparing ∧ memberOf s tid u = some .prepared ∧ msgRoute s x u = true ∧ coordTakes s x = true ∧ othersCounted x u = true ∧ x.kind = 3 ∧ actChecks s s.fw.nextMgmt = true) ∧
    (∃ (tid : ℕ) (u : UnitId) (x : Txn) (s : State), mapFind s.un.txns tid = some x ∧ x.phase = .preparing ∧ memberOf s tid u = some .prepared ∧ msgRoute s x u = true ∧ coordTakes s x = true ∧ othersCounted x u = true ∧ x.kind = 3 ∧ actChecks s s.fw.nextMgmt = false) ∧
    (∃ (tid : ℕ) (u : UnitId) (x : Txn) (s : State), mapFind s.un.txns tid = some x ∧ x.phase = .committed ∧ memberOf s tid u = some .counted ∧ x.kind = 3 ∧ msgHeld s x u = false ∧ takesSilently s u = true) ∧
    (∃ (tid : ℕ) (u : UnitId) (x : Txn) (s : State), mapFind s.un.txns tid = some x ∧ x.phase = .committed ∧ memberOf s tid u = some .counted ∧ x.kind = 3 ∧ msgHeld s x u = false ∧ (unitAt s u).state = .quiesced ∧ (unitAt s u).cmdBusy = false ∧ switchesByReset s u = false ∧ s.fw.phase = 3 ∧ s.fw.cur = none ∧ ((actSkip s (some x) s.fw.left).filter (fun p => !(s.fw.again.contains p))).head? = some (pageOf u)) ∧
    (∃ (u : UnitId) (s : State), s.fw.phase = 3 ∧ actNext s = none ∧ s.fw.again.contains (pageOf u) = true) :=
  ⟨⟨(wFw { phase := 1, kinds := 2 }), 0, by decide +kernel⟩,
   ⟨(wFw { phase := 4 }), by decide +kernel⟩,
   ⟨{ wFw { phase := 1 } with pw := { wUp.pw with active := 1 } }, by decide +kernel⟩,
   ⟨5, (.hport 0), ((mapFind ((wAct 2 .preparing .prepared .counted .run none)).un.txns 5).getD (wTxn 3 .open .invited .invited)), (wAct 2 .preparing .prepared .counted .run none), by decide +kernel⟩,
   ⟨5, (.hport 0), ((mapFind ({ wAct 2 .preparing .prepared .counted .run (some wImage) with tl := { parts := [(0, { wPart with numver := 7 })] } }).un.txns 5).getD (wTxn 3 .open .invited .invited)), { wAct 2 .preparing .prepared .counted .run (some wImage) with tl := { parts := [(0, { wPart with numver := 7 })] } }, by decide +kernel⟩,
   ⟨5, (.hport 0), ((mapFind ((wAct 3 .committed .counted .counted .off none)).un.txns 5).getD (wTxn 3 .open .invited .invited)), (wAct 3 .committed .counted .counted .off none), by decide +kernel⟩,
   ⟨5, (.hport 0), ((mapFind ((wAct 3 .committed .counted .counted .quiesced none)).un.txns 5).getD (wTxn 3 .open .invited .invited)), (wAct 3 .committed .counted .counted .quiesced none), by decide +kernel⟩,
   ⟨(.stack 0), (wFw { phase := 3, left := [0x400], again := [0x400] }), by decide +kernel⟩⟩

theorem witness_Activation_b :
    (∃ (fresh : Bool) (s : State), (s.fw.mgmt = 1 ∨ s.fw.mgmt = 2) ∧ (fresh = true ∨ s.fw.restarts < 3)) ∧
    (∃ (s : State), (s.fw.mgmt = 1 ∨ s.fw.mgmt = 2) ∧ 3 ≤ s.fw.restarts) ∧
    (∃ (s : State), s.fw.mgmt = 2 ∧ (s.fw.phase < 3 ∨ s.fw.nextMgmt = none)) ∧
    (∃ (s : State), s.fw.mgmt = 2 ∧ 3 ≤ s.fw.phase ∧ s.fw.nextMgmt.isSome = true ∧ s.fw.runMgmt ≠ s.fw.nextMgmt) :=
  ⟨⟨false, (wFw { mgmt := 2, restarts := 2 }), by decide +kernel⟩,
   ⟨(wFw { mgmt := 1, restarts := 3 }), by decide +kernel⟩,
   ⟨(wFw { mgmt := 2 }), by decide +kernel⟩,
   ⟨(wFw { mgmt := 2, phase := 3, nextMgmt := some wImage }), by decide +kernel⟩⟩

theorem witness_Substitution :
    (∃ (c : ℕ) (w : Writer) (ltile : ℕ) (tid : ℕ) (s : State), c < 32 ∧ (w = .mgmt ∨ w = .sec) ∧ blockLive s (.cluster c) = true ∧ substRefusal s c ltile 1 = none ∧ tidFree s = some tid) ∧
    (∃ (c : ℕ) (w : Writer) (ltile : ℕ) (tid : ℕ) (s : State), c < 32 ∧ (w = .mgmt ∨ w = .sec) ∧ blockLive s (.cluster c) = true ∧ substRefusal s c ltile 2 = none ∧ tidFree s = some tid) ∧
    (∃ (c : ℕ) (w : Writer) (ltile : ℕ) (mode : ℕ) (st : ℕ) (s : State), c < 32 ∧ (w = .mgmt ∨ w = .sec) ∧ blockLive s (.cluster c) = true ∧ substRefusal s c ltile mode = some st) ∧
    (∃ (c : ℕ) (w : Writer) (s : State), ((w ≠ .mgmt ∧ w ≠ .sec) ∨ blockLive s (.cluster c) = false)) ∧
    (∃ (c : ℕ) (w : Writer) (tid : ℕ) (s : State), c < 32 ∧ (w = .mgmt ∨ w = .sec) ∧ ((substAt s c).phase = .armed ∨ (substAt s c).phase = .moving) ∧ substLive s c tid = true) ∧
    (∃ (c : ℕ) (p : Part) (s : State), (substAt s c).phase = .armed ∧ partOf s (substLTile c (substAt s c).ltile) = some p ∧ p.bar.isSome = true ∧ p.preparing = false ∧ substVoted s (substAt s c).tid = true ∧ (tileAt s (substLTile c (substAt s c).ltile)).num.ue = []) ∧
    (∃ (c : ℕ) (p : Part) (w : SramWord) (r : List SramWord) (tid : ℕ) (s : State), (substAt s c).phase = .armed ∧ partOf s (substLTile c (substAt s c).ltile) = some p ∧ p.bar.isSome = true ∧ p.preparing = false ∧ substVoted s (substAt s c).tid = true ∧ (tileAt s (substLTile c (substAt s c).ltile)).num.ue = w :: r ∧ substLive s c tid = true) ∧
    (∃ (c : ℕ) (s : State), (substAt s c).phase = .armed ∧ substVoted s (substAt s c).tid = false) :=
  ⟨⟨0, .mgmt, 0, 0, { wSubst .idle none .open {} with un := { (wSubst .idle none .open {}).un with txns := [] } }, by decide +kernel⟩,
   ⟨31, .sec, 15, 0, (wUnit (.cluster 31) { state := .run }), by decide +kernel⟩,
   ⟨0, .mgmt, 0, 2, stOwned, (wSubst .idle none .open {}), by decide +kernel⟩,
   ⟨0, .pf0, wUp, by decide +kernel⟩,
   ⟨0, .mgmt, 6, (wSubst .moving (some 6) .preparing {}), by decide +kernel⟩,
   ⟨0, { wPart with bar := some (.barrier, 0) }, (wSubst .armed (some 6) .preparing {}), by decide +kernel⟩,
   ⟨0, { wPart with bar := some (.barrier, 0) }, (.scratch 0), [], 6, (wSubst .armed (some 6) .preparing { num := { ue := [.scratch 0] } }), by decide +kernel⟩,
   ⟨0, (wSubst .armed (some 6) .open {}), by decide +kernel⟩⟩

theorem witness_Substitution_b :
    (∃ (c : ℕ) (tid : ℕ) (x : Txn) (s : State), (substAt s c).phase = .moving ∧ (substAt s c).tid = some tid ∧ mapFind s.un.txns tid = some x) ∧
    (∃ (c : ℕ) (tid : ℕ) (s : State), (substAt s c).phase = .moving ∧ substLive s c tid = true) ∧
    (∃ (c : ℕ) (s : State), (substAt s c).phase = .clearing) ∧
    (∃ (c : ℕ) (s : State), (substAt s c).phase = .moving ∧ (substAt s c).tid = none ∧ (unitAt s (.tile (substLTile c (substAt s c).ltile))).state = .resetting ∧ (unitAt s (.tile (substLTile c (substAt s c).ltile))).waiting = []) :=
  ⟨⟨0, 6, { wTxn 2 .preparing .invited .invited with members := [] }, (wSubst .moving (some 6) .preparing {}), by decide +kernel⟩,
   ⟨0, 6, (wSubst .moving (some 6) .preparing {}), by decide +kernel⟩,
   ⟨0, (wSubst .clearing none .open {}), by decide +kernel⟩,
   ⟨0, (unitSet (wSubst .moving none .open {}) (.tile 0) { state := .resetting }), by decide +kernel⟩⟩

theorem witness_ScalarOperations :
    (∃ (n : ℕ) (dst : ℕ) (k : ℕ) (s : State), k ≤ 4 ∧ (tileAt s n).num.ue.contains (.sreg dst) = false) ∧
    (∃ (n : ℕ) (dst : ℕ) (k : ℕ) (s : State), slotReady s n [slSop] = true ∧ k ≤ 4 ∧ (tileAt s n).num.ue.contains (.sreg dst) = true) ∧
    (∃ (k : ℕ), k ≤ 5) ∧
    (∃ (k : ℕ) (i : ℕ), k < 4 ∧ i < 64) ∧
    (∃ (i : _), i < 64) :=
  ⟨⟨0, 10, 4, wIs, by decide +kernel⟩,
   ⟨0, 10, 4, (wRuns wPart { plate := wPlate, num := { ue := [.sreg 10] } }), by decide +kernel⟩,
   ⟨5, by decide +kernel⟩,
   ⟨3, 55, by decide +kernel⟩,
   ⟨63, by decide +kernel⟩⟩

theorem witness_IndexOperations :
    (∃ (n : ℕ) (s : State), slotReady s n [slSop] = true) ∧
    (∃ (n : ℕ) (td : ℕ) (second : Bool) (s : State), slotReady s n [slLda, slLdb, slXf] = true ∧ (tileAt s n).num.ue.contains (.td (16 * td + (if second then 1 else 0))) = false ∧ tdDue (tileAt s n) td = false) ∧
    (∃ (i : _), i < 1024) :=
  ⟨⟨0, (wRuns wPart { plate := wPlate, regs := { x := [(33, 7), (37, 9)] } }), by decide +kernel⟩,
   ⟨0, 3, true, wIs, by decide +kernel⟩,
   ⟨64, by decide +kernel⟩⟩

theorem witness_LateOperations :
    (∃ (n : ℕ) (dst : ℕ) (s : State), sDue (tileAt s n) dst 3 = false) ∧
    (∃ (n : ℕ) (sa : ℕ) (imm : BitVec 14) (s : State), spAddrOk (sVal s n sa + imm.signExtend 64 * 8) = true) ∧
    (∃ (n : ℕ) (sa : ℕ) (imm : BitVec 14) (s : State), spAddrOk (sVal s n sa + imm.signExtend 64 * 8) = true) ∧
    (∃ (n : ℕ) (sreg : ℕ) (imm : ℕ) (s : State), (sVal s n sreg).toNat + imm % 16384 * 64 + 128 ≤ 786432) ∧
    (∃ (n : ℕ) (sa : ℕ) (imm : BitVec 14) (s : State), slotReady s n [slSop] = true ∧ runsOn s n = true ∧ spAddrOk (sVal s n sa + imm.signExtend 64 * 8) = false) ∧
    (∃ (n : ℕ) (sa : ℕ) (imm : BitVec 14) (s : State), slotReady s n [slSop] = true ∧ runsOn s n = true ∧ spAddrOk (sVal s n sa + imm.signExtend 64 * 8) = false) ∧
    (∃ (n : ℕ) (sreg : ℕ) (imm : ℕ) (s : State), slotReady s n [slLda] = true ∧ runsOn s n = true ∧ 786432 < (sVal s n sreg).toNat + imm % 16384 * 64 + 128) :=
  ⟨⟨0, 10, wIs, by decide +kernel⟩,
   ⟨0, 8, 0, (wIss [(8, 16)] wPlate), by decide +kernel⟩,
   ⟨0, 8, 0, (wIss [(8, 786424)] wPlate), by decide +kernel⟩,
   ⟨0, 8, 0, (wIss [(8, 786304)] wPlate), by decide +kernel⟩,
   ⟨0, 8, 0, wIs, by decide +kernel⟩,
   ⟨0, 8, 0, (wIss [(8, 786432)] wPlate), by decide +kernel⟩,
   ⟨0, 8, 0, (wIss [(8, 786305)] wPlate), by decide +kernel⟩⟩

theorem witness_LateEffects :
    (∃ (x : Tile) (i : ℕ) (v : W64), x.flight = [] ∧ x.plate.due = [{ left := 3, op := .sreg i v }] ∧ 8 ≤ i ∧ i < 64) ∧
    (∃ (x : Tile) (a : ℕ) (i : ℕ), x.flight = [] ∧ x.plate.due = [{ left := 2, op := .sld a i }] ∧ 8 ≤ i ∧ i < 64 ∧ x.num.ue = []) ∧
    (∃ (x : Tile) (a : ℕ) (v : W64), x.flight = [] ∧ x.plate.due = [{ left := 4, op := .sst a v }] ∧ x.num.ue = [] ∧ a % 8 = 0) ∧
    (∃ (x : Tile) (a : ℕ) (i : ℕ), x.flight = [] ∧ x.plate.due = [{ left := 1, op := .tdLo a i }] ∧ x.num.ue = []) ∧
    (∃ (x : Tile) (off : ℕ) (v : W64), x.flight = [] ∧ x.plate.due = [{ left := 3, op := .cfg off v }]) :=
  ⟨⟨{ plate := { due := [{ left := 3, op := .sreg 8 9 }] } }, 8, 9, by decide +kernel⟩,
   ⟨{ plate := { due := [{ left := 2, op := .sld 786424 63 }] }, scratch := [(786424, 7)] }, 786424, 63, by decide +kernel⟩,
   ⟨{ plate := { due := [{ left := 4, op := .sst 8 9 }] }, scratch := [(8, 7)] }, 8, 9, by decide +kernel⟩,
   ⟨{ plate := { due := [{ left := 1, op := .tdLo 64 31 }] }, scratch := [(64, 7), (191, 9)] }, 64, 31, by decide +kernel⟩,
   ⟨{ plate := { due := [{ left := 3, op := .cfg 0x12 25 }] } }, 0x12, 25, by decide +kernel⟩⟩

theorem witness_FlowOperations :
    (∃ (n : ℕ) (count : ℕ) (body : ℕ) (s : State), flowReady s n = true ∧ 1 ≤ count ∧ (tileAt s n).plate.loops.length < 4 ∧ loopBeyond (tileAt s n).plate ((tileAt s n).plate.pc + 1 + body) = false ∧ (tileAt s n).plate.pc + 1 < nstrokesOf s n) ∧
    (∃ (n : ℕ) (sreg : ℕ) (body : ℕ) (s : State), flowReady s n = true ∧ (sVal s n sreg).toNat % 2 ^ 32 ≠ 0 ∧ (tileAt s n).plate.loops.length < 4 ∧ loopBeyond (tileAt s n).plate ((tileAt s n).plate.pc + 1 + body) = false ∧ (tileAt s n).plate.pc + 1 < nstrokesOf s n) ∧
    (∃ (n : ℕ) (sreg : ℕ) (body : ℕ) (s : State), flowReady s n = true ∧ (sVal s n sreg).toNat % 2 ^ 32 = 0 ∧ (closedTo (tileAt s n).plate (tileAt s n).plate.calls.length ((tileAt s n).plate.pc + 2 + body)).2 < nstrokesOf s n) ∧
    (∃ (n : ℕ) (target : ℕ) (s : State), flowReady s n = true ∧ (tileAt s n).plate.calls.length < 4 ∧ (closedTo (tileAt s n).plate ((tileAt s n).plate.calls.length + 1) target) = ((tileAt s n).plate.loops, target) ∧ target < nstrokesOf s n) ∧
    (∃ (n : ℕ) (a : ℕ) (r : List ℕ) (s : State), flowReady s n = true ∧ (tileAt s n).plate.calls = a :: r ∧ loopHere (tileAt s n).plate = false ∧ (closedTo (tileAt s n).plate r.length a).2 < nstrokesOf s n) ∧
    (∃ (n : ℕ) (count : ℕ) (body : ℕ) (s : State), flowReady s n = true ∧ runsOn s n = true ∧ 1 ≤ count ∧ (4 ≤ (tileAt s n).plate.loops.length ∨ loopBeyond (tileAt s n).plate ((tileAt s n).plate.pc + 1 + body) = true ∨ nstrokesOf s n ≤ (tileAt s n).plate.pc + 1)) ∧
    (∃ (n : ℕ) (s : State), flowReady s n = true ∧ runsOn s n = true ∧ 4 ≤ (tileAt s n).plate.calls.length) ∧
    (∃ (n : ℕ) (s : State), flowReady s n = true ∧ runsOn s n = true ∧ ((tileAt s n).plate.calls = [] ∨ loopHere (tileAt s n).plate = true)) :=
  ⟨⟨0, 1, 1, wIs, by decide +kernel⟩,
   ⟨0, 8, 1, wIs, by decide +kernel⟩,
   ⟨0, 12, 1, wIs, by decide +kernel⟩,
   ⟨0, 7, wIs, by decide +kernel⟩,
   ⟨0, 3, [], (wIss [] { wPlate with calls := [3] }), by decide +kernel⟩,
   ⟨0, 1, 1, (wIss [(8, 5)] { wPlate with loops := (List.replicate 4 { start := 1, fin := 7, cnt := 3, idx := 0, cdepth := 0 }) }), by decide +kernel⟩,
   ⟨0, (wIss [] { wPlate with calls := [1, 2, 3, 4] }), by decide +kernel⟩,
   ⟨0, wIs, by decide +kernel⟩⟩

theorem witness_FlowOperations_b :
    (∃ (n : ℕ) (s : State), (tileAt s n).plate.pstate = .issuing ∧ (tileAt s n).plate.ending = false ∧ (tileAt s n).plate.jump = none ∧ (closedTo (tileAt s n).plate (tileAt s n).plate.calls.length ((tileAt s n).plate.pc + 1)).2 < nstrokesOf s n) ∧
    (∃ (n : ℕ) (s : State), (tileAt s n).plate.pstate = .issuing ∧ (tileAt s n).plate.ending = true) ∧
    (∃ (n : ℕ) (s : State), (issuing s n = false ∨ slotFree (tileAt s n) [slLdb] = none)) ∧
    (∃ (n : ℕ) (s : State), (issuing s n = false ∨ slotFree (tileAt s n) [slMx] = none)) ∧
    (∃ (n : ℕ) (s : State), (issuing s n = false ∨ slotFree (tileAt s n) [slMx] = none)) ∧
    (∃ (n : ℕ) (s : State), (issuing s n = false ∨ slotFree (tileAt s n) [slSop] = none)) ∧
    (∃ (n : ℕ) (s : State), (issuing s n = false ∨ slotFree (tileAt s n) [slLda, slLdb, slXf] = none)) :=
  ⟨⟨0, (wIss [(8, 5)] { wPlate with loops := [{ start := 1, fin := 2, cnt := 3, idx := 2, cdepth := 0 }] }), by decide +kernel⟩,
   ⟨0, (wIss [] { wPlate with ending := true }), by decide +kernel⟩,
   ⟨0, wUp, by decide +kernel⟩,
   ⟨0, wUp, by decide +kernel⟩,
   ⟨0, wUp, by decide +kernel⟩,
   ⟨0, wUp, by decide +kernel⟩,
   ⟨0, wUp, by decide +kernel⟩⟩

theorem witness_WaitsAndTokens :
    (∃ (n : ℕ) (k : WaitKind) (u : ℕ) (src : Bool) (v : ℕ) (s : State), waitReady s n (waitSy k u src v) = true ∧ waitHolds s n k u src v = true) ∧
    (∃ (n : ℕ) (k : WaitKind) (u : ℕ) (src : Bool) (v : ℕ) (s : State), waitReady s n (waitSy k u src v) = true ∧ waitHolds s n k u src v = false) ∧
    (∃ (n : ℕ) (g : ℕ) (sc : ℕ) (r : ℕ) (s : State), waitReady s n (8 + (g % 64) <<< 4 + (sc % 1024) <<< 10 + (r % 64) <<< 20) = true ∧ (mapGet [] s.tl.lqueue (n / 16)).length < 16 ∧ partsWf s = true ∧ strokeLost (tileAt s n) = false) ∧
    (∃ (n : ℕ) (g : ℕ) (sc : ℕ) (r : ℕ) (s : State), waitReady s n (8 + (g % 64) <<< 4 + (sc % 1024) <<< 10 + (r % 64) <<< 20) = true ∧ 16 ≤ (mapGet [] s.tl.lqueue (n / 16)).length) ∧
    (∃ (n : ℕ) (k : ℕ) (s : State), slotReady s n [slSy] = true ∧ k % 32 ≠ 31) ∧
    (∃ (n : ℕ) (s : State), slotReady s n [slSy] = true) ∧
    (∃ (n : ℕ) (s : State), slotReady s n [slSy] = true) :=
  ⟨⟨0, .token, 0, false, 0, wIs, by decide +kernel⟩,
   ⟨0, .token, 0, false, 1, wIs, by decide +kernel⟩,
   ⟨0, 0, 0, 8, wIs, by decide +kernel⟩,
   ⟨0, 0, 0, 8, { wIs with tl := { wIs.tl with lqueue := [(0, List.replicate 16 { tile := 0, group := 0, sched := 0, arg := 0, step := 0, tds := [] })] } }, by decide +kernel⟩,
   ⟨0, 30, (wRuns wPart { plate := wPlate, regs := { tok := [(30, 2)] } }), by decide +kernel⟩,
   ⟨0, wIs, by decide +kernel⟩,
   ⟨0, (wRuns wPart { plate := wPlate, num := { nflags := 0xFFF } }), by decide +kernel⟩⟩

theorem witness_BarrierOperations :
    (∃ (n : ℕ) (sy : W32) (p : Part) (u : ℕ) (s : State), arrives s n sy = true ∧ partOf (tileSettle s n) n = some p ∧ u ∈ partTiles p ∧ tileKey s u ≠ tileKey s n ∧ (tileAt (tileSettle s n) u).plate.arrived = none) ∧
    (∃ (n : ℕ) (k : BarKind) (bid : ℕ) (sy : W32) (p : Part) (s : State), arrives s n sy = true ∧ partsWf (tileSettle s n) = true ∧ partOf (tileSettle s n) n = some p ∧ physApart s = true ∧ (∀ u ∈ partTiles p, u ≠ n → arrivalOf (tileAt (tileSettle s n) u) = ((tileAt (tileSettle s n) n).plate.pc, (tileAt (tileSettle s n) n).plate.bseq.toNat, some (k, if k = .barrier then bid % 256 else 0)))) ∧
    (∃ (n : ℕ) (k : BarKind) (bid : ℕ) (sy : W32) (p : Part) (u : ℕ) (s : State), arrives s n sy = true ∧ runsOn (tileSettle s n) n = true ∧ partOf (tileSettle s n) n = some p ∧ physApart s = true ∧ (∀ v ∈ partTiles p, v ≠ n → (tileAt (tileSettle s n) v).plate.arrived.isSome = true) ∧ u ∈ partTiles p ∧ u ≠ n ∧ arrivalOf (tileAt (tileSettle s n) u) ≠ ((tileAt (tileSettle s n) n).plate.pc, (tileAt (tileSettle s n) n).plate.bseq.toNat, some (k, if k = .barrier then bid % 256 else 0))) ∧
    (∃ (n : ℕ) (sy : W32) (s : State), mayArrive s n sy = false) ∧
    (∃ (n : ℕ) (bid : ℕ) (more : Bool) (p : Part) (k : BarKind) (s : State), barAt s n .barrier = some p ∧ p.bar = some (k, bid % 256) ∧ partsWf s = true ∧ physApart s = true ∧ (more = true ∨ barGoesOn s p = true)) ∧
    (∃ (n : ℕ) (bid : ℕ) (p : Part) (k : BarKind) (u : ℕ) (s : State), barAt s n .barrier = some p ∧ p.bar = some (k, bid % 256) ∧ runsOn s n = true ∧ physApart s = true ∧ barMember s p u = true ∧ nstrokesOf s u ≤ barNext (tileAt s u).plate ∧ mapGet 0 (tileAt s u).plate.cache (barNext (tileAt s u).plate % 1024) ≠ barNext (tileAt s u).plate + 1) ∧
    (∃ (n : ℕ) (cond : ℕ) (more : Bool) (p : Part) (s : State), barAt s n .abortStep = some p ∧ abortTaken s p cond = false ∧ partsWf s = true ∧ physApart s = true ∧ (more = true ∨ barGoesOn s p = true)) ∧
    (∃ (n : ℕ) (cond : ℕ) (r : ℕ) (p : Part) (s : State), barAt s n .abortStep = some p ∧ partsWf s = true ∧ physApart s = true ∧ abortTaken s p cond = true ∧ (∀ u ∈ partTiles p, contOf s u r < nstrokesOf s u)) :=
  ⟨⟨0, 0, wPair, 1, (wTwo wPair { plate := wPlate } { plate := wPlate }), by decide +kernel⟩,
   ⟨0, .barrier, 3, 0, wPair, (wTwo wPair { plate := wPlate } (wAtBar .barrier 3 2)), by decide +kernel⟩,
   ⟨0, .barrier, 3, 0, wPair, 1, (wTwo wPair { plate := wPlate } (wAtBar .halt 0 2)), by decide +kernel⟩,
   ⟨0, 0, (wBar .barrier 3 wPair), by decide +kernel⟩,
   ⟨0, 3, true, { wPair with bar := some (.barrier, 3) }, .barrier, (wBar .barrier 3 wPair), by decide +kernel⟩,
   ⟨0, 3, { wPair with bar := some (.barrier, 3) }, .barrier, 1, (let x : Tile := { wAtBar .barrier 3 7 with plate := { (wAtBar .barrier 3 7).plate with cache := [] } }; wTwo { wPair with bar := some (.barrier, 3) } x x), by decide +kernel⟩,
   ⟨0, 1, false, { wPair with bar := some (.abortStep, 0) }, (wBar .abortStep 0 wPair), by decide +kernel⟩,
   ⟨0, 0, 8, { { wPair with opened := true, tid := 5 } with bar := some (.abortStep, 0) }, { wBar .abortStep 0 { wPair with opened := true, tid := 5 } with un := { (wBar .abortStep 0 wPair).un with txns := [(5, wTxn 1 .open .enrolled .enrolled)] } }, by decide +kernel⟩⟩

theorem witness_BarrierOperations_b :
    (∃ (n : ℕ) (more : Bool) (p : Part) (tid : ℕ) (s : State), barAt s n .stepOpen = some p ∧ partsWf s = true ∧ physApart s = true ∧ p.opened = false ∧ p.launched = 0 ∧ p.groupEn = false ∧ (more = true ∨ barGoesOn s p = true) ∧ tidFree s = some tid) ∧
    (∃ (n : ℕ) (p : Part) (x : Txn) (s : State), barAt s n .stepCommit = some p ∧ partsWf s = true ∧ p.opened = true ∧ p.preparing = false ∧ p.decided = false ∧ stepSettling s p = false ∧ mapFind s.un.txns p.tid = some x) ∧
    (∃ (n : ℕ) (p : Part) (s : State), barAt s n .halt = some p ∧ runsOn s n = true ∧ physApart s = true) :=
  ⟨⟨0, false, { wPair with bar := some (.stepOpen, 0) }, 0, (wBar .stepOpen 0 wPair), by decide +kernel⟩,
   ⟨0, { { wPair with opened := true, tid := 5 } with bar := some (.stepCommit, 0) }, (wTxn 1 .open .enrolled .enrolled), { wBar .stepCommit 0 { wPair with opened := true, tid := 5 } with un := { (wBar .stepCommit 0 wPair).un with txns := [(5, wTxn 1 .open .enrolled .enrolled)] } }, by decide +kernel⟩,
   ⟨0, { wPair with bar := some (.halt, 0) }, (wBar .halt 0 wPair), by decide +kernel⟩⟩

theorem witness_PlateEvents :
    (∃ (n : ℕ) (s : State), n < 512 ∧ runsOn s n = true ∧ ((tileAt s n).plate.pstate = .heldWait ∨ (tileAt s n).plate.pstate = .heldBar) ∧ (unitAt s (.tile n)).err3.getLsbD 31 = false) ∧
    (∃ (n : ℕ) (a : ℕ) (p : Part) (s : State), n < 512 ∧ partOf s n = some p ∧ a < nstrokesOf s n ∧ (tileAt s n).plate.pstate = .frozen ∧ a = (tileAt s n).plate.pc ∧ (plateLine s p n a).2 = stOk) ∧
    (∃ (n : ℕ) (a : ℕ) (p : Part) (s : State), n < 512 ∧ partOf s n = some p ∧ a < nstrokesOf s n ∧ (tileAt s n).plate.pstate = .issuing ∧ lookahead (tileAt s n).plate a = true ∧ (plateLine s p n a).2 = stOk) ∧
    (∃ (n : ℕ) (a : ℕ) (st : ℕ) (s : State), n < 512 ∧ a < nstrokesOf s n ∧ runsOn s n = true ∧ (tileAt s n).plate.pstate = .frozen ∧ a = (tileAt s n).plate.pc ∧ st ≠ stOk) ∧
    (∃ (n : ℕ) (s : State), n < 512 ∧ runsOn s n = true ∧ (tileAt s n).plate.pstate = .frozen ∧ nstrokesOf s n ≤ (tileAt s n).plate.pc) ∧
    (∃ (n : ℕ) (p : Part) (q : Part) (r : RunRec) (s : State), partOf s n = some p ∧ runEnded s p = true ∧ partsWf (failStopped s p) = true ∧ partOf (failStopped s p) n = some q ∧ q.run = some r ∧ (ctxAt (failStopped s p) q.ctx).st ≠ .disabling) :=
  ⟨⟨0, (wIss [] { wPlate with pstate := .heldWait }), by decide +kernel⟩,
   ⟨0, 7, wPart, (wIss [] { wPlate with pstate := .frozen, pc := 7 }), by decide +kernel⟩,
   ⟨0, 5, wPart, (wIss [] wPlate), by decide +kernel⟩,
   ⟨0, 7, stPageLost, (wIss [] { wPlate with pstate := .frozen, pc := 7 }), by decide +kernel⟩,
   ⟨0, (wIss [] { wPlate with pstate := .frozen, pc := 8 }), by decide +kernel⟩,
   ⟨0, { wPart with run := some { wRun with stop := some stOk } }, { wPart with run := some { wRun with stop := some stOk } }, { wRun with stop := some stOk }, (wRuns { wPart with run := some { wRun with stop := some stOk } } { plate := { wPlate with pstate := .stopped } }), by decide +kernel⟩⟩

theorem witness_ArrayCommands :
    (∃ (x : Tile), x.flight.all (fun fl => !(writesAcc fl)) = true) ∧
    (∃ (x : Tile), x.flight.all (fun fl => !(writesCells fl)) = true) ∧
    (∃ (x : Tile) (fl : Flight) (f : WloadOp), x.flight = [fl] ∧ fl.cmd.op = .wload f ∧ fl.age = 4) ∧
    (∃ (x : Tile) (fl : Flight) (f : WloadOp) (a : ℕ) (k : ℕ) (cells : List (List FVal)) (inx : Bool) (sc : List ℕ) (n : ℕ) (p : ℕ), x.flight = [fl] ∧ fl.cmd.op = .wload f ∧ fl.stages = [(fl.age, .cell a k cells inx sc)] ∧ n < 32 ∧ p < 3) ∧
    (∃ (x : Tile) (fl : Flight) (f : StreamOp) (a : ℕ) (row : ℕ) (vs : List ℕ) (fs : NFlags) (n : ℕ), x.flight = [fl] ∧ fl.cmd.op = .stream f ∧ fl.stages = [(fl.age, .upd a row vs fs)] ∧ vs.length = 32 ∧ n < 32 ∧ vs.getD n 0 < 2 ^ (if f.acc64 then 64 else 32)) ∧
    (∃ (x : Tile) (fl : Flight) (f : DrainOp) (r : ℕ × List (ℕ × ℕ)) (e : ℕ × ℕ) (n : ℕ), x.flight = [fl] ∧ fl.cmd.op = .drain f ∧ f.clr = true ∧ 1 ≤ fl.age ∧ fl.age ≤ drainLen f ∧ r ∈ drainRows f (fl.age - 1) ∧ e ∈ r.2 ∧ n < 32) :=
  ⟨⟨(wFly (.wload wWload) 3 []), by decide +kernel⟩,
   ⟨(wFly (.drain wDrain) 3 []), by decide +kernel⟩,
   ⟨(wFly (.wload wWload) 4 []), (wFl (.wload wWload) 4 []), wWload, by decide +kernel⟩,
   ⟨(wFly (.wload wWload) 4 [(4, .cell 3 31 [[.fin false 3 0]] false [])]), (wFl (.wload wWload) 4 [(4, .cell 3 31 [[.fin false 3 0]] false [])]), wWload, 3, 31, [[.fin false 3 0]], false, [], 0, 0, by decide +kernel⟩,
   ⟨(wFly (.stream wStream) 11 [(11, .upd 3 511 (List.replicate 32 7) {})]), (wFl (.stream wStream) 11 [(11, .upd 3 511 (List.replicate 32 7) {})]), wStream, 3, 511, (List.replicate 32 7), {}, 31, by decide +kernel⟩,
   ⟨(wFly (.drain { wDrain with clr := true }) 1 []), (wFl (.drain { wDrain with clr := true }) 1 []), { wDrain with clr := true }, (0, [(0, 0), (1, 32), (2, 64), (3, 96)]), (3, 96), 31, by decide +kernel⟩⟩

theorem witness_VectorCommands :
    (∃ (x : Tile), x.flight.all (fun fl => !(writesScratch fl)) = true ∧ noSst x = true) ∧
    (∃ (x : Tile), x.plate.due = []) ∧
    (∃ (x : Tile) (fl : Flight) (o : ℕ) (f : VxOp) (part : OutPart), x.flight = [fl] ∧ x.plate.due = [] ∧ x.num.ue = [] ∧ fl.cmd.op = .vector o f ∧ fl.age ≠ flightLen fl ∧ fl.stages = [(fl.age, .out [part] [])] ∧ part.rank < 5) :=
  ⟨⟨(wFly (.stream wStream) 3 []), by decide +kernel⟩,
   ⟨(wFly (.stream wStream) 3 []), by decide +kernel⟩,
   ⟨(wFly (.vector 0x20 (wVx 0x20)) 50 [(50, .out [{ rank := 4, source := 3, ws := [{ bit := 64, w := 32, val := 9 }] }] [])]), (wFl (.vector 0x20 (wVx 0x20)) 50 [(50, .out [{ rank := 4, source := 3, ws := [{ bit := 64, w := 32, val := 9 }] }] [])]), 0x20, (wVx 0x20), { rank := 4, source := 3, ws := [{ bit := 64, w := 32, val := 9 }] }, by decide +kernel⟩⟩

theorem witness_StreamCommands :
    (∃ (n : ℕ) (f : MoveOp) (s : State), slotReady s n [slLda, slLdb, slXf] = true ∧ f.unit < 8 ∧ streamClean s n (.move f) = true ∧ (strAt (tileAt s n) f.unit).path.run = none) ∧
    (∃ (n : ℕ) (f : MoveOp) (s : State), slotReady s n [slLda, slLdb, slXf] = true ∧ f.unit < 8 ∧ streamClean s n (.prefetch f) = true ∧ (strAt (tileAt s n) f.unit).path.run = none) ∧
    (∃ (n : ℕ) (f : MoveOp) (s : State), slotReady s n [slLda, slLdb, slXf] = true ∧ f.unit < 8 ∧ streamClean s n (.move f) = true ∧ (strAt (tileAt s n) f.unit).path.run.isSome = true ∧ (strAt (tileAt s n) f.unit).path.pend = none) ∧
    (∃ (n : ℕ) (f : MoveOp) (s : State), slotReady s n [slLda, slLdb, slXf] = true ∧ f.unit < 8 ∧ (streamClean s n (.move f) = false ∨ pathFull (strAt (tileAt s n) f.unit).path = true)) ∧
    (∃ (n : ℕ) (f : MoveOp) (s : State), slotReady s n [slLda, slLdb, slXf] = true ∧ f.unit < 8 ∧ (streamClean s n (.prefetch f) = false ∨ pathFull (strAt (tileAt s n) f.unit).path = true)) ∧
    (∃ (n : ℕ) (k : ℕ) (c : PathCmd) (s : State), n < 512 ∧ k < 8 ∧ appendsWait (tileAt s n) (5 + k) = false ∧ (strAt (tileAt s n) k).path.run = some c ∧ (strAt (tileAt s n) k).path.pend = none) ∧
    (∃ (n : ℕ) (k : ℕ) (c : PathCmd) (f : MoveOp) (l : Latched) (s : State), n < 512 ∧ k < 8 ∧ appendsWait (tileAt s n) (5 + k) = false ∧ (strAt (tileAt s n) k).path.run = some c ∧ (strAt (tileAt s n) k).path.pend = some { op := .move f, lat := l }) :=
  ⟨⟨0, wMove, (wTds {}), by decide +kernel⟩,
   ⟨0, { wMove with tdS := 8 }, (let s := wTds {}; { s with tl := { s.tl with tab := s.tl.tab.map (fun e => (e.1, { e.2 with regs := { e.2.regs with td := e.2.regs.td ++ [(8, wTd 0 1 16 ||| (1#1024 <<< 56))] } })) } }), by decide +kernel⟩,
   ⟨0, wMove, (wTds { str := [(7, { path := { run := some (wCmd (.move wMove)) } })] }), by decide +kernel⟩,
   ⟨0, wMove, (wTds { str := [(7, { path := { run := some (wCmd (.move wMove)), pend := some (wCmd (.move wMove)) } })] }), by decide +kernel⟩,
   ⟨0, wMove, (wTds {}), by decide +kernel⟩,
   ⟨0, 7, (wCmd (.move wMove)), (wTds { str := [(7, { path := { run := some (wCmd (.move wMove)) } })] }), by decide +kernel⟩,
   ⟨0, 7, (wCmd (.move wMove)), wMove, (latchedBy (wTds {}) 0 (.move wMove)), (wTds { str := [(7, { path := { run := some (wCmd (.move wMove)), pend := some (wCmd (.move wMove)) } })] }), by decide +kernel⟩⟩

theorem witness_PathsGoOn :
    (∃ (n : ℕ) (p : PathId) (s : State), localPaths.contains p = true ∧ n < 512 ∧ (tileAt s n).plate.pstate ≠ .issuing ∧ (tileAt s n).plate.pstate ≠ .frozen ∧ pathBusy (tileAt s n) p = true ∧ (pathOf (tileAt s n) p).pend = none) ∧
    (∃ (n : ℕ) (f : WloadOp) (l : Latched) (s : State), n < 512 ∧ (tileAt s n).plate.pstate ≠ .issuing ∧ (tileAt s n).plate.pstate ≠ .frozen ∧ pathBusy (tileAt s n) .weight = true ∧ (tileAt s n).arr.weight.pend = some { op := .wload f, lat := l }) ∧
    (∃ (n : ℕ) (f : DrainOp) (l : Latched) (s : State), n < 512 ∧ (tileAt s n).plate.pstate ≠ .issuing ∧ (tileAt s n).plate.pstate ≠ .frozen ∧ pathBusy (tileAt s n) .drain = true ∧ (tileAt s n).arr.drain.pend = some { op := .drain f, lat := l }) ∧
    (∃ (n : ℕ) (p : PathId) (s : State), ((tileAt s n).plate.pstate = .issuing ∨ (tileAt s n).plate.pstate = .frozen ∨ (pathOf (tileAt s n) p).run = none)) ∧
    (∃ (x : Tile) (fl : Flight) (f : WloadOp), x.flight = [fl] ∧ fl.cmd.op = .wload f ∧ flightLast fl ≤ fl.age) ∧
    (∃ (x : Tile) (fl : Flight) (f : DrainOp), x.flight = [fl] ∧ fl.cmd.op = .drain f ∧ flightLast fl ≤ fl.age) :=
  ⟨⟨0, .weight, (let s := wTds { arr := { weight := { run := some (wCmd (.wload wWload)) } }, flight := [wFl (.wload wWload) 1 []] }; { s with tl := { s.tl with tab := s.tl.tab.map (fun e => (e.1, { e.2 with plate := { e.2.plate with pstate := .heldWait } })) } }), by decide +kernel⟩,
   ⟨0, wWload, (latchedBy (wTds {}) 0 (.wload wWload)), (let s := wTds { arr := { weight := { run := some (wCmd (.wload wWload)), pend := some (wCmd (.wload wWload)) } }, flight := [wFl (.wload wWload) 1 []] }; { s with tl := { s.tl with tab := s.tl.tab.map (fun e => (e.1, { e.2 with plate := { e.2.plate with pstate := .heldWait } })) } }), by decide +kernel⟩,
   ⟨0, wDrain, (latchedBy (wTds {}) 0 (.drain wDrain)), (let s := wTds { arr := { drain := { run := some (wCmd (.drain wDrain)), pend := some (wCmd (.drain wDrain)) } }, flight := [wFl (.drain wDrain) 1 []] }; { s with tl := { s.tl with tab := s.tl.tab.map (fun e => (e.1, { e.2 with plate := { e.2.plate with pstate := .heldWait } })) } }), by decide +kernel⟩,
   ⟨0, .pipe0, (wTds {}), by decide +kernel⟩,
   ⟨(wFly (.wload wWload) 200 []), (wFl (.wload wWload) 200 []), wWload, by decide +kernel⟩,
   ⟨(wFly (.drain { wDrain with bret := true }) 200 []), (wFl (.drain { wDrain with bret := true }) 200 []), { wDrain with bret := true }, by decide +kernel⟩⟩

theorem witness_RequestBatcher :
    (∃ (n : ℕ) (q : ℕ) (r : AppendRow) (rest : List AppendRow) (s : State), takeAppend q (tileAt s n).bat.appends = some (r, rest) ∧ batQen (tileAt s n).bat q = true ∧ (mapGet {} (tileAt s n).bat.queues q).fill < qCap (mapGet {} (tileAt s n).bat.queues q) ∧ (tileAt s n).num.ue = []) ∧
    (∃ (n : ℕ) (q : ℕ) (r : AppendRow) (rest : List AppendRow) (s : State), takeAppend q (tileAt s n).bat.appends = some (r, rest) ∧ batQen (tileAt s n).bat q = false) ∧
    (∃ (n : ℕ) (q : ℕ) (r : AppendRow) (rest : List AppendRow) (s : State), takeAppend q (tileAt s n).bat.appends = some (r, rest) ∧ batQen (tileAt s n).bat q = true ∧ qCap (mapGet {} (tileAt s n).bat.queues q) ≤ (mapGet {} (tileAt s n).bat.queues q).fill) ∧
    (∃ (n : ℕ) (s : State), (tileAt s n).bat.ready = false ∧ batEn (tileAt s n).bat = true ∧ 32 ≤ batEnabledPresent (tileAt s n).bat) ∧
    (∃ (n : ℕ) (s : State), (tileAt s n).bat.ready = false ∧ batEn (tileAt s n).bat = true ∧ batDeadline (tileAt s n).bat ≠ 0 ∧ 0 < batEnabledPresent (tileAt s n).bat ∧ batEnabledPresent (tileAt s n).bat < 32) ∧
    (∃ (n : ℕ) (s : State), (tileAt s n).bat.retire = true) ∧
    (∃ (n : ℕ) (s : State), (tileAt s n).bat.ready = true) :=
  ⟨⟨0, 3, wRow, [], (wRuns wPart { bat := wBat 0x00410008 0 [] }), by decide +kernel⟩,
   ⟨0, 3, wRow, [], (wRuns wPart { bat := wBat 0x00410000 0 [] }), by decide +kernel⟩,
   ⟨0, 3, wRow, [], (wRuns wPart { bat := wBat 0x00410008 8 [0, 1] }), by decide +kernel⟩,
   ⟨0, (wRuns wPart { bat := wBat 0x00410008 40 (List.range 40) }), by decide +kernel⟩,
   ⟨0, (wRuns wPart { bat := wBat 0x00410008 2 [4, 5] }), by decide +kernel⟩,
   ⟨0, (wRuns wPart { bat := { wBat 0x00410008 2 [4, 5] with retire := true, ready := true, batch := [(3, 0)] } }), by decide +kernel⟩,
   ⟨0, (wRuns wPart { bat := { wBat 0x00410008 2 [4, 5] with ready := true } }), by decide +kernel⟩⟩

theorem witness_RegisterWrites :
    (∃ (w : Writer) (off : ℕ) (width : ℕ), (mayWrite w = false ∨ (width ≠ 4 ∧ width ≠ 8) ∨ off % width ≠ 0)) ∧
    (∃ (w : Writer) (s : State), mayWrite w = true ∧ bar0Open s w = true ∧ blockLive s .package = true) ∧
    (∃ (w : Writer) (v : W64) (s : State), mayWrite w = true ∧ bar0Open s w = true ∧ blockLive s .package = true ∧ v.getLsbD 31 = true) ∧
    (∃ (s : State), bar0Open s .pf0 = true ∧ blockLive s (.iodie 0) = true) ∧
    (∃ (w : Writer) (n : ℕ) (s : State), n < 512 ∧ mayWrite w = true ∧ bar0Open s w = true ∧ blockLive s (.tile n) = true) ∧
    (∃ (w : Writer) (n : ℕ) (s : State), n < 512 ∧ mayWrite w = true ∧ bar0Open s w = true ∧ blockLive s (.tile n) = true) ∧
    (∃ (w : Writer) (n : ℕ) (v : W64) (s : State), n < 512 ∧ mayWrite w = true ∧ bar0Open s w = true ∧ present s.hw (.tile n) = true ∧ 6 ≤ v.toNat % 8 ∧ (unitAt s (.tile n)).cmdBusy = false) :=
  ⟨⟨.pf0, 4, 2, by decide +kernel⟩,
   ⟨.pf0, (wUnit .package { state := .run }), by decide +kernel⟩,
   ⟨.pf0, 0x80000000, (wUnit .package { state := .run }), by decide +kernel⟩,
   ⟨wUp, by decide +kernel⟩,
   ⟨.pf0, 0, (wRuns wPart { num := { nflags := 0xFF0F, resErr := 7 } }), by decide +kernel⟩,
   ⟨.pf0, 0, (wRuns wPart { num := { nflags := 0xFF0F, resErr := 7 } }), by decide +kernel⟩,
   ⟨.pf0, 0, 7, (wRuns wPart { num := { nflags := 0xFF0F, resErr := 7 } }), by decide +kernel⟩⟩

theorem witness_Launches :
    (∃ (c : ℕ) (l : Launch) (r : List Launch) (p : Part) (gix : ℕ) (g : Group) (s : State), mapGet [] s.tl.lqueue c = l :: r ∧ laneAt s l.tile = none ∧ lanePaused s l.tile = false ∧ partOf s l.tile = some p ∧ groupOfSlot s p.t0 l.group = some gix ∧ groupAt s gix = some g ∧ g.st = 2 ∧ fabCalm s = true ∧ g.failedL.any (fun e => e.1 = ((localAt g p.t0).map LocalMem.rank).getD 0 && e.2.1 = l.step && e.2.2.1 = mapGet 0 s.fb.lseqs (l.tile * 64 + gix)) = false ∧ l.sched < g.reqs.length ∧ launchFault s l g (((localAt g p.t0).map LocalMem.rank).getD 0) = none ∧ rqOp (rqOf g l.sched) ≠ 6 ∧ s.fb.early.all (fun f => f.group ≠ g.id) = true) ∧
    (∃ (c : ℕ) (l : Launch) (r : List Launch) (p : Part) (gix : ℕ) (g : Group) (s : State), mapGet [] s.tl.lqueue c = l :: r ∧ laneAt s l.tile = none ∧ lanePaused s l.tile = false ∧ partOf s l.tile = some p ∧ groupOfSlot s p.t0 l.group = some gix ∧ groupAt s gix = some g ∧ g.st = 3 ∧ fabCalm s = true) ∧
    (∃ (c : ℕ) (s : State), mapGet [] s.tl.lqueue c = []) ∧
    (∃ (n : ℕ) (x : LaneCtx) (p : Part) (s : State), laneCtx s n = some x ∧ x.l.ended = true ∧ x.l.sends = [] ∧ x.l.recvs = [] ∧ lanePaused s n = false ∧ partsWf s = true ∧ partOf s n = some p ∧ rqAtDone x.rq < 31) ∧
    (∃ (n : ℕ) (ev : List LineEv) (p : Part) (x : Txn) (s : State), partsWf s = true ∧ partOf s n = some p ∧ mapFind s.un.txns p.tid = some x ∧ p.preparing = true ∧ x.kind = 1 ∧ x.key = p.t0 ∧ x.phase = .preparing ∧ x.merged = false ∧ x.members.any (fun m => m.st ≠ .counted) = true ∧ spanWaits s io0Page p.ctx (monBank p (p.step.toNat % 2 = 1)) 131072 false ev = false ∧ spanWaits s io0Page p.ctx (monBank p (p.step.toNat % 2 = 0)) 131072 true ev = false) ∧
    (∃ (n : ℕ) (p : Part) (s : State), partsWf s = true ∧ partOf s n = some p ∧ bar0Unit s .pf0 (.tile n) = true ∧ blockLive s (.tile n) = true ∧ p.monHit.getLsbD 31 = true) ∧
    (∃ (w : Writer), w ≠ .pf0) :=
  ⟨⟨0, { tile := 0, group := 1, sched := 0, arg := 0, step := 2, tds := [] }, [], { wPart with group := 1, groupEn := true }, 3, (wGrp [wRq 5] [(0, [0])]), (let s := wFab wPath (wGrp [wRq 5] [(0, [0])]) []; { s with tl := { s.tl with lqueue := [(0, [{ tile := 0, group := 1, sched := 0, arg := 0, step := 2, tds := [] }])] } }), by decide +kernel⟩,
   ⟨0, { tile := 0, group := 1, sched := 0, arg := 0, step := 2, tds := [] }, [], { wPart with group := 1, groupEn := true }, 3, { wGrp [wRq 5] [] with st := 3 }, (let s := wFab wPath ({ wGrp [wRq 5] [] with st := 3 }) []; { s with tl := { s.tl with lqueue := [(0, [{ tile := 0, group := 1, sched := 0, arg := 0, step := 2, tds := [] }])] } }), by decide +kernel⟩,
   ⟨0, wUp, by decide +kernel⟩,
   ⟨0, ((laneCtx (wAt 5 0 ({ wLane 2 with ended := true })) 0).getD { t := 0, t0 := 0, l := wLane 0, g := wGrp [] [], rq := 0, prog := [] }), { wPart with group := 1, groupEn := true }, (wAt 5 0 ({ wLane 2 with ended := true })), by decide +kernel⟩,
   ⟨0, [], { wPart2 with preparing := true }, { (wTxn 1 .preparing .prepared .enrolled) with merged := false }, (wTxns ({ (wTxn 1 .preparing .prepared .enrolled) with merged := false }) ({ wPart2 with preparing := true })), by decide +kernel⟩,
   ⟨0, { wPart with monHit := 0x80000005 }, (wRuns ({ wPart with monHit := 0x80000005 }) {}), by decide +kernel⟩,
   ⟨.mgmt, by decide +kernel⟩⟩

theorem witness_DrupeletEntries :
    (∃ (n : ℕ) (ev : List LineEv) (x : LaneCtx) (s : State) (s1 : State) (bs : List Byte), entryAt s n 1 = some x ∧ readySend x = none ∧ sourceReady x (enA (curEntry x)) = true ∧ x.l.sends.length < 4 ∧ (isA2a x.rq && enA (curEntry x) = 4) = false ∧ x.l.credits.contains (enPeer (curEntry x), curXtag x) = true ∧ operandRead (laneSet s n (withSend x (queuedSend x)).l) (withSend x (queuedSend x)) (queuedSend x).opnd (queuedSend x).doff (queuedSend x).len ev = some (.ok s1 bs) ∧ fabCalm s1 = true) ∧
    (∃ (n : ℕ) (x : LaneCtx) (s : State), entryAt s n 1 = some x ∧ readySend x = none ∧ sourceReady x (enA (curEntry x)) = true ∧ x.l.sends.length < 4 ∧ (isA2a x.rq && enA (curEntry x) = 4) = false ∧ x.l.credits.contains (enPeer (curEntry x), curXtag x) = false ∧ fabCalm s = true) ∧
    (∃ (n : ℕ) (ev : List LineEv) (x : LaneCtx) (k : SendSt) (s : State) (s1 : State) (bs : List Byte), laneCtx s n = some x ∧ readySend x = some k ∧ (isA2a x.rq && k.opnd = 4) = false ∧ operandRead s x k.opnd k.doff k.len ev = some (.ok s1 bs) ∧ k.len ≤ 65536 ∧ fabCalm s1 = true) ∧
    (∃ (n : ℕ) (x : LaneCtx) (s : State), entryAt s n 2 = some x ∧ destReady x (enC (curEntry x)) = true ∧ (isA2a x.rq && enC (curEntry x) = 5) = false ∧ fabCalm s = true) ∧
    (∃ (n : ℕ) (x : LaneCtx) (s : State), entryAt s n 3 = some x ∧ stagingReady s x = true ∧ sourceReady x (enB (curEntry x)) = true ∧ enB (curEntry x) < 4 ∧ (rqEtype x.rq = 0x01 ∨ rqEtype x.rq = 0x0F ∨ rqEtype x.rq = 0x07) ∧ fabCalm s = true) ∧
    (∃ (n : ℕ) (x : LaneCtx) (s : State), entryAt s n 4 = some x ∧ stagingReady s x = true ∧ fabCalm s = true) ∧
    (∃ (n : ℕ) (x : LaneCtx) (s : State), entryAt s n 5 = some x ∧ x.l.rep + 1 < enDoffS (curEntry x) ∧ (isA2a x.rq = true → rowsLeft s x = true)) ∧
    (∃ (n : ℕ) (x : LaneCtx) (s : State), entryAt s n 5 = some x ∧ (enDoffS (curEntry x) ≤ x.l.rep + 1 ∨ (isA2a x.rq = true ∧ rowsLeft s x = false))) :=
  ⟨⟨0, [], ((laneCtx (wAt 4 (Ent.bits { op := 1, a := 1, peer := 1, tag := 7, len := 64 }) { wLane 0 with full := [1], credits := [(1, 7)] }) 0).getD { t := 0, t0 := 0, l := wLane 0, g := wGrp [] [], rq := 0, prog := [] }), (wAt 4 (Ent.bits { op := 1, a := 1, peer := 1, tag := 7, len := 64 }) { wLane 0 with full := [1], credits := [(1, 7)] }), (laneSet (wAt 4 (Ent.bits { op := 1, a := 1, peer := 1, tag := 7, len := 64 }) { wLane 0 with full := [1], credits := [(1, 7)] }) 0 (withSend ((laneCtx (wAt 4 (Ent.bits { op := 1, a := 1, peer := 1, tag := 7, len := 64 }) { wLane 0 with full := [1], credits := [(1, 7)] }) 0).getD { t := 0, t0 := 0, l := wLane 0, g := wGrp [] [], rq := 0, prog := [] }) (queuedSend ((laneCtx (wAt 4 (Ent.bits { op := 1, a := 1, peer := 1, tag := 7, len := 64 }) { wLane 0 with full := [1], credits := [(1, 7)] }) 0).getD { t := 0, t0 := 0, l := wLane 0, g := wGrp [] [], rq := 0, prog := [] }))).l), (List.replicate 64 0), by decide +kernel⟩,
   ⟨0, ((laneCtx (wAt 4 (Ent.bits { op := 1, a := 1, peer := 1, tag := 7, len := 64 }) { wLane 0 with full := [1] }) 0).getD { t := 0, t0 := 0, l := wLane 0, g := wGrp [] [], rq := 0, prog := [] }), (wAt 4 (Ent.bits { op := 1, a := 1, peer := 1, tag := 7, len := 64 }) { wLane 0 with full := [1] }), by decide +kernel⟩,
   ⟨0, [], ((laneCtx (wAt 4 0 { wLane 1 with credits := [(1, 7)], sends := [{ peer := 1, xtag := 7, frees := none, opnd := 1, len := 64 }] }) 0).getD { t := 0, t0 := 0, l := wLane 0, g := wGrp [] [], rq := 0, prog := [] }), { peer := 1, xtag := 7, frees := none, opnd := 1, len := 64 }, (wAt 4 0 { wLane 1 with credits := [(1, 7)], sends := [{ peer := 1, xtag := 7, frees := none, opnd := 1, len := 64 }] }), (wAt 4 0 { wLane 1 with credits := [(1, 7)], sends := [{ peer := 1, xtag := 7, frees := none, opnd := 1, len := 64 }] }), (List.replicate 64 0), by decide +kernel⟩,
   ⟨0, ((laneCtx (wAt 4 (Ent.bits { op := 2, c := 2, peer := 1, tag := 7, len := 64 }) (wLane 0)) 0).getD { t := 0, t0 := 0, l := wLane 0, g := wGrp [] [], rq := 0, prog := [] }), (wAt 4 (Ent.bits { op := 2, c := 2, peer := 1, tag := 7, len := 64 }) (wLane 0)), by decide +kernel⟩,
   ⟨0, ((laneCtx (wAt 1 (Ent.bits { op := 3, a := 0, b := 1, c := 2, freeA := true, len := 64 }) { wLane 0 with full := [0, 1] }) 0).getD { t := 0, t0 := 0, l := wLane 0, g := wGrp [] [], rq := 0, prog := [] }), (wAt 1 (Ent.bits { op := 3, a := 0, b := 1, c := 2, freeA := true, len := 64 }) { wLane 0 with full := [0, 1] }), by decide +kernel⟩,
   ⟨0, ((laneCtx (wAt 1 (Ent.bits { op := 4, a := 0, c := 2, len := 64 }) { wLane 0 with full := [0] }) 0).getD { t := 0, t0 := 0, l := wLane 0, g := wGrp [] [], rq := 0, prog := [] }), (wAt 1 (Ent.bits { op := 4, a := 0, c := 2, len := 64 }) { wLane 0 with full := [0] }), by decide +kernel⟩,
   ⟨0, ((laneCtx (wAt 1 (Ent.bits { op := 5, peer := 1, doffS := 2 }) (wLane 1)) 0).getD { t := 0, t0 := 0, l := wLane 0, g := wGrp [] [], rq := 0, prog := [] }), (wAt 1 (Ent.bits { op := 5, peer := 1, doffS := 2 }) (wLane 1)), by decide +kernel⟩,
   ⟨0, ((laneCtx (wAt 1 (Ent.bits { op := 5, peer := 1, doffS := 2 }) { wLane 1 with rep := 1 }) 0).getD { t := 0, t0 := 0, l := wLane 0, g := wGrp [] [], rq := 0, prog := [] }), (wAt 1 (Ent.bits { op := 5, peer := 1, doffS := 2 }) { wLane 1 with rep := 1 }), by decide +kernel⟩⟩

theorem witness_DrupeletEntries_b :
    (∃ (n : ℕ) (x : LaneCtx) (s : State), entryAt s n 6 = some x ∧ isA2a x.rq = true ∧ x.l.sends.length < 4 ∧ 0 < rqEpm x.rq ∧ x.l.credits.contains (enPeer (curEntry x), curXtag x) = true ∧ lanePaused s n = false ∧ (tileAt s n).num.ue = [] ∧ fabCalm s = true ∧ rqEpm x.rq ≤ 4096) ∧
    (∃ (n : ℕ) (x : LaneCtx) (s : State), entryAt s n 7 = some x ∧ isA2a x.rq = true ∧ 0 < rqEpm x.rq ∧ fabCalm s = true) ∧
    (∃ (n : ℕ) (x : LaneCtx) (s : State), entryAt s n 0 = some x) :=
  ⟨⟨0, ((laneCtx (wAt 6 (Ent.bits { op := 6, peer := 1, tag := 7 }) { wLane 0 with credits := [(1, 7)] }) 0).getD { t := 0, t0 := 0, l := wLane 0, g := wGrp [] [], rq := 0, prog := [] }), (wAt 6 (Ent.bits { op := 6, peer := 1, tag := 7 }) { wLane 0 with credits := [(1, 7)] }), by decide +kernel⟩,
   ⟨0, ((laneCtx (wAt 6 (Ent.bits { op := 7, peer := 1, tag := 7 }) (wLane 0)) 0).getD { t := 0, t0 := 0, l := wLane 0, g := wGrp [] [], rq := 0, prog := [] }), (wAt 6 (Ent.bits { op := 7, peer := 1, tag := 7 }) (wLane 0)), by decide +kernel⟩,
   ⟨0, ((laneCtx (wAt 1 (Ent.bits { op := 0 }) (wLane 0)) 0).getD { t := 0, t0 := 0, l := wLane 0, g := wGrp [] [], rq := 0, prog := [] }), (wAt 1 (Ent.bits { op := 0 }) (wLane 0)), by decide +kernel⟩⟩

theorem witness_FramesFiltered :
    (∃ (e : _) (h : RxHead) (s : State), e ∈ msgRows ∧ h.typ = e.2.1 ∧ fabCalm s = true ∧ portReceives s h.port = false) ∧
    (∃ (e : _) (h : RxHead) (s : State), e ∈ msgRows ∧ h.typ = e.2.1 ∧ fabCalm s = true ∧ portReceives s h.port = true ∧ macOk (fport s h.port) h = false) ∧
    (∃ (e : _) (h : RxHead) (s : State), e ∈ msgRows ∧ h.typ = e.2.1 ∧ fabCalm s = true ∧ portReceives s h.port = true ∧ macOk (fport s h.port) h = true ∧ (h.fmtOk = false ∨ h.dst ≠ nodeOf s ∨ allowFind s h.node = none)) ∧
    (∃ (e : _) (h : RxHead) (gix : ℕ) (g : Group) (s : State), e ∈ msgRows ∧ h.typ = e.2.1 ∧ fabCalm s = true ∧ rxGood s h = true ∧ groupFind s h.group = some gix ∧ groupAt s gix = some g ∧ (pathAt s h.node h.port).rxEpoch ≠ some (BitVec.ofNat 16 h.epoch)) ∧
    (∃ (e : _) (h : RxHead) (gix : ℕ) (g : Group) (s : State), e ∈ msgRows ∧ h.typ = e.2.1 ∧ fabCalm s = true ∧ rxGood s h = true ∧ groupFind s h.group = some gix ∧ groupAt s gix = some g ∧ g.key ≠ [] ∧ opensTo s h = none ∧ (pathAt s h.node h.port).rxEpoch = some (BitVec.ofNat 16 h.epoch)) ∧
    (∃ (e : _) (h : RxHead) (f : UFrame) (s : State), e ∈ msgRows ∧ h.typ = e.2.1 ∧ fabCalm s = true ∧ rxGood s h = true ∧ opensTo s h = some f ∧ (e.2.1 = 5 → f.ctype = e.2.2) ∧ (pathAt s h.node h.port).rxEpoch = some (BitVec.ofNat 16 h.epoch) ∧ (pathAt s h.node h.port).unacked = [] ∧ (pathAt s h.node h.port).rxGot.contains h.pseq = true ∧ (h.pseq + 2 ^ 32 - (pathAt s h.node h.port).rxNext.toNat) % 2 ^ 32 < 16384) ∧
    (∃ (e : _) (h : RxHead) (s : State), e ∈ msgRows ∧ h.typ = e.2.1 ∧ fabCalm s = true ∧ rxGood s h = true ∧ groupFind s h.group = none ∧ h.tag ≠ []) ∧
    (∃ (p : ℕ) (s : State), present s.hw (.fport p) = true ∧ (fport s p).link = 2) :=
  ⟨⟨(Instr.creditFrame, 2, 0), (wHd 2), wUp, by simp [msgRows], by decide +kernel⟩,
   ⟨(Instr.creditFrame, 2, 0), { wHd 2 with icvOk := false }, (wFab wPath (wGrp [] []) []), by simp [msgRows], by decide +kernel⟩,
   ⟨(Instr.creditFrame, 2, 0), { wHd 2 with hdr := (wHd 2).hdr + 1 }, (wFab wPath (wGrp [] []) []), by simp [msgRows], by decide +kernel⟩,
   ⟨(Instr.creditFrame, 2, 0), (wHd 2), 3, (wGrp [] []), (wFab {} (wGrp [] []) []), by simp [msgRows], by decide +kernel⟩,
   ⟨(Instr.creditFrame, 2, 0), (wHd 2), 3, { wGrp [] [] with key := [1] }, (wFab wPath ({ wGrp [] [] with key := [1] }) []), by simp [msgRows], by decide +kernel⟩,
   ⟨(Instr.joinMsg, 5, 1), (wHead 5 3 { typ := 5, group := 9 } [1] []), (wCtrl0 1), (wFab { wPath with rxGot := [3] } (wGrp [] []) []), by simp [msgRows], by decide +kernel⟩,
   ⟨(Instr.creditFrame, 2, 0), { wHd 2 with tag := [1] }, (let s := wFab wPath (wGrp [] []) []; { s with fb := { s.fb with groups := [] } }), by simp [msgRows], by decide +kernel⟩,
   ⟨0, (wFab wPath (wGrp [] []) []), by decide +kernel⟩⟩

theorem witness_CollectiveMessages :
    (∃ (src : MsgSrc) (f : UFrame) (s : State) (s1 : State) (n : ℕ) (gix : ℕ) (g : Group) (l : LaneRun), delivers s src f s1 ∧ f.typ = 2 ∧ fabCalm s = true ∧ frameTile s1 f = some (n, gix, g) ∧ cmpLaunch s1 n gix g f = .current l) ∧
    (∃ (src : MsgSrc) (f : UFrame) (s : State) (s1 : State) (n : ℕ) (gix : ℕ) (g : Group), delivers s src f s1 ∧ f.typ = 2 ∧ fabCalm s = true ∧ frameTile s1 f = some (n, gix, g) ∧ cmpLaunch s1 n gix g f = .future) ∧
    (∃ (src : MsgSrc) (f : UFrame) (s : State) (s1 : State) (n : ℕ) (gix : ℕ) (g : Group), delivers s src f s1 ∧ f.typ = 2 ∧ fabCalm s = true ∧ frameTile s1 f = some (n, gix, g) ∧ cmpLaunch s1 n gix g f = .stale) ∧
    (∃ (src : MsgSrc) (f : UFrame) (s : State) (s1 : State) (n : ℕ) (gix : ℕ) (g : Group) (l : LaneRun) (x : LaneCtx) (r : Recv), delivers s src f s1 ∧ f.typ = 1 ∧ fabCalm s = true ∧ frameTile s1 f = some (n, gix, g) ∧ cmpLaunch s1 n gix g f = .current l ∧ laneCtx s1 n = some x ∧ rqOp x.rq ≠ 5 ∧ (∀ m, localOfRank g f.srcRank = some m → m.t0 + f.lane ≠ n) ∧ l.recvs.find? (fun r => r.peer = f.srcRank && r.xtag = f.xtag) = some r ∧ r.dst < 4 ∧ r.segs = [] ∧ f.seg = 0 ∧ 0 < r.len ∧ r.len ≤ 8192 ∧ f.body.length = r.len ∧ lanePaused s1 n = false ∧ (tileAt s1 n).num.ue = []) ∧
    (∃ (h : RxHead) (f : UFrame) (s : State) (s1 : State) (n : ℕ) (gix : ℕ) (g : Group) (l : LaneRun) (x : LaneCtx) (r : Recv), delivers s (.wire h) f s1 ∧ f.typ = 1 ∧ fabCalm s = true ∧ frameTile s1 f = some (n, gix, g) ∧ cmpLaunch s1 n gix g f = .current l ∧ laneCtx s1 n = some x ∧ rqOp x.rq ≠ 5 ∧ l.recvs.find? (fun r => r.peer = f.srcRank && r.xtag = f.xtag) = some r ∧ r.dst < 4 ∧ r.segs = [] ∧ f.seg = 0 ∧ f.body.length = min 8192 r.len ∧ lanePaused s1 n = true ∧ s.fb.parked.any (fun e => e.2 = f) = false) :=
  ⟨⟨(.local' 0), (wFrame 2 []), (wMsg (wFrame 2 []) (wFab wPath (wGrp [wRq 1] [(0, [0])]) [(0, (wLane 0))])), (wFab wPath (wGrp [wRq 1] [(0, [0])]) [(0, (wLane 0))]), 0, 3, (wGrp [wRq 1] [(0, [0])]), (wLane 0), by unfold delivers; decide +kernel⟩,
   ⟨(.local' 0), { wFrame 2 [] with lseq := 5 }, (wMsg { wFrame 2 [] with lseq := 5 } (wFab wPath (wGrp [wRq 1] [(0, [0])]) [(0, (wLane 0))])), (wFab wPath (wGrp [wRq 1] [(0, [0])]) [(0, (wLane 0))]), 0, 3, (wGrp [wRq 1] [(0, [0])]), by unfold delivers; decide +kernel⟩,
   ⟨(.local' 0), { wFrame 2 [] with lseq := 3 }, (wMsg { wFrame 2 [] with lseq := 3 } (wFab wPath (wGrp [wRq 1] [(0, [0])]) [(0, (wLane 0))])), (wFab wPath (wGrp [wRq 1] [(0, [0])]) [(0, (wLane 0))]), 0, 3, (wGrp [wRq 1] [(0, [0])]), by unfold delivers; decide +kernel⟩,
   ⟨(.local' 0), (wFrame 1 (List.replicate 64 5)), (wMsg (wFrame 1 (List.replicate 64 5)) (wFab wPath (wGrp [wRq 1] [(0, [0])]) [(0, ({ wLane 0 with recvs := [{ peer := 1, xtag := 7, dst := 2, doff := 0, len := 64, key := 0 }] }))])), (wFab wPath (wGrp [wRq 1] [(0, [0])]) [(0, ({ wLane 0 with recvs := [{ peer := 1, xtag := 7, dst := 2, doff := 0, len := 64, key := 0 }] }))]), 0, 3, (wGrp [wRq 1] [(0, [0])]), { wLane 0 with recvs := [{ peer := 1, xtag := 7, dst := 2, doff := 0, len := 64, key := 0 }] }, ((laneCtx (wFab wPath (wGrp [wRq 1] [(0, [0])]) [(0, ({ wLane 0 with recvs := [{ peer := 1, xtag := 7, dst := 2, doff := 0, len := 64, key := 0 }] }))]) 0).getD { t := 0, t0 := 0, l := wLane 0, g := wGrp [] [], rq := 0, prog := [] }), { peer := 1, xtag := 7, dst := 2, doff := 0, len := 64, key := 0 }, by unfold delivers; decide +kernel⟩,
   ⟨(wSealed wKey (wFrame 1 (List.replicate 64 5))), (wFrame 1 (List.replicate 64 5)), (let s := (wFab wPath ({ wGrp [wRq 1] [(0, [0])] with key := wKey }) [(0, { wLane 0 with recvs := [{ peer := 1, xtag := 7, dst := 2, doff := 0, len := 64, key := 0 }] })]); { s with un := { s.un with subst := [(0, { phase := .moving, mode := 1 })] } }), (rxAck (rxCounted (let s := (wFab wPath ({ wGrp [wRq 1] [(0, [0])] with key := wKey }) [(0, { wLane 0 with recvs := [{ peer := 1, xtag := 7, dst := 2, doff := 0, len := 64, key := 0 }] })]); { s with un := { s.un with subst := [(0, { phase := .moving, mode := 1 })] } }) (wSealed wKey (wFrame 1 (List.replicate 64 5)))) (wSealed wKey (wFrame 1 (List.replicate 64 5)))), 0, 3, ({ wGrp [wRq 1] [(0, [0])] with key := wKey }), { wLane 0 with recvs := [{ peer := 1, xtag := 7, dst := 2, doff := 0, len := 64, key := 0 }] }, ((laneCtx (rxAck (rxCounted (let s := (wFab wPath ({ wGrp [wRq 1] [(0, [0])] with key := wKey }) [(0, { wLane 0 with recvs := [{ peer := 1, xtag := 7, dst := 2, doff := 0, len := 64, key := 0 }] })]); { s with un := { s.un with subst := [(0, { phase := .moving, mode := 1 })] } }) (wSealed wKey (wFrame 1 (List.replicate 64 5)))) (wSealed wKey (wFrame 1 (List.replicate 64 5)))) 0).getD { t := 0, t0 := 0, l := wLane 0, g := wGrp [] [], rq := 0, prog := [] }), { peer := 1, xtag := 7, dst := 2, doff := 0, len := 64, key := 0 }, by unfold delivers; decide +kernel⟩⟩

theorem witness_PathFrames :
    (∃ (h : RxHead) (s : State), h.typ = 3 ∧ rxGood s h = true ∧ fabCalm s = true ∧ (pathAt s h.node h.port).rxEpoch = some (BitVec.ofNat 16 h.epoch)) ∧
    (∃ (h : RxHead) (runs : List (ℕ × ℕ)) (s : State), h.typ = 4 ∧ runs = nackRuns 64 h.body ∧ rxGood s h = true ∧ fabCalm s = true ∧ (pathAt s h.node h.port).rxEpoch = some (BitVec.ofNat 16 h.epoch) ∧ (pathAt s h.node h.port).unacked.length ≤ 16384) ∧
    (∃ (h : RxHead) (next : ℕ) (s : State), h.typ = 6 ∧ probeSays h next true = true ∧ rxGood s h = true ∧ fabCalm s = true ∧ (nodePorts s h.node).contains h.port = true) ∧
    (∃ (h : RxHead) (next : ℕ) (s : State), h.typ = 7 ∧ probeSays h next true = true ∧ rxGood s h = true ∧ fabCalm s = true ∧ (nodePorts s h.node).contains h.port = true ∧ (pathAt s h.node h.port).st ≠ 0 ∧ epochOld s h = false) ∧
    (∃ (h : RxHead) (next : ℕ) (s : State), h.typ = 7 ∧ probeSays h next false = true ∧ rxGood s h = true ∧ fabCalm s = true ∧ (nodePorts s h.node).contains h.port = true ∧ (pathAt s h.node h.port).st ≠ 0 ∧ epochOld s h = false ∧ otherUp s h.node h.port = false) ∧
    (∃ (h : RxHead) (next : ℕ) (a : Bool) (s : State), h.typ = 7 ∧ probeSays h next a = true ∧ rxGood s h = true ∧ epochOld s h = false ∧ (pathAt s h.node h.port).st = 0) ∧
    (∃ (node : ℕ) (p : ℕ) (s : State), (pathAt s node p).st ≠ 0 ∧ ((pathAt s node p).st = 2 → (pathAt s node p).unacked = []) ∧ portCarries s p = true ∧ (unitAt s (.fport p)).state = .run ∧ fabCalm s = true) ∧
    (∃ (node : ℕ) (p : ℕ) (s : State), portCarries s p = true ∧ (pathAt s node p).rxPack ≠ (pathAt s node p).rxNext ∧ (pathAt s node p).rxGot = [] ∧ fabCalm s = true) :=
  ⟨⟨(wHd 3), (wFab { wPath with unacked := [{ pseq := 0xFFFFFFFF, frame := wFrame 2 [] }, { pseq := 0, frame := wFrame 2 [] }] } (wGrp [] []) []), by decide +kernel⟩,
   ⟨{ wHd 4 with body := (leBytes 4 1 ++ leBytes 2 1) }, (nackRuns 64 (leBytes 4 1 ++ leBytes 2 1)), (wFab { wPath with unacked := [{ pseq := 0, frame := wFrame 2 [] }, { pseq := 1, frame := wFrame 2 [] }] } (wGrp [] []) []), by decide +kernel⟩,
   ⟨{ wHd 6 with body := leBytes 4 7 ++ [1] }, 7, (wFab { wPath with st := 1, probed := true } (wGrp [] []) []), by decide +kernel⟩,
   ⟨{ wHd 7 with body := leBytes 4 7 ++ [1] }, 7, (wFab { wPath with st := 1, probed := false } (wGrp [] []) []), by decide +kernel⟩,
   ⟨{ wHd 7 with body := leBytes 4 7 ++ [0] }, 7, (wFab { wPath with unacked := [{ pseq := 9, frame := wFrame 2 [] }] } (wGrp [] []) []), by decide +kernel⟩,
   ⟨{ wHd 7 with body := leBytes 4 7 ++ [1] }, 7, true, (wFab { wPath with st := 0 } (wGrp [] []) []), by decide +kernel⟩,
   ⟨2, 0, (wFab { wPath with st := 1, heard := true } (wGrp [] []) []), by decide +kernel⟩,
   ⟨2, 0, (wFab { wPath with rxNext := 5 } (wGrp [] []) []), by decide +kernel⟩⟩

theorem witness_PathFrames_b :
    (∃ (node : ℕ) (p : ℕ) (s : State), (pathAt s node p).rxPack = (pathAt s node p).rxNext ∧ (pathAt s node p).rxGot = [] ∧ fabCalm s = true) ∧
    (∃ (node : ℕ) (p : ℕ) (e : TxFrame) (r : List TxFrame) (s : State), (pathAt s node p).unacked = e :: r ∧ e.timeouts + 1 < bitsOf s.fb.tmr.toNat 23 20 ∧ fabCalm s = true ∧ portCarries s p = true) ∧
    (∃ (node : ℕ) (p : ℕ) (e : TxFrame) (r : List TxFrame) (s : State), (pathAt s node p).unacked = e :: r ∧ bitsOf s.fb.tmr.toNat 23 20 ≤ e.timeouts + 1 ∧ fabCalm s = true ∧ (pathAt s node p).st ≠ 0 ∧ p < 16 ∧ otherUp s node p = false) ∧
    (∃ (node : ℕ) (s : State), node ≠ nodeOf s ∧ (allowFind s node).isSome = true ∧ fabCalm s = true ∧ (nodePorts s node).any (fun p => (pathAt s node p).st = 2) = false) :=
  ⟨⟨2, 0, (wFab wPath (wGrp [] []) []), by decide +kernel⟩,
   ⟨2, 0, { pseq := 0, frame := wFrame 2 [], timeouts := 0 }, [], (wFab { wPath with unacked := [{ pseq := 0, frame := wFrame 2 [], timeouts := 0 }] } (wGrp [] []) []), by decide +kernel⟩,
   ⟨2, 0, { pseq := 0, frame := wFrame 2 [], timeouts := 99 }, [], (wFab { wPath with unacked := [{ pseq := 0, frame := wFrame 2 [], timeouts := 99 }] } (wGrp [] []) []), by decide +kernel⟩,
   ⟨2, (wFab { wPath with st := 0 } (wGrp [] []) []), by decide +kernel⟩⟩

theorem witness_FabricLinksAndRegisters :
    (∃ (p : ℕ) (s : State), present s.hw (.fport p) = true ∧ portMayLink s p = true ∧ (fport s p).link ≠ 2 ∧ fabCalm s = true) ∧
    (∃ (p : ℕ) (s : State), portMayLink s p = false) ∧
    (∃ (p : ℕ) (s : State), present s.hw (.fport p) = true ∧ (fport s p).link ≠ 0) ∧
    (∃ (p : ℕ) (s : State), present s.hw (.fport p) = true ∧ (fport s p).link = 2 ∧ cakOk s p = true ∧ fabCalm s = true ∧ (fport s p).mka = 0) ∧
    (∃ (p : ℕ) (s : State), present s.hw (.fport p) = true ∧ (fport s p).link = 2 ∧ cakOk s p = true ∧ fabCalm s = true ∧ (fport s p).mka = 2) ∧
    (∃ (p : ℕ) (s : State), present s.hw (.fport p) = true ∧ (fport s p).link = 2 ∧ cakOk s p = true ∧ fabCalm s = true) ∧
    (∃ (p : ℕ) (s : State), present s.hw (.fport p) = true ∧ 2 ≤ (fport s p).mka) ∧
    (∃ (e : ℕ) (v : RegPart) (s : State), bar0Open s .pf0 = true ∧ e < 1024 ∧ halfOk v.off v.width = true) :=
  ⟨⟨0, (let s := wFab wPath (wGrp [] []) []; { s with fb := { s.fb with ports := [(0, { wPort with link := 1, mka := 0 })] } }), by decide +kernel⟩,
   ⟨0, wUp, by decide +kernel⟩,
   ⟨0, (wFab wPath (wGrp [] []) []), by decide +kernel⟩,
   ⟨0, (let s := (let s := wFab wPath (wGrp [] []) []; { s with fb := { s.fb with ports := [(0, { wPort with mka := 0 })] } }); { s with ks := { s.ks with slots := [(deviceSlot 0, { ktype := 3, attr := 32 })] } }), by decide +kernel⟩,
   ⟨0, (let s := (let s := wFab wPath (wGrp [] []) []; { s with fb := { s.fb with ports := [(0, { wPort with mka := 2 })] } }); { s with ks := { s.ks with slots := [(deviceSlot 0, { ktype := 3, attr := 32 })] } }), by decide +kernel⟩,
   ⟨0, (let s := (let s := wFab wPath (wGrp [] []) []; { s with fb := { s.fb with ports := [(0, { wPort with mka := 3 })] } }); { s with ks := { s.ks with slots := [(deviceSlot 0, { ktype := 3, attr := 32 })] } }), by decide +kernel⟩,
   ⟨0, (wFab wPath (wGrp [] []) []), by decide +kernel⟩,
   ⟨7, { off := 4, width := 4, val := 1 }, wUp, by decide +kernel⟩⟩

theorem witness_FabricLinksAndRegisters_b :
    (∃ (off : ℕ) (width : ℕ) (v : W64) (s : State), bar0Open s .pf0 = true ∧ s.fb.groups = [] ∧ ((off = 0 ∧ width = 8) ∨ ((off = 0 ∨ off = 4) ∧ width = 4)) ∧ cfgStored off width ((merge64 s.fb.cfg off width v).toNat % 2 ^ 56) = true) ∧
    (∃ (w : Writer) (s : State), (s.fb.groups ≠ [] ∨ w ≠ .pf0)) ∧
    (∃ (p : ℕ) (s : State), bar0Open s .pf0 = true ∧ present s.hw (.fport p) = true ∧ blockLive s (.fport p) = true) ∧
    (∃ (p : ℕ) (s : State), bar0Open s .pf0 = true ∧ present s.hw (.fport p) = true ∧ blockLive s (.fport p) = true) ∧
    (∃ (w : Writer) (p : ℕ) (s : State), (w ≠ .pf0 ∨ present s.hw (.fport p) = false ∨ blockLive s (.fport p) = false)) ∧
    (∃ (w : Writer), w ≠ .pf0) :=
  ⟨⟨0, 8, 0x0002000000018855, wUp, by decide +kernel⟩,
   ⟨.mgmt, wUp, by decide +kernel⟩,
   ⟨0, (wFab wPath (wGrp [] []) []), by decide +kernel⟩,
   ⟨0, (wFab wPath (wGrp [] []) []), by decide +kernel⟩,
   ⟨.mgmt, 0, wUp, by decide +kernel⟩,
   ⟨.mgmt, by decide +kernel⟩⟩

theorem witness_GroupMessages :
    (∃ (h : RxHead) (f : UFrame) (s : State), h.typ = 5 ∧ openFrame [] h = some f ∧ f.ctype = 1 ∧ rxInOrder s h = true ∧ fabCalm s = true ∧ groupFind s h.group = none) ∧
    (∃ (h : RxHead) (f : UFrame) (s : State) (s1 : State) (gix : ℕ) (g : Group), delivers s (.wire h) f s1 ∧ f.typ = 5 ∧ f.ctype = 1 ∧ ctrlNew s1 f gix = true ∧ groupAt s1 gix = some g ∧ g.st ≠ 3 ∧ f.body.take 48 ≠ g.digest) ∧
    (∃ (h : RxHead) (f : UFrame) (s : State) (s1 : State) (gix : ℕ) (g : Group), delivers s (.wire h) f s1 ∧ f.typ = 5 ∧ f.ctype = 2 ∧ ctrlNew s1 f gix = true ∧ groupAt s1 gix = some g ∧ g.st ≠ 3 ∧ f.body ≠ keyconfTag g) ∧
    (∃ (h : RxHead) (f : UFrame) (s : State) (s1 : State) (gix : ℕ) (g : Group), delivers s (.wire h) f s1 ∧ f.typ = 5 ∧ f.ctype = 2 ∧ ctrlNew s1 f gix = true ∧ groupAt s1 gix = some g ∧ fabCalm s = true ∧ g.st = 1 ∧ g.key ≠ [] ∧ f.body = keyconfTag g ∧ ownMembers s1 g ≤ (g.locals.filter (fun m => m.joined)).length ∧ (remoteNodes s1 g).all (fun n => (peerAt g n).isSome) = true ∧ g.peers.all (fun p => p.conf || p.node = h.node) = true) ∧
    (∃ (n : ℕ) (gix : ℕ) (g : Group) (m : LocalMem) (p : Part) (s : State), partsWf s = true ∧ fabCalm s = true ∧ partOf s n = some p ∧ p.t0 = n ∧ p.groupEn = true ∧ p.prep.isSome = true ∧ groupOfSlot s n p.group = some gix ∧ groupAt s gix = some g ∧ localAt g n = some m ∧ localOfRank g m.rank = some m ∧ g.st = 2 ∧ g.vote = true ∧ m.vote = none ∧ m.dec = none ∧ m.phase = 0 ∧ m.kids = [] ∧ m.rank ≠ 0 ∧ treeKids g.members.length m.rank = []) ∧
    (∃ (src : MsgSrc) (f : UFrame) (s : State) (s1 : State) (gix : ℕ) (m : LocalMem), delivers s src f s1 ∧ f.typ = 5 ∧ ctrlNew s1 f gix = true ∧ fabCalm s = true ∧ f.dstRank ≠ 0 ∧ localMember s1 gix f.dstRank = some m ∧ f.lseq = m.round ∧ f.ctype = 3) ∧
    (∃ (src : MsgSrc) (f : UFrame) (s : State) (s1 : State) (gix : ℕ) (m : LocalMem), delivers s src f s1 ∧ f.typ = 5 ∧ ctrlNew s1 f gix = true ∧ fabCalm s = true ∧ f.dstRank ≠ 0 ∧ localMember s1 gix f.dstRank = some m ∧ f.lseq = m.round ∧ f.ctype = 4 ∧ m.phase < 2) ∧
    (∃ (src : MsgSrc) (f : UFrame) (s : State) (s1 : State) (gix : ℕ) (m : LocalMem), delivers s src f s1 ∧ f.typ = 5 ∧ ctrlNew s1 f gix = true ∧ fabCalm s = true ∧ f.dstRank ≠ 0 ∧ localMember s1 gix f.dstRank = some m ∧ f.lseq = m.round ∧ f.ctype = 5) :=
  ⟨⟨(wHead 5 0 (wCtrl0 1) [1] []), (wCtrl0 1), (let s := wFab wPath (wGrp [] []) []; { s with fb := { s.fb with groups := [] } }), by decide +kernel⟩,
   ⟨(wHead 5 0 (wCtrl0 1) [1] []), (wCtrl0 1), (wFab wPath (wGrp [] []) []), (rxAck (rxCounted (wFab wPath (wGrp [] []) []) (wHead 5 0 (wCtrl0 1) [1] [])) (wHead 5 0 (wCtrl0 1) [1] [])), 3, (wGrp [] []), by unfold delivers; decide +kernel⟩,
   ⟨(wSealed wKey { wCtrl0 2 with body := [9] }), { wCtrl0 2 with body := [9] }, (wFab wPath ({ wGrp [] [] with st := 1, key := wKey, peers := [{ node := 2, digest := [1], nonce := [2] }] }) []), (rxAck (rxCounted (wFab wPath ({ wGrp [] [] with st := 1, key := wKey, peers := [{ node := 2, digest := [1], nonce := [2] }] }) []) (wSealed wKey { wCtrl0 2 with body := [9] })) (wSealed wKey { wCtrl0 2 with body := [9] })), 3, ({ wGrp [] [] with st := 1, key := wKey, peers := [{ node := 2, digest := [1], nonce := [2] }] }), by unfold delivers; decide +kernel⟩,
   ⟨(wSealed wKey { wCtrl0 2 with body := (keyconfTag ({ wGrp [] [] with st := 1, key := wKey, peers := [{ node := 2, digest := [1], nonce := [2] }] })) }), { wCtrl0 2 with body := (keyconfTag ({ wGrp [] [] with st := 1, key := wKey, peers := [{ node := 2, digest := [1], nonce := [2] }] })) }, (wFab wPath ({ wGrp [] [] with st := 1, key := wKey, peers := [{ node := 2, digest := [1], nonce := [2] }] }) []), (rxAck (rxCounted (wFab wPath ({ wGrp [] [] with st := 1, key := wKey, peers := [{ node := 2, digest := [1], nonce := [2] }] }) []) (wSealed wKey { wCtrl0 2 with body := (keyconfTag ({ wGrp [] [] with st := 1, key := wKey, peers := [{ node := 2, digest := [1], nonce := [2] }] })) })) (wSealed wKey { wCtrl0 2 with body := (keyconfTag ({ wGrp [] [] with st := 1, key := wKey, peers := [{ node := 2, digest := [1], nonce := [2] }] })) })), 3, ({ wGrp [] [] with st := 1, key := wKey, peers := [{ node := 2, digest := [1], nonce := [2] }] }), by unfold delivers; decide +kernel⟩,
   ⟨0, 3, { wGrp [] [] with vote := true, members := [(1, 0), (2, 0), (1, 16)], locals := [{ rank := 2, t0 := 0, joined := true, round := 6 }] }, { rank := 2, t0 := 0, joined := true, round := 6 }, { wPart with group := 1, groupEn := true, prep := some (1, 4), step := 1 }, (let s := wFab wPath ({ wGrp [] [] with vote := true, members := [(1, 0), (2, 0), (1, 16)], locals := [{ rank := 2, t0 := 0, joined := true, round := 6 }] }) []; { s with tl := { s.tl with parts := [(0, { wPart with group := 1, groupEn := true, prep := some (1, 4), step := 1 })] } }), by decide +kernel⟩,
   ⟨(.local' 0), { wCtrl 3 6 [1] with dstRank := 1, srcRank := 0 }, (wMsg { wCtrl 3 6 [1] with dstRank := 1, srcRank := 0 } (wFab wPath ({ wGrp [] [] with members := [(2, 0), (1, 0), (1, 16)], locals := [{ rank := 1, t0 := 0, joined := true, round := 6 }] }) [])), (wFab wPath ({ wGrp [] [] with members := [(2, 0), (1, 0), (1, 16)], locals := [{ rank := 1, t0 := 0, joined := true, round := 6 }] }) []), 3, { rank := 1, t0 := 0, joined := true, round := 6 }, by unfold delivers; decide +kernel⟩,
   ⟨(.local' 0), { wCtrl 4 6 [1] with dstRank := 1, srcRank := 0 }, (wMsg { wCtrl 4 6 [1] with dstRank := 1, srcRank := 0 } (wFab wPath ({ wGrp [] [] with members := [(2, 0), (1, 0), (1, 16)], locals := [{ rank := 1, t0 := 0, joined := true, round := 6 }] }) [])), (wFab wPath ({ wGrp [] [] with members := [(2, 0), (1, 0), (1, 16)], locals := [{ rank := 1, t0 := 0, joined := true, round := 6 }] }) []), 3, { rank := 1, t0 := 0, joined := true, round := 6 }, by unfold delivers; decide +kernel⟩,
   ⟨(.local' 0), { wCtrl 5 6 [] with dstRank := 1, srcRank := 0 }, (wMsg { wCtrl 5 6 [] with dstRank := 1, srcRank := 0 } (wFab wPath ({ wGrp [] [] with members := [(2, 0), (1, 0), (1, 16)], locals := [{ rank := 1, t0 := 0, joined := true, round := 6 }] }) [])), (wFab wPath ({ wGrp [] [] with members := [(2, 0), (1, 0), (1, 16)], locals := [{ rank := 1, t0 := 0, joined := true, round := 6 }] }) []), 3, { rank := 1, t0 := 0, joined := true, round := 6 }, by unfold delivers; decide +kernel⟩⟩

theorem witness_GroupMessages_b :
    (∃ (src : MsgSrc) (f : UFrame) (s : State) (s1 : State) (gix : ℕ) (m : LocalMem), delivers s src f s1 ∧ f.typ = 5 ∧ ctrlNew s1 f gix = true ∧ fabCalm s = true ∧ f.dstRank ≠ 0 ∧ localMember s1 gix f.dstRank = some m ∧ f.lseq = m.round ∧ f.ctype = 6) ∧
    (∃ (src : MsgSrc) (f : UFrame) (s : State) (s1 : State) (gix : ℕ) (g : Group) (m : LocalMem), delivers s src f s1 ∧ f.typ = 5 ∧ f.ctype = 7 ∧ ctrlNew s1 f gix = true ∧ fabCalm s = true ∧ groupAt s1 gix = some g ∧ f.dstRank = 0 ∧ localOfRank g 0 = some m ∧ g.grpStep.toNat = f.step + 1) ∧
    (∃ (src : MsgSrc) (f : UFrame) (s : State) (s1 : State) (gix : ℕ) (g : Group), delivers s src f s1 ∧ f.typ = 5 ∧ ctrlNew s1 f gix = true ∧ groupAt s1 gix = some g ∧ g.st ≠ 3 ∧ f.ctype = 8 ∧ f.body.getD 1 0 ≠ 0) ∧
    (∃ (src : MsgSrc) (f : UFrame) (s : State) (s1 : State) (gix : ℕ) (g : Group) (h : RxHead), delivers s src f s1 ∧ f.typ = 5 ∧ ctrlNew s1 f gix = true ∧ groupAt s1 gix = some g ∧ g.st ≠ 3 ∧ f.ctype = 9 ∧ src = .wire h) :=
  ⟨⟨(.local' 0), { wCtrl 6 6 [] with dstRank := 1, srcRank := 0 }, (wMsg { wCtrl 6 6 [] with dstRank := 1, srcRank := 0 } (wFab wPath ({ wGrp [] [] with members := [(2, 0), (1, 0), (1, 16)], locals := [{ rank := 1, t0 := 0, joined := true, round := 6 }] }) [])), (wFab wPath ({ wGrp [] [] with members := [(2, 0), (1, 0), (1, 16)], locals := [{ rank := 1, t0 := 0, joined := true, round := 6 }] }) []), 3, { rank := 1, t0 := 0, joined := true, round := 6 }, by unfold delivers; decide +kernel⟩,
   ⟨(.local' 0), (wCtrl 7 6 []), (wMsg (wCtrl 7 6 []) (wFab wPath ({ wGrp [] [] with grpStep := 3 }) [])), (wFab wPath ({ wGrp [] [] with grpStep := 3 }) []), 3, { wGrp [] [] with grpStep := 3 }, { rank := 0, t0 := 0, joined := true }, by unfold delivers; decide +kernel⟩,
   ⟨(.local' 0), (wCtrl 8 6 [13, 1]), (wMsg (wCtrl 8 6 [13, 1]) (wFab wPath (wGrp [] []) [])), (wFab wPath (wGrp [] []) []), 3, (wGrp [] []), by unfold delivers; decide +kernel⟩,
   ⟨(.wire (wHead 5 0 (wCtrl0 9) [9] [])), (wCtrl0 9), (wFab wPath (wGrp [] []) []), (rxAck (rxCounted (wFab wPath (wGrp [] []) []) (wHead 5 0 (wCtrl0 9) [9] [])) (wHead 5 0 (wCtrl0 9) [9] [])), 3, (wGrp [] []), (wHead 5 0 (wCtrl0 9) [9] []), by unfold delivers; decide +kernel⟩⟩

theorem witness_MemoryRepair :
    (∃ (m : ℕ) (e : LineEv) (s : State), scrubReads s m = true ∧ lineDead s (scrubLk s m) { e with line := scrubLk s m } = false ∧ lineCorrected s (scrubLk s m) { e with line := scrubLk s m } = false) ∧
    (∃ (m : ℕ) (e : LineEv) (s : State), scrubReads s m = true ∧ m < 16 ∧ lineDead s (scrubLk s m) { e with line := scrubLk s m } = true ∧ e.pcDead = false) ∧
    (∃ (m : ℕ) (e : LineEv) (s : State), scrubReads s m = true ∧ m < 16 ∧ e.pcDead = true) ∧
    (∃ (m : ℕ) (pc : ℕ) (row : ℕ) (s : State), m < 16 ∧ pc < mcPcs m ∧ (pcAt s (m * 128 + pc)).pending.contains row = true) ∧
    (∃ (u : UnitId) (m : ℕ) (pc : ℕ) (row : ℕ) (s : State), mcIndex u = some m ∧ present s.hw u = true ∧ blockLive s u = true ∧ pc < mcPcs m ∧ row < pcFrames m * 32 ∧ (pcAt s (m * 128 + pc)).pending.contains row = false ∧ (pcAt s (m * 128 + pc)).st ≠ 3 ∧ (pcAt s (m * 128 + pc)).spare ≠ 0) ∧
    (∃ (u : UnitId) (m : ℕ) (pc : ℕ) (scope : ℕ) (s : State), mcIndex u = some m ∧ present s.hw u = true ∧ blockLive s u = true ∧ pc < mcPcs m ∧ scope < 3) ∧
    (∃ (u : UnitId) (w : Writer) (s : State), (w ≠ .mgmt ∨ blockLive s u = false)) ∧
    (∃ (m : ℕ) (pc : ℕ) (g : Mig) (s : State), (pcAt s (m * 128 + pc)).mig = some g ∧ mcWorks s m = true ∧ g.src ≠ g.dst ∧ (frameAt s g.src).st = 1 ∧ pcKey g.dst ≠ m * 128 + pc ∧ Memory.wf s.mm.bytes = true) :=
  ⟨⟨4, { line := 0 }, (wMem {}), by decide +kernel⟩,
   ⟨4, { line := 0, errs := 6 }, (wMem {}), by decide +kernel⟩,
   ⟨4, { line := 0, pcDead := true }, (wMem {}), by decide +kernel⟩,
   ⟨4, 0, 7, (wPc { pending := [7] }), by decide +kernel⟩,
   ⟨(.stack 0), 4, 0, 7, (wPc {}), by decide +kernel⟩,
   ⟨(.stack 0), 4, 0, 2, (wPc {}), by decide +kernel⟩,
   ⟨(.stack 0), .pf0, wUp, by decide +kernel⟩,
   ⟨4, 0, { src := 2 ^ 26, dst := 2 ^ 26 + 1 }, (wMem { pcs := [(512, { mig := some { src := 2 ^ 26, dst := 2 ^ 26 + 1 } })], frames := [(2 ^ 26, { st := 1, owner := 3 })], bytes := [(2 ^ 42 + 5, 7)] }), by decide +kernel⟩⟩

theorem witness_MemoryRepair_b :
    (∃ (m : ℕ) (ch : ℕ) (s : State), m < 16 ∧ 2 * ch + 1 < mcPcs m ∧ present s.hw (mcUnit m) = true) ∧
    (∃ (m : ℕ) (ch : ℕ) (s : State), m < 16 ∧ 2 * ch + 1 < mcPcs m ∧ present s.hw (mcUnit m) = true) ∧
    (∃ (m : ℕ) (ch : ℕ) (s : State), m < 16 ∧ 2 * ch + 1 < mcPcs m ∧ present s.hw (mcUnit m) = true) :=
  ⟨⟨4, 0, (wPc { lanes := [{ lane := 1, count := 1, syms := 1, erased := true }] }), by decide +kernel⟩,
   ⟨4, 0, (wPc {}), by decide +kernel⟩,
   ⟨4, 0, (wPc {}), by decide +kernel⟩⟩

theorem witness_FarAndFrames :
    (∃ (blk : ℕ) (level : ℕ) (idx : ℕ) (b : FarBlock) (s : State), mapFind s.mm.far blk = some b ∧ level ≤ 5 ∧ idx < mdLines level ∧ b.dirty.contains (mdKey level idx) = true ∧ mapGet 0 b.nodes (mdKey level idx) ≠ 2 ^ 56 - 1) ∧
    (∃ (blk : ℕ) (level : ℕ) (idx : ℕ) (b : FarBlock) (s : State), mapFind s.mm.far blk = some b ∧ level ≤ 5 ∧ idx < mdLines level ∧ b.dirty.contains (mdKey level idx) = true ∧ mapGet 0 b.nodes (mdKey level idx) = 2 ^ 56 - 1) ∧
    (∃ (blk : ℕ) (b : FarBlock) (s : State), mapFind s.mm.far blk = some b ∧ b.fail.isSome = true ∧ farInUse s blk = false) ∧
    (∃ (blk : ℕ) (b : FarBlock) (s : State), mapFind s.mm.far blk = some b ∧ (b.fail = none ∨ farInUse s blk = true)) ∧
    (∃ (tier : ℕ) (f : ℕ) (s : State), tier ≤ 2 ∧ f < 2 ^ 26 ∧ (frameAt s (frameKey tier f)).st = 2 ∧ migrating s (frameKey tier f) = false) ∧
    (∃ (tier : ℕ) (f : ℕ) (s : State), tier ≤ 2 ∧ f < 2 ^ 26 ∧ (frameAt s (frameKey tier f)).st = 3 ∧ farOk s (frameKey tier f) = true ∧ migrating s (frameKey tier f) = false) ∧
    (∃ (tier : ℕ) (f : ℕ) (s : State), migrating s (frameKey tier f) = true) ∧
    (∃ (s : State), bar0Open s .pf0 = true) :=
  ⟨⟨0, 0, 9, { base := 0, dirty := [mdKey 0 9] }, (wFar { base := 0, dirty := [mdKey 0 9] }), by decide +kernel⟩,
   ⟨0, 0, 9, { base := 0, dirty := [mdKey 0 9], nodes := [(mdKey 0 9, 2 ^ 56 - 1)] }, (wFar { base := 0, dirty := [mdKey 0 9], nodes := [(mdKey 0 9, 2 ^ 56 - 1)] }), by decide +kernel⟩,
   ⟨0, { base := 0, fail := some 2 }, (wFar { base := 0, fail := some 2 }), by decide +kernel⟩,
   ⟨0, { base := 0 }, (wFar { base := 0 }), by decide +kernel⟩,
   ⟨1, 5, (wFrm { st := 2, owner := 0 } []), by decide +kernel⟩,
   ⟨1, 5, (wFrm { st := 3, owner := 0 } []), by decide +kernel⟩,
   ⟨1, 5, (wFrm { st := 3, owner := 0 } [(512, { mig := some { src := 2 ^ 26 + 5, dst := 2 ^ 26 + 6 } })]), by decide +kernel⟩,
   ⟨wUp, by decide +kernel⟩⟩

theorem witness_FarAndFrames_b :
    ∃ (w : Writer), w ≠ .pf0 :=
  ⟨.mgmt, by decide +kernel⟩

theorem witness_HostAccesses :
    (∃ (src : HdmSrc) (off : ℕ) (bs : List Byte) (c : ℕ) (s : State), portUp s (match src with | .cxlMem p => p | .vfBar2 p _ => p | .foreign p => p) = true ∧ hdmDropped s src = false ∧ hdmTarget s src off bs.length = some c) ∧
    (∃ (src : HdmSrc) (off : ℕ) (c : ℕ) (s : State), hdmTarget s src off 0 = some c) ∧
    (∃ (src : HdmSrc) (off : ℕ) (bs : List Byte) (c : ℕ) (s : State), hdmTarget s src off bs.length = some c) ∧
    (∃ (p : ℕ) (off : ℕ) (s : State), portUp s p = true ∧ hdmDropped s (.cxlMem p) = false ∧ hdmTarget s (.cxlMem p) off 0 = none) ∧
    (∃ (p : ℕ) (s : State), portUp s p = true) ∧
    (∃ (blk : ℕ) (b : FarBlock) (s : State), s.pw.on = true ∧ mapFind s.mm.far blk = some b ∧ b.fail = none) ∧
    (∃ (port : ℕ) (speed : ℕ) (s : State), portUp s port = true ∧ (if port = 0 then s.pn.perst0 else s.pn.perst1) = true ∧ (unitAt s (.hport port)).state = .run ∧ 1 ≤ speed ∧ speed ≤ 4) ∧
    (∃ (port : ℕ) (s : State), portUp s port = true) :=
  ⟨⟨(.vfBar2 0 0), 64, [1, 2, 3, 4], 0, (wHost { mse := true } wVfs), by decide +kernel⟩,
   ⟨(.vfBar2 0 0), 64, 0, (wHost { mse := true } wVfs), by decide +kernel⟩,
   ⟨(.vfBar2 0 0), 64, [1], 0, (wHost { mse := true } wVfs), by decide +kernel⟩,
   ⟨0, 1073741824, (wHost { mse := true } wVfs), by decide +kernel⟩,
   ⟨0, (wHost { mse := true } wVfs), by decide +kernel⟩,
   ⟨0, { base := 0 }, (wFar { base := 0 }), by decide +kernel⟩,
   ⟨0, 3, (wHost { mse := true } wVfs), by decide +kernel⟩,
   ⟨0, (wHost { mse := true } wVfs), by decide +kernel⟩⟩

theorem witness_HostAccesses_b :
    (∃ (port : ℕ) (c : ℕ) (q : ℕ) (k : QCmd) (s : State), portUp s port = true ∧ cmdAt s { ctx := c, qid := q } = some k ∧ k.st = .busy ∧ k.job = .dma ∧ k.status = none ∧ k.abort = false ∧ ctxPort s c = port) ∧
    (∃ (port : ℕ) (s : State), portUp s port = true) :=
  ⟨⟨0, 0, 3, { entry := [], st := .busy, job := .dma }, (let s := (wHost { mse := true } wVfs); { s with rg := { s.rg with queues := [(3, { sqOff := 0, sqLog2 := 4, cq := { off := 4096, log2 := 4 }, cmd := some { entry := [], st := .busy, job := .dma } })] } }), by decide +kernel⟩,
   ⟨0, (wHost { mse := true } wVfs), by decide +kernel⟩⟩

theorem witness_DisablingEvents :
    (∃ (port : ℕ) (vf : ℕ) (s : State), vfThere s port vf = true ∧ (funcAt s (vfKey port vf)).nrdy = false) ∧
    (∃ (port : ℕ) (s : State), portUp s port = true) ∧
    (∃ (port : ℕ) (s : State), portUp s port = true ∧ (funcAt s port).nrdy = false ∧ (hportAt s port).vfEn = true) ∧
    (∃ (port : ℕ) (n : ℕ) (s : State), portUp s port = true ∧ (funcAt s port).nrdy = false ∧ n + (hportAt s (1 - port)).numVfs ≤ 512) ∧
    (∃ (port : ℕ) (n : ℕ) (s : State), 512 < n + (hportAt s (1 - port)).numVfs) ∧
    (∃ (port : ℕ) (s : State), portUp s port = true) ∧
    (∃ (port : ℕ) (vf : Option ℕ) (s : State), funcThere s port vf = true ∧ (funcAt s (funcKey port vf)).nrdy = false ∧ (funcAt s (funcKey port vf)).bme = false) ∧
    (∃ (port : ℕ) (vf : Option ℕ) (s : State), funcThere s port vf = true ∧ (funcAt s (funcKey port vf)).nrdy = false ∧ (funcAt s (funcKey port vf)).mse = false) :=
  ⟨⟨0, 0, (wHost { mse := true } wVfs), by decide +kernel⟩,
   ⟨0, (wHost { mse := true } wVfs), by decide +kernel⟩,
   ⟨0, (wHost { mse := true } wVfs), by decide +kernel⟩,
   ⟨0, 3, (wHost { mse := true } wVfs), by decide +kernel⟩,
   ⟨0, 513, (wHost { mse := true } wVfs), by decide +kernel⟩,
   ⟨0, (wHost { mse := true } wVfs), by decide +kernel⟩,
   ⟨0, (some 0), (wHost {} wVfs), by decide +kernel⟩,
   ⟨0, (some 0), (wHost {} wVfs), by decide +kernel⟩⟩

theorem witness_DisablingEvents_b :
    (∃ (port : ℕ) (vf : Option ℕ) (s : State), funcThere s port vf = true ∧ (funcAt s (funcKey port vf)).nrdy = false ∧ (funcAt s (funcKey port vf)).bme = true) ∧
    (∃ (port : ℕ) (vf : Option ℕ) (s : State), funcThere s port vf = true ∧ (funcAt s (funcKey port vf)).nrdy = false ∧ (funcAt s (funcKey port vf)).mse = true) :=
  ⟨⟨0, (some 0), (wHost { bme := true, tdi := 2 } wVfs), by decide +kernel⟩,
   ⟨0, none, (wHost { mse := true } wVfs), by decide +kernel⟩⟩

theorem witness_LinkSecurity :
    (∃ (port : ℕ) (st : ℕ) (s : State), portUp s port = true ∧ spdmUp s port = true ∧ st < 10) ∧
    (∃ (port : ℕ) (s : State), spdmUp s port = false) ∧
    (∃ (port : ℕ) (st : ℕ) (s : State), portUp s port = true ∧ (hportAt s port).secure.contains st = true) ∧
    (∃ (port : ℕ) (st : ℕ) (s : State), portUp s port = true ∧ (hportAt s port).secure.contains st = true) ∧
    (∃ (port : ℕ) (st : ℕ) (s : State), portUp s port = true ∧ (hportAt s port).secure.contains st = true ∧ (hportAt s port).ideLow.contains st = false) ∧
    (∃ (port : ℕ) (vf : ℕ) (st : ℕ) (s : State), vfThere s port vf = true ∧ spdmUp s port = true ∧ (funcAt s (vfKey port vf)).tdi = 0 ∧ (funcAt s (vfKey port vf)).nrdy = false ∧ lockRefused s port vf st = false) ∧
    (∃ (port : ℕ) (vf : ℕ) (s : State), vfThere s port vf = true ∧ spdmUp s port = true ∧ (funcAt s (vfKey port vf)).tdi = 1) ∧
    (∃ (port : ℕ) (vf : ℕ) (s : State), vfThere s port vf = true ∧ spdmUp s port = true ∧ (funcAt s (vfKey port vf)).tdi ≠ 0 ∧ (funcAt s (vfKey port vf)).nrdy = false) :=
  ⟨⟨0, 3, (wHost { mse := true } wVfs), by decide +kernel⟩,
   ⟨0, wUp, by decide +kernel⟩,
   ⟨0, 2, (wHost { mse := true } wVfs), by decide +kernel⟩,
   ⟨0, 2, (wHost { mse := true } wVfs), by decide +kernel⟩,
   ⟨0, 2, (wHost { mse := true } wVfs), by decide +kernel⟩,
   ⟨0, 0, 0, (wHost { mse := true } wVfs), by decide +kernel⟩,
   ⟨0, 0, (wHost { tdi := 1, nonce := [3] } wVfs), by decide +kernel⟩,
   ⟨0, 0, (wHost { tdi := 2 } wVfs), by decide +kernel⟩⟩

theorem witness_LinkSecurity_b :
    (∃ (port : ℕ) (vf : ℕ) (s : State), vfThere s port vf = true ∧ (funcAt s (vfKey port vf)).nrdy = false ∧ ((funcAt s (vfKey port vf)).tdi = 1 ∨ (funcAt s (vfKey port vf)).tdi = 2)) ∧
    (∃ (port : ℕ) (vf : ℕ) (s : State), (funcAt s (vfKey port vf)).tdi = 0) :=
  ⟨⟨0, 0, (wHost { tdi := 2 } wVfs), by decide +kernel⟩,
   ⟨0, 0, wUp, by decide +kernel⟩⟩

theorem witness_EntriesTaken :
    (∃ (e : _) (ctx : ℕ) (qid : ℕ) (q : Queue) (bs : List Byte) (st : ℕ) (s : State), e ∈ ringRows ∧ fabCalm s = true ∧ queueAt s (qRef ctx qid) = some q ∧ mayRead q = true ∧ entryBytes s (qRef ctx qid) q = some bs ∧ eOpc (leVal bs) = e.2 ∧ entryCheck s (qRef ctx qid) (leVal bs) = some st) ∧
    (∃ (e : _) (ctx : ℕ) (qid : ℕ) (q : Queue) (bs : List Byte) (o : ℕ) (f : Obj) (s : State), e ∈ ringRows ∧ fabCalm s = true ∧ queueAt s (qRef ctx qid) = some q ∧ mayRead q = true ∧ entryBytes s (qRef ctx qid) q = some bs ∧ eOpc (leVal bs) = e.2 ∧ entryCheck s (qRef ctx qid) (leVal bs) = none ∧ eWaitEn (leVal bs) = true ∧ handleObj s (eCtx (leVal bs)) (eWaitH (leVal bs)) 2 = some o ∧ objAt s o = some f ∧ fenceWait f (eWaitVal (leVal bs)) = .stand) ∧
    (∃ (e : _) (ctx : ℕ) (qid : ℕ) (q : Queue) (s : State), e ∈ ringRows ∧ fabCalm s = true ∧ queueAt s (qRef ctx qid) = some q ∧ mayRead q = true ∧ entryBytes s (qRef ctx qid) q = none) ∧
    (∃ (e : _) (ctx : ℕ) (qid : ℕ) (q : Queue) (s : State), e ∈ ringRows ∧ fabCalm s = true ∧ queueAt s (qRef ctx qid) = some q ∧ q.cmd = none ∧ q.head = q.tail) ∧
    (∃ (ctx : ℕ) (qid : ℕ) (k : QCmd) (o : ℕ) (f : Obj) (s : State), cmdAt s (qRef ctx qid) = some k ∧ k.st = .waiting ∧ k.wobj = some o ∧ objAt s o = some f ∧ k.status = none ∧ k.abort = false ∧ k.job = .none' ∧ (queueAt s (qRef ctx qid)).any recordFree = true ∧ fenceWait f (eWaitVal (leVal k.entry)) = .go) ∧
    (∃ (ctx : ℕ) (qid : ℕ) (k : QCmd) (o : ℕ) (f : Obj) (s : State) (st : ℕ), cmdAt s (qRef ctx qid) = some k ∧ k.st = .waiting ∧ k.wobj = some o ∧ objAt s o = some f ∧ k.status = none ∧ k.abort = false ∧ k.job = .none' ∧ (queueAt s (qRef ctx qid)).any recordFree = true ∧ fenceWait f (eWaitVal (leVal k.entry)) = .fail st) ∧
    (∃ (ctx : ℕ) (qid : ℕ) (k : QCmd) (o : ℕ) (f : Obj) (s : State), cmdAt s (qRef ctx qid) = some k ∧ k.st = .waiting ∧ k.wobj = some o ∧ objAt s o = some f ∧ k.status = none ∧ k.abort = false ∧ k.job = .none' ∧ (queueAt s (qRef ctx qid)).any recordFree = true ∧ fenceWait f (eWaitVal (leVal k.entry)) = .stand) :=
  ⟨⟨(Instr.ringNop, 0x00), 0, 0, { wQueue none with tail := 1 }, (wEnt 0 1), stInvalid, (wSent (wEnt 0 1)), by simp [ringRows], by decide +kernel⟩,
   ⟨(Instr.ringNop, 0x00), 0, 0, { wQueue none with tail := 1 }, (leBytes 64 (3 <<< 32 + 1 <<< 8 + (65536 + 5) <<< 64 + 9 <<< 128)), 7, (wObj 2), (wSent (leBytes 64 (3 <<< 32 + 1 <<< 8 + (65536 + 5) <<< 64 + 9 <<< 128))), by simp [ringRows], by decide +kernel⟩,
   ⟨(Instr.ringNop, 0x00), 0, 0, { wQueue none with tail := 1 }, (let s := (wSent (wEnt 0 0)); { s with rg := { s.rg with winBad := [winBase 0 / 64] } }), by simp [ringRows], by decide +kernel⟩,
   ⟨(Instr.ringNop, 0x00), 0, 0, (wQueue none), (wRing none (wObj 2)), by simp [ringRows], by decide +kernel⟩,
   ⟨0, 0, { entry := leBytes 64 (3 <<< 32 + 4 <<< 128), st := .waiting, wobj := some 7 }, 7, (wObj 2), (wRing (some { entry := leBytes 64 (3 <<< 32 + 4 <<< 128), st := .waiting, wobj := some 7 }) (wObj 2)), by decide +kernel⟩,
   ⟨0, 0, { entry := leBytes 64 (3 <<< 32 + 5 <<< 128), st := .waiting, wobj := some 7 }, 7, { wObj 2 with value := fenceTop, last := 4, tstatus := stAbandoned }, (wRing (some { entry := leBytes 64 (3 <<< 32 + 5 <<< 128), st := .waiting, wobj := some 7 }) ({ wObj 2 with value := fenceTop, last := 4, tstatus := stAbandoned })), stAbandoned, by decide +kernel⟩,
   ⟨0, 0, { entry := leBytes 64 (3 <<< 32 + 5 <<< 128), st := .waiting, wobj := some 7 }, 7, (wObj 2), (wRing (some { entry := leBytes 64 (3 <<< 32 + 5 <<< 128), st := .waiting, wobj := some 7 }) (wObj 2)), by decide +kernel⟩⟩

theorem witness_RingEvents :
    (∃ (src : DbSrc) (ctx : ℕ) (qn : ℕ) (tail : ℕ) (q : Queue) (s : State), dbReaches s src ctx = true ∧ queueAt s (qRef ctx (qn % 32)) = some q ∧ q.st = .idle ∧ tail % 4096 < 2 ^ q.sqLog2) ∧
    (∃ (src : DbSrc) (ctx : ℕ) (qn : ℕ) (tail : ℕ) (q : Queue) (s : State), dbReaches s src ctx = true ∧ queueAt s (qRef ctx (qn % 32)) = some q ∧ q.st = .idle ∧ 2 ^ q.sqLog2 ≤ tail % 4096) ∧
    (∃ (src : DbSrc) (ctx : ℕ) (qn : ℕ) (head : ℕ) (q : Queue) (s : State), dbReaches s src ctx = true ∧ queueAt s (qRef ctx (qn % 32)) = some q ∧ q.cq.backlog = [] ∧ head % 4096 < ringSize q.cq) ∧
    (∃ (src : DbSrc) (ctx : ℕ) (head : ℕ) (r : Ring) (s : State), dbReaches s src ctx = true ∧ (ctxAt s ctx).evr = some r ∧ r.backlog = [] ∧ head % 4096 < ringSize r) ∧
    (∃ (src : DbSrc) (ctx : ℕ) (n : ℕ) (m : ℕ) (s : State) (c : _), c ∈ [Instr.sqTail src ctx n m, Instr.cqHead src ctx n m, Instr.evqHead src ctx m] ∧ (funcAt s (srcFunc src)).mse = true ∧ dbMapped s src ctx = true ∧ dbTaken s src ctx = false) ∧
    (∃ (ctx : ℕ) (qid : ℕ) (q : Queue) (k : QCmd) (st : ℕ) (s : State), queueAt s (qRef ctx qid) = some q ∧ q.cmd = some k ∧ k.st = .ended ∧ k.status = some st ∧ recordFree q = true) ∧
    (∃ (obj : ℕ) (x : Obj) (s : State), objAt s obj = some x ∧ x.releasing = false ∧ x.host = 0 ∧ devCount s obj = 0 ∧ x.typ ≠ 1) ∧
    (∃ (obj : ℕ) (x : Obj) (s : State), objAt s obj = some x ∧ x.releasing = false ∧ x.host = 0 ∧ devCount s obj = 0 ∧ x.typ = 1 ∧ pageAwaited s x.owner (mappedPages s x.owner x.base x.size) = false) :=
  ⟨⟨(.pf 0), 0, 0, 5, (wQueue none), (wRing none (wObj 2)), by decide +kernel⟩,
   ⟨(.pf 0), 0, 0, 16, (wQueue none), (wRing none (wObj 2)), by decide +kernel⟩,
   ⟨(.pf 0), 0, 0, 2, { wQueue none with cq := { off := 4096, log2 := 4, used := 3, tail := 3 } }, (let s := (wRing none (wObj 2)); { s with rg := { s.rg with queues := [(0, { wQueue none with cq := { off := 4096, log2 := 4, used := 3, tail := 3 } })] } }), by decide +kernel⟩,
   ⟨(.pf 0), 3, 2, { off := 8192, log2 := 4, used := 3, tail := 3 }, (let s := (wRing none (wObj 2)); { s with rg := { s.rg with ctxs := [(0, { st := .active }), (3, { st := .active, evr := some { off := 8192, log2 := 4, used := 3, tail := 3 } })] } }), by decide +kernel⟩,
   ⟨(.pf 0), 3, 0, 0, (let s := (wRing none (wObj 2)); { s with rg := { s.rg with ctxs := [(0, { st := .active }), (3, { st := .disabling })] } }), (Instr.sqTail (.pf 0) 3 0 0), by decide +kernel⟩,
   ⟨0, 0, (wQueue (some { entry := leBytes 64 (3 <<< 32 + 1 <<< 9 + (65536 + 5) <<< 96 + 9 <<< 192), st := .ended, status := some stOk, sobj := some 7 })), { entry := leBytes 64 (3 <<< 32 + 1 <<< 9 + (65536 + 5) <<< 96 + 9 <<< 192), st := .ended, status := some stOk, sobj := some 7 }, stOk, (wRing (some { entry := leBytes 64 (3 <<< 32 + 1 <<< 9 + (65536 + 5) <<< 96 + 9 <<< 192), st := .ended, status := some stOk, sobj := some 7 }) (wObj 2)), by decide +kernel⟩,
   ⟨7, { wObj 4 with host := 0 }, (let s := (wRing none ({ wObj 4 with host := 0 })); { s with rg := { s.rg with ctxs := [(0, { st := .active }), (3, { st := .active })] } }), by decide +kernel⟩,
   ⟨7, { wObj 1 with host := 0 }, (wMm (wMapped []) (let s := (wRing none ({ wObj 1 with host := 0 })); { s with rg := { s.rg with ctxs := [(0, { st := .active }), (3, { st := .active })] } })), by decide +kernel⟩⟩

theorem witness_RingEvents_b :
    (∃ (obj : ℕ) (x : Obj) (s : State), objAt s obj = some x ∧ x.releasing = true ∧ x.awaits = []) ∧
    (∃ (obj : ℕ) (x : Obj) (s : State), objAt s obj = some x ∧ x.releasing = true ∧ x.awaits ≠ []) ∧
    (∃ (obj : ℕ) (x : Obj) (s : State), objAt s obj = some x ∧ x.releasing = false ∧ (x.host ≠ 0 ∨ devCount s obj ≠ 0)) ∧
    (∃ (ctx : ℕ) (r : Ring) (s : State), (ctxAt s ctx).evr = some r ∧ r.lost ≠ 0 ∧ r.backlog.length < 1024) ∧
    (∃ (port : ℕ) (q : Queue) (s : State), port < 2 ∧ isAdminCtx s.hw (adminCtxOf port) = true ∧ queueAt s (qRef (adminCtxOf port) 0) = some q ∧ q.cq.lost ≠ 0 ∧ q.cq.backlog.length < 1024) :=
  ⟨⟨7, { wObj 1 with host := 0, releasing := true }, (wRing none ({ wObj 1 with host := 0, releasing := true })), by decide +kernel⟩,
   ⟨7, { wObj 1 with host := 0, releasing := true, awaits := [9] }, (wRing none ({ wObj 1 with host := 0, releasing := true, awaits := [9] })), by decide +kernel⟩,
   ⟨7, (wObj 2), (wRing none (wObj 2)), by decide +kernel⟩,
   ⟨3, { off := 8192, log2 := 4, lost := 2 }, (let s := (wRing none (wObj 2)); { s with rg := { s.rg with ctxs := [(0, { st := .active }), (3, { st := .active, evr := some { off := 8192, log2 := 4, lost := 2 } })] } }), by decide +kernel⟩,
   ⟨0, { wQueue none with cq := { off := 4096, log2 := 4, lost := 2 } }, (let s := (wRing none (wObj 2)); { s with rg := { s.rg with queues := [(0, { wQueue none with cq := { off := 4096, log2 := 4, lost := 2 } })] } }), by decide +kernel⟩⟩

theorem witness_ContextCommands :
    (∃ (ctx : ℕ) (qid : ℕ) (k : QCmd) (s : State), ready s (qRef ctx qid) 0x00 k) ∧
    (∃ (ctx : ℕ) (qid : ℕ) (k : QCmd) (s : State), ready s (qRef ctx qid) 0x01 k) ∧
    (∃ (ctx : ℕ) (qid : ℕ) (k : QCmd) (s : State) (lo : ℕ) (hi : ℕ), ready s (qRef ctx qid) 0x02 k ∧ lo = pay (leVal k.entry) 0x20 7 0 ∧ hi = pay (leVal k.entry) 0x20 15 8 ∧ lo ≠ 0 ∧ lo ≤ hi ∧ lo ≤ min hi (fwMajMax s) ∧ fwMajMin s ≤ min hi (fwMajMax s) ∧ s.fw.runMgmt.isSome = true ∧ (hportAt s (ctxPort s ctx)).negMaj = 0) ∧
    (∃ (ctx : ℕ) (qid : ℕ) (k : QCmd) (s : State) (c : ℕ), ready s (qRef ctx qid) 0x03 k ∧ c = pay (leVal k.entry) 0x20 11 0 ∧ c < 512 ∧ isAdminCtx s.hw c = false ∧ (ctxAt s c).st = .free) ∧
    (∃ (ctx : ℕ) (qid : ℕ) (k : QCmd) (s : State), ready s (qRef ctx qid) 0x04 k ∧ isAdminCtx s.hw (eCtx (leVal k.entry)) = false ∧ (ctxAt s (eCtx (leVal k.entry))).st = .active ∧ (ctxAt s (eCtx (leVal k.entry))).vf = none) ∧
    (∃ (ctx : ℕ) (qid : ℕ) (k : QCmd) (s : State) (c : ℕ) (vf : ℕ), ready s (qRef ctx qid) 0x05 k ∧ c = eCtx (leVal k.entry) ∧ vf = pay (leVal k.entry) 0x20 8 0 ∧ isAdminCtx s.hw c = false ∧ (ctxAt s c).vf = none ∧ s.rg.ctxs.any (fun e => e.2.st ≠ .free && e.2.port = ctxPort s c && e.2.vf = some vf) = false) ∧
    (∃ (ctx : ℕ) (qid : ℕ) (k : QCmd) (s : State) (c : ℕ), ready s (qRef ctx qid) 0x06 k ∧ c = eCtx (leVal k.entry) ∧ (ctxAt s c).vf = some (pay (leVal k.entry) 0x20 8 0) ∧ ctxQueues s c = [] ∧ ctxTdi s c = 0 ∧ (ctxParts s c).any (fun p => p.st = .running) = false) ∧
    (∃ (ctx : ℕ) (qid : ℕ) (k : QCmd) (s : State) (fn : ℕ) (base : ℕ) (size : ℕ), ready s (qRef ctx qid) 0x07 k ∧ fn = pay (leVal k.entry) 0x20 9 0 ∧ fn < 512 ∧ base = pay (leVal k.entry) 0x28 63 0 ∧ size = pay (leVal k.entry) 0x30 63 0 ∧ base % 4096 = 0 ∧ size % 4096 = 0 ∧ (funcAt s (vfKey (ctxPort s ctx) fn)).tdi = 0) :=
  ⟨⟨0, 0, (wCmdR 0x00 (0)), (wRun1 0x00 (0) 2), by unfold ready; decide +kernel⟩,
   ⟨0, 0, (wCmdR 0x01 (0)), (wRun1 0x01 (0) 2), by unfold ready; decide +kernel⟩,
   ⟨0, 0, (wCmdR 0x02 (1 + 1 <<< 8)), (wRun1 0x02 (1 + 1 <<< 8) 2), 1, 1, by unfold ready; decide +kernel⟩,
   ⟨0, 0, (wCmdR 0x03 (9)), (wRun1 0x03 (9) 2), 9, by unfold ready; decide +kernel⟩,
   ⟨0, 0, (wCmdR 0x04 (0)), (wRun1 0x04 (0) 2), by unfold ready; decide +kernel⟩,
   ⟨0, 0, (wCmdR 0x05 (1)), (wRun1 0x05 (1) 2), 3, 1, by unfold ready; decide +kernel⟩,
   ⟨0, 0, (wCmdR 0x06 (1)), (wCtxs [(0, { st := .active }), (3, { st := .active, vf := some 1 })] (wRun1 0x06 (1) 2)), 3, by unfold ready; decide +kernel⟩,
   ⟨0, 0, (wCmdR 0x07 (1 + 3 <<< 16 + 4096 <<< 64 + 8192 <<< 128)), (wRun1 0x07 (1 + 3 <<< 16 + 4096 <<< 64 + 8192 <<< 128) 2), 1, 4096, 8192, by unfold ready; decide +kernel⟩⟩

theorem witness_ContextCommands_b :
    (∃ (ctx : ℕ) (qid : ℕ) (k : QCmd) (s : State) (blk : ℕ) (base : ℕ), ready s (qRef ctx qid) 0x08 k ∧ blk = pay (leVal k.entry) 0x20 11 0 ∧ base = pay (leVal k.entry) 0x28 63 0 ∧ pay (leVal k.entry) 0x20 12 12 = 0 ∧ base % 2 ^ 30 = 0 ∧ mapFind s.mm.far blk = none) ∧
    (∃ (ctx : ℕ) (qid : ℕ) (k : QCmd) (s : State) (blk : ℕ) (base : ℕ), ready s (qRef ctx qid) 0x08 k ∧ blk = pay (leVal k.entry) 0x20 11 0 ∧ base = pay (leVal k.entry) 0x28 63 0 ∧ pay (leVal k.entry) 0x20 12 12 = 1 ∧ (mapFind s.mm.far blk).isSome = true ∧ farInUse s blk = false) ∧
    (∃ (ctx : ℕ) (qid : ℕ) (k : QCmd) (s : State) (blk : ℕ) (base : ℕ) (b : FarBlock), ready s (qRef ctx qid) 0x08 k ∧ blk = pay (leVal k.entry) 0x20 11 0 ∧ base = pay (leVal k.entry) 0x28 63 0 ∧ pay (leVal k.entry) 0x20 12 12 = 0 ∧ base % 2 ^ 30 = 0 ∧ mapFind s.mm.far blk = some b ∧ b.fail = some 2 ∧ b.rooted = true) ∧
    (∃ (ctx : ℕ) (qid : ℕ) (k : QCmd) (s : State) (c : ℕ) (n : ℕ) (sl : ℕ) (cl : ℕ) (vec : ℕ) (sqOff : ℕ) (cqOff : ℕ) (o : ℕ) (i : ℕ), ready s (qRef ctx qid) 0x14 k ∧ c = eCtx (leVal k.entry) ∧ pay (leVal k.entry) 0x20 5 5 = 0 ∧ n = pay (leVal k.entry) 0x20 4 0 ∧ sl = pay (leVal k.entry) 0x20 11 8 ∧ cl = pay (leVal k.entry) 0x20 15 12 ∧ vec = pay (leVal k.entry) 0x20 22 16 ∧ sqOff = pay (leVal k.entry) 0x24 31 0 ∧ cqOff = pay (leVal k.entry) 0x28 31 0 ∧ ringGeom (ringSpans s c) sqOff sl 64 = true ∧ ringGeom ((sqOff, 64 * 2 ^ sl) :: ringSpans s c) cqOff cl 32 = true ∧ vectorOk s c vec = true ∧ queueAt s (qRef c n) = none ∧ isAdminRing s (qRef c n) = false ∧ s.rg.objs.length < 262144 ∧ freeObj s.rg.objs 262144 1 = some o ∧ freeIndex (ctxAt s c).handles 16383 1 = some i) ∧
    (∃ (ctx : ℕ) (qid : ℕ) (k : QCmd) (s : State), ready s (qRef ctx qid) 0x15 k ∧ eCtx (leVal k.entry) ≠ ctx ∧ mapSorted s.rg.queues = true) :=
  ⟨⟨0, 0, (wCmdR 0x08 (5 + 2 ^ 30 <<< 64)), (wRun1 0x08 (5 + 2 ^ 30 <<< 64) 2), 5, (2 ^ 30), by unfold ready; decide +kernel⟩,
   ⟨0, 0, (wCmdR 0x08 (5 + 1 <<< 12)), (wMm { far := [(5, { base := 0 })] } (wRun1 0x08 (5 + 1 <<< 12) 2)), 5, 0, by unfold ready; decide +kernel⟩,
   ⟨0, 0, (wCmdR 0x08 (5 + 2 ^ 30 <<< 64)), (wMm { far := [(5, { base := 0, fail := some 2 })] } (wRun1 0x08 (5 + 2 ^ 30 <<< 64) 2)), 5, (2 ^ 30), { base := 0, fail := some 2 }, by unfold ready; decide +kernel⟩,
   ⟨0, 0, (wCmdR 0x14 (1 + 4 <<< 8 + 4 <<< 12 + 3 <<< 16 + 0 <<< 32 + 4096 <<< 64)), (wRun1 0x14 (1 + 4 <<< 8 + 4 <<< 12 + 3 <<< 16 + 0 <<< 32 + 4096 <<< 64) 2), 3, 1, 4, 4, 3, 0, 4096, 1, 1, by unfold ready; decide +kernel⟩,
   ⟨0, 0, (wCmdR 0x15 (2)), (wRun1 0x15 (2) 2), by unfold ready; decide +kernel⟩⟩

theorem witness_ObjectCommands :
    (∃ (ctx : ℕ) (qid : ℕ) (k : QCmd) (s : State) (typ : ℕ) (base : ℕ) (size : ℕ) (o : ℕ) (i : ℕ), ready s (qRef ctx qid) 0x10 k ∧ typ = pay (leVal k.entry) 0x20 3 0 ∧ base = pay (leVal k.entry) 0x28 63 0 ∧ size = pay (leVal k.entry) 0x30 63 0 ∧ objArgsOk s (eCtx (leVal k.entry)) typ base size = true ∧ s.rg.objs.length < 262144 ∧ freeObj s.rg.objs 262144 1 = some o ∧ freeIndex (ctxAt s (eCtx (leVal k.entry))).handles 16383 1 = some i) ∧
    (∃ (ctx : ℕ) (qid : ℕ) (k : QCmd) (s : State) (c : ℕ) (o : ℕ) (x : Obj) (i : ℕ), ready s (qRef ctx qid) 0x09 k ∧ c = pay (leVal k.entry) 0x24 11 0 ∧ c < 512 ∧ (ctxAt s c).st = .active ∧ k.pobj = some o ∧ objAt s o = some x ∧ x.host + 1 < 2 ^ 32 ∧ freeIndex (ctxAt s c).handles 16383 1 = some i) ∧
    (∃ (ctx : ℕ) (qid : ℕ) (k : QCmd) (s : State) (i : ℕ) (h : Handle) (o : ℕ) (x : Obj) (n : ℕ), ready s (qRef ctx qid) 0x11 k ∧ payNames s (leVal k.entry) i h o x ∧ n = pay (leVal k.entry) 0x24 31 0 ∧ countOk n = true ∧ h.count + n < 2 ^ 32 ∧ x.host + n < 2 ^ 32) ∧
    (∃ (ctx : ℕ) (qid : ℕ) (k : QCmd) (s : State) (i : ℕ) (h : Handle) (o : ℕ) (x : Obj) (n : ℕ), ready s (qRef ctx qid) 0x12 k ∧ payNames s (leVal k.entry) i h o x ∧ n = pay (leVal k.entry) 0x24 31 0 ∧ countOk n = true ∧ n ≤ h.count ∧ x.typ ≠ 2) ∧
    (∃ (ctx : ℕ) (qid : ℕ) (k : QCmd) (s : State) (o : ℕ) (x : Obj), ready s (qRef ctx qid) 0x13 k ∧ k.pobj = some o ∧ objAt s o = some x) ∧
    (∃ (ctx : ℕ) (qid : ℕ) (k : QCmd) (s : State) (o : ℕ) (x : Obj), ready s (qRef ctx qid) 0x16 k ∧ k.pobj = some o ∧ objAt s o = some x ∧ x.typ = 2 ∧ x.value ≠ fenceTop) :=
  ⟨⟨0, 0, (wCmdR 0x10 (1 + 655360 <<< 64 + 65536 <<< 128)), (wRun1 0x10 (1 + 655360 <<< 64 + 65536 <<< 128) 2), 1, 655360, 65536, 1, 1, by unfold ready; decide +kernel⟩,
   ⟨0, 0, (wCmdR 0x09 (3 <<< 32)), (wRun1 0x09 (3 <<< 32) 2), 3, 7, (wObj 2), 1, by unfold ready; decide +kernel⟩,
   ⟨0, 0, (wCmdR 0x11 ((65536 + 5) + 1 <<< 32)), (wRun1 0x11 ((65536 + 5) + 1 <<< 32) 2), 5, { gen := 1, obj := some 7, count := 2, signal := true }, 7, (wObj 2), 1, by unfold ready payNames; decide +kernel⟩,
   ⟨0, 0, (wCmdR 0x12 ((65536 + 5) + 1 <<< 32)), (wRun1 0x12 ((65536 + 5) + 1 <<< 32) 1), 5, { gen := 1, obj := some 7, count := 2, signal := true }, 7, (wObj 1), 1, by unfold ready payNames; decide +kernel⟩,
   ⟨0, 0, (wCmdR 0x13 ((65536 + 5))), (wRun1 0x13 ((65536 + 5)) 2), 7, (wObj 2), by unfold ready; decide +kernel⟩,
   ⟨0, 0, (wCmdR 0x16 ((65536 + 5))), (wRun1 0x16 ((65536 + 5)) 2), 7, (wObj 2), by unfold ready; decide +kernel⟩⟩

theorem witness_MemoryCommands :
    (∃ (ctx : ℕ) (qid : ℕ) (k : QCmd) (s : State) (x : Obj) (dva : ℕ) (p : ℕ) (s1 : State), ready s (qRef ctx qid) 0x18 k ∧ memObj s (qRef ctx qid) = some x ∧ pay (leVal k.entry) 0x24 31 0 * 65536 < x.size ∧ dva = x.base + pay (leVal k.entry) 0x24 31 0 * 65536 ∧ p = pay (leVal k.entry) 0x28 63 0 ∧ mapRefusal s (eCtx (leVal k.entry)) dva p (pay (leVal k.entry) 0x30 0 0 = 1) = none ∧ tablesFor s (tableKeys (eCtx (leVal k.entry)) dva) = some s1) ∧
    (∃ (ctx : ℕ) (qid : ℕ) (k : QCmd) (s : State) (x : Obj) (page : ℕ) (n : ℕ), ready s (qRef ctx qid) 0x19 k ∧ memObj s (qRef ctx qid) = some x ∧ page = pay (leVal k.entry) 0x24 31 0 ∧ n = pay (leVal k.entry) 0x28 31 0 ∧ (page + n) * 65536 ≤ x.size ∧ (mappedPages s (eCtx (leVal k.entry)) (x.base + page * 65536) (n * 65536)).any (frozenAt s (eCtx (leVal k.entry))) = false ∧ pageAwaited s (eCtx (leVal k.entry)) (mappedPages s (eCtx (leVal k.entry)) (x.base + page * 65536) (n * 65536)) = false) ∧
    (∃ (ctx : ℕ) (qid : ℕ) (k : QCmd) (s : State) (tier : ℕ) (f : ℕ), ready s (qRef ctx qid) 0x1A k ∧ tier = pay (leVal k.entry) 0x20 1 0 ∧ f = pay (leVal k.entry) 0x24 25 0 ∧ frameExists s tier f = true ∧ (frameAt s (frameKey tier f)).owner = eCtx (leVal k.entry) ∧ frameMapped s (frameKey tier f) = false ∧ (frameAt s (frameKey tier f)).st = 1) ∧
    (∃ (ctx : ℕ) (qid : ℕ) (k : QCmd) (s : State) (tier : ℕ) (f : ℕ), ready s (qRef ctx qid) 0x1A k ∧ tier = pay (leVal k.entry) 0x20 1 0 ∧ f = pay (leVal k.entry) 0x24 25 0 ∧ frameExists s tier f = true ∧ (frameAt s (frameKey tier f)).owner = eCtx (leVal k.entry) ∧ frameMapped s (frameKey tier f) = false ∧ (frameAt s (frameKey tier f)).st = 5) ∧
    (∃ (ctx : ℕ) (qid : ℕ) (k : QCmd) (s : State) (tier : ℕ) (f0 : ℕ) (n : ℕ), ready s (qRef ctx qid) 0x1B k ∧ tier = pay (leVal k.entry) 0x20 1 0 ∧ f0 = pay (leVal k.entry) 0x24 25 0 ∧ n = pay (leVal k.entry) 0x28 31 0 ∧ f0 + n ≤ tierFrames tier ∧ (List.range n).all (fun i => frameExists s tier (f0 + i) && (frameAt s (frameKey tier (f0 + i))).st = 0 && (pcAt s (pcKey (frameKey tier (f0 + i)))).st < 2) = true ∧ s.mm.pcs.all (fun e => e.2.st ≠ 2) = true) ∧
    (∃ (ctx : ℕ) (qid : ℕ) (k : QCmd) (s : State) (fk : ℕ), ready s (qRef ctx qid) 0x1C k ∧ fk = frameKey (pay (leVal k.entry) 0x20 1 0) (pay (leVal k.entry) 0x24 25 0) ∧ pteNames s fk = false) ∧
    (∃ (ctx : ℕ) (qid : ℕ) (k : QCmd) (s : State) (c : ℕ) (n : ℕ) (sa : ℕ) (da : ℕ), ready s (qRef ctx qid) 0x20 k ∧ c = eCtx (leVal k.entry) ∧ pay (leVal k.entry) 0x20 1 0 = 2 ∧ pay (leVal k.entry) 0x20 3 2 = 2 ∧ n = pay (leVal k.entry) 0x24 31 0 ∧ sa = pay (leVal k.entry) 0x28 63 0 ∧ da = pay (leVal k.entry) 0x30 63 0 ∧ n % 64 = 0 ∧ dmaSpanOk 2 sa n = true ∧ dmaSpanOk 2 da n = true ∧ s.rg.winBad = []) ∧
    (∃ (ctx : ℕ) (qid : ℕ) (k : QCmd) (s : State) (c : ℕ) (n : ℕ) (sa : ℕ) (da : ℕ), ready s (qRef ctx qid) 0x20 k ∧ c = eCtx (leVal k.entry) ∧ pay (leVal k.entry) 0x20 1 0 = 1 ∧ pay (leVal k.entry) 0x20 3 2 = 2 ∧ n = pay (leVal k.entry) 0x24 31 0 ∧ sa = pay (leVal k.entry) 0x28 63 0 ∧ da = pay (leVal k.entry) 0x30 63 0 ∧ n % 64 = 0 ∧ dmaSpanOk 2 da n = true ∧ upWaits s c = false ∧ upDown s c = false ∧ inWindow s c sa n false = true) :=
  ⟨⟨0, 0, (wCmdR 0x18 ((65536 + 5) + 2 <<< 32 + (3 + 1 <<< 2 + 4 <<< 4 + 6 <<< 16) <<< 64)), (wRun1 0x18 ((65536 + 5) + 2 <<< 32 + (3 + 1 <<< 2 + 4 <<< 4 + 6 <<< 16) <<< 64) 1), (wObj 1), 131072, (3 + 1 <<< 2 + 4 <<< 4 + 6 <<< 16), ((tablesFor (wRun1 0x18 ((65536 + 5) + 2 <<< 32 + (3 + 1 <<< 2 + 4 <<< 4 + 6 <<< 16) <<< 64) 1) (tableKeys 3 131072)).getD wUp), by unfold ready; decide +kernel⟩,
   ⟨0, 0, (wCmdR 0x19 ((65536 + 5) + 0 <<< 32 + 1 <<< 64)), (wMm (wMapped [1]) (wRun1 0x19 ((65536 + 5) + 0 <<< 32 + 1 <<< 64) 1)), (wObj 1), 0, 1, by unfold ready; decide +kernel⟩,
   ⟨0, 0, (wCmdR 0x1A (1 + 5 <<< 32)), (wRun1 0x1A (1 + 5 <<< 32) 2), 1, 5, by unfold ready; decide +kernel⟩,
   ⟨0, 0, (wCmdR 0x1A (1 + 5 <<< 32)), (wMm { frames := [(2 ^ 26 + 5, { st := 5, owner := 3 })] } (wRun1 0x1A (1 + 5 <<< 32) 2)), 1, 5, by unfold ready; decide +kernel⟩,
   ⟨0, 0, (wCmdR 0x1B (1 + 100 <<< 32 + 3 <<< 64)), (wRun1 0x1B (1 + 100 <<< 32 + 3 <<< 64) 2), 1, 100, 3, by unfold ready; decide +kernel⟩,
   ⟨0, 0, (wCmdR 0x1C (1 + 100 <<< 32)), (wRun1 0x1C (1 + 100 <<< 32) 2), (2 ^ 26 + 100), by unfold ready; decide +kernel⟩,
   ⟨0, 0, (wCmdR 0x20 (2 + 2 <<< 2 + 64 <<< 32 + 64 <<< 64 + 128 <<< 128)), (winWrite (wRun1 0x20 (2 + 2 <<< 2 + 64 <<< 32 + 64 <<< 64 + 128 <<< 128) 2) 3 64 [1, 2, 3]), 3, 64, 64, 128, by unfold ready; decide +kernel⟩,
   ⟨0, 0, (wCmdR 0x20 (1 + 2 <<< 2 + 64 <<< 32 + 4096 <<< 64 + 128 <<< 128)), (let s := (wRun1 0x20 (1 + 2 <<< 2 + 64 <<< 32 + 4096 <<< 64 + 128 <<< 128) 2); { s with rg := { s.rg with funcs := [(0, { mse := true, bme := true, wins := [(0, { write := false, base := 0, size := 8192 })] })] } }), 3, 64, 4096, 128, by unfold ready; decide +kernel⟩⟩

theorem witness_MemoryCommands_b :
    (∃ (ctx : ℕ) (qid : ℕ) (k : QCmd) (s : State) (c : ℕ) (n : ℕ) (sa : ℕ) (da : ℕ) (bs : List Byte), ready s (qRef ctx qid) 0x20 k ∧ c = eCtx (leVal k.entry) ∧ pay (leVal k.entry) 0x20 1 0 = 1 ∧ pay (leVal k.entry) 0x20 3 2 = 2 ∧ n = pay (leVal k.entry) 0x24 31 0 ∧ sa = pay (leVal k.entry) 0x28 63 0 ∧ da = pay (leVal k.entry) 0x30 63 0 ∧ n % 64 = 0 ∧ dmaSpanOk 2 da n = true ∧ upWaits s c = false ∧ upDown s c = false ∧ inWindow s c sa n false = true ∧ bs.length = n) ∧
    (∃ (ctx : ℕ) (qid : ℕ) (k : QCmd) (s : State) (c : ℕ) (n : ℕ) (da : ℕ), ready s (qRef ctx qid) 0x21 k ∧ c = eCtx (leVal k.entry) ∧ pay (leVal k.entry) 0x20 3 2 = 2 ∧ n = pay (leVal k.entry) 0x24 31 0 ∧ da = pay (leVal k.entry) 0x30 63 0 ∧ n % 64 = 0 ∧ dmaSpanOk 2 da n = true) :=
  ⟨⟨0, 0, (wCmdR 0x20 (1 + 2 <<< 2 + 64 <<< 32 + 4096 <<< 64 + 128 <<< 128)), (let s := (wRun1 0x20 (1 + 2 <<< 2 + 64 <<< 32 + 4096 <<< 64 + 128 <<< 128) 2); { s with rg := { s.rg with funcs := [(0, { mse := true, bme := true, wins := [(0, { write := false, base := 0, size := 8192 })] })] } }), 3, 64, 4096, 128, (List.replicate 64 5), by unfold ready; decide +kernel⟩,
   ⟨0, 0, (wCmdR 0x21 (2 <<< 2 + 64 <<< 32 + 7 <<< 64 + 128 <<< 128)), (wRun1 0x21 (2 <<< 2 + 64 <<< 32 + 7 <<< 64 + 128 <<< 128) 2), 3, 64, 128, by unfold ready; decide +kernel⟩⟩

theorem witness_PartitionCommands :
    (∃ (ctx : ℕ) (qid : ℕ) (k : QCmd) (s : State) (c : ℕ) (t0 : ℕ) (lg : ℕ), ready s (qRef ctx qid) 0x30 k ∧ s.fw.mgmt = 1 ∧ partsWf s = true ∧ c = eCtx (leVal k.entry) ∧ t0 = pay (leVal k.entry) 0x20 8 0 ∧ lg = pay (leVal k.entry) 0x20 12 9 ∧ bindRefusal s c t0 lg = none) ∧
    (∃ (ctx : ℕ) (qid : ℕ) (k : QCmd) (s : State) (st : ℕ), ready s (qRef ctx qid) 0x30 k ∧ s.fw.mgmt = 1 ∧ bindRefusal s (eCtx (leVal k.entry)) (pay (leVal k.entry) 0x20 8 0) (pay (leVal k.entry) 0x20 12 9) = some st) ∧
    (∃ (ctx : ℕ) (qid : ℕ) (k : QCmd) (s : State) (p : Part), ready s (qRef ctx qid) 0x37 k ∧ shapeOk (pay (leVal k.entry) 0x20 8 0) (pay (leVal k.entry) 0x20 12 9) = true ∧ partExact s (pay (leVal k.entry) 0x20 8 0) (pay (leVal k.entry) 0x20 12 9) = some p) ∧
    (∃ (ctx : ℕ) (qid : ℕ) (k : QCmd) (s : State) (p : Part) (t0 : ℕ) (lg : ℕ), ready s (qRef ctx qid) 0x31 k ∧ partsWf s = true ∧ t0 = pay (leVal k.entry) 0x20 8 0 ∧ lg = pay (leVal k.entry) 0x20 12 9 ∧ shapeOk t0 lg = true ∧ partIn s (eCtx (leVal k.entry)) t0 lg = some p ∧ p.st = .bound ∧ p.run = none ∧ ckptBusy s t0 = false ∧ s.fb.groups = []) ∧
    (∃ (u : UnitId) (t0 : ℕ) (lg : ℕ) (p : Part) (s : State), bar0Open s .mgmt = true ∧ partsWf s = true ∧ partExact s t0 lg = some p ∧ p.st = .burnishing ∧ p.run = none ∧ partRoot p = u ∧ p.clearing = false ∧ s.fb.groups = []) ∧
    (∃ (w : Writer), w ≠ .mgmt) ∧
    (∃ (t0 : ℕ) (p : Part) (s : State), mapFind s.tl.parts t0 = some p ∧ p.st = .burnishing ∧ p.clearing = true) ∧
    (∃ (ctx : ℕ) (s : State), (ctxAt s ctx).st = .disabling ∧ (ctxAt s ctx).burn = 0 ∧ ctxParts s ctx = []) :=
  ⟨⟨0, 0, (wCmdR 0x30 (0 + 0 <<< 9)), (let s := wParts [] (wRun1 0x30 (0 + 0 <<< 9) 2); { s with tl := { s.tl with tab := [(0, { burnDone := 31 })] } }), 3, 0, 0, by unfold ready; decide +kernel⟩,
   ⟨0, 0, (wCmdR 0x30 (0 + 0 <<< 9)), (wRun1 0x30 (0 + 0 <<< 9) 2), stIllegal, by unfold ready; decide +kernel⟩,
   ⟨0, 0, (wCmdR 0x37 (0)), (wParts [(0, { t0 := 0, log2n := 0, st := .bound, ctx := 3 })] (wRun1 0x37 (0) 2)), { t0 := 0, log2n := 0, st := .bound, ctx := 3 }, by unfold ready; decide +kernel⟩,
   ⟨0, 0, (wCmdR 0x31 (0)), (wParts [(0, { t0 := 0, log2n := 0, st := .bound, ctx := 3 })] (wRun1 0x31 (0) 2)), { t0 := 0, log2n := 0, st := .bound, ctx := 3 }, 0, 0, by unfold ready; decide +kernel⟩,
   ⟨(.cluster 0), 0, 0, { t0 := 0, log2n := 0, st := .burnishing, ctx := 3 }, (wParts [(0, { t0 := 0, log2n := 0, st := .burnishing, ctx := 3 })] (wRing none (wObj 2))), by decide +kernel⟩,
   ⟨.pf0, by decide +kernel⟩,
   ⟨0, { t0 := 0, log2n := 0, st := .burnishing, ctx := 3, clearing := true }, (wParts [(0, { t0 := 0, log2n := 0, st := .burnishing, ctx := 3, clearing := true })] (wRing none (wObj 2))), by decide +kernel⟩,
   ⟨3, (wCtxs [(3, { st := .disabling, burn := 0 })] (wRing none (wObj 2))), by decide +kernel⟩⟩

theorem witness_PartitionCommands_b :
    (∃ (ctx : ℕ) (s : State), (ctxAt s ctx).st = .disabling ∧ (ctxAt s ctx).burn = 7) ∧
    (∃ (ctx : ℕ) (s : State), (ctxAt s ctx).st = .disabling ∧ (ctxAt s ctx).burn = 15) ∧
    (∃ (n : ℕ) (s : State), (ctxAt s n).st = .disabling) ∧
    (∃ (n : ℕ) (p : Part) (s : State), mapFind s.tl.parts n = some p ∧ p.st = .burnishing) ∧
    (∃ (n : ℕ) (s : State), (ctxAt s n).st ≠ .disabling) :=
  ⟨⟨3, (wCtxs [(3, { st := .disabling, burn := 7 })] (wRing none (wObj 2))), by decide +kernel⟩,
   ⟨3, (wCtxs [(3, { st := .disabling, burn := 15 })] (wRing none (wObj 2))), by decide +kernel⟩,
   ⟨3, (wCtxs [(3, { st := .disabling, burn := 3 })] (wRing none (wObj 2))), by decide +kernel⟩,
   ⟨0, { t0 := 0, log2n := 0, st := .burnishing, ctx := 3, clearing := true }, (wParts [(0, { t0 := 0, log2n := 0, st := .burnishing, ctx := 3, clearing := true })] (wRing none (wObj 2))), by decide +kernel⟩,
   ⟨3, wUp, by decide +kernel⟩⟩

theorem witness_PlateAndStepCommands :
    (∃ (ctx : ℕ) (qid : ℕ) (k : QCmd) (s : State) (ev : List LineEv) (o : ℕ) (x : Obj) (m : MemRes) (st : ℕ) (off : ℕ), ready s (qRef ctx qid) 0x28 k ∧ k.pobj = some o ∧ objAt s o = some x ∧ spanMapped s (eCtx (leVal k.entry)) x.base x.size = true ∧ spanWaits s io0Page (eCtx (leVal k.entry)) x.base x.size false ev = false ∧ m = ctxRead s io0Page (eCtx (leVal k.entry)) x.base x.size ev ∧ m.status = stOk ∧ checkImage m.data x.size = .bad st off) ∧
    (∃ (ctx : ℕ) (qid : ℕ) (k : QCmd) (s : State) (o : ℕ) (x : Obj) (i : PlateInfo) (p : Part) (t0 : ℕ) (lg : ℕ), ready s (qRef ctx qid) 0x29 k ∧ partsWf s = true ∧ t0 = pay (leVal k.entry) 0x24 8 0 ∧ lg = pay (leVal k.entry) 0x24 12 9 ∧ partIn s (eCtx (leVal k.entry)) t0 lg = some p ∧ k.pobj = some o ∧ objAt s o = some x ∧ x.plate = some i ∧ p.st = .bound ∧ p.run = none ∧ runRefusal p i = none ∧ (partTiles p).all (fun n => (unitAt s (.tile n)).state = .run) = true ∧ pay (leVal k.entry) 0x28 63 0 = 0) ∧
    (∃ (ctx : ℕ) (qid : ℕ) (k : QCmd) (s : State) (ev : List LineEv) (o : ℕ) (x : Obj) (i : PlateInfo) (p : Part) (m : MemRes) (t0 : ℕ) (lg : ℕ), ready s (qRef ctx qid) 0x29 k ∧ partsWf s = true ∧ t0 = pay (leVal k.entry) 0x24 8 0 ∧ lg = pay (leVal k.entry) 0x24 12 9 ∧ partIn s (eCtx (leVal k.entry)) t0 lg = some p ∧ k.pobj = some o ∧ objAt s o = some x ∧ x.plate = some i ∧ p.st = .bound ∧ p.run = none ∧ runRefusal p i = none ∧ (partTiles p).all (fun n => (unitAt s (.tile n)).state = .run) = true ∧ pay (leVal k.entry) 0x28 63 0 ≠ 0 ∧ spanWaits s io0Page (eCtx (leVal k.entry)) (pay (leVal k.entry) 0x28 63 0) 64 false ev = false ∧ m = ctxRead s io0Page (eCtx (leVal k.entry)) (pay (leVal k.entry) 0x28 63 0) 64 ev ∧ m.status = stOk) ∧
    (∃ (ctx : ℕ) (qid : ℕ) (k : QCmd) (s : State) (ev : List LineEv) (p : Part) (m : MemRes) (t0 : ℕ) (lg : ℕ) (mask : ℕ), ready s (qRef ctx qid) 0x2A k ∧ partsWf s = true ∧ t0 = pay (leVal k.entry) 0x24 8 0 ∧ lg = pay (leVal k.entry) 0x24 12 9 ∧ mask = pay (leVal k.entry) 0x24 21 16 ∧ partIn s (eCtx (leVal k.entry)) t0 lg = some p ∧ p.st = .bound ∧ p.run = none ∧ spanWaits s io0Page (eCtx (leVal k.entry)) (pay (leVal k.entry) 0x28 63 0) 64 false ev = false ∧ m = ctxRead s io0Page (eCtx (leVal k.entry)) (pay (leVal k.entry) 0x28 63 0) 64 ev ∧ m.status = stOk ∧ blockOk mask (blockField m.data) = true ∧ (bitOf mask 2 = true → numverHeld s (bitsOf (blockField m.data 2) 15 0) = true)) ∧
    (∃ (ctx : ℕ) (qid : ℕ) (k : QCmd) (s : State) (progs : Map (List ℕ)) (ev : List LineEv) (o : ℕ) (x : Obj) (m : MemRes) (d : GroupDesc) (p : Part), ready s (qRef ctx qid) 0x2B k ∧ s.fw.mgmt = 1 ∧ fabCalm s = true ∧ k.pobj = some o ∧ objAt s o = some x ∧ spanMapped s (eCtx (leVal k.entry)) x.base x.size = true ∧ spanWaits s io0Page (eCtx (leVal k.entry)) x.base x.size false ev = false ∧ m = ctxRead s io0Page (eCtx (leVal k.entry)) x.base x.size ev ∧ m.status = stOk ∧ d = groupDesc m.data ∧ d.ok = true ∧ partIn m.s (eCtx (leVal k.entry)) (pay (leVal k.entry) 0x24 8 0) (pay (leVal k.entry) 0x24 12 9) = some p ∧ p.st = .bound ∧ joinRefusal m.s (eCtx (leVal k.entry)) p d = none ∧ groupFind m.s d.id = none ∧ (d.numver ≠ 1 → progsOk ((List.range d.nmemb).filter (fun i => (d.members.getD i 0) % 65536 = nodeOf s)) d.nlaunch progs = true)) ∧
    (∃ (ctx : ℕ) (qid : ℕ) (k : QCmd) (s : State) (p : Part) (o : ℕ) (gix : ℕ) (g : Group), ready s (qRef ctx qid) 0x2C k ∧ k.pobj = some o ∧ partIn s (eCtx (leVal k.entry)) (pay (leVal k.entry) 0x24 8 0) (pay (leVal k.entry) 0x24 12 9) = some p ∧ p.run = none ∧ s.fb.groups.find? (fun e => e.2.locals.any (fun m => m.t0 = p.t0 && m.obj = o)) = some (gix, g) ∧ groupAt s gix = some g) :=
  ⟨⟨0, 0, (wCmdR 0x28 ((65536 + 5))), (wPage 0x28 ((65536 + 5)) 4 320 []), [], 7, ({ wObj 4 with size := 320 }), (ctxRead (wPage 0x28 ((65536 + 5)) 4 320 []) io0Page 3 0 320 []), stRejected, 0, by unfold ready; decide +kernel, by first | rfl | decide +kernel, by first | rfl | decide +kernel, by first | rfl | decide +kernel, by first | rfl | decide +kernel, by first | rfl | decide +kernel, by first | rfl | decide +kernel, by first | rfl | decide +kernel⟩,
   ⟨0, 0, (wCmdR 0x29 (0)), (let s := wMm (wMapped ([])) (wParts [(0, { t0 := 0, log2n := 0, st := .bound, ctx := 3, step := 7, seed := 5, numver := 1 })] (wRing (some (wCmdR 0x29 (0))) { wObj 4 with plate := some { nstrokes := 1, entry := 0, waitLog2 := 30, numver := 1, lmin := 0, lmax := 0, canon := false, digest := [] } })); unitSet s (.tile 0) { unitAt s (.tile 0) with state := .run }), 7, { wObj 4 with plate := some { nstrokes := 1, entry := 0, waitLog2 := 30, numver := 1, lmin := 0, lmax := 0, canon := false, digest := [] } }, { nstrokes := 1, entry := 0, waitLog2 := 30, numver := 1, lmin := 0, lmax := 0, canon := false, digest := [] }, { t0 := 0, log2n := 0, st := .bound, ctx := 3, step := 7, seed := 5, numver := 1 }, 0, 0, by unfold ready; decide +kernel⟩,
   ⟨0, 0, (wCmdR 0x29 (64 <<< 64)), (let s := wMm (wMapped (List.replicate 72 7)) (wParts [(0, { t0 := 0, log2n := 0, st := .bound, ctx := 3, step := 7, seed := 5, numver := 1 })] (wRing (some (wCmdR 0x29 (64 <<< 64))) { wObj 4 with plate := some { nstrokes := 1, entry := 0, waitLog2 := 30, numver := 1, lmin := 0, lmax := 0, canon := false, digest := [] } })); unitSet s (.tile 0) { unitAt s (.tile 0) with state := .run }), [], 7, { wObj 4 with plate := some { nstrokes := 1, entry := 0, waitLog2 := 30, numver := 1, lmin := 0, lmax := 0, canon := false, digest := [] } }, { nstrokes := 1, entry := 0, waitLog2 := 30, numver := 1, lmin := 0, lmax := 0, canon := false, digest := [] }, { t0 := 0, log2n := 0, st := .bound, ctx := 3, step := 7, seed := 5, numver := 1 }, (ctxRead (let s := wMm (wMapped (List.replicate 72 7)) (wParts [(0, { t0 := 0, log2n := 0, st := .bound, ctx := 3, step := 7, seed := 5, numver := 1 })] (wRing (some (wCmdR 0x29 (64 <<< 64))) { wObj 4 with plate := some { nstrokes := 1, entry := 0, waitLog2 := 30, numver := 1, lmin := 0, lmax := 0, canon := false, digest := [] } })); unitSet s (.tile 0) { unitAt s (.tile 0) with state := .run }) io0Page 3 64 64 []), 0, 0, by unfold ready; decide +kernel⟩,
   ⟨0, 0, (wCmdR 0x2A (0 <<< 32 + 0 <<< 41 + 1 <<< 48 + 0 <<< 64)), (wMm (wMapped [9]) (wParts [(0, { t0 := 0, log2n := 0, st := .bound, ctx := 3 })] (wRun1 0x2A (0 <<< 32 + 0 <<< 41 + 1 <<< 48 + 0 <<< 64) 2))), [], { t0 := 0, log2n := 0, st := .bound, ctx := 3 }, (ctxRead (wMm (wMapped [9]) (wParts [(0, { t0 := 0, log2n := 0, st := .bound, ctx := 3 })] (wRun1 0x2A (0 <<< 32 + 0 <<< 41 + 1 <<< 48 + 0 <<< 64) 2))) io0Page 3 0 64 []), 0, 0, 1, by unfold ready; decide +kernel⟩,
   ⟨0, 0, (wCmdR 0x2B ((65536 + 5))), (let s := wPage 0x2B ((65536 + 5)) 5 128 wGroupDesc; { s with tl := { s.tl with parts := [(0, { t0 := 0, log2n := 0, st := .bound, ctx := 3, numver := 1 })] }, ks := { s.ks with slots := [(tenantSlot 3 4, { ktype := 1, attr := 0x3F, kgen := 1 })] }, fb := { s.fb with cfg := 0x0002000000018855, allow := [(0, 0x100010002)] } }), [], [], 7, ({ wObj 5 with size := 128 }), (ctxRead (let s := wPage 0x2B ((65536 + 5)) 5 128 wGroupDesc; { s with tl := { s.tl with parts := [(0, { t0 := 0, log2n := 0, st := .bound, ctx := 3, numver := 1 })] }, ks := { s.ks with slots := [(tenantSlot 3 4, { ktype := 1, attr := 0x3F, kgen := 1 })] }, fb := { s.fb with cfg := 0x0002000000018855, allow := [(0, 0x100010002)] } }) io0Page 3 0 128 []), (groupDesc (ctxRead (let s := wPage 0x2B ((65536 + 5)) 5 128 wGroupDesc; { s with tl := { s.tl with parts := [(0, { t0 := 0, log2n := 0, st := .bound, ctx := 3, numver := 1 })] }, ks := { s.ks with slots := [(tenantSlot 3 4, { ktype := 1, attr := 0x3F, kgen := 1 })] }, fb := { s.fb with cfg := 0x0002000000018855, allow := [(0, 0x100010002)] } }) io0Page 3 0 128 []).data), { t0 := 0, log2n := 0, st := .bound, ctx := 3, numver := 1 }, by unfold ready; decide +kernel, by first | rfl | decide +kernel, by first | rfl | decide +kernel, by first | rfl | decide +kernel, by first | rfl | decide +kernel, by first | rfl | decide +kernel, by first | rfl | decide +kernel, by first | rfl | decide +kernel, by first | rfl | decide +kernel, by first | rfl | decide +kernel, by first | rfl | decide +kernel, by first | rfl | decide +kernel, by first | rfl | decide +kernel, by first | rfl | decide +kernel, by first | rfl | decide +kernel, by first | rfl | decide +kernel⟩,
   ⟨0, 0, (wCmdR 0x2C (0)), (let s := wParts [(0, { t0 := 0, log2n := 0, st := .bound, ctx := 3 })] (wRun1 0x2C (0) 5); { s with fb := { s.fb with groups := [(3, { wGrp [] [] with locals := [{ rank := 0, t0 := 0, obj := 7, joined := true }] })] } }), { t0 := 0, log2n := 0, st := .bound, ctx := 3 }, 7, 3, { wGrp [] [] with locals := [{ rank := 0, t0 := 0, obj := 7, joined := true }] }, by unfold ready; decide +kernel⟩⟩

theorem witness_SealedImages :
    (∃ (ctx : ℕ) (qid : ℕ) (k : QCmd) (s : State) (c : ℕ) (a : ℕ) (x : Shard) (id : ℕ), ready s (qRef ctx qid) 0x32 k ∧ loadArgs s k x id ∧ pay (leVal k.entry) 0x20 1 0 = 1 ∧ c = eCtx (leVal k.entry) ∧ a = pay (leVal k.entry) 0x28 63 0 ∧ inWindow s c a 512 false = true ∧ upDown s c = false ∧ upWaits s c = false) ∧
    (∃ (ctx : ℕ) (qid : ℕ) (k : QCmd) (s : State) (ev : List LineEv) (id : ℕ) (x : Shard) (key : ℕ), ready s (qRef ctx qid) 0x33 k ∧ id = pay (leVal k.entry) 0x20 5 0 ∧ key = shardKey (eCtx (leVal k.entry)) id ∧ shardAt s key = some x ∧ (x.scratch = false → spanWaits s io0Page (eCtx (leVal k.entry)) x.dst x.len false ev = false)) ∧
    (∃ (ctx : ℕ) (id : ℕ) (s : State) (ev : List LineEv) (x : Shard), shardAt s (shardKey ctx id) = some x ∧ x.frozen = true ∧ s.rg.shardCfg.getLsbD 6 = true ∧ spanWaits s io0Page ctx x.dst x.len false ev = false) ∧
    (∃ (ctx : ℕ) (id : ℕ) (s : State) (x : Shard), shardAt s (shardKey ctx id) = some x ∧ (x.frozen = false ∨ s.rg.shardCfg.getLsbD 6 = false)) ∧
    (∃ (ctx : ℕ) (qid : ℕ) (k : QCmd) (s : State) (id : ℕ) (x : Shard) (key : ℕ), ready s (qRef ctx qid) 0x34 k ∧ id = pay (leVal k.entry) 0x20 5 0 ∧ key = shardKey (eCtx (leVal k.entry)) id ∧ shardAt s key = some x) ∧
    (∃ (ctx : ℕ) (qid : ℕ) (k : QCmd) (s : State) (p : Part) (t0 : ℕ) (lg : ℕ), ready s (qRef ctx qid) 0x35 k ∧ exportArgs s k p t0 lg ∧ p.run.isSome = true ∧ p.startHeld = false ∧ p.bar = none) :=
  ⟨⟨0, 0, (wCmdR 0x32 (1 + 1 <<< 3 + 1 <<< 4 + 4096 <<< 64 + 0 <<< 128)), (wMm (wMapped [9]) (wKeyed (wWins (wRun1 0x32 (1 + 1 <<< 3 + 1 <<< 4 + 4096 <<< 64 + 0 <<< 128) 2)))), 3, 4096, { scratch := false, tile := 0, dst := 0, len := 64, frozen := true, digest := [] }, 1, by unfold ready loadArgs; decide +kernel⟩,
   ⟨0, 0, (wCmdR 0x33 (1)), (wShards (wMm (wMapped [9]) (wKeyed (wWins (wRun1 0x33 (1) 2)))) true), [], 1, (wShard true), (shardKey 3 1), by unfold ready; decide +kernel⟩,
   ⟨3, 1, (wShards (wMm (wMapped [9]) (wKeyed (wWins (wRing none (wObj 2))))) true), [], (wShard true), by decide +kernel⟩,
   ⟨3, 1, (wShards (wRing none (wObj 2)) false), (wShard false), by decide +kernel⟩,
   ⟨0, 0, (wCmdR 0x34 (1)), (wShards (wMm (wMapped [9]) (wKeyed (wWins (wRun1 0x34 (1) 2)))) true), 1, (wShard true), (shardKey 3 1), by unfold ready; decide +kernel⟩,
   ⟨0, 0, (wCmdR 0x35 (0)), (wParts [(0, { t0 := 0, log2n := 0, st := .running, ctx := 3, run := some wRun })] (wMm (wMapped [9]) (wKeyed (wWins (wRun1 0x35 (0) 2))))), { t0 := 0, log2n := 0, st := .running, ctx := 3, run := some wRun }, 0, 0, by unfold ready exportArgs; decide +kernel⟩⟩

theorem witness_KeyCommands :
    (∃ (ctx : ℕ) (qid : ℕ) (k : QCmd) (s : State) (a : ℕ) (kt : ℕ) (slot : ℕ), ready s (qRef ctx qid) 0x38 k ∧ a = pay (leVal k.entry) 0x24 31 0 ∧ Nat.land a attrMask = a ∧ kt = pay (leVal k.entry) 0x22 1 0 ∧ mayInstall s (qRef ctx qid) (eCtx (leVal k.entry)) (pay (leVal k.entry) 0x20 15 0) kt (attrUse a) slot ∧ s.ks.rngFail = false) ∧
    (∃ (ctx : ℕ) (qid : ℕ) (k : QCmd) (s : State) (ev : List LineEv) (a : ℕ) (slot : ℕ) (src : ℕ) (s1 : State) (blk : List Byte) (n : ℕ), ready s (qRef ctx qid) 0x39 k ∧ a = pay (leVal k.entry) 0x24 31 0 ∧ Nat.land a (attrMask + 0x3000) = a ∧ mayInstall s (qRef ctx qid) (eCtx (leVal k.entry)) (pay (leVal k.entry) 0x20 15 0) (attrType a) (attrUse a) slot ∧ slotRef (eCtx (leVal k.entry)) (pay (leVal k.entry) 0x22 15 0) = some src ∧ isDeviceKey src = isDeviceKey slot ∧ (slotAt s src).ktype ≠ 0 ∧ bitOf (slotAt s src).attr 3 = true ∧ Nat.land (attrUse a) (slotAt s src).attr = attrUse a ∧ payGot s (eCtx (leVal k.entry)) 0 (pay (leVal k.entry) 0x28 63 0) 64 ev s1 blk ∧ n = (blk.headD 0).toNat ∧ 1 ≤ n ∧ n ≤ 56) ∧
    (∃ (ctx : ℕ) (qid : ℕ) (k : QCmd) (s : State) (ev : List LineEv) (a : ℕ) (slot : ℕ) (x : Session) (s1 : State) (blk : List Byte), ready s (qRef ctx qid) 0x3A k ∧ a = pay (leVal k.entry) 0x24 31 0 ∧ Nat.land a (attrMask + 0x3000) = a ∧ slotRef (eCtx (leVal k.entry)) (pay (leVal k.entry) 0x20 15 0) = some slot ∧ sessionAt s (pay (leVal k.entry) 0x22 15 0) = some x ∧ (slotRight s (qRef ctx qid) (eCtx (leVal k.entry)) slot = true ∨ doeRight s x (eCtx (leVal k.entry)) slot = true) ∧ useAllowed (attrType a) (attrUse a) = true ∧ roleAllowed slot (attrType a) (attrUse a) = true ∧ installRefusal s slot = none ∧ sessionServes s (qRef ctx qid) x (eCtx (leVal k.entry)) slot = true ∧ payGot s (eCtx (leVal k.entry)) (pay (leVal k.entry) 0x30 1 0) (pay (leVal k.entry) 0x28 63 0) 96 ev s1 blk ∧ unwrapKey x (eCtx (leVal k.entry)) (pay (leVal k.entry) 0x20 15 0) a slot blk = none) ∧
    (∃ (ctx : ℕ) (qid : ℕ) (k : QCmd) (s : State) (slot : ℕ), ready s (qRef ctx qid) 0x3B k ∧ slotRef (eCtx (leVal k.entry)) (pay (leVal k.entry) 0x20 15 0) = some slot ∧ slotRight s (qRef ctx qid) (eCtx (leVal k.entry)) slot = true ∧ destroyRefusal s slot = none) ∧
    (∃ (ctx : ℕ) (qid : ℕ) (k : QCmd) (s : State) (slot : ℕ) (st : ℕ), ready s (qRef ctx qid) 0x3B k ∧ slotRef (eCtx (leVal k.entry)) (pay (leVal k.entry) 0x20 15 0) = some slot ∧ slotRight s (qRef ctx qid) (eCtx (leVal k.entry)) slot = true ∧ destroyRefusal s slot = some st) ∧
    (∃ (ctx : ℕ) (qid : ℕ) (k : QCmd) (s : State) (slot : ℕ) (a : ℕ), ready s (qRef ctx qid) 0x3C k ∧ slotRef (eCtx (leVal k.entry)) (pay (leVal k.entry) 0x20 15 0) = some slot ∧ a = pay (leVal k.entry) 0x28 63 0 ∧ (a = 0 ∨ (slotAt s slot).ktype ≠ 3)) ∧
    (∃ (ctx : ℕ) (qid : ℕ) (k : QCmd) (s : State) (ev : List LineEv) (slot : ℕ) (a : ℕ) (w : State × ℕ × ℕ), ready s (qRef ctx qid) 0x3C k ∧ slotRef (eCtx (leVal k.entry)) (pay (leVal k.entry) 0x20 15 0) = some slot ∧ a = pay (leVal k.entry) 0x28 63 0 ∧ a ≠ 0 ∧ (slotAt s slot).ktype = 3 ∧ a % 64 = 0 ∧ spanWaits s io0Page (eCtx (leVal k.entry)) a 96 true ev = false ∧ w = dmaStore s (eCtx (leVal k.entry)) 0 a (slotPub (slotAt s slot)) ev ∧ w.2.1 = stOk) ∧
    (∃ (ctx : ℕ) (qid : ℕ) (k : QCmd) (s : State) (ev : List LineEv) (slot : ℕ) (c : ℕ) (out : ℕ) (s1 : State) (inp : List Byte) (w : State × ℕ × ℕ), ready s (qRef ctx qid) 0x3D k ∧ c = eCtx (leVal k.entry) ∧ mayAttest s (qRef ctx qid) c (pay (leVal k.entry) 0x20 15 0) slot ∧ pay (leVal k.entry) 0x22 0 0 = 1 ∧ bitOf (slotAt s slot).attr 2 = true ∧ out = pay (leVal k.entry) 0x30 63 0 ∧ out % 64 = 0 ∧ spanWaits s io0Page c out 96 true ev = false ∧ payGot s c 0 (pay (leVal k.entry) 0x28 63 0) 48 ev s1 inp ∧ w = dmaStore (drawn s1) c 0 out (ecdsaSign (beVal (slotAt s slot).key) (rand s1 384) inp) ev ∧ w.2.1 = stOk) :=
  ⟨⟨3, 1, (wCmdR 0x38 (5 + 1 <<< 16 + 0x3B <<< 32)), (wTen (wCmdR 0x38 (5 + 1 <<< 16 + 0x3B <<< 32))), 0x3B, 1, (tenantSlot 3 5), by unfold ready mayInstall; decide +kernel⟩,
   ⟨3, 1, (wCmdR 0x39 (5 + 4 <<< 16 + (0x13 + 1 <<< 12) <<< 32)), (wTen (wCmdR 0x39 (5 + 4 <<< 16 + (0x13 + 1 <<< 12) <<< 32))), [], (0x13 + 1 <<< 12), (tenantSlot 3 5), (tenantSlot 3 4), (devFetch (wTen (wCmdR 0x39 (5 + 4 <<< 16 + (0x13 + 1 <<< 12) <<< 32))) 3 0 64 []).1, (devFetch (wTen (wCmdR 0x39 (5 + 4 <<< 16 + (0x13 + 1 <<< 12) <<< 32))) 3 0 64 []).2.1, 9, by unfold ready payGot mayInstall; decide +kernel⟩,
   ⟨3, 1, (wCmdR 0x3A (5 + 1 <<< 16 + 0x103B <<< 32 + 0 <<< 64)), (wImport (5 + 1 <<< 16 + 0x103B <<< 32 + 0 <<< 64) []), [], 0x103B, (tenantSlot 3 5), { id := 1, ctx := 3, active := true, kimp := List.replicate 32 0 }, (devFetch (wImport (5 + 1 <<< 16 + 0x103B <<< 32 + 0 <<< 64) []) 3 0 96 []).1, (devFetch (wImport (5 + 1 <<< 16 + 0x103B <<< 32 + 0 <<< 64) []) 3 0 96 []).2.1, by unfold ready; decide +kernel, by first | rfl | decide +kernel, by first | rfl | decide +kernel, by first | rfl | decide +kernel, by first | rfl | decide +kernel, by first | rfl | decide +kernel, by first | rfl | decide +kernel, by first | rfl | decide +kernel, by first | rfl | decide +kernel, by first | rfl | decide +kernel, by unfold payGot; exact ⟨by decide +kernel, .inl ⟨by decide +kernel, by decide +kernel, rfl, rfl, by decide +kernel⟩⟩, by first | rfl | decide +kernel⟩,
   ⟨3, 1, (wCmdR 0x3B (6)), (wTen (wCmdR 0x3B (6))), (tenantSlot 3 6), by unfold ready; decide +kernel⟩,
   ⟨3, 1, (wCmdR 0x3B (4)), (wTen (wCmdR 0x3B (4))), (tenantSlot 3 4), stIllegal, by unfold ready; decide +kernel⟩,
   ⟨3, 1, (wCmdR 0x3C (6)), (wTen (wCmdR 0x3C (6))), (tenantSlot 3 6), 0, by unfold ready; decide +kernel⟩,
   ⟨3, 1, (wCmdR 0x3C (6 + 128 <<< 64)), (wTen (wCmdR 0x3C (6 + 128 <<< 64))), [], (tenantSlot 3 6), 128, (dmaStore (wTen (wCmdR 0x3C (6 + 128 <<< 64))) 3 0 128 (slotPub (slotAt (wTen (wCmdR 0x3C (6 + 128 <<< 64))) (tenantSlot 3 6))) []), by unfold ready; decide +kernel⟩,
   ⟨3, 1, (wCmdR 0x3D (6 + 1 <<< 16 + 0 <<< 64 + 128 <<< 128)), (wTen (wCmdR 0x3D (6 + 1 <<< 16 + 0 <<< 64 + 128 <<< 128))), [], (tenantSlot 3 6), 3, 128, (devFetch (wTen (wCmdR 0x3D (6 + 1 <<< 16 + 0 <<< 64 + 128 <<< 128))) 3 0 48 []).1, (devFetch (wTen (wCmdR 0x3D (6 + 1 <<< 16 + 0 <<< 64 + 128 <<< 128))) 3 0 48 []).2.1, (dmaStore (drawn (devFetch (wTen (wCmdR 0x3D (6 + 1 <<< 16 + 0 <<< 64 + 128 <<< 128))) 3 0 48 []).1) 3 0 128 (ecdsaSign (beVal (slotAt (wTen (wCmdR 0x3D (6 + 1 <<< 16 + 0 <<< 64 + 128 <<< 128))) (tenantSlot 3 6)).key) (rand (devFetch (wTen (wCmdR 0x3D (6 + 1 <<< 16 + 0 <<< 64 + 128 <<< 128))) 3 0 48 []).1 384) (devFetch (wTen (wCmdR 0x3D (6 + 1 <<< 16 + 0 <<< 64 + 128 <<< 128))) 3 0 48 []).2.1) []), by unfold ready; decide +kernel, by first | rfl | decide +kernel, by unfold mayAttest; decide +kernel, by first | rfl | decide +kernel, by first | rfl | decide +kernel, by first | rfl | decide +kernel, by first | rfl | decide +kernel, by first | rfl | decide +kernel, by unfold payGot; exact ⟨by decide +kernel, .inl ⟨by decide +kernel, by decide +kernel, rfl, rfl, by decide +kernel⟩⟩, by first | rfl | decide +kernel, by first | rfl | decide +kernel⟩⟩

theorem witness_AttestationExchanges :
    (∃ (port : ℕ) (req : List Byte) (s : State), doeUp s port = true ∧ mbOf req 1 = true) ∧
    (∃ (port : ℕ) (req : List Byte) (s : State), doeUp s port = true ∧ mbFormOk req = false ∧ ((req.headD 0).toNat = 1 ∨ (req.headD 0).toNat = 0 ∨ 5 < (req.headD 0).toNat)) ∧
    (∃ (port : ℕ) (req : List Byte) (s : State) (x : Session), doeUp s port = true ∧ mbOf req 4 = true ∧ mbSession s (doeFrom port) (mbSid req) = some x ∧ x.active = true ∧ attestRefusal s = none) ∧
    (∃ (port : ℕ) (req : List Byte) (s : State) (x : Session), doeUp s port = true ∧ mbOf req 5 = true ∧ mbSession s (doeFrom port) (mbSid req) = some x) ∧
    (∃ (port : ℕ) (s : State), spdmAt s port 0 = true) ∧
    (∃ (port : ℕ) (s : State), spdmAt s port 1 = true) ∧
    (∃ (port : ℕ) (s : State), spdmAt s port 2 = true) ∧
    (∃ (port : ℕ) (s : State), spdmAt s port 3 = true) :=
  ⟨⟨0, (leBytes 1 1 ++ [0] ++ leBytes 2 0 ++ leBytes 4 5 ++ List.replicate 0 0), (wDoe [] 3), by decide +kernel⟩,
   ⟨0, [9], (wDoe [] 3), by decide +kernel⟩,
   ⟨0, (leBytes 1 4 ++ [0] ++ leBytes 2 32 ++ leBytes 4 5 ++ List.replicate 32 0), (wDoe [wSess false true] 3), (wSess false true), by decide +kernel⟩,
   ⟨0, (leBytes 1 5 ++ [0] ++ leBytes 2 0 ++ leBytes 4 5 ++ List.replicate 0 0), (wDoe [wSess false true] 3), (wSess false true), by decide +kernel⟩,
   ⟨0, (wDoe [] 0), by decide +kernel⟩,
   ⟨0, (wDoe [] 1), by decide +kernel⟩,
   ⟨0, (wDoe [] 2), by decide +kernel⟩,
   ⟨0, (wDoe [] 3), by decide +kernel⟩⟩

theorem witness_AttestationExchanges_b :
    (∃ (port : ℕ) (off : ℕ) (s : State), spdmAt s port 3 = true ∧ off ≤ (chainBytes s).length) ∧
    (∃ (port : ℕ) (s : State), spdmAt s port 3 = true ∧ attestRefusal s = none) ∧
    (∃ (port : ℕ) (s : State) (st : ℕ), spdmAt s port 3 = true ∧ attestRefusal s = some st) ∧
    (∃ (port : ℕ) (vf : Option ℕ) (index : ℕ) (s : State), spdmAt s port 3 = true ∧ measBlock s port vf index = none) ∧
    (∃ (port : ℕ) (vf : Option ℕ) (index : ℕ) (sign : Bool) (s : State) (b : ℕ × ℕ × List Byte), spdmAt s port 3 = true ∧ measBlock s port vf index = some b ∧ sign = false) ∧
    (∃ (port : ℕ) (vf : Option ℕ) (index : ℕ) (sign : Bool) (s : State) (b : ℕ × ℕ × List Byte), spdmAt s port 3 = true ∧ measBlock s port vf index = some b ∧ sign = true ∧ attestRefusal s = none) ∧
    (∃ (port : ℕ) (sid : ℕ) (pub : List Byte) (s : State), spdmAt s port 3 = true ∧ sidFree s sid = true ∧ (pubPoint pub).isSome = true ∧ (s.ks.sessions.filter (fun x => x.spdm && x.doe = some port)).length < 4 ∧ attestRefusal s = none) ∧
    (∃ (port : ℕ) (sid : ℕ) (pub : List Byte) (s : State), spdmAt s port 3 = true ∧ sidFree s sid = true ∧ (pubPoint pub).isSome = true ∧ 4 ≤ (s.ks.sessions.filter (fun x => x.spdm && x.doe = some port)).length) :=
  ⟨⟨0, 0, (wDoe [] 3), by decide +kernel⟩,
   ⟨0, (wDoe [] 3), by decide +kernel⟩,
   ⟨0, (let s := wDoe [] 3; { s with ks := { s.ks with slots := [] } }), stIllegal, by decide +kernel⟩,
   ⟨0, none, 9, (wDoe [] 3), by decide +kernel⟩,
   ⟨0, none, 1, false, (wDoe [] 3), ((measBlock (wDoe [] 3) 0 none 1).getD (0, 0, [])), by first | rfl | decide +kernel, by first | rfl | decide +kernel, by first | rfl | decide +kernel⟩,
   ⟨0, none, 1, true, (wDoe [] 3), ((measBlock (wDoe [] 3) 0 none 1).getD (0, 0, [])), by first | rfl | decide +kernel, by first | rfl | decide +kernel, by first | rfl | decide +kernel, by first | rfl | decide +kernel⟩,
   ⟨0, 7, (ecPublic 1), (wDoe [] 3), by decide +kernel⟩,
   ⟨0, 7, (ecPublic 1), (wDoe (List.replicate 4 (wSess true true)) 3), by decide +kernel⟩⟩

theorem witness_AttestationExchanges_c :
    (∃ (port : ℕ) (stage : ℕ) (s : State) (c : _), c ∈ (if stage = 1 then [Instr.getCapabilities port] else if stage = 2 then [Instr.negotiateAlgorithms port true] else if stage = 3 then [Instr.getDigests port, Instr.getCertificate port 0 0, Instr.challenge port [], Instr.getMeasurements port none 1 false] else []) ∧ spdmAt s port 0 = true ∧ spdmStage s port < stage) ∧
    (∃ (port : ℕ) (sid : ℕ) (s : State) (x : Session), portPresent s port = true ∧ spdmSession s port sid = some x ∧ x.active = false) ∧
    (∃ (port : ℕ) (sid : ℕ) (s : State) (x : Session), portPresent s port = true ∧ spdmSession s port sid = some x ∧ x.active = true) ∧
    (∃ (port : ℕ) (sid : ℕ) (s : State) (x : Session), portPresent s port = true ∧ spdmSession s port sid = some x ∧ x.active = true) ∧
    (∃ (port : ℕ) (sid : ℕ) (s : State) (x : Session), portPresent s port = true ∧ spdmSession s port sid = some x ∧ x.active = true) ∧
    (∃ (port : ℕ) (sid : ℕ) (s : State) (x : Session), portPresent s port = true ∧ spdmSession s port sid = some x ∧ x.active = true) :=
  ⟨⟨0, 2, (wDoe [] 1), (Instr.negotiateAlgorithms 0 true), by decide +kernel⟩,
   ⟨0, 5, (wDoe [wSess true false] 3), (wSess true false), by decide +kernel⟩,
   ⟨0, 5, (wDoe [wSess true true] 3), (wSess true true), by decide +kernel⟩,
   ⟨0, 5, (wDoe [wSess true true] 3), (wSess true true), by decide +kernel⟩,
   ⟨0, 5, (wDoe [wSess true true] 3), (wSess true true), by decide +kernel⟩,
   ⟨0, 5, (wDoe [wSess true true] 3), (wSess true true), by decide +kernel⟩⟩

theorem witness_LifeCycleRequests :
    (∃ (tap : Bool) (target : ℕ) (s : State) (k : ℕ) (d : ℕ), lcReach s tap = true ∧ lcClear s = true ∧ s.ks.lc.state ≠ 7 ∧ transitionOf (lcFrom s.ks.lc) target = some (k, d) ∧ s.ks.lc.fails < 8 ∧ tokenOk s.ks.lc d = true) ∧
    (∃ (tap : Bool) (target : ℕ) (s : State) (k : ℕ) (d : ℕ), lcReach s tap = true ∧ lcClear s = true ∧ s.ks.lc.state ≠ 7 ∧ transitionOf (lcFrom s.ks.lc) target = some (k, d) ∧ s.ks.lc.fails < 8 ∧ tokenOk s.ks.lc d = false) ∧
    (∃ (tap : Bool) (target : ℕ) (s : State) (k : ℕ) (d : ℕ), lcReach s tap = true ∧ lcClear s = true ∧ s.ks.lc.state ≠ 7 ∧ transitionOf (lcFrom s.ks.lc) target = some (k, d) ∧ 8 ≤ s.ks.lc.fails) ∧
    (∃ (tap : Bool) (target : ℕ) (s : State), lcReach s tap = true ∧ s.ks.lc.run = none ∧ (s.ks.lc.state = 7 ∨ transitionOf (lcFrom s.ks.lc) target = none ∨ s.ks.lc.pend = true ∨ lcHeld s = true)) ∧
    (∃ (tap : Bool) (target : ℕ) (s : State), lcReach s tap = true ∧ s.ks.lc.run = none ∧ s.ks.lc.state ≠ 7 ∧ s.ks.lc.pend = false ∧ lcHeld s = false ∧ (transitionOf (lcFrom s.ks.lc) target).isSome = true ∧ (s.pw.warn = true ∨ s.fw.phase ≠ 0)) ∧
    (∃ (tap : Bool) (s : State) (r : LcRun), lcReach s tap = true ∧ s.ks.lc.run = some r) ∧
    (∃ (tap : Bool) (s : State) (bs : List ℕ) (d : ℕ) (b : ℕ), lcReach s tap = true ∧ lcClear s = true ∧ unlockOf s.ks.lc.state = some (bs, d) ∧ unlockFree s.ks.lc bs = some b ∧ s.ks.lc.fails < 8 ∧ tokenOk s.ks.lc d = true) ∧
    (∃ (tap : Bool) (s : State) (bs : List ℕ) (d : ℕ) (b : ℕ), lcReach s tap = true ∧ lcClear s = true ∧ unlockOf s.ks.lc.state = some (bs, d) ∧ unlockFree s.ks.lc bs = some b ∧ s.ks.lc.fails < 8 ∧ tokenOk s.ks.lc d = false) :=
  ⟨⟨true, 4, (wLc { state := 3, digests := [(3, sha384 (tokenBytes {}))] }), 3, 3, by decide +kernel⟩,
   ⟨true, 4, (wLc { state := 3, digests := [(3, [1])] }), 3, 3, by decide +kernel⟩,
   ⟨true, 4, (wLc { state := 3, fails := 8 }), 3, 3, by decide +kernel⟩,
   ⟨true, 4, (wLc { state := 7 }), by decide +kernel⟩,
   ⟨true, 4, (let s := wLc { state := 3 }; { s with pw := { s.pw with warn := true } }), by decide +kernel⟩,
   ⟨true, (wLc { state := 3, run := some { seg := 3, bits := [5, 9, 12] } }), { seg := 3, bits := [5, 9, 12] }, by decide +kernel⟩,
   ⟨true, (wLc { state := 1, digests := [(2, sha384 (tokenBytes {}))] }), [8, 9, 10, 11, 12, 13, 14], 2, 8, by decide +kernel⟩,
   ⟨true, (wLc { state := 1, digests := [(2, [1])] }), [8, 9, 10, 11, 12, 13, 14], 2, 8, by decide +kernel⟩⟩

theorem witness_LifeCycleRequests_b :
    (∃ (tap : Bool) (s : State) (bs : List ℕ) (d : ℕ), lcReach s tap = true ∧ lcClear s = true ∧ unlockOf s.ks.lc.state = some (bs, d) ∧ unlockFree s.ks.lc bs = none) ∧
    (∃ (tap : Bool) (s : State), lcReach s tap = true ∧ s.ks.lc.run = none ∧ unlockOf s.ks.lc.state = none) ∧
    (∃ (tap : Bool) (s : State) (k : ℕ), lcReach s tap = true ∧ s.ks.lc.run = none ∧ allSegs.find? (segPartial s.ks.lc) = some k ∧ s.ks.lc.state = 7 ∧ s.ks.lc.pend = false ∧ s.pw.warn = false) ∧
    (∃ (tap : Bool) (s : State), lcReach s tap = true ∧ s.ks.lc.run = none ∧ (s.ks.lc.state ≠ 7 ∨ allSegs.find? (segPartial s.ks.lc) = none)) ∧
    (∃ (tap : Bool) (s : State), lcReach s tap = false) :=
  ⟨⟨true, (wLc { state := 5, consume := 0xF0000 }), [16, 17, 18, 19], 5, by decide +kernel⟩,
   ⟨true, (wLc { state := 3 }), by decide +kernel⟩,
   ⟨true, (wLc { state := 7, segs := [(1, 1)] }), 1, by decide +kernel⟩,
   ⟨true, (wLc { state := 3 }), by decide +kernel⟩,
   ⟨true, (wLc { state := 6 }), by decide +kernel⟩⟩

theorem witness_FirmwareCommands :
    (∃ (ctx : ℕ) (qid : ℕ) (k : QCmd) (s : State) (kind : ℕ) (n : ℕ), ready s (qRef ctx qid) 0x40 k ∧ kind = pay (leVal k.entry) 0x20 1 0 ∧ n = pay (leVal k.entry) 0x24 31 0 ∧ (kind = 1 ∨ kind = 2) ∧ 512 ≤ n ∧ n ≤ slotSize kind ∧ s.fw.phase = 0 ∧ s.fw.flashLow = false ∧ flashWaits s = false) ∧
    (∃ (ctx : ℕ) (qid : ℕ) (k : QCmd) (s : State) (host : HostRsp) (ev : List LineEv) (n : ℕ) (off : ℕ) (kind : ℕ) (total : ℕ) (b : Bool) (s1 : State) (bs : List Byte), heldCmd s (qRef ctx qid) 0x41 k ∧ n = pay (leVal k.entry) 0x24 31 0 ∧ off = pay (leVal k.entry) 0x30 63 0 ∧ s.fw.phase = 0 ∧ s.fw.staging = some (kind, total) ∧ n % 4096 = 0 ∧ off % 4096 = 0 ∧ off + n ≤ units4k total * 4096 ∧ b = idleSlot s kind ∧ (off ≠ 0 ∨ n = 0 ∨ ∀ i, i < units4k total → n / 4096 ≤ i → (imgSlot s kind b).got.contains i = true) ∧ flashWaits s = false ∧ fwSource s k n host ev s1 bs) ∧
    (∃ (ctx : ℕ) (qid : ℕ) (k : QCmd) (s : State) (n : ℕ) (off : ℕ) (kind : ℕ) (total : ℕ), ready s (qRef ctx qid) 0x41 k ∧ n = pay (leVal k.entry) 0x24 31 0 ∧ off = pay (leVal k.entry) 0x30 63 0 ∧ s.fw.phase = 0 ∧ s.fw.staging = some (kind, total) ∧ n % 4096 = 0 ∧ off % 4096 = 0 ∧ off ≠ 0 ∧ off + n ≤ units4k total * 4096 ∧ flashWaits s = false ∧ hostReadGoes s k n) ∧
    (∃ (ctx : ℕ) (qid : ℕ) (k : QCmd) (s : State) (kind : ℕ), ready s (qRef ctx qid) 0x42 k ∧ kind = pay (leVal k.entry) 0x20 1 0 ∧ (kind = 1 ∨ kind = 2) ∧ s.fw.phase = 0 ∧ s.fw.staging.any (fun x => x.1 = kind) = true ∧ (imgVerify s kind (idleSlot s kind)).2 = none) ∧
    (∃ (ctx : ℕ) (qid : ℕ) (k : QCmd) (s : State) (mask : ℕ) (st : ℕ), ready s (qRef ctx qid) 0x43 k ∧ mask = pay (leVal k.entry) 0x20 1 0 ∧ mask ≠ 0 ∧ s.fw.phase = 0 ∧ armRefusal s mask = some st) ∧
    (∃ (ctx : ℕ) (qid : ℕ) (k : QCmd) (s : State), ready s (qRef ctx qid) 0x44 k ∧ s.fw.phase = 0 ∧ s.fw.staging = none) ∧
    (∃ (ctx : ℕ) (qid : ℕ) (k : QCmd) (s : State) (kind : ℕ) (n : ℕ), ready s (qRef ctx qid) 0x44 k ∧ s.fw.phase = 0 ∧ s.fw.staging = some (kind, n)) ∧
    (∃ (ctx : ℕ) (qid : ℕ) (k : QCmd) (s : State), ready s (qRef ctx qid) 0x44 k ∧ s.fw.phase = 1) :=
  ⟨⟨0, 0, (wCmdR 0x40 (1 + 512 <<< 32)), (wFwq 0x40 (1 + 512 <<< 32) {}), 1, 512, by unfold ready; decide +kernel⟩,
   ⟨0, 0, (wBusy 0x41 (1 + 4096 <<< 32 + 0 <<< 64 + 0 <<< 128)), (wFwb 0x41 (1 + 4096 <<< 32 + 0 <<< 64 + 0 <<< 128) { staging := some (1, 8192), slots := [(3, { st := 0, got := [1] })] }), (.data [1]), [], 4096, 0, 1, 8192, (idleSlot (wFwb 0x41 (1 + 4096 <<< 32 + 0 <<< 64 + 0 <<< 128) { staging := some (1, 8192), slots := [(3, { st := 0, got := [1] })] }) 1), (wFwb 0x41 (1 + 4096 <<< 32 + 0 <<< 64 + 0 <<< 128) { staging := some (1, 8192), slots := [(3, { st := 0, got := [1] })] }), (([1] ++ List.replicate 4096 0 : List Byte).take 4096), by unfold heldCmd; decide +kernel, by decide +kernel, by decide +kernel, by decide +kernel, by decide +kernel, by decide +kernel, by decide +kernel, by decide +kernel, rfl, by decide +kernel, by decide +kernel, .inr ⟨by decide +kernel, by decide +kernel, by decide +kernel, rfl, [1], rfl, rfl⟩⟩,
   ⟨0, 0, (wCmdR 0x41 (1 + 4096 <<< 32 + 0 <<< 64 + 4096 <<< 128)), (let s := wWins (wRun1 0x41 (1 + 4096 <<< 32 + 0 <<< 64 + 4096 <<< 128) 2); { s with fw := { staging := some (1, 8192), mgmt := 1 } }), 4096, 4096, 1, 8192, by unfold ready hostReadGoes; decide +kernel⟩,
   ⟨0, 0, (wCmdR 0x42 (1)), (wFwq 0x42 (1) { staging := some (1, 8192) }), 1, by unfold ready; decide +kernel⟩,
   ⟨0, 0, (wCmdR 0x43 (1)), (wFwq 0x43 (1) { staging := some (1, 8192) }), 1, stIllegal, by unfold ready; decide +kernel⟩,
   ⟨0, 0, (wCmdR 0x44 (0)), (wFwq 0x44 (0) {}), by unfold ready; decide +kernel⟩,
   ⟨0, 0, (wCmdR 0x44 (0)), (wFwq 0x44 (0) { staging := some (1, 8192) }), 1, 8192, by unfold ready; decide +kernel⟩,
   ⟨0, 0, (wCmdR 0x44 (0)), (wFwq 0x44 (0) { phase := 1, kinds := 1 }), by unfold ready; decide +kernel⟩⟩

theorem witness_FirmwareCommands_b :
    (∃ (ctx : ℕ) (qid : ℕ) (k : QCmd) (s : State) (tid : ℕ) (x : Txn), ready s (qRef ctx qid) 0x44 k ∧ s.fw.phase = 2 ∧ s.fw.tid = some tid ∧ mapFind s.un.txns tid = some x ∧ x.phase = .preparing ∧ x.kind = 3) ∧
    (∃ (ctx : ℕ) (qid : ℕ) (k : QCmd) (s : State), ready s (qRef ctx qid) 0x44 k ∧ 3 ≤ s.fw.phase) ∧
    (∃ (ctx : ℕ) (qid : ℕ) (k : QCmd) (s : State), ready s (qRef ctx qid) 0x45 k) ∧
    (∃ (ctx : ℕ) (qid : ℕ) (k : QCmd) (s : State) (a : Image) (b : Image), ready s (qRef ctx qid) 0x46 k ∧ s.fw.runSec = some a ∧ s.fw.runMgmt = some b ∧ arbValue s < min a.svn b.svn ∧ s.pw.warn = false) ∧
    (∃ (ctx : ℕ) (qid : ℕ) (k : QCmd) (s : State) (a : Image) (b : Image), ready s (qRef ctx qid) 0x46 k ∧ s.fw.runSec = some a ∧ s.fw.runMgmt = some b ∧ min a.svn b.svn ≤ arbValue s) ∧
    (∃ (ctx : ℕ) (qid : ℕ) (k : QCmd) (s : State) (host : HostRsp) (ev : List LineEv) (n : ℕ) (s1 : State) (bs : List Byte), heldCmd s (qRef ctx qid) 0x47 k ∧ n = pay (leVal k.entry) 0x24 31 0 ∧ n ≤ 65504 ∧ flashWaits s = false ∧ fwSource s k n host ev s1 bs) ∧
    (∃ (ctx : ℕ) (qid : ℕ) (k : QCmd) (s : State) (n : ℕ), ready s (qRef ctx qid) 0x47 k ∧ n = pay (leVal k.entry) 0x24 31 0 ∧ n ≤ 65504 ∧ flashWaits s = false ∧ hostReadGoes s k n) :=
  ⟨⟨0, 0, (wCmdR 0x44 0), (let s := wFwq 0x44 0 { phase := 2, tid := some 3 }; { s with un := { s.un with txns := [(3, ({ key := 3, kind := 3, phase := .preparing, members := [], coord := 0, coordInc := 0 } : Txn))] } }), 3, ({ key := 3, kind := 3, phase := .preparing, members := [], coord := 0, coordInc := 0 } : Txn), by unfold ready; decide +kernel⟩,
   ⟨0, 0, (wCmdR 0x44 (0)), (wFwq 0x44 (0) { phase := 3 }), by unfold ready; decide +kernel⟩,
   ⟨0, 0, (wCmdR 0x45 (0)), (wFwq 0x45 (0) {}), by unfold ready; decide +kernel⟩,
   ⟨0, 0, (wCmdR 0x46 (0)), (wFwq 0x46 (0) { runSec := some { wImage with svn := 2 }, runMgmt := some { wImage with svn := 3 } }), { wImage with svn := 2 }, { wImage with svn := 3 }, by unfold ready; decide +kernel⟩,
   ⟨0, 0, (wCmdR 0x46 (0)), (wFwq 0x46 (0) { runSec := some wImage, runMgmt := some wImage }), wImage, wImage, by unfold ready; decide +kernel⟩,
   ⟨0, 0, (wBusy 0x47 (1 + 4 <<< 32 + 0 <<< 64)), (wFwb 0x47 (1 + 4 <<< 32 + 0 <<< 64) {}), (.data [1]), [], 4, (wFwb 0x47 (1 + 4 <<< 32 + 0 <<< 64) {}), [1, 0, 0, 0], by unfold heldCmd; decide +kernel, by decide +kernel, by decide +kernel, by decide +kernel, .inr ⟨by decide +kernel, by decide +kernel, by decide +kernel, rfl, [1], rfl, by decide +kernel⟩⟩,
   ⟨0, 0, (wCmdR 0x47 (1 + 4 <<< 32 + 0 <<< 64)), (wWins (wRun1 0x47 (1 + 4 <<< 32 + 0 <<< 64) 2)), 4, by unfold ready hostReadGoes; decide +kernel⟩⟩

theorem witness_BootAndRecovery :
    (∃ (s : State), s.pw.tripped = false ∧ s.pn.modRst = true ∧ (s.pw.on = false ∨ (s.fw.booting = false ∧ s.fw.boot = 0))) ∧
    (∃ (s : State), (s.pw.tripped = true ∨ s.pn.modRst = false ∨ (s.pw.on = true ∧ s.fw.booting = true ∧ bootWaits s (s.fw.boot + 1) = true) ∨ (s.pw.on = true ∧ s.fw.booting = false ∧ s.fw.boot ≠ 0))) ∧
    (∃ (x : BootStep) (s : State) (k : ℕ) (m : StepMode), bootReady s = true ∧ k = s.fw.boot + 1 ∧ m = stepMode s k ∧ (m = .skipped ∨ stepStatus s k m x = stOk)) ∧
    (∃ (x : BootStep) (s : State) (k : ℕ) (m : StepMode), bootReady s = true ∧ k = s.fw.boot + 1 ∧ m = stepMode s k ∧ m ≠ .skipped ∧ stepStatus s k m x ≠ stOk ∧ s.fw.fails < 2) ∧
    (∃ (s : State) (k : ℕ), s.pw.on = true ∧ s.fw.booting = true ∧ k = s.fw.boot + 1 ∧ s.fw.fails < 2) ∧
    (∃ (s : State) (k : ℕ) (kind : ℕ), s.pw.on = true ∧ s.fw.booting = true ∧ k = s.fw.boot + 1 ∧ 2 ≤ s.fw.fails ∧ kind = (if k ≤ 5 then 1 else 2) ∧ (s.fw.fellBack.contains kind = true ∨ (imgVerify s kind (idleSlot s kind)).2 = none)) ∧
    (∃ (s : State), (s.pw.on = false ∨ s.fw.booting = false)) ∧
    (∃ (v : W32) (s : State) (kind : ℕ) (b : Bool) (off : ℕ) (n : ℕ), s.fw.boot = 15 ∧ bar0Unit s .pf0 fwUnit = true ∧ v.getLsbD 31 = true ∧ kind = v.toNat % 4 ∧ (kind = 1 ∨ kind = 2) ∧ off = bitsOf v.toNat 23 2 * 4096 ∧ off < slotSize kind ∧ flashWaits s = false ∧ b = idleSlot s kind ∧ n = min 32768 (slotSize kind - off) ∧ bitOf v.toNat 30 = false) :=
  ⟨⟨{ wUp with pw := { wUp.pw with on := false } }, by decide +kernel⟩,
   ⟨{ wUp with pw := { wUp.pw with tripped := true } }, by decide +kernel⟩,
   ⟨{}, (wBoot {}), 1, .normal, by decide +kernel⟩,
   ⟨{ status := 0x44 }, (wBoot {}), 1, .normal, by decide +kernel⟩,
   ⟨(wBoot {}), 1, by decide +kernel⟩,
   ⟨(wBoot { fails := 2 }), 1, 1, by decide +kernel⟩,
   ⟨wUp, by decide +kernel⟩,
   ⟨0x80000001, (let s := wFw { boot := 15, rcvBuf := [(0, 7)] }; s), 1, true, 0, 32768, by decide +kernel⟩⟩

theorem witness_BootAndRecovery_b :
    (∃ (v : W32) (s : State) (kind : ℕ) (b : Bool) (off : ℕ) (n : ℕ), s.fw.boot = 15 ∧ bar0Unit s .pf0 fwUnit = true ∧ v.getLsbD 31 = true ∧ kind = v.toNat % 4 ∧ (kind = 1 ∨ kind = 2) ∧ off = bitsOf v.toNat 23 2 * 4096 ∧ off < slotSize kind ∧ flashWaits s = false ∧ b = idleSlot s kind ∧ n = min 32768 (slotSize kind - off) ∧ bitOf v.toNat 30 = true) ∧
    (∃ (w : Writer) (v : W32) (s : State), (w ≠ .pf0 ∨ s.fw.boot ≠ 15 ∨ v.getLsbD 31 = false)) ∧
    (∃ (waited : Bool) (s : State), (s.pn.modRst = false ∨ (s.pw.tripped = true ∧ s.pw.on = false)) ∧ tripHolds s waited = false ∧ s.fw.phase = 0) ∧
    (∃ (waited : Bool) (s : State), (s.pn.modRst = false ∨ (s.pw.tripped = true ∧ s.pw.on = false)) ∧ tripHolds s waited = true) :=
  ⟨⟨0xC0000001, (let s := wFw { boot := 15, rcvBuf := [(0, 7)] }; s), 1, true, 0, 32768, by decide +kernel⟩,
   ⟨.pf0, 1, (let s := wFw { boot := 15, rcvBuf := [(0, 7)] }; s), by decide +kernel⟩,
   ⟨false, (wPn { modRst := false }), by decide +kernel⟩,
   ⟨false, (let s := wPn { modRst := false }; { s with pw := { s.pw with tripped := true, hotRead := [1] } }), by decide +kernel⟩⟩

theorem witness_PowerCommands :
    (∃ (s : State), s.pw.on = true) ∧
    (∃ (s : State), s.pw.on = true) ∧
    (∃ (s : State), s.pw.on = true ∧ partsWf s = true) ∧
    (∃ (s : State), s.pw.on = true) ∧
    (∃ (r : Thermal) (s : State), s.pw.on = true ∧ tripOf s.hw r = 0) ∧
    (∃ (r : Thermal) (s : State), s.pw.on = true ∧ tripOf s.hw r ≠ 0) ∧
    (∃ (s : State), s.pw.on = false ∧ (s.pw.tripped = false ∨ s.pn.modRst = false)) ∧
    (∃ (s : State), s.pw.on = true ∧ bitOf s.pw.active 1 = true ∧ inputI s * 56 < effW s * 100) :=
  ⟨⟨wUp, by decide +kernel⟩,
   ⟨(let s := wUp; { s with pw := { s.pw with warn := true, active := 1 } }), by decide +kernel⟩,
   ⟨(let s := wRuns wPart {}; { s with pw := { s.pw with capW := 400, policy := 1, level := [(0, 3)] } }), by decide +kernel⟩,
   ⟨(wRuns wPart {}), by decide +kernel⟩,
   ⟨{ dies := [40, 41, 42, 43], ios := [30, 31], nears := [20], hbms := [50, 51], inlet := 300, flow := 200 }, wUp, by decide +kernel⟩,
   ⟨{ dies := [1200] }, wUp, by decide +kernel⟩,
   ⟨(wPw { on := false }), by decide +kernel⟩,
   ⟨(wPw { capW := 2400, active := 2, pwrIn := 0 }), by decide +kernel⟩⟩

theorem witness_PowerCommands_b :
    (∃ (s : State), s.pw.on = true ∧ bitOf s.pw.active 1 = false ∧ effW s * 500 < inputI s * 224 ∧ (runningParts s).all (fun p => decide (stretchOf s p = 60)) = true) ∧
    (∃ (s : State), s.pw.on = true ∧ s.pw.hotRead = []) ∧
    (∃ (s : State), s.pw.on = true ∧ s.pw.hotRead ≠ []) ∧
    (∃ (s : State), s.pw.on = true ∧ s.pw.hotMem.all (fun m => !(s.pw.memThrottle.contains m)) = true) ∧
    (∃ (s : State), s.pw.on = true ∧ inletOf s < 420) ∧
    (∃ (s : State), s.pw.on = true ∧ 420 ≤ inletOf s) ∧
    (∃ (s : State), s.pw.on = true ∧ bitOf s.pw.active 5 = true ∧ 180 ≤ flowOf s) ∧
    (∃ (s : State), s.pw.on = true ∧ bitOf s.pw.active 5 = false ∧ flowOf s < 150) :=
  ⟨⟨(wPw { capW := 2400, pwrIn := 0xFFFF0000 }), by decide +kernel⟩,
   ⟨(wPw { capW := 2400, active := 4, hotDies := [1] }), by decide +kernel⟩,
   ⟨(wPw { capW := 2400, hotRead := [1] }), by decide +kernel⟩,
   ⟨(wPw { capW := 2400, active := 8, hotMem := [1], memThrottle := [] }), by decide +kernel⟩,
   ⟨(wPw { capW := 2400, active := 16, coolant := 300 }), by decide +kernel⟩,
   ⟨(wPw { capW := 2400, coolant := 430 }), by decide +kernel⟩,
   ⟨(wPw { capW := 2400, active := 32, coolant := 0xC80000 }), by decide +kernel⟩,
   ⟨(wPw { capW := 2400, coolant := 0x640000 }), by decide +kernel⟩⟩

theorem witness_PowerCommands_c :
    (∃ (s : State), s.pw.on = true ∧ flowOf s < 50) ∧
    (∃ (s : State), s.pw.on = true ∧ 50 ≤ flowOf s) ∧
    (∃ (w : Writer) (s : State), (w = .pf0 ∨ w = .mgmt) ∧ pwWriter s w = true) ∧
    (∃ (k : ℕ) (s : State), pwWriter s .mgmt = true ∧ k < 128 ∧ mapSorted s.pw.oppNext = true) ∧
    (∃ (d : ℕ) (s : State), s.pw.on = true ∧ present s.hw (.cdie d) = true ∧ mapSorted s.pw.oppNext = true) ∧
    (∃ (v : RegPart) (w : W64) (s : State), pwWriter s .mgmt = true ∧ halfOk v.off v.width = true ∧ w = merge64 s.pw.agePred v.off v.width v.val) ∧
    (∃ (v : W32) (s : State), bar0Unit s .pf0 .package = true ∧ v.getLsbD 0 = true) ∧
    (∃ (w : Writer) (s : State), pwWriter s w = false) :=
  ⟨⟨(wPw { capW := 2400, coolant := 0 }), by decide +kernel⟩,
   ⟨(wPw { capW := 2400, coolant := 0x640000 }), by decide +kernel⟩,
   ⟨.pf0, (wRuns wPart {}), by decide +kernel⟩,
   ⟨0, (let s := wRuns wPart {}; { s with fw := { s.fw with mgmt := 1 } }), by decide +kernel⟩,
   ⟨0, (let s := wRuns wPart {}; { s with pw := { s.pw with oppNext := [(0, 2)] } }), by decide +kernel⟩,
   ⟨{ off := 0, width := 8, val := 0x8000000000000003 }, 0x8000000000000003, (let s := wRuns wPart {}; { s with fw := { s.fw with mgmt := 1 } }), by decide +kernel⟩,
   ⟨1, (let s := wUp; { s with pw := { s.pw with trip := 5 }, pn := { s.pn with alert := true } }), by decide +kernel⟩,
   ⟨.mgmt, wUp, by decide +kernel⟩⟩

theorem witness_PowerCommands_d :
    ∃ (shares : List (ℕ × ℕ)) (total : ℕ) (xs : List (ℕ × ℕ)) (s : State), s.pw.on = true ∧ s.fw.mgmt = 1 ∧ (shares.map Prod.fst).Nodup ∧ xs = shareScaled (shares.filter (fun e => (ctxAt s e.1).st ≠ .free)) total :=
  ⟨[(3, 5), (4, 7)], 100, (shareScaled [(3, 5)] 100), (wRing none (wObj 2)), by decide +kernel⟩

theorem witness_MeterCommands :
    (∃ (m : MeterIn) (s : State) (u : State), s.mt.on = true ∧ u = seqNext (meterSees s m)) ∧
    (∃ (m : MeterIn) (prev : Bool) (body : List Byte) (s : State) (u : State), meterFree s prev = true ∧ body.length = 32 ∧ u = seqNext (meterSees (rspRead s prev) m)) ∧
    (∃ (prev : Bool) (body : List Byte) (s : State), meterFree s prev = true ∧ body.length ≠ 32) ∧
    (∃ (prev : Bool) (body : List Byte) (s : State) (start : ℕ) (n : ℕ), meterFree s prev = true ∧ body.length = 3 ∧ start = leVal (body.take 2) ∧ n = leVal (body.drop 2) ∧ 1 ≤ n ∧ n ≤ 32 ∧ start < 8192) ∧
    (∃ (prev : Bool) (s : State), meterFree s prev = true) ∧
    (∃ (prev : Bool) (body : List Byte) (s : State), meterFree s prev = true ∧ body.length = 2) ∧
    (∃ (m : MeterIn) (body : List Byte) (tok : List Byte) (last : Bool) (gen : Bool) (s : State) (c : _), c ∈ [(Instr.getReading m false body, 1), (Instr.getLog false body, 2), (Instr.getWrap false, 3), (Instr.getCert false body, 4), (Instr.meterSeal m false tok, 5), (Instr.meterUnseal m false tok, 6), (Instr.calibrate m false body last gen, 7)] ∧ s.mt.on = true ∧ s.mt.rsp.isSome = true) ∧
    (∃ (prev : Bool) (tok : List Byte) (s : State), meterFree s prev = true ∧ tok.length = 32 ∧ sha384 tok = s.mt.sealDig ∧ s.mt.calValid = true ∧ s.mt.burned < 64) :=
  ⟨⟨{ msec := 7, energy := 5, mV := 48000, mA := 900 }, (wMt { on := true, energy := 9 }), (seqNext (meterSees (wMt { on := true, energy := 9 }) { msec := 7, energy := 5, mV := 48000, mA := 900 })), by decide +kernel⟩,
   ⟨{ msec := 7, energy := 5, mV := 48000, mA := 900 }, false, (List.replicate 32 7), (wMt { on := true, energy := 9 }), (seqNext (meterSees (rspRead (wMt { on := true, energy := 9 }) false) { msec := 7, energy := 5, mV := 48000, mA := 900 })), by decide +kernel⟩,
   ⟨false, [1], (wMt { on := true, energy := 9 }), by decide +kernel⟩,
   ⟨false, [0, 0, 2], (wMt { on := true, energy := 9 }), 0, 2, by decide +kernel⟩,
   ⟨false, (wMt { on := true, energy := 9 }), by decide +kernel⟩,
   ⟨false, [0, 0], (wMt { on := true, energy := 9 }), by decide +kernel⟩,
   ⟨{ msec := 7, energy := 5, mV := 48000, mA := 900 }, [1], [1], true, true, (wMt { rsp := some [1] }), (Instr.getWrap false, 3), by simp, by decide +kernel⟩,
   ⟨false, (List.replicate 32 1), (wMt { calValid := true, sealDig := sha384 (List.replicate 32 1) }), by decide +kernel, by decide +kernel, rfl, by decide +kernel, by decide +kernel⟩⟩

theorem witness_MeterCommands_b :
    (∃ (prev : Bool) (tok : List Byte) (s : State), meterFree s prev = true ∧ tok.length = 32 ∧ sha384 tok ≠ s.mt.sealDig) ∧
    (∃ (prev : Bool) (tok : List Byte) (s : State), meterFree s prev = true ∧ tok.length = 32 ∧ sha384 tok = s.mt.metroDig ∧ s.mt.burned < 64) ∧
    (∃ (prev : Bool) (tok : List Byte) (s : State), meterFree s prev = true ∧ tok.length = 32 ∧ sha384 tok ≠ s.mt.metroDig) ∧
    (∃ (prev : Bool) (body : List Byte) (s : State), meterFree s prev = true ∧ 3 ≤ body.length ∧ body.length ≤ 1026 ∧ s.mt.isSealed = false ∧ leVal (body.take 2) = 0) ∧
    (∃ (prev : Bool) (body : List Byte) (gen : Bool) (s : State), meterFree s prev = true ∧ 3 ≤ body.length ∧ body.length ≤ 1026 ∧ s.mt.isSealed = false ∧ leVal (body.take 2) = 0 ∧ gen = true ∧ s.mt.calRecs < 4) ∧
    (∃ (s : State), s.mt.on = true) ∧
    (∃ (s : State), s.mt.on = true) ∧
    (∃ (m : MeterIn) (s : State) (u : State), s.mt.on = false ∧ u = meterSees (mtSet s { s.mt with on := true }) m) :=
  ⟨⟨false, (List.replicate 32 1), (wMt { sealDig := [1] }), by decide +kernel⟩,
   ⟨false, (List.replicate 32 1), (wMt { isSealed := true, metroDig := sha384 (List.replicate 32 1) }), by decide +kernel, by decide +kernel, rfl, by decide +kernel⟩,
   ⟨false, (List.replicate 32 1), (wMt { metroDig := [1] }), by decide +kernel⟩,
   ⟨false, [0, 0, 5], (wMt { on := true, energy := 9 }), by decide +kernel⟩,
   ⟨false, [0, 0, 5], true, (wMt { on := true, energy := 9 }), by decide +kernel⟩,
   ⟨(wMt { on := true, energy := 9 }), by decide +kernel⟩,
   ⟨(wMt { on := true, energy := 9 }), by decide +kernel⟩,
   ⟨{ msec := 7, energy := 5, mV := 48000, mA := 900 }, (wMt { on := false, energy := 9 }), (meterSees (mtSet (wMt { on := false, energy := 9 }) { ((wMt { on := false, energy := 9 })).mt with on := true }) { msec := 7, energy := 5, mV := 48000, mA := 900 }), by decide +kernel⟩⟩

theorem witness_MeterCommands_c :
    (∃ (s : State), s.mt.on = false) ∧
    (∃ (s : State), s.pw.on = true ∧ s.mt.on = true) ∧
    (∃ (s : State), s.pw.on = true) :=
  ⟨⟨(wMt { on := false, energy := 9 }), by decide +kernel⟩,
   ⟨(wMt { on := true, energy := 9 }), by decide +kernel⟩,
   ⟨wUp, by decide +kernel⟩⟩

theorem witness_PinEvents :
    (∃ (port : ℕ) (s : State), portUp s port = true ∧ s.pw.on = true ∧ perstTaken s port = true) ∧
    (∃ (port : ℕ) (s : State), s.pw.on = false ∧ perstTaken s port = true) ∧
    (∃ (port : ℕ) (s : State), perstTaken s port = true) ∧
    (∃ (port : ℕ) (s : State), perstTaken s port = false) ∧
    (∃ (off : ℕ) (len : ℕ) (s : State), aonUp s = true ∧ off % 4 = 0 ∧ len % 4 = 0 ∧ 4 ≤ len ∧ len ≤ 1024) ∧
    (∃ (off : ℕ) (len : ℕ) (s : State), aonUp s = true ∧ (off % 4 ≠ 0 ∨ len % 4 ≠ 0 ∨ len < 4 ∨ 1024 < len)) ∧
    (∃ (s : State), aonUp s = true) ∧
    (∃ (s : State), aonUp s = true) :=
  ⟨⟨0, wUp, by decide +kernel⟩,
   ⟨0, (wPw { on := false }), by decide +kernel⟩,
   ⟨0, (wPn { perst0 := false }), by decide +kernel⟩,
   ⟨2, wUp, by decide +kernel⟩,
   ⟨0x200, 8, wUp, by decide +kernel⟩,
   ⟨0x200, 6, wUp, by decide +kernel⟩,
   ⟨wUp, by decide +kernel⟩,
   ⟨wUp, by decide +kernel⟩⟩

theorem witness_PinEvents_b :
    (∃ (cells : ℕ) (s : State) (c : _), c ∈ [(Instr.extest cells, 0x00), (Instr.samplePreload cells, 0x02)] ∧ aonUp s = true ∧ lcState s ≠ 6 ∧ lcState s ≠ 7) ∧
    (∃ (s : State), aonUp s = true ∧ (lcState s = 6 ∨ lcState s = 7)) ∧
    (∃ (ir : ℕ) (s : State), aonUp s = true ∧ 0x20 ≤ ir ∧ ir ≤ 0x7F ∧ (lcState s = 0 ∨ lcState s = 2)) ∧
    (∃ (ir : ℕ) (s : State), aonUp s = true ∧ 0x20 ≤ ir ∧ ir ≤ 0x7F ∧ lcState s ≠ 0 ∧ lcState s ≠ 2) ∧
    (∃ (s : State), aonUp s = true ∧ lcState s ≠ 6) ∧
    (∃ (s : State) (k : ℕ), aonUp s = true ∧ lcState s ≠ 6 ∧ k < 8) ∧
    (∃ (s : State), aonUp s = true ∧ lcState s ≠ 6) ∧
    (∃ (s : State), aonUp s = true ∧ lcState s ≠ 6) :=
  ⟨⟨5, wUp, (Instr.extest 5, 0x00), by simp, by decide +kernel, by decide +kernel, by decide +kernel⟩,
   ⟨(wLc { state := 6 }), by decide +kernel⟩,
   ⟨0x20, (wLc { state := 2 }), by decide +kernel⟩,
   ⟨0x20, (wLc { state := 3 }), by decide +kernel⟩,
   ⟨(wLc { state := 3 }), by decide +kernel⟩,
   ⟨(wLc { state := 3 }), 2, by decide +kernel⟩,
   ⟨(wLc { state := 3 }), by decide +kernel⟩,
   ⟨(wLc { state := 1 }), by decide +kernel⟩⟩

theorem witness_PinEvents_c :
    (∃ (s : State), aonUp s = true ∧ lcState s ≠ 6) ∧
    (∃ (s : State), aonUp s = true ∧ lcState s = 6) ∧
    (∃ (s : State), aonUp s = false) :=
  ⟨⟨(wLc { state := 3 }), by decide +kernel⟩,
   ⟨(wLc { state := 6 }), by decide +kernel⟩,
   ⟨(wPn { modRst := false }), by decide +kernel⟩⟩

theorem witness_ServiceBlocks :
    ∃ (k : ℕ) (w : Writer) (s : State), ctlReaches s (.service k) w = true ∧ (unitAt s (.service k)).cmdBusy = false :=
  ⟨1, .pf0, wUp, by decide +kernel⟩

theorem witness_StepCommitUnopened :
    ∃ (n : ℕ) (p : Part) (s : State), barAt s n .stepCommit = some p ∧ partsWf s = true ∧ physApart s = true ∧ p.opened = false ∧ p.preparing = false ∧ p.decided = false ∧ stepSettling s p = false :=
  ⟨0, { wPair with bar := some (.stepCommit, 0) }, (wBar .stepCommit 0 wPair), by decide +kernel⟩

theorem witness_RollbackRefused :
    (∃ (s : State) (kind : ℕ) (b : Bool), imgSvn s kind b < arbValue s) ∧
    (∃ (ctx : ℕ) (qid : ℕ) (k : QCmd) (s : State) (kind : ℕ), ready s (qRef ctx qid) 0x42 k ∧ kind = pay (leVal k.entry) 0x20 1 0 ∧ (kind = 1 ∨ kind = 2) ∧ s.fw.phase = 0 ∧ s.fw.staging.any (fun x => x.1 = kind) = true ∧ imgSvn s kind (idleSlot s kind) < arbValue s) ∧
    (∃ (ctx : ℕ) (qid : ℕ) (k : QCmd) (s : State) (mask : ℕ) (kind : ℕ), ready s (qRef ctx qid) 0x43 k ∧ mask = pay (leVal k.entry) 0x20 1 0 ∧ s.fw.phase = 0 ∧ (kind = 1 ∨ kind = 2) ∧ bitOf mask (kind - 1) = true ∧ imgSvn s kind (idleSlot s kind) < arbValue s) ∧
    (∃ (s : State) (kind : ℕ), bootsImage s kind = true ∧ imgSvn s kind (bootSlot s kind) < arbValue s) :=
  ⟨⟨(let s := wUp; { s with ks := { s.ks with arb := 7 } }), 1, true, by decide +kernel⟩,
   ⟨0, 0, (wCmdR 0x42 1), (let s := wFwq 0x42 1 { staging := some (1, 8192) }; { s with ks := { s.ks with arb := 7 } }), 1, by unfold ready; decide +kernel⟩,
   ⟨0, 0, (wCmdR 0x43 1), (let s := wFwq 0x43 1 {}; { s with ks := { s.ks with arb := 7 } }), 1, 1, by unfold ready; decide +kernel⟩,
   ⟨(let s := wBoot { boot := 2 }; { s with ks := { s.ks with arb := 7 } }), 1, by decide +kernel⟩⟩

theorem witness_EveryStepKeeps :
    ∃ (s : State) (t : State), step s = .next t :=
  ⟨(let s := wUp; { s with pending := [.perstDeassert 0 []] }), (perstSet wUp 0 true), rfl⟩

theorem witness_PartitionsAndSlotsStayApart :
    (∃ (s : State) (t : State), partsWf s = true ∧ step s = .next t) ∧
    (∃ (s : State) (t : State), physApart s = true ∧ recsApart s = true ∧ step s = .next t) :=
  ⟨⟨(let s := wRuns wPart {}; { s with pending := [.perstDeassert 0 []] }), (perstSet (wRuns wPart {}) 0 true), by decide +kernel, rfl⟩,
   ⟨(let s := wRuns wPart {}; { s with pending := [.perstDeassert 0 []] }), (perstSet (wRuns wPart {}) 0 true), by decide +kernel, by decide +kernel, rfl⟩⟩

end Sys2Proof.Machine.Tests
end

section
/-! PROOF. What every step keeps (O59). `Keeps s₀ s` says that `s` has the waiting commands and the variant of `s₀`, and canonical
memories where `s₀` has them. Each function of the model that answers with a state keeps it: one lemma per function, under the
function's name, put together as its definition puts together the functions that it calls. A function that writes one of the two
byte memories cites what its Laws say of that memory; every other update leaves all four fields alone. -/
namespace Sys2Proof.Machine
open Sys2Proof
-- One lemma after the other: as many short proofs at once wait for one another in more threads than the check's memory has room for.
set_option Elab.async false

/-- What no command touches from `s₀` to `s`: the commands that wait, the variant, and the canonical form of both byte memories. -/
structure Keeps (s₀ s : State) : Prop where
  pending : s.pending = s₀.pending
  variant : s.hw.variant = s₀.hw.variant
  mem : MemKept s₀ s

/-- An answer's next state is one that keeps them. -/
def KeepsOut (s₀ : State) (o : Out) : Prop := ∀ t, o = .next t → Keeps s₀ t

/-- The state that an access of a collective engine answers with keeps them. -/
def KeepsGot (s₀ : State) : Got → Prop
  | .wait => True
  | .ok s _ => Keeps s₀ s
  | .failed s => Keeps s₀ s

/-- The same of an access that may have no address. -/
def KeepsRead (s₀ : State) : Option Got → Prop
  | none => True
  | some g => KeepsGot s₀ g

/-- The state that the arrival of a frame leaves keeps them. -/
def KeepsArr (s₀ : State) : Arrival → Prop
  | .done s => Keeps s₀ s
  | .dup s => Keeps s₀ s
  | .keep => True
  | .park => True

section
variable {s₀ s t : State} {α β : Type} {c : Prop} {_ : Decidable c}

theorem Keeps.refl (s : State) : Keeps s s := ⟨rfl, rfl, .refl s⟩

/-- An update of state that leaves the queue, the variant and both memories alone. -/
theorem Keeps.upd {hw un tl rg mm ks fw fb pw mt mi pn free} (h : Keeps s₀ s) (hv : hw.variant = s.hw.variant := by rfl)
    (hg : rg.win = s.rg.win := by rfl) (hm : mm.bytes = s.mm.bytes := by rfl) :
    Keeps s₀ ⟨hw, un, tl, rg, mm, ks, fw, fb, pw, mt, mi, pn, free, s.pending⟩ :=
  ⟨h.pending, hv.trans h.variant, h.mem.trans (.of_eq hm hg)⟩

/-- A write to a memory by one of its own operations. -/
theorem Keeps.wrote (h : Keeps s₀ s) (m : MemKept s t) (hp : t.pending = s.pending := by rfl)
    (hv : t.hw.variant = s.hw.variant := by rfl) : Keeps s₀ t :=
  ⟨hp.trans h.pending, hv.trans h.variant, h.mem.trans m⟩

theorem Keeps.ite {a b : State} (ha : Keeps s₀ a) (hb : Keeps s₀ b) : Keeps s₀ (if c then a else b) := by
  split
  · exact ha
  · exact hb

theorem Keeps.iteFst {p q : State × β} (hp : Keeps s₀ p.1) (hq : Keeps s₀ q.1) : Keeps s₀ (if c then p else q).1 := by
  split
  · exact hp
  · exact hq

theorem Keeps.foldl {f : State → α → State} (hf : ∀ {s a}, Keeps s₀ s → Keeps s₀ (f s a)) {l : List α} (h : Keeps s₀ s) :
    Keeps s₀ (l.foldl f s) :=
  List.foldlRecOn l f h (fun _ k _ _ => hf k)

theorem Keeps.pair {b : β} (h : Keeps s₀ s) : Keeps s₀ (s, b).1 := h

/-- A loop whose accumulator carries a state at `π`. -/
theorem Keeps.foldlOf {γ : Type} (π : γ → State) {f : γ → α → γ} (hf : ∀ {m a}, Keeps s₀ (π m) → Keeps s₀ (π (f m a))) {l : List α}
    {m : γ} (h : Keeps s₀ (π m)) : Keeps s₀ (π (l.foldl f m)) :=
  List.foldlRecOn l f (motive := fun m => Keeps s₀ (π m)) h (fun _ k _ _ => hf k)

theorem KeepsOut.next (h : Keeps s₀ s) : KeepsOut s₀ (.next s) := by
  rintro _ ⟨⟩
  exact h

theorem KeepsOut.ite {a b : Out} (ha : KeepsOut s₀ a) (hb : KeepsOut s₀ b) : KeepsOut s₀ (if c then a else b) := by
  split
  · exact ha
  · exact hb

theorem Keeps.ofOk {g : Got} {bs : List Byte} (k : KeepsGot s₀ g) (e : g = .ok s bs) : Keeps s₀ s := by
  subst e
  exact k

theorem Keeps.ofFailed {g : Got} (k : KeepsGot s₀ g) (e : g = .failed s) : Keeps s₀ s := by
  subst e
  exact k

theorem Keeps.ofDone {a : Arrival} (k : KeepsArr s₀ a) (e : a = .done s) : Keeps s₀ s := by
  subst e
  exact k

theorem Keeps.ofDup {a : Arrival} (k : KeepsArr s₀ a) (e : a = .dup s) : Keeps s₀ s := by
  subst e
  exact k

theorem Keeps.ofRead {o : Option Got} {bs : List Byte} (k : KeepsRead s₀ o) (e : o = some (.ok s bs)) : Keeps s₀ s := by
  subst e
  exact k

theorem Keeps.ofReadFailed {o : Option Got} (k : KeepsRead s₀ o) (e : o = some (.failed s)) : Keeps s₀ s := by
  subst e
  exact k

theorem KeepsRead.map {f : α → Got} (hf : ∀ {a}, KeepsGot s₀ (f a)) {o : Option α} : KeepsRead s₀ (o.map f) := by
  cases o with
  | none => trivial
  | some a => exact hf

theorem EvtFrame.keeps (k : EvtFrame s t) (h : Keeps s₀ s) : Keeps s₀ t := by
  obtain ⟨_, _, _, rfl⟩ := k
  exact h.upd

theorem TileFrame.keeps (k : TileFrame s t) (h : Keeps s₀ s) : Keeps s₀ t := by
  obtain ⟨_, _, _, _, _, rfl⟩ := k
  exact h.upd

theorem ReqFrame.keeps (k : ReqFrame s t) (h : Keeps s₀ s) : Keeps s₀ t := by
  obtain ⟨_, _, rfl⟩ := k
  exact h.upd
end

section
variable {s₀ s : State}

/-! ### Machine/Ops -/

theorem unitSet_keeps {u : UnitId} {x : Unit} (h : Keeps s₀ s) : Keeps s₀ (unitSet s u x) := (unitSet_frame _ _ _).keeps h

theorem sendDevIrq_keeps (h : Keeps s₀ s) : Keeps s₀ (sendDevIrq s) := (sendDevIrq_frame _).keeps h

theorem irqEdge_keeps (h : Keeps s₀ s) : Keeps s₀ (irqEdge s) := (irqEdge_frame _).keeps h

theorem unitEvt_keeps {u : UnitId} {bits : Nat} (h : Keeps s₀ s) : Keeps s₀ (unitEvt s u bits) := (unitEvt_frame _ _ _).keeps h

theorem setUState_keeps {u : UnitId} {st : UState} (h : Keeps s₀ s) : Keeps s₀ (setUState s u st) := (setUState_frame _ _ _).keeps h

theorem errLog_keeps {u : UnitId} {status source lo hi : Nat} {ctx : Option Nat} (h : Keeps s₀ s) :
    Keeps s₀ (errLog s u status source lo hi ctx) := (errLog_frame _ _ _ _ _ _ _).keeps h

theorem tileSet_keeps {t : Nat} {x : Tile} (h : Keeps s₀ s) : Keeps s₀ (tileSet s t x) := (tileSet_frame _ _ _).keeps h

theorem partSet_keeps {p : Part} (h : Keeps s₀ s) : Keeps s₀ (partSet s p) := (partSet_frame _ _).keeps h

theorem partAdd_keeps {p : Part} (h : Keeps s₀ s) : Keeps s₀ (partAdd s p) := .upd h

theorem partUpd_keeps {t : Nat} {f : Part → Part} (h : Keeps s₀ s) : Keeps s₀ (partUpd s t f) := (partUpd_frame _ _ _).keeps h

theorem partRunning_keeps {p : Part} {b : Bool} (h : Keeps s₀ s) : Keeps s₀ (partRunning s p b) := .foldl unitSet_keeps h

theorem tilesUpd_keeps {ts : List Nat} {f : Tile → Tile} (h : Keeps s₀ s) :
    Keeps s₀ (tilesUpd s ts f) := (tilesUpd_frame _ _ _).keeps h

theorem noteDetail_keeps {t lo : Nat} (h : Keeps s₀ s) : Keeps s₀ (noteDetail s t lo) := (noteDetail_frame _ _ _).keeps h

theorem tileErr_keeps {t status source lo hi : Nat} (h : Keeps s₀ s) :
    Keeps s₀ (tileErr s t status source lo hi) := (tileErr_frame _ _ _ _ _ _).keeps h

theorem tileSramUe_keeps {t source lo : Nat} (h : Keeps s₀ s) :
    Keeps s₀ (tileSramUe s t source lo) := (tileSramUe_frame _ _ _ _).keeps h

theorem tileFlags_keeps {t : Nat} {es : List FlagEv} (h : Keeps s₀ s) : Keeps s₀ (tileFlags s t es) := (tileFlags_frame _ _ _).keeps h

theorem tileSram_keeps {t : Nat} {hw : HwErr} (h : Keeps s₀ s) : Keeps s₀ (tileSram s t hw) := tileSet_keeps h

theorem tileReadUe_keeps {t : Nat} {reader : SramWord → Option Nat} (h : Keeps s₀ s) :
    Keeps s₀ (tileReadUe s t reader) := (tileReadUe_frame _ _ _).keeps h

theorem tileHw_keeps {t : Nat} {hw : HwErr} {engine pc : Nat} (h : Keeps s₀ s) :
    Keeps s₀ (tileHw s t hw engine pc) := (tileHw_frame _ _ _ _ _).keeps h

theorem tileLand_keeps {t n : Nat} (h : Keeps s₀ s) : Keeps s₀ (tileLand s t n) := (tileLand_frame _ _ _).keeps h

theorem tileUntil_keeps {t : Nat} {done : Tile → Bool} {n : Nat} (h : Keeps s₀ s) :
    Keeps s₀ (tileUntil s t done n) := (tileUntil_frame _ _ _ _).keeps h

theorem tileSettle_keeps {t : Nat} (h : Keeps s₀ s) : Keeps s₀ (tileSettle s t) := (tileSettle_frame _ _).keeps h

theorem queueSet_keeps {c : CmdRef} {q : Queue} (h : Keeps s₀ s) : Keeps s₀ (queueSet s c q) := .upd h

theorem finishRes_keeps {c : CmdRef} {status result : Nat} (h : Keeps s₀ s) : Keeps s₀ (finishRes s c status result) := by
  unfold finishRes
  split
  · exact h
  · split
    · exact h
    · exact queueSet_keeps h

theorem finishCmd_keeps {c : CmdRef} {status : Nat} (h : Keeps s₀ s) : Keeps s₀ (finishCmd s c status) := finishRes_keeps h

theorem finishJob_keeps {c : CmdRef} {j : Job} {status result detail : Nat} (h : Keeps s₀ s) :
    Keeps s₀ (finishJob s c j status result detail) := by
  unfold finishJob
  split
  · exact h
  · split
    · exact h
    · exact .ite (queueSet_keeps h) h

theorem lseqReset_keeps {p : Part} (h : Keeps s₀ s) : Keeps s₀ (lseqReset s p) := .upd h

theorem countStale_keeps {st : Nat} (h : Keeps s₀ s) : Keeps s₀ (countStale s st) := .ite (.upd h) h

theorem outUpd_keeps {page tag : Nat} {f : Outst → Outst} (h : Keeps s₀ s) :
    Keeps s₀ (outUpd s page tag f) := (outUpd_frame _ _ _ _).keeps h

theorem outEnd_keeps {page tag status : Nat} (h : Keeps s₀ s) : Keeps s₀ (outEnd s page tag status) := (outEnd_frame _ _ _ _).keeps h

theorem dropOutst_keeps {page : Nat} (h : Keeps s₀ s) : Keeps s₀ (dropOutst s page) := (dropOutst_frame _ _).keeps h

theorem dropTxnOutst_keeps {tid page : Nat} (h : Keeps s₀ s) : Keeps s₀ (dropTxnOutst s tid page) := (dropTxnOutst_frame _ _ _).keeps h

theorem outIssued_keeps {r : Req} {arrived : Bool} (h : Keeps s₀ s) : Keeps s₀ (outIssued s r arrived) :=
  .ite h (.ite (outUpd_keeps h) (.upd h))

theorem reqReply_keeps {r : Req} {status : Nat} {data : List Byte} (h : Keeps s₀ s) : Keeps s₀ (reqReply s r status data) := .upd h

theorem reqDeliver_keeps {r : Req} (h : Keeps s₀ s) : Keeps s₀ (reqDeliver s r) := by
  unfold reqDeliver
  split
  · exact reqReply_keeps (countStale_keeps h)
  · exact reqReply_keeps h

theorem acceptedReset_keeps {u : UnitId} (h : Keeps s₀ s) : Keeps s₀ (acceptedReset s u) := .foldl reqReply_keeps (.upd h)

theorem txnSet_keeps {tid : Nat} {x : Txn} (h : Keeps s₀ s) : Keeps s₀ (txnSet s tid x) := .upd h

theorem txnOpen_keeps {kind key : Nat} {coord : UnitId} {members : List UnitId} {st : MemberSt} (h : Keeps s₀ s) {t : State}
    {out : Nat} (e : txnOpen s kind key coord members st = some (t, out)) : Keeps s₀ t := by
  unfold txnOpen at e
  split at e
  · cases e
  · cases e
    exact h.upd

theorem txnAbortRecord_keeps {tid : Nat} {x : Txn} {cause : Nat} (h : Keeps s₀ s) : Keeps s₀ (txnAbortRecord s tid x cause) := .upd h

theorem barHeld_keeps {p : Part} (h : Keeps s₀ s) : Keeps s₀ (barHeld s p) := .upd (.foldl (fun k => tileSet_keeps k) h)

theorem barIssue_keeps {p : Part} {next : Tile → Option Nat} {bid : Option Nat} (h : Keeps s₀ s) : Keeps s₀ (barIssue s p next bid) :=
  partUpd_keeps (tilesUpd_keeps (barHeld_keeps h))

theorem stepAborted_keeps {p : Part} {cause gate : Nat} (h : Keeps s₀ s) : Keeps s₀ (stepAborted s p cause gate) :=
  unitEvt_keeps (partSet_keeps h)

theorem barDecided_keeps {t0 : Nat} (h : Keeps s₀ s) : Keeps s₀ (barDecided s t0) := by
  unfold barDecided
  split
  · exact h
  · split
    · exact .ite (barIssue_keeps h) (partSet_keeps h)
    · exact h

theorem substSet_keeps {c : Nat} {x : Subst} (h : Keeps s₀ s) : Keeps s₀ (substSet s c x) := .upd h

theorem substAborted_keeps {c : Nat} (h : Keeps s₀ s) : Keeps s₀ (substAborted s c) :=
  unitEvt_keeps (.foldl reqDeliver_keeps (substSet_keeps (.upd h)))

theorem actAborted_keeps {cause : Nat} (h : Keeps s₀ s) : Keeps s₀ (actAborted s cause) := .ite (.upd h) (.upd h)

theorem txnAbortGate_keeps {tid cause gate : Nat} (h : Keeps s₀ s) : Keeps s₀ (txnAbortGate s tid cause gate) := by
  unfold txnAbortGate
  split
  · exact h
  · split
    · exact h
    · extract_lets _ s1
      have h1 : Keeps s₀ s1 := txnAbortRecord_keeps (txnSet_keeps (dropTxnOutst_keeps h))
      split
      · split
        · exact h1
        · exact barDecided_keeps (stepAborted_keeps h1)
      · exact substAborted_keeps h1
      · exact actAborted_keeps h1
      · exact h1

theorem txnAbort_keeps {tid cause : Nat} (h : Keeps s₀ s) : Keeps s₀ (txnAbort s tid cause) := txnAbortGate_keeps h

theorem stepAbort_keeps {p : Part} {cause : Nat} (h : Keeps s₀ s) : Keeps s₀ (stepAbort s p cause) := .ite (txnAbort_keeps h) h

theorem txnsOfUnit_keeps {page cause : Nat} (h : Keeps s₀ s) : Keeps s₀ (txnsOfUnit s page cause) :=
  .foldl (fun k => .ite k (.ite (txnAbort_keeps k) (.ite (txnAbort_keeps k) k))) h

theorem txnsOfHit_keeps {pages : List Nat} (h : Keeps s₀ s) : Keeps s₀ (txnsOfHit s pages) :=
  .foldl (fun k => .ite k (.ite (txnAbort_keeps k) (.ite (txnAbort_keeps k) k))) h

theorem replyStale_keeps {u : UnitId} (h : Keeps s₀ s) : Keeps s₀ (replyStale s u) := unitEvt_keeps (.upd h)

theorem outAnswer_keeps {o : Outst} {status : Nat} (h : Keeps s₀ s) : Keeps s₀ (outAnswer s o status) := by
  unfold outAnswer
  split
  · exact .ite (outUpd_keeps h) (outEnd_keeps h)
  · exact .ite (txnAbort_keeps (outEnd_keeps h)) (outEnd_keeps h)

theorem replyTake_keeps {o : Outst} {r : Reply} (h : Keeps s₀ s) : Keeps s₀ (replyTake s o r) := outAnswer_keeps (.upd h)

theorem packetsReset_keeps {k : Nat} (h : Keeps s₀ s) : Keeps s₀ (packetsReset s k) := .foldl outAnswer_keeps (.upd h)

theorem landStopped_keeps {t : Nat} (h : Keeps s₀ s) : Keeps s₀ (landStopped s t) := .ite h (tileSettle_keeps h)

theorem substOfPart_keeps {p : Part} {cause : Nat} (h : Keeps s₀ s) : Keeps s₀ (substOfPart s p cause) := by
  unfold substOfPart
  refine .foldl (fun k => ?_) h
  split
  · exact k
  · exact .ite (txnAbort_keeps k) k

theorem stopPart_keeps {p : Part} {status cause : Nat} (h : Keeps s₀ s) : Keeps s₀ (stopPart s p status cause) := by
  unfold stopPart
  split
  · exact h
  · exact partUpd_keeps (tilesUpd_keeps (.foldl landStopped_keeps (substOfPart_keeps (stepAbort_keeps h))))

theorem plateFault_keeps {t source : Nat} (h : Keeps s₀ s) : Keeps s₀ (plateFault s t source) := by
  unfold plateFault
  split
  · exact h
  · extract_lets s1
    have h1 : Keeps s₀ s1 := noteDetail_keeps (errLog_keeps h)
    split
    · exact h1
    · exact stopPart_keeps h1

theorem fetchBeyond_keeps {t0 : Nat} (h : Keeps s₀ s) : Keeps s₀ (fetchBeyond s t0) := by
  unfold fetchBeyond
  split
  · exact h
  · split
    · exact plateFault_keeps h
    · exact h

/-! ### Machine/FabricOps -/

theorem fportSet_keeps {p : Nat} {x : FPort} (h : Keeps s₀ s) : Keeps s₀ (fportSet s p x) := .upd h

theorem pathSet_keeps {node p : Nat} {x : PathSt} (h : Keeps s₀ s) : Keeps s₀ (pathSet s node p x) := .upd h

theorem groupSet_keeps {g : Nat} {x : Group} (h : Keeps s₀ s) : Keeps s₀ (groupSet s g x) := .upd h

theorem groupUpd_keeps {g : Nat} {f : Group → Group} (h : Keeps s₀ s) : Keeps s₀ (groupUpd s g f) := by
  unfold groupUpd
  split
  · exact groupSet_keeps h
  · exact h

theorem portTx_keeps {p : Nat} {q : PathHdr} {hdr : Nat} {body tag : List Byte} (h : Keeps s₀ s) :
    Keeps s₀ (portTx s p q hdr body tag) :=
    .ite h (.ite (unitEvt_keeps (fportSet_keeps h)) (fportSet_keeps h))

theorem sendPlain_keeps {node p typ pseq : Nat} {body : List Byte} (h : Keeps s₀ s) : Keeps s₀ (sendPlain s node p typ pseq body) :=
  .ite h (portTx_keeps (pathSet_keeps h))

theorem pctrNext_keeps {f : UFrame} {p : Nat} (h : Keeps s₀ s) : Keeps s₀ (pctrNext s f p) := by
  unfold pctrNext
  split
  · exact h
  · exact groupUpd_keeps h

theorem frameTx_keeps {node p pseq : Nat} {retx : Bool} {f : UFrame} (h : Keeps s₀ s) : Keeps s₀ (frameTx s node p pseq retx f) :=
  portTx_keeps (pctrNext_keeps h)

theorem sendOn_keeps {node p : Nat} {retx : Bool} {f : UFrame} (h : Keeps s₀ s) : Keeps s₀ (sendOn s node p retx f) :=
  frameTx_keeps (pathSet_keeps h)

theorem assignPort_keeps {g : List (Nat × UFrame × Bool)} (h : Keeps s₀ s) : Keeps s₀ (assignPort s g).1 := by
  unfold assignPort
  split
  · exact .pair h
  · dsimp only
    split
    · exact .pair (.upd h)
    · exact .pair (.ite (.upd h) h)

theorem servePort_keeps {asg : List (Nat × Nat × UFrame × Bool)} {p : Nat} (h : Keeps s₀ s) : Keeps s₀ (servePort asg s p) :=
  .ite h (.foldl sendOn_keeps (.upd h))

theorem serveFabric_keeps (h : Keeps s₀ s) : Keeps s₀ (serveFabric s) :=
  .ite h (.foldl servePort_keeps (.foldlOf Prod.fst (fun k => .pair (assignPort_keeps k)) (.pair (.upd h))))

theorem serveLinks_keeps (h : Keeps s₀ s) : Keeps s₀ (serveLinks s) := .ite h (.foldl (fun k => .ite k (.upd k)) (.upd h))

theorem sendFrames_keeps {node : Nat} {retx : Bool} {fs : List UFrame} (h : Keeps s₀ s) : Keeps s₀ (sendFrames s node retx fs) :=
  .ite h (.ite (serveLinks_keeps (.upd h)) (.ite h (serveFabric_keeps (.upd h))))

theorem pathDown_keeps {node p : Nat} (h : Keeps s₀ s) : Keeps s₀ (pathDown s node p) :=
  .ite h (serveFabric_keeps (.upd (pathSet_keeps h)))

theorem portDown_keeps {p : Nat} (h : Keeps s₀ s) : Keeps s₀ (portDown s p) := .foldl pathDown_keeps h

theorem pathProbe_keeps {node p : Nat} (h : Keeps s₀ s) : Keeps s₀ (pathProbe s node p) := pathSet_keeps h

theorem portProbe_keeps {p : Nat} (h : Keeps s₀ s) : Keeps s₀ (portProbe s p) :=
  .ite h (.foldl (fun k => .ite (pathProbe_keeps k) k) h)

theorem portCheck_keeps {p : Nat} (h : Keeps s₀ s) : Keeps s₀ (portCheck s p) := .ite h (portDown_keeps h)

theorem portFollow_keeps {p : Nat} {st : UState} (h : Keeps s₀ s) : Keeps s₀ (portFollow s p st) := by
  unfold portFollow
  extract_lets
  split
  · exact portDown_keeps h
  · exact portDown_keeps (fportSet_keeps h)
  · exact portDown_keeps (fportSet_keeps h)
  · exact portDown_keeps (fportSet_keeps h)
  · exact .foldl pathSet_keeps (portDown_keeps (fportSet_keeps h))
  · exact .ite (portProbe_keeps h) (.ite (fportSet_keeps h) h)
  · exact h

theorem unitTo_keeps {u : UnitId} {st : UState} (h : Keeps s₀ s) : Keeps s₀ (unitTo s u st) := by
  unfold unitTo
  split
  · exact .ite h (portFollow_keeps (setUState_keeps h))
  · exact setUState_keeps h

/-! ### Machine/Units -/

theorem cmdDone_keeps {u : UnitId} {status : Nat} (h : Keeps s₀ s) : Keeps s₀ (cmdDone s u status) :=
  irqEdge_keeps (unitSet_keeps h)

theorem acceptCmd_keeps {u : UnitId} {w : Writer} {inc : Half} {c : UCmd} {go : State → State} (h : Keeps s₀ s)
    (hgo : ∀ {s}, Keeps s₀ s → Keeps s₀ (go s)) : Keeps s₀ (acceptCmd s u w inc c go) := by
  unfold acceptCmd
  extract_lets
  split
  · exact h
  · exact .ite (unitEvt_keeps h) (.ite (cmdDone_keeps h) (.ite (cmdDone_keeps h) (hgo (unitSet_keeps h))))

theorem placeHold_keeps {page t : Nat} (h : Keeps s₀ s) : Keeps s₀ (placeHold s page t) := partUpd_keeps h

theorem placeHoldAt_keeps {page : Nat} {u : UnitId} (h : Keeps s₀ s) : Keeps s₀ (placeHoldAt s page u) := by
  unfold placeHoldAt
  split
  · exact placeHold_keeps h
  · exact h

theorem quiesceOne_keeps {root src : Nat} {u : UnitId} (h : Keeps s₀ s) : Keeps s₀ (quiesceOne root src s u) := by
  unfold quiesceOne
  extract_lets _ s
  have hs : Keeps s₀ s := placeHoldAt_keeps h
  exact .ite (unitSet_keeps hs) (.ite (unitTo_keeps (unitSet_keeps hs)) hs)

theorem quiesceGo_keeps {u : UnitId} (h : Keeps s₀ s) : Keeps s₀ (quiesceGo s u) :=
  .foldl quiesceOne_keeps (placeHoldAt_keeps (unitTo_keeps h))

theorem resumeTile_keeps {t : Nat} (h : Keeps s₀ s) : Keeps s₀ (resumeTile s t) :=
  .ite h (.ite (cmdDone_keeps (unitTo_keeps h)) (unitTo_keeps h))

theorem unholdPart_keeps {t0 : Nat} (h : Keeps s₀ s) : Keeps s₀ (unholdPart s t0) := by
  unfold unholdPart
  split
  · exact h
  · split
    · extract_lets s1
      have h1 : Keeps s₀ s1 := .foldl resumeTile_keeps h
      exact .ite (partUpd_keeps (tilesUpd_keeps h1)) (.ite (fetchBeyond_keeps (barIssue_keeps h1)) h1)
    · exact h

theorem withdrawHolds_keeps {page : Nat} (h : Keeps s₀ s) : Keeps s₀ (withdrawHolds s page) :=
  .foldl unholdPart_keeps (.foldl partUpd_keeps h)

theorem resumeOne_keeps {root src : Nat} {u : UnitId} (h : Keeps s₀ s) : Keeps s₀ (resumeOne root src s u) :=
  .ite (unitSet_keeps h) (.ite (unitTo_keeps (unitSet_keeps h)) (.ite (unitSet_keeps h) h))

theorem resumeGo_keeps {u : UnitId} (h : Keeps s₀ s) : Keeps s₀ (resumeGo s u) := by
  unfold resumeGo
  extract_lets s1
  have h1 : Keeps s₀ s1 := withdrawHolds_keeps h
  exact .foldl resumeOne_keeps (.ite h1 (.ite h1 (cmdDone_keeps (unitTo_keeps h1))))

theorem loadIncs_keeps {u : UnitId} (h : Keeps s₀ s) : Keeps s₀ (loadIncs s u) := .upd h

theorem recordApplied_keeps {u : UnitId} (h : Keeps s₀ s) : Keeps s₀ (recordApplied s u) := .upd h

theorem reloadStep_keeps {u : UnitId} (h : Keeps s₀ s) : Keeps s₀ (reloadStep s u) := by
  unfold reloadStep
  split
  · split
    · exact recordApplied_keeps h
    · exact recordApplied_keeps (tileSet_keeps h)
  · exact recordApplied_keeps h

/-! ### Machine/TileOps -/

theorem endStroke_keeps {t : Nat} {f : Flow} (h : Keeps s₀ s) : Keeps s₀ (endStroke s t f) := by
  unfold endStroke
  extract_lets
  split
  · exact h
  · split
    · exact tileSettle_keeps (tileSet_keeps h)
    · split
      · exact plateFault_keeps (tileSet_keeps h)
      · exact tileLand_keeps (tileSet_keeps h)

theorem openStroke_keeps {t : Nat} (h : Keeps s₀ s) : Keeps s₀ (openStroke s t) := by
  unfold openStroke
  extract_lets _ _ s1
  have h1 : Keeps s₀ s1 := tileSet_keeps h
  split
  · exact h
  · exact .ite (tileSramUe_keeps h1) h1

theorem slotDo_keeps {t : Nat} {slots : List Nat} {more : Bool} {act : State → State} (h : Keeps s₀ s)
    (hact : ∀ {s}, Keeps s₀ s → Keeps s₀ (act s)) : Keeps s₀ (slotDo s t slots more act) := by
  unfold slotDo
  split
  · exact h
  · split
    · exact h
    · extract_lets _ _ _ s2 s3
      have h2 : Keeps s₀ s2 := tileSet_keeps (openStroke_keeps h)
      have h3 : Keeps s₀ s3 := .ite h2 (hact h2)
      exact .ite h3 (endStroke_keeps h3)

theorem sClash_keeps {t i left : Nat} {v : W64} (h : Keeps s₀ s) : Keeps s₀ (sClash s t i left v).1 := by
  unfold sClash
  dsimp only
  exact .iteFst (.pair (tileSet_keeps (.upd h))) (.pair h)

theorem sWrite_keeps {t i : Nat} {v : W64} (h : Keeps s₀ s) : Keeps s₀ (sWrite s t i v) := tileSet_keeps (sClash_keeps h)

theorem sWriteLater_keeps {t i left : Nat} {v : W64} (h : Keeps s₀ s) : Keeps s₀ (sWriteLater s t i left v) :=
  tileSet_keeps (sClash_keeps h)

theorem noteS_keeps {t : Nat} {is : List Nat} (h : Keeps s₀ s) : Keeps s₀ (noteS s t is) := tileReadUe_keeps h

theorem noteX_keeps {t : Nat} {ws : List Nat} (h : Keeps s₀ s) : Keeps s₀ (noteX s t ws) := tileReadUe_keeps h

theorem xWrite_keeps {t i k : Nat} {v : W32} (h : Keeps s₀ s) : Keeps s₀ (xWrite s t i k v) := (xWrite_frame _ _ _ _ _).keeps h

theorem xWriteAll_keeps {t i : Nat} {v : Nat → W32} (h : Keeps s₀ s) : Keeps s₀ (xWriteAll s t i v) := tileSet_keeps h

theorem tokenAdd_keeps {t i n : Nat} (h : Keeps s₀ s) : Keeps s₀ (tokenAdd s t i n) := (tokenAdd_frame _ _ _ _).keeps h

theorem noteLatch_keeps {t source : Nat} {tds xs : List Nat} (h : Keeps s₀ s) : Keeps s₀ (noteLatch s t source tds xs) :=
  tileReadUe_keeps h

theorem descFault_keeps {t status engine pc reg : Nat} (h : Keeps s₀ s) : Keeps s₀ (descFault s t status engine pc reg) :=
  tileErr_keeps h

theorem fxApply_keeps {t source : Nat} {x : Tile} {evs : List FlagEv} {bad : List Nat} (h : Keeps s₀ s) :
    Keeps s₀ (fxApply s t source x evs bad) := (fxApply_frame _ _ _ _ _ _).keeps h

theorem takeLocal_keeps {t : Nat} {p : PathId} {c : PathCmd} (h : Keeps s₀ s) :
    Keeps s₀ (takeLocal s t p c) := (takeLocal_frame _ _ _ _).keeps h

/-! ### Machine/Scalar -/

theorem scalarOp_keeps {t dst : Nat} {srcs : List Nat} {more : Bool} {f : (Nat → W64) → W64} (h : Keeps s₀ s) :
    KeepsOut s₀ (scalarOp t dst srcs more f s) :=
    .next (slotDo_keeps h (fun k => sWrite_keeps (noteS_keeps k)))

theorem execAddi_keeps {t dst sa : Nat} {imm : BitVec 14} {more : Bool} (h : Keeps s₀ s) :
    KeepsOut s₀ (execAddi t dst sa imm more s) :=
    scalarOp_keeps h

theorem execScalarAdd_keeps {t dst sa sb : Nat} {more : Bool} (h : Keeps s₀ s) : KeepsOut s₀ (execScalarAdd t dst sa sb more s) :=
  scalarOp_keeps h

theorem execScalarSub_keeps {t dst sa sb : Nat} {more : Bool} (h : Keeps s₀ s) : KeepsOut s₀ (execScalarSub t dst sa sb more s) :=
  scalarOp_keeps h

theorem execScalarMul_keeps {t dst sa sb : Nat} {more : Bool} (h : Keeps s₀ s) : KeepsOut s₀ (execScalarMul t dst sa sb more s) :=
  .next (slotDo_keeps h (fun k => sWriteLater_keeps (noteS_keeps k)))

theorem execSAnd_keeps {t dst sa sb : Nat} {more : Bool} (h : Keeps s₀ s) : KeepsOut s₀ (execSAnd t dst sa sb more s) :=
  scalarOp_keeps h

theorem execSOr_keeps {t dst sa sb : Nat} {more : Bool} (h : Keeps s₀ s) : KeepsOut s₀ (execSOr t dst sa sb more s) :=
  scalarOp_keeps h

theorem execSXor_keeps {t dst sa sb : Nat} {more : Bool} (h : Keeps s₀ s) : KeepsOut s₀ (execSXor t dst sa sb more s) :=
  scalarOp_keeps h

theorem execShli_keeps {t dst sa : Nat} {imm : BitVec 14} {more : Bool} (h : Keeps s₀ s) :
    KeepsOut s₀ (execShli t dst sa imm more s) :=
    scalarOp_keeps h

theorem execShri_keeps {t dst sa : Nat} {imm : BitVec 14} {more : Bool} (h : Keeps s₀ s) :
    KeepsOut s₀ (execShri t dst sa imm more s) :=
    scalarOp_keeps h

theorem execSrai_keeps {t dst sa : Nat} {imm : BitVec 14} {more : Bool} (h : Keeps s₀ s) :
    KeepsOut s₀ (execSrai t dst sa imm more s) :=
    scalarOp_keeps h

theorem execScalarMin_keeps {t dst sa sb : Nat} {more : Bool} (h : Keeps s₀ s) : KeepsOut s₀ (execScalarMin t dst sa sb more s) :=
  scalarOp_keeps h

theorem execScalarMax_keeps {t dst sa sb : Nat} {more : Bool} (h : Keeps s₀ s) : KeepsOut s₀ (execScalarMax t dst sa sb more s) :=
  scalarOp_keeps h

theorem execSel_keeps {t dst sa sb : Nat} {more : Bool} (h : Keeps s₀ s) : KeepsOut s₀ (execSel t dst sa sb more s) :=
  scalarOp_keeps h

theorem execLi_keeps {t dst k : Nat} {imm : BitVec 14} {more : Bool} (h : Keeps s₀ s) : KeepsOut s₀ (execLi t dst k imm more s) :=
  .next (slotDo_keeps h (fun k => .ite k (.ite (tileSramUe_keeps k) (sWrite_keeps k))))

theorem execSld_keeps {t dst sa : Nat} {imm : BitVec 14} {hw : HwErr} {more : Bool} (h : Keeps s₀ s) :
    KeepsOut s₀ (execSld t dst sa imm hw more s) := by
  unfold execSld
  refine .next (slotDo_keeps h (fun k => ?_))
  extract_lets _ s
  have hs : Keeps s₀ s := tileSram_keeps (noteS_keeps k)
  exact .ite (plateFault_keeps hs) (tileSet_keeps hs)

theorem execSst_keeps {t sa sb : Nat} {imm : BitVec 14} {hw : HwErr} {more : Bool} (h : Keeps s₀ s) :
    KeepsOut s₀ (execSst t sa sb imm hw more s) := by
  unfold execSst
  refine .next (slotDo_keeps h (fun k => ?_))
  extract_lets _ _ s
  have hs : Keeps s₀ s := tileSram_keeps (noteS_keeps k)
  exact .ite (plateFault_keeps hs) (tileSet_keeps hs)

theorem laneOp_keeps {t dst lane : Nat} {srcs : List Nat} {more : Bool} {f : W32 → State → W32} (h : Keeps s₀ s) :
    KeepsOut s₀ (laneOp t dst lane srcs more f s) :=
    .next (slotDo_keeps h (fun k => .ite k (xWrite_keeps (noteS_keeps k))))

theorem execXset_keeps {t dst lane sa : Nat} {more : Bool} (h : Keeps s₀ s) : KeepsOut s₀ (execXset t dst lane sa more s) :=
  laneOp_keeps h

theorem execXaddi_keeps {t dst lane : Nat} {imm : BitVec 14} {more : Bool} (h : Keeps s₀ s) :
    KeepsOut s₀ (execXaddi t dst lane imm more s) :=
    laneOp_keeps h

theorem execXadd_keeps {t dst lane sa : Nat} {more : Bool} (h : Keeps s₀ s) : KeepsOut s₀ (execXadd t dst lane sa more s) :=
  laneOp_keeps h

theorem execXcopy_keeps {t dst sa : Nat} {more : Bool} (h : Keeps s₀ s) : KeepsOut s₀ (execXcopy t dst sa more s) :=
  .next (slotDo_keeps h (fun k => xWriteAll_keeps (noteX_keeps k)))

theorem execXget_keeps {t dst sa lane : Nat} {more : Bool} (h : Keeps s₀ s) : KeepsOut s₀ (execXget t dst sa lane more s) :=
  .next (slotDo_keeps h (fun k => .ite k (sWrite_keeps (noteX_keeps k))))

theorem execTdload_keeps {t td sreg imm : Nat} {hw : HwErr} {more : Bool} (h : Keeps s₀ s) :
    KeepsOut s₀ (execTdload t td sreg imm hw more s) := by
  unfold execTdload
  refine .next (slotDo_keeps h (fun k => ?_))
  extract_lets _ s
  have hs : Keeps s₀ s := tileSram_keeps (noteS_keeps k)
  exact .ite (plateFault_keeps hs) (tileSet_keeps hs)

theorem execTdbase_keeps {t td sreg : Nat} {second more : Bool} (h : Keeps s₀ s) : KeepsOut s₀ (execTdbase t td sreg second more s) :=
  .next (slotDo_keeps h (fun k => .ite (tileSramUe_keeps (noteS_keeps k)) (tileSet_keeps (.upd (noteS_keeps k)))))

theorem flowDo_keeps {t : Nat} {f : State → Flow} (h : Keeps s₀ s) : Keeps s₀ (flowDo s t f) :=
  .ite h (endStroke_keeps (openStroke_keeps h))

theorem execLstart_keeps {t count body : Nat} (h : Keeps s₀ s) : KeepsOut s₀ (execLstart t count body s) := .next (flowDo_keeps h)

theorem execLstartS_keeps {t sreg body : Nat} (h : Keeps s₀ s) : KeepsOut s₀ (execLstartS t sreg body s) :=
  .next (flowDo_keeps (.ite (noteS_keeps h) h))

theorem execCall_keeps {t target : Nat} (h : Keeps s₀ s) : KeepsOut s₀ (execCall t target s) := .next (flowDo_keeps h)

theorem execRet_keeps {t : Nat} (h : Keeps s₀ s) : KeepsOut s₀ (execRet t s) := .next (flowDo_keeps h)

/-! ### Machine/Txn -/

theorem memberTo_keeps {tid : Nat} {x : Txn} {u : UnitId} {st : MemberSt} (h : Keeps s₀ s) : Keeps s₀ (memberTo s tid x u st) :=
  txnSet_keeps h

theorem substEnrolled_keeps {tid : Nat} (h : Keeps s₀ s) : Keeps s₀ (substEnrolled s tid) := by
  unfold substEnrolled
  split
  · exact h
  · exact .ite (txnSet_keeps h) h

theorem execTxnEnrol_keeps {tid : Nat} {u : UnitId} {inc : Half} (h : Keeps s₀ s) : KeepsOut s₀ (execTxnEnrol tid u inc s) := by
  unfold execTxnEnrol
  split
  · exact .next h
  · split
    · exact .next h
    · split
      · exact .next (txnAbort_keeps (countStale_keeps h))
      · exact .next (substEnrolled_keeps (txnSet_keeps h))

theorem execTxnPrepare_keeps {tid : Nat} {u : UnitId} {inc : Half} (h : Keeps s₀ s) : KeepsOut s₀ (execTxnPrepare tid u inc s) := by
  unfold execTxnPrepare
  split
  · exact .next h
  · split
    · exact .next h
    · split
      · exact .next (txnAbort_keeps (countStale_keeps h))
      · exact .next (memberTo_keeps h)

theorem stepCommitted_keeps {tid : Nat} {x : Txn} {p : Part} (h : Keeps s₀ s) : Keeps s₀ (stepCommitted s tid x p) := by
  unfold stepCommitted
  extract_lets _ _ _ _ s2
  have h2 : Keeps s₀ s2 := .upd (partSet_keeps (txnSet_keeps h))
  exact .ite (unitEvt_keeps h2) h2

theorem stepDecide_keeps {tid : Nat} (h : Keeps s₀ s) : Keeps s₀ (stepDecide s tid) := by
  unfold stepDecide
  split
  · exact h
  · split
    · exact h
    · split
      · exact h
      · exact .ite (txnAbortGate_keeps h) (.ite h (.ite (.ite h (partSet_keeps h)) (stepCommitted_keeps h)))

theorem plainDecide_keeps {tid : Nat} {x : Txn} (h : Keeps s₀ s) : Keeps s₀ (plainDecide s tid x) := .ite (.upd (txnSet_keeps h)) h

theorem applyPart_keeps {x : Txn} {u : UnitId} (h : Keeps s₀ s) : Keeps s₀ (applyPart s x u) := by
  unfold applyPart
  split
  · split
    · exact tileSet_keeps h
    · exact h
  · exact h

theorem commitReached_keeps {x : Txn} (h : Keeps s₀ s) : Keeps s₀ (commitReached s x) :=
  .ite (fetchBeyond_keeps (barDecided_keeps h)) h

theorem txnDel_keeps {tid : Nat} (h : Keeps s₀ s) : Keeps s₀ (txnDel s tid) := .upd h

theorem discardMember_keeps {tid : Nat} {x : Txn} {u : UnitId} (h : Keeps s₀ s) : Keeps s₀ (discardMember s tid x u) :=
  .ite (txnDel_keeps (dropTxnOutst_keeps h)) (txnSet_keeps (dropTxnOutst_keeps h))

theorem coordDrops_keeps {tid : Nat} {x : Txn} (h : Keeps s₀ s) : Keeps s₀ (coordDrops s tid x) := by
  unfold coordDrops
  split
  · exact txnSet_keeps (replyStale_keeps h)
  · exact h

theorem abortCount_keeps {x : Txn} {u : UnitId} (h : Keeps s₀ s) : Keeps s₀ (abortCount s x u) := by
  unfold abortCount
  split
  · exact countStale_keeps h
  · exact h

theorem execTxnAbort_keeps {tid : Nat} {u : UnitId} (h : Keeps s₀ s) : KeepsOut s₀ (execTxnAbort tid u s) := by
  unfold execTxnAbort
  split
  · exact .next h
  · exact .ite (.next h) (.ite (.next h) (.next (discardMember_keeps (abortCount_keeps h))))

theorem execDecisionQuery_keeps {tid : Nat} {u : UnitId} (h : Keeps s₀ s) : KeepsOut s₀ (execDecisionQuery tid u s) := by
  unfold execDecisionQuery
  split
  · exact .next h
  · split
    · exact .next h
    · extract_lets _ s1 _ s2
      have h1 : Keeps s₀ s1 := txnSet_keeps h
      have h2 : Keeps s₀ s2 := txnAbort_keeps h1
      split
      · exact .next h
      · split
        · exact .ite (.next (commitReached_keeps (txnSet_keeps (applyPart_keeps h1)))) (.next h1)
        · split
          · exact .next h2
          · exact .next (discardMember_keeps h2)

/-! ### Machine/Plate -/

theorem waitSlot_keeps {t sy : Nat} {ok more : Bool} {act : State → State} (h : Keeps s₀ s)
    (hact : ∀ {s}, Keeps s₀ s → Keeps s₀ (act s)) : Keeps s₀ (waitSlot s t sy ok more act) :=
    .ite h (.ite (tileLand_keeps (tileSet_keeps h)) (slotDo_keeps (tileSet_keeps h) hact))

theorem execWait_keeps {t : Nat} {k : WaitKind} {n : Nat} {src : Bool} {v : Nat} {more : Bool} (h : Keeps s₀ s) :
    KeepsOut s₀ (execWait t k n src v more s) :=
    .next (waitSlot_keeps h (fun k => .ite (noteS_keeps k) k))

theorem execWaitTimeout_keeps {t : Nat} (h : Keeps s₀ s) : KeepsOut s₀ (execWaitTimeout t s) :=
  .ite (.next (plateFault_keeps h)) (.next h)

theorem execTokenDec_keeps {t n amount : Nat} {more : Bool} (h : Keeps s₀ s) : KeepsOut s₀ (execTokenDec t n amount more s) :=
  .next (slotDo_keeps h (fun k => .ite k (tileSet_keeps k)))

theorem execFlagclr_keeps {t mask : Nat} {more : Bool} (h : Keeps s₀ s) : KeepsOut s₀ (execFlagclr t mask more s) :=
  .next (slotDo_keeps h (fun k => tileSet_keeps k))

theorem execCfg_keeps {t off sreg : Nat} {more : Bool} (h : Keeps s₀ s) : KeepsOut s₀ (execCfg t off sreg more s) :=
  .next (slotDo_keeps h (fun k => tileSet_keeps (noteS_keeps k)))

theorem lockstep_keeps {p : Part} (h : Keeps s₀ s) : Keeps s₀ (lockstep s p) := by
  unfold lockstep
  extract_lets _ s2
  have h2 : Keeps s₀ s2 := noteDetail_keeps (.foldl errLog_keeps h)
  split
  · exact h2
  · exact stopPart_keeps h2

theorem execBarrierArrive_keeps {t : Nat} {k : BarKind} {bid : Nat} {sy : W32} (h : Keeps s₀ s) :
    KeepsOut s₀ (execBarrierArrive t k bid sy s) := by
  unfold execBarrierArrive
  split
  · exact .next h
  · extract_lets s0 _ _ _ _ _ s1
    have h0 : Keeps s₀ s0 := tileSettle_keeps h
    have h1 : Keeps s₀ s1 := tileSet_keeps h0
    split
    · exact .next (tileSet_keeps h0)
    · split
      · exact .next h1
      · exact .ite (.next h1) (.ite (.next (partSet_keeps h1)) (.next (lockstep_keeps h1)))

theorem execBarrier_keeps {t bid : Nat} {more : Bool} (h : Keeps s₀ s) : KeepsOut s₀ (execBarrier t bid more s) := by
  unfold execBarrier
  split
  · exact .next h
  · split
    · exact .ite (.next (fetchBeyond_keeps (barIssue_keeps h))) (.next h)
    · exact .next h

theorem clearStacks_keeps {p : Part} (h : Keeps s₀ s) : Keeps s₀ (clearStacks s p) := tilesUpd_keeps h

theorem execAbortStep_keeps {t cond sreg : Nat} {more : Bool} (h : Keeps s₀ s) : KeepsOut s₀ (execAbortStep t cond sreg more s) := by
  unfold execAbortStep
  split
  · exact .next h
  · split
    · exact .next (fetchBeyond_keeps (barIssue_keeps h))
    · extract_lets s1
      have h1 : Keeps s₀ s1 := clearStacks_keeps (stepAbort_keeps h)
      split
      · exact .next (plateFault_keeps h1)
      · exact .next (partUpd_keeps (.foldl tileSet_keeps (barHeld_keeps h1)))
      · exact .next h1

theorem execStepOpen_keeps {t : Nat} {more : Bool} (h : Keeps s₀ s) : KeepsOut s₀ (execStepOpen t more s) := by
  unfold execStepOpen
  split
  · exact .next h
  · extract_lets s1
    have h1 : Keeps s₀ s1 := stepAbort_keeps h
    split
    · exact .next h1
    · split
      · exact .next h1
      · split
        · exact .next (fetchBeyond_keeps (unitEvt_keeps (barIssue_keeps (lseqReset_keeps (partSet_keeps h1)))))
        · split
          · exact .next h1
          · rename_i e
            exact .next (fetchBeyond_keeps (barIssue_keeps (tilesUpd_keeps (lseqReset_keeps (partSet_keeps (txnOpen_keeps h1 e))))))

theorem execStepCommit_keeps {t : Nat} {more : Bool} (h : Keeps s₀ s) : KeepsOut s₀ (execStepCommit t more s) := by
  unfold execStepCommit
  split
  · exact .next h
  · split
    · exact .next h
    · split
      · exact .next (fetchBeyond_keeps (barIssue_keeps (partSet_keeps h)))
      · split
        · exact .next h
        · exact .next (partSet_keeps (txnSet_keeps h))

theorem execHalt_keeps {t : Nat} {more : Bool} (h : Keeps s₀ s) : KeepsOut s₀ (execHalt t more s) := by
  unfold execHalt
  split
  · exact .next h
  · exact .next (partUpd_keeps (tilesUpd_keeps (barHeld_keeps (substOfPart_keeps (stepAbort_keeps h)))))

/-! ### Machine/RingOps -/

theorem ctxSet_keeps {c : Nat} {x : Ctx} (h : Keeps s₀ s) : Keeps s₀ (ctxSet s c x) := .upd h

theorem hportSet_keeps {k : Nat} {x : HPort} (h : Keeps s₀ s) : Keeps s₀ (hportSet s k x) := .upd h

theorem funcSet_keeps {f : Nat} {x : Func} (h : Keeps s₀ s) : Keeps s₀ (funcSet s f x) := .upd h

theorem sendMsi_keeps {f v : Nat} (h : Keeps s₀ s) : Keeps s₀ (sendMsi s f v) := .upd h

theorem winWrite_keeps {c off : Nat} {bs : List Byte} (h : Keeps s₀ s) :
    Keeps s₀ (winWrite s c off bs) := h.wrote (winWrite_mem s c off bs)

theorem ringPut_keeps {c : Nat} {r : Ring} {v : Nat} (h : Keeps s₀ s) : Keeps s₀ (ringPut s c r v).1 := by
  unfold ringPut
  dsimp only
  exact winWrite_keeps h

theorem ringDrain_keeps {n c claimed : Nat} {r : Ring} (h : Keeps s₀ s) : Keeps s₀ (ringDrain n s c claimed r).1 := by
  induction n generalizing s r with
  | zero => exact h
  | succ k ih =>
    rw [ringDrain]
    split
    · exact h
    · exact .iteFst h (ih (ringPut_keeps h))

theorem ringPost_keeps {c claimed : Nat} {r : Ring} {e : Event} (h : Keeps s₀ s) : Keeps s₀ (ringPost s c claimed r e).1 := by
  unfold ringPost
  dsimp only
  exact ringDrain_keeps h

theorem msiIf_keeps {r : Ring} {f : Nat} {wrote : Bool} (h : Keeps s₀ s) : Keeps s₀ (msiIf s r f wrote) := .ite (sendMsi_keeps h) h

theorem postAdmin_keeps {port : Nat} {e : Event} (h : Keeps s₀ s) : Keeps s₀ (postAdmin s port e) := by
  unfold postAdmin
  extract_lets
  split
  · exact h
  · exact msiIf_keeps (queueSet_keeps (ringPost_keeps h))

theorem postCtx_keeps {c : Nat} {e : Event} (h : Keeps s₀ s) : Keeps s₀ (postCtx s c e) := by
  unfold postCtx
  split
  · exact h
  · exact msiIf_keeps (ctxSet_keeps (ringPost_keeps h))

theorem postNamed_keeps {c : Nat} {e : Event} (h : Keeps s₀ s) : Keeps s₀ (postNamed s c e) := postCtx_keeps (postAdmin_keeps h)

theorem postDevice_keeps {e : Event} (h : Keeps s₀ s) : Keeps s₀ (postDevice s e) :=
  .ite (postAdmin_keeps (postAdmin_keeps h)) (postAdmin_keeps h)

theorem objSet_keeps {o : Nat} {x : Obj} (h : Keeps s₀ s) : Keeps s₀ (objSet s o x) := .upd h

theorem handleSet_keeps {c i : Nat} {hd : Handle} (h : Keeps s₀ s) : Keeps s₀ (handleSet s c i hd) := ctxSet_keeps h

theorem openHandle_keeps {c o : Nat} {signal : Bool} (h : Keeps s₀ s) {t : State} {out : Nat}
    (e : openHandle s c o signal = some (t, out)) : Keeps s₀ t := by
  unfold openHandle at e
  split at e
  · cases e
  · cases e
    exact handleSet_keeps h

theorem createObj_keeps {c : Nat} {x : Obj} (h : Keeps s₀ s) {t : State} {out : Nat × Nat} (e : createObj s c x = some (t, out)) :
    Keeps s₀ t := by
  unfold createObj at e
  split at e
  · cases e
  · split at e
    · cases e
    · split at e
      · cases e
      · rename_i eh
        cases e
        exact objSet_keeps (openHandle_keeps h eh)

theorem fenceUpd_keeps {o : Nat} {f : Obj → Obj} (h : Keeps s₀ s) : Keeps s₀ (fenceUpd s o f) := by
  unfold fenceUpd
  split
  · exact .ite (objSet_keeps h) h
  · exact h

theorem fenceOrphan_keeps {o : Nat} (h : Keeps s₀ s) : Keeps s₀ (fenceOrphan s o) := .ite (fenceUpd_keeps h) h

theorem handleDrop_keeps {c i n : Nat} (h : Keeps s₀ s) : Keeps s₀ (handleDrop s c i n) := by
  unfold handleDrop
  split
  · exact h
  · split
    · exact h
    · extract_lets _ _ s1 s2
      have h1 : Keeps s₀ s1 := handleSet_keeps h
      have h2 : Keeps s₀ s2 := by
        dsimp only [s2]
        split
        · exact objSet_keeps h1
        · exact h1
      exact .ite (fenceOrphan_keeps h2) h2

theorem closeHandles_keeps {c : Nat} (h : Keeps s₀ s) : Keeps s₀ (closeHandles s c) := .foldl handleDrop_keeps h

/-! ### Machine/Memory -/

theorem pcSet_keeps {k : Nat} {x : PcSt} (h : Keeps s₀ s) : Keeps s₀ (pcSet s k x) := .upd h

theorem mcSet_keeps {m : Nat} {x : Mc} (h : Keeps s₀ s) : Keeps s₀ (mcSet s m x) := .upd h

theorem frameSet_keeps {fk : Nat} {x : Frame} (h : Keeps s₀ s) : Keeps s₀ (frameSet s fk x) := .upd h

theorem frameFree_keeps {fk : Nat} (h : Keeps s₀ s) : Keeps s₀ (frameFree s fk) := .upd h

theorem tablesFor_keeps {keys : List Nat} (h : Keeps s₀ s) {t : State} (e : tablesFor s keys = some t) : Keeps s₀ t := by
  induction keys generalizing s with
  | nil =>
    cases e
    exact h
  | cons k keys ih =>
    rw [tablesFor] at e
    split at e
    · exact ih h e
    · split at e
      · cases e
      · exact ih h.upd e

theorem tablesTrim_keeps {ctx dva : Nat} (h : Keeps s₀ s) : Keeps s₀ (tablesTrim s ctx dva) := .foldl (fun k => .ite k (.upd k)) h

theorem slotSet_keeps {k : Nat} {x : Slot} (h : Keeps s₀ s) : Keeps s₀ (slotSet s k x) := .upd h

theorem secAlarm_keeps {lk kslot : Nat} {ctx : Option Nat} {corrected pt md quiet : Bool} (h : Keeps s₀ s) :
    Keeps s₀ (secAlarm s lk kslot ctx corrected pt md quiet) := by
  unfold secAlarm
  extract_lets fk ln m m1 pend m2 s1 pl e
  have hm : m1.bytes = s.mm.bytes := by
    dsimp only [m1]
    split <;> rfl
  have h1 : Keeps s₀ s1 := unitEvt_keeps (.upd h (hm := hm))
  refine .ite h1 ?_
  split
  · exact postCtx_keeps (postAdmin_keeps h1)
  · exact postAdmin_keeps h1

theorem lineUncorr_keeps {lk : Nat} (h : Keeps s₀ s) : Keeps s₀ (lineUncorr s lk) :=
  .ite (errLog_keeps h) (unitEvt_keeps (errLog_keeps (mcSet_keeps h)))

theorem postReserveLow_keeps {tier cause : Nat} (h : Keeps s₀ s) : Keeps s₀ (postReserveLow s tier cause) := postDevice_keeps h

theorem checkReserve_keeps {old : State} {tier : Nat} (h : Keeps s₀ s) : Keeps s₀ (checkReserve old s tier) :=
  .ite (postReserveLow_keeps h) h

theorem postPc_keeps {k st : Nat} (h : Keeps s₀ s) : Keeps s₀ (postPc s k st) := unitEvt_keeps (postDevice_keeps h)

theorem mcRetired_keeps {m : Nat} (h : Keeps s₀ s) : Keeps s₀ (mcRetired s m) := .ite (setUState_keeps h) h

theorem frameLost_keeps {fk : Nat} {f : Frame} (h : Keeps s₀ s) : Keeps s₀ (frameLost s fk f) := by
  unfold frameLost
  split
  · exact finishJob_keeps (frameFree_keeps h)
  · split
    · exact frameFree_keeps h
    · extract_lets _ s1
      have h1 : Keeps s₀ s1 := frameSet_keeps (.upd h)
      exact .ite (postNamed_keeps h1) (postDevice_keeps h1)

theorem pcRetire_keeps {k : Nat} (h : Keeps s₀ s) : Keeps s₀ (pcRetire s k) :=
  mcRetired_keeps (.foldl (fun k => .ite (frameFree_keeps k) (.ite k (frameLost_keeps k))) (postPc_keeps (pcSet_keeps h)))

theorem migNext_keeps {k : Nat} (h : Keeps s₀ s) : Keeps s₀ (migNext s k) := by
  unfold migNext
  extract_lets
  split
  · exact h
  · split
    · exact pcRetire_keeps h
    · split
      · exact h
      · split
        · exact postReserveLow_keeps h
        · split
          · exact postReserveLow_keeps h
          · exact pcSet_keeps h

theorem migResume_keeps (h : Keeps s₀ s) : Keeps s₀ (migResume s) := .foldl (fun k => .ite (migNext_keeps k) k) h

theorem pcEvacuate_keeps {k : Nat} (h : Keeps s₀ s) : Keeps s₀ (pcEvacuate s k) := by
  unfold pcEvacuate
  split
  · exact h
  · exact migNext_keeps (checkReserve_keeps
        (checkReserve_keeps (.foldl (fun k => .ite (frameFree_keeps k) k) (postPc_keeps (pcSet_keeps h)))))

theorem pcDegrade_keeps {k : Nat} (h : Keeps s₀ s) : Keeps s₀ (pcDegrade s k) := .ite (postPc_keeps (pcSet_keeps h)) h

theorem laneCount_keeps {k lane syms : Nat} (h : Keeps s₀ s) : Keeps s₀ (laneCount s k lane syms) := by
  unfold laneCount
  extract_lets _ _ _ _ _ _ _ s1 s2
  have h1 : Keeps s₀ s1 := pcSet_keeps h
  have h2 : Keeps s₀ s2 := unitEvt_keeps (mcSet_keeps h1)
  exact .ite h1 (.ite (pcEvacuate_keeps h2) (.ite (pcDegrade_keeps h2) h2))

theorem remapStart_keeps {k row : Nat} (h : Keeps s₀ s) : Keeps s₀ (remapStart s k row) :=
  .ite h (.ite (pcDegrade_keeps h) (pcSet_keeps h))

theorem reqNote_keeps {src : Option Nat} {fk : Nat} {e : LineEv} (h : Keeps s₀ s) : Keeps s₀ (reqNote s src fk e) := by
  unfold reqNote
  split
  · exact h
  · split
    · exact h
    · extract_lets _ _ _ _ s1
      have h1 : Keeps s₀ s1 := .ite h (.upd h)
      split
      · exact h1
      · split
        · exact errLog_keeps h1
        · exact h1

theorem lineSet_keeps {lk : Nat} {x : LineSt} (h : Keeps s₀ s) : Keeps s₀ (lineSet s lk x) := .upd h

theorem lineRepair_keeps {lk : Nat} {e : LineEv} (h : Keeps s₀ s) : Keeps s₀ (lineRepair s lk e) := by
  unfold lineRepair
  extract_lets _ _ _ s1 s2
  have h1 : Keeps s₀ s1 := mcSet_keeps h
  have h2 : Keeps s₀ s2 := by
    dsimp only [s2]
    split
    · exact laneCount_keeps h1
    · exact h1
  exact .ite h (.ite (remapStart_keeps h2) h2)

theorem farFail_keeps {blk cause : Nat} (h : Keeps s₀ s) : Keeps s₀ (farFail s blk cause) := by
  unfold farFail
  split
  · exact h
  · exact .ite h (.foldl postCtx_keeps (postAdmin_keeps (unitEvt_keeps (.upd h))))

theorem lineFetch_keeps {lk : Nat} {b : Bind} {ctx : Option Nat} {pt : Bool} {e : LineEv} (h : Keeps s₀ s) :
    Keeps s₀ (lineFetch s lk b ctx pt e).1 := by
  unfold lineFetch
  extract_lets fk x s1 corrected
  have h1 : Keeps s₀ s1 := lineUncorr_keeps (lineSet_keeps h)
  refine .iteFst (.pair h) (.iteFst (.pair (farFail_keeps (secAlarm_keeps h)))
      (.iteFst (.pair (farFail_keeps h)) (.iteFst ?_ (.iteFst ?_ ?_))))
  · exact .pair (.ite (pcRetire_keeps h1) h1)
  · exact .pair (secAlarm_keeps (.ite (lineSet_keeps h) h))
  · exact .pair (.ite (lineRepair_keeps h) h)

theorem farDirty_keeps {fk lk : Nat} (h : Keeps s₀ s) : Keeps s₀ (farDirty s fk lk) := by
  unfold farDirty
  extract_lets
  split
  · exact h
  · exact .ite h (.upd h)

theorem keyExhaust_keeps {b : Bind} (h : Keeps s₀ s) : Keeps s₀ (keyExhaust s b) :=
  unitEvt_keeps (postNamed_keeps (slotSet_keeps h))

theorem pageReencrypt_keeps {lk : Nat} (h : Keeps s₀ s) : Keeps s₀ (pageReencrypt s lk) :=
  .foldl (fun k => .ite (lineSet_keeps k) k) (.upd h)

theorem farBump_keeps {lk : Nat} {b : Bind} (h : Keeps s₀ s) : Keeps s₀ (farBump s lk b).1 := by
  unfold farBump
  dsimp only
  split
  · exact .pair (farDirty_keeps (.upd h))
  · exact .iteFst (.pair (keyExhaust_keeps (.upd h))) (.pair (farDirty_keeps (pageReencrypt_keeps h)))

theorem cacheDrop_keeps {lk : Nat} (h : Keeps s₀ s) : Keeps s₀ (cacheDrop s lk) := .upd h

theorem wayLines_keeps {mine : Nat → Bool} {restart : Nat → CCache → CCache} (h : Keeps s₀ s) : Keeps s₀ (wayLines s mine restart) :=
  .upd h

theorem lineWritten_keeps {lk : Nat} {b : Bind} (h : Keeps s₀ s) : Keeps s₀ (lineWritten s lk b) := lineSet_keeps h

theorem lineReady_keeps {lk : Nat} {b : Bind} {bs : List (Nat × Byte)} {e : LineEv} {rmw : Bool} (h : Keeps s₀ s) :
    Keeps s₀ (lineReady s lk b bs e rmw).1 :=
    .iteFst (.pair h) (lineFetch_keeps h)

theorem lineCounted_keeps {lk : Nat} {b : Bind} (h : Keeps s₀ s) : Keeps s₀ (lineCounted s lk b).1 :=
  .iteFst (farBump_keeps h) (.pair h)

theorem lineBytes_keeps {lk : Nat} {bs : List (Nat × Byte)} (h : Keeps s₀ s) :
    Keeps s₀ (lineBytes s lk bs) := h.wrote (lineBytes_mem s lk bs)

theorem lineWrite_keeps {lk : Nat} {b : Bind} {bs : List (Nat × Byte)} {e : LineEv} {rmw : Bool} (h : Keeps s₀ s) :
    Keeps s₀ (lineWrite s lk b bs e rmw).1 := by
  unfold lineWrite
  split
  · exact .pair h
  · split
    · exact .pair (.upd h)
    · dsimp only
      split
      · exact lineReady_keeps h
      · split
        · exact lineCounted_keeps (lineReady_keeps h)
        · exact .pair (lineWritten_keeps (cacheDrop_keeps (lineBytes_keeps (lineCounted_keeps (lineReady_keeps h)))))

theorem ctxReadLine_keeps {src : Option Nat} {ctx a n : Nat} {ev : List LineEv} (h : Keeps s₀ s) :
    Keeps s₀ (ctxReadLine s src ctx a n ev).1 := by
  unfold ctxReadLine
  split
  · exact .pair h
  · dsimp only
    split
    · exact .pair (reqNote_keeps h)
    · exact .iteFst (.pair (lineFetch_keeps (reqNote_keeps h))) (.pair (lineFetch_keeps (reqNote_keeps h)))

theorem ctxRead_keeps {src : Option Nat} {ctx a n : Nat} {ev : List LineEv} (h : Keeps s₀ s) :
    Keeps s₀ (ctxRead s src ctx a n ev).s := by
  unfold ctxRead
  refine .foldlOf MemRes.s (fun k => ?_) h
  dsimp only
  exact ctxReadLine_keeps k

theorem ctxWriteLine_keeps {src : Option Nat} {ctx : Nat} {bs : List (Nat × Byte)} {ev : List LineEv} {rmw : Bool} (h : Keeps s₀ s) :
    Keeps s₀ (ctxWriteLine s src ctx bs ev rmw).1 := by
  unfold ctxWriteLine
  split
  · exact .pair h
  · split
    · exact .pair h
    · dsimp only
      split
      · exact .pair (.ite (lineWrite_keeps (reqNote_keeps h)) (reqNote_keeps h))
      · exact lineWrite_keeps (reqNote_keeps h)

theorem ctxWrite_keeps {src : Option Nat} {ctx : Nat} {bs : List (Nat × Byte)} {ev : List LineEv} {rmw : Bool} (h : Keeps s₀ s) :
    Keeps s₀ (ctxWrite s src ctx bs ev rmw).s := by
  unfold ctxWrite
  refine .foldlOf MemRes.s (fun k => ?_) h
  dsimp only
  exact ctxWriteLine_keeps k

theorem ctxWriteAt_keeps {src : Option Nat} {ctx a : Nat} {bs : List Byte} {ev : List LineEv} (h : Keeps s₀ s) :
    Keeps s₀ (ctxWriteAt s src ctx a bs ev).s :=
    ctxWrite_keeps h

theorem frameInit_keeps {fk : Nat} {b : Bind} (h : Keeps s₀ s) : Keeps s₀ (frameInit s fk b) := by
  unfold frameInit
  extract_lets s0 _ s1 _ s2
  have h2 : Keeps s₀ s2 := h.wrote ⟨Memory_wf_clearBytes _ _ _, id⟩
  exact .ite (.foldl (fun k => farBump_keeps k) h2) h2

theorem mapPage_keeps {ctx dva p : Nat} {replace : Bool} (h : Keeps s₀ s) : Keeps s₀ (mapPage s ctx dva p replace).1 := by
  unfold mapPage
  split
  · exact .pair h
  · split
    · exact .pair h
    · rename_i e
      have h1 := tablesFor_keeps h e
      exact .pair (.upd (.ite (frameInit_keeps (frameSet_keeps h1)) h1))

theorem unmapPage_keeps {ctx dva : Nat} (h : Keeps s₀ s) : Keeps s₀ (unmapPage s ctx dva) := tablesTrim_keeps (.upd h)

theorem frameDrain_keeps {fk : Nat} {rel : Option CmdRef} (h : Keeps s₀ s) : Keeps s₀ (frameDrain s fk rel) := frameSet_keeps h

theorem releaseUnmapped_keeps {fk : Nat} (h : Keeps s₀ s) : Keeps s₀ (releaseUnmapped s fk) :=
  .ite h (.ite (frameDrain_keeps h) (.ite (frameFree_keeps h) h))

/-! ### Machine/MemCmds -/

theorem mdRebuild_keeps {blk : Nat} {b : FarBlock} (h : Keeps s₀ s) : Keeps s₀ (mdRebuild s blk b) := .upd h

theorem execMetadataEvict_keeps {blk level idx : Nat} (h : Keeps s₀ s) : KeepsOut s₀ (execMetadataEvict blk level idx s) := by
  unfold execMetadataEvict
  split
  · exact .next h
  · exact .ite (.next h) (.ite (.next (mdRebuild_keeps h)) (.next (.upd h)))

theorem farInit_keeps {blk : Nat} {base : W64} (h : Keeps s₀ s) : Keeps s₀ (farInit s blk base) := h.wrote (farInit_mem s blk base)

theorem execFarBlockReinit_keeps {blk : Nat} (h : Keeps s₀ s) : KeepsOut s₀ (execFarBlockReinit blk s) := by
  unfold execFarBlockReinit
  split
  · exact .next h
  · exact .ite (.next h) (.next (farInit_keeps h))

theorem scrubLine_keeps {lk : Nat} {e : LineEv} (h : Keeps s₀ s) : Keeps s₀ (scrubLine s lk e) := by
  unfold scrubLine
  split
  · extract_lets _ s1
    have h1 : Keeps s₀ s1 := lineUncorr_keeps (lineSet_keeps h)
    exact .ite (pcRetire_keeps h1) h1
  · exact .ite (lineRepair_keeps h) h

theorem scrubNext_keeps {m next : Nat} (h : Keeps s₀ s) : Keeps s₀ (scrubNext s m next) := .ite (mcSet_keeps h) (mcSet_keeps h)

theorem execPatrolScrub_keeps {m : Nat} {ev : LineEv} (h : Keeps s₀ s) : KeepsOut s₀ (execPatrolScrub m ev s) := by
  unfold execPatrolScrub
  split
  · exact .next h
  · extract_lets
    split
    · exact .next h
    · exact .ite (.next (scrubNext_keeps h)) (.ite (.next h) (.next (scrubNext_keeps (scrubLine_keeps h))))

theorem execRowRemapDone_keeps {m pc row : Nat} (h : Keeps s₀ s) : KeepsOut s₀ (execRowRemapDone m pc row s) := by
  unfold execRowRemapDone
  extract_lets _ _ _ _ s2
  have h2 : Keeps s₀ s2 := unitEvt_keeps (mcSet_keeps (pcSet_keeps h))
  exact .ite (.next h) (.next (.ite (pcDegrade_keeps h2) h2))

theorem execMcRemapCmd_keeps {u : UnitId} {w : Writer} {pc row : Nat} (h : Keeps s₀ s) :
    KeepsOut s₀ (execMcRemapCmd u w pc row s) := by
  unfold execMcRemapCmd
  split
  · exact .next h
  · exact .ite (.next h) (.next (remapStart_keeps h))

theorem execMcEvac_keeps {u : UnitId} {w : Writer} {pc scope : Nat} (h : Keeps s₀ s) : KeepsOut s₀ (execMcEvac u w pc scope s) := by
  unfold execMcEvac
  split
  · exact .next h
  · exact .ite (.next h) (.next (.foldl pcEvacuate_keeps h))

theorem migLine_keeps {ev : List LineEv} {src dst : Nat} {a : State × Nat × Nat} {i : Nat} (h : Keeps s₀ a.1) :
    Keeps s₀ (migLine ev src dst a i).1 := by
  unfold migLine
  dsimp only
  split
  · exact .pair (lineSet_keeps (lineUncorr_keeps h))
  · exact .iteFst (.pair (lineSet_keeps h)) (.pair (lineSet_keeps h))

theorem relMoved_keeps {f : Frame} {src dst : Nat} (h : Keeps s₀ s) : Keeps s₀ (relMoved s f src dst) := by
  unfold relMoved
  split
  · exact h
  · split
    · exact h
    · exact queueSet_keeps h

theorem migMove_keeps {src dst : Nat} (h : Keeps s₀ s) : Keeps s₀ (migMove s src dst) := by
  unfold migMove
  extract_lets s0 f bs b0 b1 _ s1 s2
  have h1 : Keeps s₀ s1 :=
    h.wrote ⟨fun w => Memory_wf_clearBytes _ _ _ (Memory_wf_byteSets _ (fun k => k - byteKey src 0 + byteKey dst 0) _
      (Memory_wf_clearBytes _ _ _ w)), id⟩
  have h2 : Keeps s₀ s2 := relMoved_keeps h1
  exact .ite (.upd h2) (.upd h2)

theorem execMigrationCopyDone_keeps {m pc : Nat} {ev : List LineEv} (h : Keeps s₀ s) :
    KeepsOut s₀ (execMigrationCopyDone m pc ev s) := by
  unfold execMigrationCopyDone
  dsimp only
  split
  · exact .next h
  · rename_i g _
    have hr : Keeps s₀ ((List.range 1024).foldl (migLine ev g.src g.dst) (s, 0, 0)).1 :=
      .foldlOf Prod.fst migLine_keeps (.pair h)
    have h2 := fun x => pcSet_keeps (k := m * 128 + pc) (x := x) (migMove_keeps (src := g.src) (dst := g.dst) hr)
    exact .ite (.next h) (.next (checkReserve_keeps (migNext_keeps
      (.ite (postNamed_keeps (h2 _)) (postDevice_keeps (h2 _))))))

theorem retrainPc_keeps {m fix pc : Nat} (h : Keeps s₀ s) : Keeps s₀ (retrainPc m fix s pc) :=
  .ite (pcSet_keeps h) (pcDegrade_keeps (pcSet_keeps h))

theorem execOnlineRetraining_keeps {m ch : Nat} {fix : Option Nat × Option Nat} (h : Keeps s₀ s) :
    KeepsOut s₀ (execOnlineRetraining m ch fix s) := by
  unfold execOnlineRetraining
  refine .ite (.next h) ?_
  extract_lets one
  have hone : ∀ {s pc f}, Keeps s₀ s → Keeps s₀ (one s pc f) := by
    intro s pc f k
    dsimp only [one]
    split
    · exact retrainPc_keeps k
    · exact .ite k (pcRetire_keeps k)
  exact .next (hone (hone h))

theorem execFrameDrained_keeps {tier f : Nat} (h : Keeps s₀ s) : KeepsOut s₀ (execFrameDrained tier f s) :=
  .ite (.next h) (.next (frameSet_keeps h))

theorem frameScrub_keeps {fk : Nat} (h : Keeps s₀ s) : Keeps s₀ (frameScrub s fk) := h.wrote (frameScrub_mem s fk)

theorem execFrameScrubDone_keeps {tier f : Nat} (h : Keeps s₀ s) : KeepsOut s₀ (execFrameScrubDone tier f s) := by
  unfold execFrameScrubDone
  extract_lets _ _ s1
  have h1 : Keeps s₀ s1 := frameFree_keeps (.ite (frameScrub_keeps h) h)
  split
  · exact .next h
  · split
    · exact .next (finishJob_keeps h1)
    · exact .next h1

theorem execEncAlarmClear_keeps {w : Writer} (h : Keeps s₀ s) : KeepsOut s₀ (execEncAlarmClear w s) :=
  .ite (.next (.upd h)) (.next h)

/-! ### Machine/RingCore -/

theorem cmdUpd_keeps {r : CmdRef} {f : QCmd → QCmd} (h : Keeps s₀ s) : Keeps s₀ (cmdUpd s r f) := by
  unfold cmdUpd
  split
  · exact h
  · exact queueSet_keeps h

theorem setJob_keeps {r : CmdRef} {j : Job} (h : Keeps s₀ s) : Keeps s₀ (setJob s r j) := cmdUpd_keeps h

theorem finishDet_keeps {r : CmdRef} {status result detail : Nat} (h : Keeps s₀ s) : Keeps s₀ (finishDet s r status result detail) :=
  cmdUpd_keeps h

theorem queueFault_keeps {r : CmdRef} {cause : Nat} (h : Keeps s₀ s) : Keeps s₀ (queueFault s r cause) := by
  unfold queueFault
  split
  · exact h
  · exact postNamed_keeps (queueSet_keeps h)

theorem takeEntry_keeps {r : CmdRef} {q : Queue} {bs : List Byte} (h : Keeps s₀ s) : Keeps s₀ (takeEntry s r q bs) := by
  unfold takeEntry
  extract_lets
  split
  · exact queueSet_keeps h
  · split
    · exact queueSet_keeps h
    · split <;> exact queueSet_keeps h

theorem runReady_keeps {r : CmdRef} {ok : Nat → Bool} {exe : State → CmdRef → Nat → State} (h : Keeps s₀ s)
    (hexe : ∀ {s x1 x2}, Keeps s₀ s → Keeps s₀ (exe s x1 x2)) : Keeps s₀ (runReady s r ok exe) := by
  unfold runReady
  split
  · exact h
  · exact .ite (hexe h) h

theorem queueRead_keeps {r : CmdRef} {ok : Nat → Bool} (h : Keeps s₀ s) : Keeps s₀ (queueRead s r ok) := by
  unfold queueRead
  split
  · exact h
  · split
    · exact h
    · split
      · exact queueFault_keeps h
      · exact .ite (takeEntry_keeps h) h

theorem ringRow_keeps {ctx qid : Nat} {ok : Nat → Bool} {exe : State → CmdRef → Nat → State}
    (hexe : ∀ {s x1 x2}, Keeps s₀ s → Keeps s₀ (exe s x1 x2)) (h : Keeps s₀ s) : Keeps s₀ (ringRow ctx qid ok exe s) :=
    runReady_keeps (queueRead_keeps h) hexe

theorem ringCmd_keeps {ctx qid opc : Nat} {exe : State → CmdRef → Nat → State}
    (hexe : ∀ {s x1 x2}, Keeps s₀ s → Keeps s₀ (exe s x1 x2)) (h : Keeps s₀ s) : KeepsOut s₀ (ringCmd ctx qid opc exe s) :=
    .next (ringRow_keeps hexe h)

theorem needFw_keeps {exe : State → CmdRef → Nat → State} {r : CmdRef} {v : Nat}
    (hexe : ∀ {s x1 x2}, Keeps s₀ s → Keeps s₀ (exe s x1 x2)) (h : Keeps s₀ s) : Keeps s₀ (needFw exe s r v) :=
    .ite (hexe h) (.ite (finishCmd_keeps h) h)

theorem hostWrite_keeps {c a : Nat} {bs : List Byte} (h : Keeps s₀ s) : Keeps s₀ (hostWrite s c a bs) := .ite h (.upd h)

/-! ### Machine/CollOps -/

theorem laneSet_keeps {t : Nat} {x : LaneRun} (h : Keeps s₀ s) : Keeps s₀ (laneSet s t x) := .upd h

theorem laneDel_keeps {t : Nat} (h : Keeps s₀ s) : Keeps s₀ (laneDel s t) := .upd h

theorem engUpd_keeps {c : Nat} {f : CollEng → CollEng} (h : Keeps s₀ s) : Keeps s₀ (engUpd s c f) := .upd h

theorem launchEnded_keeps {t : Nat} (h : Keeps s₀ s) : Keeps s₀ (launchEnded s t) := partUpd_keeps h

theorem payTokens_keeps {t rq data : Nat} (h : Keeps s₀ s) : Keeps s₀ (payTokens s t rq data) := tokenAdd_keeps (tokenAdd_keeps h)

theorem failTile_keeps {t status lseq : Nat} (h : Keeps s₀ s) : Keeps s₀ (failTile s t status lseq) :=
  launchEnded_keeps (tileErr_keeps h)

theorem noteFail_keeps {gix status src : Nat} (h : Keeps s₀ s) : Keeps s₀ (noteFail s gix status src) := groupUpd_keeps h

theorem failLane_keeps {t status src : Nat} (h : Keeps s₀ s) : Keeps s₀ (failLane s t status src) := by
  unfold failLane
  split
  · exact h
  · extract_lets s1
    have h1 : Keeps s₀ s1 := by
      dsimp only [s1]
      split
      · exact payTokens_keeps h
      · exact h
    exact failTile_keeps (noteFail_keeps (laneDel_keeps h1))

theorem sendFail_keeps {gix status rank step lseq : Nat} {whole : Bool} (h : Keeps s₀ s) :
    Keeps s₀ (sendFail s gix status rank step lseq whole) := by
  unfold sendFail
  split
  · exact h
  · exact .foldl sendFrames_keeps h

theorem failLaunch_keeps {gix step lseq status src : Nat} (h : Keeps s₀ s) : Keeps s₀ (failLaunch s gix step lseq status src) :=
  groupUpd_keeps (.foldl failLane_keeps h)

theorem abortLaunch_keeps {t status src : Nat} (h : Keeps s₀ s) : Keeps s₀ (abortLaunch s t status src) := by
  unfold abortLaunch
  split
  · exact h
  · exact sendFail_keeps (failLaunch_keeps h)

theorem voteAborted_keeps {t0 : Nat} (h : Keeps s₀ s) : Keeps s₀ (voteAborted s t0) := by
  unfold voteAborted
  split
  · exact h
  · exact .ite (txnAbortGate_keeps h) h

theorem commitPart_keeps {t0 step round : Nat} (h : Keeps s₀ s) : Keeps s₀ (commitPart s t0 step round) := by
  unfold commitPart
  split
  · exact h
  · extract_lets
    split
    · exact partSet_keeps h
    · split
      · exact stepCommitted_keeps (partSet_keeps h)
      · exact partSet_keeps h

theorem abortPart_keeps {t0 : Nat} (h : Keeps s₀ s) : Keeps s₀ (abortPart s t0) := partUpd_keeps (voteAborted_keeps h)

theorem settleVote_keeps {m : LocalMem} {grpStep : Nat} (h : Keeps s₀ s) : Keeps s₀ (settleVote s m grpStep) := by
  unfold settleVote
  split
  · exact .ite h (.ite (commitPart_keeps h) (abortPart_keeps h))
  · exact h

theorem memberFailed_keeps {g : Group} {lost : Nat} {m : LocalMem} (h : Keeps s₀ s) : Keeps s₀ (memberFailed g lost s m) :=
  .ite (partUpd_keeps (settleVote_keeps h)) h

theorem closeRemote_keeps {g : Group} (h : Keeps s₀ s) : Keeps s₀ (closeRemote g s) := by
  unfold closeRemote
  split
  · exact h
  · exact .foldl (fun k => .ite k (sendFrames_keeps k)) h

theorem joinDone_keeps {status : Nat} {m : LocalMem} (h : Keeps s₀ s) : Keeps s₀ (joinDone status s m) := by
  unfold joinDone
  split
  · exact h
  · exact finishCmd_keeps h

theorem groupFail_keeps {gix status lost : Nat} {tell : Bool} (h : Keeps s₀ s) : Keeps s₀ (groupFail s gix status lost tell) := by
  unfold groupFail
  split
  · exact h
  · split
    · exact h
    · extract_lets _ _ s0 _ _ _ _ _ s5
      have h0 : Keeps s₀ s0 := by
        dsimp only [s0]
        split
        · exact h
        · exact .upd (txnAbort_keeps h)
      have h5 : Keeps s₀ s5 := closeRemote_keeps
          (.foldl memberFailed_keeps (.foldl joinDone_keeps (groupUpd_keeps (.foldl failLane_keeps (groupSet_keeps h0)))))
      exact .ite (sendFail_keeps h5) h5

theorem groupFree_keeps {gix : Nat} (h : Keeps s₀ s) : Keeps s₀ (groupFree s gix) := by
  unfold groupFree
  split
  · exact h
  · exact .upd h

theorem memberLeave_keeps {gix t0 : Nat} (h : Keeps s₀ s) : Keeps s₀ (memberLeave s gix t0) := by
  unfold memberLeave
  split
  · exact h
  · split
    · exact h
    · extract_lets _ s2
      have h2 : Keeps s₀ s2 := groupUpd_keeps (groupFail_keeps h)
      split
      · exact .ite (groupFree_keeps h2) h2
      · exact h2

theorem leaveAll_keeps {t0 : Nat} (h : Keeps s₀ s) : Keeps s₀ (leaveAll s t0) := .foldl memberLeave_keeps h

theorem failQueued_keeps {p : Part} {l : Launch} (h : Keeps s₀ s) : Keeps s₀ (failQueued p s l) := by
  unfold failQueued
  split
  · exact failTile_keeps h
  · extract_lets _ _ _ s1 _ s2
    have h1 : Keeps s₀ s1 := .upd h
    have h2 : Keeps s₀ s2 := by
      dsimp only [s2]
      split
      · exact .ite (payTokens_keeps h1) h1
      · exact h1
    exact sendFail_keeps (failTile_keeps (noteFail_keeps (failLaunch_keeps h2)))

theorem failStopped_keeps {p : Part} (h : Keeps s₀ s) : Keeps s₀ (failStopped s p) :=
  .foldl (fun k => .ite k (.foldl failQueued_keeps (.upd k))) (.foldl abortLaunch_keeps h)

theorem execColl_keeps {t group sched sreg : Nat} {more : Bool} (h : Keeps s₀ s) : KeepsOut s₀ (execColl t group sched sreg more s) :=
  .next (waitSlot_keeps h (fun k => partUpd_keeps (.upd (noteLatch_keeps (noteS_keeps k)))))

/-! ### Machine/Cache -/

theorem cacheSet_keeps {c : Nat} {x : CCache} (h : Keeps s₀ s) : Keeps s₀ (cacheSet s c x) := .upd h

theorem fetchLine_keeps {t engine cpol : Nat} {ev : List LineEv} {a : Nat} (h : Keeps s₀ s) :
    Keeps s₀ (fetchLine s t engine cpol ev a).1 := by
  unfold fetchLine
  dsimp only
  split
  · split
    · exact .pair (.foldl tileSramUe_keeps (cacheSet_keeps h))
    · split
      · exact .pair (cacheSet_keeps (ctxReadLine_keeps h))
      · exact .pair (tileErr_keeps (cacheSet_keeps (ctxReadLine_keeps h)))
  · exact .pair (tileErr_keeps (ctxReadLine_keeps h))

theorem fillAhead_keeps {t cpol : Nat} {ev : List LineEv} {a : Nat} (h : Keeps s₀ s) : Keeps s₀ (fillAhead s t cpol ev a) := by
  unfold fillAhead
  extract_lets
  split
  · exact .ite h (.ite (cacheSet_keeps (ctxReadLine_keeps h)) h)
  · exact h

theorem fetchAhead_keeps {own : State → Nat → State × List Byte} {t cpol reach : Nat} {ev : List LineEv} {l : List (Nat × Nat)}
    {n : Nat} {p : State × Fetched}
    (hown : ∀ {s a}, Keeps s₀ s → Keeps s₀ (own s a).1) (h : Keeps s₀ p.1) : Keeps s₀ (fetchAhead own t cpol reach ev l n p).1 := by
  induction l generalizing n p with
  | nil => exact h
  | cons a rest ih => exact ih (.foldl (fun k => .ite k (fillAhead_keeps k)) (hown h))

/-! ### Machine/ArrayCmds -/

theorem issueLocal_keeps {t : Nat} {p : PathId} {c : PathCmd} {named : List (Nat × Bool)} {engine status : Nat} {own : Option Nat}
    {ovr : Nat} (h : Keeps s₀ s) : Keeps s₀ (issueLocal s t p c named engine status own ovr) := by
  unfold issueLocal
  split
  · exact descFault_keeps h
  · exact descFault_keeps h
  · exact tileErr_keeps h
  · exact .ite (tileErr_keeps h) (takeLocal_keeps h)

theorem issueArray_keeps {t : Nat} {p : PathId} {named : List (Nat × Bool)} {xs : List Nat} {sr ovr : Nat} {ok : Latched → Bool}
    {op : PathOp} (h : Keeps s₀ s) : Keeps s₀ (issueArray s t p named xs sr ovr ok op) :=
    issueLocal_keeps (noteLatch_keeps h)

theorem execWload_keeps {t : Nat} {f : WloadOp} {more : Bool} (h : Keeps s₀ s) : KeepsOut s₀ (execWload t f more s) :=
  .next (slotDo_keeps h issueArray_keeps)

theorem execStream_keeps {t : Nat} {f : StreamOp} {more : Bool} (h : Keeps s₀ s) : KeepsOut s₀ (execStream t f more s) :=
  .next (slotDo_keeps h issueArray_keeps)

theorem execDrain_keeps {t : Nat} {f : DrainOp} {more : Bool} (h : Keeps s₀ s) : KeepsOut s₀ (execDrain t f more s) :=
  .next (slotDo_keeps h (fun k => issueArray_keeps (.ite (noteS_keeps k) k)))

theorem vxIssue_keeps {t opc : Nat} {f : VxOp} {more : Bool} (h : Keeps s₀ s) : KeepsOut s₀ (vxIssue t opc f more s) :=
  .next (slotDo_keeps h (fun k => issueLocal_keeps (noteLatch_keeps (.ite (noteS_keeps k) k))))

theorem execBatchAppend_keeps {t q : Nat} (h : Keeps s₀ s) : KeepsOut s₀ (execBatchAppend t q s) := by
  unfold execBatchAppend
  extract_lets
  split
  · exact .next h
  · split
    · exact .next h
    · exact .next (.foldl tileSramUe_keeps (tileSet_keeps h))

theorem execBatchRelease_keeps {t : Nat} (h : Keeps s₀ s) : KeepsOut s₀ (execBatchRelease t s) :=
  .ite (.next h) (.next (tileSet_keeps h))

theorem execBatchDeadline_keeps {t : Nat} (h : Keeps s₀ s) : KeepsOut s₀ (execBatchDeadline t s) :=
  .ite (.next h) (.next (tileSet_keeps h))

theorem execBatchRetire_keeps {t : Nat} (h : Keeps s₀ s) : KeepsOut s₀ (execBatchRetire t s) :=
  .ite (.next h) (.next (tileSet_keeps h))

/-! ### Machine/VectorCmds -/

theorem execVcopy_keeps {t : Nat} {f : VxOp} {more : Bool} (h : Keeps s₀ s) : KeepsOut s₀ (execVcopy t f more s) := vxIssue_keeps h

theorem execFills_keeps {t : Nat} {f : VxOp} {more : Bool} (h : Keeps s₀ s) : KeepsOut s₀ (execFills t f more s) := vxIssue_keeps h

theorem execIadd_keeps {t : Nat} {f : VxOp} {more : Bool} (h : Keeps s₀ s) : KeepsOut s₀ (execIadd t f more s) := vxIssue_keeps h

theorem execIand_keeps {t : Nat} {f : VxOp} {more : Bool} (h : Keeps s₀ s) : KeepsOut s₀ (execIand t f more s) := vxIssue_keeps h

theorem execIor_keeps {t : Nat} {f : VxOp} {more : Bool} (h : Keeps s₀ s) : KeepsOut s₀ (execIor t f more s) := vxIssue_keeps h

theorem execIxor_keeps {t : Nat} {f : VxOp} {more : Bool} (h : Keeps s₀ s) : KeepsOut s₀ (execIxor t f more s) := vxIssue_keeps h

theorem execCmplt_keeps {t : Nat} {f : VxOp} {more : Bool} (h : Keeps s₀ s) : KeepsOut s₀ (execCmplt t f more s) := vxIssue_keeps h

theorem execCmpeq_keeps {t : Nat} {f : VxOp} {more : Bool} (h : Keeps s₀ s) : KeepsOut s₀ (execCmpeq t f more s) := vxIssue_keeps h

theorem execSelect_keeps {t : Nat} {f : VxOp} {more : Bool} (h : Keeps s₀ s) : KeepsOut s₀ (execSelect t f more s) :=
  vxIssue_keeps h

theorem execVadd_keeps {t : Nat} {f : VxOp} {more : Bool} (h : Keeps s₀ s) : KeepsOut s₀ (execVadd t f more s) := vxIssue_keeps h

theorem execVsub_keeps {t : Nat} {f : VxOp} {more : Bool} (h : Keeps s₀ s) : KeepsOut s₀ (execVsub t f more s) := vxIssue_keeps h

theorem execVmul_keeps {t : Nat} {f : VxOp} {more : Bool} (h : Keeps s₀ s) : KeepsOut s₀ (execVmul t f more s) := vxIssue_keeps h

theorem execFma_keeps {t : Nat} {f : VxOp} {more : Bool} (h : Keeps s₀ s) : KeepsOut s₀ (execFma t f more s) := vxIssue_keeps h

theorem execAxpby_keeps {t : Nat} {f : VxOp} {more : Bool} (h : Keeps s₀ s) : KeepsOut s₀ (execAxpby t f more s) := vxIssue_keeps h

theorem execAxpby2_keeps {t : Nat} {f : VxOp} {more : Bool} (h : Keeps s₀ s) : KeepsOut s₀ (execAxpby2 t f more s) :=
  vxIssue_keeps h

theorem execVmin_keeps {t : Nat} {f : VxOp} {more : Bool} (h : Keeps s₀ s) : KeepsOut s₀ (execVmin t f more s) := vxIssue_keeps h

theorem execVmax_keeps {t : Nat} {f : VxOp} {more : Bool} (h : Keeps s₀ s) : KeepsOut s₀ (execVmax t f more s) := vxIssue_keeps h

theorem execScale_keeps {t : Nat} {f : VxOp} {more : Bool} (h : Keeps s₀ s) : KeepsOut s₀ (execScale t f more s) := vxIssue_keeps h

theorem execAdd64_keeps {t : Nat} {f : VxOp} {more : Bool} (h : Keeps s₀ s) : KeepsOut s₀ (execAdd64 t f more s) := vxIssue_keeps h

theorem execCvt_keeps {t : Nat} {f : VxOp} {more : Bool} (h : Keeps s₀ s) : KeepsOut s₀ (execCvt t f more s) := vxIssue_keeps h

theorem execUpdw_keeps {t : Nat} {f : VxOp} {more : Bool} (h : Keeps s₀ s) : KeepsOut s₀ (execUpdw t f more s) := vxIssue_keeps h

theorem execDiv_keeps {t : Nat} {f : VxOp} {more : Bool} (h : Keeps s₀ s) : KeepsOut s₀ (execDiv t f more s) := vxIssue_keeps h

theorem execSqrt_keeps {t : Nat} {f : VxOp} {more : Bool} (h : Keeps s₀ s) : KeepsOut s₀ (execSqrt t f more s) := vxIssue_keeps h

theorem execRsqrt_keeps {t : Nat} {f : VxOp} {more : Bool} (h : Keeps s₀ s) : KeepsOut s₀ (execRsqrt t f more s) := vxIssue_keeps h

theorem execVexp_keeps {t : Nat} {f : VxOp} {more : Bool} (h : Keeps s₀ s) : KeepsOut s₀ (execVexp t f more s) := vxIssue_keeps h

theorem execVlog_keeps {t : Nat} {f : VxOp} {more : Bool} (h : Keeps s₀ s) : KeepsOut s₀ (execVlog t f more s) := vxIssue_keeps h

theorem execTanh_keeps {t : Nat} {f : VxOp} {more : Bool} (h : Keeps s₀ s) : KeepsOut s₀ (execTanh t f more s) := vxIssue_keeps h

theorem execSigmoid_keeps {t : Nat} {f : VxOp} {more : Bool} (h : Keeps s₀ s) : KeepsOut s₀ (execSigmoid t f more s) :=
  vxIssue_keeps h

theorem execSilu_keeps {t : Nat} {f : VxOp} {more : Bool} (h : Keeps s₀ s) : KeepsOut s₀ (execSilu t f more s) := vxIssue_keeps h

theorem execGelu_keeps {t : Nat} {f : VxOp} {more : Bool} (h : Keeps s₀ s) : KeepsOut s₀ (execGelu t f more s) := vxIssue_keeps h

theorem execRsum_keeps {t : Nat} {f : VxOp} {more : Bool} (h : Keeps s₀ s) : KeepsOut s₀ (execRsum t f more s) := vxIssue_keeps h

theorem execRsumsq_keeps {t : Nat} {f : VxOp} {more : Bool} (h : Keeps s₀ s) : KeepsOut s₀ (execRsumsq t f more s) :=
  vxIssue_keeps h

theorem execRmax_keeps {t : Nat} {f : VxOp} {more : Bool} (h : Keeps s₀ s) : KeepsOut s₀ (execRmax t f more s) := vxIssue_keeps h

theorem execRmin_keeps {t : Nat} {f : VxOp} {more : Bool} (h : Keeps s₀ s) : KeepsOut s₀ (execRmin t f more s) := vxIssue_keeps h

theorem execRmaxabs_keeps {t : Nat} {f : VxOp} {more : Bool} (h : Keeps s₀ s) : KeepsOut s₀ (execRmaxabs t f more s) :=
  vxIssue_keeps h

theorem execRndu_keeps {t : Nat} {f : VxOp} {more : Bool} (h : Keeps s₀ s) : KeepsOut s₀ (execRndu t f more s) := vxIssue_keeps h

theorem execDropout_keeps {t : Nat} {f : VxOp} {more : Bool} (h : Keeps s₀ s) : KeepsOut s₀ (execDropout t f more s) :=
  vxIssue_keeps h

theorem execRndb_keeps {t : Nat} {f : VxOp} {more : Bool} (h : Keeps s₀ s) : KeepsOut s₀ (execRndb t f more s) := vxIssue_keeps h

/-! ### Machine/StreamCmds -/

theorem beginUnit_keeps {t k : Nat} {c : PathCmd} (h : Keeps s₀ s) : Keeps s₀ (beginUnit s t k c) := tileSet_keeps h

theorem startMove_keeps {t : Nat} {l : Latched} {f : MoveOp} (h : Keeps s₀ s) : Keeps s₀ (startMove s t l f) := by
  unfold startMove
  extract_lets _ _ _ _ s0 _ _ s0'
  have h0 : Keeps s₀ s0 := tileSram_keeps h
  have h0' : Keeps s₀ s0' := .ite h0 (cacheSet_keeps h0)
  split
  · exact h0'
  · extract_lets _ _ _ s1
    have h1 : Keeps s₀ s1 := tileReadUe_keeps (fetchAhead_keeps (fun k => fetchLine_keeps k) (.pair h0'))
    exact .ite (fxApply_keeps h1) (.ite (fxApply_keeps h1)
        (.foldl tileErr_keeps (ctxWrite_keeps (tileFlags_keeps (tileSet_keeps h1)))))

theorem startPrefetch_keeps {t : Nat} {l : Latched} {f : MoveOp} (h : Keeps s₀ s) : Keeps s₀ (startPrefetch s t l f) := by
  unfold startPrefetch
  extract_lets src own
  have hown : ∀ {s a}, Keeps s₀ s → Keeps s₀ (own s a).1 := by
    intro s a k
    dsimp only [own]
    split
    · exact .iteFst (.pair (cacheSet_keeps k)) (fetchLine_keeps k)
    · exact fetchLine_keeps k
  split
  · exact h
  · exact fetchAhead_keeps hown (.pair h)

theorem beginCmd_keeps {t k : Nat} {c : PathCmd} (h : Keeps s₀ s) : Keeps s₀ (beginCmd s t k c) := by
  unfold beginCmd
  split
  · exact startMove_keeps (beginUnit_keeps h)
  · exact startPrefetch_keeps (beginUnit_keeps h)
  · exact h

theorem issueStream_keeps {t : Nat} {f : MoveOp} {op : PathOp} {named : List (Nat × Bool)} {xs : List Nat}
    {al own : Latched → Option Nat} (h : Keeps s₀ s) : Keeps s₀ (issueStream s t f op named xs al own) := by
  unfold issueStream
  extract_lets _ _ _ _ s1 _ _ s2
  have h1 : Keeps s₀ s1 := noteLatch_keeps h
  have h2 : Keeps s₀ s2 := tileSet_keeps h1
  split
  · exact tileErr_keeps h1
  · exact .ite (tileErr_keeps h1) (.ite (beginCmd_keeps h2) (tileSet_keeps h2))

theorem execMove_keeps {t : Nat} {f : MoveOp} {more : Bool} (h : Keeps s₀ s) : KeepsOut s₀ (execMove t f more s) :=
  .next (slotDo_keeps h (fun k => issueStream_keeps k))

theorem execPrefetch_keeps {t : Nat} {f : MoveOp} {more : Bool} (h : Keeps s₀ s) : KeepsOut s₀ (execPrefetch t f more s) :=
  .next (slotDo_keeps h (fun k => issueStream_keeps k))

theorem startPending_keeps {t k : Nat} (h : Keeps s₀ s) : Keeps s₀ (startPending s t k) := by
  unfold startPending
  extract_lets
  split
  · exact h
  · exact beginCmd_keeps (tileSet_keeps h)

theorem execStreamCmdDone_keeps {t k : Nat} (h : Keeps s₀ s) : KeepsOut s₀ (execStreamCmdDone t k s) := by
  unfold execStreamCmdDone
  extract_lets
  split
  · exact .next h
  · split
    · exact .next h
    · exact .next (startPending_keeps (tileSet_keeps h))

theorem execPendingStart_keeps {t : Nat} {p : PathId} (h : Keeps s₀ s) : KeepsOut s₀ (execPendingStart t p s) := by
  unfold execPendingStart
  extract_lets
  split
  · exact .next h
  · exact .ite (.next h) (.next (tileUntil_keeps h))

/-! ### Machine/CollCmds -/

theorem keySweep_keeps (h : Keeps s₀ s) : Keeps s₀ (keySweep s) := .foldl (fun k => .ite (groupFail_keeps k) k) h

theorem blockSweep_keeps (h : Keeps s₀ s) : Keeps s₀ (blockSweep s) := .foldl (fun k => .ite (portDown_keeps k) k) h

theorem fabNext_keeps (h : Keeps s₀ s) : KeepsOut s₀ (fabNext s) :=
  .next (serveLinks_keeps (serveFabric_keeps (blockSweep_keeps (keySweep_keeps h))))

theorem engScratch_keeps {t a n : Nat} (h : Keeps s₀ s) : KeepsGot s₀ (engScratch s t a n) := by
  unfold engScratch
  split
  · exact trivial
  · extract_lets
    split
    · exact tileReadUe_keeps h
    · exact h

theorem engRead_keeps {t sp a n : Nat} {ev : List LineEv} (h : Keeps s₀ s) : KeepsGot s₀ (engRead s t sp a n ev) := by
  unfold engRead
  split
  · exact engScratch_keeps h
  · extract_lets _ m
    have hm : Keeps s₀ m.s := ctxRead_keeps h
    split
    · exact trivial
    · split
      · exact hm
      · exact tileErr_keeps hm

theorem engWrite_keeps {t sp a : Nat} {bs : List Byte} {ev : List LineEv} (h : Keeps s₀ s) :
    KeepsGot s₀ (engWrite s t sp a bs ev) := by
  unfold engWrite
  split
  · split
    · exact trivial
    · extract_lets _ s1
      have h1 : Keeps s₀ s1 := tileSet_keeps h
      split
      · exact h1
      · exact .foldl tileSramUe_keeps h1
  · extract_lets _ m
    have hm : Keeps s₀ m.s := ctxWriteAt_keeps h
    split
    · exact trivial
    · split
      · exact hm
      · exact tileErr_keeps hm

theorem gotThen_keeps {g : Got} {k : State → List Byte → Got} (hg : KeepsGot s₀ g) (hk : ∀ {s x1}, Keeps s₀ s → KeepsGot s₀ (k s x1)) :
    KeepsGot s₀ (gotThen g k) := by
  unfold gotThen
  split
  · trivial
  · exact hg
  · exact hk hg

theorem streamRead_keeps {x : LaneCtx} {q : Nat} {ev : List LineEv} {ps : List (Nat × Nat × Nat)} {acc : List Byte} (h : Keeps s₀ s) :
    KeepsGot s₀ (streamRead x q ev ps s acc) := by
  induction ps generalizing s acc with
  | nil => exact h
  | cons p ps ih =>
    rw [streamRead]
    split
    · exact ih h
    · exact gotThen_keeps (engRead_keeps h) ih

theorem streamWrite_keeps {x : LaneCtx} {q : Nat} {ev : List LineEv} {ps : List (Nat × Nat × Nat)} {bs : List Byte} (h : Keeps s₀ s) :
    KeepsGot s₀ (streamWrite x q ev ps s bs) := by
  induction ps generalizing s bs with
  | nil => exact h
  | cons p ps ih =>
    rw [streamWrite]
    split
    · exact ih (.ite h (groupUpd_keeps (tileSet_keeps h)))
    · exact gotThen_keeps (engWrite_keeps h) ih

theorem operandRead_keeps {x : LaneCtx} {o k len : Nat} {ev : List LineEv} (h : Keeps s₀ s) :
    KeepsRead s₀ (operandRead s x o k len ev) := by
  unfold operandRead
  split
  · exact h
  · split
    · exact engScratch_keeps h
    · exact .map (engRead_keeps h)

theorem operandWrite_keeps {x : LaneCtx} {o k : Nat} {bs : List Byte} {ev : List LineEv} (h : Keeps s₀ s) :
    KeepsRead s₀ (operandWrite s x o k bs ev) := by
  unfold operandWrite
  split
  · exact h
  · split
    · exact engWrite_keeps h
    · exact .map (engWrite_keeps h)

theorem applyOwed_keeps {t rq : Nat} (h : Keeps s₀ s) : Keeps s₀ (applyOwed s t rq) := by
  unfold applyOwed
  split
  · exact h
  · exact tokenAdd_keeps (laneSet_keeps h)

theorem accessFailed_keeps {t : Nat} (h : Keeps s₀ s) : Keeps s₀ (accessFailed s t) := abortLaunch_keeps h

theorem drupInc_keeps {t n : Nat} (h : Keeps s₀ s) : Keeps s₀ (drupInc s t n) := engUpd_keeps h

theorem refuseLaunch_keeps {l : Launch} {gix : Option Nat} {rank lseq status src : Nat} {pay : Bool} (h : Keeps s₀ s) :
    Keeps s₀ (refuseLaunch s l gix rank lseq status src pay) := by
  unfold refuseLaunch
  split
  · exact failTile_keeps h
  · split
    · exact failTile_keeps h
    · exact failTile_keeps (noteFail_keeps (.ite (payTokens_keeps h) h))

theorem countsFailed_keeps {t : Nat} (h : Keeps s₀ s) : Keeps s₀ (countsFailed s t) := by
  unfold countsFailed
  split
  · exact h
  · exact accessFailed_keeps (tileReadUe_keeps h)

theorem ownCounts_keeps {t : Nat} (h : Keeps s₀ s) : Keeps s₀ (ownCounts s t) := by
  unfold ownCounts
  split
  · exact h
  · refine .ite h ?_
    extract_lets e a bs
    split
    · rename_i eq
      exact .ofOk (engWrite_keeps h) eq
    · rename_i eq
      exact accessFailed_keeps (.ofFailed (engWrite_keeps h) eq)
    · exact h

theorem earlyCredits_keeps {t gid rank lane : Nat} (h : Keeps s₀ s) : Keeps s₀ (earlyCredits s t gid rank lane) := by
  unfold earlyCredits
  split
  · exact h
  · exact .ite (abortLaunch_keeps (.upd h)) (laneSet_keeps (.upd h))

theorem startLaunch_keeps {l : Launch} {p : Part} (h : Keeps s₀ s) : Keeps s₀ (startLaunch s l p) := by
  unfold startLaunch
  split
  · exact refuseLaunch_keeps h
  · split
    · exact h
    · extract_lets _ _ _ s1 _ _ _ s2
      have h1 : Keeps s₀ s1 := .upd h
      have h2 : Keeps s₀ s2 := groupUpd_keeps (laneSet_keeps h1)
      split
      · exact refuseLaunch_keeps h1
      · split
        · exact refuseLaunch_keeps h1
        · split
          · exact refuseLaunch_keeps h1
          · split
            · exact refuseLaunch_keeps h1
            · split
              · exact refuseLaunch_keeps h1
              · exact .ite (countsFailed_keeps h2) (ownCounts_keeps (earlyCredits_keeps h2))

theorem execLaunchStart_keeps {c : Nat} (h : Keeps s₀ s) : KeepsOut s₀ (execLaunchStart c s) := by
  unfold execLaunchStart
  split
  · exact .next h
  · split
    · exact .next h
    · extract_lets _ s1
      have h1 : Keeps s₀ s1 := .upd h
      split
      · exact .next h1
      · exact fabNext_keeps (startLaunch_keeps h1)

theorem sendDrup_keeps {x : LaneCtx} {k : SendSt} {bs : List Byte} {holes : List (Nat × Nat)} (h : Keeps s₀ s) :
    Keeps s₀ (sendDrup s x k bs holes) := by
  unfold sendDrup
  split
  · exact h
  · exact drupInc_keeps (sendFrames_keeps (laneSet_keeps h))

theorem useGot_keeps {t : Nat} {g : Option Got} {k : State → List Byte → State} (h : Keeps s₀ s) (hg : KeepsRead s₀ g)
    (hk : ∀ {s x1}, Keeps s₀ s → Keeps s₀ (k s x1)) : Keeps s₀ (useGot s t g k) := by
  unfold useGot
  split
  · exact abortLaunch_keeps h
  · exact h
  · exact accessFailed_keeps hg
  · exact hk hg

theorem sendReady_keeps {x : LaneCtx} {k : SendSt} {ev : List LineEv} (h : Keeps s₀ s) : Keeps s₀ (sendReady s x k ev) := 
    .ite (useGot_keeps h (streamRead_keeps h) sendDrup_keeps) (useGot_keeps h (operandRead_keeps h) sendDrup_keeps)

theorem sendStart_keeps {x : LaneCtx} {ev : List LineEv} (h : Keeps s₀ s) : Keeps s₀ (sendStart s x ev) := by
  unfold sendStart
  extract_lets _ _ _ _ _ _ _ s1
  have h1 : Keeps s₀ s1 := laneSet_keeps h
  split
  · exact h
  · split
    · exact countsFailed_keeps h
    · split
      · exact laneSet_keeps h
      · split
        · split
          · exact sendReady_keeps h1
          · exact h1
        · exact h1

theorem execSend_keeps {t : Nat} {ev : List LineEv} (h : Keeps s₀ s) : KeepsOut s₀ (execSend t ev s) := by
  unfold execSend
  split
  · exact .next h
  · split
    · exact fabNext_keeps (sendReady_keeps h)
    · split
      · exact .next h
      · exact fabNext_keeps (sendStart_keeps h)

theorem sendCredit_keeps {x : LaneCtx} (h : Keeps s₀ s) : Keeps s₀ (sendCredit s x) := sendFrames_keeps h

theorem postRecv_keeps {x : LaneCtx} {dst len : Nat} (h : Keeps s₀ s) : Keeps s₀ (postRecv s x dst len) :=
  applyOwed_keeps (laneSet_keeps h)

theorem execRecv_keeps {t : Nat} (h : Keeps s₀ s) : KeepsOut s₀ (execRecv t s) := by
  unfold execRecv
  split
  · exact .next h
  · extract_lets
    split
    · exact .next h
    · split
      · split
        · exact .next h
        · split
          · exact fabNext_keeps (countsFailed_keeps h)
          · exact fabNext_keeps (postRecv_keeps (.ite h (sendCredit_keeps h)))
      · exact fabNext_keeps (postRecv_keeps (sendCredit_keeps h))

theorem localDone_keeps {x : LaneCtx} {empty : Bool} (h : Keeps s₀ s) : Keeps s₀ (localDone s x empty) := by
  unfold localDone
  split
  · exact h
  · exact applyOwed_keeps (laneSet_keeps h)

theorem execReduce_keeps {t : Nat} {hw : HwErr} {ev : List LineEv} (h : Keeps s₀ s) : KeepsOut s₀ (execReduce t hw ev s) := by
  unfold execReduce
  split
  · exact .next h
  · extract_lets _ _ _ _ s0
    have h0 : Keeps s₀ s0 := tileHw_keeps h
    split
    · exact .next h
    · exact fabNext_keeps (useGot_keeps h0 (operandRead_keeps h0)
          (fun k => useGot_keeps k (operandRead_keeps k)
              (fun k1 => useGot_keeps k1 (operandWrite_keeps k1) (fun k2 => localDone_keeps (engUpd_keeps (tileFlags_keeps k2))))))

theorem execDrupeletCopy_keeps {t : Nat} {ev : List LineEv} (h : Keeps s₀ s) : KeepsOut s₀ (execDrupeletCopy t ev s) := by
  unfold execDrupeletCopy
  split
  · exact .next h
  · dsimp only
    refine .ite (.next h) (.ite (.ite (.next h) (.ite (fabNext_keeps (countsFailed_keeps h)) (fabNext_keeps ?_))) (fabNext_keeps ?_))
    · exact useGot_keeps h (gotThen_keeps (streamRead_keeps h) streamWrite_keeps) localDone_keeps
    · exact useGot_keeps h (operandRead_keeps h) (fun k => useGot_keeps k (operandWrite_keeps k) localDone_keeps)

theorem execLanLoop_keeps {t : Nat} (h : Keeps s₀ s) : KeepsOut s₀ (execLanLoop t s) := by
  unfold execLanLoop
  split
  · exact .next h
  · exact .ite (.next (laneSet_keeps h)) (.next (laneSet_keeps h))

theorem execCountx_keeps {t : Nat} (h : Keeps s₀ s) : KeepsOut s₀ (execCountx t s) := by
  unfold execCountx
  split
  · exact .next h
  · dsimp only
    refine .ite (.next h) (fabNext_keeps ?_)
    exact useGot_keeps (laneSet_keeps h) (engScratch_keeps (laneSet_keeps h)) sendDrup_keeps

theorem execCountr_keeps {t : Nat} (h : Keeps s₀ s) : KeepsOut s₀ (execCountr t s) := by
  unfold execCountr
  split
  · exact .next h
  · exact .ite (.next h) (fabNext_keeps (postRecv_keeps (sendCredit_keeps h)))

theorem execEndProg_keeps {t : Nat} (h : Keeps s₀ s) : KeepsOut s₀ (execEndProg t s) := by
  unfold execEndProg
  split
  · exact .next h
  · exact .next (laneSet_keeps h)

theorem execLaunchComplete_keeps {t : Nat} (h : Keeps s₀ s) : KeepsOut s₀ (execLaunchComplete t s) := by
  unfold execLaunchComplete
  split
  · exact .next h
  · exact .ite (.next h) (.next (launchEnded_keeps (tokenAdd_keeps (laneDel_keeps h))))

theorem staleMsg_keeps {t : Nat} (h : Keeps s₀ s) : Keeps s₀ (staleMsg s t) := engUpd_keeps h

theorem recvDone_keeps {t rq : Nat} {r : Recv} (h : Keeps s₀ s) : Keeps s₀ (recvDone s t rq r) := by
  unfold recvDone
  split
  · exact h
  · exact drupInc_keeps (applyOwed_keeps (laneSet_keeps h))

theorem segWrite_keeps {x : LaneCtx} {r : Recv} {f : UFrame} {ev : List LineEv} (h : Keeps s₀ s) :
    KeepsRead s₀ (segWrite s x r f ev) := by
  unfold segWrite
  extract_lets o
  split
  · exact h
  · split
    · exact engWrite_keeps h
    · split
      · exact engWrite_keeps h
      · split
        · exact streamWrite_keeps h
        · exact .map (engWrite_keeps h)

theorem dataArrive_keeps {f : UFrame} {ev : List LineEv} (h : Keeps s₀ s) : KeepsArr s₀ (dataArrive s f ev) := by
  unfold dataArrive
  split
  · exact h
  · split
    · exact staleMsg_keeps h
    · trivial
    · exact abortLaunch_keeps h
    · split
      · split
        · exact h
        · split
          · exact abortLaunch_keeps h
          · split
            · exact abortLaunch_keeps h
            · split <;> trivial
            · rename_i e
              exact accessFailed_keeps (.ofReadFailed (segWrite_keeps h) e)
            · rename_i e
              have k := Keeps.ofRead (segWrite_keeps h) e
              split
              · exact k
              · exact .ite (recvDone_keeps (laneSet_keeps k)) (laneSet_keeps k)
      · split
        · exact h
        · exact abortLaunch_keeps h

theorem creditArrive_keeps {f : UFrame} (h : Keeps s₀ s) : KeepsArr s₀ (creditArrive s f) := by
  unfold creditArrive
  split
  · exact h
  · split
    · exact staleMsg_keeps h
    · exact abortLaunch_keeps h
    · exact .upd h
    · exact laneSet_keeps h

theorem dataAcked_keeps {f : UFrame} (h : Keeps s₀ s) : Keeps s₀ (dataAcked s f) := by
  unfold dataAcked
  split
  · exact h
  · split
    · exact h
    · split
      · exact h
      · split
        · exact h
        · extract_lets
          split
          · exact h
          · split
            · exact h
            · split
              · exact h
              · exact .ite (laneSet_keeps h) (laneSet_keeps h)

/-! ### Machine/Disable -/

theorem exportEnd_keeps {r : CmdRef} (h : Keeps s₀ s) : Keeps s₀ (exportEnd s r) := withdrawHolds_keeps h

theorem abortBusy_keeps {r : CmdRef} {k : QCmd} (h : Keeps s₀ s) : Keeps s₀ (abortBusy s r k) := by
  unfold abortBusy
  extract_lets s1
  have h1 : Keeps s₀ s1 := cmdUpd_keeps h
  split
  · split
    · exact stopPart_keeps h1
    · exact h1
  · exact finishCmd_keeps h1
  · exact finishCmd_keeps (exportEnd_keeps h1)
  · exact h1

theorem abortQueue_keeps {r : CmdRef} (h : Keeps s₀ s) : Keeps s₀ (abortQueue s r) := by
  unfold abortQueue
  split
  · exact h
  · extract_lets _ _ s2
    have h2 : Keeps s₀ s2 := queueSet_keeps (ctxSet_keeps h)
    split
    · exact h2
    · exact .ite (abortBusy_keeps h2) (.ite h2 (finishCmd_keeps h2))

theorem abortAll_keeps {c : Nat} (h : Keeps s₀ s) : Keeps s₀ (abortAll s c) := .foldl abortQueue_keeps h

theorem abandonShared_keeps {c : Nat} (h : Keeps s₀ s) : Keeps s₀ (abandonShared s c) := by
  unfold abandonShared
  refine .foldl (fun k => ?_) h
  split
  · exact .ite (fenceUpd_keeps k) k
  · exact k

theorem partBurnish_keeps {p : Part} (h : Keeps s₀ s) : Keeps s₀ (partBurnish s p) := .ite h (partUpd_keeps (leaveAll_keeps h))

theorem disableCtx_keeps {c : Nat} (h : Keeps s₀ s) : Keeps s₀ (disableCtx s c) :=
  .ite h (.foldl partBurnish_keeps (ctxSet_keeps (abandonShared_keeps (abortAll_keeps h))))

theorem postDisabled_keeps {fk : Nat} {old new : Half} {cause : Nat} (h : Keeps s₀ s) : Keeps s₀ (postDisabled s fk old new cause) :=
  unitEvt_keeps (postAdmin_keeps h)

theorem disableFunc_keeps {cause fk : Nat} (h : Keeps s₀ s) : Keeps s₀ (disableFunc s cause fk) :=
  .ite h (postDisabled_keeps (funcSet_keeps (.foldl disableCtx_keeps h)))

theorem disableEvent_keeps {port cause : Nat} {fks : List Nat} (h : Keeps s₀ s) : Keeps s₀ (disableEvent s port cause fks) :=
  .foldl disableFunc_keeps (hportSet_keeps h)

theorem farUnreached_keeps (h : Keeps s₀ s) : Keeps s₀ (farUnreached s) := .foldl farFail_keeps h

theorem farLost_keeps (h : Keeps s₀ s) : Keeps s₀ (farLost s) := .upd (farUnreached_keeps h)

theorem portReset_keeps {k : Nat} (h : Keeps s₀ s) : Keeps s₀ (portReset s k) := by
  unfold portReset
  extract_lets _ _ _ _ _ _ s4
  have h4 : Keeps s₀ s4 := .upd (disableEvent_keeps (queueSet_keeps (hportSet_keeps h)))
  exact .ite (farLost_keeps h4) h4

theorem portIncarnate_keeps {k : Nat} (h : Keeps s₀ s) : Keeps s₀ (portIncarnate s k) :=
  unitSet_keeps (dropOutst_keeps (txnsOfUnit_keeps h))

theorem tdiError_keeps {fk cause : Nat} (h : Keeps s₀ s) : Keeps s₀ (tdiError s fk cause) :=
  .ite (disableEvent_keeps (funcSet_keeps h)) h

/-! ### Machine/RingCmds -/

theorem dbDrop_keeps {src : DbSrc} (h : Keeps s₀ s) : Keeps s₀ (dbDrop s src) := hportSet_keeps h

theorem doorbell_keeps {src : DbSrc} {c : Nat} {go : State → State} (h : Keeps s₀ s) (hgo : ∀ {s}, Keeps s₀ s → Keeps s₀ (go s)) :
    Keeps s₀ (doorbell s src c go) :=
    .ite h (.ite (hgo h) (dbDrop_keeps h))

theorem sqTailGo_keeps {src : DbSrc} {r : CmdRef} {tail : Nat} (h : Keeps s₀ s) : Keeps s₀ (sqTailGo src r tail s) := by
  unfold sqTailGo
  split
  · exact dbDrop_keeps h
  · exact .ite (dbDrop_keeps h) (.ite (queueSet_keeps h) (queueFault_keeps h))

theorem execSqTail_keeps {src : DbSrc} {ctx q tail : Nat} (h : Keeps s₀ s) : KeepsOut s₀ (execSqTail src ctx q tail s) :=
  .next (doorbell_keeps h sqTailGo_keeps)

theorem cqHeadGo_keeps {r : CmdRef} {head : Nat} (h : Keeps s₀ s) : Keeps s₀ (cqHeadGo r head s) := by
  unfold cqHeadGo
  split
  · exact h
  · exact msiIf_keeps (queueSet_keeps (ringDrain_keeps h))

theorem execCqHead_keeps {src : DbSrc} {ctx q head : Nat} (h : Keeps s₀ s) : KeepsOut s₀ (execCqHead src ctx q head s) :=
  .next (doorbell_keeps h cqHeadGo_keeps)

theorem evqHeadGo_keeps {c head : Nat} (h : Keeps s₀ s) : Keeps s₀ (evqHeadGo c head s) := by
  unfold evqHeadGo
  split
  · exact h
  · exact msiIf_keeps (ctxSet_keeps (ringDrain_keeps h))

theorem execEvqHead_keeps {src : DbSrc} {ctx head : Nat} (h : Keeps s₀ s) : KeepsOut s₀ (execEvqHead src ctx head s) :=
  .next (doorbell_keeps h evqHeadGo_keeps)

theorem execEvOverflow_keeps {ctx : Nat} {evq : Bool} (h : Keeps s₀ s) : KeepsOut s₀ (execEvOverflow ctx evq s) := by
  unfold execEvOverflow
  split
  · split
    · exact .next h
    · split
      · exact .next h
      · exact .next (postCtx_keeps (ctxSet_keeps h))
  · split
    · exact .next h
    · extract_lets
      split
      · exact .next h
      · split
        · exact .next h
        · exact .next (postAdmin_keeps (queueSet_keeps h))

theorem applySignal_keeps {k : QCmd} {status : Nat} (h : Keeps s₀ s) : Keeps s₀ (applySignal s k status) := by
  unfold applySignal
  extract_lets
  split
  · exact h
  · exact .ite h (fenceUpd_keeps h)

theorem completeCmd_keeps {r : CmdRef} {q : Queue} {k : QCmd} {status : Nat} (h : Keeps s₀ s) :
    Keeps s₀ (completeCmd s r q k status) :=
    msiIf_keeps (applySignal_keeps (queueSet_keeps (ringPut_keeps h)))

theorem execCommandComplete_keeps {ctx qid : Nat} (h : Keeps s₀ s) : KeepsOut s₀ (execCommandComplete ctx qid s) := by
  unfold execCommandComplete
  extract_lets
  split
  · exact .next h
  · split
    · split
      · exact .next (.ite (completeCmd_keeps h) h)
      · exact .next h
    · exact .ite (.next h) (.ite (.next (queueSet_keeps h)) (.ite (.next h) (.next (completeCmd_keeps h))))

theorem execFenceWaitRelease_keeps {ctx qid : Nat} (h : Keeps s₀ s) : KeepsOut s₀ (execFenceWaitRelease ctx qid s) := by
  unfold execFenceWaitRelease
  extract_lets
  split
  · exact .next h
  · split
    · exact .next h
    · split
      · exact .next h
      · split
        · exact .next h
        · exact .next (cmdUpd_keeps h)
        · exact .next (finishCmd_keeps h)

theorem execRingNop_keeps {ctx qid : Nat} (h : Keeps s₀ s) : KeepsOut s₀ (execRingNop ctx qid s) :=
  .next (ringRow_keeps finishCmd_keeps h)

theorem exeIdentify_keeps {r : CmdRef} {v : Nat} (h : Keeps s₀ s) : Keeps s₀ (exeIdentify s r v) := finishRes_keeps h

theorem execIdentify_keeps {ctx qid : Nat} (h : Keeps s₀ s) : KeepsOut s₀ (execIdentify ctx qid s) :=
  ringCmd_keeps exeIdentify_keeps h

theorem exeIfNegotiate_keeps {r : CmdRef} {v : Nat} (h : Keeps s₀ s) : Keeps s₀ (exeIfNegotiate s r v) := by
  unfold exeIfNegotiate
  extract_lets
  split
  · exact finishCmd_keeps h
  · split
    · exact finishRes_keeps h
    · exact .ite (finishRes_keeps (hportSet_keeps h)) (.ite (finishRes_keeps h) (finishCmd_keeps h))

theorem execIfNegotiate_keeps {ctx qid : Nat} (h : Keeps s₀ s) : KeepsOut s₀ (execIfNegotiate ctx qid s) :=
  ringCmd_keeps exeIfNegotiate_keeps h

theorem exeCtxCreate_keeps {r : CmdRef} {v : Nat} (h : Keeps s₀ s) : Keeps s₀ (exeCtxCreate s r v) :=
  .ite (finishCmd_keeps h) (.ite (finishCmd_keeps h) (finishCmd_keeps (ctxSet_keeps (.upd h))))

theorem execCtxCreate_keeps {ctx qid : Nat} (h : Keeps s₀ s) : KeepsOut s₀ (execCtxCreate ctx qid s) :=
  ringCmd_keeps exeCtxCreate_keeps h

theorem exeCtxDestroy_keeps {r : CmdRef} {v : Nat} (h : Keeps s₀ s) : Keeps s₀ (exeCtxDestroy s r v) := by
  unfold exeCtxDestroy
  extract_lets _ _ s1
  have h1 : Keeps s₀ s1 := setJob_keeps (ctxSet_keeps h)
  split
  · exact finishCmd_keeps h
  · exact .ite (disableFunc_keeps h1) (postDisabled_keeps (disableCtx_keeps h1))

theorem execCtxDestroy_keeps {ctx qid : Nat} (h : Keeps s₀ s) : KeepsOut s₀ (execCtxDestroy ctx qid s) :=
  ringCmd_keeps exeCtxDestroy_keeps h

theorem exeVfBind_keeps {r : CmdRef} {v : Nat} (h : Keeps s₀ s) : Keeps s₀ (exeVfBind s r v) :=
  .ite (finishCmd_keeps h) (finishCmd_keeps (ctxSet_keeps h))

theorem execVfBind_keeps {ctx qid : Nat} (h : Keeps s₀ s) : KeepsOut s₀ (execVfBind ctx qid s) := ringCmd_keeps exeVfBind_keeps h

theorem exeVfUnbind_keeps {r : CmdRef} {v : Nat} (h : Keeps s₀ s) : Keeps s₀ (exeVfUnbind s r v) :=
  .ite (finishCmd_keeps h) (finishCmd_keeps (ctxSet_keeps h))

theorem execVfUnbind_keeps {ctx qid : Nat} (h : Keeps s₀ s) : KeepsOut s₀ (execVfUnbind ctx qid s) :=
  ringCmd_keeps exeVfUnbind_keeps h

theorem exeDmaWindow_keeps {r : CmdRef} {v : Nat} (h : Keeps s₀ s) : Keeps s₀ (exeDmaWindow s r v) :=
  .ite (finishCmd_keeps h) (finishCmd_keeps (funcSet_keeps (tdiError_keeps h)))

theorem execDmaWindow_keeps {ctx qid : Nat} (h : Keeps s₀ s) : KeepsOut s₀ (execDmaWindow ctx qid s) :=
  ringCmd_keeps exeDmaWindow_keeps h

theorem farUnbound_keeps {blk : Nat} (h : Keeps s₀ s) : Keeps s₀ (farUnbound s blk) := .upd h

theorem exeFarWindow_keeps {r : CmdRef} {v : Nat} (h : Keeps s₀ s) : Keeps s₀ (exeFarWindow s r v) := by
  unfold exeFarWindow
  extract_lets
  split
  · exact .ite (finishCmd_keeps h) (.ite (finishCmd_keeps h) (finishCmd_keeps (.upd h)))
  · split
    · exact finishCmd_keeps h
    · split
      · exact finishCmd_keeps (farInit_keeps h)
      · split
        · exact finishCmd_keeps h
        · exact .ite (finishCmd_keeps (.upd h)) (finishCmd_keeps (farUnbound_keeps (farInit_keeps h)))

theorem execFarWindow_keeps {ctx qid : Nat} (h : Keeps s₀ s) : KeepsOut s₀ (execFarWindow ctx qid s) :=
  ringCmd_keeps exeFarWindow_keeps h

theorem exeObjShare_keeps {r : CmdRef} {v : Nat} (h : Keeps s₀ s) : Keeps s₀ (exeObjShare s r v) := by
  unfold exeObjShare
  extract_lets
  split
  · exact finishCmd_keeps h
  · split
    · exact finishCmd_keeps h
    · split
      · exact finishCmd_keeps h
      · split
        · exact finishCmd_keeps h
        · split
          · exact finishCmd_keeps h
          · rename_i e
            exact finishRes_keeps (objSet_keeps (openHandle_keeps h e))

theorem execObjShare_keeps {ctx qid : Nat} (h : Keeps s₀ s) : KeepsOut s₀ (execObjShare ctx qid s) :=
  ringCmd_keeps exeObjShare_keeps h

theorem exeObjCreate_keeps {r : CmdRef} {v : Nat} (h : Keeps s₀ s) : Keeps s₀ (exeObjCreate s r v) := by
  unfold exeObjCreate
  extract_lets
  split
  · exact finishCmd_keeps h
  · split
    · exact finishCmd_keeps h
    · rename_i e
      exact finishRes_keeps (createObj_keeps h e)

theorem execObjCreate_keeps {ctx qid : Nat} (h : Keeps s₀ s) : KeepsOut s₀ (execObjCreate ctx qid s) :=
  ringCmd_keeps exeObjCreate_keeps h

theorem exeObjRef_keeps {r : CmdRef} {v : Nat} (h : Keeps s₀ s) : Keeps s₀ (exeObjRef s r v) := by
  unfold exeObjRef
  extract_lets
  split
  · exact finishCmd_keeps h
  · split
    · exact finishCmd_keeps h
    · exact .ite (finishCmd_keeps h) (finishCmd_keeps (objSet_keeps (handleSet_keeps h)))

theorem execObjRef_keeps {ctx qid : Nat} (h : Keeps s₀ s) : KeepsOut s₀ (execObjRef ctx qid s) := ringCmd_keeps exeObjRef_keeps h

theorem exeObjUnref_keeps {r : CmdRef} {v : Nat} (h : Keeps s₀ s) : Keeps s₀ (exeObjUnref s r v) := by
  unfold exeObjUnref
  extract_lets
  split
  · exact finishCmd_keeps h
  · exact .ite (finishCmd_keeps h) (finishCmd_keeps (handleDrop_keeps h))

theorem execObjUnref_keeps {ctx qid : Nat} (h : Keeps s₀ s) : KeepsOut s₀ (execObjUnref ctx qid s) :=
  ringCmd_keeps exeObjUnref_keeps h

theorem exeObjQuery_keeps {r : CmdRef} {v : Nat} (h : Keeps s₀ s) : Keeps s₀ (exeObjQuery s r v) := by
  unfold exeObjQuery
  split
  · exact finishCmd_keeps h
  · split
    · exact finishCmd_keeps h
    · exact finishRes_keeps h

theorem execObjQuery_keeps {ctx qid : Nat} (h : Keeps s₀ s) : KeepsOut s₀ (execObjQuery ctx qid s) :=
  ringCmd_keeps exeObjQuery_keeps h

theorem createEvents_keeps {r : CmdRef} {c log2 vec off : Nat} (h : Keeps s₀ s) : Keeps s₀ (createEvents s r c log2 vec off) := by
  unfold createEvents
  extract_lets
  split
  · exact finishCmd_keeps h
  · split
    · exact finishCmd_keeps h
    · split
      · exact finishCmd_keeps h
      · rename_i e
        exact finishRes_keeps (ctxSet_keeps (createObj_keeps h e))

theorem createQueue_keeps {r : CmdRef} {c qid sl cl vec : Nat} {irq : Bool} {sqOff cqOff : Nat} (h : Keeps s₀ s) :
    Keeps s₀ (createQueue s r c qid sl cl vec irq sqOff cqOff) := by
  unfold createQueue
  extract_lets
  split
  · exact finishCmd_keeps h
  · split
    · exact finishCmd_keeps h
    · split
      · exact finishCmd_keeps h
      · rename_i e
        exact finishRes_keeps (queueSet_keeps (ctxSet_keeps (createObj_keeps h e)))

theorem exeQueueCreate_keeps {r : CmdRef} {v : Nat} (h : Keeps s₀ s) : Keeps s₀ (exeQueueCreate s r v) :=
  .ite (createEvents_keeps h) (createQueue_keeps h)

theorem execQueueCreate_keeps {ctx qid : Nat} (h : Keeps s₀ s) : KeepsOut s₀ (execQueueCreate ctx qid s) :=
  ringCmd_keeps exeQueueCreate_keeps h

theorem exeAbortQueues_keeps {r : CmdRef} {v : Nat} (h : Keeps s₀ s) : Keeps s₀ (exeAbortQueues s r v) :=
  .ite (finishCmd_keeps h) (finishCmd_keeps (.foldl abortQueue_keeps h))

theorem execAbortQueues_keeps {ctx qid : Nat} (h : Keeps s₀ s) : KeepsOut s₀ (execAbortQueues ctx qid s) :=
  ringCmd_keeps exeAbortQueues_keeps h

theorem exeFenceAbandon_keeps {r : CmdRef} {v : Nat} (h : Keeps s₀ s) : Keeps s₀ (exeFenceAbandon s r v) := by
  unfold exeFenceAbandon
  split
  · exact finishCmd_keeps h
  · exact finishCmd_keeps (fenceUpd_keeps h)

theorem execFenceAbandon_keeps {ctx qid : Nat} (h : Keeps s₀ s) : KeepsOut s₀ (execFenceAbandon ctx qid s) :=
  ringCmd_keeps exeFenceAbandon_keeps h

theorem postReleased_keeps {x : Obj} (h : Keeps s₀ s) : Keeps s₀ (postReleased s x) := postNamed_keeps h

theorem dropPage_keeps {c dva : Nat} (h : Keeps s₀ s) : Keeps s₀ (dropPage c s dva) := by
  unfold dropPage
  split
  · exact h
  · exact releaseUnmapped_keeps (unmapPage_keeps h)

theorem teardown_keeps {o : Nat} {x : Obj} (h : Keeps s₀ s) : Keeps s₀ (teardown s o x) := by
  unfold teardown
  split
  · exact .foldl dropPage_keeps h
  · exact .ite (ctxSet_keeps (.upd h)) (.upd h)
  · exact .upd h
  · exact h

theorem freeHeader_keeps {o : Nat} {x : Obj} (h : Keeps s₀ s) : Keeps s₀ (freeHeader s o x) := postReleased_keeps (.upd h)

theorem execObjRelease_keeps {obj : Nat} (h : Keeps s₀ s) : KeepsOut s₀ (execObjRelease obj s) := by
  unfold execObjRelease
  split
  · exact .next h
  · split
    · exact .next (.ite (freeHeader_keeps h) h)
    · split
      · exact .next h
      · split
        · exact .next h
        · exact .next (.ite (freeHeader_keeps (teardown_keeps h)) (objSet_keeps (teardown_keeps h)))

theorem exeMemMap_keeps {r : CmdRef} {v : Nat} (h : Keeps s₀ s) : Keeps s₀ (exeMemMap s r v) := by
  unfold exeMemMap
  split
  · exact finishCmd_keeps h
  · exact .ite (finishCmd_keeps h) (finishCmd_keeps (mapPage_keeps h))

theorem execMemMap_keeps {ctx qid : Nat} (h : Keeps s₀ s) : KeepsOut s₀ (execMemMap ctx qid s) := ringCmd_keeps exeMemMap_keeps h

theorem exeMemUnmap_keeps {r : CmdRef} {v : Nat} (h : Keeps s₀ s) : Keeps s₀ (exeMemUnmap s r v) := by
  unfold exeMemUnmap
  split
  · exact finishCmd_keeps h
  · extract_lets
    split
    · exact finishCmd_keeps h
    · exact .ite (finishCmd_keeps h) (.ite h (finishCmd_keeps (.foldl unmapPage_keeps h)))

theorem execMemUnmap_keeps {ctx qid : Nat} (h : Keeps s₀ s) : KeepsOut s₀ (execMemUnmap ctx qid s) :=
  ringCmd_keeps exeMemUnmap_keeps h

theorem releaseReserve_keeps {r : CmdRef} {fk : Nat} (h : Keeps s₀ s) : Keeps s₀ (releaseReserve s r fk) :=
  .ite (finishCmd_keeps h) (.ite (finishCmd_keeps h) (checkReserve_keeps (setJob_keeps (frameDrain_keeps h))))

theorem exeMemRelease_keeps {r : CmdRef} {v : Nat} (h : Keeps s₀ s) : Keeps s₀ (exeMemRelease s r v) := by
  unfold exeMemRelease
  extract_lets
  split
  · exact finishCmd_keeps h
  · split
    · exact releaseReserve_keeps h
    · split
      · exact finishCmd_keeps h
      · split
        · exact finishCmd_keeps h
        · split
          · exact finishCmd_keeps h
          · exact .ite (finishCmd_keeps (frameFree_keeps h)) (setJob_keeps (frameDrain_keeps h))

theorem execMemRelease_keeps {ctx qid : Nat} (h : Keeps s₀ s) : KeepsOut s₀ (execMemRelease ctx qid s) :=
  ringCmd_keeps exeMemRelease_keeps h

theorem exeMemReserve_keeps {r : CmdRef} {v : Nat} (h : Keeps s₀ s) : Keeps s₀ (exeMemReserve s r v) := by
  unfold exeMemReserve
  extract_lets
  split
  · exact finishCmd_keeps h
  · exact .ite (finishCmd_keeps h) (.ite (finishCmd_keeps h) (finishCmd_keeps (migResume_keeps (.foldl frameSet_keeps h))))

theorem execMemReserve_keeps {ctx qid : Nat} (h : Keeps s₀ s) : KeepsOut s₀ (execMemReserve ctx qid s) :=
  ringCmd_keeps exeMemReserve_keeps h

theorem exeMemRedirClear_keeps {r : CmdRef} {v : Nat} (h : Keeps s₀ s) : Keeps s₀ (exeMemRedirClear s r v) :=
  .ite (finishCmd_keeps h) (finishCmd_keeps (migResume_keeps (.upd h)))

theorem execMemRedirClear_keeps {ctx qid : Nat} (h : Keeps s₀ s) : KeepsOut s₀ (execMemRedirClear ctx qid s) :=
  ringCmd_keeps exeMemRedirClear_keeps h

theorem devFetch_keeps {c a n : Nat} {ev : List LineEv} (h : Keeps s₀ s) : Keeps s₀ (devFetch s c a n ev).1 := by
  unfold devFetch
  dsimp only
  split <;> exact .pair (ctxRead_keeps h)

theorem devStore_keeps {c : Nat} {ls : List (List (Nat × Byte))} {ev : List LineEv} (h : Keeps s₀ s) :
    Keeps s₀ (devStore s c ls ev).1 := by
  induction ls generalizing s with
  | nil => exact h
  | cons g rest ih =>
    rw [devStore]
    exact .iteFst (ih (ctxWriteLine_keeps h)) (.pair (ctxWriteLine_keeps h))

theorem dmaStore_keeps {c sp a : Nat} {bs : List Byte} {ev : List LineEv} (h : Keeps s₀ s) : Keeps s₀ (dmaStore s c sp a bs ev).1 := by
  unfold dmaStore
  split
  · exact devStore_keeps h
  · exact .pair (hostWrite_keeps h)
  · exact .pair (winWrite_keeps h)

theorem dmaEnd_keeps {r : CmdRef} {c dsp da : Nat} {bs : List Byte} {st det : Nat} {ev : List LineEv} (h : Keeps s₀ s) :
    Keeps s₀ (dmaEnd s r c dsp da bs st det ev) :=
    .ite (finishDet_keeps (dmaStore_keeps h)) (finishDet_keeps (dmaStore_keeps h))

theorem hostErrCount_keeps {c : Nat} (h : Keeps s₀ s) : Keeps s₀ (hostErrCount s c) := hportSet_keeps h

theorem copyEnd_keeps {r : CmdRef} {c ssp sa dsp da n : Nat} {host : HostRsp} {ev : List LineEv} (h : Keeps s₀ s) :
    Keeps s₀ (copyEnd s r c ssp sa dsp da n host ev) := by
  unfold copyEnd
  split
  · exact dmaEnd_keeps (devFetch_keeps h)
  · exact dmaEnd_keeps h
  · exact finishCmd_keeps (hostErrCount_keeps h)
  · exact dmaEnd_keeps h

theorem exeDmaCopy_keeps {host : HostRsp} {ev : List LineEv} {r : CmdRef} {v : Nat} (h : Keeps s₀ s) :
    Keeps s₀ (exeDmaCopy host ev s r v) := by
  unfold exeDmaCopy
  extract_lets c ssp dsp n sa da busy up no
  clear_value no
  refine .ite (finishCmd_keeps h) (.ite h (.ite h ?_))
  split
  · exact finishCmd_keeps h
  · exact .ite (.ite h (setJob_keeps h)) (copyEnd_keeps h)

theorem execDmaCopy_keeps {ctx qid : Nat} {host : HostRsp} {ev : List LineEv} (h : Keeps s₀ s) :
    KeepsOut s₀ (execDmaCopy ctx qid host ev s) :=
    ringCmd_keeps exeDmaCopy_keeps h

theorem exeDmaFill_keeps {ev : List LineEv} {r : CmdRef} {v : Nat} (h : Keeps s₀ s) : Keeps s₀ (exeDmaFill ev s r v) := by
  unfold exeDmaFill
  extract_lets
  split
  · exact finishCmd_keeps h
  · split
    · exact h
    · split
      · exact finishCmd_keeps h
      · exact dmaEnd_keeps h

theorem execDmaFill_keeps {ctx qid : Nat} {ev : List LineEv} (h : Keeps s₀ s) : KeepsOut s₀ (execDmaFill ctx qid ev s) :=
  ringCmd_keeps exeDmaFill_keeps h

/-! ### Machine/PlateImage -/

theorem exePlateLoad_keeps {ev : List LineEv} {r : CmdRef} {v : Nat} (h : Keeps s₀ s) : Keeps s₀ (exePlateLoad ev s r v) := by
  unfold exePlateLoad
  extract_lets
  split
  · exact finishCmd_keeps h
  · split
    · exact finishCmd_keeps h
    · split
      · exact finishCmd_keeps h
      · split
        · exact h
        · extract_lets m
          have hm : Keeps s₀ m.s := ctxRead_keeps h
          split
          · exact finishDet_keeps hm
          · split
            · exact finishDet_keeps hm
            · exact finishCmd_keeps (.upd (objSet_keeps hm))

theorem execPlateLoad_keeps {ctx qid : Nat} {ev : List LineEv} (h : Keeps s₀ s) : KeepsOut s₀ (execPlateLoad ctx qid ev s) :=
  ringCmd_keeps exePlateLoad_keeps h

/-! ### Machine/UnitCmds -/

theorem resetBlock_keeps {u : UnitId} (h : Keeps s₀ s) : Keeps s₀ (resetBlock s u) := by
  unfold resetBlock
  split
  · exact abortLaunch_keeps (wayLines_keeps (tileSet_keeps h))
  · exact .upd h
  · exact .upd (.ite (.upd h) h)
  · exact .upd h
  · exact portReset_keeps h
  · exact .upd h
  · split
    · exact h
    · exact .upd (mcSet_keeps h)

theorem enterReset_keeps {u : UnitId} (h : Keeps s₀ s) : Keeps s₀ (enterReset s u) := by
  unfold enterReset
  extract_lets s0
  have h0 : Keeps s₀ s0 := by
    dsimp only [s0]
    split
    · exact packetsReset_keeps h
    · exact h
  exact acceptedReset_keeps (unitTo_keeps (unitSet_keeps (resetBlock_keeps (dropOutst_keeps (.upd (txnsOfUnit_keeps h0))))))

theorem resetOne_keeps {root src : Nat} {u : UnitId} (h : Keeps s₀ s) : Keeps s₀ (resetOne root src s u) :=
  .ite h (.ite (unitSet_keeps h) (enterReset_keeps (unitSet_keeps h)))

theorem resetGo_keeps {u : UnitId} (h : Keeps s₀ s) : Keeps s₀ (resetGo s u) :=
  .foldl resetOne_keeps (enterReset_keeps (txnsOfHit_keeps h))

theorem sweepTake_keeps {c : UCmd} {u : UnitId} (h : Keeps s₀ s) : Keeps s₀ (sweepTake c s u) := unitTo_keeps (txnsOfUnit_keeps h)

theorem sweepOne_keeps {c : UCmd} {root src : Nat} {u : UnitId} (h : Keeps s₀ s) : Keeps s₀ (sweepOne c root src s u) := by
  unfold sweepOne
  extract_lets
  split
  · exact .ite h (unitSet_keeps h)
  · exact .ite h (.ite (unitSet_keeps h) (sweepTake_keeps (unitSet_keeps h)))

theorem sweepGo_keeps {c : UCmd} {u : UnitId} (h : Keeps s₀ s) : Keeps s₀ (sweepGo c s u) :=
  .ite (.foldl sweepOne_keeps h) (cmdDone_keeps (sweepTake_keeps (.foldl sweepOne_keeps h)))

theorem sleepGo_keeps {u : UnitId} (h : Keeps s₀ s) : Keeps s₀ (sleepGo s u) := sweepGo_keeps h

theorem retireAll_keeps {u : UnitId} (h : Keeps s₀ s) : Keeps s₀ (retireAll s u) := sweepGo_keeps h

theorem actWaiting_keeps {u : UnitId} {e : Nat × UCmd} (h : Keeps s₀ s) : Keeps s₀ (actWaiting s u e) := by
  unfold actWaiting
  extract_lets
  split
  · exact quiesceOne_keeps h
  · exact resumeOne_keeps h
  · exact resetOne_keeps h
  · split
    · exact .ite (sweepGo_keeps h) h
    · exact h
  · split
    · exact .ite (sweepGo_keeps h) h
    · exact h

theorem endAction_keeps {u : UnitId} {status : Nat} (h : Keeps s₀ s) : Keeps s₀ (endAction s u status) :=
  .foldl actWaiting_keeps (unitSet_keeps (.ite (cmdDone_keeps h) (unitSet_keeps h)))

theorem settleWaiting_keeps (h : Keeps s₀ s) : Keeps s₀ (settleWaiting s) := by
  unfold settleWaiting
  refine .foldl (fun k => ?_) h
  split
  · exact k
  · exact .ite k (.foldl actWaiting_keeps (unitSet_keeps k))

theorem runCmd_keeps {u : UnitId} {c : UCmd} (h : Keeps s₀ s) : Keeps s₀ (runCmd s u c) := by
  unfold runCmd
  extract_lets
  split
  · exact .ite (quiesceGo_keeps h) (cmdDone_keeps h)
  · exact .ite (settleWaiting_keeps (resumeGo_keeps h)) (.ite h (cmdDone_keeps h))
  · exact .ite (cmdDone_keeps h) (.ite (resetGo_keeps h) (cmdDone_keeps h))
  · exact .ite (cmdDone_keeps h) (.ite (sleepGo_keeps h) (cmdDone_keeps h))
  · exact .ite (cmdDone_keeps h) (.ite (quiesceGo_keeps h) (.ite (retireAll_keeps h) (cmdDone_keeps h)))

theorem unitCmd_keeps {u : UnitId} {w : Writer} {inc : Half} {c : UCmd} (h : Keeps s₀ s) : Keeps s₀ (unitCmd s u w inc c) :=
  acceptCmd_keeps h runCmd_keeps

theorem execQuiesce_keeps {u : UnitId} {w : Writer} {inc : Half} (h : Keeps s₀ s) : KeepsOut s₀ (execQuiesce u w inc s) :=
  .next (unitCmd_keeps h)

theorem execResume_keeps {u : UnitId} {w : Writer} {inc : Half} (h : Keeps s₀ s) : KeepsOut s₀ (execResume u w inc s) :=
  .next (unitCmd_keeps h)

theorem execReset_keeps {u : UnitId} {w : Writer} {inc : Half} (h : Keeps s₀ s) : KeepsOut s₀ (execReset u w inc s) :=
  .next (unitCmd_keeps h)

theorem execSleep_keeps {u : UnitId} {w : Writer} {inc : Half} (h : Keeps s₀ s) : KeepsOut s₀ (execSleep u w inc s) :=
  .next (unitCmd_keeps h)

theorem execRetire_keeps {u : UnitId} {w : Writer} {inc : Half} (h : Keeps s₀ s) : KeepsOut s₀ (execRetire u w inc s) :=
  .next (unitCmd_keeps h)

theorem becomeQuiesced_keeps {u : UnitId} (h : Keeps s₀ s) : Keeps s₀ (becomeQuiesced s u) := by
  unfold becomeQuiesced
  extract_lets s1
  have h1 : Keeps s₀ s1 := unitTo_keeps h
  exact .ite (retireAll_keeps h1) (.ite (endAction_keeps h1) h1)

theorem quiescePart_keeps {p : Part} (h : Keeps s₀ s) : Keeps s₀ (quiescePart s p) :=
  .foldl (fun k => .ite (becomeQuiesced_keeps k) k) h

theorem execUnitQuiesced_keeps {u : UnitId} (h : Keeps s₀ s) : KeepsOut s₀ (execUnitQuiesced u s) := by
  unfold execUnitQuiesced
  split
  · exact .next h
  · split
    · split
      · exact .next (becomeQuiesced_keeps h)
      · split
        · exact .ite (.next (becomeQuiesced_keeps h)) (.next h)
        · exact .ite (.next (quiescePart_keeps h)) (.next h)
    · exact .next (becomeQuiesced_keeps h)

theorem finishReset_keeps {u : UnitId} (h : Keeps s₀ s) : Keeps s₀ (finishReset s u) :=
  .ite h (endAction_keeps (reloadStep_keeps (loadIncs_keeps (unitTo_keeps h))))

theorem execResetDone_keeps {u : UnitId} (h : Keeps s₀ s) : KeepsOut s₀ (execResetDone u s) :=
  .ite (.next h) (.next (finishReset_keeps (.foldl finishReset_keeps h)))

theorem execWakeDone_keeps {u : UnitId} (h : Keeps s₀ s) : KeepsOut s₀ (execWakeDone u s) := by
  unfold execWakeDone
  extract_lets
  split
  · exact .next h
  · exact .ite (.next (settleWaiting_keeps (resumeGo_keeps h))) (.next (endAction_keeps (unitTo_keeps h)))

theorem fatalPart_keeps {hit : List UnitId} {p : Part} (h : Keeps s₀ s) : Keeps s₀ (fatalPart s hit p) := by
  unfold fatalPart
  split
  · exact h
  · exact .foldl (fun k => .ite k (.ite (becomeQuiesced_keeps k) (unitTo_keeps k))) (partRunning_keeps (stopPart_keeps h))

theorem dropWaiting_keeps {root : Nat} (h : Keeps s₀ s) : Keeps s₀ (dropWaiting s root) := .upd h

theorem fatalOneAt_keeps {top : Nat} {u : UnitId} (h : Keeps s₀ s) : Keeps s₀ (fatalOneAt top s u) := by
  unfold fatalOneAt
  extract_lets _ _ _ s1
  have h1 : Keeps s₀ s1 := unitSet_keeps (enterReset_keeps h)
  exact .ite (cmdDone_keeps (.ite (dropWaiting_keeps h1) h1)) h1

theorem fatalOne_keeps {top : Nat} {u : UnitId} (h : Keeps s₀ s) : Keeps s₀ (fatalOne top s u) := .ite h (fatalOneAt_keeps h)

theorem execFatalInternalError_keeps {u : UnitId} (h : Keeps s₀ s) : KeepsOut s₀ (execFatalInternalError u s) := by
  unfold execFatalInternalError
  split
  · exact .next h
  · extract_lets _ _ s1
    have h1 : Keeps s₀ s1 := by
      dsimp only [s1]
      refine .foldl (fun k => ?_) (txnsOfHit_keeps h)
      split
      · exact fatalPart_keeps k
      · exact k
    exact .next (.foldl fatalOne_keeps h1)

theorem unquiesceOne_keeps {root : Nat} {u : UnitId} (h : Keeps s₀ s) : Keeps s₀ (unquiesceOne root s u) := by
  unfold unquiesceOne
  extract_lets _ s1
  have h1 : Keeps s₀ s1 := unitTo_keeps (unitSet_keeps h)
  exact .ite (.ite (endAction_keeps h1) h1) h

theorem execQuiesceDrainLimit_keeps {u : UnitId} (h : Keeps s₀ s) : KeepsOut s₀ (execQuiesceDrainLimit u s) :=
  .ite (.next h) (.next (settleWaiting_keeps
      (.foldl unquiesceOne_keeps (cmdDone_keeps (unitTo_keeps (withdrawHolds_keeps (dropWaiting_keeps h)))))))

theorem execUnitEvtWrite_keeps {u : UnitId} {w : Writer} {en : Bool} {v : W32} (h : Keeps s₀ s) :
    KeepsOut s₀ (execUnitEvtWrite u w en v s) :=
    .ite (.next h) (.next (.upd (.ite (sendDevIrq_keeps (unitSet_keeps h)) (unitSet_keeps h))))

theorem execErrlogClear_keeps {u : UnitId} {w : Writer} (h : Keeps s₀ s) : KeepsOut s₀ (execErrlogClear u w s) :=
  .ite (.next h) (.next (unitSet_keeps h))

/-! ### Machine/RunCmds -/

theorem bringUp_keeps {t : Nat} (h : Keeps s₀ s) : Keeps s₀ (bringUp s t) := by
  unfold bringUp
  extract_lets
  split
  · exact finishReset_keeps (enterReset_keeps h)
  · exact setUState_keeps h
  · exact h

theorem setOwner_keeps {p : Part} {bound : Bool} {c : Nat} (h : Keeps s₀ s) : Keeps s₀ (setOwner s p bound c) :=
  .foldl unitSet_keeps h

theorem oppBound_keeps {p : Part} (h : Keeps s₀ s) : Keeps s₀ (oppBound s p) := .upd h

theorem exePartBind_keeps {r : CmdRef} {v : Nat} (h : Keeps s₀ s) : Keeps s₀ (exePartBind s r v) := by
  unfold exePartBind
  extract_lets
  split
  · exact finishCmd_keeps h
  · exact finishCmd_keeps (oppBound_keeps (partAdd_keeps (setOwner_keeps (tilesUpd_keeps (.foldl bringUp_keeps h)))))

theorem execPartBind_keeps {ctx qid : Nat} (h : Keeps s₀ s) : KeepsOut s₀ (execPartBind ctx qid s) :=
  ringCmd_keeps (needFw_keeps exePartBind_keeps) h

theorem exePartUnbind_keeps {r : CmdRef} {v : Nat} (h : Keeps s₀ s) : Keeps s₀ (exePartUnbind s r v) := by
  unfold exePartUnbind
  extract_lets
  split
  · exact finishCmd_keeps h
  · split
    · exact finishCmd_keeps h
    · exact .ite (finishCmd_keeps h) (partBurnish_keeps (setJob_keeps h))

theorem execPartUnbind_keeps {ctx qid : Nat} (h : Keeps s₀ s) : KeepsOut s₀ (execPartUnbind ctx qid s) :=
  ringCmd_keeps exePartUnbind_keeps h

theorem exePartQuery_keeps {r : CmdRef} {v : Nat} (h : Keeps s₀ s) : Keeps s₀ (exePartQuery s r v) := by
  unfold exePartQuery
  extract_lets
  split
  · exact finishCmd_keeps h
  · split <;> exact finishRes_keeps h

theorem execPartQuery_keeps {ctx qid : Nat} (h : Keeps s₀ s) : KeepsOut s₀ (execPartQuery ctx qid s) :=
  ringCmd_keeps exePartQuery_keeps h

theorem exeStepConfig_keeps {ev : List LineEv} {r : CmdRef} {v : Nat} (h : Keeps s₀ s) : Keeps s₀ (exeStepConfig ev s r v) := by
  unfold exeStepConfig
  extract_lets _ _ _ m
  have hm : Keeps s₀ m.s := ctxRead_keeps h
  split
  · exact finishCmd_keeps h
  · split
    · exact finishCmd_keeps h
    · split
      · exact h
      · split
        · exact finishDet_keeps hm
        · split
          · exact finishCmd_keeps hm
          · exact .ite (finishCmd_keeps hm) (finishCmd_keeps (tilesUpd_keeps (partSet_keeps hm)))

theorem execStepConfig_keeps {ctx qid : Nat} {ev : List LineEv} (h : Keeps s₀ s) : KeepsOut s₀ (execStepConfig ctx qid ev s) :=
  ringCmd_keeps exeStepConfig_keeps h

theorem runStart_keeps {r : CmdRef} {p : Part} {o : Nat} {i : PlateInfo} {args : List Nat} (h : Keeps s₀ s) :
    Keeps s₀ (runStart s r p o i args) :=
    setJob_keeps (lseqReset_keeps (tilesUpd_keeps (partRunning_keeps (partSet_keeps h))))

theorem exeRun_keeps {ev : List LineEv} {r : CmdRef} {v : Nat} (h : Keeps s₀ s) : Keeps s₀ (exeRun ev s r v) := by
  unfold exeRun
  extract_lets _ _ m
  have hm : Keeps s₀ m.s := ctxRead_keeps h
  split
  · split
    · exact finishCmd_keeps h
    · split
      · exact finishCmd_keeps h
      · split
        · exact finishCmd_keeps h
        · exact .ite h (.ite (runStart_keeps h) (.ite h (.ite (finishDet_keeps hm) (runStart_keeps hm))))
  · exact finishCmd_keeps h

theorem execRun_keeps {ctx qid : Nat} {ev : List LineEv} (h : Keeps s₀ s) : KeepsOut s₀ (execRun ctx qid ev s) :=
  ringCmd_keeps exeRun_keeps h

theorem execRunComplete_keeps {t : Nat} (h : Keeps s₀ s) : KeepsOut s₀ (execRunComplete t s) := by
  unfold execRunComplete
  split
  · exact .next h
  · split
    · exact .next h
    · extract_lets s0
      have h0 : Keeps s₀ s0 := failStopped_keeps h
      split
      · exact .next h0
      · split
        · exact .next h0
        · extract_lets _ _ _ s2
          have h2 : Keeps s₀ s2 := finishJob_keeps (tilesUpd_keeps (partRunning_keeps (partSet_keeps h0)))
          exact .ite (.next (partBurnish_keeps h2)) (.next h2)

theorem clearWays_keeps {p : Part} (h : Keeps s₀ s) : Keeps s₀ (clearWays s p) := by
  unfold clearWays
  exact wayLines_keeps h

theorem execPartBurnGo_keeps {w : Writer} {u : UnitId} {t0 log2n : Nat} (h : Keeps s₀ s) :
    KeepsOut s₀ (execPartBurnGo w u t0 log2n s) := by
  unfold execPartBurnGo
  split
  · exact .next h
  · extract_lets _ s
    have hs : Keeps s₀ s := .upd h
    split
    · exact .next hs
    · exact .ite (.next hs) (.next (partSet_keeps (clearWays_keeps (tilesUpd_keeps (leaveAll_keeps hs)))))

theorem postPartFree_keeps {p : Part} (h : Keeps s₀ s) : Keeps s₀ (postPartFree s p) := postNamed_keeps h

theorem execTileClearDone_keeps {t0 : Nat} (h : Keeps s₀ s) : KeepsOut s₀ (execTileClearDone t0 s) := by
  unfold execTileClearDone
  split
  · exact .next h
  · split
    · exact .next h
    · exact .next (.foldl finishJob_keeps (postPartFree_keeps (.upd (setOwner_keeps (tilesUpd_keeps h)))))

theorem dropShards_keeps {c : Nat} (h : Keeps s₀ s) : Keeps s₀ (dropShards s c) := .upd h

theorem dropFrames_keeps {c : Nat} (h : Keeps s₀ s) : Keeps s₀ (dropFrames s c) := .foldl releaseUnmapped_keeps h

theorem dropKeys_keeps {c : Nat} (h : Keeps s₀ s) : Keeps s₀ (dropKeys s c) :=
  .foldl (fun k => .ite k (.upd (slotSet_keeps k))) (.upd h)

theorem burnSet_keeps {c bit : Nat} (h : Keeps s₀ s) : Keeps s₀ (burnSet s c bit) := ctxSet_keeps h

theorem burnEnd_keeps {c : Nat} (h : Keeps s₀ s) : Keeps s₀ (burnEnd s c) := by
  unfold burnEnd
  extract_lets _ _ s1
  have h1 : Keeps s₀ s1 := by
    dsimp only [s1]
    split
    · exact ctxSet_keeps h
    · exact finishJob_keeps (ctxSet_keeps h)
  exact .ite h1 (funcSet_keeps h1)

theorem burnStep_keeps {c : Nat} (h : Keeps s₀ s) : Keeps s₀ (burnStep s c) := by
  unfold burnStep
  extract_lets _ s1 s1' s1''
  have h1 : Keeps s₀ s1 := .foldl partBurnish_keeps h
  have h1' : Keeps s₀ s1' := dropShards_keeps (closeHandles_keeps h)
  have h1'' : Keeps s₀ s1'' := dropFrames_keeps h
  split
  · exact .ite (burnSet_keeps h1) h1
  · split
    · exact .ite h1' (burnSet_keeps h1')
    · split
      · exact .ite h1'' (burnSet_keeps h1'')
      · exact .ite (burnSet_keeps (dropKeys_keeps h)) (burnEnd_keeps h)

theorem execContextBurnish_keeps {ctx : Nat} (h : Keeps s₀ s) : KeepsOut s₀ (execContextBurnish ctx s) :=
  .ite (.next h) (.next (burnStep_keeps h))

theorem execBurnStuck_keeps {part : Bool} {n : Nat} (h : Keeps s₀ s) : KeepsOut s₀ (execBurnStuck part n s) := by
  unfold execBurnStuck
  split
  · split
    · exact .next h
    · exact .ite (.next h) (.next (postNamed_keeps h))
  · exact .ite (.next h) (.next (postNamed_keeps h))

/-! ### Machine/Subst -/

theorem substSwitch_keeps {c t : Nat} (h : Keeps s₀ s) : Keeps s₀ (substSwitch s c t) := .upd h

theorem substCommit_keeps {tid : Nat} (h : Keeps s₀ s) : Keeps s₀ (substCommit s tid) := by
  unfold substCommit
  split
  · exact h
  · exact .upd (txnSet_keeps h)

theorem substTxnDone_keeps {tid : Nat} (h : Keeps s₀ s) : Keeps s₀ (substTxnDone s tid) := .upd h

theorem substCold_keeps {c t : Nat} (h : Keeps s₀ s) : Keeps s₀ (substCold s c t) := fatalOneAt_keeps (substSwitch_keeps h)

theorem substBackoff_keeps {c : Nat} (h : Keeps s₀ s) : Keeps s₀ (substBackoff s c) := .ite (outUpd_keeps h) (.upd h)

theorem substOpenDone_keeps {c : Nat} (h : Keeps s₀ s) : Keeps s₀ (substOpenDone s c) := .upd h

theorem substOpen_keeps {c ltile mode : Nat} {retireOld : Bool} (h : Keeps s₀ s) : Keeps s₀ (substOpen s c ltile mode retireOld) := by
  unfold substOpen
  extract_lets
  split
  · exact substSet_keeps (substBackoff_keeps h)
  · rename_i e
    extract_lets _ s2
    have h2 : Keeps s₀ s2 := substOpenDone_keeps (txnOpen_keeps h e)
    exact .ite (substSet_keeps h2) (substSet_keeps (substCold_keeps (substTxnDone_keeps h2)))

theorem execSubstGo_keeps {c : Nat} {w : Writer} {ltile mode : Nat} {retireOld : Bool} (h : Keeps s₀ s) :
    KeepsOut s₀ (execSubstGo c w ltile mode retireOld s) := by
  unfold execSubstGo
  split
  · exact .next h
  · extract_lets _ s
    have hs : Keeps s₀ s := .upd h
    split
    · exact .next (substSet_keeps (substOpenDone_keeps hs))
    · exact .next (substOpen_keeps hs)

theorem substRetry_keeps {c : Nat} (h : Keeps s₀ s) : Keeps s₀ (substRetry s c) := by
  unfold substRetry
  extract_lets
  split
  · exact h
  · split
    · exact substSet_keeps (substOpenDone_keeps h)
    · exact substOpen_keeps (outUpd_keeps h)

theorem execSubstCancel_keeps {c : Nat} {w : Writer} (h : Keeps s₀ s) : KeepsOut s₀ (execSubstCancel c w s) := by
  unfold execSubstCancel
  split
  · exact .next h
  · split
    · exact .next h
    · exact .ite (.next (txnAbort_keeps h)) (.next h)

theorem execLiveSubstStart_keeps {c : Nat} (h : Keeps s₀ s) : KeepsOut s₀ (execLiveSubstStart c s) := by
  unfold execLiveSubstStart
  extract_lets
  split
  · split
    · exact .next h
    · split
      · exact .next (tileSramUe_keeps (txnAbort_keeps h))
      · exact .next (substSet_keeps (.upd h))
  · exact .next h

theorem execLiveSubstCommit_keeps {c : Nat} {ok : Bool} (h : Keeps s₀ s) : KeepsOut s₀ (execLiveSubstCommit c ok s) := by
  unfold execLiveSubstCommit
  extract_lets
  split
  · split
    · exact .next (txnAbort_keeps h)
    · exact .next (.foldl reqDeliver_keeps (substSet_keeps (substCommit_keeps (substSwitch_keeps h))))
  · exact .next h

theorem execSubstClearDone_keeps {c : Nat} (h : Keeps s₀ s) : KeepsOut s₀ (execSubstClearDone c s) := by
  unfold execSubstClearDone
  extract_lets _ _ _ _ _ s2
  have h2 : Keeps s₀ s2 := setUState_keeps (.upd h)
  exact .ite (.next h) (.next (unitEvt_keeps (substSet_keeps (.ite (finishReset_keeps h2) h2))))

/-! ### Machine/GroupCmds -/

theorem sendCtrl_keeps {g : Group} {src dst ctype step lseq : Nat} {body : List Byte} (h : Keeps s₀ s) :
    Keeps s₀ (sendCtrl s g src dst ctype step lseq body) :=
    sendFrames_keeps h

theorem groupAdvance_keeps {gix : Nat} (h : Keeps s₀ s) : Keeps s₀ (groupAdvance s gix) := by
  unfold groupAdvance
  split
  · exact h
  · extract_lets _ _ s1
    have h1 : Keeps s₀ s1 := .ite (.foldl sendCtrl_keeps (groupSet_keeps h)) h
    exact .ite h (.ite (.foldl joinDone_keeps (groupUpd_keeps h1)) h1)

theorem joinApply_keeps {gix node : Nat} {f : UFrame} (h : Keeps s₀ s) : Keeps s₀ (joinApply s gix node f) := by
  unfold joinApply
  split
  · exact h
  · exact .ite (groupFail_keeps h) (.ite h (groupAdvance_keeps (groupSet_keeps h)))

theorem keyconfApply_keeps {gix node : Nat} {tag : List Byte} (h : Keeps s₀ s) : Keeps s₀ (keyconfApply s gix node tag) := by
  unfold keyconfApply
  split
  · exact h
  · exact .ite (groupFail_keeps h) (groupAdvance_keeps (groupSet_keeps h))

theorem groupBind_keeps {c : Nat} {d : GroupDesc} {progs : Map (List Nat)} (h : Keeps s₀ s) : Keeps s₀ (groupBind s c d progs).1 := by
  unfold groupBind
  dsimp only
  exact .upd (groupSet_keeps h)

theorem groupAnnounce_keeps {gix : Nat} (h : Keeps s₀ s) : Keeps s₀ (groupAnnounce s gix) := by
  unfold groupAnnounce
  split
  · exact h
  · exact .foldl joinApply_keeps (.foldl sendCtrl_keeps (.upd h))

theorem memberJoin_keeps {r : CmdRef} {gix o : Nat} {p : Part} {d : GroupDesc} {first : Bool} (h : Keeps s₀ s) :
    Keeps s₀ (memberJoin s r gix o p d first) := by
  unfold memberJoin
  extract_lets _ _ s1 s2
  have h1 : Keeps s₀ s1 := groupUpd_keeps (setJob_keeps h)
  have h2 : Keeps s₀ s2 := .ite (groupAnnounce_keeps h1) h1
  split
  · exact h2
  · exact .ite (finishCmd_keeps h2) (groupAdvance_keeps h2)

theorem exeGroupJoin_keeps {progs : Map (List Nat)} {ev : List LineEv} {r : CmdRef} {v : Nat} (h : Keeps s₀ s) :
    Keeps s₀ (exeGroupJoin progs ev s r v) := by
  unfold exeGroupJoin
  extract_lets
  split
  · exact finishCmd_keeps h
  · split
    · exact finishCmd_keeps h
    · split
      · exact finishCmd_keeps h
      · split
        · exact h
        · extract_lets m
          have hm : Keeps s₀ m.s := ctxRead_keeps h
          split
          · exact finishDet_keeps hm
          · split
            · exact finishCmd_keeps hm
            · split
              · exact finishCmd_keeps hm
              · split
                · exact finishCmd_keeps hm
                · split
                  · exact finishCmd_keeps hm
                  · split
                    · exact memberJoin_keeps hm
                    · exact .ite (finishCmd_keeps hm) (memberJoin_keeps (groupBind_keeps hm))

theorem execGroupJoin_keeps {ctx qid : Nat} {progs : List (Nat × List Nat)} {ev : List LineEv} (h : Keeps s₀ s) :
    KeepsOut s₀ (execGroupJoin ctx qid progs ev s) :=
    fabNext_keeps (ringRow_keeps (needFw_keeps exeGroupJoin_keeps) h)

theorem exeGroupLeave_keeps {r : CmdRef} {v : Nat} (h : Keeps s₀ s) : Keeps s₀ (exeGroupLeave s r v) := by
  unfold exeGroupLeave
  split
  · split
    · exact finishCmd_keeps h
    · exact .ite (finishCmd_keeps h) (finishCmd_keeps (memberLeave_keeps h))
  · exact finishCmd_keeps h

theorem execGroupLeave_keeps {ctx qid : Nat} (h : Keeps s₀ s) : KeepsOut s₀ (execGroupLeave ctx qid s) :=
  fabNext_keeps (ringRow_keeps exeGroupLeave_keeps h)

theorem memUpd_keeps {gix r : Nat} {f : LocalMem → LocalMem} (h : Keeps s₀ s) : Keeps s₀ (memUpd s gix r f) := groupUpd_keeps h

theorem closeMember_keeps {gix r : Nat} (h : Keeps s₀ s) : Keeps s₀ (closeMember s gix r) := by
  unfold closeMember
  split
  · exact h
  · extract_lets _ _ _ s2 s3
    have h2 : Keeps s₀ s2 := .foldl sendCtrl_keeps (partUpd_keeps (memUpd_keeps h))
    have h3 : Keeps s₀ s3 := groupUpd_keeps h2
    split
    · exact h2
    · split
      · exact h3
      · exact .upd h3

theorem tryAck_keeps {gix r : Nat} (h : Keeps s₀ s) : Keeps s₀ (tryAck s gix r) := by
  unfold tryAck
  split
  · exact h
  · split
    · exact h
    · exact .ite h (.ite (closeMember_keeps h) (sendCtrl_keeps (memUpd_keeps h)))

theorem applyDecision_keeps {gix r : Nat} {commit : Bool} {step : Nat} (h : Keeps s₀ s) :
    Keeps s₀ (applyDecision s gix r commit step) := by
  unfold applyDecision
  split
  · exact h
  · split
    · exact h
    · extract_lets s1
      have h1 : Keeps s₀ s1 := memUpd_keeps h
      exact tryAck_keeps (.foldl sendCtrl_keeps (.ite (commitPart_keeps h1) (abortPart_keeps h1)))

theorem groupDecide_keeps {gix : Nat} {ok : Bool} {step : Nat} (h : Keeps s₀ s) : Keeps s₀ (groupDecide s gix ok step) := by
  unfold groupDecide
  split
  · exact h
  · extract_lets _ s1 s2 _ s1'
    have h1 : Keeps s₀ s1 := groupSet_keeps h
    have h2 : Keeps s₀ s2 := by
      dsimp only [s2]
      split
      · exact h1
      · split
        · exact h1
        · exact txnSet_keeps h1
    have h1' : Keeps s₀ s1' := by
      dsimp only [s1']
      split
      · exact h
      · exact txnAbort_keeps h
    exact .ite (applyDecision_keeps (.upd h2)) (applyDecision_keeps h1')

theorem tryForward_keeps {gix r : Nat} (h : Keeps s₀ s) : Keeps s₀ (tryForward s gix r) := by
  unfold tryForward
  split
  · exact h
  · split
    · exact h
    · exact .ite h (.ite (groupDecide_keeps h) (sendCtrl_keeps (memUpd_keeps h)))

theorem closedApply_keeps {gix r step : Nat} (h : Keeps s₀ s) : Keeps s₀ (closedApply s gix r step) := by
  unfold closedApply
  split
  · exact h
  · exact closeMember_keeps (.ite (settleVote_keeps h) h)

theorem voteRefused_keeps {t0 : Nat} (h : Keeps s₀ s) : Keeps s₀ (voteRefused s t0) := partUpd_keeps (abortPart_keeps h)

theorem openGroupTxn_keeps {gix : Nat} {m : LocalMem} {p : Part} (h : Keeps s₀ s) {t : State} (e : openGroupTxn s gix m p = some t) :
    Keeps s₀ t := by
  unfold openGroupTxn at e
  split at e
  · cases e
    exact h
  · obtain ⟨⟨u, tid⟩, ht, rfl⟩ := Option.map_eq_some_iff.mp e
    have hu : Keeps s₀ u := txnOpen_keeps h ht
    refine groupUpd_keeps ?_
    split
    · exact txnSet_keeps hu
    · exact hu

theorem castVote_keeps {t0 gix : Nat} (h : Keeps s₀ s) : Keeps s₀ (castVote s t0 gix) := by
  unfold castVote
  split
  · exact h
  · split
    · exact h
    · split
      · exact voteRefused_keeps h
      · split
        · exact h
        · split
          · exact h
          · split
            · exact h
            · split
              · exact voteRefused_keeps h
              · split
                · exact h
                · split
                  · exact h
                  · rename_i e
                    exact tryForward_keeps (partUpd_keeps (memUpd_keeps (openGroupTxn_keeps h e)))

theorem sendQuery_keeps {t0 gix : Nat} (h : Keeps s₀ s) : Keeps s₀ (sendQuery s t0 gix) := by
  unfold sendQuery
  split
  · exact h
  · split
    · exact h
    · split
      · exact .ite (sendCtrl_keeps h) h
      · exact h

theorem queryApply_keeps {gix : Nat} {f : UFrame} (h : Keeps s₀ s) : Keeps s₀ (queryApply s gix f) := by
  unfold queryApply
  split
  · exact h
  · exact .ite (sendCtrl_keeps h) (sendCtrl_keeps (.ite (groupDecide_keeps h) h))

theorem voteApply_keeps {gix : Nat} {f : UFrame} (h : Keeps s₀ s) : Keeps s₀ (voteApply s gix f) := by
  unfold voteApply
  split
  · exact h
  · extract_lets
    split
    · exact queryApply_keeps h
    · split
      · exact h
      · split
        · exact tryForward_keeps (memUpd_keeps h)
        · exact applyDecision_keeps h
        · exact tryAck_keeps (memUpd_keeps h)
        · exact closedApply_keeps h
        · exact h

theorem execTransactionTimeout_keeps {w : TxnTimer} (h : Keeps s₀ s) : KeepsOut s₀ (execTransactionTimeout w s) := by
  unfold execTransactionTimeout
  split
  · split
    · split
      · exact .next h
      · split
        · refine fabNext_keeps ?_
          split
          · exact groupDecide_keeps (txnAbort_keeps h)
          · exact txnAbort_keeps h
        · split
          · split
            · refine fabNext_keeps ?_
              split
              · exact sendQuery_keeps h
              · exact h
            · exact .next (txnAbort_keeps h)
          · exact .next (txnAbort_keeps h)
    · exact .next h
  · split
    · exact .ite (.next (txnSet_keeps h)) (.next h)
    · exact .next h
  · split
    · exact .next (txnAbort_keeps h)
    · exact .next h

/-! ### Machine/FabCmds -/

theorem filterDrop_keeps {p : Nat} (h : Keeps s₀ s) : Keeps s₀ (filterDrop s p) := fportSet_keeps h

theorem oowDrop_keeps {p : Nat} (h : Keeps s₀ s) : Keeps s₀ (oowDrop s p) := fportSet_keeps h

theorem answerGone_keeps {node group : Nat} (h : Keeps s₀ s) : Keeps s₀ (answerGone s node group) := sendFrames_keeps h

theorem rxPre_keeps {hd : RxHead} (h : Keeps s₀ s) : Keeps s₀ (rxPre s hd).1 := by
  unfold rxPre
  split
  · exact .pair h
  · dsimp only
    split
    · exact .pair (fportSet_keeps h)
    · exact .iteFst (.pair (filterDrop_keeps (fportSet_keeps h))) (.pair (fportSet_keeps h))

theorem rxAck_keeps {hd : RxHead} (h : Keeps s₀ s) : Keeps s₀ (rxAck s hd) := .foldl dataAcked_keeps (pathSet_keeps h)

theorem sendAck_keeps {node p : Nat} (h : Keeps s₀ s) : Keeps s₀ (sendAck s node p) := sendPlain_keeps h

theorem sendNack_keeps {node p : Nat} (h : Keeps s₀ s) : Keeps s₀ (sendNack s node p) := sendPlain_keeps h

theorem sendProbe_keeps {node p typ : Nat} (h : Keeps s₀ s) : Keeps s₀ (sendProbe s node p typ) := sendPlain_keeps h

theorem rxMark_keeps {hd : RxHead} {d : Nat} (h : Keeps s₀ s) : Keeps s₀ (rxMark s hd d) := by
  unfold rxMark
  extract_lets _ _ s1
  have h1 : Keeps s₀ s1 := pathSet_keeps h
  exact .ite (sendAck_keeps h1) (.ite (sendNack_keeps h1) h1)

theorem dupDrop_keeps {hd : RxHead} (h : Keeps s₀ s) : Keeps s₀ (dupDrop s hd) := sendAck_keeps (fportSet_keeps h)

theorem rxSeq_keeps {hd : RxHead} {f : UFrame} {apply : State → Arrival} (h : Keeps s₀ s)
    (happly : ∀ {s}, Keeps s₀ s → KeepsArr s₀ (apply s)) : Keeps s₀ (rxSeq s hd f apply) := by
  unfold rxSeq
  dsimp only
  refine .ite (dupDrop_keeps h) (.ite (oowDrop_keeps h) (.ite (dupDrop_keeps h) ?_))
  split
  · exact h
  · exact .ite h (.upd h)
  · rename_i e
    exact rxMark_keeps (.ofDone (happly h) e)
  · rename_i e
    exact rxMark_keeps (fportSet_keeps (.ofDup (happly h) e))

theorem tagFailed_keeps {p : Nat} {ctx : Option Nat} (h : Keeps s₀ s) : Keeps s₀ (tagFailed s p ctx) :=
  secAlarm_keeps (unitEvt_keeps (fportSet_keeps h))

theorem rxGroup_keeps {hd : RxHead} {g : Group} {ctype : Nat} {apply : UFrame → State → Arrival} (h : Keeps s₀ s)
    (happly : ∀ {x0 s}, Keeps s₀ s → KeepsArr s₀ (apply x0 s)) : Keeps s₀ (rxGroup s hd g ctype apply) := by
  unfold rxGroup
  split
  · exact oowDrop_keeps h
  · split
    · exact .ite h (tagFailed_keeps h)
    · exact .ite h (rxSeq_keeps (rxAck_keeps h) happly)

theorem rxUnbound_keeps {hd : RxHead} {ctype : Nat} {apply : UFrame → State → Arrival} (h : Keeps s₀ s)
    (happly : ∀ {x0 s}, Keeps s₀ s → KeepsArr s₀ (apply x0 s)) : Keeps s₀ (rxUnbound s hd ctype apply) := by
  unfold rxUnbound
  split
  · exact .ite (filterDrop_keeps h) (.ite (oowDrop_keeps h) (.ite h (rxSeq_keeps (rxAck_keeps h) happly)))
  · exact answerGone_keeps (filterDrop_keeps h)

theorem rxFrame_keeps {hd : RxHead} {ctype : Nat} {apply : UFrame → State → Arrival} (h : Keeps s₀ s)
    (happly : ∀ {x0 s}, Keeps s₀ s → KeepsArr s₀ (apply x0 s)) : Keeps s₀ (rxFrame s hd ctype apply) := by
  unfold rxFrame
  extract_lets r
  have hr : Keeps s₀ r.1 := rxPre_keeps h
  split
  · exact hr
  · split
    · exact rxUnbound_keeps hr happly
    · exact rxGroup_keeps hr happly

theorem rxParked_keeps {k : Nat} {ok : UFrame → Bool} {apply : UFrame → State → Arrival} (h : Keeps s₀ s)
    (happly : ∀ {x0 s}, Keeps s₀ s → KeepsArr s₀ (apply x0 s)) : Keeps s₀ (rxParked s k ok apply) := by
  unfold rxParked
  split
  · exact h
  · dsimp only
    refine .ite h ?_
    split
    · exact h
    · exact h
    · rename_i e
      have k := Keeps.ofDone (happly (.upd h)) e
      exact .ite (rxMark_keeps k) k
    · rename_i e
      have k := Keeps.ofDup (happly (.upd h)) e
      exact .ite (rxMark_keeps k) k

theorem rxLocal_keeps {k : Nat} {ok : UFrame → Bool} {apply : UFrame → State → Arrival} (h : Keeps s₀ s)
    (happly : ∀ {x0 s}, Keeps s₀ s → KeepsArr s₀ (apply x0 s)) : Keeps s₀ (rxLocal s k ok apply) := by
  unfold rxLocal
  split
  · exact rxParked_keeps h happly
  · refine .ite h ?_
    split
    · exact h
    · exact h
    · rename_i e
      exact dataAcked_keeps (.ofDone (happly (.upd h)) e)
    · rename_i e
      exact dataAcked_keeps (.ofDup (happly (.upd h)) e)

theorem rxMsg_keeps {src : MsgSrc} {typ ctype : Nat} {apply : Nat → UFrame → State → Arrival} (h : Keeps s₀ s)
    (happly : ∀ {x0 x1 s}, Keeps s₀ s → KeepsArr s₀ (apply x0 x1 s)) : Keeps s₀ (rxMsg s src typ ctype apply) := by
  unfold rxMsg
  extract_lets
  split
  · exact .ite (rxFrame_keeps h happly) h
  · exact rxLocal_keeps h happly
  · exact h

theorem execDataFrame_keeps {src : MsgSrc} {ev : List LineEv} (h : Keeps s₀ s) : KeepsOut s₀ (execDataFrame src ev s) :=
  fabNext_keeps (rxMsg_keeps h (fun k => dataArrive_keeps k))

theorem execCreditFrame_keeps {src : MsgSrc} (h : Keeps s₀ s) : KeepsOut s₀ (execCreditFrame src s) :=
  fabNext_keeps (rxMsg_keeps h (fun k => creditArrive_keeps k))

theorem ctrlOnce_keeps {f : UFrame} {apply : Nat → State → State} (h : Keeps s₀ s)
    (happly : ∀ {x0 s}, Keeps s₀ s → Keeps s₀ (apply x0 s)) : KeepsArr s₀ (ctrlOnce f s apply) := by
  unfold ctrlOnce
  split
  · exact h
  · extract_lets
    split
    · exact h
    · exact happly (.upd h)

theorem execJoinMsg_keeps {src : MsgSrc} (h : Keeps s₀ s) : KeepsOut s₀ (execJoinMsg src s) := by
  unfold execJoinMsg
  refine fabNext_keeps (rxMsg_keeps h (fun k => ?_))
  split
  · exact .upd k
  · exact ctrlOnce_keeps k joinApply_keeps

theorem execKeyconf_keeps {src : MsgSrc} (h : Keeps s₀ s) : KeepsOut s₀ (execKeyconf src s) :=
  fabNext_keeps (rxMsg_keeps h (fun k => ctrlOnce_keeps k keyconfApply_keeps))

theorem voteRow_keeps {src : MsgSrc} {ctype : Nat} (h : Keeps s₀ s) : Keeps s₀ (voteRow src ctype s) :=
  rxMsg_keeps h (fun k => ctrlOnce_keeps k voteApply_keeps)

theorem execVoteMsg_keeps {src : MsgSrc} (h : Keeps s₀ s) : KeepsOut s₀ (execVoteMsg src s) := by
  unfold execVoteMsg
  refine fabNext_keeps ?_
  split
  · exact castVote_keeps h
  · exact voteRow_keeps h

theorem execDecision_keeps {src : MsgSrc} (h : Keeps s₀ s) : KeepsOut s₀ (execDecision src s) := fabNext_keeps (voteRow_keeps h)

theorem execVack_keeps {src : MsgSrc} (h : Keeps s₀ s) : KeepsOut s₀ (execVack src s) := by
  unfold execVack
  refine fabNext_keeps ?_
  split
  · split
    · exact tryAck_keeps h
    · exact h
  · exact voteRow_keeps h

theorem execClosed_keeps {src : MsgSrc} (h : Keeps s₀ s) : KeepsOut s₀ (execClosed src s) := fabNext_keeps (voteRow_keeps h)

theorem execDquery_keeps {src : MsgSrc} (h : Keeps s₀ s) : KeepsOut s₀ (execDquery src s) := by
  unfold execDquery
  refine fabNext_keeps ?_
  split
  · exact sendQuery_keeps h
  · exact voteRow_keeps h

theorem execFailMsg_keeps {src : MsgSrc} (h : Keeps s₀ s) : KeepsOut s₀ (execFailMsg src s) :=
  fabNext_keeps (rxMsg_keeps h (fun k => ctrlOnce_keeps k (fun k1 => .ite (groupFail_keeps k1) (failLaunch_keeps k1))))

theorem execGoneMsg_keeps {src : MsgSrc} (h : Keeps s₀ s) : KeepsOut s₀ (execGoneMsg src s) := by
  unfold execGoneMsg
  refine fabNext_keeps (rxMsg_keeps h (fun k => ?_))
  refine ctrlOnce_keeps k (fun k1 => ?_)
  split
  · exact groupFail_keeps k1
  · exact k1

theorem execAckFrame_keeps {hd : RxHead} (h : Keeps s₀ s) : KeepsOut s₀ (execAckFrame hd s) := by
  unfold execAckFrame
  split
  · exact .next h
  · extract_lets r
    have hr : Keeps s₀ r.1 := rxPre_keeps h
    exact fabNext_keeps (.ite hr (.ite (rxAck_keeps hr) (oowDrop_keeps hr)))

theorem resend_keeps {node p : Nat} {e : TxFrame} (h : Keeps s₀ s) : Keeps s₀ (resend s node p e) :=
  .ite h (frameTx_keeps (pathSet_keeps h))

theorem execNackFrame_keeps {hd : RxHead} {runs : List (Nat × Nat)} (h : Keeps s₀ s) : KeepsOut s₀ (execNackFrame hd runs s) := by
  unfold execNackFrame
  split
  · exact .next h
  · extract_lets r
    have hr : Keeps s₀ r.1 := rxPre_keeps h
    exact .ite (.next hr) (.ite (.next (oowDrop_keeps hr)) (fabNext_keeps (.foldl resend_keeps (fportSet_keeps (rxAck_keeps hr)))))

theorem pathRise_keeps {node p : Nat} (h : Keeps s₀ s) : Keeps s₀ (pathRise s node p) :=
  .ite (serveFabric_keeps (pathSet_keeps h)) h

theorem probeHeard_keeps {hd : RxHead} {next : Nat} (h : Keeps s₀ s) : Keeps s₀ (probeHeard s hd next) := pathSet_keeps h

theorem rxPlain_keeps {hd : RxHead} (h : Keeps s₀ s) : Keeps s₀ (rxPlain s hd).1 := by
  unfold rxPlain
  dsimp only
  exact .iteFst (.pair (rxPre_keeps h)) (.pair (.ite (rxAck_keeps (rxPre_keeps h)) (rxPre_keeps h)))

theorem execProbe_keeps {hd : RxHead} {next : Nat} {avail : Bool} (h : Keeps s₀ s) : KeepsOut s₀ (execProbe hd next avail s) := by
  unfold execProbe
  split
  · exact .next h
  · extract_lets r
    have hr : Keeps s₀ r.1 := rxPlain_keeps h
    split
    · exact .next hr
    · exact fabNext_keeps (pathRise_keeps (sendProbe_keeps (.ite (probeHeard_keeps hr) hr)))

theorem execProbeRsp_keeps {hd : RxHead} {next : Nat} {avail : Bool} (h : Keeps s₀ s) :
    KeepsOut s₀ (execProbeRsp hd next avail s) := by
  unfold execProbeRsp
  split
  · exact .next h
  · extract_lets r
    have hr : Keeps s₀ r.1 := rxPlain_keeps h
    split
    · exact .next hr
    · split
      · exact .next (oowDrop_keeps hr)
      · split
        · exact .next hr
        · exact .ite (fabNext_keeps (pathRise_keeps (probeHeard_keeps hr))) (fabNext_keeps (pathDown_keeps hr))

theorem execProbeInterval_keeps {node p : Nat} (h : Keeps s₀ s) : KeepsOut s₀ (execProbeInterval node p s) :=
  .ite (.next h) (fabNext_keeps (pathRise_keeps (sendProbe_keeps (pathSet_keeps h))))

theorem execAckInterval_keeps {node p : Nat} (h : Keeps s₀ s) : KeepsOut s₀ (execAckInterval node p s) := by
  unfold execAckInterval
  extract_lets _ s1
  have h1 : Keeps s₀ s1 := .ite (sendAck_keeps h) h
  exact .ite (.next h) (fabNext_keeps (.ite h1 (sendNack_keeps h1)))

theorem execRetransmissionTimeout_keeps {node p : Nat} (h : Keeps s₀ s) : KeepsOut s₀ (execRetransmissionTimeout node p s) := by
  unfold execRetransmissionTimeout
  extract_lets
  split
  · exact .next h
  · exact .ite (fabNext_keeps (pathDown_keeps h)) (fabNext_keeps (resend_keeps (pathSet_keeps h)))

theorem nodeLost_keeps {node : Nat} (h : Keeps s₀ s) : Keeps s₀ (nodeLost s node) :=
  .foldl (fun k => .ite (groupFail_keeps k) k) (.upd h)

theorem execUnreachableLimit_keeps {node : Nat} (h : Keeps s₀ s) : KeepsOut s₀ (execUnreachableLimit node s) :=
  .ite (.next h) (fabNext_keeps (nodeLost_keeps h))

theorem sakInstalled_keeps {p : Nat} (h : Keeps s₀ s) : Keeps s₀ (sakInstalled s p) :=
  portProbe_keeps (.ite (fportSet_keeps h) (unitEvt_keeps (fportSet_keeps h)))

theorem linkLost_keeps {p : Nat} (h : Keeps s₀ s) : Keeps s₀ (linkLost s p) :=
  portDown_keeps (.ite (fportSet_keeps h) (unitEvt_keeps (fportSet_keeps h)))

theorem execFabricLinkUp_keeps {p : Nat} (h : Keeps s₀ s) : KeepsOut s₀ (execFabricLinkUp p s) := by
  unfold execFabricLinkUp
  extract_lets _ s1
  have h1 : Keeps s₀ s1 := unitEvt_keeps (fportSet_keeps h)
  exact .ite (.next h) (fabNext_keeps (.ite (sakInstalled_keeps h1) h1))

theorem execFabricLinkLoss_keeps {p : Nat} (h : Keeps s₀ s) : KeepsOut s₀ (execFabricLinkLoss p s) :=
  .ite (.next h) (fabNext_keeps (linkLost_keeps h))

theorem mkaTo_keeps {p m : Nat} (h : Keeps s₀ s) : Keeps s₀ (mkaTo s p m) := .ite h (unitEvt_keeps (fportSet_keeps h))

theorem execMkpdu_keeps {p : Nat} {e : MkEv} (h : Keeps s₀ s) : KeepsOut s₀ (execMkpdu p e s) := by
  unfold execMkpdu
  split
  · exact .next h
  · extract_lets _ s1
    have h1 : Keeps s₀ s1 := fportSet_keeps h
    split
    · exact .next h1
    · split
      · exact .next (.ite (mkaTo_keeps h1) h1)
      · exact .next (.ite (mkaTo_keeps h1) h1)
      · exact fabNext_keeps (sakInstalled_keeps h1)

theorem execMkaLivePeerLoss_keeps {p : Nat} (h : Keeps s₀ s) : KeepsOut s₀ (execMkaLivePeerLoss p s) :=
  .ite (.next h) (fabNext_keeps (portDown_keeps (mkaTo_keeps h)))

theorem execFilteredFrame_keeps {p : Nat} (h : Keeps s₀ s) : KeepsOut s₀ (execFilteredFrame p s) :=
  .ite (.next h) (.next (filterDrop_keeps (fportSet_keeps h)))

theorem portSync_keeps {p : Nat} (h : Keeps s₀ s) : Keeps s₀ (portSync s p) := .ite (linkLost_keeps h) (.ite (fportSet_keeps h) h)

theorem nodeChanged_keeps {old : State} {node : Nat} (h : Keeps s₀ s) : Keeps s₀ (nodeChanged old s node) := by
  unfold nodeChanged
  extract_lets _ _ _ s2
  have h2 : Keeps s₀ s2 := .foldl (fun k => .ite (pathProbe_keeps k) k) (.foldl pathDown_keeps h)
  exact .ite (nodeLost_keeps h2) h2

theorem execAllowWrite_keeps {w : Writer} {e : Nat} {v : RegPart} (h : Keeps s₀ s) : KeepsOut s₀ (execAllowWrite w e v s) :=
  .ite (.next h) (fabNext_keeps (.foldl nodeChanged_keeps (.upd h)))

theorem execUctCfgWrite_keeps {w : Writer} {off width : Nat} {v : W64} (h : Keeps s₀ s) :
    KeepsOut s₀ (execUctCfgWrite w off width v s) :=
    .ite (.next h) (fabNext_keeps (.foldl portSync_keeps (.upd h)))

theorem execFpCtlWrite_keeps {w : Writer} {p : Nat} {v : W32} (h : Keeps s₀ s) : KeepsOut s₀ (execFpCtlWrite w p v s) :=
  .ite (.next h) (fabNext_keeps (portSync_keeps (fportSet_keeps h)))

theorem execFpCakWrite_keeps {w : Writer} {p : Nat} {v : W32} (h : Keeps s₀ s) : KeepsOut s₀ (execFpCakWrite w p v s) :=
  .ite (.next h) (fabNext_keeps (portSync_keeps (fportSet_keeps h)))

/-! ### Machine/KeyOps -/

theorem drawn_keeps (h : Keeps s₀ s) : Keeps s₀ (drawn s) := .upd h

theorem cakRestart_keeps {k : Nat} (h : Keeps s₀ s) : Keeps s₀ (cakRestart s k) :=
  .ite h (.foldl (fun k => .ite (portCheck_keeps (fportSet_keeps k)) k) h)

theorem slotSave_keeps {k : Nat} (h : Keeps s₀ s) : Keeps s₀ (slotSave s k) := .upd h

theorem slotInstall_keeps {k ktype use origin : Nat} {lcb vol : Bool} {key : List Byte} (h : Keeps s₀ s) :
    Keeps s₀ (slotInstall s k ktype use origin lcb vol key) :=
    cakRestart_keeps (slotSave_keeps (slotSet_keeps h))

theorem slotClear_keeps {k : Nat} (h : Keeps s₀ s) : Keeps s₀ (slotClear s k) := .ite h (.upd (slotSave_keeps (slotSet_keeps h)))

theorem deriveDevice_keeps (h : Keeps s₀ s) : Keeps s₀ (deriveDevice s) := by
  unfold deriveDevice
  split
  · exact slotClear_keeps (slotClear_keeps (slotClear_keeps h))
  · exact slotInstall_keeps (slotInstall_keeps (slotInstall_keeps h))

theorem signMsg_keeps {scalar msg : List Byte} (h : Keeps s₀ s) : Keeps s₀ (signMsg s scalar msg).1 := .pair (drawn_keeps h)

theorem akSign_keeps {msg : List Byte} (h : Keeps s₀ s) : Keeps s₀ (akSign s msg).1 := by
  unfold akSign
  dsimp only
  exact .upd (signMsg_keeps h)

theorem report_keeps {c : Option Nat} {nonce : List Byte} (h : Keeps s₀ s) : Keeps s₀ (report s c nonce).1 := by
  unfold report
  dsimp only
  exact akSign_keeps h

theorem sessionsDrop_keeps {gone : Session → Bool} (h : Keeps s₀ s) : Keeps s₀ (sessionsDrop s gone) := .upd h

theorem sessionUpd_keeps {id : Nat} {f : Session → Session} (h : Keeps s₀ s) : Keeps s₀ (sessionUpd s id f) := .upd h

/-! ### Machine/KeyCmds -/

theorem payRead_keeps {r : CmdRef} {c sp a n : Nat} {ev : List LineEv} {go : State → List Byte → State} (h : Keeps s₀ s)
    (hgo : ∀ {s x1}, Keeps s₀ s → Keeps s₀ (go s x1)) : Keeps s₀ (payRead s r c sp a n ev go) := by
  unfold payRead
  split
  · exact finishCmd_keeps h
  · split
    · exact .ite h (.ite (finishDet_keeps (devFetch_keeps h)) (hgo (devFetch_keeps h)))
    · exact .ite (finishCmd_keeps h) (hgo h)

theorem payWrite_keeps {r : CmdRef} {c sp a : Nat} {bs : List Byte} {result : Nat} {ev : List LineEv} (h : Keeps s₀ s) :
    Keeps s₀ (payWrite s r c sp a bs result ev) :=
    .ite (finishRes_keeps (dmaStore_keeps h)) (finishDet_keeps (dmaStore_keeps h))

theorem installCheck_keeps {r : CmdRef} {c ref ktype use : Nat} {right : Nat → Bool} {go : Nat → State} (h : Keeps s₀ s)
    (hgo : ∀ {x0}, Keeps s₀ (go x0)) : Keeps s₀ (installCheck s r c ref ktype use right go) := by
  unfold installCheck
  split
  · exact finishCmd_keeps h
  · split
    · exact finishCmd_keeps h
    · split
      · exact finishCmd_keeps h
      · split
        · exact finishCmd_keeps h
        · exact hgo

theorem installEnd_keeps {r : CmdRef} {k : Nat} (h : Keeps s₀ s) : Keeps s₀ (installEnd s r k) := finishRes_keeps h

theorem countGen_keeps (h : Keeps s₀ s) : Keeps s₀ (countGen s) := .upd h

theorem exeKeyGenerate_keeps {r : CmdRef} {v : Nat} (h : Keeps s₀ s) : Keeps s₀ (exeKeyGenerate s r v) := by
  unfold exeKeyGenerate
  extract_lets
  split
  · exact finishCmd_keeps h
  · exact installCheck_keeps h (.ite (finishCmd_keeps h) (installEnd_keeps (countGen_keeps (drawn_keeps (slotInstall_keeps h)))))

theorem execKeyGenerate_keeps {ctx qid : Nat} (h : Keeps s₀ s) : KeepsOut s₀ (execKeyGenerate ctx qid s) :=
  ringCmd_keeps exeKeyGenerate_keeps h

theorem deriveGo_keeps {r : CmdRef} {v k src : Nat} {blk : List Byte} (h : Keeps s₀ s) : Keeps s₀ (deriveGo s r v k src blk) :=
  .ite (finishCmd_keeps h) (installEnd_keeps (countGen_keeps (slotInstall_keeps h)))

theorem exeKeyDerive_keeps {ev : List LineEv} {r : CmdRef} {v : Nat} (h : Keeps s₀ s) : Keeps s₀ (exeKeyDerive ev s r v) := by
  unfold exeKeyDerive
  extract_lets
  split
  · exact finishCmd_keeps h
  · split
    · exact finishCmd_keeps h
    · refine installCheck_keeps h (@fun _ => ?_)
      extract_lets
      split
      · exact finishCmd_keeps h
      · exact .ite (finishCmd_keeps h) (.ite (finishCmd_keeps h) (payRead_keeps h deriveGo_keeps))

theorem execKeyDerive_keeps {ctx qid : Nat} {ev : List LineEv} (h : Keeps s₀ s) : KeepsOut s₀ (execKeyDerive ctx qid ev s) :=
  ringCmd_keeps exeKeyDerive_keeps h

theorem unwrapFail_keeps {r : CmdRef} (h : Keeps s₀ s) : Keeps s₀ (unwrapFail s r) := finishCmd_keeps (.upd h)

theorem importGo_keeps {r : CmdRef} {v k : Nat} {x : Session} {blk : List Byte} (h : Keeps s₀ s) :
    Keeps s₀ (importGo s r v k x blk) := by
  unfold importGo
  extract_lets
  split
  · exact unwrapFail_keeps h
  · exact installEnd_keeps (.upd (slotInstall_keeps (sessionUpd_keeps h)))

theorem exeKeyImport_keeps {ev : List LineEv} {r : CmdRef} {v : Nat} (h : Keeps s₀ s) : Keeps s₀ (exeKeyImport ev s r v) := by
  unfold exeKeyImport
  extract_lets c a ses right
  clear_value ses
  refine .ite (finishCmd_keeps h) (installCheck_keeps h ?_)
  split
  · exact finishCmd_keeps h
  · exact .ite (finishCmd_keeps h) (payRead_keeps h importGo_keeps)

theorem execKeyImport_keeps {ctx qid : Nat} {ev : List LineEv} (h : Keeps s₀ s) : KeepsOut s₀ (execKeyImport ctx qid ev s) :=
  ringCmd_keeps exeKeyImport_keeps h

theorem exeKeyDestroy_keeps {r : CmdRef} {v : Nat} (h : Keeps s₀ s) : Keeps s₀ (exeKeyDestroy s r v) := by
  unfold exeKeyDestroy
  extract_lets
  split
  · exact finishCmd_keeps h
  · split
    · exact finishCmd_keeps h
    · split
      · exact finishCmd_keeps h
      · exact finishCmd_keeps (slotClear_keeps h)

theorem execKeyDestroy_keeps {ctx qid : Nat} (h : Keeps s₀ s) : KeepsOut s₀ (execKeyDestroy ctx qid s) :=
  ringCmd_keeps exeKeyDestroy_keeps h

theorem exeKeyQuery_keeps {ev : List LineEv} {r : CmdRef} {v : Nat} (h : Keeps s₀ s) : Keeps s₀ (exeKeyQuery ev s r v) := by
  unfold exeKeyQuery
  extract_lets
  split
  · exact finishCmd_keeps h
  · exact .ite (finishRes_keeps h) (.ite (finishCmd_keeps h) (.ite h (payWrite_keeps h)))

theorem execKeyQuery_keeps {ctx qid : Nat} {ev : List LineEv} (h : Keeps s₀ s) : KeepsOut s₀ (execKeyQuery ctx qid ev s) :=
  ringCmd_keeps exeKeyQuery_keeps h

theorem attestGo_keeps {r : CmdRef} {v k : Nat} {inp : List Byte} {ev : List LineEv} (h : Keeps s₀ s) :
    Keeps s₀ (attestGo s r v k inp ev) :=
    .ite (payWrite_keeps (drawn_keeps h)) (payWrite_keeps (akSign_keeps h))

theorem exeKeyAttest_keeps {ev : List LineEv} {r : CmdRef} {v : Nat} (h : Keeps s₀ s) : Keeps s₀ (exeKeyAttest ev s r v) := by
  unfold exeKeyAttest
  dsimp only
  split
  · exact finishCmd_keeps h
  · have hf {st : Nat} : Keeps s₀ (finishCmd s r st) := finishCmd_keeps h
    exact .ite hf (.ite hf (.ite hf (.ite hf (.ite hf (.ite hf (.ite h (payRead_keeps h attestGo_keeps)))))))

theorem execKeyAttest_keeps {ctx qid : Nat} {ev : List LineEv} (h : Keeps s₀ s) : KeepsOut s₀ (execKeyAttest ctx qid ev s) :=
  ringCmd_keeps exeKeyAttest_keeps h

theorem exeMeasReport_keeps {ev : List LineEv} {r : CmdRef} {v : Nat} (h : Keeps s₀ s) : Keeps s₀ (exeMeasReport ev s r v) := by
  unfold exeMeasReport
  extract_lets
  split
  · exact finishCmd_keeps h
  · exact payRead_keeps h (fun k => .ite (finishCmd_keeps k) (.ite k (payWrite_keeps (report_keeps k))))

theorem execMeasReport_keeps {ctx qid : Nat} {ev : List LineEv} (h : Keeps s₀ s) : KeepsOut s₀ (execMeasReport ctx qid ev s) :=
  ringCmd_keeps exeMeasReport_keeps h

theorem mbError_keeps {st : Nat} (h : Keeps s₀ s) : Keeps s₀ (mbError s st).1 := .pair h

theorem mbGetInfo_keeps (h : Keeps s₀ s) : Keeps s₀ (mbGetInfo s).1 := .pair h

theorem sessionRoom_keeps {c : Nat} (h : Keeps s₀ s) {t : State} (e : sessionRoom s c = some t) : Keeps s₀ t := by
  unfold sessionRoom at e
  extract_lets mine s1 at e
  have h1 : ∀ {u}, s1 = some u → Keeps s₀ u := by
    intro u eu
    dsimp only [s1] at eu
    split at eu
    · cases eu
      exact h
    · split at eu
      · cases eu
        exact sessionsDrop_keeps h
      · cases eu
  clear_value s1
  split at e
  · cases e
  · split at e
    · cases e
      exact h1 rfl
    · cases e

theorem mbOpenGo_keeps {f : MbFrom} {sid : Nat} {req : List Byte} (h : Keeps s₀ s) : Keeps s₀ (mbOpenGo s f sid req).1 := by
  unfold mbOpenGo
  dsimp only
  split
  · exact mbError_keeps h
  · split
    · exact mbError_keeps h
    · rename_i e
      split
      · exact mbError_keeps h
      · exact .pair (.upd (drawn_keeps (drawn_keeps (drawn_keeps (sessionRoom_keeps h e)))))

theorem mbFinishGo_keeps {f : MbFrom} {req : List Byte} (h : Keeps s₀ s) : Keeps s₀ (mbFinishGo s f req).1 := by
  unfold mbFinishGo
  dsimp only
  split
  · exact mbError_keeps h
  · split
    · exact mbError_keeps h
    · exact .iteFst (.pair (sessionUpd_keeps h)) (mbError_keeps (sessionsDrop_keeps h))

theorem mbReportGo_keeps {f : MbFrom} {req : List Byte} (h : Keeps s₀ s) : Keeps s₀ (mbReportGo s f req).1 := by
  unfold mbReportGo
  dsimp only
  split
  · exact mbError_keeps h
  · split
    · exact mbError_keeps h
    · split
      · exact mbError_keeps h
      · exact .pair (report_keeps h)

theorem mbCloseGo_keeps {f : MbFrom} {req : List Byte} (h : Keeps s₀ s) : Keeps s₀ (mbCloseGo s f req).1 := by
  unfold mbCloseGo
  dsimp only
  split
  · exact mbError_keeps h
  · exact .pair (sessionsDrop_keeps h)

theorem mbAnswer_keeps {f : MbFrom} {sid : Nat} {req : List Byte} (h : Keeps s₀ s) : Keeps s₀ (mbAnswer s f sid req).1 := by
  unfold mbAnswer
  split
  · exact mbError_keeps h
  · split
    · exact mbGetInfo_keeps h
    · exact mbOpenGo_keeps h
    · exact mbFinishGo_keeps h
    · exact mbReportGo_keeps h
    · exact mbCloseGo_keeps h

theorem attMsgGo_keeps {r : CmdRef} {v sid : Nat} {req : List Byte} {ev : List LineEv} (h : Keeps s₀ s) :
    Keeps s₀ (attMsgGo s r v sid req ev) :=
    .ite (finishCmd_keeps h) (.ite h (payWrite_keeps (mbAnswer_keeps h)))

theorem exeAttMsg_keeps {sid : Nat} {ev : List LineEv} {r : CmdRef} {v : Nat} (h : Keeps s₀ s) : Keeps s₀ (exeAttMsg sid ev s r v) :=
  .ite h (payRead_keeps h attMsgGo_keeps)

theorem execAttMsg_keeps {ctx qid sid : Nat} {ev : List LineEv} (h : Keeps s₀ s) : KeepsOut s₀ (execAttMsg ctx qid sid ev s) :=
  ringCmd_keeps exeAttMsg_keeps h

theorem mbDoe_keeps {port : Nat} {msg : Nat → Bool} {sid : Nat} {req : List Byte} (h : Keeps s₀ s) :
    KeepsOut s₀ (mbDoe port msg sid req s) :=
    .ite (.next h) (.next (.upd (mbAnswer_keeps h)))

theorem execGetInfo_keeps {port : Nat} {req : List Byte} (h : Keeps s₀ s) : KeepsOut s₀ (execGetInfo port req s) := mbDoe_keeps h

theorem execMbOpen_keeps {port sid : Nat} {req : List Byte} (h : Keeps s₀ s) : KeepsOut s₀ (execMbOpen port sid req s) :=
  mbDoe_keeps h

theorem execMbFinish_keeps {port : Nat} {req : List Byte} (h : Keeps s₀ s) : KeepsOut s₀ (execMbFinish port req s) := mbDoe_keeps h

theorem execMbReport_keeps {port : Nat} {req : List Byte} (h : Keeps s₀ s) : KeepsOut s₀ (execMbReport port req s) := mbDoe_keeps h

theorem execMbClose_keeps {port : Nat} {req : List Byte} (h : Keeps s₀ s) : KeepsOut s₀ (execMbClose port req s) := mbDoe_keeps h

/-! ### Machine/SpdmCmds -/

theorem doeAnswer_keeps {port : Nat} {a : DoeRsp} (h : Keeps s₀ s) : Keeps s₀ (doeAnswer s port a) := .upd h

theorem spdmError_keeps {port code : Nat} (h : Keeps s₀ s) : Keeps s₀ (spdmError s port code) := doeAnswer_keeps h

theorem spdmTo_keeps {port n : Nat} (h : Keeps s₀ s) : Keeps s₀ (spdmTo s port n) := .upd h

theorem spdmReq_keeps {port stage : Nat} {go : State → State} (h : Keeps s₀ s) (hgo : ∀ {s}, Keeps s₀ s → Keeps s₀ (go s)) :
    KeepsOut s₀ (spdmReq port stage s go) :=
    .ite (.next h) (.ite (.next (spdmError_keeps h)) (.next (hgo h)))

theorem execGetVersion_keeps {port : Nat} (h : Keeps s₀ s) : KeepsOut s₀ (execGetVersion port s) :=
  spdmReq_keeps h (fun k => doeAnswer_keeps (spdmTo_keeps k))

theorem execGetCapabilities_keeps {port : Nat} (h : Keeps s₀ s) : KeepsOut s₀ (execGetCapabilities port s) :=
  spdmReq_keeps h (fun k => doeAnswer_keeps (spdmTo_keeps k))

theorem execNegotiateAlgorithms_keeps {port : Nat} {common : Bool} (h : Keeps s₀ s) :
    KeepsOut s₀ (execNegotiateAlgorithms port common s) :=
    spdmReq_keeps h (fun k => .ite (doeAnswer_keeps (spdmTo_keeps k)) (spdmError_keeps k))

theorem execGetDigests_keeps {port : Nat} (h : Keeps s₀ s) : KeepsOut s₀ (execGetDigests port s) := spdmReq_keeps h doeAnswer_keeps

theorem execGetCertificate_keeps {port off len : Nat} (h : Keeps s₀ s) : KeepsOut s₀ (execGetCertificate port off len s) :=
  spdmReq_keeps h (fun k => doeAnswer_keeps k)

theorem execChallenge_keeps {port : Nat} {nonce : List Byte} (h : Keeps s₀ s) : KeepsOut s₀ (execChallenge port nonce s) := by
  unfold execChallenge
  refine spdmReq_keeps h (fun k => ?_)
  split
  · exact spdmError_keeps k
  · exact doeAnswer_keeps (akSign_keeps (drawn_keeps k))

theorem execGetMeasurements_keeps {port : Nat} {vf : Option Nat} {index : Nat} {sign : Bool} (h : Keeps s₀ s) :
    KeepsOut s₀ (execGetMeasurements port vf index sign s) := by
  unfold execGetMeasurements
  refine spdmReq_keeps h (fun k => ?_)
  split
  · exact spdmError_keeps k
  · split
    · exact doeAnswer_keeps k
    · split
      · exact spdmError_keeps k
      · exact doeAnswer_keeps (akSign_keeps k)

theorem execKeyExchange_keeps {port sid : Nat} {pub : List Byte} (h : Keeps s₀ s) : KeepsOut s₀ (execKeyExchange port sid pub s) := by
  unfold execKeyExchange
  split
  · exact .next h
  · refine spdmReq_keeps h (fun k => ?_)
    split
    · exact spdmError_keeps k
    · split
      · exact spdmError_keeps k
      · split
        · exact spdmError_keeps k
        · exact doeAnswer_keeps (.upd (akSign_keeps (drawn_keeps k)))

theorem spdmIn_keeps {port sid : Nat} {go : State → Session → State} (h : Keeps s₀ s)
    (hgo : ∀ {s x1}, Keeps s₀ s → Keeps s₀ (go s x1)) : KeepsOut s₀ (spdmIn port sid s go) := by
  unfold spdmIn
  split
  · exact .next h
  · split
    · exact .next (spdmError_keeps h)
    · exact .next (hgo h)

theorem execSpdmFinish_keeps {port sid : Nat} {verifies : Bool} (h : Keeps s₀ s) :
    KeepsOut s₀ (execSpdmFinish port sid verifies s) := by
  unfold execSpdmFinish
  refine spdmIn_keeps h (fun k => ?_)
  split
  · exact spdmError_keeps k
  · exact .ite (doeAnswer_keeps (sessionUpd_keeps k)) (spdmError_keeps (sessionsDrop_keeps k))

theorem spdmActive_keeps {port sid : Nat} {go : State → State} (h : Keeps s₀ s) (hgo : ∀ {s}, Keeps s₀ s → Keeps s₀ (go s)) :
    KeepsOut s₀ (spdmActive port sid s go) :=
    spdmIn_keeps h (fun k => .ite (hgo k) (spdmError_keeps k))

theorem execHeartbeat_keeps {port sid : Nat} (h : Keeps s₀ s) : KeepsOut s₀ (execHeartbeat port sid s) :=
  spdmActive_keeps h doeAnswer_keeps

theorem execKeyUpdate_keeps {port sid : Nat} (h : Keeps s₀ s) : KeepsOut s₀ (execKeyUpdate port sid s) :=
  spdmActive_keeps h (fun k => doeAnswer_keeps (sessionUpd_keeps k))

theorem execEndSession_keeps {port sid : Nat} (h : Keeps s₀ s) : KeepsOut s₀ (execEndSession port sid s) :=
  spdmActive_keeps h (fun k => doeAnswer_keeps (sessionsDrop_keeps k))

/-! ### Machine/LcCmds -/

theorem lcSet_keeps {x : LcSt} (h : Keeps s₀ s) : Keeps s₀ (lcSet s x) := .upd h

theorem lcEnd_keeps {st : Nat} (h : Keeps s₀ s) : Keeps s₀ (lcEnd s st) := unitEvt_keeps (lcSet_keeps h)

theorem lcBusyRefuse_keeps (h : Keeps s₀ s) : Keeps s₀ (lcBusyRefuse s) := lcSet_keeps h

theorem lcToken_keeps {d : Nat} {go : State → State} (h : Keeps s₀ s) (hgo : ∀ {s}, Keeps s₀ s → Keeps s₀ (go s)) :
    Keeps s₀ (lcToken s d go) :=
    .ite (lcEnd_keeps h) (.ite (hgo h) (lcEnd_keeps (lcSet_keeps h)))

theorem lcDestroy_keeps (h : Keeps s₀ s) : Keeps s₀ (lcDestroy s) := sessionsDrop_keeps (.foldl slotClear_keeps h)

theorem lcProgram_keeps {n : Nat} (h : Keeps s₀ s) : Keeps s₀ (lcProgram s n) := by
  unfold lcProgram
  extract_lets
  split
  · exact h
  · exact .ite (lcSet_keeps h) (lcEnd_keeps (lcSet_keeps h))

theorem lcTransitionGo_keeps {target bits : Nat} (h : Keeps s₀ s) : Keeps s₀ (lcTransitionGo s target bits) := by
  unfold lcTransitionGo
  extract_lets
  split
  · exact lcEnd_keeps h
  · split
    · exact lcEnd_keeps h
    · exact .ite (lcEnd_keeps h) (lcToken_keeps h (fun k => lcProgram_keeps (lcSet_keeps (lcDestroy_keeps k))))

theorem lcUnlockGo_keeps (h : Keeps s₀ s) : Keeps s₀ (lcUnlockGo s) := by
  unfold lcUnlockGo
  extract_lets
  split
  · exact lcEnd_keeps h
  · split
    · exact lcEnd_keeps h
    · split
      · exact lcEnd_keeps h
      · split
        · exact lcEnd_keeps h
        · exact lcToken_keeps h (fun k => lcEnd_keeps (deriveDevice_keeps (lcSet_keeps (lcDestroy_keeps k))))

theorem lcCompleteGo_keeps {bits : Nat} (h : Keeps s₀ s) : Keeps s₀ (lcCompleteGo s bits) := by
  unfold lcCompleteGo
  extract_lets
  split
  · exact lcEnd_keeps h
  · exact .ite (lcEnd_keeps h) (.ite (lcEnd_keeps h) (lcProgram_keeps (lcSet_keeps h)))

theorem lcRequest_keeps {op target bits : Nat} (h : Keeps s₀ s) : Keeps s₀ (lcRequest s op target bits) := by
  unfold lcRequest
  split
  · exact lcBusyRefuse_keeps h
  · split
    · exact lcEnd_keeps h
    · split
      · exact lcTransitionGo_keeps h
      · exact lcUnlockGo_keeps h
      · exact lcCompleteGo_keeps h
      · exact h

theorem execLcTransition_keeps {tap : Bool} {target : Nat} {cont : Bool} {bits : Nat} (h : Keeps s₀ s) :
    KeepsOut s₀ (execLcTransition tap target cont bits s) :=
    .ite (.next h) (.next (.ite (lcProgram_keeps h) (lcRequest_keeps h)))

theorem execLcUnlock_keeps {tap : Bool} (h : Keeps s₀ s) : KeepsOut s₀ (execLcUnlock tap s) := .next (.ite (lcRequest_keeps h) h)

theorem execLcComplete_keeps {tap cont : Bool} {bits : Nat} (h : Keeps s₀ s) : KeepsOut s₀ (execLcComplete tap cont bits s) :=
  .ite (.next h) (.next (.ite (lcProgram_keeps h) (lcRequest_keeps h)))

theorem execRngFail_keeps (h : Keeps s₀ s) : KeepsOut s₀ (execRngFail s) := .next (unitEvt_keeps (.upd h))

theorem execEntropySourcePass_keeps (h : Keeps s₀ s) : KeepsOut s₀ (execEntropySourcePass s) := .next (.upd h)

/-! ### Machine/SealCmds -/

theorem srcRead_keeps {src : SealSrc} {off n : Nat} {ev : List LineEv} (h : Keeps s₀ s) : Keeps s₀ (srcRead s src off n ev).1 := by
  unfold srcRead
  split
  · exact devFetch_keeps h
  · exact .pair h

theorem chunkStep_keeps {src : SealSrc} {key hdr tags : List Byte} {hd : SealHdr} {ev : List LineEv}
    {put : State → Sect → Nat → List Byte → State × Nat × Nat} {x : Sect} {r : SealRun} {i : Nat}
    (hput : ∀ {s x1 x2 x3}, Keeps s₀ s → Keeps s₀ (put s x1 x2 x3).1) (h : Keeps s₀ r.s) :
    Keeps s₀ (chunkStep src key hdr tags hd ev put x r i).s := by
  unfold chunkStep
  split
  · exact h
  · dsimp only
    split
    · exact srcRead_keeps h
    · split
      · exact srcRead_keeps h
      · exact hput (srcRead_keeps h)

theorem sealRun_keeps {src : SealSrc} {key hdr tags : List Byte} {hd : SealHdr} {ev : List LineEv}
    {put : State → Sect → Nat → List Byte → State × Nat × Nat} {xs : List Sect}
    (hput : ∀ {s x1 x2 x3}, Keeps s₀ s → Keeps s₀ (put s x1 x2 x3).1) (h : Keeps s₀ s) :
    Keeps s₀ (sealRun src key hdr tags hd ev put xs s).s := by
  unfold sealRun
  extract_lets r
  have hr : Keeps s₀ r.s := .foldlOf SealRun.s (fun k => .foldlOf SealRun.s (fun k1 => chunkStep_keeps hput k1) k) h
  clear_value r
  split
  · exact hr
  · exact hr

theorem sealTop_keeps {src : SealSrc} {ev : List LineEv} (h : Keeps s₀ s) : Keeps s₀ (sealTop s src ev).s := by
  unfold sealTop
  dsimp only
  split
  · exact srcRead_keeps h
  · split
    · exact srcRead_keeps (srcRead_keeps h)
    · split
      · exact srcRead_keeps (srcRead_keeps (srcRead_keeps h))
      · exact srcRead_keeps (srcRead_keeps h)

theorem sealFrom_keeps {r : CmdRef} {c : Nat} {isHost : Bool} {a : Nat} {host : HostRsp} {go : State → SealSrc → State}
    (h : Keeps s₀ s) (hgo : ∀ {s x1}, Keeps s₀ s → Keeps s₀ (go s x1)) : Keeps s₀ (sealFrom s r c isHost a host go) := by
  unfold sealFrom
  split
  · exact hgo h
  · extract_lets
    split
    · split
      · exact h
      · split
        · exact finishCmd_keeps h
        · exact .ite h (setJob_keeps h)
    · exact .ite h (.ite (finishCmd_keeps h) (hgo h))
    · exact .ite (finishCmd_keeps (hostErrCount_keeps h)) h

theorem shardPut_keeps {c : Nat} {scratch : Bool} {t dst : Nat} {ev : List LineEv} {off : Nat} {bs : List Byte} (h : Keeps s₀ s) :
    Keeps s₀ (shardPut c scratch t dst ev s off bs).1 :=
    .iteFst (.pair (tileSet_keeps h)) (devStore_keeps h)

theorem zeroSpan_keeps {c a n : Nat} {ev : List LineEv} (h : Keeps s₀ s) : Keeps s₀ (zeroSpan s c a n ev) := ctxWriteAt_keeps h

theorem shardZero_keeps {c : Nat} {scratch : Bool} {t dst n : Nat} {ev : List LineEv} (h : Keeps s₀ s) :
    Keeps s₀ (shardZero c scratch t dst n ev s) :=
    .ite (tileSet_keeps h) (zeroSpan_keeps h)

theorem shardRegister_keeps {c id : Nat} {x : Shard} (h : Keeps s₀ s) : Keeps s₀ (shardRegister s c id x) :=
  .ite (tileSet_keeps (.ite (.upd (.upd h)) (.upd h))) (.ite (.upd (.upd h)) (.upd h))

theorem shardLoadGo_keeps {r : CmdRef} {v : Nat} {src : SealSrc} {ev : List LineEv} (h : Keeps s₀ s) :
    Keeps s₀ (shardLoadGo s r v src ev) := by
  unfold shardLoadGo
  extract_lets _ _ _ _ top _ _ _ _ q
  have htop : Keeps s₀ top.s := sealTop_keeps h
  have hq : Keeps s₀ q.s := sealRun_keeps (fun k => shardPut_keeps k) htop
  split
  · exact finishDet_keeps htop
  · split
    · exact finishCmd_keeps htop
    · split
      · exact finishCmd_keeps htop
      · split
        · exact h
        · split
          · exact finishRes_keeps (shardRegister_keeps hq)
          · exact finishDet_keeps (.ite (shardZero_keeps hq) hq)

theorem exeShardLoad_keeps {host : HostRsp} {ev : List LineEv} {r : CmdRef} {v : Nat} (h : Keeps s₀ s) :
    Keeps s₀ (exeShardLoad host ev s r v) := by
  unfold exeShardLoad
  extract_lets
  split
  · exact finishCmd_keeps h
  · split
    · exact finishCmd_keeps h
    · exact .ite (finishCmd_keeps h) (.ite (finishCmd_keeps h) (sealFrom_keeps h shardLoadGo_keeps))

theorem execShardLoad_keeps {ctx qid : Nat} {host : HostRsp} {ev : List LineEv} (h : Keeps s₀ s) :
    KeepsOut s₀ (execShardLoad ctx qid host ev s) :=
    ringCmd_keeps exeShardLoad_keeps h

theorem shardFail_keeps {c id : Nat} {x : Shard} {st : Nat} (h : Keeps s₀ s) : Keeps s₀ (shardFail s c id x st) :=
  .ite h (postNamed_keeps (.upd h))

theorem shardHash_keeps {c id : Nat} {x : Shard} {ev : List LineEv} (h : Keeps s₀ s) : Keeps s₀ (shardHash s c id x ev).1 := by
  unfold shardHash
  extract_lets d
  have hd : Keeps s₀ d.1 := .iteFst (.pair h) (devFetch_keeps h)
  clear_value d
  exact .iteFst (.pair (.ite (shardFail_keeps hd) hd)) (.iteFst (.pair (shardFail_keeps hd)) (.pair hd))

theorem exeShardCheck_keeps {ev : List LineEv} {r : CmdRef} {v : Nat} (h : Keeps s₀ s) : Keeps s₀ (exeShardCheck ev s r v) := by
  unfold exeShardCheck
  extract_lets
  split
  · exact finishCmd_keeps h
  · exact .ite h (finishDet_keeps (shardHash_keeps h))

theorem execShardCheck_keeps {ctx qid : Nat} {ev : List LineEv} (h : Keeps s₀ s) : KeepsOut s₀ (execShardCheck ctx qid ev s) :=
  ringCmd_keeps exeShardCheck_keeps h

theorem exeShardRelease_keeps {r : CmdRef} {v : Nat} (h : Keeps s₀ s) : Keeps s₀ (exeShardRelease s r v) := by
  unfold exeShardRelease
  extract_lets _ _ _ _ _ s1
  have h1 : Keeps s₀ s1 := .upd h
  split
  · exact finishCmd_keeps h
  · exact finishCmd_keeps (.ite (tileSet_keeps h1) h1)

theorem execShardRelease_keeps {ctx qid : Nat} (h : Keeps s₀ s) : KeepsOut s₀ (execShardRelease ctx qid s) :=
  ringCmd_keeps exeShardRelease_keeps h

theorem execShardPeriodicCheck_keeps {ctx id : Nat} {ev : List LineEv} (h : Keeps s₀ s) :
    KeepsOut s₀ (execShardPeriodicCheck ctx id ev s) := by
  unfold execShardPeriodicCheck
  split
  · exact .next h
  · exact .ite (.next h) (.next (shardHash_keeps h))

theorem readList_keeps {c a : Nat} {ev : List LineEv} (h : Keeps s₀ s) : Keeps s₀ (readList s c a ev).1 := by
  unfold readList
  split
  · exact .pair h
  · dsimp only
    split
    · exact .pair (devFetch_keeps h)
    · split
      · exact .pair (devFetch_keeps h)
      · split
        · exact .pair (devFetch_keeps (devFetch_keeps h))
        · exact .iteFst (.pair (devFetch_keeps (devFetch_keeps h))) (.pair (devFetch_keeps (devFetch_keeps h)))

theorem readSections_keeps {c : Nat} {spans : List (Nat × Nat)} {ev : List LineEv} (h : Keeps s₀ s) :
    Keeps s₀ (readSections s c spans ev).1.s := by
  refine List.foldlRecOn spans _ (motive := fun (a : SealRun × List (List Byte)) => Keeps s₀ a.1.s) h (fun a k sp _ => ?_)
  split
  · exact k
  · exact devFetch_keeps k

theorem exportGo_keeps {r : CmdRef} {v : Nat} {p : Part} {ents : List ListEnt} {ev : List LineEv} (h : Keeps s₀ s) :
    Keeps s₀ (exportGo s r v p ents ev) := by
  unfold exportGo
  extract_lets _ _ _ _ _ _ _ _ _ rd _ _ _ _ _ _ w1 w2 _ s2
  have hrd : Keeps s₀ rd.1.s := readSections_keeps h
  have hw1 : Keeps s₀ w1.1 := dmaStore_keeps (drawn_keeps hrd)
  have hw2 : Keeps s₀ w2.1 := .iteFst (dmaStore_keeps hw1) hw1
  have h2 : Keeps s₀ s2 := exportEnd_keeps (.iteFst (dmaStore_keeps hw2) hw2)
  split
  · exact finishCmd_keeps (exportEnd_keeps h)
  · split
    · exact h
    · exact .ite (finishDet_keeps (exportEnd_keeps hrd)) (.ite (finishRes_keeps h2) (finishDet_keeps h2))

theorem exportTry_keeps {r : CmdRef} {v : Nat} {p : Part} {ev : List LineEv} (h : Keeps s₀ s) : Keeps s₀ (exportTry s r v p ev) := by
  unfold exportTry
  extract_lets _ _ l
  have hl : Keeps s₀ l.1 := readList_keeps h
  split
  · exact finishDet_keeps (exportEnd_keeps hl)
  · exact .ite (finishCmd_keeps (exportEnd_keeps hl)) (exportGo_keeps hl)

theorem exeCkptExport_keeps {ev : List LineEv} {r : CmdRef} {v : Nat} (h : Keeps s₀ s) : Keeps s₀ (exeCkptExport ev s r v) := by
  unfold exeCkptExport
  extract_lets c t0 dst slot busy no
  clear_value no
  have hf {st : Nat} : Keeps s₀ (finishCmd s r st) := finishCmd_keeps h
  split
  · exact finishCmd_keeps (exportEnd_keeps h)
  · refine .ite (.ite (exportTry_keeps h) h) (.ite hf (.ite hf (.ite hf (.ite hf ?_))))
    split
    · exact hf
    · exact .ite (exportTry_keeps (setJob_keeps (partSet_keeps h))) (setJob_keeps (partSet_keeps h))

theorem execCkptExport_keeps {ctx qid : Nat} {ev : List LineEv} (h : Keeps s₀ s) : KeepsOut s₀ (execCkptExport ctx qid ev s) :=
  ringCmd_keeps exeCkptExport_keeps h

theorem importDone_keeps {p : Part} {hd : SealHdr} {rec0 : List Byte} (h : Keeps s₀ s) : Keeps s₀ (importDone s p hd rec0) := by
  unfold importDone
  exact tilesUpd_keeps (partSet_keeps h)

theorem importFail_keeps {c : Nat} {p : Part} {b : Bool} {ents : List ListEnt} {mon : Bool} {ev : List LineEv} (h : Keeps s₀ s) :
    Keeps s₀ (importFail s c p b ents mon ev) := by
  unfold importFail
  extract_lets s1 s2
  have h1 : Keeps s₀ s1 := .foldl zeroSpan_keeps h
  have h2 : Keeps s₀ s2 := .ite (zeroSpan_keeps h1) h1
  split
  · exact h2
  · exact tilesUpd_keeps (partSet_keeps h2)

theorem importCkptGo_keeps {r : CmdRef} {v : Nat} {p : Part} {src : SealSrc} {ev : List LineEv} (h : Keeps s₀ s) :
    Keeps s₀ (importCkptGo s r v p src ev) := by
  unfold importCkptGo
  extract_lets _ l top
  have hl : Keeps s₀ l.1 := readList_keeps h
  have htop : Keeps s₀ top.s := sealTop_keeps hl
  split
  · exact finishDet_keeps hl
  · split
    · exact finishDet_keeps htop
    · split
      · exact finishCmd_keeps htop
      · split
        · exact finishCmd_keeps htop
        · split
          · exact finishCmd_keeps htop
          · split
            · exact finishCmd_keeps htop
            · split
              · exact h
              · extract_lets q
                have hq : Keeps s₀ q.s := by
                  dsimp only [q]
                  refine sealRun_keeps (fun k => ?_) htop
                  split
                  · exact devStore_keeps k
                  · exact .pair k
                exact .ite (finishCmd_keeps (importDone_keeps hq)) (finishDet_keeps (.ite (importFail_keeps hq) hq))

theorem exeCkptImport_keeps {host : HostRsp} {ev : List LineEv} {r : CmdRef} {v : Nat} (h : Keeps s₀ s) :
    Keeps s₀ (exeCkptImport host ev s r v) := by
  unfold exeCkptImport
  extract_lets
  split
  · exact finishCmd_keeps h
  · split
    · exact finishCmd_keeps h
    · exact .ite (finishCmd_keeps h) (.ite (finishCmd_keeps h) (sealFrom_keeps h importCkptGo_keeps))

theorem execCkptImport_keeps {ctx qid : Nat} {host : HostRsp} {ev : List LineEv} (h : Keeps s₀ s) :
    KeepsOut s₀ (execCkptImport ctx qid host ev s) :=
    ringCmd_keeps exeCkptImport_keeps h

/-! ### Machine/FwOps -/

theorem fwSet_keeps {f : FwSt} (h : Keeps s₀ s) : Keeps s₀ (fwSet s f) := .upd h

theorem journalAdd_keeps {typ step status detail : Nat} (h : Keeps s₀ s) : Keeps s₀ (journalAdd s typ step status detail) :=
  fwSet_keeps h

theorem raiseIbi_keeps {k : Option Nat} (h : Keeps s₀ s) : Keeps s₀ (raiseIbi s k) := .upd h

theorem alertEdge_keeps (h : Keeps s₀ s) : Keeps s₀ (alertEdge s) := .ite h (raiseIbi_keeps (.upd h))

theorem imgSlotSet_keeps {kind : Nat} {b : Bool} {x : ImgSlot} (h : Keeps s₀ s) : Keeps s₀ (imgSlotSet s kind b x) := fwSet_keeps h

theorem dmaSource_keeps {r : CmdRef} {c sp a n : Nat} {host : HostRsp} {ev : List LineEv} {go : State → List Byte → State}
    (h : Keeps s₀ s) (hgo : ∀ {s x1}, Keeps s₀ s → Keeps s₀ (go s x1)) : Keeps s₀ (dmaSource s r c sp a n host ev go) := by
  unfold dmaSource
  extract_lets
  split
  · exact finishCmd_keeps h
  · split
    · exact payRead_keeps h hgo
    · split
      · split
        · exact h
        · split
          · exact finishCmd_keeps h
          · exact .ite h (setJob_keeps h)
      · exact .ite (hgo h) h
      · exact .ite (finishCmd_keeps (hostErrCount_keeps h)) h

theorem exeFwStageBegin_keeps {r : CmdRef} {v : Nat} (h : Keeps s₀ s) : Keeps s₀ (exeFwStageBegin s r v) := by
  unfold exeFwStageBegin
  extract_lets
  split
  · exact finishCmd_keeps h
  · exact .ite (finishCmd_keeps h) (.ite (finishCmd_keeps h) (.ite h (finishCmd_keeps (fwSet_keeps (imgSlotSet_keeps h)))))

theorem execFwStageBegin_keeps {ctx qid : Nat} (h : Keeps s₀ s) : KeepsOut s₀ (execFwStageBegin ctx qid s) :=
  ringCmd_keeps exeFwStageBegin_keeps h

theorem stageWrite_keeps {r : CmdRef} {kind off : Nat} {bs : List Byte} (h : Keeps s₀ s) : Keeps s₀ (stageWrite s r kind off bs) :=
  finishCmd_keeps (imgSlotSet_keeps h)

theorem exeFwStageData_keeps {host : HostRsp} {ev : List LineEv} {r : CmdRef} {v : Nat} (h : Keeps s₀ s) :
    Keeps s₀ (exeFwStageData host ev s r v) := by
  unfold exeFwStageData
  extract_lets
  split
  · exact finishCmd_keeps h
  · split
    · exact finishCmd_keeps h
    · exact .ite (finishCmd_keeps h) (.ite (finishCmd_keeps h) (.ite h (dmaSource_keeps h stageWrite_keeps)))

theorem execFwStageData_keeps {ctx qid : Nat} {host : HostRsp} {ev : List LineEv} (h : Keeps s₀ s) :
    KeepsOut s₀ (execFwStageData ctx qid host ev s) :=
    ringCmd_keeps exeFwStageData_keeps h

theorem exeFwVerify_keeps {r : CmdRef} {v : Nat} (h : Keeps s₀ s) : Keeps s₀ (exeFwVerify s r v) := by
  unfold exeFwVerify
  extract_lets
  split
  · exact finishCmd_keeps h
  · split
    · exact finishCmd_keeps h
    · split
      · exact finishCmd_keeps (imgSlotSet_keeps h)
      · exact finishRes_keeps (fwSet_keeps (imgSlotSet_keeps h))

theorem execFwVerify_keeps {ctx qid : Nat} (h : Keeps s₀ s) : KeepsOut s₀ (execFwVerify ctx qid s) :=
  ringCmd_keeps exeFwVerify_keeps h

theorem exeFwArm_keeps {r : CmdRef} {v : Nat} (h : Keeps s₀ s) : Keeps s₀ (exeFwArm s r v) := by
  unfold exeFwArm
  extract_lets
  split
  · exact finishCmd_keeps h
  · split
    · exact finishCmd_keeps h
    · split <;> exact finishCmd_keeps (fwSet_keeps h)

theorem execFwArm_keeps {ctx qid : Nat} (h : Keeps s₀ s) : KeepsOut s₀ (execFwArm ctx qid s) := ringCmd_keeps exeFwArm_keeps h

theorem exeFwCancel_keeps {r : CmdRef} {v : Nat} (h : Keeps s₀ s) : Keeps s₀ (exeFwCancel s r v) := by
  unfold exeFwCancel
  split
  · split
    · exact finishCmd_keeps h
    · exact finishCmd_keeps (fwSet_keeps (imgSlotSet_keeps h))
  · exact finishCmd_keeps (fwSet_keeps h)
  · split
    · exact finishCmd_keeps (txnAbort_keeps h)
    · exact finishCmd_keeps h
  · exact finishCmd_keeps h

theorem execFwCancel_keeps {ctx qid : Nat} (h : Keeps s₀ s) : KeepsOut s₀ (execFwCancel ctx qid s) :=
  ringCmd_keeps exeFwCancel_keeps h

theorem exeFwQuery_keeps {r : CmdRef} {v : Nat} (h : Keeps s₀ s) : Keeps s₀ (exeFwQuery s r v) := finishRes_keeps h

theorem execFwQuery_keeps {ctx qid : Nat} (h : Keeps s₀ s) : KeepsOut s₀ (execFwQuery ctx qid s) :=
  ringCmd_keeps exeFwQuery_keeps h

theorem exeFwArbRaise_keeps {r : CmdRef} {v : Nat} (h : Keeps s₀ s) : Keeps s₀ (exeFwArbRaise s r v) := by
  unfold exeFwArbRaise
  split
  · exact .ite (finishCmd_keeps h) (.ite h (finishCmd_keeps (journalAdd_keeps (.upd h))))
  · exact finishCmd_keeps h

theorem execFwArbRaise_keeps {ctx qid : Nat} (h : Keeps s₀ s) : KeepsOut s₀ (execFwArbRaise ctx qid s) :=
  ringCmd_keeps exeFwArbRaise_keeps h

theorem settingsWrite_keeps {r : CmdRef} {bs : List Byte} (h : Keeps s₀ s) : Keeps s₀ (settingsWrite s r bs) :=
  finishCmd_keeps (fwSet_keeps h)

theorem exeFwSettings_keeps {host : HostRsp} {ev : List LineEv} {r : CmdRef} {v : Nat} (h : Keeps s₀ s) :
    Keeps s₀ (exeFwSettings host ev s r v) :=
    .ite (finishCmd_keeps h) (.ite h (dmaSource_keeps h settingsWrite_keeps))

theorem execFwSettings_keeps {ctx qid : Nat} {host : HostRsp} {ev : List LineEv} (h : Keeps s₀ s) :
    KeepsOut s₀ (execFwSettings ctx qid host ev s) :=
    ringCmd_keeps exeFwSettings_keeps h

/-! ### Machine/ActCmds -/

theorem actOpen_keeps (h : Keeps s₀ s) : Keeps s₀ (actOpen s) := by
  unfold actOpen
  extract_lets
  split
  · exact h
  · rename_i e
    split
    · exact (txnOpen_keeps h e)
    · exact fwSet_keeps (txnSet_keeps (txnOpen_keeps h e))

theorem actSwitchCores_keeps (h : Keeps s₀ s) : Keeps s₀ (actSwitchCores s) := by
  unfold actSwitchCores
  extract_lets _ s1
  have h1 : Keeps s₀ s1 := fwSet_keeps h
  split
  · split
    · exact slotInstall_keeps h1
    · exact h1
  · exact h1

theorem actClose_keeps (h : Keeps s₀ s) : Keeps s₀ (actClose s) :=
  unitEvt_keeps (fwSet_keeps (journalAdd_keeps (actSwitchCores_keeps h)))

theorem actTry_keeps (h : Keeps s₀ s) : Keeps s₀ (actTry s) := by
  unfold actTry
  split
  · exact h
  · exact .ite (actClose_keeps h) h

theorem actCommit_keeps {tid : Nat} {x : Txn} (h : Keeps s₀ s) : Keeps s₀ (actCommit s tid x) := by
  unfold actCommit
  extract_lets _ _ _ _ _ s2 _ s3 _ _ _ s5
  have h2 : Keeps s₀ s2 := .upd (txnSet_keeps h)
  have h3 : Keeps s₀ s3 := .ite (imgSlotSet_keeps h2) h2
  have h5 : Keeps s₀ s5 := journalAdd_keeps (fwSet_keeps (.ite (imgSlotSet_keeps h3) h3))
  exact .ite (actTry_keeps (fwSet_keeps (.upd (alertEdge_keeps h5)))) (alertEdge_keeps h5)

theorem actDecide_keeps {tid : Nat} {x : Txn} (h : Keeps s₀ s) : Keeps s₀ (actDecide s tid x) :=
  .ite h (.ite (actCommit_keeps h) (fwSet_keeps (txnAbort_keeps h)))

theorem actApplied_keeps {tid : Nat} {u : UnitId} (h : Keeps s₀ s) : Keeps s₀ (actApplied s tid u) := by
  unfold actApplied
  extract_lets _ s1
  have h1 : Keeps s₀ s1 := fwSet_keeps h
  split
  · exact h1
  · exact memberTo_keeps h1

theorem actBegin_keeps {tid : Nat} {u : UnitId} (h : Keeps s₀ s) : Keeps s₀ (actBegin s tid u) :=
  .ite h (.ite (fwSet_keeps (acceptCmd_keeps h runCmd_keeps))
      (.ite (actApplied_keeps h) (.ite (fwSet_keeps (acceptCmd_keeps h runCmd_keeps)) h)))

theorem actGo_keeps {tid : Nat} {u : UnitId} (h : Keeps s₀ s) : Keeps s₀ (actGo s tid u) := by
  unfold actGo
  extract_lets
  split
  · exact .ite (actApplied_keeps h) h
  · exact .ite (actApplied_keeps (acceptCmd_keeps h runCmd_keeps)) (.ite (fwSet_keeps h) h)

theorem actTurn_keeps {tid : Nat} {u : UnitId} (h : Keeps s₀ s) : Keeps s₀ (actTurn s tid u) := by
  unfold actTurn
  extract_lets _ s0
  have h0 : Keeps s₀ s0 := fwSet_keeps h
  exact .ite (actApplied_keeps h0) (.ite (actGo_keeps h0) (.ite h0 (actBegin_keeps h0)))

theorem execActHoldoff_keeps (h : Keeps s₀ s) : KeepsOut s₀ (execActHoldoff s) := by
  unfold execActHoldoff
  split
  · exact .next h
  · split
    · exact .next (actOpen_keeps h)
    · exact .next (fwSet_keeps h)
    · exact .next h

theorem execActRetry_keeps {u : UnitId} (h : Keeps s₀ s) : KeepsOut s₀ (execActRetry u s) :=
  .ite (.next h) (.next (fwSet_keeps h))

theorem execTxnVote_keeps {tid : Nat} {u : UnitId} (h : Keeps s₀ s) : KeepsOut s₀ (execTxnVote tid u s) := by
  unfold execTxnVote
  split
  · exact .next h
  · split
    · exact .next h
    · split
      · exact .next (coordDrops_keeps h)
      · split
        · exact .next (txnAbortGate_keeps h)
        · extract_lets _ s1
          have h1 : Keeps s₀ s1 := txnSet_keeps h
          split
          · exact .next (stepDecide_keeps h1)
          · exact .ite (.next (actDecide_keeps h1)) (.next (plainDecide_keeps h1))
        · exact .next h

theorem ackMember_keeps {tid : Nat} {x : Txn} {u : UnitId} (h : Keeps s₀ s) : Keeps s₀ (ackMember s tid x u) :=
  .ite (.ite (actTry_keeps (txnDel_keeps h)) (txnDel_keeps h)) (txnSet_keeps h)

theorem commitRefused_keeps {tid : Nat} {x : Txn} {u : UnitId} {st : Nat} (h : Keeps s₀ s) : Keeps s₀ (commitRefused s tid x u st) :=
  .ite (ackMember_keeps h) (countStale_keeps h)

theorem execTxnCommit_keeps {tid : Nat} {u : UnitId} (h : Keeps s₀ s) : KeepsOut s₀ (execTxnCommit tid u s) := by
  unfold execTxnCommit
  split
  · exact .next h
  · split
    · exact .next h
    · split
      · exact .next h
      · split
        · exact .next (actTurn_keeps h)
        · split
          · exact .next (commitRefused_keeps h)
          · exact .next (commitReached_keeps (txnSet_keeps (applyPart_keeps h)))

theorem execTxnAck_keeps {tid : Nat} {u : UnitId} (h : Keeps s₀ s) : KeepsOut s₀ (execTxnAck tid u s) := by
  unfold execTxnAck
  split
  · exact .next h
  · exact .ite (.next h) (.ite (.next (coordDrops_keeps h)) (.next (ackMember_keeps h)))

theorem execMgmtWatchdog_keeps {back fresh : Bool} (h : Keeps s₀ s) : KeepsOut s₀ (execMgmtWatchdog back fresh s) := by
  unfold execMgmtWatchdog
  extract_lets
  split
  · exact .ite (.next h) (.ite (.next (fwSet_keeps h)) (.next (fwSet_keeps h)))
  · exact .ite (.next h) (.ite (.next (alertEdge_keeps (fwSet_keeps h))) (.next (unitEvt_keeps (journalAdd_keeps (fwSet_keeps h)))))

/-! ### Machine/PowerOps -/

theorem pwSet_keeps {p : PowerSt} (h : Keeps s₀ s) : Keeps s₀ (pwSet s p) := .upd h

theorem postPower_keeps {changed : Nat} (h : Keeps s₀ s) : Keeps s₀ (postPower s changed) := raiseIbi_keeps (postDevice_keeps h)

theorem emergAct_keeps (h : Keeps s₀ s) : Keeps s₀ (emergAct s) := by
  unfold emergAct
  split
  · exact h
  · split
    · exact txnAbort_keeps h
    · exact fwSet_keeps h
    · exact h

theorem emergTo_keeps {a : Nat} (h : Keeps s₀ s) : Keeps s₀ (emergTo s a) :=
  .ite h (alertEdge_keeps (emergAct_keeps (postPower_keeps (pwSet_keeps h))))

theorem emergOn_keeps {i : Nat} (h : Keeps s₀ s) : Keeps s₀ (emergOn s i) := emergTo_keeps h

theorem emergOff_keeps {i : Nat} (h : Keeps s₀ s) : Keeps s₀ (emergOff s i) := .ite (emergTo_keeps h) h

theorem oppApply_keeps (h : Keeps s₀ s) : Keeps s₀ (oppApply s) := by
  unfold oppApply
  refine .foldl (fun k => ?_) h
  split
  · exact k
  · exact .ite (pwSet_keeps k) k

theorem oppWrite_keeps {t0 v : Nat} (h : Keeps s₀ s) : Keeps s₀ (oppWrite s t0 v) := by
  unfold oppWrite
  split
  · exact h
  · exact pwSet_keeps (oppApply_keeps (pwSet_keeps h))

theorem capWrite_keeps {v : Nat} (h : Keeps s₀ s) : Keeps s₀ (capWrite s v) := pwSet_keeps h

theorem ageWrite_keeps {w : W64} (h : Keeps s₀ s) : Keeps s₀ (ageWrite s w) :=
  .ite (raiseIbi_keeps (postDevice_keeps (pwSet_keeps h))) (pwSet_keeps h)

/-! ### Machine/RegWrite -/

theorem partBurnWrite_keeps {w : Writer} {u : UnitId} {v : Nat} (h : Keeps s₀ s) : Keeps s₀ (partBurnWrite w u v s) :=
  .ite h (.upd h)

theorem budgetWrite_keeps {k v : Nat} (h : Keeps s₀ s) : Keeps s₀ (budgetWrite k v s) := pwSet_keeps h

theorem packageWrite_keeps {w : Writer} {o v : Nat} (h : Keeps s₀ s) : Keeps s₀ (packageWrite w o v s) := by
  unfold packageWrite
  split
  · exact .upd h
  · split
    · exact .ite (.upd h) h
    · split
      · exact partBurnWrite_keeps h
      · split
        · exact .ite (pwSet_keeps h) h
        · split
          · exact .ite (pwSet_keeps h) h
          · split
            · exact .ite (pwSet_keeps h) h
            · exact .ite (.ite (pwSet_keeps h) h) (.ite (.ite (budgetWrite_keeps h) h) h)

theorem clusterWrite_keeps {w : Writer} {c o v : Nat} (h : Keeps s₀ s) : Keeps s₀ (clusterWrite w c o v s) :=
  .ite (.ite (.upd h) h) (.ite (partBurnWrite_keeps h) h)

theorem cdieWrite_keeps {w : Writer} {d o v : Nat} (h : Keeps s₀ s) : Keeps s₀ (cdieWrite w d o v s) :=
  .ite (partBurnWrite_keeps h) (.ite (pwSet_keeps h) h)

theorem tileWrite_keeps {t o v : Nat} (h : Keeps s₀ s) : Keeps s₀ (tileWrite t o v s) := by
  unfold tileWrite
  extract_lets x n put
  have hput : ∀ {m}, Keeps s₀ (put m) := tileSet_keeps h
  exact .ite hput (.ite (.ite hput h) (.ite hput (.ite hput (.ite hput h))))

theorem serviceWrite_keeps {w : Writer} {k o v : Nat} (h : Keeps s₀ s) : Keeps s₀ (serviceWrite w k o v s) :=
  .ite h (.ite (lcSet_keeps h) (.ite (.ite (.ite h (fwSet_keeps h)) (.ite (fwSet_keeps h) h)) h))

theorem blockWrite_keeps {w : Writer} {o v : Nat} (h : Keeps s₀ s) : Keeps s₀ (blockWrite w o v s) := by
  unfold blockWrite
  split
  · exact .ite (.upd h) h
  · split
    · exact .ite (migResume_keeps (.upd h)) h
    · split
      · exact .ite (.upd h) h
      · split
        · exact .ite h (.ite (.upd h) (.upd h))
        · split
          · split
            · exact h
            · split
              · exact .upd h
              · exact h
          · exact .ite (.ite (.upd h) h) h

theorem unitWrite_keeps {w : Writer} {u : UnitId} {o v : Nat} (h : Keeps s₀ s) : Keeps s₀ (unitWrite w u o v s) := by
  unfold unitWrite
  split
  · exact packageWrite_keeps h
  · exact cdieWrite_keeps h
  · exact clusterWrite_keeps h
  · exact tileWrite_keeps h
  · exact .ite (mcSet_keeps h) h
  · exact .ite (mcSet_keeps h) h
  · exact .ite (.upd h) h
  · exact serviceWrite_keeps h
  · exact h
  · exact h
  · exact h
  · exact h

theorem ctlReserved_keeps {w : Writer} {u : UnitId} {v : Nat} (h : Keeps s₀ s) : Keeps s₀ (ctlReserved w u v s) :=
  .ite h (.ite (unitEvt_keeps h) (cmdDone_keeps h))

theorem wordWrite_keeps {w : Writer} {a v : Nat} (h : Keeps s₀ s) : Keeps s₀ (wordWrite w a v s) := by
  unfold wordWrite
  extract_lets go
  have hgo : ∀ {u o}, Keeps s₀ (go u o) := .ite (ctlReserved_keeps h) (.ite (unitWrite_keeps h) h)
  split
  · exact hgo
  · refine .ite (.ite (blockWrite_keeps h) h) ?_
    split
    · exact hgo
    · exact h

theorem execRegisterWrite_keeps {w : Writer} {off width : Nat} {v : W64} (h : Keeps s₀ s) :
    KeepsOut s₀ (execRegisterWrite w off width v s) :=
    .ite (.next h) (.ite (.next (wordWrite_keeps h)) (.next (wordWrite_keeps (wordWrite_keeps h))))

theorem reqPerform_keeps {r : Req} (h : Keeps s₀ s) : Keeps s₀ (reqPerform s r).1 := by
  unfold reqPerform
  split
  · exact .pair h
  · split
    · exact .pair (.upd h)
    · split
      · dsimp only
        exact ctxRead_keeps h
      · dsimp only
        exact ctxWriteAt_keeps h
      · dsimp only
        exact ctxWrite_keeps h
      · exact .pair h

theorem reqServe_keeps {r : Req} (h : Keeps s₀ s) : Keeps s₀ (reqServe s r) :=
  .ite (.upd (.upd h)) (reqReply_keeps (reqPerform_keeps (.upd h)))

theorem execRequestArrival_keeps {r : Req} (h : Keeps s₀ s) : KeepsOut s₀ (execRequestArrival r s) := by
  unfold execRequestArrival
  split
  · exact .next h
  · split
    · exact .next (reqServe_keeps h)
    · split
      · exact .next h
      · split
        · exact .next (outIssued_keeps h)
        · split
          · exact .next (substSet_keeps (outIssued_keeps h))
          · split
            · exact .next (reqReply_keeps (countStale_keeps (outIssued_keeps h)))
            · exact .next (reqServe_keeps (outIssued_keeps h))

theorem execReplyArrival_keeps {u : UnitId} {tag : Nat} {reqInc rspInc : Half} {tgt : UnitId} {status : Nat} {func : Option Nat}
    (h : Keeps s₀ s) : KeepsOut s₀ (execReplyArrival u tag reqInc rspInc tgt status func s) := by
  unfold execReplyArrival
  split
  · exact .ite (.next h) (.next (replyStale_keeps (hportSet_keeps h)))
  · extract_lets
    split
    · exact .next h
    · split
      · exact .next h
      · extract_lets s1
        have h1 : Keeps s₀ s1 := .upd h
        split
        · exact .ite (.next (replyTake_keeps h1)) (.next (replyStale_keeps h1))
        · exact .next (replyStale_keeps h1)

theorem reissue_keeps {o : Outst} (h : Keeps s₀ s) : Keeps s₀ (reissue s o) := outUpd_keeps h

theorem execRequestReissue_keeps {u : UnitId} {tag : Nat} (h : Keeps s₀ s) : KeepsOut s₀ (execRequestReissue u tag s) := by
  unfold execRequestReissue
  split
  · split
    · exact .next h
    · split
      · exact .ite (.next (substRetry_keeps h)) (.next (reissue_keeps h))
      · exact .next (reissue_keeps h)
  · exact .next h

theorem execRequestSoftTimeout_keeps {u : UnitId} {tag : Nat} (h : Keeps s₀ s) : KeepsOut s₀ (execRequestSoftTimeout u tag s) := by
  unfold execRequestSoftTimeout
  split
  · exact .ite (.next h) (.next (errLog_keeps (outUpd_keeps h)))
  · exact .next h

theorem execRequestHardTimeout_keeps {u : UnitId} {tag : Nat} (h : Keeps s₀ s) : KeepsOut s₀ (execRequestHardTimeout u tag s) := by
  unfold execRequestHardTimeout
  split
  · exact .ite (.next (outEnd_keeps h)) (.next h)
  · exact .next h

/-! ### Machine/BootCmds -/

theorem saveRecords_keeps (h : Keeps s₀ s) : Keeps s₀ (saveRecords s) := fwSet_keeps h

theorem railsOff_keeps {aon : Bool} (h : Keeps s₀ s) : Keeps s₀ (railsOff s aon) := ⟨h.pending, h.variant, fun _ => rfl, fun _ => rfl⟩

theorem coldReset_keeps {split : Bool} (h : Keeps s₀ s) : Keeps s₀ (coldReset s split) := by
  unfold coldReset
  extract_lets f _ _ _ s1 s2 s3
  have h1 : Keeps s₀ s1 := h.wrote ⟨id, fun _ => by dsimp only [s1, ringsReset]; split <;> rfl⟩
  have h3 : Keeps s₀ s3 := journalAdd_keeps (fwSet_keeps h1)
  exact alertEdge_keeps (.ite (emergOn_keeps h3) h3)

theorem degrade_keeps (h : Keeps s₀ s) : Keeps s₀ (degrade s) := unitEvt_keeps (fwSet_keeps h)

theorem bootKeys_keeps {x : BootStep} (h : Keeps s₀ s) : Keeps s₀ (bootKeys s x) := by
  unfold bootKeys
  extract_lets s1 en put m1
  have h1 : Keeps s₀ s1 := .foldl (fun k => drawn_keeps (slotInstall_keeps k)) (deriveDevice_keeps h)
  have hm : m1.bytes = s1.mm.bytes :=
    List.foldlRecOn _ put (motive := fun m => m.bytes = s1.mm.bytes) rfl (fun m k _ _ => by dsimp only [put]; split <;> exact k)
  exact .upd h1 (hm := hm)

theorem bootRestoreKeys_keeps (h : Keeps s₀ s) : Keeps s₀ (bootRestoreKeys s) := .foldl slotSet_keeps h

theorem unitStateTo_keeps {u : UnitId} {st : UState} (h : Keeps s₀ s) : Keeps s₀ (unitStateTo s u st) := setUState_keeps h

theorem bootUnits_keeps {us : List UnitId} {down : UState} {failed : List UnitId} (h : Keeps s₀ s) :
    Keeps s₀ (bootUnits s us down failed) :=
    .foldl (fun k => .ite (unitStateTo_keeps k) (.ite (unitStateTo_keeps k) (unitStateTo_keeps k))) h

theorem bootMemory_keeps {us : List UnitId} {ms : List Nat} {m : StepMode} {x : BootStep} (h : Keeps s₀ s) :
    Keeps s₀ (bootMemory s us ms m x) := by
  unfold bootMemory
  extract_lets _ _ s2
  have h2 : Keeps s₀ s2 := bootUnits_keeps (.foldl pcSet_keeps h)
  exact .ite h2 (.foldl pcRetire_keeps h2)

theorem bootTile_keeps {u : UnitId} {st : UState} (h : Keeps s₀ s) : Keeps s₀ (bootTile s u st) :=
  unitStateTo_keeps (unitSet_keeps h)

theorem bootSubst_keeps {u : UnitId} (h : Keeps s₀ s) : Keeps s₀ (bootSubst s u) := by
  unfold bootSubst
  split
  · exact .ite (unitStateTo_keeps h) (unitStateTo_keeps (substSwitch_keeps h))
  · exact unitStateTo_keeps h
  · exact h

theorem bootTiles_keeps {m : StepMode} {x : BootStep} (h : Keeps s₀ s) : Keeps s₀ (bootTiles s m x) := by
  unfold bootTiles
  extract_lets _ _ _ s3 s4
  have h3 : Keeps s₀ s3 := by
    dsimp only [s3]
    refine .foldl (fun k => ?_) (.upd (bootUnits_keeps h))
    split
    · exact unitStateTo_keeps k
    · exact k
  have h4 : Keeps s₀ s4 := by
    dsimp only [s4]
    split
    · exact h3
    · exact .foldl bootSubst_keeps h3
    · exact .foldl unitStateTo_keeps h3
  exact .foldl bootTile_keeps (.foldl bootTile_keeps h4)

theorem bootPorts_keeps {m : StepMode} {x : BootStep} (h : Keeps s₀ s) : Keeps s₀ (bootPorts s m x) :=
  bootUnits_keeps (bootUnits_keeps h)

theorem settingApply_keeps {e : List Byte} (h : Keeps s₀ s) : Keeps s₀ (settingApply s e) :=
  .ite (journalAdd_keeps h) (.ite (capWrite_keeps h) (.ite (ageWrite_keeps h) (wordWrite_keeps h)))

theorem bootHost_keeps {x : BootStep} (h : Keeps s₀ s) : Keeps s₀ (bootHost s x) := by
  unfold bootHost
  extract_lets s1 link s2
  have h2 : Keeps s₀ s2 := .foldl (fun k => .ite k (unitEvt_keeps (hportSet_keeps k))) (bootUnits_keeps h)
  exact .foldl (fun k => settingApply_keeps k) h2

theorem bootEnd_keeps (h : Keeps s₀ s) : Keeps s₀ (bootEnd s) := fwSet_keeps (journalAdd_keeps (.upd h))

theorem stepEffect_keeps {k : Nat} {m : StepMode} {x : BootStep} (h : Keeps s₀ s) : Keeps s₀ (stepEffect s k m x) := by
  unfold stepEffect
  split
  · exact fwSet_keeps h
  · exact bootKeys_keeps h
  · exact .ite h (bootRestoreKeys_keeps h)
  · exact fwSet_keeps h
  · exact bootMemory_keeps h
  · exact bootMemory_keeps h
  · exact bootUnits_keeps h
  · exact bootTiles_keeps h
  · exact bootPorts_keeps h
  · exact bootHost_keeps h
  · exact bootEnd_keeps h
  · exact h

theorem bootRestart_keeps (h : Keeps s₀ s) : Keeps s₀ (bootRestart s) := by
  unfold bootRestart
  extract_lets s0 back tab f _ s1
  have h1 : Keeps s₀ s1 := (saveRecords_keeps h).wrote ⟨fun _ => rfl, id⟩
  exact fwSet_keeps h1

theorem bootFail_keeps {k : Nat} (h : Keeps s₀ s) : Keeps s₀ (bootFail s k) := by
  unfold bootFail
  extract_lets _ _ s1
  have h1 : Keeps s₀ s1 := bootRestart_keeps (fwSet_keeps h)
  exact .ite h1 (.ite (alertEdge_keeps (fwSet_keeps h1)) (journalAdd_keeps (fwSet_keeps h1)))

theorem bootOne_keeps {x : BootStep} (h : Keeps s₀ s) : Keeps s₀ (bootOne s x) := by
  unfold bootOne
  extract_lets k m s0 s1 st s2
  have h0 : Keeps s₀ s0 := by
    dsimp only [s0]
    clear_value m
    split
    · exact h
    · exact degrade_keeps (journalAdd_keeps h)
    · exact degrade_keeps (journalAdd_keeps h)
  have h2 : Keeps s₀ s2 := journalAdd_keeps (journalAdd_keeps h0)
  exact .ite (bootFail_keeps h2) (alertEdge_keeps (fwSet_keeps (stepEffect_keeps h2)))

theorem bootGo_keeps {steps : List BootStep} (h : Keeps s₀ s) : Keeps s₀ (bootGo steps s) := by
  induction steps generalizing s with
  | nil => exact h
  | cons x r ih => exact .ite h (ih (bootOne_keeps h))

theorem execBootWatchdog_keeps {steps : List BootStep} (h : Keeps s₀ s) : KeepsOut s₀ (execBootWatchdog steps s) :=
  .ite (.next h) (.next (bootGo_keeps (bootFail_keeps h)))

theorem execRcvGo_keeps {w : Writer} {v : W32} {steps : List BootStep} (h : Keeps s₀ s) : KeepsOut s₀ (execRcvGo w v steps s) := by
  unfold execRcvGo
  split
  · exact .next h
  · extract_lets _ _ _ s0 _ s1
    have h0 : Keeps s₀ s0 := fwSet_keeps h
    have h1 : Keeps s₀ s1 := imgSlotSet_keeps h0
    split
    · exact .next h0
    · split
      · exact .next h1
      · exact .next (bootGo_keeps (alertEdge_keeps (journalAdd_keeps (fwSet_keeps (imgSlotSet_keeps h1)))))

theorem execInputPowerOn_keeps {split : Bool} {steps : List BootStep} (h : Keeps s₀ s) :
    KeepsOut s₀ (execInputPowerOn split steps s) := by
  unfold execInputPowerOn
  split
  · exact .next h
  · split
    · exact .next (bootGo_keeps h)
    · exact .ite (.next h) (.next (bootGo_keeps (coldReset_keeps (railsOff_keeps h))))

theorem execUvlo_keeps (h : Keeps s₀ s) : KeepsOut s₀ (execUvlo s) := .next (pwSet_keeps (railsOff_keeps h))

/-! ### Machine/Commit -/

theorem monMerge_keeps {p : Part} {ev : List LineEv} (h : Keeps s₀ s) : Keeps s₀ (monMerge s p ev) := by
  unfold monMerge
  dsimp only
  refine partUpd_keeps ?_
  split
  · exact ctxWriteAt_keeps (ctxRead_keeps h)
  · exact ctxRead_keeps h

theorem execMonitorMergeDone_keeps {t : Nat} {ev : List LineEv} (h : Keeps s₀ s) : KeepsOut s₀ (execMonitorMergeDone t ev s) := by
  unfold execMonitorMergeDone
  split
  · exact .next h
  · split
    · exact .next h
    · exact .ite (.next h) (.next (stepDecide_keeps (txnSet_keeps (monMerge_keeps h))))

theorem execMonHitClear_keeps {t : Nat} {w : Writer} (h : Keeps s₀ s) : KeepsOut s₀ (execMonHitClear t w s) := by
  unfold execMonHitClear
  split
  · exact .next h
  · exact .ite (.next h) (.next (partUpd_keeps h))

/-! ### Machine/HostCmds -/

theorem hdmDeny_keeps {p : Nat} (h : Keeps s₀ s) : Keeps s₀ (hdmDeny s p) := hportSet_keeps h

theorem execHdmAccess_keeps {src : HdmSrc} {off : Nat} {wr : Option (List Byte)} {poison : Bool} (h : Keeps s₀ s) :
    KeepsOut s₀ (execHdmAccess src off wr poison s) := by
  unfold execHdmAccess
  extract_lets
  split
  · exact .next h
  · split
    · refine .next ?_
      split
      · exact hdmDeny_keeps h
      · exact h
      · exact hdmDeny_keeps h
    · exact .next (.ite h (winWrite_keeps h))

theorem execAtsInvalidate_keeps {blk : Nat} (h : Keeps s₀ s) : KeepsOut s₀ (execAtsInvalidate blk s) :=
  .next (.ite (farFail_keeps h) h)

theorem cfgReset_keeps {fks : List Nat} (h : Keeps s₀ s) : Keeps s₀ (cfgReset s fks) := .foldl funcSet_keeps h

theorem vfsOff_keeps {k : Nat} (h : Keeps s₀ s) : Keeps s₀ (vfsOff s k) := hportSet_keeps h

theorem execVfFlr_keeps {port vf : Nat} (h : Keeps s₀ s) : KeepsOut s₀ (execVfFlr port vf s) :=
  .ite (.next h) (.next (cfgReset_keeps (disableEvent_keeps h)))

theorem execPfFlr_keeps {port : Nat} (h : Keeps s₀ s) : KeepsOut s₀ (execPfFlr port s) :=
  .ite (.next h) (.next (vfsOff_keeps (cfgReset_keeps (disableEvent_keeps h))))

theorem execVfEnableClear_keeps {port : Nat} (h : Keeps s₀ s) : KeepsOut s₀ (execVfEnableClear port s) :=
  .ite (.next h) (.next (hportSet_keeps (cfgReset_keeps (disableEvent_keeps h))))

theorem execNumvfsWrite_keeps {port n : Nat} {enable : Bool} (h : Keeps s₀ s) : KeepsOut s₀ (execNumvfsWrite port n enable s) :=
  .ite (.next h) (.next (hportSet_keeps (.ite h (disableEvent_keeps h))))

theorem execBmeClear_keeps {port : Nat} {vf : Option Nat} {set : Bool} (h : Keeps s₀ s) : KeepsOut s₀ (execBmeClear port vf set s) :=
  .ite (.next h) (.next (funcSet_keeps (.ite h (tdiError_keeps h))))

theorem execMseClear_keeps {port : Nat} {vf : Option Nat} {set : Bool} (h : Keeps s₀ s) : KeepsOut s₀ (execMseClear port vf set s) :=
  .ite (.next h) (.next (funcSet_keeps (.ite h (tdiError_keeps h))))

theorem linkReset_keeps {k : Nat} (h : Keeps s₀ s) : Keeps s₀ (linkReset s k) :=
  unitEvt_keeps (vfsOff_keeps (cfgReset_keeps (portIncarnate_keeps (portReset_keeps h))))

theorem execHostLinkDown_keeps {port : Nat} (h : Keeps s₀ s) : KeepsOut s₀ (execHostLinkDown port s) :=
  .next (.ite (linkReset_keeps h) h)

theorem execHostLinkUp_keeps {port speed width : Nat} {flit256 : Bool} (h : Keeps s₀ s) :
    KeepsOut s₀ (execHostLinkUp port speed width flit256 s) :=
    .ite (.next h) (.next (unitEvt_keeps (hportSet_keeps h)))

theorem execViral_keeps {port : Nat} (h : Keeps s₀ s) : KeepsOut s₀ (execViral port s) :=
  .ite (.next h) (.next (.foldl stopPart_keeps (unitEvt_keeps (hportSet_keeps h))))

theorem execCompletionTimeout_keeps {port : Nat} {cmd : Option (Nat × Nat)} {line : Option Nat} (h : Keeps s₀ s) :
    KeepsOut s₀ (execCompletionTimeout port cmd line s) := by
  unfold execCompletionTimeout
  split
  · exact .next h
  · extract_lets _ s1
    have h1 : Keeps s₀ s1 := hportSet_keeps h
    split
    · exact .ite (.next (finishCmd_keeps h1)) (.next h1)
    · exact .next (.ite (lineUncorr_keeps h1) h1)
    · exact .next h1

theorem execCorrectableLinkError_keeps {port : Nat} (h : Keeps s₀ s) : KeepsOut s₀ (execCorrectableLinkError port s) :=
  .next (.ite (hportSet_keeps h) h)

theorem streamHalt_keeps {port stream : Nat} {secure : Bool} (h : Keeps s₀ s) : Keeps s₀ (streamHalt s port stream secure) := by
  unfold streamHalt
  extract_lets _ _ _ s3
  have h3 : Keeps s₀ s3 := .foldl tdiError_keeps (unitEvt_keeps (hportSet_keeps h))
  exact .ite (farUnreached_keeps h3) h3

theorem execIdeIntegrityFail_keeps {port stream : Nat} {e : IdeEv} (h : Keeps s₀ s) :
    KeepsOut s₀ (execIdeIntegrityFail port stream e s) := by
  unfold execIdeIntegrityFail
  extract_lets
  split
  · exact .next h
  · split
    · exact .ite (.next h) (.next (unitEvt_keeps (hportSet_keeps h)))
    · exact .next (streamHalt_keeps h)
    · exact .next (streamHalt_keeps (secAlarm_keeps h))

theorem execIdeKeyProgram_keeps {port stream : Nat} (h : Keeps s₀ s) : KeepsOut s₀ (execIdeKeyProgram port stream s) :=
  .ite (.next h) (.next (hportSet_keeps h))

theorem execLockInterfaceRequest_keeps {port vf stream : Nat} (h : Keeps s₀ s) :
    KeepsOut s₀ (execLockInterfaceRequest port vf stream s) :=
    .ite (.next h) (.next (drawn_keeps (funcSet_keeps h)))

theorem execStartInterfaceRequest_keeps {port vf : Nat} {nonce : List Byte} (h : Keeps s₀ s) :
    KeepsOut s₀ (execStartInterfaceRequest port vf nonce s) :=
    .ite (.next h) (.next (funcSet_keeps h))

theorem execStopInterface_keeps {port vf : Nat} (h : Keeps s₀ s) : KeepsOut s₀ (execStopInterface port vf s) := by
  unfold execStopInterface
  extract_lets _ _ s1
  have h1 : Keeps s₀ s1 := disableEvent_keeps (funcSet_keeps h)
  exact .ite (.next h) (.next (.ite h1 (funcSet_keeps h1)))

theorem execFrozenConfigurationWrite_keeps {port vf : Nat} (h : Keeps s₀ s) : KeepsOut s₀ (execFrozenConfigurationWrite port vf s) :=
  .next (.ite (tdiError_keeps h) h)

/-! ### Machine/MeterCmds -/

theorem mtSet_keeps {m : MeterSt} (h : Keeps s₀ s) : Keeps s₀ (mtSet s m) := .upd h

theorem logWrap_keeps (h : Keeps s₀ s) : Keeps s₀ (logWrap s) := mtSet_keeps (signMsg_keeps h)

theorem logAdd_keeps {typ arg : Nat} (h : Keeps s₀ s) : Keeps s₀ (logAdd s typ arg) :=
  .ite (logWrap_keeps (mtSet_keeps h)) (mtSet_keeps h)

theorem meterSees_keeps {x : MeterIn} (h : Keeps s₀ s) : Keeps s₀ (meterSees s x) :=
  .ite (logAdd_keeps (mtSet_keeps h)) (mtSet_keeps h)

theorem seqNext_keeps (h : Keeps s₀ s) : Keeps s₀ (seqNext s) := mtSet_keeps h

theorem readingSign_keeps {kind : Nat} {nonce : List Byte} (h : Keeps s₀ s) : Keeps s₀ (readingSign s kind nonce) :=
  mtSet_keeps (signMsg_keeps h)

theorem execMeterPeriodic_keeps {m : MeterIn} (h : Keeps s₀ s) : KeepsOut s₀ (execMeterPeriodic m s) :=
  .ite (.next h) (.next (readingSign_keeps (seqNext_keeps (meterSees_keeps h))))

theorem meterAnswer_keeps {code status : Nat} {body : List Byte} (h : Keeps s₀ s) : Keeps s₀ (meterAnswer s code status body) :=
  mtSet_keeps h

theorem meterRequest_keeps {prev : Bool} {code : Nat} {go : State → State} (h : Keeps s₀ s)
    (hgo : ∀ {s}, Keeps s₀ s → Keeps s₀ (go s)) : KeepsOut s₀ (meterRequest s prev code go) := by
  unfold meterRequest
  split
  · exact .next h
  · exact .ite (.next (mtSet_keeps (.ite (mtSet_keeps h) h))) (.next (hgo (.ite (mtSet_keeps h) h)))

theorem execGetReading_keeps {m : MeterIn} {prev : Bool} {body : List Byte} (h : Keeps s₀ s) :
    KeepsOut s₀ (execGetReading m prev body s) := by
  unfold execGetReading
  refine meterRequest_keeps h (fun k => ?_)
  split
  · exact meterAnswer_keeps k
  · exact meterAnswer_keeps (readingSign_keeps (logAdd_keeps (seqNext_keeps (meterSees_keeps k))))

theorem execGetLog_keeps {prev : Bool} {body : List Byte} (h : Keeps s₀ s) : KeepsOut s₀ (execGetLog prev body s) :=
  meterRequest_keeps h (fun k => .ite (meterAnswer_keeps k) (meterAnswer_keeps k))

theorem execGetWrap_keeps {prev : Bool} (h : Keeps s₀ s) : KeepsOut s₀ (execGetWrap prev s) :=
  meterRequest_keeps h meterAnswer_keeps

theorem execGetCert_keeps {prev : Bool} {body : List Byte} (h : Keeps s₀ s) : KeepsOut s₀ (execGetCert prev body s) :=
  meterRequest_keeps h (fun k => .ite (meterAnswer_keeps k) (meterAnswer_keeps k))

theorem tokenRejected_keeps {code : Nat} (h : Keeps s₀ s) : Keeps s₀ (tokenRejected s code) := meterAnswer_keeps (logAdd_keeps h)

theorem sealTo_keeps {code typ : Nat} {b : Bool} (h : Keeps s₀ s) : Keeps s₀ (sealTo s code typ b) :=
  .ite (meterAnswer_keeps h) (meterAnswer_keeps (logAdd_keeps (mtSet_keeps h)))

theorem execMeterSeal_keeps {m : MeterIn} {prev : Bool} {token : List Byte} (h : Keeps s₀ s) :
    KeepsOut s₀ (execMeterSeal m prev token s) := by
  unfold execMeterSeal
  refine meterRequest_keeps h (fun k => ?_)
  extract_lets s1
  have h1 : Keeps s₀ s1 := meterSees_keeps k
  split
  · exact meterAnswer_keeps h1
  · exact .ite (tokenRejected_keeps h1) (.ite (meterAnswer_keeps h1) (sealTo_keeps h1))

theorem execMeterUnseal_keeps {m : MeterIn} {prev : Bool} {token : List Byte} (h : Keeps s₀ s) :
    KeepsOut s₀ (execMeterUnseal m prev token s) := by
  unfold execMeterUnseal
  refine meterRequest_keeps h (fun k => ?_)
  extract_lets s1
  have h1 : Keeps s₀ s1 := meterSees_keeps k
  exact .ite (meterAnswer_keeps h1) (.ite (tokenRejected_keeps h1) (sealTo_keeps h1))

theorem execCalibrate_keeps {m : MeterIn} {prev : Bool} {body : List Byte} {last genuine : Bool} (h : Keeps s₀ s) :
    KeepsOut s₀ (execCalibrate m prev body last genuine s) := by
  unfold execCalibrate
  refine meterRequest_keeps h (fun k => ?_)
  extract_lets s1
  have h1 : Keeps s₀ s1 := meterSees_keeps k
  split
  · exact meterAnswer_keeps h1
  · split
    · exact meterAnswer_keeps h1
    · split
      · exact meterAnswer_keeps h1
      · split
        · exact meterAnswer_keeps (mtSet_keeps h1)
        · split
          · exact meterAnswer_keeps (mtSet_keeps h1)
          · exact .ite (meterAnswer_keeps (mtSet_keeps h1)) (meterAnswer_keeps (logAdd_keeps (mtSet_keeps h1)))

theorem execTamper_keeps {m : MeterIn} (h : Keeps s₀ s) : KeepsOut s₀ (execTamper m s) :=
  .ite (.next h) (.next (logAdd_keeps (mtSet_keeps (meterSees_keeps h))))

theorem execMeterPowerDown_keeps {m : MeterIn} (h : Keeps s₀ s) : KeepsOut s₀ (execMeterPowerDown m s) :=
  .ite (.next h) (.next (mtSet_keeps (logAdd_keeps (meterSees_keeps h))))

theorem execMeterPowerUp_keeps {m : MeterIn} (h : Keeps s₀ s) : KeepsOut s₀ (execMeterPowerUp m s) :=
  .ite (.next h) (.next (logAdd_keeps (meterSees_keeps (mtSet_keeps h))))

theorem execMirrorUpdate_keeps (h : Keeps s₀ s) : KeepsOut s₀ (execMirrorUpdate s) :=
  .ite (.next h) (.next (alertEdge_keeps (.upd h)))

theorem execMeterLinkFail_keeps (h : Keeps s₀ s) : KeepsOut s₀ (execMeterLinkFail s) :=
  .ite (.next h) (.next (alertEdge_keeps (.upd h)))

/-! ### Machine/PowerCmds -/

theorem execPwrWarnAssert_keeps {board : Bool} (h : Keeps s₀ s) : KeepsOut s₀ (execPwrWarnAssert board s) :=
  .next (.ite (emergOn_keeps (.upd (pwSet_keeps h))) (.upd (pwSet_keeps h)))

theorem execPwrWarnDeassert_keeps (h : Keeps s₀ s) : KeepsOut s₀ (execPwrWarnDeassert s) :=
  .next (.ite (emergOff_keeps (.upd (pwSet_keeps h))) (.upd (pwSet_keeps h)))

theorem levelsSet_keeps {f : Part → Nat} (h : Keeps s₀ s) : Keeps s₀ (levelsSet s f) := pwSet_keeps h

theorem limiterMove_keeps {ovr : Bool} {raise : Nat} (h : Keeps s₀ s) : Keeps s₀ (limiterMove s ovr raise) :=
  .ite (levelsSet_keeps h) (.ite (levelsSet_keeps h) (.ite (levelsSet_keeps h) (levelsSet_keeps h)))

theorem execLimiterStep_keeps {v i p raise : Nat} (h : Keeps s₀ s) : KeepsOut s₀ (execLimiterStep v i p raise s) :=
  .ite (.next h) (.next (limiterMove_keeps (pwSet_keeps h)))

theorem execPowerEstimate_keeps {est : List (Nat × Nat)} {dies : List Nat} (h : Keeps s₀ s) :
    KeepsOut s₀ (execPowerEstimate est dies s) :=
    .ite (.next h) (.next (pwSet_keeps h))

theorem thermalTrip_keeps {cause : Nat} (h : Keeps s₀ s) : Keeps s₀ (thermalTrip s cause) :=
  alertEdge_keeps (railsOff_keeps (pwSet_keeps h))

theorem readAon_keeps {r : Thermal} (h : Keeps s₀ s) : Keeps s₀ (readAon s r) := pwSet_keeps h

theorem readAll_keeps {r : Thermal} (h : Keeps s₀ s) : Keeps s₀ (readAll s r) := pwSet_keeps (readAon_keeps h)

theorem readEmerg_keeps {r : Thermal} (h : Keeps s₀ s) : Keeps s₀ (readEmerg s r) := emergTo_keeps (pwSet_keeps h)

theorem readMargin_keeps {r : Thermal} (h : Keeps s₀ s) : Keeps s₀ (readMargin s r) :=
  .ite (postPower_keeps (pwSet_keeps h)) (pwSet_keeps h)

theorem execThermalReading_keeps {r : Thermal} (h : Keeps s₀ s) : KeepsOut s₀ (execThermalReading r s) := by
  unfold execThermalReading
  split
  · exact .next (.ite (readAon_keeps h) h)
  · extract_lets s1
    have h1 : Keeps s₀ s1 := readEmerg_keeps (readMargin_keeps (readAll_keeps h))
    exact .next (.ite h1 (thermalTrip_keeps h1))

theorem execEmergDuration_keeps {src : Nat} (h : Keeps s₀ s) : KeepsOut s₀ (execEmergDuration src s) := by
  unfold execEmergDuration
  split
  · exact .next h
  · split
    · exact .ite (.next (.ite (emergOff_keeps h) h)) (.ite (.next (emergOn_keeps h)) (.next h))
    · exact .next (.ite (emergOff_keeps (pwSet_keeps h)) h)
    · exact .next (.ite (emergOff_keeps (pwSet_keeps h)) (pwSet_keeps h))
    · exact .next (.ite (emergOff_keeps h) h)
    · exact .ite (.next (.ite (emergOff_keeps h) h)) (.next (.ite (emergOn_keeps h) h))
    · exact .next (.ite (thermalTrip_keeps h) h)
    · exact .next h

theorem execPwrCapWrite_keeps {w : Writer} {v : W32} (h : Keeps s₀ s) : KeepsOut s₀ (execPwrCapWrite w v s) :=
  .next (.ite (capWrite_keeps h) h)

theorem execPwrOppWrite_keeps {w : Writer} {k : Nat} {v : W32} (h : Keeps s₀ s) : KeepsOut s₀ (execPwrOppWrite w k v s) :=
  .next (.ite (.foldl oppWrite_keeps h) h)

theorem execDieVoltageReached_keeps {d : Nat} (h : Keeps s₀ s) : KeepsOut s₀ (execDieVoltageReached d s) :=
  .next (.ite (oppApply_keeps (pwSet_keeps h)) h)

theorem execAgePredWrite_keeps {w : Writer} {v : RegPart} (h : Keeps s₀ s) : KeepsOut s₀ (execAgePredWrite w v s) :=
  .next (.ite (ageWrite_keeps h) h)

theorem execTripCauseClear_keeps {w : Writer} {v : W32} (h : Keeps s₀ s) : KeepsOut s₀ (execTripCauseClear w v s) :=
  .next (.ite (alertEdge_keeps (pwSet_keeps h)) h)

theorem execApportion_keeps {shares : List (Nat × Nat)} {total : Nat} (h : Keeps s₀ s) : KeepsOut s₀ (execApportion shares total s) :=
  .ite (.next h) (.next (pwSet_keeps h))

/-! ### Machine/PinCmds -/

theorem execModRstLow_keeps (h : Keeps s₀ s) : KeepsOut s₀ (execModRstLow s) := .next (.upd (railsOff_keeps (lcProgram_keeps h)))

theorem execModRstRise_keeps {split : Bool} {steps : List BootStep} {waited : Bool} (h : Keeps s₀ s) :
    KeepsOut s₀ (execModRstRise split steps waited s) :=
    .ite (.next h) (.next (.ite (.upd h) (bootGo_keeps (coldReset_keeps (.upd h)))))

theorem perstSet_keeps {port : Nat} {level : Bool} (h : Keeps s₀ s) : Keeps s₀ (perstSet s port level) := .upd h

theorem execPerstAssert_keeps {port : Nat} (h : Keeps s₀ s) : KeepsOut s₀ (execPerstAssert port s) :=
  .ite (.next h) (.next (.ite (linkReset_keeps (perstSet_keeps h)) (perstSet_keeps h)))

theorem execPerstDeassert_keeps {port : Nat} {steps : List BootStep} (h : Keeps s₀ s) : KeepsOut s₀ (execPerstDeassert port steps s) :=
  .ite (.next h) (.next (.ite (bootGo_keeps (perstSet_keeps h)) (perstSet_keeps h)))

theorem execFlashOwn_keeps {level : Bool} {steps : List BootStep} (h : Keeps s₀ s) : KeepsOut s₀ (execFlashOwn level steps s) :=
  .next (.ite (bootGo_keeps (.upd h)) (.upd h))

theorem execI3cRead_keeps {off len : Nat} (h : Keeps s₀ s) : KeepsOut s₀ (execI3cRead off len s) :=
  .ite (.next h) (.next (.upd h))

theorem jtagIr_keeps {ir : Nat} {go : State → State} (h : Keeps s₀ s) (hgo : ∀ {s}, Keeps s₀ s → Keeps s₀ (go s)) :
    KeepsOut s₀ (jtagIr s ir go) :=
    .ite (.next h) (.ite (.next (hgo (.upd h))) (.next (.upd h)))

theorem debugSeen_keeps (h : Keeps s₀ s) : Keeps s₀ (debugSeen s) := lcSet_keeps h

theorem execExtest_keeps {cells : Nat} (h : Keeps s₀ s) : KeepsOut s₀ (execExtest cells s) :=
  jtagIr_keeps h (fun k => debugSeen_keeps (.upd k))

theorem execIdcode_keeps (h : Keeps s₀ s) : KeepsOut s₀ (execIdcode s) := jtagIr_keeps h (fun k => .upd k)

theorem execSamplePreload_keeps {cells : Nat} (h : Keeps s₀ s) : KeepsOut s₀ (execSamplePreload cells s) :=
  jtagIr_keeps h (fun k => debugSeen_keeps (.upd k))

theorem lcAccessGo_keeps {a : LcAcc} (h : Keeps s₀ s) : Keeps s₀ (lcAccessGo a s) := by
  unfold lcAccessGo
  split
  · exact .upd h
  · exact .ite (lcSet_keeps h) h
  · exact .ite (lcRequest_keeps h) h

theorem execLcAccess_keeps {a : LcAcc} (h : Keeps s₀ s) : KeepsOut s₀ (execLcAccess a s) := jtagIr_keeps h lcAccessGo_keeps

theorem execJtagDebug_keeps {ir : Nat} (h : Keeps s₀ s) : KeepsOut s₀ (execJtagDebug ir s) :=
  .ite (jtagIr_keeps h debugSeen_keeps) (.next h)

theorem execBypass_keeps (h : Keeps s₀ s) : KeepsOut s₀ (execBypass s) := jtagIr_keeps h (fun k => .upd k)

/-! ### Machine/PlateFetch -/

theorem fetchArrive_keeps {t addr : Nat} {blank : Bool} (h : Keeps s₀ s) : Keeps s₀ (fetchArrive s t addr blank) :=
  .ite (tileSet_keeps (.upd h)) (tileSet_keeps h)

theorem plateLine_keeps {p : Part} {t addr : Nat} (h : Keeps s₀ s) : Keeps s₀ (plateLine s p t addr).1 := by
  unfold plateLine
  dsimp only
  split
  · exact .pair h
  · split
    · exact .pair h
    · exact .iteFst (.pair (fetchLine_keeps h)) (.pair (cacheSet_keeps (ctxReadLine_keeps h)))

theorem execPlateFetchArrive_keeps {t addr status : Nat} (h : Keeps s₀ s) : KeepsOut s₀ (execPlateFetchArrive t addr status s) := by
  unfold execPlateFetchArrive
  extract_lets
  split
  · exact .next h
  · split
    · exact .next h
    · split
      · exact .next (plateFault_keeps h)
      · split
        · exact .next h
        · extract_lets r
          have hr : Keeps s₀ r.1 := plateLine_keeps h
          exact .ite (.next (.ite (plateFault_keeps hr) hr)) (.next (fetchArrive_keeps hr))

/-! ### Machine/Exec, Machine/Step -/

/-- Every command keeps the queue's rest, the variant and the canonical form: its own lemma above says so. -/
theorem exec_keeps (h : Keeps s₀ s) : (i : Instr) → KeepsOut s₀ (exec i s)
  | .unitNop .. => .next h
  | .quiesce .. => execQuiesce_keeps h
  | .resume .. => execResume_keeps h
  | .reset .. => execReset_keeps h
  | .sleep .. => execSleep_keeps h
  | .retire .. => execRetire_keeps h
  | .unitQuiesced .. => execUnitQuiesced_keeps h
  | .resetDone .. => execResetDone_keeps h
  | .wakeDone .. => execWakeDone_keeps h
  | .fatalInternalError .. => execFatalInternalError_keeps h
  | .requestArrival .. => execRequestArrival_keeps h
  | .replyArrival .. => execReplyArrival_keeps h
  | .requestReissue .. => execRequestReissue_keeps h
  | .quiesceDrainLimit .. => execQuiesceDrainLimit_keeps h
  | .requestSoftTimeout .. => execRequestSoftTimeout_keeps h
  | .requestHardTimeout .. => execRequestHardTimeout_keeps h
  | .transactionTimeout .. => execTransactionTimeout_keeps h
  | .txnEnrol .. => execTxnEnrol_keeps h
  | .txnPrepare .. => execTxnPrepare_keeps h
  | .txnVote .. => execTxnVote_keeps h
  | .txnCommit .. => execTxnCommit_keeps h
  | .txnAck .. => execTxnAck_keeps h
  | .txnAbort .. => execTxnAbort_keeps h
  | .decisionQuery .. => execDecisionQuery_keeps h
  | .unitEvtWrite .. => execUnitEvtWrite_keeps h
  | .errlogClear .. => execErrlogClear_keeps h
  | .registerWrite .. => execRegisterWrite_keeps h
  | .substGo .. => execSubstGo_keeps h
  | .substCancel .. => execSubstCancel_keeps h
  | .liveSubstStart .. => execLiveSubstStart_keeps h
  | .liveSubstCommit .. => execLiveSubstCommit_keeps h
  | .substClearDone .. => execSubstClearDone_keeps h
  | .pendingStart .. => execPendingStart_keeps h
  | .wload .. => execWload_keeps h
  | .stream .. => execStream_keeps h
  | .drain .. => execDrain_keeps h
  | .batchAppend .. => execBatchAppend_keeps h
  | .batchRelease .. => execBatchRelease_keeps h
  | .batchDeadline .. => execBatchDeadline_keeps h
  | .batchRetire .. => execBatchRetire_keeps h
  | .move .. => execMove_keeps h
  | .prefetch .. => execPrefetch_keeps h
  | .streamCmdDone .. => execStreamCmdDone_keeps h
  | .tdload .. => execTdload_keeps h
  | .tdbase .. => execTdbase_keeps h
  | .lstart .. => execLstart_keeps h
  | .lstartS .. => execLstartS_keeps h
  | .call .. => execCall_keeps h
  | .ret .. => execRet_keeps h
  | .halt .. => execHalt_keeps h
  | .addi .. => execAddi_keeps h
  | .scalarAdd .. => execScalarAdd_keeps h
  | .scalarSub .. => execScalarSub_keeps h
  | .scalarMul .. => execScalarMul_keeps h
  | .sAnd .. => execSAnd_keeps h
  | .sOr .. => execSOr_keeps h
  | .sXor .. => execSXor_keeps h
  | .shli .. => execShli_keeps h
  | .shri .. => execShri_keeps h
  | .srai .. => execSrai_keeps h
  | .scalarMin .. => execScalarMin_keeps h
  | .scalarMax .. => execScalarMax_keeps h
  | .li .. => execLi_keeps h
  | .sel .. => execSel_keeps h
  | .sld .. => execSld_keeps h
  | .sst .. => execSst_keeps h
  | .xset .. => execXset_keeps h
  | .xaddi .. => execXaddi_keeps h
  | .xadd .. => execXadd_keeps h
  | .xcopy .. => execXcopy_keeps h
  | .xget .. => execXget_keeps h
  | .wait .. => execWait_keeps h
  | .barrier .. => execBarrier_keeps h
  | .barrierArrive .. => execBarrierArrive_keeps h
  | .tokenDec .. => execTokenDec_keeps h
  | .flagclr .. => execFlagclr_keeps h
  | .cfg .. => execCfg_keeps h
  | .abortStep .. => execAbortStep_keeps h
  | .stepOpen .. => execStepOpen_keeps h
  | .stepCommit .. => execStepCommit_keeps h
  | .coll .. => execColl_keeps h
  | .waitTimeout .. => execWaitTimeout_keeps h
  | .plateFetchArrive .. => execPlateFetchArrive_keeps h
  | .runComplete .. => execRunComplete_keeps h
  | .vcopy .. => execVcopy_keeps h
  | .fills .. => execFills_keeps h
  | .iadd .. => execIadd_keeps h
  | .iand .. => execIand_keeps h
  | .ior .. => execIor_keeps h
  | .ixor .. => execIxor_keeps h
  | .cmplt .. => execCmplt_keeps h
  | .cmpeq .. => execCmpeq_keeps h
  | .select .. => execSelect_keeps h
  | .vadd .. => execVadd_keeps h
  | .vsub .. => execVsub_keeps h
  | .vmul .. => execVmul_keeps h
  | .fma .. => execFma_keeps h
  | .axpby .. => execAxpby_keeps h
  | .axpby2 .. => execAxpby2_keeps h
  | .vmin .. => execVmin_keeps h
  | .vmax .. => execVmax_keeps h
  | .scale .. => execScale_keeps h
  | .add64 .. => execAdd64_keeps h
  | .cvt .. => execCvt_keeps h
  | .updw .. => execUpdw_keeps h
  | .div .. => execDiv_keeps h
  | .sqrt .. => execSqrt_keeps h
  | .rsqrt .. => execRsqrt_keeps h
  | .vexp .. => execVexp_keeps h
  | .vlog .. => execVlog_keeps h
  | .tanh .. => execTanh_keeps h
  | .sigmoid .. => execSigmoid_keeps h
  | .silu .. => execSilu_keeps h
  | .gelu .. => execGelu_keeps h
  | .rsum .. => execRsum_keeps h
  | .rsumsq .. => execRsumsq_keeps h
  | .rmax .. => execRmax_keeps h
  | .rmin .. => execRmin_keeps h
  | .rmaxabs .. => execRmaxabs_keeps h
  | .rndu .. => execRndu_keeps h
  | .dropout .. => execDropout_keeps h
  | .rndb .. => execRndb_keeps h
  | .monitorMergeDone .. => execMonitorMergeDone_keeps h
  | .monHitClear .. => execMonHitClear_keeps h
  | .launchStart .. => execLaunchStart_keeps h
  | .send .. => execSend_keeps h
  | .recv .. => execRecv_keeps h
  | .reduce .. => execReduce_keeps h
  | .drupeletCopy .. => execDrupeletCopy_keeps h
  | .lanLoop .. => execLanLoop_keeps h
  | .countx .. => execCountx_keeps h
  | .countr .. => execCountr_keeps h
  | .endProg .. => execEndProg_keeps h
  | .launchComplete .. => execLaunchComplete_keeps h
  | .dataFrame .. => execDataFrame_keeps h
  | .creditFrame .. => execCreditFrame_keeps h
  | .ackFrame .. => execAckFrame_keeps h
  | .nackFrame .. => execNackFrame_keeps h
  | .probe .. => execProbe_keeps h
  | .probeRsp .. => execProbeRsp_keeps h
  | .joinMsg .. => execJoinMsg_keeps h
  | .keyconf .. => execKeyconf_keeps h
  | .voteMsg .. => execVoteMsg_keeps h
  | .decision .. => execDecision_keeps h
  | .vack .. => execVack_keeps h
  | .closed .. => execClosed_keeps h
  | .dquery .. => execDquery_keeps h
  | .failMsg .. => execFailMsg_keeps h
  | .goneMsg .. => execGoneMsg_keeps h
  | .mkpdu .. => execMkpdu_keeps h
  | .probeInterval .. => execProbeInterval_keeps h
  | .ackInterval .. => execAckInterval_keeps h
  | .retransmissionTimeout .. => execRetransmissionTimeout_keeps h
  | .unreachableLimit .. => execUnreachableLimit_keeps h
  | .fabricLinkUp .. => execFabricLinkUp_keeps h
  | .fabricLinkLoss .. => execFabricLinkLoss_keeps h
  | .allowWrite .. => execAllowWrite_keeps h
  | .uctCfgWrite .. => execUctCfgWrite_keeps h
  | .fpCtlWrite .. => execFpCtlWrite_keeps h
  | .fpCakWrite .. => execFpCakWrite_keeps h
  | .metadataEvict .. => execMetadataEvict_keeps h
  | .patrolScrub .. => execPatrolScrub_keeps h
  | .rowRemapDone .. => execRowRemapDone_keeps h
  | .mcRemapCmd .. => execMcRemapCmd_keeps h
  | .mcEvac .. => execMcEvac_keeps h
  | .migrationCopyDone .. => execMigrationCopyDone_keeps h
  | .frameDrained .. => execFrameDrained_keeps h
  | .frameScrubDone .. => execFrameScrubDone_keeps h
  | .farBlockReinit .. => execFarBlockReinit_keeps h
  | .encAlarmClear .. => execEncAlarmClear_keeps h
  | .hdmAccess .. => execHdmAccess_keeps h
  | .snoop .. => .next h
  | .atsInvalidate .. => execAtsInvalidate_keeps h
  | .numvfsWrite .. => execNumvfsWrite_keeps h
  | .vfFlr .. => execVfFlr_keeps h
  | .pfFlr .. => execPfFlr_keeps h
  | .vfEnableClear .. => execVfEnableClear_keeps h
  | .bmeClear .. => execBmeClear_keeps h
  | .mseClear .. => execMseClear_keeps h
  | .hostLinkDown .. => execHostLinkDown_keeps h
  | .viral .. => execViral_keeps h
  | .completionTimeout .. => execCompletionTimeout_keeps h
  | .ideIntegrityFail .. => execIdeIntegrityFail_keeps h
  | .ideKeyProgram .. => execIdeKeyProgram_keeps h
  | .lockInterfaceRequest .. => execLockInterfaceRequest_keeps h
  | .stopInterface .. => execStopInterface_keeps h
  | .sqTail .. => execSqTail_keeps h
  | .cqHead .. => execCqHead_keeps h
  | .evqHead .. => execEvqHead_keeps h
  | .ringNop .. => execRingNop_keeps h
  | .identify .. => execIdentify_keeps h
  | .ifNegotiate .. => execIfNegotiate_keeps h
  | .ctxCreate .. => execCtxCreate_keeps h
  | .ctxDestroy .. => execCtxDestroy_keeps h
  | .vfBind .. => execVfBind_keeps h
  | .vfUnbind .. => execVfUnbind_keeps h
  | .dmaWindow .. => execDmaWindow_keeps h
  | .farWindow .. => execFarWindow_keeps h
  | .objShare .. => execObjShare_keeps h
  | .objCreate .. => execObjCreate_keeps h
  | .objRef .. => execObjRef_keeps h
  | .objUnref .. => execObjUnref_keeps h
  | .objQuery .. => execObjQuery_keeps h
  | .queueCreate .. => execQueueCreate_keeps h
  | .abortQueues .. => execAbortQueues_keeps h
  | .fenceAbandon .. => execFenceAbandon_keeps h
  | .memMap .. => execMemMap_keeps h
  | .memUnmap .. => execMemUnmap_keeps h
  | .memRelease .. => execMemRelease_keeps h
  | .memReserve .. => execMemReserve_keeps h
  | .memRedirClear .. => execMemRedirClear_keeps h
  | .dmaCopy .. => execDmaCopy_keeps h
  | .dmaFill .. => execDmaFill_keeps h
  | .plateLoad .. => execPlateLoad_keeps h
  | .run .. => execRun_keeps h
  | .stepConfig .. => execStepConfig_keeps h
  | .groupJoin .. => execGroupJoin_keeps h
  | .groupLeave .. => execGroupLeave_keeps h
  | .fenceWaitRelease .. => execFenceWaitRelease_keeps h
  | .commandComplete .. => execCommandComplete_keeps h
  | .objRelease .. => execObjRelease_keeps h
  | .evOverflow .. => execEvOverflow_keeps h
  | .partBind .. => execPartBind_keeps h
  | .partUnbind .. => execPartUnbind_keeps h
  | .partBurnGo .. => execPartBurnGo_keeps h
  | .tileClearDone .. => execTileClearDone_keeps h
  | .contextBurnish .. => execContextBurnish_keeps h
  | .burnStuck .. => execBurnStuck_keeps h
  | .shardLoad .. => execShardLoad_keeps h
  | .shardCheck .. => execShardCheck_keeps h
  | .shardRelease .. => execShardRelease_keeps h
  | .shardPeriodicCheck .. => execShardPeriodicCheck_keeps h
  | .ckptExport .. => execCkptExport_keeps h
  | .ckptImport .. => execCkptImport_keeps h
  | .partQuery .. => execPartQuery_keeps h
  | .keyGenerate .. => execKeyGenerate_keeps h
  | .keyDerive .. => execKeyDerive_keeps h
  | .keyImport .. => execKeyImport_keeps h
  | .keyDestroy .. => execKeyDestroy_keeps h
  | .keyQuery .. => execKeyQuery_keeps h
  | .keyAttest .. => execKeyAttest_keeps h
  | .measReport .. => execMeasReport_keeps h
  | .attMsg .. => execAttMsg_keeps h
  | .getInfo .. => execGetInfo_keeps h
  | .mbOpen .. => execMbOpen_keeps h
  | .mbFinish .. => execMbFinish_keeps h
  | .mbReport .. => execMbReport_keeps h
  | .mbClose .. => execMbClose_keeps h
  | .getVersion .. => execGetVersion_keeps h
  | .getCapabilities .. => execGetCapabilities_keeps h
  | .negotiateAlgorithms .. => execNegotiateAlgorithms_keeps h
  | .getDigests .. => execGetDigests_keeps h
  | .getCertificate .. => execGetCertificate_keeps h
  | .challenge .. => execChallenge_keeps h
  | .getMeasurements .. => execGetMeasurements_keeps h
  | .keyExchange .. => execKeyExchange_keeps h
  | .spdmFinish .. => execSpdmFinish_keeps h
  | .heartbeat .. => execHeartbeat_keeps h
  | .keyUpdate .. => execKeyUpdate_keeps h
  | .endSession .. => execEndSession_keeps h
  | .vendorDefinedRequest .. => spdmActive_keeps h spdmError_keeps
  | .rngFail => execRngFail_keeps h
  | .lcTransition .. => execLcTransition_keeps h
  | .lcUnlock .. => execLcUnlock_keeps h
  | .lcComplete .. => execLcComplete_keeps h
  | .fwStageBegin .. => execFwStageBegin_keeps h
  | .fwStageData .. => execFwStageData_keeps h
  | .fwVerify .. => execFwVerify_keeps h
  | .fwArm .. => execFwArm_keeps h
  | .fwCancel .. => execFwCancel_keeps h
  | .fwQuery .. => execFwQuery_keeps h
  | .fwArbRaise .. => execFwArbRaise_keeps h
  | .fwSettings .. => execFwSettings_keeps h
  | .actHoldoff => execActHoldoff_keeps h
  | .actRetry .. => execActRetry_keeps h
  | .bootWatchdog .. => execBootWatchdog_keeps h
  | .mgmtWatchdog .. => execMgmtWatchdog_keeps h
  | .rcvGo .. => execRcvGo_keeps h
  | .inputPowerOn .. => execInputPowerOn_keeps h
  | .pwrWarnAssert .. => execPwrWarnAssert_keeps h
  | .pwrWarnDeassert => execPwrWarnDeassert_keeps h
  | .uvlo => execUvlo_keeps h
  | .limiterStep .. => execLimiterStep_keeps h
  | .powerEstimate .. => execPowerEstimate_keeps h
  | .thermalReading .. => execThermalReading_keeps h
  | .emergDuration .. => execEmergDuration_keeps h
  | .pwrCapWrite .. => execPwrCapWrite_keeps h
  | .pwrOppWrite .. => execPwrOppWrite_keeps h
  | .agePredWrite .. => execAgePredWrite_keeps h
  | .tripCauseClear .. => execTripCauseClear_keeps h
  | .apportion .. => execApportion_keeps h
  | .meterPeriodic .. => execMeterPeriodic_keeps h
  | .getReading .. => execGetReading_keeps h
  | .getLog .. => execGetLog_keeps h
  | .getWrap .. => execGetWrap_keeps h
  | .getCert .. => execGetCert_keeps h
  | .meterSeal .. => execMeterSeal_keeps h
  | .meterUnseal .. => execMeterUnseal_keeps h
  | .calibrate .. => execCalibrate_keeps h
  | .tamper .. => execTamper_keeps h
  | .mirrorUpdate => execMirrorUpdate_keeps h
  | .meterLinkFail => execMeterLinkFail_keeps h
  | .modRstLow => execModRstLow_keeps h
  | .modRstRise .. => execModRstRise_keeps h
  | .perstAssert .. => execPerstAssert_keeps h
  | .perstDeassert .. => execPerstDeassert_keeps h
  | .flashOwn .. => execFlashOwn_keeps h
  | .i3cRead .. => execI3cRead_keeps h
  | .extest .. => execExtest_keeps h
  | .idcode => execIdcode_keeps h
  | .samplePreload .. => execSamplePreload_keeps h
  | .lcAccess .. => execLcAccess_keeps h
  | .jtagDebug .. => execJtagDebug_keeps h
  | .bypass => execBypass_keeps h
  | .hostLinkUp .. => execHostLinkUp_keeps h
  | .startInterfaceRequest .. => execStartInterfaceRequest_keeps h
  | .frozenConfigurationWrite .. => execFrozenConfigurationWrite_keeps h
  | .onlineRetraining .. => execOnlineRetraining_keeps h
  | .mkaLivePeerLoss .. => execMkaLivePeerLoss_keeps h
  | .filteredFrame .. => execFilteredFrame_keeps h
  | .entropySourcePass => execEntropySourcePass_keeps h
  | .meterPowerDown .. => execMeterPowerDown_keeps h
  | .meterPowerUp .. => execMeterPowerUp_keeps h
  | .correctableLinkError .. => execCorrectableLinkError_keeps h
  | .dieVoltageReached .. => execDieVoltageReached_keeps h
end

theorem Keeps.memoriesWf_of {s t : State} (k : Keeps s t) (w : memoriesWf s = true) : memoriesWf t = true := by
  obtain ⟨wb, ww⟩ := Bool.and_eq_true_iff.mp w
  exact Bool.and_eq_true_iff.mpr ⟨k.mem.1 wb, k.mem.2 ww⟩

/-- Settles O59: each command keeps what the statement lists from the state in which the queue holds only its rest, and an empty
queue leaves the state as it is. -/
theorem everyStepKeeps : Obligations.EveryStepKeeps := by
  unfold Obligations.EveryStepKeeps
  intro s t e
  unfold step at e
  split at e
  case h_1 hp =>
    cases e
    exact ⟨by rw [hp, List.tail_nil], rfl, id⟩
  case h_2 c r hp =>
    have k : Keeps { s with pending := r } t := exec_keeps (.refl _) c t e
    exact ⟨by rw [k.pending, hp, List.tail_cons], k.variant, k.memoriesWf_of⟩

end Sys2Proof.Machine
end

section
/-! PROOF. What every step keeps apart (O60). `placed` is all that the two invariants read: the shapes of the partition table and the
slots that pages and flash records name. Almost every function leaves it as it is, which a simp lemma under the function's name
says (`_placed`). The few that write it (binding and clearing a partition, the exchange of a substitution, power-off, restart and boot)
keep apart what stood apart (`_apart`). -/
namespace Sys2Proof.Machine
open Sys2Proof
-- One lemma after the other, as in the proof of O59: the check's memory has no room for more threads.
set_option Elab.async false

/-- The shapes of the partition table under their keys, and the slots that the pages and the flash records name. -/
def placed (s : State) : List (Nat × Nat × Nat) × Map Nat × Map Nat :=
  (s.tl.parts.map (fun e => (e.1, e.2.t0, e.2.log2n)), s.un.phys, s.fw.recs.phys)

/-- An answer's next state places all as the state before. -/
def PlacedOut (s : State) (o : Out) : Prop := ∀ t, o = .next t → placed t = placed s

/-- So does the state that an access of a collective engine answers with. -/
def PlacedGot (s : State) : Got → Prop
  | .wait => True
  | .ok t _ => placed t = placed s
  | .failed t => placed t = placed s

/-- The same of an access that may have no address. -/
def PlacedRead (s : State) : Option Got → Prop
  | none => True
  | some g => PlacedGot s g

/-- So does the state that the arrival of a frame leaves. -/
def PlacedArr (s : State) : Arrival → Prop
  | .done t => placed t = placed s
  | .dup t => placed t = placed s
  | .keep => True
  | .park => True

section
variable {s t : State} {α β : Type}

@[simp] theorem placed_ite {c : Prop} {_ : Decidable c} {a b : State} :
    placed (if c then a else b) = if c then placed a else placed b := by split <;> rfl

@[simp] theorem placed_iteFst {c : Prop} {_ : Decidable c} {a b : State × β} :
    placed (if c then a else b).1 = if c then placed a.1 else placed b.1 := by split <;> rfl

@[simp] theorem placed_foldl {f : State → α → State} {l : List α} (hf : ∀ s a, placed (f s a) = placed s) :
    placed (l.foldl f s) = placed s :=
  List.foldlRecOn l f (motive := fun t => placed t = placed s) rfl (fun _ k _ _ => (hf _ _).trans k)

@[simp] theorem placed_foldlFst {f : State × β → α → State × β} {l : List α} {m : State × β}
    (hf : ∀ m a, placed (f m a).1 = placed m.1) :
    placed (l.foldl f m).1 = placed m.1 :=
  List.foldlRecOn l f (motive := fun t => placed t.1 = placed m.1) rfl (fun _ k _ _ => (hf _ _).trans k)

@[simp] theorem placedOut_next :
    PlacedOut s (.next t) ↔ placed t = placed s := ⟨fun h => h t rfl, fun h _ e => by cases e; exact h⟩

@[simp] theorem placedOut_ite {c : Prop} {_ : Decidable c} {a b : Out} :
    PlacedOut s (if c then a else b) ↔ if c then PlacedOut s a else PlacedOut s b := by split <;> rfl

@[simp] theorem placedGot_wait : PlacedGot s .wait ↔ True := Iff.rfl

@[simp] theorem placedGot_ok {b} : PlacedGot s (.ok t b) ↔ placed t = placed s := Iff.rfl

@[simp] theorem placedGot_failed : PlacedGot s (.failed t) ↔ placed t = placed s := Iff.rfl

@[simp] theorem placedArr_done : PlacedArr s (.done t) ↔ placed t = placed s := Iff.rfl

@[simp] theorem placedArr_dup : PlacedArr s (.dup t) ↔ placed t = placed s := Iff.rfl

@[simp] theorem placedArr_keep : PlacedArr s .keep ↔ True := Iff.rfl

@[simp] theorem placedArr_park : PlacedArr s .park ↔ True := Iff.rfl

@[simp] theorem placedRead_none : PlacedRead s none ↔ True := Iff.rfl

@[simp] theorem placedRead_some {g} : PlacedRead s (some g) ↔ PlacedGot s g := Iff.rfl

theorem placed_ite_of {c : Prop} [Decidable c] {a b : State} (ha : placed a = placed s) (hb : placed b = placed s) :
    placed (if c then a else b) = placed s := by split <;> assumption

theorem placed_iteFst_of {c : Prop} [Decidable c] {a b : State × β} (ha : placed a.1 = placed s) (hb : placed b.1 = placed s) :
    placed (if c then a else b).1 = placed s := by split <;> assumption

theorem placed_foldlOf {γ : Type} (π : γ → State) {f : γ → α → γ} {l : List α} {m : γ} (hf : ∀ m a, placed (π (f m a)) = placed (π m)) :
    placed (π (l.foldl f m)) = placed (π m) :=
  List.foldlRecOn l f (motive := fun t => placed (π t) = placed (π m)) rfl (fun _ k _ _ => (hf _ _).trans k)

theorem PlacedGot.trans {g : Got} (k : PlacedGot t g) (h : placed t = placed s) : PlacedGot s g := by
  cases g with
  | wait => trivial
  | ok u bs => exact Eq.trans k h
  | failed u => exact Eq.trans k h

theorem PlacedGot.ofOk {g : Got} {bs : List Byte} (k : PlacedGot s g) (e : g = .ok t bs) : placed t = placed s := by
  subst e
  exact k

theorem PlacedGot.ofFailed {g : Got} (k : PlacedGot s g) (e : g = .failed t) : placed t = placed s := by
  subst e
  exact k

theorem PlacedArr.ofDone {a : Arrival} (k : PlacedArr s a) (e : a = .done t) : placed t = placed s := by
  subst e
  exact k

theorem PlacedArr.ofDup {a : Arrival} (k : PlacedArr s a) (e : a = .dup t) : placed t = placed s := by
  subst e
  exact k

theorem PlacedRead.ofOk {o : Option Got} {bs : List Byte} (k : PlacedRead s o) (e : o = some (.ok t bs)) :
    placed t = placed s := by
  subst e
  exact k

theorem PlacedRead.ofFailed {o : Option Got} (k : PlacedRead s o) (e : o = some (.failed t)) : placed t = placed s := by
  subst e
  exact k

theorem PlacedRead.map {f : α → Got} (hf : ∀ a, PlacedGot s (f a)) {o : Option α} : PlacedRead s (o.map f) := by
  cases o with
  | none => trivial
  | some a => exact hf a

theorem placed_congr (h1 : t.tl.parts = s.tl.parts) (h2 : t.un.phys = s.un.phys) (h3 : t.fw.recs.phys = s.fw.recs.phys) :
    placed t = placed s := by
  simp only [placed, h1, h2, h3]

@[simp] theorem placed_mk {hw un tl rg mm ks fw fb pw mt mi pn free pending} :
    placed ⟨hw, un, tl, rg, mm, ks, fw, fb, pw, mt, mi, pn, free, pending⟩ =
      (tl.parts.map (fun e => (e.1, e.2.t0, e.2.log2n)), un.phys, fw.recs.phys) := by simp only [placed]

@[simp] theorem placed_eta :
    (s.tl.parts.map (fun e => (e.1, e.2.t0, e.2.log2n)), s.un.phys, s.fw.recs.phys) = placed s := by simp only [placed]

@[simp] theorem partSet_placed {p : Part} : placed (partSet s p) = placed s := by
  have e : (partSet s p).tl.parts.map (fun e => (e.1, e.2.t0, e.2.log2n)) = s.tl.parts.map (fun e => (e.1, e.2.t0, e.2.log2n)) := by
    simp only [partSet, List.map_map]
    refine List.map_congr_left (fun e _ => ?_)
    by_cases h : e.1 = p.t0 <;> simp [h]
  exact congrArg (·, s.un.phys, s.fw.recs.phys) e

/-! ### Machine/Ops -/

@[simp] theorem unitSet_placed {u : UnitId} {x : Unit} : placed (unitSet s u x) = placed s := placed_congr rfl rfl rfl

@[simp] theorem sendDevIrq_placed : placed (sendDevIrq s) = placed s := placed_congr rfl rfl rfl

@[simp] theorem irqEdge_placed : placed (irqEdge s) = placed s := by
  simp [irqEdge]

@[simp] theorem unitEvt_placed {u : UnitId} {bits : Nat} : placed (unitEvt s u bits) = placed s := by
  simp [unitEvt]

@[simp] theorem setUState_placed {u : UnitId} {st : UState} : placed (setUState s u st) = placed s := by
  simp [setUState]

@[simp] theorem errLog_placed {u : UnitId} {status source lo hi : Nat} {ctx : Option Nat} :
    placed (errLog s u status source lo hi ctx) = placed s := by
  simp [errLog]

@[simp] theorem tileSet_placed {t : Nat} {x : Tile} : placed (tileSet s t x) = placed s := placed_congr rfl rfl rfl

@[simp] theorem partUpd_placed {t : Nat} {f : Part → Part} : placed (partUpd s t f) = placed s := by
  unfold partUpd
  split <;> simp

@[simp] theorem partRunning_placed {p : Part} {b : Bool} : placed (partRunning s p b) = placed s := by
  simp [partRunning]

@[simp] theorem tilesUpd_placed {ts : List Nat} {f : Tile → Tile} : placed (tilesUpd s ts f) = placed s := by
  simp [tilesUpd]

@[simp] theorem noteDetail_placed {t lo : Nat} : placed (noteDetail s t lo) = placed s := by
  simp [noteDetail]

@[simp] theorem blockCommit_placed {t status : Nat} : placed (blockCommit s t status) = placed s := by
  unfold blockCommit
  simp

@[simp] theorem tileErr_placed {t status source lo hi : Nat} : placed (tileErr s t status source lo hi) = placed s := by
  simp [tileErr]

@[simp] theorem tileSramUe_placed {t source lo : Nat} : placed (tileSramUe s t source lo) = placed s := by
  simp [tileSramUe]

@[simp] theorem tileResidue_placed {t engine lane pc : Nat} : placed (tileResidue s t engine lane pc) = placed s := by
  simp [tileResidue]

@[simp] theorem tileFlags_placed {t : Nat} {es : List FlagEv} : placed (tileFlags s t es) = placed s := by
  simp [tileFlags]

@[simp] theorem tileSram_placed {t : Nat} {hw : HwErr} : placed (tileSram s t hw) = placed s := placed_congr rfl rfl rfl

@[simp] theorem tileNote_placed {t : Nat} {n : TileNote} : placed (tileNote t s n) = placed s := by
  cases n <;> simp [tileNote]

@[simp] theorem tileNotes_placed {t : Nat} {ns : List TileNote} : placed (tileNotes s t ns) = placed s := by
  simp [tileNotes]

@[simp] theorem tileReadUe_placed {t : Nat} {reader : SramWord → Option Nat} : placed (tileReadUe s t reader) = placed s := by
  refine placed_foldl fun s w => ?_
  split <;> simp

@[simp] theorem tileHw_placed {t : Nat} {hw : HwErr} {engine pc : Nat} : placed (tileHw s t hw engine pc) = placed s := by
  simp [tileHw]

@[simp] theorem tileLand_placed {t n : Nat} : placed (tileLand s t n) = placed s := by
  simp [tileLand]

@[simp] theorem tileUntil_placed {t : Nat} {done : Tile → Bool} {n : Nat} : placed (tileUntil s t done n) = placed s := by
  simp [tileUntil]

@[simp] theorem tileSettle_placed {t : Nat} : placed (tileSettle s t) = placed s := by
  simp [tileSettle]

@[simp] theorem queueSet_placed {c : CmdRef} {q : Queue} : placed (queueSet s c q) = placed s := placed_congr rfl rfl rfl

@[simp] theorem finishRes_placed {c : CmdRef} {status result : Nat} : placed (finishRes s c status result) = placed s := by
  unfold finishRes
  (repeat' split) <;> simp

@[simp] theorem finishCmd_placed {c : CmdRef} {status : Nat} : placed (finishCmd s c status) = placed s := by
  simp [finishCmd]

@[simp] theorem finishJob_placed {c : CmdRef} {j : Job} {status result detail : Nat} :
    placed (finishJob s c j status result detail) = placed s := by
  unfold finishJob
  dsimp only
  (repeat' split) <;> simp

@[simp] theorem lseqReset_placed {p : Part} : placed (lseqReset s p) = placed s := placed_congr rfl rfl rfl

@[simp] theorem countStale_placed {st : Nat} : placed (countStale s st) = placed s := by
  simp [countStale]

@[simp] theorem outUpd_placed {page tag : Nat} {f : Outst → Outst} : placed (outUpd s page tag f) = placed s :=
  placed_congr rfl rfl rfl

@[simp] theorem outEnd_placed {page tag status : Nat} : placed (outEnd s page tag status) = placed s := placed_congr rfl rfl rfl

@[simp] theorem dropOutst_placed {page : Nat} : placed (dropOutst s page) = placed s := placed_congr rfl rfl rfl

@[simp] theorem dropTxnOutst_placed {tid page : Nat} : placed (dropTxnOutst s tid page) = placed s := by
  simp [dropTxnOutst]

@[simp] theorem outIssued_placed {r : Req} {arrived : Bool} : placed (outIssued s r arrived) = placed s := by
  simp [outIssued]

@[simp] theorem reqReply_placed {r : Req} {status : Nat} {data : List Byte} : placed (reqReply s r status data) = placed s :=
  placed_congr rfl rfl rfl

@[simp] theorem reqDeliver_placed {r : Req} : placed (reqDeliver s r) = placed s := by
  unfold reqDeliver
  split <;> simp

@[simp] theorem acceptedReset_placed {u : UnitId} : placed (acceptedReset s u) = placed s := by
  simp [acceptedReset]

@[simp] theorem txnSet_placed {tid : Nat} {x : Txn} : placed (txnSet s tid x) = placed s := placed_congr rfl rfl rfl

theorem txnOpen_placed {kind key : Nat} {coord : UnitId} {members : List UnitId} {st : MemberSt} {out : Nat}
    (e : txnOpen s kind key coord members st = some (t, out)) : placed t = placed s := by
  unfold txnOpen at e
  split at e
  · cases e
  · cases e
    exact placed_congr rfl rfl rfl

@[simp] theorem txnAbortRecord_placed {tid : Nat} {x : Txn} {cause : Nat} : placed (txnAbortRecord s tid x cause) = placed s :=
  placed_congr rfl rfl rfl

@[simp] theorem barHeld_placed {p : Part} : placed (barHeld s p) = placed s := by
  simp [barHeld]

@[simp] theorem barIssue_placed {p : Part} {next : Tile → Option Nat} {bid : Option Nat} :
    placed (barIssue s p next bid) = placed s := by
  simp [barIssue]

@[simp] theorem stepAborted_placed {p : Part} {cause gate : Nat} : placed (stepAborted s p cause gate) = placed s := by
  simp [stepAborted]

@[simp] theorem barDecided_placed {t0 : Nat} : placed (barDecided s t0) = placed s := by
  unfold barDecided
  (repeat' split) <;> simp

@[simp] theorem substSet_placed {c : Nat} {x : Subst} : placed (substSet s c x) = placed s := placed_congr rfl rfl rfl

@[simp] theorem substAborted_placed {c : Nat} : placed (substAborted s c) = placed s := by
  simp [substAborted]

@[simp] theorem actAborted_placed {cause : Nat} : placed (actAborted s cause) = placed s := by
  simp [actAborted]

@[simp] theorem txnAbortGate_placed {tid cause gate : Nat} : placed (txnAbortGate s tid cause gate) = placed s := by
  unfold txnAbortGate
  dsimp only
  (repeat' split) <;> simp

@[simp] theorem txnAbort_placed {tid cause : Nat} : placed (txnAbort s tid cause) = placed s := by
  simp [txnAbort]

@[simp] theorem stepAbort_placed {p : Part} {cause : Nat} : placed (stepAbort s p cause) = placed s := by
  simp [stepAbort]

@[simp] theorem txnsOfUnit_placed {page cause : Nat} : placed (txnsOfUnit s page cause) = placed s := by
  simp [txnsOfUnit]

@[simp] theorem txnsOfHit_placed {pages : List Nat} : placed (txnsOfHit s pages) = placed s := by
  simp [txnsOfHit]

@[simp] theorem replyStale_placed {u : UnitId} : placed (replyStale s u) = placed s := by
  simp [replyStale]

@[simp] theorem outAnswer_placed {o : Outst} {status : Nat} : placed (outAnswer s o status) = placed s := by
  unfold outAnswer
  split <;> simp

@[simp] theorem replyTake_placed {o : Outst} {r : Reply} : placed (replyTake s o r) = placed s := by
  simp [replyTake]

@[simp] theorem packetsReset_placed {k : Nat} : placed (packetsReset s k) = placed s := by
  simp [packetsReset]

@[simp] theorem landStopped_placed {t : Nat} : placed (landStopped s t) = placed s := by
  simp [landStopped]

@[simp] theorem substOfPart_placed {p : Part} {cause : Nat} : placed (substOfPart s p cause) = placed s := by
  refine placed_foldl fun s e => ?_
  split <;> simp

@[simp] theorem stopPart_placed {p : Part} {status cause : Nat} : placed (stopPart s p status cause) = placed s := by
  unfold stopPart
  split <;> simp

@[simp] theorem plateFault_placed {t source : Nat} : placed (plateFault s t source) = placed s := by
  unfold plateFault
  dsimp only
  (repeat' split) <;> simp

@[simp] theorem fetchBeyond_placed {t0 : Nat} : placed (fetchBeyond s t0) = placed s := by
  unfold fetchBeyond
  (repeat' split) <;> simp

/-! ### Machine/FabricOps -/

@[simp] theorem fportSet_placed {p : Nat} {x : FPort} : placed (fportSet s p x) = placed s := placed_congr rfl rfl rfl

@[simp] theorem pathSet_placed {node p : Nat} {x : PathSt} : placed (pathSet s node p x) = placed s := placed_congr rfl rfl rfl

@[simp] theorem groupSet_placed {g : Nat} {x : Group} : placed (groupSet s g x) = placed s := placed_congr rfl rfl rfl

@[simp] theorem groupUpd_placed {g : Nat} {f : Group → Group} : placed (groupUpd s g f) = placed s := by
  unfold groupUpd
  split <;> simp

@[simp] theorem portTx_placed {p : Nat} {q : PathHdr} {hdr : Nat} {body tag : List Byte} :
    placed (portTx s p q hdr body tag) = placed s := by
  simp [portTx]

@[simp] theorem sendPlain_placed {node p typ pseq : Nat} {body : List Byte} :
    placed (sendPlain s node p typ pseq body) = placed s := by
  simp [sendPlain]

@[simp] theorem pctrNext_placed {f : UFrame} {p : Nat} : placed (pctrNext s f p) = placed s := by
  unfold pctrNext
  split <;> simp

@[simp] theorem frameTx_placed {node p pseq : Nat} {retx : Bool} {f : UFrame} :
    placed (frameTx s node p pseq retx f) = placed s := by
  simp [frameTx]

@[simp] theorem sendOn_placed {node p : Nat} {retx : Bool} {f : UFrame} : placed (sendOn s node p retx f) = placed s := by
  simp [sendOn]

@[simp] theorem assignPort_placed {g : List (Nat × UFrame × Bool)} : placed (assignPort s g).1 = placed s := by
  unfold assignPort
  dsimp only
  (repeat' split) <;> simp

@[simp] theorem servePort_placed {asg : List (Nat × Nat × UFrame × Bool)} {p : Nat} : placed (servePort asg s p) = placed s := by
  simp [servePort]

@[simp] theorem serveFabric_placed : placed (serveFabric s) = placed s := by
  simp [serveFabric]

@[simp] theorem serveLinks_placed : placed (serveLinks s) = placed s := by
  simp [serveLinks]

@[simp] theorem sendFrames_placed {node : Nat} {retx : Bool} {fs : List UFrame} :
    placed (sendFrames s node retx fs) = placed s := by
  simp [sendFrames]

@[simp] theorem pathDown_placed {node p : Nat} : placed (pathDown s node p) = placed s := by
  simp [pathDown]

@[simp] theorem portDown_placed {p : Nat} : placed (portDown s p) = placed s := by
  simp [portDown]

@[simp] theorem pathProbe_placed {node p : Nat} : placed (pathProbe s node p) = placed s := placed_congr rfl rfl rfl

@[simp] theorem portProbe_placed {p : Nat} : placed (portProbe s p) = placed s := by
  simp [portProbe]

@[simp] theorem portCheck_placed {p : Nat} : placed (portCheck s p) = placed s := by
  simp [portCheck]

@[simp] theorem portFollow_placed {p : Nat} {st : UState} : placed (portFollow s p st) = placed s := by
  unfold portFollow
  split <;> simp

@[simp] theorem unitTo_placed {u : UnitId} {st : UState} : placed (unitTo s u st) = placed s := by
  unfold unitTo
  split <;> simp

/-! ### Machine/Units -/

@[simp] theorem cmdDone_placed {u : UnitId} {status : Nat} : placed (cmdDone s u status) = placed s := by
  simp [cmdDone]

@[simp] theorem acceptCmd_placed {u : UnitId} {w : Writer} {inc : Half} {c : UCmd} {go : State → State}
    (hgo : ∀ s, placed (go s) = placed s) :
    placed (acceptCmd s u w inc c go) = placed s := by
  unfold acceptCmd
  dsimp only
  (repeat' split) <;> simp [*]

@[simp] theorem placeHold_placed {page t : Nat} : placed (placeHold s page t) = placed s := by
  simp [placeHold]

@[simp] theorem placeHoldAt_placed {page : Nat} {u : UnitId} : placed (placeHoldAt s page u) = placed s := by
  unfold placeHoldAt
  split <;> simp

@[simp] theorem quiesceOne_placed {root src : Nat} {u : UnitId} : placed (quiesceOne root src s u) = placed s := by
  simp [quiesceOne]

@[simp] theorem quiesceGo_placed {u : UnitId} : placed (quiesceGo s u) = placed s := by
  simp [quiesceGo]

@[simp] theorem resumeTile_placed {t : Nat} : placed (resumeTile s t) = placed s := by
  simp [resumeTile]

@[simp] theorem unholdPart_placed {t0 : Nat} : placed (unholdPart s t0) = placed s := by
  unfold unholdPart
  split <;> simp

@[simp] theorem withdrawHolds_placed {page : Nat} : placed (withdrawHolds s page) = placed s := by
  simp [withdrawHolds]

@[simp] theorem resumeOne_placed {root src : Nat} {u : UnitId} : placed (resumeOne root src s u) = placed s := by
  simp [resumeOne]

@[simp] theorem resumeGo_placed {u : UnitId} : placed (resumeGo s u) = placed s := by
  simp [resumeGo]

@[simp] theorem loadIncs_placed {u : UnitId} : placed (loadIncs s u) = placed s := placed_congr rfl rfl rfl

@[simp] theorem recordApplied_placed {u : UnitId} : placed (recordApplied s u) = placed s := placed_congr rfl rfl rfl

@[simp] theorem reloadStep_placed {u : UnitId} : placed (reloadStep s u) = placed s := by
  unfold reloadStep
  dsimp only
  (repeat' split) <;> simp

/-! ### Machine/TileOps -/

@[simp] theorem endStroke_placed {t : Nat} {f : Flow} : placed (endStroke s t f) = placed s := by
  unfold endStroke
  dsimp only
  (repeat' split) <;> simp

@[simp] theorem openStroke_placed {t : Nat} : placed (openStroke s t) = placed s := by
  unfold openStroke
  dsimp only
  (repeat' split) <;> simp

@[simp] theorem slotDo_placed {t : Nat} {slots : List Nat} {more : Bool} {act : State → State}
    (hact : ∀ s, placed (act s) = placed s) :
    placed (slotDo s t slots more act) = placed s := by
  unfold slotDo
  dsimp only
  (repeat' split) <;> simp [*]

@[simp] theorem sClash_placed {t i left : Nat} {v : W64} : placed (sClash s t i left v).1 = placed s := by
  simp [sClash]

@[simp] theorem sWrite_placed {t i : Nat} {v : W64} : placed (sWrite s t i v) = placed s := by
  simp [sWrite]

@[simp] theorem sWriteLater_placed {t i left : Nat} {v : W64} : placed (sWriteLater s t i left v) = placed s := by
  simp [sWriteLater]

@[simp] theorem noteS_placed {t : Nat} {is : List Nat} : placed (noteS s t is) = placed s := by
  simp [noteS]

@[simp] theorem noteX_placed {t : Nat} {ws : List Nat} : placed (noteX s t ws) = placed s := by
  simp [noteX]

@[simp] theorem xWrite_placed {t i k : Nat} {v : W32} : placed (xWrite s t i k v) = placed s := by
  simp [xWrite]

@[simp] theorem xWriteAll_placed {t i : Nat} {v : Nat → W32} : placed (xWriteAll s t i v) = placed s := placed_congr rfl rfl rfl

@[simp] theorem tokenAdd_placed {t i n : Nat} : placed (tokenAdd s t i n) = placed s := by
  simp [tokenAdd]

@[simp] theorem noteLatch_placed {t source : Nat} {tds xs : List Nat} : placed (noteLatch s t source tds xs) = placed s := by
  simp [noteLatch]

@[simp] theorem descFault_placed {t status engine pc reg : Nat} : placed (descFault s t status engine pc reg) = placed s := by
  simp [descFault]

@[simp] theorem fxApply_placed {t source : Nat} {x : Tile} {evs : List FlagEv} {bad : List Nat} :
    placed (fxApply s t source x evs bad) = placed s := by
  simp [fxApply]

@[simp] theorem takeLocal_placed {t : Nat} {p : PathId} {c : PathCmd} : placed (takeLocal s t p c) = placed s := by
  simp [takeLocal]

/-! ### Machine/Scalar -/

@[simp] theorem scalarOp_placed {t dst : Nat} {srcs : List Nat} {more : Bool} {f : (Nat → W64) → W64} :
    PlacedOut s (scalarOp t dst srcs more f s) := by
  simp [scalarOp]

@[simp] theorem execAddi_placed {t dst sa : Nat} {imm : BitVec 14} {more : Bool} :
    PlacedOut s (execAddi t dst sa imm more s) := by
  simp [execAddi]

@[simp] theorem execScalarAdd_placed {t dst sa sb : Nat} {more : Bool} : PlacedOut s (execScalarAdd t dst sa sb more s) := by
  simp [execScalarAdd]

@[simp] theorem execScalarSub_placed {t dst sa sb : Nat} {more : Bool} : PlacedOut s (execScalarSub t dst sa sb more s) := by
  simp [execScalarSub]

@[simp] theorem execScalarMul_placed {t dst sa sb : Nat} {more : Bool} : PlacedOut s (execScalarMul t dst sa sb more s) := by
  simp [execScalarMul]

@[simp] theorem execSAnd_placed {t dst sa sb : Nat} {more : Bool} : PlacedOut s (execSAnd t dst sa sb more s) := by
  simp [execSAnd]

@[simp] theorem execSOr_placed {t dst sa sb : Nat} {more : Bool} : PlacedOut s (execSOr t dst sa sb more s) := by
  simp [execSOr]

@[simp] theorem execSXor_placed {t dst sa sb : Nat} {more : Bool} : PlacedOut s (execSXor t dst sa sb more s) := by
  simp [execSXor]

@[simp] theorem execShli_placed {t dst sa : Nat} {imm : BitVec 14} {more : Bool} :
    PlacedOut s (execShli t dst sa imm more s) := by
  simp [execShli]

@[simp] theorem execShri_placed {t dst sa : Nat} {imm : BitVec 14} {more : Bool} :
    PlacedOut s (execShri t dst sa imm more s) := by
  simp [execShri]

@[simp] theorem execSrai_placed {t dst sa : Nat} {imm : BitVec 14} {more : Bool} :
    PlacedOut s (execSrai t dst sa imm more s) := by
  simp [execSrai]

@[simp] theorem execScalarMin_placed {t dst sa sb : Nat} {more : Bool} : PlacedOut s (execScalarMin t dst sa sb more s) := by
  simp [execScalarMin]

@[simp] theorem execScalarMax_placed {t dst sa sb : Nat} {more : Bool} : PlacedOut s (execScalarMax t dst sa sb more s) := by
  simp [execScalarMax]

@[simp] theorem execSel_placed {t dst sa sb : Nat} {more : Bool} : PlacedOut s (execSel t dst sa sb more s) := by
  simp [execSel]

@[simp] theorem execLi_placed {t dst k : Nat} {imm : BitVec 14} {more : Bool} : PlacedOut s (execLi t dst k imm more s) := by
  simp [execLi]

@[simp] theorem execSld_placed {t dst sa : Nat} {imm : BitVec 14} {hw : HwErr} {more : Bool} :
    PlacedOut s (execSld t dst sa imm hw more s) := by
  simp [execSld]

@[simp] theorem execSst_placed {t sa sb : Nat} {imm : BitVec 14} {hw : HwErr} {more : Bool} :
    PlacedOut s (execSst t sa sb imm hw more s) := by
  simp [execSst]

@[simp] theorem laneOp_placed {t dst lane : Nat} {srcs : List Nat} {more : Bool} {f : W32 → State → W32} :
    PlacedOut s (laneOp t dst lane srcs more f s) := by
  simp [laneOp]

@[simp] theorem execXset_placed {t dst lane sa : Nat} {more : Bool} : PlacedOut s (execXset t dst lane sa more s) := by
  simp [execXset]

@[simp] theorem execXaddi_placed {t dst lane : Nat} {imm : BitVec 14} {more : Bool} :
    PlacedOut s (execXaddi t dst lane imm more s) := by
  simp [execXaddi]

@[simp] theorem execXadd_placed {t dst lane sa : Nat} {more : Bool} : PlacedOut s (execXadd t dst lane sa more s) := by
  simp [execXadd]

@[simp] theorem execXcopy_placed {t dst sa : Nat} {more : Bool} : PlacedOut s (execXcopy t dst sa more s) := by
  simp [execXcopy]

@[simp] theorem execXget_placed {t dst sa lane : Nat} {more : Bool} : PlacedOut s (execXget t dst sa lane more s) := by
  simp [execXget]

@[simp] theorem execTdload_placed {t td sreg imm : Nat} {hw : HwErr} {more : Bool} :
    PlacedOut s (execTdload t td sreg imm hw more s) := by
  simp [execTdload]

@[simp] theorem execTdbase_placed {t td sreg : Nat} {second more : Bool} : PlacedOut s (execTdbase t td sreg second more s) := by
  simp [execTdbase]

@[simp] theorem flowDo_placed {t : Nat} {f : State → Flow} : placed (flowDo s t f) = placed s := by
  simp [flowDo]

@[simp] theorem execLstart_placed {t count body : Nat} : PlacedOut s (execLstart t count body s) := by
  simp [execLstart]

@[simp] theorem execLstartS_placed {t sreg body : Nat} : PlacedOut s (execLstartS t sreg body s) := by
  simp [execLstartS]

@[simp] theorem execCall_placed {t target : Nat} : PlacedOut s (execCall t target s) := by
  simp [execCall]

@[simp] theorem execRet_placed {t : Nat} : PlacedOut s (execRet t s) := by
  simp [execRet]

/-! ### Machine/Txn -/

@[simp] theorem memberTo_placed {tid : Nat} {x : Txn} {u : UnitId} {st : MemberSt} : placed (memberTo s tid x u st) = placed s :=
  placed_congr rfl rfl rfl

@[simp] theorem substEnrolled_placed {tid : Nat} : placed (substEnrolled s tid) = placed s := by
  unfold substEnrolled
  split <;> simp

@[simp] theorem execTxnEnrol_placed {tid : Nat} {u : UnitId} {inc : Half} : PlacedOut s (execTxnEnrol tid u inc s) := by
  unfold execTxnEnrol
  (repeat' split) <;> simp

@[simp] theorem execTxnPrepare_placed {tid : Nat} {u : UnitId} {inc : Half} : PlacedOut s (execTxnPrepare tid u inc s) := by
  unfold execTxnPrepare
  dsimp only
  (repeat' split) <;> simp

@[simp] theorem stepCommitted_placed {tid : Nat} {x : Txn} {p : Part} : placed (stepCommitted s tid x p) = placed s := by
  simp [stepCommitted]

@[simp] theorem stepDecide_placed {tid : Nat} : placed (stepDecide s tid) = placed s := by
  unfold stepDecide
  dsimp only
  (repeat' split) <;> simp

@[simp] theorem plainDecide_placed {tid : Nat} {x : Txn} : placed (plainDecide s tid x) = placed s := by
  simp [plainDecide]

@[simp] theorem applyPart_placed {x : Txn} {u : UnitId} : placed (applyPart s x u) = placed s := by
  unfold applyPart
  dsimp only
  (repeat' split) <;> simp

@[simp] theorem commitReached_placed {x : Txn} : placed (commitReached s x) = placed s := by
  simp [commitReached]

@[simp] theorem txnDel_placed {tid : Nat} : placed (txnDel s tid) = placed s := placed_congr rfl rfl rfl

@[simp] theorem discardMember_placed {tid : Nat} {x : Txn} {u : UnitId} : placed (discardMember s tid x u) = placed s := by
  simp [discardMember]

@[simp] theorem coordDrops_placed {tid : Nat} {x : Txn} : placed (coordDrops s tid x) = placed s := by
  unfold coordDrops
  split <;> simp

@[simp] theorem abortCount_placed {x : Txn} {u : UnitId} : placed (abortCount s x u) = placed s := by
  unfold abortCount
  split <;> simp

@[simp] theorem execTxnAbort_placed {tid : Nat} {u : UnitId} : PlacedOut s (execTxnAbort tid u s) := by
  unfold execTxnAbort
  split <;> simp

@[simp] theorem execDecisionQuery_placed {tid : Nat} {u : UnitId} : PlacedOut s (execDecisionQuery tid u s) := by
  unfold execDecisionQuery
  dsimp only
  (repeat' split) <;> simp

/-! ### Machine/Plate -/

@[simp] theorem waitSlot_placed {t sy : Nat} {ok more : Bool} {act : State → State} (hact : ∀ s, placed (act s) = placed s) :
    placed (waitSlot s t sy ok more act) = placed s := by
  unfold waitSlot
  (repeat' split) <;> simp [*]

@[simp] theorem execWait_placed {t : Nat} {k : WaitKind} {n : Nat} {src : Bool} {v : Nat} {more : Bool} :
    PlacedOut s (execWait t k n src v more s) := by
  simp [execWait]

@[simp] theorem execWaitTimeout_placed {t : Nat} : PlacedOut s (execWaitTimeout t s) := by
  simp [execWaitTimeout]

@[simp] theorem execTokenDec_placed {t n amount : Nat} {more : Bool} : PlacedOut s (execTokenDec t n amount more s) := by
  simp [execTokenDec]

@[simp] theorem execFlagclr_placed {t mask : Nat} {more : Bool} : PlacedOut s (execFlagclr t mask more s) := by
  simp [execFlagclr]

@[simp] theorem execCfg_placed {t off sreg : Nat} {more : Bool} : PlacedOut s (execCfg t off sreg more s) := by
  simp [execCfg]

@[simp] theorem lockstep_placed {p : Part} : placed (lockstep s p) = placed s := by
  unfold lockstep
  dsimp only
  (repeat' split) <;> simp

@[simp] theorem execBarrierArrive_placed {t : Nat} {k : BarKind} {bid : Nat} {sy : W32} :
    PlacedOut s (execBarrierArrive t k bid sy s) := by
  unfold execBarrierArrive
  dsimp only
  (repeat' split) <;> simp

@[simp] theorem execBarrier_placed {t bid : Nat} {more : Bool} : PlacedOut s (execBarrier t bid more s) := by
  unfold execBarrier
  (repeat' split) <;> simp

@[simp] theorem clearStacks_placed {p : Part} : placed (clearStacks s p) = placed s := by
  simp [clearStacks]

@[simp] theorem execAbortStep_placed {t cond sreg : Nat} {more : Bool} : PlacedOut s (execAbortStep t cond sreg more s) := by
  unfold execAbortStep
  dsimp only
  (repeat' split) <;> simp

theorem execStepOpen_placed {t : Nat} {more : Bool} : PlacedOut s (execStepOpen t more s) := by
  unfold execStepOpen
  split
  · simp
  · dsimp only
    split
    · simp
    · simp only [placedOut_ite, placedOut_next]
      split
      next => simp
      next =>
        split
        next => simp
        next =>
          split
          · simp
          · rename_i e
            simp [txnOpen_placed e]

@[simp] theorem execStepCommit_placed {t : Nat} {more : Bool} : PlacedOut s (execStepCommit t more s) := by
  unfold execStepCommit
  dsimp only
  (repeat' split) <;> simp

@[simp] theorem execHalt_placed {t : Nat} {more : Bool} : PlacedOut s (execHalt t more s) := by
  unfold execHalt
  split <;> simp

/-! ### Machine/RingOps -/

@[simp] theorem ctxSet_placed {c : Nat} {x : Ctx} : placed (ctxSet s c x) = placed s := placed_congr rfl rfl rfl

@[simp] theorem hportSet_placed {k : Nat} {x : HPort} : placed (hportSet s k x) = placed s := placed_congr rfl rfl rfl

@[simp] theorem funcSet_placed {f : Nat} {x : Func} : placed (funcSet s f x) = placed s := placed_congr rfl rfl rfl

@[simp] theorem sendMsi_placed {f v : Nat} : placed (sendMsi s f v) = placed s := placed_congr rfl rfl rfl

@[simp] theorem winWrite_placed {c off : Nat} {bs : List Byte} : placed (winWrite s c off bs) = placed s :=
  placed_congr rfl rfl rfl

@[simp] theorem ringPut_placed {c : Nat} {r : Ring} {v : Nat} : placed (ringPut s c r v).1 = placed s := placed_congr rfl rfl rfl

@[simp] theorem ringDrain_placed {n c claimed : Nat} {r : Ring} : placed (ringDrain n s c claimed r).1 = placed s := by
  induction n generalizing s r with
  | zero => rfl
  | succ k ih =>
    rw [ringDrain]
    split
    · rfl
    · exact placed_iteFst_of rfl (ih.trans ringPut_placed)

@[simp] theorem ringPost_placed {c claimed : Nat} {r : Ring} {e : Event} : placed (ringPost s c claimed r e).1 = placed s := by
  simp [ringPost]

@[simp] theorem msiIf_placed {r : Ring} {f : Nat} {wrote : Bool} : placed (msiIf s r f wrote) = placed s := by
  simp [msiIf]

@[simp] theorem postAdmin_placed {port : Nat} {e : Event} : placed (postAdmin s port e) = placed s := by
  unfold postAdmin
  dsimp only
  (repeat' split) <;> simp

@[simp] theorem postCtx_placed {c : Nat} {e : Event} : placed (postCtx s c e) = placed s := by
  unfold postCtx
  split <;> simp

@[simp] theorem postNamed_placed {c : Nat} {e : Event} : placed (postNamed s c e) = placed s := by
  simp [postNamed]

@[simp] theorem postDevice_placed {e : Event} : placed (postDevice s e) = placed s := by
  simp [postDevice]

@[simp] theorem objSet_placed {o : Nat} {x : Obj} : placed (objSet s o x) = placed s := placed_congr rfl rfl rfl

@[simp] theorem handleSet_placed {c i : Nat} {hd : Handle} : placed (handleSet s c i hd) = placed s := placed_congr rfl rfl rfl

theorem openHandle_placed {c o : Nat} {signal : Bool} {out : Nat}
    (e : openHandle s c o signal = some (t, out)) : placed t = placed s := by
  unfold openHandle at e
  split at e
  · cases e
  · cases e
    simp

theorem createObj_placed {c : Nat} {x : Obj} {out : Nat × Nat} (e : createObj s c x = some (t, out)) : placed t = placed s := by
  unfold createObj at e
  split at e
  · cases e
  · split at e
    · cases e
    · split at e
      · cases e
      · rename_i eh
        cases e
        simp [openHandle_placed eh]

@[simp] theorem fenceUpd_placed {o : Nat} {f : Obj → Obj} : placed (fenceUpd s o f) = placed s := by
  unfold fenceUpd
  split <;> simp

@[simp] theorem fenceOrphan_placed {o : Nat} : placed (fenceOrphan s o) = placed s := by
  simp [fenceOrphan]

@[simp] theorem handleDrop_placed {c i n : Nat} : placed (handleDrop s c i n) = placed s := by
  unfold handleDrop
  dsimp only
  (repeat' split) <;> simp

@[simp] theorem closeHandles_placed {c : Nat} : placed (closeHandles s c) = placed s := by
  simp [closeHandles]

/-! ### Machine/Memory -/

@[simp] theorem pcSet_placed {k : Nat} {x : PcSt} : placed (pcSet s k x) = placed s := placed_congr rfl rfl rfl

@[simp] theorem mcSet_placed {m : Nat} {x : Mc} : placed (mcSet s m x) = placed s := placed_congr rfl rfl rfl

@[simp] theorem frameSet_placed {fk : Nat} {x : Frame} : placed (frameSet s fk x) = placed s := placed_congr rfl rfl rfl

@[simp] theorem frameFree_placed {fk : Nat} : placed (frameFree s fk) = placed s := placed_congr rfl rfl rfl

theorem tablesFor_placed {keys : List Nat} (e : tablesFor s keys = some t) : placed t = placed s := by
  induction keys generalizing s with
  | nil =>
    cases e
    rfl
  | cons k keys ih =>
    rw [tablesFor] at e
    split at e
    · exact ih e
    · split at e
      · cases e
      · exact (ih e).trans (placed_congr rfl rfl rfl)

@[simp] theorem tablesTrim_placed {ctx dva : Nat} : placed (tablesTrim s ctx dva) = placed s := by
  simp [tablesTrim]

@[simp] theorem slotSet_placed {k : Nat} {x : Slot} : placed (slotSet s k x) = placed s := placed_congr rfl rfl rfl

@[simp] theorem secAlarm_placed {lk kslot : Nat} {ctx : Option Nat} {corrected pt md quiet : Bool} :
    placed (secAlarm s lk kslot ctx corrected pt md quiet) = placed s := by
  unfold secAlarm
  split <;> simp

@[simp] theorem lineUncorr_placed {lk : Nat} : placed (lineUncorr s lk) = placed s := by
  simp [lineUncorr]

@[simp] theorem postReserveLow_placed {tier cause : Nat} : placed (postReserveLow s tier cause) = placed s := by
  simp [postReserveLow]

@[simp] theorem checkReserve_placed {old : State} {tier : Nat} : placed (checkReserve old s tier) = placed s := by
  simp [checkReserve]

@[simp] theorem postPc_placed {k st : Nat} : placed (postPc s k st) = placed s := by
  simp [postPc]

@[simp] theorem mcRetired_placed {m : Nat} : placed (mcRetired s m) = placed s := by
  simp [mcRetired]

@[simp] theorem frameLost_placed {fk : Nat} {f : Frame} : placed (frameLost s fk f) = placed s := by
  unfold frameLost
  split <;> simp

@[simp] theorem pcRetire_placed {k : Nat} : placed (pcRetire s k) = placed s := by
  simp [pcRetire]

@[simp] theorem migNext_placed {k : Nat} : placed (migNext s k) = placed s := by
  unfold migNext
  dsimp only
  (repeat' split) <;> simp

@[simp] theorem migResume_placed : placed (migResume s) = placed s := by
  simp [migResume]

@[simp] theorem pcEvacuate_placed {k : Nat} : placed (pcEvacuate s k) = placed s := by
  simp [pcEvacuate]

@[simp] theorem pcDegrade_placed {k : Nat} : placed (pcDegrade s k) = placed s := by
  simp [pcDegrade]

@[simp] theorem laneCount_placed {k lane syms : Nat} : placed (laneCount s k lane syms) = placed s := by
  simp [laneCount]

@[simp] theorem remapStart_placed {k row : Nat} : placed (remapStart s k row) = placed s := by
  simp [remapStart]

@[simp] theorem reqNote_placed {src : Option Nat} {fk : Nat} {e : LineEv} : placed (reqNote s src fk e) = placed s := by
  unfold reqNote
  dsimp only
  (repeat' split) <;> simp

@[simp] theorem lineSet_placed {lk : Nat} {x : LineSt} : placed (lineSet s lk x) = placed s := placed_congr rfl rfl rfl

@[simp] theorem lineRepair_placed {lk : Nat} {e : LineEv} : placed (lineRepair s lk e) = placed s := by
  unfold lineRepair
  split <;> simp

@[simp] theorem farFail_placed {blk cause : Nat} : placed (farFail s blk cause) = placed s := by
  unfold farFail
  split <;> simp

@[simp] theorem lineFetch_placed {lk : Nat} {b : Bind} {ctx : Option Nat} {pt : Bool} {e : LineEv} :
    placed (lineFetch s lk b ctx pt e).1 = placed s := by
  simp [lineFetch]

@[simp] theorem farDirty_placed {fk lk : Nat} : placed (farDirty s fk lk) = placed s := by
  unfold farDirty
  dsimp only
  (repeat' split) <;> simp

@[simp] theorem keyExhaust_placed {b : Bind} : placed (keyExhaust s b) = placed s := by
  simp [keyExhaust]

@[simp] theorem pageReencrypt_placed {lk : Nat} : placed (pageReencrypt s lk) = placed s := by
  simp [pageReencrypt]

@[simp] theorem farBump_placed {lk : Nat} {b : Bind} : placed (farBump s lk b).1 = placed s := by
  simp [farBump]

@[simp] theorem cacheDrop_placed {lk : Nat} : placed (cacheDrop s lk) = placed s := placed_congr rfl rfl rfl

@[simp] theorem wayLines_placed {mine : Nat → Bool} {restart : Nat → CCache → CCache} :
    placed (wayLines s mine restart) = placed s :=
  placed_congr rfl rfl rfl

@[simp] theorem lineWritten_placed {lk : Nat} {b : Bind} : placed (lineWritten s lk b) = placed s := placed_congr rfl rfl rfl

@[simp] theorem lineReady_placed {lk : Nat} {b : Bind} {bs : List (Nat × Byte)} {e : LineEv} {rmw : Bool} :
    placed (lineReady s lk b bs e rmw).1 = placed s := by
  simp [lineReady]

@[simp] theorem lineCounted_placed {lk : Nat} {b : Bind} : placed (lineCounted s lk b).1 = placed s := by
  simp [lineCounted]

@[simp] theorem lineBytes_placed {lk : Nat} {bs : List (Nat × Byte)} : placed (lineBytes s lk bs) = placed s :=
  placed_congr rfl rfl rfl

@[simp] theorem lineWrite_placed {lk : Nat} {b : Bind} {bs : List (Nat × Byte)} {e : LineEv} {rmw : Bool} :
    placed (lineWrite s lk b bs e rmw).1 = placed s := by
  simp [lineWrite]

theorem placed_pairOf {b : β} (h : placed t = placed s) : placed (t, b).1 = placed s := h

@[simp] theorem ctxReadLine_placed {src : Option Nat} {ctx a n : Nat} {ev : List LineEv} :
    placed (ctxReadLine s src ctx a n ev).1 = placed s := by
  unfold ctxReadLine
  split
  · exact placed_pairOf rfl
  · dsimp only
    split
    · exact placed_pairOf reqNote_placed
    · exact placed_iteFst_of (placed_pairOf (lineFetch_placed.trans reqNote_placed)) (placed_pairOf (lineFetch_placed.trans reqNote_placed))

@[simp] theorem ctxRead_placed {src : Option Nat} {ctx a n : Nat} {ev : List LineEv} :
    placed (ctxRead s src ctx a n ev).s = placed s :=
  placed_foldlOf MemRes.s fun _ _ => ctxReadLine_placed

@[simp] theorem ctxWriteLine_placed {src : Option Nat} {ctx : Nat} {bs : List (Nat × Byte)} {ev : List LineEv} {rmw : Bool} :
    placed (ctxWriteLine s src ctx bs ev rmw).1 = placed s := by
  unfold ctxWriteLine
  split
  · rfl
  · split
    · rfl
    · dsimp only
      split <;> simp

@[simp] theorem ctxWrite_placed {src : Option Nat} {ctx : Nat} {bs : List (Nat × Byte)} {ev : List LineEv} {rmw : Bool} :
    placed (ctxWrite s src ctx bs ev rmw).s = placed s :=
  placed_foldlOf MemRes.s fun _ _ => ctxWriteLine_placed

@[simp] theorem ctxWriteAt_placed {src : Option Nat} {ctx a : Nat} {bs : List Byte} {ev : List LineEv} :
    placed (ctxWriteAt s src ctx a bs ev).s = placed s := by
  simp [ctxWriteAt]

@[simp] theorem cacheDropFrames_placed {f : Nat → Bool} : placed (cacheDropFrames s f) = placed s := placed_congr rfl rfl rfl

@[simp] theorem frameInit_placed {fk : Nat} {b : Bind} : placed (frameInit s fk b) = placed s := by
  simp [frameInit]

@[simp] theorem mapPage_placed {ctx dva p : Nat} {replace : Bool} : placed (mapPage s ctx dva p replace).1 = placed s := by
  unfold mapPage
  split
  · rfl
  · split
    · rfl
    · rename_i e
      simp [tablesFor_placed e]

@[simp] theorem unmapPage_placed {ctx dva : Nat} : placed (unmapPage s ctx dva) = placed s := by
  simp [unmapPage]

@[simp] theorem frameDrain_placed {fk : Nat} {rel : Option CmdRef} : placed (frameDrain s fk rel) = placed s :=
  placed_congr rfl rfl rfl

@[simp] theorem releaseUnmapped_placed {fk : Nat} : placed (releaseUnmapped s fk) = placed s := by
  simp [releaseUnmapped]

/-! ### Machine/MemCmds -/

@[simp] theorem mdRebuild_placed {blk : Nat} {b : FarBlock} : placed (mdRebuild s blk b) = placed s := placed_congr rfl rfl rfl

@[simp] theorem execMetadataEvict_placed {blk level idx : Nat} : PlacedOut s (execMetadataEvict blk level idx s) := by
  unfold execMetadataEvict
  split <;> simp

@[simp] theorem farInit_placed {blk : Nat} {base : W64} : placed (farInit s blk base) = placed s := placed_congr rfl rfl rfl

@[simp] theorem execFarBlockReinit_placed {blk : Nat} : PlacedOut s (execFarBlockReinit blk s) := by
  unfold execFarBlockReinit
  split <;> simp

@[simp] theorem scrubLine_placed {lk : Nat} {e : LineEv} : placed (scrubLine s lk e) = placed s := by
  simp [scrubLine]

@[simp] theorem scrubNext_placed {m next : Nat} : placed (scrubNext s m next) = placed s := by
  simp [scrubNext]

@[simp] theorem execPatrolScrub_placed {m : Nat} {ev : LineEv} : PlacedOut s (execPatrolScrub m ev s) := by
  simp [execPatrolScrub]

@[simp] theorem execRowRemapDone_placed {m pc row : Nat} : PlacedOut s (execRowRemapDone m pc row s) := by
  simp [execRowRemapDone]

@[simp] theorem execMcRemapCmd_placed {u : UnitId} {w : Writer} {pc row : Nat} : PlacedOut s (execMcRemapCmd u w pc row s) := by
  unfold execMcRemapCmd
  split <;> simp

@[simp] theorem execMcEvac_placed {u : UnitId} {w : Writer} {pc scope : Nat} : PlacedOut s (execMcEvac u w pc scope s) := by
  unfold execMcEvac
  split <;> simp

@[simp] theorem migLine_placed {ev : List LineEv} {src dst : Nat} {a : State × Nat × Nat} {i : Nat} :
    placed (migLine ev src dst a i).1 = placed a.1 := by
  unfold migLine
  dsimp only
  split <;> simp

@[simp] theorem relMoved_placed {f : Frame} {src dst : Nat} : placed (relMoved s f src dst) = placed s := by
  unfold relMoved
  (repeat' split) <;> simp

@[simp] theorem migMove_placed {src dst : Nat} : placed (migMove s src dst) = placed s := by
  simp [migMove]

theorem execMigrationCopyDone_placed {m pc : Nat} {ev : List LineEv} : PlacedOut s (execMigrationCopyDone m pc ev s) := by
  unfold execMigrationCopyDone
  dsimp only
  split <;> simp

@[simp] theorem retrainPc_placed {m fix pc : Nat} : placed (retrainPc m fix s pc) = placed s := by
  simp [retrainPc]

@[simp] theorem execOnlineRetraining_placed {m ch : Nat} {fix : Option Nat × Option Nat} :
    PlacedOut s (execOnlineRetraining m ch fix s) := by
  unfold execOnlineRetraining
  dsimp only
  (repeat' split) <;> simp

@[simp] theorem execFrameDrained_placed {tier f : Nat} : PlacedOut s (execFrameDrained tier f s) := by
  simp [execFrameDrained]

@[simp] theorem frameScrub_placed {fk : Nat} : placed (frameScrub s fk) = placed s := placed_congr rfl rfl rfl

@[simp] theorem execFrameScrubDone_placed {tier f : Nat} : PlacedOut s (execFrameScrubDone tier f s) := by
  unfold execFrameScrubDone
  dsimp only
  (repeat' split) <;> simp

@[simp] theorem execEncAlarmClear_placed {w : Writer} : PlacedOut s (execEncAlarmClear w s) := by
  simp [execEncAlarmClear]

/-! ### Machine/RingCore -/

@[simp] theorem cmdUpd_placed {r : CmdRef} {f : QCmd → QCmd} : placed (cmdUpd s r f) = placed s := by
  unfold cmdUpd
  split <;> simp

@[simp] theorem setJob_placed {r : CmdRef} {j : Job} : placed (setJob s r j) = placed s := by
  simp [setJob]

@[simp] theorem finishDet_placed {r : CmdRef} {status result detail : Nat} :
    placed (finishDet s r status result detail) = placed s := by
  simp [finishDet]

@[simp] theorem queueFault_placed {r : CmdRef} {cause : Nat} : placed (queueFault s r cause) = placed s := by
  unfold queueFault
  split <;> simp

@[simp] theorem takeEntry_placed {r : CmdRef} {q : Queue} {bs : List Byte} : placed (takeEntry s r q bs) = placed s := by
  unfold takeEntry
  dsimp only
  (repeat' split) <;> simp

@[simp] theorem runReady_placed {r : CmdRef} {ok : Nat → Bool} {exe : State → CmdRef → Nat → State}
    (hexe : ∀ s x1 x2, placed (exe s x1 x2) = placed s) :
    placed (runReady s r ok exe) = placed s := by
  unfold runReady
  dsimp only
  (repeat' split) <;> simp [*]

@[simp] theorem queueRead_placed {r : CmdRef} {ok : Nat → Bool} : placed (queueRead s r ok) = placed s := by
  unfold queueRead
  (repeat' split) <;> simp

@[simp] theorem ringRow_placed {ctx qid : Nat} {ok : Nat → Bool} {exe : State → CmdRef → Nat → State}
    (hexe : ∀ s x1 x2, placed (exe s x1 x2) = placed s) :
    placed (ringRow ctx qid ok exe s) = placed s := by
  unfold ringRow
  dsimp only
  simp [*]

@[simp] theorem ringCmd_placed {ctx qid opc : Nat} {exe : State → CmdRef → Nat → State}
    (hexe : ∀ s x1 x2, placed (exe s x1 x2) = placed s) :
    PlacedOut s (ringCmd ctx qid opc exe s) := by
  unfold ringCmd
  simp [*]

@[simp] theorem needFw_placed {exe : State → CmdRef → Nat → State} {r : CmdRef} {v : Nat}
    (hexe : ∀ s x1 x2, placed (exe s x1 x2) = placed s) :
    placed (needFw exe s r v) = placed s := by
  unfold needFw
  (repeat' split) <;> simp [*]

@[simp] theorem hostWrite_placed {c a : Nat} {bs : List Byte} : placed (hostWrite s c a bs) = placed s := by
  simp [hostWrite]

/-! ### Machine/CollOps -/

@[simp] theorem laneSet_placed {t : Nat} {x : LaneRun} : placed (laneSet s t x) = placed s := placed_congr rfl rfl rfl

@[simp] theorem laneDel_placed {t : Nat} : placed (laneDel s t) = placed s := placed_congr rfl rfl rfl

@[simp] theorem engUpd_placed {c : Nat} {f : CollEng → CollEng} : placed (engUpd s c f) = placed s := placed_congr rfl rfl rfl

@[simp] theorem launchEnded_placed {t : Nat} : placed (launchEnded s t) = placed s := by
  simp [launchEnded]

@[simp] theorem payTokens_placed {t rq data : Nat} : placed (payTokens s t rq data) = placed s := by
  simp [payTokens]

@[simp] theorem failTile_placed {t status lseq : Nat} : placed (failTile s t status lseq) = placed s := by
  simp [failTile]

@[simp] theorem noteFail_placed {gix status src : Nat} : placed (noteFail s gix status src) = placed s := by
  simp [noteFail]

@[simp] theorem failLane_placed {t status src : Nat} : placed (failLane s t status src) = placed s := by
  unfold failLane
  dsimp only
  (repeat' split) <;> simp

@[simp] theorem sendFail_placed {gix status rank step lseq : Nat} {whole : Bool} :
    placed (sendFail s gix status rank step lseq whole) = placed s := by
  unfold sendFail
  split <;> simp

@[simp] theorem failLaunch_placed {gix step lseq status src : Nat} :
    placed (failLaunch s gix step lseq status src) = placed s := by
  simp [failLaunch]

@[simp] theorem abortLaunch_placed {t status src : Nat} : placed (abortLaunch s t status src) = placed s := by
  unfold abortLaunch
  split <;> simp

@[simp] theorem voteAborted_placed {t0 : Nat} : placed (voteAborted s t0) = placed s := by
  unfold voteAborted
  split <;> simp

@[simp] theorem commitPart_placed {t0 step round : Nat} : placed (commitPart s t0 step round) = placed s := by
  unfold commitPart
  dsimp only
  (repeat' split) <;> simp

@[simp] theorem abortPart_placed {t0 : Nat} : placed (abortPart s t0) = placed s := by
  simp [abortPart]

@[simp] theorem settleVote_placed {m : LocalMem} {grpStep : Nat} : placed (settleVote s m grpStep) = placed s := by
  unfold settleVote
  split <;> simp

@[simp] theorem memberFailed_placed {g : Group} {lost : Nat} {m : LocalMem} : placed (memberFailed g lost s m) = placed s := by
  simp [memberFailed]

@[simp] theorem closeRemote_placed {g : Group} : placed (closeRemote g s) = placed s := by
  unfold closeRemote
  split <;> simp

@[simp] theorem joinDone_placed {status : Nat} {m : LocalMem} : placed (joinDone status s m) = placed s := by
  unfold joinDone
  split <;> simp

@[simp] theorem groupFail_placed {gix status lost : Nat} {tell : Bool} :
    placed (groupFail s gix status lost tell) = placed s := by
  unfold groupFail
  dsimp only
  (repeat' split) <;> simp

@[simp] theorem groupFree_placed {gix : Nat} : placed (groupFree s gix) = placed s := by
  unfold groupFree
  split <;> simp

@[simp] theorem memberLeave_placed {gix t0 : Nat} : placed (memberLeave s gix t0) = placed s := by
  unfold memberLeave
  dsimp only
  (repeat' split) <;> simp

@[simp] theorem leaveAll_placed {t0 : Nat} : placed (leaveAll s t0) = placed s := by
  simp [leaveAll]

@[simp] theorem failQueued_placed {p : Part} {l : Launch} : placed (failQueued p s l) = placed s := by
  unfold failQueued
  dsimp only
  (repeat' split) <;> simp

@[simp] theorem failStopped_placed {p : Part} : placed (failStopped s p) = placed s := by
  simp [failStopped]

@[simp] theorem execColl_placed {t group sched sreg : Nat} {more : Bool} : PlacedOut s (execColl t group sched sreg more s) := by
  simp [execColl]

/-! ### Machine/Cache -/

@[simp] theorem cacheSet_placed {c : Nat} {x : CCache} : placed (cacheSet s c x) = placed s := placed_congr rfl rfl rfl

@[simp] theorem fetchLine_placed {t engine cpol : Nat} {ev : List LineEv} {a : Nat} :
    placed (fetchLine s t engine cpol ev a).1 = placed s := by
  unfold fetchLine
  dsimp only
  split
  · split
    · simp
    · split <;> simp
  · simp

@[simp] theorem fillAhead_placed {t cpol : Nat} {ev : List LineEv} {a : Nat} : placed (fillAhead s t cpol ev a) = placed s := by
  unfold fillAhead
  dsimp only
  split
  · simp
  · rfl

theorem fetchAhead_placed {own : State → Nat → State × List Byte} {t cpol reach : Nat} {ev : List LineEv} {l : List (Nat × Nat)}
    {n : Nat} {p : State × Fetched} (hown : ∀ s a, placed (own s a).1 = placed s) :
    placed (fetchAhead own t cpol reach ev l n p).1 = placed p.1 := by
  induction l generalizing n p with
  | nil => rfl
  | cons a rest ih =>
    rw [fetchAhead]
    simp [ih, hown]

/-! ### Machine/ArrayCmds -/

@[simp] theorem issueLocal_placed {t : Nat} {p : PathId} {c : PathCmd} {named : List (Nat × Bool)} {engine status : Nat}
    {own : Option Nat} {ovr : Nat} :
    placed (issueLocal s t p c named engine status own ovr) = placed s := by
  unfold issueLocal
  split <;> simp

@[simp] theorem issueArray_placed {t : Nat} {p : PathId} {named : List (Nat × Bool)} {xs : List Nat} {sr ovr : Nat}
    {ok : Latched → Bool} {op : PathOp} :
    placed (issueArray s t p named xs sr ovr ok op) = placed s := by
  simp [issueArray]

@[simp] theorem execWload_placed {t : Nat} {f : WloadOp} {more : Bool} : PlacedOut s (execWload t f more s) := by
  simp [execWload]

@[simp] theorem execStream_placed {t : Nat} {f : StreamOp} {more : Bool} : PlacedOut s (execStream t f more s) := by
  simp [execStream]

@[simp] theorem execDrain_placed {t : Nat} {f : DrainOp} {more : Bool} : PlacedOut s (execDrain t f more s) := by
  simp [execDrain]

@[simp] theorem vxIssue_placed {t opc : Nat} {f : VxOp} {more : Bool} : PlacedOut s (vxIssue t opc f more s) := by
  simp [vxIssue]

@[simp] theorem execBatchAppend_placed {t q : Nat} : PlacedOut s (execBatchAppend t q s) := by
  unfold execBatchAppend
  dsimp only
  (repeat' split) <;> simp

@[simp] theorem execBatchRelease_placed {t : Nat} : PlacedOut s (execBatchRelease t s) := by
  simp [execBatchRelease]

@[simp] theorem execBatchDeadline_placed {t : Nat} : PlacedOut s (execBatchDeadline t s) := by
  simp [execBatchDeadline]

@[simp] theorem execBatchRetire_placed {t : Nat} : PlacedOut s (execBatchRetire t s) := by
  simp [execBatchRetire]

/-! ### Machine/VectorCmds -/

@[simp] theorem execVcopy_placed {t : Nat} {f : VxOp} {more : Bool} : PlacedOut s (execVcopy t f more s) := by
  simp [execVcopy]

@[simp] theorem execFills_placed {t : Nat} {f : VxOp} {more : Bool} : PlacedOut s (execFills t f more s) := by
  simp [execFills]

@[simp] theorem execIadd_placed {t : Nat} {f : VxOp} {more : Bool} : PlacedOut s (execIadd t f more s) := by
  simp [execIadd]

@[simp] theorem execIand_placed {t : Nat} {f : VxOp} {more : Bool} : PlacedOut s (execIand t f more s) := by
  simp [execIand]

@[simp] theorem execIor_placed {t : Nat} {f : VxOp} {more : Bool} : PlacedOut s (execIor t f more s) := by
  simp [execIor]

@[simp] theorem execIxor_placed {t : Nat} {f : VxOp} {more : Bool} : PlacedOut s (execIxor t f more s) := by
  simp [execIxor]

@[simp] theorem execCmplt_placed {t : Nat} {f : VxOp} {more : Bool} : PlacedOut s (execCmplt t f more s) := by
  simp [execCmplt]

@[simp] theorem execCmpeq_placed {t : Nat} {f : VxOp} {more : Bool} : PlacedOut s (execCmpeq t f more s) := by
  simp [execCmpeq]

@[simp] theorem execSelect_placed {t : Nat} {f : VxOp} {more : Bool} : PlacedOut s (execSelect t f more s) := by
  simp [execSelect]

@[simp] theorem execVadd_placed {t : Nat} {f : VxOp} {more : Bool} : PlacedOut s (execVadd t f more s) := by
  simp [execVadd]

@[simp] theorem execVsub_placed {t : Nat} {f : VxOp} {more : Bool} : PlacedOut s (execVsub t f more s) := by
  simp [execVsub]

@[simp] theorem execVmul_placed {t : Nat} {f : VxOp} {more : Bool} : PlacedOut s (execVmul t f more s) := by
  simp [execVmul]

@[simp] theorem execFma_placed {t : Nat} {f : VxOp} {more : Bool} : PlacedOut s (execFma t f more s) := by
  simp [execFma]

@[simp] theorem execAxpby_placed {t : Nat} {f : VxOp} {more : Bool} : PlacedOut s (execAxpby t f more s) := by
  simp [execAxpby]

@[simp] theorem execAxpby2_placed {t : Nat} {f : VxOp} {more : Bool} : PlacedOut s (execAxpby2 t f more s) := by
  simp [execAxpby2]

@[simp] theorem execVmin_placed {t : Nat} {f : VxOp} {more : Bool} : PlacedOut s (execVmin t f more s) := by
  simp [execVmin]

@[simp] theorem execVmax_placed {t : Nat} {f : VxOp} {more : Bool} : PlacedOut s (execVmax t f more s) := by
  simp [execVmax]

@[simp] theorem execScale_placed {t : Nat} {f : VxOp} {more : Bool} : PlacedOut s (execScale t f more s) := by
  simp [execScale]

@[simp] theorem execAdd64_placed {t : Nat} {f : VxOp} {more : Bool} : PlacedOut s (execAdd64 t f more s) := by
  simp [execAdd64]

@[simp] theorem execCvt_placed {t : Nat} {f : VxOp} {more : Bool} : PlacedOut s (execCvt t f more s) := by
  simp [execCvt]

@[simp] theorem execUpdw_placed {t : Nat} {f : VxOp} {more : Bool} : PlacedOut s (execUpdw t f more s) := by
  simp [execUpdw]

@[simp] theorem execDiv_placed {t : Nat} {f : VxOp} {more : Bool} : PlacedOut s (execDiv t f more s) := by
  simp [execDiv]

@[simp] theorem execSqrt_placed {t : Nat} {f : VxOp} {more : Bool} : PlacedOut s (execSqrt t f more s) := by
  simp [execSqrt]

@[simp] theorem execRsqrt_placed {t : Nat} {f : VxOp} {more : Bool} : PlacedOut s (execRsqrt t f more s) := by
  simp [execRsqrt]

@[simp] theorem execVexp_placed {t : Nat} {f : VxOp} {more : Bool} : PlacedOut s (execVexp t f more s) := by
  simp [execVexp]

@[simp] theorem execVlog_placed {t : Nat} {f : VxOp} {more : Bool} : PlacedOut s (execVlog t f more s) := by
  simp [execVlog]

@[simp] theorem execTanh_placed {t : Nat} {f : VxOp} {more : Bool} : PlacedOut s (execTanh t f more s) := by
  simp [execTanh]

@[simp] theorem execSigmoid_placed {t : Nat} {f : VxOp} {more : Bool} : PlacedOut s (execSigmoid t f more s) := by
  simp [execSigmoid]

@[simp] theorem execSilu_placed {t : Nat} {f : VxOp} {more : Bool} : PlacedOut s (execSilu t f more s) := by
  simp [execSilu]

@[simp] theorem execGelu_placed {t : Nat} {f : VxOp} {more : Bool} : PlacedOut s (execGelu t f more s) := by
  simp [execGelu]

@[simp] theorem execRsum_placed {t : Nat} {f : VxOp} {more : Bool} : PlacedOut s (execRsum t f more s) := by
  simp [execRsum]

@[simp] theorem execRsumsq_placed {t : Nat} {f : VxOp} {more : Bool} : PlacedOut s (execRsumsq t f more s) := by
  simp [execRsumsq]

@[simp] theorem execRmax_placed {t : Nat} {f : VxOp} {more : Bool} : PlacedOut s (execRmax t f more s) := by
  simp [execRmax]

@[simp] theorem execRmin_placed {t : Nat} {f : VxOp} {more : Bool} : PlacedOut s (execRmin t f more s) := by
  simp [execRmin]

@[simp] theorem execRmaxabs_placed {t : Nat} {f : VxOp} {more : Bool} : PlacedOut s (execRmaxabs t f more s) := by
  simp [execRmaxabs]

@[simp] theorem execRndu_placed {t : Nat} {f : VxOp} {more : Bool} : PlacedOut s (execRndu t f more s) := by
  simp [execRndu]

@[simp] theorem execDropout_placed {t : Nat} {f : VxOp} {more : Bool} : PlacedOut s (execDropout t f more s) := by
  simp [execDropout]

@[simp] theorem execRndb_placed {t : Nat} {f : VxOp} {more : Bool} : PlacedOut s (execRndb t f more s) := by
  simp [execRndb]

/-! ### Machine/StreamCmds -/

@[simp] theorem beginUnit_placed {t k : Nat} {c : PathCmd} : placed (beginUnit s t k c) = placed s := placed_congr rfl rfl rfl

@[simp] theorem startMove_placed {t : Nat} {l : Latched} {f : MoveOp} : placed (startMove s t l f) = placed s := by
  unfold startMove
  extract_lets _ _ _ _ s0 _ _ s0'
  have h0' : placed s0' = placed s := placed_ite_of tileSram_placed (cacheSet_placed.trans tileSram_placed)
  split
  · exact h0'
  · extract_lets _ _ _ s1
    have h1 : placed s1 = placed s := tileReadUe_placed.trans ((fetchAhead_placed fun _ _ => fetchLine_placed).trans h0')
    refine placed_ite_of (fxApply_placed.trans h1) (placed_ite_of (fxApply_placed.trans h1) ?_)
    exact (placed_foldl fun _ _ => tileErr_placed).trans (ctxWrite_placed.trans (tileFlags_placed.trans (tileSet_placed.trans h1)))

@[simp] theorem startPrefetch_placed {t : Nat} {l : Latched} {f : MoveOp} : placed (startPrefetch s t l f) = placed s := by
  unfold startPrefetch
  extract_lets src own
  have hown : ∀ s a, placed (own s a).1 = placed s := by
    intro s a
    dsimp only [own]
    split <;> simp
  split
  · rfl
  · simp [fetchAhead_placed hown]

@[simp] theorem beginCmd_placed {t k : Nat} {c : PathCmd} : placed (beginCmd s t k c) = placed s := by
  unfold beginCmd
  split <;> simp

@[simp] theorem issueStream_placed {t : Nat} {f : MoveOp} {op : PathOp} {named : List (Nat × Bool)} {xs : List Nat}
    {al own : Latched → Option Nat} :
    placed (issueStream s t f op named xs al own) = placed s := by
  unfold issueStream
  dsimp only
  (repeat' split) <;> simp

@[simp] theorem execMove_placed {t : Nat} {f : MoveOp} {more : Bool} : PlacedOut s (execMove t f more s) := by
  simp [execMove]

@[simp] theorem execPrefetch_placed {t : Nat} {f : MoveOp} {more : Bool} : PlacedOut s (execPrefetch t f more s) := by
  simp [execPrefetch]

@[simp] theorem startPending_placed {t k : Nat} : placed (startPending s t k) = placed s := by
  unfold startPending
  dsimp only
  (repeat' split) <;> simp

@[simp] theorem execStreamCmdDone_placed {t k : Nat} : PlacedOut s (execStreamCmdDone t k s) := by
  unfold execStreamCmdDone
  dsimp only
  (repeat' split) <;> simp

@[simp] theorem execPendingStart_placed {t : Nat} {p : PathId} : PlacedOut s (execPendingStart t p s) := by
  unfold execPendingStart
  split <;> simp

/-! ### Machine/CollCmds -/

@[simp] theorem keySweep_placed : placed (keySweep s) = placed s := by
  simp [keySweep]

@[simp] theorem blockSweep_placed : placed (blockSweep s) = placed s := by
  simp [blockSweep]

@[simp] theorem fabNext_placed : PlacedOut s (fabNext t) ↔ placed t = placed s := by
  simp [fabNext]

@[simp] theorem engScratch_placed {t a n : Nat} : PlacedGot s (engScratch s t a n) := by
  unfold engScratch
  dsimp only
  (repeat' split) <;> simp

@[simp] theorem engRead_placed {t sp a n : Nat} {ev : List LineEv} : PlacedGot s (engRead s t sp a n ev) := by
  unfold engRead
  dsimp only
  (repeat' split) <;> simp

@[simp] theorem engWrite_placed {t sp a : Nat} {bs : List Byte} {ev : List LineEv} : PlacedGot s (engWrite s t sp a bs ev) := by
  unfold engWrite
  dsimp only
  (repeat' split) <;> simp

theorem gotThen_placed {g : Got} {k : State → List Byte → Got} (hg : PlacedGot s g) (hk : ∀ s x1, PlacedGot s (k s x1)) :
    PlacedGot s (gotThen g k) := by
  unfold gotThen
  split
  · trivial
  · exact hg
  · exact (hk _ _).trans hg

theorem streamRead_placed {x : LaneCtx} {q : Nat} {ev : List LineEv} {ps : List (Nat × Nat × Nat)} {acc : List Byte} :
    PlacedGot s (streamRead x q ev ps s acc) := by
  induction ps generalizing s acc with
  | nil => rfl
  | cons p ps ih =>
    rw [streamRead]
    split
    · exact ih
    · exact gotThen_placed engRead_placed fun _ _ => ih

theorem streamWrite_placed {x : LaneCtx} {q : Nat} {ev : List LineEv} {ps : List (Nat × Nat × Nat)} {bs : List Byte} :
    PlacedGot s (streamWrite x q ev ps s bs) := by
  induction ps generalizing s bs with
  | nil => rfl
  | cons p ps ih =>
    rw [streamWrite]
    split
    · exact ih.trans (by simp)
    · exact gotThen_placed engWrite_placed fun _ _ => ih

theorem operandRead_placed {x : LaneCtx} {o k len : Nat} {ev : List LineEv} : PlacedRead s (operandRead s x o k len ev) := by
  unfold operandRead
  split
  · rfl
  · split
    · exact engScratch_placed
    · exact .map fun _ => engRead_placed

theorem operandWrite_placed {x : LaneCtx} {o k : Nat} {bs : List Byte} {ev : List LineEv} :
    PlacedRead s (operandWrite s x o k bs ev) := by
  unfold operandWrite
  split
  · rfl
  · split
    · exact engWrite_placed
    · exact .map fun _ => engWrite_placed

@[simp] theorem applyOwed_placed {t rq : Nat} : placed (applyOwed s t rq) = placed s := by
  unfold applyOwed
  split <;> simp

@[simp] theorem accessFailed_placed {t : Nat} : placed (accessFailed s t) = placed s := by
  simp [accessFailed]

@[simp] theorem drupInc_placed {t n : Nat} : placed (drupInc s t n) = placed s := placed_congr rfl rfl rfl

@[simp] theorem refuseLaunch_placed {l : Launch} {gix : Option Nat} {rank lseq status src : Nat} {pay : Bool} :
    placed (refuseLaunch s l gix rank lseq status src pay) = placed s := by
  unfold refuseLaunch
  dsimp only
  (repeat' split) <;> simp

@[simp] theorem countsFailed_placed {t : Nat} : placed (countsFailed s t) = placed s := by
  unfold countsFailed
  split <;> simp

@[simp] theorem ownCounts_placed {t : Nat} : placed (ownCounts s t) = placed s := by
  unfold ownCounts
  split
  · rfl
  · simp only [placed_ite]
    split
    · rfl
    · split
      · rename_i e
        exact PlacedGot.ofOk engWrite_placed e
      · rename_i e
        simp [PlacedGot.ofFailed engWrite_placed e]
      · rfl

@[simp] theorem earlyCredits_placed {t gid rank lane : Nat} : placed (earlyCredits s t gid rank lane) = placed s := by
  unfold earlyCredits
  split <;> simp

@[simp] theorem startLaunch_placed {l : Launch} {p : Part} : placed (startLaunch s l p) = placed s := by
  unfold startLaunch
  dsimp only
  (repeat' split) <;> simp

@[simp] theorem execLaunchStart_placed {c : Nat} : PlacedOut s (execLaunchStart c s) := by
  unfold execLaunchStart
  dsimp only
  (repeat' split) <;> simp

@[simp] theorem sendDrup_placed {x : LaneCtx} {k : SendSt} {bs : List Byte} {holes : List (Nat × Nat)} :
    placed (sendDrup s x k bs holes) = placed s := by
  unfold sendDrup
  split <;> simp

theorem useGot_placed {t : Nat} {g : Option Got} {k : State → List Byte → State} (hg : PlacedRead s g)
    (hk : ∀ s x1, placed (k s x1) = placed s) : placed (useGot s t g k) = placed s := by
  unfold useGot
  split
  · simp
  · rfl
  · exact accessFailed_placed.trans hg
  · exact (hk _ _).trans hg

@[simp] theorem sendReady_placed {x : LaneCtx} {k : SendSt} {ev : List LineEv} : placed (sendReady s x k ev) = placed s := by
  unfold sendReady
  split
  · exact useGot_placed streamRead_placed fun _ _ => sendDrup_placed
  · exact useGot_placed operandRead_placed fun _ _ => sendDrup_placed

@[simp] theorem sendStart_placed {x : LaneCtx} {ev : List LineEv} : placed (sendStart s x ev) = placed s := by
  unfold sendStart
  dsimp only
  (repeat' split) <;> simp

theorem execSend_placed {t : Nat} {ev : List LineEv} : PlacedOut s (execSend t ev s) := by
  unfold execSend
  split
  · simp
  · split
    · simp
    · split <;> simp

@[simp] theorem sendCredit_placed {x : LaneCtx} : placed (sendCredit s x) = placed s := by
  simp [sendCredit]

@[simp] theorem postRecv_placed {x : LaneCtx} {dst len : Nat} : placed (postRecv s x dst len) = placed s := by
  simp [postRecv]

@[simp] theorem execRecv_placed {t : Nat} : PlacedOut s (execRecv t s) := by
  unfold execRecv
  split <;> simp

@[simp] theorem localDone_placed {x : LaneCtx} {empty : Bool} : placed (localDone s x empty) = placed s := by
  unfold localDone
  split <;> simp

theorem execReduce_placed {t : Nat} {hw : HwErr} {ev : List LineEv} : PlacedOut s (execReduce t hw ev s) := by
  unfold execReduce
  split
  · simp
  · extract_lets _ _ _ _ s0
    have h0 : placed s0 = placed s := tileHw_placed
    clear_value s0
    split
    · simp
    · refine fabNext_placed.mpr ((useGot_placed operandRead_placed fun _ _ => ?_).trans h0)
      refine useGot_placed operandRead_placed fun _ _ => useGot_placed operandWrite_placed fun _ _ => ?_
      simp

theorem execDrupeletCopy_placed {t : Nat} {ev : List LineEv} : PlacedOut s (execDrupeletCopy t ev s) := by
  unfold execDrupeletCopy
  split
  · simp
  · simp only [placedOut_ite, placedOut_next, fabNext_placed]
    split
    · trivial
    · split
      · split
        · trivial
        · split
          · simp
          · exact useGot_placed (placedRead_some.mpr (gotThen_placed streamRead_placed fun _ _ => streamWrite_placed)) fun _ _ => localDone_placed
      · exact useGot_placed operandRead_placed fun _ _ => useGot_placed operandWrite_placed fun _ _ => localDone_placed

@[simp] theorem execLanLoop_placed {t : Nat} : PlacedOut s (execLanLoop t s) := by
  unfold execLanLoop
  split <;> simp

theorem execCountx_placed {t : Nat} : PlacedOut s (execCountx t s) := by
  unfold execCountx
  split
  · simp
  · dsimp only
    split
    · simp
    · exact fabNext_placed.mpr ((useGot_placed (placedRead_some.mpr engScratch_placed) fun _ _ => sendDrup_placed).trans laneSet_placed)

@[simp] theorem execCountr_placed {t : Nat} : PlacedOut s (execCountr t s) := by
  unfold execCountr
  split <;> simp

@[simp] theorem execEndProg_placed {t : Nat} : PlacedOut s (execEndProg t s) := by
  unfold execEndProg
  split <;> simp

@[simp] theorem execLaunchComplete_placed {t : Nat} : PlacedOut s (execLaunchComplete t s) := by
  unfold execLaunchComplete
  split <;> simp

@[simp] theorem staleMsg_placed {t : Nat} : placed (staleMsg s t) = placed s := placed_congr rfl rfl rfl

@[simp] theorem recvDone_placed {t rq : Nat} {r : Recv} : placed (recvDone s t rq r) = placed s := by
  unfold recvDone
  split <;> simp

theorem segWrite_placed {x : LaneCtx} {r : Recv} {f : UFrame} {ev : List LineEv} : PlacedRead s (segWrite s x r f ev) := by
  unfold segWrite
  extract_lets o
  split
  · rfl
  · split
    · exact engWrite_placed
    · split
      · exact engWrite_placed
      · split
        · exact streamWrite_placed
        · exact .map fun _ => engWrite_placed

theorem dataArrive_placed {f : UFrame} {ev : List LineEv} : PlacedArr s (dataArrive s f ev) := by
  unfold dataArrive
  split
  · rfl
  · split
    · simp
    · trivial
    · simp
    · split
      · split
        · rfl
        · split
          · simp
          · split
            · simp
            · split <;> trivial
            · rename_i e
              simp [PlacedRead.ofFailed segWrite_placed e]
            · rename_i e
              have k := PlacedRead.ofOk segWrite_placed e
              split <;> simp [k]
      · split <;> simp

@[simp] theorem creditArrive_placed {f : UFrame} : PlacedArr s (creditArrive s f) := by
  unfold creditArrive
  dsimp only
  (repeat' split) <;> simp

@[simp] theorem dataAcked_placed {f : UFrame} : placed (dataAcked s f) = placed s := by
  unfold dataAcked
  dsimp only
  (repeat' split) <;> simp

/-! ### Machine/Disable -/

@[simp] theorem exportEnd_placed {r : CmdRef} : placed (exportEnd s r) = placed s := by
  simp [exportEnd]

@[simp] theorem abortBusy_placed {r : CmdRef} {k : QCmd} : placed (abortBusy s r k) = placed s := by
  unfold abortBusy
  dsimp only
  (repeat' split) <;> simp

@[simp] theorem abortQueue_placed {r : CmdRef} : placed (abortQueue s r) = placed s := by
  unfold abortQueue
  dsimp only
  (repeat' split) <;> simp

@[simp] theorem abortAll_placed {c : Nat} : placed (abortAll s c) = placed s := by
  simp [abortAll]

@[simp] theorem abandonShared_placed {c : Nat} : placed (abandonShared s c) = placed s := by
  refine placed_foldl fun s e => ?_
  split <;> simp

@[simp] theorem partBurnish_placed {p : Part} : placed (partBurnish s p) = placed s := by
  simp [partBurnish]

@[simp] theorem disableCtx_placed {c : Nat} : placed (disableCtx s c) = placed s := by
  simp [disableCtx]

@[simp] theorem postDisabled_placed {fk : Nat} {old new : Half} {cause : Nat} :
    placed (postDisabled s fk old new cause) = placed s := by
  simp [postDisabled]

@[simp] theorem disableFunc_placed {cause fk : Nat} : placed (disableFunc s cause fk) = placed s := by
  simp [disableFunc]

@[simp] theorem disableEvent_placed {port cause : Nat} {fks : List Nat} : placed (disableEvent s port cause fks) = placed s := by
  simp [disableEvent]

@[simp] theorem farUnreached_placed : placed (farUnreached s) = placed s := by
  simp [farUnreached]

@[simp] theorem farLost_placed : placed (farLost s) = placed s := by
  simp [farLost]

@[simp] theorem portReset_placed {k : Nat} : placed (portReset s k) = placed s := by
  simp [portReset]

@[simp] theorem portIncarnate_placed {k : Nat} : placed (portIncarnate s k) = placed s := by
  simp [portIncarnate]

@[simp] theorem tdiError_placed {fk cause : Nat} : placed (tdiError s fk cause) = placed s := by
  simp [tdiError]

/-! ### Machine/RingCmds -/

@[simp] theorem dbDrop_placed {src : DbSrc} : placed (dbDrop s src) = placed s := placed_congr rfl rfl rfl

@[simp] theorem doorbell_placed {src : DbSrc} {c : Nat} {go : State → State} (hgo : ∀ s, placed (go s) = placed s) :
    placed (doorbell s src c go) = placed s := by
  unfold doorbell
  (repeat' split) <;> simp [*]

@[simp] theorem sqTailGo_placed {src : DbSrc} {r : CmdRef} {tail : Nat} : placed (sqTailGo src r tail s) = placed s := by
  unfold sqTailGo
  split <;> simp

@[simp] theorem execSqTail_placed {src : DbSrc} {ctx q tail : Nat} : PlacedOut s (execSqTail src ctx q tail s) := by
  simp [execSqTail]

@[simp] theorem cqHeadGo_placed {r : CmdRef} {head : Nat} : placed (cqHeadGo r head s) = placed s := by
  unfold cqHeadGo
  split <;> simp

@[simp] theorem execCqHead_placed {src : DbSrc} {ctx q head : Nat} : PlacedOut s (execCqHead src ctx q head s) := by
  simp [execCqHead]

@[simp] theorem evqHeadGo_placed {c head : Nat} : placed (evqHeadGo c head s) = placed s := by
  unfold evqHeadGo
  split <;> simp

@[simp] theorem execEvqHead_placed {src : DbSrc} {ctx head : Nat} : PlacedOut s (execEvqHead src ctx head s) := by
  simp [execEvqHead]

@[simp] theorem execEvOverflow_placed {ctx : Nat} {evq : Bool} : PlacedOut s (execEvOverflow ctx evq s) := by
  unfold execEvOverflow
  dsimp only
  (repeat' split) <;> simp

@[simp] theorem applySignal_placed {k : QCmd} {status : Nat} : placed (applySignal s k status) = placed s := by
  unfold applySignal
  split <;> simp

@[simp] theorem completeCmd_placed {r : CmdRef} {q : Queue} {k : QCmd} {status : Nat} :
    placed (completeCmd s r q k status) = placed s := by
  simp [completeCmd]

@[simp] theorem execCommandComplete_placed {ctx qid : Nat} : PlacedOut s (execCommandComplete ctx qid s) := by
  unfold execCommandComplete
  dsimp only
  (repeat' split) <;> simp

@[simp] theorem execFenceWaitRelease_placed {ctx qid : Nat} : PlacedOut s (execFenceWaitRelease ctx qid s) := by
  unfold execFenceWaitRelease
  dsimp only
  (repeat' split) <;> simp

@[simp] theorem execRingNop_placed {ctx qid : Nat} : PlacedOut s (execRingNop ctx qid s) := by
  simp [execRingNop]

@[simp] theorem exeIdentify_placed {r : CmdRef} {v : Nat} : placed (exeIdentify s r v) = placed s := by
  simp [exeIdentify]

@[simp] theorem execIdentify_placed {ctx qid : Nat} : PlacedOut s (execIdentify ctx qid s) := by
  simp [execIdentify]

@[simp] theorem exeIfNegotiate_placed {r : CmdRef} {v : Nat} : placed (exeIfNegotiate s r v) = placed s := by
  simp [exeIfNegotiate]

@[simp] theorem execIfNegotiate_placed {ctx qid : Nat} : PlacedOut s (execIfNegotiate ctx qid s) := by
  simp [execIfNegotiate]

@[simp] theorem exeCtxCreate_placed {r : CmdRef} {v : Nat} : placed (exeCtxCreate s r v) = placed s := by
  simp [exeCtxCreate]

@[simp] theorem execCtxCreate_placed {ctx qid : Nat} : PlacedOut s (execCtxCreate ctx qid s) := by
  simp [execCtxCreate]

@[simp] theorem exeCtxDestroy_placed {r : CmdRef} {v : Nat} : placed (exeCtxDestroy s r v) = placed s := by
  simp [exeCtxDestroy]

@[simp] theorem execCtxDestroy_placed {ctx qid : Nat} : PlacedOut s (execCtxDestroy ctx qid s) := by
  simp [execCtxDestroy]

@[simp] theorem exeVfBind_placed {r : CmdRef} {v : Nat} : placed (exeVfBind s r v) = placed s := by
  simp [exeVfBind]

@[simp] theorem execVfBind_placed {ctx qid : Nat} : PlacedOut s (execVfBind ctx qid s) := by
  simp [execVfBind]

@[simp] theorem exeVfUnbind_placed {r : CmdRef} {v : Nat} : placed (exeVfUnbind s r v) = placed s := by
  simp [exeVfUnbind]

@[simp] theorem execVfUnbind_placed {ctx qid : Nat} : PlacedOut s (execVfUnbind ctx qid s) := by
  simp [execVfUnbind]

@[simp] theorem exeDmaWindow_placed {r : CmdRef} {v : Nat} : placed (exeDmaWindow s r v) = placed s := by
  simp [exeDmaWindow]

@[simp] theorem execDmaWindow_placed {ctx qid : Nat} : PlacedOut s (execDmaWindow ctx qid s) := by
  simp [execDmaWindow]

@[simp] theorem farUnbound_placed {blk : Nat} : placed (farUnbound s blk) = placed s := placed_congr rfl rfl rfl

@[simp] theorem exeFarWindow_placed {r : CmdRef} {v : Nat} : placed (exeFarWindow s r v) = placed s := by
  unfold exeFarWindow
  dsimp only
  (repeat' split) <;> simp

@[simp] theorem execFarWindow_placed {ctx qid : Nat} : PlacedOut s (execFarWindow ctx qid s) := by
  simp [execFarWindow]

@[simp] theorem exeObjShare_placed {r : CmdRef} {v : Nat} : placed (exeObjShare s r v) = placed s := by
  unfold exeObjShare
  extract_lets
  split
  · simp
  · simp only [placed_ite]
    split
    · simp
    · split
      · simp
      · split
        · simp
        · split
          · simp
          · rename_i e
            simp [openHandle_placed e]

@[simp] theorem execObjShare_placed {ctx qid : Nat} : PlacedOut s (execObjShare ctx qid s) := by
  simp [execObjShare]

@[simp] theorem exeObjCreate_placed {r : CmdRef} {v : Nat} : placed (exeObjCreate s r v) = placed s := by
  unfold exeObjCreate
  extract_lets
  split
  · simp
  · split
    · simp
    · rename_i e
      simp [createObj_placed e]

@[simp] theorem execObjCreate_placed {ctx qid : Nat} : PlacedOut s (execObjCreate ctx qid s) := by
  simp [execObjCreate]

@[simp] theorem exeObjRef_placed {r : CmdRef} {v : Nat} : placed (exeObjRef s r v) = placed s := by
  unfold exeObjRef
  split <;> simp

@[simp] theorem execObjRef_placed {ctx qid : Nat} : PlacedOut s (execObjRef ctx qid s) := by
  simp [execObjRef]

@[simp] theorem exeObjUnref_placed {r : CmdRef} {v : Nat} : placed (exeObjUnref s r v) = placed s := by
  unfold exeObjUnref
  split <;> simp

@[simp] theorem execObjUnref_placed {ctx qid : Nat} : PlacedOut s (execObjUnref ctx qid s) := by
  simp [execObjUnref]

@[simp] theorem exeObjQuery_placed {r : CmdRef} {v : Nat} : placed (exeObjQuery s r v) = placed s := by
  unfold exeObjQuery
  dsimp only
  (repeat' split) <;> simp

@[simp] theorem execObjQuery_placed {ctx qid : Nat} : PlacedOut s (execObjQuery ctx qid s) := by
  simp [execObjQuery]

@[simp] theorem createEvents_placed {r : CmdRef} {c log2 vec off : Nat} :
    placed (createEvents s r c log2 vec off) = placed s := by
  unfold createEvents
  extract_lets
  split
  · simp
  · split
    · simp
    · split
      · simp
      · rename_i e
        simp [createObj_placed e]

@[simp] theorem createQueue_placed {r : CmdRef} {c qid sl cl vec : Nat} {irq : Bool} {sqOff cqOff : Nat} :
    placed (createQueue s r c qid sl cl vec irq sqOff cqOff) = placed s := by
  unfold createQueue
  extract_lets
  split
  · simp
  · split
    · simp
    · split
      · simp
      · rename_i e
        simp [createObj_placed e]

@[simp] theorem exeQueueCreate_placed {r : CmdRef} {v : Nat} : placed (exeQueueCreate s r v) = placed s := by
  simp [exeQueueCreate]

@[simp] theorem execQueueCreate_placed {ctx qid : Nat} : PlacedOut s (execQueueCreate ctx qid s) := by
  simp [execQueueCreate]

@[simp] theorem exeAbortQueues_placed {r : CmdRef} {v : Nat} : placed (exeAbortQueues s r v) = placed s := by
  simp [exeAbortQueues]

@[simp] theorem execAbortQueues_placed {ctx qid : Nat} : PlacedOut s (execAbortQueues ctx qid s) := by
  simp [execAbortQueues]

@[simp] theorem exeFenceAbandon_placed {r : CmdRef} {v : Nat} : placed (exeFenceAbandon s r v) = placed s := by
  unfold exeFenceAbandon
  split <;> simp

@[simp] theorem execFenceAbandon_placed {ctx qid : Nat} : PlacedOut s (execFenceAbandon ctx qid s) := by
  simp [execFenceAbandon]

@[simp] theorem postReleased_placed {x : Obj} : placed (postReleased s x) = placed s := by
  simp [postReleased]

@[simp] theorem dropPage_placed {c dva : Nat} : placed (dropPage c s dva) = placed s := by
  unfold dropPage
  split <;> simp

@[simp] theorem teardown_placed {o : Nat} {x : Obj} : placed (teardown s o x) = placed s := by
  unfold teardown
  split <;> simp

@[simp] theorem freeHeader_placed {o : Nat} {x : Obj} : placed (freeHeader s o x) = placed s := by
  simp [freeHeader]

@[simp] theorem execObjRelease_placed {obj : Nat} : PlacedOut s (execObjRelease obj s) := by
  unfold execObjRelease
  split <;> simp

@[simp] theorem exeMemMap_placed {r : CmdRef} {v : Nat} : placed (exeMemMap s r v) = placed s := by
  unfold exeMemMap
  split <;> simp

@[simp] theorem execMemMap_placed {ctx qid : Nat} : PlacedOut s (execMemMap ctx qid s) := by
  simp [execMemMap]

@[simp] theorem exeMemUnmap_placed {r : CmdRef} {v : Nat} : placed (exeMemUnmap s r v) = placed s := by
  unfold exeMemUnmap
  split <;> simp

@[simp] theorem execMemUnmap_placed {ctx qid : Nat} : PlacedOut s (execMemUnmap ctx qid s) := by
  simp [execMemUnmap]

@[simp] theorem releaseReserve_placed {r : CmdRef} {fk : Nat} : placed (releaseReserve s r fk) = placed s := by
  simp [releaseReserve]

@[simp] theorem exeMemRelease_placed {r : CmdRef} {v : Nat} : placed (exeMemRelease s r v) = placed s := by
  simp [exeMemRelease]

@[simp] theorem execMemRelease_placed {ctx qid : Nat} : PlacedOut s (execMemRelease ctx qid s) := by
  simp [execMemRelease]

@[simp] theorem exeMemReserve_placed {r : CmdRef} {v : Nat} : placed (exeMemReserve s r v) = placed s := by
  simp [exeMemReserve]

@[simp] theorem execMemReserve_placed {ctx qid : Nat} : PlacedOut s (execMemReserve ctx qid s) := by
  simp [execMemReserve]

@[simp] theorem exeMemRedirClear_placed {r : CmdRef} {v : Nat} : placed (exeMemRedirClear s r v) = placed s := by
  simp [exeMemRedirClear]

@[simp] theorem execMemRedirClear_placed {ctx qid : Nat} : PlacedOut s (execMemRedirClear ctx qid s) := by
  simp [execMemRedirClear]

@[simp] theorem devFetch_placed {c a n : Nat} {ev : List LineEv} : placed (devFetch s c a n ev).1 = placed s := by
  unfold devFetch
  dsimp only
  (repeat' split) <;> simp

@[simp] theorem devStore_placed {c : Nat} {ls : List (List (Nat × Byte))} {ev : List LineEv} :
    placed (devStore s c ls ev).1 = placed s := by
  induction ls generalizing s with
  | nil => rfl
  | cons g rest ih =>
    rw [devStore]
    exact placed_iteFst_of (ih.trans ctxWriteLine_placed) ctxWriteLine_placed

@[simp] theorem dmaStore_placed {c sp a : Nat} {bs : List Byte} {ev : List LineEv} :
    placed (dmaStore s c sp a bs ev).1 = placed s := by
  unfold dmaStore
  split <;> simp

@[simp] theorem dmaEnd_placed {r : CmdRef} {c dsp da : Nat} {bs : List Byte} {st det : Nat} {ev : List LineEv} :
    placed (dmaEnd s r c dsp da bs st det ev) = placed s := by
  simp [dmaEnd]

@[simp] theorem hostErrCount_placed {c : Nat} : placed (hostErrCount s c) = placed s := placed_congr rfl rfl rfl

@[simp] theorem copyEnd_placed {r : CmdRef} {c ssp sa dsp da n : Nat} {host : HostRsp} {ev : List LineEv} :
    placed (copyEnd s r c ssp sa dsp da n host ev) = placed s := by
  unfold copyEnd
  split <;> simp

@[simp] theorem exeDmaCopy_placed {host : HostRsp} {ev : List LineEv} {r : CmdRef} {v : Nat} :
    placed (exeDmaCopy host ev s r v) = placed s := by
  unfold exeDmaCopy
  dsimp only
  (repeat' split) <;> simp

@[simp] theorem execDmaCopy_placed {ctx qid : Nat} {host : HostRsp} {ev : List LineEv} :
    PlacedOut s (execDmaCopy ctx qid host ev s) := by
  simp [execDmaCopy]

@[simp] theorem exeDmaFill_placed {ev : List LineEv} {r : CmdRef} {v : Nat} : placed (exeDmaFill ev s r v) = placed s := by
  unfold exeDmaFill
  dsimp only
  (repeat' split) <;> simp

@[simp] theorem execDmaFill_placed {ctx qid : Nat} {ev : List LineEv} : PlacedOut s (execDmaFill ctx qid ev s) := by
  simp [execDmaFill]

/-! ### Machine/PlateImage -/

@[simp] theorem exePlateLoad_placed {ev : List LineEv} {r : CmdRef} {v : Nat} : placed (exePlateLoad ev s r v) = placed s := by
  unfold exePlateLoad
  dsimp only
  (repeat' split) <;> simp

@[simp] theorem execPlateLoad_placed {ctx qid : Nat} {ev : List LineEv} : PlacedOut s (execPlateLoad ctx qid ev s) := by
  simp [execPlateLoad]

/-! ### Machine/UnitCmds -/

@[simp] theorem resetBlock_placed {u : UnitId} : placed (resetBlock s u) = placed s := by
  unfold resetBlock
  dsimp only
  (repeat' split) <;> simp

@[simp] theorem enterReset_placed {u : UnitId} : placed (enterReset s u) = placed s := by
  unfold enterReset
  split <;> simp

@[simp] theorem resetOne_placed {root src : Nat} {u : UnitId} : placed (resetOne root src s u) = placed s := by
  simp [resetOne]

@[simp] theorem resetGo_placed {u : UnitId} : placed (resetGo s u) = placed s := by
  simp [resetGo]

@[simp] theorem sweepTake_placed {c : UCmd} {u : UnitId} : placed (sweepTake c s u) = placed s := by
  simp [sweepTake]

@[simp] theorem sweepOne_placed {c : UCmd} {root src : Nat} {u : UnitId} : placed (sweepOne c root src s u) = placed s := by
  simp [sweepOne]

@[simp] theorem sweepGo_placed {c : UCmd} {u : UnitId} : placed (sweepGo c s u) = placed s := by
  have h1 : ∀ {l : List UnitId} {p q}, placed (l.foldl (sweepOne c p q) s) = placed s := placed_foldl fun _ _ => sweepOne_placed
  unfold sweepGo
  exact placed_ite_of h1 (cmdDone_placed.trans (sweepTake_placed.trans h1))

@[simp] theorem sleepGo_placed {u : UnitId} : placed (sleepGo s u) = placed s := by
  simp [sleepGo]

@[simp] theorem retireAll_placed {u : UnitId} : placed (retireAll s u) = placed s := by
  simp [retireAll]

@[simp] theorem actWaiting_placed {u : UnitId} {e : Nat × UCmd} : placed (actWaiting s u e) = placed s := by
  unfold actWaiting
  dsimp only
  (repeat' split) <;> simp

@[simp] theorem endAction_placed {u : UnitId} {status : Nat} : placed (endAction s u status) = placed s := by
  simp [endAction]

@[simp] theorem settleWaiting_placed : placed (settleWaiting s) = placed s := by
  refine placed_foldl fun s e => ?_
  split <;> simp

@[simp] theorem runCmd_placed {u : UnitId} {c : UCmd} : placed (runCmd s u c) = placed s := by
  unfold runCmd
  split <;> simp

@[simp] theorem unitCmd_placed {u : UnitId} {w : Writer} {inc : Half} {c : UCmd} : placed (unitCmd s u w inc c) = placed s := by
  simp [unitCmd]

@[simp] theorem execQuiesce_placed {u : UnitId} {w : Writer} {inc : Half} : PlacedOut s (execQuiesce u w inc s) := by
  simp [execQuiesce]

@[simp] theorem execResume_placed {u : UnitId} {w : Writer} {inc : Half} : PlacedOut s (execResume u w inc s) := by
  simp [execResume]

@[simp] theorem execReset_placed {u : UnitId} {w : Writer} {inc : Half} : PlacedOut s (execReset u w inc s) := by
  simp [execReset]

@[simp] theorem execSleep_placed {u : UnitId} {w : Writer} {inc : Half} : PlacedOut s (execSleep u w inc s) := by
  simp [execSleep]

@[simp] theorem execRetire_placed {u : UnitId} {w : Writer} {inc : Half} : PlacedOut s (execRetire u w inc s) := by
  simp [execRetire]

@[simp] theorem becomeQuiesced_placed {u : UnitId} : placed (becomeQuiesced s u) = placed s := by
  simp [becomeQuiesced]

@[simp] theorem quiescePart_placed {p : Part} : placed (quiescePart s p) = placed s := by
  simp [quiescePart]

@[simp] theorem execUnitQuiesced_placed {u : UnitId} : PlacedOut s (execUnitQuiesced u s) := by
  unfold execUnitQuiesced
  (repeat' split) <;> simp

@[simp] theorem finishReset_placed {u : UnitId} : placed (finishReset s u) = placed s := by
  simp [finishReset]

theorem execResetDone_placed {u : UnitId} : PlacedOut s (execResetDone u s) := by
  simp [execResetDone, -List.foldl_reverse]

@[simp] theorem execWakeDone_placed {u : UnitId} : PlacedOut s (execWakeDone u s) := by
  simp [execWakeDone]

@[simp] theorem fatalPart_placed {hit : List UnitId} {p : Part} : placed (fatalPart s hit p) = placed s := by
  simp [fatalPart]

@[simp] theorem dropWaiting_placed {root : Nat} : placed (dropWaiting s root) = placed s := placed_congr rfl rfl rfl

@[simp] theorem fatalOneAt_placed {top : Nat} {u : UnitId} : placed (fatalOneAt top s u) = placed s := by
  simp [fatalOneAt]

@[simp] theorem fatalOne_placed {top : Nat} {u : UnitId} : placed (fatalOne top s u) = placed s := by
  simp [fatalOne]

theorem execFatalInternalError_placed {u : UnitId} : PlacedOut s (execFatalInternalError u s) := by
  unfold execFatalInternalError
  extract_lets _ s0 s1
  have h1 : placed s1 = placed s := by
    refine (placed_foldl fun s e => ?_).trans txnsOfHit_placed
    split <;> simp
  clear_value s1
  simp [h1]

@[simp] theorem unquiesceOne_placed {root : Nat} {u : UnitId} : placed (unquiesceOne root s u) = placed s := by
  simp [unquiesceOne]

@[simp] theorem execQuiesceDrainLimit_placed {u : UnitId} : PlacedOut s (execQuiesceDrainLimit u s) := by
  simp [execQuiesceDrainLimit]

@[simp] theorem execUnitEvtWrite_placed {u : UnitId} {w : Writer} {en : Bool} {v : W32} :
    PlacedOut s (execUnitEvtWrite u w en v s) := by
  simp [execUnitEvtWrite]

@[simp] theorem execErrlogClear_placed {u : UnitId} {w : Writer} : PlacedOut s (execErrlogClear u w s) := by
  simp [execErrlogClear]

/-! ### Machine/RunCmds -/

@[simp] theorem bringUp_placed {t : Nat} : placed (bringUp s t) = placed s := by
  unfold bringUp
  dsimp only
  (repeat' split) <;> simp

@[simp] theorem setOwner_placed {p : Part} {bound : Bool} {c : Nat} : placed (setOwner s p bound c) = placed s := by
  simp [setOwner]

@[simp] theorem oppBound_placed {p : Part} : placed (oppBound s p) = placed s := placed_congr rfl rfl rfl

@[simp] theorem exePartUnbind_placed {r : CmdRef} {v : Nat} : placed (exePartUnbind s r v) = placed s := by
  unfold exePartUnbind
  dsimp only
  (repeat' split) <;> simp

@[simp] theorem execPartUnbind_placed {ctx qid : Nat} : PlacedOut s (execPartUnbind ctx qid s) := by
  simp [execPartUnbind]

@[simp] theorem exePartQuery_placed {r : CmdRef} {v : Nat} : placed (exePartQuery s r v) = placed s := by
  unfold exePartQuery
  dsimp only
  (repeat' split) <;> simp

@[simp] theorem execPartQuery_placed {ctx qid : Nat} : PlacedOut s (execPartQuery ctx qid s) := by
  simp [execPartQuery]

@[simp] theorem exeStepConfig_placed {ev : List LineEv} {r : CmdRef} {v : Nat} : placed (exeStepConfig ev s r v) = placed s := by
  unfold exeStepConfig
  dsimp only
  (repeat' split) <;> simp

@[simp] theorem execStepConfig_placed {ctx qid : Nat} {ev : List LineEv} : PlacedOut s (execStepConfig ctx qid ev s) := by
  simp [execStepConfig]

@[simp] theorem runStart_placed {r : CmdRef} {p : Part} {o : Nat} {i : PlateInfo} {args : List Nat} :
    placed (runStart s r p o i args) = placed s := by
  simp [runStart]

@[simp] theorem exeRun_placed {ev : List LineEv} {r : CmdRef} {v : Nat} : placed (exeRun ev s r v) = placed s := by
  unfold exeRun
  dsimp only
  (repeat' split) <;> simp

@[simp] theorem execRun_placed {ctx qid : Nat} {ev : List LineEv} : PlacedOut s (execRun ctx qid ev s) := by
  simp [execRun]

@[simp] theorem execRunComplete_placed {t : Nat} : PlacedOut s (execRunComplete t s) := by
  unfold execRunComplete
  dsimp only
  (repeat' split) <;> simp

@[simp] theorem clearWays_placed {p : Part} : placed (clearWays s p) = placed s := placed_congr rfl rfl rfl

@[simp] theorem execPartBurnGo_placed {w : Writer} {u : UnitId} {t0 log2n : Nat} :
    PlacedOut s (execPartBurnGo w u t0 log2n s) := by
  unfold execPartBurnGo
  dsimp only
  (repeat' split) <;> simp

@[simp] theorem postPartFree_placed {p : Part} : placed (postPartFree s p) = placed s := by
  simp [postPartFree]

@[simp] theorem dropShards_placed {c : Nat} : placed (dropShards s c) = placed s := placed_congr rfl rfl rfl

@[simp] theorem dropFrames_placed {c : Nat} : placed (dropFrames s c) = placed s := by
  simp [dropFrames]

@[simp] theorem dropKeys_placed {c : Nat} : placed (dropKeys s c) = placed s := by
  simp [dropKeys]

@[simp] theorem burnSet_placed {c bit : Nat} : placed (burnSet s c bit) = placed s := placed_congr rfl rfl rfl

@[simp] theorem burnEnd_placed {c : Nat} : placed (burnEnd s c) = placed s := by
  unfold burnEnd
  dsimp only
  (repeat' split) <;> simp

@[simp] theorem burnStep_placed {c : Nat} : placed (burnStep s c) = placed s := by
  simp [burnStep]

@[simp] theorem execContextBurnish_placed {ctx : Nat} : PlacedOut s (execContextBurnish ctx s) := by
  simp [execContextBurnish]

@[simp] theorem execBurnStuck_placed {part : Bool} {n : Nat} : PlacedOut s (execBurnStuck part n s) := by
  unfold execBurnStuck
  dsimp only
  (repeat' split) <;> simp

@[simp] theorem substCommit_placed {tid : Nat} : placed (substCommit s tid) = placed s := by
  unfold substCommit
  split <;> simp

@[simp] theorem substTxnDone_placed {tid : Nat} : placed (substTxnDone s tid) = placed s := placed_congr rfl rfl rfl

@[simp] theorem substBackoff_placed {c : Nat} : placed (substBackoff s c) = placed s := by
  simp [substBackoff]

@[simp] theorem substOpenDone_placed {c : Nat} : placed (substOpenDone s c) = placed s := placed_congr rfl rfl rfl

@[simp] theorem execSubstCancel_placed {c : Nat} {w : Writer} : PlacedOut s (execSubstCancel c w s) := by
  unfold execSubstCancel
  (repeat' split) <;> simp

@[simp] theorem execLiveSubstStart_placed {c : Nat} : PlacedOut s (execLiveSubstStart c s) := by
  unfold execLiveSubstStart
  dsimp only
  (repeat' split) <;> simp

@[simp] theorem execSubstClearDone_placed {c : Nat} : PlacedOut s (execSubstClearDone c s) := by
  simp [execSubstClearDone]

/-! ### Machine/GroupCmds -/

@[simp] theorem sendCtrl_placed {g : Group} {src dst ctype step lseq : Nat} {body : List Byte} :
    placed (sendCtrl s g src dst ctype step lseq body) = placed s := by
  simp [sendCtrl]

@[simp] theorem groupAdvance_placed {gix : Nat} : placed (groupAdvance s gix) = placed s := by
  unfold groupAdvance
  split <;> simp

@[simp] theorem joinApply_placed {gix node : Nat} {f : UFrame} : placed (joinApply s gix node f) = placed s := by
  unfold joinApply
  split <;> simp

@[simp] theorem keyconfApply_placed {gix node : Nat} {tag : List Byte} : placed (keyconfApply s gix node tag) = placed s := by
  unfold keyconfApply
  split <;> simp

@[simp] theorem groupBind_placed {c : Nat} {d : GroupDesc} {progs : Map (List Nat)} :
    placed (groupBind s c d progs).1 = placed s :=
  placed_congr rfl rfl rfl

@[simp] theorem groupAnnounce_placed {gix : Nat} : placed (groupAnnounce s gix) = placed s := by
  unfold groupAnnounce
  split <;> simp

@[simp] theorem memberJoin_placed {r : CmdRef} {gix o : Nat} {p : Part} {d : GroupDesc} {first : Bool} :
    placed (memberJoin s r gix o p d first) = placed s := by
  unfold memberJoin
  dsimp only
  (repeat' split) <;> simp

@[simp] theorem exeGroupJoin_placed {progs : Map (List Nat)} {ev : List LineEv} {r : CmdRef} {v : Nat} :
    placed (exeGroupJoin progs ev s r v) = placed s := by
  unfold exeGroupJoin
  dsimp only
  (repeat' split) <;> simp

@[simp] theorem execGroupJoin_placed {ctx qid : Nat} {progs : List (Nat × List Nat)} {ev : List LineEv} :
    PlacedOut s (execGroupJoin ctx qid progs ev s) := by
  simp [execGroupJoin]

@[simp] theorem exeGroupLeave_placed {r : CmdRef} {v : Nat} : placed (exeGroupLeave s r v) = placed s := by
  unfold exeGroupLeave
  (repeat' split) <;> simp

@[simp] theorem execGroupLeave_placed {ctx qid : Nat} : PlacedOut s (execGroupLeave ctx qid s) := by
  simp [execGroupLeave]

@[simp] theorem memUpd_placed {gix r : Nat} {f : LocalMem → LocalMem} : placed (memUpd s gix r f) = placed s := by
  simp [memUpd]

@[simp] theorem closeMember_placed {gix r : Nat} : placed (closeMember s gix r) = placed s := by
  unfold closeMember
  dsimp only
  (repeat' split) <;> simp

@[simp] theorem tryAck_placed {gix r : Nat} : placed (tryAck s gix r) = placed s := by
  unfold tryAck
  dsimp only
  (repeat' split) <;> simp

@[simp] theorem applyDecision_placed {gix r : Nat} {commit : Bool} {step : Nat} :
    placed (applyDecision s gix r commit step) = placed s := by
  unfold applyDecision
  split <;> simp

@[simp] theorem groupDecide_placed {gix : Nat} {ok : Bool} {step : Nat} : placed (groupDecide s gix ok step) = placed s := by
  unfold groupDecide
  dsimp only
  (repeat' split) <;> simp

@[simp] theorem tryForward_placed {gix r : Nat} : placed (tryForward s gix r) = placed s := by
  unfold tryForward
  dsimp only
  (repeat' split) <;> simp

@[simp] theorem closedApply_placed {gix r step : Nat} : placed (closedApply s gix r step) = placed s := by
  unfold closedApply
  split <;> simp

@[simp] theorem voteRefused_placed {t0 : Nat} : placed (voteRefused s t0) = placed s := by
  simp [voteRefused]

theorem openGroupTxn_placed {gix : Nat} {m : LocalMem} {p : Part} (e : openGroupTxn s gix m p = some t) :
    placed t = placed s := by
  unfold openGroupTxn at e
  split at e
  · cases e
    rfl
  · obtain ⟨⟨u, tid⟩, ht, rfl⟩ := Option.map_eq_some_iff.mp e
    refine groupUpd_placed.trans ?_
    split <;> simp [txnOpen_placed ht]

@[simp] theorem castVote_placed {t0 gix : Nat} : placed (castVote s t0 gix) = placed s := by
  unfold castVote
  split
  · rfl
  · split
    · rfl
    · split
      · simp
      · split
        · rfl
        · dsimp only
          split
          · rfl
          · split
            · rfl
            · split
              · simp
              · split
                · rfl
                · split
                  · rfl
                  · rename_i e
                    simp [openGroupTxn_placed e]

@[simp] theorem sendQuery_placed {t0 gix : Nat} : placed (sendQuery s t0 gix) = placed s := by
  unfold sendQuery
  (repeat' split) <;> simp

@[simp] theorem queryApply_placed {gix : Nat} {f : UFrame} : placed (queryApply s gix f) = placed s := by
  unfold queryApply
  split <;> simp

@[simp] theorem voteApply_placed {gix : Nat} {f : UFrame} : placed (voteApply s gix f) = placed s := by
  unfold voteApply
  dsimp only
  (repeat' split) <;> simp

theorem execTransactionTimeout_placed {w : TxnTimer} : PlacedOut s (execTransactionTimeout w s) := by
  unfold execTransactionTimeout
  (repeat' split) <;> simp

/-! ### Machine/FabCmds -/

@[simp] theorem filterDrop_placed {p : Nat} : placed (filterDrop s p) = placed s := placed_congr rfl rfl rfl

@[simp] theorem oowDrop_placed {p : Nat} : placed (oowDrop s p) = placed s := placed_congr rfl rfl rfl

@[simp] theorem answerGone_placed {node group : Nat} : placed (answerGone s node group) = placed s := by
  simp [answerGone]

@[simp] theorem rxPre_placed {hd : RxHead} : placed (rxPre s hd).1 = placed s := by
  simp [rxPre]

@[simp] theorem rxAck_placed {hd : RxHead} : placed (rxAck s hd) = placed s := by
  simp [rxAck]

@[simp] theorem sendAck_placed {node p : Nat} : placed (sendAck s node p) = placed s := by
  simp [sendAck]

@[simp] theorem sendNack_placed {node p : Nat} : placed (sendNack s node p) = placed s := by
  simp [sendNack]

@[simp] theorem sendProbe_placed {node p typ : Nat} : placed (sendProbe s node p typ) = placed s := by
  simp [sendProbe]

@[simp] theorem rxMark_placed {hd : RxHead} {d : Nat} : placed (rxMark s hd d) = placed s := by
  simp [rxMark]

@[simp] theorem dupDrop_placed {hd : RxHead} : placed (dupDrop s hd) = placed s := by
  simp [dupDrop]

theorem rxSeq_placed {hd : RxHead} {f : UFrame} {apply : State → Arrival} (happly : ∀ s, PlacedArr s (apply s)) :
    placed (rxSeq s hd f apply) = placed s := by
  unfold rxSeq
  simp only [placed_ite]
  split
  · simp
  · split
    · simp
    · split
      · simp
      · split
        · rfl
        · simp
        · rename_i e
          simp [PlacedArr.ofDone (happly _) e]
        · rename_i e
          simp [PlacedArr.ofDup (happly _) e]

@[simp] theorem tagFailed_placed {p : Nat} {ctx : Option Nat} : placed (tagFailed s p ctx) = placed s := by
  simp [tagFailed]

theorem rxGroup_placed {hd : RxHead} {g : Group} {ctype : Nat} {apply : UFrame → State → Arrival} (happly : ∀ x0 s, PlacedArr s (apply x0 s)) :
    placed (rxGroup s hd g ctype apply) = placed s := by
  unfold rxGroup
  split
  · simp
  · split
    · exact placed_ite_of rfl tagFailed_placed
    · exact placed_ite_of rfl ((rxSeq_placed fun _ => happly _ _).trans rxAck_placed)

theorem rxUnbound_placed {hd : RxHead} {ctype : Nat} {apply : UFrame → State → Arrival} (happly : ∀ x0 s, PlacedArr s (apply x0 s)) :
    placed (rxUnbound s hd ctype apply) = placed s := by
  unfold rxUnbound
  split
  · exact placed_ite_of filterDrop_placed (placed_ite_of oowDrop_placed
      (placed_ite_of rfl ((rxSeq_placed fun _ => happly _ _).trans rxAck_placed)))
  · simp

theorem rxFrame_placed {hd : RxHead} {ctype : Nat} {apply : UFrame → State → Arrival} (happly : ∀ x0 s, PlacedArr s (apply x0 s)) :
    placed (rxFrame s hd ctype apply) = placed s := by
  unfold rxFrame
  extract_lets r
  have hr : placed r.1 = placed s := rxPre_placed
  split
  · exact hr
  · split
    · exact (rxUnbound_placed happly).trans hr
    · exact (rxGroup_placed happly).trans hr

theorem rxParked_placed {k : Nat} {ok : UFrame → Bool} {apply : UFrame → State → Arrival}
    (happly : ∀ x0 s, PlacedArr s (apply x0 s)) : placed (rxParked s k ok apply) = placed s := by
  unfold rxParked
  split
  · rfl
  · simp only [placed_ite]
    split
    · rfl
    · split
      · rfl
      · rfl
      · rename_i e
        simp [PlacedArr.ofDone (happly _ _) e]
      · rename_i e
        simp [PlacedArr.ofDup (happly _ _) e]

theorem rxLocal_placed {k : Nat} {ok : UFrame → Bool} {apply : UFrame → State → Arrival}
    (happly : ∀ x0 s, PlacedArr s (apply x0 s)) : placed (rxLocal s k ok apply) = placed s := by
  unfold rxLocal
  split
  · exact rxParked_placed happly
  · simp only [placed_ite]
    split
    · rfl
    · split
      · rfl
      · rfl
      · rename_i e
        simp [PlacedArr.ofDone (happly _ _) e]
      · rename_i e
        simp [PlacedArr.ofDup (happly _ _) e]

theorem rxMsg_placed {src : MsgSrc} {typ ctype : Nat} {apply : Nat → UFrame → State → Arrival} (happly : ∀ x0 x1 s, PlacedArr s (apply x0 x1 s)) :
    placed (rxMsg s src typ ctype apply) = placed s := by
  unfold rxMsg
  extract_lets
  split
  · exact placed_ite_of (rxFrame_placed fun _ _ => happly _ _ _) rfl
  · exact rxLocal_placed fun _ _ => happly _ _ _
  · rfl

theorem execDataFrame_placed {src : MsgSrc} {ev : List LineEv} : PlacedOut s (execDataFrame src ev s) :=
  fabNext_placed.mpr (rxMsg_placed fun _ _ _ => dataArrive_placed)

theorem execCreditFrame_placed {src : MsgSrc} : PlacedOut s (execCreditFrame src s) :=
  fabNext_placed.mpr (rxMsg_placed fun _ _ _ => creditArrive_placed)

@[simp] theorem ctrlOnce_placed {f : UFrame} {apply : Nat → State → State} (happly : ∀ x0 s, placed (apply x0 s) = placed s) :
    PlacedArr s (ctrlOnce f s apply) := by
  unfold ctrlOnce
  dsimp only
  (repeat' split) <;> simp [*]

theorem execJoinMsg_placed {src : MsgSrc} : PlacedOut s (execJoinMsg src s) := by
  refine fabNext_placed.mpr (rxMsg_placed fun _ _ _ => ?_)
  split
  · exact placed_congr rfl rfl rfl
  · exact ctrlOnce_placed fun _ _ => joinApply_placed

theorem execKeyconf_placed {src : MsgSrc} : PlacedOut s (execKeyconf src s) :=
  fabNext_placed.mpr (rxMsg_placed fun _ _ _ => ctrlOnce_placed fun _ _ => keyconfApply_placed)

@[simp] theorem voteRow_placed {src : MsgSrc} {ctype : Nat} : placed (voteRow src ctype s) = placed s :=
  rxMsg_placed fun _ _ _ => ctrlOnce_placed fun _ _ => voteApply_placed

@[simp] theorem execVoteMsg_placed {src : MsgSrc} : PlacedOut s (execVoteMsg src s) := by
  unfold execVoteMsg
  split <;> simp

@[simp] theorem execDecision_placed {src : MsgSrc} : PlacedOut s (execDecision src s) := by
  simp [execDecision]

@[simp] theorem execVack_placed {src : MsgSrc} : PlacedOut s (execVack src s) := by
  unfold execVack
  (repeat' split) <;> simp

@[simp] theorem execClosed_placed {src : MsgSrc} : PlacedOut s (execClosed src s) := by
  simp [execClosed]

@[simp] theorem execDquery_placed {src : MsgSrc} : PlacedOut s (execDquery src s) := by
  unfold execDquery
  split <;> simp

theorem execFailMsg_placed {src : MsgSrc} : PlacedOut s (execFailMsg src s) :=
  fabNext_placed.mpr (rxMsg_placed fun _ _ _ => ctrlOnce_placed fun _ _ => placed_ite_of groupFail_placed failLaunch_placed)

theorem execGoneMsg_placed {src : MsgSrc} : PlacedOut s (execGoneMsg src s) := by
  refine fabNext_placed.mpr (rxMsg_placed fun _ _ _ => ctrlOnce_placed fun _ _ => ?_)
  split
  · exact groupFail_placed
  · rfl

@[simp] theorem execAckFrame_placed {hd : RxHead} : PlacedOut s (execAckFrame hd s) := by
  simp [execAckFrame]

@[simp] theorem resend_placed {node p : Nat} {e : TxFrame} : placed (resend s node p e) = placed s := by
  simp [resend]

@[simp] theorem execNackFrame_placed {hd : RxHead} {runs : List (Nat × Nat)} : PlacedOut s (execNackFrame hd runs s) := by
  simp [execNackFrame]

@[simp] theorem pathRise_placed {node p : Nat} : placed (pathRise s node p) = placed s := by
  simp [pathRise]

@[simp] theorem probeHeard_placed {hd : RxHead} {next : Nat} : placed (probeHeard s hd next) = placed s :=
  placed_congr rfl rfl rfl

@[simp] theorem rxPlain_placed {hd : RxHead} : placed (rxPlain s hd).1 = placed s := by
  simp [rxPlain]

@[simp] theorem execProbe_placed {hd : RxHead} {next : Nat} {avail : Bool} : PlacedOut s (execProbe hd next avail s) := by
  simp [execProbe]

@[simp] theorem execProbeRsp_placed {hd : RxHead} {next : Nat} {avail : Bool} : PlacedOut s (execProbeRsp hd next avail s) := by
  simp [execProbeRsp]

@[simp] theorem execProbeInterval_placed {node p : Nat} : PlacedOut s (execProbeInterval node p s) := by
  simp [execProbeInterval]

@[simp] theorem execAckInterval_placed {node p : Nat} : PlacedOut s (execAckInterval node p s) := by
  simp [execAckInterval]

@[simp] theorem execRetransmissionTimeout_placed {node p : Nat} : PlacedOut s (execRetransmissionTimeout node p s) := by
  unfold execRetransmissionTimeout
  dsimp only
  (repeat' split) <;> simp

@[simp] theorem nodeLost_placed {node : Nat} : placed (nodeLost s node) = placed s :=
  (placed_foldl fun _ _ => placed_ite_of groupFail_placed rfl).trans (placed_congr rfl rfl rfl)

@[simp] theorem execUnreachableLimit_placed {node : Nat} : PlacedOut s (execUnreachableLimit node s) := by
  unfold execUnreachableLimit
  (repeat' split) <;> simp [*]

@[simp] theorem sakInstalled_placed {p : Nat} : placed (sakInstalled s p) = placed s := by
  simp [sakInstalled]

@[simp] theorem linkLost_placed {p : Nat} : placed (linkLost s p) = placed s := by
  simp [linkLost]

@[simp] theorem execFabricLinkUp_placed {p : Nat} : PlacedOut s (execFabricLinkUp p s) := by
  simp [execFabricLinkUp]

@[simp] theorem execFabricLinkLoss_placed {p : Nat} : PlacedOut s (execFabricLinkLoss p s) := by
  simp [execFabricLinkLoss]

@[simp] theorem mkaTo_placed {p m : Nat} : placed (mkaTo s p m) = placed s := by
  simp [mkaTo]

@[simp] theorem execMkpdu_placed {p : Nat} {e : MkEv} : PlacedOut s (execMkpdu p e s) := by
  unfold execMkpdu
  dsimp only
  (repeat' split) <;> simp

@[simp] theorem execMkaLivePeerLoss_placed {p : Nat} : PlacedOut s (execMkaLivePeerLoss p s) := by
  simp [execMkaLivePeerLoss]

@[simp] theorem execFilteredFrame_placed {p : Nat} : PlacedOut s (execFilteredFrame p s) := by
  simp [execFilteredFrame]

@[simp] theorem portSync_placed {p : Nat} : placed (portSync s p) = placed s := by
  simp [portSync]

@[simp] theorem nodeChanged_placed {old : State} {node : Nat} : placed (nodeChanged old s node) = placed s := by
  unfold nodeChanged
  extract_lets _ _ _ s2
  have h2 : placed s2 = placed s :=
    (placed_foldl fun _ _ => placed_ite_of pathProbe_placed rfl).trans (placed_foldl fun _ _ => pathDown_placed)
  exact placed_ite_of (nodeLost_placed.trans h2) h2

@[simp] theorem execAllowWrite_placed {w : Writer} {e : Nat} {v : RegPart} : PlacedOut s (execAllowWrite w e v s) := by
  simp [execAllowWrite]

@[simp] theorem execUctCfgWrite_placed {w : Writer} {off width : Nat} {v : W64} :
    PlacedOut s (execUctCfgWrite w off width v s) := by
  simp [execUctCfgWrite]

@[simp] theorem execFpCtlWrite_placed {w : Writer} {p : Nat} {v : W32} : PlacedOut s (execFpCtlWrite w p v s) := by
  simp [execFpCtlWrite]

@[simp] theorem execFpCakWrite_placed {w : Writer} {p : Nat} {v : W32} : PlacedOut s (execFpCakWrite w p v s) := by
  simp [execFpCakWrite]

/-! ### Machine/KeyOps -/

@[simp] theorem drawn_placed : placed (drawn s) = placed s := placed_congr rfl rfl rfl

@[simp] theorem cakRestart_placed {k : Nat} : placed (cakRestart s k) = placed s := by
  simp [cakRestart]

@[simp] theorem slotSave_placed {k : Nat} : placed (slotSave s k) = placed s := placed_congr rfl rfl rfl

@[simp] theorem slotInstall_placed {k ktype use origin : Nat} {lcb vol : Bool} {key : List Byte} :
    placed (slotInstall s k ktype use origin lcb vol key) = placed s := by
  simp [slotInstall]

@[simp] theorem slotClear_placed {k : Nat} : placed (slotClear s k) = placed s := by
  simp [slotClear]

@[simp] theorem deriveDevice_placed : placed (deriveDevice s) = placed s := by
  unfold deriveDevice
  split <;> simp

@[simp] theorem signMsg_placed {scalar msg : List Byte} : placed (signMsg s scalar msg).1 = placed s := placed_congr rfl rfl rfl

@[simp] theorem akSign_placed {msg : List Byte} : placed (akSign s msg).1 = placed s := placed_congr rfl rfl rfl

@[simp] theorem report_placed {c : Option Nat} {nonce : List Byte} : placed (report s c nonce).1 = placed s :=
  placed_congr rfl rfl rfl

@[simp] theorem sessionsDrop_placed {gone : Session → Bool} : placed (sessionsDrop s gone) = placed s := placed_congr rfl rfl rfl

@[simp] theorem sessionUpd_placed {id : Nat} {f : Session → Session} : placed (sessionUpd s id f) = placed s :=
  placed_congr rfl rfl rfl

/-! ### Machine/KeyCmds -/

@[simp] theorem payRead_placed {r : CmdRef} {c sp a n : Nat} {ev : List LineEv} {go : State → List Byte → State}
    (hgo : ∀ s x1, placed (go s x1) = placed s) :
    placed (payRead s r c sp a n ev go) = placed s := by
  unfold payRead
  dsimp only
  (repeat' split) <;> simp [*]

@[simp] theorem payWrite_placed {r : CmdRef} {c sp a : Nat} {bs : List Byte} {result : Nat} {ev : List LineEv} :
    placed (payWrite s r c sp a bs result ev) = placed s := by
  simp [payWrite]

theorem installCheck_placed {r : CmdRef} {c ref ktype use : Nat} {right : Nat → Bool} {go : Nat → State}
    (hgo : ∀ x0, placed (go x0) = placed s) : placed (installCheck s r c ref ktype use right go) = placed s := by
  unfold installCheck
  (repeat' split) <;> simp [hgo]

@[simp] theorem installEnd_placed {r : CmdRef} {k : Nat} : placed (installEnd s r k) = placed s := by
  simp [installEnd]

@[simp] theorem countGen_placed : placed (countGen s) = placed s := placed_congr rfl rfl rfl

@[simp] theorem exeKeyGenerate_placed {r : CmdRef} {v : Nat} : placed (exeKeyGenerate s r v) = placed s := by
  simp [exeKeyGenerate, installCheck_placed]

@[simp] theorem execKeyGenerate_placed {ctx qid : Nat} : PlacedOut s (execKeyGenerate ctx qid s) := by
  simp [execKeyGenerate]

@[simp] theorem deriveGo_placed {r : CmdRef} {v k src : Nat} {blk : List Byte} :
    placed (deriveGo s r v k src blk) = placed s := by
  simp [deriveGo]

@[simp] theorem exeKeyDerive_placed {ev : List LineEv} {r : CmdRef} {v : Nat} : placed (exeKeyDerive ev s r v) = placed s := by
  unfold exeKeyDerive
  simp only [placed_ite]
  split
  · simp
  · split
    · simp
    · refine installCheck_placed fun _ => ?_
      split <;> simp

@[simp] theorem execKeyDerive_placed {ctx qid : Nat} {ev : List LineEv} : PlacedOut s (execKeyDerive ctx qid ev s) := by
  simp [execKeyDerive]

@[simp] theorem unwrapFail_placed {r : CmdRef} : placed (unwrapFail s r) = placed s := by
  simp [unwrapFail]

@[simp] theorem importGo_placed {r : CmdRef} {v k : Nat} {x : Session} {blk : List Byte} :
    placed (importGo s r v k x blk) = placed s := by
  unfold importGo
  dsimp only
  (repeat' split) <;> simp

@[simp] theorem exeKeyImport_placed {ev : List LineEv} {r : CmdRef} {v : Nat} : placed (exeKeyImport ev s r v) = placed s := by
  unfold exeKeyImport
  simp only [placed_ite]
  split
  · simp
  · refine installCheck_placed fun _ => ?_
    split <;> simp

@[simp] theorem execKeyImport_placed {ctx qid : Nat} {ev : List LineEv} : PlacedOut s (execKeyImport ctx qid ev s) := by
  simp [execKeyImport]

@[simp] theorem exeKeyDestroy_placed {r : CmdRef} {v : Nat} : placed (exeKeyDestroy s r v) = placed s := by
  unfold exeKeyDestroy
  dsimp only
  (repeat' split) <;> simp

@[simp] theorem execKeyDestroy_placed {ctx qid : Nat} : PlacedOut s (execKeyDestroy ctx qid s) := by
  simp [execKeyDestroy]

@[simp] theorem exeKeyQuery_placed {ev : List LineEv} {r : CmdRef} {v : Nat} : placed (exeKeyQuery ev s r v) = placed s := by
  unfold exeKeyQuery
  dsimp only
  (repeat' split) <;> simp

@[simp] theorem execKeyQuery_placed {ctx qid : Nat} {ev : List LineEv} : PlacedOut s (execKeyQuery ctx qid ev s) := by
  simp [execKeyQuery]

@[simp] theorem attestGo_placed {r : CmdRef} {v k : Nat} {inp : List Byte} {ev : List LineEv} :
    placed (attestGo s r v k inp ev) = placed s := by
  simp [attestGo]

@[simp] theorem exeKeyAttest_placed {ev : List LineEv} {r : CmdRef} {v : Nat} : placed (exeKeyAttest ev s r v) = placed s := by
  unfold exeKeyAttest
  dsimp only
  (repeat' split) <;> simp

@[simp] theorem execKeyAttest_placed {ctx qid : Nat} {ev : List LineEv} : PlacedOut s (execKeyAttest ctx qid ev s) := by
  simp [execKeyAttest]

@[simp] theorem exeMeasReport_placed {ev : List LineEv} {r : CmdRef} {v : Nat} : placed (exeMeasReport ev s r v) = placed s := by
  unfold exeMeasReport
  split <;> simp

@[simp] theorem execMeasReport_placed {ctx qid : Nat} {ev : List LineEv} : PlacedOut s (execMeasReport ctx qid ev s) := by
  simp [execMeasReport]

@[simp] theorem mbError_placed {st : Nat} : placed (mbError s st).1 = placed s := placed_congr rfl rfl rfl

@[simp] theorem mbGetInfo_placed : placed (mbGetInfo s).1 = placed s := placed_congr rfl rfl rfl

theorem sessionRoom_placed {c : Nat} (e : sessionRoom s c = some t) : placed t = placed s := by
  unfold sessionRoom at e
  extract_lets mine s1 at e
  have h1 : ∀ {u}, s1 = some u → placed u = placed s := by
    intro u eu
    dsimp only [s1] at eu
    split at eu
    · cases eu
      rfl
    · split at eu
      · cases eu
        simp
      · cases eu
  clear_value s1
  split at e
  · cases e
  · split at e
    · cases e
      exact h1 rfl
    · cases e

@[simp] theorem mbOpenGo_placed {f : MbFrom} {sid : Nat} {req : List Byte} : placed (mbOpenGo s f sid req).1 = placed s := by
  unfold mbOpenGo
  dsimp only
  split
  · simp
  · split
    · simp
    · rename_i e
      split <;> simp [sessionRoom_placed e]

@[simp] theorem mbFinishGo_placed {f : MbFrom} {req : List Byte} : placed (mbFinishGo s f req).1 = placed s := by
  unfold mbFinishGo
  dsimp only
  (repeat' split) <;> simp

@[simp] theorem mbReportGo_placed {f : MbFrom} {req : List Byte} : placed (mbReportGo s f req).1 = placed s := by
  unfold mbReportGo
  dsimp only
  (repeat' split) <;> simp

@[simp] theorem mbCloseGo_placed {f : MbFrom} {req : List Byte} : placed (mbCloseGo s f req).1 = placed s := by
  unfold mbCloseGo
  dsimp only
  (repeat' split) <;> simp

@[simp] theorem mbAnswer_placed {f : MbFrom} {sid : Nat} {req : List Byte} : placed (mbAnswer s f sid req).1 = placed s := by
  unfold mbAnswer
  (repeat' split) <;> simp

@[simp] theorem attMsgGo_placed {r : CmdRef} {v sid : Nat} {req : List Byte} {ev : List LineEv} :
    placed (attMsgGo s r v sid req ev) = placed s := by
  simp [attMsgGo]

@[simp] theorem exeAttMsg_placed {sid : Nat} {ev : List LineEv} {r : CmdRef} {v : Nat} :
    placed (exeAttMsg sid ev s r v) = placed s := by
  simp [exeAttMsg]

@[simp] theorem execAttMsg_placed {ctx qid sid : Nat} {ev : List LineEv} : PlacedOut s (execAttMsg ctx qid sid ev s) := by
  simp [execAttMsg]

@[simp] theorem mbDoe_placed {port : Nat} {msg : Nat → Bool} {sid : Nat} {req : List Byte} :
    PlacedOut s (mbDoe port msg sid req s) := by
  simp [mbDoe]

@[simp] theorem execGetInfo_placed {port : Nat} {req : List Byte} : PlacedOut s (execGetInfo port req s) := by
  simp [execGetInfo]

@[simp] theorem execMbOpen_placed {port sid : Nat} {req : List Byte} : PlacedOut s (execMbOpen port sid req s) := by
  simp [execMbOpen]

@[simp] theorem execMbFinish_placed {port : Nat} {req : List Byte} : PlacedOut s (execMbFinish port req s) := by
  simp [execMbFinish]

@[simp] theorem execMbReport_placed {port : Nat} {req : List Byte} : PlacedOut s (execMbReport port req s) := by
  simp [execMbReport]

@[simp] theorem execMbClose_placed {port : Nat} {req : List Byte} : PlacedOut s (execMbClose port req s) := by
  simp [execMbClose]

/-! ### Machine/SpdmCmds -/

@[simp] theorem doeAnswer_placed {port : Nat} {a : DoeRsp} : placed (doeAnswer s port a) = placed s := placed_congr rfl rfl rfl

@[simp] theorem spdmError_placed {port code : Nat} : placed (spdmError s port code) = placed s := placed_congr rfl rfl rfl

@[simp] theorem spdmTo_placed {port n : Nat} : placed (spdmTo s port n) = placed s := placed_congr rfl rfl rfl

@[simp] theorem spdmReq_placed {port stage : Nat} {go : State → State} (hgo : ∀ s, placed (go s) = placed s) :
    PlacedOut s (spdmReq port stage s go) := by
  unfold spdmReq
  (repeat' split) <;> simp [*]

@[simp] theorem execGetVersion_placed {port : Nat} : PlacedOut s (execGetVersion port s) := by
  simp [execGetVersion]

@[simp] theorem execGetCapabilities_placed {port : Nat} : PlacedOut s (execGetCapabilities port s) := by
  simp [execGetCapabilities]

@[simp] theorem execNegotiateAlgorithms_placed {port : Nat} {common : Bool} :
    PlacedOut s (execNegotiateAlgorithms port common s) := by
  simp [execNegotiateAlgorithms]

@[simp] theorem execGetDigests_placed {port : Nat} : PlacedOut s (execGetDigests port s) := by
  simp [execGetDigests]

@[simp] theorem execGetCertificate_placed {port off len : Nat} : PlacedOut s (execGetCertificate port off len s) := by
  simp [execGetCertificate]

theorem execChallenge_placed {port : Nat} {nonce : List Byte} : PlacedOut s (execChallenge port nonce s) := by
  refine spdmReq_placed fun s => ?_
  split <;> simp

theorem execGetMeasurements_placed {port : Nat} {vf : Option Nat} {index : Nat} {sign : Bool} :
    PlacedOut s (execGetMeasurements port vf index sign s) := by
  refine spdmReq_placed fun s => ?_
  (repeat' split) <;> simp

theorem execKeyExchange_placed {port sid : Nat} {pub : List Byte} : PlacedOut s (execKeyExchange port sid pub s) := by
  unfold execKeyExchange
  split
  · simp
  · refine spdmReq_placed fun s => ?_
    (repeat' split) <;> simp

@[simp] theorem spdmIn_placed {port sid : Nat} {go : State → Session → State} (hgo : ∀ s x1, placed (go s x1) = placed s) :
    PlacedOut s (spdmIn port sid s go) := by
  unfold spdmIn
  (repeat' split) <;> simp [*]

@[simp] theorem execSpdmFinish_placed {port sid : Nat} {verifies : Bool} : PlacedOut s (execSpdmFinish port sid verifies s) := by
  simp [execSpdmFinish]

@[simp] theorem spdmActive_placed {port sid : Nat} {go : State → State} (hgo : ∀ s, placed (go s) = placed s) :
    PlacedOut s (spdmActive port sid s go) := by
  unfold spdmActive
  simp [*]

@[simp] theorem execHeartbeat_placed {port sid : Nat} : PlacedOut s (execHeartbeat port sid s) := by
  simp [execHeartbeat]

@[simp] theorem execKeyUpdate_placed {port sid : Nat} : PlacedOut s (execKeyUpdate port sid s) := by
  simp [execKeyUpdate]

@[simp] theorem execEndSession_placed {port sid : Nat} : PlacedOut s (execEndSession port sid s) := by
  simp [execEndSession]

/-! ### Machine/LcCmds -/

@[simp] theorem lcSet_placed {x : LcSt} : placed (lcSet s x) = placed s := placed_congr rfl rfl rfl

@[simp] theorem lcEnd_placed {st : Nat} : placed (lcEnd s st) = placed s := by
  simp [lcEnd]

@[simp] theorem lcBusyRefuse_placed : placed (lcBusyRefuse s) = placed s := placed_congr rfl rfl rfl

@[simp] theorem lcToken_placed {d : Nat} {go : State → State} (hgo : ∀ s, placed (go s) = placed s) :
    placed (lcToken s d go) = placed s := by
  unfold lcToken
  dsimp only
  (repeat' split) <;> simp [*]

@[simp] theorem lcDestroy_placed : placed (lcDestroy s) = placed s := by
  simp [lcDestroy]

@[simp] theorem lcProgram_placed {n : Nat} : placed (lcProgram s n) = placed s := by
  unfold lcProgram
  dsimp only
  (repeat' split) <;> simp

@[simp] theorem lcTransitionGo_placed {target bits : Nat} : placed (lcTransitionGo s target bits) = placed s := by
  unfold lcTransitionGo
  dsimp only
  (repeat' split) <;> simp

@[simp] theorem lcUnlockGo_placed : placed (lcUnlockGo s) = placed s := by
  unfold lcUnlockGo
  dsimp only
  (repeat' split) <;> simp

@[simp] theorem lcCompleteGo_placed {bits : Nat} : placed (lcCompleteGo s bits) = placed s := by
  unfold lcCompleteGo
  dsimp only
  (repeat' split) <;> simp

@[simp] theorem lcRequest_placed {op target bits : Nat} : placed (lcRequest s op target bits) = placed s := by
  unfold lcRequest
  (repeat' split) <;> simp

@[simp] theorem execLcTransition_placed {tap : Bool} {target : Nat} {cont : Bool} {bits : Nat} :
    PlacedOut s (execLcTransition tap target cont bits s) := by
  simp [execLcTransition]

@[simp] theorem execLcUnlock_placed {tap : Bool} : PlacedOut s (execLcUnlock tap s) := by
  simp [execLcUnlock]

@[simp] theorem execLcComplete_placed {tap cont : Bool} {bits : Nat} : PlacedOut s (execLcComplete tap cont bits s) := by
  simp [execLcComplete]

@[simp] theorem execRngFail_placed : PlacedOut s (execRngFail s) := by
  simp [execRngFail]

@[simp] theorem execEntropySourcePass_placed : PlacedOut s (execEntropySourcePass s) := by
  simp [execEntropySourcePass]

/-! ### Machine/SealCmds -/

@[simp] theorem srcRead_placed {src : SealSrc} {off n : Nat} {ev : List LineEv} :
    placed (srcRead s src off n ev).1 = placed s := by
  unfold srcRead
  split <;> simp

theorem chunkStep_placed {src : SealSrc} {key hdr tags : List Byte} {hd : SealHdr} {ev : List LineEv}
    {put : State → Sect → Nat → List Byte → State × Nat × Nat} {x : Sect} {r : SealRun} {i : Nat}
    (hput : ∀ s x1 x2 x3, placed (put s x1 x2 x3).1 = placed s) :
    placed (chunkStep src key hdr tags hd ev put x r i).s = placed r.s := by
  unfold chunkStep
  split
  · rfl
  · dsimp only
    (repeat' split) <;> simp [hput]

theorem sealRun_placed {src : SealSrc} {key hdr tags : List Byte} {hd : SealHdr} {ev : List LineEv}
    {put : State → Sect → Nat → List Byte → State × Nat × Nat} {xs : List Sect}
    (hput : ∀ s x1 x2 x3, placed (put s x1 x2 x3).1 = placed s) : placed (sealRun src key hdr tags hd ev put xs s).s = placed s := by
  unfold sealRun
  extract_lets r
  have hr : placed r.s = placed s := placed_foldlOf SealRun.s fun _ _ => placed_foldlOf SealRun.s fun _ _ => chunkStep_placed hput
  clear_value r
  split <;> exact hr

@[simp] theorem sealTop_placed {src : SealSrc} {ev : List LineEv} : placed (sealTop s src ev).s = placed s := by
  unfold sealTop
  dsimp only
  (repeat' split) <;> simp

@[simp] theorem sealFrom_placed {r : CmdRef} {c : Nat} {isHost : Bool} {a : Nat} {host : HostRsp}
    {go : State → SealSrc → State} (hgo : ∀ s x1, placed (go s x1) = placed s) :
    placed (sealFrom s r c isHost a host go) = placed s := by
  unfold sealFrom
  dsimp only
  (repeat' split) <;> simp [*]

@[simp] theorem shardPut_placed {c : Nat} {scratch : Bool} {t dst : Nat} {ev : List LineEv} {off : Nat} {bs : List Byte} :
    placed (shardPut c scratch t dst ev s off bs).1 = placed s := by
  simp [shardPut]

@[simp] theorem zeroSpan_placed {c a n : Nat} {ev : List LineEv} : placed (zeroSpan s c a n ev) = placed s := by
  simp [zeroSpan]

@[simp] theorem shardZero_placed {c : Nat} {scratch : Bool} {t dst n : Nat} {ev : List LineEv} :
    placed (shardZero c scratch t dst n ev s) = placed s := by
  simp [shardZero]

@[simp] theorem shardRegister_placed {c id : Nat} {x : Shard} : placed (shardRegister s c id x) = placed s := by
  simp [shardRegister]

@[simp] theorem shardLoadGo_placed {r : CmdRef} {v : Nat} {src : SealSrc} {ev : List LineEv} :
    placed (shardLoadGo s r v src ev) = placed s := by
  unfold shardLoadGo
  extract_lets _ _ _ _ top _ _ _ _ q
  have htop : placed top.s = placed s := sealTop_placed
  have hq : placed q.s = placed s := (sealRun_placed fun _ _ _ _ => shardPut_placed).trans htop
  clear_value q top
  (repeat' split) <;> simp [htop, hq]

@[simp] theorem exeShardLoad_placed {host : HostRsp} {ev : List LineEv} {r : CmdRef} {v : Nat} :
    placed (exeShardLoad host ev s r v) = placed s := by
  simp [exeShardLoad]

@[simp] theorem execShardLoad_placed {ctx qid : Nat} {host : HostRsp} {ev : List LineEv} :
    PlacedOut s (execShardLoad ctx qid host ev s) := by
  simp [execShardLoad]

@[simp] theorem shardFail_placed {c id : Nat} {x : Shard} {st : Nat} : placed (shardFail s c id x st) = placed s := by
  simp [shardFail]

@[simp] theorem shardHash_placed {c id : Nat} {x : Shard} {ev : List LineEv} : placed (shardHash s c id x ev).1 = placed s := by
  simp [shardHash]

@[simp] theorem exeShardCheck_placed {ev : List LineEv} {r : CmdRef} {v : Nat} : placed (exeShardCheck ev s r v) = placed s := by
  unfold exeShardCheck
  dsimp only
  (repeat' split) <;> simp

@[simp] theorem execShardCheck_placed {ctx qid : Nat} {ev : List LineEv} : PlacedOut s (execShardCheck ctx qid ev s) := by
  simp [execShardCheck]

@[simp] theorem exeShardRelease_placed {r : CmdRef} {v : Nat} : placed (exeShardRelease s r v) = placed s := by
  unfold exeShardRelease
  dsimp only
  (repeat' split) <;> simp

@[simp] theorem execShardRelease_placed {ctx qid : Nat} : PlacedOut s (execShardRelease ctx qid s) := by
  simp [execShardRelease]

@[simp] theorem execShardPeriodicCheck_placed {ctx id : Nat} {ev : List LineEv} :
    PlacedOut s (execShardPeriodicCheck ctx id ev s) := by
  unfold execShardPeriodicCheck
  split <;> simp

@[simp] theorem readList_placed {c a : Nat} {ev : List LineEv} : placed (readList s c a ev).1 = placed s := by
  simp [readList]

@[simp] theorem readSections_placed {c : Nat} {spans : List (Nat × Nat)} {ev : List LineEv} :
    placed (readSections s c spans ev).1.s = placed s := by
  refine placed_foldlOf (fun a : SealRun × List (List Byte) => a.1.s) fun a sp => ?_
  split <;> simp

@[simp] theorem exportGo_placed {r : CmdRef} {v : Nat} {p : Part} {ents : List ListEnt} {ev : List LineEv} :
    placed (exportGo s r v p ents ev) = placed s := by
  simp [exportGo]

@[simp] theorem exportTry_placed {r : CmdRef} {v : Nat} {p : Part} {ev : List LineEv} :
    placed (exportTry s r v p ev) = placed s := by
  unfold exportTry
  dsimp only
  (repeat' split) <;> simp

@[simp] theorem exeCkptExport_placed {ev : List LineEv} {r : CmdRef} {v : Nat} : placed (exeCkptExport ev s r v) = placed s := by
  unfold exeCkptExport
  dsimp only
  (repeat' split) <;> simp

@[simp] theorem execCkptExport_placed {ctx qid : Nat} {ev : List LineEv} : PlacedOut s (execCkptExport ctx qid ev s) := by
  simp [execCkptExport]

@[simp] theorem importDone_placed {p : Part} {hd : SealHdr} {rec0 : List Byte} : placed (importDone s p hd rec0) = placed s := by
  simp [importDone]

@[simp] theorem importFail_placed {c : Nat} {p : Part} {b : Bool} {ents : List ListEnt} {mon : Bool} {ev : List LineEv} :
    placed (importFail s c p b ents mon ev) = placed s := by
  unfold importFail
  dsimp only
  (repeat' split) <;> simp

@[simp] theorem importCkptGo_placed {r : CmdRef} {v : Nat} {p : Part} {src : SealSrc} {ev : List LineEv} :
    placed (importCkptGo s r v p src ev) = placed s := by
  unfold importCkptGo
  extract_lets _ l top
  have hl : placed l.1 = placed s := readList_placed
  have htop : placed top.s = placed s := sealTop_placed.trans hl
  clear_value l top
  split
  · simp [hl]
  · extract_lets q
    have hq : placed q.s = placed s := by
      refine (sealRun_placed fun _ _ _ _ => ?_).trans htop
      split <;> simp
    clear_value q
    simp [htop, hq]

@[simp] theorem exeCkptImport_placed {host : HostRsp} {ev : List LineEv} {r : CmdRef} {v : Nat} :
    placed (exeCkptImport host ev s r v) = placed s := by
  unfold exeCkptImport
  dsimp only
  (repeat' split) <;> simp

@[simp] theorem execCkptImport_placed {ctx qid : Nat} {host : HostRsp} {ev : List LineEv} :
    PlacedOut s (execCkptImport ctx qid host ev s) := by
  simp [execCkptImport]

/-! ### Machine/FwOps -/

@[simp] theorem fwSet_placed {f : FwSt} :
    placed (fwSet s f) = (s.tl.parts.map (fun e => (e.1, e.2.t0, e.2.log2n)), s.un.phys, f.recs.phys) := by simp only [placed, fwSet]

@[simp] theorem journalAdd_placed {typ step status detail : Nat} : placed (journalAdd s typ step status detail) = placed s :=
  placed_congr rfl rfl rfl

@[simp] theorem raiseIbi_placed {k : Option Nat} : placed (raiseIbi s k) = placed s := placed_congr rfl rfl rfl

@[simp] theorem alertEdge_placed : placed (alertEdge s) = placed s := by
  simp [alertEdge]

@[simp] theorem imgSlotSet_placed {kind : Nat} {b : Bool} {x : ImgSlot} : placed (imgSlotSet s kind b x) = placed s :=
  placed_congr rfl rfl rfl

@[simp] theorem dmaSource_placed {r : CmdRef} {c sp a n : Nat} {host : HostRsp} {ev : List LineEv}
    {go : State → List Byte → State} (hgo : ∀ s x1, placed (go s x1) = placed s) :
    placed (dmaSource s r c sp a n host ev go) = placed s := by
  unfold dmaSource
  dsimp only
  (repeat' split) <;> simp [*]

@[simp] theorem exeFwStageBegin_placed {r : CmdRef} {v : Nat} : placed (exeFwStageBegin s r v) = placed s := by
  simp [exeFwStageBegin]

@[simp] theorem execFwStageBegin_placed {ctx qid : Nat} : PlacedOut s (execFwStageBegin ctx qid s) := by
  simp [execFwStageBegin]

@[simp] theorem stageWrite_placed {r : CmdRef} {kind off : Nat} {bs : List Byte} :
    placed (stageWrite s r kind off bs) = placed s := by
  simp [stageWrite]

@[simp] theorem exeFwStageData_placed {host : HostRsp} {ev : List LineEv} {r : CmdRef} {v : Nat} :
    placed (exeFwStageData host ev s r v) = placed s := by
  unfold exeFwStageData
  dsimp only
  (repeat' split) <;> simp [*]

@[simp] theorem execFwStageData_placed {ctx qid : Nat} {host : HostRsp} {ev : List LineEv} :
    PlacedOut s (execFwStageData ctx qid host ev s) := by
  simp [execFwStageData]

@[simp] theorem exeFwVerify_placed {r : CmdRef} {v : Nat} : placed (exeFwVerify s r v) = placed s := by
  unfold exeFwVerify
  dsimp only
  (repeat' split) <;> simp

@[simp] theorem execFwVerify_placed {ctx qid : Nat} : PlacedOut s (execFwVerify ctx qid s) := by
  simp [execFwVerify]

@[simp] theorem exeFwArm_placed {r : CmdRef} {v : Nat} : placed (exeFwArm s r v) = placed s := by
  unfold exeFwArm
  dsimp only
  (repeat' split) <;> simp

@[simp] theorem execFwArm_placed {ctx qid : Nat} : PlacedOut s (execFwArm ctx qid s) := by
  simp [execFwArm]

@[simp] theorem exeFwCancel_placed {r : CmdRef} {v : Nat} : placed (exeFwCancel s r v) = placed s := by
  unfold exeFwCancel
  dsimp only
  (repeat' split) <;> simp

@[simp] theorem execFwCancel_placed {ctx qid : Nat} : PlacedOut s (execFwCancel ctx qid s) := by
  simp [execFwCancel]

@[simp] theorem exeFwQuery_placed {r : CmdRef} {v : Nat} : placed (exeFwQuery s r v) = placed s := by
  simp [exeFwQuery]

@[simp] theorem execFwQuery_placed {ctx qid : Nat} : PlacedOut s (execFwQuery ctx qid s) := by
  simp [execFwQuery]

@[simp] theorem exeFwArbRaise_placed {r : CmdRef} {v : Nat} : placed (exeFwArbRaise s r v) = placed s := by
  unfold exeFwArbRaise
  split <;> simp

@[simp] theorem execFwArbRaise_placed {ctx qid : Nat} : PlacedOut s (execFwArbRaise ctx qid s) := by
  simp [execFwArbRaise]

@[simp] theorem settingsWrite_placed {r : CmdRef} {bs : List Byte} : placed (settingsWrite s r bs) = placed s := by
  unfold settingsWrite
  split <;> simp

@[simp] theorem exeFwSettings_placed {host : HostRsp} {ev : List LineEv} {r : CmdRef} {v : Nat} :
    placed (exeFwSettings host ev s r v) = placed s := by
  unfold exeFwSettings
  split <;> simp

@[simp] theorem execFwSettings_placed {ctx qid : Nat} {host : HostRsp} {ev : List LineEv} :
    PlacedOut s (execFwSettings ctx qid host ev s) := by
  simp [execFwSettings]

/-! ### Machine/ActCmds -/

@[simp] theorem actOpen_placed : placed (actOpen s) = placed s := by
  unfold actOpen
  extract_lets
  split
  · rfl
  · rename_i e
    split <;> simp [txnOpen_placed e]

@[simp] theorem actSwitchCores_placed : placed (actSwitchCores s) = placed s := by
  unfold actSwitchCores
  dsimp only
  (repeat' split) <;> simp

@[simp] theorem actClose_placed : placed (actClose s) = placed s := by
  simp [actClose]

@[simp] theorem actTry_placed : placed (actTry s) = placed s := by
  unfold actTry
  split <;> simp

theorem fwSet_placed_of {f : FwSt} (h : f.recs = s.fw.recs) : placed (fwSet s f) = placed s := by simp [h]

@[simp] theorem actCommit_placed {tid : Nat} {x : Txn} : placed (actCommit s tid x) = placed s := by
  unfold actCommit
  extract_lets _ _ _ _ _ s2 _ s3 _ s4 _ s5
  have h2 : placed s2 = placed s := placed_congr rfl rfl rfl
  have h3 : placed s3 = placed s := placed_ite_of (imgSlotSet_placed.trans h2) h2
  have h4 : placed s4 = placed s := placed_ite_of (imgSlotSet_placed.trans h3) h3
  have h5 : placed s5 = placed s := journalAdd_placed.trans ((fwSet_placed_of rfl).trans h4)
  have h5' := alertEdge_placed.trans h5
  refine placed_ite_of (actTry_placed.trans ?_) h5'
  clear_value s5
  simp only [placed, fwSet, Prod.mk.injEq] at h5 h5' ⊢
  exact ⟨h5'.1, h5.2.1, h5.2.2⟩

@[simp] theorem actDecide_placed {tid : Nat} {x : Txn} : placed (actDecide s tid x) = placed s := by
  simp [actDecide]

@[simp] theorem actApplied_placed {tid : Nat} {u : UnitId} : placed (actApplied s tid u) = placed s := by
  unfold actApplied
  dsimp only
  (repeat' split) <;> simp

@[simp] theorem actBegin_placed {tid : Nat} {u : UnitId} : placed (actBegin s tid u) = placed s := by
  simp [actBegin]

@[simp] theorem actGo_placed {tid : Nat} {u : UnitId} : placed (actGo s tid u) = placed s := by
  simp [actGo]

@[simp] theorem actTurn_placed {tid : Nat} {u : UnitId} : placed (actTurn s tid u) = placed s := by
  simp [actTurn]

@[simp] theorem execActHoldoff_placed : PlacedOut s (execActHoldoff s) := by
  unfold execActHoldoff
  dsimp only
  (repeat' split) <;> simp

@[simp] theorem execActRetry_placed {u : UnitId} : PlacedOut s (execActRetry u s) := by
  simp [execActRetry]

@[simp] theorem execTxnVote_placed {tid : Nat} {u : UnitId} : PlacedOut s (execTxnVote tid u s) := by
  unfold execTxnVote
  dsimp only
  (repeat' split) <;> simp

@[simp] theorem ackMember_placed {tid : Nat} {x : Txn} {u : UnitId} : placed (ackMember s tid x u) = placed s := by
  simp [ackMember]

@[simp] theorem commitRefused_placed {tid : Nat} {x : Txn} {u : UnitId} {st : Nat} :
    placed (commitRefused s tid x u st) = placed s := by
  simp [commitRefused]

@[simp] theorem execTxnCommit_placed {tid : Nat} {u : UnitId} : PlacedOut s (execTxnCommit tid u s) := by
  unfold execTxnCommit
  dsimp only
  (repeat' split) <;> simp

@[simp] theorem execTxnAck_placed {tid : Nat} {u : UnitId} : PlacedOut s (execTxnAck tid u s) := by
  unfold execTxnAck
  split <;> simp

@[simp] theorem execMgmtWatchdog_placed {back fresh : Bool} : PlacedOut s (execMgmtWatchdog back fresh s) := by
  simp [execMgmtWatchdog]

/-! ### Machine/PowerOps -/

@[simp] theorem pwSet_placed {p : PowerSt} : placed (pwSet s p) = placed s := placed_congr rfl rfl rfl

@[simp] theorem postPower_placed {changed : Nat} : placed (postPower s changed) = placed s := by
  simp [postPower]

@[simp] theorem emergAct_placed : placed (emergAct s) = placed s := by
  unfold emergAct
  dsimp only
  (repeat' split) <;> simp

@[simp] theorem emergTo_placed {a : Nat} : placed (emergTo s a) = placed s := by
  simp [emergTo]

@[simp] theorem emergOn_placed {i : Nat} : placed (emergOn s i) = placed s := by
  simp [emergOn]

@[simp] theorem emergOff_placed {i : Nat} : placed (emergOff s i) = placed s := by
  simp [emergOff]

@[simp] theorem oppApply_placed : placed (oppApply s) = placed s := by
  refine placed_foldl fun s e => ?_
  split <;> simp

@[simp] theorem oppWrite_placed {t0 v : Nat} : placed (oppWrite s t0 v) = placed s := by
  unfold oppWrite
  split <;> simp

@[simp] theorem capWrite_placed {v : Nat} : placed (capWrite s v) = placed s := placed_congr rfl rfl rfl

@[simp] theorem ageWrite_placed {w : W64} : placed (ageWrite s w) = placed s := by
  simp [ageWrite]

/-! ### Machine/RegWrite -/

@[simp] theorem partBurnWrite_placed {w : Writer} {u : UnitId} {v : Nat} : placed (partBurnWrite w u v s) = placed s := by
  simp [partBurnWrite]

@[simp] theorem budgetWrite_placed {k v : Nat} : placed (budgetWrite k v s) = placed s := placed_congr rfl rfl rfl

@[simp] theorem packageWrite_placed {w : Writer} {o v : Nat} : placed (packageWrite w o v s) = placed s := by
  simp [packageWrite]

@[simp] theorem clusterWrite_placed {w : Writer} {c o v : Nat} : placed (clusterWrite w c o v s) = placed s := by
  simp [clusterWrite]

@[simp] theorem cdieWrite_placed {w : Writer} {d o v : Nat} : placed (cdieWrite w d o v s) = placed s := by
  simp [cdieWrite]

@[simp] theorem tileWrite_placed {t o v : Nat} : placed (tileWrite t o v s) = placed s := by
  simp [tileWrite]

@[simp] theorem serviceWrite_placed {w : Writer} {k o v : Nat} : placed (serviceWrite w k o v s) = placed s := by
  simp [serviceWrite]

@[simp] theorem blockWrite_placed {w : Writer} {o v : Nat} : placed (blockWrite w o v s) = placed s := by
  unfold blockWrite
  dsimp only
  (repeat' split) <;> simp

@[simp] theorem unitWrite_placed {w : Writer} {u : UnitId} {o v : Nat} : placed (unitWrite w u o v s) = placed s := by
  unfold unitWrite
  split <;> simp

@[simp] theorem ctlReserved_placed {w : Writer} {u : UnitId} {v : Nat} : placed (ctlReserved w u v s) = placed s := by
  simp [ctlReserved]

@[simp] theorem wordWrite_placed {w : Writer} {a v : Nat} : placed (wordWrite w a v s) = placed s := by
  unfold wordWrite
  dsimp only
  (repeat' split) <;> simp

@[simp] theorem execRegisterWrite_placed {w : Writer} {off width : Nat} {v : W64} :
    PlacedOut s (execRegisterWrite w off width v s) := by
  simp [execRegisterWrite]

@[simp] theorem reqPerform_placed {r : Req} : placed (reqPerform s r).1 = placed s := by
  unfold reqPerform
  dsimp only
  (repeat' split) <;> simp

@[simp] theorem reqServe_placed {r : Req} : placed (reqServe s r) = placed s := by
  simp [reqServe]

@[simp] theorem execRequestArrival_placed {r : Req} : PlacedOut s (execRequestArrival r s) := by
  unfold execRequestArrival
  dsimp only
  (repeat' split) <;> simp

@[simp] theorem execReplyArrival_placed {u : UnitId} {tag : Nat} {reqInc rspInc : Half} {tgt : UnitId} {status : Nat}
    {func : Option Nat} :
    PlacedOut s (execReplyArrival u tag reqInc rspInc tgt status func s) := by
  unfold execReplyArrival
  dsimp only
  (repeat' split) <;> simp

@[simp] theorem reissue_placed {o : Outst} : placed (reissue s o) = placed s := placed_congr rfl rfl rfl

@[simp] theorem execRequestSoftTimeout_placed {u : UnitId} {tag : Nat} : PlacedOut s (execRequestSoftTimeout u tag s) := by
  unfold execRequestSoftTimeout
  split <;> simp

@[simp] theorem execRequestHardTimeout_placed {u : UnitId} {tag : Nat} : PlacedOut s (execRequestHardTimeout u tag s) := by
  unfold execRequestHardTimeout
  split <;> simp

@[simp] theorem degrade_placed : placed (degrade s) = placed s := by
  simp [degrade]

@[simp] theorem bootKeys_placed {x : BootStep} : placed (bootKeys s x) = placed s := by
  simp [bootKeys]

@[simp] theorem bootRestoreKeys_placed : placed (bootRestoreKeys s) = placed s := by
  simp [bootRestoreKeys]

@[simp] theorem unitStateTo_placed {u : UnitId} {st : UState} : placed (unitStateTo s u st) = placed s := by
  simp [unitStateTo]

@[simp] theorem bootUnits_placed {us : List UnitId} {down : UState} {failed : List UnitId} :
    placed (bootUnits s us down failed) = placed s := by
  simp [bootUnits]

@[simp] theorem bootMemory_placed {us : List UnitId} {ms : List Nat} {m : StepMode} {x : BootStep} :
    placed (bootMemory s us ms m x) = placed s := by
  simp [bootMemory]

@[simp] theorem bootTile_placed {u : UnitId} {st : UState} : placed (bootTile s u st) = placed s := by
  simp [bootTile]

@[simp] theorem bootPorts_placed {m : StepMode} {x : BootStep} : placed (bootPorts s m x) = placed s := by
  simp [bootPorts]

@[simp] theorem settingApply_placed {e : List Byte} : placed (settingApply s e) = placed s := by
  simp [settingApply]

@[simp] theorem bootHost_placed {x : BootStep} : placed (bootHost s x) = placed s := by
  simp [bootHost]

@[simp] theorem bootEnd_placed : placed (bootEnd s) = placed s := placed_congr rfl rfl rfl

/-! ### Machine/Commit -/

@[simp] theorem monMerge_placed {p : Part} {ev : List LineEv} : placed (monMerge s p ev) = placed s := by
  unfold monMerge
  dsimp only
  (repeat' split) <;> simp

@[simp] theorem execMonitorMergeDone_placed {t : Nat} {ev : List LineEv} : PlacedOut s (execMonitorMergeDone t ev s) := by
  unfold execMonitorMergeDone
  dsimp only
  (repeat' split) <;> simp

@[simp] theorem execMonHitClear_placed {t : Nat} {w : Writer} : PlacedOut s (execMonHitClear t w s) := by
  unfold execMonHitClear
  split <;> simp

/-! ### Machine/HostCmds -/

@[simp] theorem hdmDeny_placed {p : Nat} : placed (hdmDeny s p) = placed s := placed_congr rfl rfl rfl

@[simp] theorem execHdmAccess_placed {src : HdmSrc} {off : Nat} {wr : Option (List Byte)} {poison : Bool} :
    PlacedOut s (execHdmAccess src off wr poison s) := by
  unfold execHdmAccess
  dsimp only
  (repeat' split) <;> simp

@[simp] theorem execAtsInvalidate_placed {blk : Nat} : PlacedOut s (execAtsInvalidate blk s) := by
  simp [execAtsInvalidate]

@[simp] theorem cfgReset_placed {fks : List Nat} : placed (cfgReset s fks) = placed s := by
  simp [cfgReset]

@[simp] theorem vfsOff_placed {k : Nat} : placed (vfsOff s k) = placed s := placed_congr rfl rfl rfl

@[simp] theorem execVfFlr_placed {port vf : Nat} : PlacedOut s (execVfFlr port vf s) := by
  simp [execVfFlr]

@[simp] theorem execPfFlr_placed {port : Nat} : PlacedOut s (execPfFlr port s) := by
  simp [execPfFlr]

@[simp] theorem execVfEnableClear_placed {port : Nat} : PlacedOut s (execVfEnableClear port s) := by
  simp [execVfEnableClear]

@[simp] theorem execNumvfsWrite_placed {port n : Nat} {enable : Bool} : PlacedOut s (execNumvfsWrite port n enable s) := by
  simp [execNumvfsWrite]

@[simp] theorem execBmeClear_placed {port : Nat} {vf : Option Nat} {set : Bool} : PlacedOut s (execBmeClear port vf set s) := by
  simp [execBmeClear]

@[simp] theorem execMseClear_placed {port : Nat} {vf : Option Nat} {set : Bool} : PlacedOut s (execMseClear port vf set s) := by
  simp [execMseClear]

@[simp] theorem linkReset_placed {k : Nat} : placed (linkReset s k) = placed s := by
  simp [linkReset]

@[simp] theorem execHostLinkDown_placed {port : Nat} : PlacedOut s (execHostLinkDown port s) := by
  simp [execHostLinkDown]

@[simp] theorem execHostLinkUp_placed {port speed width : Nat} {flit256 : Bool} :
    PlacedOut s (execHostLinkUp port speed width flit256 s) := by
  simp [execHostLinkUp]

@[simp] theorem execViral_placed {port : Nat} : PlacedOut s (execViral port s) := by
  simp [execViral]

@[simp] theorem execCompletionTimeout_placed {port : Nat} {cmd : Option (Nat × Nat)} {line : Option Nat} :
    PlacedOut s (execCompletionTimeout port cmd line s) := by
  unfold execCompletionTimeout
  dsimp only
  (repeat' split) <;> simp

@[simp] theorem execCorrectableLinkError_placed {port : Nat} : PlacedOut s (execCorrectableLinkError port s) := by
  simp [execCorrectableLinkError]

@[simp] theorem streamHalt_placed {port stream : Nat} {secure : Bool} : placed (streamHalt s port stream secure) = placed s := by
  simp [streamHalt]

@[simp] theorem execIdeIntegrityFail_placed {port stream : Nat} {e : IdeEv} :
    PlacedOut s (execIdeIntegrityFail port stream e s) := by
  unfold execIdeIntegrityFail
  split <;> simp

@[simp] theorem execIdeKeyProgram_placed {port stream : Nat} : PlacedOut s (execIdeKeyProgram port stream s) := by
  simp [execIdeKeyProgram]

@[simp] theorem execLockInterfaceRequest_placed {port vf stream : Nat} :
    PlacedOut s (execLockInterfaceRequest port vf stream s) := by
  simp [execLockInterfaceRequest]

@[simp] theorem execStartInterfaceRequest_placed {port vf : Nat} {nonce : List Byte} :
    PlacedOut s (execStartInterfaceRequest port vf nonce s) := by
  simp [execStartInterfaceRequest]

@[simp] theorem execStopInterface_placed {port vf : Nat} : PlacedOut s (execStopInterface port vf s) := by
  simp [execStopInterface]

@[simp] theorem execFrozenConfigurationWrite_placed {port vf : Nat} : PlacedOut s (execFrozenConfigurationWrite port vf s) := by
  simp [execFrozenConfigurationWrite]

/-! ### Machine/MeterCmds -/

@[simp] theorem mtSet_placed {m : MeterSt} : placed (mtSet s m) = placed s := placed_congr rfl rfl rfl

@[simp] theorem logWrap_placed : placed (logWrap s) = placed s := placed_congr rfl rfl rfl

@[simp] theorem logAdd_placed {typ arg : Nat} : placed (logAdd s typ arg) = placed s := by
  unfold logAdd
  dsimp only
  (repeat' split) <;> simp

@[simp] theorem meterSees_placed {x : MeterIn} : placed (meterSees s x) = placed s := by
  simp [meterSees]

@[simp] theorem seqNext_placed : placed (seqNext s) = placed s := placed_congr rfl rfl rfl

@[simp] theorem readingSign_placed {kind : Nat} {nonce : List Byte} : placed (readingSign s kind nonce) = placed s :=
  placed_congr rfl rfl rfl

@[simp] theorem execMeterPeriodic_placed {m : MeterIn} : PlacedOut s (execMeterPeriodic m s) := by
  simp [execMeterPeriodic]

@[simp] theorem meterAnswer_placed {code status : Nat} {body : List Byte} : placed (meterAnswer s code status body) = placed s :=
  placed_congr rfl rfl rfl

@[simp] theorem meterRequest_placed {prev : Bool} {code : Nat} {go : State → State} (hgo : ∀ s, placed (go s) = placed s) :
    PlacedOut s (meterRequest s prev code go) := by
  unfold meterRequest
  dsimp only
  (repeat' split) <;> simp [*]

@[simp] theorem execGetReading_placed {m : MeterIn} {prev : Bool} {body : List Byte} :
    PlacedOut s (execGetReading m prev body s) := by
  simp [execGetReading]

@[simp] theorem execGetLog_placed {prev : Bool} {body : List Byte} : PlacedOut s (execGetLog prev body s) := by
  simp [execGetLog]

@[simp] theorem execGetWrap_placed {prev : Bool} : PlacedOut s (execGetWrap prev s) := by
  simp [execGetWrap]

@[simp] theorem execGetCert_placed {prev : Bool} {body : List Byte} : PlacedOut s (execGetCert prev body s) := by
  simp [execGetCert]

@[simp] theorem tokenRejected_placed {code : Nat} : placed (tokenRejected s code) = placed s := by
  simp [tokenRejected]

@[simp] theorem sealTo_placed {code typ : Nat} {b : Bool} : placed (sealTo s code typ b) = placed s := by
  simp [sealTo]

@[simp] theorem execMeterSeal_placed {m : MeterIn} {prev : Bool} {token : List Byte} :
    PlacedOut s (execMeterSeal m prev token s) := by
  simp [execMeterSeal]

@[simp] theorem execMeterUnseal_placed {m : MeterIn} {prev : Bool} {token : List Byte} :
    PlacedOut s (execMeterUnseal m prev token s) := by
  simp [execMeterUnseal]

theorem execCalibrate_placed {m : MeterIn} {prev : Bool} {body : List Byte} {last genuine : Bool} :
    PlacedOut s (execCalibrate m prev body last genuine s) := by
  refine meterRequest_placed fun s => ?_
  extract_lets s1
  have h1 : placed s1 = placed s := meterSees_placed
  clear_value s1
  (repeat' split) <;> simp [h1]

@[simp] theorem execTamper_placed {m : MeterIn} : PlacedOut s (execTamper m s) := by
  simp [execTamper]

@[simp] theorem execMeterPowerDown_placed {m : MeterIn} : PlacedOut s (execMeterPowerDown m s) := by
  simp [execMeterPowerDown]

@[simp] theorem execMeterPowerUp_placed {m : MeterIn} : PlacedOut s (execMeterPowerUp m s) := by
  simp [execMeterPowerUp]

@[simp] theorem execMirrorUpdate_placed : PlacedOut s (execMirrorUpdate s) := by
  simp [execMirrorUpdate]

@[simp] theorem execMeterLinkFail_placed : PlacedOut s (execMeterLinkFail s) := by
  simp [execMeterLinkFail]

/-! ### Machine/PowerCmds -/

@[simp] theorem execPwrWarnAssert_placed {board : Bool} : PlacedOut s (execPwrWarnAssert board s) := by
  simp [execPwrWarnAssert]

@[simp] theorem execPwrWarnDeassert_placed : PlacedOut s (execPwrWarnDeassert s) := by
  simp [execPwrWarnDeassert]

@[simp] theorem levelsSet_placed {f : Part → Nat} : placed (levelsSet s f) = placed s := placed_congr rfl rfl rfl

@[simp] theorem limiterMove_placed {ovr : Bool} {raise : Nat} : placed (limiterMove s ovr raise) = placed s := by
  simp [limiterMove]

@[simp] theorem execLimiterStep_placed {v i p raise : Nat} : PlacedOut s (execLimiterStep v i p raise s) := by
  simp [execLimiterStep]

@[simp] theorem execPowerEstimate_placed {est : List (Nat × Nat)} {dies : List Nat} :
    PlacedOut s (execPowerEstimate est dies s) := by
  simp [execPowerEstimate]

@[simp] theorem readAon_placed {r : Thermal} : placed (readAon s r) = placed s := by
  simp [readAon]

@[simp] theorem readAll_placed {r : Thermal} : placed (readAll s r) = placed s := by
  simp [readAll]

@[simp] theorem readEmerg_placed {r : Thermal} : placed (readEmerg s r) = placed s := by
  simp [readEmerg]

@[simp] theorem readMargin_placed {r : Thermal} : placed (readMargin s r) = placed s := by
  simp [readMargin]

@[simp] theorem execPwrCapWrite_placed {w : Writer} {v : W32} : PlacedOut s (execPwrCapWrite w v s) := by
  simp [execPwrCapWrite]

@[simp] theorem execPwrOppWrite_placed {w : Writer} {k : Nat} {v : W32} : PlacedOut s (execPwrOppWrite w k v s) := by
  simp [execPwrOppWrite]

@[simp] theorem execDieVoltageReached_placed {d : Nat} : PlacedOut s (execDieVoltageReached d s) := by
  simp [execDieVoltageReached]

@[simp] theorem execAgePredWrite_placed {w : Writer} {v : RegPart} : PlacedOut s (execAgePredWrite w v s) := by
  simp [execAgePredWrite]

@[simp] theorem execTripCauseClear_placed {w : Writer} {v : W32} : PlacedOut s (execTripCauseClear w v s) := by
  simp [execTripCauseClear]

@[simp] theorem execApportion_placed {shares : List (Nat × Nat)} {total : Nat} : PlacedOut s (execApportion shares total s) := by
  simp [execApportion]

@[simp] theorem perstSet_placed {port : Nat} {level : Bool} : placed (perstSet s port level) = placed s :=
  placed_congr rfl rfl rfl

@[simp] theorem execPerstAssert_placed {port : Nat} : PlacedOut s (execPerstAssert port s) := by
  simp [execPerstAssert]

@[simp] theorem execI3cRead_placed {off len : Nat} : PlacedOut s (execI3cRead off len s) := by
  simp [execI3cRead]

@[simp] theorem jtagIr_placed {ir : Nat} {go : State → State} (hgo : ∀ s, placed (go s) = placed s) :
    PlacedOut s (jtagIr s ir go) := by
  unfold jtagIr
  dsimp only
  (repeat' split) <;> simp [*]

@[simp] theorem debugSeen_placed : placed (debugSeen s) = placed s := placed_congr rfl rfl rfl

@[simp] theorem execExtest_placed {cells : Nat} : PlacedOut s (execExtest cells s) := by
  simp [execExtest]

@[simp] theorem execIdcode_placed : PlacedOut s (execIdcode s) := by
  simp [execIdcode]

@[simp] theorem execSamplePreload_placed {cells : Nat} : PlacedOut s (execSamplePreload cells s) := by
  simp [execSamplePreload]

@[simp] theorem lcAccessGo_placed {a : LcAcc} : placed (lcAccessGo a s) = placed s := by
  unfold lcAccessGo
  split <;> simp

@[simp] theorem execLcAccess_placed {a : LcAcc} : PlacedOut s (execLcAccess a s) := by
  simp [execLcAccess]

@[simp] theorem execJtagDebug_placed {ir : Nat} : PlacedOut s (execJtagDebug ir s) := by
  simp [execJtagDebug]

@[simp] theorem execBypass_placed : PlacedOut s (execBypass s) := by
  simp [execBypass]

/-! ### Machine/PlateFetch -/

@[simp] theorem fetchArrive_placed {t addr : Nat} {blank : Bool} : placed (fetchArrive s t addr blank) = placed s := by
  simp [fetchArrive]

@[simp] theorem plateLine_placed {p : Part} {t addr : Nat} : placed (plateLine s p t addr).1 = placed s := by
  unfold plateLine
  dsimp only
  split
  · rfl
  · split
    · rfl
    · exact placed_iteFst_of fetchLine_placed (cacheSet_placed.trans ctxReadLine_placed)

@[simp] theorem execPlateFetchArrive_placed {t addr status : Nat} : PlacedOut s (execPlateFetchArrive t addr status s) := by
  unfold execPlateFetchArrive
  split <;> simp
end

/-! ### Partitions -/

/-- The shapes of a partition table, as `partsApart` and `partsWf` read them. -/
def shapesApart : List (Nat × Nat × Nat) → Bool
  | [] => true
  | e :: r => r.all (fun f => e.2.1 + 2 ^ e.2.2 ≤ f.2.1) && shapesApart r

theorem partsApart_eq_shapesApart (m : Map Part) : partsApart m = shapesApart (m.map (fun e => (e.1, e.2.t0, e.2.log2n))) := by
  induction m with
  | nil => rfl
  | cons e r ih => simp [partsApart, shapesApart, ih, Function.comp_def]

theorem partsWf_congr {s t : State} (h : placed t = placed s) : partsWf t = partsWf s := by
  have hp : t.tl.parts.map (fun e => (e.1, e.2.t0, e.2.log2n)) = s.tl.parts.map (fun e => (e.1, e.2.t0, e.2.log2n)) := congrArg (·.1) h
  have hall (u : State) : u.tl.parts.all (fun e => e.1 = e.2.t0 && e.2.t0 + 2 ^ e.2.log2n ≤ 512) =
      (u.tl.parts.map (fun e => (e.1, e.2.t0, e.2.log2n))).all (fun e => e.1 = e.2.1 && e.2.1 + 2 ^ e.2.2 ≤ 512) := by
    rw [List.all_map]
    rfl
  simp only [partsWf, partsApart_eq_shapesApart, hall, hp]

theorem partsWf_iff {s : State} : partsWf s = true ↔
    partsApart s.tl.parts = true ∧ ∀ e ∈ s.tl.parts, e.1 = e.2.t0 ∧ e.2.t0 + 2 ^ e.2.log2n ≤ 512 := by
  simp [partsWf]

theorem partsApart_cons {e : Nat × Part} {r : Map Part} :
    partsApart (e :: r) = true ↔ (∀ f ∈ r, e.2.t0 + 2 ^ e.2.log2n ≤ f.2.t0) ∧ partsApart r = true := by
  simp [partsApart]

theorem partsApart_filter {m : Map Part} (f : Nat × Part → Bool) (h : partsApart m = true) : partsApart (m.filter f) = true := by
  induction m with
  | nil => rfl
  | cons e r ih =>
    obtain ⟨he, hr⟩ := partsApart_cons.mp h
    rw [List.filter_cons]
    split
    · exact partsApart_cons.mpr ⟨fun g hg => he g (List.mem_of_mem_filter hg), ih hr⟩
    · exact ih hr

/-- Two partitions without a common tile. -/
def partsMiss (p q : Part) : Prop := p.t0 + 2 ^ p.log2n ≤ q.t0 ∨ q.t0 + 2 ^ q.log2n ≤ p.t0

/-- A partition that misses all others keeps the table in order when it is filed under its T0. -/
theorem partsApart_mapSet {m : Map Part} {p : Part} (h : partsApart m = true) (hk : ∀ e ∈ m, e.1 = e.2.t0)
    (hp : ∀ e ∈ m, partsMiss p e.2) : partsApart (mapSet m p.t0 p) = true := by
  have hpos (q : Part) : 0 < 2 ^ q.log2n := Nat.two_pow_pos _
  induction m with
  | nil => rfl
  | cons e r ih =>
    obtain ⟨he, hr⟩ := partsApart_cons.mp h
    have hke := hk e List.mem_cons_self
    have hpe := hp e List.mem_cons_self
    have h1 := hpos p
    have h2 := hpos e.2
    obtain ⟨k, q⟩ := e
    simp only [partsMiss] at hke hpe h2 he
    rw [mapSet]
    split
    · have hpq : p.t0 + 2 ^ p.log2n ≤ q.t0 := by omega
      refine partsApart_cons.mpr ⟨fun f hf => ?_, h⟩
      rcases List.mem_cons.mp hf with rfl | hf
      · exact hpq
      · have := he f hf
        show p.t0 + 2 ^ p.log2n ≤ f.2.t0
        omega
    · split
      · omega
      · refine partsApart_cons.mpr ⟨fun f hf => ?_, ih hr (fun f hf => hk f (.tail _ hf)) (fun f hf => hp f (.tail _ hf))⟩
        rcases mem_mapSet hf with rfl | hf
        · show q.t0 + 2 ^ q.log2n ≤ p.t0
          omega
        · exact he f hf

theorem partFind_isSome_of_mem {m : Map Part} {e : Nat × Part} {t : Nat} (h : e ∈ m) (h0 : e.2.t0 ≤ t)
    (h1 : t < e.2.t0 + 2 ^ e.2.log2n) : (partFind m t).isSome = true := by
  induction m with
  | nil => cases h
  | cons q r ih =>
    obtain ⟨k, q⟩ := q
    rw [partFind]
    split
    · rfl
    · next hq =>
      rcases List.mem_cons.mp h with rfl | h
      · simp [h0, h1] at hq
      · exact ih h

/-- A range of tiles that no partition covers misses every partition (R356). -/
theorem partsMiss_of_free {m : Map Part} {p : Part} (hfree : ∀ i < 2 ^ p.log2n, partFind m (p.t0 + i) = none) :
    ∀ e ∈ m, partsMiss p e.2 := by
  intro e he
  by_contra hmiss
  simp only [partsMiss, not_or, Nat.not_le] at hmiss
  have hp := Nat.two_pow_pos p.log2n
  have he2 := Nat.two_pow_pos e.2.log2n
  have hs := partFind_isSome_of_mem (t := p.t0 + (e.2.t0 - p.t0)) he (by omega) (by omega)
  rw [hfree _ (by omega)] at hs
  cases hs

/-- What an accepted bind has checked of its shape and its tiles (R356). -/
theorem bind_free {s : State} {c t0 log2n : Nat} (h : bindRefusal s c t0 log2n = none) :
    t0 + 2 ^ log2n ≤ 512 ∧ ∀ i < 2 ^ log2n, partOf s (t0 + i) = none := by
  unfold bindRefusal at h
  extract_lets ts at h
  split at h
  · cases h
  next hshape =>
    split at h
    · cases h
    · split at h
      · cases h
      next hany =>
        simp only [shapeOk, Bool.not_eq_true, Bool.not_eq_false', Bool.and_eq_true, decide_eq_true_eq] at hshape
        refine ⟨hshape.2, fun i hi => ?_⟩
        by_contra hne
        refine hany (List.any_eq_true.mpr ⟨t0 + i, List.mem_map.mpr ⟨i, List.mem_range.mpr hi, rfl⟩, ?_⟩)
        exact Option.isSome_iff_ne_none.mpr hne

/-! ### Slots -/

/-- The slot that page `i` of cluster `c` addresses: 0 to 15 the tiles, 16 the spare (R12). -/
def pageSlot (m : Map Nat) (c i : Nat) : Nat := mapGet i m (c * 17 + i)

/-- In every cluster the seventeen pages address seventeen different slots. -/
def SlotsApart (m : Map Nat) : Prop :=
  ∀ c < 32, (∀ i < 17, pageSlot m c i ≤ 16) ∧ ∀ i < 17, ∀ j < 17, pageSlot m c i = pageSlot m c j → i = j

theorem physAt_tile {s : State} {c i : Nat} (hi : i < 16) : physAt s (.tile (16 * c + i)) = pageSlot s.un.phys c i := by
  have h1 : (16 * c + i) % 16 = i := by omega
  have h2 : (16 * c + i) / 16 = c := by omega
  simp only [physAt, pageSlot, h1, h2]

theorem physList_eq {s : State} {c : Nat} : physList s c = (List.range 17).map (pageSlot s.un.phys c) := by
  rw [List.range_succ, List.map_append, physList]
  congr 1
  exact List.map_congr_left fun i hi => physAt_tile (List.mem_range.mp hi)

theorem apart_iff_nodup {l : List Nat} : apart l = true ↔ l.Nodup := by
  induction l with
  | nil => simp [apart]
  | cons a r ih => simp [apart, ih]

theorem physApart_iff {s : State} : physApart s = true ↔ SlotsApart s.un.phys := by
  simp [physApart, SlotsApart, physList_eq, apart_iff_nodup, List.nodup_map_iff_inj_on List.nodup_range, and_comm]

theorem recsApart_iff {s : State} : recsApart s = true ↔ SlotsApart s.fw.recs.phys := physApart_iff

theorem slotsApart_nil : SlotsApart [] := fun _ _ => ⟨fun _ hi => Nat.le_of_lt_succ hi, fun _ _ _ _ e => e⟩

/-- The spare and page `i` of a cluster exchange their slots (R55). -/
def swapSlots (m : Map Nat) (c i : Nat) : Map Nat :=
  mapSet (mapSet m (c * 17 + i) (pageSlot m c 16)) (c * 17 + 16) (pageSlot m c i)

theorem pageSlot_swapSlots_other {m : Map Nat} {c i c' j : Nat} (hi : i < 16) (hj : j < 17) (hc : c' ≠ c) :
    pageSlot (swapSlots m c i) c' j = pageSlot m c' j := by
  rw [pageSlot, swapSlots, mapGet_mapSet_ne _ _ _ (by omega), mapGet_mapSet_ne _ _ _ (by omega), pageSlot]

theorem pageSlot_swapSlots {m : Map Nat} {c i j : Nat} :
    pageSlot (swapSlots m c i) c j = pageSlot m c (if j = 16 then i else if j = i then 16 else j) := by
  unfold swapSlots
  split
  next h => rw [h, pageSlot, mapGet_mapSet_self]
  next h =>
    rw [pageSlot, mapGet_mapSet_ne _ _ _ (by omega)]
    split
    next h' => rw [h', mapGet_mapSet_self]
    next h' => rw [mapGet_mapSet_ne _ _ _ (by omega), pageSlot]

theorem SlotsApart.swap {m : Map Nat} {c i : Nat} (h : SlotsApart m) (hi : i < 16) : SlotsApart (swapSlots m c i) := by
  intro c' hc'
  obtain ⟨hle, hinj⟩ := h c' hc'
  by_cases hc : c' = c
  · subst hc
    simp only [pageSlot_swapSlots]
    refine ⟨fun j hj => hle _ (by split <;> (try split) <;> omega), fun j hj k hk e => ?_⟩
    have := hinj _ (by split <;> (try split) <;> omega) _ (by split <;> (try split) <;> omega) e
    split at this <;> split at this <;> (try split at this) <;> (try split at this) <;> omega
  · refine ⟨fun j hj => ?_, fun j hj k hk e => ?_⟩
    · rw [pageSlot_swapSlots_other hi hj hc]
      exact hle j hj
    · rw [pageSlot_swapSlots_other hi hj hc, pageSlot_swapSlots_other hi hk hc] at e
      exact hinj j hj k hk e

theorem substSwitch_phys {s : State} {c t : Nat} (h : t / 16 = c) :
    (substSwitch s c t).un.phys = swapSlots s.un.phys c (t % 16) := by
  subst h
  rfl

/-! ### What every step keeps apart -/

/-- From `s` to `t` partitions that do not overlap stay so, and so do slots that differ in the pages and in the flash records. -/
structure Apart (s t : State) : Prop where
  parts : partsWf s = true → partsWf t = true
  slots : SlotsApart s.un.phys → SlotsApart s.fw.recs.phys → SlotsApart t.un.phys ∧ SlotsApart t.fw.recs.phys

def ApartOut (s : State) (o : Out) : Prop := ∀ t, o = .next t → Apart s t

section
variable {s t u : State} {α : Type}

theorem Apart.refl : Apart s s := ⟨id, And.intro⟩

theorem Apart.trans (h : Apart s t) (k : Apart t u) : Apart s u :=
  ⟨fun w => k.parts (h.parts w), fun p r => k.slots (h.slots p r).1 (h.slots p r).2⟩

theorem Apart.of_placed (h : placed t = placed s) : Apart s t := by
  have hu : t.un.phys = s.un.phys := congrArg (·.2.1) h
  have hr : t.fw.recs.phys = s.fw.recs.phys := congrArg (·.2.2) h
  exact ⟨fun w => (partsWf_congr h).trans w, fun p r => ⟨hu ▸ p, hr ▸ r⟩⟩

theorem Apart.then (h : Apart s t) (k : placed u = placed t) : Apart s u := h.trans (.of_placed k)

theorem Apart.since (k : Apart t u) (h : placed t = placed s) : Apart s u := (Apart.of_placed h).trans k

theorem Apart.ite {c : Prop} [Decidable c] (h : Apart s t) (k : Apart s u) : Apart s (if c then t else u) := by
  split <;> assumption

theorem Apart.foldl {f : State → α → State} (hf : ∀ s a, Apart s (f s a)) {l : List α} : Apart s (l.foldl f s) :=
  List.foldlRecOn l f (motive := fun t => Apart s t) .refl fun _ k _ _ => k.trans (hf _ _)

/-- Power-off and restart: no partition is left and the pages stand on their own slots. -/
theorem Apart.blank (hp : t.tl.parts = []) (hu : t.un.phys = [])
    (hr : SlotsApart s.un.phys → SlotsApart s.fw.recs.phys → SlotsApart t.fw.recs.phys) : Apart s t :=
  ⟨fun _ => by simp [partsWf_iff, hp, partsApart], fun p r => ⟨hu ▸ slotsApart_nil, hr p r⟩⟩

theorem ApartOut.next (h : Apart s t) : ApartOut s (.next t) := fun _ e => by cases e; exact h

theorem ApartOut.of_placed {o : Out} (h : PlacedOut s o) : ApartOut s o := fun t e => .of_placed (h t e)

theorem ApartOut.ite {c : Prop} [Decidable c] {o o' : Out} (h : ApartOut s o) (k : ApartOut s o') :
    ApartOut s (if c then o else o') := by
  split <;> assumption

/-! ### Binding and clearing a partition -/

theorem partAdd_apart {p : Part} (hend : p.t0 + 2 ^ p.log2n ≤ 512) (hmiss : ∀ e ∈ s.tl.parts, partsMiss p e.2) :
    Apart s (partAdd s p) := by
  refine ⟨fun w => ?_, And.intro⟩
  obtain ⟨ha, hk⟩ := partsWf_iff.mp w
  refine partsWf_iff.mpr ⟨partsApart_mapSet ha (fun e he => (hk e he).1) hmiss, fun e he => ?_⟩
  rcases mem_mapSet he with rfl | he
  · exact ⟨rfl, hend⟩
  · exact hk e he

theorem partsMiss_congr {p : Part} (h : placed t = placed s) (hm : ∀ e ∈ s.tl.parts, partsMiss p e.2) :
    ∀ e ∈ t.tl.parts, partsMiss p e.2 := by
  have hp : t.tl.parts.map (fun e => (e.1, e.2.t0, e.2.log2n)) = s.tl.parts.map (fun e => (e.1, e.2.t0, e.2.log2n)) := congrArg (·.1) h
  intro e he
  obtain ⟨f, hf, hfe⟩ := List.mem_map.mp (hp ▸ List.mem_map_of_mem he)
  simp only [Prod.mk.injEq] at hfe
  have := hm f hf
  rw [partsMiss, hfe.2.1, hfe.2.2] at this
  exact this

theorem exePartBind_apart {r : CmdRef} {v : Nat} : Apart s (exePartBind s r v) := by
  unfold exePartBind
  extract_lets c t0 log2n p s1 s2
  split
  · exact .of_placed finishCmd_placed
  next e =>
    obtain ⟨hend, hfree⟩ := bind_free e
    have h2 : placed (setOwner s2 p true c) = placed s := by simp [s2, s1]
    have hadd : Apart s (partAdd (setOwner s2 p true c) p) :=
      (partAdd_apart hend (partsMiss_congr h2 (partsMiss_of_free hfree))).since h2
    exact hadd.then (finishCmd_placed.trans oppBound_placed)

theorem runReady_apart {r : CmdRef} {ok : Nat → Bool} {exe : State → CmdRef → Nat → State} (hexe : ∀ s x y, Apart s (exe s x y)) :
    Apart s (runReady s r ok exe) := by
  unfold runReady
  split
  · exact .refl
  · exact .ite (hexe _ _ _) .refl

theorem ringRow_apart {ctx qid : Nat} {ok : Nat → Bool} {exe : State → CmdRef → Nat → State} (hexe : ∀ s x y, Apart s (exe s x y)) :
    Apart s (ringRow ctx qid ok exe s) :=
  (runReady_apart hexe).since queueRead_placed

theorem needFw_apart {exe : State → CmdRef → Nat → State} {r : CmdRef} {v : Nat} (hexe : ∀ s x y, Apart s (exe s x y)) :
    Apart s (needFw exe s r v) :=
  .ite (hexe _ _ _) (.ite (.of_placed finishCmd_placed) .refl)

theorem execPartBind_apart {ctx qid : Nat} : ApartOut s (execPartBind ctx qid s) :=
  .next (ringRow_apart fun _ _ _ => needFw_apart fun _ _ _ => exePartBind_apart)

theorem execTileClearDone_apart {t0 : Nat} : ApartOut s (execTileClearDone t0 s) := by
  unfold execTileClearDone
  split
  · exact .next .refl
  · extract_lets s1 _ _ s2
    refine .ite (.next .refl) (.next ?_)
    have h1 : placed s1 = placed s := by simp [s1]
    have hdel : Apart s1 { s1 with tl := { s1.tl with parts := mapDel s1.tl.parts t0 } } := by
      refine ⟨fun w => ?_, And.intro⟩
      obtain ⟨ha, hk⟩ := partsWf_iff.mp w
      exact partsWf_iff.mpr ⟨partsApart_filter _ ha, fun e he => hk e (List.mem_of_mem_filter he)⟩
    have h2 : Apart s s2 := (hdel.since h1).then (postPartFree_placed.trans (placed_congr rfl rfl rfl))
    exact h2.then (placed_foldl fun _ _ => finishJob_placed)

/-! ### Substitution -/

theorem substSwitch_apart {c t : Nat} (h : t / 16 = c) : Apart s (substSwitch s c t) :=
  ⟨id, fun p r => ⟨substSwitch_phys h ▸ p.swap (Nat.mod_lt _ (by decide)), r⟩⟩

theorem substLTile_cluster {c l : Nat} : substLTile c l / 16 = c := by
  unfold substLTile
  omega

theorem substCold_apart {c l : Nat} : Apart s (substCold s c (substLTile c l)) :=
  (substSwitch_apart substLTile_cluster).then fatalOneAt_placed

theorem substOpen_apart {c ltile mode : Nat} {retireOld : Bool} : Apart s (substOpen s c ltile mode retireOld) := by
  unfold substOpen
  extract_lets
  split
  · exact .of_placed (substSet_placed.trans substBackoff_placed)
  next e =>
    extract_lets _ s2
    have h2 : placed s2 = placed s := substOpenDone_placed.trans (txnOpen_placed e)
    exact .ite (.of_placed (substSet_placed.trans h2)) ((substCold_apart.since (substTxnDone_placed.trans h2)).then substSet_placed)

theorem execSubstGo_apart {c : Nat} {w : Writer} {ltile mode : Nat} {retireOld : Bool} :
    ApartOut s (execSubstGo c w ltile mode retireOld s) := by
  unfold execSubstGo
  refine .ite (.next .refl) ?_
  extract_lets _ s'
  have hs : placed s' = placed s := placed_congr rfl rfl rfl
  split
  · exact .next (.of_placed (substSet_placed.trans (substOpenDone_placed.trans hs)))
  · exact .next (substOpen_apart.since hs)

theorem substRetry_apart {c : Nat} : Apart s (substRetry s c) := by
  unfold substRetry
  refine .ite .refl ?_
  split
  · exact .of_placed (substSet_placed.trans substOpenDone_placed)
  · exact substOpen_apart.since outUpd_placed

theorem execLiveSubstCommit_apart {c : Nat} {ok : Bool} : ApartOut s (execLiveSubstCommit c ok s) := by
  unfold execLiveSubstCommit
  extract_lets
  split
  · exact .ite (.next (.of_placed txnAbort_placed)) (.next ((substSwitch_apart substLTile_cluster).then
      ((placed_foldl fun _ _ => reqDeliver_placed).trans (substSet_placed.trans substCommit_placed))))
  · exact .next .refl

theorem execRequestReissue_apart {u : UnitId} {tag : Nat} : ApartOut s (execRequestReissue u tag s) := by
  unfold execRequestReissue
  split
  · refine .ite (.next .refl) ?_
    split
    · exact .ite (.next substRetry_apart) (.next (.of_placed reissue_placed))
    · exact .next (.of_placed reissue_placed)
  · exact .next .refl

/-! ### Flash records, power and boot -/

theorem recordSubst_apart {e : Nat × Subst} : Apart s (recordSubst s e) := by
  unfold recordSubst
  extract_lets c x s1
  have h1 : Apart s s1 := .ite (substSwitch_apart substLTile_cluster) .refl
  exact .ite (h1.then unitSet_placed) h1

theorem saveRecords_recs (p : SlotsApart s.un.phys) (r : SlotsApart s.fw.recs.phys) :
    SlotsApart (saveRecords s).fw.recs.phys := by
  have h1 : Apart s (s.un.subst.foldl recordSubst s) := .foldl fun _ _ => recordSubst_apart
  have hr : (saveRecords s).fw.recs.phys =
      if decide (s.fw.boot ≠ 15) && decide (11 ≤ s.fw.boot) then (s.un.subst.foldl recordSubst s).un.phys else s.fw.recs.phys := rfl
  rw [hr]
  split
  · exact (h1.slots p r).1
  · exact r

theorem railsOff_apart {aon : Bool} : Apart s (railsOff s aon) := .blank rfl rfl saveRecords_recs

theorem coldReset_placed {split : Bool} : placed (coldReset s split) = placed s := by
  unfold coldReset
  extract_lets f _ _ _ s1 s2 s3
  have h1 : placed s1 = placed s := placed_congr rfl rfl rfl
  have h3 : placed s3 = placed s := journalAdd_placed.trans ((fwSet_placed_of rfl).trans h1)
  exact alertEdge_placed.trans (placed_ite_of (emergOn_placed.trans h3) h3)

theorem bootSubst_apart {u : UnitId} : Apart s (bootSubst s u) := by
  unfold bootSubst
  split
  · exact .ite (.of_placed unitStateTo_placed) ((substSwitch_apart rfl).then unitStateTo_placed)
  · exact .of_placed unitStateTo_placed
  · exact .refl

/-- Boot sets the pages on the slots that the flash records name (R418). -/
theorem slots_of_recs_apart : Apart s { s with un := { s.un with phys := s.fw.recs.phys } } := ⟨id, fun _ r => ⟨r, r⟩⟩

theorem bootTiles_apart {m : StepMode} {x : BootStep} : Apart s (bootTiles s m x) := by
  unfold bootTiles
  extract_lets s1 _ s2 s3 s4
  have h1 : placed s1 = placed s := bootUnits_placed
  have h2 : Apart s s2 := Apart.since slots_of_recs_apart h1
  have h3 : Apart s s3 := by
    refine h2.then (placed_foldl fun _ _ => ?_)
    split
    · exact unitStateTo_placed
    · rfl
  have h4 : Apart s s4 := by
    dsimp only [s4]
    split
    · exact h3
    · exact h3.trans (.foldl fun _ _ => bootSubst_apart)
    · exact h3.then (placed_foldl fun _ _ => unitStateTo_placed)
  exact h4.then ((placed_foldl fun _ _ => bootTile_placed).trans (placed_foldl fun _ _ => bootTile_placed))

theorem stepEffect_apart {k : Nat} {m : StepMode} {x : BootStep} : Apart s (stepEffect s k m x) := by
  unfold stepEffect
  split
  · exact .of_placed (placed_congr rfl rfl rfl)
  · exact .of_placed bootKeys_placed
  · exact .ite .refl (.of_placed bootRestoreKeys_placed)
  · exact .of_placed (placed_congr rfl rfl rfl)
  · exact .of_placed bootMemory_placed
  · exact .of_placed bootMemory_placed
  · exact .of_placed bootUnits_placed
  · exact bootTiles_apart
  · exact .of_placed bootPorts_placed
  · exact .of_placed bootHost_placed
  · exact .of_placed bootEnd_placed
  · exact .refl

theorem bootRestart_apart : Apart s (bootRestart s) := .blank rfl rfl saveRecords_recs

theorem bootFail_apart {k : Nat} : Apart s (bootFail s k) := by
  unfold bootFail
  extract_lets _ _ s1
  have h1 : Apart s s1 := bootRestart_apart.since (fwSet_placed_of rfl)
  exact .ite h1 (.ite (h1.then (alertEdge_placed.trans (fwSet_placed_of rfl))) (h1.then (journalAdd_placed.trans (fwSet_placed_of rfl))))

theorem bootOne_apart {x : BootStep} : Apart s (bootOne s x) := by
  unfold bootOne
  extract_lets k m s0 s1 st s2 s3
  have h0 : placed s0 = placed s := by
    dsimp only [s0]
    clear_value m
    split
    · rfl
    · exact degrade_placed.trans journalAdd_placed
    · exact degrade_placed.trans journalAdd_placed
  have h2 : placed s2 = placed s := journalAdd_placed.trans (journalAdd_placed.trans h0)
  have h3 : Apart s2 s3 := stepEffect_apart
  exact Apart.since (.ite bootFail_apart (h3.then (alertEdge_placed.trans (fwSet_placed_of rfl)))) h2

theorem bootGo_apart {steps : List BootStep} : Apart s (bootGo steps s) := by
  induction steps generalizing s with
  | nil => exact .refl
  | cons x r ih => exact .ite .refl (bootOne_apart.trans ih)

theorem execBootWatchdog_apart {steps : List BootStep} : ApartOut s (execBootWatchdog steps s) :=
  .ite (.next .refl) (.next (bootFail_apart.trans bootGo_apart))

theorem execRcvGo_apart {w : Writer} {v : W32} {steps : List BootStep} : ApartOut s (execRcvGo w v steps s) := by
  unfold execRcvGo
  refine .ite (.next .refl) ?_
  extract_lets _ _ _ s0 _ s1
  have h0 : placed s0 = placed s := placed_congr rfl rfl rfl
  have h1 : placed s1 = placed s := imgSlotSet_placed.trans h0
  refine .ite (.next (.of_placed h0)) ?_
  split
  · exact .next (.of_placed h1)
  · extract_lets s2 f s3
    have h2 : placed s2 = placed s := imgSlotSet_placed.trans h1
    have h3 : placed s3 = placed s := (placed_congr rfl rfl rfl).trans h2
    exact .next (bootGo_apart.since (alertEdge_placed.trans (journalAdd_placed.trans h3)))

theorem execInputPowerOn_apart {split : Bool} {steps : List BootStep} : ApartOut s (execInputPowerOn split steps s) :=
  .ite (.next .refl) (.ite (.next bootGo_apart) (.ite (.next .refl) (.next ((railsOff_apart.then coldReset_placed).trans bootGo_apart))))

theorem execUvlo_apart : ApartOut s (execUvlo s) := .next (railsOff_apart.then pwSet_placed)

theorem thermalTrip_apart {cause : Nat} : Apart s (thermalTrip s cause) :=
  (railsOff_apart.since pwSet_placed).then alertEdge_placed

theorem execThermalReading_apart {r : Thermal} : ApartOut s (execThermalReading r s) := by
  unfold execThermalReading
  refine .ite (.next (.ite (.of_placed readAon_placed) .refl)) ?_
  extract_lets s1
  have h1 : placed s1 = placed s := readEmerg_placed.trans (readMargin_placed.trans readAll_placed)
  exact .next (.ite (.of_placed h1) (thermalTrip_apart.since h1))

theorem execEmergDuration_apart {src : Nat} : ApartOut s (execEmergDuration src s) := by
  unfold execEmergDuration
  refine .ite (.next .refl) ?_
  split
  · exact .of_placed (by simp)
  · exact .of_placed (by simp)
  · exact .of_placed (by simp)
  · exact .of_placed (by simp)
  · exact .of_placed (by simp)
  · exact .next (.ite thermalTrip_apart .refl)
  · exact .next .refl

theorem execModRstLow_apart : ApartOut s (execModRstLow s) :=
  .next ((railsOff_apart (aon := false)).since lcProgram_placed |>.then (placed_congr rfl rfl rfl))

theorem execModRstRise_apart {split : Bool} {steps : List BootStep} {waited : Bool} :
    ApartOut s (execModRstRise split steps waited s) := by
  unfold execModRstRise
  refine .ite (.next .refl) ?_
  extract_lets _ s1
  have h1 : placed s1 = placed s := placed_congr rfl rfl rfl
  exact .next (.ite (.of_placed h1) (bootGo_apart.since (coldReset_placed.trans h1)))

theorem execPerstDeassert_apart {port : Nat} {steps : List BootStep} : ApartOut s (execPerstDeassert port steps s) :=
  .ite (.next .refl) (.next (.ite (bootGo_apart.since perstSet_placed) (.of_placed perstSet_placed)))

theorem execFlashOwn_apart {level : Bool} {steps : List BootStep} : ApartOut s (execFlashOwn level steps s) :=
  .next (.ite (bootGo_apart.since (placed_congr rfl rfl rfl)) (.of_placed (placed_congr rfl rfl rfl)))

/-! ### Every command -/

theorem exec_apart : (i : Instr) → ApartOut s (exec i s)
  | .unitNop .. => .next .refl
  | .quiesce .. => .of_placed execQuiesce_placed
  | .resume .. => .of_placed execResume_placed
  | .reset .. => .of_placed execReset_placed
  | .sleep .. => .of_placed execSleep_placed
  | .retire .. => .of_placed execRetire_placed
  | .unitQuiesced .. => .of_placed execUnitQuiesced_placed
  | .resetDone .. => .of_placed execResetDone_placed
  | .wakeDone .. => .of_placed execWakeDone_placed
  | .fatalInternalError .. => .of_placed execFatalInternalError_placed
  | .requestArrival .. => .of_placed execRequestArrival_placed
  | .replyArrival .. => .of_placed execReplyArrival_placed
  | .requestReissue .. => execRequestReissue_apart
  | .quiesceDrainLimit .. => .of_placed execQuiesceDrainLimit_placed
  | .requestSoftTimeout .. => .of_placed execRequestSoftTimeout_placed
  | .requestHardTimeout .. => .of_placed execRequestHardTimeout_placed
  | .transactionTimeout .. => .of_placed execTransactionTimeout_placed
  | .txnEnrol .. => .of_placed execTxnEnrol_placed
  | .txnPrepare .. => .of_placed execTxnPrepare_placed
  | .txnVote .. => .of_placed execTxnVote_placed
  | .txnCommit .. => .of_placed execTxnCommit_placed
  | .txnAck .. => .of_placed execTxnAck_placed
  | .txnAbort .. => .of_placed execTxnAbort_placed
  | .decisionQuery .. => .of_placed execDecisionQuery_placed
  | .unitEvtWrite .. => .of_placed execUnitEvtWrite_placed
  | .errlogClear .. => .of_placed execErrlogClear_placed
  | .registerWrite .. => .of_placed execRegisterWrite_placed
  | .substGo .. => execSubstGo_apart
  | .substCancel .. => .of_placed execSubstCancel_placed
  | .liveSubstStart .. => .of_placed execLiveSubstStart_placed
  | .liveSubstCommit .. => execLiveSubstCommit_apart
  | .substClearDone .. => .of_placed execSubstClearDone_placed
  | .pendingStart .. => .of_placed execPendingStart_placed
  | .wload .. => .of_placed execWload_placed
  | .stream .. => .of_placed execStream_placed
  | .drain .. => .of_placed execDrain_placed
  | .batchAppend .. => .of_placed execBatchAppend_placed
  | .batchRelease .. => .of_placed execBatchRelease_placed
  | .batchDeadline .. => .of_placed execBatchDeadline_placed
  | .batchRetire .. => .of_placed execBatchRetire_placed
  | .move .. => .of_placed execMove_placed
  | .prefetch .. => .of_placed execPrefetch_placed
  | .streamCmdDone .. => .of_placed execStreamCmdDone_placed
  | .tdload .. => .of_placed execTdload_placed
  | .tdbase .. => .of_placed execTdbase_placed
  | .lstart .. => .of_placed execLstart_placed
  | .lstartS .. => .of_placed execLstartS_placed
  | .call .. => .of_placed execCall_placed
  | .ret .. => .of_placed execRet_placed
  | .halt .. => .of_placed execHalt_placed
  | .addi .. => .of_placed execAddi_placed
  | .scalarAdd .. => .of_placed execScalarAdd_placed
  | .scalarSub .. => .of_placed execScalarSub_placed
  | .scalarMul .. => .of_placed execScalarMul_placed
  | .sAnd .. => .of_placed execSAnd_placed
  | .sOr .. => .of_placed execSOr_placed
  | .sXor .. => .of_placed execSXor_placed
  | .shli .. => .of_placed execShli_placed
  | .shri .. => .of_placed execShri_placed
  | .srai .. => .of_placed execSrai_placed
  | .scalarMin .. => .of_placed execScalarMin_placed
  | .scalarMax .. => .of_placed execScalarMax_placed
  | .li .. => .of_placed execLi_placed
  | .sel .. => .of_placed execSel_placed
  | .sld .. => .of_placed execSld_placed
  | .sst .. => .of_placed execSst_placed
  | .xset .. => .of_placed execXset_placed
  | .xaddi .. => .of_placed execXaddi_placed
  | .xadd .. => .of_placed execXadd_placed
  | .xcopy .. => .of_placed execXcopy_placed
  | .xget .. => .of_placed execXget_placed
  | .wait .. => .of_placed execWait_placed
  | .barrier .. => .of_placed execBarrier_placed
  | .barrierArrive .. => .of_placed execBarrierArrive_placed
  | .tokenDec .. => .of_placed execTokenDec_placed
  | .flagclr .. => .of_placed execFlagclr_placed
  | .cfg .. => .of_placed execCfg_placed
  | .abortStep .. => .of_placed execAbortStep_placed
  | .stepOpen .. => .of_placed execStepOpen_placed
  | .stepCommit .. => .of_placed execStepCommit_placed
  | .coll .. => .of_placed execColl_placed
  | .waitTimeout .. => .of_placed execWaitTimeout_placed
  | .plateFetchArrive .. => .of_placed execPlateFetchArrive_placed
  | .runComplete .. => .of_placed execRunComplete_placed
  | .vcopy .. => .of_placed execVcopy_placed
  | .fills .. => .of_placed execFills_placed
  | .iadd .. => .of_placed execIadd_placed
  | .iand .. => .of_placed execIand_placed
  | .ior .. => .of_placed execIor_placed
  | .ixor .. => .of_placed execIxor_placed
  | .cmplt .. => .of_placed execCmplt_placed
  | .cmpeq .. => .of_placed execCmpeq_placed
  | .select .. => .of_placed execSelect_placed
  | .vadd .. => .of_placed execVadd_placed
  | .vsub .. => .of_placed execVsub_placed
  | .vmul .. => .of_placed execVmul_placed
  | .fma .. => .of_placed execFma_placed
  | .axpby .. => .of_placed execAxpby_placed
  | .axpby2 .. => .of_placed execAxpby2_placed
  | .vmin .. => .of_placed execVmin_placed
  | .vmax .. => .of_placed execVmax_placed
  | .scale .. => .of_placed execScale_placed
  | .add64 .. => .of_placed execAdd64_placed
  | .cvt .. => .of_placed execCvt_placed
  | .updw .. => .of_placed execUpdw_placed
  | .div .. => .of_placed execDiv_placed
  | .sqrt .. => .of_placed execSqrt_placed
  | .rsqrt .. => .of_placed execRsqrt_placed
  | .vexp .. => .of_placed execVexp_placed
  | .vlog .. => .of_placed execVlog_placed
  | .tanh .. => .of_placed execTanh_placed
  | .sigmoid .. => .of_placed execSigmoid_placed
  | .silu .. => .of_placed execSilu_placed
  | .gelu .. => .of_placed execGelu_placed
  | .rsum .. => .of_placed execRsum_placed
  | .rsumsq .. => .of_placed execRsumsq_placed
  | .rmax .. => .of_placed execRmax_placed
  | .rmin .. => .of_placed execRmin_placed
  | .rmaxabs .. => .of_placed execRmaxabs_placed
  | .rndu .. => .of_placed execRndu_placed
  | .dropout .. => .of_placed execDropout_placed
  | .rndb .. => .of_placed execRndb_placed
  | .monitorMergeDone .. => .of_placed execMonitorMergeDone_placed
  | .monHitClear .. => .of_placed execMonHitClear_placed
  | .launchStart .. => .of_placed execLaunchStart_placed
  | .send .. => .of_placed execSend_placed
  | .recv .. => .of_placed execRecv_placed
  | .reduce .. => .of_placed execReduce_placed
  | .drupeletCopy .. => .of_placed execDrupeletCopy_placed
  | .lanLoop .. => .of_placed execLanLoop_placed
  | .countx .. => .of_placed execCountx_placed
  | .countr .. => .of_placed execCountr_placed
  | .endProg .. => .of_placed execEndProg_placed
  | .launchComplete .. => .of_placed execLaunchComplete_placed
  | .dataFrame .. => .of_placed execDataFrame_placed
  | .creditFrame .. => .of_placed execCreditFrame_placed
  | .ackFrame .. => .of_placed execAckFrame_placed
  | .nackFrame .. => .of_placed execNackFrame_placed
  | .probe .. => .of_placed execProbe_placed
  | .probeRsp .. => .of_placed execProbeRsp_placed
  | .joinMsg .. => .of_placed execJoinMsg_placed
  | .keyconf .. => .of_placed execKeyconf_placed
  | .voteMsg .. => .of_placed execVoteMsg_placed
  | .decision .. => .of_placed execDecision_placed
  | .vack .. => .of_placed execVack_placed
  | .closed .. => .of_placed execClosed_placed
  | .dquery .. => .of_placed execDquery_placed
  | .failMsg .. => .of_placed execFailMsg_placed
  | .goneMsg .. => .of_placed execGoneMsg_placed
  | .mkpdu .. => .of_placed execMkpdu_placed
  | .probeInterval .. => .of_placed execProbeInterval_placed
  | .ackInterval .. => .of_placed execAckInterval_placed
  | .retransmissionTimeout .. => .of_placed execRetransmissionTimeout_placed
  | .unreachableLimit .. => .of_placed execUnreachableLimit_placed
  | .fabricLinkUp .. => .of_placed execFabricLinkUp_placed
  | .fabricLinkLoss .. => .of_placed execFabricLinkLoss_placed
  | .allowWrite .. => .of_placed execAllowWrite_placed
  | .uctCfgWrite .. => .of_placed execUctCfgWrite_placed
  | .fpCtlWrite .. => .of_placed execFpCtlWrite_placed
  | .fpCakWrite .. => .of_placed execFpCakWrite_placed
  | .metadataEvict .. => .of_placed execMetadataEvict_placed
  | .patrolScrub .. => .of_placed execPatrolScrub_placed
  | .rowRemapDone .. => .of_placed execRowRemapDone_placed
  | .mcRemapCmd .. => .of_placed execMcRemapCmd_placed
  | .mcEvac .. => .of_placed execMcEvac_placed
  | .migrationCopyDone .. => .of_placed execMigrationCopyDone_placed
  | .frameDrained .. => .of_placed execFrameDrained_placed
  | .frameScrubDone .. => .of_placed execFrameScrubDone_placed
  | .farBlockReinit .. => .of_placed execFarBlockReinit_placed
  | .encAlarmClear .. => .of_placed execEncAlarmClear_placed
  | .hdmAccess .. => .of_placed execHdmAccess_placed
  | .snoop .. => .next .refl
  | .atsInvalidate .. => .of_placed execAtsInvalidate_placed
  | .numvfsWrite .. => .of_placed execNumvfsWrite_placed
  | .vfFlr .. => .of_placed execVfFlr_placed
  | .pfFlr .. => .of_placed execPfFlr_placed
  | .vfEnableClear .. => .of_placed execVfEnableClear_placed
  | .bmeClear .. => .of_placed execBmeClear_placed
  | .mseClear .. => .of_placed execMseClear_placed
  | .hostLinkDown .. => .of_placed execHostLinkDown_placed
  | .viral .. => .of_placed execViral_placed
  | .completionTimeout .. => .of_placed execCompletionTimeout_placed
  | .ideIntegrityFail .. => .of_placed execIdeIntegrityFail_placed
  | .ideKeyProgram .. => .of_placed execIdeKeyProgram_placed
  | .lockInterfaceRequest .. => .of_placed execLockInterfaceRequest_placed
  | .stopInterface .. => .of_placed execStopInterface_placed
  | .sqTail .. => .of_placed execSqTail_placed
  | .cqHead .. => .of_placed execCqHead_placed
  | .evqHead .. => .of_placed execEvqHead_placed
  | .ringNop .. => .of_placed execRingNop_placed
  | .identify .. => .of_placed execIdentify_placed
  | .ifNegotiate .. => .of_placed execIfNegotiate_placed
  | .ctxCreate .. => .of_placed execCtxCreate_placed
  | .ctxDestroy .. => .of_placed execCtxDestroy_placed
  | .vfBind .. => .of_placed execVfBind_placed
  | .vfUnbind .. => .of_placed execVfUnbind_placed
  | .dmaWindow .. => .of_placed execDmaWindow_placed
  | .farWindow .. => .of_placed execFarWindow_placed
  | .objShare .. => .of_placed execObjShare_placed
  | .objCreate .. => .of_placed execObjCreate_placed
  | .objRef .. => .of_placed execObjRef_placed
  | .objUnref .. => .of_placed execObjUnref_placed
  | .objQuery .. => .of_placed execObjQuery_placed
  | .queueCreate .. => .of_placed execQueueCreate_placed
  | .abortQueues .. => .of_placed execAbortQueues_placed
  | .fenceAbandon .. => .of_placed execFenceAbandon_placed
  | .memMap .. => .of_placed execMemMap_placed
  | .memUnmap .. => .of_placed execMemUnmap_placed
  | .memRelease .. => .of_placed execMemRelease_placed
  | .memReserve .. => .of_placed execMemReserve_placed
  | .memRedirClear .. => .of_placed execMemRedirClear_placed
  | .dmaCopy .. => .of_placed execDmaCopy_placed
  | .dmaFill .. => .of_placed execDmaFill_placed
  | .plateLoad .. => .of_placed execPlateLoad_placed
  | .run .. => .of_placed execRun_placed
  | .stepConfig .. => .of_placed execStepConfig_placed
  | .groupJoin .. => .of_placed execGroupJoin_placed
  | .groupLeave .. => .of_placed execGroupLeave_placed
  | .fenceWaitRelease .. => .of_placed execFenceWaitRelease_placed
  | .commandComplete .. => .of_placed execCommandComplete_placed
  | .objRelease .. => .of_placed execObjRelease_placed
  | .evOverflow .. => .of_placed execEvOverflow_placed
  | .partBind .. => execPartBind_apart
  | .partUnbind .. => .of_placed execPartUnbind_placed
  | .partBurnGo .. => .of_placed execPartBurnGo_placed
  | .tileClearDone .. => execTileClearDone_apart
  | .contextBurnish .. => .of_placed execContextBurnish_placed
  | .burnStuck .. => .of_placed execBurnStuck_placed
  | .shardLoad .. => .of_placed execShardLoad_placed
  | .shardCheck .. => .of_placed execShardCheck_placed
  | .shardRelease .. => .of_placed execShardRelease_placed
  | .shardPeriodicCheck .. => .of_placed execShardPeriodicCheck_placed
  | .ckptExport .. => .of_placed execCkptExport_placed
  | .ckptImport .. => .of_placed execCkptImport_placed
  | .partQuery .. => .of_placed execPartQuery_placed
  | .keyGenerate .. => .of_placed execKeyGenerate_placed
  | .keyDerive .. => .of_placed execKeyDerive_placed
  | .keyImport .. => .of_placed execKeyImport_placed
  | .keyDestroy .. => .of_placed execKeyDestroy_placed
  | .keyQuery .. => .of_placed execKeyQuery_placed
  | .keyAttest .. => .of_placed execKeyAttest_placed
  | .measReport .. => .of_placed execMeasReport_placed
  | .attMsg .. => .of_placed execAttMsg_placed
  | .getInfo .. => .of_placed execGetInfo_placed
  | .mbOpen .. => .of_placed execMbOpen_placed
  | .mbFinish .. => .of_placed execMbFinish_placed
  | .mbReport .. => .of_placed execMbReport_placed
  | .mbClose .. => .of_placed execMbClose_placed
  | .getVersion .. => .of_placed execGetVersion_placed
  | .getCapabilities .. => .of_placed execGetCapabilities_placed
  | .negotiateAlgorithms .. => .of_placed execNegotiateAlgorithms_placed
  | .getDigests .. => .of_placed execGetDigests_placed
  | .getCertificate .. => .of_placed execGetCertificate_placed
  | .challenge .. => .of_placed execChallenge_placed
  | .getMeasurements .. => .of_placed execGetMeasurements_placed
  | .keyExchange .. => .of_placed execKeyExchange_placed
  | .spdmFinish .. => .of_placed execSpdmFinish_placed
  | .heartbeat .. => .of_placed execHeartbeat_placed
  | .keyUpdate .. => .of_placed execKeyUpdate_placed
  | .endSession .. => .of_placed execEndSession_placed
  | .vendorDefinedRequest .. => .of_placed (spdmActive_placed fun _ => spdmError_placed)
  | .rngFail => .of_placed execRngFail_placed
  | .lcTransition .. => .of_placed execLcTransition_placed
  | .lcUnlock .. => .of_placed execLcUnlock_placed
  | .lcComplete .. => .of_placed execLcComplete_placed
  | .fwStageBegin .. => .of_placed execFwStageBegin_placed
  | .fwStageData .. => .of_placed execFwStageData_placed
  | .fwVerify .. => .of_placed execFwVerify_placed
  | .fwArm .. => .of_placed execFwArm_placed
  | .fwCancel .. => .of_placed execFwCancel_placed
  | .fwQuery .. => .of_placed execFwQuery_placed
  | .fwArbRaise .. => .of_placed execFwArbRaise_placed
  | .fwSettings .. => .of_placed execFwSettings_placed
  | .actHoldoff => .of_placed execActHoldoff_placed
  | .actRetry .. => .of_placed execActRetry_placed
  | .bootWatchdog .. => execBootWatchdog_apart
  | .mgmtWatchdog .. => .of_placed execMgmtWatchdog_placed
  | .rcvGo .. => execRcvGo_apart
  | .inputPowerOn .. => execInputPowerOn_apart
  | .pwrWarnAssert .. => .of_placed execPwrWarnAssert_placed
  | .pwrWarnDeassert => .of_placed execPwrWarnDeassert_placed
  | .uvlo => execUvlo_apart
  | .limiterStep .. => .of_placed execLimiterStep_placed
  | .powerEstimate .. => .of_placed execPowerEstimate_placed
  | .thermalReading .. => execThermalReading_apart
  | .emergDuration .. => execEmergDuration_apart
  | .pwrCapWrite .. => .of_placed execPwrCapWrite_placed
  | .pwrOppWrite .. => .of_placed execPwrOppWrite_placed
  | .agePredWrite .. => .of_placed execAgePredWrite_placed
  | .tripCauseClear .. => .of_placed execTripCauseClear_placed
  | .apportion .. => .of_placed execApportion_placed
  | .meterPeriodic .. => .of_placed execMeterPeriodic_placed
  | .getReading .. => .of_placed execGetReading_placed
  | .getLog .. => .of_placed execGetLog_placed
  | .getWrap .. => .of_placed execGetWrap_placed
  | .getCert .. => .of_placed execGetCert_placed
  | .meterSeal .. => .of_placed execMeterSeal_placed
  | .meterUnseal .. => .of_placed execMeterUnseal_placed
  | .calibrate .. => .of_placed execCalibrate_placed
  | .tamper .. => .of_placed execTamper_placed
  | .mirrorUpdate => .of_placed execMirrorUpdate_placed
  | .meterLinkFail => .of_placed execMeterLinkFail_placed
  | .modRstLow => execModRstLow_apart
  | .modRstRise .. => execModRstRise_apart
  | .perstAssert .. => .of_placed execPerstAssert_placed
  | .perstDeassert .. => execPerstDeassert_apart
  | .flashOwn .. => execFlashOwn_apart
  | .i3cRead .. => .of_placed execI3cRead_placed
  | .extest .. => .of_placed execExtest_placed
  | .idcode => .of_placed execIdcode_placed
  | .samplePreload .. => .of_placed execSamplePreload_placed
  | .lcAccess .. => .of_placed execLcAccess_placed
  | .jtagDebug .. => .of_placed execJtagDebug_placed
  | .bypass => .of_placed execBypass_placed
  | .hostLinkUp .. => .of_placed execHostLinkUp_placed
  | .startInterfaceRequest .. => .of_placed execStartInterfaceRequest_placed
  | .frozenConfigurationWrite .. => .of_placed execFrozenConfigurationWrite_placed
  | .onlineRetraining .. => .of_placed execOnlineRetraining_placed
  | .mkaLivePeerLoss .. => .of_placed execMkaLivePeerLoss_placed
  | .filteredFrame .. => .of_placed execFilteredFrame_placed
  | .entropySourcePass => .of_placed execEntropySourcePass_placed
  | .meterPowerDown .. => .of_placed execMeterPowerDown_placed
  | .meterPowerUp .. => .of_placed execMeterPowerUp_placed
  | .correctableLinkError .. => .of_placed execCorrectableLinkError_placed
  | .dieVoltageReached .. => .of_placed execDieVoltageReached_placed
end

/-- Settles O60: each command leads from states where both stay apart to such states, and taking it from the queue moves neither. -/
theorem partitionsAndSlotsStayApart : Obligations.PartitionsAndSlotsStayApart := by
  have h {s t : State} (e : step s = .next t) : Apart s t := by
    unfold step at e
    split at e
    · cases e
      exact .refl
    · exact (exec_apart _ t e).since (placed_congr rfl rfl rfl)
  refine ⟨fun s t w e => (h e).parts w, fun s t p r e => ?_⟩
  obtain ⟨hp, hr⟩ := (h e).slots (physApart_iff.mp p) (recsApart_iff.mp r)
  exact ⟨physApart_iff.mpr hp, recsApart_iff.mpr hr⟩

end Sys2Proof.Machine
end

section
/-! PROOF. Unit commands, and the event and error registers of units (O2, O5, O54). -/
namespace Sys2Proof.Machine
open Sys2Proof

/-! ### Units and their pages -/

theorem EvtFrame.onlyUnits {s t : State} (h : EvtFrame s t) : onlyUnits s t := by
  obtain ⟨_, _, _, rfl⟩ := h
  rfl

theorem EvtFrame.rg_eq {s t : State} (h : EvtFrame s t) : t.rg = { s.rg with msix := t.rg.msix } := by
  obtain ⟨_, _, _, rfl⟩ := h
  rfl

theorem unitsKept_unitSet (s : State) (u : UnitId) (x : Unit) : unitsKept s (unitSet s u x) u := fun _ h => unitAt_unitSet_ne s x h

theorem unitsKept_refl (s : State) (u : UnitId) : unitsKept s s u := fun _ _ => rfl

theorem unitsKept.trans {s t r : State} {u : UnitId} (h : unitsKept s t u) (k : unitsKept t r u) : unitsKept s r u :=
  fun v hv => (k v hv).trans (h v hv)

theorem unitsKept_irqEdge (s : State) (u : UnitId) : unitsKept s (irqEdge s) u := fun v _ => unitAt_irqEdge s v

/-- Two units of one page read the same record, but for the state before any write. -/
theorem running_of_page {s : State} {u v : UnitId} (h : pageOf v = pageOf u) : (unitAt s v).running = (unitAt s u).running := by
  unfold unitAt
  rw [h]
  cases mapFind s.un.tab (pageOf u) with
  | none => cases u <;> cases v <;> rfl
  | some x => rfl

theorem ownedRunning_unitSet {s : State} {u : UnitId} {x : Unit} (hx : x.running = (unitAt s u).running) :
    ownedRunning (unitSet s u x) u = ownedRunning s u := by
  unfold ownedRunning
  refine congrArg (fun f => (u :: descendants s.hw u).any f) (funext fun d => ?_)
  by_cases h : pageOf d = pageOf u
  · rw [running_of_page h, running_of_page h, unitAt_unitSet_self, hx]
  · rw [unitAt_unitSet_ne s x h]

/-! ### The end of a unit command -/

theorem cmdDone_frame (s : State) (u : UnitId) (status : Nat) : EvtFrame s (cmdDone s u status) :=
  (unitSet_frame s u _).trans (irqEdge_frame _)

@[simp] theorem unitAt_cmdDone_self (s : State) (u : UnitId) (status : Nat) :
    unitAt (cmdDone s u status) u =
      { unitAt s u with cmdStatus := status, cmdBusy := false, cmd := none, evt := (unitAt s u).evt ||| 2 } := by
  simp [cmdDone, evtOr]

theorem unitsKept_cmdDone (s : State) (u : UnitId) (status : Nat) : unitsKept s (cmdDone s u status) u :=
  (unitsKept_unitSet s u _).trans (unitsKept_irqEdge _ u)

/-! ### What becomes of a command written to UNIT_CTL -/

/-- The unit's record once its command is accepted (R20). -/
def acceptedUnit (s : State) (u : UnitId) (w : Writer) (c : UCmd) : Unit :=
  { unitAt s u with cmdBusy := true, cmdSrc := srcCode w, cmd := some c, root := pageOf u, drainLog2 := s.un.tmo.toNat % 32 }

theorem ownedRunning_accepted (s : State) (u : UnitId) (w : Writer) (c : UCmd) :
    ownedRunning (unitSet s u (acceptedUnit s u w c)) u = ownedRunning s u :=
  ownedRunning_unitSet rfl

theorem exec_ctlCommand (c : UCmd) (u : UnitId) (w : Writer) (inc : Half) (s : State) :
    exec (ctlCommand c u w inc) s = .next (unitCmd s u w inc c) := by
  cases c <;> rfl

theorem unitCmd_unreached {s : State} {u : UnitId} {w : Writer} {inc : Half} {c : UCmd} (h : ctlReaches s u w = false) :
    unitCmd s u w inc c = s := by
  have h' : (!(present s.hw u) || !(mayWrite w) || !(bar0Unit s w u)) = true := by
    simpa only [ctlReaches, Bool.not_and, Bool.not_false] using congrArg Bool.not h
  rw [unitCmd, acceptCmd, if_pos h']

/-- R20: what a write that reaches the page leads to. -/
theorem unitCmd_reached {s : State} {u : UnitId} {w : Writer} {inc : Half} {c : UCmd} (h : ctlReaches s u w = true) :
    unitCmd s u w inc c =
      if (unitAt s u).cmdBusy then unitEvt s u 4
      else if !(bitOf (unitCmds u) (cmdBit c)) then cmdDone s u stDenied
      else if inc ≠ (unitAt s u).inc then cmdDone s u stStale
      else runCmd (unitSet s u (acceptedUnit s u w c)) u c := by
  have h' : ¬(!(present s.hw u) || !(mayWrite w) || !(bar0Unit s w u)) = true := by
    simpa only [ctlReaches, Bool.not_and, Bool.not_true, Bool.not_eq_true] using congrArg Bool.not h
  rw [unitCmd, acceptCmd, if_neg h']
  rfl

theorem unitCmd_denied {s : State} {u : UnitId} {w : Writer} {inc : Half} {c : UCmd} (h : ctlReaches s u w = true)
    (hb : (unitAt s u).cmdBusy = false) (hc : bitOf (unitCmds u) (cmdBit c) = false) : unitCmd s u w inc c = cmdDone s u stDenied := by
  simp [unitCmd_reached h, hb, hc]

theorem unitCmd_accepted {s : State} {u : UnitId} {w : Writer} {inc : Half} {c : UCmd} (h : ctlAccepted s u w inc c = true) :
    unitCmd s u w inc c = runCmd (unitSet s u (acceptedUnit s u w c)) u c := by
  simp only [ctlAccepted, Bool.and_eq_true, Bool.not_eq_true', decide_eq_true_eq] at h
  obtain ⟨⟨⟨hr, hb⟩, hc⟩, hi⟩ := h
  simp [unitCmd_reached hr, hb, hc, hi]

theorem cmdBusy_of_accepted {s : State} {u : UnitId} {w : Writer} {inc : Half} {c : UCmd} (h : ctlAccepted s u w inc c = true) :
    (unitAt s u).cmdBusy = false := by
  simp only [ctlAccepted, Bool.and_eq_true, Bool.not_eq_true'] at h
  exact h.1.1.2

/-- A command of a running partition's unit is refused but for QUIESCE and RESUME (R37). -/
theorem runCmd_owned {s : State} {u : UnitId} {c : UCmd} (hc : c = .reset ∨ c = .sleep ∨ c = .retire) (h : ownedRunning s u = true) :
    runCmd s u c = cmdDone s u stOwned := by
  obtain rfl | rfl | rfl := hc <;> simp [runCmd, h]

/-- R30: a start state that Table 2-2 does not list. -/
theorem runCmd_illegal {s : State} {u : UnitId} {c : UCmd} (h : startIllegal (unitAt s u).state c = true)
    (ho : c = .quiesce ∨ c = .resume ∨ ownedRunning s u = false) : runCmd s u c = cmdDone s u stIllegal := by
  have hno : c = .reset ∨ c = .sleep ∨ c = .retire → ownedRunning s u = false := by
    rintro (rfl | rfl | rfl) <;> simpa using ho
  cases c with
  | quiesce =>
    simp only [startIllegal, decide_eq_true_eq] at h
    simp [runCmd, h]
  | resume =>
    simp only [startIllegal, Bool.and_eq_true, decide_eq_true_eq] at h
    simp [runCmd, h]
  | reset =>
    have hno := hno (.inl rfl)
    simp only [startIllegal, Bool.or_eq_true, decide_eq_true_eq] at h
    obtain (h | h) | h := h <;> simp [runCmd, hno, h]
  | sleep =>
    have hno := hno (.inr (.inl rfl))
    simp only [startIllegal, decide_eq_true_eq] at h
    simp [runCmd, hno, h]
  | retire =>
    have hno := hno (.inr (.inr rfl))
    simp only [startIllegal, Bool.or_eq_true, decide_eq_true_eq] at h
    obtain (h | h) | h := h <;> simp [runCmd, hno, h]

/-- A command accepted and refused at once leaves the unit where it stood. -/
theorem refused_after_accept (s : State) (u : UnitId) (w : Writer) (c : UCmd) (status : Nat) :
    let t := cmdDone (unitSet s u (acceptedUnit s u w c)) u status
    cmdOver t u status ∧ (unitAt t u).state = (unitAt s u).state ∧ (unitAt t u).inc = (unitAt s u).inc ∧
      unitsKept s t u ∧ onlyUnits s t := by
  refine ⟨?_, ?_, ?_, (unitsKept_unitSet s u _).trans (unitsKept_cmdDone _ u status),
    ((unitSet_frame s u _).trans (cmdDone_frame _ u status)).onlyUnits⟩
  · simp [cmdOver]
  · simp [acceptedUnit]
  · simp [acceptedUnit]

/-- What a refusal before acceptance leaves. -/
theorem refused_at_once {s : State} {u : UnitId} (status : Nat) (hb : (unitAt s u).cmdBusy = false) :
    unitAt (cmdDone s u status) u = { unitAt s u with cmdStatus := status, cmd := none, evt := (unitAt s u).evt ||| 2 } ∧
      unitsKept s (cmdDone s u status) u ∧ onlyUnits s (cmdDone s u status) := by
  refine ⟨?_, unitsKept_cmdDone s u status, (cmdDone_frame s u status).onlyUnits⟩
  rw [unitAt_cmdDone_self, ← hb]

/-- Settles O2: `unitCmd_reached` gives the order of the refusals, `runCmd_owned` and `runCmd_illegal` the two after acceptance. -/
theorem unitCommandRefusals : Obligations.UnitCommandRefusals := by
  unfold Obligations.UnitCommandRefusals Answers Ignores
  simp only [exec_ctlCommand]
  refine ⟨fun c u w inc s hr => by rw [unitCmd_unreached hr],
    fun c u w inc s hr hb => ⟨_, rfl, ?_⟩,
    fun c u w inc s hr hb hc => ⟨_, rfl, ?_⟩,
    fun c u w inc s hr hb hc hi => ⟨_, rfl, ?_⟩,
    fun c u w inc s ha hc ho => ⟨_, rfl, ?_⟩,
    fun c u w inc s ha hi ho => ⟨_, rfl, ?_⟩⟩
  · rw [unitCmd_reached hr, if_pos hb]
    exact ⟨unitAt_unitEvt_self s u 4, fun v hv => unitAt_unitEvt_ne s 4 hv, (unitEvt_frame s u 4).onlyUnits⟩
  · rw [unitCmd_denied hr hb hc]
    exact refused_at_once stDenied hb
  · have hs : unitCmd s u w inc c = cmdDone s u stStale := by simp [unitCmd_reached hr, hb, hc, hi]
    rw [hs]
    exact refused_at_once stStale hb
  · rw [unitCmd_accepted ha, runCmd_owned hc ((ownedRunning_accepted s u w c).trans ho)]
    exact refused_after_accept s u w c stOwned
  · rw [unitCmd_accepted ha, runCmd_illegal (by rwa [unitAt_unitSet_self]) (by rwa [ownedRunning_accepted])]
    exact refused_after_accept s u w c stIllegal

/-- Settles O54: no bit of a service block's command field is set, so that each command ends before its start state is read. -/
theorem serviceBlocks : Obligations.ServiceBlocks := by
  unfold Obligations.ServiceBlocks Answers
  simp only [exec_ctlCommand]
  refine ⟨fun hw k => rfl, fun c k w inc s hr hb => ⟨_, rfl, ?_⟩⟩
  have hc : bitOf (unitCmds (.service k)) (cmdBit c) = false := by
    show bitOf 0 _ = false
    cases c <;> decide
  rw [unitCmd_denied hr hb hc]
  obtain ⟨hu, hk, ho⟩ := refused_at_once stDenied hb
  exact ⟨hu, hk, ho, (cmdDone_frame s _ stDenied).rg_eq⟩

/-! ### Event and error registers -/

/-- The registers take the write: a writer with access, and a page that software can write. -/
theorem registerGate {s : State} {u : UnitId} {w : Writer} :
    (!(present s.hw u) || !(mayWrite w) || !(bar0Unit s w u) || !(pageWritable u)) = !(ctlReaches s u w && pageWritable u) := by
  simp only [ctlReaches, Bool.not_and]

/-- The interrupt's level that a write of UNIT_EVT or UNIT_EVT_EN leaves touches no unit (R22). -/
theorem evtWrite_rest {s : State} {u : UnitId} {w : Writer} {en : Bool} {v : W32} (h : (ctlReaches s u w && pageWritable u) = true) :
    ∃ t, execUnitEvtWrite u w en v s = .next t ∧
      unitAt t u = (if en then { unitAt s u with evtEn := v &&& evtEnRw u }
        else { unitAt s u with evt := (unitAt s u).evt &&& ~~~(v &&& evtW1c u) }) ∧
      unitsKept s t u ∧ onlyUnits s t := by
  unfold execUnitEvtWrite
  rw [registerGate, h]
  refine ⟨_, rfl, ?_⟩
  dsimp only
  generalize hx : (if en = true then _ else _ : Unit) = x
  refine ⟨?_, fun v' hv => ?_, ?_⟩
  · split <;> exact unitAt_unitSet_self s u x
  · split <;> exact unitAt_unitSet_ne s x hv
  · split <;> rfl

/-- Settles O5: each write replaces one record, and without access there is none. -/
theorem unitEventRegisters : Obligations.UnitEventRegisters := by
  unfold Obligations.UnitEventRegisters Answers Ignores
  have hno {s : State} {u : UnitId} {w : Writer} (h : ctlReaches s u w = false ∨ pageWritable u = false) :
      (ctlReaches s u w && pageWritable u) = false := by
    obtain h | h := h <;> simp [h]
  refine ⟨fun u w v s hr hp => evtWrite_rest (by simp [hr, hp]),
    fun u w v s hr hp => evtWrite_rest (by simp [hr, hp]),
    fun u w en v s h => ?_,
    fun u w s h => ?_,
    fun u w s hr hp => ⟨unitSet s u { unitAt s u with err0 := 0, err1 := 0, err2 := 0, err3 := 0 }, ?_,
      unitAt_unitSet_self s u _, unitsKept_unitSet s u _, rfl⟩⟩
  · show execUnitEvtWrite u w en v s = _
    rw [execUnitEvtWrite, registerGate, hno h]
    rfl
  · show execErrlogClear u w s = _
    rw [execErrlogClear, registerGate, hno h]
    rfl
  · show execErrlogClear u w s = _
    rw [execErrlogClear, registerGate, hr, hp]
    rfl

end Sys2Proof.Machine
end

section
/-! PROOF. Writes to registers without a row of their own (O25). -/
namespace Sys2Proof.Machine
open Sys2Proof

/-! ### Stored values -/

theorem bitvec_sub_and {w : Nat} (x y : BitVec w) : x - (x &&& y) = x &&& ~~~y := by
  refine sub_eq_of_eq_add' ?_
  rw [BitVec.add_eq_or_of_and_eq_zero]
  · ext i hi
    cases hx : x[i] <;> cases hy : y[i] <;> simp [hx, hy]
  · ext i hi
    cases hx : x[i] <;> cases hy : y[i] <;> simp [hx, hy]

/-- A W1C register drops the bits written as 1. -/
theorem ofNat_clearBits {w : Nat} (x y : BitVec w) : BitVec.ofNat w (clearBits x.toNat y.toNat) = x &&& ~~~y := by
  have hle : (x &&& y).toNat ≤ x.toNat := Nat.and_le_left
  have h : clearBits x.toNat y.toNat = x.toNat - (x &&& y).toNat := rfl
  rw [h, ← BitVec.ofNat_sub_ofNat_of_le _ _ (x &&& y).isLt hle, BitVec.ofNat_toNat, BitVec.ofNat_toNat, BitVec.setWidth_eq,
    BitVec.setWidth_eq, bitvec_sub_and]

theorem toNat_word (v : W64) : ((v.setWidth 32).setWidth 64).toNat = v.toNat % 2 ^ 32 % 2 ^ 32 := by
  simp only [BitVec.toNat_setWidth]
  omega

theorem tmoStored_word (v : W64) : tmoStored (v.toNat % 2 ^ 32) = BitVec.ofNat 32 (max 16 (min 30 (v.toNat % 32))
    + max 16 (min 28 (v.toNat / 256 % 32)) * 256 + max 16 (min 30 (v.toNat / 65536 % 32)) * 65536) := by
  have h0 : bitsOf (v.toNat % 2 ^ 32) 4 0 = v.toNat % 32 := by
    simp only [bitsOf, Nat.shiftRight_eq_div_pow]
    omega
  have h1 : bitsOf (v.toNat % 2 ^ 32) 12 8 = v.toNat / 256 % 32 := by
    simp only [bitsOf, Nat.shiftRight_eq_div_pow]
    omega
  have h2 : bitsOf (v.toNat % 2 ^ 32) 20 16 = v.toNat / 65536 % 32 := by
    simp only [bitsOf, Nat.shiftRight_eq_div_pow]
    omega
  simp only [tmoStored, clampTo, h0, h1, h2, Nat.shiftLeft_eq]

theorem shardCfgStored_word (v : W64) : shardCfgStored (v.toNat % 2 ^ 32) =
    BitVec.ofNat 32 (max 30 (min 44 (v.toNat % 64)) + v.toNat / 64 % 2 * 64) := by
  have h0 : bitsOf (v.toNat % 2 ^ 32) 5 0 = v.toNat % 64 := by
    simp only [bitsOf, Nat.shiftRight_eq_div_pow]
    omega
  have h1 : boolNat (bitOf (v.toNat % 2 ^ 32) 6) = v.toNat / 64 % 2 := by
    simp only [bitOf, boolNat, Nat.shiftRight_eq_div_pow]
    split <;> simp_all <;> omega
  simp only [shardCfgStored, clampTo, h0, h1, Nat.shiftLeft_eq]

theorem bitOf_word (v : W64) (i : Nat) (hi : i < 32) : bitOf (v.toNat % 2 ^ 32) i = v.getLsbD i := by
  have h : (v.toNat % 2 ^ 32).testBit i = v.toNat.testBit i := by rw [Nat.testBit_mod_two_pow, decide_eq_true hi, Bool.true_and]
  rw [← BitVec.testBit_toNat, ← h, Nat.testBit_eq_decide_div_mod_eq, bitOf, Nat.shiftRight_eq_div_pow]

/-! ### Where a write lands -/

theorem exec_registerWrite_word {w : Writer} {off : Nat} {v : W64} {s : State} (hw : mayWrite w = true) (ho : off % 4 = 0) :
    exec (.registerWrite w off 4 v) s = .next (wordWrite w off (v.toNat % 2 ^ 32) s) := by
  show execRegisterWrite w off 4 v s = _
  simp [execRegisterWrite, hw, ho]

theorem bar0Unit_of_open {s : State} {w : Writer} (h : bar0Open s w = true) (u : UnitId) : bar0Unit s w u = true := by
  simp [bar0Unit, h]

/-- An offset on the page of a unit, apart from UNIT_CTL, outside the service blocks and the block registers of io0. -/
structure OnPage (a : Nat) (u : UnitId) : Prop where
  service : serviceOf a = none
  io0 : ¬(0x423000 ≤ a ∧ a < 0x430000)
  page : unitOfPage (a / 4096) = some u

/-- A write to a block register that is there (R25). -/
theorem wordWrite_block {w : Writer} {a v : Nat} {s : State} {u : UnitId} (ha : OnPage a u) (ho : 0x40 ≤ a % 4096)
    (hp : present s.hw u = true) (hw : bar0Open s w = true) (hl : blockLive s u = true) :
    wordWrite w a v s = unitWrite w u (a % 4096) v s := by
  have hn : ¬(a % 4096 = 0x00C) := by omega
  simp [wordWrite, ha.service, ha.io0, ha.page, hn, ho, hp, bar0Unit_of_open hw, hl]

theorem wordWrite_ctl {w : Writer} {a v : Nat} {s : State} {u : UnitId} (ha : OnPage a u) (ho : a % 4096 = 0x00C) :
    wordWrite w a v s = ctlReserved w u v s := by
  simp [wordWrite, ha.service, ha.io0, ha.page, ho]

theorem onPage_package {o : Nat} (ho : o < 4096) : OnPage o .package := by
  have h : o / 4096 = 0 := by omega
  refine ⟨?_, by omega, by rw [h]; rfl⟩
  rw [serviceOf, if_neg (by simp; omega)]

theorem onPage_tile {n o : Nat} (hn : n < 512) (ho : o < 4096) : OnPage (0x200000 + 4096 * n + o) (.tile n) := by
  have h : (0x200000 + 4096 * n + o) / 4096 = 0x200 + n := by omega
  refine ⟨?_, by omega, ?_⟩
  · rw [serviceOf, if_neg (by simp; omega)]
  · have h0 : ¬(0x200 + n = 0) := by omega
    rw [h]
    simp only [unitOfPage, Bool.and_eq_true, decide_eq_true_eq]
    rw [if_neg (by omega), if_neg (by omega), if_neg (by omega), if_neg (by omega), if_pos (by omega), Nat.add_sub_cancel_left]

theorem tile_present {n : Nat} (hw : Hw) (hn : n < 512) : present hw (.tile n) = true := by simp [present, hn]

/-- A tile's block register at offset `o` written. -/
theorem exec_registerWrite_tile {w : Writer} {n o : Nat} {v : W64} {s : State} (hn : n < 512) (ho : 0x40 ≤ o) (ho' : o < 4096)
    (h4 : o % 4 = 0) (hw : mayWrite w = true) (hb : bar0Open s w = true) (hl : blockLive s (.tile n) = true) :
    exec (.registerWrite w (0x200000 + 4096 * n + o) 4 v) s = .next (tileWrite n o (v.toNat % 2 ^ 32) s) := by
  have hoff : (0x200000 + 4096 * n + o) % 4096 = o := by omega
  rw [exec_registerWrite_word hw (by omega), wordWrite_block (onPage_tile hn ho') (by omega) (tile_present s.hw hn) hb hl, hoff]
  rfl

theorem exec_registerWrite_package {w : Writer} {o : Nat} {v : W64} {s : State} (ho : 0x40 ≤ o) (ho' : o < 4096) (h4 : o % 4 = 0)
    (hw : mayWrite w = true) (hb : bar0Open s w = true) (hl : blockLive s .package = true) :
    exec (.registerWrite w o 4 v) s = .next (packageWrite w o (v.toNat % 2 ^ 32) s) := by
  have hoff : o % 4096 = o := by omega
  rw [exec_registerWrite_word hw h4, wordWrite_block (onPage_package ho') (by omega) rfl hb hl, hoff]
  rfl

theorem registerWrite_ignored {w : Writer} {off width : Nat} {v : W64} {s : State}
    (h : mayWrite w = false ∨ (width ≠ 4 ∧ width ≠ 8) ∨ off % width ≠ 0) : exec (.registerWrite w off width v) s = .next s := by
  show execRegisterWrite w off width v s = _
  obtain h | ⟨h4, h8⟩ | h := h
  · simp [execRegisterWrite, h]
  · simp [execRegisterWrite, h4, h8]
  · simp [execRegisterWrite, h]

/-- NFLAGS written. -/
theorem tileWrite_nflags (n v : Nat) (s : State) : tileWrite n 0x100 v s =
    tileSet s n { tileAt s n with num := { (tileAt s n).num with
      nflags := BitVec.ofNat 64 (clearBits (tileAt s n).num.nflags.toNat (v % 2 ^ 32)) } } := rfl

/-- The residue counter written. -/
theorem tileWrite_resErr (n v : Nat) (s : State) : tileWrite n 0x118 v s =
    tileSet s n { tileAt s n with num := { (tileAt s n).num with resErr := counterWrite (tileAt s n).num.resErr v } } := rfl

theorem ctlReserved_refused {w : Writer} {u : UnitId} {v : Nat} {s : State} (hp : present s.hw u = true) (hw : bar0Open s w = true)
    (hc : 6 ≤ v % 8) (hb : (unitAt s u).cmdBusy = false) : ctlReserved w u v s = cmdDone s u stInvalid := by
  have hc' : ¬(v % 8 < 6) := by omega
  simp [ctlReserved, hp, bar0Unit_of_open hw, hc', hb]

/-- Settles O25: each write is the one register's, found from its offset. -/
theorem registerWrites : Obligations.RegisterWrites := by
  unfold Obligations.RegisterWrites Answers Ignores
  refine ⟨fun w off width v s h => registerWrite_ignored h,
    fun w v s hw hb hl => ⟨_, exec_registerWrite_package (by decide) (by decide) rfl hw hb hl, ?_⟩,
    fun w v s hw hb hl hv => ⟨_, exec_registerWrite_package (by decide) (by decide) rfl hw hb hl, ?_⟩,
    fun v s hb hl => ⟨_, exec_registerWrite_word rfl rfl, ?_⟩,
    fun w n v s hn hw hb hl => ⟨_, exec_registerWrite_tile hn (by decide) (by decide) rfl hw hb hl, ?_⟩,
    fun w n v s hn hw hb hl => ⟨_, exec_registerWrite_tile hn (by decide) (by decide) rfl hw hb hl, ?_⟩,
    fun w n v s hn hw hb hp hc hbusy => ⟨_, exec_registerWrite_word hw (by omega), ?_⟩⟩
  · rw [← tmoStored_word]
    rfl
  · rw [packageWrite, if_neg (by decide), if_pos rfl, bitOf_word v 31 (by decide), hv, if_pos rfl]
  · rw [wordWrite_block (u := .iodie 0) ⟨rfl, by decide, rfl⟩ (by decide) rfl hb hl, ← shardCfgStored_word]
    rfl
  · rw [tileWrite_nflags, ← toNat_word, ofNat_clearBits]
    dsimp only
    rw [tileAt_tileSet_self]
    exact ⟨rfl, rfl, fun m hm => tileAt_tileSet_ne s _ hm, rfl⟩
  · rw [tileWrite_resErr, counterWrite, Nat.mod_mod]
    exact tileAt_tileSet_self s n _
  · rw [wordWrite_ctl (onPage_tile hn (by decide)) (by omega), ctlReserved_refused hp hb (by omega) hbusy]
    exact ⟨by simp [cmdOver], by simp, unitsKept_cmdDone s _ _, (cmdDone_frame s _ _).onlyUnits⟩

end Sys2Proof.Machine
end

section
/-! PROOF. Requests as they arrive at their target (O6). -/
namespace Sys2Proof.Machine
open Sys2Proof

/-- Issuing a packet notes it at its requester, and nothing else. -/
theorem outIssued_eq (s : State) (r : Req) (arrived : Bool) :
    outIssued s r arrived = { s with un := { s.un with outst := (outIssued s r arrived).un.outst } } := by
  unfold outIssued
  dsimp only
  split
  · rfl
  · split <;> rfl

/-- A tag not yet known is noted with its packet on the way. -/
theorem outIssued_new {s : State} {r : Req} {arrived : Bool} (hi : r.reqInc = (unitAt s r.src).inc.toNat)
    (hf : outFind s (pageOf r.src) r.tag = none) :
    outIssued s r arrived = { s with un := { s.un with outst := s.un.outst ++ [{
      src := pageOf r.src, tag := r.tag, tgt := pageOf r.tgt, tgtInc := BitVec.ofNat 16 r.tgtInc,
      reqInc := (unitAt s r.src).inc, txn := r.txn, arrived := arrived }] } } := by
  rw [outIssued, if_neg (by simp [hi]), if_neg (by simp [hf])]

/-- R41: outside the transactions joined, the target refuses as `reqRefusal` says. -/
theorem txnRefusal_outside (s : State) (r : Req) :
    txnRefusal (unitAt s r.tgt) (BitVec.ofNat 16 r.tgtInc) false = reqRefusal s r := by
  unfold txnRefusal reqRefusal
  cases h : (unitAt s r.tgt).state <;> simp [h]

theorem run_of_accepted {s : State} {r : Req} (h : reqRefusal s r = none) :
    (unitAt s r.tgt).state = .run ∧ BitVec.ofNat 16 r.tgtInc = (unitAt s r.tgt).inc := by
  unfold reqRefusal at h
  dsimp only at h
  split at h
  · cases h
  next hoff =>
    split at h
    · cases h
    next hinc =>
      split at h
      · cases h
      next hreset =>
        split at h
        · cases h
        next hbusy =>
          refine ⟨?_, not_not.mp hinc⟩
          cases hs : (unitAt s r.tgt).state <;> simp [hs] at hoff hreset hbusy ⊢

/-- A target in RUN at the incarnation named accepts within a transaction too. -/
theorem txnRefusal_of_accepted {s : State} {r : Req} (h : reqRefusal s r = none) (joined : Bool) :
    txnRefusal (unitAt s r.tgt) (BitVec.ofNat 16 r.tgtInc) joined = none := by
  obtain ⟨hrun, hinc⟩ := run_of_accepted h
  rw [txnRefusal_run _ _ _ hrun, if_neg (not_not.mpr hinc)]

theorem reqReaches_iff {s : State} {r : Req} : reqReaches s r = true ↔ present s.hw r.src = true ∧ present s.hw r.tgt = true ∧
    reqAccepted s r = false ∧ requestSent s r = true ∧ joined s r.src r.tgt = true ∧ movingTile s r.tgt = none := by
  simp only [reqReaches, Bool.and_eq_true, Bool.not_eq_true', Option.isNone_iff_eq_none, and_assoc]

theorem exec_requestArrival_refused {s : State} {r : Req} {st : Nat} (h : reqReaches s r = true) (hj : joinedTo s r.txn r.tgt = false)
    (hst : reqRefusal s r = some st) :
    exec (.requestArrival r) s = .next (reqReply (countStale (outIssued s r true) st) r st []) := by
  obtain ⟨hsrc, htgt, hacc, hsent, hjoin, hmove⟩ := reqReaches_iff.mp h
  show execRequestArrival r s = _
  simp [execRequestArrival, hsrc, htgt, hacc, hsent, hjoin, hmove, hj, txnRefusal_outside, hst]

theorem exec_requestArrival_accepted {s : State} {r : Req} (h : reqReaches s r = true) (ha : reqRefusal s r = none) :
    exec (.requestArrival r) s = .next (reqServe (outIssued s r true) r) := by
  obtain ⟨hsrc, htgt, hacc, hsent, hjoin, hmove⟩ := reqReaches_iff.mp h
  show execRequestArrival r s = _
  simp [execRequestArrival, hsrc, htgt, hacc, hsent, hjoin, hmove, txnRefusal_of_accepted ha]

/-- R45: an accepted request waits with its lines or is performed and answered. -/
theorem reqServe_taken (s : State) (r : Req) :
    reqServe (outIssued s r true) r =
      if reqWaits (taken s r) r then { taken s r with un := { (taken s r).un with accepted := (taken s r).un.accepted ++ [r] } }
      else reqReply (reqPerform (taken s r) r).1 r (reqPerform (taken s r) r).2.1 (reqPerform (taken s r) r).2.2 := rfl

theorem taken_eq (s : State) (r : Req) :
    taken s r = { s with un := { s.un with outst := (taken s r).un.outst, accepted := (taken s r).un.accepted } } := by
  unfold taken
  rw [outIssued_eq]

/-- A message names no line. -/
theorem reqWaits_message {s : State} {r : Req} (h : r.op = .message) : reqWaits s r = false := by
  simp [reqWaits, h]

theorem reqPerform_message {s : State} {r : Req} (h : r.op = .message) : reqPerform s r = (s, stOk, []) := by
  have hb : tenantBlocked s r 0 0 false = false := by simp [tenantBlocked, spanLines]
  simp [reqPerform, reqSpan, h, hb]

/-- Settles O6: a refusal adds a reply and counts, a served request is one `reqServe`. -/
theorem requestsDecided : Obligations.RequestsDecided := by
  unfold Obligations.RequestsDecided Answers
  refine ⟨fun r s st h hj href => ⟨_, exec_requestArrival_refused h hj href, ?_⟩,
    fun r s h ha hm => ⟨_, exec_requestArrival_accepted h ha, ?_⟩,
    fun r s h ha hw => ⟨_, exec_requestArrival_accepted h ha, ?_⟩,
    fun r s h ha hw => ⟨_, exec_requestArrival_accepted h ha, ?_⟩,
    fun r s hsrc htgt hacc hsent hjoin hi hf => ⟨outIssued s r false, ?_, ?_⟩⟩
  · rw [outIssued_eq]
    unfold countStale
    dsimp only
    split <;> exact ⟨rfl, rfl, rfl, rfl⟩
  · rw [reqServe_taken, reqWaits_message hm, reqPerform_message hm, taken_eq]
    exact ⟨rfl, rfl, rfl⟩
  · rw [reqServe_taken, hw]
    exact ⟨rfl, rfl⟩
  · rw [reqServe_taken, hw, taken_eq]
    exact ⟨rfl, rfl, rfl, rfl⟩
  · show execRequestArrival r s = _
    simp [execRequestArrival, hsrc, htgt, hacc, hsent, hjoin]
  · rw [outIssued_new hi hf]
    exact ⟨⟨_, rfl, rfl, rfl, rfl, rfl⟩, rfl⟩

end Sys2Proof.Machine
end

section
/-! PROOF. Messages of transactions at their members (O8), and what an abort leaves. -/
namespace Sys2Proof.Machine
open Sys2Proof

section
variable {s t r : State}

/-! ### What goes on beside the transactions -/

/-- Of the unit tree only the units' records and the interrupt's level may differ. -/
def RecordsFrame (s t : State) : Prop := ∃ tab irq, t.un = { s.un with tab := tab, devIrq := irq }

theorem RecordsFrame.of_un (h : t.un = s.un) : RecordsFrame s t := ⟨_, _, h⟩

theorem RecordsFrame.trans (h : RecordsFrame s t) (k : RecordsFrame t r) : RecordsFrame s r := by
  obtain ⟨_, _, h⟩ := h
  obtain ⟨_, _, k⟩ := k
  exact ⟨_, _, by rw [k, h]⟩

theorem TileFrame.records (h : TileFrame s t) : RecordsFrame s t := by
  obtain ⟨_, _, _, _, _, rfl⟩ := h
  exact ⟨_, _, rfl⟩

theorem barHeld_un (s : State) (p : Part) : (barHeld s p).un = s.un :=
  List.foldlRecOn (motive := fun (t : State) => t.un = s.un) _ _ rfl fun _ k _ _ => k

theorem barIssue_records (s : State) (p : Part) (next : Tile → Option Nat) (bid : Option Nat) : RecordsFrame s (barIssue s p next bid) :=
  ((RecordsFrame.of_un (barHeld_un s p)).trans (tilesUpd_frame _ _ _).records).trans (partUpd_frame _ _ _).records

theorem barDecided_records (s : State) (t0 : Nat) : RecordsFrame s (barDecided s t0) := by
  unfold barDecided
  split
  · exact .of_un rfl
  · split
    · split
      · exact barIssue_records s _ _ _
      · exact (partSet_frame s _).records
    · exact .of_un rfl

theorem stepAborted_records (s : State) (p : Part) (cause gate : Nat) : RecordsFrame s (stepAborted s p cause gate) :=
  (partSet_frame s _).records.trans (unitEvt_frame _ _ _).tile.records

/-- The transactions, and what the root counts and records of their aborts. -/
def tally (s : State) : Map Txn × W64 × W32 := (s.un.txns, s.un.abortCnt, s.un.lastAbort)

theorem RecordsFrame.tally_eq (h : RecordsFrame s t) : tally t = tally s := by
  obtain ⟨_, _, h⟩ := h
  simp only [tally, h]

theorem RecordsFrame.staleReq_eq (h : RecordsFrame s t) : t.un.staleReq = s.un.staleReq := by
  obtain ⟨_, _, h⟩ := h
  rw [h]

theorem ReqFrame.tally_eq (h : ReqFrame s t) : tally t = tally s := by
  obtain ⟨_, _, rfl⟩ := h
  rfl

theorem ReqFrame.staleReq_eq (h : ReqFrame s t) : t.un.staleReq = s.un.staleReq := by
  obtain ⟨_, _, rfl⟩ := h
  rfl

/-- Delivering a request answers it: a reply, and perhaps the count of stale ones. -/
theorem reqDeliver_eq (s : State) (q : Req) :
    ∃ replies stale, reqDeliver s q = { s with un := { s.un with replies := replies, staleReq := stale } } := by
  unfold reqDeliver countStale
  split
  · split <;> exact ⟨_, _, rfl⟩
  · exact ⟨_, _, rfl⟩

theorem reqDelivers_eq (s : State) (qs : List Req) :
    ∃ replies stale, qs.foldl reqDeliver s = { s with un := { s.un with replies := replies, staleReq := stale } } :=
  List.foldlRecOn (motive := fun t => ∃ replies stale, t = { s with un := { s.un with replies := replies, staleReq := stale } }) _ _
    ⟨_, _, rfl⟩ fun t k q _ => by
      obtain ⟨_, _, rfl⟩ := k
      obtain ⟨_, _, h⟩ := reqDeliver_eq { s with un := { s.un with replies := _, staleReq := _ } } q
      exact ⟨_, _, h⟩

theorem substAborted_tally (s : State) (c : Nat) : tally (substAborted s c) = tally s := by
  unfold substAborted
  dsimp only
  rw [(unitEvt_frame _ _ _).tile.records.tally_eq]
  obtain ⟨_, _, h⟩ := reqDelivers_eq (substSet { s with tl := { s.tl with tab := mapDel s.tl.tab (c * 17 + physAt s (.spare c)) } } c
    { substAt s c with phase := .idle, status := stTxnAborted, tid := none, buffered := [] }) (substAt s c).buffered
  rw [h]
  rfl

theorem actAborted_un (s : State) (cause : Nat) : (actAborted s cause).un = s.un := by
  unfold actAborted
  dsimp only
  split <;> rfl

/-! ### The abort of a transaction -/

/-- The abort noted, before what its kind brings about. -/
def abortNoted (s : State) (tid cause gate : Nat) (x : Txn) : State :=
  txnAbortRecord (txnSet (dropTxnOutst s tid x.coord) tid { x with phase := .aborted, cause := cause, gate := gate }) tid x cause

/-- An abort of a live transaction that nothing holds back is noted, and then only what its kind brings about goes on. -/
theorem txnAbortGate_noted {tid cause gate : Nat} {x : Txn} (hx : mapFind s.un.txns tid = some x) (hl : txnLive x = true)
    (ha : abortable s x = true ∨ cause = 5) :
    tally (txnAbortGate s tid cause gate) = tally (abortNoted s tid cause gate x) ∧
      (x.kind ≠ 2 → (txnAbortGate s tid cause gate).un.staleReq = (abortNoted s tid cause gate x).un.staleReq) := by
  have hgo : ¬((!(txnLive x) || (x.kind = 1 && cause ≠ 5 && (partOf s x.key).any stepInDoubt)) = true) := by
    rcases ha with ha | ha
    · simp only [abortable, Bool.or_eq_true, decide_eq_true_eq, Bool.not_eq_true'] at ha
      rcases ha with ha | ha <;> simp [hl, ha]
    · simp [hl, ha]
  unfold txnAbortGate
  simp only [hx]
  rw [if_neg hgo]
  change tally _ = tally _ ∧ _
  split
  · split
    · exact ⟨rfl, fun _ => rfl⟩
    · next p _ =>
      have k := (stepAborted_records (abortNoted s tid cause gate x) p cause gate).trans (barDecided_records _ x.key)
      exact ⟨k.tally_eq, fun _ => k.staleReq_eq⟩
  · next hk => exact ⟨substAborted_tally _ _, fun h => absurd hk h⟩
  · have k := RecordsFrame.of_un (actAborted_un (abortNoted s tid cause gate x) cause)
    exact ⟨k.tally_eq, fun _ => k.staleReq_eq⟩
  · exact ⟨rfl, fun _ => rfl⟩

theorem abortNoted_tally {tid cause gate : Nat} {x : Txn} :
    tally (abortNoted s tid cause gate x) = (mapSet s.un.txns tid { x with phase := .aborted, cause := cause, gate := gate },
      satInc s.un.abortCnt, BitVec.ofNat 32 (cause + x.kind <<< 4 + tid <<< 16 + 2 ^ 31)) := by
  have h := (dropTxnOutst_frame s tid x.coord).tally_eq
  simp only [tally, Prod.mk.injEq] at h
  simp only [tally, abortNoted, txnAbortRecord, txnSet, h]

theorem abortNoted_staleReq {tid cause gate : Nat} {x : Txn} : (abortNoted s tid cause gate x).un.staleReq = s.un.staleReq :=
  (dropTxnOutst_frame s tid x.coord).staleReq_eq

/-- The record's low four bits hold the cause (Table 2-12). -/
theorem abortRecord_cause (kind tid : Nat) {cause : Nat} (h : cause < 16) :
    (BitVec.ofNat 32 (cause + kind <<< 4 + tid <<< 16 + 2 ^ 31)).toNat % 16 = cause := by
  rw [BitVec.toNat_ofNat, Nat.shiftLeft_eq, Nat.shiftLeft_eq]
  omega

theorem txnAborted_abortGate {tid cause gate : Nat} {x : Txn} (hx : mapFind s.un.txns tid = some x) (hl : txnLive x = true)
    (ha : abortable s x = true ∨ cause = 5) (hc : cause < 16) : txnAborted s (txnAbortGate s tid cause gate) tid cause := by
  have h := (txnAbortGate_noted (gate := gate) hx hl ha).1
  rw [abortNoted_tally] at h
  simp only [tally, Prod.mk.injEq] at h
  obtain ⟨htxns, hcnt, hlast⟩ := h
  refine ⟨⟨_, by rw [htxns, mapFind_mapSet_self], rfl, rfl⟩, hcnt, ?_⟩
  rw [hlast, abortRecord_cause _ _ hc]

/-- An abort does nothing, or meets a live transaction that nothing holds back. -/
theorem txnAbortGate_cases (s : State) (tid cause gate : Nat) : txnAbortGate s tid cause gate = s ∨
    ∃ x, mapFind s.un.txns tid = some x ∧ txnLive x = true ∧ (abortable s x = true ∨ cause = 5) := by
  unfold txnAbortGate
  split
  · exact .inl rfl
  · next x hx =>
    split
    · exact .inl rfl
    · next h =>
      refine .inr ⟨x, hx, ?_⟩
      simp only [abortable, Bool.or_eq_true, Bool.and_eq_true, decide_eq_true_eq, Bool.not_eq_true'] at h ⊢
      grind

/-! ### Who takes part does not change with an abort or a stop -/

/-- The members of every transaction, with how far each has come. -/
def membership (s : State) (tid : Nat) : Option (List TxnMember) := (mapFind s.un.txns tid).map Txn.members

theorem memberOf_membership (s : State) (tid : Nat) (u : UnitId) :
    memberOf s tid u = (membership s tid).bind fun ms => (ms.find? (fun m => m.page = pageOf u)).map TxnMember.st := by
  unfold memberOf membership
  cases mapFind s.un.txns tid <;> rfl

theorem memberOf_congr {tid : Nat} {u : UnitId} (h : membership t = membership s) : memberOf t tid u = memberOf s tid u := by
  rw [memberOf_membership, memberOf_membership, h]

theorem membership_congr (h : t.un.txns = s.un.txns) : membership t = membership s := by
  funext tid
  rw [membership, h, membership]

theorem RecordsFrame.membership_eq (h : RecordsFrame s t) : membership t = membership s := by
  obtain ⟨_, _, h⟩ := h
  exact membership_congr (by rw [h])

theorem membership_foldl {α : Type} {f : State → α → State} {l : List α} (hf : ∀ s a, membership (f s a) = membership s) :
    membership (l.foldl f s) = membership s :=
  List.foldlRecOn (motive := fun (t : State) => membership t = membership s) l f rfl fun t h a _ => (hf t a).trans h

theorem membership_txnAbortGate (s : State) (tid cause gate : Nat) : membership (txnAbortGate s tid cause gate) = membership s := by
  obtain h | ⟨x, hx, hl, ha⟩ := txnAbortGate_cases s tid cause gate
  · rw [h]
  · have h := (txnAbortGate_noted (gate := gate) hx hl ha).1
    rw [abortNoted_tally] at h
    simp only [tally, Prod.mk.injEq] at h
    funext k
    rw [membership, h.1, mapFind_mapSet, membership]
    split
    · next hk => rw [hk, hx]; rfl
    · rfl

theorem membership_stopPart (s : State) (p : Part) (status cause : Nat) : membership (stopPart s p status cause) = membership s := by
  unfold stopPart
  split
  · rfl
  · dsimp only
    rw [(partUpd_frame _ _ _).records.membership_eq, (tilesUpd_frame _ _ _).records.membership_eq]
    refine (membership_foldl fun s t => ?_).trans ((membership_foldl fun s e => ?_).trans ?_)
    · unfold landStopped
      split
      · rfl
      · exact (tileSettle_frame s t).records.membership_eq
    · split
      · rfl
      · split
        · exact membership_txnAbortGate _ _ _ _
        · rfl
    · unfold stepAbort
      split
      · exact membership_txnAbortGate _ _ _ _
      · rfl

theorem membership_plateFault (s : State) (t source : Nat) : membership (plateFault s t source) = membership s := by
  unfold plateFault
  split
  · rfl
  · next p _ =>
    have h : membership (noteDetail (errLog s (.tile t) stPlate source (tileAt s t).plate.pc 0 (some p.ctx)) t (tileAt s t).plate.pc) =
        membership s :=
      (noteDetail_frame _ _ _).records.membership_eq.trans (errLog_frame _ _ _ _ _ _ _).tile.records.membership_eq
    dsimp only
    split
    · exact h
    · rw [membership_stopPart, h]

theorem membership_commitReached (s : State) (x : Txn) : membership (commitReached s x) = membership s := by
  unfold commitReached
  split
  · unfold fetchBeyond
    split
    · exact (barDecided_records s x.key).membership_eq
    · split
      · rw [membership_plateFault, (barDecided_records s x.key).membership_eq]
      · exact (barDecided_records s x.key).membership_eq
  · rfl

/-! ### How far a member has come -/

theorem memberSt_memberUpd_self {x : Txn} {page : Nat} {f : TxnMember → TxnMember} (hf : ∀ m, (f m).page = m.page) :
    memberSt (memberUpd x page f) page = (x.members.find? (fun m => m.page = page)).map fun m => (f m).st := by
  simp only [memberSt, memberUpd, List.find?_map]
  have h : (fun m => decide (m.page = page)) ∘ (fun m => if m.page = page then f m else m) =
      fun m : TxnMember => decide (m.page = page) := by
    funext m
    by_cases hm : m.page = page <;> simp [hm, hf]
  rw [h, Option.map_map]
  refine Option.map_congr fun m hm => ?_
  have := List.find?_some hm
  simp only [decide_eq_true_eq] at this
  simp [this]

/-- A member known to the transaction stands as it is put. -/
theorem memberSt_memberUpd_st {x : Txn} {page : Nat} {f : TxnMember → TxnMember} {st : MemberSt} (hx : (memberSt x page).isSome = true)
    (hf : ∀ m, (f m).page = m.page) (hst : ∀ m, (f m).st = st) : memberSt (memberUpd x page f) page = some st := by
  rw [memberSt_memberUpd_self hf]
  simp only [memberSt, Option.isSome_map] at hx
  obtain ⟨m, hm⟩ := Option.isSome_iff_exists.mp hx
  simp [hm, hst]

theorem memberOf_txnSet_self (s : State) (tid : Nat) (x : Txn) (u : UnitId) : memberOf (txnSet s tid x) tid u = memberSt x (pageOf u) := by
  simp [memberOf]

theorem memberOf_of_find {tid : Nat} {x : Txn} (h : mapFind s.un.txns tid = some x) (u : UnitId) :
    memberOf s tid u = memberSt x (pageOf u) := by
  simp [memberOf, h]

theorem onlyTxn_txnSet (s : State) (tid : Nat) (x : Txn) : onlyTxn s (txnSet s tid x) tid :=
  ⟨rfl, fun _ hk => mapFind_mapSet_ne _ _ hk⟩

theorem onlyTxn.trans {tid : Nat} (h : onlyTxn s t tid) (k : onlyTxn t r tid) : onlyTxn s r tid := by
  obtain ⟨h, hf⟩ := h
  obtain ⟨k, kf⟩ := k
  refine ⟨?_, fun j hj => (kf j hj).trans (hf j hj)⟩
  rw [k, h]

/-! ### A member discards its part -/

theorem mem_outEnds {l : List Outst} {o : Outst} (h : o ∈ (l.foldl (fun s o => outEnd s o.src o.tag stTxnAborted) s).un.outst) :
    o ∈ s.un.outst ∧ ∀ e ∈ l, ¬(o.src = e.src ∧ o.tag = e.tag) := by
  induction l generalizing s with
  | nil => exact ⟨h, by simp⟩
  | cons e l ih =>
    obtain ⟨hm, hl⟩ := ih h
    simp only [outEnd, List.mem_filter, Bool.not_eq_true', Bool.and_eq_false_iff, decide_eq_false_iff_not] at hm
    refine ⟨hm.1, fun e' he' => ?_⟩
    obtain rfl | he' := List.mem_cons.mp he'
    · exact not_and_or.mpr hm.2
    · exact hl e' he'

/-- R52: no request of the unit within the transaction stays outstanding. -/
theorem outst_dropTxnOutst (s : State) (tid page : Nat) :
    ∀ o ∈ (dropTxnOutst s tid page).un.outst, ¬(o.src = page ∧ o.txn = some tid) := by
  intro o ho hp
  obtain ⟨hm, hl⟩ := mem_outEnds ho
  exact hl o (List.mem_filter.mpr ⟨hm, by simp [hp]⟩) ⟨rfl, rfl⟩

/-- What a discard leaves: the member discarded or the transaction gone, its requests complete, and all else as it was. -/
theorem discardMember_spec {tid : Nat} {x : Txn} {u : UnitId} (hx : (memberSt x (pageOf u)).isSome = true) :
    (memberOf (discardMember s tid x u) tid u = some .discarded ∨ mapFind (discardMember s tid x u).un.txns tid = none) ∧
      (∀ o ∈ (discardMember s tid x u).un.outst, ¬(o.src = pageOf u ∧ o.txn = some tid)) ∧
      ∃ txns outst cpl, discardMember s tid x u = { s with un := { s.un with txns := txns, outst := outst, cpl := cpl } } := by
  obtain ⟨outst, cpl, h⟩ := dropTxnOutst_frame s tid (pageOf u)
  have ho := outst_dropTxnOutst s tid (pageOf u)
  unfold discardMember
  dsimp only
  split
  · refine ⟨.inr (mapFind_mapDel_self _ _), ho, ?_⟩
    rw [h]
    exact ⟨_, _, _, rfl⟩
  · refine ⟨.inl ?_, ho, ?_⟩
    · rw [memberOf_txnSet_self]
      exact memberSt_memberUpd_st hx (fun _ => rfl) fun _ => rfl
    · rw [h]
      exact ⟨_, _, _, rfl⟩

theorem countStale_eq (s : State) (st : Nat) :
    countStale s st = { s with un := { s.un with staleReq := if st = stStale then satInc s.un.staleReq else s.un.staleReq } } := by
  unfold countStale
  split <;> rfl

theorem abortCount_eq (s : State) (x : Txn) (u : UnitId) : ∃ n, abortCount s x u = { s with un := { s.un with staleReq := n } } := by
  unfold abortCount
  split
  · exact ⟨_, countStale_eq s _⟩
  · exact ⟨_, rfl⟩

/-! ### The messages -/

theorem txnRefusal_takes {u : UnitId} {inc : Half} {joined : Bool} (h : takesMessage s u inc joined = true) :
    txnRefusal (unitAt s u) inc joined = none := by
  simp only [takesMessage, Bool.and_eq_true, Bool.or_eq_true, decide_eq_true_eq] at h
  obtain ⟨rfl, hrun | ⟨rfl, hq⟩⟩ := h
  · rw [txnRefusal_run _ _ _ hrun]
    simp
  · simp [txnRefusal, hq]

theorem exec_txnEnrol {tid : Nat} {u : UnitId} {inc : Half} {x : Txn} (hx : mapFind s.un.txns tid = some x) (hl : txnLive x = true)
    (hm : memberOf s tid u = some .invited) (hh : msgHeld s x u = false) :
    exec (.txnEnrol tid u inc) s = .next (match txnRefusal (unitAt s u) inc false with
      | some st => txnAbort (countStale s st) tid (refusalCause st)
      | none => substEnrolled (txnSet s tid (memberUpd x (pageOf u) (fun m => { m with st := .enrolled, inc := inc }))) tid) := by
  rw [memberOf_of_find hx] at hm
  show execTxnEnrol tid u inc s = _
  unfold execTxnEnrol
  simp only [hx, hl, hm, hh] <;> cases txnRefusal (unitAt s u) inc false <;> rfl

theorem exec_txnPrepare {tid : Nat} {u : UnitId} {inc : Half} {x : Txn} (hx : mapFind s.un.txns tid = some x) (hp : x.phase = .preparing)
    (hm : memberOf s tid u = some .enrolled) (hh : msgHeld s x u = false) :
    exec (.txnPrepare tid u inc) s = .next (match txnRefusal (unitAt s u) inc true with
      | some st => txnAbort (countStale s st) tid (refusalCause st)
      | none => memberTo s tid { x with gate := Nat.lor x.gate (prepareGate s x u) } u
          (if prepareGate s x u = 0 then .prepared else .refused)) := by
  rw [memberOf_of_find hx] at hm
  show execTxnPrepare tid u inc s = _
  unfold execTxnPrepare
  simp only [hx, hp, hm, hh] <;> cases txnRefusal (unitAt s u) inc true <;> rfl

theorem substEnrolled_onlyTxn (s : State) (tid : Nat) : onlyTxn s (substEnrolled s tid) tid := by
  unfold substEnrolled
  split
  · exact ⟨rfl, fun _ _ => rfl⟩
  · split
    · exact onlyTxn_txnSet _ _ _
    · exact ⟨rfl, fun _ _ => rfl⟩

theorem membership_substEnrolled (s : State) (tid : Nat) : membership (substEnrolled s tid) = membership s := by
  unfold substEnrolled
  split
  · rfl
  · next x hx =>
    split
    · funext k
      rw [membership, txnSet, mapFind_mapSet, membership]
      split
      · next hk => rw [hk, hx]; rfl
      · rfl
    · rfl

theorem txnAborted_stale {tid cause st : Nat} {x : Txn} (hx : mapFind s.un.txns tid = some x) (hl : txnLive x = true)
    (ha : abortable s x = true) (hc : cause < 16) : txnAborted s (txnAbort (countStale s st) tid cause) tid cause := by
  rw [countStale_eq]
  exact txnAborted_abortGate (s := { s with un := { s.un with staleReq := _ } }) hx hl (.inl ha) hc

theorem staleReq_abort_stale {tid cause : Nat} {x : Txn} (hx : mapFind s.un.txns tid = some x) (hl : txnLive x = true)
    (ha : abortable s x = true) (hk : x.kind ≠ 2) :
    (txnAbort (countStale s stStale) tid cause).un.staleReq = satInc s.un.staleReq := by
  have h := (txnAbortGate_noted (s := countStale s stStale) (cause := cause) (gate := 0) hx hl (.inl ha)).2 hk
  rwa [abortNoted_staleReq] at h

theorem txnLive_preparing {x : Txn} (h : x.phase = .preparing) : txnLive x = true := by
  simp [txnLive, h]

/-- The queried transaction, the query answered. -/
def queryTaken (x : Txn) (u : UnitId) : Txn := { x with queries := x.queries.filter (fun p => p ≠ pageOf u) }

theorem exec_decisionQuery {tid : Nat} {u : UnitId} {x : Txn} (hx : mapFind s.un.txns tid = some x)
    (hq : x.queries.contains (pageOf u) = true) (hr : msgRoute s x u = true) (ha : abortable s x = true) :
    exec (.decisionQuery tid u) s =
      if x.record then
        if x.kind ≠ 3 && memberSt x (pageOf u) = some .counted then
          .next (commitReached (txnSet (applyPart (txnSet s tid (queryTaken x u)) (queryTaken x u) u) tid
              (memberUpd (queryTaken x u) (pageOf u) (fun m => { m with st := .applied })))
            (memberUpd (queryTaken x u) (pageOf u) (fun m => { m with st := .applied })))
        else .next (txnSet s tid (queryTaken x u))
      else match mapFind (txnAbort (txnSet s tid (queryTaken x u)) tid 7).un.txns tid with
        | none => .next (txnAbort (txnSet s tid (queryTaken x u)) tid 7)
        | some x2 => .next (discardMember (txnAbort (txnSet s tid (queryTaken x u)) tid 7) tid x2 u) := by
  have hd : (x.kind = 1 && (partOf s x.key).any stepInDoubt) = false := by
    simpa [abortable, imp_iff_not_or] using ha
  show execDecisionQuery tid u s = _
  unfold execDecisionQuery
  simp only [hx, hq, hr, hd] <;> rfl

/-- A query that finds no commit record aborts the transaction and the member discards its part. -/
theorem decisionQuery_aborts {tid : Nat} {u : UnitId} {x : Txn} (hx : mapFind s.un.txns tid = some x)
    (hq : x.queries.contains (pageOf u) = true) (hr : msgRoute s x u = true) (ha : abortable s x = true) (hrec : x.record = false)
    (hp : x.phase = .preparing) (hm : (memberOf s tid u).isSome = true) :
    Answers (.decisionQuery tid u) s fun t =>
      (memberOf t tid u = some .discarded ∨ mapFind t.un.txns tid = none) ∧ t.un.abortCnt = satInc s.un.abortCnt ∧
        t.un.lastAbort.toNat % 16 = 7 := by
  have hx1 : mapFind (txnSet s tid (queryTaken x u)).un.txns tid = some (queryTaken x u) := txnFind_txnSet_self _ _ _
  have hab : txnAborted (txnSet s tid (queryTaken x u)) (txnAbort (txnSet s tid (queryTaken x u)) tid 7) tid 7 :=
    txnAborted_abortGate hx1 (txnLive_preparing hp) (.inl ha) (by decide)
  have hmem : memberOf (txnAbort (txnSet s tid (queryTaken x u)) tid 7) tid u = memberSt (queryTaken x u) (pageOf u) :=
    (memberOf_congr (membership_txnAbortGate _ _ _ _)).trans (memberOf_of_find hx1 u)
  obtain ⟨⟨y, hy, -, -⟩, hcnt, hlast⟩ := hab
  have hin : (memberSt y (pageOf u)).isSome = true := by
    rw [← memberOf_of_find hy, hmem]
    rwa [memberOf_of_find hx] at hm
  obtain ⟨hgone, -, _, _, _, hframe⟩ := discardMember_spec (s := txnAbort (txnSet s tid (queryTaken x u)) tid 7) (tid := tid) hin
  refine ⟨discardMember (txnAbort (txnSet s tid (queryTaken x u)) tid 7) tid y u, ?_, hgone, ?_, ?_⟩
  · rw [exec_decisionQuery hx hq hr ha]
    simp only [hrec, hy] <;> rfl
  · rw [hframe]
    exact hcnt
  · rw [hframe]
    exact hlast

/-- A query that finds the commit record answers COMMIT, and the member applies its part. -/
theorem decisionQuery_commits {tid : Nat} {u : UnitId} {x : Txn} (hx : mapFind s.un.txns tid = some x)
    (hq : x.queries.contains (pageOf u) = true) (hr : msgRoute s x u = true) (ha : abortable s x = true) (hrec : x.record = true)
    (hk : x.kind ≠ 3) (hm : memberOf s tid u = some .counted) :
    Answers (.decisionQuery tid u) s fun t => memberOf t tid u = some .applied := by
  rw [memberOf_of_find hx] at hm
  unfold Answers
  rw [exec_decisionQuery hx hq hr ha, if_pos hrec, if_pos (by simp [hk, hm])]
  refine ⟨_, rfl, ?_⟩
  beta_reduce
  rw [memberOf_congr (membership_commitReached _ _), memberOf_txnSet_self]
  exact memberSt_memberUpd_st (x := queryTaken x u) (by rw [show memberSt (queryTaken x u) _ = memberSt x _ from rfl, hm]; rfl)
    (fun _ => rfl) fun _ => rfl

theorem exec_txnAbort {tid : Nat} {u : UnitId} {x : Txn} {m : MemberSt} (hx : mapFind s.un.txns tid = some x) (hp : x.phase = .aborted)
    (hm : memberOf s tid u = some m) (hd : m ≠ .discarded) (hh : abortHeld s x u = false) :
    exec (.txnAbort tid u) s = .next (discardMember (abortCount s x u) tid x u) := by
  rw [memberOf_of_find hx] at hm
  show execTxnAbort tid u s = _
  unfold execTxnAbort
  simp [hx, hp, hm, hd, hh]

/-- ABORT makes the member discard its part and its requests within the transaction. -/
theorem txnAbort_discards {tid : Nat} {u : UnitId} {x : Txn} {m : MemberSt} (hx : mapFind s.un.txns tid = some x) (hp : x.phase = .aborted)
    (hm : memberOf s tid u = some m) (hd : m ≠ .discarded) (hh : abortHeld s x u = false) :
    Answers (.txnAbort tid u) s fun t =>
      (memberOf t tid u = some .discarded ∨ mapFind t.un.txns tid = none) ∧
        (∀ o ∈ t.un.outst, ¬ (o.src = pageOf u ∧ o.txn = some tid)) ∧
        t = { s with un := { s.un with txns := t.un.txns, outst := t.un.outst, cpl := t.un.cpl, staleReq := t.un.staleReq } } := by
  have hin : (memberSt x (pageOf u)).isSome = true := by
    rw [← memberOf_of_find hx, hm]
    rfl
  obtain ⟨n, hn⟩ := abortCount_eq s x u
  obtain ⟨hgone, hout, _, _, _, hframe⟩ := discardMember_spec (s := abortCount s x u) (tid := tid) hin
  refine ⟨_, exec_txnAbort hx hp hm hd hh, hgone, hout, ?_⟩
  rw [hframe, hn]

theorem refused_of_enrol {tid : Nat} {u : UnitId} {inc : Half} {x : Txn} (hx : mapFind s.un.txns tid = some x) (hl : txnLive x = true)
    (hm : memberOf s tid u = some .invited) (hh : msgHeld s x u = false) (ha : abortable s x = true)
    (hst : (unitAt s u).state = .quiescing) (hi : inc = (unitAt s u).inc) :
    Answers (.txnEnrol tid u inc) s fun t => txnAborted s t tid 3 := by
  have hr : txnRefusal (unitAt s u) inc false = some stBusy := by simp [txnRefusal, hst, hi]
  refine ⟨_, exec_txnEnrol hx hl hm hh, ?_⟩
  rw [hr]
  exact txnAborted_stale hx hl ha (by decide)

theorem refused_of_prepare {tid : Nat} {u : UnitId} {inc : Half} {x : Txn} (hx : mapFind s.un.txns tid = some x)
    (hp : x.phase = .preparing) (hm : memberOf s tid u = some .enrolled) (hh : msgHeld s x u = false) (ha : abortable s x = true)
    (hst : (unitAt s u).state = .run) (hi : inc ≠ (unitAt s u).inc) :
    Answers (.txnPrepare tid u inc) s fun t => txnAborted s t tid 2 ∧ (x.kind ≠ 2 → t.un.staleReq = satInc s.un.staleReq) := by
  have hr : txnRefusal (unitAt s u) inc true = some stStale := by rw [txnRefusal_run _ _ _ hst, if_pos hi]
  refine ⟨_, exec_txnPrepare hx hp hm hh, ?_⟩
  rw [hr]
  exact ⟨txnAborted_stale hx (txnLive_preparing hp) ha (by decide), staleReq_abort_stale hx (txnLive_preparing hp) ha⟩

end

/-- Settles O8: each message is evaluated at its member, and an abort is noted whatever its kind brings about. -/
theorem transactionMembers : Obligations.TransactionMembers := by
  unfold Obligations.TransactionMembers
  refine ⟨fun tid u inc x s hx hl hm hh ht => ⟨_, exec_txnEnrol hx hl hm hh, ?_⟩,
    fun tid u inc x s hx hl hm hh => refused_of_enrol hx hl hm hh,
    fun tid u inc x s hx hp hm hh ht => ⟨_, exec_txnPrepare hx hp hm hh, ?_⟩,
    fun tid u inc x s hx hp hm hh => refused_of_prepare hx hp hm hh,
    fun tid u inc x s hx hh => ⟨?_, ?_⟩,
    fun tid u x m s => txnAbort_discards,
    fun tid u x s hx hh => ?_,
    fun tid u x s => decisionQuery_commits,
    fun tid u x s hx hq hr ha hrec hp hm => decisionQuery_aborts hx hq hr ha hrec hp hm,
    fun tid u x s hx ha => ?_⟩
  · have hin : (memberSt x (pageOf u)).isSome = true := by rw [← memberOf_of_find hx, hm]; rfl
    rw [txnRefusal_takes ht]
    refine ⟨?_, (onlyTxn_txnSet _ _ _).trans (substEnrolled_onlyTxn _ _)⟩
    rw [memberOf_congr (membership_substEnrolled _ _), memberOf_txnSet_self]
    exact memberSt_memberUpd_st hin (fun _ => rfl) fun _ => rfl
  · have hin : (memberSt x (pageOf u)).isSome = true := by rw [← memberOf_of_find hx, hm]; rfl
    rw [txnRefusal_takes ht]
    refine ⟨?_, onlyTxn_txnSet _ _ _⟩
    unfold memberTo
    rw [memberOf_txnSet_self]
    exact memberSt_memberUpd_st hin (fun _ => rfl) fun _ => rfl
  · show execTxnEnrol tid u inc s = _
    simp [execTxnEnrol, hx, hh]
  · show execTxnPrepare tid u inc s = _
    simp [execTxnPrepare, hx, hh]
  · show execTxnAbort tid u s = _
    simp [execTxnAbort, hx, hh]
  · have hd : (x.kind = 1 && (partOf s x.key).any stepInDoubt) = true := by
      simpa [abortable] using ha
    show execDecisionQuery tid u s = _
    unfold execDecisionQuery
    simp only [hx, hd]
    split <;> rfl

end Sys2Proof.Machine
end

section
/-! PROOF. How the units stand, and what leaves it as it is (O3, O11). `standing` is a reading of the state that almost every function
below keeps, which a simp lemma under the function's name says (`_standing`): in full the records of all units but for their events and
errors, the count of commits, and the partitions' shapes and holds; otherwise no more than the units in reset on a command. -/
namespace Sys2Proof.Machine
open Sys2Proof

/-- A unit's record without its events and its error record. -/
def core (x : Unit) : Unit := { x with evt := 0, err0 := 0, err1 := 0, err2 := 0, err3 := 0 }

/-- The partition records' shapes and holds, where the partitions stand as they should. -/
def heldOf (m : Map Part) : Option (List (Nat × Nat × Nat × List Nat)) :=
  if partsApart m && m.all (fun e => e.1 = e.2.t0 && e.2.t0 + 2 ^ e.2.log2n ≤ 512) then
    some (m.map fun e => (e.1, e.2.t0, e.2.log2n, e.2.holds)) else none

/-- The record of a unit in reset on a command, its state left open. -/
def duty (x : Unit) : Option Unit := if x.cmd = some .reset then some { core x with state := .off } else none

def standingOf (full : Bool) (tab : Map Unit) (commits : W64) (parts : Map Part) :
    (Nat → Option Unit) × Option (W64 × Option (List (Nat × Nat × Nat × List Nat))) :=
  if full then (fun page => some (core ((mapFind tab page).getD { state := .off })), some (commits, heldOf parts))
  else (fun page => duty ((mapFind tab page).getD { state := .off }), none)

/-- In full: how the units stand, page by page, the count of commits and what holds the partitions; else the units in reset on a command. -/
def standing (full : Bool) (s : State) : (Nat → Option Unit) × Option (W64 × Option (List (Nat × Nat × Nat × List Nat))) :=
  standingOf full s.un.tab s.un.commitCnt s.tl.parts

section
variable {s t : State} {full : Bool} {α β : Type}

@[simp] theorem standing_ite {c : Prop} {_ : Decidable c} {a b : State} :
    standing full (if c then a else b) = if c then standing full a else standing full b := by split <;> rfl

@[simp] theorem standing_iteFst {c : Prop} {_ : Decidable c} {a b : State × β} :
    standing full (if c then a else b).1 = if c then standing full a.1 else standing full b.1 := by split <;> rfl

@[simp] theorem standing_foldl {f : State → α → State} {l : List α} (hf : ∀ s a, standing full (f s a) = standing full s) :
    standing full (l.foldl f s) = standing full s :=
  List.foldlRecOn l f (motive := fun t => standing full t = standing full s) rfl (fun _ k _ _ => (hf _ _).trans k)

@[simp] theorem standing_foldlFst {f : State × β → α → State × β} {l : List α} {m : State × β}
    (hf : ∀ m a, standing full (f m a).1 = standing full m.1) : standing full (l.foldl f m).1 = standing full m.1 :=
  List.foldlRecOn l f (motive := fun t => standing full t.1 = standing full m.1) rfl (fun _ k _ _ => (hf _ _).trans k)

theorem standing_congr (ht : t.un.tab = s.un.tab) (hc : t.un.commitCnt = s.un.commitCnt) (hp : t.tl.parts = s.tl.parts) :
    standing full t = standing full s := by
  simp only [standing, ht, hc, hp]

/-- The units alone stand in their table. -/
theorem standing_units (ht : t.un.tab = s.un.tab) : standing false t = standing false s := by
  simp only [standing, standingOf, ht, Bool.false_eq_true, if_false]

@[simp] theorem standing_mk {hw un tl rg mm ks fw fb pw mt mi pn free pending} :
    standing full ⟨hw, un, tl, rg, mm, ks, fw, fb, pw, mt, mi, pn, free, pending⟩ = standingOf full un.tab un.commitCnt tl.parts := by
  simp only [standing]

@[simp] theorem standingOf_eta : standingOf full s.un.tab s.un.commitCnt s.tl.parts = standing full s := by simp only [standing]

theorem unitAt_off {u : UnitId} (h : unitInit u = { state := .off }) :
    (mapFind s.un.tab (pageOf u)).getD { state := .off } = unitAt s u := by
  rw [unitAt, h]

theorem find_unitSet {u : UnitId} {x : Unit} (page : Nat) :
    (mapFind (unitSet s u x).un.tab page).getD { state := .off } =
      if page = pageOf u then x else (mapFind s.un.tab page).getD { state := .off } := by
  show (mapFind (mapSet s.un.tab (pageOf u) x) page).getD { state := .off } = _
  rw [mapFind_mapSet]
  split <;> rfl

theorem standing_units_congr
    (h : ∀ page, duty ((mapFind t.un.tab page).getD { state := .off }) = duty ((mapFind s.un.tab page).getD { state := .off })) :
    standing false t = standing false s :=
  Prod.ext (funext h) rfl

/-- A write that leaves a unit's core leaves how the units stand. -/
theorem standing_unitSet {u : UnitId} {x : Unit} (h : unitInit u = { state := .off }) (hx : core x = core (unitAt s u)) :
    standing full (unitSet s u x) = standing full s := by
  have hcmd : (core x).cmd = (core (unitAt s u)).cmd := by rw [hx]
  have hduty : duty x = duty (unitAt s u) := by
    unfold duty
    rw [hx, show x.cmd = (unitAt s u).cmd from hcmd]
  cases full with
  | true =>
    refine Prod.ext (funext fun page => ?_) rfl
    show some (core ((mapFind (unitSet s u x).un.tab page).getD _)) = some (core _)
    rw [find_unitSet]
    split
    next hp => rw [hp, unitAt_off h, hx]
    next => rfl
  | false =>
    refine standing_units_congr fun page => ?_
    rw [find_unitSet]
    split
    next hp => rw [hp, unitAt_off h, hduty]
    next => rfl

theorem unitInit_cmd (u : UnitId) : (unitInit u).cmd = none := by
  cases u <;> rfl

theorem duty_find (s : State) (u : UnitId) : duty ((mapFind s.un.tab (pageOf u)).getD { state := .off }) = duty (unitAt s u) := by
  unfold unitAt
  cases mapFind s.un.tab (pageOf u) with
  | none => simp [duty, unitInit_cmd]
  | some x => rfl

/-- A state change, and the end of a command other than RESET, leave the units in reset on a command. -/
theorem standing_false_unitSet {u : UnitId} {x : Unit} (hx : duty x = duty (unitAt s u)) :
    standing false (unitSet s u x) = standing false s := by
  refine standing_units_congr fun page => ?_
  rw [find_unitSet]
  split
  next hp => rw [hp, duty_find, hx]
  next => rfl

@[simp] theorem standing_irqEdge : standing full (irqEdge s) = standing full s := by
  unfold irqEdge
  dsimp only
  split <;> exact standing_congr rfl rfl rfl

theorem unitEvt_standing {u : UnitId} {bits : Nat} (h : unitInit u = { state := .off }) :
    standing full (unitEvt s u bits) = standing full s :=
  standing_irqEdge.trans (standing_unitSet h rfl)

theorem core_errRecord {x : Unit} {status source lo hi : Nat} {ctx : Option Nat} :
    core (errRecord x status source lo hi ctx) = core x := by
  unfold errRecord
  split <;> rfl

theorem errLog_standing {u : UnitId} {status source lo hi : Nat} {ctx : Option Nat} (h : unitInit u = { state := .off }) :
    standing full (errLog s u status source lo hi ctx) = standing full s :=
  standing_irqEdge.trans (standing_unitSet h core_errRecord)

@[simp] theorem unitEvt_tile_standing {n bits : Nat} :
    standing full (unitEvt s (.tile n) bits) = standing full s := unitEvt_standing rfl

@[simp] theorem unitEvt_cluster_standing {n bits : Nat} : standing full (unitEvt s (.cluster n) bits) = standing full s :=
  unitEvt_standing rfl

@[simp] theorem unitEvt_hport_standing {n bits : Nat} :
    standing full (unitEvt s (.hport n) bits) = standing full s := unitEvt_standing rfl

@[simp] theorem unitEvt_fport_standing {n bits : Nat} :
    standing full (unitEvt s (.fport n) bits) = standing full s := unitEvt_standing rfl

@[simp] theorem errLog_tile_standing {n status source lo hi : Nat} {ctx : Option Nat} :
    standing full (errLog s (.tile n) status source lo hi ctx) = standing full s := errLog_standing rfl

@[simp] theorem errLog_fport_standing {n status source lo hi : Nat} {ctx : Option Nat} :
    standing full (errLog s (.fport n) status source lo hi ctx) = standing full s := errLog_standing rfl

/-- A unit enters a state: its record is otherwise as it was, but for its events. -/
theorem core_setUState (s : State) (u : UnitId) (st : UState) :
    core (unitAt (setUState s u st) u) = core { unitAt s u with state := st } := by
  unfold setUState
  dsimp only
  split
  next h => rw [← h]
  next => simp [evtOr, core]

theorem cmd_setUState (s : State) (u : UnitId) (st : UState) : (unitAt (setUState s u st) u).cmd = (unitAt s u).cmd :=
  show (core _).cmd = (core { unitAt s u with state := st }).cmd by rw [core_setUState]

@[simp] theorem unitEvt_standing_false {u : UnitId} {bits : Nat} : standing false (unitEvt s u bits) = standing false s :=
  standing_irqEdge.trans (standing_false_unitSet rfl)

@[simp] theorem setUState_standing_false {u : UnitId} {st : UState} : standing false (setUState s u st) = standing false s := by
  unfold setUState
  dsimp only
  split
  · rfl
  · exact standing_irqEdge.trans (standing_false_unitSet rfl)

theorem cmdDone_standing_false {u : UnitId} {status : Nat} (hc : (unitAt s u).cmd ≠ some .reset) :
    standing false (cmdDone s u status) = standing false s :=
  standing_irqEdge.trans (standing_false_unitSet (by simp [duty, evtOr, hc]))

theorem partFind_mem {m : Map Part} {n : Nat} {p : Part} (h : partFind m n = some p) :
    ∃ e ∈ m, e.2 = p ∧ p.t0 ≤ n ∧ n < p.t0 + 2 ^ p.log2n := by
  induction m with
  | nil => cases h
  | cons q r ih =>
    obtain ⟨k, q⟩ := q
    rw [partFind] at h
    split at h
    next hq =>
      cases h
      simp only [Bool.and_eq_true, decide_eq_true_eq] at hq
      exact ⟨_, List.mem_cons_self, rfl, hq⟩
    · obtain ⟨e, he, hr⟩ := ih h
      exact ⟨e, .tail _ he, hr⟩

/-- In a table that stands as it should a record is found under its own T0 only. -/
theorem partFind_unique {m : Map Part} {n : Nat} {p : Part} {e : Nat × Part} (ha : partsApart m = true) (hk : ∀ e ∈ m, e.1 = e.2.t0)
    (hp : partFind m n = some p) (he : e ∈ m) (h0 : e.1 = p.t0) : e.2 = p := by
  induction m with
  | nil => cases he
  | cons q r ih =>
    obtain ⟨k, q⟩ := q
    obtain ⟨hq, hr⟩ := partsApart_cons.mp ha
    have hpos := Nat.two_pow_pos q.log2n
    have hk' := fun f hf => hk f (.tail _ hf)
    rw [partFind] at hp
    split at hp
    · cases hp
      rcases List.mem_cons.mp he with rfl | he
      · rfl
      · have h1 := hq e he
        have h2 := hk' e he
        simp only at h1
        omega
    · rcases List.mem_cons.mp he with rfl | he
      · have hpr := partFind_mem hp
        obtain ⟨f, hf, rfl, -, -⟩ := hpr
        have h1 := hq f hf
        have h2 := hk (k, q) List.mem_cons_self
        simp only at h0 h1 h2
        omega
      · exact ih hr hk' hp he

theorem heldOf_eq (s : State) : heldOf s.tl.parts =
    if partsWf s then some (s.tl.parts.map fun e => (e.1, e.2.t0, e.2.log2n, e.2.holds)) else none := rfl

theorem heldOf_partSet {p q : Part} {n : Nat} (hp : partOf s n = some p) (ht : q.t0 = p.t0) (hh : q.holds = p.holds) :
    heldOf (partSet s q).tl.parts = heldOf s.tl.parts := by
  rw [heldOf_eq, heldOf_eq, partsWf_congr partSet_placed]
  split
  next w =>
    obtain ⟨ha, hk⟩ := partsWf_iff.mp w
    refine congrArg some ?_
    simp only [partSet, List.map_map]
    refine List.map_congr_left fun e he => ?_
    simp only [Function.comp]
    split
    next h0 =>
      have := partFind_unique ha (fun e he => (hk e he).1) hp he (h0.trans ht)
      rw [hh, ← this]
    next => rfl
  next => rfl

/-- A partition's record replaced by one that keeps its T0 and its holds. -/
theorem partSet_standing {p q : Part} {n : Nat} (hp : partOf s n = some p) (ht : q.t0 = p.t0) (hh : q.holds = p.holds) :
    standing full (partSet s q) = standing full s := by
  have h := heldOf_partSet hp ht hh
  simp only [standing, standingOf, h]
  rfl

@[simp] theorem partSet_standing_false {q : Part} : standing false (partSet s q) = standing false s := standing_units rfl

theorem partUpd_standing {n : Nat} {f : Part → Part} (ht : ∀ p, (f p).t0 = p.t0) (hh : ∀ p, (f p).holds = p.holds) :
    standing full (partUpd s n f) = standing full s := by
  unfold partUpd
  split
  · rfl
  next p hp => exact partSet_standing hp (ht p) (hh p)

@[simp] theorem partUpd_standing_false {n : Nat} {f : Part → Part} : standing false (partUpd s n f) = standing false s := by
  unfold partUpd
  split
  · rfl
  · exact standing_units rfl

@[simp] theorem tileSet_standing {t : Nat} {x : Tile} : standing full (tileSet s t x) = standing full s :=
  standing_congr rfl rfl rfl

@[simp] theorem tilesUpd_standing {ts : List Nat} {f : Tile → Tile} : standing full (tilesUpd s ts f) = standing full s := by
  simp [tilesUpd]

@[simp] theorem noteDetail_standing {t lo : Nat} : standing full (noteDetail s t lo) = standing full s :=
  partUpd_standing (fun _ => rfl) (fun _ => rfl)

@[simp] theorem blockCommit_standing {t status : Nat} : standing full (blockCommit s t status) = standing full s := by
  refine partUpd_standing (fun p => ?_) (fun p => ?_)
  · split
    · rfl
    · split <;> rfl
  · split
    · rfl
    · split <;> rfl

@[simp] theorem tileErr_standing {t status source lo hi : Nat} :
    standing full (tileErr s t status source lo hi) = standing full s := by
  simp [tileErr]

@[simp] theorem tileSramUe_standing {t source lo : Nat} : standing full (tileSramUe s t source lo) = standing full s := by
  simp [tileSramUe]

@[simp] theorem tileFlags_standing {t : Nat} {es : List FlagEv} : standing full (tileFlags s t es) = standing full s := by
  simp [tileFlags]

@[simp] theorem tileResidue_standing {t engine lane pc : Nat} :
    standing full (tileResidue s t engine lane pc) = standing full s := by
  simp [tileResidue]

@[simp] theorem tileNote_standing {t : Nat} {n : TileNote} : standing full (tileNote t s n) = standing full s := by
  cases n <;> simp [tileNote]

@[simp] theorem tileNotes_standing {t : Nat} {ns : List TileNote} : standing full (tileNotes s t ns) = standing full s := by
  simp [tileNotes]

@[simp] theorem tileUntil_standing {t : Nat} {done : Tile → Bool} {n : Nat} :
    standing full (tileUntil s t done n) = standing full s := by
  simp [tileUntil]

@[simp] theorem tileSettle_standing {t : Nat} : standing full (tileSettle s t) = standing full s := by
  simp [tileSettle]

@[simp] theorem queueSet_standing {c : CmdRef} {q : Queue} : standing false (queueSet s c q) = standing false s :=
  standing_units rfl

@[simp] theorem finishRes_standing {c : CmdRef} {status result : Nat} :
    standing false (finishRes s c status result) = standing false s := by
  unfold finishRes
  (repeat' split) <;> simp

@[simp] theorem finishCmd_standing {c : CmdRef} {status : Nat} : standing false (finishCmd s c status) = standing false s := by
  simp [finishCmd]

@[simp] theorem countStale_standing {st : Nat} : standing full (countStale s st) = standing full s := by
  simp [countStale]

@[simp] theorem outUpd_standing {page tag : Nat} {f : Outst → Outst} : standing full (outUpd s page tag f) = standing full s :=
  standing_congr rfl rfl rfl

@[simp] theorem outEnd_standing {page tag status : Nat} : standing full (outEnd s page tag status) = standing full s :=
  standing_congr rfl rfl rfl

@[simp] theorem dropTxnOutst_standing {tid page : Nat} : standing full (dropTxnOutst s tid page) = standing full s := by
  simp [dropTxnOutst]

@[simp] theorem reqReply_standing {r : Req} {status : Nat} {data : List Byte} :
    standing full (reqReply s r status data) = standing full s :=
  standing_congr rfl rfl rfl

@[simp] theorem reqDeliver_standing {r : Req} : standing full (reqDeliver s r) = standing full s := by
  unfold reqDeliver
  split <;> simp

@[simp] theorem acceptedReset_standing {u : UnitId} : standing full (acceptedReset s u) = standing full s := by
  simp [acceptedReset]

@[simp] theorem txnSet_standing {tid : Nat} {x : Txn} : standing full (txnSet s tid x) = standing full s :=
  standing_congr rfl rfl rfl

@[simp] theorem txnAbortRecord_standing {tid : Nat} {x : Txn} {cause : Nat} :
    standing full (txnAbortRecord s tid x cause) = standing full s :=
  standing_congr rfl rfl rfl

@[simp] theorem barHeld_standing {p : Part} : standing full (barHeld s p) = standing full s := by
  simp [barHeld]

@[simp] theorem barIssue_standing {p : Part} {next : Tile → Option Nat} {bid : Option Nat} :
    standing full (barIssue s p next bid) = standing full s := by
  unfold barIssue
  rw [partUpd_standing]
  · simp
  · exact fun _ => rfl
  · exact fun _ => rfl

theorem stepAborted_standing {p : Part} {n cause gate : Nat} (hp : partOf s n = some p) :
    standing full (stepAborted s p cause gate) = standing full s :=
  (unitEvt_standing rfl).trans (partSet_standing hp rfl rfl)

@[simp] theorem barDecided_standing {t0 : Nat} : standing full (barDecided s t0) = standing full s := by
  unfold barDecided
  split
  · rfl
  next p hp =>
    split
    · split
      · exact barIssue_standing
      · exact partSet_standing hp rfl rfl
    · rfl

@[simp] theorem substSet_standing {c : Nat} {x : Subst} : standing full (substSet s c x) = standing full s :=
  standing_congr rfl rfl rfl

@[simp] theorem substAborted_standing {c : Nat} : standing full (substAborted s c) = standing full s := by
  simp [substAborted]

@[simp] theorem actAborted_standing {cause : Nat} : standing full (actAborted s cause) = standing full s := by
  simp [actAborted]

@[simp] theorem txnAbortGate_standing {tid cause gate : Nat} :
    standing full (txnAbortGate s tid cause gate) = standing full s := by
  unfold txnAbortGate
  split
  · rfl
  · split
    · rfl
    · extract_lets s0 s1
      have h1 : standing full s1 = standing full s := txnAbortRecord_standing.trans (txnSet_standing.trans dropTxnOutst_standing)
      split
      · split
        · exact h1
        next hp => exact barDecided_standing.trans ((stepAborted_standing hp).trans h1)
      · exact substAborted_standing.trans h1
      · exact actAborted_standing.trans h1
      · exact h1

@[simp] theorem txnAbort_standing {tid cause : Nat} : standing full (txnAbort s tid cause) = standing full s := by
  simp [txnAbort]

@[simp] theorem stepAbort_standing {p : Part} {cause : Nat} : standing full (stepAbort s p cause) = standing full s := by
  simp [stepAbort]

@[simp] theorem txnsOfUnit_standing {page cause : Nat} : standing full (txnsOfUnit s page cause) = standing full s := by
  simp [txnsOfUnit]

@[simp] theorem txnsOfHit_standing {pages : List Nat} : standing full (txnsOfHit s pages) = standing full s := by
  simp [txnsOfHit]

@[simp] theorem outAnswer_standing {o : Outst} {status : Nat} : standing full (outAnswer s o status) = standing full s := by
  unfold outAnswer
  split <;> simp

@[simp] theorem packetsReset_standing {k : Nat} : standing full (packetsReset s k) = standing full s := by
  simp [packetsReset]

@[simp] theorem landStopped_standing {t : Nat} : standing full (landStopped s t) = standing full s := by
  simp [landStopped]

@[simp] theorem substOfPart_standing {p : Part} {cause : Nat} : standing full (substOfPart s p cause) = standing full s := by
  refine standing_foldl fun s e => ?_
  split <;> simp

@[simp] theorem stopPart_standing {p : Part} {status cause : Nat} :
    standing full (stopPart s p status cause) = standing full s := by
  unfold stopPart
  split
  · rfl
  · dsimp only
    rw [partUpd_standing]
    · simp
    · exact fun _ => rfl
    · exact fun _ => rfl

@[simp] theorem plateFault_standing {t source : Nat} : standing full (plateFault s t source) = standing full s := by
  unfold plateFault
  dsimp only
  (repeat' split) <;> simp

@[simp] theorem fetchBeyond_standing {t0 : Nat} : standing full (fetchBeyond s t0) = standing full s := by
  unfold fetchBeyond
  (repeat' split) <;> simp

@[simp] theorem fportSet_standing {p : Nat} {x : FPort} : standing full (fportSet s p x) = standing full s :=
  standing_congr rfl rfl rfl

@[simp] theorem pathSet_standing {node p : Nat} {x : PathSt} : standing full (pathSet s node p x) = standing full s :=
  standing_congr rfl rfl rfl

@[simp] theorem groupSet_standing {g : Nat} {x : Group} : standing full (groupSet s g x) = standing full s :=
  standing_congr rfl rfl rfl

@[simp] theorem groupUpd_standing {g : Nat} {f : Group → Group} : standing full (groupUpd s g f) = standing full s := by
  unfold groupUpd
  split <;> simp

@[simp] theorem portTx_standing {p : Nat} {q : PathHdr} {hdr : Nat} {body tag : List Byte} :
    standing full (portTx s p q hdr body tag) = standing full s := by
  simp [portTx]

@[simp] theorem pctrNext_standing {f : UFrame} {p : Nat} : standing full (pctrNext s f p) = standing full s := by
  unfold pctrNext
  split <;> simp

@[simp] theorem frameTx_standing {node p pseq : Nat} {retx : Bool} {f : UFrame} :
    standing full (frameTx s node p pseq retx f) = standing full s := by
  simp [frameTx]

@[simp] theorem sendOn_standing {node p : Nat} {retx : Bool} {f : UFrame} :
    standing full (sendOn s node p retx f) = standing full s := by
  simp [sendOn]

@[simp] theorem assignPort_standing {g : List (Nat × UFrame × Bool)} : standing full (assignPort s g).1 = standing full s := by
  unfold assignPort
  dsimp only
  (repeat' split) <;> simp

@[simp] theorem servePort_standing {asg : List (Nat × Nat × UFrame × Bool)} {p : Nat} :
    standing full (servePort asg s p) = standing full s := by
  simp [servePort]

@[simp] theorem serveFabric_standing  : standing full (serveFabric s) = standing full s := by
  simp [serveFabric]

@[simp] theorem serveLinks_standing  : standing full (serveLinks s) = standing full s := by
  simp [serveLinks]

@[simp] theorem sendFrames_standing {node : Nat} {retx : Bool} {fs : List UFrame} :
    standing full (sendFrames s node retx fs) = standing full s := by
  simp [sendFrames]

@[simp] theorem pathDown_standing {node p : Nat} : standing full (pathDown s node p) = standing full s := by
  simp [pathDown]

@[simp] theorem portDown_standing {p : Nat} : standing full (portDown s p) = standing full s := by
  simp [portDown]

@[simp] theorem pathProbe_standing {node p : Nat} : standing full (pathProbe s node p) = standing full s :=
  standing_congr rfl rfl rfl

@[simp] theorem portProbe_standing {p : Nat} : standing full (portProbe s p) = standing full s := by
  simp [portProbe]

@[simp] theorem portFollow_standing {p : Nat} {st : UState} : standing full (portFollow s p st) = standing full s := by
  unfold portFollow
  split <;> simp

@[simp] theorem resumeTile_standing {t : Nat} : standing false (resumeTile s t) = standing false s := by
  unfold resumeTile
  extract_lets x s1
  have h1 : standing false s1 = standing false s := setUState_standing_false
  split
  · rfl
  · split
    next hc =>
      refine (cmdDone_standing_false ?_).trans h1
      simp only [Bool.and_eq_true, decide_eq_true_eq] at hc
      have : (unitAt s1 (.tile t)).cmd = x.cmd := cmd_setUState s _ _
      rw [this, hc.1.2]
      decide
    next => exact h1

@[simp] theorem unholdPart_standing {t0 : Nat} : standing false (unholdPart s t0) = standing false s := by
  unfold unholdPart
  split <;> simp

@[simp] theorem withdrawHolds_standing {page : Nat} : standing false (withdrawHolds s page) = standing false s := by
  simp [withdrawHolds]

@[simp] theorem tokenAdd_standing {t i n : Nat} : standing full (tokenAdd s t i n) = standing full s := by
  simp [tokenAdd]

@[simp] theorem stepCommitted_standing {tid : Nat} {x : Txn} {p : Part} :
    standing false (stepCommitted s tid x p) = standing false s := by
  unfold stepCommitted
  extract_lets _ p1 s1 _ s2
  have h2 : standing false s2 = standing false s := standing_units rfl
  split
  · exact (unitEvt_standing rfl).trans h2
  · exact h2

@[simp] theorem ctxSet_standing {c : Nat} {x : Ctx} : standing false (ctxSet s c x) = standing false s := standing_units rfl

@[simp] theorem hportSet_standing {k : Nat} {x : HPort} : standing false (hportSet s k x) = standing false s := standing_units rfl

@[simp] theorem funcSet_standing {f : Nat} {x : Func} : standing false (funcSet s f x) = standing false s := standing_units rfl

@[simp] theorem sendMsi_standing {f v : Nat} : standing false (sendMsi s f v) = standing false s := standing_units rfl

@[simp] theorem winWrite_standing {c off : Nat} {bs : List Byte} : standing false (winWrite s c off bs) = standing false s :=
  standing_units rfl

@[simp] theorem ringPut_standing {c : Nat} {r : Ring} {v : Nat} : standing false (ringPut s c r v).1 = standing false s :=
  standing_units rfl

@[simp] theorem ringDrain_standing {n c claimed : Nat} {r : Ring} :
    standing false (ringDrain n s c claimed r).1 = standing false s := by
  induction n generalizing s r with
  | zero => rfl
  | succ k ih =>
    rw [ringDrain]
    split
    · rfl
    · rw [standing_iteFst, ih, ringPut_standing]
      simp

@[simp] theorem ringPost_standing {c claimed : Nat} {r : Ring} {e : Event} :
    standing false (ringPost s c claimed r e).1 = standing false s := by
  simp [ringPost]

@[simp] theorem msiIf_standing {r : Ring} {f : Nat} {wrote : Bool} : standing false (msiIf s r f wrote) = standing false s := by
  simp [msiIf]

@[simp] theorem postAdmin_standing {port : Nat} {e : Event} : standing false (postAdmin s port e) = standing false s := by
  unfold postAdmin
  dsimp only
  (repeat' split) <;> simp

@[simp] theorem postCtx_standing {c : Nat} {e : Event} : standing false (postCtx s c e) = standing false s := by
  unfold postCtx
  split <;> simp

@[simp] theorem objSet_standing {o : Nat} {x : Obj} : standing false (objSet s o x) = standing false s := standing_units rfl

@[simp] theorem fenceUpd_standing {o : Nat} {f : Obj → Obj} : standing false (fenceUpd s o f) = standing false s := by
  unfold fenceUpd
  split <;> simp

@[simp] theorem mcSet_standing {m : Nat} {x : Mc} : standing full (mcSet s m x) = standing full s := standing_congr rfl rfl rfl

@[simp] theorem farFail_standing {blk cause : Nat} : standing false (farFail s blk cause) = standing false s := by
  unfold farFail
  dsimp only
  (repeat' split) <;> simp

@[simp] theorem wayLines_standing {mine : Nat → Bool} {restart : Nat → CCache → CCache} :
    standing full (wayLines s mine restart) = standing full s :=
  standing_congr rfl rfl rfl

@[simp] theorem cmdUpd_standing {r : CmdRef} {f : QCmd → QCmd} : standing false (cmdUpd s r f) = standing false s := by
  unfold cmdUpd
  split <;> simp

@[simp] theorem laneDel_standing {t : Nat} : standing full (laneDel s t) = standing full s := standing_congr rfl rfl rfl

@[simp] theorem launchEnded_standing {t : Nat} : standing full (launchEnded s t) = standing full s :=
  partUpd_standing (fun _ => rfl) (fun _ => rfl)

@[simp] theorem payTokens_standing {t rq data : Nat} : standing full (payTokens s t rq data) = standing full s := by
  simp [payTokens]

@[simp] theorem failTile_standing {t status lseq : Nat} : standing full (failTile s t status lseq) = standing full s := by
  simp [failTile]

@[simp] theorem noteFail_standing {gix status src : Nat} : standing full (noteFail s gix status src) = standing full s := by
  simp [noteFail]

@[simp] theorem failLane_standing {t status src : Nat} : standing full (failLane s t status src) = standing full s := by
  unfold failLane
  dsimp only
  (repeat' split) <;> simp

@[simp] theorem sendFail_standing {gix status rank step lseq : Nat} {whole : Bool} :
    standing full (sendFail s gix status rank step lseq whole) = standing full s := by
  unfold sendFail
  split <;> simp

@[simp] theorem failLaunch_standing {gix step lseq status src : Nat} :
    standing full (failLaunch s gix step lseq status src) = standing full s := by
  simp [failLaunch]

@[simp] theorem abortLaunch_standing {t status src : Nat} : standing full (abortLaunch s t status src) = standing full s := by
  unfold abortLaunch
  split <;> simp

@[simp] theorem voteAborted_standing {t0 : Nat} : standing false (voteAborted s t0) = standing false s := by
  unfold voteAborted
  split <;> simp

@[simp] theorem commitPart_standing {t0 step round : Nat} : standing false (commitPart s t0 step round) = standing false s := by
  unfold commitPart
  dsimp only
  (repeat' split) <;> simp

@[simp] theorem abortPart_standing {t0 : Nat} : standing false (abortPart s t0) = standing false s := by
  simp [abortPart]

@[simp] theorem settleVote_standing {m : LocalMem} {grpStep : Nat} :
    standing false (settleVote s m grpStep) = standing false s := by
  unfold settleVote
  split <;> simp

@[simp] theorem memberFailed_standing {g : Group} {lost : Nat} {m : LocalMem} :
    standing false (memberFailed g lost s m) = standing false s := by
  simp [memberFailed]

@[simp] theorem closeRemote_standing {g : Group} : standing false (closeRemote g s) = standing false s := by
  unfold closeRemote
  split <;> simp

@[simp] theorem joinDone_standing {status : Nat} {m : LocalMem} : standing false (joinDone status s m) = standing false s := by
  unfold joinDone
  split <;> simp

@[simp] theorem groupFail_standing {gix status lost : Nat} {tell : Bool} :
    standing false (groupFail s gix status lost tell) = standing false s := by
  unfold groupFail
  dsimp only
  (repeat' split) <;> simp

@[simp] theorem groupFree_standing {gix : Nat} : standing false (groupFree s gix) = standing false s := by
  unfold groupFree
  split <;> simp

@[simp] theorem memberLeave_standing {gix t0 : Nat} : standing false (memberLeave s gix t0) = standing false s := by
  unfold memberLeave
  dsimp only
  (repeat' split) <;> simp

@[simp] theorem leaveAll_standing {t0 : Nat} : standing false (leaveAll s t0) = standing false s := by
  simp [leaveAll]

@[simp] theorem exportEnd_standing {r : CmdRef} : standing false (exportEnd s r) = standing false s := by
  simp [exportEnd]

@[simp] theorem abortBusy_standing {r : CmdRef} {k : QCmd} : standing false (abortBusy s r k) = standing false s := by
  unfold abortBusy
  dsimp only
  (repeat' split) <;> simp

@[simp] theorem abortQueue_standing {r : CmdRef} : standing false (abortQueue s r) = standing false s := by
  unfold abortQueue
  dsimp only
  (repeat' split) <;> simp

@[simp] theorem abortAll_standing {c : Nat} : standing false (abortAll s c) = standing false s := by
  simp [abortAll]

@[simp] theorem abandonShared_standing {c : Nat} : standing false (abandonShared s c) = standing false s := by
  refine standing_foldl fun s e => ?_
  split <;> simp

@[simp] theorem partBurnish_standing {p : Part} : standing false (partBurnish s p) = standing false s := by
  simp [partBurnish]

@[simp] theorem disableCtx_standing {c : Nat} : standing false (disableCtx s c) = standing false s := by
  simp [disableCtx]

@[simp] theorem postDisabled_standing {fk : Nat} {old new : Half} {cause : Nat} :
    standing false (postDisabled s fk old new cause) = standing false s := by
  simp [postDisabled]

@[simp] theorem disableFunc_standing {cause fk : Nat} : standing false (disableFunc s cause fk) = standing false s := by
  simp [disableFunc]

@[simp] theorem disableEvent_standing {port cause : Nat} {fks : List Nat} :
    standing false (disableEvent s port cause fks) = standing false s := by
  simp [disableEvent]

@[simp] theorem farUnreached_standing  : standing false (farUnreached s) = standing false s := by
  simp [farUnreached]

@[simp] theorem farLost_standing  : standing false (farLost s) = standing false s := by
  simp [farLost]

@[simp] theorem portReset_standing {k : Nat} : standing false (portReset s k) = standing false s := by
  simp [portReset]

end
end Sys2Proof.Machine
end

section
/-! PROOF. What an accepted unit command does (O3). -/
namespace Sys2Proof.Machine
open Sys2Proof

section
variable {s t : State}

/-! ### Records by page -/

@[simp] theorem core_state (x : Unit) : (core x).state = x.state := rfl

@[simp] theorem core_cmdBusy (x : Unit) : (core x).cmdBusy = x.cmdBusy := rfl

@[simp] theorem core_cmd (x : Unit) : (core x).cmd = x.cmd := rfl

@[simp] theorem core_root (x : Unit) : (core x).root = x.root := rfl

@[simp] theorem core_waiting (x : Unit) : (core x).waiting = x.waiting := rfl

@[simp] theorem core_evtOr (x : Unit) (bits : Nat) : core (evtOr x bits) = core x := rfl

/-- The record that stands on a page, without its events and errors; a page that nothing wrote reads as of a unit in OFF. -/
def coreAt (s : State) (page : Nat) : Unit := core ((mapFind s.un.tab page).getD { state := .off })

theorem coreAt_of_standing (h : standing true t = standing true s) (page : Nat) : coreAt t page = coreAt s page :=
  Option.some.inj (congrFun (congrArg Prod.fst h) page)

theorem coreAt_congr (h : t.un.tab = s.un.tab) (page : Nat) : coreAt t page = coreAt s page := by
  rw [coreAt, h, coreAt]

@[simp] theorem coreAt_irqEdge (s : State) (page : Nat) : coreAt (irqEdge s) page = coreAt s page :=
  coreAt_of_standing standing_irqEdge page

theorem coreAt_unitSet (s : State) (u : UnitId) (x : Unit) (page : Nat) :
    coreAt (unitSet s u x) page = if page = pageOf u then core x else coreAt s page := by
  rw [coreAt, find_unitSet]
  split <;> rfl

@[simp] theorem coreAt_unitSet_self (s : State) (u : UnitId) (x : Unit) : coreAt (unitSet s u x) (pageOf u) = core x := by
  rw [coreAt_unitSet, if_pos rfl]

theorem coreAt_unitSet_ne {u : UnitId} {page : Nat} (h : page ≠ pageOf u) (s : State) (x : Unit) :
    coreAt (unitSet s u x) page = coreAt s page := by
  rw [coreAt_unitSet, if_neg h]

/-- A unit reads the record on its page, once the record is there. -/
theorem core_unitAt {u : UnitId} (h : unitInit u = { state := .off } ∨ (coreAt s (pageOf u)).state ≠ .off) :
    core (unitAt s u) = coreAt s (pageOf u) := by
  unfold coreAt unitAt at *
  cases hf : mapFind s.un.tab (pageOf u) with
  | none =>
    obtain h | h := h
    · rw [h]
    · simp [hf] at h
  | some x => rfl

/-- Every field but the state reads the same before a unit's page is first written. -/
theorem core_unitAt_off (s : State) (u : UnitId) :
    { core (unitAt s u) with state := .off } = { coreAt s (pageOf u) with state := .off } := by
  unfold coreAt unitAt
  cases mapFind s.un.tab (pageOf u) with
  | none => cases u <;> rfl
  | some x => rfl

theorem cmdBusy_unitAt (s : State) (u : UnitId) : (unitAt s u).cmdBusy = (coreAt s (pageOf u)).cmdBusy :=
  show ({ core (unitAt s u) with state := .off } : Unit).cmdBusy = _ by rw [core_unitAt_off]

theorem waiting_unitAt (s : State) (u : UnitId) : (unitAt s u).waiting = (coreAt s (pageOf u)).waiting :=
  show ({ core (unitAt s u) with state := .off } : Unit).waiting = _ by rw [core_unitAt_off]

theorem root_unitAt (s : State) (u : UnitId) : (unitAt s u).root = (coreAt s (pageOf u)).root :=
  show ({ core (unitAt s u) with state := .off } : Unit).root = _ by rw [core_unitAt_off]

/-! ### A unit enters a state, and a command ends -/

theorem coreAt_setUState_ne {u : UnitId} {page : Nat} (h : page ≠ pageOf u) (s : State) (st : UState) :
    coreAt (setUState s u st) page = coreAt s page := by
  unfold setUState
  dsimp only
  split
  · rfl
  · rw [coreAt_irqEdge, coreAt_unitSet_ne h]

theorem coreAt_setUState_self {u : UnitId} {x : Unit} (h : coreAt s (pageOf u) = core x) (hx : core (unitAt s u) = core x) (st : UState) :
    coreAt (setUState s u st) (pageOf u) = core { x with state := st } := by
  unfold setUState
  dsimp only
  split
  next hst =>
    have : x.state = st := by rw [← hst]; exact (congrArg Unit.state hx).symm
    rw [h, ← this]
  next =>
    rw [coreAt_irqEdge, coreAt_unitSet_self, core_evtOr]
    exact congrArg (fun y : Unit => { y with state := st }) hx

theorem coreAt_unitTo_ne {u : UnitId} {page : Nat} (h : page ≠ pageOf u) (s : State) (st : UState) :
    coreAt (unitTo s u st) page = coreAt s page := by
  unfold unitTo
  split
  · split
    · rfl
    · rw [coreAt_of_standing portFollow_standing, coreAt_setUState_ne h]
  · exact coreAt_setUState_ne h s st

theorem coreAt_unitTo_self {u : UnitId} {x : Unit} (h : coreAt s (pageOf u) = core x) (hx : core (unitAt s u) = core x) (st : UState) :
    coreAt (unitTo s u st) (pageOf u) = core { x with state := st } := by
  unfold unitTo
  split
  · split
    next hst =>
      have : x.state = st := by rw [← hst]; exact (congrArg Unit.state hx).symm
      rw [h, ← this]
    next => rw [coreAt_of_standing portFollow_standing, coreAt_setUState_self h hx]
  · exact coreAt_setUState_self h hx st

/-- A unit whose record was just written enters a state. -/
theorem coreAt_unitTo_unitSet (s : State) (u : UnitId) (x : Unit) (st : UState) (page : Nat) :
    coreAt (unitTo (unitSet s u x) u st) page = if page = pageOf u then core { x with state := st } else coreAt s page := by
  split
  next h => rw [h, coreAt_unitTo_self (coreAt_unitSet_self s u x) (by rw [unitAt_unitSet_self])]
  next h => rw [coreAt_unitTo_ne h, coreAt_unitSet_ne h]

theorem coreAt_cmdDone (s : State) (u : UnitId) (status : Nat) (page : Nat) :
    coreAt (cmdDone s u status) page =
      if page = pageOf u then core { unitAt s u with cmdStatus := status, cmdBusy := false, cmd := none } else coreAt s page := by
  rw [cmdDone, coreAt_irqEdge, coreAt_unitSet]
  rfl

/-! ### Pages and descendants -/

/-- A page names the unit fitted there (Table 1-4). -/
theorem unitOfPage_pageOf {hw : Hw} {u : UnitId} (h : present hw u = true) : unitOfPage (pageOf u) = some u := by
  unfold unitOfPage pageOf
  cases u with
  | package => rfl
  | iodie i =>
    simp only [present, Bool.or_eq_true, Bool.and_eq_true, decide_eq_true_eq] at h
    obtain rfl | ⟨rfl, -⟩ := h <;> rfl
  | hport k =>
    simp only [present, Bool.or_eq_true, Bool.and_eq_true, decide_eq_true_eq] at h
    obtain rfl | ⟨rfl, -⟩ := h <;> rfl
  | service k =>
    simp only [present, decide_eq_true_eq] at h
    interval_cases k <;> rfl
  | _ =>
    simp only [present, Bool.or_eq_true, Bool.and_eq_true, decide_eq_true_eq] at h
    simp only [Bool.or_eq_true, Bool.and_eq_true, decide_eq_true_eq]
    grind

theorem pageOf_inj {hw : Hw} {u v : UnitId} (hu : present hw u = true) (hv : present hw v = true) (h : pageOf u = pageOf v) : u = v :=
  Option.some.inj ((unitOfPage_pageOf hu).symm.trans ((congrArg unitOfPage h).trans (unitOfPage_pageOf hv)))

theorem mem_descendants {hw : Hw} {u d : UnitId} :
    d ∈ descendants hw u ↔ d ∈ children hw u ∨ (∃ c ∈ children hw u, d ∈ children hw c) ∨
    ∃ c ∈ children hw u, ∃ e ∈ children hw c, d ∈ children hw e := by
  simp only [descendants, List.mem_append, List.mem_flatMap]
  grind

theorem present_of_children {hw : Hw} {u d : UnitId} (h : d ∈ children hw u) : present hw d = true := (List.mem_filter.mp h).2

theorem present_of_descendants {hw : Hw} {u d : UnitId} (h : d ∈ descendants hw u) : present hw d = true := by
  obtain h | ⟨c, -, h⟩ | ⟨c, -, e, -, h⟩ := mem_descendants.mp h <;> exact present_of_children h

theorem level_of_children {hw : Hw} {u d : UnitId} (h : d ∈ children hw u) : unitLevel u < unitLevel d := by
  have hm : d ∈ childrenAll u := List.mem_of_mem_filter h
  cases u <;> simp only [childrenAll, List.mem_append, List.mem_map, List.mem_singleton, List.not_mem_nil] at hm <;> grind [unitLevel]

theorem level_of_descendants {hw : Hw} {u d : UnitId} (h : d ∈ descendants hw u) : unitLevel u < unitLevel d := by
  obtain h | ⟨c, hc, h⟩ | ⟨c, hc, e, he, h⟩ := mem_descendants.mp h
  · exact level_of_children h
  · exact (level_of_children hc).trans (level_of_children h)
  · exact (level_of_children hc).trans ((level_of_children he).trans (level_of_children h))

theorem pageOf_ne_of_descendants {hw : Hw} {u d : UnitId} (hu : present hw u = true) (h : d ∈ descendants hw u) :
    pageOf d ≠ pageOf u := by
  intro hp
  have := level_of_descendants h
  rw [pageOf_inj (present_of_descendants h) hu hp] at this
  omega

theorem unitTo_eq_setUState {u : UnitId} (h : ∀ p, u ≠ .fport p) (s : State) (st : UState) : unitTo s u st = setUState s u st := by
  unfold unitTo
  split
  next p => exact absurd rfl (h p)
  next => rfl

/-- Another unit's record reads as before: on a page that reads OFF unwritten, and on every page if the unit is no fabric port. -/
theorem core_unitAt_unitTo_ne {u d : UnitId} (h : pageOf d ≠ pageOf u) (hd : unitInit d = { state := .off } ∨ ∀ p, u ≠ .fport p)
    (s : State) (st : UState) : core (unitAt (unitTo s u st) d) = core (unitAt s d) := by
  obtain hd | hu := hd
  · rw [core_unitAt (.inl hd), core_unitAt (.inl hd), coreAt_unitTo_ne h]
  · rw [unitTo_eq_setUState hu, unitAt_setUState_ne s st h]

/-! ### QUIESCE -/

theorem placeHoldAt_un (s : State) (page : Nat) (u : UnitId) : (placeHoldAt s page u).un = s.un := by
  unfold placeHoldAt placeHold partUpd
  split
  · split <;> rfl
  · rfl

theorem unitAt_placeHoldAt (s : State) (page : Nat) (u d : UnitId) : unitAt (placeHoldAt s page u) d = unitAt s d := by
  rw [unitAt, placeHoldAt_un, unitAt]

theorem coreAt_placeHoldAt (s : State) (root : Nat) (u : UnitId) (page : Nat) : coreAt (placeHoldAt s root u) page = coreAt s page :=
  coreAt_congr (by rw [placeHoldAt_un]) page

theorem coreAt_quiesceOne_ne {e : UnitId} {page : Nat} (h : page ≠ pageOf e) (root src : Nat) (s : State) :
    coreAt (quiesceOne root src s e) page = coreAt s page := by
  unfold quiesceOne
  dsimp only
  split
  · rw [coreAt_unitSet_ne h, coreAt_placeHoldAt]
  · split
    · rw [coreAt_unitTo_ne h, coreAt_unitSet_ne h, coreAt_placeHoldAt]
    · exact coreAt_placeHoldAt s root e page

theorem core_unitAt_quiesceOne_ne {e d : UnitId} (h : pageOf d ≠ pageOf e) (hd : unitInit d = { state := .off } ∨ ∀ p, e ≠ .fport p)
    (root src : Nat) (s : State) : core (unitAt (quiesceOne root src s e) d) = core (unitAt s d) := by
  unfold quiesceOne
  dsimp only
  split
  · rw [unitAt_unitSet_ne _ _ h, unitAt_placeHoldAt]
  · split
    · rw [core_unitAt_unitTo_ne h hd, unitAt_unitSet_ne _ _ h, unitAt_placeHoldAt]
    · rw [unitAt_placeHoldAt]

/-- A unit on the way to QUIESCED for a command. -/
def quiescingAt (s : State) (page : Nat) : Prop := (coreAt s page).state = .quiescing ∧ (coreAt s page).cmdBusy = true

theorem quiescingAt_quiesceOne {page : Nat} (h : quiescingAt s page) (root src : Nat) (e : UnitId) :
    quiescingAt (quiesceOne root src s e) page := by
  by_cases hp : page = pageOf e
  · subst hp
    obtain ⟨hst, hb⟩ := h
    have hx : core (unitAt s e) = coreAt s (pageOf e) := core_unitAt (.inr (by rw [hst]; decide))
    have hbusy : (unitAt s e).cmdBusy = true := (cmdBusy_unitAt s e).trans hb
    have hstate : (unitAt s e).state = .quiescing := (congrArg Unit.state hx).trans hst
    unfold quiesceOne
    dsimp only
    rw [if_pos hbusy]
    exact ⟨by rw [coreAt_unitSet_self]; exact hstate, by rw [coreAt_unitSet_self]; exact hbusy⟩
  · unfold quiescingAt
    rw [coreAt_quiesceOne_ne hp]
    exact h

theorem quiescingAt_quiesceOne_self {e : UnitId} (hst : (unitAt s e).state = .run) (hb : (unitAt s e).cmdBusy = false) (root src : Nat) :
    quiescingAt (quiesceOne root src s e) (pageOf e) := by
  unfold quiesceOne
  simp only [hb, hst, Bool.false_eq_true, if_false, if_true, quiescingAt, coreAt_unitTo_unitSet]
  exact ⟨rfl, rfl⟩

theorem coreAt_quiesces_ne {page : Nat} {l : List UnitId} (h : ∀ e ∈ l, page ≠ pageOf e) (root src : Nat) (s : State) :
    coreAt (l.foldl (quiesceOne root src) s) page = coreAt s page :=
  List.foldlRecOn (motive := fun (t : State) => coreAt t page = coreAt s page) l _ rfl
    fun t k e he => (coreAt_quiesceOne_ne (h e he) root src t).trans k

theorem core_unitAt_quiesces_ne {d : UnitId} {l : List UnitId} (h : ∀ e ∈ l, pageOf d ≠ pageOf e)
    (hd : unitInit d = { state := .off } ∨ ∀ e ∈ l, ∀ p, e ≠ .fport p) (root src : Nat) (s : State) :
    core (unitAt (l.foldl (quiesceOne root src) s) d) = core (unitAt s d) :=
  List.foldlRecOn (motive := fun (t : State) => core (unitAt t d) = core (unitAt s d)) l _ rfl
    fun t k e he => (core_unitAt_quiesceOne_ne (h e he) (hd.imp_right fun hl => hl e he) root src t).trans k

theorem level_le_one_of_unitInit {d : UnitId} (h : unitInit d ≠ { state := .off }) : unitLevel d ≤ 1 := by
  cases d with
  | package => exact Nat.zero_le 1
  | iodie i => exact le_rfl
  | service k => exact le_rfl
  | _ => exact absurd rfl h

theorem package_of_level {u : UnitId} (h : unitLevel u < 1) : u = .package := by
  cases u with
  | package => rfl
  | _ => exact absurd h (by simp [unitLevel])

theorem not_fport_of_children_package {hw : Hw} {e : UnitId} (h : e ∈ children hw .package) (p : Nat) : e ≠ .fport p := by
  rintro rfl
  have := List.mem_of_mem_filter h
  simp [childrenAll] at this

theorem filter_split {f : UnitId → Bool} {l m r : List UnitId} {d : UnitId} (hd : d ∈ (l ++ m ++ r).filter f) (hl : d ∈ l) :
    ∃ as bs, (l ++ m ++ r).filter f = as ++ d :: bs ∧ d ∉ as ∧ ∀ e ∈ as, e ∈ l := by
  obtain ⟨as, bs, h, hn⟩ := List.eq_append_cons_of_mem (List.mem_filter.mpr ⟨hl, (List.mem_filter.mp hd).2⟩)
  rw [List.filter_append, List.filter_append, List.append_assoc, h, List.append_assoc, List.cons_append]
  exact ⟨as, _, rfl, hn, fun e he => List.mem_of_mem_filter (h ▸ List.mem_append_left _ he)⟩

/-- Where a scope reaches a unit: the pages of all but I/O die 0 read OFF before their first write, and no fabric port stands before
I/O die 0, as it is among the package's own children. -/
theorem quiesceScope_split {hw : Hw} {u d : UnitId} (hd : d ∈ quiesceScope hw u) :
    ∃ as bs, quiesceScope hw u = as ++ d :: bs ∧ d ∉ as ∧
      (unitInit d = { state := .off } ∨ ∀ e ∈ as, ∀ p, e ≠ .fport p) := by
  by_cases hoff : unitInit d = { state := .off }
  · obtain ⟨as, bs, h, hn⟩ := List.eq_append_cons_of_mem hd
    exact ⟨as, bs, h, hn, .inl hoff⟩
  · have hlevel := level_le_one_of_unitInit hoff
    have hc : d ∈ children hw u := by
      obtain h | ⟨c, hc, h⟩ | ⟨c, hc, e, he, h⟩ := mem_descendants.mp (List.mem_of_mem_filter hd)
      · exact h
      · have := level_of_children hc
        have := level_of_children h
        omega
      · have := level_of_children hc
        have := level_of_children he
        have := level_of_children h
        omega
    have hu : u = .package := package_of_level (by have := level_of_children hc; omega)
    subst hu
    obtain ⟨as, bs, h, hn, has⟩ := filter_split (l := children hw .package) (hd : d ∈ List.filter _ (_ ++ _ ++ _)) hc
    exact ⟨as, bs, h, hn, .inr fun e he => not_fport_of_children_package (has e he)⟩

theorem quiesces_reach {hw : Hw} {u d : UnitId} (hd : d ∈ quiesceScope hw u) (hst : (unitAt s d).state = .run)
    (hb : (unitAt s d).cmdBusy = false) (root src : Nat) : quiescingAt ((quiesceScope hw u).foldl (quiesceOne root src) s) (pageOf d) := by
  obtain ⟨as, bs, h, hn, hoff⟩ := quiesceScope_split hd
  have hpres : ∀ e ∈ quiesceScope hw u, present hw e = true := fun e he => present_of_descendants (List.mem_of_mem_filter he)
  have hne : ∀ e ∈ as, pageOf d ≠ pageOf e := fun e he hp =>
    hn (pageOf_inj (hpres d hd) (hpres e (h ▸ List.mem_append_left _ he)) hp ▸ he)
  rw [h, List.foldl_append, List.foldl_cons]
  have hx := core_unitAt_quiesces_ne hne hoff root src s
  refine List.foldlRecOn (motive := fun (t : State) => quiescingAt t (pageOf d)) bs _ ?_
    fun t k e _ => quiescingAt_quiesceOne k root src e
  exact quiescingAt_quiesceOne_self ((congrArg Unit.state hx).trans hst) ((congrArg Unit.cmdBusy hx).trans hb) root src

/-! ### RESET -/

theorem unitInit_of_descendants {hw : Hw} {u d : UnitId} (hu : unitInit u = { state := .off }) (h : d ∈ descendants hw u) :
    unitInit d = { state := .off } := by
  by_contra hd
  have hu' : u = .package := package_of_level (by have := level_of_descendants h; have := level_le_one_of_unitInit hd; omega)
  subst hu'
  cases hu

theorem iodie_of_hport_child {hw : Hw} {u : UnitId} {k : Nat} (h : .hport k ∈ children hw u) : u = .iodie 0 := by
  have hm := List.mem_of_mem_filter h
  cases u with
  | iodie i =>
    by_cases hi : i = 0
    · rw [hi]
    · simp [childrenAll, hi] at hm
  | _ => simp [childrenAll] at hm

theorem not_hport_of_descendants {hw : Hw} {u d : UnitId} (hu : unitInit u = { state := .off }) (h : d ∈ descendants hw u) (k : Nat) :
    d ≠ .hport k := by
  rintro rfl
  have key : unitInit (.iodie 0) ≠ { state := .off } := by decide
  obtain h | ⟨c, hc, h⟩ | ⟨c, hc, e, he, h⟩ := mem_descendants.mp h
  · exact key (iodie_of_hport_child h ▸ hu)
  · exact key (iodie_of_hport_child h ▸ unitInit_of_descendants hu (mem_descendants.mpr (.inl hc)))
  · exact key (iodie_of_hport_child h ▸ unitInit_of_descendants hu (mem_descendants.mpr (.inr (.inl ⟨c, hc, he⟩))))

/-- A unit's reset values touch no unit's record, no commit count and no partition, but for the package root and the host ports. -/
theorem resetBlock_standing {u : UnitId} (hp : u ≠ .package) (hh : ∀ k, u ≠ .hport k) :
    standing true (resetBlock s u) = standing true s := by
  unfold resetBlock
  split
  · simp
  · exact standing_congr rfl rfl rfl
  · dsimp only
    split <;> exact standing_congr rfl rfl rfl
  · exact absurd rfl hp
  next k => exact absurd rfl (hh k)
  · exact standing_congr rfl rfl rfl
  · split <;> exact standing_congr rfl rfl rfl

/-- What goes on before a unit's registers are reset. -/
def resetPrepared (s : State) (u : UnitId) : State :=
  let s1 := txnsOfUnit (match u with
    | .link k => packetsReset s k
    | _ => s) (pageOf u) 2
  dropOutst { s1 with un := { s1.un with partBurn := mapDel s1.un.partBurn (pageOf u),
                                         substCtl := match u with
                                           | .cluster c => mapDel s1.un.substCtl c
                                           | _ => s1.un.substCtl } } (pageOf u)

/-- The record of a unit that enters RESETTING. -/
def resetRecord (x : Unit) : Unit := { x with inc := x.inc + 1, evt := 0, evtEn := 0 }

theorem enterReset_eq (s : State) (u : UnitId) : enterReset s u =
    acceptedReset (unitTo (unitSet (resetBlock (resetPrepared s u) u) u (resetRecord (unitAt (resetBlock (resetPrepared s u) u) u))) u
      .resetting) u := by
  unfold enterReset resetPrepared
  cases u <;> rfl

theorem resetPrepared_standing {full : Bool} (s : State) (u : UnitId) : standing full (resetPrepared s u) = standing full s := by
  unfold resetPrepared
  extract_lets s1
  have h1 : standing full s1 = standing full s := by
    refine txnsOfUnit_standing.trans ?_
    split <;> simp
  exact (standing_congr rfl rfl rfl).trans h1

/-- A unit that enters RESETTING: its own record, on whatever its block's reset left, and no other. -/
theorem coreAt_enterReset_block (s : State) (u : UnitId) (page : Nat) : coreAt (enterReset s u) page =
    if page = pageOf u then core { resetRecord (unitAt (resetBlock (resetPrepared s u) u) u) with state := .resetting }
    else coreAt (resetBlock (resetPrepared s u) u) page := by
  rw [enterReset_eq, coreAt_of_standing acceptedReset_standing, coreAt_unitTo_unitSet]

theorem coreAt_enterReset {u : UnitId} (hoff : unitInit u = { state := .off }) (hh : ∀ k, u ≠ .hport k) (s : State) (page : Nat) :
    coreAt (enterReset s u) page =
      if page = pageOf u then core { resetRecord (unitAt s u) with state := .resetting } else coreAt s page := by
  have hp : u ≠ .package := by
    rintro rfl
    cases hoff
  have h : standing true (resetBlock (resetPrepared s u) u) = standing true s :=
    (resetBlock_standing hp hh).trans (resetPrepared_standing s u)
  have hx : core (unitAt (resetBlock (resetPrepared s u) u) u) = core (unitAt s u) := by
    rw [core_unitAt (.inl hoff), core_unitAt (.inl hoff), coreAt_of_standing h]
  rw [coreAt_enterReset_block, coreAt_of_standing h]
  split
  · exact congrArg (fun y : Unit => ({ y with inc := y.inc + 1, evtEn := 0, state := .resetting } : Unit)) hx
  · rfl

/-- A unit in reset for a command, its incarnation as given. -/
def resettingAt (s : State) (page : Nat) (inc : Half) : Prop :=
  (coreAt s page).state = .resetting ∧ (coreAt s page).cmdBusy = true ∧ (coreAt s page).inc = inc

theorem coreAt_resetOne_ne {e : UnitId} {page : Nat} (h : page ≠ pageOf e) (hoff : unitInit e = { state := .off })
    (hh : ∀ k, e ≠ .hport k) (root src : Nat) (s : State) : coreAt (resetOne root src s e) page = coreAt s page := by
  unfold resetOne
  dsimp only
  split
  · rfl
  · split
    · rw [coreAt_unitSet_ne h]
    · rw [coreAt_enterReset hoff hh, if_neg h, coreAt_unitSet_ne h]

theorem resettingAt_resetOne {e : UnitId} {page : Nat} {inc : Half} (k : resettingAt s page inc) (hoff : unitInit e = { state := .off })
    (hh : ∀ k, e ≠ .hport k) (root src : Nat) : resettingAt (resetOne root src s e) page inc := by
  by_cases hp : page = pageOf e
  · subst hp
    have hx : core (unitAt s e) = coreAt s (pageOf e) := core_unitAt (.inl hoff)
    unfold resettingAt at k
    rw [← hx] at k
    obtain ⟨hst, hb, hinc⟩ := k
    have hbusy : (unitAt s e).cmdBusy = true := hb
    unfold resetOne
    dsimp only
    split
    · unfold resettingAt
      rw [← hx]
      exact ⟨hst, hb, hinc⟩
    · unfold resettingAt
      rw [coreAt_unitSet_self]
      exact ⟨hst, hb, hinc⟩
  · unfold resettingAt
    rw [coreAt_resetOne_ne hp hoff hh]
    exact k

theorem resettingAt_resetOne_self {e : UnitId} (hst : (unitAt s e).state ≠ .retired) (hb : (unitAt s e).cmdBusy = false)
    (hoff : unitInit e = { state := .off }) (hh : ∀ k, e ≠ .hport k) (root src : Nat) :
    resettingAt (resetOne root src s e) (pageOf e) ((unitAt s e).inc + 1) := by
  unfold resetOne
  simp only [hb, hst, Bool.false_eq_true, if_false, resettingAt, coreAt_enterReset hoff hh, if_true, unitAt_unitSet_self]
  exact ⟨rfl, rfl, rfl⟩

/-- Every idle unit of a list that is not RETIRED is taken into reset. -/
theorem resets_reach {hw : Hw} {d : UnitId} {l : List UnitId} (hd : d ∈ l) (hpres : ∀ e ∈ l, present hw e = true)
    (hoff : ∀ e ∈ l, unitInit e = { state := .off }) (hh : ∀ e ∈ l, ∀ k, e ≠ .hport k) (hst : (unitAt s d).state ≠ .retired)
    (hb : (unitAt s d).cmdBusy = false) (root src : Nat) :
    resettingAt (l.foldl (resetOne root src) s) (pageOf d) ((unitAt s d).inc + 1) := by
  obtain ⟨as, bs, rfl, hn⟩ := List.eq_append_cons_of_mem hd
  have hne : ∀ e ∈ as, pageOf d ≠ pageOf e := fun e he hp =>
    hn (pageOf_inj (hpres d hd) (hpres e (List.mem_append_left _ he)) hp ▸ he)
  have hx : core (unitAt (as.foldl (resetOne root src) s) d) = core (unitAt s d) := by
    rw [core_unitAt (.inl (hoff d hd)), core_unitAt (.inl (hoff d hd))]
    exact List.foldlRecOn (motive := fun (t : State) => coreAt t (pageOf d) = coreAt s (pageOf d)) as _ rfl fun t k e he =>
      (coreAt_resetOne_ne (hne e he) (hoff e (List.mem_append_left _ he)) (hh e (List.mem_append_left _ he)) root src t).trans k
  rw [List.foldl_append, List.foldl_cons]
  refine List.foldlRecOn (motive := fun (t : State) => resettingAt t (pageOf d) ((unitAt s d).inc + 1)) bs _ ?_ fun t k e he =>
    have he' := List.mem_append_right as (List.mem_cons_of_mem d he)
    resettingAt_resetOne k (hoff e he') (hh e he') root src
  have hinc : (unitAt (as.foldl (resetOne root src) s) d).inc = (unitAt s d).inc :=
    show (core _).inc = (core _).inc by rw [hx]
  rw [← hinc]
  exact resettingAt_resetOne_self (fun h => hst ((congrArg Unit.state hx).symm.trans h)) ((congrArg Unit.cmdBusy hx).trans hb)
    (hoff d hd) (hh d hd) root src

/-- R326: the reset of a host port leaves its record's command as it was. -/
theorem core_unitAt_resetBlock_hport {k : Nat} (hc : (unitAt s (.hport k)).cmd = some .reset) :
    { core (unitAt (resetBlock (resetPrepared s (.hport k)) (.hport k)) (.hport k)) with state := .off } =
      { core (unitAt s (.hport k)) with state := .off } := by
  have h : standing false (resetBlock (resetPrepared s (.hport k)) (.hport k)) = standing false s :=
    portReset_standing.trans (resetPrepared_standing s _)
  have hd := congrFun (congrArg Prod.fst h) (pageOf (.hport k))
  change duty _ = duty _ at hd
  rw [duty_find, duty_find] at hd
  unfold duty at hd
  rw [if_pos hc] at hd
  split at hd
  · exact Option.some.inj hd
  · cases hd

theorem children_hport (hw : Hw) (k : Nat) : descendants hw (.hport k) = [] := rfl

/-! ### SLEEP and RETIRE -/

theorem coreAt_sweepTake {u : UnitId} (hoff : unitInit u = { state := .off }) (c : UCmd) (s : State) (page : Nat) :
    coreAt (sweepTake c s u) page = if page = pageOf u then core { unitAt s u with state := sweepState c } else coreAt s page := by
  have hx : coreAt (txnsOfUnit s (pageOf u) 3) (pageOf u) = core (unitAt s u) := by
    rw [coreAt_of_standing txnsOfUnit_standing, core_unitAt (.inl hoff)]
  unfold sweepTake
  split
  next h => rw [h, coreAt_unitTo_self hx (by rw [core_unitAt (.inl hoff), hx])]
  next h => rw [coreAt_unitTo_ne h, coreAt_of_standing txnsOfUnit_standing]

theorem coreAt_sweepOne_ne {e : UnitId} {page : Nat} (h : page ≠ pageOf e) (hoff : unitInit e = { state := .off }) (c : UCmd)
    (root src : Nat) (s : State) : coreAt (sweepOne c root src s e) page = coreAt s page := by
  unfold sweepOne
  dsimp only
  split
  · split
    · rfl
    · rw [coreAt_unitSet_ne h]
  · split
    · rfl
    · split
      · rw [coreAt_unitSet_ne h]
      · rw [coreAt_sweepTake hoff, if_neg h, coreAt_unitSet_ne h]

/-- No action waits on any unit. -/
def calmAt (s : State) : Prop := ∀ page, (coreAt s page).waiting = []

theorem calmAt_of_calmUnits (h : calmUnits s = true) : calmAt s := by
  intro page
  unfold coreAt
  cases hf : mapFind s.un.tab page with
  | none => rfl
  | some x => simpa using List.all_eq_true.mp h _ (mem_of_mapFind hf)

theorem sweepWaits_calm (h : calmAt s) (c : UCmd) (root : Nat) (u : UnitId) : sweepWaits s c root u = false := by
  unfold sweepWaits
  rw [List.any_eq_false]
  intro d _
  rw [waiting_unitAt, h]
  simp

/-- A unit that SLEEP or RETIRE takes along: SLEEP takes only the QUIESCED. -/
def swept (c : UCmd) (st : UState) : Prop := c ≠ .sleep ∨ st = .quiesced ∨ st = .sleep

/-- SLEEP or RETIRE at an idle unit where nothing waits. -/
theorem sweepOne_idle {e : UnitId} (hoff : unitInit e = { state := .off }) (hcalm : calmAt s) (hb : (unitAt s e).cmdBusy = false) (c : UCmd)
    (root src : Nat) : calmAt (sweepOne c root src s e) ∧ (coreAt (sweepOne c root src s e) (pageOf e)).cmdBusy = false ∧
      (swept c (coreAt s (pageOf e)).state → (coreAt (sweepOne c root src s e) (pageOf e)).state = sweepState c) := by
  have hx : core (unitAt s e) = coreAt s (pageOf e) := core_unitAt (.inl hoff)
  have hw : (unitAt s e).waiting = [] := (waiting_unitAt s e).trans (hcalm _)
  rw [← hx]
  unfold sweepOne
  simp only [hb, Bool.false_and, Bool.false_eq_true, if_false, sweepWaits_calm hcalm]
  split
  next h =>
    simp only [Bool.and_eq_true, decide_eq_true_eq] at h
    obtain ⟨rfl, hq⟩ := h
    rw [← hx]
    refine ⟨hcalm, hb, fun hs => ?_⟩
    obtain hs | hs | hs := hs
    · exact absurd rfl hs
    · exact absurd hs hq
    · exact hs
  next =>
    refine ⟨fun page => ?_, ?_, fun _ => ?_⟩
    · rw [coreAt_sweepTake hoff]
      split
      · rw [unitAt_unitSet_self]
        exact hw
      next hp =>
        rw [coreAt_unitSet_ne hp]
        exact hcalm page
    · rw [coreAt_sweepTake hoff, if_pos rfl, unitAt_unitSet_self]
      rfl
    · rw [coreAt_sweepTake hoff, if_pos rfl]
      rfl

theorem sweeps_idle {l : List UnitId} (hoff : ∀ e ∈ l, unitInit e = { state := .off }) (hcalm : calmAt s)
    (hb : ∀ e ∈ l, (coreAt s (pageOf e)).cmdBusy = false) (c : UCmd) (root src : Nat) :
    calmAt (l.foldl (sweepOne c root src) s) ∧
      (∀ page, page ∉ l.map pageOf → coreAt (l.foldl (sweepOne c root src) s) page = coreAt s page) ∧
      ∀ page ∈ l.map pageOf, swept c (coreAt s page).state →
        (coreAt (l.foldl (sweepOne c root src) s) page).state = sweepState c := by
  induction l generalizing s with
  | nil => exact ⟨hcalm, fun _ _ => rfl, fun _ h => absurd h List.not_mem_nil⟩
  | cons e l ih =>
    obtain ⟨hoffe, hoffl⟩ := List.forall_mem_cons.mp hoff
    obtain ⟨hbe, hbl⟩ := List.forall_mem_cons.mp hb
    obtain ⟨hcalm', hb', hst⟩ := sweepOne_idle hoffe hcalm ((cmdBusy_unitAt s e).trans hbe) c root src
    have hne : ∀ page, page ≠ pageOf e → coreAt (sweepOne c root src s e) page = coreAt s page :=
      fun page h => coreAt_sweepOne_ne h hoffe c root src s
    have hbl' : ∀ d ∈ l, (coreAt (sweepOne c root src s e) (pageOf d)).cmdBusy = false := by
      intro d hd
      by_cases hp : pageOf d = pageOf e
      · rw [hp, hb']
      · rw [hne _ hp, hbl d hd]
    obtain ⟨h1, h2, h3⟩ := ih hoffl hcalm' hbl'
    refine ⟨h1, fun page hp => ?_, fun page hp hs => ?_⟩
    · simp only [List.map_cons, List.mem_cons, not_or] at hp
      exact (h2 page hp.2).trans (hne page hp.1)
    · have hs' : page = pageOf e → (coreAt (sweepOne c root src s e) page).state = sweepState c := by
        rintro rfl
        exact hst hs
      by_cases hl : page ∈ l.map pageOf
      · refine h3 page hl ?_
        by_cases he : page = pageOf e
        · rw [hs' he]
          by_cases hc : c = .sleep
          · rw [hc]
            exact .inr (.inr rfl)
          · exact .inl hc
        · rw [hne page he]
          exact hs
      · rw [List.foldl_cons, h2 page hl]
        exact hs' ((List.mem_cons.mp hp).resolve_right hl)

/-- A unit busy with a command of its own. -/
def ownBusyAt (s : State) (root page : Nat) : Prop := (coreAt s page).cmdBusy = true ∧ (coreAt s page).root ≠ root

theorem ownBusyAt_sweepOne {root page : Nat} (h : ownBusyAt s root page) {e : UnitId} (hoff : unitInit e = { state := .off }) (c : UCmd)
    (src : Nat) : ownBusyAt (sweepOne c root src s e) root page ∧
      ((coreAt s page).waiting.contains (root, c) = true ∨ page = pageOf e →
        (coreAt (sweepOne c root src s e) page).waiting.contains (root, c) = true) := by
  by_cases hp : page = pageOf e
  · subst hp
    have hx : core (unitAt s e) = coreAt s (pageOf e) := core_unitAt (.inl hoff)
    unfold ownBusyAt at h ⊢
    rw [← hx] at h ⊢
    obtain ⟨hb, hr⟩ := h
    unfold sweepOne
    dsimp only
    rw [if_pos (by simpa using ⟨hb, hr⟩)]
    split
    next hc =>
      rw [← hx]
      exact ⟨⟨hb, hr⟩, fun _ => hc⟩
    next =>
      rw [coreAt_unitSet_self]
      exact ⟨⟨hb, hr⟩, fun _ => by simp⟩
  · unfold ownBusyAt
    rw [coreAt_sweepOne_ne hp hoff]
    exact ⟨h, fun k => k.resolve_right hp⟩

/-- R35: an action waits on every unit of the list that is busy with a command of its own. -/
theorem sweeps_wait {l : List UnitId} (hoff : ∀ e ∈ l, unitInit e = { state := .off }) {root page : Nat} (h : ownBusyAt s root page)
    (c : UCmd) (src : Nat) (hl : (coreAt s page).waiting.contains (root, c) = true ∨ page ∈ l.map pageOf) :
    (coreAt (l.foldl (sweepOne c root src) s) page).waiting.contains (root, c) = true := by
  induction l generalizing s with
  | nil => exact hl.resolve_right List.not_mem_nil
  | cons e l ih =>
    obtain ⟨hoffe, hoffl⟩ := List.forall_mem_cons.mp hoff
    obtain ⟨h', hw⟩ := ownBusyAt_sweepOne h hoffe c src
    refine ih hoffl h' ?_
    obtain hl | hl := hl
    · exact .inl (hw (.inl hl))
    · exact (List.mem_cons.mp hl).imp (fun he => hw (.inr he)) id

theorem coreAt_sweeps_ne {l : List UnitId} {page : Nat} (hoff : ∀ e ∈ l, unitInit e = { state := .off }) (h : page ∉ l.map pageOf)
    (c : UCmd) (root src : Nat) (s : State) : coreAt (l.foldl (sweepOne c root src) s) page = coreAt s page :=
  List.foldlRecOn (motive := fun (t : State) => coreAt t page = coreAt s page) l _ rfl fun t k e he =>
    (coreAt_sweepOne_ne (fun hp => h (List.mem_map.mpr ⟨e, he, hp.symm⟩)) (hoff e he) c root src t).trans k

theorem children_of_variant {hw hw' : Hw} (hv : hw'.variant = hw.variant) {u d : UnitId} (hd : ∀ k, d ≠ .hport k)
    (h : d ∈ children hw u) :
    d ∈ children hw' u := by
  obtain ⟨hm, hp⟩ := List.mem_filter.mp h
  refine List.mem_filter.mpr ⟨hm, ?_⟩
  cases d with
  | hport k => exact absurd rfl (hd k)
  | package => rfl
  | _ => simpa only [present, hv] using hp

theorem not_hport_of_child {hw : Hw} {u d : UnitId} (h : d ∈ children hw u) (k : Nat) : u ≠ .hport k := by
  rintro rfl
  cases h

/-- The tree below a unit depends on the variant alone, but for the second host port. -/
theorem descendants_of_variant {hw hw' : Hw} (hv : hw'.variant = hw.variant) {u d : UnitId} (hd : ∀ k, d ≠ .hport k)
    (h : d ∈ descendants hw u) : d ∈ descendants hw' u := by
  refine mem_descendants.mpr ((mem_descendants.mp h).imp (children_of_variant hv hd) (Or.imp ?_ ?_))
  · rintro ⟨c, hc, h⟩
    exact ⟨c, children_of_variant hv (not_hport_of_child h) hc, children_of_variant hv hd h⟩
  · rintro ⟨c, hc, e, he, h⟩
    exact ⟨c, children_of_variant hv (not_hport_of_child he) hc, e, children_of_variant hv (not_hport_of_child h) he,
      children_of_variant hv hd h⟩

/-! ### The partition of a tile, and its holds -/

theorem partFind_within {m : Map Part} {k n : Nat} {p : Part} (ha : partsApart m = true) (hp : partFind m k = some p) (h0 : p.t0 ≤ n)
    (h1 : n < p.t0 + 2 ^ p.log2n) : partFind m n = some p := by
  induction m with
  | nil => cases hp
  | cons e r ih =>
    obtain ⟨key, q⟩ := e
    obtain ⟨hq, hr⟩ := partsApart_cons.mp ha
    rw [partFind] at hp ⊢
    split at hp
    next =>
      cases hp
      rw [if_pos (by simpa using ⟨h0, h1⟩)]
    next =>
      obtain ⟨f, hf, rfl, -, -⟩ := partFind_mem hp
      have := hq f hf
      rw [if_neg (by simp only [Bool.and_eq_true, decide_eq_true_eq] at this ⊢; omega)]
      exact ih hr hp

theorem partFind_partSet {m : Map Part} (hk : ∀ e ∈ m, e.1 = e.2.t0) (q : Part) (n : Nat) :
    partFind (m.map fun e => if e.1 = q.t0 then (e.1, { q with t0 := e.2.t0, log2n := e.2.log2n }) else e) n =
      (partFind m n).map fun p => if p.t0 = q.t0 then { q with t0 := p.t0, log2n := p.log2n } else p := by
  induction m with
  | nil => rfl
  | cons e r ih =>
    obtain ⟨key, p⟩ := e
    obtain ⟨hkey, hr⟩ := List.forall_mem_cons.mp hk
    simp only at hkey
    subst hkey
    rw [List.map_cons]
    by_cases hq : p.t0 = q.t0
    · rw [if_pos hq]
      unfold partFind
      split
      next => simp [hq]
      next => exact ih hr
    · rw [if_neg hq]
      unfold partFind
      split
      next => simp [hq]
      next => exact ih hr

theorem partOf_partSet (w : partsWf s = true) (q : Part) (n : Nat) :
    partOf (partSet s q) n = (partOf s n).map fun p => if p.t0 = q.t0 then { q with t0 := p.t0, log2n := p.log2n } else p :=
  partFind_partSet (fun e he => ((partsWf_iff.mp w).2 e he).1) q n

theorem partOf_within (w : partsWf s = true) {k n : Nat} {p : Part} (hp : partOf s k = some p) (h0 : p.t0 ≤ n)
    (h1 : n < p.t0 + 2 ^ p.log2n) : partOf s n = some p :=
  partFind_within (partsWf_iff.mp w).1 hp h0 h1

theorem partOf_t0 (w : partsWf s = true) {n : Nat} {p : Part} (hp : partOf s n = some p) : partOf s p.t0 = some p :=
  partOf_within w hp le_rfl (Nat.lt_add_of_pos_right (Nat.two_pow_pos _))

/-- The holds on the partition of a tile. -/
def holdsOf (s : State) (n : Nat) : Option (List Nat) := (partOf s n).map Part.holds

/-- One partition's holds but for those of a page. -/
def unhold (page : Nat) (s : State) (k : Nat) : State := partUpd s k (fun p => { p with holds := p.holds.filter (fun h => h ≠ page) })

theorem unhold_wf (w : partsWf s = true) (page k : Nat) : partsWf (unhold page s k) = true :=
  (partsWf_congr partUpd_placed).trans w

theorem partOf_unhold (w : partsWf s = true) (page k n : Nat) : partOf (unhold page s k) n =
    (partOf s n).map fun p => if partOf s k = some p then { p with holds := p.holds.filter (fun h => h ≠ page) } else p := by
  unfold unhold partUpd
  cases hk : partOf s k with
  | none => simp
  | some q =>
    dsimp only
    rw [partOf_partSet w]
    refine Option.map_congr fun p hp => ?_
    by_cases h : p.t0 = q.t0
    · have : q = p := Option.some.inj ((partOf_t0 w hk).symm.trans (h ▸ partOf_t0 w hp))
      simp [this]
    · have : q ≠ p := fun e => h (e ▸ rfl)
      simp [h, this]

/-- After a unit's holds go, a partition is held as before but for them. -/
theorem holdsOf_unholds (w : partsWf s = true) {page n : Nat} {p : Part} (hp : partOf s n = some p) (ks : List Nat) :
    holdsOf (ks.foldl (unhold page) s) n = some (p.holds.filter fun h => h ≠ page) ∨
      (holdsOf (ks.foldl (unhold page) s) n = some p.holds ∧ p.t0 ∉ ks) := by
  induction ks generalizing s p with
  | nil => exact .inr ⟨by rw [holdsOf, List.foldl_nil, hp]; rfl, List.not_mem_nil⟩
  | cons k ks ih =>
    have hn := partOf_unhold w page k n
    rw [hp, Option.map_some] at hn
    rw [List.foldl_cons]
    split at hn
    next =>
      obtain h | ⟨h, -⟩ := ih (unhold_wf w page k) hn
      · left
        simpa using h
      · exact .inl h
    next hk =>
      refine (ih (unhold_wf w page k) hn).imp_right fun ⟨h, ht⟩ => ⟨h, ?_⟩
      rw [List.mem_cons, not_or]
      exact ⟨fun e => hk (e ▸ partOf_t0 w hp), ht⟩

theorem unholds_wf (w : partsWf s = true) (page : Nat) (ks : List Nat) : partsWf (ks.foldl (unhold page) s) = true :=
  List.foldlRecOn (motive := fun (t : State) => partsWf t = true) ks _ w fun _ h k _ => unhold_wf h page k

theorem holdsOf_unholds_none (w : partsWf s = true) {page n : Nat} (hp : partOf s n = none) (ks : List Nat) :
    holdsOf (ks.foldl (unhold page) s) n = none := by
  have h : partsWf (ks.foldl (unhold page) s) = true ∧ partOf (ks.foldl (unhold page) s) n = none :=
    List.foldlRecOn (motive := fun (t : State) => partsWf t = true ∧ partOf t n = none) ks _ ⟨w, hp⟩ fun t h k _ =>
      ⟨unhold_wf h.1 page k, by rw [partOf_unhold h.1, h.2]; rfl⟩
  rw [holdsOf, h.2]
  rfl

theorem partFind_shape (m : Map Part) (n : Nat) : (partFind m n).map Part.holds =
    ((m.map fun e => (e.1, e.2.t0, e.2.log2n, e.2.holds)).find?
      (fun e => e.2.1 ≤ n && n < e.2.1 + 2 ^ e.2.2.1)).map (fun e => e.2.2.2) := by
  induction m with
  | nil => rfl
  | cons e r ih =>
    rw [partFind, List.map_cons, List.find?_cons]
    split
    next h => rw [h]; rfl
    next h =>
      rw [Bool.not_eq_true] at h
      rw [h]
      exact ih

theorem holdsOf_congr (w : partsWf s = true) (h : heldOf t.tl.parts = heldOf s.tl.parts) :
    partsWf t = true ∧ ∀ n, holdsOf t n = holdsOf s n := by
  rw [heldOf_eq, heldOf_eq, if_pos w] at h
  split at h
  next w' => exact ⟨w', fun n => by rw [holdsOf, partOf, partFind_shape, Option.some.inj h, ← partFind_shape]; rfl⟩
  next => cases h

/-! ### RESUME -/

theorem resumeTile_tl (s : State) (n : Nat) : (resumeTile s n).tl = s.tl := by
  obtain ⟨_, _, _, h⟩ := setUState_frame s (.tile n) .run
  have h1 : (unitTo s (.tile n) .run).tl = s.tl := by
    show (setUState s (.tile n) .run).tl = s.tl
    rw [h]
  unfold resumeTile
  dsimp only
  split
  · rfl
  · split
    · obtain ⟨_, _, _, k⟩ := cmdDone_frame (unitTo s (.tile n) .run) (.tile n) stOk
      rw [k]
      exact h1
    · exact h1

/-- The record of a tile as its partition's last hold goes: its own RESUME ends with OK. -/
def resumed (x : Unit) (page : Nat) : Unit :=
  if x.state ≠ .quiesced then x
  else if x.cmdBusy && x.cmd = some .resume && x.root = page then { x with state := .run, cmdStatus := stOk, cmdBusy := false, cmd := none }
  else { x with state := .run }

theorem core_resumed (x : Unit) (page : Nat) : core (resumed x page) = resumed (core x) page := by
  unfold resumed
  rw [apply_ite core, apply_ite core]
  rfl

theorem coreAt_resumeTile (s : State) (n page : Nat) :
    coreAt (resumeTile s n) page = if page = pageOf (.tile n) then resumed (coreAt s page) page else coreAt s page := by
  have hoff : unitInit (.tile n) = { state := .off } := rfl
  have hx : core (unitAt s (.tile n)) = coreAt s (pageOf (.tile n)) := core_unitAt (.inl hoff)
  have hself : coreAt (unitTo s (.tile n) .run) (pageOf (.tile n)) = core { unitAt s (.tile n) with state := .run } :=
    coreAt_unitTo_self hx.symm rfl .run
  split
  next hp =>
    subst hp
    rw [← hx, ← core_resumed]
    unfold resumeTile resumed
    dsimp only
    split
    · exact hx.symm
    · split
      · rw [coreAt_cmdDone, if_pos rfl]
        have hy : core (unitAt (unitTo s (.tile n) .run) (.tile n)) = core { unitAt s (.tile n) with state := .run } := by
          rw [core_unitAt (.inl hoff), hself]
        exact congrArg (fun y : Unit => ({ y with cmdStatus := stOk, cmdBusy := false, cmd := none } : Unit)) hy
      · exact hself
  next hp =>
    unfold resumeTile
    dsimp only
    split
    · rfl
    · split
      · rw [coreAt_cmdDone, if_neg hp, coreAt_unitTo_ne hp]
      · exact coreAt_unitTo_ne hp s .run

/-- A relation that a tile's resumption keeps is kept as a partition's tiles resume. -/
theorem unholdPart_rel {P : State → Prop} (hP : ∀ {a b}, (∀ page, coreAt b page = coreAt a page) → P a → P b) {k : Nat}
    (h : ∀ p, partOf s k = some p → p.holds.isEmpty = true → ∀ n ∈ partTiles p, ∀ t, P t → P (resumeTile t n)) (hs : P s) :
    P (unholdPart s k) := by
  unfold unholdPart
  split
  · exact hs
  next p hp =>
    split
    next he =>
      have h1 : P ((partTiles p).foldl resumeTile s) := List.foldlRecOn (motive := P) _ _ hs fun t ht n hn => h p hp he n hn t ht
      dsimp only
      split
      · refine hP (fun page => coreAt_of_standing ?_ page) h1
        rw [partUpd_standing]
        · simp
        · exact fun _ => rfl
        · exact fun _ => rfl
      · split
        · exact hP (fun page => coreAt_of_standing (by simp) page) h1
        · exact h1
    next => exact hs

theorem heldOf_unholdPart (s : State) (k : Nat) : heldOf (unholdPart s k).tl.parts = heldOf s.tl.parts := by
  have held {a b : State} (h : standing true a = standing true b) : heldOf a.tl.parts = heldOf b.tl.parts :=
    congrArg Prod.snd (Option.some.inj (congrArg Prod.snd h))
  unfold unholdPart
  split
  · rfl
  next p hp =>
    split
    next he =>
      have h1 : ((partTiles p).foldl resumeTile s).tl = s.tl :=
        List.foldlRecOn (motive := fun (t : State) => t.tl = s.tl) _ _ rfl fun t ht n _ => (resumeTile_tl t n).trans ht
      dsimp only
      split
      · rw [held (b := (partTiles p).foldl resumeTile s), h1]
        rw [partUpd_standing]
        · simp
        · exact fun _ => rfl
        · exact fun _ => rfl
      · split
        · rw [held (b := (partTiles p).foldl resumeTile s) (by simp), h1]
        · rw [h1]
    next => rfl

theorem unhold_un (page : Nat) (s : State) (k : Nat) : (unhold page s k).un = s.un := by
  unfold unhold partUpd
  split <;> rfl

theorem unholds_un (page : Nat) (s : State) (ks : List Nat) : (ks.foldl (unhold page) s).un = s.un :=
  List.foldlRecOn (motive := fun (t : State) => t.un = s.un) ks _ rfl fun t h k _ => (unhold_un page t k).trans h

/-- The partitions that a unit's QUIESCE holds. -/
def heldKeys (s : State) (page : Nat) : List Nat := (s.tl.parts.filter (fun e => e.2.holds.contains page)).map Prod.fst

theorem withdrawHolds_eq (s : State) (page : Nat) :
    withdrawHolds s page = (heldKeys s page).foldl unholdPart ((heldKeys s page).foldl (unhold page) s) := rfl

theorem withdrawHolds_rel {P : State → Prop} (hP : ∀ {a b}, (∀ page, coreAt b page = coreAt a page) → P a → P b)
    (h : ∀ t n, P t → P (resumeTile t n)) (hs : P s) (page : Nat) : P (withdrawHolds s page) := by
  rw [withdrawHolds_eq]
  refine List.foldlRecOn (motive := P) _ _ (hP (fun q => coreAt_congr (by rw [unholds_un]) q) hs) fun t ht k _ => ?_
  exact unholdPart_rel hP (fun _ _ _ n _ t => h t n) ht

theorem heldOf_unholdParts (s : State) (ks : List Nat) : heldOf (ks.foldl unholdPart s).tl.parts = heldOf s.tl.parts :=
  List.foldlRecOn (motive := fun (t : State) => heldOf t.tl.parts = heldOf s.tl.parts) ks _ rfl
    fun t h k _ => (heldOf_unholdPart t k).trans h

/-- What holds a tile's partition once a unit's own holds are gone. -/
theorem holdsOf_withdrawn (w : partsWf s = true) (page n : Nat) : holdsOf ((heldKeys s page).foldl (unhold page) s) n =
    (holdsOf s n).map fun l => l.filter fun h => h ≠ page := by
  cases hp : partOf s n with
  | none => rw [holdsOf_unholds_none w hp, holdsOf, hp]; rfl
  | some p =>
    rw [holdsOf, holdsOf, hp]
    obtain h | ⟨h, hk⟩ := holdsOf_unholds w hp (heldKeys s page)
    · exact h
    · rw [holdsOf] at h
      rw [h]
      refine congrArg some (List.filter_eq_self.mpr fun x hx => ?_).symm
      obtain ⟨e, he, rfl, -, -⟩ := partFind_mem hp
      have hkey := ((partsWf_iff.mp w).2 e he).1
      by_contra hc
      refine hk (List.mem_map.mpr ⟨e, List.mem_filter.mpr ⟨he, ?_⟩, hkey⟩)
      simp only [decide_not, Bool.not_eq_true', decide_eq_false_iff_not, not_not] at hc
      simpa [← hc] using hx

theorem holdsOf_withdrawHolds (w : partsWf s = true) (page n : Nat) :
    holdsOf (withdrawHolds s page) n = (holdsOf s n).map fun l => l.filter fun h => h ≠ page := by
  rw [withdrawHolds_eq, (holdsOf_congr (unholds_wf w page _) (heldOf_unholdParts _ _)).2, holdsOf_withdrawn w]

theorem stillHeld_tile (s : State) (n : Nat) : stillHeld s (.tile n) = (holdsOf s n).any fun l => !l.isEmpty := by
  unfold stillHeld holdsOf
  dsimp only
  cases partOf s n <;> rfl

theorem heldElse_tile (s : State) (n : Nat) : heldElse s (.tile n) = (holdsOf s n).any fun l => l.any fun h => h ≠ pageOf (.tile n) := by
  unfold heldElse holdsOf
  dsimp only
  cases partOf s n <;> rfl

/-- R38: a unit's own holds gone, another unit's hold its tile as before. -/
theorem stillHeld_withdrawHolds (w : partsWf s = true) (u : UnitId) : stillHeld (withdrawHolds s (pageOf u)) u = heldElse s u := by
  cases u with
  | tile n =>
    rw [stillHeld_tile, heldElse_tile, holdsOf_withdrawHolds w]
    cases holdsOf s n with
    | none => rfl
    | some l =>
      simp only [Option.map_some, Option.any_some]
      rw [Bool.eq_iff_iff]
      simp
  | _ => rfl

/-- The record of a unit whose RESUME goes on or has just ended. -/
def resumingRecord (page : Nat) (inc : Half) (src : Nat) (x : Unit) : Prop :=
  x.inc = inc ∧ x.cmdSrc = src ∧
    ((x.state = .quiesced ∧ x.cmdBusy = true ∧ x.cmd = some .resume ∧ x.root = page) ∨
      (x.state = .run ∧ x.cmdBusy = false ∧ x.cmdStatus = stOk))

theorem resumingRecord_resumed {page : Nat} {inc : Half} {src : Nat} {x : Unit} (h : resumingRecord page inc src x) :
    resumingRecord page inc src (resumed x page) := by
  obtain ⟨hi, hs, ⟨hst, hb, hc, hr⟩ | ⟨hst, hb, hok⟩⟩ := h
  · rw [resumed, if_neg (not_not.mpr hst), if_pos (by simp [hb, hc, hr])]
    exact ⟨hi, hs, .inr ⟨rfl, rfl, rfl⟩⟩
  · rw [resumed, if_pos (by rw [hst]; decide)]
    exact ⟨hi, hs, .inr ⟨hst, hb, hok⟩⟩

theorem waiting_resumed (x : Unit) (page : Nat) : (resumed x page).waiting = x.waiting := by
  unfold resumed
  split
  · rfl
  · split <;> rfl

theorem resumingRecord_withdrawHolds {page : Nat} {inc : Half} {src : Nat} (h : resumingRecord page inc src (coreAt s page)) :
    resumingRecord page inc src (coreAt (withdrawHolds s page) page) := by
  refine withdrawHolds_rel (P := fun t => resumingRecord page inc src (coreAt t page)) (fun hc ha => by rwa [hc]) (fun t n ht => ?_) h page
  rw [coreAt_resumeTile]
  split
  · exact resumingRecord_resumed ht
  · exact ht

theorem calmAt_withdrawHolds (h : calmAt s) (page : Nat) : calmAt (withdrawHolds s page) := by
  refine withdrawHolds_rel (P := calmAt) (fun hc ha q => by rw [hc, ha]) (fun t n ht q => ?_) h page
  rw [coreAt_resumeTile]
  split
  · rw [waiting_resumed, ht]
  · exact ht q

/-- A tile whose partition another unit holds stays as it is. -/
theorem coreAt_withdrawHolds_held (w : partsWf s = true) {n : Nat} (h : heldElse s (.tile n) = true) (page : Nat)
    (hpage : page = pageOf (.tile n)) : coreAt (withdrawHolds s page) page = coreAt s page := by
  have hw := unholds_wf w page (heldKeys s page)
  have hheld : stillHeld ((heldKeys s page).foldl (unhold page) s) (.tile n) = true := by
    rw [← h, hpage, ← stillHeld_withdrawHolds w, stillHeld_tile, stillHeld_tile, withdrawHolds_eq,
      (holdsOf_congr (hpage ▸ hw) (heldOf_unholdParts _ _)).2]
  rw [withdrawHolds_eq]
  refine (List.foldlRecOn (motive := fun (t : State) => coreAt t page = coreAt s page ∧
      heldOf t.tl.parts = heldOf ((heldKeys s page).foldl (unhold page) s).tl.parts) _ _ ⟨coreAt_congr (by rw [unholds_un]) page, rfl⟩
    fun t ⟨ht, hh⟩ k _ => ⟨?_, (heldOf_unholdPart t k).trans hh⟩).1
  refine unholdPart_rel (P := fun r => coreAt r page = coreAt s page) (fun hc ha => (hc page).trans ha) (fun p hp he m hm r hr => ?_) ht
  obtain ⟨hwt, hholds⟩ := holdsOf_congr hw hh
  rw [coreAt_resumeTile, if_neg, hr]
  rw [hpage]
  intro hpm
  have hnm : n = m := by simpa [pageOf] using hpm
  subst hnm
  obtain ⟨i, hi, rfl⟩ := List.mem_map.mp hm
  have hpn := partOf_within hwt hp (Nat.le_add_right _ _) (Nat.add_lt_add_left (List.mem_range.mp hi) p.t0)
  rw [stillHeld_tile, ← hholds, holdsOf, hpn] at hheld
  simp [he] at hheld

/-! ### Nothing is left to settle -/

/-- Actions wait on busy units only. -/
def busyOnly (s : State) : Prop := ∀ page, (coreAt s page).waiting = [] ∨ (coreAt s page).cmdBusy = true

theorem busyOnly_of_calmAt (h : calmAt s) : busyOnly s := fun page => .inl (h page)

theorem busyOnly_unitSet (h : busyOnly s) (u : UnitId) {x : Unit} (hx : x.waiting = [] ∨ x.cmdBusy = true) :
    busyOnly (unitSet s u x) := by
  intro page
  rw [coreAt_unitSet]
  split
  · exact hx
  · exact h page

theorem coreAt_resumeOne_ne {e : UnitId} {page : Nat} (h : page ≠ pageOf e) (root src : Nat) (s : State) :
    coreAt (resumeOne root src s e) page = coreAt s page := by
  unfold resumeOne
  dsimp only
  split
  · rw [coreAt_unitSet_ne h]
  · split
    · rw [coreAt_unitTo_ne h, coreAt_unitSet_ne h]
    · split
      · rw [coreAt_unitSet_ne h]
      · rfl

theorem busyOnly_resumeOne (h : busyOnly s) (root src : Nat) (e : UnitId) : busyOnly (resumeOne root src s e) := by
  unfold resumeOne
  dsimp only
  split
  next hb => exact busyOnly_unitSet h e (.inr hb)
  next hb =>
    have hw : (unitAt s e).waiting = [] := by
      rw [waiting_unitAt]
      exact (h (pageOf e)).resolve_right (by rwa [← cmdBusy_unitAt])
    split
    · intro page
      rw [coreAt_unitTo_unitSet]
      split
      · exact .inl hw
      · exact h page
    · split
      · exact busyOnly_unitSet h e (.inr rfl)
      · exact h

/-- With actions waiting on busy units only, none is ready to apply. -/
theorem settleWaiting_busyOnly (h : busyOnly s) : settleWaiting s = s := by
  unfold settleWaiting
  refine List.foldlRecOn (motive := fun (t : State) => t = s) _ _ rfl fun t ht e _ => ?_
  subst ht
  split
  · rfl
  next u _ =>
    refine if_pos ?_
    rw [Bool.or_eq_true, waiting_unitAt, cmdBusy_unitAt, List.isEmpty_iff]
    exact (h (pageOf u)).symm

/-! ### The commands as a whole -/

theorem fields_of_core {x y : Unit} (h : core x = core y) : x.state = y.state ∧ x.inc = y.inc ∧ x.cmdBusy = y.cmdBusy ∧
    x.cmdStatus = y.cmdStatus ∧ x.cmdSrc = y.cmdSrc ∧ x.cmd = y.cmd ∧ x.waiting = y.waiting := by
  simp only [core, Unit.mk.injEq] at h
  simp only [h, and_self]

/-- What a unit reads once its page's record is known. -/
theorem unitAt_of_coreAt {u : UnitId} {y : Unit} (h : coreAt s (pageOf u) = core y)
    (hy : unitInit u = { state := .off } ∨ y.state ≠ .off) : core (unitAt s u) = core y :=
  (core_unitAt (hy.imp_right fun hy => by rwa [h])).trans h

theorem present_of_accepted {u : UnitId} {w : Writer} {inc : Half} {c : UCmd} (h : ctlAccepted s u w inc c = true) :
    present s.hw u = true := by
  simp only [ctlAccepted, ctlReaches, Bool.and_eq_true] at h
  exact h.1.1.1.1.1

/-- RESET, SLEEP and RETIRE are no commands of the units that stand in RUN from the start (Table 2-4). -/
theorem unitInit_of_accepted {u : UnitId} {w : Writer} {inc : Half} {c : UCmd} (h : ctlAccepted s u w inc c = true)
    (hc : 2 ≤ cmdBit c) : unitInit u = { state := .off } := by
  simp only [ctlAccepted, Bool.and_eq_true] at h
  have hbit := h.1.2
  cases u with
  | package => cases c <;> simp [cmdBit, unitCmds, bitOf] at hc hbit
  | service k => cases c <;> simp [cmdBit, unitCmds, bitOf] at hbit
  | iodie i =>
    by_cases hi : i = 0
    · cases c <;> simp [cmdBit, unitCmds, bitOf, hi] at hc hbit
    · simp [unitInit, hi]
  | _ => rfl

theorem quiesceGo_self {u : UnitId} (hp : present s.hw u = true) (x : Unit) :
    coreAt (quiesceGo (unitSet s u x) u) (pageOf u) = core { x with state := .quiescing } := by
  unfold quiesceGo
  dsimp only
  refine (coreAt_quiesces_ne (fun e he => (pageOf_ne_of_descendants hp (List.mem_of_mem_filter he)).symm) _ _ _).trans ?_
  rw [coreAt_placeHoldAt, coreAt_unitTo_unitSet, if_pos rfl]

theorem quiesceGo_below {u d : UnitId} (hp : present s.hw u = true) (hd : d ∈ quiesceScope s.hw u) (hst : (unitAt s d).state = .run)
    (hb : (unitAt s d).cmdBusy = false) (x : Unit) : quiescingAt (quiesceGo (unitSet s u x) u) (pageOf d) := by
  have hne := pageOf_ne_of_descendants hp (List.mem_of_mem_filter hd)
  have hu : ∀ p, u ≠ .fport p := by
    rintro p rfl
    exact absurd (List.mem_of_mem_filter hd) List.not_mem_nil
  have hx : core (unitAt (placeHoldAt (unitTo (unitSet s u x) u .quiescing) (pageOf u) u) d) = core (unitAt s d) := by
    rw [unitAt_placeHoldAt, core_unitAt_unitTo_ne hne (.inr hu), unitAt_unitSet_ne _ _ hne]
  obtain ⟨hst', -, hb', -⟩ := fields_of_core hx
  exact quiesces_reach hd (hst'.trans hst) (hb'.trans hb) _ _

theorem calmAt_unitSet (h : calmAt s) (u : UnitId) {x : Unit} (hx : x.waiting = (unitAt s u).waiting) : calmAt (unitSet s u x) := by
  intro page
  rw [coreAt_unitSet]
  split
  · rw [core_waiting, hx, waiting_unitAt, h]
  · exact h page

/-- RESUME with no other unit's hold ends with the unit in RUN. -/
theorem resumeGo_ends {u : UnitId} (hp : present s.hw u = true) (hcalm : calmAt s) (w : partsWf s = true) (hheld : heldElse s u = false)
    {inc : Half} {src : Nat} (h : resumingRecord (pageOf u) inc src (coreAt s (pageOf u))) :
    ∃ y, coreAt (settleWaiting (resumeGo s u)) (pageOf u) = core y ∧ y.state = .run ∧ y.cmdBusy = false ∧ y.cmdStatus = stOk ∧
      y.cmdSrc = src ∧ y.inc = inc := by
  obtain ⟨hi, hs, hcase⟩ := resumingRecord_withdrawHolds h
  have hb1 := busyOnly_of_calmAt (calmAt_withdrawHolds hcalm (pageOf u))
  have hx : core (unitAt (withdrawHolds s (pageOf u)) u) = coreAt (withdrawHolds s (pageOf u)) (pageOf u) :=
    core_unitAt (.inr (by obtain ⟨hst, -⟩ | ⟨hst, -⟩ := hcase <;> rw [hst] <;> decide))
  rw [← hx] at hi hs hcase
  unfold resumeGo
  extract_lets s1 s2
  have h2 : busyOnly s2 ∧ ∃ y, coreAt s2 (pageOf u) = core y ∧ y.state = .run ∧ y.cmdBusy = false ∧ y.cmdStatus = stOk ∧
      y.cmdSrc = src ∧ y.inc = inc := by
    obtain ⟨hst, hb, -, -⟩ | ⟨hst, hb, hok⟩ := hcase
    · have he : s2 = cmdDone (unitTo s1 u .run) u stOk := by
        show (if _ then _ else _) = _
        rw [if_neg, if_neg]
        · rw [stillHeld_withdrawHolds w, hheld, Bool.and_false]
          exact Bool.false_ne_true
        · rw [show (unitAt s1 u).state = .quiesced from hst]
          decide
      have h1 : coreAt (unitTo s1 u .run) (pageOf u) = core { unitAt s1 u with state := .run } := coreAt_unitTo_self hx.symm rfl .run
      have hy := unitAt_of_coreAt h1 (.inr (by simp))
      obtain ⟨hst', hi', -, -, hs', -, hw'⟩ := fields_of_core hy
      rw [he]
      refine ⟨fun page => .inl ?_, _, (coreAt_cmdDone _ _ _ _).trans (if_pos rfl), hst', rfl, rfl, hs'.trans hs, hi'.trans hi⟩
      rw [coreAt_cmdDone]
      split
      · rw [core_waiting, hw', waiting_unitAt]
        exact calmAt_withdrawHolds hcalm (pageOf u) _
      next hpage =>
        rw [coreAt_unitTo_ne hpage]
        exact calmAt_withdrawHolds hcalm (pageOf u) _
    · have he : s2 = s1 := if_pos hst
      rw [he]
      exact ⟨hb1, _, hx.symm, hst, hb, hok, hs, hi⟩
  obtain ⟨hb2, y, hy, hrest⟩ := h2
  have hne := fun e (he : e ∈ descendants s.hw u) => (pageOf_ne_of_descendants hp he).symm
  rw [settleWaiting_busyOnly]
  · refine ⟨y, ?_, hrest⟩
    rw [← hy]
    exact List.foldlRecOn (motive := fun (t : State) => coreAt t (pageOf u) = coreAt s2 (pageOf u)) _ _ rfl fun t k e he =>
      (coreAt_resumeOne_ne (hne e he) _ _ t).trans k
  · exact List.foldlRecOn (motive := busyOnly) _ _ hb2 fun t k e _ => busyOnly_resumeOne k _ _ e

/-- RESUME of a tile that another unit holds goes on. -/
theorem resumeGo_held {u : UnitId} (hcalm : calmAt s) (w : partsWf s = true) (hheld : heldElse s u = true)
    (hst : (coreAt s (pageOf u)).state = .quiesced) : coreAt (settleWaiting (resumeGo s u)) (pageOf u) = coreAt s (pageOf u) := by
  cases u with
  | tile n =>
    have h1 := coreAt_withdrawHolds_held w hheld _ rfl
    have hx : core (unitAt (withdrawHolds s (pageOf (.tile n))) (.tile n)) = coreAt s (pageOf (.tile n)) :=
      (core_unitAt (.inl rfl)).trans h1
    have hst1 : (unitAt (withdrawHolds s (pageOf (.tile n))) (.tile n)).state = .quiesced := (congrArg Unit.state hx).trans hst
    have he : resumeGo s (.tile n) = withdrawHolds s (pageOf (.tile n)) := by
      unfold resumeGo
      dsimp only
      rw [if_neg (by rw [hst1]; decide), if_pos (by rw [stillHeld_withdrawHolds w, hheld, hst1]; rfl)]
      rfl
    rw [he, settleWaiting_busyOnly (busyOnly_of_calmAt (calmAt_withdrawHolds hcalm _)), h1]
  | _ => cases hheld

theorem resetGo_self {u : UnitId} (hp : present s.hw u = true) (hoff : unitInit u = { state := .off })
    (hc : (unitAt s u).cmd = some .reset) : ∃ y, coreAt (resetGo s u) (pageOf u) = core y ∧ y.state = .resetting ∧
      y.inc = (unitAt s u).inc + 1 ∧ y.cmdBusy = (unitAt s u).cmdBusy ∧ y.cmdSrc = (unitAt s u).cmdSrc := by
  have hh1 : core (unitAt (txnsOfHit s (resetPages s u)) u) = core (unitAt s u) := by
    rw [core_unitAt (.inl hoff), core_unitAt (.inl hoff), coreAt_of_standing txnsOfHit_standing]
  obtain ⟨-, hi1, hb1, -, hs1, hc1, -⟩ := fields_of_core hh1
  unfold resetGo
  by_cases hh : ∃ k, u = .hport k
  · obtain ⟨k, rfl⟩ := hh
    rw [children_hport, List.foldl_nil, coreAt_enterReset_block, if_pos rfl]
    have hx := core_unitAt_resetBlock_hport (hc1.trans hc)
    simp only [core, Unit.mk.injEq] at hx
    obtain ⟨-, hi, -, hb, hs, -⟩ := hx
    exact ⟨_, rfl, rfl, congrArg (· + 1) (hi.trans hi1), hb.trans hb1, hs.trans hs1⟩
  · have hh' : ∀ k, u ≠ .hport k := fun k e => hh ⟨k, e⟩
    refine ⟨_, (List.foldlRecOn (motive := fun (t : State) => coreAt t (pageOf u) = coreAt (enterReset _ u) (pageOf u)) _ _ rfl
      fun t k e he => ?_).trans ((coreAt_enterReset hoff hh' _ _).trans (if_pos rfl)), rfl, congrArg (· + 1) hi1, hb1, hs1⟩
    exact (coreAt_resetOne_ne (pageOf_ne_of_descendants hp he).symm (unitInit_of_descendants hoff he)
      (not_hport_of_descendants hoff he) _ _ t).trans k

theorem resetGo_below {u d : UnitId} (hp : present s.hw u = true) (hoff : unitInit u = { state := .off }) (hd : d ∈ descendants s.hw u)
    (hst : (unitAt s d).state ≠ .retired) (hb : (unitAt s d).cmdBusy = false) :
    resettingAt (resetGo s u) (pageOf d) ((unitAt s d).inc + 1) := by
  have hh : ∀ k, u ≠ .hport k := by
    rintro k rfl
    exact absurd hd List.not_mem_nil
  have hoffd := unitInit_of_descendants hoff hd
  have hx : core (unitAt (enterReset (txnsOfHit s (resetPages s u)) u) d) = core (unitAt s d) := by
    rw [core_unitAt (.inl hoffd), core_unitAt (.inl hoffd), coreAt_enterReset hoff hh, if_neg (pageOf_ne_of_descendants hp hd),
      coreAt_of_standing txnsOfHit_standing]
  obtain ⟨hst', hi', hb', -⟩ := fields_of_core hx
  rw [← hi']
  exact resets_reach hd (fun e he => present_of_descendants he) (fun e he => unitInit_of_descendants hoff he)
    (fun e he => not_hport_of_descendants hoff he) (by rwa [hst']) (hb'.trans hb) _ _

theorem sweepGo_idle {u : UnitId} (hp : present s.hw u = true) (hoff : unitInit u = { state := .off }) (hcalm : calmAt s)
    (hb : ∀ d ∈ descendants s.hw u, (unitAt s d).cmdBusy = false) (c : UCmd) :
    coreAt (sweepGo c s u) (pageOf u) =
        core { unitAt s u with state := sweepState c, cmdStatus := stOk, cmdBusy := false, cmd := none } ∧
      ∀ d ∈ descendants s.hw u, swept c (coreAt s (pageOf d)).state → (coreAt (sweepGo c s u) (pageOf d)).state = sweepState c := by
  obtain ⟨hcalm1, hkept, hswept⟩ := sweeps_idle (s := s) (l := (descendants s.hw u).reverse)
    (fun e he => unitInit_of_descendants hoff (List.mem_reverse.mp he)) hcalm
    (fun e he => (cmdBusy_unitAt s e).symm.trans (hb e (List.mem_reverse.mp he))) c (pageOf u) (unitAt s u).cmdSrc
  unfold sweepGo
  extract_lets s1
  rw [if_neg (by rw [sweepWaits_calm hcalm1]; exact Bool.false_ne_true)]
  have hself : coreAt s1 (pageOf u) = core (unitAt s u) := by
    rw [core_unitAt (.inl hoff)]
    refine hkept _ fun hm => ?_
    obtain ⟨e, he, hpe⟩ := List.mem_map.mp hm
    exact pageOf_ne_of_descendants hp (List.mem_reverse.mp he) hpe
  constructor
  · have hx1 : core (unitAt s1 u) = core (unitAt s u) := unitAt_of_coreAt hself (.inl hoff)
    have hx : core (unitAt (sweepTake c s1 u) u) = core { unitAt s1 u with state := sweepState c } := by
      rw [core_unitAt (.inl hoff), coreAt_sweepTake hoff, if_pos rfl]
    rw [coreAt_cmdDone, if_pos rfl]
    exact (congrArg (fun y : Unit => ({ y with cmdStatus := stOk, cmdBusy := false, cmd := none } : Unit)) hx).trans
      (congrArg (fun y : Unit => ({ y with state := sweepState c, cmdStatus := stOk, cmdBusy := false, cmd := none } : Unit)) hx1)
  · intro d hd hs
    have hne := pageOf_ne_of_descendants hp hd
    rw [coreAt_cmdDone, if_neg hne, coreAt_sweepTake hoff, if_neg hne]
    exact hswept _ (List.mem_map.mpr ⟨d, List.mem_reverse.mpr hd, rfl⟩) hs

theorem sweepGo_waits {u d : UnitId} (hp : present s.hw u = true) (hoff : unitInit u = { state := .off }) (hd : d ∈ descendants s.hw u)
    (h : ownBusyAt s (pageOf u) (pageOf d)) (c : UCmd) :
    coreAt (sweepGo c s u) (pageOf u) = coreAt s (pageOf u) ∧
      (coreAt (sweepGo c s u) (pageOf d)).waiting.contains (pageOf u, c) = true := by
  have hoffl : ∀ e ∈ (descendants s.hw u).reverse, unitInit e = { state := .off } :=
    fun e he => unitInit_of_descendants hoff (List.mem_reverse.mp he)
  unfold sweepGo
  extract_lets s1
  have hwait : (coreAt s1 (pageOf d)).waiting.contains (pageOf u, c) = true :=
    sweeps_wait hoffl h c _ (.inr (List.mem_map.mpr ⟨d, List.mem_reverse.mpr hd, rfl⟩))
  have hv : s1.hw.variant = s.hw.variant := (Keeps.foldl sweepOne_keeps (Keeps.refl s)).variant
  have hd1 : d ∈ descendants s1.hw u := descendants_of_variant hv (not_hport_of_descendants hoff hd) hd
  have hw : sweepWaits s1 c (pageOf u) u = true := List.any_eq_true.mpr ⟨d, hd1, by rw [waiting_unitAt, hwait]⟩
  rw [if_pos hw]
  refine ⟨coreAt_sweeps_ne hoffl (fun hm => ?_) c _ _ s, hwait⟩
  obtain ⟨e, he, hpe⟩ := List.mem_map.mp hm
  exact pageOf_ne_of_descendants hp (List.mem_reverse.mp he) hpe

/-- The state that an accepted command runs from. -/
def acceptedState (s : State) (u : UnitId) (w : Writer) (c : UCmd) : State := unitSet s u (acceptedUnit s u w c)

theorem coreAt_accepted_self (s : State) (u : UnitId) (w : Writer) (c : UCmd) :
    coreAt (acceptedState s u w c) (pageOf u) = core (acceptedUnit s u w c) := coreAt_unitSet_self s u _

theorem unitAt_accepted_self (s : State) (u : UnitId) (w : Writer) (c : UCmd) : unitAt (acceptedState s u w c) u = acceptedUnit s u w c :=
  unitAt_unitSet_self s u _

theorem unitAt_accepted_ne {u d : UnitId} (h : pageOf d ≠ pageOf u) (s : State) (w : Writer) (c : UCmd) :
    unitAt (acceptedState s u w c) d = unitAt s d := unitAt_unitSet_ne s _ h

theorem coreAt_accepted_ne {u : UnitId} {page : Nat} (h : page ≠ pageOf u) (s : State) (w : Writer) (c : UCmd) :
    coreAt (acceptedState s u w c) page = coreAt s page := coreAt_unitSet_ne h s _

theorem calmAt_accepted (h : calmUnits s = true) (u : UnitId) (w : Writer) (c : UCmd) : calmAt (acceptedState s u w c) :=
  calmAt_unitSet (calmAt_of_calmUnits h) u rfl

theorem exec_accepted {u : UnitId} {w : Writer} {inc : Half} {c : UCmd} (h : ctlAccepted s u w inc c = true) :
    exec (ctlCommand c u w inc) s = .next (runCmd (acceptedState s u w c) u c) := by
  rw [exec_ctlCommand, unitCmd_accepted h]
  rfl

theorem runCmd_quiesce {u : UnitId} {w : Writer} {c : UCmd} (hst : (unitAt s u).state = .run)
    (hc : c = .quiesce ∨ (c = .retire ∧ ownedRunning s u = false)) :
    runCmd (acceptedState s u w c) u c = quiesceGo (acceptedState s u w c) u := by
  have hst' : (unitAt (acceptedState s u w c) u).state = .run := by rw [unitAt_accepted_self]; exact hst
  obtain rfl | ⟨rfl, ho⟩ := hc
  · simp [runCmd, hst']
  · have ho' : ownedRunning (acceptedState s u w .retire) u = false := (ownedRunning_accepted s u w .retire).trans ho
    simp [runCmd, hst', ho']

theorem runCmd_resume {u : UnitId} {w : Writer} (hst : (unitAt s u).state = .quiesced) :
    runCmd (acceptedState s u w .resume) u .resume = settleWaiting (resumeGo (acceptedState s u w .resume) u) := by
  have hst' : (unitAt (acceptedState s u w .resume) u).state = .quiesced := by rw [unitAt_accepted_self]; exact hst
  simp [runCmd, hst']

theorem runCmd_wake {u : UnitId} {w : Writer} (hst : (unitAt s u).state = .sleep) :
    runCmd (acceptedState s u w .resume) u .resume = acceptedState s u w .resume := by
  have hst' : (unitAt (acceptedState s u w .resume) u).state = .sleep := by rw [unitAt_accepted_self]; exact hst
  simp [runCmd, hst']

theorem runCmd_reset {u : UnitId} {w : Writer} (ho : ownedRunning s u = false)
    (hst : (unitAt s u).state = .off ∨ (unitAt s u).state = .sleep ∨ (unitAt s u).state = .run ∨ (unitAt s u).state = .quiesced) :
    runCmd (acceptedState s u w .reset) u .reset = resetGo (acceptedState s u w .reset) u := by
  have hst' : (unitAt (acceptedState s u w .reset) u).state = (unitAt s u).state := by rw [unitAt_accepted_self]; rfl
  have ho' : ownedRunning (acceptedState s u w .reset) u = false := (ownedRunning_accepted s u w .reset).trans ho
  obtain h | h | h | h := hst <;> simp [runCmd, hst', ho', h]

theorem runCmd_sweep {u : UnitId} {w : Writer} {c : UCmd} (ho : ownedRunning s u = false)
    (hst : (c = .sleep ∧ (unitAt s u).state = .quiesced) ∨
      (c = .retire ∧ ((unitAt s u).state = .off ∨ (unitAt s u).state = .sleep ∨ (unitAt s u).state = .quiesced))) :
    runCmd (acceptedState s u w c) u c = sweepGo c (acceptedState s u w c) u := by
  have hst' : (unitAt (acceptedState s u w c) u).state = (unitAt s u).state := by rw [unitAt_accepted_self]; rfl
  have ho' : ownedRunning (acceptedState s u w c) u = false := (ownedRunning_accepted s u w c).trans ho
  obtain ⟨rfl, h⟩ | ⟨rfl, h⟩ := hst
  · simp [runCmd, hst', ho', h, sleepGo]
  · obtain h | h | h := h <;> simp [runCmd, hst', ho', h, retireAll]

/-- QUIESCE, and RETIRE from RUN, make the unit QUIESCING and keep the rest of its record as accepted. -/
theorem quiesces_self {u : UnitId} {w : Writer} {inc : Half} {c : UCmd} (h : ctlAccepted s u w inc c = true) :
    core (unitAt (quiesceGo (acceptedState s u w c) u) u) = core { acceptedUnit s u w c with state := .quiescing } :=
  unitAt_of_coreAt (quiesceGo_self (present_of_accepted h) _) (.inr (by simp))

/-- SLEEP and RETIRE with nothing below busy or waiting. -/
theorem sweep_ends {u : UnitId} {w : Writer} {inc : Half} {c : UCmd} (h : ctlAccepted s u w inc c = true) (hc : 3 ≤ cmdBit c)
    (hcalm : calmUnits s = true) (hidle : idleBelow s u = true) :
    core (unitAt (sweepGo c (acceptedState s u w c) u) u) =
        core { acceptedUnit s u w c with state := sweepState c, cmdStatus := stOk, cmdBusy := false, cmd := none } ∧
      ∀ d ∈ below s u, swept c (unitAt s d).state → (unitAt (sweepGo c (acceptedState s u w c) u) d).state = sweepState c := by
  have hp := present_of_accepted h
  have hoff := unitInit_of_accepted h (by omega)
  obtain ⟨hself, hbelow⟩ := sweepGo_idle (s := acceptedState s u w c) hp hoff (calmAt_accepted hcalm u w c) (fun d hd => by
    rw [unitAt_accepted_ne (pageOf_ne_of_descendants hp hd)]
    simpa using List.all_eq_true.mp hidle d hd) c
  rw [unitAt_accepted_self] at hself
  refine ⟨unitAt_of_coreAt hself (.inl hoff), fun d hd hs => ?_⟩
  have hoffd := unitInit_of_descendants hoff hd
  have hx := core_unitAt (s := sweepGo c (acceptedState s u w c) u) (.inl hoffd)
  refine (congrArg Unit.state hx).trans (hbelow d hd ?_)
  rw [coreAt_accepted_ne (pageOf_ne_of_descendants hp hd), ← core_unitAt (.inl hoffd)]
  exact hs

/-- SLEEP and RETIRE wait for a unit below that is busy with a command of its own. -/
theorem sweep_waits {u d : UnitId} {w : Writer} {inc : Half} {c : UCmd} (h : ctlAccepted s u w inc c = true) (hc : 3 ≤ cmdBit c)
    (hd : d ∈ below s u) (hown : ownBusy s u d = true) :
    core (unitAt (sweepGo c (acceptedState s u w c) u) u) = core (acceptedUnit s u w c) ∧
      (unitAt (sweepGo c (acceptedState s u w c) u) d).waiting.contains (pageOf u, c) = true := by
  have hp := present_of_accepted h
  have hoff := unitInit_of_accepted h (by omega)
  simp only [ownBusy, Bool.and_eq_true, decide_eq_true_eq] at hown
  obtain ⟨hself, hwait⟩ := sweepGo_waits (s := acceptedState s u w c) hp hoff hd (by
    unfold ownBusyAt
    rw [coreAt_accepted_ne (pageOf_ne_of_descendants hp hd), ← cmdBusy_unitAt, ← root_unitAt]
    exact hown) c
  rw [coreAt_accepted_self] at hself
  exact ⟨unitAt_of_coreAt hself (.inl hoff), by rw [waiting_unitAt]; exact hwait⟩

end

/-- Settles O3: each accepted command is followed page by page. -/
theorem unitCommandsAct : Obligations.UnitCommandsAct := by
  unfold Obligations.UnitCommandsAct
  refine ⟨fun _ _ _ _ => rfl, fun u w inc s h hst => ?_, fun u w inc s h hst hcalm hw hheld => ?_,
    fun u w inc s h hst hcalm hw hheld => ?_, fun u w inc s h hst => ?_, fun u w inc s h ho hst => ?_,
    fun u w inc s h ho hst hcalm hidle => ?_, fun u d w inc s h ho hst hd hown => ?_,
    fun u w inc s h ho hst hcalm hidle => ?_, fun u d w inc s h ho hst hd hown => ?_, fun u w inc s h ho hst => ?_⟩
  · refine ⟨_, exec_accepted h, ?_⟩
    rw [runCmd_quiesce hst (.inl rfl)]
    obtain ⟨hst', hinc, hb, -, hsrc, -⟩ := fields_of_core (quiesces_self h)
    refine ⟨hst', hb, hsrc, hinc, fun d hd hstd hbd => ?_⟩
    obtain ⟨hsd, hbd'⟩ := quiesceGo_below (present_of_accepted h) hd hstd hbd (acceptedUnit s u w .quiesce)
    have hx := core_unitAt (.inr (by rw [hsd]; decide))
    exact ⟨(congrArg Unit.state hx).trans hsd, (congrArg Unit.cmdBusy hx).trans hbd'⟩
  · refine ⟨_, exec_accepted h, ?_⟩
    rw [runCmd_resume hst]
    have hp : present (acceptedState s u w .resume).hw u = true := present_of_accepted (s := s) h
    obtain ⟨y, hy, hst', hb, hok, hsrc, hinc⟩ := resumeGo_ends hp
      (calmAt_accepted hcalm u w .resume) hw hheld (inc := (unitAt s u).inc) (src := srcCode w) (by
        rw [coreAt_accepted_self]
        exact ⟨rfl, rfl, .inl ⟨hst, rfl, rfl, rfl⟩⟩)
    obtain ⟨h1, h2, h3, h4, h5, -⟩ := fields_of_core (unitAt_of_coreAt hy (.inr (by rw [hst']; decide)))
    exact ⟨h1.trans hst', ⟨h3.trans hb, h4.trans hok⟩, h5.trans hsrc, h2.trans hinc⟩
  · refine ⟨_, exec_accepted h, ?_⟩
    rw [runCmd_resume hst]
    have hkept := resumeGo_held (s := acceptedState s u w .resume) (calmAt_accepted hcalm u w .resume) hw hheld (by
      rw [coreAt_accepted_self]
      exact hst)
    rw [coreAt_accepted_self] at hkept
    obtain ⟨h1, h2, h3, -, -, h6, -⟩ := fields_of_core
      (unitAt_of_coreAt hkept (.inr (by rw [show (acceptedUnit s u w .resume).state = _ from hst]; decide)))
    exact ⟨h1.trans hst, h3, h6, h2⟩
  · refine ⟨_, exec_accepted h, ?_⟩
    rw [runCmd_wake hst]
    beta_reduce
    rw [unitAt_accepted_self]
    exact ⟨hst, rfl, rfl, rfl, fun v hv => unitAt_accepted_ne hv s w .resume, rfl⟩
  · have hp := present_of_accepted h
    have hoff := unitInit_of_accepted h (by decide)
    refine ⟨_, exec_accepted h, ?_⟩
    rw [runCmd_reset ho hst]
    obtain ⟨y, hy, hst', hinc, hb, hsrc⟩ := resetGo_self (s := acceptedState s u w .reset) hp hoff (by rw [unitAt_accepted_self]; rfl)
    rw [unitAt_accepted_self] at hinc hb hsrc
    obtain ⟨h1, h2, h3, -, h5, -⟩ := fields_of_core (unitAt_of_coreAt hy (.inl hoff))
    refine ⟨⟨h1.trans hst', h2.trans hinc⟩, h3.trans hb, h5.trans hsrc, fun d hd hstd hbd => ?_⟩
    have hne := unitAt_accepted_ne (pageOf_ne_of_descendants hp hd) s w .reset
    obtain ⟨hsd, -, hid⟩ := resetGo_below (s := acceptedState s u w .reset) hp hoff hd (by rwa [hne]) (by rwa [hne])
    rw [hne] at hid
    have hx := core_unitAt (s := resetGo (acceptedState s u w .reset) u) (.inl (unitInit_of_descendants hoff hd))
    exact ⟨(congrArg Unit.state hx).trans hsd, (congrArg Unit.inc hx).trans hid⟩
  · refine ⟨_, exec_accepted h, ?_⟩
    rw [runCmd_sweep ho (.inl ⟨rfl, hst⟩)]
    obtain ⟨hself, hbelow⟩ := sweep_ends h (by decide) hcalm hidle
    obtain ⟨h1, h2, h3, h4, -⟩ := fields_of_core hself
    exact ⟨h1, ⟨h3, h4⟩, h2, fun d hd hq => hbelow d hd (.inr (.inl hq))⟩
  · refine ⟨_, exec_accepted h, ?_⟩
    rw [runCmd_sweep ho (.inl ⟨rfl, hst⟩)]
    obtain ⟨hself, hwait⟩ := sweep_waits h (by decide) hd hown
    obtain ⟨h1, h2, h3, -⟩ := fields_of_core hself
    exact ⟨h1.trans hst, h3, h2, hwait⟩
  · refine ⟨_, exec_accepted h, ?_⟩
    rw [runCmd_sweep ho (.inr ⟨rfl, hst⟩)]
    obtain ⟨hself, hbelow⟩ := sweep_ends h (by decide) hcalm hidle
    obtain ⟨h1, h2, h3, h4, -⟩ := fields_of_core hself
    exact ⟨h1, ⟨h3, h4⟩, h2, fun d hd => hbelow d hd (.inl (by decide))⟩
  · refine ⟨_, exec_accepted h, ?_⟩
    rw [runCmd_sweep ho (.inr ⟨rfl, hst⟩)]
    obtain ⟨hself, hwait⟩ := sweep_waits h (by decide) hd hown
    obtain ⟨h1, h2, h3, -⟩ := fields_of_core hself
    exact ⟨h1, h3, h2, hwait⟩
  · refine ⟨_, exec_accepted h, ?_⟩
    rw [runCmd_quiesce hst (.inr ⟨rfl, ho⟩)]
    obtain ⟨h1, -, h3, -, -, h6, -⟩ := fields_of_core (quiesces_self h)
    exact ⟨h1, h3, h6⟩

end Sys2Proof.Machine
end

section
/-! PROOF. Spare substitution (O11): GO, the exchange of slots, the abort of a live one, and the clearing. -/
namespace Sys2Proof.Machine
open Sys2Proof

section
variable {s t : State}

/-! ### Slots and records -/

theorem physAt_spare (s : State) (c : Nat) : physAt s (.spare c) = pageSlot s.un.phys c 16 := rfl

theorem physAt_substLTile (s : State) (c l : Nat) : physAt s (.tile (substLTile c l)) = pageSlot s.un.phys c (l % 16) :=
  physAt_tile (Nat.mod_lt l (by decide))

theorem substLTile_mod (c l : Nat) : substLTile c l % 16 = l % 16 := by
  unfold substLTile
  omega

/-- R56: after the exchange the tile is on the spare's slot and the spare page on the tile's. -/
theorem physAt_substSwitch {c l : Nat} (h : t.un.phys = (substSwitch s c (substLTile c l)).un.phys) :
    physAt t (.tile (substLTile c l)) = physAt s (.spare c) ∧ physAt t (.spare c) = physAt s (.tile (substLTile c l)) := by
  have hl : l % 16 < 16 := Nat.mod_lt l (by decide)
  rw [physAt_substLTile, physAt_substLTile, physAt_spare, physAt_spare, h, substSwitch_phys substLTile_cluster, substLTile_mod,
    pageSlot_swapSlots, pageSlot_swapSlots, if_pos rfl, if_neg hl.ne, if_pos rfl]
  exact ⟨rfl, rfl⟩

theorem EvtFrame.substAt_eq (h : EvtFrame s t) (c : Nat) : substAt t c = substAt s c := by
  obtain ⟨_, _, _, rfl⟩ := h
  rfl

theorem TileFrame.substAt_eq (h : TileFrame s t) (c : Nat) : substAt t c = substAt s c := by
  obtain ⟨_, _, _, _, _, rfl⟩ := h
  rfl

theorem substAt_reqDelivers (s : State) (qs : List Req) (c : Nat) : substAt (qs.foldl reqDeliver s) c = substAt s c := by
  obtain ⟨_, _, h⟩ := reqDelivers_eq s qs
  rw [h]
  rfl

theorem unitAt_reqDelivers (s : State) (qs : List Req) (u : UnitId) : unitAt (qs.foldl reqDeliver s) u = unitAt s u := by
  obtain ⟨_, _, h⟩ := reqDelivers_eq s qs
  rw [h]
  rfl

/-! ### The abort of a live substitution -/

theorem substAt_substAborted (s : State) (c : Nat) : substAt (substAborted s c) c =
    { substAt s c with phase := .idle, status := stTxnAborted, tid := none, buffered := [] } := by
  unfold substAborted
  dsimp only
  rw [(unitEvt_frame _ _ _).substAt_eq, substAt_reqDelivers, substAt_substSet_self]

theorem unitAt_substAborted (s : State) (c : Nat) : unitAt (substAborted s c) (.cluster c) = evtOr (unitAt s (.cluster c)) (2 ^ 16) := by
  unfold substAborted
  dsimp only
  rw [unitAt_unitEvt_self, unitAt_reqDelivers]
  rfl

theorem substLive_iff {c tid : Nat} : substLive s c tid = true ↔
    (substAt s c).tid = some tid ∧ ∃ x, mapFind s.un.txns tid = some x ∧ x.kind = 2 ∧ x.key = c ∧ txnLive x = true := by
  unfold substLive
  cases mapFind s.un.txns tid <;> simp [and_assoc]

theorem txnAbort_subst {tid cause : Nat} {x : Txn} (hx : mapFind s.un.txns tid = some x) (hk : x.kind = 2) (hl : txnLive x = true) :
    txnAbort s tid cause = substAborted (abortNoted s tid cause 0 x) x.key := by
  unfold txnAbort txnAbortGate
  simp only [hx]
  rw [if_neg (by simp [hl, hk])]
  split
  next h => exact absurd (hk.symm.trans h) (by decide)
  next => rfl
  next h => exact absurd (hk.symm.trans h) (by decide)
  next h _ => exact absurd hk h

theorem abortNoted_tab (s : State) (tid cause gate : Nat) (x : Txn) : (abortNoted s tid cause gate x).un.tab = s.un.tab := by
  obtain ⟨_, _, h⟩ := dropTxnOutst_frame s tid x.coord
  unfold abortNoted
  rw [h]
  rfl

/-- R57: a live substitution aborts: its transaction with the cause, the cluster's phase IDLE and SUBST_DONE. -/
theorem subst_aborts {c tid cause : Nat} (h : substLive s c tid = true) (hc : cause < 16) :
    txnAborted s (txnAbort s tid cause) tid cause ∧ (substAt (txnAbort s tid cause) c).phase = .idle ∧
      (substAt (txnAbort s tid cause) c).status = stTxnAborted ∧ (substAt (txnAbort s tid cause) c).tid = none ∧
      (unitAt (txnAbort s tid cause) (.cluster c)).evt = (unitAt s (.cluster c)).evt ||| 0x10000 := by
  obtain ⟨-, x, hx, hk, rfl, hl⟩ := substLive_iff.mp h
  refine ⟨txnAborted_abortGate hx hl (.inl (by simp [abortable, hk])) hc, ?_⟩
  have htab := abortNoted_tab s tid cause 0 x
  have hu : unitAt (abortNoted s tid cause 0 x) (.cluster x.key) = unitAt s (.cluster x.key) := by rw [unitAt, htab, unitAt]
  rw [txnAbort_subst hx hk hl, substAt_substAborted, unitAt_substAborted, hu]
  exact ⟨rfl, rfl, rfl, rfl⟩

theorem TileFrame.txnAborted {tid cause : Nat} {r : State} (h : txnAborted s t tid cause) (k : TileFrame t r) :
    txnAborted s r tid cause := by
  obtain ⟨_, _, _, _, _, rfl⟩ := k
  exact h

/-! ### GO -/

/-- GO's fields stored (Table 2-13). -/
def goStored (s : State) (c ltile mode : Nat) (ret : Bool) : State :=
  { s with un := { s.un with substCtl := mapSet s.un.substCtl c (substField ltile mode ret) } }

theorem execSubstGo_taken {c ltile mode : Nat} {w : Writer} {ret : Bool} (hc : c < 32) (hw : w = .mgmt ∨ w = .sec)
    (hl : blockLive s (.cluster c) = true) : exec (.substGo c w ltile mode ret) s =
      match substRefusal s c ltile mode with
      | some st => .next (substSet (substOpenDone (goStored s c ltile mode ret) c) c { substAt s c with status := st, opening := false })
      | none => .next (substOpen (goStored s c ltile mode ret) c ltile mode ret) := by
  show execSubstGo c w ltile mode ret s = _
  unfold execSubstGo
  rw [if_neg (by obtain rfl | rfl := hw <;> simp [hc, hl])]
  rfl

theorem nextTid_of_tidFree {tid : Nat} (h : tidFree s = some tid) : nextTid s = some tid := by
  unfold nextTid
  rw [show tidFrom s.un.txns 1024 s.un.nextTid = some tid from h]

/-- The substitution that an accepted GO notes. -/
def substNoted (s : State) (c ltile mode tid : Nat) (ret : Bool) : Subst :=
  { substAt s c with ltile := ltile % 16, mode := mode, retireOld := ret, tid := some tid,
                     oldSlot := physAt s (.tile (substLTile c ltile)), buffered := [], opening := false }

/-- The transaction that it opens. -/
def substTxn (s : State) (c ltile : Nat) : Txn :=
  { kind := 2, key := c, coord := pageOf (.cluster c), coordInc := (unitAt s (.cluster c)).inc,
    msgInc := (unitAt s (.cluster c)).inc, phase := .open,
    members := (substMembers s c ltile).map (fun u => { page := pageOf u, inc := (unitAt s u).inc, st := .invited }), merged := true }

/-- The state in which its transaction is open. -/
def substOpened (s : State) (c ltile tid : Nat) : State :=
  substOpenDone { s with un := { s.un with txns := mapSet s.un.txns tid (substTxn s c ltile), nextTid := (tid + 1) % 1024 } } c

theorem substOpen_of_tidFree {c ltile mode tid : Nat} {ret : Bool} (h : tidFree s = some tid) : substOpen s c ltile mode ret =
    if mode = 1 then substSet (substOpened s c ltile tid) c { substNoted s c ltile mode tid ret with phase := .armed }
    else substSet (substCold (substTxnDone (substOpened s c ltile tid) tid) c (substLTile c ltile)) c
      { substNoted s c ltile mode tid ret with phase := .moving, tid := none } := by
  unfold substOpen txnOpen
  rw [nextTid_of_tidFree h]
  rfl

/-! ### A cold substitution resets its tile -/

theorem mapFind_mapValues {α : Type} (m : Map α) (f : α → α) (k : Nat) :
    mapFind (m.map fun e => (e.1, f e.2)) k = (mapFind m k).map f := by
  induction m with
  | nil => rfl
  | cons e r ih =>
    rw [List.map_cons, mapFind, mapFind, ih]
    split <;> rfl

/-- A record without the actions of one command that wait on it. -/
def waitingDropped (root : Nat) (x : Unit) : Unit := { x with waiting := x.waiting.filter (fun w => w.1 ≠ root) }

theorem dropWaiting_tab (s : State) (root : Nat) :
    (dropWaiting s root).un.tab = s.un.tab.map fun e => (e.1, waitingDropped root e.2) := rfl

theorem commitCnt_of_standing (h : standing true t = standing true s) : t.un.commitCnt = s.un.commitCnt :=
  congrArg Prod.fst (Option.some.inj (congrArg Prod.snd h))

theorem EvtFrame.commitCnt_eq (h : EvtFrame s t) : t.un.commitCnt = s.un.commitCnt := by
  obtain ⟨_, _, _, rfl⟩ := h
  rfl

theorem commitCnt_enterReset_tile (s : State) (n : Nat) : (enterReset s (.tile n)).un.commitCnt = s.un.commitCnt := by
  rw [enterReset_eq, commitCnt_of_standing acceptedReset_standing]
  refine (setUState_frame _ (.tile n) .resetting).commitCnt_eq.trans ?_
  rw [← commitCnt_of_standing (resetPrepared_standing s (.tile n)),
    ← commitCnt_of_standing (resetBlock_standing (s := resetPrepared s (.tile n)) (u := .tile n) (by simp) (by simp))]
  rfl

theorem commitCnt_dropWaiting (s : State) (root : Nat) : (dropWaiting s root).un.commitCnt = s.un.commitCnt := rfl

theorem commitCnt_unitSet (s : State) (u : UnitId) (x : Unit) : (unitSet s u x).un.commitCnt = s.un.commitCnt := rfl

theorem commitCnt_fatalOneAt_tile (top : Nat) (s : State) (n : Nat) : (fatalOneAt top s (.tile n)).un.commitCnt = s.un.commitCnt := by
  unfold fatalOneAt
  dsimp only
  split
  · rw [(cmdDone_frame _ _ _).commitCnt_eq]
    split
    · rw [commitCnt_dropWaiting, commitCnt_unitSet, commitCnt_enterReset_tile]
    · rw [commitCnt_unitSet, commitCnt_enterReset_tile]
  · rw [commitCnt_unitSet, commitCnt_enterReset_tile]

/-- The unit's record is in RESETTING at the incarnation given. -/
def inReset (s : State) (u : UnitId) (inc : Half) : Prop := (unitAt s u).state = .resetting ∧ (unitAt s u).inc = inc

theorem inReset_unitSet_root {u : UnitId} {inc : Half} (h : inReset s u inc) (top : Nat) :
    inReset (unitSet s u { unitAt s u with root := top }) u inc := by
  unfold inReset
  rw [unitAt_unitSet_self]
  exact h

theorem inReset_cmdDone {u : UnitId} {inc : Half} (h : inReset s u inc) (status : Nat) : inReset (cmdDone s u status) u inc := by
  unfold inReset
  rw [unitAt_cmdDone_self]
  exact h

theorem inReset_dropWaiting {u : UnitId} {inc : Half} (h : inReset s u inc) (root : Nat) : inReset (dropWaiting s root) u inc := by
  unfold inReset unitAt at *
  rw [dropWaiting_tab, mapFind_mapValues]
  cases hf : mapFind s.un.tab (pageOf u) with
  | none =>
    rw [hf] at h
    exact h
  | some x =>
    rw [hf] at h
    exact h

/-- R43: a tile that resets itself is in RESETTING with its incarnation advanced. -/
theorem inReset_fatalOneAt_tile (top : Nat) (s : State) (n : Nat) :
    inReset (fatalOneAt top s (.tile n)) (.tile n) ((unitAt s (.tile n)).inc + 1) := by
  have hoff : unitInit (.tile n) = { state := .off } := rfl
  have hx : core (unitAt (enterReset s (.tile n)) (.tile n)) = core { resetRecord (unitAt s (.tile n)) with state := .resetting } := by
    rw [core_unitAt (.inl hoff), coreAt_enterReset hoff (by simp), if_pos rfl]
  obtain ⟨hst, hinc, -⟩ := fields_of_core hx
  have h1 := inReset_unitSet_root (s := enterReset s (.tile n)) ⟨hst, hinc⟩ top
  unfold fatalOneAt
  dsimp only
  split
  · refine inReset_cmdDone ?_ stReset
    split
    · exact inReset_dropWaiting h1 _
    · exact h1
  · exact h1

/-! ### An accepted GO -/

theorem unitAt_substSet (s : State) (c : Nat) (x : Subst) (u : UnitId) : unitAt (substSet s c x) u = unitAt s u := rfl

theorem commitCnt_substSet (s : State) (c : Nat) (x : Subst) : (substSet s c x).un.commitCnt = s.un.commitCnt := rfl

theorem phys_substSet (s : State) (c : Nat) (x : Subst) : (substSet s c x).un.phys = s.un.phys := rfl

theorem phys_fatalOneAt (top : Nat) (s : State) (u : UnitId) : (fatalOneAt top s u).un.phys = s.un.phys :=
  congrArg (fun q => q.2.1) (fatalOneAt_placed (s := s) (top := top) (u := u))

theorem substGo_live {c ltile tid : Nat} {w : Writer} {ret : Bool} (hc : c < 32) (hw : w = .mgmt ∨ w = .sec)
    (hl : blockLive s (.cluster c) = true) (hr : substRefusal s c ltile 1 = none) (hf : tidFree s = some tid) :
    Answers (.substGo c w ltile 1 ret) s fun t =>
      (substAt t c).phase = .armed ∧ (substAt t c).ltile = ltile % 16 ∧ (substAt t c).tid = some tid ∧
        (substAt t c).oldSlot = physAt s (.tile (substLTile c ltile)) ∧
        (∃ x, mapFind t.un.txns tid = some x ∧ x.kind = 2 ∧ x.coord = pageOf (.cluster c) ∧
          x.members.map TxnMember.page = (substMembers s c ltile).map pageOf) ∧
        t = { s with un := t.un } := by
  refine ⟨substOpen (goStored s c ltile 1 ret) c ltile 1 ret, (execSubstGo_taken hc hw hl).trans (by rw [hr]), ?_⟩
  rw [substOpen_of_tidFree (s := goStored s c ltile 1 ret) hf, if_pos rfl]
  beta_reduce
  rw [substAt_substSet_self]
  refine ⟨rfl, rfl, rfl, rfl, ⟨_, mapFind_mapSet_self _ _ _, rfl, rfl, ?_⟩, rfl⟩
  exact List.map_map

/-- A cold substitution: the transaction over, the slots exchanged and the tile in reset. -/
theorem substGo_cold {c ltile tid : Nat} {w : Writer} {ret : Bool} (hc : c < 32) (hw : w = .mgmt ∨ w = .sec)
    (hl : blockLive s (.cluster c) = true) (hr : substRefusal s c ltile 2 = none) (hf : tidFree s = some tid) :
    Answers (.substGo c w ltile 2 ret) s fun t =>
      (substAt t c).phase = .moving ∧ (substAt t c).tid = none ∧ t.un.commitCnt = satInc s.un.commitCnt ∧
        physAt t (.tile (substLTile c ltile)) = physAt s (.spare c) ∧
        physAt t (.spare c) = physAt s (.tile (substLTile c ltile)) ∧
        enteredReset s t (.tile (substLTile c ltile)) := by
  refine ⟨substOpen (goStored s c ltile 2 ret) c ltile 2 ret, (execSubstGo_taken hc hw hl).trans (by rw [hr]), ?_⟩
  rw [substOpen_of_tidFree (s := goStored s c ltile 2 ret) hf, if_neg (by decide)]
  beta_reduce
  generalize hB : substTxnDone (substOpened (goStored s c ltile 2 ret) c ltile tid) tid = b
  have hcnt : b.un.commitCnt = satInc s.un.commitCnt := by subst hB; rfl
  have hunit : unitAt b (.tile (substLTile c ltile)) = unitAt s (.tile (substLTile c ltile)) := by subst hB; rfl
  have hphys : b.un.phys = s.un.phys := by subst hB; rfl
  have hs1 : physAt b (.spare c) = physAt s (.spare c) := by rw [physAt_spare, hphys, physAt_spare]
  have hs2 : physAt b (.tile (substLTile c ltile)) = physAt s (.tile (substLTile c ltile)) := by
    rw [physAt_substLTile, hphys, physAt_substLTile]
  unfold substCold enteredReset
  rw [substAt_substSet_self, commitCnt_substSet, unitAt_substSet, commitCnt_fatalOneAt_tile]
  obtain ⟨hst, hinc⟩ := inReset_fatalOneAt_tile (pageOf (.tile (substLTile c ltile))) (substSwitch b c (substLTile c ltile))
    (substLTile c ltile)
  obtain ⟨h1, h2⟩ := physAt_substSwitch ((phys_substSet _ c _).trans (phys_fatalOneAt _ _ _))
  refine ⟨rfl, rfl, hcnt, h1.trans hs1, h2.trans hs2, hst, hinc.trans ?_⟩
  rw [← hunit]
  rfl

/-! ### A tile leaves RESETTING -/

theorem reloadStep_tab (s : State) (u : UnitId) : (reloadStep s u).un.tab = s.un.tab := by
  unfold reloadStep
  split
  · split <;> rfl
  · rfl

/-- An action that ends on a unit nothing waits for leaves its state. -/
theorem state_endAction {u : UnitId} (hw : (unitAt s u).waiting = []) (status : Nat) :
    (unitAt (endAction s u status) u).state = (unitAt s u).state := by
  unfold endAction
  extract_lets x s1 w
  have h1 : (unitAt s1 u).state = (unitAt s u).state ∧ (unitAt s1 u).waiting = [] := by
    show (unitAt (if _ then _ else _) u).state = _ ∧ (unitAt (if _ then _ else _) u).waiting = _
    split
    · rw [unitAt_cmdDone_self]
      exact ⟨rfl, hw⟩
    · rw [unitAt_unitSet_self]
      exact ⟨rfl, hw⟩
  have hnil : w = [] := h1.2
  rw [hnil, List.foldl_nil, unitAt_unitSet_self]
  exact h1.1

/-- R34: a tile in RESETTING that nothing waits for ends in RUN. -/
theorem state_finishReset_tile {n : Nat} (hst : (unitAt s (.tile n)).state = .resetting) (hw : (unitAt s (.tile n)).waiting = []) :
    (unitAt (finishReset s (.tile n)) (.tile n)).state = .run := by
  obtain ⟨h1, -, -, -, -, -, h7⟩ := fields_of_core (core_setUState s (.tile n) .run)
  have hr : unitAt (reloadStep (loadIncs (unitTo s (.tile n) .run) (.tile n)) (.tile n)) (.tile n) =
      unitAt (setUState s (.tile n) .run) (.tile n) := by
    rw [unitAt, reloadStep_tab]
    rfl
  unfold finishReset
  dsimp only
  rw [if_neg (by rw [hst]; exact Bool.false_ne_true), state_endAction (by rw [hr, h7]; exact hw), hr, h1]

/-! ### The end of the clearing -/

/-- The vacated slot clear and the spare page in its state. -/
def spareCleared (s : State) (c : Nat) : State :=
  setUState { s with tl := { s.tl with tab := mapDel s.tl.tab (c * 17 + physAt s (.spare c)) } } (.spare c)
    (if (substAt s c).retireOld then .retired else .off)

/-- The substitution over: the cluster's phase IDLE with OK, and SUBST_DONE. -/
def substOver (s : State) (c : Nat) (x : Subst) : State :=
  unitEvt (substSet s c { x with phase := .idle, status := stOk, buffered := [] }) (.cluster c) (2 ^ 16)

theorem exec_substClearDone_clearing {c : Nat} (h : (substAt s c).phase = .clearing) :
    exec (.substClearDone c) s = .next (substOver (spareCleared s c) c (substAt s c)) := by
  show execSubstClearDone c s = _
  simp [execSubstClearDone, h, substOver, spareCleared]

theorem exec_substClearDone_cold {c : Nat} (h : (substAt s c).phase = .moving) (ht : (substAt s c).tid = none) :
    exec (.substClearDone c) s =
      .next (substOver (finishReset (spareCleared s c) (.tile (substLTile c (substAt s c).ltile))) c (substAt s c)) := by
  show execSubstClearDone c s = _
  simp [execSubstClearDone, h, ht, substOver, spareCleared]

theorem substAt_substOver (s : State) (c : Nat) (x : Subst) :
    substAt (substOver s c x) c = { x with phase := .idle, status := stOk, buffered := [] } := by
  unfold substOver
  rw [(unitEvt_frame _ _ _).substAt_eq, substAt_substSet_self]

theorem unitAt_substOver_ne {u : UnitId} {c : Nat} (h : pageOf u ≠ pageOf (.cluster c)) (s : State) (x : Subst) :
    unitAt (substOver s c x) u = unitAt s u := by
  unfold substOver
  rw [unitAt_unitEvt_ne _ _ h]
  rfl

/-- What the end of a clearing leaves, whichever substitution it was. -/
theorem substClear_ends {c : Nat} : (unitAt (substOver (spareCleared s c) c (substAt s c)) (.spare c)).state =
      (if (substAt s c).retireOld then .retired else .off) ∧
    (unitAt (substOver (spareCleared s c) c (substAt s c)) (.cluster c)).evt = (unitAt s (.cluster c)).evt ||| 0x10000 ∧
    mapFind (substOver (spareCleared s c) c (substAt s c)).tl.tab (c * 17 + physAt s (.spare c)) = none := by
  refine ⟨?_, ?_, ?_⟩
  · rw [unitAt_substOver_ne (by simp [pageOf])]
    exact unitAt_setUState_state _ _ _
  · have h : unitAt (spareCleared s c) (.cluster c) = unitAt s (.cluster c) :=
      unitAt_setUState_ne _ _ (by simp [pageOf])
    unfold substOver
    rw [unitAt_unitEvt_self]
    exact congrArg (fun x : Unit => (evtOr x (2 ^ 16)).evt) h
  · obtain ⟨_, _, _, h⟩ := unitEvt_frame
      (substSet (spareCleared s c) c { substAt s c with phase := .idle, status := stOk, buffered := [] }) (.cluster c) (2 ^ 16)
    obtain ⟨_, _, _, k⟩ := setUState_frame
      { s with tl := { s.tl with tab := mapDel s.tl.tab (c * 17 + physAt s (.spare c)) } } (.spare c)
      (if (substAt s c).retireOld then .retired else .off)
    unfold substOver
    rw [h]
    show mapFind (spareCleared s c).tl.tab _ = none
    unfold spareCleared
    rw [k]
    exact mapFind_mapDel_self _ _

theorem coldClear_run {c : Nat} (hst : (unitAt s (.tile (substLTile c (substAt s c).ltile))).state = .resetting)
    (hw : (unitAt s (.tile (substLTile c (substAt s c).ltile))).waiting = []) :
    (unitAt (substOver (finishReset (spareCleared s c) (.tile (substLTile c (substAt s c).ltile))) c (substAt s c))
      (.tile (substLTile c (substAt s c).ltile))).state = .run := by
  have hspare : pageOf (.tile (substLTile c (substAt s c).ltile)) ≠ pageOf (.spare c) := by
    simp only [pageOf, substLTile]
    omega
  have hcluster : pageOf (.tile (substLTile c (substAt s c).ltile)) ≠ pageOf (.cluster c) := by
    simp only [pageOf, substLTile]
    omega
  have h : unitAt (spareCleared s c) (.tile (substLTile c (substAt s c).ltile)) =
      unitAt s (.tile (substLTile c (substAt s c).ltile)) := unitAt_setUState_ne _ _ hspare
  rw [unitAt_substOver_ne hcluster]
  exact state_finishReset_tile (by rw [h]; exact hst) (by rw [h]; exact hw)

/-! ### The copy and its commit -/

/-- The old tile's state on the spare's slot. -/
def substCopied (s : State) (c : Nat) : State :=
  substSet { s with tl := { s.tl with
      tab := mapSet s.tl.tab (c * 17 + physAt s (.spare c)) (tileAt s (substLTile c (substAt s c).ltile)) } }
    c { substAt s c with phase := .moving }

theorem exec_liveSubstStart_copies {c : Nat} {p : Part} (h : (substAt s c).phase = .armed)
    (hp : partOf s (substLTile c (substAt s c).ltile) = some p) (hb : p.bar.isSome = true) (hprep : p.preparing = false)
    (hv : substVoted s (substAt s c).tid = true) (hue : (tileAt s (substLTile c (substAt s c).ltile)).num.ue = []) :
    exec (.liveSubstStart c) s = .next (substCopied s c) := by
  show execLiveSubstStart c s = _
  unfold execLiveSubstStart
  simp only [h, hp, hprep, hv, hue, Option.isNone_eq_false_iff.mpr hb] <;> rfl

theorem exec_liveSubstStart_aborts {c tid : Nat} {p : Part} {w : SramWord} {r : List SramWord} (h : (substAt s c).phase = .armed)
    (hp : partOf s (substLTile c (substAt s c).ltile) = some p) (hb : p.bar.isSome = true) (hprep : p.preparing = false)
    (hv : substVoted s (substAt s c).tid = true) (hue : (tileAt s (substLTile c (substAt s c).ltile)).num.ue = w :: r)
    (ht : (substAt s c).tid = some tid) :
    exec (.liveSubstStart c) s = .next (tileSramUe (txnAbort s tid 4) (substLTile c (substAt s c).ltile) 16 (sramAddr w)) := by
  rw [ht] at hv
  show execLiveSubstStart c s = _
  unfold execLiveSubstStart
  simp only [h, hp, hprep, hv, hue, ht, Option.isNone_eq_false_iff.mpr hb] <;> rfl

theorem exec_liveSubstStart_unvoted {c : Nat} (h : (substAt s c).phase = .armed) (hv : substVoted s (substAt s c).tid = false) :
    exec (.liveSubstStart c) s = .next s := by
  show execLiveSubstStart c s = _
  unfold execLiveSubstStart
  simp only [h, hv]
  cases partOf s (substLTile c (substAt s c).ltile) <;> simp

/-- The slots exchanged, the commit record written and the phase CLEARING, before the buffered messages go on. -/
def substCommitted (s : State) (c tid : Nat) : State :=
  substSet (substCommit (substSwitch s c (substLTile c (substAt s c).ltile)) tid) c
    { substAt s c with phase := .clearing, tid := none, buffered := [] }

theorem exec_liveSubstCommit {c tid : Nat} {ok : Bool} (h : (substAt s c).phase = .moving) (ht : (substAt s c).tid = some tid) :
    exec (.liveSubstCommit c ok) s =
      .next (if ok then (substAt s c).buffered.foldl reqDeliver (substCommitted s c tid) else txnAbort s tid 4) := by
  show execLiveSubstCommit c ok s = _
  unfold execLiveSubstCommit
  simp only [h, ht] <;> cases ok <;> rfl

theorem substCommitted_eq {c tid : Nat} {x : Txn} (hx : mapFind s.un.txns tid = some x) : substCommitted s c tid =
    { s with un := { s.un with
        phys := (substSwitch s c (substLTile c (substAt s c).ltile)).un.phys,
        txns := mapSet s.un.txns tid { x with phase := .committed, record := true }, commitCnt := satInc s.un.commitCnt,
        subst := mapSet s.un.subst c { substAt s c with phase := .clearing, tid := none, buffered := [] } } } := by
  unfold substCommitted substCommit
  have h : mapFind (substSwitch s c (substLTile c (substAt s c).ltile)).un.txns tid = some x := hx
  simp only [h] <;> rfl

end

/-- Settles O11: each step of a substitution, its abort and its clearing evaluated on the cluster's record. -/
theorem substitution : Obligations.Substitution := by
  unfold Obligations.Substitution
  refine ⟨fun c w ltile ret tid s => substGo_live, fun c w ltile ret tid s => substGo_cold,
    fun c w ltile mode ret st s hc hw hl hr => ?_, fun c w ltile mode ret s h => ?_, fun c w tid s hc hw hph hlive => ?_,
    fun c p s h hp hb hprep hv hue => ⟨_, exec_liveSubstStart_copies h hp hb hprep hv hue, ?_⟩,
    fun c p w r tid s h hp hb hprep hv hue hlive => ?_, fun c s h hv => exec_liveSubstStart_unvoted h hv,
    fun c tid x s h ht hx => ⟨_, exec_liveSubstCommit h ht, ?_⟩, fun c tid s h hlive => ?_,
    fun c s h => ⟨_, exec_substClearDone_clearing h, ?_⟩, fun c s h ht hst hwait => ⟨_, exec_substClearDone_cold h ht, ?_⟩⟩
  · refine ⟨substSet (substOpenDone (goStored s c ltile mode ret) c) c { substAt s c with status := st, opening := false },
      (execSubstGo_taken hc hw hl).trans (by rw [hr]), ?_⟩
    beta_reduce
    rw [substAt_substSet_self]
    exact ⟨rfl, rfl⟩
  · show execSubstGo c w ltile mode ret s = _
    unfold execSubstGo
    rw [if_pos]
    obtain ⟨h1, h2⟩ | h := h <;> simp [*]
  · obtain ⟨ht, -⟩ := substLive_iff.mp hlive
    refine ⟨txnAbort s tid 6, ?_, subst_aborts hlive (by decide)⟩
    show execSubstCancel c w s = _
    obtain rfl | rfl := hw <;> obtain hph | hph := hph <;> simp [execSubstCancel, hc, ht, hph]
  · unfold substCopied
    beta_reduce
    rw [substAt_substSet_self]
    exact ⟨rfl, mapFind_mapSet_self _ _ _, rfl⟩
  · obtain ⟨ht, -⟩ := substLive_iff.mp hlive
    obtain ⟨hab, hph, -⟩ := subst_aborts hlive (cause := 4) (by decide)
    have hf := tileSramUe_frame (txnAbort s tid 4) (substLTile c (substAt s c).ltile) 16 (sramAddr w)
    exact ⟨_, exec_liveSubstStart_aborts h hp hb hprep hv hue ht, hf.txnAborted hab, by rw [hf.substAt_eq]; exact hph⟩
  · obtain ⟨_, _, h⟩ := reqDelivers_eq (substCommitted s c tid) (substAt s c).buffered
    rw [if_pos rfl, h, substCommitted_eq hx]
    obtain ⟨h1, h2⟩ := physAt_substSwitch (s := s) (c := c) (l := (substAt s c).ltile) rfl
    refine ⟨?_, rfl, mapFind_mapSet_self _ _ _, rfl, h1, h2, rfl⟩
    exact congrArg Subst.phase (mapGet_mapSet_self _ _ _ _)
  · obtain ⟨ht, -⟩ := substLive_iff.mp hlive
    obtain ⟨hab, hph, -⟩ := subst_aborts hlive (cause := 4) (by decide)
    exact ⟨_, exec_liveSubstCommit h ht, hab, hph⟩
  · beta_reduce
    rw [substAt_substOver]
    obtain ⟨hsp, hev, htab⟩ := substClear_ends (s := s) (c := c)
    exact ⟨rfl, rfl, hsp, hev, htab⟩
  · beta_reduce
    rw [substAt_substOver]
    exact ⟨rfl, rfl, coldClear_run hst hwait⟩

end Sys2Proof.Machine
end

section
/-! PROOF. How an outstanding request ends (O7). -/
namespace Sys2Proof.Machine
open Sys2Proof

section
variable {s : State} {u : UnitId} {tag : Nat} {o : Outst}

/-! ### Outstanding requests -/

theorem outFind_key {page : Nat} (h : outFind s page tag = some o) : o.src = page ∧ o.tag = tag := by
  simpa using List.find?_some h

/-- An update of the requests of one tag, found again under it. -/
theorem outFind_outUpd_self {page : Nat} {f : Outst → Outst} (h : outFind s page tag = some o) (hsrc : ∀ q, (f q).src = q.src)
    (htag : ∀ q, (f q).tag = q.tag) : outFind (outUpd s page tag f) page tag = some (f o) := by
  have hkey : ((fun q : Outst => decide (q.src = page) && decide (q.tag = tag)) ∘
      fun q => if decide (q.src = page) && decide (q.tag = tag) then f q else q) =
      fun q => decide (q.src = page) && decide (q.tag = tag) := by
    funext q
    by_cases hq : (decide (q.src = page) && decide (q.tag = tag)) = true
    · simp only [Function.comp, if_pos hq, hsrc, htag]
    · simp only [Function.comp, if_neg hq]
  show List.find? _ (List.map _ s.un.outst) = _
  rw [List.find?_map, hkey, show List.find? _ s.un.outst = some o from h]
  have := outFind_key h
  simp [this]

/-! ### Replies -/

/-- The reply that a REPLY_ARRIVAL names: its data alone is not among the command's operands. -/
theorem reply_found {tgt : UnitId} {y : Reply} (hy : y ∈ s.un.replies) (hsrc : y.src = pageOf u) (htag : y.tag = tag)
    (htgt : y.tgt = pageOf tgt) : ∃ r ∈ s.un.replies, r.rspInc = y.rspInc ∧ r.status = y.status ∧
      s.un.replies.find? (fun r => r.src = pageOf u && r.tag = tag && r.reqInc = y.reqInc && r.rspInc = y.rspInc && r.tgt = pageOf tgt
        && r.status = y.status) = some r := by
  cases hf : s.un.replies.find? (fun r => r.src = pageOf u && r.tag = tag && r.reqInc = y.reqInc && r.rspInc = y.rspInc
      && r.tgt = pageOf tgt && r.status = y.status) with
  | none => exact absurd (List.find?_eq_none.mp hf y hy) (by simp [hsrc, htag, htgt])
  | some r =>
    have hr := List.find?_some hf
    simp only [Bool.and_eq_true, decide_eq_true_eq] at hr
    exact ⟨r, List.mem_of_find?_eq_some hf, hr.1.1.2, hr.2, rfl⟩

/-- The reply has left the way. -/
def replyLanded (s : State) (r : Reply) : State := { s with un := { s.un with replies := s.un.replies.erase r } }

theorem exec_replyArrival {tgt : UnitId} {y : Reply} (hy : y ∈ s.un.replies) (hsrc : y.src = pageOf u) (htag : y.tag = tag)
    (htgt : y.tgt = pageOf tgt) (hj : joined s u tgt = true) : ∃ r ∈ s.un.replies, r.rspInc = y.rspInc ∧ r.status = y.status ∧
      exec (.replyArrival u tag y.reqInc y.rspInc tgt y.status none) s = .next (match outFind s (pageOf u) tag with
        | some o => if y.reqInc = (unitAt s u).inc then replyTake (replyLanded s r) o r else replyStale (replyLanded s r) u
        | none => replyStale (replyLanded s r) u) := by
  obtain ⟨r, hr, hinc, hst, hf⟩ := reply_found hy hsrc htag htgt
  refine ⟨r, hr, hinc, hst, ?_⟩
  show execReplyArrival u tag y.reqInc y.rspInc tgt y.status none s = _
  simp only [execReplyArrival, hf, hj, Bool.not_true, Bool.false_eq_true, if_false]
  show (match outFind s (pageOf u) tag with | some o => _ | none => _) = _
  split
  · split <;> rfl
  · rfl

theorem replyTake_plain {r : Reply} (ho : o.txn = none) : replyTake s o r =
    if reissued r.status then
      outUpd { s with un := { s.un with incTab := mapSet s.un.incTab (o.src * 65536 + o.tgt) r.rspInc } } o.src o.tag
        (fun q => { q with waiting := true })
    else outEnd { s with un := { s.un with incTab := mapSet s.un.incTab (o.src * 65536 + o.tgt) r.rspInc } } o.src o.tag r.status := by
  simp only [replyTake, outAnswer, ho]

/-- R44: a reply that its requester does not take is counted and sets STALE_DROP. -/
theorem replyStale_drops (s : State) (u : UnitId) : (replyStale s u).un.staleRep = satInc s.un.staleRep ∧
    unitAt (replyStale s u) u = { unitAt s u with evt := (unitAt s u).evt ||| 32 } ∧ (replyStale s u).un.outst = s.un.outst ∧
    (replyStale s u).un.incTab = s.un.incTab ∧ unitsKept s (replyStale s u) u ∧ onlyUnits s (replyStale s u) := by
  obtain ⟨_, _, _, h⟩ := unitEvt_frame { s with un := { s.un with staleRep := satInc s.un.staleRep } } u 32
  have hs : replyStale s u = _ := h
  refine ⟨by rw [hs], unitAt_unitEvt_self { s with un := { s.un with staleRep := satInc s.un.staleRep } } u 32, by rw [hs], by rw [hs],
    fun v hv => unitAt_unitEvt_ne { s with un := { s.un with staleRep := satInc s.un.staleRep } } 32 hv, ?_⟩
  rw [hs]
  rfl

/-- A port counts a completion that names an earlier incarnation of its function (R322). -/
def staleCounted (s : State) (port : Nat) : State :=
  hportSet s port { hportAt s port with staleCpl := satInc (hportAt s port).staleCpl }

theorem hportAt_replyStale (s : State) (u : UnitId) (port : Nat) : hportAt (replyStale s u) port = hportAt s port := by
  obtain ⟨_, _, _, h⟩ := unitEvt_frame { s with un := { s.un with staleRep := satInc s.un.staleRep } } u 32
  rw [show replyStale s u = _ from h]
  rfl

/-! ### Reissue and timeouts -/

theorem exec_requestReissue (h : outFind s (pageOf u) tag = some o) (hw : o.waiting = true) (ht : tag < 65536) :
    exec (.requestReissue u tag) s = .next (reissue s o) := by
  have hopen : tag ≠ openTag := Nat.ne_of_lt ht
  show execRequestReissue u tag s = _
  unfold execRequestReissue
  cases u <;> simp [h, hw, hopen]

/-- R23: what a free error record takes, STATUS and SOURCE as they read back. -/
theorem errLog_free {status source lo hi : Nat} {ctx : Option Nat} (h : (unitAt s u).err3.getLsbD 31 = false) :
    (unitAt (errLog s u status source lo hi ctx) u).err0.toNat % 256 = status % 256 ∧
      (unitAt (errLog s u status source lo hi ctx) u).err0.toNat / 256 % 256 = source % 256 ∧
      (unitAt (errLog s u status source lo hi ctx) u).err1 = BitVec.ofNat 32 lo ∧
      (unitAt (errLog s u status source lo hi ctx) u).evt = (unitAt s u).evt ||| 8 := by
  have hx : unitAt (errLog s u status source lo hi ctx) u = errRecord (unitAt s u) status source lo hi ctx := by simp [errLog]
  have hfree : ¬(unitAt s u).err3.getLsbD 31 = true := by rw [h]; exact Bool.false_ne_true
  have hword : (BitVec.ofNat 32 (status % 256 + (source % 256) <<< 8 + (unitAt s u).inc.toNat <<< 16)).toNat =
      status % 256 + source % 256 * 256 + (unitAt s u).inc.toNat * 65536 := by
    rw [BitVec.toNat_ofNat, Nat.shiftLeft_eq, Nat.shiftLeft_eq]
    omega
  rw [hx]
  unfold errRecord
  rw [if_neg hfree]
  dsimp only
  rw [hword]
  exact ⟨by omega, by omega, rfl, rfl⟩

theorem unitsKept_errLog (s : State) (u : UnitId) (status source lo hi : Nat) (ctx : Option Nat) :
    unitsKept s (errLog s u status source lo hi ctx) u :=
  (unitsKept_unitSet s u _).trans (unitsKept_irqEdge _ u)

theorem outst_errLog (s : State) (u : UnitId) (status source lo hi : Nat) (ctx : Option Nat) :
    (errLog s u status source lo hi ctx).un.outst = s.un.outst := by
  obtain ⟨_, _, _, h⟩ := errLog_frame s u status source lo hi ctx
  rw [h]

theorem exec_requestSoftTimeout {tgt : UnitId} (h : outFind s (pageOf u) tag = some o) (hsoft : o.soft = false)
    (htgt : unitOfPage o.tgt = some tgt) : exec (.requestSoftTimeout u tag) s =
      .next (errLog (outUpd s (pageOf u) tag (fun q => { q with soft := true })) u stReqTimeout 0 (unitIdReg tgt) 0 none) := by
  show execRequestSoftTimeout u tag s = _
  simp [execRequestSoftTimeout, h, hsoft, htgt, (outFind_key h).1]

end

/-- Settles O7: a reply is taken by its tag or dropped, and each timer acts on the request found under its tag. -/
theorem requestsEnd : Obligations.RequestsEnd := by
  unfold Obligations.RequestsEnd
  refine ⟨fun u tag tgt y o s hy hsrc htag hinc htgt hj ho htxn => ?_,
    fun u tag tgt y s hy hsrc htag htgt hj hno => ?_,
    fun u tag reqInc rspInc tgt status k s hf => ?_,
    fun u tag o s ho hw ht => ⟨_, exec_requestReissue ho hw ht, ?_⟩,
    fun u tag o tgt s ho hsoft htgt herr => ⟨_, exec_requestSoftTimeout ho hsoft htgt, ?_⟩,
    fun u tag o s ho hsoft => ⟨outEnd s (pageOf u) tag stReqTimeout, ?_, rfl⟩⟩
  · obtain ⟨r, hr, hrsp, hst, hexec⟩ := exec_replyArrival hy hsrc htag htgt hj
    obtain ⟨hos, hot⟩ := outFind_key ho
    have hlen : (s.un.replies.erase r).length + 1 = s.un.replies.length := by
      rw [List.length_erase_of_mem hr, Nat.sub_add_cancel (List.length_pos_of_mem hr)]
    refine ⟨replyTake (replyLanded s r) o r, ?_, ?_⟩
    · rw [hexec, ho]
      simp only [hinc, if_true]
    · rw [replyTake_plain htxn, hos, hot, hst, hrsp]
      cases reissued y.status with
      | true => exact ⟨rfl, fun h => (Bool.noConfusion h), mapFind_mapSet_self _ _ _, hlen, rfl⟩
      | false => exact ⟨rfl, fun _ => mapFind_mapSet_self _ _ _, mapFind_mapSet_self _ _ _, hlen, rfl⟩
  · obtain ⟨r, -, -, -, hexec⟩ := exec_replyArrival hy hsrc htag htgt hj
    refine ⟨replyStale (replyLanded s r) u, ?_, replyStale_drops (replyLanded s r) u⟩
    rw [hexec]
    obtain hno | hno := hno
    · rw [hno]
    · split
      · rw [if_neg hno]
      · rfl
  · refine ⟨replyStale (staleCounted s (funcPort k)) (.hport (funcPort k)), ?_, ?_⟩
    · show execReplyArrival u tag reqInc rspInc tgt status (some k) s = _
      rw [execReplyArrival]
      exact if_neg hf
    · obtain ⟨hcnt, hevt, -, -, -, hframe⟩ := replyStale_drops (staleCounted s (funcPort k)) (.hport (funcPort k))
      refine ⟨?_, hcnt, congrArg Unit.evt hevt, hframe⟩
      rw [hportAt_replyStale]
      exact congrArg HPort.staleCpl (hportAt_hportSet_self s _ _)
  · obtain ⟨hos, hot⟩ := outFind_key ho
    have hfound := outFind_outUpd_self (f := fun q => { q with
      waiting := false, arrived := false, tries := min 7 (q.tries + 1), tgtInc := mapGet 0 s.un.incTab (q.src * 65536 + q.tgt) })
      ho (fun _ => rfl) fun _ => rfl
    rw [reissue, hos, hot]
    exact ⟨⟨_, hfound, rfl, rfl, by rw [hos], rfl, rfl⟩, rfl⟩
  · obtain ⟨hstatus, hsource, htarget, hevt⟩ := errLog_free (s := outUpd s (pageOf u) tag fun q => { q with soft := true })
      (status := stReqTimeout) (source := 0) (lo := unitIdReg tgt) (hi := 0) (ctx := none) herr
    have hfound := outFind_outUpd_self (f := fun q => { q with soft := true }) ho (fun _ => rfl) fun _ => rfl
    refine ⟨hstatus, hsource, htarget, hevt, ⟨{ o with soft := true }, ?_, rfl, rfl⟩,
      unitsKept_errLog (outUpd s (pageOf u) tag fun q => { q with soft := true }) u _ _ _ _ _,
      (errLog_frame (outUpd s (pageOf u) tag fun q => { q with soft := true }) u _ _ _ _ _).onlyUnits⟩
    rw [outFind, outst_errLog]
    exact hfound
  · show execRequestHardTimeout u tag s = _
    simp [execRequestHardTimeout, ho, hsoft, (outFind_key ho).1]

end Sys2Proof.Machine
end

section
/-! PROOF. COMMIT at a tile whose slot the spare shares (O9). -/
namespace Sys2Proof.Machine
open Sys2Proof

/-! ### A tile and a spare on one slot

O9 says of every state that a tile which takes COMMIT has the partition's STEP in its copy. Its hypotheses leave out that each page of a
cluster has a slot of its own (R12). Where tile 0 and the spare page of cluster 0 share slot 0, the last COMMIT releases a tile that is
frozen beyond NSTROKES: the plate stops with FETCH, the stop aborts the armed substitution of the cluster (R57), and the abort clears the
spare's slot, with the copy just written. -/

/-- A decided STEP transaction of a partition of tile 0, its COMMIT on the way. -/
def sharedSlotStep : Txn :=
  { kind := 1, key := 0, coord := pageOf (.cluster 0), coordInc := 0, phase := .committed, record := true,
    members := [{ page := pageOf (.tile 0), inc := 0, st := .counted }] }

/-- The open transaction of cluster 0's substitution. -/
def sharedSlotSubst : Txn :=
  { kind := 2, key := 0, coord := pageOf (.cluster 0), coordInc := 0, phase := .open, members := [] }

/-- The partition of tile 0, at step 1 of a run of eight strokes. -/
def sharedSlotPart : Part :=
  { t0 := 0, log2n := 0, st := .running, ctx := 0, step := 1,
    run := some { obj := 1, nstrokes := 8, entry := 0, digest := [], numver := 0, canon := false, cmd := { ctx := 0, qid := 0 } } }

/-- Tile 0 in RUN and frozen at stroke 8, its slot that of the spare page too, and a substitution of it armed. -/
def sharedSlot : State :=
  { State.reset with
    un := { State.reset.un with
      tab := [(pageOf (.tile 0), { state := .run })], phys := [(16, 0)], txns := [(5, sharedSlotStep), (6, sharedSlotSubst)],
      subst := [(0, { phase := .armed, tid := some 6 })] }
    tl := { tab := [(0, { plate := { pstate := .frozen, pc := 8 } })], parts := [(0, sharedSlotPart)] } }

/-- The copy of STEP that a tile holds after a command. -/
def stepCopyAfter (c : Instr) (s : State) (n : Nat) : Option W64 :=
  match exec c s with
  | .next t => some (tileAt t n).stepCopy
  | _ => none

theorem sharedSlot_physAt : physAt sharedSlot (.tile 0) = physAt sharedSlot (.spare 0) := rfl

theorem sharedSlot_loses_copy : stepCopyAfter (.txnCommit 5 (.tile 0)) sharedSlot 0 = some 0 := by decide +kernel

/-- Refutes O9: with tile 0 and the spare on one slot (`sharedSlot`), tile 0 applies its COMMIT at STEP 1 and is left with 0 in its copy. -/
theorem not_transactionDecision : ¬ Obligations.TransactionDecision := by
  unfold Obligations.TransactionDecision
  rintro ⟨-, -, -, -, -, hcommit, -⟩
  obtain ⟨t, ht, -, hcopy⟩ := hcommit 5 (.tile 0) sharedSlotStep sharedSlot rfl rfl rfl (by decide) (by decide +kernel) (by decide +kernel)
  have hstep : (tileAt t 0).stepCopy = 1 := hcopy 0 sharedSlotPart rfl rfl rfl
  have hlost : stepCopyAfter (.txnCommit 5 (.tile 0)) sharedSlot 0 = some (tileAt t 0).stepCopy := by
    rw [stepCopyAfter, ht]
  rw [sharedSlot_loses_copy, hstep] at hlost
  exact absurd hlost (by decide)

end Sys2Proof.Machine
end

section
/-! PROOF. What the reset of a host port leaves of every unit's record (O4). `lasts` reads it from how the units stand: the incarnation, the
source of the last command, and all of a record in RESETTING but what waits there. The functions that leave how the units stand are cited
under `_standing` (those of rings and fences under `_standing_true`); the others have a lemma under `_lasts`. -/
namespace Sys2Proof.Machine
open Sys2Proof

/-- What of a unit's record neither events nor a RESUME change. -/
def lasting (x : Unit) : Half × Nat × Option Unit :=
  (x.inc, x.cmdSrc, if x.state = .resetting then some { core x with waiting := [] } else none)

/-- That of every page, read from how the units stand. -/
def lasts (r : (Nat → Option Unit) × Option (W64 × Option (List (Nat × Nat × Nat × List Nat)))) (page : Nat) :
    Option (Half × Nat × Option Unit) := (r.1 page).map lasting

section
variable {s t : State} {α : Type}

theorem lasts_ext (h : ∀ page, lasting (coreAt t page) = lasting (coreAt s page)) :
    lasts (standing true t) = lasts (standing true s) :=
  funext fun page => congrArg some (h page)

@[simp] theorem lasts_ite {c : Prop} {_ : Decidable c} {a b : State} : lasts (if c then standing true a else standing true b) =
    if c then lasts (standing true a) else lasts (standing true b) := by split <;> rfl

@[simp] theorem lasts_foldl {f : State → α → State} {l : List α}
    (hf : ∀ s a, lasts (standing true (f s a)) = lasts (standing true s)) :
    lasts (standing true (l.foldl f s)) = lasts (standing true s) :=
  List.foldlRecOn l f (motive := fun t => lasts (standing true t) = lasts (standing true s)) rfl (fun _ k _ _ => (hf _ _).trans k)

/-- Counts and partitions are no part of it. -/
@[simp] theorem lasts_standingOf {c : W64} {p : Map Part} :
    lasts (standingOf true s.un.tab c p) = lasts (standing true s) := rfl

/-- A record reads the same before its page is first written, unless it is in RESETTING. -/
theorem lasting_unitAt (s : State) (u : UnitId) : lasting (unitAt s u) = lasting (coreAt s (pageOf u)) := by
  unfold coreAt unitAt
  cases mapFind s.un.tab (pageOf u) with
  | none => cases u <;> simp only [unitInit, Option.getD_none] <;> (repeat' split) <;> rfl
  | some x => rfl

theorem unitSet_lasts {u : UnitId} {x : Unit} (hx : lasting x = lasting (unitAt s u)) :
    lasts (standing true (unitSet s u x)) = lasts (standing true s) := by
  refine lasts_ext fun page => ?_
  rw [coreAt_unitSet]
  split
  next hp =>
    rw [hp, ← lasting_unitAt, ← hx]
    rfl
  next => rfl

theorem irqEdge_lasts : lasts (standing true (irqEdge s)) = lasts (standing true s) := by rw [standing_irqEdge]

@[simp] theorem unitEvt_lasts {u : UnitId} {bits : Nat} : lasts (standing true (unitEvt s u bits)) = lasts (standing true s) :=
  irqEdge_lasts.trans (unitSet_lasts rfl)

/-! ### Rings and fences leave the units -/

@[simp] theorem queueSet_standing_true {c : CmdRef} {q : Queue} : standing true (queueSet s c q) = standing true s :=
  standing_congr rfl rfl rfl

@[simp] theorem ctxSet_standing_true {c : Nat} {x : Ctx} : standing true (ctxSet s c x) = standing true s := standing_congr rfl rfl rfl

@[simp] theorem hportSet_standing_true {k : Nat} {x : HPort} : standing true (hportSet s k x) = standing true s :=
  standing_congr rfl rfl rfl

@[simp] theorem funcSet_standing_true {f : Nat} {x : Func} : standing true (funcSet s f x) = standing true s :=
  standing_congr rfl rfl rfl

@[simp] theorem finishRes_standing_true {c : CmdRef} {status result : Nat} :
    standing true (finishRes s c status result) = standing true s := by
  unfold finishRes
  (repeat' split) <;> simp

@[simp] theorem cmdUpd_standing_true {r : CmdRef} {f : QCmd → QCmd} : standing true (cmdUpd s r f) = standing true s := by
  unfold cmdUpd
  split <;> simp

@[simp] theorem ringPut_standing_true {c : Nat} {r : Ring} {v : Nat} : standing true (ringPut s c r v).1 = standing true s :=
  standing_congr rfl rfl rfl

@[simp] theorem ringDrain_standing_true {n c claimed : Nat} {r : Ring} :
    standing true (ringDrain n s c claimed r).1 = standing true s := by
  induction n generalizing s r with
  | zero => rfl
  | succ k ih =>
    rw [ringDrain]
    split
    · rfl
    · rw [standing_iteFst, ih, ringPut_standing_true, ite_self]

@[simp] theorem msiIf_standing_true {r : Ring} {f : Nat} {wrote : Bool} : standing true (msiIf s r f wrote) = standing true s := by
  unfold msiIf
  split
  · exact standing_congr rfl rfl rfl
  · rfl

@[simp] theorem postAdmin_standing_true {port : Nat} {e : Event} : standing true (postAdmin s port e) = standing true s := by
  unfold postAdmin
  dsimp only
  split
  · rfl
  · simp [ringPost]

@[simp] theorem postCtx_standing_true {c : Nat} {e : Event} : standing true (postCtx s c e) = standing true s := by
  unfold postCtx
  split
  · rfl
  · simp [ringPost]

@[simp] theorem fenceUpd_standing_true {o : Nat} {f : Obj → Obj} : standing true (fenceUpd s o f) = standing true s := by
  unfold fenceUpd
  (repeat' split)
  · exact standing_congr rfl rfl rfl
  · rfl
  · rfl

@[simp] theorem groupFree_standing_true {gix : Nat} : standing true (groupFree s gix) = standing true s := by
  unfold groupFree
  split
  · rfl
  · exact standing_congr rfl rfl rfl

@[simp] theorem closeRemote_standing_true {g : Group} : standing true (closeRemote g s) = standing true s := by
  unfold closeRemote
  split <;> simp

@[simp] theorem joinDone_standing_true {status : Nat} {m : LocalMem} : standing true (joinDone status s m) = standing true s := by
  unfold joinDone
  split <;> simp [finishCmd]

@[simp] theorem abandonShared_standing_true {c : Nat} : standing true (abandonShared s c) = standing true s := by
  refine standing_foldl fun s e => ?_
  split <;> simp

@[simp] theorem voteAborted_standing_true {t0 : Nat} : standing true (voteAborted s t0) = standing true s := by
  unfold voteAborted
  (repeat' split) <;> simp

/-! ### Holds end -/

/-- A tile that leaves QUIESCED is not in RESETTING. -/
theorem lasting_resumed (x : Unit) (page : Nat) : lasting (resumed x page) = lasting x := by
  unfold resumed
  split
  · rfl
  next h =>
    rw [not_not] at h
    split <;> simp [lasting, h]

@[simp] theorem resumeTile_lasts {n : Nat} : lasts (standing true (resumeTile s n)) = lasts (standing true s) := by
  refine lasts_ext fun page => ?_
  rw [coreAt_resumeTile]
  split
  · exact lasting_resumed _ _
  · rfl

@[simp] theorem withdrawHolds_lasts {page : Nat} : lasts (standing true (withdrawHolds s page)) = lasts (standing true s) :=
  withdrawHolds_rel (P := fun t => lasts (standing true t) = lasts (standing true s))
    (fun hc ha => (lasts_ext fun q => by rw [hc]).trans ha) (fun _ _ ha => resumeTile_lasts.trans ha) rfl page

/-! ### Groups, queues and functions -/

theorem partSet_lasts {p : Part} : lasts (standing true (partSet s p)) = lasts (standing true s) := rfl

@[simp] theorem partUpd_lasts {n : Nat} {f : Part → Part} : lasts (standing true (partUpd s n f)) = lasts (standing true s) := by
  unfold partUpd
  split <;> rfl

@[simp] theorem stepCommitted_lasts {tid : Nat} {x : Txn} {p : Part} :
    lasts (standing true (stepCommitted s tid x p)) = lasts (standing true s) := by
  unfold stepCommitted
  dsimp only
  split
  · rw [unitEvt_lasts]
    rfl
  · rfl

@[simp] theorem commitPart_lasts {t0 step round : Nat} : lasts (standing true (commitPart s t0 step round)) = lasts (standing true s) := by
  unfold commitPart
  dsimp only
  (repeat' split) <;> simp [partSet_lasts]

@[simp] theorem abortPart_lasts {t0 : Nat} : lasts (standing true (abortPart s t0)) = lasts (standing true s) := by
  simp [abortPart]

@[simp] theorem settleVote_lasts {m : LocalMem} {grpStep : Nat} :
    lasts (standing true (settleVote s m grpStep)) = lasts (standing true s) := by
  unfold settleVote
  (repeat' split) <;> simp

@[simp] theorem memberFailed_lasts {g : Group} {lost : Nat} {m : LocalMem} :
    lasts (standing true (memberFailed g lost s m)) = lasts (standing true s) := by
  unfold memberFailed
  dsimp only
  split
  · rw [partUpd_lasts, settleVote_lasts]
  · rfl

@[simp] theorem groupFail_lasts {gix status lost : Nat} {tell : Bool} :
    lasts (standing true (groupFail s gix status lost tell)) = lasts (standing true s) := by
  unfold groupFail
  dsimp only
  (repeat' split) <;> simp

@[simp] theorem memberLeave_lasts {gix t0 : Nat} : lasts (standing true (memberLeave s gix t0)) = lasts (standing true s) := by
  unfold memberLeave
  dsimp only
  (repeat' split) <;> simp

@[simp] theorem partBurnish_lasts {p : Part} : lasts (standing true (partBurnish s p)) = lasts (standing true s) := by
  unfold partBurnish
  split
  · rfl
  · rw [partUpd_lasts]
    exact lasts_foldl fun _ _ => memberLeave_lasts

@[simp] theorem abortBusy_lasts {r : CmdRef} {k : QCmd} : lasts (standing true (abortBusy s r k)) = lasts (standing true s) := by
  unfold abortBusy
  dsimp only
  (repeat' split) <;> simp [finishCmd, exportEnd]

@[simp] theorem abortQueue_lasts {r : CmdRef} : lasts (standing true (abortQueue s r)) = lasts (standing true s) := by
  unfold abortQueue
  dsimp only
  (repeat' split) <;> simp [finishCmd]

@[simp] theorem disableCtx_lasts {c : Nat} : lasts (standing true (disableCtx s c)) = lasts (standing true s) := by
  simp [disableCtx, abortAll]

@[simp] theorem disableFunc_lasts {cause fk : Nat} : lasts (standing true (disableFunc s cause fk)) = lasts (standing true s) := by
  simp [disableFunc, postDisabled]

@[simp] theorem farFail_lasts {blk cause : Nat} : lasts (standing true (farFail s blk cause)) = lasts (standing true s) := by
  unfold farFail
  dsimp only
  (repeat' split) <;> simp

/-- R326: the reset of a host port leaves this much of every record. -/
theorem portReset_lasts {k : Nat} : lasts (standing true (portReset s k)) = lasts (standing true s) := by
  simp [portReset, disableEvent, farLost, farUnreached]

end
end Sys2Proof.Machine
end

section
/-! PROOF. How the actions of unit commands end, and a unit's own reset (O4). -/
namespace Sys2Proof.Machine
open Sys2Proof

section
variable {s t : State}

/-! ### A record but for its state -/

/-- A record without its state, its events and its errors. -/
def body (x : Unit) : Unit := { core x with state := .off }

theorem body_unitAt (s : State) (u : UnitId) : body (unitAt s u) = body (coreAt s (pageOf u)) := core_unitAt_off s u

theorem unitInit_state (u : UnitId) : (unitInit u).state = .off ∨ (unitInit u).state = .run := by
  cases u with
  | iodie i =>
    simp only [unitInit]
    split
    · exact .inr rfl
    · exact .inl rfl
  | package => exact .inr rfl
  | service k => exact .inr rfl
  | _ => exact .inl rfl

/-- But for OFF and RUN, a state stands on the unit's page. -/
theorem state_unitAt_iff {u : UnitId} {st : UState} (ho : st ≠ .off) (hr : st ≠ .run) :
    (unitAt s u).state = st ↔ (coreAt s (pageOf u)).state = st := by
  unfold coreAt unitAt
  cases mapFind s.un.tab (pageOf u) with
  | none =>
    have hne : (unitInit u).state ≠ st := by
      obtain h | h := unitInit_state u <;> rw [h]
      · exact ho.symm
      · exact hr.symm
    exact iff_of_false hne ho.symm
  | some x => exact Iff.rfl

theorem body_coreAt_setUState (s : State) (u : UnitId) (st : UState) (page : Nat) :
    body (coreAt (setUState s u st) page) = body (coreAt s page) := by
  unfold setUState
  dsimp only
  split
  · rfl
  · rw [coreAt_irqEdge, coreAt_unitSet]
    split
    next hp =>
      rw [hp]
      exact body_unitAt s u
    next => rfl

/-- A unit that enters a state changes no other field of any record. -/
theorem body_coreAt_unitTo (s : State) (u : UnitId) (st : UState) (page : Nat) :
    body (coreAt (unitTo s u st) page) = body (coreAt s page) := by
  unfold unitTo
  split
  · split
    · rfl
    · rw [coreAt_of_standing portFollow_standing, body_coreAt_setUState]
  · exact body_coreAt_setUState s u st page

theorem core_unitAt_unitTo (s : State) (u : UnitId) (st : UState) :
    core (unitAt (unitTo s u st) u) = core { unitAt s u with state := st } := by
  cases u with
  | fport p => exact unitAt_of_coreAt (coreAt_unitTo_self (core_unitAt (.inl rfl)).symm rfl st) (.inl rfl)
  | _ => exact core_setUState s _ st

theorem waiting_of_body {x y : Unit} (h : body x = body y) : x.waiting = y.waiting :=
  show (body x).waiting = (body y).waiting by rw [h]

theorem cmdBusy_of_body {x y : Unit} (h : body x = body y) : x.cmdBusy = y.cmdBusy :=
  show (body x).cmdBusy = (body y).cmdBusy by rw [h]

theorem calmAt_unitTo (h : calmAt s) (u : UnitId) (st : UState) : calmAt (unitTo s u st) :=
  fun page => (waiting_of_body (body_coreAt_unitTo s u st page)).trans (h page)

theorem waiting_calm (h : calmAt s) (u : UnitId) : (unitAt s u).waiting = [] := (waiting_unitAt s u).trans (h _)

/-- A write to a record on which nothing waits. -/
theorem calmAt_unitSet_nil (h : calmAt s) (u : UnitId) {x : Unit} (hx : x.waiting = []) : calmAt (unitSet s u x) :=
  calmAt_unitSet h u (hx.trans (waiting_calm h u).symm)

theorem calmAt_cmdDone (h : calmAt s) (u : UnitId) (status : Nat) : calmAt (cmdDone s u status) := by
  intro page
  rw [coreAt_cmdDone]
  split
  · exact waiting_calm h u
  · exact h page

/-! ### The end of an action -/

/-- The record of a unit whose action has ended: the commanded unit's command with its status, any other's without. -/
def endedRecord (x : Unit) (page status : Nat) : Unit :=
  if x.cmdBusy && x.root = page then { x with cmdStatus := status, cmdBusy := false, cmd := none }
  else { x with cmdBusy := false, cmd := none }

theorem endedRecord_fields (x : Unit) (page status : Nat) : (endedRecord x page status).state = x.state ∧
    (endedRecord x page status).inc = x.inc ∧ (endedRecord x page status).cmdBusy = false ∧ (endedRecord x page status).cmd = none ∧
    (endedRecord x page status).waiting = x.waiting := by
  unfold endedRecord
  split <;> exact ⟨rfl, rfl, rfl, rfl, rfl⟩

theorem endedRecord_status {x : Unit} {page : Nat} (hb : x.cmdBusy = true) (hr : x.root = page) (status : Nat) :
    (endedRecord x page status).cmdStatus = status := by
  rw [endedRecord, if_pos (by simp [hb, hr])]

theorem core_endedRecord (x : Unit) (page status : Nat) : core (endedRecord x page status) = endedRecord (core x) page status := by
  unfold endedRecord
  rw [apply_ite core]
  rfl

theorem eq_of_waiting_nil {x : Unit} (h : x.waiting = []) : { x with waiting := [] } = x := by
  cases x
  cases h
  rfl

/-- The unit's own side of the end of an action, before the actions that waited for it. -/
def actionEnded (s : State) (u : UnitId) (status : Nat) : State :=
  if (unitAt s u).cmdBusy && (unitAt s u).root = pageOf u then cmdDone s u status
  else unitSet s u { unitAt s u with cmdBusy := false, cmd := none }

theorem core_unitAt_actionEnded (s : State) (u : UnitId) (status : Nat) :
    core (unitAt (actionEnded s u status) u) = core (endedRecord (unitAt s u) (pageOf u) status) := by
  unfold actionEnded endedRecord
  split
  · rw [unitAt_cmdDone_self]
    rfl
  · rw [unitAt_unitSet_self]

theorem actionEnded_frame (s : State) (u : UnitId) (status : Nat) : EvtFrame s (actionEnded s u status) := by
  unfold actionEnded
  split
  · exact cmdDone_frame s u status
  · exact unitSet_frame s u _

theorem coreAt_actionEnded_ne {u : UnitId} {page : Nat} (h : page ≠ pageOf u) (s : State) (status : Nat) :
    coreAt (actionEnded s u status) page = coreAt s page := by
  unfold actionEnded
  split
  · rw [coreAt_cmdDone, if_neg h]
  · exact coreAt_unitSet_ne h s _

theorem endAction_calm {u : UnitId} (hw : (unitAt s u).waiting = []) (status : Nat) :
    endAction s u status = unitSet (actionEnded s u status) u { unitAt (actionEnded s u status) u with waiting := [] } := by
  have h : (unitAt (actionEnded s u status) u).waiting = [] := by
    obtain ⟨-, -, -, -, -, -, h⟩ := fields_of_core (core_unitAt_actionEnded s u status)
    obtain ⟨-, -, -, -, hwait⟩ := endedRecord_fields (unitAt s u) (pageOf u) status
    exact h.trans (hwait.trans hw)
  show (unitAt (actionEnded s u status) u).waiting.foldl (fun s e => actWaiting s u e)
    (unitSet (actionEnded s u status) u { unitAt (actionEnded s u status) u with waiting := [] }) = _
  rw [h, List.foldl_nil]

/-- An action ends on a unit for which nothing waits: its record alone changes. -/
theorem core_unitAt_endAction {u : UnitId} (hw : (unitAt s u).waiting = []) (status : Nat) :
    core (unitAt (endAction s u status) u) = core (endedRecord (unitAt s u) (pageOf u) status) := by
  obtain ⟨-, -, -, -, hwait⟩ := endedRecord_fields (unitAt s u) (pageOf u) status
  rw [endAction_calm hw, unitAt_unitSet_self]
  refine (congrArg (fun y : Unit => { y with waiting := [] }) (core_unitAt_actionEnded s u status)).trans ?_
  exact eq_of_waiting_nil (x := core _) (hwait.trans hw)

theorem coreAt_endAction {u : UnitId} (hw : (unitAt s u).waiting = []) (status page : Nat) : coreAt (endAction s u status) page =
    if page = pageOf u then core (endedRecord (unitAt s u) (pageOf u) status) else coreAt s page := by
  split
  next hp =>
    rw [← core_unitAt_endAction hw, endAction_calm hw, hp, coreAt_unitSet_self, unitAt_unitSet_self]
  next hp => rw [endAction_calm hw, coreAt_unitSet_ne hp, coreAt_actionEnded_ne hp]

theorem hw_endAction {u : UnitId} (hw : (unitAt s u).waiting = []) (status : Nat) : (endAction s u status).hw = s.hw := by
  obtain ⟨_, _, _, h⟩ := actionEnded_frame s u status
  rw [endAction_calm hw, unitSet_hw, h]

theorem calmAt_endAction (h : calmAt s) (u : UnitId) (status : Nat) : calmAt (endAction s u status) := by
  intro page
  rw [coreAt_endAction (waiting_calm h u)]
  obtain ⟨-, -, -, -, hwait⟩ := endedRecord_fields (unitAt s u) (pageOf u) status
  split
  · exact hwait.trans (waiting_calm h u)
  · exact h page

/-- What a unit reads that enters a state and whose action then ends. -/
theorem enters_and_ends {u : UnitId} (hw : (unitAt s u).waiting = []) (st : UState) (status : Nat) :
    core (unitAt (endAction (unitTo s u st) u status) u) = core (endedRecord { unitAt s u with state := st } (pageOf u) status) := by
  have hx := core_unitAt_unitTo s u st
  rw [core_unitAt_endAction (by rw [waiting_unitAt, waiting_of_body (body_coreAt_unitTo s u st _), ← waiting_unitAt, hw]),
    core_endedRecord, hx, ← core_endedRecord]

/-! ### QUIESCED -/

theorem becomeQuiesced_quiesce {u : UnitId} (hc : (unitAt s u).cmd = some .quiesce) :
    becomeQuiesced s u = endAction (unitTo s u .quiesced) u stOk := by
  obtain ⟨-, -, -, -, -, hcmd, -⟩ := fields_of_core (core_unitAt_unitTo s u .quiesced)
  have hc' : (unitAt (unitTo s u .quiesced) u).cmd = some .quiesce := hcmd.trans hc
  unfold becomeQuiesced
  dsimp only
  rw [hc', if_neg (by simp), if_pos rfl]

theorem becomeQuiesced_retire {u : UnitId} (hc : (unitAt s u).cmd = some .retire) (hr : (unitAt s u).root = pageOf u) :
    becomeQuiesced s u = sweepGo .retire (unitTo s u .quiesced) u := by
  have hx := core_unitAt_unitTo s u .quiesced
  have hc' : (unitAt (unitTo s u .quiesced) u).cmd = some .retire := (congrArg Unit.cmd hx).trans hc
  have hr' : (unitAt (unitTo s u .quiesced) u).root = pageOf u := (congrArg Unit.root hx).trans hr
  unfold becomeQuiesced
  dsimp only
  rw [hc', hr', if_pos (by simp)]
  rfl

/-- A unit outside a running partition enters QUIESCED by itself. -/
theorem exec_unitQuiesced_alone {u : UnitId} (hst : (unitAt s u).state = .quiescing) (hd : drained s u = true)
    (hq : descendantsQuiet s u = true) (hn : notInRun s u = true) : exec (.unitQuiesced u) s = .next (becomeQuiesced s u) := by
  show execUnitQuiesced u s = _
  unfold execUnitQuiesced
  rw [if_neg (by simp [hst, hd, hq])]
  cases u with
  | tile n =>
    unfold notInRun at hn
    dsimp only at hn ⊢
    cases hp : partOf s n with
    | none => rfl
    | some p =>
      simp only [hp, Bool.and_eq_true] at hn
      dsimp only
      rw [if_pos hn.1, if_pos hn.2]
  | _ => rfl

/-! ### SLEEP and RETIRE with no command busy below -/

theorem coreAt_sweepTake_ne {u : UnitId} {page : Nat} (h : page ≠ pageOf u) (c : UCmd) (s : State) :
    coreAt (sweepTake c s u) page = coreAt s page := by
  rw [sweepTake, coreAt_unitTo_ne h, coreAt_of_standing txnsOfUnit_standing]

theorem body_coreAt_sweepTake (c : UCmd) (s : State) (u : UnitId) (page : Nat) :
    body (coreAt (sweepTake c s u) page) = body (coreAt s page) := by
  rw [sweepTake, body_coreAt_unitTo, coreAt_of_standing txnsOfUnit_standing]

/-- Nothing waits, and no unit of the list is busy. -/
def idleAll (s : State) (l : List UnitId) : Prop := calmAt s ∧ ∀ e ∈ l, (coreAt s (pageOf e)).cmdBusy = false

theorem idleAll_sweepOne {l : List UnitId} {e : UnitId} (h : idleAll s l) (he : e ∈ l) (c : UCmd) (root src : Nat) :
    idleAll (sweepOne c root src s e) l ∧ ∀ page, page ≠ pageOf e → coreAt (sweepOne c root src s e) page = coreAt s page := by
  obtain ⟨hcalm, hb⟩ := h
  have hbe : (unitAt s e).cmdBusy = false := (cmdBusy_unitAt s e).trans (hb e he)
  unfold sweepOne
  simp only [hbe, Bool.false_and, Bool.false_eq_true, if_false, sweepWaits_calm hcalm]
  split
  · exact ⟨⟨hcalm, hb⟩, fun _ _ => rfl⟩
  · refine ⟨⟨fun page => ?_, fun d hd => ?_⟩, fun page hp => ?_⟩
    · rw [waiting_of_body (body_coreAt_sweepTake c _ e page)]
      exact calmAt_unitSet_nil hcalm e (by exact waiting_calm hcalm e) page
    · rw [cmdBusy_of_body (body_coreAt_sweepTake c _ e _), coreAt_unitSet]
      split
      · rfl
      · exact hb d hd
    · rw [coreAt_sweepTake_ne hp, coreAt_unitSet_ne hp]

/-- A unit with children is fitted. -/
theorem present_of_child {hw : Hw} {u d : UnitId} (h : d ∈ children hw u) : present hw u = true := by
  obtain ⟨hm, hp⟩ := List.mem_filter.mp h
  cases u <;> simp only [childrenAll, List.mem_append, List.mem_map, List.mem_range, List.mem_singleton, List.not_mem_nil] at hm <;>
    grind [present]

theorem present_of_descendant {hw : Hw} {u d : UnitId} (h : d ∈ descendants hw u) : present hw u = true := by
  obtain h | ⟨c, hc, -⟩ | ⟨c, hc, -⟩ := mem_descendants.mp h
  · exact present_of_child h
  · exact present_of_child hc
  · exact present_of_child hc

theorem page_ne_of_descendant {hw : Hw} {u d : UnitId} (h : d ∈ descendants hw u) : pageOf u ≠ pageOf d :=
  (pageOf_ne_of_descendants (present_of_descendant h) h).symm

/-- SLEEP or RETIRE of a unit whose record stands, with nothing below it busy and nothing waiting. -/
theorem sweepGo_calm {u : UnitId} (h : idleAll s (descendants s.hw u)) (hst : (coreAt s (pageOf u)).state ≠ .off) (c : UCmd) :
    core (unitAt (sweepGo c s u) u) =
      core { unitAt s u with state := sweepState c, cmdStatus := stOk, cmdBusy := false, cmd := none } := by
  unfold sweepGo
  extract_lets s1
  obtain ⟨⟨hcalm1, -⟩, hself⟩ : idleAll s1 (descendants s.hw u) ∧ coreAt s1 (pageOf u) = coreAt s (pageOf u) :=
    List.foldlRecOn (motive := fun (t : State) => idleAll t (descendants s.hw u) ∧ coreAt t (pageOf u) = coreAt s (pageOf u)) _ _
      ⟨h, rfl⟩ fun t ⟨ht, hp⟩ e he =>
        have he' := List.mem_reverse.mp he
        have hone := idleAll_sweepOne ht he' c (pageOf u) (unitAt s u).cmdSrc
        ⟨hone.1, (hone.2 _ (page_ne_of_descendant he')).trans hp⟩
  rw [if_neg (by rw [sweepWaits_calm hcalm1]; exact Bool.false_ne_true), unitAt_cmdDone_self]
  have hx : core (unitAt (txnsOfUnit s1 (pageOf u) 3) u) = core (unitAt s u) := by
    have hp : coreAt (txnsOfUnit s1 (pageOf u) 3) (pageOf u) = coreAt s (pageOf u) :=
      (coreAt_of_standing txnsOfUnit_standing _).trans hself
    rw [core_unitAt (.inr (by rwa [hp])), core_unitAt (.inr hst), hp]
  have htake : core (unitAt (sweepTake c s1 u) u) = core { unitAt s u with state := sweepState c } :=
    (core_unitAt_unitTo _ u _).trans (congrArg (fun y : Unit => { y with state := sweepState c }) hx)
  exact congrArg (fun y : Unit => ({ y with cmdStatus := stOk, cmdBusy := false, cmd := none } : Unit)) htake

theorem hw_setUState (s : State) (u : UnitId) (st : UState) : (setUState s u st).hw = s.hw := by
  obtain ⟨_, _, _, h⟩ := setUState_frame s u st
  rw [h]

theorem hw_portProbe (s : State) (p : Nat) : (portProbe s p).hw = s.hw := by
  unfold portProbe
  split
  · rfl
  · refine List.foldlRecOn (motive := fun (t : State) => t.hw = s.hw) _ _ rfl fun t ht n _ => ?_
    split <;> exact ht

/-- Neither RUN nor QUIESCED of a fabric port, nor any state of another unit, changes what is fitted. -/
theorem hw_unitTo {u : UnitId} {st : UState} (h : st = .run ∨ st = .quiesced ∨ ∀ p, u ≠ .fport p) (s : State) :
    (unitTo s u st).hw = s.hw := by
  unfold unitTo
  split
  next p =>
    split
    · rfl
    · unfold portFollow
      obtain rfl | rfl | h := h
      · dsimp only
        split
        · exact (hw_portProbe _ p).trans (hw_setUState s _ _)
        · split <;> exact hw_setUState s _ _
      · exact hw_setUState s _ _
      · exact absurd rfl (h p)
  · exact hw_setUState s u st

/-- R30: a RETIRE that passed through QUIESCING ends with OK in RETIRED. -/
theorem becomeQuiesced_retires {u : UnitId} (hc : (unitAt s u).cmd = some .retire)
    (hr : (unitAt s u).root = pageOf u) (hcalm : calmUnits s = true) (hidle : idleBelow s u = true) :
    (unitAt (becomeQuiesced s u) u).state = .retired ∧ cmdOver (becomeQuiesced s u) u stOk := by
  have hbody := body_coreAt_unitTo s u .quiesced
  have hall : idleAll (unitTo s u .quiesced) (descendants (unitTo s u .quiesced).hw u) := by
    rw [hw_unitTo (.inr (.inl rfl))]
    refine ⟨calmAt_unitTo (calmAt_of_calmUnits hcalm) u _, fun d hd => ?_⟩
    rw [cmdBusy_of_body (hbody _), ← cmdBusy_unitAt]
    simpa using List.all_eq_true.mp hidle d hd
  have hpage : (coreAt (unitTo s u .quiesced) (pageOf u)).state = .quiesced :=
    (state_unitAt_iff (by decide) (by decide)).mp (congrArg Unit.state (core_unitAt_unitTo s u .quiesced))
  rw [becomeQuiesced_retire hc hr]
  obtain ⟨h1, -, h3, h4, -⟩ := fields_of_core (sweepGo_calm hall (by rw [hpage]; decide) .retire)
  exact ⟨h1, h3, h4⟩

/-! ### The members of a partition enter QUIESCED together -/

theorem calmAt_sweepTake (h : calmAt s) (c : UCmd) (u : UnitId) : calmAt (sweepTake c s u) :=
  fun page => (waiting_of_body (body_coreAt_sweepTake c s u page)).trans (h page)

/-- SLEEP or RETIRE of a tile, which has no descendants. -/
theorem sweepGo_tile (h : calmAt s) (c : UCmd) (n : Nat) :
    sweepGo c s (.tile n) = cmdDone (sweepTake c s (.tile n)) (.tile n) stOk := by
  unfold sweepGo
  extract_lets s1
  exact if_neg (by rw [show s1 = s from rfl, sweepWaits_calm h]; exact Bool.false_ne_true)

/-- The end of a tile's QUIESCE, or its retirement, changes no other unit where nothing waits. -/
theorem becomeQuiesced_tile_rest {n : Nat} (hcalm : calmAt s) : calmAt (becomeQuiesced s (.tile n)) ∧
    ∀ page, page ≠ pageOf (.tile n) → coreAt (becomeQuiesced s (.tile n)) page = coreAt s page := by
  have hcalm1 := calmAt_unitTo hcalm (.tile n) .quiesced
  have hne (page : Nat) (h : page ≠ pageOf (.tile n)) := coreAt_unitTo_ne h s .quiesced
  unfold becomeQuiesced
  dsimp only
  split
  · rw [show retireAll (unitTo s (.tile n) .quiesced) (.tile n) = _ from sweepGo_tile hcalm1 .retire n]
    refine ⟨calmAt_cmdDone (calmAt_sweepTake hcalm1 _ _) _ _, fun page h => ?_⟩
    rw [coreAt_cmdDone, if_neg h, coreAt_sweepTake_ne h, hne page h]
  · split
    · refine ⟨calmAt_endAction hcalm1 _ _, fun page h => ?_⟩
      rw [coreAt_endAction (waiting_calm hcalm1 _), if_neg h, hne page h]
    · exact ⟨hcalm1, hne⟩

theorem becomeQuiesced_tile_self {n : Nat} (hcalm : calmAt s) (hc : (unitAt s (.tile n)).cmd ≠ some .retire) :
    (unitAt (becomeQuiesced s (.tile n)) (.tile n)).state = .quiesced ∧
      (unitAt (becomeQuiesced s (.tile n)) (.tile n)).cmd ≠ some .retire := by
  have hx := core_unitAt_unitTo s (.tile n) .quiesced
  have hst : (unitAt (unitTo s (.tile n) .quiesced) (.tile n)).state = .quiesced := congrArg Unit.state hx
  have hcmd : (unitAt (unitTo s (.tile n) .quiesced) (.tile n)).cmd = (unitAt s (.tile n)).cmd := by
    obtain ⟨-, -, -, -, -, h, -⟩ := fields_of_core hx
    exact h
  by_cases hq : (unitAt s (.tile n)).cmd = some .quiesce
  · rw [becomeQuiesced_quiesce hq]
    obtain ⟨h1, -, -, -, -, h6, -⟩ := fields_of_core (enters_and_ends (waiting_calm hcalm (.tile n)) .quiesced stOk)
    obtain ⟨hs, -, -, hnone, -⟩ :=
      endedRecord_fields { unitAt s (.tile n) with state := .quiesced } (pageOf (.tile n)) stOk
    exact ⟨h1.trans hs, by rw [h6, hnone]; simp⟩
  · have hstay : becomeQuiesced s (.tile n) = unitTo s (.tile n) .quiesced := by
      unfold becomeQuiesced
      dsimp only
      rw [hcmd, if_neg (by simp [hc]), if_neg hq]
    rw [hstay, hcmd]
    exact ⟨hst, hc⟩

/-- R38: what `quiescePart` does at one member. -/
def quiesceTile (s : State) (n : Nat) : State :=
  if (unitAt s (.tile n)).state = .run || (unitAt s (.tile n)).state = .quiescing then becomeQuiesced s (.tile n) else s

theorem pageOf_tile_inj {n m : Nat} (h : pageOf (.tile n) = pageOf (.tile m)) : n = m := Nat.add_left_cancel h

theorem core_unitAt_tile (s : State) (n : Nat) : core (unitAt s (.tile n)) = coreAt s (pageOf (.tile n)) := core_unitAt (.inl rfl)

/-- No RETIRE is in progress on a tile of the list, and nothing waits. -/
def noRetire (s : State) (l : List Nat) : Prop := calmAt s ∧ ∀ v ∈ l, (unitAt s (.tile v)).cmd ≠ some .retire

theorem quiesceTile_spec {l : List Nat} {n : Nat} (h : noRetire s l) (hn : n ∈ l) : noRetire (quiesceTile s n) l ∧
    (∀ v, v ≠ n → (unitAt (quiesceTile s n) (.tile v)).state = (unitAt s (.tile v)).state) ∧
    ((unitAt s (.tile n)).state = .run ∨ (unitAt s (.tile n)).state = .quiescing ∨ (unitAt s (.tile n)).state = .quiesced →
      (unitAt (quiesceTile s n) (.tile n)).state = .quiesced) := by
  obtain ⟨hcalm, hc⟩ := h
  unfold quiesceTile
  split
  · obtain ⟨hcalm', hrest⟩ := becomeQuiesced_tile_rest (n := n) hcalm
    obtain ⟨hst, hcmd⟩ := becomeQuiesced_tile_self hcalm (hc n hn)
    have hne (v : Nat) (hv : v ≠ n) : core (unitAt (becomeQuiesced s (.tile n)) (.tile v)) = core (unitAt s (.tile v)) := by
      rw [core_unitAt_tile, core_unitAt_tile, hrest _ fun h => hv (pageOf_tile_inj h)]
    refine ⟨⟨hcalm', fun v hv => ?_⟩, fun v hv => (fields_of_core (hne v hv)).1, fun _ => hst⟩
    by_cases hvn : v = n
    · rwa [hvn]
    · obtain ⟨-, -, -, -, -, hsame, -⟩ := fields_of_core (hne v hvn)
      rw [hsame]
      exact hc v hv
  next hno =>
    simp only [Bool.or_eq_true, decide_eq_true_eq, not_or] at hno
    exact ⟨⟨hcalm, hc⟩, fun _ _ => rfl, fun h => (h.resolve_left hno.1).resolve_left hno.2⟩

theorem quiesceTiles_reach {l ts : List Nat} (h : noRetire s ts) (hl : ∀ v ∈ l, v ∈ ts) {v : Nat}
    (hv : (unitAt s (.tile v)).state = .quiesced ∨
      (v ∈ l ∧ ((unitAt s (.tile v)).state = .run ∨ (unitAt s (.tile v)).state = .quiescing))) :
    (unitAt (l.foldl quiesceTile s) (.tile v)).state = .quiesced := by
  induction l generalizing s with
  | nil => exact hv.resolve_right fun h => List.not_mem_nil h.1
  | cons n l ih =>
    obtain ⟨hn, hl⟩ := List.forall_mem_cons.mp hl
    obtain ⟨h', hne, hself⟩ := quiesceTile_spec h hn
    refine ih h' hl ?_
    by_cases hvn : v = n
    · subst hvn
      exact .inl (hself (by tauto))
    · rw [hne v hvn]
      exact hv.imp_right fun ⟨hm, hst⟩ => ⟨(List.mem_cons.mp hm).resolve_left hvn, hst⟩

/-- A tile of a running partition waits for the partition's barrier. -/
theorem exec_unitQuiesced_running {n : Nat} {p : Part} {r : RunRec} (hp : partOf s n = some p) (hr : p.run = some r)
    (hstop : r.stop = none) : exec (.unitQuiesced (.tile n)) s =
      if (unitAt s (.tile n)).state ≠ .quiescing || !(drained s (.tile n)) || !(descendantsQuiet s (.tile n)) then .next s
      else if p.bar.isSome && !p.preparing && !(substDue s p) && partDrained s p then .next (quiescePart s p) else .next s := by
  have hgo : p.run.all (fun r => r.stop.isSome) = false := by simp [hr, hstop]
  show execUnitQuiesced (.tile n) s = _
  unfold execUnitQuiesced
  simp only [hp, hgo, Bool.false_eq_true, if_false]

/-! ### RESETTING ends -/

/-- The state in which a unit leaves RESETTING (R34). -/
def resetEnd (s : State) (u : UnitId) : UState :=
  match u with
  | .spare _ => if (unitAt s u).root = pageOf u then .run else .off
  | _ => .run

theorem resetEnd_ne (s : State) (u : UnitId) : resetEnd s u ≠ .resetting := by
  unfold resetEnd
  split
  · split <;> decide
  · decide

theorem hw_unitTo_resetEnd (s : State) (u : UnitId) : (unitTo s u (resetEnd s u)).hw = s.hw := by
  refine hw_unitTo ?_ s
  cases u with
  | spare c => exact .inr (.inr fun _ => by simp)
  | _ => exact .inl rfl

/-- What a unit that leaves RESETTING takes with it: target incarnations and the copy of STEP. -/
def resetLoaded (s : State) (u : UnitId) : State := reloadStep (loadIncs (unitTo s u (resetEnd s u)) u) u

theorem resetLoaded_tab (s : State) (u : UnitId) : (resetLoaded s u).un.tab = (unitTo s u (resetEnd s u)).un.tab :=
  reloadStep_tab _ u

theorem hw_resetLoaded (s : State) (u : UnitId) : (resetLoaded s u).hw = s.hw := by
  refine Eq.trans ?_ (hw_unitTo_resetEnd s u)
  unfold resetLoaded reloadStep
  split
  · split <;> rfl
  · rfl

theorem finishReset_eq {u : UnitId} (hst : (unitAt s u).state = .resetting)
    (hb : ∀ d ∈ descendants s.hw u, (unitAt s d).state ≠ .resetting ∧ (unitAt s d).waiting = []) :
    finishReset s u = endAction (resetLoaded s u) u stOk := by
  unfold finishReset
  dsimp only
  rw [if_neg]
  · cases u <;> rfl
  · simp only [hst, ne_eq, not_true_eq_false, decide_false, Bool.false_or, List.any_eq_true, not_exists, not_and]
    intro d hd
    obtain ⟨hr, hw⟩ := hb d hd
    simp [hr, hw]

end
end Sys2Proof.Machine
end

section
/-! PROOF. WAKE_DONE and the drain limit of a QUIESCE (O4). -/
namespace Sys2Proof.Machine
open Sys2Proof

section
variable {s t : State}

/-- The record of a unit whose state is neither OFF nor RUN is the one on its page. -/
theorem core_unitAt_of_state {u : UnitId} (ho : (unitAt s u).state ≠ .off) (hr : (unitAt s u).state ≠ .run) :
    core (unitAt s u) = coreAt s (pageOf u) :=
  core_unitAt (.inr (by rwa [(state_unitAt_iff ho hr).mp rfl]))

/-- A unit whose record on its page has become another. -/
theorem core_unitAt_kept {u : UnitId} (h : coreAt t (pageOf u) = coreAt s (pageOf u)) (ho : (unitAt s u).state ≠ .off)
    (hr : (unitAt s u).state ≠ .run) : core (unitAt t u) = core (unitAt s u) :=
  unitAt_of_coreAt (h.trans (core_unitAt_of_state ho hr).symm) (.inr ho)

/-! ### Holds withdrawn -/

/-- The end of a hold resumes only the QUIESCED. -/
theorem coreAt_withdrawHolds_of_ne {page : Nat} (h : (coreAt s page).state ≠ .quiesced) (root : Nat) :
    coreAt (withdrawHolds s root) page = coreAt s page := by
  refine withdrawHolds_rel (P := fun t => coreAt t page = coreAt s page) (fun hc ha => (hc page).trans ha) (fun t n ht => ?_) rfl root
  rw [coreAt_resumeTile]
  split
  · rw [ht, resumed, if_pos h]
  · exact ht

/-- The record of a unit whose own command ends as it enters a state. -/
def commandEnded (x : Unit) (st : UState) (status : Nat) : Unit :=
  { x with state := st, cmdStatus := status, cmdBusy := false, cmd := none }

theorem core_commandEnded (x : Unit) (st : UState) (status : Nat) : core (commandEnded x st status) = commandEnded (core x) st status := rfl

theorem coreAt_cmdDone_unitTo (t : State) (u : UnitId) (st : UState) (status : Nat) :
    coreAt (cmdDone (unitTo t u st) u status) (pageOf u) = commandEnded (core (unitAt t u)) st status := by
  rw [coreAt_cmdDone, if_pos rfl]
  exact congrArg (fun y : Unit => ({ y with cmdStatus := status, cmdBusy := false, cmd := none } : Unit)) (core_unitAt_unitTo t u st)

/-- A commanded unit's record at the end of a command whose further effects keep to other pages. -/
theorem core_unitAt_commandEnded {u : UnitId} {s' : State} {status : Nat} (hx : core (unitAt s' u) = core (unitAt s u))
    (hkept : coreAt t (pageOf u) = coreAt (cmdDone (unitTo s' u .run) u status) (pageOf u)) :
    core (unitAt t u) = core (commandEnded (unitAt s u) .run status) := by
  refine unitAt_of_coreAt (hkept.trans ?_) (.inr (by simp [commandEnded]))
  rw [coreAt_cmdDone_unitTo, hx, core_commandEnded]

/-! ### WAKE_DONE -/

theorem resumeGo_sleeping {u : UnitId} (hst : (unitAt s u).state = .sleep) (hcalm : calmAt s) :
    core (unitAt (resumeGo s u) u) = core (commandEnded (unitAt s u) .run stOk) ∧
      busyOnly (resumeGo s u) := by
  have ho : (unitAt s u).state ≠ .off := by rw [hst]; decide
  have hr : (unitAt s u).state ≠ .run := by rw [hst]; decide
  have hq : (coreAt s (pageOf u)).state ≠ .quiesced := by
    rw [(state_unitAt_iff (by decide) (by decide)).mp hst]
    decide
  have hx := core_unitAt_kept (coreAt_withdrawHolds_of_ne hq (pageOf u)) ho hr
  have hst1 : (unitAt (withdrawHolds s (pageOf u)) u).state = .sleep := (fields_of_core hx).1.trans hst
  have hgo : resumeGo s u = (descendants s.hw u).foldl (resumeOne (pageOf u) (unitAt s u).cmdSrc)
      (cmdDone (unitTo (withdrawHolds s (pageOf u)) u .run) u stOk) := by
    unfold resumeGo
    simp [hst1]
  rw [hgo]
  obtain ⟨hpage, hbusy⟩ := List.foldlRecOn (motive := fun t =>
      coreAt t (pageOf u) = coreAt (cmdDone (unitTo (withdrawHolds s (pageOf u)) u .run) u stOk) (pageOf u) ∧ busyOnly t)
    (descendants s.hw u) (resumeOne (pageOf u) (unitAt s u).cmdSrc)
    ⟨rfl, busyOnly_of_calmAt (calmAt_cmdDone (calmAt_unitTo (calmAt_withdrawHolds hcalm _) u _) u _)⟩
    fun t ⟨hp, hb⟩ e he => ⟨(coreAt_resumeOne_ne (page_ne_of_descendant he) _ _ t).trans hp, busyOnly_resumeOne hb _ _ e⟩
  exact ⟨core_unitAt_commandEnded hx hpage, hbusy⟩

/-! ### The drain limit -/

/-- Where nothing waits there is nothing to drop. -/
theorem coreAt_dropWaiting (hcalm : calmAt s) (root page : Nat) : coreAt (dropWaiting s root) page = coreAt s page := by
  have h := hcalm page
  unfold coreAt at h ⊢
  rw [dropWaiting_tab, mapFind_mapValues]
  cases hf : mapFind s.un.tab page with
  | none => rfl
  | some x =>
    rw [hf] at h
    have hw : x.waiting = [] := h
    cases x
    cases hw
    rfl

theorem unquiesceOne_calm (hcalm : calmAt s) (root : Nat) (e : UnitId) : calmAt (unquiesceOne root s e) ∧
    ∀ page, page ≠ pageOf e → coreAt (unquiesceOne root s e) page = coreAt s page := by
  have hcalm1 : calmAt (unitTo (unitSet s e { unitAt s e with brought := none }) e .run) :=
    calmAt_unitTo (calmAt_unitSet_nil hcalm e (by exact waiting_calm hcalm e)) e .run
  have hrest (page : Nat) (h : page ≠ pageOf e) :
      coreAt (unitTo (unitSet s e { unitAt s e with brought := none }) e .run) page = coreAt s page := by
    rw [coreAt_unitTo_ne h, coreAt_unitSet_ne h]
  unfold unquiesceOne
  dsimp only
  split
  · split
    · refine ⟨calmAt_endAction hcalm1 e _, fun page h => ?_⟩
      rw [coreAt_endAction (waiting_calm hcalm1 e), if_neg h, hrest page h]
    · exact ⟨hcalm1, hrest⟩
  · exact ⟨hcalm, fun _ _ => rfl⟩

/-- R49: the unit whose QUIESCE reached its drain limit. -/
theorem exec_quiesceDrainLimit {u : UnitId} (hst : (unitAt s u).state = .quiescing) (hr : (unitAt s u).root = pageOf u)
    (hb : (unitAt s u).cmdBusy = true) (hcalm : calmAt s) : Answers (.quiesceDrainLimit u) s fun t =>
      core (unitAt t u) = core (commandEnded (unitAt s u) .run stQscTimeout) := by
  have hpage : coreAt (withdrawHolds (dropWaiting s (pageOf u)) (pageOf u)) (pageOf u) = coreAt s (pageOf u) := by
    rw [coreAt_withdrawHolds_of_ne, coreAt_dropWaiting hcalm]
    rw [coreAt_dropWaiting hcalm, (state_unitAt_iff (by decide) (by decide)).mp hst]
    decide
  have hx := core_unitAt_kept hpage (by rw [hst]; decide) (by rw [hst]; decide)
  have hcalm1 : calmAt (dropWaiting s (pageOf u)) := fun page => by rw [coreAt_dropWaiting hcalm, hcalm]
  obtain ⟨hkept, hcalm2⟩ := List.foldlRecOn (motive := fun t =>
      coreAt t (pageOf u) = coreAt (cmdDone (unitTo (withdrawHolds (dropWaiting s (pageOf u)) (pageOf u)) u .run) u stQscTimeout)
        (pageOf u) ∧ calmAt t)
    (descendants s.hw u) (unquiesceOne (pageOf u))
    ⟨rfl, calmAt_cmdDone (calmAt_unitTo (calmAt_withdrawHolds hcalm1 _) u _) u _⟩
    fun t ⟨hp, hc⟩ e he =>
      have hone := unquiesceOne_calm hc (pageOf u) e
      ⟨(hone.2 _ (page_ne_of_descendant he)).trans hp, hone.1⟩
  refine ⟨_, (if_neg (by simp [hst, hr, hb]) : execQuiesceDrainLimit u s = _), ?_⟩
  rw [settleWaiting_busyOnly (busyOnly_of_calmAt hcalm2)]
  exact core_unitAt_commandEnded hx hkept

end
end Sys2Proof.Machine
end

section
/-! PROOF. RESET_DONE: the units below the commanded one leave RESETTING from the bottom up, then the commanded one (O4). -/
namespace Sys2Proof.Machine
open Sys2Proof

section
variable {s t : State}

theorem unitLevel_le_three (u : UnitId) : unitLevel u ≤ 3 := by cases u <;> simp [unitLevel]

/-- Each unit of the list stands before everything below it. -/
def topDown (hw : Hw) : List UnitId → Prop
  | [] => True
  | e :: l => (∀ d ∈ descendants hw e, d ∈ l) ∧ topDown hw l

theorem topDown_append {hw : Hw} {l l' : List UnitId} (h : ∀ e ∈ l, ∀ d ∈ descendants hw e, d ∈ l') (h' : topDown hw l') :
    topDown hw (l ++ l') := by
  induction l with
  | nil => exact h'
  | cons e l ih =>
    obtain ⟨he, hl⟩ := List.forall_mem_cons.mp h
    exact ⟨fun d hd => List.mem_append_right l (he d hd), ih hl⟩

theorem topDown_descendants (hw : Hw) (u : UnitId) : topDown hw (descendants hw u) := by
  have hdeep {c e f : UnitId} (hc : c ∈ children hw u) (he : e ∈ children hw c) (hf : f ∈ children hw e) {d : UnitId}
      (hd : unitLevel f < unitLevel d) : False := by
    have := level_of_children hc
    have := level_of_children he
    have := level_of_children hf
    have := unitLevel_le_three d
    omega
  have hbottom : topDown hw (((children hw u).flatMap (children hw)).flatMap (children hw)) := by
    rw [← List.append_nil (List.flatMap _ _)]
    refine topDown_append (fun f hf d hd => ?_) trivial
    obtain ⟨e, he, hf⟩ := List.mem_flatMap.mp hf
    obtain ⟨c, hc, he⟩ := List.mem_flatMap.mp he
    exact (hdeep hc he hf (level_of_descendants hd)).elim
  unfold descendants
  rw [List.append_assoc]
  refine topDown_append (fun c hc d hd => ?_) (topDown_append (fun e he d hd => ?_) hbottom)
  · rw [List.mem_append]
    obtain h | ⟨e, he, h⟩ | ⟨e, he, f, hf, h⟩ := mem_descendants.mp hd
    · exact .inl (List.mem_flatMap.mpr ⟨c, hc, h⟩)
    · exact .inr (List.mem_flatMap.mpr ⟨e, List.mem_flatMap.mpr ⟨c, hc, he⟩, h⟩)
    · exact (hdeep hc he hf (level_of_children h)).elim
  · obtain ⟨c, hc, he⟩ := List.mem_flatMap.mp he
    obtain h | ⟨f, hf, h⟩ | ⟨f, hf, g, hg, h⟩ := mem_descendants.mp hd
    · exact List.mem_flatMap.mpr ⟨e, List.mem_flatMap.mpr ⟨c, hc, he⟩, h⟩
    · exact (hdeep hc he hf (level_of_children h)).elim
    · exact (hdeep hc he hf ((level_of_children hg).trans (level_of_children h))).elim

/-- Nothing waits, and no unit of the list is in RESETTING. -/
def outOfReset (s : State) (l : List UnitId) : Prop := calmAt s ∧ ∀ e ∈ l, (unitAt s e).state ≠ .resetting

theorem calmAt_resetLoaded (h : calmAt s) (u : UnitId) : calmAt (resetLoaded s u) := fun page =>
  (congrArg Unit.waiting (coreAt_congr (resetLoaded_tab s u) page)).trans (calmAt_unitTo h u _ page)

theorem core_unitAt_resetLoaded (s : State) (u : UnitId) :
    core (unitAt (resetLoaded s u) u) = core { unitAt s u with state := resetEnd s u } := by
  have h : unitAt (resetLoaded s u) u = unitAt (unitTo s u (resetEnd s u)) u := by rw [unitAt, resetLoaded_tab, unitAt]
  rw [h, core_unitAt_unitTo]

/-- One unit that leaves RESETTING, everything below it out of RESETTING. -/
theorem core_unitAt_finishReset {u : UnitId} (hst : (unitAt s u).state = .resetting)
    (hb : ∀ d ∈ descendants s.hw u, (unitAt s d).state ≠ .resetting ∧ (unitAt s d).waiting = []) (hw : (unitAt s u).waiting = []) :
    core (unitAt (finishReset s u) u) = core (endedRecord { unitAt s u with state := resetEnd s u } (pageOf u) stOk) := by
  have hx := core_unitAt_resetLoaded s u
  obtain ⟨-, -, -, -, -, -, hwait⟩ := fields_of_core hx
  rw [finishReset_eq hst hb, core_unitAt_endAction (hwait.trans hw), core_endedRecord, hx, ← core_endedRecord]

/-- One unit's turn: it is out of RESETTING, and no other unit's record changes. -/
theorem finishReset_turn {l : List UnitId} {e : UnitId} (h : outOfReset s l) (hl : ∀ d ∈ descendants s.hw e, d ∈ l) :
    outOfReset (finishReset s e) (e :: l) ∧ (finishReset s e).hw = s.hw ∧
      ∀ page, page ≠ pageOf e → coreAt (finishReset s e) page = coreAt s page := by
  obtain ⟨hcalm, hout⟩ := h
  by_cases hst : (unitAt s e).state = .resetting
  · have hb : ∀ d ∈ descendants s.hw e, (unitAt s d).state ≠ .resetting ∧ (unitAt s d).waiting = [] :=
      fun d hd => ⟨hout d (hl d hd), waiting_calm hcalm d⟩
    have hcalm' := calmAt_resetLoaded hcalm e
    have hself : (coreAt (finishReset s e) (pageOf e)).state ≠ .resetting := by
      obtain ⟨h1, -⟩ := fields_of_core (core_unitAt_finishReset hst hb (waiting_calm hcalm e))
      obtain ⟨h2, -⟩ := endedRecord_fields { unitAt s e with state := resetEnd s e } (pageOf e) stOk
      refine mt (state_unitAt_iff (by decide) (by decide)).mpr ?_
      rw [h1, h2]
      exact resetEnd_ne s e
    have hrest (page : Nat) (hp : page ≠ pageOf e) : coreAt (finishReset s e) page = coreAt s page := by
      rw [finishReset_eq hst hb, coreAt_endAction (waiting_calm hcalm' e), if_neg hp, coreAt_congr (resetLoaded_tab s e),
        coreAt_unitTo_ne hp]
    refine ⟨⟨?_, fun d hd => ?_⟩, ?_, hrest⟩
    · rw [finishReset_eq hst hb]
      exact calmAt_endAction hcalm' e stOk
    · refine mt (state_unitAt_iff (by decide) (by decide)).mp ?_
      by_cases hp : pageOf d = pageOf e
      · rwa [hp]
      · have hde : d ∈ l := (List.mem_cons.mp hd).resolve_left fun h => hp (by rw [h])
        rw [hrest _ hp]
        exact mt (state_unitAt_iff (by decide) (by decide)).mpr (hout d hde)
    · rw [finishReset_eq hst hb, hw_endAction (waiting_calm hcalm' e), hw_resetLoaded]
  · have hstay : finishReset s e = s := if_pos (by simp [hst])
    rw [hstay]
    exact ⟨⟨hcalm, List.forall_mem_cons.mpr ⟨hst, hout⟩⟩, rfl, fun _ _ => rfl⟩

/-- The units of a list leave RESETTING from the bottom up. -/
theorem finishResets {l : List UnitId} (hcalm : calmAt s) (hl : topDown s.hw l) :
    outOfReset (l.reverse.foldl finishReset s) l ∧ (l.reverse.foldl finishReset s).hw = s.hw ∧
      ∀ page, (∀ e ∈ l, page ≠ pageOf e) → coreAt (l.reverse.foldl finishReset s) page = coreAt s page := by
  induction l with
  | nil => exact ⟨⟨hcalm, fun _ h => absurd h List.not_mem_nil⟩, rfl, fun _ _ => rfl⟩
  | cons e l ih =>
    obtain ⟨he, hl⟩ := hl
    obtain ⟨hout, hhw, hrest⟩ := ih hl
    rw [List.reverse_cons, List.foldl_append, List.foldl_cons, List.foldl_nil]
    obtain ⟨hout', hhw', hrest'⟩ := finishReset_turn hout (e := e) (by rwa [hhw])
    refine ⟨hout', hhw'.trans hhw, fun page hp => ?_⟩
    obtain ⟨hpe, hpl⟩ := List.forall_mem_cons.mp hp
    exact (hrest' page hpe).trans (hrest page hpl)

/-- R34: the commanded unit leaves RESETTING for RUN and its RESET ends with OK. -/
theorem exec_resetDone_commanded {u : UnitId} (hst : (unitAt s u).state = .resetting) (hr : (unitAt s u).root = pageOf u)
    (hb : (unitAt s u).cmdBusy = true) (hcalm : calmAt s) : Answers (.resetDone u) s fun t =>
      (unitAt t u).state = .run ∧ cmdOver t u stOk ∧ (unitAt t u).inc = (unitAt s u).inc := by
  obtain ⟨⟨hcalm', hout⟩, hhw, hrest⟩ := finishResets hcalm (topDown_descendants s.hw u)
  refine ⟨_, (if_neg (by simp [hst]) : execResetDone u s = _), ?_⟩
  generalize (descendants s.hw u).reverse.foldl finishReset s = t at *
  have hx : core (unitAt t u) = core (unitAt s u) :=
    core_unitAt_kept (hrest _ fun e he => page_ne_of_descendant he) (by rw [hst]; decide) (by rw [hst]; decide)
  obtain ⟨hst', hinc, hbusy, -⟩ := fields_of_core hx
  have hroot : (unitAt t u).root = pageOf u := (congrArg Unit.root hx).trans hr
  have hrun : resetEnd t u = .run := by
    unfold resetEnd
    split
    · exact if_pos hroot
    · rfl
  obtain ⟨h1, h2, h3, h4, -⟩ := fields_of_core (core_unitAt_finishReset (hst'.trans hst)
    (fun d hd => ⟨hout d (by rwa [← hhw]), waiting_calm hcalm' d⟩) (waiting_calm hcalm' u))
  obtain ⟨k1, k2, k3, -⟩ := endedRecord_fields { unitAt t u with state := resetEnd t u } (pageOf u) stOk
  have k4 := endedRecord_status (x := { unitAt t u with state := resetEnd t u }) (hbusy.trans hb) hroot stOk
  exact ⟨h1.trans (k1.trans hrun), ⟨h3.trans k3, h4.trans k4⟩, h2.trans (k2.trans hinc)⟩

/-- R34: a spare that an ancestor's reset took along ends in OFF. -/
theorem exec_resetDone_spare {c : Nat} (hst : (unitAt s (.spare c)).state = .resetting)
    (hr : (unitAt s (.spare c)).root ≠ pageOf (.spare c)) (hw : (unitAt s (.spare c)).waiting = []) :
    Answers (.resetDone (.spare c)) s fun t => (unitAt t (.spare c)).state = .off ∧ (unitAt t (.spare c)).cmdBusy = false := by
  refine ⟨finishReset s (.spare c), (if_neg (by simp [hst]) : execResetDone (.spare c) s = _), ?_⟩
  have hnone : ∀ d ∈ descendants s.hw (.spare c), (unitAt s d).state ≠ .resetting ∧ (unitAt s d).waiting = [] :=
    fun _ hd => absurd hd List.not_mem_nil
  obtain ⟨h1, -, h3, -⟩ := fields_of_core (core_unitAt_finishReset hst hnone hw)
  obtain ⟨k1, -, k3, -⟩ :=
    endedRecord_fields { unitAt s (.spare c) with state := resetEnd s (.spare c) } (pageOf (.spare c)) stOk
  exact ⟨h1.trans (k1.trans (if_neg hr)), h3.trans k3⟩

end
end Sys2Proof.Machine
end

section
/-! PROOF. FATAL_INTERNAL_ERROR: the partitions it stops, the unit's own reset, and the resets below it (O4). -/
namespace Sys2Proof.Machine
open Sys2Proof

section
variable {s t : State}

/-! ### Units with a tile below them -/

theorem parent_of_tile {hw : Hw} {n : Nat} {c : UnitId} (h : .tile n ∈ children hw c) : ∃ k, c = .cluster k := by
  have hm : .tile n ∈ childrenAll c := List.mem_of_mem_filter h
  cases c <;> simp [childrenAll] at hm ⊢

theorem parent_of_cluster {hw : Hw} {k : Nat} {c : UnitId} (h : .cluster k ∈ children hw c) : ∃ d, c = .cdie d := by
  have hm : .cluster k ∈ childrenAll c := List.mem_of_mem_filter h
  cases c <;> simp [childrenAll] at hm ⊢

theorem parent_of_cdie {hw : Hw} {d : Nat} {c : UnitId} (h : .cdie d ∈ children hw c) : c = .package := by
  have hm : .cdie d ∈ childrenAll c := List.mem_of_mem_filter h
  cases c <;> simp [childrenAll] at hm ⊢

/-- A fitted unit with a tile below it has its page before the tiles'. -/
theorem page_lt_of_tile_below {hw : Hw} {u : UnitId} {n : Nat} (hu : present hw u = true) (h : .tile n ∈ descendants hw u) :
    pageOf u < 0x200 := by
  obtain h | ⟨c, hc, h⟩ | ⟨c, hc, e, he, h⟩ := mem_descendants.mp h
  · obtain ⟨k, rfl⟩ := parent_of_tile h
    simp only [present, decide_eq_true_eq, pageOf] at hu ⊢
    omega
  · obtain ⟨k, rfl⟩ := parent_of_tile h
    obtain ⟨d, rfl⟩ := parent_of_cluster hc
    simp only [present, decide_eq_true_eq, pageOf] at hu ⊢
    omega
  · obtain ⟨k, rfl⟩ := parent_of_tile h
    obtain ⟨d, rfl⟩ := parent_of_cluster he
    rw [parent_of_cdie hc]
    decide

/-- A tile that a reset does not reach, of a partition that it does reach, has a page of its own. -/
theorem page_ne_of_tile_apart {hw : Hw} {u : UnitId} {n m : Nat} (hu : present hw u = true) (hn : .tile n ∈ u :: descendants hw u)
    (hm : .tile m ∉ u :: descendants hw u) : pageOf u ≠ pageOf (.tile m) := by
  obtain rfl | hn := List.mem_cons.mp hn
  · exact fun hp => hm (by rw [← pageOf_tile_inj hp]; exact List.mem_cons_self)
  · have := page_lt_of_tile_below hu hn
    simp only [pageOf] at this ⊢
    omega

/-! ### The partitions that stop -/

/-- What of a unit's record the stop of a partition leaves. -/
def struck (x : Unit) : Half × Nat × Bool × Bool := (x.inc, x.cmdSrc, x.cmdBusy, decide (x.state = .retired))

theorem struck_unitAt (s : State) (u : UnitId) : struck (unitAt s u) = struck (coreAt s (pageOf u)) := by
  unfold coreAt unitAt
  cases mapFind s.un.tab (pageOf u) with
  | none => cases u <;> simp only [unitInit, Option.getD_none] <;> (repeat' split) <;> rfl
  | some x => rfl

/-- Nothing waits, and that stands on a page as it did. -/
def unstruck (s t : State) (page : Nat) : Prop := calmAt t ∧ struck (coreAt t page) = struck (coreAt s page)

theorem unstruck_running {page : Nat} (h : unstruck s t page) (v : UnitId) (b : Bool) :
    unstruck s (unitSet t v { unitAt t v with running := b }) page := by
  obtain ⟨hcalm, hs⟩ := h
  refine ⟨calmAt_unitSet hcalm v rfl, ?_⟩
  rw [coreAt_unitSet]
  split
  next hp =>
    rw [← hs, hp, ← struck_unitAt]
    rfl
  next => exact hs

theorem unstruck_fatalPart {u : UnitId} {hw : Hw} (hu : present hw u = true) (h : unstruck s t (pageOf u)) (p : Part) :
    unstruck s (fatalPart t (u :: descendants hw u) p) (pageOf u) := by
  unfold fatalPart
  split
  · exact h
  next hgo =>
    simp only [Bool.or_eq_true, Bool.not_eq_true', not_or, Bool.not_eq_false, List.any_eq_true, List.contains_iff_mem] at hgo
    obtain ⟨-, n, -, hn⟩ := hgo
    extract_lets s1
    have h1 : unstruck s s1 (pageOf u) := by
      refine List.foldlRecOn (motive := fun t => unstruck s t (pageOf u)) _ _ ?_ fun t ht v _ => unstruck_running ht v false
      have hk := coreAt_of_standing (s := t) (stopPart_standing (p := p) (status := stReset)
        (cause := if (u :: descendants hw u).contains (partRoot p) then 1 else 2))
      exact ⟨fun page => by rw [hk, h.1], by rw [hk, h.2]⟩
    refine List.foldlRecOn (motive := fun t => unstruck s t (pageOf u)) _ _ h1 fun t ⟨hcalm, hs⟩ m _ => ?_
    dsimp only
    split
    · exact ⟨hcalm, hs⟩
    next hm =>
      simp only [Bool.or_eq_true, List.contains_iff_mem, not_or] at hm
      have hne := page_ne_of_tile_apart hu hn hm.1
      split
      · obtain ⟨hcalm', hrest⟩ := becomeQuiesced_tile_rest (n := m) hcalm
        exact ⟨hcalm', by rw [hrest _ hne, hs]⟩
      · exact ⟨calmAt_unitTo hcalm _ _, by rw [coreAt_unitTo_ne hne, hs]⟩

/-! ### A unit resets itself -/

theorem resetBlock_lasts (s : State) (u : UnitId) : lasts (standing true (resetBlock s u)) = lasts (standing true s) := by
  by_cases hp : u = .package
  · subst hp
    exact lasts_ext fun page => congrArg lasting (coreAt_congr rfl page)
  · by_cases hh : ∃ k, u = .hport k
    · obtain ⟨k, rfl⟩ := hh
      exact portReset_lasts
    · rw [resetBlock_standing hp fun k hk => hh ⟨k, hk⟩]

/-- What the reset of a unit's block leaves of every record. -/
theorem lasting_resetBlock (s : State) (u : UnitId) (page : Nat) :
    lasting (coreAt (resetBlock (resetPrepared s u) u) page) = lasting (coreAt s page) := by
  have h : lasts (standing true (resetBlock (resetPrepared s u) u)) = lasts (standing true s) := by
    rw [resetBlock_lasts, resetPrepared_standing]
  exact Option.some.inj (congrFun h page)

theorem lasting_enterReset_ne {e : UnitId} {page : Nat} (h : page ≠ pageOf e) (s : State) :
    lasting (coreAt (enterReset s e) page) = lasting (coreAt s page) := by
  rw [coreAt_enterReset_block, if_neg h, lasting_resetBlock]

/-- R41, R43: a unit that enters RESETTING advances its incarnation and keeps the source of its last command. -/
theorem unitAt_enterReset (s : State) (u : UnitId) : (unitAt (enterReset s u) u).state = .resetting ∧
    (unitAt (enterReset s u) u).inc = (unitAt s u).inc + 1 ∧ (unitAt (enterReset s u) u).cmdSrc = (unitAt s u).cmdSrc := by
  have hblock : lasting (unitAt (resetBlock (resetPrepared s u) u) u) = lasting (unitAt s u) := by
    rw [lasting_unitAt, lasting_resetBlock, ← lasting_unitAt]
  have hinc := congrArg (·.1) hblock
  have hsrc := congrArg (·.2.1) hblock
  have hx := (coreAt_enterReset_block s u (pageOf u)).trans (if_pos rfl)
  obtain ⟨h1, h2, -, -, h5, -⟩ := fields_of_core (unitAt_of_coreAt hx (.inr (by simp)))
  exact ⟨h1, h2.trans (congrArg (· + 1) hinc), h5.trans hsrc⟩

theorem lasting_dropWaiting (s : State) (root page : Nat) : lasting (coreAt (dropWaiting s root) page) = lasting (coreAt s page) := by
  unfold coreAt
  rw [dropWaiting_tab, mapFind_mapValues]
  cases mapFind s.un.tab page <;> rfl

/-- The reset of another unit leaves that of a record. -/
theorem lasting_fatalOne_ne {e : UnitId} {page : Nat} (h : page ≠ pageOf e) (top : Nat) (s : State) :
    lasting (coreAt (fatalOne top s e) page) = lasting (coreAt s page) := by
  have hset : lasting (coreAt (unitSet (enterReset s e) e { unitAt (enterReset s e) e with root := top }) page) =
      lasting (coreAt s page) := by
    rw [coreAt_unitSet_ne h, lasting_enterReset_ne h]
  unfold fatalOne fatalOneAt
  dsimp only
  split
  · rfl
  · split
    · rw [coreAt_cmdDone, if_neg h]
      split
      · rw [lasting_dropWaiting, hset]
      · exact hset
    · exact hset

/-- What R43 makes of the record of the unit that failed. -/
def fatalEnd (x y : Unit) : Prop :=
  y.state = .resetting ∧ y.inc = x.inc + 1 ∧ y.cmdSrc = x.cmdSrc ∧ (x.cmdBusy = true → y.cmdBusy = false ∧ y.cmdStatus = stReset)

theorem fatalEnd_of_lasting {x y z : Unit} (h : fatalEnd x y) (hz : lasting z = lasting y) : fatalEnd x z := by
  obtain ⟨hst, hinc, hsrc, hdone⟩ := h
  simp only [lasting, Prod.mk.injEq, hst, if_true] at hz
  obtain ⟨hzinc, hzsrc, hz⟩ := hz
  split at hz
  next hzst =>
    obtain ⟨-, -, hbusy, hstatus, -⟩ := fields_of_core (x := { z with waiting := [] }) (y := { y with waiting := [] }) (Option.some.inj hz)
    exact ⟨hzst, hzinc.trans hinc, hzsrc.trans hsrc, fun hb => (hdone hb).imp hbusy.trans hstatus.trans⟩
  next => cases hz

theorem fatalEnd_of_struck {x x' y : Unit} (h : fatalEnd x y) (hx : struck x = struck x') : fatalEnd x' y := by
  simp only [struck, Prod.mk.injEq] at hx
  obtain ⟨hinc, hsrc, hbusy, -⟩ := hx
  rwa [fatalEnd, ← hinc, ← hsrc, ← hbusy]

theorem unitAt_dropWaiting (s : State) (root : Nat) (u : UnitId) :
    (unitAt (dropWaiting s root) u).state = (unitAt s u).state ∧ (unitAt (dropWaiting s root) u).inc = (unitAt s u).inc ∧
      (unitAt (dropWaiting s root) u).cmdSrc = (unitAt s u).cmdSrc := by
  unfold unitAt
  rw [dropWaiting_tab, mapFind_mapValues]
  cases mapFind s.un.tab (pageOf u) <;> exact ⟨rfl, rfl, rfl⟩

theorem fatalEnd_fatalOneAt (top : Nat) (s : State) (u : UnitId) : fatalEnd (unitAt s u) (unitAt (fatalOneAt top s u) u) := by
  obtain ⟨hst, hinc, hsrc⟩ := unitAt_enterReset s u
  unfold fatalOneAt
  extract_lets x s0 r s1
  have hself : unitAt s1 u = { unitAt s0 u with root := top } := unitAt_unitSet_self s0 u _
  split
  · obtain ⟨k1, k2, k3⟩ := unitAt_dropWaiting s1 (pageOf u) u
    rw [hself] at k1 k2 k3
    rw [unitAt_cmdDone_self]
    split
    · exact ⟨k1.trans hst, k2.trans hinc, k3.trans hsrc, fun _ => ⟨rfl, rfl⟩⟩
    · rw [hself]
      exact ⟨hst, hinc, hsrc, fun _ => ⟨rfl, rfl⟩⟩
  next hb =>
    rw [hself]
    exact ⟨hst, hinc, hsrc, fun h => absurd h hb⟩

/-- R43: a fatal internal error resets the unit; the resets below it leave that of its record. -/
theorem exec_fatalInternalError {u : UnitId} (hu : present s.hw u = true) (hs : isService u = false) (ho : (unitAt s u).state ≠ .off)
    (hr : (unitAt s u).state ≠ .retired) (hcalm : calmAt s) :
    Answers (.fatalInternalError u) s fun t => fatalEnd (unitAt s u) (unitAt t u) := by
  refine ⟨_, (if_neg (by simp [hu, hs, ho, hr]) : execFatalInternalError u s = _), ?_⟩
  have h0 : unstruck s (txnsOfHit s (resetPages s u)) (pageOf u) := by
    have hk := coreAt_of_standing (s := s) (txnsOfHit_standing (pages := resetPages s u))
    exact ⟨fun page => by rw [hk, hcalm], by rw [hk]⟩
  have h1 := List.foldlRecOn (motive := fun t => unstruck s t (pageOf u)) (txnsOfHit s (resetPages s u)).tl.parts
    (fun t e => match partOf t e.2.t0 with
      | some p => fatalPart t (u :: descendants s.hw u) p
      | none => t) h0
    fun t ht e _ => by
      split
      · exact unstruck_fatalPart hu ht _
      · exact ht
  obtain ⟨-, hstruck⟩ := h1
  rw [← struck_unitAt s, ← struck_unitAt] at hstruck
  rw [List.foldl_cons]
  generalize List.foldl _ _ _ = s1 at hstruck ⊢
  have hself : fatalEnd (unitAt s u) (unitAt (fatalOne (pageOf u) s1 u) u) := by
    have hlive : (unitAt s1 u).state ≠ .retired := by simpa [struck, hr] using congrArg (·.2.2.2) hstruck
    rw [fatalOne, if_neg hlive]
    exact fatalEnd_of_struck (fatalEnd_fatalOneAt _ s1 u) hstruck
  refine fatalEnd_of_lasting hself ?_
  rw [lasting_unitAt, lasting_unitAt]
  exact List.foldlRecOn (motive := fun (t : State) => lasting (coreAt t (pageOf u)) = lasting (coreAt (fatalOne (pageOf u) s1 u) (pageOf u)))
    _ _ rfl fun t ht e he => (lasting_fatalOne_ne (page_ne_of_descendant he) _ t).trans ht

end
end Sys2Proof.Machine
end

section
/-! PROOF. The clauses of O4. -/
namespace Sys2Proof.Machine
open Sys2Proof

section
variable {s : State}

theorem answers_quiesced {u : UnitId} (hst : (unitAt s u).state = .quiescing) (hd : drained s u = true)
    (hq : descendantsQuiet s u = true) (hn : notInRun s u = true) (hc : (unitAt s u).cmd = some .quiesce)
    (hw : (unitAt s u).waiting = []) : Answers (.unitQuiesced u) s fun t =>
      (unitAt t u).state = .quiesced ∧ (unitAt t u).cmdBusy = false ∧ (unitAt t u).inc = (unitAt s u).inc ∧
        ((unitAt s u).cmdBusy = true → (unitAt s u).root = pageOf u → (unitAt t u).cmdStatus = stOk) := by
  refine ⟨_, exec_unitQuiesced_alone hst hd hq hn, ?_⟩
  rw [becomeQuiesced_quiesce hc]
  obtain ⟨h1, h2, h3, h4, -⟩ := fields_of_core (enters_and_ends hw .quiesced stOk)
  obtain ⟨k1, k2, k3, -⟩ := endedRecord_fields { unitAt s u with state := .quiesced } (pageOf u) stOk
  exact ⟨h1.trans k1, h3.trans k3, h2.trans k2, fun hb hr =>
    h4.trans (endedRecord_status (x := { unitAt s u with state := .quiesced }) hb hr stOk)⟩

/-- With its partition running, a tile waits for a barrier. -/
theorem ignores_quiesced_unheld {n : Nat} {p : Part} {r : RunRec} (hp : partOf s n = some p) (hr : p.run = some r)
    (hstop : r.stop = none) (hbar : p.bar = none) : Ignores (.unitQuiesced (.tile n)) s := by
  rw [Ignores, exec_unitQuiesced_running hp hr hstop, hbar]
  exact ite_self _

theorem answers_members_quiesced {n : Nat} {p : Part} {r : RunRec} (hst : (unitAt s (.tile n)).state = .quiescing)
    (hd : drained s (.tile n) = true) (hp : partOf s n = some p) (hr : p.run = some r) (hstop : r.stop = none)
    (hbar : p.bar.isSome = true) (hprep : p.preparing = false) (hsub : substDue s p = false) (hpd : partDrained s p = true)
    (hcalm : calmUnits s = true) (hno : ∀ v ∈ partTiles p, (unitAt s (.tile v)).cmd ≠ some .retire) :
    Answers (.unitQuiesced (.tile n)) s fun t =>
      ∀ v ∈ partTiles p, ((unitAt s (.tile v)).state = .run ∨ (unitAt s (.tile v)).state = .quiescing) →
        (unitAt t (.tile v)).state = .quiesced := by
  have hnone : descendantsQuiet s (.tile n) = true := rfl
  refine ⟨quiescePart s p, ?_, fun v hv hrun =>
    quiesceTiles_reach (l := partTiles p) ⟨calmAt_of_calmUnits hcalm, hno⟩ (fun _ h => h) (.inr ⟨hv, hrun⟩)⟩
  rw [exec_unitQuiesced_running hp hr hstop, if_neg (by simp [hst, hd, hnone]), if_pos (by simp [hbar, hprep, hsub, hpd])]

theorem answers_wake_commanded {u : UnitId} (hst : (unitAt s u).state = .sleep) (hc : (unitAt s u).cmd = some .resume)
    (hr : (unitAt s u).root = pageOf u) (hpw : parentWakes s u = false) (hcalm : calmUnits s = true) :
    Answers (.wakeDone u) s fun t => (unitAt t u).state = .run ∧ cmdOver t u stOk := by
  obtain ⟨hx, hbusy⟩ := resumeGo_sleeping hst (calmAt_of_calmUnits hcalm)
  have hexec : execWakeDone u s = .next (settleWaiting (resumeGo s u)) :=
    (if_neg (by simp [hst, hc, hpw])).trans (if_pos hr)
  refine ⟨_, hexec, ?_⟩
  rw [settleWaiting_busyOnly hbusy]
  obtain ⟨h1, -, h3, h4, -⟩ := fields_of_core hx
  exact ⟨h1, h3, h4⟩

theorem answers_wake_below {u : UnitId} (hst : (unitAt s u).state = .sleep) (hc : (unitAt s u).cmd = some .resume)
    (hr : (unitAt s u).root ≠ pageOf u) (hpw : parentWakes s u = false) (hw : (unitAt s u).waiting = []) :
    Answers (.wakeDone u) s fun t => (unitAt t u).state = .run ∧ (unitAt t u).cmdBusy = false := by
  have hexec : execWakeDone u s = .next (endAction (unitTo s u .run) u stOk) :=
    (if_neg (by simp [hst, hc, hpw])).trans (if_neg hr)
  obtain ⟨h1, -, h3, -⟩ := fields_of_core (enters_and_ends hw .run stOk)
  obtain ⟨k1, -, k3, -⟩ := endedRecord_fields { unitAt s u with state := .run } (pageOf u) stOk
  exact ⟨_, hexec, h1.trans k1, h3.trans k3⟩

theorem ignores_wake_under_parent {u : UnitId} (hpw : parentWakes s u = true) : Ignores (.wakeDone u) s :=
  (if_pos (by simp [hpw]) : execWakeDone u s = _)

end

/-- Settles O4, clause by clause: the record of the unit at hand is followed through the end of its action (`core_unitAt_endAction`), the
resets below it from the bottom up (`finishResets`), the holds withdrawn (`coreAt_withdrawHolds_of_ne`) and the reset of its block
(`lasting_resetBlock`). -/
theorem unitReports : Obligations.UnitReports := by
  refine ⟨fun u s hst hd hq hn hc hw => answers_quiesced hst hd hq hn hc hw, fun u s hst hd hq hn hc hr hcalm hidle => ?_,
    fun n s p r hp hr hstop hbar => ignores_quiesced_unheld hp hr hstop hbar,
    fun n s p r hst hd _ hp hr hstop hbar hprep hsub hpd hcalm hno =>
      answers_members_quiesced hst hd hp hr hstop hbar hprep hsub hpd hcalm hno,
    fun u s hst hr hb hcalm => exec_resetDone_commanded hst hr hb (calmAt_of_calmUnits hcalm),
    fun c s hst hr hw => exec_resetDone_spare hst hr hw,
    fun u s hst hc hr hpw hcalm => answers_wake_commanded hst hc hr hpw hcalm,
    fun u s hst hc hr hpw hw => answers_wake_below hst hc hr hpw hw, fun u s _ hpw => ignores_wake_under_parent hpw,
    fun u s hu hs ho hr hcalm => ?_, fun u s hst hr hb hcalm => ?_⟩
  · exact ⟨_, exec_unitQuiesced_alone hst hd hq hn, becomeQuiesced_retires hc hr hcalm hidle⟩
  · obtain ⟨t, hexec, h1, h2, h3, h4⟩ := exec_fatalInternalError hu hs ho hr (calmAt_of_calmUnits hcalm)
    exact ⟨t, hexec, ⟨h1, h2⟩, h3, h4⟩
  · obtain ⟨t, hexec, hx⟩ := exec_quiesceDrainLimit hst hr hb (calmAt_of_calmUnits hcalm)
    obtain ⟨h1, h2, h3, h4, -⟩ := fields_of_core hx
    exact ⟨t, hexec, h1, ⟨h3, h4⟩, h2⟩

end Sys2Proof.Machine
end

section
/-! PROOF. What a tile's engines report, said of the tile itself (O17): of the tile only its check registers, and of its partition only the error
latch and the running command, may differ. -/
namespace Sys2Proof.Machine
open Sys2Proof

section
variable {s t u : State} {n : Nat}

/-- The physical slots do not move with tiles, partition records and events. -/
theorem TileFrame.tileKey_eq (h : TileFrame s t) (m : Nat) : tileKey t m = tileKey s m := by
  obtain ⟨_, _, _, _, _, rfl⟩ := h
  rfl

theorem TileFrame.lqueue_eq (h : TileFrame s t) : t.tl.lqueue = s.tl.lqueue := by
  obtain ⟨_, _, _, _, _, rfl⟩ := h
  rfl

/-- Of the tiles only the one on the physical slot of n may differ, and besides only partition records and what events change. -/
structure OnlyTile (n : Nat) (s t : State) : Prop where
  frame : TileFrame s t
  others : ∀ m, tileKey s m ≠ tileKey s n → tileAt t m = tileAt s m

theorem OnlyTile.refl (n : Nat) (s : State) : OnlyTile n s s := ⟨.refl s, fun _ _ => rfl⟩

theorem OnlyTile.trans (h : OnlyTile n s t) (k : OnlyTile n t u) : OnlyTile n s u :=
  ⟨h.frame.trans k.frame, fun m hm =>
    (k.others m (by rwa [h.frame.tileKey_eq, h.frame.tileKey_eq])).trans (h.others m hm)⟩

theorem OnlyTile.othersKept (h : OnlyTile n s t) : othersKept s t n :=
  ⟨h.others, by obtain ⟨_, _, _, _, _, rfl⟩ := h.frame; rfl⟩

theorem tileSet_onlyTile (s : State) (n : Nat) (x : Tile) : OnlyTile n s (tileSet s n x) :=
  ⟨tileSet_frame s n x, fun _ hm => tileAt_tileSet_ne s x hm⟩

/-- The tile becomes y but for its check registers. -/
def Leaves (n : Nat) (s t : State) (y : Tile) : Prop := OnlyTile n s t ∧ tileAt t n = { y with num := (tileAt t n).num }

theorem Leaves.plate {y : Tile} (h : Leaves n s t y) : (tileAt t n).plate = y.plate := by rw [h.2]

theorem Leaves.regs {y : Tile} (h : Leaves n s t y) : (tileAt t n).regs = y.regs := by rw [h.2]

theorem Leaves.scratch {y : Tile} (h : Leaves n s t y) : (tileAt t n).scratch = y.scratch := by rw [h.2]

theorem tileSet_leaves (s : State) (n : Nat) (x : Tile) : Leaves n s (tileSet s n x) x :=
  ⟨tileSet_onlyTile s n x, by rw [tileAt_tileSet_self]⟩

/-- A report of the tile's engines: check registers of the tile, and its partition's error latch and running command. -/
structure Reports (n : Nat) (s t : State) : Prop where
  leaves : Leaves n s t (tileAt s n)
  parts : partsWf s = true → partsWf t = true ∧
    ∀ p, partOf s n = some p → ∃ err run, partOf t n = some { p with err := err, run := run }

theorem Reports.refl (n : Nat) (s : State) : Reports n s s := ⟨⟨.refl n s, rfl⟩, fun w => ⟨w, fun _ hp => ⟨_, _, hp⟩⟩⟩

theorem Leaves.reports {y : Tile} (h : Leaves n s t y) (k : Reports n t u) : Leaves n s u y :=
  ⟨h.1.trans k.leaves.1, by rw [k.leaves.2, h.2]⟩

theorem Reports.trans (h : Reports n s t) (k : Reports n t u) : Reports n s u :=
  ⟨h.leaves.reports k, fun w => by
    obtain ⟨wt, ht⟩ := h.parts w
    obtain ⟨wu, hu⟩ := k.parts wt
    refine ⟨wu, fun p hp => ?_⟩
    obtain ⟨_, _, hq⟩ := ht p hp
    obtain ⟨_, _, hr⟩ := hu _ hq
    exact ⟨_, _, hr⟩⟩

theorem Reports.foldl {α : Type} {f : State → α → State} (h : ∀ s a, Reports n s (f s a)) (l : List α) (s : State) :
    Reports n s (l.foldl f s) :=
  List.foldlRecOn l f (motive := Reports n s) (.refl n s) (fun _ k _ _ => k.trans (h _ _))

theorem EvtFrame.reports (h : EvtFrame s t) (n : Nat) : Reports n s t := by
  obtain ⟨tab, irq, msix, rfl⟩ := h
  exact ⟨⟨⟨EvtFrame.tile ⟨tab, irq, msix, rfl⟩, fun _ _ => rfl⟩, rfl⟩, fun w => ⟨w, fun _ hp => ⟨_, _, hp⟩⟩⟩

/-- The check registers are counted. -/
theorem tileSet_num_reports (s : State) (n : Nat) (r : NumRegs) : Reports n s (tileSet s n { tileAt s n with num := r }) :=
  ⟨⟨tileSet_onlyTile s n _, by rw [tileAt_tileSet_self]⟩, fun w => ⟨w, fun _ hp => ⟨_, _, hp⟩⟩⟩

@[simp] theorem tileAt_partUpd (s : State) (k m : Nat) (f : Part → Part) : tileAt (partUpd s k f) m = tileAt s m := by
  unfold partUpd
  split <;> rfl

theorem partOf_partUpd_self {f : Part → Part} {p : Part} (w : partsWf s = true) (hp : partOf s n = some p) (h0 : (f p).t0 = p.t0)
    (hl : (f p).log2n = p.log2n) : partOf (partUpd s n f) n = some (f p) := by
  rw [partUpd, hp]
  dsimp only
  rw [partOf_partSet w, hp, Option.map_some, if_pos h0.symm, ← h0, ← hl]

theorem partUpd_reports {f : Part → Part} (hf : ∀ p, ∃ err run, f p = { p with err := err, run := run }) :
    Reports n s (partUpd s n f) := by
  refine ⟨⟨⟨partUpd_frame s n f, fun m _ => tileAt_partUpd s n m f⟩, by rw [tileAt_partUpd]⟩, fun w =>
    ⟨(partsWf_congr partUpd_placed).trans w, fun p hp => ?_⟩⟩
  obtain ⟨err, run, hfp⟩ := hf p
  exact ⟨err, run, (partOf_partUpd_self w hp (by rw [hfp]) (by rw [hfp])).trans (congrArg some hfp)⟩

theorem blockCommit_reports (s : State) (n status : Nat) : Reports n s (blockCommit s n status) :=
  partUpd_reports fun p => by
    split
    · exact ⟨_, _, rfl⟩
    · split <;> exact ⟨_, _, rfl⟩

theorem noteDetail_reports (s : State) (n lo : Nat) : Reports n s (noteDetail s n lo) := partUpd_reports fun _ => ⟨_, _, rfl⟩

theorem tileErr_reports (s : State) (n status source lo hi : Nat) : Reports n s (tileErr s n status source lo hi) :=
  (((errLog_frame _ _ _ _ _ _ _).reports n).trans (noteDetail_reports _ n lo)).trans (blockCommit_reports _ n status)

theorem tileSramUe_reports (s : State) (n source lo : Nat) : Reports n s (tileSramUe s n source lo) :=
  (tileSet_num_reports s n _).trans (tileErr_reports _ n _ _ _ _)

theorem tileResidue_reports (s : State) (n engine lane pc : Nat) : Reports n s (tileResidue s n engine lane pc) :=
  ((tileSet_num_reports s n _).trans (tileErr_reports _ n _ _ _ _)).trans ((unitEvt_frame _ _ _).reports n)

theorem tileFlags_reports (s : State) (n : Nat) (es : List FlagEv) : Reports n s (tileFlags s n es) := by
  unfold tileFlags
  dsimp only
  split
  · exact (tileSet_num_reports s n _).trans ((unitEvt_frame _ _ _).reports n)
  · exact tileSet_num_reports s n _

theorem tileNote_reports (n : Nat) (s : State) (e : TileNote) : Reports n s (tileNote n s e) := by
  cases e with
  | flag e => exact tileFlags_reports s n [e]
  | ue source addr => exact tileSramUe_reports s n source addr
  | residue engine lane pc => exact tileResidue_reports s n engine lane pc
  | fault status source pc => exact tileErr_reports s n status source pc 0

theorem tileNotes_reports (s : State) (n : Nat) (es : List TileNote) : Reports n s (tileNotes s n es) :=
  .foldl (tileNote_reports n) es s

theorem tileReadUe_reports (s : State) (n : Nat) (reader : SramWord → Option Nat) : Reports n s (tileReadUe s n reader) :=
  .foldl (fun s w => by
    cases reader w with
    | none => exact .refl n s
    | some k => exact tileSramUe_reports s n k _) _ s

theorem noteS_reports (s : State) (n : Nat) (is : List Nat) : Reports n s (noteS s n is) := tileReadUe_reports s n _

theorem noteLatch_reports (s : State) (n source : Nat) (tds xs : List Nat) : Reports n s (noteLatch s n source tds xs) :=
  tileReadUe_reports s n _

/-- Cycles of a tile leave it as `tileCycles` says. -/
theorem tileLand_leaves (s : State) (n k : Nat) : Leaves n s (tileLand s n k) (tileCycles (seedOf s n) k (tileAt s n)).1 :=
  (tileSet_leaves s n _).reports (tileNotes_reports _ n _)

end

end Sys2Proof.Machine
end

section
/-! PROOF. A slot of a stroke (O17): which state its operation meets (R86, R134, R135). -/
namespace Sys2Proof.Machine
open Sys2Proof

section
variable {s : State} {n : Nat} {slots : List Nat}

/-- The tile with its stroke open and no slot of it issued anew. -/
def strokeOpened (x : Tile) : Tile :=
  { x with plate := { x.plate with
      inStroke := some (strokeRegs x), used := if x.plate.inStroke.isSome then x.plate.used else [] } }

/-- The stroke opens; what reading the plate cache meets is reported after it. -/
def strokeBegun (s : State) (n : Nat) : State :=
  if (tileAt s n).plate.inStroke.isSome then s else tileSet s n (strokeOpened (tileAt s n))

theorem strokeBegun_onlyTile : OnlyTile n s (strokeBegun s n) := by
  unfold strokeBegun
  split
  · exact .refl n s
  · exact tileSet_onlyTile s n _

@[simp] theorem strokeBegun_parts : (strokeBegun s n).tl.parts = s.tl.parts := by
  unfold strokeBegun
  split <;> rfl

theorem strokeOpened_of_open {x : Tile} {r : Regs} (h : x.plate.inStroke = some r) : strokeOpened x = x := by
  simp only [strokeOpened, strokeRegs, h, Option.getD_some, Option.isSome_some, if_true]
  rw [← h]

theorem tileAt_strokeBegun : tileAt (strokeBegun s n) n = strokeOpened (tileAt s n) := by
  unfold strokeBegun
  split
  · rename_i h
    obtain ⟨r, hr⟩ := Option.isSome_iff_exists.mp h
    exact (strokeOpened_of_open hr).symm
  · exact tileAt_tileSet_self s n _

/-- An open stroke stays as it is; one that opens reports the uncorrectable words of the plate cache (R86). -/
theorem openStroke_cases (s : State) (n : Nat) : openStroke s n = strokeBegun s n ∨
    (strokeLost (tileAt s n) = true ∧
      openStroke s n = tileSramUe (strokeBegun s n) n 15 ((tileAt s n).plate.pc % 1024)) := by
  unfold openStroke strokeBegun
  dsimp only
  cases h : (tileAt s n).plate.inStroke with
  | some r => exact .inl rfl
  | none =>
    simp only [strokeOpened, strokeRegs, h, Option.getD_none, Option.isSome_none, Bool.false_eq_true, if_false]
    split
    · rename_i hue
      exact .inr ⟨by rw [strokeLost, hue, Bool.true_or], rfl⟩
    · exact .inl rfl

theorem openStroke_reports (s : State) (n : Nat) : Reports n (strokeBegun s n) (openStroke s n) := by
  obtain h | ⟨-, h⟩ := openStroke_cases s n
  · rw [h]; exact .refl n _
  · rw [h]; exact tileSramUe_reports _ n _ _

theorem openStroke_sound (h : strokeLost (tileAt s n) = false) : openStroke s n = strokeBegun s n := by
  obtain k | ⟨hl, -⟩ := openStroke_cases s n
  · exact k
  · exact absurd hl (by simp [h])

/-- The state that a slot's operation meets: the stroke is open and the slot used. -/
def slotOpened (s : State) (n : Nat) (slots : List Nat) : State :=
  tileSet (openStroke s n) n { tileAt (openStroke s n) n with plate := { (tileAt (openStroke s n) n).plate with
    used := (slotFree (tileAt s n) slots).getD 0 :: (tileAt (openStroke s n) n).plate.used } }

theorem slotOpened_leaves : Leaves n s (slotOpened s n slots) (opened slots (tileAt s n)) := by
  have h := (openStroke_reports s n).leaves
  refine ⟨(strokeBegun_onlyTile.trans h.1).trans (tileSet_onlyTile _ n _), ?_⟩
  rw [slotOpened, tileAt_tileSet_self, h.2, tileAt_strokeBegun]
  rfl

theorem tileAt_slotOpened (h : strokeLost (tileAt s n) = false) : tileAt (slotOpened s n slots) n = opened slots (tileAt s n) := by
  rw [slotOpened, tileAt_tileSet_self, openStroke_sound h, tileAt_strokeBegun]
  rfl

theorem slotOpened_parts (h : strokeLost (tileAt s n) = false) : (slotOpened s n slots).tl.parts = s.tl.parts := by
  rw [slotOpened, openStroke_sound h]
  exact strokeBegun_parts

/-- A slot with more to come: its operation acts unless the stroke's plate-cache words are uncorrectable (R86). -/
theorem slotDo_more (hi : issuing s n = true) (hf : (slotFree (tileAt s n) slots).isSome = true) (act : State → State) :
    slotDo s n slots true act =
      if strokeLost (tileAt (openStroke s n) n) then slotOpened s n slots else act (slotOpened s n slots) := by
  obtain ⟨k, hk⟩ := Option.isSome_iff_exists.mp hf
  simp [slotDo, hi, hk, slotOpened]

theorem strokeLost_openStroke (h : strokeLost (tileAt s n) = false) : strokeLost (tileAt (openStroke s n) n) = false := by
  rw [openStroke_sound h, tileAt_strokeBegun]
  exact h

theorem slotDo_ready (h : slotReady s n slots = true) (act : State → State) :
    slotDo s n slots true act = act (slotOpened s n slots) := by
  simp only [slotReady, Bool.and_eq_true, Bool.not_eq_true'] at h
  obtain ⟨⟨hi, hf⟩, hl⟩ := h
  rw [slotDo_more hi hf, strokeLost_openStroke hl, if_neg Bool.false_ne_true]

/-- In the state that the operation of a ready slot meets, the tile is `opened` and nothing is reported yet. -/
theorem tileAt_slotOpened_ready (h : slotReady s n slots = true) : tileAt (slotOpened s n slots) n = opened slots (tileAt s n) := by
  simp only [slotReady, Bool.and_eq_true, Bool.not_eq_true'] at h
  exact tileAt_slotOpened h.2

end

end Sys2Proof.Machine
end

section
/-! PROOF. One cycle of a tile on its plate (O17): what has issued goes on, and of the plate only the operations due and the wait limit that a
CFG writes may differ (R150, R153; log 20). -/
namespace Sys2Proof.Machine
open Sys2Proof

section
variable {x : Tile}

/-- A plate but for its operations due and its wait limit. -/
def plateRest (p : Plate) : Plate := { p with due := [], waitCfg := 0 }

theorem fields_of_plateRest {p q : Plate} (h : plateRest p = plateRest q) :
    p.pstate = q.pstate ∧ p.held = q.held ∧ p.holdCnt = q.holdCnt ∧ p.pc = q.pc := by
  have hf {α : Type} (f : Plate → α) : f (plateRest p) = f (plateRest q) := congrArg f h
  exact ⟨hf Plate.pstate, hf Plate.held, hf Plate.holdCnt, hf Plate.pc⟩

theorem pathPut_plate (x : Tile) (p : PathId) (v : Path) : (pathPut x p v).plate = x.plate := by cases p <;> rfl

theorem sramHw_plate (x : Tile) (hw : HwErr) : (sramHw x hw).plate = x.plate := by
  unfold sramHw
  split <;> rfl

theorem monOpen_plate (x : Tile) (l : Latched) (opc : Nat) (f : VxOp) : (monOpen x l opc f).plate = x.plate := by
  unfold monOpen
  split <;> rfl

theorem flightStart_plate (x : Tile) (p : PathId) (c : PathCmd) (seed tag split : Nat) (hw : HwErr) :
    (flightStart x p c seed tag split hw).plate = x.plate :=
  (sramHw_plate _ hw).trans (pathPut_plate x p _)

theorem pathBegin_plate (seed : Nat) (p : PathId) (c : PathCmd) (x : Tile) : (pathBegin seed p c x).1.plate = x.plate := by
  unfold pathBegin
  split
  · exact flightStart_plate ..
  · split
    · exact flightStart_plate ..
    · rfl
  · exact flightStart_plate ..
  · split
    · exact (monOpen_plate ..).trans (flightStart_plate ..)
    · rfl
  · rfl

theorem pathTurn_plate (seed : Nat) (p : PathId) (a : Tile × List TileNote) : (pathTurn seed p a).1.plate = a.1.plate := by
  unfold pathTurn
  dsimp only
  split
  · split
    · exact pathPut_plate ..
    · exact (pathBegin_plate ..).trans (pathPut_plate ..)
  · rfl

/-- The paths turn over. -/
def pathsTurned (seed : Nat) (x : Tile) : Tile × List TileNote := localPaths.foldl (fun a p => pathTurn seed p a) (x, [])

theorem pathsTurned_plate (seed : Nat) (x : Tile) : (pathsTurned seed x).1.plate = x.plate :=
  List.foldlRecOn localPaths _ (motive := fun (a : Tile × List TileNote) => a.1.plate = x.plate) rfl
    (fun _ h p _ => (pathTurn_plate seed p _).trans h)

theorem partsPut_plate (ps : List OutPart) (x : Tile) : (partsPut ps x).1.plate = x.plate := by
  unfold partsPut
  refine List.foldlRecOn _ _ (motive := fun (a : Tile × List TileNote) => a.1.plate = x.plate) ?_ (fun _ h _ _ => h)
  dsimp only
  split <;> rfl

theorem sregPut_plate (x : Tile) (i : Nat) (v : W64) : (sregPut x i v).plate = x.plate := by
  unfold sregPut
  split <;> rfl

/-- PLATE_CFG is the one register of the plate that a CFG writes (Table 6-9). -/
theorem cfgWrite_plateRest (x : Tile) (off : Nat) (v : W64) : plateRest (cfgWrite x off v).plate = plateRest x.plate := by
  unfold cfgWrite
  dsimp only
  (repeat' split) <;> rfl

theorem landOp_plateRest (x : Tile) (op : DueOp) : plateRest (landOp x op).1.plate = plateRest x.plate := by
  cases op with
  | sreg i v => exact congrArg plateRest (sregPut_plate x i v)
  | cfg off v => exact cfgWrite_plateRest x off v
  | _ => rfl

theorem landOps_plateRest (ops : List DueOp) (a : Tile × List SramWord) :
    plateRest (ops.foldl (fun (a : Tile × List SramWord) o => ((landOp a.1 o).1, a.2 ++ (landOp a.1 o).2)) a).1.plate = plateRest a.1.plate :=
  List.foldlRecOn ops _ (motive := fun (b : Tile × List SramWord) => plateRest b.1.plate = plateRest a.1.plate) rfl
    (fun _ h o _ => (landOp_plateRest _ o).trans h)

theorem tileCycle_plateRest (seed : Nat) (x : Tile) : plateRest (tileCycle seed x).1.plate = plateRest x.plate := by
  refine (landOps_plateRest _ _).trans ?_
  rw [partsPut_plate]
  have h : plateRest (pathsTurned seed x).1.plate = plateRest x.plate := congrArg plateRest (pathsTurned_plate seed x)
  exact h

theorem tileCycles_plateRest (seed k : Nat) (x : Tile) : plateRest (tileCycles seed k x).1.plate = plateRest x.plate := by
  induction k generalizing x with
  | zero => rfl
  | succ k ih => exact (ih _).trans (tileCycle_plateRest seed x)

/-- No path turns over with nothing in flight: a path is freed by its running command's last cycle (R91). -/
theorem pathsTurned_idle (seed : Nat) (h : x.flight = []) : pathsTurned seed x = (x, []) := by
  simp [pathsTurned, localPaths, pathTurn, h]

/-- A cycle in which nothing is in flight and nothing due changes nothing. -/
theorem tileCycle_idle (seed : Nat) (h : x.flight = []) (hd : x.plate.due = []) : tileCycle seed x = (x, []) := by
  have hx : ({ x with flight := [], plate := { x.plate with due := [] } } : Tile) = x := by rw [← h, ← hd]
  have ht : localPaths.foldl (fun a p => pathTurn seed p a) (x, []) = (x, []) := pathsTurned_idle seed h
  have hw : partsPut [] x = (x, []) := by simp [partsPut, partsMeet, List.range, List.range.loop]
  simp [tileCycle, ht, h, hd, streamWrites, drainClears, hx, hw]

end

end Sys2Proof.Machine
end

section
/-! PROOF. WAIT, COLL, TOKEN_DEC and FLAGCLR (O17). -/
namespace Sys2Proof.Machine
open Sys2Proof

section
variable {s : State} {n sy : Nat}

/-! ### Slots that can hold their stroke (R147, R148, R150) -/

/-- The state in which a wait that holds no longer lets its slot issue. -/
def unheld (s : State) (n : Nat) : State := tileSet s n (unholdWait (tileAt s n))

theorem tileAt_unheld (s : State) (n : Nat) : tileAt (unheld s n) n = unholdWait (tileAt s n) := tileAt_tileSet_self s n _

/-- What releasing a wait leaves: all but what PLATE_WAIT shows. -/
theorem unholdWait_eq (x : Tile) : unholdWait x =
    { x with plate := { x.plate with pstate := (unholdWait x).plate.pstate, held := (unholdWait x).plate.held } } := by
  unfold unholdWait
  split <;> rfl

/-- One cycle of a hold, in which what has issued goes on (log 20). -/
def heldCycle (s : State) (n sy : Nat) : State := tileLand (tileSet s n (holdWait (tileAt s n) sy)) n 1

theorem issuing_pstate (h : issuing s n = true) : (tileAt s n).plate.pstate = .issuing := by
  simp only [issuing, Bool.and_eq_true, decide_eq_true_eq] at h
  obtain ⟨⟨⟨-, hstate⟩, -⟩, -⟩ := h
  exact hstate

theorem waitReady_issuing (h : waitReady s n sy = true) : (tileAt s n).plate.inStroke = none ∧ issuing (unheld s n) n = true := by
  simp only [waitReady, Bool.and_eq_true, Bool.or_eq_true, Option.isNone_iff_eq_none] at h
  obtain ⟨hstroke, hi | ⟨-, hi⟩⟩ := h
  · have hx : unholdWait (tileAt s n) = tileAt s n := if_neg (by simp [issuing_pstate hi])
    refine ⟨hstroke, Eq.trans ?_ hi⟩
    simp only [issuing, tileAt_unheld, hx]
    rfl
  · exact ⟨hstroke, hi⟩

theorem waitSlot_holding (h : waitReady s n sy = true) (more : Bool) (act : State → State) :
    waitSlot s n sy false more act = heldCycle s n sy := by
  simp [waitSlot, h, heldCycle]

theorem waitSlot_issuing (h : waitReady s n sy = true) (more : Bool) (act : State → State) :
    waitSlot s n sy true more act = slotDo (unheld s n) n [slSy] more act := by
  simp [waitSlot, h, unheld]

/-- The stroke of a wait is not open yet, so that its slot is free. -/
theorem slotFree_of_closed {x : Tile} (h : x.plate.inStroke = none) (k : Nat) : slotFree x [k] = some k := by
  simp [slotFree, h]

/-- The stroke whose wait is over, its SY slot issued and nothing else: it reads the registers as they stand now (R135). -/
def waitIssued (x : Tile) : Tile := opened [slSy] (unholdWait x)

theorem waitIssued_eq (x : Tile) : waitIssued x = { x with plate := (waitIssued x).plate } := by
  rw [waitIssued, unholdWait_eq]
  rfl

theorem memory_waitIssued (x : Tile) : (waitIssued x).regs = x.regs ∧ (waitIssued x).scratch = x.scratch := by
  rw [waitIssued_eq]
  exact ⟨rfl, rfl⟩

theorem strokeRegs_waitIssued (x : Tile) : strokeRegs (waitIssued x) = strokeRegs x := by
  rw [waitIssued, unholdWait_eq]
  rfl

theorem waitSlot_released (h : waitReady s n sy = true) {act : State → State} (hact : ∀ r, Reports n r (act r)) :
    Leaves n s (waitSlot s n sy true true act) (waitIssued (tileAt s n)) := by
  obtain ⟨hstroke, hi⟩ := waitReady_issuing h
  have hfree : (slotFree (tileAt (unheld s n) n) [slSy]).isSome = true := by
    rw [tileAt_unheld, slotFree_of_closed (by rw [unholdWait_eq, hstroke])]
    rfl
  have hopen : Leaves n s (slotOpened (unheld s n) n [slSy]) (waitIssued (tileAt s n)) := by
    obtain ⟨honly, hown⟩ := slotOpened_leaves (s := unheld s n) (n := n) (slots := [slSy])
    rw [tileAt_unheld] at hown
    exact ⟨(tileSet_onlyTile s n _).trans honly, hown⟩
  rw [waitSlot_issuing h, slotDo_more hi hfree]
  split
  · exact hopen
  · exact hopen.reports (hact _)

theorem pstate_waitIssued (h : waitReady s n sy = true) : (waitIssued (tileAt s n)).plate.pstate = .issuing :=
  (congrArg (fun x => x.plate.pstate) (tileAt_unheld s n)).symm.trans (issuing_pstate (waitReady_issuing h).2)

theorem inStroke_waitIssued (h : waitReady s n sy = true) : (waitIssued (tileAt s n)).plate.inStroke = some (tileAt s n).regs := by
  have hclosed : strokeRegs (tileAt s n) = (tileAt s n).regs := by rw [strokeRegs, (waitReady_issuing h).1, Option.getD_none]
  rw [← hclosed, ← strokeRegs_waitIssued]
  rfl

/-! ### The cycle of a hold -/

theorem heldCycle_onlyTile : OnlyTile n s (heldCycle s n sy) := (tileSet_onlyTile s n _).trans (tileLand_leaves _ n 1).1

theorem heldCycle_plateRest : plateRest (tileAt (heldCycle s n sy) n).plate = plateRest (holdWait (tileAt s n) sy).plate := by
  rw [heldCycle, (tileLand_leaves _ n 1).plate, tileCycles_plateRest, tileAt_tileSet_self]

theorem heldCycle_idle (h : (tileAt s n).flight = []) (hd : (tileAt s n).plate.due = []) :
    tileAt (heldCycle s n sy) n = holdWait (tileAt s n) sy := by
  have hc : ∀ seed, tileCycles seed 1 (holdWait (tileAt s n) sy) = (holdWait (tileAt s n) sy, []) := fun seed => by
    rw [tileCycles, tileCycle_idle (x := holdWait (tileAt s n) sy) seed h hd]
    rfl
  simp only [heldCycle, tileLand, tileAt_tileSet_self, hc]
  exact tileAt_tileSet_self _ n _

/-! ### WAIT -/

theorem answers_wait_released {k : WaitKind} {u v : Nat} {src : Bool} (h : waitReady s n (waitSy k u src v) = true)
    (hk : waitHolds s n k u src v = true) : Answers (.wait n k u src v true) s fun t =>
      (tileAt t n).plate.pstate = .issuing ∧ (tileAt t n).plate.inStroke = some (tileAt s n).regs ∧
        (tileAt t n).regs = (tileAt s n).regs ∧ (tileAt t n).scratch = (tileAt s n).scratch ∧ othersKept s t n := by
  have hact : ∀ r, Reports n r (if src then noteS r n [v % 64] else r) := fun r => by
    split
    · exact noteS_reports r n _
    · exact .refl n r
  have ht := waitSlot_released h hact
  obtain ⟨hregs, hscratch⟩ := memory_waitIssued (tileAt s n)
  refine ⟨_, congrArg (fun b => Host.Outcome.next (waitSlot s n _ b true _)) hk, ?_, ?_, ht.regs.trans hregs,
    ht.scratch.trans hscratch, ht.1.othersKept⟩
  · rw [ht.plate, pstate_waitIssued h]
  · rw [ht.plate, inStroke_waitIssued h]

theorem answers_wait_held {k : WaitKind} {u v : Nat} {src more : Bool} (h : waitReady s n (waitSy k u src v) = true)
    (hk : waitHolds s n k u src v = false) : Answers (.wait n k u src v more) s fun t =>
      (tileAt t n).plate.pstate = .heldWait ∧ (tileAt t n).plate.held = BitVec.ofNat 32 (waitSy k u src v) ∧
        (tileAt t n).plate.holdCnt = satInc (tileAt s n).plate.holdCnt ∧ (tileAt t n).plate.pc = (tileAt s n).plate.pc ∧
        ((tileAt s n).flight = [] → (tileAt s n).plate.due = [] →
          tileAt t n = holdWait (tileAt s n) (waitSy k u src v)) ∧ othersKept s t n := by
  have hexec : exec (.wait n k u src v more) s = .next (heldCycle s n (waitSy k u src v)) :=
    (congrArg (fun b => Host.Outcome.next (waitSlot s n _ b more _)) hk).trans (congrArg _ (waitSlot_holding h more _))
  obtain ⟨hstate, hsy, hcnt, hpc⟩ := fields_of_plateRest (heldCycle_plateRest (s := s) (n := n) (sy := waitSy k u src v))
  exact ⟨_, hexec, hstate, hsy, hcnt, hpc, heldCycle_idle, heldCycle_onlyTile.othersKept⟩

/-! ### COLL (R147) -/

/-- What an S register reads depends on the stroke's registers, the tile's copy of STEP, its loops and its uncorrectable words, and on the
partition (Table 6-3). -/
theorem sVal_congr {t : State} (hp : partOf t n = partOf s n) (hr : strokeRegs (tileAt t n) = strokeRegs (tileAt s n))
    (hs : (tileAt t n).stepCopy = (tileAt s n).stepCopy) (hl : (tileAt t n).plate.loops = (tileAt s n).plate.loops)
    (hu : (tileAt t n).num.ue = (tileAt s n).num.ue) (i : Nat) : sVal t n i = sVal s n i := by
  simp only [sVal, sRead, lidx, hp, hr, hs, hl, hu]

/-- The launch stands in its cluster's queue. -/
def launchQueued (s : State) (c : Nat) (q : List Launch) : State := { s with tl := { s.tl with lqueue := mapSet s.tl.lqueue c q } }

theorem tileAt_launchQueued (s : State) (c m : Nat) (q : List Launch) : tileAt (launchQueued s c q) m = tileAt s m := rfl

/-- The partition counts a launch, and one since its step opened. -/
def launchCounted (p : Part) : Part :=
  { p with launched := p.launched + 1, sinceOpen := if p.opened then p.sinceOpen + 1 else p.sinceOpen }

/-- The launch that COLL posts, as it latches its operands. -/
def launchOf (s : State) (n g sc r : Nat) : Launch :=
  { tile := n, group := g % 64, sched := sc % 1024, arg := sVal s n (r % 64), step := (tileAt s n).stepCopy.toNat,
    tds := (strokeRegs (tileAt s n)).td }

/-- COLL posts its launch to queue q and its partition counts it. -/
def collPosted (s : State) (n g sc r : Nat) (q : List Launch) : State :=
  partUpd (launchQueued (noteLatch (noteS s n [r % 64]) n 13 (collTds s n (g % 64) (sc % 1024)) []) (n / 16)
    (q ++ [launchOf s n g sc r])) n launchCounted

theorem collPosted_lqueue (s : State) (n g sc r : Nat) (q : List Launch) :
    mapGet [] (collPosted s n g sc r q).tl.lqueue (n / 16) = q ++ [launchOf s n g sc r] := by
  rw [collPosted, (partUpd_frame _ _ _).lqueue_eq]
  exact mapGet_mapSet_self ..

theorem latchNotes_reports (s : State) (n r source : Nat) (tds : List Nat) :
    Reports n s (noteLatch (noteS s n [r]) n source tds []) :=
  (noteS_reports s n _).trans (noteLatch_reports _ n _ _ _)

theorem collPosted_tile (s : State) (n g sc r : Nat) (q : List Launch) :
    (tileAt (collPosted s n g sc r q) n).plate = (tileAt s n).plate ∧ (tileAt (collPosted s n g sc r q) n).regs = (tileAt s n).regs := by
  have h := (latchNotes_reports s n (r % 64) 13 (collTds s n (g % 64) (sc % 1024))).leaves
  rw [collPosted, tileAt_partUpd, tileAt_launchQueued]
  exact ⟨h.plate, h.regs⟩

theorem collPosted_part {g sc r : Nat} {q : List Launch} {p : Part} (w : partsWf s = true) (hp : partOf s n = some p) :
    ∃ p', partOf (collPosted s n g sc r q) n = some p' ∧ p'.launched = p.launched + 1 ∧
      p'.sinceOpen = (if p.opened then p.sinceOpen + 1 else p.sinceOpen) := by
  obtain ⟨w1, hparts⟩ := (latchNotes_reports s n (r % 64) 13 (collTds s n (g % 64) (sc % 1024))).parts w
  obtain ⟨_, _, hq⟩ := hparts p hp
  exact ⟨_, partOf_partUpd_self (s := launchQueued _ _ _) w1 hq rfl rfl, rfl, rfl⟩

/-- The state in which the slot of a released wait acts. -/
def waitOpened (s : State) (n : Nat) : State := slotOpened (unheld s n) n [slSy]

theorem slotReady_unheld (h : waitReady s n sy = true) (hl : strokeLost (tileAt s n) = false) :
    slotReady (unheld s n) n [slSy] = true := by
  obtain ⟨hstroke, hi⟩ := waitReady_issuing h
  have hlost : strokeLost (unholdWait (tileAt s n)) = false := by rw [unholdWait_eq]; exact hl
  have hfree : slotFree (unholdWait (tileAt s n)) [slSy] = some slSy :=
    slotFree_of_closed (by rw [unholdWait_eq, hstroke]) _
  simp [slotReady, hi, tileAt_unheld, hlost, hfree]

theorem tileAt_waitOpened (h : waitReady s n sy = true) (hl : strokeLost (tileAt s n) = false) :
    tileAt (waitOpened s n) n = waitIssued (tileAt s n) := by
  rw [waitOpened, tileAt_slotOpened_ready (slotReady_unheld h hl), tileAt_unheld]
  rfl

theorem waitOpened_parts (hl : strokeLost (tileAt s n) = false) :
    (waitOpened s n).tl.parts = s.tl.parts :=
  slotOpened_parts (by rw [tileAt_unheld, unholdWait_eq]; exact hl)

theorem sVal_waitOpened (h : waitReady s n sy = true) (hl : strokeLost (tileAt s n) = false) (i : Nat) :
    sVal (waitOpened s n) n i = sVal s n i := by
  have ht := tileAt_waitOpened h hl
  have hx := waitIssued_eq (tileAt s n)
  refine sVal_congr (congrArg (partFind · n) (waitOpened_parts hl)) (by rw [ht, strokeRegs_waitIssued]) (by rw [ht, hx]) ?_
    (by rw [ht, hx]) i
  rw [ht, waitIssued, unholdWait_eq]
  rfl

/-- The launch latches what stood before the wait was released. -/
theorem launchOf_waitOpened (h : waitReady s n sy = true) (hl : strokeLost (tileAt s n) = false) (g sc r : Nat) :
    launchOf (waitOpened s n) n g sc r = launchOf s n g sc r := by
  have hstep : (waitIssued (tileAt s n)).stepCopy = (tileAt s n).stepCopy := by rw [waitIssued_eq]
  rw [launchOf, launchOf, sVal_waitOpened h hl, tileAt_waitOpened h hl, strokeRegs_waitIssued, hstep]

/-- SY slot of a COLL (Table 6-9). -/
def collSy (g sc r : Nat) : Nat := 8 + (g % 64) <<< 4 + (sc % 1024) <<< 10 + (r % 64) <<< 20

theorem exec_coll_posted {g sc r : Nat} (h : waitReady s n (collSy g sc r) = true)
    (hq : (mapGet [] s.tl.lqueue (n / 16)).length < 16) (hl : strokeLost (tileAt s n) = false) :
    exec (.coll n g sc r true) s = .next (collPosted (waitOpened s n) n g sc r (mapGet [] s.tl.lqueue (n / 16))) :=
  (congrArg (fun b => Host.Outcome.next (waitSlot s n (collSy g sc r) b true _)) (decide_eq_true hq)).trans
    (congrArg _ ((waitSlot_issuing h true _).trans (slotDo_ready (slotReady_unheld h hl) _)))

theorem answers_coll_posted {g sc r : Nat} (h : waitReady s n (collSy g sc r) = true)
    (hq : (mapGet [] s.tl.lqueue (n / 16)).length < 16) (w : partsWf s = true) (hl : strokeLost (tileAt s n) = false) :
    Answers (.coll n g sc r true) s fun t =>
      (∃ l : Launch, mapGet [] t.tl.lqueue (n / 16) = mapGet [] s.tl.lqueue (n / 16) ++ [l] ∧ l.tile = n ∧ l.group = g % 64 ∧
        l.sched = sc % 1024 ∧ l.arg = sVal s n (r % 64) ∧ l.step = (tileAt s n).stepCopy.toNat) ∧
      (tileAt t n).plate.pstate = .issuing ∧ (tileAt t n).regs = (tileAt s n).regs ∧
      ∀ p, partOf s n = some p → ∃ q, partOf t n = some q ∧ q.launched = p.launched + 1 ∧
        q.sinceOpen = (if p.opened then p.sinceOpen + 1 else p.sinceOpen) := by
  have hparts := waitOpened_parts hl
  obtain ⟨hplate, hregs⟩ := collPosted_tile (waitOpened s n) n g sc r (mapGet [] s.tl.lqueue (n / 16))
  rw [tileAt_waitOpened h hl] at hplate hregs
  refine ⟨_, exec_coll_posted h hq hl, ⟨launchOf s n g sc r, ?_, rfl, rfl, rfl, rfl, rfl⟩, ?_, ?_, fun p hp => ?_⟩
  · rw [collPosted_lqueue, launchOf_waitOpened h hl]
  · rw [hplate, pstate_waitIssued h]
  · rw [hregs, (memory_waitIssued _).1]
  · have w' : partsWf (waitOpened s n) = true := by rw [partsWf, hparts]; exact w
    have hp' : partOf (waitOpened s n) n = some p := by rw [partOf, hparts]; exact hp
    exact collPosted_part w' hp'

theorem answers_coll_held {g sc r : Nat} {more : Bool} (h : waitReady s n (collSy g sc r) = true)
    (hq : 16 ≤ (mapGet [] s.tl.lqueue (n / 16)).length) :
    Answers (.coll n g sc r more) s fun t => (tileAt t n).plate.pstate = .heldWait ∧ othersKept s t n := by
  have hexec : exec (.coll n g sc r more) s = .next (heldCycle s n (collSy g sc r)) :=
    (congrArg (fun b => Host.Outcome.next (waitSlot s n (collSy g sc r) b more _)) (decide_eq_false (Nat.not_lt.mpr hq))).trans
      (congrArg _ (waitSlot_holding h more _))
  exact ⟨_, hexec, (fields_of_plateRest heldCycle_plateRest).1, heldCycle_onlyTile.othersKept⟩

/-! ### TOKEN_DEC and FLAGCLR (R149, R83) -/

theorem Leaves.slotLeaves {t : State} {slots : List Nat} {f : Tile → Tile} (h : Leaves n s t (f (opened slots (tileAt s n)))) :
    slotLeaves s t n slots f := ⟨h.2, h.1.othersKept⟩

/-- A ready slot changes its tile as f says. -/
theorem slotDo_tileSet {slots : List Nat} (h : slotReady s n slots = true) (f : Tile → Tile) :
    Leaves n s (slotDo s n slots true (fun r => tileSet r n (f (tileAt r n)))) (f (opened slots (tileAt s n))) ∧
      tileAt (slotDo s n slots true (fun r => tileSet r n (f (tileAt r n)))) n = f (opened slots (tileAt s n)) := by
  have ht : tileAt (slotDo s n slots true (fun r => tileSet r n (f (tileAt r n)))) n = f (opened slots (tileAt s n)) := by
    rw [slotDo_ready h, tileAt_tileSet_self, tileAt_slotOpened_ready h]
  refine ⟨⟨?_, by rw [ht]⟩, ht⟩
  rw [slotDo_ready h]
  exact slotOpened_leaves.1.trans (tileSet_onlyTile _ n _)

/-- An arrival token is lowered by an amount and stops at 0. -/
def tokenLowered (k a : Nat) (x : Tile) : Tile :=
  { x with regs := { x.regs with tok := mapSet x.regs.tok (k % 32) (BitVec.ofNat 20 ((mapGet 0 x.regs.tok (k % 32)).toNat - a % 2 ^ 20)) } }

theorem tokenAt_tokenLowered {k : Nat} (hk : k % 32 ≠ 31) (a : Nat) (x : Tile) :
    tokenAt (tokenLowered k a x) (k % 32) = tokenAt x (k % 32) - a % 2 ^ 20 := by
  have hlt := (mapGet 0 x.regs.tok (k % 32)).isLt
  simp only [tokenAt, if_neg hk, tokenLowered, mapGet_mapSet_self, BitVec.toNat_ofNat]
  exact Nat.mod_eq_of_lt (lt_of_le_of_lt (Nat.sub_le _ _) hlt)

theorem exec_tokenDec {k : Nat} (hk : k % 32 ≠ 31) (a : Nat) (more : Bool) (s : State) : exec (.tokenDec n k a more) s =
    .next (slotDo s n [slSy] more (fun r => tileSet r n (tokenLowered k a (tileAt r n)))) := by
  refine congrArg (fun act => Host.Outcome.next (slotDo s n [slSy] more act)) (funext fun r => ?_)
  exact if_neg hk

theorem answers_tokenDec {k : Nat} (h : slotReady s n [slSy] = true) (hk : k % 32 ≠ 31) (a : Nat) :
    Answers (.tokenDec n k a true) s fun t =>
      tokenAt (tileAt t n) (k % 32) = tokenAt (tileAt s n) (k % 32) - a % 2 ^ 20 ∧ slotLeaves s t n [slSy] (tokenLowered k a) := by
  obtain ⟨hleaves, ht⟩ := slotDo_tileSet h (tokenLowered k a)
  refine ⟨_, exec_tokenDec hk a true s, ?_, hleaves.slotLeaves⟩
  rw [ht]
  exact tokenAt_tokenLowered hk a _

/-- AT31 reflects READY, and TOKEN_DEC does not lower it. -/
theorem answers_tokenDec_31 (h : slotReady s n [slSy] = true) (a : Nat) :
    Answers (.tokenDec n 31 a true) s fun t => slotLeaves s t n [slSy] id :=
  ⟨_, congrArg Host.Outcome.next (slotDo_ready h _), Leaves.slotLeaves (f := id) slotOpened_leaves⟩

/-- The sticky flags of the engines named are cleared. -/
def flagsCleared (mask : Nat) (x : Tile) : Tile := { x with num := numClear x.num mask }

theorem answers_flagclr (h : slotReady s n [slSy] = true) (mask : Nat) : Answers (.flagclr n mask true) s fun t =>
    (tileAt t n).num = { (tileAt s n).num with nflags := (tileAt s n).num.nflags &&& ~~~(engMask mask) } ∧
      slotLeaves s t n [slSy] id := by
  obtain ⟨hleaves, ht⟩ := slotDo_tileSet h (flagsCleared mask)
  exact ⟨_, rfl, congrArg Tile.num ht, hleaves.slotLeaves⟩

end

/-- Settles O17: a wait is released into its slot (`waitSlot_released`) or held for a cycle (`heldCycle`; that the cycle passes what has issued is
log 20), and the operations of ready slots act on the tile that the slot opens (`slotDo_ready`). -/
theorem waitsAndTokens : Obligations.WaitsAndTokens :=
  ⟨fun _ _ _ _ _ _ h hk => answers_wait_released h hk, fun _ _ _ _ _ _ _ h hk => answers_wait_held h hk,
    fun _ _ _ _ => rfl, fun _ _ _ _ => rfl, fun _ _ _ _ _ h hq w hl => answers_coll_posted h hq w hl,
    fun _ _ _ _ _ _ h hq => answers_coll_held h hq, fun _ _ a _ h hk => answers_tokenDec h hk a,
    fun _ a _ h => answers_tokenDec_31 h a, fun _ mask _ h => answers_flagclr h mask⟩

end Sys2Proof.Machine
end

section
/-! PROOF. What an operation's reports of uncorrectable words leave (O20): the list of those words and, of the partition's record, all but the
error latch and the running command. -/
namespace Sys2Proof.Machine
open Sys2Proof

section
variable {s t u : State} {n : Nat}

/-- A partition's record but for its error latch and its running command. -/
def partBut (p : Part) : Part := { p with err := false, run := none }

theorem partBut_eq_iff {p q : Part} : partBut q = partBut p ↔ ∃ err run, q = { p with err := err, run := run } := by
  constructor
  · intro h
    refine ⟨q.err, q.run, ?_⟩
    have h' : ({ partBut q with err := q.err, run := q.run } : Part) = { partBut p with err := q.err, run := q.run } := by rw [h]
    exact h'
  · rintro ⟨_, _, rfl⟩
    rfl

/-- Reports that count uncorrectable words: the words stay as they are, and so does the partition's place. -/
structure Counts (n : Nat) (s t : State) : Prop where
  reports : Reports n s t
  ue : (tileAt t n).num.ue = (tileAt s n).num.ue
  part : (partOf t n).map partBut = (partOf s n).map partBut

theorem Counts.refl (n : Nat) (s : State) : Counts n s s := ⟨.refl n s, rfl, rfl⟩

theorem Counts.trans (h : Counts n s t) (k : Counts n t u) : Counts n s u :=
  ⟨h.reports.trans k.reports, k.ue.trans h.ue, k.part.trans h.part⟩

theorem Counts.foldl {α : Type} {f : State → α → State} (h : ∀ s a, Counts n s (f s a)) (l : List α) (s : State) :
    Counts n s (l.foldl f s) :=
  List.foldlRecOn l f (motive := Counts n s) (.refl n s) (fun _ k _ _ => k.trans (h _ _))

theorem Counts.part_field (h : Counts n s t) {α : Type} (f : Part → α) (hf : ∀ p, f (partBut p) = f p) :
    (partOf t n).map f = (partOf s n).map f := by
  have hmap : ∀ o : Option Part, o.map f = (o.map partBut).map f := fun o => by cases o <;> simp [hf]
  rw [hmap, h.part, ← hmap]

/-- A record found after another has been replaced is the one found before, or the new one in its place. -/
theorem partFind_replaced (ps : Map Part) (n k : Nat) (q : Part) :
    let r := ps.map fun e => if e.1 = k then (e.1, { q with t0 := e.2.t0, log2n := e.2.log2n }) else e
    partFind r n = partFind ps n ∨ partFind r n = (partFind ps n).map fun p => { q with t0 := p.t0, log2n := p.log2n } := by
  induction ps with
  | nil => exact .inl rfl
  | cons e r ih =>
    obtain ⟨k', p⟩ := e
    by_cases hk : k' = k <;> by_cases hn : (p.t0 ≤ n && n < p.t0 + 2 ^ p.log2n) = true
    · exact .inr (by simp [partFind, hk, hn])
    · simpa [partFind, hk, hn] using ih
    · exact .inl (by simp [partFind, hk, hn])
    · simpa [partFind, hk, hn] using ih

theorem partOf_partUpd_but {f : Part → Part} (hf : ∀ p, partBut (f p) = partBut p) :
    (partOf (partUpd s n f) n).map partBut = (partOf s n).map partBut := by
  unfold partUpd
  cases hp : partOf s n with
  | none => simp [hp]
  | some p =>
    obtain ⟨err, run, hq⟩ := partBut_eq_iff.mp (hf p)
    have hp' : partFind s.tl.parts n = some p := hp
    obtain h | h := partFind_replaced s.tl.parts n (f p).t0 (f p)
    · exact congrArg (Option.map partBut) (h.trans hp)
    · refine (congrArg (Option.map partBut) h).trans ?_
      rw [hp', hq]
      rfl

theorem partUpd_counts {f : Part → Part} (hf : ∀ p, partBut (f p) = partBut p) : Counts n s (partUpd s n f) :=
  ⟨partUpd_reports fun p => partBut_eq_iff.mp (hf p), by rw [tileAt_partUpd], partOf_partUpd_but hf⟩

theorem EvtFrame.counts (h : EvtFrame s t) (n : Nat) : Counts n s t := by
  obtain ⟨tab, irq, msix, rfl⟩ := h
  exact ⟨EvtFrame.reports ⟨tab, irq, msix, rfl⟩ n, rfl, rfl⟩

theorem noteDetail_counts (s : State) (n lo : Nat) : Counts n s (noteDetail s n lo) := partUpd_counts fun _ => rfl

theorem blockCommit_counts (s : State) (n status : Nat) : Counts n s (blockCommit s n status) :=
  partUpd_counts fun p => by
    split
    · rfl
    · split <;> rfl

theorem tileErr_counts (s : State) (n status source lo hi : Nat) : Counts n s (tileErr s n status source lo hi) :=
  (((errLog_frame s _ _ _ _ _ _).counts n).trans (noteDetail_counts _ n lo)).trans (blockCommit_counts _ n status)

theorem tileSramUe_counts (s : State) (n source lo : Nat) : Counts n s (tileSramUe s n source lo) :=
  Counts.trans ⟨tileSet_num_reports s n _, by rw [tileAt_tileSet_self], rfl⟩ (tileErr_counts _ n _ _ _ _)

theorem tileReadUe_counts (s : State) (n : Nat) (reader : SramWord → Option Nat) : Counts n s (tileReadUe s n reader) :=
  .foldl (fun s w => by
    cases reader w with
    | none => exact .refl n s
    | some k => exact tileSramUe_counts s n k _) _ s

theorem noteS_counts (s : State) (n : Nat) (is : List Nat) : Counts n s (noteS s n is) := tileReadUe_counts s n _

theorem noteLatch_counts (s : State) (n source : Nat) (tds xs : List Nat) : Counts n s (noteLatch s n source tds xs) :=
  tileReadUe_counts s n _

theorem Counts.seedOf_eq (h : Counts n s t) : seedOf t n = seedOf s n := by
  have hseed := h.part_field Part.seed (fun _ => rfl)
  unfold seedOf
  revert hseed
  cases partOf s n <;> cases partOf t n <;> simp

/-! ### What a command latches (R110) -/

/-- An S register reads the same in two states whose tiles and partitions agree on what it reads (Table 6-3). -/
theorem sRead_congr (hp : (partOf t n).map partBut = (partOf s n).map partBut) (hs : (tileAt t n).stepCopy = (tileAt s n).stepCopy)
    (hl : (tileAt t n).plate.loops = (tileAt s n).plate.loops) (hu : (tileAt t n).num.ue = (tileAt s n).num.ue) (r : Regs) (i : Nat) :
    sRead t n r i = sRead s n r i := by
  simp only [sRead, lidx, hs, hl, hu]
  revert hp
  cases partOf s n with
  | none => cases partOf t n <;> simp
  | some p =>
    cases partOf t n with
    | none => simp
    | some q =>
      intro hq
      obtain ⟨_, _, rfl⟩ := partBut_eq_iff.mp (Option.some.inj hq)
      rfl

/-- What a command latches depends on the stroke's registers, its address, the copy of STEP, the loops, the uncorrectable words and the
partition. -/
theorem latch_congr (hp : (partOf t n).map partBut = (partOf s n).map partBut) (hr : strokeRegs (tileAt t n) = strokeRegs (tileAt s n))
    (hs : (tileAt t n).stepCopy = (tileAt s n).stepCopy) (hpc : (tileAt t n).plate.pc = (tileAt s n).plate.pc)
    (hl : (tileAt t n).plate.loops = (tileAt s n).plate.loops) (hu : (tileAt t n).num.ue = (tileAt s n).num.ue)
    (tds xs : List Nat) (sr : Nat) : latch t n tds xs sr = latch s n tds xs sr := by
  have htd : tdEff (tileAt t n) = tdEff (tileAt s n) := by
    funext r i
    simp only [tdEff, hu]
  have hx : lanes (tileAt t n) = lanes (tileAt s n) := by
    funext r i
    simp only [lanes, xEff, hu]
  simp only [latch, hr, hs, hpc, htd, hx, sRead_congr hp hs hl hu]

/-- In the state that a ready slot meets, and after its reports, a command latches what stood when the slot issued. -/
theorem latch_counts {slots : List Nat} (h : slotReady s n slots = true) (hc : Counts n (slotOpened s n slots) t) (tds xs : List Nat) (sr : Nat) :
    latch t n tds xs sr = latch s n tds xs sr := by
  have hx := tileAt_slotOpened_ready h
  have hy := hc.reports.leaves.2
  have hp : partOf (slotOpened s n slots) n = partOf s n := by
    simp only [slotReady, Bool.and_eq_true, Bool.not_eq_true'] at h
    obtain ⟨-, hlost⟩ := h
    exact congrArg (partFind · n) (slotOpened_parts hlost)
  rw [hx] at hy
  refine latch_congr (hc.part.trans (by rw [hp])) (by rw [hy]; rfl) (by rw [hy]; rfl) (by rw [hy]; rfl) (by rw [hy]; rfl) ?_ tds xs sr
  rw [hc.ue, hx]
  rfl

end

end Sys2Proof.Machine
end

section
/-! PROOF. A WLOAD, STREAM or DRAIN as its slot issues (O20): dropped with a record, waiting in its path's pending register, or in flight. -/
namespace Sys2Proof.Machine
open Sys2Proof

section
variable {s t u : State} {n : Nat} {op : PathOp}

/-! ### A command that is dropped -/

@[simp] theorem unitAt_partUpd (s : State) (n : Nat) (f : Part → Part) (v : UnitId) : unitAt (partUpd s n f) v = unitAt s v := by
  unfold partUpd
  split <;> rfl

theorem unitAt_errLog_self (s : State) (v : UnitId) (status source lo hi : Nat) (ctx : Option Nat) :
    unitAt (errLog s v status source lo hi ctx) v = errRecord (unitAt s v) status source lo hi ctx := by
  simp [errLog]

/-- A record is latched, or counted beside the one held (R23). -/
theorem errRecord_evt (x : Unit) (status source lo hi : Nat) (ctx : Option Nat) :
    (errRecord x status source lo hi ctx).evt.getLsbD 3 = true ∨ (errRecord x status source lo hi ctx).evt.getLsbD 4 = true := by
  unfold errRecord
  split
  · exact .inr (by simp)
  · exact .inl (by simp)

theorem unitAt_tileErr_self (s : State) (n status source lo hi : Nat) :
    unitAt (tileErr s n status source lo hi) (.tile n) = errRecord (unitAt s (.tile n)) status source lo hi (partCtx s n) := by
  rw [tileErr, blockCommit, noteDetail, unitAt_partUpd, unitAt_partUpd, unitAt_errLog_self]

theorem droppedBy_tileErr {slots : List Nat} (h : Leaves n s u (opened slots (tileAt s n))) (status source lo hi : Nat) :
    droppedBy s (tileErr u n status source lo hi) n slots := by
  refine ⟨Leaves.slotLeaves (f := id) (h.reports (tileErr_reports u n status source lo hi)), ?_⟩
  rw [unitAt_tileErr_self]
  exact errRecord_evt _ _ _ _ _ _

/-! ### The checks at issue (R472) -/

/-- A command that breaks a check or finds its path full is answered with an error; else its path takes it. -/
theorem issueLocal_cases (s : State) (n : Nat) (p : PathId) (c : PathCmd) (named : List (Nat × Bool)) (engine status : Nat) (own : Option Nat)
    (ovr : Nat) :
    (((firstBad c.lat named (descLocalOk c.lat)).isNone = false ∨ (firstAlias c.lat named).isNone = false ∨ own.isNone = false ∨
        pathFull (pathOf (tileAt s n) p) = true) ∧
      ∃ st source reg, issueLocal s n p c named engine status own ovr = tileErr s n st source c.lat.pc reg) ∨
    (firstBad c.lat named (descLocalOk c.lat) = none ∧ firstAlias c.lat named = none ∧ own = none ∧
      pathFull (pathOf (tileAt s n) p) = false ∧ issueLocal s n p c named engine status own ovr = takeLocal s n p c) := by
  unfold issueLocal descFault
  cases hbad : firstBad c.lat named (descLocalOk c.lat) with
  | some r => exact .inl ⟨.inl rfl, _, _, _, rfl⟩
  | none =>
    cases halias : firstAlias c.lat named with
    | some r => exact .inl ⟨.inr (.inl rfl), _, _, _, rfl⟩
    | none =>
      cases hown : own with
      | some k => exact .inl ⟨.inr (.inr (.inl rfl)), _, _, _, rfl⟩
      | none =>
        cases hfull : pathFull (pathOf (tileAt s n) p) with
        | true => exact .inl ⟨.inr (.inr (.inr rfl)), _, _, _, rfl⟩
        | false => exact .inr ⟨rfl, rfl, rfl, rfl, rfl⟩

/-- The state in which a command is checked: its slot is open and what it latches is reported. -/
structure LatchedIn (s : State) (n : Nat) (op : PathOp) (u : State) : Prop where
  ready : slotReady s n (slotsBy op) = true
  counts : Counts n (slotOpened s n (slotsBy op)) u

theorem LatchedIn.leaves (h : LatchedIn s n op u) : Leaves n s u (opened (slotsBy op) (tileAt s n)) :=
  slotOpened_leaves.reports h.counts.reports

theorem LatchedIn.tile (h : LatchedIn s n op u) :
    tileAt u n = { opened (slotsBy op) (tileAt s n) with num := (tileAt u n).num } := h.leaves.2

theorem LatchedIn.seed (h : LatchedIn s n op u) : seedOf u n = seedOf s n := by
  obtain ⟨hready, hcounts⟩ := h
  simp only [slotReady, Bool.and_eq_true, Bool.not_eq_true'] at hready
  obtain ⟨-, hlost⟩ := hready
  have hparts : partOf (slotOpened s n (slotsBy op)) n = partOf s n := congrArg (partFind · n) (slotOpened_parts hlost)
  rw [hcounts.seedOf_eq, seedOf, seedOf, hparts]

theorem LatchedIn.latch_eq (h : LatchedIn s n op u) (tds xs : List Nat) (sr : Nat) : latch u n tds xs sr = latch s n tds xs sr :=
  latch_counts h.ready h.counts tds xs sr

theorem LatchedIn.noteLatch (h : LatchedIn s n op u) (source : Nat) (tds xs : List Nat) : LatchedIn s n op (noteLatch u n source tds xs) :=
  ⟨h.ready, h.counts.trans (noteLatch_counts u n source tds xs)⟩

theorem pathOf_opened (slots : List Nat) (x : Tile) (num : NumRegs) (p : PathId) :
    pathOf { opened slots x with num := num } p = pathOf x p := by
  cases p <;> rfl

theorem LatchedIn.path (h : LatchedIn s n op u) (p : PathId) : pathOf (tileAt u n) p = pathOf (tileAt s n) p := by
  rw [h.tile, pathOf_opened]

/-! ### A path takes a command (R91) -/

theorem pathOf_pathPut_self (x : Tile) (p : PathId) (v : Path) : pathOf (pathPut x p v) p = v := by
  cases p <;> simp [pathOf, pathPut, strAt]

theorem pathPut_num (x : Tile) (num : NumRegs) (p : PathId) (v : Path) :
    pathPut { x with num := num } p v = { pathPut x p v with num := num } := by
  cases p <;> rfl

theorem sramHw_eq (x : Tile) (hw : HwErr) : sramHw x hw = { x with num := (sramHw x hw).num } := by
  unfold sramHw
  split <;> rfl

theorem pathPut_flight (x : Tile) (p : PathId) (v : Path) : (pathPut x p v).flight = x.flight := by cases p <;> rfl

theorem pathPut_mon (x : Tile) (p : PathId) (v : Path) : (pathPut x p v).mon = x.mon := by cases p <;> rfl

/-- The running command is given and the flight appended; beside them only check registers differ. -/
theorem flightStart_eq (x : Tile) (p : PathId) (c : PathCmd) (seed tag split : Nat) (hw : HwErr) :
    flightStart x p c seed tag split hw =
      { pathPut x p { pathOf x p with run := some c } with
        flight := (pathPut x p { pathOf x p with run := some c }).flight ++ [{ path := p, cmd := c, seed := seed, tag := tag, split := split }],
        num := (flightStart x p c seed tag split hw).num } := by
  unfold flightStart
  dsimp only
  rw [sramHw_eq]

theorem waitsOn_takeLocal (h : LatchedIn s n op u) (hrun : (pathOf (tileAt s n) (pathBy op)).run.isSome = true) :
    waitsOn s (takeLocal u n (pathBy op) (cmdOf s n op)) n op := by
  have hbusy : (pathOf (tileAt u n) (pathBy op)).run.isNone = false := by
    rw [h.path]
    simpa using hrun
  have htake : takeLocal u n (pathBy op) (cmdOf s n op) =
      tileSet u n (pathPut (tileAt u n) (pathBy op) { pathOf (tileAt u n) (pathBy op) with pend := some (cmdOf s n op) }) := by
    simp [takeLocal, hbusy]
  refine Leaves.slotLeaves ⟨h.leaves.1.trans ?_, ?_⟩
  · rw [htake]
    exact tileSet_onlyTile u n _
  · rw [htake, tileAt_tileSet_self, h.path, h.tile, pathPut_num]
    rfl

theorem pathOf_num (x : Tile) (num : NumRegs) (p : PathId) : pathOf { x with num := num } p = pathOf x p := by cases p <;> rfl

theorem pathOf_flight (x : Tile) (fs : List Flight) (p : PathId) : pathOf { x with flight := fs } p = pathOf x p := by cases p <;> rfl

theorem Leaves.path {y : Tile} (h : Leaves n s t y) (p : PathId) : pathOf (tileAt t n) p = pathOf y p := by rw [h.2, pathOf_num]

theorem pathOf_flightStart_self (x : Tile) (p : PathId) (c : PathCmd) (seed tag split : Nat) (hw : HwErr) :
    pathOf (flightStart x p c seed tag split hw) p = { pathOf x p with run := some c } := by
  rw [flightStart, pathOf_flight, sramHw_eq, pathOf_num, pathOf_pathPut_self]

/-- The tile once the command has begun on its path. -/
def begun (s : State) (n : Nat) (op : PathOp) (hw : HwErr) (x : Tile) : Tile :=
  flightStart x (pathBy op) (cmdOf s n op) (seedOf s n) (freshFlight s n op).tag (freshFlight s n op).split hw

theorem beginsOn_begun (h : LatchedIn s n op u) (hw : HwErr) (es : List TileNote) :
    beginsOn s (tileNotes (tileSet u n (begun s n op hw (tileAt u n))) n es) n op := by
  have hset : Leaves n s (tileSet u n (begun s n op hw (tileAt u n))) (begun s n op hw (tileAt u n)) :=
    ⟨h.leaves.1.trans (tileSet_onlyTile u n _), by rw [tileAt_tileSet_self]⟩
  have hleaves := hset.reports (tileNotes_reports _ n es)
  generalize tileNotes _ _ _ = t at hleaves ⊢
  have hpath := (hleaves.path (pathBy op)).trans (pathOf_flightStart_self _ _ _ _ _ _ _)
  obtain ⟨honly, ht⟩ := hleaves
  rw [begun, flightStart_eq, h.path, h.tile, pathPut_num] at ht
  have hmon : (tileAt t n).mon = (pathPut (opened (slotsBy op) (tileAt s n)) (pathBy op)
      { pathOf (tileAt s n) (pathBy op) with run := some (cmdOf s n op) }).mon := by rw [ht]
  refine ⟨by rw [hpath], ?_, ⟨?_, honly.othersKept⟩, fun _ => hmon.trans (pathPut_mon _ _ _)⟩
  · rw [ht]
    exact congrArg (· ++ _) (pathPut_flight _ _ _)
  · rw [hmon]
    exact ht

theorem takeLocal_idle (h : LatchedIn s n op u) (hrun : (pathOf (tileAt s n) (pathBy op)).run = none) (c : PathCmd) :
    takeLocal u n (pathBy op) c = tileNotes (tileSet u n (pathBegin (seedOf s n) (pathBy op) c (tileAt u n)).1) n
      (pathBegin (seedOf s n) (pathBy op) c (tileAt u n)).2 := by
  simp [takeLocal, h.path, hrun, h.seed]

/-- What its effective issue makes of a command on an idle path: a flight, or a drop (R105, R178). -/
structure Effective (s : State) (n : Nat) (op : PathOp) (u : State) : Prop where
  starts : mayBegin s n op = true → ∃ hw es, pathBegin (seedOf s n) (pathBy op) (cmdOf s n op) (tileAt u n) =
    (begun s n op hw (tileAt u n), es)
  drops : mayBegin s n op = false → ∃ status source, pathBegin (seedOf s n) (pathBy op) (cmdOf s n op) (tileAt u n) =
    (tileAt u n, [.fault status source (cmdOf s n op).lat.pc])

theorem effective_stream (f : StreamOp) (h : LatchedIn s n (.stream f) u) : Effective s n (.stream f) u := by
  have hok : streamOk (tileAt u n) (latDesc (latchedBy s n (.stream f)) f.td) f = mayBegin s n (.stream f) := by
    rw [h.tile]
    rfl
  have hheld : bankTag (tileAt u n) f.bank = bankTag (tileAt s n) f.bank ∧ bankSplit (tileAt u n) f.bank = bankSplit (tileAt s n) f.bank := by
    rw [h.tile]
    exact ⟨rfl, rfl⟩
  obtain ⟨htag, hsplit⟩ := hheld
  constructor <;> intro hm <;> rw [← hok] at hm <;> simp only [pathBegin, cmdOf, hm, htag, hsplit]
  · exact ⟨_, _, rfl⟩
  · exact ⟨_, _, rfl⟩

/-- The three ways of a local command, from the state in which it is checked. -/
theorem issuesLocal_of {c : Instr} {own : Option Nat} {engine status ovr : Nat} (hown : own.isNone = ownClean s n op)
    (hexec : slotReady s n (slotsBy op) = true → ∃ u, LatchedIn s n op u ∧ Effective s n op u ∧
      exec c s = .next (issueLocal u n (pathBy op) (cmdOf s n op) (namedBy op) engine status own ovr)) :
    issuesLocal c n op s := by
  intro hready
  obtain ⟨u, hu, ⟨hstarts, hdrops⟩, hexec⟩ := hexec hready
  have hclean : localClean s n op = ((firstBad (cmdOf s n op).lat (namedBy op) (descLocalOk (cmdOf s n op).lat)).isNone &&
    (firstAlias (cmdOf s n op).lat (namedBy op)).isNone) := rfl
  have hpath := hu.path (pathBy op)
  obtain ⟨hwhy, st, source, reg, herr⟩ | ⟨hbad, halias, hnone, hfull, htake⟩ := issueLocal_cases u n (pathBy op) (cmdOf s n op) (namedBy op)
    engine status own ovr
  · have hfails : localClean s n op = false ∨ ownClean s n op = false ∨ pathFull (pathOf (tileAt s n) (pathBy op)) = true := by
      rw [hclean, ← hown, ← hpath]
      obtain h | h | h | h := hwhy <;> simp [h]
    refine ⟨fun hc ho _ hrun => ?_, fun hc ho _ hpend => ?_, fun _ => ⟨_, hexec.trans (congrArg _ herr), droppedBy_tileErr hu.leaves _ _ _ _⟩⟩
    · simp [hc, ho, pathFull, hrun] at hfails
    · simp [hc, ho, pathFull, hpend] at hfails
  · have hpasses : localClean s n op = true ∧ ownClean s n op = true ∧ pathFull (pathOf (tileAt s n) (pathBy op)) = false := by
      rw [hclean, ← hown, ← hpath]
      simp [hbad, halias, hnone, hfull]
    obtain ⟨hc, ho, hf⟩ := hpasses
    rw [htake] at hexec
    refine ⟨fun _ _ hm hrun => ?_, fun _ _ hrun _ => ⟨_, hexec, waitsOn_takeLocal hu hrun⟩, fun hwhy => ?_⟩
    · obtain ⟨hw, es, hbegin⟩ := hstarts hm
      refine ⟨_, hexec, ?_⟩
      rw [takeLocal_idle hu hrun, hbegin]
      exact beginsOn_begun hu hw es
    · obtain ⟨hrun, hm⟩ : (pathOf (tileAt s n) (pathBy op)).run = none ∧ mayBegin s n op = false := by
        simpa [hc, ho, hf] using hwhy
      obtain ⟨st, source, hbegin⟩ := hdrops hm
      refine ⟨_, hexec, ?_⟩
      rw [takeLocal_idle hu hrun, hbegin]
      exact droppedBy_tileErr (u := tileSet u n (tileAt u n)) (hu.leaves.reports (tileSet_num_reports u n _)) _ _ _ _

/-! ### WLOAD, STREAM and DRAIN -/

theorem own_isNone (b : Bool) (k : Nat) : (if b then none else some k : Option Nat).isNone = b := by cases b <;> rfl

theorem latchedIn_slotOpened (h : slotReady s n (slotsBy op) = true) : LatchedIn s n op (slotOpened s n (slotsBy op)) := ⟨h, .refl n _⟩

/-- The ways of a command of the array paths, whatever its slot reports (`note`) before the command latches its registers. -/
theorem issuesLocal_array {c : Instr} {note : State → State} {xs : List Nat} {sr ovr : Nat} {ok : Latched → Bool}
    (hexec : exec c s = .next (slotDo s n (slotsBy op) true (fun r => issueArray (note r) n (pathBy op) (namedBy op) xs sr ovr ok op)))
    (hlat : latch s n ((namedBy op).map Prod.fst) xs sr = latchedBy s n op) (hok : ok (latchedBy s n op) = ownClean s n op)
    (hnote : ∀ u, LatchedIn s n op u → LatchedIn s n op (note u)) (heff : ∀ u, LatchedIn s n op u → Effective s n op u) :
    issuesLocal c n op s := by
  refine issuesLocal_of (own := if ownClean s n op then none else some 4) (engine := 0) (status := stArray) (ovr := ovr) (own_isNone _ 4)
    fun h => ?_
  have hu := hnote _ (latchedIn_slotOpened h)
  have hl := hu.noteLatch 0 ((namedBy op).map Prod.fst) xs
  refine ⟨_, hl, heff _ hl, ?_⟩
  rw [hexec, slotDo_ready h]
  simp only [issueArray, hu.latch_eq, hlat, hok]
  rfl

theorem issuesLocal_wload (n : Nat) (f : WloadOp) (s : State) : issuesLocal (.wload n f true) n (.wload f) s :=
  issuesLocal_array (note := id) rfl rfl rfl (fun _ hu => hu) fun _ _ => ⟨fun _ => ⟨f.hw, [], rfl⟩, nofun⟩

theorem issuesLocal_stream (n : Nat) (f : StreamOp) (s : State) : issuesLocal (.stream n f true) n (.stream f) s :=
  issuesLocal_array (note := id) rfl rfl rfl (fun _ hu => hu) fun _ => effective_stream f

/-- The scalar scale of a DRAIN is reported before its descriptors and origins are. -/
theorem latchedIn_scaleNoted (f : DrainOp) (u : State) (h : LatchedIn s n (.drain f) u) :
    LatchedIn s n (.drain f) (if f.scale = 1 then noteS u n [f.scaleSrc] else u) := by
  split
  · exact ⟨h.ready, h.counts.trans (noteS_counts u n _)⟩
  · exact h

theorem issuesLocal_drain (n : Nat) (f : DrainOp) (s : State) : issuesLocal (.drain n f true) n (.drain f) s :=
  issuesLocal_array (note := fun u => if f.scale = 1 then noteS u n [f.scaleSrc] else u) rfl rfl rfl (latchedIn_scaleNoted f)
    fun _ _ => ⟨fun _ => ⟨f.hw, [], rfl⟩, nofun⟩

end

end Sys2Proof.Machine
end

section
/-! PROOF. Accumulator entries and weight registers, read after they are written (O20; R92, R97). -/
namespace Sys2Proof.Machine
open Sys2Proof

section
variable {x : Tile}

/-- Of writes to different keys the one to a key stands. -/
theorem foldl_put_read {σ α ι β : Type} {put : σ → α → σ} {read : σ → β} {key : α → ι} {l : List α} {a : α} {v : β}
    (hself : ∀ s, read (put s a) = v) (hother : ∀ s, ∀ b ∈ l, key b ≠ key a → read (put s b) = read s) (ha : a ∈ l)
    (hl : (l.map key).Nodup) (s : σ) : read (l.foldl put s) = v := by
  induction l generalizing s with
  | nil => cases ha
  | cons b r ih =>
    obtain ⟨hb, hr⟩ := List.nodup_cons.mp hl
    obtain rfl | ha := List.mem_cons.mp ha
    · have hkept : ∀ c ∈ r, key c ≠ key a := fun c hc h => hb (h ▸ List.mem_map_of_mem hc)
      exact List.foldlRecOn r put (motive := fun s => read s = v) (hself s)
        (fun s hs c hc => (hother s c (.tail _ hc) (hkept c hc)).trans hs)
    · exact ih (fun s c hc => hother s c (.tail _ hc)) ha hr _

/-! ### Accumulator words -/

/-- The word is uncorrectable. -/
def accLost (x : Tile) (a w : Nat) : Bool := x.num.ue.contains (.acc a w)

theorem accWord_eq (x : Tile) (a w : Nat) : accWord x a w = if accLost x a w then 0 else mapGet 0 x.arr.acc (a * 16384 + w) := rfl

theorem accLost_accPut (x : Tile) (a w : Nat) (v : W32) (b k : Nat) :
    accLost (accPut x a w v) b k = (accLost x b k && !(b == a && k == w)) := by
  rw [Bool.eq_iff_iff]
  simp only [accLost, accPut, List.contains_iff_mem, List.mem_filter, Bool.and_eq_true, Bool.not_eq_true', decide_eq_true_eq, ne_eq,
    SramWord.acc.injEq]
  refine and_congr_right fun _ => ?_
  simp

theorem mapGet_accPut (x : Tile) (a w : Nat) (v : W32) (k : Nat) :
    mapGet 0 (accPut x a w v).arr.acc k = if k = a * 16384 + w then v else mapGet 0 x.arr.acc k := by
  have hread : mapFind (accPut x a w v).arr.acc k = if k = a * 16384 + w then (if v = 0 then none else some v) else mapFind x.arr.acc k := by
    by_cases hk : k = a * 16384 + w
    · by_cases hv : v = 0 <;> simp only [accPut, hk, hv, if_true, if_false, mapFind_mapDel_self, mapFind_mapSet_self]
    · by_cases hv : v = 0 <;> simp only [accPut, hk, hv, if_true, if_false, mapFind_mapDel_ne _ hk, mapFind_mapSet_ne _ _ hk]
  rw [mapGet, mapGet, hread]
  split
  · split
    · rename_i hv
      exact hv.symm
    · rfl
  · rfl

theorem accWord_accPut_self (x : Tile) (a w : Nat) (v : W32) : accWord (accPut x a w v) a w = v := by
  have hlost : accLost (accPut x a w v) a w = false := by simp [accLost_accPut]
  rw [accWord_eq, hlost, mapGet_accPut, if_neg Bool.false_ne_true, if_pos rfl]

theorem accWord_accPut_ne (x : Tile) {a w k : Nat} (v : W32) (h : k ≠ w) : accWord (accPut x a w v) a k = accWord x a k := by
  have hlost : accLost (accPut x a w v) a k = accLost x a k := by simp [accLost_accPut, h]
  have hkey : a * 16384 + k ≠ a * 16384 + w := by omega
  rw [accWord_eq, accWord_eq, hlost, mapGet_accPut, if_neg hkey]

/-- Zero written anywhere leaves every word that reads zero. -/
theorem accWord_accPut_zero {a w b k : Nat} (h : accWord x b k = 0) : accWord (accPut x a w 0) b k = 0 := by
  by_cases he : b = a ∧ k = w
  · obtain ⟨rfl, rfl⟩ := he
    exact accWord_accPut_self x b k 0
  · have hlost : accLost (accPut x a w 0) b k = accLost x b k := by
      rw [accLost_accPut]
      simpa using fun _ => not_and_or.mp he
    rw [accWord_eq] at h ⊢
    rw [hlost, mapGet_accPut]
    split
    · rfl
    · split
      · rfl
      · simpa [*] using h

/-! ### Accumulator entries (R97) -/

theorem accEntry_eq_zero_iff (x : Tile) (acc64 : Bool) (a row n : Nat) : accEntry x acc64 a row n = 0 ↔
    if acc64 then accWord x a (2 * (row % 256) * 32 + n) = 0 ∧ accWord x a ((2 * (row % 256) + 1) * 32 + n) = 0
      else accWord x a (row % 512 * 32 + n) = 0 := by
  have hz (v : W32) : v.toNat = 0 ↔ v = 0 := ⟨fun h => BitVec.eq_of_toNat_eq (by simpa using h), fun h => by simp [h]⟩
  cases acc64 <;> simp [accEntry, hz, Nat.shiftLeft_eq]

theorem accEntry_accEntryPut_self (x : Tile) (acc64 : Bool) (a row n : Nat) {v : Nat} (h : v < 2 ^ (if acc64 then 64 else 32)) :
    accEntry (accEntryPut x acc64 a row n v) acc64 a row n = v := by
  cases acc64 with
  | false =>
    simp only [accEntry, accEntryPut, Bool.false_eq_true, if_false, accWord_accPut_self, BitVec.toNat_ofNat] at h ⊢
    exact Nat.mod_eq_of_lt h
  | true =>
    have hne : 2 * (row % 256) * 32 + n ≠ (2 * (row % 256) + 1) * 32 + n := by omega
    simp only [if_true] at h
    simp only [accEntry, accEntryPut, if_true, accWord_accPut_self, accWord_accPut_ne _ _ hne, BitVec.toNat_ofNat,
      Nat.shiftLeft_eq, Nat.shiftRight_eq_div_pow]
    omega

theorem accEntry_accEntryPut_ne (x : Tile) (acc64 : Bool) (a row : Nat) {m n : Nat} (v : Nat) (hm : m < 32) (hn : n < 32) (h : m ≠ n) :
    accEntry (accEntryPut x acc64 a row m v) acc64 a row n = accEntry x acc64 a row n := by
  cases acc64 with
  | false =>
    have hne : row % 512 * 32 + n ≠ row % 512 * 32 + m := by omega
    simp only [accEntry, accEntryPut, Bool.false_eq_true, if_false, accWord_accPut_ne _ _ hne]
  | true =>
    have hlo : ∀ r, 2 * r * 32 + n ≠ 2 * r * 32 + m ∧ 2 * r * 32 + n ≠ (2 * r + 1) * 32 + m := fun r => by omega
    have hhi : ∀ r, (2 * r + 1) * 32 + n ≠ 2 * r * 32 + m ∧ (2 * r + 1) * 32 + n ≠ (2 * r + 1) * 32 + m := fun r => by omega
    simp only [accEntry, accEntryPut, if_true, accWord_accPut_ne _ _ (hlo _).1, accWord_accPut_ne _ _ (hlo _).2,
      accWord_accPut_ne _ _ (hhi _).1, accWord_accPut_ne _ _ (hhi _).2]

theorem accEntry_accEntryPut_zero {acc64 : Bool} {a b row r m n : Nat} (h : accEntry x acc64 b r n = 0) :
    accEntry (accEntryPut x acc64 a row m 0) acc64 b r n = 0 := by
  rw [accEntry_eq_zero_iff] at h ⊢
  cases acc64 with
  | false => exact accWord_accPut_zero h
  | true => exact ⟨accWord_accPut_zero (accWord_accPut_zero h.1), accWord_accPut_zero (accWord_accPut_zero h.2)⟩

/-! ### Accumulator rows -/

theorem map_snd_zip_range (vs : List Nat) (k : Nat) (h : vs.length = k) : (vs.zip (List.range k)).map Prod.snd = List.range k :=
  List.map_snd_zip (by simp [h])

/-- A row written reads as written. -/
theorem accEntry_accRowPut (x : Tile) (acc64 : Bool) (a row : Nat) {vs : List Nat} {n : Nat} (hl : vs.length = 32) (hn : n < 32)
    (hv : vs.getD n 0 < 2 ^ (if acc64 then 64 else 32)) : accEntry (accRowPut acc64 a row vs x) acc64 a row n = vs.getD n 0 := by
  have hkeys := map_snd_zip_range vs 32 hl
  have hlt : ∀ e ∈ vs.zip (List.range 32), e.2 < 32 := fun e he => List.mem_range.mp (hkeys ▸ List.mem_map_of_mem he)
  have hmem : (vs.getD n 0, n) ∈ vs.zip (List.range 32) := by
    refine List.mem_iff_getElem.mpr ⟨n, by simp [hl, hn], ?_⟩
    simp [List.getElem_zip, List.getD_eq_getElem?_getD, List.getElem?_eq_getElem (hl ▸ hn)]
  refine foldl_put_read (read := fun t => accEntry t acc64 a row n) (key := Prod.snd) (fun s => ?_) (fun s e he hne => ?_) hmem ?_ x
  · exact accEntry_accEntryPut_self s acc64 a row n hv
  · exact accEntry_accEntryPut_ne s acc64 a row e.1 (hlt e he) hn hne
  · rw [hkeys]
    exact List.nodup_range

theorem accEntry_accRowPut_zeros {acc64 : Bool} {a b row r n : Nat} (h : accEntry x acc64 b r n = 0) :
    accEntry (accRowPut acc64 a row (List.replicate 32 0) x) acc64 b r n = 0 :=
  List.foldlRecOn _ _ (motive := fun t => accEntry t acc64 b r n = 0) h fun t ht e he => by
    rw [List.eq_of_mem_replicate (List.of_mem_zip he).1]
    exact accEntry_accEntryPut_zero ht

/-- The entries that a clearing drain cycle reads become zero (R98). -/
theorem accEntry_drainClear (x : Tile) {f : DrainOp} {c n : Nat} {r : Nat × List (Nat × Nat)} {e : Nat × Nat} (hclr : f.clr = true)
    (hr : r ∈ drainRows f c) (he : e ∈ r.2) (hn : n < 32) : accEntry (drainClear f c x) f.acc64 e.1 (f.accRow + c) n = 0 := by
  have hrow : ∀ (l : List (Nat × Nat)) (t : Tile), accEntry t f.acc64 e.1 (f.accRow + c) n = 0 ∨ e ∈ l →
      accEntry (l.foldl (fun t a => accRowPut f.acc64 a.1 (f.accRow + c) (List.replicate 32 0) t) t) f.acc64 e.1 (f.accRow + c) n = 0 := by
    intro l
    induction l with
    | nil => exact fun t ht => ht.resolve_right List.not_mem_nil
    | cons b l ih =>
      refine fun t ht => ih _ ?_
      obtain ht | ht := ht
      · exact .inl (accEntry_accRowPut_zeros ht)
      · obtain rfl | ht := List.mem_cons.mp ht
        · refine .inl ((accEntry_accRowPut t f.acc64 e.1 _ (by simp) hn ?_).trans ?_) <;> rw [List.getD_replicate _ hn]
          exact Nat.two_pow_pos _
        · exact .inr ht
  rw [drainClear, if_pos hclr]
  generalize drainRows f c = rows at hr
  induction rows generalizing x with
  | nil => cases hr
  | cons b rows ih =>
    obtain rfl | hr := List.mem_cons.mp hr
    · exact List.foldlRecOn rows _ (motive := fun t => accEntry t f.acc64 e.1 (f.accRow + c) n = 0) (hrow _ _ (.inr he))
        fun t ht b _ => hrow _ _ (.inl ht)
    · exact ih _ hr

/-! ### Weight registers (R92) -/

theorem pieceKey_inj {bank a k n p m q : Nat} (hp : p < 3) (hq : q < 3) (h : pieceKey bank a k n p = pieceKey bank a k m q) :
    n = m ∧ p = q := by
  unfold pieceKey at h
  omega

/-- The three pieces of a cell in its registers. -/
def cellPieces (bank a k n : Nat) (cell : List FVal) (m : Map FVal) : Map FVal :=
  (List.range 3).foldl (fun m p => mapSet m (pieceKey bank a k n p) (cell.getD p (.fin false 0 0))) m

theorem mapGet_cellPieces (bank a k n : Nat) {p : Nat} (cell : List FVal) (m : Map FVal) (hp : p < 3) :
    mapGet (.fin false 0 0) (cellPieces bank a k n cell m) (pieceKey bank a k n p) = cell.getD p (.fin false 0 0) :=
  foldl_put_read (read := fun m : Map FVal => mapGet (.fin false 0 0) m (pieceKey bank a k n p)) (key := fun q : Nat => q)
    (fun _ => mapGet_mapSet_self _ _ _ _)
    (fun _ _ hq hne => mapGet_mapSet_ne _ _ _ fun h => hne (pieceKey_inj hp (List.mem_range.mp hq) h).2.symm)
    (List.mem_range.mpr hp) (by simpa using List.nodup_range) m

theorem mapGet_cellPieces_ne (bank a k : Nat) {n i p : Nat} (cell : List FVal) (m : Map FVal) (hp : p < 3) (h : i ≠ n) :
    mapGet (.fin false 0 0) (cellPieces bank a k i cell m) (pieceKey bank a k n p) = mapGet (.fin false 0 0) m (pieceKey bank a k n p) :=
  List.foldlRecOn _ _ (motive := fun m' => mapGet (.fin false 0 0) m' (pieceKey bank a k n p) = mapGet (.fin false 0 0) m (pieceKey bank a k n p))
    rfl fun _ hm _ hq => (mapGet_mapSet_ne _ _ _ fun he => h (pieceKey_inj hp (List.mem_range.mp hq) he).1.symm).trans hm

theorem mapGet_foldl_cellPieces (bank a k : Nat) (cells : List (List FVal)) (m : Map FVal) {l : List Nat} {n p : Nat} (hn : n ∈ l) (hl : l.Nodup)
    (hp : p < 3) : mapGet (.fin false 0 0) (l.foldl (fun m i => cellPieces bank a k i (cells.getD i []) m) m) (pieceKey bank a k n p) =
      (cells.getD n []).getD p (.fin false 0 0) :=
  foldl_put_read (read := fun m : Map FVal => mapGet (.fin false 0 0) m (pieceKey bank a k n p)) (key := fun i : Nat => i)
    (fun m => mapGet_cellPieces bank a k n _ m hp) (fun m _ _ hne => mapGet_cellPieces_ne bank a k _ m hp hne) hn (by simpa using hl) m

/-- A weight row entered reads as entered. -/
theorem mapGet_cellPut_pieces (x : Tile) (bank a k : Nat) (cells : List (List FVal)) (scales : List Nat) {n p : Nat} (hn : n < 32) (hp : p < 3) :
    mapGet (.fin false 0 0) (cellPut bank a k cells scales x).arr.pieces (pieceKey bank a k n p) =
      (cells.getD n []).getD p (.fin false 0 0) := by
  simpa only [cellPut, cellPieces] using mapGet_foldl_cellPieces bank a k cells x.arr.pieces (List.mem_range.mpr hn) List.nodup_range hp

end

end Sys2Proof.Machine
end

section
/-! PROOF. One cycle of a tile, part by part (O20, O23): what the turn of the paths, the accumulator writes, the commands in flight, and the
scratchpad and scalar writes of the cycle each leave of the array side. -/
namespace Sys2Proof.Machine
open Sys2Proof

/-- The array side of a tile: its arrays, which accumulator words are uncorrectable, its pipes, the commands in flight, and of the batcher
whether a batch is held and is to retire. -/
structure ArraySide where
  arr : Arrays
  lost : Nat → Nat → Bool
  pipe0 : Path
  pipe1 : Path
  flight : List Flight
  ready : Bool
  retire : Bool

def arraySide (x : Tile) : ArraySide :=
  { arr := x.arr, lost := accLost x, pipe0 := x.pipe0, pipe1 := x.pipe1, flight := x.flight, ready := x.bat.ready, retire := x.bat.retire }

/-- The accumulators, with the words that are uncorrectable. -/
def accSide (x : Tile) : Map W32 × (Nat → Nat → Bool) := (x.arr.acc, accLost x)

/-- The weight registers with their scales, and the tags and splits of the banks. -/
def cellSide (x : Tile) : Map FVal × Map Nat × Map Nat × Map Nat := (x.arr.pieces, x.arr.scales, x.arr.tag, x.arr.split)

/-- The paths whose commands run in tile cycles. -/
def pathSide (x : Tile) : List Path := localPaths.map (pathOf x)

section
variable {x y z : Tile} {seed : Nat} {fl : Flight}

theorem accSide_of_arraySide (h : arraySide x = arraySide y) : accSide x = accSide y :=
  congrArg (fun a : ArraySide => (a.arr.acc, a.lost)) h

theorem cellSide_of_arraySide (h : arraySide x = arraySide y) : cellSide x = cellSide y :=
  congrArg (fun a : ArraySide => (a.arr.pieces, a.arr.scales, a.arr.tag, a.arr.split)) h

theorem pathSide_of_arraySide (h : arraySide x = arraySide y) : pathSide x = pathSide y :=
  congrArg (fun a : ArraySide => [a.arr.stream, a.arr.weight, a.arr.drain, a.pipe0, a.pipe1]) h

theorem pathOf_of_pathSide {p : PathId} (h : pathSide x = pathSide y) (hp : p ∈ localPaths) : pathOf x p = pathOf y p :=
  List.map_inj_left.mp h p hp

theorem accEntry_of_accSide (h : accSide x = accSide y) (acc64 : Bool) (a row n : Nat) :
    accEntry x acc64 a row n = accEntry y acc64 a row n := by
  obtain ⟨hacc, hlost⟩ := Prod.mk.inj h
  have hword : ∀ k, accWord x a k = accWord y a k := fun k => by rw [accWord_eq, accWord_eq, hacc, hlost]
  simp only [accEntry, hword]

/-! ### The scratchpad and scalar writes that end a cycle -/

theorem contains_filter_of_pos {α : Type} [BEq α] [LawfulBEq α] (l : List α) (f : α → Bool) {a : α} (h : f a = true) :
    (l.filter f).contains a = l.contains a := by
  rw [Bool.eq_iff_iff]
  simp [List.mem_filter, h]

/-- Uncorrectable words of other memories may be replaced. -/
theorem arraySide_of_ue {f : SramWord → Bool} (harr : y.arr = x.arr) (hpipes : y.pipe0 = x.pipe0 ∧ y.pipe1 = x.pipe1)
    (hflight : y.flight = x.flight) (hbat : y.bat = x.bat) (hue : y.num.ue = x.num.ue.filter f) (hf : ∀ a w, f (.acc a w) = true) :
    arraySide y = arraySide x := by
  have hlost : accLost y = accLost x := by
    funext a w
    rw [accLost, hue, contains_filter_of_pos _ _ (hf a w), accLost]
  rw [arraySide, arraySide, harr, hlost, hpipes.1, hpipes.2, hflight, hbat]

theorem arraySide_spWrite (x : Tile) (o : Map Byte) : arraySide (spWrite x o).1 = arraySide x :=
  arraySide_of_ue rfl ⟨rfl, rfl⟩ rfl rfl rfl fun _ _ => rfl

theorem arraySide_sregPut (x : Tile) (i : Nat) (v : W64) : arraySide (sregPut x i v) = arraySide x := by
  unfold sregPut
  split
  · rfl
  · exact arraySide_of_ue rfl ⟨rfl, rfl⟩ rfl rfl rfl fun _ _ => decide_eq_true nofun

theorem arraySide_tdPut (x : Tile) (i : Nat) (v : BitVec 1024) : arraySide (tdPut x i v) = arraySide x :=
  arraySide_of_ue rfl ⟨rfl, rfl⟩ rfl rfl rfl fun _ _ => rfl

theorem arraySide_cfgWrite (x : Tile) (off : Nat) (v : W64) : arraySide (cfgWrite x off v) = arraySide x := by
  unfold cfgWrite
  dsimp only
  (repeat' split) <;> rfl

theorem arraySide_landOp (x : Tile) (op : DueOp) : arraySide (landOp x op).1 = arraySide x := by
  cases op with
  | sreg i v => exact arraySide_sregPut x i v
  | td i v => exact arraySide_tdPut x i v
  | sst a v => exact arraySide_spWrite x _
  | cfg off v => exact arraySide_cfgWrite x off v
  | _ => rfl

theorem arraySide_landOps (ops : List DueOp) (a : Tile × List SramWord) :
    arraySide (ops.foldl (fun (a : Tile × List SramWord) o => ((landOp a.1 o).1, a.2 ++ (landOp a.1 o).2)) a).1 = arraySide a.1 :=
  List.foldlRecOn ops _ (motive := fun (b : Tile × List SramWord) => arraySide b.1 = arraySide a.1) rfl
    (fun _ h o _ => (arraySide_landOp _ o).trans h)

theorem arraySide_partsPut (ps : List OutPart) (x : Tile) : arraySide (partsPut ps x).1 = arraySide x := by
  unfold partsPut
  refine List.foldlRecOn _ _ (motive := fun (a : Tile × List TileNote) => arraySide a.1 = arraySide x) ?_
    (fun _ h _ _ => (arraySide_spWrite _ _).trans h)
  dsimp only
  split <;> rfl

/-- The commands in flight, with what the turn of the paths has begun, have run their cycle. -/
def flightsRun (seed : Nat) (x : Tile) : List Flight × CycleAcc :=
  let s := pathsTurned seed x
  s.1.flight.foldl (flightCycle s.1 (streamWrites s.1.flight s.1))
    ([], { tile := streamWrites s.1.flight (drainClears s.1.flight s.1), notes := s.2 })

theorem arraySide_tileCycle (seed : Nat) (x : Tile) :
    arraySide (tileCycle seed x).1 = arraySide { (flightsRun seed x).2.tile with flight := (flightsRun seed x).1 } := by
  refine (arraySide_landOps _ _).trans ((arraySide_partsPut _ _).trans ?_)
  rfl

/-! ### The turn of the paths (R91) -/

/-- A flight that begins in this cycle. -/
def Flight.Fresh (fl : Flight) : Prop := fl.age = 0 ∧ fl.stages = []

/-- Arrays but for their paths. -/
def arrRest (a : Arrays) : Arrays := { a with stream := {}, weight := {}, drain := {} }

/-- The turn of paths: commands may have begun, and beside them only paths, check registers and monitor slots differ. -/
structure Turns (x y : Tile) : Prop where
  arr : arrRest y.arr = arrRest x.arr
  bat : y.bat = x.bat
  flight : ∃ new, y.flight = x.flight ++ new ∧ ∀ fl ∈ new, fl.Fresh

theorem Turns.of_kept (harr : arrRest y.arr = arrRest x.arr) (hbat : y.bat = x.bat) (hflight : y.flight = x.flight) : Turns x y :=
  ⟨harr, hbat, [], by rw [hflight, List.append_nil], fun _ h => absurd h List.not_mem_nil⟩

theorem Turns.refl (x : Tile) : Turns x x := .of_kept rfl rfl rfl

theorem Turns.trans (h : Turns x y) (k : Turns y z) : Turns x z := by
  obtain ⟨new, hf, hnew⟩ := h.flight
  obtain ⟨new', hf', hnew'⟩ := k.flight
  refine ⟨k.arr.trans h.arr, k.bat.trans h.bat, new ++ new', by rw [hf', hf, List.append_assoc], fun fl hfl => ?_⟩
  exact (List.mem_append.mp hfl).elim (hnew fl) (hnew' fl)

theorem Turns.arr_field (h : Turns x y) {α : Type} (f : Arrays → α) : f (arrRest y.arr) = f (arrRest x.arr) := congrArg f h.arr

theorem Turns.acc (h : Turns x y) : y.arr.acc = x.arr.acc := h.arr_field Arrays.acc

theorem Turns.cellSide (h : Turns x y) : cellSide y = cellSide x := h.arr_field fun a => (a.pieces, a.scales, a.tag, a.split)

theorem turns_pathPut {p : PathId} (v : Path) (hp : p ∈ localPaths) : Turns x (pathPut x p v) := by
  cases p with
  | unit k => simp [localPaths] at hp
  | _ => exact .of_kept rfl rfl rfl

theorem turns_flightStart {p : PathId} (hp : p ∈ localPaths) (c : PathCmd) (seed tag split : Nat) (hw : HwErr) :
    Turns x (flightStart x p c seed tag split hw) := by
  have hput := turns_pathPut (x := x) { pathOf x p with run := some c } hp
  refine hput.trans ?_
  rw [flightStart_eq]
  refine ⟨rfl, rfl, _, rfl, fun fl hfl => ?_⟩
  rw [List.mem_singleton.mp hfl]
  exact ⟨rfl, rfl⟩

theorem turns_monOpen (x : Tile) (l : Latched) (opc : Nat) (f : VxOp) : Turns x (monOpen x l opc f) := by
  unfold monOpen
  split
  · exact .refl x
  · exact .of_kept rfl rfl rfl

theorem turns_pathBegin {p : PathId} (hp : p ∈ localPaths) (seed : Nat) (c : PathCmd) (x : Tile) : Turns x (pathBegin seed p c x).1 := by
  unfold pathBegin
  split
  · exact turns_flightStart hp ..
  · split
    · exact turns_flightStart hp ..
    · exact .refl x
  · exact turns_flightStart hp ..
  · split
    · exact (turns_flightStart hp ..).trans (turns_monOpen ..)
    · exact .refl x
  · exact .refl x

theorem turns_pathTurn {p : PathId} (hp : p ∈ localPaths) (seed : Nat) (a : Tile × List TileNote) : Turns a.1 (pathTurn seed p a).1 := by
  unfold pathTurn
  dsimp only
  split
  · split
    · exact turns_pathPut _ hp
    · exact (turns_pathPut _ hp).trans (turns_pathBegin hp ..)
  · exact .refl _

theorem turns_pathsTurned (seed : Nat) (x : Tile) : Turns x (pathsTurned seed x).1 :=
  List.foldlRecOn localPaths _ (motive := fun (a : Tile × List TileNote) => Turns x a.1) (.refl x)
    (fun _ h _ hp => h.trans (turns_pathTurn hp seed _))

/-! ### Accumulator writes -/

/-- A tile but for its accumulators and uncorrectable words. -/
def butAcc (x : Tile) : Tile := { x with arr := { x.arr with acc := [] }, num := { x.num with ue := [] } }

theorem field_of_butAcc (h : butAcc x = butAcc y) {α : Type} (f : Tile → α) : f (butAcc x) = f (butAcc y) := congrArg f h

theorem cellSide_of_butAcc (h : butAcc x = butAcc y) : cellSide x = cellSide y := field_of_butAcc h cellSide

theorem pathSide_of_butAcc (h : butAcc x = butAcc y) : pathSide x = pathSide y := field_of_butAcc h pathSide

theorem butAcc_accEntryPut (x : Tile) (acc64 : Bool) (a row n v : Nat) : butAcc (accEntryPut x acc64 a row n v) = butAcc x := by
  unfold accEntryPut
  split <;> rfl

theorem butAcc_accRowPut (x : Tile) (acc64 : Bool) (a row : Nat) (vs : List Nat) : butAcc (accRowPut acc64 a row vs x) = butAcc x :=
  List.foldlRecOn _ _ (motive := fun t => butAcc t = butAcc x) rfl (fun _ h _ _ => (butAcc_accEntryPut ..).trans h)

theorem butAcc_drainClear (f : DrainOp) (c : Nat) (x : Tile) : butAcc (drainClear f c x) = butAcc x := by
  unfold drainClear
  split
  · exact List.foldlRecOn _ _ (motive := fun t => butAcc t = butAcc x) rfl fun _ h _ _ =>
      List.foldlRecOn _ _ (motive := fun t => butAcc t = butAcc x) h (fun _ h _ _ => (butAcc_accRowPut ..).trans h)
  · rfl

/-- The accumulator writes of one flight's stages due. -/
def streamAccWrite (t : Tile) (fl : Flight) : Tile :=
  match fl.cmd.op with
  | .stream f => (dueStages fl).foldl (fun t st => match st with
    | .upd a row vs _ => accRowPut f.acc64 a row vs t
    | _ => t) t
  | _ => t

theorem streamWrites_eq (fls : List Flight) (t : Tile) : streamWrites fls t = fls.foldl streamAccWrite t := rfl

/-- The clears of one flight's drain reads. -/
def drainAccWrite (t : Tile) (fl : Flight) : Tile :=
  match fl.cmd.op with
  | .drain f => if 1 ≤ fl.age && fl.age ≤ drainLen f then drainClear f (fl.age - 1) t else t
  | _ => t

theorem drainClears_eq (fls : List Flight) (t : Tile) : drainClears fls t = fls.foldl drainAccWrite t := rfl

theorem dueStages_fresh (h : fl.Fresh) : dueStages fl = [] := by simp [dueStages, h.2]

theorem streamAccWrite_fresh (t : Tile) (h : fl.Fresh) : streamAccWrite t fl = t := by
  unfold streamAccWrite
  split <;> simp [dueStages_fresh h]

theorem drainAccWrite_fresh (t : Tile) (h : fl.Fresh) : drainAccWrite t fl = t := by
  unfold drainAccWrite
  split <;> simp [h.1]

theorem streamAccWrite_of_not_writesAcc (t : Tile) (h : writesAcc fl = false) : streamAccWrite t fl = t := by
  unfold streamAccWrite
  split
  · rename_i f hop
    simp [writesAcc, hop] at h
  · rfl

theorem drainAccWrite_of_not_writesAcc (t : Tile) (h : writesAcc fl = false) : drainAccWrite t fl = t := by
  unfold drainAccWrite
  split
  · rename_i f hop
    simp only [writesAcc, hop] at h
    simp [drainClear, h]
  · rfl

theorem butAcc_streamAccWrite (t : Tile) (fl : Flight) : butAcc (streamAccWrite t fl) = butAcc t := by
  unfold streamAccWrite
  split
  · refine List.foldlRecOn _ _ (motive := fun u => butAcc u = butAcc t) rfl fun _ h st _ => ?_
    cases st with
    | upd a row vs fs => exact (butAcc_accRowPut ..).trans h
    | _ => exact h
  · rfl

theorem butAcc_drainAccWrite (t : Tile) (fl : Flight) : butAcc (drainAccWrite t fl) = butAcc t := by
  unfold drainAccWrite
  split
  · split
    · exact butAcc_drainClear ..
    · rfl
  · rfl

theorem butAcc_accWrites (fls : List Flight) (t : Tile) : butAcc (streamWrites fls (drainClears fls t)) = butAcc t := by
  have hdrain : butAcc (drainClears fls t) = butAcc t :=
    List.foldlRecOn fls drainAccWrite (motive := fun u => butAcc u = butAcc t) rfl (fun _ h _ _ => (butAcc_drainAccWrite ..).trans h)
  exact List.foldlRecOn fls streamAccWrite (motive := fun u => butAcc u = butAcc t) hdrain (fun _ h _ _ => (butAcc_streamAccWrite ..).trans h)

theorem foldl_fixed {α β : Type} {f : β → α → β} {l : List α} (h : ∀ b, ∀ a ∈ l, f b a = b) (b : β) : l.foldl f b = b :=
  List.foldlRecOn l f (motive := fun c => c = b) rfl (fun c hc a ha => (h c a ha).trans hc)

/-- Flights that begin in this cycle write no accumulators yet. -/
theorem accWrites_append_fresh (fls : List Flight) {new : List Flight} (h : ∀ fl ∈ new, fl.Fresh) (t : Tile) :
    streamWrites (fls ++ new) (drainClears (fls ++ new) t) = streamWrites fls (drainClears fls t) := by
  simp only [streamWrites_eq, drainClears_eq, List.foldl_append]
  rw [foldl_fixed (fun u fl hfl => streamAccWrite_fresh u (h fl hfl)), foldl_fixed (fun u fl hfl => drainAccWrite_fresh u (h fl hfl))]

theorem accWrites_of_not_writesAcc {fls : List Flight} (h : ∀ fl ∈ fls, writesAcc fl = false) (t : Tile) :
    streamWrites fls (drainClears fls t) = t := by
  simp only [streamWrites_eq, drainClears_eq]
  rw [foldl_fixed (fun u fl hfl => drainAccWrite_of_not_writesAcc u (h fl hfl)),
    foldl_fixed (fun u fl hfl => streamAccWrite_of_not_writesAcc u (h fl hfl))]

/-! ### The stages of a flight -/

/-- The array side but for the weight registers and the counts of rows. -/
def steadySide (x : Tile) : ArraySide :=
  { arraySide x with arr := { x.arr with pieces := [], scales := [], tag := [], split := [], rowCnt := 0, drainCnt := 0 } }

theorem steadySide_of_arraySide (h : arraySide x = arraySide y) : steadySide x = steadySide y :=
  congrArg (fun a : ArraySide => { a with arr := { a.arr with pieces := [], scales := [], tag := [], split := [], rowCnt := 0, drainCnt := 0 } }) h

theorem accSide_of_steadySide (h : steadySide x = steadySide y) : accSide x = accSide y :=
  congrArg (fun a : ArraySide => (a.arr.acc, a.lost)) h

theorem pathSide_of_steadySide (h : steadySide x = steadySide y) : pathSide x = pathSide y :=
  congrArg (fun a : ArraySide => [a.arr.stream, a.arr.weight, a.arr.drain, a.pipe0, a.pipe1]) h

/-- A row that takes a slot changes its queue alone. -/
theorem appendSlot_tile {r : AppendRow} {ws : List BitWrite} (h : appendSlot x r = some (y, ws)) :
    y = { x with bat := { x.bat with queues := y.bat.queues } } := by
  unfold appendSlot at h
  dsimp only at h
  split at h
  · cases h
    rfl
  · split at h
    · cases h
    · cases h
      rfl

theorem arraySide_appendRow (rank : Nat) (k : CycleAcc) (r : AppendRow) : arraySide (appendRow rank k r).tile = arraySide k.tile := by
  unfold appendRow
  dsimp only
  split
  · rfl
  · split
    · rename_i hslot
      rw [appendSlot_tile hslot]
      rfl
    · rfl

theorem arraySide_appendRows (rank : Nat) (rows : List AppendRow) (k : CycleAcc) :
    arraySide (rows.foldl (appendRow rank) k).tile = arraySide k.tile :=
  List.foldlRecOn rows _ (motive := fun c : CycleAcc => arraySide c.tile = arraySide k.tile) rfl (fun _ h _ _ => (arraySide_appendRow ..).trans h)

/-- A stage due changes of the array side the cells of a weight row alone, and only for a WLOAD. -/
theorem stageDue_side (x z : Tile) (fl : Flight) (st : Stage) (k : CycleAcc) :
    arraySide (stageDue x z fl st k).2.tile = arraySide k.tile ∨
      ∃ f a r cells inx scales, fl.cmd.op = .wload f ∧ st = .cell a r cells inx scales ∧
        (stageDue x z fl st k).2.tile = cellPut f.bank a r cells scales k.tile := by
  unfold stageDue
  split
  · rename_i a r cells inx scales f hop
    exact .inr ⟨f, a, r, cells, inx, scales, hop, rfl, rfl⟩
  · exact .inl rfl
  · exact .inl rfl
  · exact .inl rfl
  · exact .inl rfl
  · refine .inl ((arraySide_appendRows ..).trans ?_)
    dsimp only
    split <;> rfl
  · exact .inl rfl

theorem steadySide_cellPut (x : Tile) (bank a r : Nat) (cells : List (List FVal)) (scales : List Nat) :
    steadySide (cellPut bank a r cells scales x) = steadySide x := by
  have hlost : accLost (cellPut bank a r cells scales x) = accLost x := by
    funext b w
    exact contains_filter_of_pos _ _ rfl
  rw [steadySide, steadySide, arraySide, arraySide, hlost]
  simp only [cellPut]

theorem steadySide_stageDue (x z : Tile) (fl : Flight) (st : Stage) (k : CycleAcc) :
    steadySide (stageDue x z fl st k).2.tile = steadySide k.tile := by
  obtain h | ⟨f, a, r, cells, inx, scales, -, -, h⟩ := stageDue_side x z fl st k
  · exact steadySide_of_arraySide h
  · rw [h, steadySide_cellPut]

theorem cellSide_stageDue (x z : Tile) (st : Stage) (k : CycleAcc) (hfl : writesCells fl = false) :
    cellSide (stageDue x z fl st k).2.tile = cellSide k.tile := by
  obtain h | ⟨f, _, _, _, _, _, hop, -, -⟩ := stageDue_side x z fl st k
  · exact cellSide_of_arraySide h
  · simp [writesCells, hop] at hfl

/-! ### What a flight begins -/

theorem steadySide_flightEnter (x : Tile) (fl : Flight) (k : CycleAcc) : steadySide (flightEnter x fl k).2.tile = steadySide k.tile := by
  unfold flightEnter
  dsimp only
  (repeat' split) <;> rfl

theorem cellSide_flightEnter (x : Tile) (k : CycleAcc) (hfl : writesCells fl = false ∨ fl.age = 0) :
    cellSide (flightEnter x fl k).2.tile = cellSide k.tile := by
  unfold flightEnter
  dsimp only
  split
  · rename_i f hop
    have h0 : fl.age = 0 := hfl.resolve_left (by simp [writesCells, hop])
    simp [h0]
  all_goals (repeat' split) <;> rfl

/-- What the length of a flight depends on. -/
def flightShape (fl : Flight) : PathId × PathCmd × Nat × Nat := (fl.path, fl.cmd, fl.tag, fl.split)

theorem flightShape_vxDeliver (x : Tile) (fl : Flight) (l : Latched) (f : VxOp) (w0 : Nat) (es : List OutElem) :
    flightShape (vxDeliver x fl l f w0 es).1 = flightShape fl := by
  unfold vxDeliver
  dsimp only
  split <;> rfl

theorem flightShape_vxEnter (x : Tile) (fl : Flight) (l : Latched) (opc : Nat) (f : VxOp) (b : Nat) :
    flightShape (vxEnter x fl l opc f b).1 = flightShape fl := by
  unfold vxEnter
  dsimp only
  split
  · exact flightShape_vxDeliver ..
  · split
    · split
      · exact flightShape_vxDeliver ..
      · rfl
    · exact flightShape_vxDeliver ..

theorem flightShape_flightEnter (x : Tile) (fl : Flight) (k : CycleAcc) : flightShape (flightEnter x fl k).1 = flightShape fl := by
  unfold flightEnter
  dsimp only
  split
  · split <;> rfl
  · split <;> rfl
  · split <;> rfl
  · split
    · exact flightShape_vxEnter ..
    · rfl
  · rfl

end

end Sys2Proof.Machine
end

section
/-! PROOF. The commands in flight through one cycle (O20, O23). -/
namespace Sys2Proof.Machine
open Sys2Proof

section
variable {x z : Tile} {seed : Nat} {fl : Flight} {k : CycleAcc}

/-! ### One flight -/

/-- The stages of a flight that fall due, in their order: the stages that follow, and what happens. -/
def stagesRun (x z : Tile) (fl : Flight) (k : CycleAcc) : List (Nat × Stage) × CycleAcc :=
  (dueStages fl).foldl (fun (b : List (Nat × Stage) × CycleAcc) st => (b.1 ++ (stageDue x z fl st b.2).1, (stageDue x z fl st b.2).2)) ([], k)

/-- A flight after its stages due and what it begins, at its age still. -/
def flightRun (x z : Tile) (fl : Flight) (k : CycleAcc) : Flight × CycleAcc :=
  flightEnter x { fl with stages := fl.stages.filter (fun s => s.1 ≠ fl.age) ++
    (stagesRun x z fl k).1.map (fun e => (fl.age + e.1, e.2)) } (stagesRun x z fl k).2

theorem flightCycle_eq (x z : Tile) (a : List Flight × CycleAcc) (fl : Flight) : flightCycle x z a fl =
    if flightLast fl ≤ fl.age then
      (a.1, { (flightRun x z fl a.2).2 with tile := flightEnd (flightRun x z fl a.2).1 (flightRun x z fl a.2).2.tile })
    else (a.1 ++ [{ (flightRun x z fl a.2).1 with age := fl.age + 1 }], (flightRun x z fl a.2).2) := rfl

theorem stagesRun_fresh (h : fl.Fresh) : stagesRun x z fl k = ([], k) := by rw [stagesRun, dueStages_fresh h]; rfl

/-- A reading of the tile that every stage due keeps. -/
theorem read_stagesRun {β : Type} {read : Tile → β}
    (h : ∀ st ∈ dueStages fl, ∀ c : CycleAcc, read (stageDue x z fl st c).2.tile = read c.tile) :
    read (stagesRun x z fl k).2.tile = read k.tile :=
  List.foldlRecOn _ _ (motive := fun b : List (Nat × Stage) × CycleAcc => read b.2.tile = read k.tile) rfl
    fun _ hb st hst => (h st hst _).trans hb

theorem steadySide_flightRun (x z : Tile) (fl : Flight) (k : CycleAcc) : steadySide (flightRun x z fl k).2.tile = steadySide k.tile :=
  (steadySide_flightEnter ..).trans (read_stagesRun fun st _ c => steadySide_stageDue x z fl st c)

theorem cellSide_flightRun (hfl : writesCells fl = false ∨ fl.Fresh) : cellSide (flightRun x z fl k).2.tile = cellSide k.tile := by
  have hstages : cellSide (stagesRun x z fl k).2.tile = cellSide k.tile := by
    obtain h | h := hfl
    · exact read_stagesRun fun st _ c => cellSide_stageDue x z st c h
    · rw [stagesRun_fresh h]
  refine (cellSide_flightEnter _ _ ?_).trans hstages
  exact hfl.imp id And.left

theorem flightShape_flightRun (x z : Tile) (fl : Flight) (k : CycleAcc) : flightShape (flightRun x z fl k).1 = flightShape fl :=
  flightShape_flightEnter ..

theorem cmd_flightRun (x z : Tile) (fl : Flight) (k : CycleAcc) : (flightRun x z fl k).1.cmd = fl.cmd :=
  congrArg (fun s => s.2.1) (flightShape_flightRun x z fl k)

theorem accSide_flightEnd (fl : Flight) (t : Tile) : accSide (flightEnd fl t) = accSide t := by
  unfold flightEnd monClose
  dsimp only
  (repeat' split) <;> rfl

theorem cellSide_flightEnd (fl : Flight) (t : Tile) : cellSide (flightEnd fl t) = cellSide t := by
  unfold flightEnd monClose
  dsimp only
  (repeat' split) <;> rfl

theorem pathSide_flightEnd (fl : Flight) (t : Tile) : pathSide (flightEnd fl t) = pathSide t := by
  unfold flightEnd monClose
  dsimp only
  (repeat' split) <;> rfl

/-- A reading that a flight and its end keep. -/
theorem read_flightCycle {β : Type} {read : Tile → β} (hrun : read (flightRun x z fl k).2.tile = read k.tile)
    (hend : ∀ g t, read (flightEnd g t) = read t) (l : List Flight) : read (flightCycle x z (l, k) fl).2.tile = read k.tile := by
  rw [flightCycle_eq]
  split
  · exact (hend _ _).trans hrun
  · exact hrun

/-! ### All flights -/

theorem read_flights {β : Type} {read : Tile → β} {fls : List Flight}
    (hrun : ∀ fl ∈ fls, ∀ k, read (flightRun x z fl k).2.tile = read k.tile)
    (hend : ∀ g t, read (flightEnd g t) = read t) (a : List Flight × CycleAcc) :
    read (fls.foldl (flightCycle x z) a).2.tile = read a.2.tile :=
  List.foldlRecOn fls _ (motive := fun b : List Flight × CycleAcc => read b.2.tile = read a.2.tile) rfl
    fun b hb fl hfl => (read_flightCycle (hrun fl hfl b.2) hend b.1).trans hb

theorem accSide_flights (x z : Tile) (fls : List Flight) (a : List Flight × CycleAcc) :
    accSide (fls.foldl (flightCycle x z) a).2.tile = accSide a.2.tile :=
  read_flights (fun fl _ k => accSide_of_steadySide (steadySide_flightRun x z fl k)) accSide_flightEnd a

theorem pathSide_flights (x z : Tile) (fls : List Flight) (a : List Flight × CycleAcc) :
    pathSide (fls.foldl (flightCycle x z) a).2.tile = pathSide a.2.tile :=
  read_flights (fun fl _ k => pathSide_of_steadySide (steadySide_flightRun x z fl k)) pathSide_flightEnd a

theorem cellSide_flights {fls : List Flight} (h : ∀ fl ∈ fls, writesCells fl = false ∨ fl.Fresh) (a : List Flight × CycleAcc) :
    cellSide (fls.foldl (flightCycle x z) a).2.tile = cellSide a.2.tile :=
  read_flights (fun fl hfl _ => cellSide_flightRun (h fl hfl)) cellSide_flightEnd a

/-! ### The cycle -/

theorem accSide_tileCycle (seed : Nat) (x : Tile) : accSide (tileCycle seed x).1 =
    accSide (streamWrites (pathsTurned seed x).1.flight (drainClears (pathsTurned seed x).1.flight (pathsTurned seed x).1)) :=
  (accSide_of_arraySide (arraySide_tileCycle seed x)).trans (accSide_flights ..)

/-- Of the flights only those of before the cycle write accumulators. -/
theorem accSide_tileCycle_flight (seed : Nat) (x : Tile) :
    accSide (tileCycle seed x).1 = accSide (streamWrites x.flight (drainClears x.flight (pathsTurned seed x).1)) := by
  obtain ⟨-, -, new, hflight, hfresh⟩ := turns_pathsTurned seed x
  rw [accSide_tileCycle, hflight, accWrites_append_fresh _ hfresh]

theorem pathSide_tileCycle (seed : Nat) (x : Tile) : pathSide (tileCycle seed x).1 = pathSide (pathsTurned seed x).1 :=
  (pathSide_of_arraySide (arraySide_tileCycle seed x)).trans ((pathSide_flights ..).trans (pathSide_of_butAcc (butAcc_accWrites ..)))

/-- The weight registers after a cycle are those that its flights leave. -/
theorem cellSide_tileCycle (seed : Nat) (x : Tile) : cellSide (tileCycle seed x).1 = cellSide (flightsRun seed x).2.tile := by
  have h := cellSide_of_arraySide (arraySide_tileCycle seed x)
  exact h

theorem cellSide_accWrites (seed : Nat) (x : Tile) (fls : List Flight) :
    cellSide (streamWrites fls (drainClears fls (pathsTurned seed x).1)) = cellSide x :=
  (cellSide_of_butAcc (butAcc_accWrites ..)).trans (turns_pathsTurned seed x).cellSide

/-- With one command in flight, what that command does to the weight registers is all that the cycle does to them. -/
theorem cellSide_tileCycle_one (seed : Nat) (h : x.flight = [fl]) : ∃ y z k, cellSide k.tile = cellSide x ∧
    cellSide (tileCycle seed x).1 = cellSide (flightRun y z fl k).2.tile := by
  obtain ⟨-, -, new, hflight, hfresh⟩ := turns_pathsTurned seed x
  have hfls : (pathsTurned seed x).1.flight = fl :: new := by rw [hflight, h]; rfl
  refine ⟨(pathsTurned seed x).1, streamWrites (fl :: new) (pathsTurned seed x).1,
    { tile := streamWrites (fl :: new) (drainClears (fl :: new) (pathsTurned seed x).1), notes := (pathsTurned seed x).2 },
    cellSide_accWrites seed x _, ?_⟩
  rw [cellSide_tileCycle, flightsRun, hfls, List.foldl_cons, cellSide_flights fun g hg => .inr (hfresh g hg), flightCycle_eq]
  split
  · exact cellSide_flightEnd ..
  · rfl

/-! ### What each array command writes -/

theorem dueStages_single {st : Stage} (h : fl.stages = [(fl.age, st)]) : dueStages fl = [st] := by simp [dueStages, h]

/-- Without a STREAM or a clearing DRAIN in flight the accumulators stay. -/
theorem acc_tileCycle (seed : Nat) (h : x.flight.all (fun fl => !(writesAcc fl)) = true) : (tileCycle seed x).1.arr.acc = x.arr.acc := by
  have hacc : (tileCycle seed x).1.arr.acc = _ := congrArg Prod.fst (accSide_tileCycle_flight seed x)
  rw [hacc, accWrites_of_not_writesAcc fun fl hfl => by simpa using List.all_eq_true.mp h fl hfl]
  exact (turns_pathsTurned seed x).acc

/-- Without a WLOAD in flight the weight registers stay. -/
theorem cellSide_tileCycle_of_none (seed : Nat) (h : x.flight.all (fun fl => !(writesCells fl)) = true) :
    cellSide (tileCycle seed x).1 = cellSide x := by
  obtain ⟨-, -, new, hflight, hfresh⟩ := turns_pathsTurned seed x
  rw [cellSide_tileCycle, flightsRun, hflight, cellSide_flights, cellSide_accWrites]
  intro fl hfl
  exact (List.mem_append.mp hfl).imp (fun hold => by simpa using List.all_eq_true.mp h fl hold) (hfresh fl)

theorem cellSide_tagPut (bank etype split : Nat) (t : Tile) :
    cellSide (tagPut bank etype split t) = (t.arr.pieces, t.arr.scales, mapSet t.arr.tag bank etype, mapSet t.arr.split bank split) := rfl

/-- R92: a WLOAD's fifth cycle gives its bank the tag and split. -/
theorem tile_flightEnter_wload {f : WloadOp} (hop : fl.cmd.op = .wload f) (x : Tile) (k : CycleAcc) : (flightEnter x fl k).2.tile =
    if fl.age = 4 then tagPut f.bank (latDesc fl.cmd.lat f.td).etype f.split k.tile else k.tile := by
  unfold flightEnter
  rw [hop]
  dsimp only
  (repeat' split) <;> rfl

theorem tile_flightRun_wload {f : WloadOp} (hop : fl.cmd.op = .wload f) (y z : Tile) (k : CycleAcc) : (flightRun y z fl k).2.tile =
    if fl.age = 4 then tagPut f.bank (latDesc fl.cmd.lat f.td).etype f.split (stagesRun y z fl k).2.tile else (stagesRun y z fl k).2.tile := by
  refine (tile_flightEnter_wload ?_ y _).trans rfl
  exact hop

theorem tags_tileCycle (seed : Nat) {f : WloadOp} (h : x.flight = [fl]) (hop : fl.cmd.op = .wload f) (hage : fl.age = 4) :
    mapGet 3 (tileCycle seed x).1.arr.tag f.bank = (latDesc fl.cmd.lat f.td).etype ∧
      mapGet 0 (tileCycle seed x).1.arr.split f.bank = f.split := by
  obtain ⟨y, z, k, -, hcells⟩ := cellSide_tileCycle_one seed h
  rw [tile_flightRun_wload hop, if_pos hage, cellSide_tagPut] at hcells
  have htag : (tileCycle seed x).1.arr.tag = _ := congrArg (fun c => c.2.2.1) hcells
  have hsplit : (tileCycle seed x).1.arr.split = _ := congrArg (fun c => c.2.2.2) hcells
  rw [htag, hsplit]
  exact ⟨mapGet_mapSet_self .., mapGet_mapSet_self ..⟩

/-- A weight row that is due stands in its cells after the cycle. -/
theorem pieces_tileCycle (seed : Nat) {f : WloadOp} {a r n p : Nat} {cells : List (List FVal)} {inx : Bool} {sc : List Nat}
    (h : x.flight = [fl]) (hop : fl.cmd.op = .wload f) (hst : fl.stages = [(fl.age, .cell a r cells inx sc)]) (hn : n < 32) (hp : p < 3) :
    mapGet (.fin false 0 0) (tileCycle seed x).1.arr.pieces (pieceKey f.bank a r n p) = (cells.getD n []).getD p (.fin false 0 0) := by
  obtain ⟨y, z, k, -, hcells⟩ := cellSide_tileCycle_one seed h
  have hstage : (stagesRun y z fl k).2.tile = cellPut f.bank a r cells sc k.tile := by
    rw [stagesRun, dueStages_single hst, List.foldl_cons, List.foldl_nil]
    simp only [stageDue, hop]
  have hrun : (flightRun y z fl k).2.tile.arr.pieces = (stagesRun y z fl k).2.tile.arr.pieces := by
    rw [tile_flightRun_wload hop]
    split <;> rfl
  have hpieces : (tileCycle seed x).1.arr.pieces = (flightRun y z fl k).2.tile.arr.pieces := congrArg Prod.fst hcells
  rw [hpieces, hrun, hstage]
  exact mapGet_cellPut_pieces k.tile f.bank a r cells sc hn hp

/-- A row of updated entries that is due reads as updated after the cycle. -/
theorem accEntry_tileCycle_stream (seed : Nat) {f : StreamOp} {a row n : Nat} {vs : List Nat} {fs : NFlags} (h : x.flight = [fl])
    (hop : fl.cmd.op = .stream f) (hst : fl.stages = [(fl.age, .upd a row vs fs)]) (hl : vs.length = 32) (hn : n < 32)
    (hv : vs.getD n 0 < 2 ^ (if f.acc64 then 64 else 32)) : accEntry (tileCycle seed x).1 f.acc64 a row n = vs.getD n 0 := by
  have hwrite : ∀ t, streamWrites [fl] (drainClears [fl] t) = accRowPut f.acc64 a row vs t := fun t => by
    simp [streamWrites, drainClears, hop, dueStages_single hst]
  rw [accEntry_of_accSide (accSide_tileCycle_flight seed x), h, hwrite, accEntry_accRowPut _ _ _ _ hl hn hv]

/-- The entries that a clearing DRAIN reads in this cycle are zero after it. -/
theorem accEntry_tileCycle_drain (seed : Nat) {f : DrainOp} {r : Nat × List (Nat × Nat)} {e : Nat × Nat} {n : Nat} (h : x.flight = [fl])
    (hop : fl.cmd.op = .drain f) (hclr : f.clr = true) (h1 : 1 ≤ fl.age) (hlen : fl.age ≤ drainLen f) (hr : r ∈ drainRows f (fl.age - 1))
    (he : e ∈ r.2) (hn : n < 32) : accEntry (tileCycle seed x).1 f.acc64 e.1 (f.accRow + (fl.age - 1)) n = 0 := by
  have hwrite : ∀ t, streamWrites [fl] (drainClears [fl] t) = drainClear f (fl.age - 1) t := fun t => by
    simp [streamWrites, drainClears, hop, h1, hlen]
  rw [accEntry_of_accSide (accSide_tileCycle_flight seed x), h, hwrite, accEntry_drainClear _ hclr hr he hn]

end

/-- Settles O20: a command is checked in the state that its slot opens and is dropped, waits or begins (`issuesLocal_array`); and of a cycle only the
flights that were there before it write accumulators and weight registers (`accSide_tileCycle_flight`, `cellSide_tileCycle_one`). Which formats and
splits a STREAM takes, the halves of a long WLOAD and the block dimension of an MX output are the model's choices (log 122, 123, 125). -/
theorem arrayCommands : Obligations.ArrayCommands :=
  ⟨issuesLocal_wload, issuesLocal_stream, issuesLocal_drain, fun seed _ h => acc_tileCycle seed h,
    fun seed _ h => by
      have hcells := cellSide_tileCycle_of_none seed h
      simpa only [cellSide, Prod.mk.injEq] using hcells,
    fun seed _ _ _ h hop hage => tags_tileCycle seed h hop hage,
    fun seed _ _ _ _ _ _ _ _ _ _ h hop hst hn hp => pieces_tileCycle seed h hop hst hn hp,
    fun seed _ _ _ _ _ _ _ _ h hop hst hl hn hv => accEntry_tileCycle_stream seed h hop hst hl hn hv,
    fun seed _ _ _ _ _ _ h hop hclr h1 hlen hr he hn => accEntry_tileCycle_drain seed h hop hclr h1 hlen hr he hn⟩


end Sys2Proof.Machine
end

section
/-! PROOF. The last busy cycle of a path's running command (O23): the path is free, or its pending command runs. -/
namespace Sys2Proof.Machine
open Sys2Proof

section
variable {x y z : Tile} {seed : Nat} {fl g : Flight} {p q : PathId} {s : State} {n : Nat}

/-! ### The paths in the turn (R91) -/

theorem pathOf_pathPut_ne (x : Tile) (v : Path) (h : p ≠ q) : pathOf (pathPut x q v) p = pathOf x p := by
  cases p with
  | unit j =>
    cases q with
    | unit k => exact congrArg StreamUnit.path (mapGet_mapSet_ne _ _ _ fun e => h (congrArg PathId.unit e))
    | _ => rfl
  | _ => cases q <;> simp [pathOf, pathPut] at h ⊢

theorem pathOf_flightStart_ne (x : Tile) (c : PathCmd) (seed tag split : Nat) (hw : HwErr) (h : p ≠ q) :
    pathOf (flightStart x q c seed tag split hw) p = pathOf x p := by
  rw [flightStart, pathOf_flight, sramHw_eq, pathOf_num, pathOf_pathPut_ne _ _ h]

theorem pathOf_monOpen (x : Tile) (l : Latched) (opc : Nat) (f : VxOp) (p : PathId) : pathOf (monOpen x l opc f) p = pathOf x p := by
  unfold monOpen
  split
  · rfl
  · cases p <;> rfl

theorem pathOf_pathBegin_ne (seed : Nat) (c : PathCmd) (x : Tile) (h : p ≠ q) : pathOf (pathBegin seed q c x).1 p = pathOf x p := by
  unfold pathBegin
  split
  · exact pathOf_flightStart_ne _ _ _ _ _ _ h
  · split
    · exact pathOf_flightStart_ne _ _ _ _ _ _ h
    · rfl
  · exact pathOf_flightStart_ne _ _ _ _ _ _ h
  · split
    · exact (pathOf_monOpen ..).trans (pathOf_flightStart_ne _ _ _ _ _ _ h)
    · rfl
  · rfl

theorem pathOf_pathTurn_ne (seed : Nat) (a : Tile × List TileNote) (h : p ≠ q) : pathOf (pathTurn seed q a).1 p = pathOf a.1 p := by
  unfold pathTurn
  dsimp only
  split
  · split
    · exact pathOf_pathPut_ne _ _ h
    · exact (pathOf_pathBegin_ne _ _ _ h).trans (pathOf_pathPut_ne _ _ h)
  · rfl

/-- A WLOAD or DRAIN begins whatever the tile holds. -/
def alwaysBegins (c : PathCmd) : Prop := (∃ f, c.op = .wload f) ∨ ∃ f, c.op = .drain f

theorem pathOf_pathBegin_self {c : PathCmd} (h : alwaysBegins c) (seed : Nat) (p : PathId) (x : Tile) :
    pathOf (pathBegin seed p c x).1 p = { pathOf x p with run := some c } := by
  obtain ⟨f, hop⟩ | ⟨f, hop⟩ := h <;> simp only [pathBegin, hop] <;> exact pathOf_flightStart_self ..

/-- A flight of the path is in its last busy cycle. -/
def pathEnding (x : Tile) (p : PathId) : Bool := (pathOf x p).run.isSome && x.flight.any (fun fl => fl.path = p && fl.age = flightLen fl)

/-- The path with its pending command running, or free. -/
def pathAdvanced (v : Path) : Path := { run := v.pend, pend := none }

theorem pathTurn_of_not_ending (seed : Nat) {a : Tile × List TileNote} (h : pathEnding a.1 p = false) : pathTurn seed p a = a :=
  if_neg (Bool.eq_false_iff.mp h)

theorem pathTurn_free (seed : Nat) {a : Tile × List TileNote} (h : pathEnding a.1 p = true) (hpend : (pathOf a.1 p).pend = none) :
    pathTurn seed p a = (pathPut a.1 p {}, a.2) :=
  (if_pos h).trans (by rw [hpend])

theorem pathTurn_next (seed : Nat) {a : Tile × List TileNote} {c : PathCmd} (h : pathEnding a.1 p = true)
    (hpend : (pathOf a.1 p).pend = some c) : pathTurn seed p a =
      ((pathBegin seed p c (pathPut a.1 p {})).1, a.2 ++ (pathBegin seed p c (pathPut a.1 p {})).2) :=
  (if_pos h).trans (by rw [hpend])

theorem pathOf_pathTurn_self (seed : Nat) (a : Tile × List TileNote) (h : ∀ c, (pathOf a.1 p).pend = some c → alwaysBegins c) :
    pathOf (pathTurn seed p a).1 p = if pathEnding a.1 p then pathAdvanced (pathOf a.1 p) else pathOf a.1 p := by
  cases hend : pathEnding a.1 p with
  | false => rw [pathTurn_of_not_ending seed hend, if_neg Bool.false_ne_true]
  | true =>
    rw [if_pos rfl]
    cases hpend : (pathOf a.1 p).pend with
    | none => rw [pathTurn_free seed hend hpend, pathOf_pathPut_self, pathAdvanced, hpend]
    | some c => rw [pathTurn_next seed hend hpend, pathOf_pathBegin_self (h c hpend), pathOf_pathPut_self, pathAdvanced, hpend]

theorem turns_foldl (seed : Nat) {l : List PathId} (hl : ∀ p ∈ l, p ∈ localPaths) (a : Tile × List TileNote) :
    Turns a.1 (l.foldl (fun a p => pathTurn seed p a) a).1 :=
  List.foldlRecOn l _ (motive := fun (b : Tile × List TileNote) => Turns a.1 b.1) (.refl _)
    (fun _ h p hp => h.trans (turns_pathTurn (hl p hp) seed _))

theorem pathOf_foldl_pathTurn_ne (seed : Nat) {l : List PathId} (hp : p ∉ l) (a : Tile × List TileNote) :
    pathOf (l.foldl (fun a p => pathTurn seed p a) a).1 p = pathOf a.1 p :=
  List.foldlRecOn l _ (motive := fun (b : Tile × List TileNote) => pathOf b.1 p = pathOf a.1 p) rfl
    (fun _ h _ hq => (pathOf_pathTurn_ne seed _ (ne_of_mem_of_not_mem hq hp).symm).trans h)

/-- In a cycle a path stays or advances, and with a flight in its last busy cycle it advances. -/
theorem pathOf_pathsTurned (seed : Nat) (hp : p ∈ localPaths) (h : ∀ c, (pathOf x p).pend = some c → alwaysBegins c) :
    (pathOf (pathsTurned seed x).1 p = pathOf x p ∧ pathEnding x p = false) ∨
      pathOf (pathsTurned seed x).1 p = pathAdvanced (pathOf x p) := by
  obtain ⟨l, r, hlr⟩ := List.append_of_mem hp
  have hnodup : (l ++ p :: r).Nodup := hlr ▸ (by decide : localPaths.Nodup)
  obtain ⟨hnot, -⟩ := List.nodup_cons.mp (List.nodup_middle.mp hnodup)
  have hl : p ∉ l := fun hm => hnot (List.mem_append_left _ hm)
  have hr : p ∉ r := fun hm => hnot (List.mem_append_right _ hm)
  let b : Tile × List TileNote := l.foldl (fun a p => pathTurn seed p a) (x, [])
  have hb : pathOf b.1 p = pathOf x p := pathOf_foldl_pathTurn_ne seed hl _
  have hend : pathEnding x p = true → pathEnding b.1 p = true := by
    obtain ⟨-, -, new, hflight, -⟩ := turns_foldl seed (l := l) (fun q hq => hlr ▸ List.mem_append_left _ hq) (x, [])
    simp only [pathEnding, Bool.and_eq_true, hb]
    rintro ⟨hrun, hany⟩
    have hf : b.1.flight = x.flight ++ new := hflight
    exact ⟨hrun, by rw [hf, List.any_append, hany, Bool.true_or]⟩
  have hturn : pathOf (pathsTurned seed x).1 p = pathOf (pathTurn seed p b).1 p := by
    rw [pathsTurned, hlr, List.foldl_append, List.foldl_cons, pathOf_foldl_pathTurn_ne seed hr]
  rw [hturn, pathOf_pathTurn_self seed b (by rwa [hb]), hb]
  split
  · exact .inr rfl
  · rename_i hne
    exact .inl ⟨rfl, Bool.eq_false_iff.mpr fun ht => hne (hend ht)⟩

/-! ### Flights age -/

theorem flightLen_congr (h : flightShape g = flightShape fl) : flightLen g = flightLen fl := by
  simp only [flightShape, Prod.mk.injEq] at h
  obtain ⟨-, hcmd, htag, hsplit⟩ := h
  simp only [flightLen, hcmd, htag, hsplit]

theorem flightLast_congr (h : flightShape g = flightShape fl) : flightLast g = flightLast fl := by
  have hlen := flightLen_congr h
  simp only [flightShape, Prod.mk.injEq] at h
  obtain ⟨-, hcmd, -, -⟩ := h
  simp only [flightLast, hcmd, hlen]

theorem mem_flights_of_mem {fls : List Flight} {a : List Flight × CycleAcc} (h : g ∈ a.1) : g ∈ (fls.foldl (flightCycle x z) a).1 :=
  List.foldlRecOn fls _ (motive := fun b : List Flight × CycleAcc => g ∈ b.1) h fun b hb fl _ => by
    rw [flightCycle_eq]
    split
    · exact hb
    · exact List.mem_append_left _ hb

/-- A flight whose last write lies ahead goes on, a cycle older. -/
theorem flights_age {fls : List Flight} (h : fl ∈ fls) (hlast : fl.age < flightLast fl) (a : List Flight × CycleAcc) :
    ∃ g ∈ (fls.foldl (flightCycle x z) a).1, flightShape g = flightShape fl ∧ g.age = fl.age + 1 := by
  induction fls generalizing a with
  | nil => cases h
  | cons b r ih =>
    obtain rfl | h := List.mem_cons.mp h
    · rw [List.foldl_cons]
      refine ⟨{ (flightRun x z fl a.2).1 with age := fl.age + 1 }, mem_flights_of_mem ?_, flightShape_flightRun x z fl a.2, rfl⟩
      rw [flightCycle_eq, if_neg (Nat.not_le.mpr hlast)]
      exact List.mem_append_right _ (List.mem_singleton_self _)
    · exact ih h _

theorem flight_tileCycle (seed : Nat) (x : Tile) : (tileCycle seed x).1.flight = (flightsRun seed x).1 := by
  have h := congrArg ArraySide.flight (arraySide_tileCycle seed x)
  exact h

theorem flight_ages (seed : Nat) (h : fl ∈ x.flight) (hlast : fl.age < flightLast fl) :
    ∃ g ∈ (tileCycle seed x).1.flight, flightShape g = flightShape fl ∧ g.age = fl.age + 1 := by
  obtain ⟨-, -, new, hflight, -⟩ := turns_pathsTurned seed x
  rw [flight_tileCycle]
  exact flights_age (by rw [hflight]; exact List.mem_append_left _ h) hlast _

/-! ### Cycles up to the last busy one -/

theorem cyclesUntil_of_done {done : Tile → Bool} (seed k : Nat) (h : done x = true) : cyclesUntil seed done k x = (x, []) := by
  cases k with
  | zero => rfl
  | succ k => exact if_pos h

theorem cyclesUntil_of_not_done {done : Tile → Bool} (seed k : Nat) (h : done x = false) :
    (cyclesUntil seed done (k + 1) x).1 = (cyclesUntil seed done k (tileCycle seed x).1).1 := by
  rw [cyclesUntil, h, if_neg Bool.false_ne_true]

theorem cyclesUntil_plateRest (seed k : Nat) (done : Tile → Bool) (x : Tile) :
    plateRest (cyclesUntil seed done k x).1.plate = plateRest x.plate := by
  induction k generalizing x with
  | zero => rfl
  | succ k ih =>
    rw [cyclesUntil]
    split
    · rfl
    · exact (ih _).trans (tileCycle_plateRest seed x)

/-- The flight is one of the path's, with its last busy cycle within k cycles. -/
def EndsWithin (x : Tile) (p : PathId) (k : Nat) : Prop :=
  ∃ fl ∈ x.flight, fl.path = p ∧ fl.age ≤ flightLen fl ∧ flightLen fl ≤ flightLast fl ∧ flightLen fl < fl.age + k

theorem pathTurned_advanced {v : Path} (h : pathOf x p = pathAdvanced v) : pathTurned p v.pend.isSome x = true := by
  unfold pathTurned
  rw [h]
  cases hpend : v.pend <;> simp [pathAdvanced, hpend]

/-- Within the cycles that its running command is busy yet, the path advances, and there the cycles end. -/
theorem pathOf_cyclesUntil (seed : Nat) (hp : p ∈ localPaths) {v : Path} (hrun : v.run.isSome = true)
    (hpend : ∀ c, v.pend = some c → alwaysBegins c) {k : Nat} (hx : pathOf x p = v) (hk : EndsWithin x p k) :
    pathOf (cyclesUntil seed (pathTurned p v.pend.isSome) k x).1 p = pathAdvanced v := by
  induction k generalizing x with
  | zero =>
    obtain ⟨fl, -, -, hage, -, hlt⟩ := hk
    omega
  | succ k ih =>
    obtain ⟨fl, hfl, hpath, hage, hlen, hlt⟩ := hk
    have hbusy : pathTurned p v.pend.isSome x = false := by
      unfold pathTurned
      rw [hx]
      cases v.pend <;> simp [hrun]
    rw [cyclesUntil_of_not_done seed k hbusy]
    have hcycle : pathOf (tileCycle seed x).1 p = pathOf (pathsTurned seed x).1 p := pathOf_of_pathSide (pathSide_tileCycle seed x) hp
    obtain ⟨hstay, hend⟩ | hadv := pathOf_pathsTurned seed hp (x := x) (by rwa [hx])
    · have hnot : fl.age ≠ flightLen fl := fun he => by
        have hany : pathEnding x p = true := by
          simp only [pathEnding, hx, hrun, Bool.true_and, List.any_eq_true]
          exact ⟨fl, hfl, by simp [hpath, he]⟩
        rw [hend] at hany
        cases hany
      obtain ⟨g, hg, hshape, hgage⟩ := flight_ages seed hfl (by omega)
      have hglen := flightLen_congr hshape
      have hglast := flightLast_congr hshape
      exact ih (by rw [hcycle, hstay, hx]) ⟨g, hg, (congrArg Prod.fst hshape).trans hpath, by omega, by omega, by omega⟩
    · rw [hx] at hadv
      have hdone := hcycle.trans hadv
      rw [cyclesUntil_of_done seed k (pathTurned_advanced hdone)]
      exact hdone

theorem le_foldl_add {α : Type} (f : α → Nat) {l : List α} {a : α} (h : a ∈ l) (b : Nat) : f a ≤ l.foldl (fun n e => n + f e) b := by
  have hmono : ∀ (l : List α) (b : Nat), b ≤ l.foldl (fun n e => n + f e) b := fun l b =>
    List.foldlRecOn l _ (motive := fun m => b ≤ m) le_rfl fun _ hm _ _ => hm.trans (Nat.le_add_right _ _)
  induction l generalizing b with
  | nil => cases h
  | cons c r ih =>
    obtain rfl | h := List.mem_cons.mp h
    · exact (Nat.le_add_left _ _).trans (hmono r _)
    · exact ih h _

theorem flightLast_lt_settleSpan (h : fl ∈ x.flight) : flightLast fl < settleSpan x := by
  have hsum := le_foldl_add (fun fl => flightLast fl + 1) h 0
  unfold settleSpan
  omega

theorem endsWithin_settleSpan (h : pathBusy x p = true) : (pathOf x p).run.isSome = true ∧ EndsWithin x p (settleSpan x) := by
  simp only [pathBusy, Bool.and_eq_true, List.any_eq_true, decide_eq_true_eq] at h
  obtain ⟨hrun, fl, hfl, ⟨hpath, hage⟩, hlen⟩ := h
  have hspan := flightLast_lt_settleSpan hfl
  exact ⟨hrun, fl, hfl, hpath, hage, hlen, by omega⟩

/-! ### PENDING_START -/

theorem tileUntil_leaves (s : State) (n : Nat) (done : Tile → Bool) (k : Nat) :
    Leaves n s (tileUntil s n done k) (cyclesUntil (seedOf s n) done k (tileAt s n)).1 :=
  (tileSet_leaves s n _).reports (tileNotes_reports _ n _)

theorem ignores_pendingStart_held
    (h : (tileAt s n).plate.pstate = .issuing ∨ (tileAt s n).plate.pstate = .frozen ∨ (pathOf (tileAt s n) p).run = none) :
    Ignores (.pendingStart n p) s := by
  have hheld : (decide (n ≥ 512) || decide ((tileAt s n).plate.pstate = .issuing) || decide ((tileAt s n).plate.pstate = .frozen) ||
      (pathOf (tileAt s n) p).run.isNone) = true := by
    obtain h | h | h := h <;> simp [h]
  cases p with
  | unit k => rfl
  | _ => exact if_pos hheld

theorem exec_pendingStart (hp : p ∈ localPaths) (hn : n < 512) (hi : (tileAt s n).plate.pstate ≠ .issuing)
    (hf : (tileAt s n).plate.pstate ≠ .frozen) (hrun : (pathOf (tileAt s n) p).run.isSome = true) : exec (.pendingStart n p) s =
      .next (tileUntil s n (pathTurned p (pathOf (tileAt s n) p).pend.isSome) (settleSpan (tileAt s n))) := by
  have hgo : ¬(decide (n ≥ 512) || decide ((tileAt s n).plate.pstate = .issuing) || decide ((tileAt s n).plate.pstate = .frozen) ||
      (pathOf (tileAt s n) p).run.isNone) = true := by
    obtain ⟨c, hc⟩ := Option.isSome_iff_exists.mp hrun
    simp [hn, hi, hf, hc]
  cases p with
  | unit k => simp [localPaths] at hp
  | _ => exact if_neg hgo

theorem answers_pendingStart (hp : p ∈ localPaths) (hn : n < 512) (hi : (tileAt s n).plate.pstate ≠ .issuing)
    (hf : (tileAt s n).plate.pstate ≠ .frozen) (hbusy : pathBusy (tileAt s n) p = true)
    (hpend : ∀ c, (pathOf (tileAt s n) p).pend = some c → alwaysBegins c) : Answers (.pendingStart n p) s fun t =>
      pathOf (tileAt t n) p = pathAdvanced (pathOf (tileAt s n) p) ∧ (tileAt t n).plate.pstate = (tileAt s n).plate.pstate ∧
        othersKept s t n := by
  obtain ⟨hrun, hends⟩ := endsWithin_settleSpan hbusy
  have hleaves := tileUntil_leaves s n (pathTurned p (pathOf (tileAt s n) p).pend.isSome) (settleSpan (tileAt s n))
  obtain ⟨hstate, -⟩ := fields_of_plateRest (cyclesUntil_plateRest (seedOf s n) (settleSpan (tileAt s n))
    (pathTurned p (pathOf (tileAt s n) p).pend.isSome) (tileAt s n))
  refine ⟨_, exec_pendingStart hp hn hi hf hrun, ?_, ?_, hleaves.1.othersKept⟩
  · rw [hleaves.path, pathOf_cyclesUntil _ hp hrun hpend rfl hends]
  · rw [hleaves.plate, hstate]

/-! ### The last write of a command -/

theorem pathsTurned_of_not_ending (seed : Nat) (h : ∀ fl ∈ x.flight, fl.age ≠ flightLen fl) : pathsTurned seed x = (x, []) := by
  have hend : ∀ p, pathEnding x p = false := fun p => by
    have hany : (x.flight.any fun fl => fl.path = p && fl.age = flightLen fl) = false :=
      List.any_eq_false.mpr fun fl hfl => by simp [h fl hfl]
    rw [pathEnding, hany, Bool.and_false]
  refine List.foldlRecOn localPaths _ (motive := fun b => b = (x, [])) rfl fun b hb p _ => ?_
  rw [hb]
  exact pathTurn_of_not_ending seed (hend p)

/-- The cycle of a tile's one command in flight that makes its last write: what the command's end leaves, and nothing in flight. -/
theorem arraySide_tileCycle_last (seed : Nat) (h : x.flight = [fl]) (hlast : flightLast fl ≤ fl.age) (hlen : flightLen fl < fl.age) :
    ∃ g t, g.cmd = fl.cmd ∧ steadySide t = steadySide (streamWrites x.flight (drainClears x.flight x)) ∧
      arraySide (tileCycle seed x).1 = arraySide { flightEnd g t with flight := [] } := by
  have hturn : pathsTurned seed x = (x, []) := pathsTurned_of_not_ending seed fun g hg => by
    rw [h, List.mem_singleton] at hg
    rw [hg]
    exact hlen.ne'
  have hrun : flightsRun seed x = flightCycle x (streamWrites x.flight x) ([], { tile := streamWrites x.flight (drainClears x.flight x) }) fl := by
    rw [flightsRun, hturn]
    dsimp only
    rw [h, List.foldl_cons, List.foldl_nil]
  refine ⟨(flightRun x (streamWrites x.flight x) fl { tile := streamWrites x.flight (drainClears x.flight x) }).1,
    (flightRun x (streamWrites x.flight x) fl { tile := streamWrites x.flight (drainClears x.flight x) }).2.tile,
    cmd_flightRun .., steadySide_flightRun .., ?_⟩
  rw [arraySide_tileCycle, hrun, flightCycle_eq, if_pos hlast]

/-- What the end of a command reads is as it was before the cycle. -/
theorem fields_of_steadySide {t : Tile} {fls : List Flight} (h : steadySide t = steadySide (streamWrites fls (drainClears fls x))) :
    t.arr.wloadCnt = x.arr.wloadCnt ∧ t.bat.ready = x.bat.ready ∧ t.bat.retire = x.bat.retire := by
  have hs {α : Type} (f : ArraySide → α) : f (steadySide t) = f (steadySide (streamWrites fls (drainClears fls x))) := congrArg f h
  have hb {α : Type} (f : Tile → α) : f (butAcc (streamWrites fls (drainClears fls x))) = f (butAcc x) :=
    field_of_butAcc (butAcc_accWrites fls x) f
  exact ⟨(hs fun a => a.arr.wloadCnt).trans (hb fun t => t.arr.wloadCnt), (hs ArraySide.ready).trans (hb fun t => t.bat.ready),
    (hs ArraySide.retire).trans (hb fun t => t.bat.retire)⟩

theorem wload_counted (seed : Nat) {f : WloadOp} (h : x.flight = [fl]) (hop : fl.cmd.op = .wload f) (hlast : flightLast fl ≤ fl.age) :
    (tileCycle seed x).1.flight = [] ∧ (tileCycle seed x).1.arr.wloadCnt = satInc x.arr.wloadCnt := by
  have hlen : flightLast fl = flightLen fl + 4 := by simp only [flightLast, hop]
  obtain ⟨g, t, hcmd, hsteady, hside⟩ := arraySide_tileCycle_last seed h hlast (by omega)
  obtain ⟨hcnt, -, -⟩ := fields_of_steadySide hsteady
  have hf {α : Type} (r : ArraySide → α) : r (arraySide (tileCycle seed x).1) = r (arraySide { flightEnd g t with flight := [] }) :=
    congrArg r hside
  refine ⟨hf ArraySide.flight, (hf fun a => a.arr.wloadCnt).trans ?_⟩
  simp only [arraySide, flightEnd, hcmd, hop, hcnt]

theorem drain_retires (seed : Nat) {f : DrainOp} (h : x.flight = [fl]) (hop : fl.cmd.op = .drain f) (hlast : flightLast fl ≤ fl.age) :
    (tileCycle seed x).1.flight = [] ∧ (tileCycle seed x).1.bat.retire = ((f.bret && x.bat.ready) || x.bat.retire) := by
  have hlen : flightLast fl = flightLen fl + 9 := by simp only [flightLast, hop]
  obtain ⟨g, t, hcmd, hsteady, hside⟩ := arraySide_tileCycle_last seed h hlast (by omega)
  obtain ⟨-, hready, hretire⟩ := fields_of_steadySide hsteady
  have hf {α : Type} (r : ArraySide → α) : r (arraySide (tileCycle seed x).1) = r (arraySide { flightEnd g t with flight := [] }) :=
    congrArg r hside
  refine ⟨hf ArraySide.flight, (hf ArraySide.retire).trans ?_⟩
  simp only [arraySide, flightEnd, hcmd, hop, hready]
  cases f.bret && x.bat.ready <;> simp [hretire]

end

/-- Settles O23: while no stroke issues, the flight of a busy path ages by a cycle in each cycle until its path advances (`pathOf_cyclesUntil`; that
cycles pass so is log 15 and 20), and a command's last cycle leaves what its end does (`arraySide_tileCycle_last`). -/
theorem pathsGoOn : Obligations.PathsGoOn := by
  refine ⟨fun n p s hp hn hi hf hbusy hpend => ?_, fun n f l s hn hi hf hbusy hpend => ?_, fun n f l s hn hi hf hbusy hpend => ?_,
    fun n p s h => ignores_pendingStart_held h, fun _ _ _ => rfl, fun seed _ _ _ h hop hlast => wload_counted seed h hop hlast,
    fun seed _ _ _ h hop hlast => drain_retires seed h hop hlast⟩
  · obtain ⟨t, ht, hpath, hstate, hothers⟩ := answers_pendingStart (List.contains_iff_mem.mp hp) hn hi hf hbusy (by simp [hpend])
    exact ⟨t, ht, by rw [hpath, pathAdvanced, hpend], hstate, hothers⟩
  · obtain ⟨t, ht, hpath, -, hothers⟩ := answers_pendingStart (p := .weight) (by decide) hn hi hf hbusy
      fun c hc => .inl ⟨f, congrArg PathCmd.op (Option.some.inj (hc.symm.trans hpend))⟩
    exact ⟨t, ht, hpath.trans (congrArg (fun o : Option PathCmd => ({ run := o, pend := none } : Path)) hpend), hothers⟩
  · obtain ⟨t, ht, hpath, -, hothers⟩ := answers_pendingStart (p := .drain) (by decide) hn hi hf hbusy
      fun c hc => .inr ⟨f, congrArg PathCmd.op (Option.some.inj (hc.symm.trans hpend))⟩
    exact ⟨t, ht, hpath.trans (congrArg (fun o : Option PathCmd => ({ run := o, pend := none } : Path)) hpend), hothers⟩

end Sys2Proof.Machine
end

section
/-! PROOF. The request batcher (O24): appends, releases and retirement (R101 to R104, R124). -/
namespace Sys2Proof.Machine
open Sys2Proof

section
variable {x y : Tile} {s : State} {n q : Nat} {r : AppendRow} {rest : List AppendRow}

/-! ### Bytes written (R114, R121) -/

theorem mapSorted_putBits {o : WriteSet} (old : Nat → Byte) (bit w v : Nat) (h : mapSorted o = true) : mapSorted (putBits o old bit w v) = true :=
  List.foldlRecOn _ _ (motive := fun m : WriteSet => mapSorted m = true) h fun m hm _ _ => mapSorted_mapSet m _ _ hm

theorem mapSorted_bitBytes (old : Nat → Byte) (ws : List BitWrite) : mapSorted (bitBytes old ws) = true :=
  List.foldlRecOn ws _ (motive := fun m : WriteSet => mapSorted m = true) rfl fun _ hm _ _ => mapSorted_putBits old _ _ _ hm

/-- Bytes laid over a memory: each address reads the byte laid there, else what it held. -/
theorem byteAt_foldl_byteSet {o : WriteSet} (m : Bytes) (a : Nat) (h : mapSorted o = true) :
    byteAt (o.foldl (fun m p => byteSet m p.1 p.2) m) a = mapGet (byteAt m a) o a := by
  induction o generalizing m with
  | nil => rfl
  | cons p o ih =>
    obtain ⟨k, b⟩ := p
    obtain ⟨hlt, ho⟩ := mapSorted_cons.mp h
    rw [List.foldl_cons, ih _ ho]
    by_cases hk : k = a
    · subst hk
      have hnone : mapFind o k = none := by
        cases hf : mapFind o k with
        | none => rfl
        | some v => exact absurd (hlt _ (mem_of_mapFind hf)) (lt_irrefl k)
      simp [mapGet, mapFind, hnone]
    · simp [mapGet, mapFind, hk, byteAt_byteSet_ne m b (Ne.symm hk)]

/-- Without uncorrectable words every byte of a write lands. -/
theorem byteAt_spWrite (hue : x.num.ue = []) {o : WriteSet} (ho : mapSorted o = true) (a : Nat) :
    byteAt (spWrite x o).1.scratch a = mapGet (byteAt x.scratch a) o a := by
  rw [← byteAt_foldl_byteSet x.scratch a ho]
  simp [spWrite, hue]

theorem spWrite_refused (hue : x.num.ue = []) (o : WriteSet) : (spWrite x o).2 = [] := by simp [spWrite, hue]

theorem spWrite_eq (x : Tile) (o : WriteSet) :
    (spWrite x o).1 = { x with scratch := (spWrite x o).1.scratch, num := (spWrite x o).1.num, watch := (spWrite x o).1.watch } := rfl

theorem spWrite_nil (x : Tile) : (spWrite x []).1.scratch = x.scratch ∧ (spWrite x []).2 = [] := ⟨rfl, by simp [spWrite]⟩

/-! ### Appends (R101, R124) -/

/-- The append taken is one for the queue. -/
theorem takeAppend_q {l : List AppendRow} (h : takeAppend q l = some (r, rest)) : r.q = q := by
  induction l generalizing rest with
  | nil => cases h
  | cons a l ih =>
    unfold takeAppend at h
    split at h
    · rename_i ha
      cases h
      exact ha
    · cases hl : takeAppend q l with
      | none => simp [hl] at h
      | some e =>
        obtain ⟨b, rest'⟩ := e
        simp only [hl, Option.some.injEq, Prod.mk.injEq] at h
        obtain ⟨rfl, -⟩ := h
        exact ih hl

/-- The queue after a row has taken the slot at TAIL. -/
def slotTaken (b : BatchQ) : BatchQ := { b with tail := (b.tail + 1) % qCap b, fill := b.fill + 1, present := b.present ++ [b.tail] }

/-- The bits of a row at the slot at TAIL. -/
def slotBits (b : BatchQ) (ws : List BitWrite) : List BitWrite :=
  ws.map (fun w => { w with bit := 8 * (bitsOf b.cfg.toNat 13 0 * 64 + b.tail * (bitsOf b.cfg.toNat 37 28 * 64)) + w.bit })

theorem appendSlot_room (he : batQen x.bat r.q = true) (hroom : (mapGet {} x.bat.queues r.q).fill < qCap (mapGet {} x.bat.queues r.q)) :
    appendSlot x r = some ({ x with bat := { x.bat with queues := mapSet x.bat.queues r.q (slotTaken (mapGet {} x.bat.queues r.q)) } },
      slotBits (mapGet {} x.bat.queues r.q) r.ws) := by
  unfold appendSlot
  dsimp only
  rw [he, if_neg (by decide), if_neg (Nat.not_le.mpr hroom)]
  rfl

theorem appendSlot_disabled (he : batQen x.bat r.q = false) : appendSlot x r = some (x, []) := if_pos (by rw [he]; rfl)

theorem appendSlot_full (he : batQen x.bat r.q = true) (hfull : qCap (mapGet {} x.bat.queues r.q) ≤ (mapGet {} x.bat.queues r.q).fill) :
    appendSlot x r = none := by
  unfold appendSlot
  dsimp only
  rw [he, if_neg (by decide), if_pos hfull]

/-- The tile without the append taken. -/
def appendTaken (x : Tile) (rest : List AppendRow) : Tile := { x with bat := { x.bat with appends := rest } }

theorem exec_batchAppend_full (h : takeAppend q (tileAt s n).bat.appends = some (r, rest))
    (hslot : appendSlot (appendTaken (tileAt s n) rest) r = none) : exec (.batchAppend n q) s = .next s := by
  show execBatchAppend n q s = _
  unfold execBatchAppend
  simp only [h]
  unfold appendTaken at hslot
  simp only [hslot]

/-- An append that takes effect writes its bytes and counts its row where no word refuses them. -/
theorem exec_batchAppend (h : takeAppend q (tileAt s n).bat.appends = some (r, rest)) {ws : List BitWrite}
    (hslot : appendSlot (appendTaken (tileAt s n) rest) r = some (y, ws)) (hbad : (spWrite y (bitBytes (spByte y) ws)).2 = []) :
    exec (.batchAppend n q) s = .next (tileSet s n (rowLanded (spWrite y (bitBytes (spByte y) ws)).1 r.engine)) := by
  show execBatchAppend n q s = _
  unfold execBatchAppend
  simp only [h]
  unfold appendTaken at hslot
  simp only [hslot, hbad]
  rfl

theorem rowLanded_eq (x : Tile) (e : Nat) : rowLanded x e = { x with str := (rowLanded x e).str } := by
  unfold rowLanded
  split <;> rfl

/-- The stream unit whose row has landed counts it (R123, R124). -/
theorem rowsDone_rowLanded (x : Tile) {k : Nat} (hk : k < 8) : (strAt (rowLanded x (5 + k)) k).rowsDone = (strAt x k).rowsDone + 1 := by
  have hunit : (decide (5 ≤ 5 + k) && decide (5 + k < 13)) = true := by
    simp only [Bool.and_eq_true, decide_eq_true_eq]
    omega
  rw [rowLanded, if_pos hunit, Nat.add_sub_cancel_left, strAt, mapGet_mapSet_self]

theorem tileSet_tab (s : State) (n : Nat) (x : Tile) :
    (∀ m, tileKey s m ≠ tileKey s n → tileAt (tileSet s n x) m = tileAt s m) ∧
      tileSet s n x = { s with tl := { s.tl with tab := (tileSet s n x).tl.tab } } :=
  ⟨fun _ h => tileAt_tileSet_ne s x h, rfl⟩

/-- A command that replaces its tile alone. -/
theorem answers_tileSet {c : Instr} {P : State → Prop} (hexec : exec c s = .next (tileSet s n x))
    (h : ∀ t, tileAt t n = x → (∀ m, tileKey s m ≠ tileKey s n → tileAt t m = tileAt s m) ∧
      t = { s with tl := { s.tl with tab := t.tl.tab } } → P t) : Answers c s P :=
  ⟨_, hexec, h _ (tileAt_tileSet_self s n x) (tileSet_tab s n x)⟩

theorem answers_batchAppend (h : takeAppend q (tileAt s n).bat.appends = some (r, rest)) (he : batQen (tileAt s n).bat q = true)
    (hroom : (mapGet {} (tileAt s n).bat.queues q).fill < qCap (mapGet {} (tileAt s n).bat.queues q)) (hue : (tileAt s n).num.ue = []) :
    Answers (.batchAppend n q) s fun t =>
      mapGet {} (tileAt t n).bat.queues q = slotTaken (mapGet {} (tileAt s n).bat.queues q) ∧ (tileAt t n).bat.appends = rest ∧
      (∀ a, byteAt (tileAt t n).scratch a = mapGet (byteAt (tileAt s n).scratch a)
        (bitBytes (spByte (tileAt s n)) (slotBits (mapGet {} (tileAt s n).bat.queues q) r.ws)) a) ∧
      (∀ k, r.engine = 5 + k → k < 8 → (strAt (tileAt t n) k).rowsDone = (strAt (tileAt s n) k).rowsDone + 1) ∧
      (tileAt t n).regs = (tileAt s n).regs ∧ (tileAt t n).arr = (tileAt s n).arr := by
  have hq := takeAppend_q h
  subst hq
  have hslot := appendSlot_room (x := appendTaken (tileAt s n) rest) he hroom
  refine answers_tileSet (exec_batchAppend h hslot (spWrite_refused hue _)) fun t ht _ => ?_
  rw [ht, rowLanded_eq, spWrite_eq]
  refine ⟨mapGet_mapSet_self .., rfl, fun a => byteAt_spWrite hue (mapSorted_bitBytes ..) a, fun k hk hlt => ?_, rfl, rfl⟩
  rw [hk]
  exact rowsDone_rowLanded _ hlt

theorem answers_batchAppend_disabled (h : takeAppend q (tileAt s n).bat.appends = some (r, rest)) (he : batQen (tileAt s n).bat q = false) :
    Answers (.batchAppend n q) s fun t =>
      (tileAt t n).bat = { (tileAt s n).bat with appends := rest } ∧ (tileAt t n).scratch = (tileAt s n).scratch ∧
        (tileAt t n).regs = (tileAt s n).regs ∧ (tileAt t n).arr = (tileAt s n).arr ∧
        (∀ m, tileKey s m ≠ tileKey s n → tileAt t m = tileAt s m) ∧ t = { s with tl := { s.tl with tab := t.tl.tab } } := by
  have hq := takeAppend_q h
  subst hq
  have hslot := appendSlot_disabled (x := appendTaken (tileAt s n) rest) (r := r) he
  refine answers_tileSet (exec_batchAppend h hslot (spWrite_nil _).2) fun t ht hframe => ?_
  rw [ht, rowLanded_eq, spWrite_eq]
  exact ⟨rfl, (spWrite_nil _).1, rfl, rfl, hframe⟩

theorem ignores_batchAppend_full (h : takeAppend q (tileAt s n).bat.appends = some (r, rest)) (he : batQen (tileAt s n).bat q = true)
    (hfull : qCap (mapGet {} (tileAt s n).bat.queues q) ≤ (mapGet {} (tileAt s n).bat.queues q).fill) : Ignores (.batchAppend n q) s := by
  have hq := takeAppend_q h
  subst hq
  exact exec_batchAppend_full h (appendSlot_full (x := appendTaken (tileAt s n) rest) he hfull)

/-! ### Releases (R101, R102) -/

/-- One queue's turn in a round. -/
def takeTurn (first n : Nat) (a : Batcher × List (Nat × Nat)) (k : Nat) : Batcher × List (Nat × Nat) :=
  match (mapGet {} a.1.queues ((first + k) % 16)).present with
  | [] => a
  | p :: r =>
    if a.2.length ≥ n || !(batQen a.1 ((first + k) % 16)) then a
    else ({ a.1 with queues := mapSet a.1.queues ((first + k) % 16) { mapGet {} a.1.queues ((first + k) % 16) with present := r } },
      a.2 ++ [((first + k) % 16, p)])

theorem takeRound_eq (b : Batcher) (first n : Nat) (acc : List (Nat × Nat)) :
    takeRound b first n acc = (List.range 16).foldl (takeTurn first n) (b, acc) := by
  unfold takeRound takeTurn
  rfl

/-- Rows taken are at most as many as are wanted, and of the batcher the queues alone change. -/
def Takes (b : Batcher) (n : Nat) (a : Batcher × List (Nat × Nat)) : Prop := a.2.length ≤ n ∧ a.1 = { b with queues := a.1.queues }

theorem takes_takeTurn {b : Batcher} {first n : Nat} {a : Batcher × List (Nat × Nat)} (h : Takes b n a) (k : Nat) :
    Takes b n (takeTurn first n a k) := by
  unfold takeTurn
  split
  · exact h
  · split
    · exact h
    · rename_i hroom
      simp only [Bool.or_eq_true, decide_eq_true_eq, not_or, not_le] at hroom
      obtain ⟨-, hb⟩ := h
      refine ⟨by simpa using hroom.1, ?_⟩
      rw [hb]

theorem takes_takeRound {b : Batcher} {first n : Nat} {a : Batcher × List (Nat × Nat)} (h : Takes b n a) :
    Takes b n (takeRound a.1 first n a.2) := by
  rw [takeRound_eq]
  exact List.foldlRecOn _ _ (motive := Takes b n) h fun _ ha k _ => takes_takeTurn ha k

theorem takes_takeRounds (k : Nat) {b : Batcher} {first n : Nat} {a : Batcher × List (Nat × Nat)} (h : Takes b n a) :
    Takes b n (takeRounds k a.1 first n a.2) := by
  induction k generalizing a with
  | zero => exact h
  | succ k ih => exact ih (takes_takeRound h)

theorem release_spec (b : Batcher) (n : Nat) (dl : Bool) : (release b n dl).ready = true ∧ (release b n dl).dl = dl ∧
    (release b n dl).batch.length ≤ n ∧ (release b n dl).appends = b.appends := by
  have htakes : Takes b n (b, []) := ⟨Nat.zero_le n, rfl⟩
  unfold release
  have h := takes_takeRounds 32 (first := if b.started then (b.firstq + 1) % 16 else 0) htakes
  dsimp only at h
  generalize takeRounds 32 b _ n [] = a at h ⊢
  obtain ⟨hlen, hb⟩ := h
  have happ : a.1.appends = b.appends := by rw [hb]
  exact ⟨rfl, rfl, hlen, happ⟩

/-- A release, of at most k rows: of the tile its batcher and its count of releases differ. -/
theorem answers_release {c : Instr} {k : Nat} {dl : Bool} (hexec : exec c s = .next (tileSet s n (batRelease (tileAt s n) k dl))) :
    Answers c s fun t => (tileAt t n).bat.ready = true ∧ (tileAt t n).bat.dl = dl ∧ (tileAt t n).bat.batch.length ≤ k ∧
      (tileAt t n).arr.relCnt = satInc (tileAt s n).arr.relCnt ∧ (tileAt t n).bat.appends = (tileAt s n).bat.appends ∧ onlyBatcher s t n := by
  obtain ⟨hready, hdl, hlen, happ⟩ := release_spec (tileAt s n).bat k dl
  refine answers_tileSet hexec fun t ht hframe => ?_
  have honly : onlyBatcher s t n := ⟨by rw [ht]; rfl, hframe⟩
  rw [ht]
  exact ⟨hready, hdl, hlen, rfl, happ, honly⟩

theorem answers_batchRelease (hr : (tileAt s n).bat.ready = false) (he : batEn (tileAt s n).bat = true)
    (h : 32 ≤ batEnabledPresent (tileAt s n).bat) : Answers (.batchRelease n) s fun t =>
      (tileAt t n).bat.ready = true ∧ (tileAt t n).bat.dl = false ∧ (tileAt t n).bat.batch.length ≤ 32 ∧
        (tileAt t n).arr.relCnt = satInc (tileAt s n).arr.relCnt ∧ (tileAt t n).bat.appends = (tileAt s n).bat.appends ∧
        onlyBatcher s t n := by
  have hgo : ¬((tileAt s n).bat.ready || !(batEn (tileAt s n).bat) || decide (batEnabledPresent (tileAt s n).bat < 32)) = true := by
    simp [hr, he, h]
  exact answers_release (if_neg hgo)

theorem answers_batchDeadline (hr : (tileAt s n).bat.ready = false) (he : batEn (tileAt s n).bat = true) (hd : batDeadline (tileAt s n).bat ≠ 0)
    (h0 : 0 < batEnabledPresent (tileAt s n).bat) (h : batEnabledPresent (tileAt s n).bat < 32) : Answers (.batchDeadline n) s fun t =>
      (tileAt t n).bat.ready = true ∧ (tileAt t n).bat.dl = true ∧
        (tileAt t n).bat.batch.length ≤ batEnabledPresent (tileAt s n).bat ∧
        (tileAt t n).arr.relCnt = satInc (tileAt s n).arr.relCnt ∧ onlyBatcher s t n := by
  have hgo : ¬((tileAt s n).bat.ready || !(batEn (tileAt s n).bat) || decide (batDeadline (tileAt s n).bat = 0) ||
      decide (batEnabledPresent (tileAt s n).bat = 0) || decide (32 ≤ batEnabledPresent (tileAt s n).bat)) = true := by
    simp [hr, he, hd, h, h0.ne']
  obtain ⟨t, ht, hready, hdl, hlen, hcnt, -, honly⟩ := answers_release (c := .batchDeadline n) (dl := true) (if_neg hgo)
  exact ⟨t, ht, hready, hdl, hlen, hcnt, honly⟩

theorem ignores_release_of_ready (h : (tileAt s n).bat.ready = true) : Ignores (.batchRelease n) s ∧ Ignores (.batchDeadline n) s := by
  constructor
  · exact if_pos (by rw [h]; rfl)
  · exact if_pos (by rw [h]; rfl)

/-! ### Retirement (R103) -/

theorem mapGet_retire {b : Batcher} (h : ∀ e ∈ b.batch, e.1 ≠ q) : mapGet {} (retire b).queues q = mapGet {} b.queues q :=
  List.foldlRecOn b.batch _ (motive := fun m : Map BatchQ => mapGet {} m q = mapGet {} b.queues q) rfl
    fun _ hm e he => (mapGet_mapSet_ne _ _ _ (h e he).symm).trans hm

theorem answers_batchRetire (h : (tileAt s n).bat.retire = true) : Answers (.batchRetire n) s fun t =>
    (tileAt t n).bat.ready = false ∧ (tileAt t n).bat.batch = [] ∧ (tileAt t n).bat.retire = false ∧
      (∀ q, (∀ e ∈ (tileAt s n).bat.batch, e.1 ≠ q) →
        mapGet {} (tileAt t n).bat.queues q = mapGet {} (tileAt s n).bat.queues q) ∧ onlyBatcher s t n := by
  have hgo : ¬(!((tileAt s n).bat.retire)) = true := by simp [h]
  refine answers_tileSet (x := { tileAt s n with bat := retire (tileAt s n).bat }) (if_neg hgo) fun t ht hframe => ?_
  have honly : onlyBatcher s t n := ⟨by rw [ht], hframe⟩
  rw [ht]
  exact ⟨rfl, rfl, rfl, fun _ hq => mapGet_retire hq, honly⟩

end

/-- Settles O24: an append takes the slot at TAIL, is discarded or waits (`appendSlot_room`, `appendSlot_disabled`, `appendSlot_full`), a release takes
at most the rows wanted (`takes_takeRounds`), and retirement frees the slots of the batch (`retire`; COUNT and DL read 0 with it, log 128). -/
theorem requestBatcher : Obligations.RequestBatcher :=
  ⟨fun _ _ _ _ _ h he hroom hue => answers_batchAppend h he hroom hue, fun _ _ _ _ _ h he => answers_batchAppend_disabled h he,
    fun _ _ _ _ _ h he hfull => ignores_batchAppend_full h he hfull, fun _ _ hr he h => answers_batchRelease hr he h,
    fun _ _ hr he hd h0 h => answers_batchDeadline hr he hd h0 h, fun _ _ h => answers_batchRetire h,
    fun _ _ h => ignores_release_of_ready h⟩

end Sys2Proof.Machine
end

section
/-! PROOF. A vector operation as its slot issues (O21): dropped with a record, waiting in its pipe's pending register, or in flight. -/
namespace Sys2Proof.Machine
open Sys2Proof

section
variable {s t u : State} {n o : Nat} {op : PathOp} {f : VxOp}

/-! ### The checks of a latched command (R472) -/

/-- A latched command that passes every check with room on its path is taken by the path; any other is an error. -/
theorem issueLocal_latched {engine status ovr : Nat} {own : Option Nat} (hu : LatchedIn s n op u) (hown : own.isNone = ownClean s n op) :
    ((localClean s n op = false ∨ ownClean s n op = false ∨ pathFull (pathOf (tileAt s n) (pathBy op)) = true) ∧
      ∃ st source reg, issueLocal u n (pathBy op) (cmdOf s n op) (namedBy op) engine status own ovr =
        tileErr u n st source (cmdOf s n op).lat.pc reg) ∨
    ((localClean s n op = true ∧ ownClean s n op = true ∧ pathFull (pathOf (tileAt s n) (pathBy op)) = false) ∧
      issueLocal u n (pathBy op) (cmdOf s n op) (namedBy op) engine status own ovr = takeLocal u n (pathBy op) (cmdOf s n op)) := by
  have hclean : localClean s n op = ((firstBad (cmdOf s n op).lat (namedBy op) (descLocalOk (cmdOf s n op).lat)).isNone &&
    (firstAlias (cmdOf s n op).lat (namedBy op)).isNone) := rfl
  rw [hclean, ← hown, ← hu.path]
  obtain ⟨hwhy, herr⟩ | ⟨hbad, halias, hnone, hfull, htake⟩ := issueLocal_cases u n (pathBy op) (cmdOf s n op) (namedBy op)
    engine status own ovr
  · refine .inl ⟨?_, herr⟩
    obtain h | h | h | h := hwhy <;> simp [h]
  · exact .inr ⟨by simp [hbad, halias, hnone, hfull], htake⟩

/-! ### A vector operation begins (R167, R176, R178) -/

theorem monOpen_num (x : Tile) (l : Latched) (o : Nat) (f : VxOp) :
    monOpen x l o f = { x with mon := (monOpen x l o f).mon, num := (monOpen x l o f).num } := by
  unfold monOpen
  split <;> rfl

/-- Only an UPDW opens a monitor slot. -/
theorem monOpen_of_ne (x : Tile) (l : Latched) (f : VxOp) (h : o ≠ 0x41) : monOpen x l o f = x := if_pos (by simp [h])

theorem pathOf_mon (x : Tile) (mon : Map MonSlot) (p : PathId) : pathOf { x with mon := mon } p = pathOf x p := by cases p <;> rfl

theorem flightStart_mon (x : Tile) (p : PathId) (c : PathCmd) (seed tag split : Nat) (hw : HwErr) :
    (flightStart x p c seed tag split hw).mon = x.mon := by
  rw [flightStart_eq, pathPut_mon]

/-- A command that has begun may have opened a monitor slot as well. -/
theorem beginsOn_of_leaves {hw : HwErr} {mon : Map MonSlot} (hu : LatchedIn s n op u)
    (h : Leaves n s t { begun s n op hw (tileAt u n) with mon := mon }) (hmon : (∀ f, op ≠ .vector 0x41 f) → mon = (tileAt s n).mon) :
    beginsOn s t n op := by
  have hpath := (h.path (pathBy op)).trans ((pathOf_mon _ mon _).trans (pathOf_flightStart_self ..))
  obtain ⟨honly, ht⟩ := h
  have hm : (tileAt t n).mon = mon := by rw [ht]
  rw [begun, flightStart_eq, hu.path, hu.tile, pathPut_num] at ht
  refine ⟨by rw [hpath], ?_, ⟨?_, honly.othersKept⟩, fun hop => hm.trans (hmon hop)⟩
  · rw [ht]
    exact congrArg (· ++ _) (pathPut_flight _ _ _)
  · rw [hm]
    exact ht

/-- The effective issue of a vector operation with room for its rows begins it. -/
theorem beginsOn_vector (hu : LatchedIn s n (.vector o f) u) (hm : mayBegin s n (.vector o f) = true)
    (hrun : (pathOf (tileAt s n) (pipeOf f)).run = none) :
    beginsOn s (takeLocal u n (pipeOf f) (cmdOf s n (.vector o f))) n (.vector o f) := by
  have hroom : vxAppendRoom (tileAt u n) (latchedBy s n (.vector o f)) o f = true := by
    rw [hu.tile]
    exact hm
  have hbegin : pathBegin (seedOf s n) (pipeOf f) (cmdOf s n (.vector o f)) (tileAt u n) =
      (monOpen (begun s n (.vector o f) f.hw (tileAt u n)) (latchedBy s n (.vector o f)) o f,
        residueNotes f.hw 4 (latchedBy s n (.vector o f)).pc) := if_pos hroom
  have htake := takeLocal_idle hu hrun (cmdOf s n (.vector o f))
  refine beginsOn_of_leaves hu (hw := f.hw) (mon := (monOpen (begun s n (.vector o f) f.hw (tileAt u n)) (latchedBy s n (.vector o f)) o f).mon)
    ?_ fun hop => ?_
  · rw [show pathBy (.vector o f) = pipeOf f from rfl, hbegin] at htake
    rw [htake]
    exact Leaves.reports ⟨hu.leaves.1.trans (tileSet_onlyTile u n _), by rw [tileAt_tileSet_self]; exact monOpen_num ..⟩ (tileNotes_reports _ n _)
  · rw [monOpen_of_ne _ _ _ fun ho => hop f (by rw [ho]), begun, flightStart_mon, hu.tile]
    rfl

/-- R178: without room for its rows it is dropped at its effective issue (log 37). -/
theorem droppedBy_vector (hu : LatchedIn s n (.vector o f) u) (hm : mayBegin s n (.vector o f) = false)
    (hrun : (pathOf (tileAt s n) (pipeOf f)).run = none) :
    droppedBy s (takeLocal u n (pipeOf f) (cmdOf s n (.vector o f))) n [vxSlot f] := by
  have hroom : vxAppendRoom (tileAt u n) (latchedBy s n (.vector o f)) o f = false := by
    rw [hu.tile]
    exact hm
  have hbegin : pathBegin (seedOf s n) (pipeOf f) (cmdOf s n (.vector o f)) (tileAt u n) =
      (tileAt u n, [.fault stVector 6 (latchedBy s n (.vector o f)).pc]) := if_neg (by rw [cmdOf, hroom]; decide)
  have htake := takeLocal_idle hu hrun (cmdOf s n (.vector o f))
  rw [show pathBy (.vector o f) = pipeOf f from rfl, hbegin] at htake
  rw [htake]
  exact droppedBy_tileErr (u := tileSet u n (tileAt u n)) (hu.leaves.reports (tileSet_num_reports u n _)) _ _ _ _

/-! ### A vector operation in its slot (R145) -/

/-- The engine's own rules read of the tile its monitor slots alone (R177). -/
theorem vxOwn_congr {x y : Tile} (h : y.mon = x.mon) (l : Latched) (o : Nat) (f : VxOp) : vxOwn y l o f = vxOwn x l o f := by
  rw [vxOwn, vxOwn, vxMonOk, vxMonOk, h]

/-- The scalar operand is reported before the descriptors and origins are. -/
theorem latchedIn_vector (h : slotReady s n [vxSlot f] = true) : LatchedIn s n (.vector o f)
    (noteLatch (if vxScalar o then noteS (slotOpened s n [vxSlot f]) n [f.sreg] else slotOpened s n [vxSlot f]) n 4
      ((vxNamed o f).map Prod.fst) (vxXs o f)) := by
  refine LatchedIn.noteLatch ?_ _ _ _
  split
  · exact ⟨h, noteS_counts _ n _⟩
  · exact ⟨h, .refl n _⟩

/-- In its slot a vector operation is checked in the state that reports what it latches. -/
theorem vxIssue_ready (h : slotReady s n [vxSlot f] = true) : ∃ u, LatchedIn s n (.vector o f) u ∧ vxIssue n o f true s =
    .next (issueLocal u n (pipeOf f) (cmdOf s n (.vector o f)) (vxNamed o f) 4 stVector (vxOwn (tileAt u n) (latchedBy s n (.vector o f)) o f)
      (if f.pipe = 0 then 1 else 2)) := by
  have hlat : latch (slotOpened s n [vxSlot f]) n ((vxNamed o f).map Prod.fst) (vxXs o f) f.sreg = latchedBy s n (.vector o f) :=
    (latchedIn_slotOpened (op := .vector o f) h).latch_eq _ _ _
  refine ⟨_, latchedIn_vector h, ?_⟩
  rw [vxIssue, ← vxSlot, slotDo_ready h]
  dsimp only
  rw [hlat]
  rfl

theorem issuesLocal_vector {c : Instr} (hexec : exec c s = vxIssue n o f true s) : issuesLocal c n (.vector o f) s := by
  intro hready
  obtain ⟨u, hu, hissue⟩ := vxIssue_ready hready
  rw [← hexec] at hissue
  have hown : (vxOwn (tileAt u n) (latchedBy s n (.vector o f)) o f).isNone = ownClean s n (.vector o f) :=
    congrArg Option.isNone (vxOwn_congr (by rw [hu.tile]; rfl) _ o f)
  obtain ⟨hwhy, st, source, reg, herr⟩ | ⟨⟨hc, ho, hfull⟩, htake⟩ := issueLocal_latched (engine := 4) (status := stVector)
    (ovr := if f.pipe = 0 then 1 else 2) hu hown
  · refine ⟨fun hc ho _ hrun => ?_, fun hc ho _ hpend => ?_, fun _ => ⟨_, hissue.trans (congrArg _ herr), droppedBy_tileErr hu.leaves _ _ _ _⟩⟩
    · simp [hc, ho, pathFull, hrun] at hwhy
    · simp [hc, ho, pathFull, hpend] at hwhy
  · have hnext := hissue.trans (congrArg _ htake)
    refine ⟨fun _ _ hm hrun => ⟨_, hnext, beginsOn_vector hu hm hrun⟩, fun _ _ hrun _ => ⟨_, hnext, waitsOn_takeLocal hu hrun⟩, fun hwhy => ?_⟩
    obtain ⟨hrun, hm⟩ : (pathOf (tileAt s n) (pipeOf f)).run = none ∧ mayBegin s n (.vector o f) = false := by
      simpa [hc, ho, show pathFull (pathOf (tileAt s n) (pipeOf f)) = false from hfull, pathBy] using hwhy
    exact ⟨_, hnext, droppedBy_vector hu hm hrun⟩

/-- Table 7-1: every vector operation issues by its operation code. -/
theorem exec_vectorOps {e : (Nat → VxOp → Bool → Instr) × Nat} (h : e ∈ vectorOps) (n : Nat) (f : VxOp) (s : State) :
    exec (e.1 n f true) s = vxIssue n e.2 f true s := by
  have hall : ∀ e ∈ vectorOps, (fun n f s => exec (e.1 n f true) s) = fun n f s => vxIssue n e.2 f true s := List.map_inj_left.mp rfl
  exact congrFun (congrFun (congrFun (hall e h) n) f) s

end
end Sys2Proof.Machine
end

section
/-! PROOF. What a cycle of a tile leaves of its scratchpad, registers and stream units, and the block of a vector operation that it writes
(O21). -/
namespace Sys2Proof.Machine
open Sys2Proof

/-- The scratchpad, the registers and the stream units. -/
def scalarSide (x : Tile) : Bytes × Regs × Map StreamUnit := (x.scratch, x.regs, x.str)

section
variable {x y z : Tile} {seed : Nat} {fl : Flight} {k : CycleAcc}

/-! ### The turn of the paths (R91) -/

theorem scalarSide_pathPut {p : PathId} (v : Path) (hp : p ∈ localPaths) : scalarSide (pathPut x p v) = scalarSide x := by
  cases p with
  | unit k => simp [localPaths] at hp
  | _ => rfl

theorem scalarSide_flightStart {p : PathId} (hp : p ∈ localPaths) (c : PathCmd) (seed tag split : Nat) (hw : HwErr) :
    scalarSide (flightStart x p c seed tag split hw) = scalarSide x := by
  rw [flightStart_eq]
  exact scalarSide_pathPut _ hp

theorem scalarSide_monOpen (x : Tile) (l : Latched) (o : Nat) (f : VxOp) : scalarSide (monOpen x l o f) = scalarSide x := by
  rw [monOpen_num]
  rfl

theorem scalarSide_pathBegin {p : PathId} (hp : p ∈ localPaths) (seed : Nat) (c : PathCmd) (x : Tile) :
    scalarSide (pathBegin seed p c x).1 = scalarSide x := by
  unfold pathBegin
  split
  · exact scalarSide_flightStart hp ..
  · split
    · exact scalarSide_flightStart hp ..
    · rfl
  · exact scalarSide_flightStart hp ..
  · split
    · exact (scalarSide_monOpen ..).trans (scalarSide_flightStart hp ..)
    · rfl
  · rfl

theorem scalarSide_pathTurn {p : PathId} (hp : p ∈ localPaths) (seed : Nat) (a : Tile × List TileNote) :
    scalarSide (pathTurn seed p a).1 = scalarSide a.1 := by
  unfold pathTurn
  dsimp only
  split
  · split
    · exact scalarSide_pathPut _ hp
    · exact (scalarSide_pathBegin hp ..).trans (scalarSide_pathPut _ hp)
  · rfl

theorem scalarSide_pathsTurned (seed : Nat) (x : Tile) : scalarSide (pathsTurned seed x).1 = scalarSide x :=
  List.foldlRecOn localPaths _ (motive := fun a : Tile × List TileNote => scalarSide a.1 = scalarSide x) rfl
    (fun _ h _ hp => (scalarSide_pathTurn hp seed _).trans h)

/-! ### The commands in flight -/

theorem scalarSide_appendRow (rank : Nat) (k : CycleAcc) (r : AppendRow) : scalarSide (appendRow rank k r).tile = scalarSide k.tile := by
  unfold appendRow
  dsimp only
  split
  · rfl
  · split
    · rename_i hslot
      rw [appendSlot_tile hslot]
      rfl
    · rfl

theorem scalarSide_appendRows (rank : Nat) (rows : List AppendRow) (k : CycleAcc) :
    scalarSide (rows.foldl (appendRow rank) k).tile = scalarSide k.tile :=
  List.foldlRecOn rows _ (motive := fun c : CycleAcc => scalarSide c.tile = scalarSide k.tile) rfl (fun _ h _ _ => (scalarSide_appendRow ..).trans h)

theorem scalarSide_cellPut (bank a r : Nat) (cells : List (List FVal)) (scales : List Nat) (x : Tile) :
    scalarSide (cellPut bank a r cells scales x) = scalarSide x := by simp only [scalarSide, cellPut]

theorem scalarSide_stageDue (x z : Tile) (fl : Flight) (st : Stage) (k : CycleAcc) :
    scalarSide (stageDue x z fl st k).2.tile = scalarSide k.tile := by
  unfold stageDue
  split
  · exact scalarSide_cellPut ..
  · rfl
  · rfl
  · rfl
  · rfl
  · refine (scalarSide_appendRows ..).trans ?_
    dsimp only
    split <;> rfl
  · rfl

theorem scalarSide_flightEnter (x : Tile) (fl : Flight) (k : CycleAcc) : scalarSide (flightEnter x fl k).2.tile = scalarSide k.tile := by
  unfold flightEnter
  dsimp only
  (repeat' split) <;> rfl

theorem scalarSide_flightEnd (fl : Flight) (t : Tile) : scalarSide (flightEnd fl t) = scalarSide t := by
  unfold flightEnd monClose
  dsimp only
  (repeat' split) <;> rfl

theorem scalarSide_flightsRun (seed : Nat) (x : Tile) : scalarSide (flightsRun seed x).2.tile = scalarSide x := by
  have hflights := read_flights (read := scalarSide) (x := (pathsTurned seed x).1)
    (z := streamWrites (pathsTurned seed x).1.flight (pathsTurned seed x).1) (fls := (pathsTurned seed x).1.flight)
    (fun fl _ k => (scalarSide_flightEnter ..).trans (read_stagesRun fun st _ c => scalarSide_stageDue _ _ fl st c))
    scalarSide_flightEnd
  exact (hflights _).trans ((field_of_butAcc (butAcc_accWrites ..) scalarSide).trans (scalarSide_pathsTurned seed x))

/-! ### What reaches the scratchpad (R121) -/

/-- Only what a DRAIN or a vector operation delivers reaches the scratchpad. -/
theorem parts_stageDue (x z : Tile) (st : Stage) (k : CycleAcc) (h : ∀ ps rows, st ≠ .out ps rows) :
    (stageDue x z fl st k).2.parts = k.parts := by
  unfold stageDue
  split
  · rfl
  · rfl
  · rfl
  · rfl
  · rfl
  · rename_i ps rows
    exact absurd rfl (h ps rows)
  · rfl

theorem parts_flightEnter (x : Tile) (fl : Flight) (k : CycleAcc) : (flightEnter x fl k).2.parts = k.parts := by
  unfold flightEnter
  dsimp only
  (repeat' split) <;> rfl

theorem mem_dueStages {st : Stage} : st ∈ dueStages fl ↔ (fl.age, st) ∈ fl.stages := by
  simp [dueStages, List.mem_filter]

theorem out_not_due (h : writesScratch fl = false ∨ fl.Fresh) {st : Stage} (hst : st ∈ dueStages fl) (ps : List OutPart) (rows : List AppendRow) :
    st ≠ .out ps rows := by
  rintro rfl
  obtain h | h := h
  · have hmem := mem_dueStages.mp hst
    unfold writesScratch at h
    split at h
    · cases h
    · cases h
    · exact List.any_eq_false.mp h _ hmem rfl
  · rw [dueStages_fresh h] at hst
    cases hst

theorem parts_flightRun (h : writesScratch fl = false ∨ fl.Fresh) : (flightRun x z fl k).2.parts = k.parts :=
  (parts_flightEnter ..).trans (List.foldlRecOn _ _ (motive := fun b : List (Nat × Stage) × CycleAcc => b.2.parts = k.parts) rfl
    fun _ hb st hst => (parts_stageDue x z st _ (out_not_due h hst)).trans hb)

theorem parts_flights {fls : List Flight} (h : ∀ fl ∈ fls, writesScratch fl = false ∨ fl.Fresh) (a : List Flight × CycleAcc) :
    (fls.foldl (flightCycle x z) a).2.parts = a.2.parts :=
  List.foldlRecOn fls _ (motive := fun b : List Flight × CycleAcc => b.2.parts = a.2.parts) rfl fun b hb fl hfl => by
    rw [flightCycle_eq]
    split <;> exact (parts_flightRun (h fl hfl)).trans hb

theorem parts_flightsRun (seed : Nat) (h : x.flight.all (fun fl => !(writesScratch fl)) = true) : (flightsRun seed x).2.parts = [] := by
  obtain ⟨-, -, new, hflight, hfresh⟩ := turns_pathsTurned seed x
  refine parts_flights (fun fl hfl => ?_) _
  rw [hflight] at hfl
  exact (List.mem_append.mp hfl).imp (fun hold => by simpa using List.all_eq_true.mp h fl hold) (hfresh fl)

theorem partsPut_nil (x : Tile) : partsPut [] x = (x, []) := by simp [partsPut, partsMeet, List.range, List.range.loop]

/-- One writer meets no other. -/
theorem partsPut_single {p : OutPart} (h : p.rank < 5) (x : Tile) : (partsPut [p] x).1 = (spWrite x (bitBytes (spByte x) p.ws)).1 := by
  have hranks : (List.range 5).flatMap (fun r => [p].filter (fun q => q.rank = r)) = [p] := by
    generalize hr : p.rank = r at h
    interval_cases r <;> simp [List.range, List.range.loop, hr]
  have hmeet : partsMeet [p] = false := by simp [partsMeet]
  simp only [partsPut, hranks, hmeet, Bool.false_eq_true, if_false, List.foldl_cons, List.foldl_nil]

/-! ### The cycle -/

/-- The operations that fall due in this cycle. -/
def dueNow (x : Tile) : List DueOp := (x.plate.due.filter (fun e => e.left ≤ 1)).map Due.op

/-- The plate with its operations due a cycle nearer. -/
def plateNearer (p : Plate) : Plate := { p with due := (p.due.filter (fun e => 1 < e.left)).map (fun e => { e with left := e.left - 1 }) }

/-- The tile once the scratchpad has taken the writes of the cycle. -/
def cycleWritten (seed : Nat) (x : Tile) : Tile :=
  (partsPut ((dueNow x).filterMap sstPart ++ (flightsRun seed x).2.parts)
    { (flightsRun seed x).2.tile with flight := (flightsRun seed x).1, plate := plateNearer x.plate }).1

theorem tileCycle_eq (seed : Nat) (x : Tile) : (tileCycle seed x).1 =
    (((dueNow x).filter dueWrites ++ (dueNow x).filter dueReads).foldl
      (fun (a : Tile × List SramWord) o => ((landOp a.1 o).1, a.2 ++ (landOp a.1 o).2)) (cycleWritten seed x, [])).1 := by
  rw [cycleWritten, dueNow, ← pathsTurned_plate seed x]
  rfl

theorem plateNearer_of_no_due {p : Plate} (h : p.due = []) : plateNearer p = p := by
  cases p
  cases h
  rfl

theorem tileCycle_of_no_due (seed : Nat) (h : x.plate.due = []) : (tileCycle seed x).1 =
    (partsPut (flightsRun seed x).2.parts { (flightsRun seed x).2.tile with flight := (flightsRun seed x).1, plate := x.plate }).1 := by
  have hnow : dueNow x = [] := by simp [dueNow, h]
  rw [tileCycle_eq, cycleWritten, hnow, plateNearer_of_no_due h]
  rfl

/-- Of what the scalar unit has due only an SST writes the scratchpad. -/
theorem scratch_landOp (t : Tile) {op : DueOp} (h : (dueWrites op || dueReads op) = true) : (landOp t op).1.scratch = t.scratch := by
  cases op with
  | sst a v => cases h
  | sreg i v =>
    simp only [landOp, sregPut]
    split <;> rfl
  | cfg off v =>
    simp only [landOp, cfgWrite]
    (repeat' split) <;> rfl
  | _ => rfl

theorem scratch_tileCycle (seed : Nat) (h : x.flight.all (fun fl => !(writesScratch fl)) = true) (hs : noSst x = true) :
    (tileCycle seed x).1.scratch = x.scratch := by
  have hsst : (dueNow x).filterMap sstPart = [] := by
    refine List.filterMap_eq_nil_iff.mpr fun op hop => ?_
    obtain ⟨e, he, rfl⟩ := List.mem_map.mp hop
    have := List.all_eq_true.mp hs e (List.mem_filter.mp he).1
    cases hop : e.op <;> simp [hop, sstPart] at this ⊢
  have hwritten : (cycleWritten seed x).scratch = x.scratch := by
    rw [cycleWritten, hsst, parts_flightsRun seed h, List.append_nil, partsPut_nil]
    exact congrArg Prod.fst (scalarSide_flightsRun seed x)
  rw [tileCycle_eq]
  refine List.foldlRecOn _ _ (motive := fun a : Tile × List SramWord => a.1.scratch = x.scratch) hwritten fun a ha op hop => ?_
  refine (scratch_landOp a.1 ?_).trans ha
  obtain hop | hop := List.mem_append.mp hop <;> simp [(List.mem_filter.mp hop).2]

theorem regs_str_partsPut (ps : List OutPart) (x : Tile) : ((partsPut ps x).1.regs, (partsPut ps x).1.str) = (x.regs, x.str) := by
  unfold partsPut
  refine List.foldlRecOn _ _ (motive := fun a : Tile × List TileNote => (a.1.regs, a.1.str) = (x.regs, x.str)) ?_ (fun _ h _ _ => h)
  dsimp only
  split <;> rfl

/-- With nothing due the cycle leaves the scalar unit and the stream units alone. -/
theorem scalar_tileCycle (seed : Nat) (h : x.plate.due = []) :
    (tileCycle seed x).1.regs = x.regs ∧ (tileCycle seed x).1.str = x.str ∧ (tileCycle seed x).1.plate = x.plate := by
  have hside : ((flightsRun seed x).2.tile.regs, (flightsRun seed x).2.tile.str) = (x.regs, x.str) :=
    congrArg Prod.snd (scalarSide_flightsRun seed x)
  obtain ⟨hregs, hstr⟩ := Prod.mk.inj hside
  obtain ⟨hregs', hstr'⟩ := Prod.mk.inj (regs_str_partsPut (flightsRun seed x).2.parts
    { (flightsRun seed x).2.tile with flight := (flightsRun seed x).1, plate := x.plate })
  rw [tileCycle_of_no_due seed h]
  exact ⟨hregs'.trans hregs, hstr'.trans hstr, partsPut_plate ..⟩

/-! ### A block of a vector operation (R167) -/

/-- A block is counted at its pipe, with its elements that are out of bounds. -/
def blockCounted (p : PathId) (oob : Nat) (t : Tile) : Tile :=
  let t1 := { t with oobCnt := satAdd t.oobCnt oob }
  match p with
  | .pipe1 => { t1 with blk1 := satInc t1.blk1 }
  | _ => { t1 with blk0 := satInc t1.blk0 }

theorem stageDue_out {o : Nat} {f : VxOp} (hop : fl.cmd.op = .vector o f) (x z : Tile) (part : OutPart) (k : CycleAcc) :
    (stageDue x z fl (.out [part] []) k).2.tile = blockCounted fl.path (part.oob) k.tile ∧
      (stageDue x z fl (.out [part] []) k).2.parts = k.parts ++ [part] := by
  simp only [stageDue, hop, blockCounted, List.foldl_cons, List.foldl_nil, Nat.zero_add, and_true]
  cases fl.path <;> rfl

theorem tile_flightEnter_vector {o : Nat} {f : VxOp} (hop : fl.cmd.op = .vector o f) (x : Tile) (k : CycleAcc) :
    (flightEnter x fl k).2.tile = k.tile := by
  unfold flightEnter
  rw [hop]
  dsimp only
  split <;> rfl

/-- The end of a vector operation leaves the tile but for its monitor slots. -/
theorem flightEnd_vector {o : Nat} {f : VxOp} (hop : fl.cmd.op = .vector o f) (t : Tile) :
    flightEnd fl t = { t with mon := (flightEnd fl t).mon } := by
  unfold flightEnd monClose
  rw [hop]
  dsimp only
  (repeat' split) <;> rfl

/-- A cycle with one vector operation in flight that delivers a block: the block is counted, and its bits are all that is written. -/
theorem flightsRun_block (seed : Nat) {o : Nat} {f : VxOp} {part : OutPart} (h : x.flight = [fl]) (hop : fl.cmd.op = .vector o f)
    (hlen : fl.age ≠ flightLen fl) (hst : fl.stages = [(fl.age, .out [part] [])]) :
    (∃ mon, (flightsRun seed x).2.tile = { blockCounted fl.path (part.oob) x with mon := mon }) ∧ (flightsRun seed x).2.parts = [part] := by
  have hturn : pathsTurned seed x = (x, []) := pathsTurned_of_not_ending seed fun g hg => by
    rw [h, List.mem_singleton] at hg
    rwa [hg]
  have hacc : streamWrites x.flight (drainClears x.flight x) = x := accWrites_of_not_writesAcc (fun g hg => by
    rw [h, List.mem_singleton] at hg
    rw [hg, writesAcc, hop]) x
  have hrun : flightsRun seed x = flightCycle x (streamWrites x.flight x) ([], { tile := x }) fl := by
    rw [flightsRun, hturn, hacc]
    dsimp only
    rw [h, List.foldl_cons, List.foldl_nil]
  obtain ⟨htile, hparts⟩ : (stagesRun x (streamWrites x.flight x) fl { tile := x }).2.tile = blockCounted fl.path (part.oob) x ∧
      (stagesRun x (streamWrites x.flight x) fl { tile := x }).2.parts = [part] := by
    rw [stagesRun, dueStages_single hst]
    exact stageDue_out hop x (streamWrites x.flight x) part { tile := x }
  have htile' : (flightRun x (streamWrites x.flight x) fl { tile := x }).2.tile = blockCounted fl.path (part.oob) x :=
    (tile_flightEnter_vector (by exact hop) ..).trans htile
  have hparts' : (flightRun x (streamWrites x.flight x) fl { tile := x }).2.parts = [part] := (parts_flightEnter ..).trans hparts
  rw [hrun, flightCycle_eq]
  split
  · have hcmd := (congrArg PathCmd.op (cmd_flightRun x (streamWrites x.flight x) fl { tile := x })).trans hop
    exact ⟨⟨_, (flightEnd_vector hcmd _).trans (by rw [htile'])⟩, hparts'⟩
  · exact ⟨⟨_, htile'⟩, hparts'⟩

theorem spByte_congr (hs : y.scratch = x.scratch) (hu : y.num.ue = x.num.ue) : spByte y = spByte x := by
  funext a
  rw [spByte, spByte, hs, hu]

/-- The bits of the one writer of a cycle land at their bytes. -/
theorem byteAt_partsPut_single {p : OutPart} (hr : p.rank < 5) (hs : y.scratch = x.scratch) (hu : y.num.ue = x.num.ue) (hue : x.num.ue = [])
    (a : Nat) : byteAt (partsPut [p] y).1.scratch a = mapGet (byteAt x.scratch a) (bitBytes (spByte x) p.ws) a := by
  rw [partsPut_single hr, byteAt_spWrite (hu.trans hue) (mapSorted_bitBytes _ _), spByte_congr hs hu, hs]

theorem blockCounted_kept (p : PathId) (oob : Nat) (t : Tile) :
    (blockCounted p oob t).scratch = t.scratch ∧ (blockCounted p oob t).num = t.num := by
  cases p <;> exact ⟨rfl, rfl⟩

theorem blockCounted_pipe1 (oob : Nat) (t : Tile) :
    (blockCounted .pipe1 oob t).blk1 = satInc t.blk1 ∧ (blockCounted .pipe1 oob t).blk0 = t.blk0 := ⟨rfl, rfl⟩

theorem blockCounted_of_ne {p : PathId} (h : p ≠ .pipe1) (oob : Nat) (t : Tile) :
    (blockCounted p oob t).blk0 = satInc t.blk0 ∧ (blockCounted p oob t).blk1 = t.blk1 := by
  cases p with
  | pipe1 => exact absurd rfl h
  | _ => exact ⟨rfl, rfl⟩

theorem block_tileCycle (seed : Nat) {o : Nat} {f : VxOp} {part : OutPart} (h : x.flight = [fl]) (hdue : x.plate.due = []) (hue : x.num.ue = [])
    (hop : fl.cmd.op = .vector o f) (hlen : fl.age ≠ flightLen fl) (hst : fl.stages = [(fl.age, .out [part] [])]) (hr : part.rank < 5) :
    (∀ a, byteAt (tileCycle seed x).1.scratch a = mapGet (byteAt x.scratch a) (bitBytes (spByte x) part.ws) a) ∧
      (tileCycle seed x).1.blk0 = (blockCounted fl.path (part.oob) x).blk0 ∧
      (tileCycle seed x).1.blk1 = (blockCounted fl.path (part.oob) x).blk1 := by
  obtain ⟨⟨mon, htile⟩, hparts⟩ := flightsRun_block seed h hop hlen hst
  obtain ⟨hscratch, hnum⟩ := blockCounted_kept fl.path (part.oob) x
  rw [tileCycle_of_no_due seed hdue, hparts, htile]
  refine ⟨byteAt_partsPut_single hr hscratch (congrArg NumRegs.ue hnum) hue, ?_⟩
  rw [partsPut_single hr]
  exact ⟨rfl, rfl⟩

end

/-- Settles O21: a vector operation is checked in the state that its slot opens and is dropped, waits or begins (`issuesLocal_vector`); a cycle's
writes to the scratchpad are what its stages deliver and the SST due (`tileCycle_eq`, `parts_flightsRun`), a block's bits among them
(`block_tileCycle`). That an append without room for its rows is dropped at its effective issue is the model's choice (log 37). -/
theorem vectorCommands : Obligations.VectorCommands := by
  refine ⟨fun e he n f s => issuesLocal_vector (exec_vectorOps he n f s), fun seed _ h hs => scratch_tileCycle seed h hs,
    fun seed _ h => scalar_tileCycle seed h, fun seed x fl o f part h hdue hue hop hlen hst hr => ?_⟩
  obtain ⟨hbytes, hblk0, hblk1⟩ := block_tileCycle seed h hdue hue hop hlen hst hr
  refine ⟨hbytes, fun hp => ?_, fun hp => ?_⟩
  · rw [hblk0, hblk1, hp]
    exact blockCounted_pipe1 ..
  · rw [hblk0, hblk1]
    exact blockCounted_of_ne hp ..

end Sys2Proof.Machine
end

section
/-! PROOF. What an access of device memory leaves (O22). `stored` reads the tiles, the slots they stand on and the bytes of memory; what a
read does at controllers, pseudo-channels and rings keeps it, which a simp lemma under the function's name says (`_stored`). A write keeps
all of it but the bytes. -/
namespace Sys2Proof.Machine
open Sys2Proof

/-- The tiles, the slots that the pages name, and the bytes of device memory. -/
def stored (s : State) : Map Tile × Map Nat × Bytes := (s.tl.tab, s.un.phys, s.mm.bytes)

section
variable {s t : State} {α β : Type}

@[simp] theorem stored_ite {c : Prop} {_ : Decidable c} {a b : State} :
    stored (if c then a else b) = if c then stored a else stored b := by split <;> rfl

@[simp] theorem stored_iteFst {c : Prop} {_ : Decidable c} {a b : State × β} :
    stored (if c then a else b).1 = if c then stored a.1 else stored b.1 := by split <;> rfl

@[simp] theorem stored_foldl {f : State → α → State} {l : List α} (hf : ∀ s a, stored (f s a) = stored s) :
    stored (l.foldl f s) = stored s :=
  List.foldlRecOn l f (motive := fun t => stored t = stored s) rfl (fun _ k _ _ => (hf _ _).trans k)

@[simp] theorem stored_mk {hw un tl rg mm ks fw fb pw mt mi pn free pending} :
    stored ⟨hw, un, tl, rg, mm, ks, fw, fb, pw, mt, mi, pn, free, pending⟩ = (tl.tab, un.phys, mm.bytes) := by simp only [stored]

@[simp] theorem stored_eta : (s.tl.tab, s.un.phys, s.mm.bytes) = stored s := by simp only [stored]

theorem EvtFrame.stored_eq (h : EvtFrame s t) : stored t = stored s := by
  obtain ⟨_, _, _, rfl⟩ := h
  rfl

/-! ### Events of units and rings -/

@[simp] theorem unitEvt_stored {u : UnitId} {bits : Nat} : stored (unitEvt s u bits) = stored s := (unitEvt_frame s u bits).stored_eq

@[simp] theorem errLog_stored {u : UnitId} {status source lo hi : Nat} {ctx : Option Nat} :
    stored (errLog s u status source lo hi ctx) = stored s := (errLog_frame s u status source lo hi ctx).stored_eq

@[simp] theorem setUState_stored {u : UnitId} {st : UState} : stored (setUState s u st) = stored s := (setUState_frame s u st).stored_eq

@[simp] theorem queueSet_stored {c : CmdRef} {q : Queue} : stored (queueSet s c q) = stored s := rfl

@[simp] theorem ctxSet_stored {c : Nat} {x : Ctx} : stored (ctxSet s c x) = stored s := rfl

@[simp] theorem finishJob_stored {c : CmdRef} {j : Job} {status result detail : Nat} :
    stored (finishJob s c j status result detail) = stored s := by
  obtain h | ⟨_, _, _, _, _, h⟩ := finishJob_cases s c j status result detail <;> rw [h]
  rfl

@[simp] theorem ringDrain_stored {n c claimed : Nat} {r : Ring} : stored (ringDrain n s c claimed r).1 = stored s := by
  induction n generalizing s r with
  | zero => rfl
  | succ k ih =>
    rw [ringDrain]
    split
    · rfl
    · rw [stored_iteFst, ih]
      exact ite_self _

@[simp] theorem msiIf_stored {r : Ring} {f : Nat} {wrote : Bool} : stored (msiIf s r f wrote) = stored s := by
  unfold msiIf
  split <;> rfl

@[simp] theorem postAdmin_stored {port : Nat} {e : Event} : stored (postAdmin s port e) = stored s := by
  unfold postAdmin
  dsimp only
  split
  · rfl
  · simp [ringPost]

@[simp] theorem postCtx_stored {c : Nat} {e : Event} : stored (postCtx s c e) = stored s := by
  unfold postCtx
  split
  · rfl
  · simp [ringPost]

@[simp] theorem postNamed_stored {c : Nat} {e : Event} : stored (postNamed s c e) = stored s := by simp [postNamed]

@[simp] theorem postDevice_stored {e : Event} : stored (postDevice s e) = stored s := by simp [postDevice]

/-! ### Controllers and pseudo-channels (R271 to R278, R305) -/

@[simp] theorem pcSet_stored {k : Nat} {x : PcSt} : stored (pcSet s k x) = stored s := rfl

@[simp] theorem mcSet_stored {m : Nat} {x : Mc} : stored (mcSet s m x) = stored s := rfl

@[simp] theorem frameSet_stored {fk : Nat} {x : Frame} : stored (frameSet s fk x) = stored s := rfl

@[simp] theorem frameFree_stored {fk : Nat} : stored (frameFree s fk) = stored s := rfl

@[simp] theorem lineSet_stored {lk : Nat} {x : LineSt} : stored (lineSet s lk x) = stored s := rfl

@[simp] theorem slotSet_stored {k : Nat} {x : Slot} : stored (slotSet s k x) = stored s := rfl

@[simp] theorem secAlarm_stored {lk kslot : Nat} {ctx : Option Nat} {corrected pt md quiet : Bool} :
    stored (secAlarm s lk kslot ctx corrected pt md quiet) = stored s := by
  unfold secAlarm
  extract_lets fk ln m m1 pend m2 s1 pl e
  have hbytes : m1.bytes = s.mm.bytes := by
    simp only [m1]
    split <;> rfl
  have hs1 : stored s1 = stored s := unitEvt_stored.trans (congrArg (fun b => (s.tl.tab, s.un.phys, b)) hbytes)
  split
  · exact hs1
  · split <;> simp [hs1]

@[simp] theorem lineUncorr_stored {lk : Nat} : stored (lineUncorr s lk) = stored s := by simp [lineUncorr]

@[simp] theorem postReserveLow_stored {tier cause : Nat} : stored (postReserveLow s tier cause) = stored s := by simp [postReserveLow]

@[simp] theorem checkReserve_stored {old : State} {tier : Nat} : stored (checkReserve old s tier) = stored s := by simp [checkReserve]

@[simp] theorem postPc_stored {k st : Nat} : stored (postPc s k st) = stored s := by simp [postPc]

@[simp] theorem mcRetired_stored {m : Nat} : stored (mcRetired s m) = stored s := by simp [mcRetired]

@[simp] theorem frameLost_stored {fk : Nat} {f : Frame} : stored (frameLost s fk f) = stored s := by
  unfold frameLost
  split <;> simp

@[simp] theorem pcRetire_stored {k : Nat} : stored (pcRetire s k) = stored s := by simp [pcRetire]

@[simp] theorem migNext_stored {k : Nat} : stored (migNext s k) = stored s := by
  unfold migNext
  dsimp only
  (repeat' split) <;> simp

@[simp] theorem pcEvacuate_stored {k : Nat} : stored (pcEvacuate s k) = stored s := by simp [pcEvacuate]

@[simp] theorem pcDegrade_stored {k : Nat} : stored (pcDegrade s k) = stored s := by simp [pcDegrade]

@[simp] theorem laneCount_stored {k lane syms : Nat} : stored (laneCount s k lane syms) = stored s := by simp [laneCount]

@[simp] theorem remapStart_stored {k row : Nat} : stored (remapStart s k row) = stored s := by simp [remapStart]

@[simp] theorem lineRepair_stored {lk : Nat} {e : LineEv} : stored (lineRepair s lk e) = stored s := by
  unfold lineRepair
  split <;> simp

@[simp] theorem farFail_stored {blk cause : Nat} : stored (farFail s blk cause) = stored s := by
  unfold farFail
  split <;> simp

/-! ### Lines -/

/-- Decoding and verifying a line, with what they record (R293). -/
@[simp] theorem lineFetch_stored {lk : Nat} {b : Bind} {ctx : Option Nat} {pt : Bool} {e : LineEv} :
    stored (lineFetch s lk b ctx pt e).1 = stored s := by
  unfold lineFetch
  extract_lets fk x s1 corrected
  have hs1 : stored s1 = stored s := lineUncorr_stored.trans lineSet_stored
  split
  · rfl
  · split
    · exact farFail_stored.trans secAlarm_stored
    · split
      · exact farFail_stored
      · split
        · dsimp only
          split
          · exact pcRetire_stored.trans hs1
          · exact hs1
        · split
          · dsimp only
            split
            · exact secAlarm_stored.trans lineSet_stored
            · exact secAlarm_stored
          · dsimp only
            split
            · exact lineRepair_stored
            · rfl

@[simp] theorem reqNote_stored {src : Option Nat} {fk : Nat} {e : LineEv} : stored (reqNote s src fk e) = stored s := by
  unfold reqNote
  dsimp only
  (repeat' split) <;> simp

/-- The state of an answer that is named otherwise. -/
theorem stored_fst {p r : State × β} (h : stored p.1 = stored s) (e : r = p) : stored r.1 = stored s := e ▸ h

/-- A read of a line, whatever it meets there. -/
@[simp] theorem ctxReadLine_stored {src : Option Nat} {ctx a n : Nat} {ev : List LineEv} :
    stored (ctxReadLine s src ctx a n ev).1 = stored s := by
  unfold ctxReadLine
  split
  · rfl
  · extract_lets k lk s1 r
    have hs1 : stored s1 = stored s := reqNote_stored
    have hr : stored r.1 = stored s1 := stored_fst lineFetch_stored rfl
    clear_value r s1
    obtain ⟨s2, st⟩ := r
    have hs2 : stored s2 = stored s := hr.trans hs1
    split
    · exact hs1
    · split
      · exact hs2
      · exact hs2

/-- What a far write does to its counters (R298, R299). -/
@[simp] theorem farBump_stored {lk : Nat} {b : Bind} : stored (farBump s lk b).1 = stored s := by
  have hdirty : ∀ (s : State) fk lk, stored (farDirty s fk lk) = stored s := fun s fk lk => by
    unfold farDirty
    dsimp only
    (repeat' split) <;> simp
  simp [farBump, hdirty, keyExhaust, pageReencrypt]

/-- The tiles, with the slots they stand on. -/
def seated (s : State) : Map Tile × Map Nat := (s.tl.tab, s.un.phys)

theorem seated_of_stored (h : stored t = stored s) : seated t = seated s :=
  congrArg (fun r : Map Tile × Map Nat × Bytes => (r.1, r.2.1)) h

theorem tileAt_of_seated (h : seated t = seated s) (n : Nat) : tileAt t n = tileAt s n := by
  obtain ⟨htab, hphys⟩ := Prod.mk.inj h
  simp only [tileAt, tileKey, physAt, htab, hphys]

theorem tileAt_of_stored (h : stored t = stored s) (n : Nat) : tileAt t n = tileAt s n := tileAt_of_seated (seated_of_stored h) n

theorem seated_fst {p r : State × β} (h : seated p.1 = seated s) (e : r = p) : seated r.1 = seated s := e ▸ h

theorem seated_iteFst {c : Prop} [Decidable c] {a b : State × β} (ha : seated a.1 = seated s) (hb : seated b.1 = seated s) :
    seated (if c then a else b).1 = seated s := by split <;> assumption

/-- The last of three stages answers, or the first that fails. -/
theorem seated_stages {r c : State × Nat} {w : State} (hr : seated r.1 = seated s) (hc : seated c.1 = seated s) (hw : seated w = seated s) :
    seated (if r.2 ≠ stOk then r else if c.2 ≠ stOk then c else (w, stOk)).1 = seated s :=
  seated_iteFst hr (seated_iteFst hc hw)

theorem seated_lineBytes (s : State) (lk : Nat) (bs : List (Nat × Byte)) : seated (lineBytes s lk bs) = seated s := rfl

theorem seated_lineWritten (s : State) (lk : Nat) (b : Bind) : seated (lineWritten s lk b) = seated s := rfl

theorem seated_cacheDrop (s : State) (lk : Nat) : seated (cacheDrop s lk) = seated s := rfl

/-- A line write changes bytes of memory and no tile (R295). -/
theorem seated_lineWrite (s : State) (lk : Nat) (b : Bind) (bs : List (Nat × Byte)) (e : LineEv) (rmw : Bool) :
    seated (lineWrite s lk b bs e rmw).1 = seated s := by
  have hready : seated (lineReady s lk b bs e rmw).1 = seated s := by
    rw [lineReady]
    exact seated_iteFst (a := (s, stOk)) rfl (seated_of_stored lineFetch_stored)
  have hcounted : seated (lineCounted (lineReady s lk b bs e rmw).1 lk b).1 = seated s := by
    rw [lineCounted]
    exact seated_iteFst ((seated_of_stored farBump_stored).trans hready) (b := (_, stOk)) hready
  have hwritten := (((seated_lineWritten _ lk b).trans (seated_cacheDrop _ lk)).trans (seated_lineBytes _ lk bs)).trans hcounted
  unfold lineWrite
  split
  · rfl
  · split
    · rfl
    · exact seated_stages hready hcounted hwritten

theorem seated_ctxWriteLine (s : State) (src : Option Nat) (ctx : Nat) (bs : List (Nat × Byte)) (ev : List LineEv) (rmw : Bool) :
    seated (ctxWriteLine s src ctx bs ev rmw).1 = seated s := by
  unfold ctxWriteLine
  split
  · rfl
  · split
    · rfl
    · extract_lets k lk e s1 put
      have hs1 : seated s1 = seated s := seated_of_stored reqNote_stored
      have hput : seated put.1 = seated s1 := seated_fst (seated_lineWrite s1 _ _ _ _ _) rfl
      clear_value put s1
      obtain ⟨s2, st⟩ := put
      have hs2 : seated s2 = seated s := hput.trans hs1
      split
      · dsimp only
        split
        · exact hs2
        · exact hs1
      · exact hs2

theorem seated_ctxWrite (s : State) (src : Option Nat) (ctx : Nat) (bs : List (Nat × Byte)) (ev : List LineEv) (rmw : Bool) :
    seated (ctxWrite s src ctx bs ev rmw).s = seated s :=
  List.foldlRecOn _ _ (motive := fun r : MemRes => seated r.s = seated s) rfl fun _ h _ _ => (seated_ctxWriteLine ..).trans h

end
end Sys2Proof.Machine
end

section
/-! PROOF. What a stream unit's command leaves of its tile as it begins (O22): a read of the source leaves the tile but for its check registers
and every byte of memory; the effect of a MOVE leaves the stream units, the registers, the arrays and the commands in flight. -/
namespace Sys2Proof.Machine
open Sys2Proof

section
variable {s t u : State} {n : Nat} {x : Tile}

/-! ### Reads of the source (R128 to R130) -/

/-- Lines have been read: the tile but for its check registers, and the bytes of memory, are as before. -/
structure Fetches (n : Nat) (s t : State) : Prop where
  tile : tileAt t n = { tileAt s n with num := (tileAt t n).num }
  bytes : t.mm.bytes = s.mm.bytes

theorem Fetches.refl (n : Nat) (s : State) : Fetches n s s := ⟨rfl, rfl⟩

theorem Fetches.trans (h : Fetches n s t) (k : Fetches n t u) : Fetches n s u := ⟨by rw [k.tile, h.tile], k.bytes.trans h.bytes⟩

theorem Fetches.of_stored (h : stored t = stored s) : Fetches n s t :=
  ⟨by rw [tileAt_of_stored h], congrArg (fun r : Map Tile × Map Nat × Bytes => r.2.2) h⟩

theorem TileFrame.bytes_eq (h : TileFrame s t) : t.mm.bytes = s.mm.bytes := by
  obtain ⟨_, _, _, _, _, rfl⟩ := h
  rfl

theorem Reports.fetches (h : Reports n s t) : Fetches n s t := ⟨h.leaves.2, h.leaves.1.frame.bytes_eq⟩

theorem cacheSet_fetches (s : State) (n c : Nat) (x : CCache) : Fetches n s (cacheSet s c x) := .of_stored rfl

theorem ctxReadLine_fetches (s : State) (n : Nat) (src : Option Nat) (ctx a k : Nat) (ev : List LineEv) :
    Fetches n s (ctxReadLine s src ctx a k ev).1 := .of_stored ctxReadLine_stored

/-- The state of an answer that is named otherwise. -/
theorem Fetches.fst {β : Type} {p r : State × β} (h : Fetches n s p.1) (e : r = p) : Fetches n s r.1 := e ▸ h

theorem fetchLine_fetches (s : State) (n engine cpol : Nat) (ev : List LineEv) (a : Nat) : Fetches n s (fetchLine s n engine cpol ev a).1 := by
  unfold fetchLine
  extract_lets ctx c ways x dva r
  have hread : Fetches n s r.1 := .fst (ctxReadLine_fetches s n _ _ _ _ _) rfl
  clear_value r
  split
  · split
    · exact (cacheSet_fetches s n _ _).trans (Reports.foldl (fun s w => tileSramUe_reports s n engine (8 * w)) _ _).fetches
    · split
      · exact hread.trans (cacheSet_fetches ..)
      · exact (hread.trans (cacheSet_fetches ..)).trans (tileErr_reports ..).fetches
  · exact hread.trans (tileErr_reports ..).fetches

theorem fillAhead_fetches (s : State) (n cpol : Nat) (ev : List LineEv) (a : Nat) : Fetches n s (fillAhead s n cpol ev a) := by
  unfold fillAhead
  extract_lets ctx r
  have hread : Fetches n s r.1 := .fst (ctxReadLine_fetches s n _ _ _ _ _) rfl
  clear_value r
  split
  · split
    · exact .refl n s
    · split
      · exact hread.trans (cacheSet_fetches ..)
      · exact .refl n s
  · exact .refl n s

theorem fetchAhead_fetches {own : State → Nat → State × List Byte} (hown : ∀ s a, Fetches n s (own s a).1) (cpol reach : Nat)
    (ev : List LineEv) (l : List (Nat × Nat)) (done : Nat) (r : State × Fetched) :
    Fetches n r.1 (fetchAhead own n cpol reach ev l done r).1 := by
  induction l generalizing done r with
  | nil => exact .refl n _
  | cons e rest ih =>
    obtain ⟨a, w⟩ := e
    rw [fetchAhead]
    refine Fetches.trans ?_ (ih _ _)
    refine (hown r.1 a).trans (List.foldlRecOn _ _ (motive := Fetches n (own r.1 a).1) (.refl n _) fun s hs b _ => hs.trans ?_)
    split
    · exact .refl n s
    · exact fillAhead_fetches ..

theorem startPrefetch_fetches (s : State) (n : Nat) (l : Latched) (f : MoveOp) : Fetches n s (startPrefetch s n l f) := by
  unfold startPrefetch
  extract_lets src own
  have hown : ∀ s a, Fetches n s (own s a).1 := fun s a => by
    dsimp only [own]
    split
    · split
      · exact cacheSet_fetches ..
      · exact fetchLine_fetches ..
    · exact fetchLine_fetches ..
  split
  · exact .refl n s
  · exact fetchAhead_fetches hown _ _ _ _ _ (s, [])

/-! ### The effect of a MOVE (Table 5-3) -/

/-- The stream units, the registers, the arrays and the commands in flight. -/
def unitSide (x : Tile) : Map StreamUnit × Regs × Arrays × List Flight := (x.str, x.regs, x.arr, x.flight)

theorem unitSide_of_num {y : Tile} {num : NumRegs} (h : y = { x with num := num }) : unitSide y = unitSide x := by rw [h]; rfl

theorem unitSide_fetches (h : Fetches n s t) : unitSide (tileAt t n) = unitSide (tileAt s n) := unitSide_of_num h.tile

theorem unitSide_reports (h : Reports n s t) : unitSide (tileAt t n) = unitSide (tileAt s n) := unitSide_fetches h.fetches

theorem unitSide_spWrite (x : Tile) (o : WriteSet) : unitSide (spWrite x o).1 = unitSide x := by rw [spWrite_eq]; rfl

theorem unitSide_fxApply (s : State) (n source : Nat) (x : Tile) (evs : List FlagEv) (bad : List Nat) :
    unitSide (tileAt (fxApply s n source x evs bad) n) = unitSide x := by
  have h := (tileFlags_reports (tileSet s n x) n evs).trans
    (Reports.foldl (fun s w => tileSramUe_reports s n source (8 * w)) bad _)
  exact (unitSide_reports h).trans (by rw [tileAt_tileSet_self])

theorem unitSide_ite {c : Prop} [Decidable c] {a b : State} (ha : unitSide (tileAt a n) = unitSide x) (hb : unitSide (tileAt b n) = unitSide x) :
    unitSide (tileAt (if c then a else b) n) = unitSide x := by split <;> assumption

theorem unitSide_startMove (s : State) (n : Nat) (l : Latched) (f : MoveOp) :
    unitSide (tileAt (startMove s n l f) n) = unitSide (tileAt s n) := by
  unfold startMove
  extract_lets eng src _ _ s0 _ _ s0' _ _ x _
  have hsram : Fetches n s s0 := ⟨by simp only [s0, tileSram, tileAt_tileSet_self]; exact sramHw_eq _ _, rfl⟩
  have hs0 : Fetches n s s0' := by
    dsimp only [s0']
    split
    · exact hsram
    · exact hsram.trans (cacheSet_fetches ..)
  split
  · exact unitSide_fetches hs0
  · extract_lets _ r _ s1 x1 _ _ _ _ _ _ w _ _ v _ s2 m
    have hr : Fetches n s0' r.1 := .fst (fetchAhead_fetches (fun s a => fetchLine_fetches s n eng src.cpol f.ev a) _ _ _ _ _ (s0', [])) rfl
    have hx1 : unitSide x1 = unitSide (tileAt s n) := unitSide_fetches ((hs0.trans hr).trans (tileReadUe_reports ..).fetches)
    have hs2 : unitSide (tileAt s2 n) = unitSide x1 := (unitSide_reports (tileFlags_reports _ n _)).trans (by rw [tileAt_tileSet_self]; rfl)
    have hm : tileAt m.s n = tileAt s2 n := tileAt_of_seated (seated_ctxWrite ..) n
    have hw : unitSide w.1 = unitSide x1 := unitSide_spWrite ..
    have hv : unitSide v.1 = unitSide x1 := unitSide_spWrite ..
    clear_value w v
    rw [← hx1]
    refine unitSide_ite ((unitSide_fxApply ..).trans hw) (unitSide_ite ((unitSide_fxApply ..).trans hv) ?_)
    exact (unitSide_reports (Reports.foldl (fun s e => tileErr_reports s n _ _ _ _) _ _)).trans (hm ▸ hs2)

end
end Sys2Proof.Machine
end

section
/-! PROOF. A MOVE or PREFETCH as its slot issues, and the end of a stream unit's command (O22): dropped with a record, waiting in the unit's
pending register, or begun (R122, R123). -/
namespace Sys2Proof.Machine
open Sys2Proof

section
variable {s t u : State} {n k : Nat} {c : PathCmd} {op : PathOp} {f : MoveOp}

/-! ### A unit begins a command (R122) -/

/-- ROWS_DONE as a command begins (R123). -/
def rowsBegun (c : PathCmd) : Nat :=
  match c.op with
  | .move f => if (latDesc c.lat f.tdD).append then 0 else cmdRows c
  | _ => 0

/-- The unit with the command running. -/
def unitBegun (c : PathCmd) (w : StreamUnit) : StreamUnit := { w with rowsDone := rowsBegun c, path := { w.path with run := some c } }

/-- The unit with one more command issued. -/
def unitIssued (w : StreamUnit) : StreamUnit := { w with issuedN := w.issuedN + 1 }

theorem strAt_unitTiming (x : Tile) (k : Nat) (g : StreamUnit → StreamUnit) : strAt (unitTiming x k g) k = g (strAt x k) :=
  mapGet_mapSet_self ..

/-- The tile as a command begins: its stream unit alone has changed. -/
def tileBegun (x : Tile) (k : Nat) (c : PathCmd) : Tile :=
  unitTiming (pathPut x (.unit k) { pathOf x (.unit k) with run := some c }) k (fun w => { w with rowsDone := rowsBegun c })

theorem strAt_tileBegun (x : Tile) (k : Nat) (c : PathCmd) : strAt (tileBegun x k c) k = unitBegun c (strAt x k) := by
  rw [tileBegun, strAt_unitTiming, show strAt (pathPut x (.unit k) _) k = _ from mapGet_mapSet_self ..]
  rfl

theorem beginUnit_eq (s : State) (n k : Nat) (c : PathCmd) : beginUnit s n k c = tileSet s n (tileBegun (tileAt s n) k c) := rfl

theorem unitSide_beginCmd (hop : c.op = .move f) (s : State) (n k : Nat) :
    unitSide (tileAt (beginCmd s n k c) n) = unitSide (tileBegun (tileAt s n) k c) := by
  have hbegin : beginCmd s n k c = startMove (beginUnit s n k c) n c.lat f := by rw [beginCmd, hop]
  rw [hbegin, unitSide_startMove, beginUnit_eq, tileAt_tileSet_self]

theorem beginCmd_fetches (hop : c.op = .prefetch f) (s : State) (n k : Nat) : Fetches n (beginUnit s n k c) (beginCmd s n k c) := by
  have hbegin : beginCmd s n k c = startPrefetch (beginUnit s n k c) n c.lat f := by rw [beginCmd, hop]
  rw [hbegin]
  exact startPrefetch_fetches ..

theorem strAt_of_unitSide {x y : Tile} (h : unitSide y = unitSide x) (k : Nat) : strAt y k = strAt x k :=
  congrArg (fun r : Map StreamUnit × Regs × Arrays × List Flight => mapGet ({} : StreamUnit) r.1 k) h

/-! ### A command in its slot (R136, R472) -/

/-- A unit with room takes the command: it begins at once, or waits behind the running one. -/
def unitTakes (s : State) (n k : Nat) (c : PathCmd) : State :=
  let s2 := tileSet s n (unitTiming (tileAt s n) k unitIssued)
  if (pathOf (tileAt s n) (.unit k)).run.isNone then beginCmd s2 n k c
  else tileSet s2 n (pathPut (tileAt s2 n) (.unit k) { pathOf (tileAt s n) (.unit k) with pend := some c })

/-- A command that breaks a rule or finds its unit full is answered with an error; else its unit takes it. -/
theorem issueStream_cases (s : State) (n : Nat) (f : MoveOp) (op : PathOp) (named : List (Nat × Bool)) (xs : List Nat)
    (al own : Latched → Option Nat) {l : Latched} (hl : latch s n (named.map Prod.fst) xs 0 = l) {v : State}
    (hv : noteLatch s n (5 + f.unit % 8) (named.map Prod.fst) xs = v) :
    (((moveRefusal l named (al l) (own l)).isNone = false ∨ pathFull (pathOf (tileAt v n) (.unit (f.unit % 8))) = true) ∧
      ∃ st source reg, issueStream s n f op named xs al own = tileErr v n st source l.pc reg) ∨
    ((moveRefusal l named (al l) (own l)).isNone = true ∧ pathFull (pathOf (tileAt v n) (.unit (f.unit % 8))) = false ∧
      issueStream s n f op named xs al own = unitTakes v n (f.unit % 8) { op := op, lat := l }) := by
  subst hl hv
  unfold issueStream
  dsimp only
  cases hr : moveRefusal (latch s n (named.map Prod.fst) xs 0) named (al (latch s n (named.map Prod.fst) xs 0))
      (own (latch s n (named.map Prod.fst) xs 0)) with
  | some r => exact .inl ⟨.inl rfl, _, _, _, rfl⟩
  | none =>
    dsimp only
    split
    · rename_i hfull
      exact .inl ⟨.inr hfull, _, _, _, rfl⟩
    · rename_i hfull
      exact .inr ⟨rfl, Bool.eq_false_iff.mpr hfull, rfl⟩

/-- What a stream command's slot makes of it, from the state in which it is checked. -/
def StreamIssued (i : Instr) (s : State) (n k : Nat) (op : PathOp) : Prop :=
  ∃ u, LatchedIn s n op u ∧
    (((streamClean s n op = false ∨ pathFull (strAt (tileAt s n) k).path = true) ∧
        ∃ st source reg, exec i s = .next (tileErr u n st source (latchedBy s n op).pc reg)) ∨
      (streamClean s n op = true ∧ pathFull (strAt (tileAt s n) k).path = false ∧ exec i s = .next (unitTakes u n k (cmdOf s n op))))

theorem streamIssued_of {i : Instr} {xs : List Nat} {al own : Latched → Option Nat} (h : slotReady s n (slotsBy op) = true) (hk : f.unit < 8)
    (hexec : exec i s = .next (slotDo s n (slotsBy op) true (fun r => issueStream r n f op (namedBy op) xs al own)))
    (hlat : latch s n ((namedBy op).map Prod.fst) xs 0 = latchedBy s n op)
    (hclean : streamClean s n op = (moveRefusal (latchedBy s n op) (namedBy op) (al (latchedBy s n op)) (own (latchedBy s n op))).isNone) :
    StreamIssued i s n f.unit op := by
  have hu := latchedIn_slotOpened h
  have hv := hu.noteLatch (5 + f.unit % 8) ((namedBy op).map Prod.fst) xs
  have hpath := hv.path (.unit f.unit)
  have hcases := issueStream_cases (slotOpened s n (slotsBy op)) n f op (namedBy op) xs al own ((hu.latch_eq _ _ _).trans hlat) rfl
  rw [Nat.mod_eq_of_lt hk] at hcases hv hpath
  rw [slotDo_ready h] at hexec
  rw [← hclean, hpath] at hcases
  refine ⟨_, hv, ?_⟩
  obtain ⟨hwhy, st, source, reg, herr⟩ | ⟨hc, hfull, htake⟩ := hcases
  · exact .inl ⟨hwhy, st, source, reg, hexec.trans (congrArg _ herr)⟩
  · exact .inr ⟨hc, hfull, hexec.trans (congrArg _ htake)⟩

theorem unit_mod_eight (h : f.unit < 8) : { f with unit := f.unit % 8 } = f := by rw [Nat.mod_eq_of_lt h]

theorem streamIssued_move (h : slotReady s n [slLda, slLdb, slXf] = true) (hk : f.unit < 8) :
    StreamIssued (.move n f true) s n f.unit (.move f) := by
  refine streamIssued_of (xs := [f.xS, f.xD, f.xW]) (al := fun l => moveAlias l f) (own := fun l => moveOwn l f) h hk ?_ rfl rfl
  show execMove n f true s = _
  rw [execMove, unit_mod_eight hk]
  rfl

theorem streamIssued_prefetch (h : slotReady s n [slLda, slLdb, slXf] = true) (hk : f.unit < 8) :
    StreamIssued (.prefetch n f true) s n f.unit (.prefetch f) := by
  refine streamIssued_of (xs := [f.xS, f.xW]) (al := fun _ => none)
    (own := fun l => if (latDesc l f.tdS).space = 1 then none else some f.tdS) h hk ?_ rfl rfl
  show execPrefetch n f true s = _
  rw [execPrefetch, unit_mod_eight hk]
  rfl

/-! ### What becomes of the command -/

theorem droppedBy_streamIssued {i : Instr} (h : StreamIssued i s n k op)
    (hwhy : streamClean s n op = false ∨ pathFull (strAt (tileAt s n) k).path = true) : Answers i s fun t => droppedBy s t n (slotsBy op) := by
  obtain ⟨u, hu, ⟨-, st, source, reg, hexec⟩ | ⟨hc, hfull, -⟩⟩ := h
  · exact ⟨_, hexec, droppedBy_tileErr hu.leaves _ _ _ _⟩
  · simp [hc, hfull] at hwhy

theorem unitTakes_of_streamIssued {i : Instr} (h : StreamIssued i s n k op) (hc : streamClean s n op = true)
    (hfull : pathFull (strAt (tileAt s n) k).path = false) :
    ∃ u, LatchedIn s n op u ∧ exec i s = .next (unitTakes u n k (cmdOf s n op)) := by
  obtain ⟨u, hu, ⟨hwhy, -⟩ | ⟨-, -, hexec⟩⟩ := h
  · simp [hc, hfull] at hwhy
  · exact ⟨u, hu, hexec⟩

theorem LatchedIn.strAt (h : LatchedIn s n op u) (k : Nat) : strAt (tileAt u n) k = strAt (tileAt s n) k := by
  rw [h.tile]
  rfl

/-- The command waits behind the unit's running one. -/
theorem answers_waits {i : Instr} (h : StreamIssued i s n k op) (hc : streamClean s n op = true)
    (hrun : (strAt (tileAt s n) k).path.run.isSome = true) (hpend : (strAt (tileAt s n) k).path.pend = none) : Answers i s fun t =>
      strAt (tileAt t n) k = { strAt (tileAt s n) k with
        issuedN := (strAt (tileAt s n) k).issuedN + 1,
        path := { (strAt (tileAt s n) k).path with pend := some (cmdOf s n op) } } ∧ othersKept s t n := by
  obtain ⟨u, hu, hexec⟩ := unitTakes_of_streamIssued h hc (by simp [pathFull, hpend])
  have hbusy : (pathOf (tileAt u n) (.unit k)).run.isNone = false := by
    rw [hu.path, show pathOf (tileAt s n) (.unit k) = (strAt (tileAt s n) k).path from rfl]
    simpa using hrun
  have htake : unitTakes u n k (cmdOf s n op) = tileSet (tileSet u n (unitTiming (tileAt u n) k unitIssued)) n
      (pathPut (unitTiming (tileAt u n) k unitIssued) (.unit k) { pathOf (tileAt u n) (.unit k) with pend := some (cmdOf s n op) }) := by
    rw [unitTakes, hbusy, tileAt_tileSet_self]
    rfl
  refine ⟨_, hexec.trans (congrArg _ htake), ?_, ?_⟩
  · rw [tileAt_tileSet_self, hu.path]
    refine (mapGet_mapSet_self ..).trans ?_
    rw [strAt_unitTiming, hu.strAt]
    rfl
  · exact ((hu.leaves.1.trans (tileSet_onlyTile u n _)).trans (tileSet_onlyTile _ n _)).othersKept

/-- An idle unit begins the command. -/
theorem begins_of_streamIssued {i : Instr} (h : StreamIssued i s n k op) (hc : streamClean s n op = true)
    (hrun : (strAt (tileAt s n) k).path.run = none) :
    ∃ u, LatchedIn s n op u ∧
      exec i s = .next (beginCmd (tileSet u n (unitTiming (tileAt u n) k unitIssued)) n k (cmdOf s n op)) := by
  obtain ⟨u, hu, hexec⟩ := unitTakes_of_streamIssued h hc (by simp [pathFull, hrun])
  have hidle : (pathOf (tileAt u n) (.unit k)).run.isNone = true := by
    rw [hu.path]
    exact congrArg Option.isNone hrun
  refine ⟨u, hu, hexec.trans (congrArg _ ?_)⟩
  rw [unitTakes, hidle]
  rfl

theorem strAt_begun (h : LatchedIn s n op u) (k : Nat) (c : PathCmd) :
    strAt (tileBegun (unitTiming (tileAt u n) k unitIssued) k c) k = unitBegun c (unitIssued (strAt (tileAt s n) k)) := by
  rw [strAt_tileBegun, strAt_unitTiming, h.strAt]

theorem answers_move_begins (h : slotReady s n [slLda, slLdb, slXf] = true) (hk : f.unit < 8) (hc : streamClean s n (.move f) = true)
    (hrun : (strAt (tileAt s n) f.unit).path.run = none) : Answers (.move n f true) s fun t =>
      strAt (tileAt t n) f.unit = unitBegun (cmdOf s n (.move f)) (unitIssued (strAt (tileAt s n) f.unit)) ∧
        (tileAt t n).regs = (tileAt s n).regs ∧ (tileAt t n).arr = (tileAt s n).arr ∧ (tileAt t n).flight = (tileAt s n).flight := by
  obtain ⟨u, hu, hexec⟩ := begins_of_streamIssued (streamIssued_move h hk) hc hrun
  have hside := unitSide_beginCmd (c := cmdOf s n (.move f)) rfl (tileSet u n (unitTiming (tileAt u n) f.unit unitIssued)) n f.unit
  rw [tileAt_tileSet_self] at hside
  have hrest : (tileAt u n).regs = (tileAt s n).regs ∧ (tileAt u n).arr = (tileAt s n).arr ∧ (tileAt u n).flight = (tileAt s n).flight := by
    rw [hu.tile]
    exact ⟨rfl, rfl, rfl⟩
  have hf {α : Type} (g : Map StreamUnit × Regs × Arrays × List Flight → α) := congrArg g hside
  exact ⟨_, hexec, (strAt_of_unitSide hside _).trans (strAt_begun hu ..), (hf fun r => r.2.1).trans hrest.1,
    (hf fun r => r.2.2.1).trans hrest.2.1, (hf fun r => r.2.2.2).trans hrest.2.2⟩

theorem answers_prefetch_begins (h : slotReady s n [slLda, slLdb, slXf] = true) (hk : f.unit < 8) (hc : streamClean s n (.prefetch f) = true)
    (hrun : (strAt (tileAt s n) f.unit).path.run = none) : Answers (.prefetch n f true) s fun t =>
      strAt (tileAt t n) f.unit = unitBegun (cmdOf s n (.prefetch f)) (unitIssued (strAt (tileAt s n) f.unit)) ∧
        (tileAt t n).scratch = (tileAt s n).scratch ∧ (tileAt t n).regs = (tileAt s n).regs ∧ t.mm.bytes = s.mm.bytes := by
  obtain ⟨u, hu, hexec⟩ := begins_of_streamIssued (streamIssued_prefetch h hk) hc hrun
  have hfetch := beginCmd_fetches (c := cmdOf s n (.prefetch f)) rfl (tileSet u n (unitTiming (tileAt u n) f.unit unitIssued)) n f.unit
  have htile := hfetch.tile
  rw [beginUnit_eq, tileAt_tileSet_self, tileAt_tileSet_self] at htile
  have hrest : (tileAt u n).scratch = (tileAt s n).scratch ∧ (tileAt u n).regs = (tileAt s n).regs := by
    rw [hu.tile]
    exact ⟨rfl, rfl⟩
  refine ⟨_, hexec, ?_, ?_, ?_, hfetch.bytes.trans hu.leaves.1.frame.bytes_eq⟩
  · rw [htile]
    exact strAt_begun hu ..
  · rw [htile]
    exact hrest.1
  · rw [htile]
    exact hrest.2

/-! ### The end of a command (R123) -/

/-- The unit once the last row of its running command has landed. -/
def unitDone (c : PathCmd) (w : StreamUnit) : StreamUnit :=
  { w with rowsDone := cmdRows c, cmdsDone := w.cmdsDone + 1, doneN := w.doneN + 1, path := { w.path with run := none } }

theorem exec_streamCmdDone (hn : n < 512) (hk : k < 8) (ha : appendsWait (tileAt s n) (5 + k) = false)
    (hrun : (strAt (tileAt s n) k).path.run = some c) :
    exec (.streamCmdDone n k) s = .next (startPending (tileSet s n (unitTiming (tileAt s n) k (unitDone c))) n k) := by
  show execStreamCmdDone n k s = _
  have hgo : ¬(decide (n ≥ 512) || decide (k ≥ 8) || appendsWait (tileAt s n) (5 + k)) = true := by simp [hn, hk, ha]
  rw [execStreamCmdDone, if_neg hgo, hrun]
  rfl

theorem startPending_none (h : (strAt (tileAt s n) k).path.pend = none) : startPending s n k = s := by
  have h' : (pathOf (tileAt s n) (.unit k)).pend = none := h
  rw [startPending, h']

theorem startPending_some (h : (strAt (tileAt s n) k).path.pend = some c) :
    startPending s n k = beginCmd (tileSet s n (pathPut (tileAt s n) (.unit k) {})) n k c := by
  have h' : (pathOf (tileAt s n) (.unit k)).pend = some c := h
  rw [startPending, h']

theorem answers_done_idle (hn : n < 512) (hk : k < 8) (ha : appendsWait (tileAt s n) (5 + k) = false)
    (hrun : (strAt (tileAt s n) k).path.run = some c) (hpend : (strAt (tileAt s n) k).path.pend = none) :
    Answers (.streamCmdDone n k) s fun t =>
      strAt (tileAt t n) k = { strAt (tileAt s n) k with
        rowsDone := cmdRows c, cmdsDone := (strAt (tileAt s n) k).cmdsDone + 1, doneN := (strAt (tileAt s n) k).doneN + 1,
        path := {} } ∧
      tileAt t n = { tileAt s n with str := (tileAt t n).str } ∧
      (∀ m, tileKey s m ≠ tileKey s n → tileAt t m = tileAt s m) ∧ t = { s with tl := { s.tl with tab := t.tl.tab } } := by
  have hnone : startPending (tileSet s n (unitTiming (tileAt s n) k (unitDone c))) n k =
      tileSet s n (unitTiming (tileAt s n) k (unitDone c)) := startPending_none (by
    rw [tileAt_tileSet_self, strAt_unitTiming]
    exact hpend)
  refine answers_tileSet ((exec_streamCmdDone hn hk ha hrun).trans (congrArg _ hnone)) fun t ht hframe => ⟨?_, ?_, hframe⟩
  · have hfree : ({ (strAt (tileAt s n) k).path with run := none } : Path) = {} := congrArg (fun p => ({ run := none, pend := p } : Path)) hpend
    rw [ht, strAt_unitTiming, unitDone, hfree]
  · rw [ht]
    rfl

theorem answers_done_next {l : Latched} (hn : n < 512) (hk : k < 8) (ha : appendsWait (tileAt s n) (5 + k) = false)
    (hrun : (strAt (tileAt s n) k).path.run = some c) (hpend : (strAt (tileAt s n) k).path.pend = some { op := .move f, lat := l }) :
    Answers (.streamCmdDone n k) s fun t =>
      (strAt (tileAt t n) k).path = { run := some { op := .move f, lat := l }, pend := none } ∧
        (strAt (tileAt t n) k).cmdsDone = (strAt (tileAt s n) k).cmdsDone + 1 ∧ (tileAt t n).regs = (tileAt s n).regs := by
  have hsome := startPending_some (s := tileSet s n (unitTiming (tileAt s n) k (unitDone c))) (n := n) (k := k)
    (c := { op := .move f, lat := l }) (by
      rw [tileAt_tileSet_self, strAt_unitTiming]
      exact hpend)
  have hside := unitSide_beginCmd (f := f) (c := { op := .move f, lat := l }) rfl
    (tileSet (tileSet s n (unitTiming (tileAt s n) k (unitDone c))) n (pathPut (unitTiming (tileAt s n) k (unitDone c)) (.unit k) {})) n k
  rw [tileAt_tileSet_self] at hside hsome
  have hstr := strAt_of_unitSide hside k
  rw [strAt_tileBegun, show strAt (pathPut (unitTiming (tileAt s n) k (unitDone c)) (.unit k) {}) k = _ from mapGet_mapSet_self ..,
    strAt_unitTiming] at hstr
  refine ⟨_, (exec_streamCmdDone hn hk ha hrun).trans (congrArg _ hsome), ?_, ?_, congrArg (fun r => r.2.1) hside⟩
  · rw [hstr]
    rfl
  · rw [hstr]
    rfl

end

/-- Settles O22: a stream command is checked in the state that its slot opens (`streamIssued_of`), and what a unit begins leaves the tile's stream
units and registers as its start has set them, whatever it meets in memory (`unitSide_startMove`, `startPrefetch_fetches`). That all rows of a
command land with its effect and STREAM_CMD_DONE stands for the landing of the last is the model's choice (log 1). -/
theorem streamCommands : Obligations.StreamCommands := by
  refine ⟨fun n f s h hk hc hrun => ?_, fun n f s h hk hc hrun => ?_, fun n f s h hk hc hrun hpend => answers_waits (streamIssued_move h hk) hc hrun hpend,
    fun n f s h hk hwhy => droppedBy_streamIssued (streamIssued_move h hk) hwhy,
    fun n f s h hk hwhy => droppedBy_streamIssued (streamIssued_prefetch h hk) hwhy,
    fun n k c s hn hk ha hrun hpend => answers_done_idle hn hk ha hrun hpend,
    fun n k c f l s hn hk ha hrun hpend => answers_done_next hn hk ha hrun hpend⟩
  · obtain ⟨t, ht, hstr, hrest⟩ := answers_move_begins h hk hc hrun
    exact ⟨t, ht, by rw [hstr]; rfl, by rw [hstr]; rfl, by rw [hstr]; rfl, hrest⟩
  · obtain ⟨t, ht, hstr, hrest⟩ := answers_prefetch_begins h hk hc hrun
    exact ⟨t, ht, by rw [hstr]; rfl, by rw [hstr]; rfl, hrest⟩

end Sys2Proof.Machine
end
